-- ==== Sys2Proof/Word.lean ====
section
/-! DEFINITION. The word types of the module: bytes, 32- and 64-bit words, core IDs. -/

namespace Sys2Proof

/-- One byte of memory or of a structure. -/
abbrev Byte := BitVec 8

/-- A 32-bit word: an x register of a core sequencer, an instruction word, an FP32 value. -/
abbrev Word32 := BitVec 32

/-- A 64-bit word: a module register, a wrapping counter. -/
abbrev Word64 := BitVec 64

/-- A 13-bit core ID: die [12:10], cluster [9:6], core [5:0] ("Numbers, units and bits"). -/
abbrev CoreId := BitVec 13

end Sys2Proof
end

