-- ==== Sys2Proof/Syntax.lean ====
section
/-! DEFINITION. The commands of the block: one constructor per row of the command table. -/

namespace Sys2Proof

/-- A command of the module: an event at its boundary, a queue or mailbox command at the point where the module runs it,
or a step of one of its units. The operands are what the outside decides about the event. -/
inductive Instr where
  /-- POWER_ON (R457). Power good after 52 V is applied starts AON, the boot ROM, LPDDR5X zeroing and restoration of the configuration store. -/
  | powerOn (coolMode : BitVec 2) (slot : BitVec 6)
  /-- PERST_N_ASSERT (R457). Assertion of PERST_N performs a module reset: uncommitted commands end with ABORTED_RESET and LPDDR5X enters self-refresh. -/
  | perstNAssert
  /-- PERST_N_DEASSERT (R447). Deassertion of PERST_N samples COOL_MODE and MODULE_ID, restarts the MP, and repairs the tier map and the journals. -/
  | perstNDeassert (coolMode : BitVec 2) (slot : BitVec 6)
  /-- PWR_EN_ASSERT (R391). The hot-swap controller closes the input path under the 6 A inrush limit and reports power good. -/
  | pwrEnAssert
  /-- PWR_EN_DEASSERT (R497). PWR informs the MP, which writes the state records, and the 2 ms hot-swap opening timer starts. -/
  | pwrEnDeassert
  /-- HOTSWAP_OPEN_TIMER (R497). 2 ms after PWR_EN deassertion the hot-swap controller opens and the module behaves as on loss of power. -/
  | hotswapOpenTimer
  /-- FUNCTION_LEVEL_RESET (R457). An FLR of PF0 or a VF ends the function's host-submitted queues, window maps, slots, regions, flows and open step. -/
  | functionLevelReset (fn : BitVec 4)
  /-- POOL_UNIT_INTERNAL_FAULT (R460). An internal uncorrectable error in a pool unit or update lane triggers a partition reset of the channel's owner. -/
  | poolUnitInternalFault (channel : BitVec 7)
  /-- SURPRISE_REMOVAL (R392). DL_Down while PERST_N is deasserted stops admission, closes regions, kills uncommitted commands and enters removal quiesce. -/
  | surpriseRemoval
  /-- LINK_STATE_CHANGE (R362). The host link enters or leaves L0 or Recovery, and host traffic and migrations pause or resume. -/
  | linkStateChange (link : BitVec 2)
  /-- HOST_TIER_READ_COMPLETE (R178). A completion, completion timeout, Unsupported Request, Completer Abort or poisoned completion for a host-tier read arrives and is handled under the stall causes. -/
  | hostTierReadComplete (req : Nat) (result : BitVec 3) (bytes : List (BitVec 8))
  /-- HOST_READ_REISSUE (R179). Every 100 µs, a host-tier read that ended by HOST_TIMEOUT or HOST_ERROR is reissued. -/
  | hostReadReissue (req : Nat)
  /-- HOST_LATE_THRESHOLD (R178). An outstanding host-tier read passes TIER_LATE_AON and becomes held for cause HOST_LATE. -/
  | hostLateThreshold (req : Nat)
  /-- TIER_STALL_NOTIFY (R179). A hold exceeds TIER_LIMIT_AON and a tier-stall notice is written once for the episode. -/
  | tierStallNotify (hold : Nat)
  /-- ESKOR_DEADLINE_EXPIRE (R181). In Eskor compatibility mode, a hold exceeds TIER_DEADLINE_AON and the command ends with TIER_ERROR. -/
  | eskorDeadlineExpire (hold : Nat)
  /-- TIER_REQ_PROMOTE (R186). A write to TIER_REQ with dir 1 requests promotion of a range of pages of an object; pages beyond the quota are dropped and counted. -/
  | tierReqPromote (p : BitVec 4) (object : BitVec 10) (first : BitVec 28) (count : BitVec 16)
  /-- TIER_REQ_DEMOTE (R186). A write to TIER_REQ with dir 2 requests demotion of a range of pages of an object. -/
  | tierReqDemote (p : BitVec 4) (object : BitVec 10) (first : BitVec 28) (count : BitVec 16)
  /-- TIER_REQ_DROPPED (R186). A write to TIER_REQ with dir 0 or 3 is dropped and counted. -/
  | tierReqDropped (p : BitVec 4) (dir : BitVec 2) (object : BitVec 10) (first : BitVec 28) (count : BitVec 16)
  /-- PROMOTION_START (R172). A demand count, a cold access or an explicit request starts a promotion and takes an in-flight entry and a frame. -/
  | promotionStart (p : BitVec 4) (object : BitVec 10) (page : BitVec 28) (source : BitVec 2)
  /-- PROMOTION_STEP_DONE (R173). A step of a promotion completes (recall, host read) and the next step of Table 5-7 begins. -/
  | promotionStepDone (p : BitVec 4) (object : BitVec 10) (page : BitVec 28)
  /-- DEMOTION_STEP_DONE (R173). A step of a demotion completes (recall, host write, read-back) and the next step of Table 5-8 begins. -/
  | demotionStepDone (p : BitVec 4) (object : BitVec 10) (page : BitVec 28)
  /-- MIGRATION_RETRY_TIMER (R175). 100 µs after a failed migration, the promotion or demotion is retried. -/
  | migrationRetryTimer (p : BitVec 4) (object : BitVec 10) (page : BitVec 28)
  /-- PATROL_SCRUB (R162). A channel controller patrol-scrubs lines in idle cycles and corrects or counts errors. -/
  | patrolScrub (addr : BitVec 56) (outcome : BitVec 2)
  /-- RV32IMC_INSTRUCTION (R116). The sequencer executes an RV32IMC instruction, stopping the program on illegal, misaligned or out-of-share accesses. -/
  | rv32imcInstruction (core : BitVec 13) (word : BitVec 32)
  /-- ZICSR_ACCESS (R120). A CSR instruction reads or writes a sequencer CSR of Table 4-1. -/
  | zicsrAccess (core : BitVec 13) (funct3 : BitVec 3) (csr : BitVec 12) (rs1 : BitVec 5) (rd : BitVec 5)
  /-- ECALL (R118). ECALL stops the core program and the command ends with INVALID. -/
  | ecall (core : BitVec 13)
  /-- EBREAK (R118). EBREAK stops the core program and the command ends with INVALID. -/
  | ebreak (core : BitVec 13) (compressed : Bool)
  /-- LX_MM (R123). A matrix instruction reads its MOD and issues one engine instruction of the named shape and width, returning a ticket. -/
  | lxMm (core : BitVec 13) (shape : BitVec 3) (t : Bool) (ws : BitVec 5) (rd : BitVec 5) (rs1 : BitVec 5) (rs2 : BitVec 5)
  /-- LX_WGB_ZERO (R127). Records a WGB operation that zeroes a tile and clears its torn bit at commit. -/
  | lxWgbZero (core : BitVec 13) (rs1 : BitVec 5)
  /-- LX_WGB_FOLD (R127). Records a WGB operation that adds a scratch block to a tile at commit. -/
  | lxWgbFold (core : BitVec 13) (rs1 : BitVec 5) (rs2 : BitVec 5)
  /-- LX_WGB_SPILL (R127). Records a WGB operation that sends a spill record to the update lanes at commit. -/
  | lxWgbSpill (core : BitVec 13) (rs1 : BitVec 5) (rs2 : BitVec 5)
  /-- LX_WGB_FLUSH (R127). Records a WGB operation that writes a tile and its norm record to T1 at commit. -/
  | lxWgbFlush (core : BitVec 13) (rs1 : BitVec 5) (rs2 : BitVec 5)
  /-- LX_EWAIT (R126). Waits until the engine instructions up to a ticket are complete. -/
  | lxEwait (core : BitVec 13) (rs1 : BitVec 5)
  /-- LX_EQUIESCE (R126). Waits until the engine is empty. -/
  | lxEquiesce (core : BitVec 13)
  /-- LX_VADD (R130). Element-wise vector add. -/
  | lxVadd (core : BitVec 13) (ety : BitVec 3) (md : BitVec 2) (vd : BitVec 5) (vs1 : BitVec 5) (vs2 : BitVec 5)
  /-- LX_VSUB (R130). Element-wise vector subtract. -/
  | lxVsub (core : BitVec 13) (ety : BitVec 3) (md : BitVec 2) (vd : BitVec 5) (vs1 : BitVec 5) (vs2 : BitVec 5)
  /-- LX_VMUL (R130). Element-wise vector multiply. -/
  | lxVmul (core : BitVec 13) (ety : BitVec 3) (md : BitVec 2) (vd : BitVec 5) (vs1 : BitVec 5) (vs2 : BitVec 5)
  /-- LX_VFMA (R130). Fused multiply-add for floating-point types, or mac for integer types. -/
  | lxVfma (core : BitVec 13) (ety : BitVec 3) (md : BitVec 2) (vd : BitVec 5) (vs1 : BitVec 5) (vs2 : BitVec 5)
  /-- LX_VFMS (R130). Fused multiply-subtract for floating-point types, or msc for integer types. -/
  | lxVfms (core : BitVec 13) (ety : BitVec 3) (md : BitVec 2) (vd : BitVec 5) (vs1 : BitVec 5) (vs2 : BitVec 5)
  /-- LX_VMIN (R130). Element-wise minimum. -/
  | lxVmin (core : BitVec 13) (ety : BitVec 3) (md : BitVec 2) (vd : BitVec 5) (vs1 : BitVec 5) (vs2 : BitVec 5)
  /-- LX_VMAX (R130). Element-wise maximum. -/
  | lxVmax (core : BitVec 13) (ety : BitVec 3) (md : BitVec 2) (vd : BitVec 5) (vs1 : BitVec 5) (vs2 : BitVec 5)
  /-- LX_VDIV (R130). Element-wise divide. -/
  | lxVdiv (core : BitVec 13) (ety : BitVec 3) (md : BitVec 2) (vd : BitVec 5) (vs1 : BitVec 5) (vs2 : BitVec 5)
  /-- LX_VSQRT (R130). Floating-point square root. -/
  | lxVsqrt (core : BitVec 13) (ety : BitVec 3) (vd : BitVec 5) (vs1 : BitVec 5) (vs2 : BitVec 5)
  /-- LX_VREM (R130). Integer remainder. -/
  | lxVrem (core : BitVec 13) (ety : BitVec 3) (md : BitVec 2) (vd : BitVec 5) (vs1 : BitVec 5) (vs2 : BitVec 5)
  /-- LX_VRECIP (R130). Floating-point reciprocal. -/
  | lxVrecip (core : BitVec 13) (ety : BitVec 3) (vd : BitVec 5) (vs1 : BitVec 5) (vs2 : BitVec 5)
  /-- LX_VRSQRT (R130). Floating-point reciprocal square root. -/
  | lxVrsqrt (core : BitVec 13) (ety : BitVec 3) (vd : BitVec 5) (vs1 : BitVec 5) (vs2 : BitVec 5)
  /-- LX_VEXP (R130). Floating-point exp. -/
  | lxVexp (core : BitVec 13) (ety : BitVec 3) (vd : BitVec 5) (vs1 : BitVec 5) (vs2 : BitVec 5)
  /-- LX_VEXP2 (R130). Floating-point exp2. -/
  | lxVexp2 (core : BitVec 13) (ety : BitVec 3) (vd : BitVec 5) (vs1 : BitVec 5) (vs2 : BitVec 5)
  /-- LX_VLOG (R130). Floating-point log. -/
  | lxVlog (core : BitVec 13) (ety : BitVec 3) (vd : BitVec 5) (vs1 : BitVec 5) (vs2 : BitVec 5)
  /-- LX_VLOG2 (R130). Floating-point log2. -/
  | lxVlog2 (core : BitVec 13) (ety : BitVec 3) (vd : BitVec 5) (vs1 : BitVec 5) (vs2 : BitVec 5)
  /-- LX_VAND (R130). Integer bitwise and. -/
  | lxVand (core : BitVec 13) (ety : BitVec 3) (vd : BitVec 5) (vs1 : BitVec 5) (vs2 : BitVec 5)
  /-- LX_VOR (R130). Integer bitwise or. -/
  | lxVor (core : BitVec 13) (ety : BitVec 3) (vd : BitVec 5) (vs1 : BitVec 5) (vs2 : BitVec 5)
  /-- LX_VXOR (R130). Integer bitwise xor. -/
  | lxVxor (core : BitVec 13) (ety : BitVec 3) (vd : BitVec 5) (vs1 : BitVec 5) (vs2 : BitVec 5)
  /-- LX_VSLL (R130). Integer shift left logical. -/
  | lxVsll (core : BitVec 13) (ety : BitVec 3) (vd : BitVec 5) (vs1 : BitVec 5) (vs2 : BitVec 5)
  /-- LX_VSRL (R130). Integer shift right logical. -/
  | lxVsrl (core : BitVec 13) (ety : BitVec 3) (vd : BitVec 5) (vs1 : BitVec 5) (vs2 : BitVec 5)
  /-- LX_VSRA (R130). Integer shift right arithmetic. -/
  | lxVsra (core : BitVec 13) (ety : BitVec 3) (vd : BitVec 5) (vs1 : BitVec 5) (vs2 : BitVec 5)
  /-- LX_VTANH (R130). Floating-point tanh. -/
  | lxVtanh (core : BitVec 13) (ety : BitVec 3) (vd : BitVec 5) (vs1 : BitVec 5) (vs2 : BitVec 5)
  /-- LX_VSIGMOID (R130). Floating-point sigmoid. -/
  | lxVsigmoid (core : BitVec 13) (ety : BitVec 3) (vd : BitVec 5) (vs1 : BitVec 5) (vs2 : BitVec 5)
  /-- LX_VERF (R130). Floating-point erf. -/
  | lxVerf (core : BitVec 13) (ety : BitVec 3) (vd : BitVec 5) (vs1 : BitVec 5) (vs2 : BitVec 5)
  /-- LX_VSIN (R130). Floating-point sin. -/
  | lxVsin (core : BitVec 13) (ety : BitVec 3) (vd : BitVec 5) (vs1 : BitVec 5) (vs2 : BitVec 5)
  /-- LX_VCOS (R130). Floating-point cos. -/
  | lxVcos (core : BitVec 13) (ety : BitVec 3) (vd : BitVec 5) (vs1 : BitVec 5) (vs2 : BitVec 5)
  /-- LX_VABS (R130). Element-wise absolute value. -/
  | lxVabs (core : BitVec 13) (ety : BitVec 3) (md : BitVec 2) (vd : BitVec 5) (vs1 : BitVec 5) (vs2 : BitVec 5)
  /-- LX_VNEG (R130). Element-wise negation. -/
  | lxVneg (core : BitVec 13) (ety : BitVec 3) (md : BitVec 2) (vd : BitVec 5) (vs1 : BitVec 5) (vs2 : BitVec 5)
  /-- LX_VREDSUM (R132). Tree reduction sum with a non-finite count flag. -/
  | lxVredsum (core : BitVec 13) (ety : BitVec 3) (md : BitVec 2) (vd : BitVec 5) (vs1 : BitVec 5) (vs2 : BitVec 5)
  /-- LX_VREDMAX (R132). Tree reduction maximum. -/
  | lxVredmax (core : BitVec 13) (ety : BitVec 3) (md : BitVec 2) (vd : BitVec 5) (vs1 : BitVec 5) (vs2 : BitVec 5)
  /-- LX_VREDMIN (R132). Tree reduction minimum. -/
  | lxVredmin (core : BitVec 13) (ety : BitVec 3) (md : BitVec 2) (vd : BitVec 5) (vs1 : BitVec 5) (vs2 : BitVec 5)
  /-- LX_VCNTNF (R130). Counts NaN and infinite elements into an x register. -/
  | lxVcntnf (core : BitVec 13) (ety : BitVec 3) (rd : BitVec 5) (vs1 : BitVec 5) (vs2 : BitVec 5)
  /-- LX_VCMP (R135). Compares elements into a condition register under the selected predicate. -/
  | lxVcmp (core : BitVec 13) (ety : BitVec 3) (md : BitVec 2) (cd : BitVec 2) (vs1 : BitVec 5) (vs2 : BitVec 5)
  /-- LX_VMERGE (R136). Selects elements from two vectors by a condition register. -/
  | lxVmerge (core : BitVec 13) (ety : BitVec 3) (cr : BitVec 2) (vd : BitVec 5) (vs1 : BitVec 5) (vs2 : BitVec 5)
  /-- LX_VCOMPRESS (R136). Packs the active elements of a vector together. -/
  | lxVcompress (core : BitVec 13) (ety : BitVec 3) (cr : BitVec 2) (vd : BitVec 5) (vs1 : BitVec 5)
  /-- LX_VEXPAND (R136). Spreads packed elements back to their active positions. -/
  | lxVexpand (core : BitVec 13) (ety : BitVec 3) (cr : BitVec 2) (vd : BitVec 5) (vs1 : BitVec 5)
  /-- LX_VSPLAT (R130). Sets every element to the low bits of an x register. -/
  | lxVsplat (core : BitVec 13) (ety : BitVec 3) (vd : BitVec 5) (rs1 : BitVec 5) (vs2 : BitVec 5)
  /-- LX_VMOVE (R130). Copies one vector register to another. -/
  | lxVmove (core : BitVec 13) (ety : BitVec 3) (vd : BitVec 5) (vs1 : BitVec 5) (vs2 : BitVec 5)
  /-- LX_VCVT (R133). Converts VL elements between format codes with RNE or SR, including MX scales. -/
  | lxVcvt (core : BitVec 13) (sr : Bool) (nan : Bool) (dst : BitVec 4) (src : BitVec 4) (vd : BitVec 5) (vs1 : BitVec 5)
  /-- LX_VLD (R134). Strided vector load from scratch or the WGB. -/
  | lxVld (core : BitVec 13) (md : BitVec 2) (vd : BitVec 5) (rs1 : BitVec 5) (rs2 : BitVec 5)
  /-- LX_VST (R134). Strided vector store to scratch. -/
  | lxVst (core : BitVec 13) (md : BitVec 2) (vs : BitVec 5) (rs1 : BitVec 5) (rs2 : BitVec 5)
  /-- LX_VSETVL (R128). Sets VL to min(rs1, VLMAX) for the element width. -/
  | lxVsetvl (core : BitVec 13) (md : BitVec 2) (rd : BitVec 5) (rs1 : BitVec 5)
  /-- LX_VMVX (R134). Moves one vector element into an x register. -/
  | lxVmvx (core : BitVec 13) (md : BitVec 2) (rd : BitVec 5) (vs1 : BitVec 5) (rs2 : BitVec 5)
  /-- LX_VINS (R134). Inserts an x register value into one vector element. -/
  | lxVins (core : BitVec 13) (md : BitVec 2) (vd : BitVec 5) (rs1 : BitVec 5) (rs2 : BitVec 5)
  /-- LX_CAND (R137). Condition registers and. -/
  | lxCand (core : BitVec 13) (cd : BitVec 2) (cs1 : BitVec 2) (cs2 : BitVec 2)
  /-- LX_COR (R137). Condition registers or. -/
  | lxCor (core : BitVec 13) (cd : BitVec 2) (cs1 : BitVec 2) (cs2 : BitVec 2)
  /-- LX_CXOR (R137). Condition registers xor. -/
  | lxCxor (core : BitVec 13) (cd : BitVec 2) (cs1 : BitVec 2) (cs2 : BitVec 2)
  /-- LX_CANDN (R137). Condition registers and-not. -/
  | lxCandn (core : BitVec 13) (cd : BitVec 2) (cs1 : BitVec 2) (cs2 : BitVec 2)
  /-- LX_CNOT (R137). Condition register not. -/
  | lxCnot (core : BitVec 13) (cd : BitVec 2) (cs1 : BitVec 2)
  /-- LX_CPOP (R137). Counts the set bits of a condition register. -/
  | lxCpop (core : BitVec 13) (rd : BitVec 5) (cs1 : BitVec 2)
  /-- LX_CRD_LO (R137). Reads bits [31:0] of a condition register. -/
  | lxCrdLo (core : BitVec 13) (rd : BitVec 5) (cs1 : BitVec 2)
  /-- LX_CRD_HI (R137). Reads bits [63:32] of a condition register. -/
  | lxCrdHi (core : BitVec 13) (rd : BitVec 5) (cs1 : BitVec 2)
  /-- LX_CWR_LO (R137). Writes bits [31:0] of a condition register. -/
  | lxCwrLo (core : BitVec 13) (cd : BitVec 2) (rs1 : BitVec 5)
  /-- LX_CWR_HI (R137). Writes bits [63:32] of a condition register. -/
  | lxCwrHi (core : BitVec 13) (cd : BitVec 2) (rs1 : BitVec 5)
  /-- LX_CFIRST (R137). Returns the index of the lowest set bit of a condition register. -/
  | lxCfirst (core : BitVec 13) (rd : BitVec 5) (cs1 : BitVec 2)
  /-- LX_RNGW (R140). Writes one 32-bit word of the AES counter block output at lxrngidx. -/
  | lxRngw (core : BitVec 13) (rd : BitVec 5) (rs1 : BitVec 5)
  /-- LX_VRNG (R140). Fills a vector register with 16 AES blocks and advances lxrngidx by 16. -/
  | lxVrng (core : BitVec 13) (vd : BitVec 5)
  /-- LX_DMA (R141). Issues a DMA from a 64 B descriptor and returns its tag. -/
  | lxDma (core : BitVec 13) (rd : BitVec 5) (rs1 : BitVec 5)
  /-- LX_DWAIT (R143). Waits until a DMA tag and every earlier tag are complete. -/
  | lxDwait (core : BitVec 13) (rs1 : BitVec 5)
  /-- LX_DFENCE (R143). Waits until every issued DMA is complete. -/
  | lxDfence (core : BitVec 13)
  /-- LX_BAR_C (R144). Arrives at a cluster barrier. -/
  | lxBarC (core : BitVec 13) (id : BitVec 3)
  /-- LX_BAR_D (R144). Arrives at a die barrier. -/
  | lxBarD (core : BitVec 13) (id : BitVec 3)
  /-- LX_END (R119). Ends the core's program with an exit word once its engine instructions and DMAs are complete. -/
  | lxEnd (core : BitVec 13) (rs1 : BitVec 5)
  /-- BARRIER_RELEASE (R144). The last participant arrives and every waiting participant continues after the release. -/
  | barrierRelease (die : Bool) (core : BitVec 13) (id : BitVec 3)
  /-- DMA_COMPLETE (R143). A core DMA transfer completes and its tag completes in order. -/
  | dmaComplete (core : BitVec 13) (tag : BitVec 32)
  /-- CORE_PROGRAM_ENDED (R119). A core's pending work finishes after lx.end; when every core has ended, the command commits. -/
  | coreProgramEnded (core : BitVec 13)
  /-- STATIONARY_LOAD_COMPLETE (R77). A stationary tile becomes complete in the shadow register 72 ARR cycles after its load begins. -/
  | stationaryLoadComplete (core : BitVec 13)
  /-- ENGINE_STREAM_START (R90). The next instruction's first bit enters array row 0 once its tile is ready and the previous stream has ended. -/
  | engineStreamStart (core : BitVec 13) (loadWait : BitVec 32) (feed : BitVec 32)
  /-- ENGINE_ROW_DRAINED (R87). The drain writes a streamed row's outputs to scratch, counting non-finite outputs. -/
  | engineRowDrained (core : BitVec 13) (feed : BitVec 32) (drain : BitVec 32) (budget : BitVec 32)
  /-- ENGINE_INSTRUCTION_COMPLETE (R88). The last row's results become visible in cycle T and waits on the instruction are released. -/
  | engineInstructionComplete (core : BitVec 13)
  /-- RAMP_DOWN_REQUEST (R97). In the 256th consecutive idle ARR cycle the engine requests a ramp-down. -/
  | rampDownRequest (core : BitVec 13)
  /-- START_ARBITER_GRANT (R98). The die start arbiter grants one ramp, with ramp-ups first, in each 16-cycle window. -/
  | startArbiterGrant (die : BitVec 3)
  /-- RAMP_DOWN_COMPLETE (R97). 48 cycles after the grant, every column is off and cols_on reads 0. -/
  | rampDownComplete (core : BitVec 13)
  /-- RAMP_UP_COMPLETE (R97). 48 cycles after the grant, every column is active and the first bit may enter. -/
  | rampUpComplete (core : BitVec 13)
  /-- COMMAND_ADMISSION (R408). A waiting command at a queue head is admitted once its buffers no longer conflict with uncommitted commands. -/
  | commandAdmission (q : BitVec 12)
  /-- COMMAND_COMMIT (R409). A command commits indivisibly: WGB operations, slot releases, stamps, SIGNAL updates, accounting, then the completion record and message. -/
  | commandCommit (q : BitVec 12) (pos : BitVec 32)
  /-- SPILL_RECORD_APPLY (R107). An update lane accepts a spill record and sets or adds it into the accumulator lines, writing a norm record when it is final. -/
  | spillRecordApply (core : BitVec 13)
  /-- SLICE_PREEMPTION (R413). A run that has used its slice while another context waits is killed and returns to the head of its queue. -/
  | slicePreemption (q : BitVec 12) (pos : BitVec 32)
  /-- RDS (R197). Read for sharing at a home node. -/
  | rds (agent : BitVec 5) (addr : BitVec 56)
  /-- RDU (R197). Read with ownership at a home node. -/
  | rdu (agent : BitVec 5) (addr : BitVec 56)
  /-- CLNU (R197). Upgrade to unique without data. -/
  | clnu (agent : BitVec 5) (addr : BitVec 56)
  /-- WBD (R197). Write back of dirty data on eviction. -/
  | wbd (agent : BitVec 5) (addr : BitVec 56)
  /-- EVICT (R197). Clean eviction notice. -/
  | evict (agent : BitVec 5) (addr : BitVec 56)
  /-- RDONCE (R197). Uncached read of 1 to 64 B. -/
  | rdonce (agent : BitVec 5) (addr : BitVec 56)
  /-- WRU (R197). Uncached write with byte enables, recalling every holder. -/
  | wru (agent : BitVec 5) (addr : BitVec 56) (mask : BitVec 64) (data : BitVec 512)
  /-- ATMH (R205). Home atomic applied at the home node after recall. -/
  | atmh (agent : BitVec 5) (addr : BitVec 56) (op : BitVec 4) (wide : Bool) (operand : BitVec 64) (cmp : BitVec 64)
  /-- ATMF (R205). Far atomic passed to the pool unit of the line's channel after recall. -/
  | atmf (agent : BitVec 5) (addr : BitVec 56) (op : BitVec 4) (wide : Bool) (operand : BitVec 64) (cmp : BitVec 64)
  /-- SNPS (R201). A share snoop arrives at a cache agent and is answered, after any hold. -/
  | snps (agent : BitVec 5) (addr : BitVec 56)
  /-- SNPU (R201). A give-up-ownership snoop arrives at a cache agent. -/
  | snpu (agent : BitVec 5) (addr : BitVec 56)
  /-- SNPINV (R201). An invalidating snoop arrives at a cache agent. -/
  | snpinv (agent : BitVec 5) (addr : BitVec 56)
  /-- SNPONCE (R197). A copy snoop arrives at the owner without a state change. -/
  | snponce (agent : BitVec 5) (addr : BitVec 56)
  /-- HOLD_END (R201). At cycle h + 64 the line hold ends and waiting snoops are answered. -/
  | holdEnd (agent : BitVec 5) (addr : BitVec 56)
  /-- DATA (R197). Line data arrives at a requester, which installs it and answers CompAck. -/
  | data (agent : BitVec 5) (addr : BitVec 56)
  /-- SNPRESP (R197). A snoop response arrives at the home node. -/
  | snpresp (agent : BitVec 5) (addr : BitVec 56)
  /-- RETRY (R202). A Retry arrives with a reserved credit, and the requester resends within 256 cycles. -/
  | retry (agent : BitVec 5) (addr : BitVec 56)
  /-- COMP (R196). Transaction completion arrives at the requester. -/
  | comp (agent : BitVec 5) (addr : BitVec 56)
  /-- COMPACK (R197). The requester's acknowledgement ends the transaction and frees the line. -/
  | compack (agent : BitVec 5) (addr : BitVec 56)
  /-- RESERVATION_LAPSE (R202). A reservation unused after 4,096 MEM cycles lapses and is counted. -/
  | reservationLapse (home : BitVec 2) (agent : BitVec 5)
  /-- LXS_AMOFADD_S (R218). A server-core FP32 floating-point atomic add is sent as AtmF or AtmH. -/
  | lxsAmofaddS (hart : BitVec 6) (attr : BitVec 2) (rd : BitVec 5) (rs1 : BitVec 5) (rs2 : BitVec 5)
  /-- LXS_AMOFADD_BF16X2 (R218). A server-core BF16x2 floating-point atomic add is sent as AtmF or AtmH. -/
  | lxsAmofaddBf16x2 (hart : BitVec 6) (attr : BitVec 2) (rd : BitVec 5) (rs1 : BitVec 5) (rs2 : BitVec 5)
  /-- SERVER_CORE_ACCESS (R36). A server-core load, store or AMO is checked and raises an access fault when it targets unmapped or foreign memory. -/
  | serverCoreAccess (hart : BitVec 6) (kind : BitVec 2) (attr : BitVec 2) (op : BitVec 4) (size : BitVec 4) (addr : BitVec 56) (value : BitVec 64) (rd : BitVec 5)
  /-- HOST_ATOMICOP (R204). A PCI Express AtomicOp through BAR2 is sent as AtmH, or ends with Unsupported Request. -/
  | hostAtomicop (fn : BitVec 4) (off : BitVec 36) (op : BitVec 2) (size : BitVec 5) (operand : BitVec 128) (cmp : BitVec 128)
  /-- CPPC_REQUEST (R216). A hart's SBI CPPC request makes the MP set its cluster frequency within the profile ceiling. -/
  | cppcRequest (hart : BitVec 6) (mhz : BitVec 16)
  /-- IOMMU_INVAL_WRITE (R228). A write to IOMMU_INVAL queues an IOTINVAL.VMA in arrival order. -/
  | iommuInvalWrite (hart : BitVec 6) (value : BitVec 64)
  /-- IOMMU_SYNC_READ (R228). A read of IOMMU_SYNC returns after every earlier invalidation and an IOFENCE.C complete. -/
  | iommuSyncRead (hart : BitVec 6)
  /-- LOCAL_DOORBELL (R234). A store of a CP32 tail to a local queue context's doorbell slot. -/
  | localDoorbell (hart : BitVec 6) (q : BitVec 12) (size : BitVec 4) (value : BitVec 64)
  /-- LMB_DOORBELL (R398). A write of a request tail to LMB_DOORBELL, accepted under R395. -/
  | lmbDoorbell (hart : BitVec 6) (value : BitVec 64)
  /-- BOOT_STATUS_MIRROR (R232). The board-support image writes its boot-status word and the MP mirrors it into BOOT_STATUS. -/
  | bootStatusMirror (p : BitVec 4) (value : BitVec 64)
  /-- SERVER_BOOT_TIMEOUT (R232). 10 s without CP32(2): the harts are held in reset and the failure is logged. -/
  | serverBootTimeout (p : BitVec 4)
  /-- SBI_SRST_REBOOT (R233). An SBI SRST reboot destroys local queues and reboots the partition's server cores. -/
  | sbiSrstReboot (hart : BitVec 6)
  /-- EMB_LOOKUP (R241). Gathers and pools table rows per segment at the pool units. -/
  | embLookup (q : BitVec 12) (pos : BitVec 32)
  /-- EMB_UPDATE (R246). Reduce stage: sorts and reduces row gradients and writes shadow entries and a norm record. -/
  | embUpdate (q : BitVec 12) (pos : BitVec 32)
  /-- RELAYOUT_REGION_START (R254). The next region changes from OLD to MOVING and the pool units begin copying it. -/
  | relayoutRegionStart (p : BitVec 4) (table : BitVec 16) (region : Nat)
  /-- RELAYOUT_REGION_COPIED (R254). A region copy completes and its entry is set to copied. -/
  | relayoutRegionCopied (p : BitVec 4) (table : BitVec 16) (region : Nat)
  /-- RELAYOUT_REGION_RESTART (R255). A write to a MOVING region restarts its copy, which is paused on the fourth attempt. -/
  | relayoutRegionRestart (p : BitVec 4) (table : BitVec 16) (region : Nat)
  /-- RELAYOUT_SWITCH_POINT (R256). At a switch point, copied regions become NEW through flip, bitmap and epoch writes. -/
  | relayoutSwitchPoint (p : BitVec 4) (table : BitVec 16)
  /-- COMMIT_TIMEOUT (R319). The commit timeout expires: absent members are logged, or CHECK ends STEP_UNDECIDED. -/
  | commitTimeout (p : BitVec 4)
  /-- DRIP_BEHIND_EMIT (R328). Between markers the engines emit BLOCK_FULL and PAGE_FULL records for behind blocks and pages. -/
  | dripBehindEmit (p : BitVec 4)
  /-- DRIP_RING_ROOM (R325). The consumer advances head and writing of waiting drip records resumes. -/
  | dripRingRoom (p : BitVec 4) (head : BitVec 64)
  /-- PROGRAM_RUN (R117). Starts a core program on a role or a core range. -/
  | programRun (q : BitVec 12) (pos : BitVec 32)
  /-- COPY (R405). Copies bytes from a source to a destination in the copy lane. -/
  | copy (q : BitVec 12) (pos : BitVec 32)
  /-- FILL (R405). Fills a destination with a repeated 8 B pattern. -/
  | fill (q : BitVec 12) (pos : BitVec 32)
  /-- GATHER_SHARD (R276). Copies stamped shards into destination cores' scratch and checks stamps against the log. -/
  | gatherShard (q : BitVec 12) (pos : BitVec 32)
  /-- RING_PASS (R284). Sends one buffer to the successor and receives the predecessor's block in the other. -/
  | ringPass (q : BitVec 12) (pos : BitVec 32)
  /-- COLLECTIVE (R351). Runs reduce-scatter, all-gather, all-reduce, broadcast or all-to-all over a group in rank order. -/
  | collective (q : BitVec 12) (pos : BitVec 32)
  /-- STEP_BEGIN (R262). Opens step N from a step plan: clears the stamp log and norm area and installs map_fb. -/
  | stepBegin (q : BitVec 12) (pos : BitVec 32)
  /-- STEP_COMMIT (R318). Runs CHECK, UPDATE and COMMIT for the step, then drip and telemetry. -/
  | stepCommit (q : BitVec 12) (pos : BitVec 32)
  /-- STEP_RECOVER (R323). Completes, confirms or abandons step N from the commit record, retained gradients and peers. -/
  | stepRecover (q : BitVec 12) (pos : BitVec 32)
  /-- EVAL_BEGIN (R290). Opens an evaluation window and installs map_eval. -/
  | evalBegin (q : BitVec 12) (pos : BitVec 32)
  /-- EVAL_END (R290). Closes the evaluation window once every EVAL command has committed. -/
  | evalEnd (q : BitVec 12) (pos : BitVec 32)
  /-- VIDEO_DECODE (R430). Decodes access units or temporal units of a session into pictures or tensors. -/
  | videoDecode (q : BitVec 12) (pos : BitVec 32)
  /-- VIDEO_ENCODE (R430). Encodes pictures of a session into coded units. -/
  | videoEncode (q : BitVec 12) (pos : BitVec 32)
  /-- VIDEO_BUDGET_OVERRUN (R432). A bounded picture's pipeline count exceeds its budget and the remaining units are concealed. -/
  | videoBudgetOverrun (p : BitVec 4) (session : BitVec 16)
  /-- FENCE (R382). Holds the queue until earlier commands in scope have committed and are flushed. -/
  | fence (q : BitVec 12) (pos : BitVec 32)
  /-- SIGNAL_ADD (R411). Adds a value to a signal counter in its commit and writes the mirror. -/
  | signalAdd (q : BitVec 12) (pos : BitVec 32)
  /-- SIGNAL_SET (R411). Sets a signal counter in its commit and writes the mirror. -/
  | signalSet (q : BitVec 12) (pos : BitVec 32)
  /-- WAIT (R411). Commits once the signal counter reaches the value. -/
  | wait (q : BitVec 12) (pos : BitVec 32)
  /-- WAIT_DEADLINE (R411). A WAIT's deadline passes and it ends with WAIT_TIMEOUT. -/
  | waitDeadline (q : BitVec 12) (pos : BitVec 32)
  /-- ACCEPT_PLACED (R388). Waits for PR_PLACED to reach the target, recalls lines, journals a CRC and commits. -/
  | acceptPlaced (q : BitVec 12) (pos : BitVec 32)
  /-- ACCEPT_PLACED_DEADLINE (R388). The deadline passes before the target is reached and the command ends with ACCEPT_SHORT. -/
  | acceptPlacedDeadline (q : BitVec 12) (pos : BitVec 32)
  /-- DOORBELL (R373). A CP32 tail write to a BAR4 page is accepted or discarded, and an accepted doorbell unparks a parked queue. -/
  | doorbell (fn : BitVec 4) (q : BitVec 12) (off : BitVec 12) (size : BitVec 4) (value : BitVec 64)
  /-- DESCRIPTOR_FETCH_COMPLETE (R375). Descriptor reads return, and each header validates, is an error or counts as not yet written. -/
  | descriptorFetchComplete (q : BitVec 12) (result : BitVec 3) (bytes : List (BitVec 8))
  /-- DESCRIPTOR_REREAD (R375). A not-yet-written descriptor is re-read within the window. -/
  | descriptorReread (q : BitVec 12) (bytes : List (BitVec 8))
  /-- MBX_REQ_TAIL_WRITE (R395). A CP32 write of the mailbox request tail is accepted or discarded. -/
  | mbxReqTailWrite (fn : BitVec 4) (value : BitVec 64)
  /-- MBX_RSP_HEAD_WRITE (R395). A CP32 write of the consumed response head is accepted or discarded. -/
  | mbxRspHeadWrite (fn : BitVec 4) (value : BitVec 64)
  /-- MAILBOX_REQUEST_SERVE (R397). The MP starts the next mailbox request in position order, alternating between the host and local rings. -/
  | mailboxRequestServe (fn : BitVec 4)
  /-- MAILBOX_REREAD (R396). A not-yet-written mailbox header is re-read, and the mailbox is parked after the window. -/
  | mailboxReread (fn : BitVec 4)
  /-- MAILBOX_L_COMPLETE (R397). A long mailbox request's operation ends and its response is written. -/
  | mailboxLComplete (fn : BitVec 4) (pos : BitVec 32)
  /-- FN_FLUSH_READ (R380). A read of FN_FLUSH completes after committed and earlier writes are performed. -/
  | fnFlushRead (fn : BitVec 4)
  /-- BAR2_READ (R367). A host read through a BAR2 granule is served at the home node, or ends with Unsupported Request. -/
  | bar2Read (fn : BitVec 4) (requester : BitVec 16) (off : BitVec 36) (len : BitVec 13)
  /-- BAR2_WRITE (R367). A host write through a BAR2 granule is performed in arrival order, or is discarded. -/
  | bar2Write (fn : BitVec 4) (requester : BitVec 16) (off : BitVec 36) (bytes : List (BitVec 8))
  /-- PLACEMENT_WRITE (R384). An adapter write to a placement region is written directly, logged in run-out, or dropped. -/
  | placementWrite (fn : BitVec 4) (off : BitVec 36) (requester : BitVec 16) (stream : BitVec 3) (kind : BitVec 2) (bytes : List (BitVec 8))
  /-- RUNOUT_CLOSE_TIMER (R385). 10 ms without an arriving write closes a RUNOUT region. -/
  | runoutCloseTimer (fn : BitVec 4) (region : BitVec 6)
  /-- PR_CTL_REOPEN (R387). A write of PR_CTL.reopen reopens a region withdrawn by FULL and empties its log. -/
  | prCtlReopen (fn : BitVec 4) (region : BitVec 6)
  /-- GET_INFO (R400). Returns module, partition, queue accounting or server boot information. -/
  | getInfo (fn : BitVec 4)
  /-- GET_CAPS (R400). Returns capabilities without switching versions. -/
  | getCaps (fn : BitVec 4)
  /-- GET_CAPS_SWITCH_V1 (R399). Switches the function to command-set version 1 on an Eskor-mode partition. -/
  | getCapsSwitchV1 (fn : BitVec 4)
  /-- GET_CAPS_SWITCH_V2 (R399). Switches the function back to command-set version 2. -/
  | getCapsSwitchV2 (fn : BitVec 4)
  /-- PARTITION_CREATE (R183). Creates a partition with resources and quotas taken from partition 0. -/
  | partitionCreate (fn : BitVec 4)
  /-- PARTITION_DESTROY (R457). Kills, destroys, scrubs and returns a partition's resources to partition 0. -/
  | partitionDestroy (fn : BitVec 4)
  /-- QUEUE_CREATE (R403). Creates a queue context with a scratch share and WGB tiles. -/
  | queueCreate (fn : BitVec 4)
  /-- QUEUE_DESTROY (R400). Ends uncommitted commands and frees the queue context. -/
  | queueDestroy (fn : BitVec 4)
  /-- REGION_REGISTER (R166). Registers a host-tier range, tiered object, placement region or readout region. -/
  | regionRegister (fn : BitVec 4)
  /-- REGION_UNREGISTER (R168). Unregisters a region once its conditions clear. -/
  | regionUnregister (fn : BitVec 4)
  /-- WINDOW_MAP_MAP (R367). Binds BAR2 granules to a target, optionally with a slot set. -/
  | windowMapMap (fn : BitVec 4)
  /-- WINDOW_MAP_UNMAP (R367). Unbinds BAR2 granules. -/
  | windowMapUnmap (fn : BitVec 4)
  /-- WINDOW_MAP_REMOVE_SET (R370). Removes a slot set, retiring its DEVICE slots. -/
  | windowMapRemoveSet (fn : BitVec 4)
  /-- WINDOW_MAP_REACTIVATE_SET (R370). Reactivates a slot set, returning RETIRED slots to HOST. -/
  | windowMapReactivateSet (fn : BitVec 4)
  /-- JOB_CONFIG (R401). Configures or replaces the job and keeps or writes its commit record. -/
  | jobConfig (fn : BitVec 4)
  /-- MAPPING_LOAD (R267). Copies a mapping table into an index. -/
  | mappingLoad (fn : BitVec 4)
  /-- STEP_POLICY (R400). Sets the non-finite and mismatch actions, ceilings, commit timeout and removed members. -/
  | stepPolicy (fn : BitVec 4)
  /-- TABLE_CREATE (R237). Creates an embedding table and writes its page stamps. -/
  | tableCreate (fn : BitVec 4)
  /-- RELAYOUT_START (R252). Starts a table re-layout, answered when it completes. -/
  | relayoutStart (fn : BitVec 4)
  /-- RELAYOUT_RESUME (R258). Continues a stopped re-layout in its recorded direction. -/
  | relayoutResume (fn : BitVec 4)
  /-- RELAYOUT_ABORT_STOP (R258). Stops a re-layout, reverting MOVING regions to OLD. -/
  | relayoutAbortStop (fn : BitVec 4)
  /-- RELAYOUT_ABORT_REVERT (R258). Reverses a re-layout, moving NEW regions back. -/
  | relayoutAbortRevert (fn : BitVec 4)
  /-- DRIP_CONFIG (R325). Configures the drip destination, ring, lag bound, staging and rate. -/
  | dripConfig (fn : BitVec 4)
  /-- TELEMETRY_CONFIG (R292). Sets a telemetry ring for PF0 or a queue context. -/
  | telemetryConfig (fn : BitVec 4)
  /-- REPLAY_CONFIG (R471). Enables or disables a partition's Cupping journal. -/
  | replayConfig (fn : BitVec 4)
  /-- REPLAY_RUN (R474). Replays journaled steps from a checkpoint and checks inputs and commits. -/
  | replayRun (fn : BitVec 4)
  /-- LINK_CONFIG (R333). Sets a port's mode, lanes, addressing, MACsec and transport parameters. -/
  | linkConfig (fn : BitVec 4)
  /-- PEER_TABLE_LOAD (R342). Loads the partition's peer table. -/
  | peerTableLoad (fn : BitVec 4)
  /-- FUNCTION_DISABLE (R416). Disables a function, cluster, video unit or port and kills affected commands. -/
  | functionDisable (fn : BitVec 4)
  /-- FUNCTION_ENABLE (R416). Enables a disabled function, cluster, video unit or port again. -/
  | functionEnable (fn : BitVec 4)
  /-- POWER_PROFILE (R448). Sets or withdraws the PF0 power cap. -/
  | powerProfile (fn : BitVec 4)
  /-- AGEING_CHECK (R453). Runs ageing checkpoints on the named dies. -/
  | ageingCheck (fn : BitVec 4)
  /-- AGEING_REPORT (R455). Writes a signed 576 B ageing report. -/
  | ageingReport (fn : BitVec 4)
  /-- DECAF_ENTER (R466). PF0 forces Decaf mode with cause 0x0706. -/
  | decafEnter (fn : BitVec 4)
  /-- FW_STAGE (R482). Verifies an image and writes it to the component's inactive slot. -/
  | fwStage (fn : BitVec 4)
  /-- FW_ACTIVATE (R465). Marks the staged slot for trial. -/
  | fwActivate (fn : BitVec 4)
  /-- FW_TRIAL_START (R465). A trial begins when its condition holds (module reset, server boot, no core command, no video session). -/
  | fwTrialStart (comp : BitVec 3)
  /-- FW_TRIAL_OUTCOME (R465). A trial succeeds, making the slot active and raising the OTP version, or fails and reverts. -/
  | fwTrialOutcome (comp : BitVec 3) (success : Bool)
  /-- ATTEST_GET (R486). Writes a signed attestation report of the selected measurement blocks. -/
  | attestGet (fn : BitVec 4)
  /-- ERROR_LOG_READ (R463). Copies error-log entries to a destination. -/
  | errorLogRead (fn : BitVec 4)
  /-- DATA_FRAME (R344). A DATA frame of a flow is accepted, placed by chunk, or discarded and acknowledged. -/
  | dataFrame (port : BitVec 4) (dst : BitVec 48) (etherType : BitVec 16) (fcsOk : Bool) (icvOk : Bool) (header : List (BitVec 8)) (payload : List (BitVec 8))
  /-- ACK_FRAME (R346). An acknowledgement updates tx_una, RTT and window, and may trigger fast retransmit. -/
  | ackFrame (port : BitVec 4) (dst : BitVec 48) (etherType : BitVec 16) (fcsOk : Bool) (icvOk : Bool) (header : List (BitVec 8)) (payload : List (BitVec 8))
  /-- CONNECT_FRAME (R341). A CONNECT opens a flow and is answered with ACCEPT or REJECT. -/
  | connectFrame (port : BitVec 4) (dst : BitVec 48) (etherType : BitVec 16) (fcsOk : Bool) (icvOk : Bool) (header : List (BitVec 8)) (payload : List (BitVec 8))
  /-- ACCEPT_FRAME (R341). An ACCEPT completes the opening of a flow. -/
  | acceptFrame (port : BitVec 4) (dst : BitVec 48) (etherType : BitVec 16) (fcsOk : Bool) (icvOk : Bool) (header : List (BitVec 8)) (payload : List (BitVec 8))
  /-- REJECT_FRAME (R342). A REJECT discards the flow's unacknowledged state and reopens it. -/
  | rejectFrame (port : BitVec 4) (dst : BitVec 48) (etherType : BitVec 16) (fcsOk : Bool) (icvOk : Bool) (header : List (BitVec 8)) (payload : List (BitVec 8))
  /-- KEEPALIVE_FRAME (R348). A liveness probe is answered with an ACK. -/
  | keepaliveFrame (port : BitVec 4) (dst : BitVec 48) (etherType : BitVec 16) (fcsOk : Bool) (icvOk : Bool) (header : List (BitVec 8)) (payload : List (BitVec 8))
  /-- CLOSE_FRAME (R335). A CLOSE frees a flow. -/
  | closeFrame (port : BitVec 4) (dst : BitVec 48) (etherType : BitVec 16) (fcsOk : Bool) (icvOk : Bool) (header : List (BitVec 8)) (payload : List (BitVec 8))
  /-- MKA_FRAME (R338). An MKA frame is processed by the MP for key agreement and SAK installation. -/
  | mkaFrame (port : BitVec 4) (dst : BitVec 48) (fcsOk : Bool) (installRx : Bool) (installTx : Bool) (sak : BitVec 128)
  /-- PAUSE_FRAME (R334). A PAUSE or PFC frame is discarded and counted, or pauses the configured priority. -/
  | pauseFrame (port : BitVec 4) (pfc : Bool) (prio : BitVec 3) (time : BitVec 16)
  /-- NON_TRANSPORT_FRAME (R335). Any other received frame is dropped and counted. -/
  | nonTransportFrame (port : BitVec 4) (dst : BitVec 48) (etherType : BitVec 16) (fcsOk : Bool) (icvOk : Bool) (header : List (BitVec 8)) (payload : List (BitVec 8))
  /-- ACK_TIMER (R345). 2 µs after an unacknowledged DATA frame an ACK is sent. -/
  | ackTimer (flow : BitVec 16)
  /-- RETRANSMIT_TIMEOUT (R346). The RTO expires for tx_una, which is retransmitted on the next plane; rto doubles and window drops to 8. -/
  | retransmitTimeout (flow : BitVec 16)
  /-- CONNECT_RETRY_TIMER (R341). CONNECT is repeated every RTO until answered. -/
  | connectRetryTimer (flow : BitVec 16)
  /-- KEEPALIVE_TIMER (R348). 1 ms without frames from a peer sends KEEPALIVE on every plane. -/
  | keepaliveTimer (flow : BitVec 16)
  /-- PEER_UNREACHABLE (R348). The peer timeout expires: the flow becomes unreachable and a laggard record is written. -/
  | peerUnreachable (flow : BitVec 16)
  /-- COLLECTIVE_DONE (R356). A DONE message of the dissemination exchange arrives, and the collective commits after all. -/
  | collectiveDone (q : BitVec 12) (pos : BitVec 32) (member : BitVec 16)
  /-- COLLECTIVE_RESTART (R356). A RESTART makes the member abandon and restart the collective from its inputs. -/
  | collectiveRestart (q : BitVec 12) (pos : BitVec 32)
  /-- RING_PASS_GRANT (R285). A successor's grant arrives and the pass may send its block. -/
  | ringPassGrant (q : BitVec 12) (pos : BitVec 32)
  /-- COMMIT_EXCHANGE (R320). A commit-exchange message (CHECK lanes, digest list or intent query) arrives and is combined or compared. -/
  | commitExchange (p : BitVec 4) (member : BitVec 16) (kind : BitVec 2) (bytes : List (BitVec 8))
  /-- BLOCK_FETCH_REQUEST (R357). A peer's block fetch request is served with the block's stamp, digest and data. -/
  | blockFetchRequest (p : BitVec 4) (member : BitVec 16) (dirIdx : BitVec 32) (block : BitVec 32)
  /-- BLOCK_FETCH_RESPONSE (R321). A fetched block is written to spare frames and verified against the digest. -/
  | blockFetchResponse (p : BitVec 4) (member : BitVec 16) (dirIdx : BitVec 32) (block : BitVec 32) (bytes : List (BitVec 8))
  /-- PORT_LINK_UP (R334). Training completes and the port becomes UP. -/
  | portLinkUp (port : BitVec 4)
  /-- PORT_LINK_DOWN (R334). Loss of block lock, a link fault or excess FEC errors take the port DOWN. -/
  | portLinkDown (port : BitVec 4) (cause : BitVec 2)
  /-- TRAINING_TIMEOUT (R334). 500 ms without reaching UP restarts training, with one attempt per second. -/
  | trainingTimeout (port : BitVec 4)
  /-- PORT_RETRAIN_TIMER (R334). 10 ms after DOWN the port returns to TRAINING. -/
  | portRetrainTimer (port : BitVec 4)
  /-- LINK_CRC_REPLAY (R25). A flit failing CRC is replayed; 16 failures make an uncorrectable fault. -/
  | linkCrcReplay (link : BitVec 6) (run : BitVec 5)
  /-- LINK_RETRAIN_TIMEOUT (R25). A retrained die link not back at x64 and 32 GT/s within 1 ms makes an uncorrectable fault. -/
  | linkRetrainTimeout (link : BitVec 6)
  /-- MCTP_PHASE_RECORD_READ (R295). A vendor MCTP message with command 0x01 returns a partition's latest phase record. -/
  | mctpPhaseRecordRead (p : BitVec 8)
  /-- MCTP_BASEBOARD_NUMBER (R496). A vendor MCTP message with command 0x02 stores the baseboard number. -/
  | mctpBaseboardNumber (number : BitVec 16)
  /-- PLDM_POWER_LIMIT (R448). The baseboard sets or withdraws its power limit. -/
  | pldmPowerLimit (watts : BitVec 16)
  /-- I3C_ENTDAA (R495). The module obtains its I3C dynamic address. -/
  | i3cEntdaa (addr : BitVec 7)
  /-- SPDM_REQUEST (R485). An SPDM request on DOE or MCTP is served in arrival order. -/
  | spdmRequest (transport : Bool) (session : BitVec 16) (code : BitVec 8) (bytes : List (BitVec 8))
  /-- IDE_KM_KEY_PROG (R390). IDE keys are programmed for a stream in a secured session. -/
  | ideKmKeyProg (session : BitVec 16) (stream : BitVec 3) (keySet : BitVec 1) (key : BitVec 256)
  /-- K_SET_GO (R487). Selects the active IDE key set between two TLPs. -/
  | kSetGo (stream : BitVec 3) (keySet : BitVec 1)
  /-- K_SET_STOP (R487). Stops acceptance under the previous IDE key set. -/
  | kSetStop (stream : BitVec 3) (keySet : BitVec 1)
  /-- IDE_CHECK_FAILURE (R390). A TLP that fails an IDE check is discarded and its stream goes Insecure. -/
  | ideCheckFailure (stream : BitVec 3)
  /-- MACSEC_CAK_SET (R488). A vendor SPDM request delivers a CAK and CKN for a port mask. -/
  | macsecCakSet (session : BitVec 16) (transport : Bool) (ports : BitVec 16) (cak : BitVec 256) (ckn : List (BitVec 8))
  /-- DEBUG_CHALLENGE (R490). SEC issues a 32 B debug challenge. -/
  | debugChallenge
  /-- DEBUG_UNLOCK_TOKEN (R490). A dual-signed token moves the debug port to state 1 or 2, and state 2 enters Decaf mode. -/
  | debugUnlockToken (bytes : List (BitVec 8))
  /-- PWR_SAMPLE (R444). PWR samples input voltage and current every 10 µs and detects sag, overvoltage and loss. -/
  | pwrSample (mv : BitVec 20) (ma : BitVec 20) (reverse : Bool)
  /-- UNDERVOLTAGE_TIMER (R444). Input below 44.0 V for more than 2 ms enters Decaf mode. -/
  | undervoltageTimer
  /-- OVERVOLTAGE_TRIP_TIMER (R444). Input above 60.0 V for more than 100 µs opens the hot-swap controller. -/
  | overvoltageTripTimer
  /-- BUDGET_LOOP_STEP (R449). Every 100 µs the MP computes each compute die's budget B_d from its ceilings. -/
  | budgetLoopStep (avg : BitVec 16) (proj : BitVec 16)
  /-- THERMAL_SAMPLE (R451). Die temperatures are sampled every 100 µs and the thermal ceilings adjusted. -/
  | thermalSample (die : BitVec 4) (tenths : BitVec 16)
  /-- COOLING_LOST (R451). A die stays too hot for 100 ms or 1 s and the module enters Decaf mode. -/
  | coolingLost (die : BitVec 4)
  /-- AGEING_CHECKPOINT_DUE (R453). 168 powered hours elapse and a die checkpoint is run and re-planned. -/
  | ageingCheckpointDue (die : BitVec 4) (slack : BitVec 16) (roPpm : BitVec 32)
  /-- SLACK_ALARM (R453). Live slack below 10 ps lowers the ageing ceiling by 100 permille at once. -/
  | slackAlarm (die : BitVec 4) (slack : BitVec 16)
  /-- AGEING_RECORD_HOURLY (R454). The MP writes the ageing record to flash every hour. -/
  | ageingRecordHourly
  /-- ERROR_LOG_FLASH_COPY (R463). The error log is copied to flash every hour. -/
  | errorLogFlashCopy
  /-- DOMAIN_IDLE_TIMER (R439). A domain's idle time elapses and it moves toward GATED, RET or OFF. -/
  | domainIdleTimer (dom : BitVec 6) (dest : BitVec 2)
  /-- DOMAIN_START_COMPLETE (R38). A domain reaches RUN after its start latency and held accesses are served. -/
  | domainStartComplete (dom : BitVec 6)
  /-- MP_WATCHDOG (R460). The MP watchdog expires: a module-class fault. -/
  | mpWatchdog
  /-- DECAF_ENTRY (R466). A class-6 fault starts Decaf mode: units are stopped, commands killed and state records written. -/
  | decafEntry (cause : BitVec 16)
  /-- DECAF_DRIP_FLUSH (R468). After entry, the leader flushes behind blocks and pages and repeats the committed marker. -/
  | decafDripFlush
  /-- JOURNAL_SPACE (R473). Journal ring space frees and command admission waiting on it resumes. -/
  | journalSpace (p : BitVec 4) (head : BitVec 64)
  /-- REGISTER_WRITE (R8). A write to a register without behaviour of its own stores or is ignored by its access code. -/
  | registerWrite (space : BitVec 2) (who : BitVec 6) (off : BitVec 56) (size : BitVec 4) (value : BitVec 64)
  /-- COOL_MODE_CHANGE (R447). A change of the COOL_MODE strap outside a sample is ignored, and its first occurrence after each sample is logged with code 0x0801. -/
  | coolModeChange (mode : BitVec 2)
  /-- DEVICE_TEMPERATURE_85C (R163). An LPDDR5X device crosses 85 °C and its channels enter or leave double-rate refresh, counted in CH_DERATE_CYCLES. -/
  | deviceTemperature85c (device : BitVec 5) (hot : Bool)
  /-- SERVER_CORE_INTERNAL_ERROR (R460). A server-core internal uncorrectable error restarts the partition's server cores and raises APLIC source 3. -/
  | serverCoreInternalError (hart : BitVec 6)
  /-- VIDEO_UNIT_INTERNAL_ERROR (R460). A video unit internal error ends the unit's sessions with ABORTED_RESET and starts the unit's restart. -/
  | videoUnitInternalError (unit : BitVec 2)
  /-- VIDEO_UNIT_RESTART (R460). 1 ms after an internal error the video unit has restarted and accepts sessions again. -/
  | videoUnitRestart (unit : BitVec 2)
  /-- REGULATOR_FAULT (R460). A regulator or die-supply fault is detected and the module enters Decaf mode with code 0x0702. -/
  | regulatorFault
  /-- ENTROPY_HEALTH_FAILURE (R489). The SEC entropy source fails its health tests, the generator stops and the module enters Decaf mode with code 0x0707. -/
  | entropyHealthFailure
  /-- REGULATORS_STOP (R500). After input loss the bulk capacitance falls to 38.0 V and the regulators stop, ending all operation. -/
  | regulatorsStop
  /-- CONFIGURATION_REQUEST (R391). A PCI Express configuration request is answered with Request Retry Status until firmware is attested, and otherwise acts on configuration space such as VF Enable and MSI-X enable and function mask. -/
  | configurationRequest (fn : BitVec 4) (off : BitVec 12) (write : Bool) (value : BitVec 32)
  /-- MSIX_ENTRY_UNMASK (R365). Clearing an MSI-X entry mask sends any message left pending for that entry. -/
  | msixEntryUnmask (fn : BitVec 4) (entry : BitVec 11)
  /-- LPDDR5X_INIT_COMPLETE (R458). The power-on zeroing of LPDDR5X ends and the MP begins to accept PARTITION_CREATE and queue commands. -/
  | lpddr5xInitComplete
  /-- PFC_PAUSE_EXPIRY (R334). The pause time of an obeyed PFC frame runs out and transmission resumes on the configured priority. -/
  | pfcPauseExpiry (port : BitVec 4)
  /-- DEBUG_PORT_ACCESS (R490). A JTAG access through the debug port reads the IDCODE in state 0, observes in state 1, or reads and writes any register or memory in state 2. -/
  | debugPortAccess (write : Bool) (addr : BitVec 56) (value : BitVec 64)
deriving DecidableEq, Repr

end Sys2Proof
end

