-- ==== Sys2Proof/Decode.lean ====
section
/-! DEFINITION. The command that a word of bits spells. The command table gives no row any bits, so no word spells one. -/

namespace Sys2Proof

/-- The command of a word. The block's commands arrive as events, register accesses, frames and descriptors, not as
encoded words: `spec/opcode_table.json` gives no row a bit, so every word is refused. (DESIGN CHOICE, log entry 3) -/
def decodeTableWord (_nbits _w : Nat) : Option Instr := none

end Sys2Proof
end

