-- ==== Sys2Proof/Config.lean ====
section
/-! DEFINITION. What an implementation fixes and the spec does not give: free values, none of which has a body. -/

namespace Sys2Proof.Config

/-- Which of the FP32 results within the bound of Table 2-6 the A1 function reference returns for a vector function (R505): `op` is
the op code of Table 4-7. The special results of Table 2-6 and the bound are enforced where it is used. (DESIGN CHOICE, log entry 19) -/
opaque vecFn : Nat → Word32 → Word32

/-- Which of the results within the bound of Table 2-7 the A1 function reference returns for a drain function f (R505): `f` is the
code of the MOD. (DESIGN CHOICE, log entry 19) -/
opaque drainFn : Nat → Word32 → Word32

/-- Which of the results within the bound of Table 2-7 the A1 function reference returns for a derivative f′ (R505). (DESIGN CHOICE, log entry 19) -/
opaque drainDeriv : Nat → Word32 → Word32

/-- The Eskor results of the vector functions, from the forerunner's tables (R74, Table 2-9). (DESIGN CHOICE, log entry 20) -/
opaque eskorVecFn : Nat → Word32 → Word32

/-- The Eskor results of the drain functions (R74). (DESIGN CHOICE, log entry 20) -/
opaque eskorDrainFn : Nat → Word32 → Word32

/-- The Eskor results of the drain derivatives (R74). (DESIGN CHOICE, log entry 20) -/
opaque eskorDrainDeriv : Nat → Word32 → Word32

/-- A byte of host memory that the module has not written: by partition and bus address. (DESIGN CHOICE, log entry 6) -/
opaque hostByte : Nat → Nat → Byte

/-- The n-th free value drawn: what the spec leaves undefined, unstated or to an entropy source. (DESIGN CHOICE, log entry 7) -/
opaque freeValue : Nat → Nat

/-- Does an ECDSA P-384 signature over a digest verify under a public key (R482)? key, digest, signature. -/
opaque ecdsaVerify : List Byte → List Byte → List Byte → Bool

/-- Does an LMS signature over a digest verify under a public key (R482)? -/
opaque lmsVerify : List Byte → List Byte → List Byte → Bool

/-- The ECDSA P-384 signature of the module's attestation key over a digest: 96 bytes are used (R455, R486). -/
opaque signature : List Byte → List Byte

/-- The answer to an SPDM request that the SPDM standard, not this manual, fixes (R485): code and request bytes. (PRESUMED, log entry 24) -/
opaque spdmAnswer : Nat → List Byte → List Byte

/-- The image of a firmware component that the module was made with: header and payload (R478). (DESIGN CHOICE, log entry 61) -/
opaque factoryImage : Nat → List Byte

/-- Offset of the MSI-X message control word in configuration space. (PRESUMED, log entry 62) -/
opaque msixControl : Nat

/-- Offset of the SR-IOV control word in PF0's configuration space. (PRESUMED, log entry 62) -/
opaque sriovControl : Nat

/-- SHA-384 of the vendor's ECDSA public key, as OTP holds it (R479). -/
opaque otpEcdsaHash : Nat

/-- SHA-384 of the vendor's LMS public key, as OTP holds it (R479). -/
opaque otpLmsHash : Nat

/-- SHA-384 of the boot ROM (R480). -/
opaque romDigest : Nat

/-- The cycle in which ENG_STATUS is read was a freeze cycle (Table 3-11): by core and ARR count. (DESIGN CHOICE, log entry 68) -/
opaque engineFrozen : Nat → Nat → Bool

/-- The bytes of measurement blocks 7 and 8 (Table 17-3), of which the spec gives the contents and no layout. -/
opaque blockLayout : Nat → List Nat → List Byte

/-- The type byte of a measurement block in an attestation report (Table 17-4). -/
opaque blockType : Nat → Nat

/-- A part of a debug token (R490), to which the spec gives no layout: 0 challenge, 1 module ID, 2 requested state, 3 the signed
message, 4 and 5 the vendor's ECDSA and LMS public keys, 6 and 7 the two signatures. -/
opaque tokenField : Nat → List Byte → List Byte

/-- The IDCODE of the JTAG port (R490). -/
opaque idcode : Nat

end Sys2Proof.Config
end

