-- ==== Sys2Proof/Machine/Maps.lean ====
section
/-! DEFINITION. Sparse tables: lists of (key, value) pairs with strictly rising keys, and byte strings. -/

namespace Sys2Proof.Machine

/-- A sparse table keyed by a number; the keys rise strictly. What an absent key stands for is said where a table is read. -/
abbrev SMap (α : Type) := List (Nat × α)

/-- The entry at key `k`. -/
def mapGet {α : Type} : SMap α → Nat → Option α
  | [], _ => none
  | (j, v) :: rest, k => if j = k then some v else mapGet rest k

/-- The entry at key `k`, or `d` where there is none. -/
def mapGetD {α : Type} (m : SMap α) (k : Nat) (d : α) : α := (mapGet m k).getD d

/-- Is there an entry at key `k`? -/
def mapHas {α : Type} (m : SMap α) (k : Nat) : Bool := (mapGet m k).isSome

/-- The table with `v` at key `k`; the keys keep rising. -/
def mapSet {α : Type} : SMap α → Nat → α → SMap α
  | [], k, v => [(k, v)]
  | (j, w) :: rest, k, v =>
    if k < j then (k, v) :: (j, w) :: rest
    else if k = j then (k, v) :: rest
    else (j, w) :: mapSet rest k v

/-- The table without key `k`. -/
def mapErase {α : Type} : SMap α → Nat → SMap α
  | [], _ => []
  | (j, w) :: rest, k => if k = j then rest else (j, w) :: mapErase rest k

/-- The table with `f` applied to the entry at key `k`, if there is one. -/
def mapModify {α : Type} (m : SMap α) (k : Nat) (f : α → α) : SMap α :=
  match mapGet m k with
  | none => m
  | some v => mapSet m k (f v)

/-- The table with `f` applied to every entry. -/
def mapAll {α : Type} (m : SMap α) (f : Nat → α → α) : SMap α :=
  m.map (fun p => (p.1, f p.1 p.2))

/-- The entries that satisfy `p`. -/
def mapFilter {α : Type} (m : SMap α) (p : Nat → α → Bool) : SMap α :=
  m.filter (fun e => p e.1 e.2)

/-- The keys, rising. -/
def mapKeys {α : Type} (m : SMap α) : List Nat := m.map Prod.fst

/-- The first key at or above `k` (and below `k + fuel`) that is free. -/
def mapFree {α : Type} (m : SMap α) (k : Nat) : Nat → Nat
  | 0 => k
  | fuel + 1 => if mapHas m k then mapFree m (k + 1) fuel else k

/-- The keys of a table rise strictly. -/
def mapWf {α : Type} : SMap α → Bool
  | [] => true
  | [_] => true
  | (j, _) :: (k, w) :: rest => decide (j < k) && mapWf ((k, w) :: rest)

end Sys2Proof.Machine
end

