-- ==== Sys2Proof/Machine/Bits.lean ====
section
/-! DEFINITION. Bit fields, sign extension, byte order (R6) and crema pairs (R12, R13). -/

namespace Sys2Proof.Machine

/-- Bits [lo + w − 1 : lo] of a number. -/
def natField (x lo w : Nat) : Nat := (x >>> lo) % 2 ^ w

/-- Bit `i` of a number. -/
def natBit (x i : Nat) : Bool := x.testBit i

/-- A number with bits [lo + w − 1 : lo] replaced by the low `w` bits of `v`. -/
def natSetField (x lo w v : Nat) : Nat :=
  x - (natField x lo w <<< lo) + ((v % 2 ^ w) <<< lo)

/-- One where the condition holds, zero otherwise. -/
def bitOf (b : Bool) : Nat := if b then 1 else 0

/-- The signed value of the low `w` bits of a number. -/
def natToInt (w x : Nat) : Int :=
  let y := x % 2 ^ w
  if 2 * y < 2 ^ w then (y : Int) else (y : Int) - (2 ^ w : Nat)

/-- The low `w` bits of a signed number, as a number. -/
def intToNat (w : Nat) (x : Int) : Nat := (x % (2 ^ w : Nat)).toNat

/-- The little-endian bytes of a number (R6). -/
def natToBytes : Nat → Nat → List Byte
  | 0, _ => []
  | n + 1, x => BitVec.ofNat 8 x :: natToBytes n (x / 256)

/-- The number that bytes spell, little-endian (R6). -/
def bytesToNat : List Byte → Nat
  | [] => 0
  | b :: bs => b.toNat + 256 * bytesToNat bs

/-- `n` bytes of a byte string from offset `off`, zeros beyond its end. -/
def sliceBytes (bs : List Byte) (off n : Nat) : List Byte :=
  (List.range n).map (fun i => bs.getD (off + i) 0)

/-- The little-endian field of `n` bytes at offset `off` of a byte string (R6). -/
def fieldAt (bs : List Byte) (off n : Nat) : Nat := bytesToNat (sliceBytes bs off n)

/-- Are the `n` bytes at offset `off` all zero? -/
def zeroAt (bs : List Byte) (off n : Nat) : Bool := (sliceBytes bs off n).all (· == 0)

/-- A byte string with the bytes `ws` written at offset `off`; nothing is written beyond its end. -/
def putBytes (bs : List Byte) (off : Nat) (ws : List Byte) : List Byte :=
  (List.range bs.length).map
    (fun i => if off ≤ i ∧ i < off + ws.length then ws.getD (i - off) 0 else bs.getD i 0)

/-- CP32(V), the 64-bit crema pair of a 32-bit value (R12). -/
def cp32 (v : Word32) : Word64 := (~~~v) ++ v

/-- CP64(V), the 128-bit crema pair of a 64-bit value (R12). -/
def cp64 (v : Word64) : BitVec 128 := (~~~v) ++ v

/-- The value of a CP32, where the pair is valid (R13). -/
def cp32Value (p : Word64) : Option Word32 :=
  let lo := p.setWidth 32
  let hi := (p >>> 32).setWidth 32
  if hi = ~~~lo then some lo else none

/-- The value of a CP64, where the pair is valid (R13). -/
def cp64Value (p : BitVec 128) : Option Word64 :=
  let lo := p.setWidth 64
  let hi := (p >>> 64).setWidth 64
  if hi = ~~~lo then some lo else none

/-- The value of the CP32 at offset `off` of a structure, where it is valid. -/
def cp32At (bs : List Byte) (off : Nat) : Option Nat :=
  (cp32Value (BitVec.ofNat 64 (fieldAt bs off 8))).map (·.toNat)

/-- The value of the CP64 at offset `off` of a structure, where it is valid. -/
def cp64At (bs : List Byte) (off : Nat) : Option Nat :=
  (cp64Value (BitVec.ofNat 128 (fieldAt bs off 16))).map (·.toNat)

/-- The bytes of CP32(v). -/
def cp32Bytes (v : Nat) : List Byte := natToBytes 8 (cp32 (BitVec.ofNat 32 v)).toNat

/-- The bytes of CP64(v). -/
def cp64Bytes (v : Nat) : List Byte := natToBytes 16 (cp64 (BitVec.ofNat 64 v)).toNat

/-- A wrapping 64-bit counter advanced by `n` (R111). -/
def bump (c : Word64) (n : Nat) : Word64 := c + BitVec.ofNat 64 n

/-- A value limited to a range. -/
def clampInt (lo hi x : Int) : Int := if x < lo then lo else if hi < x then hi else x

end Sys2Proof.Machine
end

