-- ==== Sys2Proof/Machine/CoreState.lean ====
section
/-! DEFINITION. State of one accelerator core: sequencer, vector unit, engine, WGB, DMA port (R110, R117, R128, R149). -/

namespace Sys2Proof.Machine

/-- CORE_STATUS.state (Table 4-16). -/
inductive CoreRun where
  | idle
  | running
  | stopped
  | killed
deriving DecidableEq, Repr

/-- What a running core waits for before its next instruction issues (R119, R126, R143, R144). -/
inductive CoreWait where
  | none
  | tickets (t : Word32)          -- lx.ewait
  | engineEmpty                   -- lx.equiesce
  | dmaTag (t : Word32)           -- lx.dwait
  | dmaAll                        -- lx.dfence
  | barrier (die : Bool) (id : Nat) (since : Word64)   -- lx.bar.c, lx.bar.d
  | ending (exit : Word32)        -- lx.end
deriving DecidableEq, Repr

/-- A matrix operation descriptor as the engine reads it at issue (Table 4-4). -/
structure Mod where
  staAddr : Nat
  staScale : Nat
  strAddr : Nat
  strStride : Nat
  strScale : Nat
  strScaleStride : Nat
  outAddr : Nat
  outStride : Nat
  outScale : Nat
  outScaleStride : Nat
  auxAddr : Nat
  auxStride : Nat
  accAddr : Nat
  accStride : Nat
  vecAddr : Nat
  fmtSta : Nat
  fmtStr : Nat
  fmtOut : Nat
  fmtAux : Nat
  drain : Nat
  func : Nat
  sr : Bool
  nanOpt : Bool
  kExt : Nat
  tensorId : Nat
  streamId : Nat
  idxBase : Nat
  idxRowStride : Nat
deriving DecidableEq, Repr

/-- Where an engine instruction stands (R79, R80, R87). -/
inductive EngPhase where
  | issued      -- its tile is not yet in the shadow register
  | loaded      -- its tile is complete in the shadow register
  | streaming   -- its rows enter the array
deriving DecidableEq, Repr

/-- One aligned group held in the cells: last place, signed significands, non-finite mark (R55, R57). -/
structure TileGroup where
  lsb : Int
  vals : List Int
  nonfinite : Bool
deriving DecidableEq, Repr

/-- An engine instruction that is not complete. -/
structure EngInst where
  ticket : Word32
  shape : Nat
  transposed : Bool
  ws : Nat
  rows : Nat
  desc : Mod
  phase : EngPhase
  /-- The stationary tile, column by column, each with its groups in ascending k (R54). -/
  tile : List (List TileGroup)
  /-- Streamed rows whose results are in scratch (R87). -/
  drained : Nat
deriving DecidableEq, Repr

/-- Tamp state of an engine (R97, R98). -/
inductive Ramp where
  | steady
  | wantUp (since : Word64)
  | wantDown
  | goingUp (since grant : Word64)
  | goingDown (grant : Word64) (workSince : Option Word64)
deriving DecidableEq, Repr

/-- A DMA that is issued and not complete (Table 4-13). -/
structure Dma where
  tag : Word32
  /-- The word of its lx.dma, for CORE_FAULT. -/
  insn : Word32
  src : Nat
  dst : Nat
  rowBytes : Nat
  rows : Nat
  srcStride : Nat
  dstStride : Nat
  fill : Bool
  pattern : Word64
  /-- The transfer itself is over; the tag completes once earlier ones do (R143). -/
  moved : Bool
deriving DecidableEq, Repr

/-- The fields of a WGB descriptor (Table 4-6). -/
structure WgbDesc where
  addr : Nat
  normAddr : Nat
  tensorId : Nat
  add : Bool
  final : Bool
deriving DecidableEq, Repr

/-- A recorded WGB operation (Table 3-8). -/
inductive WgbOp where
  | zero (tile : Nat)
  | fold (src tile : Nat)
  | spill (src : Nat) (d : WgbDesc)
  | flush (tile : Nat) (d : WgbDesc)
deriving DecidableEq, Repr

/-- A spill record on its way to the update lanes (R107). -/
structure SpillRecord where
  core : Nat
  data : List Byte
  desc : WgbDesc
deriving DecidableEq, Repr

/-- The engine and its counters (Table 3-10, Table 3-11). -/
structure Engine where
  insts : List EngInst
  lastTicket : Word32
  doneTicket : Word32
  colsOn : Nat
  ramp : Ramp
  streamCycles : Word64
  overheadCycles : Word64
  freezeFeed : Word64
  freezeDrain : Word64
  freezeBudget : Word64
  loadWait : Word64
  tampCycles : Word64
  nonfinite : Word64
deriving DecidableEq, Repr

/-- Reset values of the engine registers (Table 3-10; no column active after core reset, R97). -/
def Engine.reset : Engine :=
  { insts := [], lastTicket := 0, doneTicket := 0, colsOn := 0, ramp := .steady,
    streamCycles := 0, overheadCycles := 0, freezeFeed := 0, freezeDrain := 0, freezeBudget := 0,
    loadWait := 0, tampCycles := 0, nonfinite := 0 }

/-- The command that a core runs and the share of scratch it runs in (R117, Table 4-1). -/
structure CoreJob where
  queue : Nat
  pos : Nat
  partition : Nat
  rank : Nat
  nranks : Nat
  shareBase : Nat
  shareSize : Nat
  textBase : Nat
  textSize : Nat
  args : Vector Word32 4
deriving DecidableEq, Repr

/-- No command. -/
def CoreJob.none : CoreJob :=
  { queue := 0, pos := 0, partition := 0, rank := 0, nranks := 0, shareBase := 0, shareSize := 0,
    textBase := 0, textSize := 0, args := Vector.replicate 4 0 }

/-- The architectural registers of the sequencer and the vector unit (R117, R128, R135). -/
structure CoreRegs where
  pc : Word32
  x : Vector Word32 32
  v : Vector (BitVec 2048) 32
  c : Vector Word64 4
  vl : Nat
  rngStream : Word32
  rngOp : Word32
  rngIdx : Word64
deriving DecidableEq, Repr

/-- All registers zero. -/
def CoreRegs.zero : CoreRegs :=
  { pc := 0, x := Vector.replicate 32 0, v := Vector.replicate 32 0, c := Vector.replicate 4 0,
    vl := 0, rngStream := 0, rngOp := 0, rngIdx := 0 }

/-- One accelerator core. Its scratch and WGB bytes are in the device memory, in its core window (R32). -/
structure Core where
  run : CoreRun
  wait : CoreWait
  regs : CoreRegs
  job : CoreJob
  /-- The exit word of a program that ended (R119). -/
  exitWord : Option Word32
  startCycle : Word64
  instret : Word64
  dmas : List Dma
  dmaTag : Word32
  dmaDone : Word32
  wgbOps : List WgbOp
  torn : BitVec 4
  committing : Bool
  engine : Engine
  spillBytes : Word64
  faultCause : Nat
  faultStatus : Nat
  faultInsn : Word32
  faultAddr : Word64
  seqInstret : Word64
  seqStall : Word64
  vecBusy : Word64
  dmaBytesRd : Word64
  dmaBytesWr : Word64
  barWait : Word64
  rngBlocks : Word64
deriving DecidableEq, Repr

/-- A core after core reset: every register of Tables 3-10 and 4-15 at 0. (DESIGN CHOICE, log entry 4) -/
def Core.reset : Core :=
  { run := .idle, wait := .none, regs := CoreRegs.zero, job := CoreJob.none, exitWord := none,
    startCycle := 0, instret := 0, dmas := [], dmaTag := 0, dmaDone := 0, wgbOps := [], torn := 0,
    committing := false, engine := Engine.reset, spillBytes := 0, faultCause := 0, faultStatus := 0,
    faultInsn := 0, faultAddr := 0, seqInstret := 0, seqStall := 0, vecBusy := 0, dmaBytesRd := 0,
    dmaBytesWr := 0, barWait := 0, rngBlocks := 0 }

end Sys2Proof.Machine
end

