-- ==== Sys2Proof/Machine/MemState.lean ====
section
/-! DEFINITION. State of the memory tiers and of coherence: channels, host-tier registrations, tiered objects, migrations, holds, caches and home nodes (chapters "Memory tiers" and "Coherence inside the package"). -/

namespace Sys2Proof.Machine

/-- Registers of one LPDDR5X channel, its pool unit and its update lane (Tables 5-3, 8-5, 10-20). -/
structure Channel where
  bytesRd : Word64
  bytesWr : Word64
  eccCorr : Word64
  eccUncorr : Word64
  derateCycles : Word64
  scrubPasses : Word64
  puLookupRows : Word64
  puSorted : Word64
  puUpdateRows : Word64
  puRelayoutBytes : Word64
  puRelayoutRestarts : Word64
  puRelayoutPause : Word64
  puFloor : Word64
  puRowWait : Word64
  ulBlocks : Word64
  ulBytesRd : Word64
  ulBytesWr : Word64
  ulRecovered : Word64
  ulFetched : Word64
  ulDripBehind : Word64
  ulDripStaged : Word64
deriving DecidableEq, Repr

/-- Every channel register at module reset (Tables 5-3, 8-5, 10-20). -/
def Channel.reset : Channel :=
  { bytesRd := 0, bytesWr := 0, eccCorr := 0, eccUncorr := 0, derateCycles := 0, scrubPasses := 0,
    puLookupRows := 0, puSorted := 0, puUpdateRows := 0, puRelayoutBytes := 0, puRelayoutRestarts := 0,
    puRelayoutPause := 0, puFloor := 0, puRowWait := 0, ulBlocks := 0, ulBytesRd := 0, ulBytesWr := 0,
    ulRecovered := 0, ulFetched := 0, ulDripBehind := 0, ulDripStaged := 0 }

/-- Where a registration's memory lies (Table 13-18 kinds). -/
inductive RegionKind where
  | hostTier
  | tiered
  | placement
  | adapterRead
deriving DecidableEq, Repr

/-- A host-tier registration (R166). -/
structure HostReg where
  base : Nat
  bytes : Nat
  bus : Nat
deriving DecidableEq, Repr

/-- A tiered object (Table 5-4) and what the module holds about it. The tier map is in device memory at `mapAddr`. -/
structure TieredObject where
  base : Nat
  pages : Nat
  backing : Nat
  mapAddr : Nat
  /-- Every frame of the pool. -/
  pool : List Nat
  /-- The frames that hold no page. -/
  free : List Nat
  fixed : Bool
  chans : List Nat
  threshold : Nat
  /-- Pages in T1, earliest promotion first (R172). -/
  resident : List Nat
  /-- Access counts of T2 pages whose entry a home node caches (R172). -/
  counts : SMap Nat
  /-- Pages that pool units hold as an access in progress (R251). -/
  pinned : List Nat
  /-- REGION_UNREGISTER waits for the object's migrations (R177). -/
  closing : Bool
deriving DecidableEq, Repr

/-- The direction of a migration. -/
inductive MigDir where
  | promote
  | demote
deriving DecidableEq, Repr

/-- What asked for a migration (R172). -/
inductive MigSource where
  | demand
  | cold
  | explicit
  | offload
deriving DecidableEq, Repr

/-- A migration in flight (R173, R174). -/
structure Migration where
  object : Nat
  page : Nat
  dir : MigDir
  source : MigSource
  /-- The step of Table 5-7 or 5-8 in progress. -/
  step : Nat
  frame : Nat
  /-- It failed and waits for its 100 µs retry (R175). -/
  retryWait : Bool
deriving DecidableEq, Repr

/-- A migration request queued behind one in the opposite direction, or waiting for quota (R174, R282). -/
structure MigRequest where
  object : Nat
  page : Nat
  dir : MigDir
  source : MigSource
deriving DecidableEq, Repr

/-- Stall causes (Table 5-9), in code order. -/
inductive StallCause where
  | pageInFlight
  | coldPromote
  | hostLate
  | hostTimeout
  | hostError
  | linkDown
  | poolEmpty
  | migrationFull
deriving DecidableEq, Repr

/-- The code of a stall cause (Table 5-9). -/
def StallCause.code : StallCause → Nat
  | .pageInFlight => 1
  | .coldPromote => 2
  | .hostLate => 3
  | .hostTimeout => 4
  | .hostError => 5
  | .linkDown => 6
  | .poolEmpty => 7
  | .migrationFull => 8

/-- The command that a held request belongs to, if any. -/
structure CmdRef where
  queue : Nat
  pos : Nat
deriving DecidableEq, Repr

/-- A request held for a stall cause (R178). -/
structure Hold where
  partition : Nat
  cause : StallCause
  /-- AON cycle of its first held cycle. -/
  since : Word64
  notified : Bool
  cmd : Option CmdRef
  addr : Nat
  object : Nat
  page : Nat
  /-- The outstanding host read it waits for, if it waits for one. -/
  read : Option Nat
deriving DecidableEq, Repr

/-- What an outstanding host read is for (R363, R372). -/
inductive HostReadFor where
  | migration
  | descriptor (q pos : Nat)
  | request
deriving DecidableEq, Repr

/-- A read of host memory that is outstanding on the host link (R363). -/
structure HostRead where
  partition : Nat
  bus : Nat
  bytes : Nat
  purpose : HostReadFor
  /-- Device address of the access it serves. -/
  addr : Nat
  cmd : Option CmdRef
  since : Word64
  late : Bool
  /-- It ended by timeout or error and waits to be reissued (R179). -/
  failed : Bool
  /-- Its data has arrived and has not been used. -/
  done : Bool
deriving DecidableEq, Repr

/-- Tier registers of a partition (Table 5-10). -/
structure TierRegs where
  eskor : Bool
  late : Nat
  limit : Nat
  deadline : Nat
  promoted : Word64
  demoted : Word64
  reqDropped : Word64
  isoViolations : Word64
  stallEvents : Vector Word64 8
  stallAon : Vector Word64 8
deriving DecidableEq, Repr

/-- Reset values of Table 5-10. -/
def TierRegs.reset : TierRegs :=
  { eskor := false, late := 500, limit := 2500000, deadline := 25000, promoted := 0, demoted := 0,
    reqDropped := 0, isoViolations := 0, stallEvents := Vector.replicate 8 0,
    stallAon := Vector.replicate 8 0 }

/-- MOESI states of a cached line (Table 6-2); an absent line is I. -/
inductive LineState where
  | modified
  | owned
  | exclusive
  | shared
deriving DecidableEq, Repr

/-- A line in a cache agent (R191, R199, R201). -/
structure CacheLine where
  state : LineState
  data : BitVec 512
  /-- The line was installed in E or M and its hold has not ended (R201). -/
  held : Bool
  /-- Cycle of its hold domain in which it was installed (R201). -/
  since : Word64
  /-- The holder has sent WbD or Evict and the home node has not acknowledged it (R199). -/
  writeBack : Bool
deriving DecidableEq, Repr

/-- State of a directory entry (R192). -/
inductive DirState where
  | shared
  | owned
deriving DecidableEq, Repr

/-- A valid directory entry (Table 6-3). A free entry (state U) is absent. -/
structure DirEntry where
  lid : Nat
  state : DirState
  owner : Nat
  sharers : BitVec 9
  partition : Nat
  busy : Bool
  way : Nat
  /-- Allocation order among the entries of the home node (R195). -/
  stamp : Nat
deriving DecidableEq, Repr

/-- A coherence request (Table 6-4). -/
inductive CohReq where
  | rds
  | rdu
  | clnu
  | wbd
  | evict
  | rdonce
  | wru
  | atmh
  | atmf
  | recall
deriving DecidableEq, Repr

/-- The snoops a home node sends (Table 6-4). -/
inductive SnoopKind where
  | share
  | unique
  | invalidate
  | once
deriving DecidableEq, Repr

/-- An atomic operation (Table 6-7). -/
inductive AtomicOp where
  | add
  | minS
  | maxS
  | minU
  | maxU
  | and
  | or
  | xor
  | swap
  | cas
  | faddFp32
  | faddBf16x2
deriving DecidableEq, Repr

/-- Where a snoop stands (R197, R201). -/
inductive SnoopStage where
  | sent
  | waiting      -- it waits at the cache for the end of a hold
  | answered     -- its response is on the way to the home node
deriving DecidableEq, Repr

/-- A snoop whose response the home node has not received. -/
structure Snoop where
  agent : Nat
  kind : SnoopKind
  stage : SnoopStage
  /-- It was answered after a hold wait. -/
  afterHold : Bool
  /-- Dirty data that the response returns to the home node. -/
  back : Option (BitVec 512)
deriving DecidableEq, Repr

/-- A transaction that a home node runs (R197), or a request it has accepted and holds back (R195, R198). -/
structure CohTxn where
  agent : Nat
  lid : Nat
  req : CohReq
  partition : Nat
  /-- It occupies a reserved tracker entry (R202). -/
  credit : Bool
  snoops : List Snoop
  /-- Line data on its way to the requester; for an atomic, the old value. -/
  data : Option (BitVec 512)
  /-- That data came from a dirty owner, and memory is stale. -/
  dirty : Bool
  /-- Byte enables and bytes of a write. -/
  mask : BitVec 64
  wdata : BitVec 512
  /-- Atomic: operation, operand, comparand, offset in the line, bytes. -/
  op : AtomicOp
  operand : Nat
  cmp : Nat
  offset : Nat
  size : Nat
  /-- State in which the requester gets the line. -/
  grant : Option LineState
  /-- Directory entry after the transaction: none for U. -/
  afterState : Option DirState
  afterOwner : Nat
  afterSharers : BitVec 9
  /-- Its Comp can be delivered. -/
  ready : Bool
  /-- Data or Comp has been delivered: it waits for CompAck (R197). -/
  acking : Bool
deriving DecidableEq, Repr

/-- A reserved tracker entry of a requester, with the request that it will resend (R202). -/
structure Reservation where
  txn : CohTxn
  since : Word64
deriving DecidableEq, Repr

/-- A home node: directory, tracker, reservations and registers (R192, R202, Table 6-9). -/
structure HomeNode where
  dir : SMap DirEntry
  allocs : Nat
  txns : List CohTxn
  waiting : List CohTxn
  reservations : List Reservation
  accepted : Word64
  retries : Word64
  resvLapsed : Word64
  snoopHeld : Word64
  dirEvictions : Word64
  homeAtomics : BitVec 32
  farAtomics : BitVec 32
  fpAtomics : Word64
  eccCorr : Word64
  eccUncorr : Word64
deriving DecidableEq, Repr

/-- A home node at module reset (Table 6-9). -/
def HomeNode.reset : HomeNode :=
  { dir := [], allocs := 0, txns := [], waiting := [], reservations := [], accepted := 0, retries := 0,
    resvLapsed := 0, snoopHeld := 0, dirEvictions := 0, homeAtomics := 0, farAtomics := 0,
    fpAtomics := 0, eccCorr := 0, eccUncorr := 0 }

end Sys2Proof.Machine
end

