-- ==== Sys2Proof/Machine/PortState.lean ====
section
/-! DEFINITION. State of the scale-out ports, flow contexts and collective engines (chapter 11). -/

namespace Sys2Proof.Machine

/-- Port states (R334). -/
inductive PortPhase where
  | disabled
  | training
  | up
  | down
deriving DecidableEq, Repr

/-- A scale-out port: settings (Table 11-1), status and counters (Tables 11-14, 11-15). -/
structure Port where
  phase : PortPhase
  /-- LINK_CONFIG's mode is not disabled. -/
  enabled : Bool
  /-- FUNCTION_DISABLE has disabled it (R416). -/
  blocked : Bool
  kr : Bool
  polarity : Nat
  reversed : Bool
  mac : Nat
  vlan : Option Nat
  obeyPfc : Bool
  macsec : Bool
  replayWindow : Nat
  initialRto : Nat
  targetRtt : Nat
  peerTimeout : Nat
  laggard : Nat
  secured : Bool
  laneLock : Nat
  localFault : Bool
  remoteFault : Bool
  /-- Transmission paused under Obey PFC, until this LNK cycle. -/
  paused : Option Word64
  txFrames : Word64
  rxFrames : Word64
  txBytes : Word64
  rxBytes : Word64
  rxDropped : Word64
  fcsErrors : Word64
  fecCorrected : Word64
  fecUncorrected : Word64
  retx : Word64
  duplicates : Word64
  noStaging : Word64
  macsecDrops : Word64
  pauseFrames : Word64
  downEvents : Word64
deriving DecidableEq, Repr

/-- A port at module reset: the defaults of Table 11-1 and zero counters. The MAC is that of the fused block, given per port. -/
def Port.reset (mac : Nat) : Port :=
  { phase := .disabled, enabled := false, blocked := false, kr := false, polarity := 0, reversed := false, mac := mac, vlan := none,
    obeyPfc := false, macsec := false, replayWindow := 64, initialRto := 50000, targetRtt := 20000,
    peerTimeout := 200000, laggard := 50, secured := false, laneLock := 0, localFault := false,
    remoteFault := false, paused := none, txFrames := 0, rxFrames := 0, txBytes := 0, rxBytes := 0,
    rxDropped := 0, fcsErrors := 0, fecCorrected := 0, fecUncorrected := 0, retx := 0, duplicates := 0,
    noStaging := 0, macsecDrops := 0, pauseFrames := 0, downEvents := 0 }

/-- A transport header and its payload (Tables 11-2, 11-3). -/
structure TFrame where
  ver : Nat
  type : Nat
  cls : Nat
  flags : Nat
  netId : Nat
  srcModule : Nat
  dstModule : Nat
  srcFlow : Nat
  dstFlow : Nat
  gen : Nat
  psn : Nat
  ackPsn : Nat
  ts : Nat
  sack : Nat
  tsEcho : Nat
  tag : Nat
  op : Nat
  cause : Nat
  seq : Nat
  chunk : Nat
  dstGen : Nat
  payload : List Byte
deriving DecidableEq, Repr

/-- A DATA frame sent and not acknowledged. -/
structure SentFrame where
  frame : TFrame
  plane : Nat
  sentAt : Word64
  resent : Bool
  fastAt : Option Word64
  acked : Bool
deriving DecidableEq, Repr

/-- Flow states (Table 11-7). -/
inductive FlowPhase where
  | connecting
  | open
  | unreachable
  | closing
deriving DecidableEq, Repr

/-- A flow context in use (Table 11-7). -/
structure Flow where
  phase : FlowPhase
  partition : Nat
  peer : Nat
  peerFlow : Nat
  netId : Nat
  peerGen : Nat
  planes : Nat
  window : Nat
  txNext : Nat
  txUna : Nat
  rxNext : Nat
  rto : Nat
  /-- Receive bitmap: bit i for PSN rxNext + 1 + i (R344). -/
  rxSack : BitVec 256
  srtt : Nat
  retxRun : Nat
  txFrames : Word64
  rxFrames : Word64
  retxFrames : Word64
  lastAck : Word64
  /-- ts of the latest DATA frame received. -/
  tsEcho : Nat
  sent : List SentFrame
  /-- Chunks that wait for window room, in order. -/
  queue : List TFrame
  lastPlane : Nat
  /-- DATA frames received since the last ACK (R345). -/
  unacked : Nat
  ackedInWindow : Nat
  shrunkAt : Word64
  lastUsed : Word64
  /-- AON cycle of the last frame received from the peer (R348). -/
  lastHeard : Word64
  /-- Accepted chunks of messages that are not complete. -/
  inbox : List TFrame
deriving DecidableEq, Repr

/-- A complete message as received: its source module and header fields (Table 11-3). -/
structure RxMsg where
  src : Nat
  cls : Nat
  tag : Nat
  op : Nat
  cause : Nat
  seq : Nat
  round : Nat
  body : List Byte
deriving DecidableEq, Repr

/-- Registers of a collective engine (Table 11-16). -/
structure CollEngine where
  collectives : Word64
  bytesSent : Word64
  bytesReceived : Word64
  restarts : Word64
  unreachable : Word64
  lagRecords : Word64
  lagSuppressed : Word64
deriving DecidableEq, Repr

/-- A collective engine at module reset (Table 11-16). -/
def CollEngine.reset : CollEngine :=
  { collectives := 0, bytesSent := 0, bytesReceived := 0, restarts := 0, unreachable := 0,
    lagRecords := 0, lagSuppressed := 0 }

end Sys2Proof.Machine
end

