-- ==== Sys2Proof/Machine/JobState.lean ====
section
/-! DEFINITION. State of a training job: tables, re-layouts, mapping tables, steps, commit, drip stream and journal (chapters 8, 9, 10 and 16). -/

namespace Sys2Proof.Machine

/-- A table descriptor as the module copies it (Table 8-1). -/
structure TableDesc where
  rows : Nat
  tableId : Nat
  dim : Nat
  fmt : Nat
  stateWords : Nat
  order : Nat
  tiered : Bool
  n : Nat
  sr : Bool
  nanOpt : Bool
  object : Nat
  firstPage : Nat
  chans : List Nat
  /-- The T1 page numbers of its pages (resident) and of its shadow pages, as the module read them. -/
  frameList : List Nat
  shadowList : List Nat
  g : Nat
  stamp0 : Nat
  tensorId : Nat
deriving DecidableEq, Repr

/-- State of a re-layout region (Table 8-4). -/
inductive RegionState where
  | old
  | moving
  | new
deriving DecidableEq, Repr

/-- A re-layout region; the journal in memory holds the same (R253). -/
structure Region where
  state : RegionState
  copied : Bool
  restarts : Nat
deriving DecidableEq, Repr

/-- Status of a re-layout (Table 8-3). -/
inductive RelayoutStatus where
  | running
  | stopped
  | complete
  | reverted
deriving DecidableEq, Repr

/-- A re-layout of a table (R252). -/
structure Relayout where
  newDesc : TableDesc
  journal : Nat
  bitmap : Nat
  newDescAddr : Nat
  revert : Bool
  status : RelayoutStatus
  epoch : Nat
  flip : Nat
  regions : List Region
deriving DecidableEq, Repr

/-- One touched row of an EMB_UPDATE: its shadow entry (R248). -/
structure ShadowRow where
  row : Nat
  count : Nat
  grad : List Word32
  old : List Byte
deriving DecidableEq, Repr

/-- A table of the job (R237). -/
structure EmbTable where
  desc : TableDesc
  relayout : Option Relayout
  /-- Step whose EMB_UPDATE has reduced this table and not been applied, with its touched rows (R249, R250). -/
  pendingStep : Option Nat
  shadow : List ShadowRow
  /-- Step stamp that the most recent apply wrote (R256). -/
  lastStamp : Nat
deriving DecidableEq, Repr

/-- A role of a mapping table (Table 9-4). -/
structure Role where
  cores : List Nat
  slivers : List Nat
  stage : Option Nat
  sliverFlag : Bool
deriving DecidableEq, Repr

/-- A mapping table (Table 9-3). -/
structure Mapping where
  p : Nat
  v : Nat
  stageDie : List Nat
  roles : List Role
deriving DecidableEq, Repr

/-- A step plan (Table 9-2). -/
structure StepPlan where
  step : Nat
  m : Nat
  mapFb : Nat
  mapRed : Nat
  mapEval : Nat
  rebalance : Bool
  offload : Bool
  prefetchD : Nat
  stale : Nat
  normArea : Nat
  normSlots : Nat
  rebalPm : Nat
  actEntries : Nat
  actTable : Nat
  stampLog : Nat
deriving DecidableEq, Repr

/-- A chunk of the pipeline: direction (true for BWD), micro-batch and virtual stage (R264). -/
structure Chunk where
  bwd : Bool
  i : Nat
  j : Nat
deriving DecidableEq, Repr

/-- A layer's aggregate of norm records (R296). -/
structure LayerAgg where
  ss : Word32
  nf : Nat
  torn : Bool
deriving DecidableEq, Repr

/-- One member's contribution to the CHECK exchange: its shard sums per layer and its lanes (R313, R314). -/
structure CheckMsg where
  member : Nat
  /-- Shard sums: replica group (0xFFFF for a table of this member alone), layer, sum of squares. -/
  shards : List (Nat × Nat × Word32)
  nfc : List Nat
  flag : Bool
  src : Nat
deriving DecidableEq, Repr

/-- One member's digest list for a replica group (R320). -/
structure DigestMsg where
  member : Nat
  group : Nat
  digests : List Nat
deriving DecidableEq, Repr

/-- Where a STEP_COMMIT or STEP_RECOVER stands (Table 10-13). -/
inductive CommitPhase where
  | check
  | digest
  | refetch
  | intentQuery
deriving DecidableEq, Repr

/-- A block that is quarantined and being refetched (R321): directory index, block index, and the members still to be asked. -/
structure Refetch where
  dirIdx : Nat
  block : Nat
  sources : List Nat
  want : Option Nat
deriving DecidableEq, Repr

/-- A running STEP_COMMIT or STEP_RECOVER of the gang lane. -/
structure CommitRun where
  queue : Nat
  pos : Nat
  step : Nat
  recover : Bool
  hyper : Nat
  phase : CommitPhase
  decision : Nat
  clip : Word32
  gnorm : Word32
  absurd : Bool
  layerNorms : List Word32
  layerNf : List Nat
  checks : List CheckMsg
  digests : List DigestMsg
  confirmed : List Nat
  absent : List Nat
  refetch : List Refetch
  fetched : Nat
  recomputed : Nat
  poisoned : Bool
deriving DecidableEq, Repr

/-- The open step (R262 to R265). -/
structure OpenStep where
  step : Nat
  plan : StepPlan
  queue : Nat
  acceptedAon : Word64
  /-- Chunk-end commands that have committed. -/
  ended : List Chunk
  /-- Chunks whose first FWD command has been admitted. -/
  started : List Chunk
  windowClosed : Bool
  /-- REDUCE commands fixed at the cut-off: queue and position (R265). -/
  cutoff : Option (List (Nat × Nat))
  /-- Installed mapping index. -/
  installed : Nat
  /-- Every later tagged command ends with SHARD_VERSION_MISMATCH (Table 9-6); true in the second part halts the job. -/
  mismatch : Option Bool
  sliversMoved : Nat
  agg : SMap LayerAgg
  /-- Lanes of the contributions made on this module (R313). -/
  flag : Bool
  nfc : Nat
  src : Nat
  layerNf : SMap Nat
  /-- Layers reseeded in this step (R324). -/
  reseeded : List Nat
  /-- Tables with an EMB_UPDATE in this step (R249). -/
  updated : List Nat
deriving DecidableEq, Repr

/-- An open evaluation window (R290). -/
structure EvalWindow where
  step : Nat
  installed : Nat
deriving DecidableEq, Repr

/-- STEP_POLICY values (Table 13-3). -/
structure Policy where
  abortOnNonfinite : Bool
  mismatch : Nat
  absurd : Word32
  clip : Word32
  timeout : Nat
  removed : List Nat
deriving DecidableEq, Repr

/-- The defaults at JOB_CONFIG: SKIP, REPORT, +Inf, +Inf, 12,500,000. -/
def Policy.default : Policy :=
  { abortOnNonfinite := false, mismatch := 0, absurd := 0x7F800000, clip := 0x7F800000,
    timeout := 12500000, removed := [] }

/-- A replica group (R320). -/
structure ReplicaGroup where
  members : List Nat
  leaderRank : Nat
deriving DecidableEq, Repr

/-- The drip stream of a job (R325 to R329). -/
structure Drip where
  dest : Nat
  ring : Nat
  size : Nat
  lag : Nat
  /-- The staging list as DRIP_CONFIG read it: per channel, first frame and frames. -/
  stagingList : List Byte
  dripMap : Nat
  tableRate : Nat
  tail : Nat
  lastComplete : Nat
  /-- Blocks behind: directory index, block index, drip step. -/
  behind : List (Nat × Nat × Nat)
  /-- Table pages behind: table, page. -/
  behindPages : List (Nat × Nat)
  /-- Records staged in step 4 and not yet released: channel, directory index, block, record. -/
  staged : List (Nat × Nat × Nat × List Byte)
  /-- Records ready for the ring and waiting for room. -/
  ready : List (List Byte)
  recordsInStep : Nat
  /-- Replica groups that this module leads. -/
  leads : List Nat
deriving DecidableEq, Repr

/-- Retention of a step's retained gradients and shadow entries (R318). -/
structure Retention where
  step : Nat
  waiting : List Nat
deriving DecidableEq, Repr

/-- The job of a partition (Table 13-5) and its progress. -/
structure Job where
  seed : Word64
  firstStep : Nat
  /-- The parameter directory, the layer map and the lane journal addresses, as JOB_CONFIG read them (R401). -/
  paramDir : List Byte
  paramEntries : Nat
  layers : Nat
  netId : Nat
  layerMap : List Byte
  scaleRecords : Nat
  initScale : List Int
  normTable : Nat
  commitRecord : Nat
  laneJournal : List Byte
  groups : List ReplicaGroup
  dpRank : Nat
  checkGroup : List Nat
  /-- Spare frames of each channel's two lane journal slots: master and moment frames (R303). -/
  spares : SMap (List (Nat × Nat))
  tables : SMap EmbTable
  mappings : SMap Mapping
  policy : Policy
  step : Option OpenStep
  eval : Option EvalWindow
  lastPlan : Option StepPlan
  /-- The last committed or skipped step. -/
  committed : Nat
  /-- Status with which the job halted; 0 when running (R315). -/
  halted : Nat
  /-- s_l of each layer (R71). -/
  scale : List Int
  /-- The scale records are tested at the next STEP_BEGIN (R324). -/
  testScale : Bool
  /-- Layers to be reseeded again at the next step (R324). -/
  reseedAgain : List Nat
  collSeq : SMap Nat
  /-- Collective messages of a later sequence number, staged (R353). -/
  early : List RxMsg
  commit : Option CommitRun
  retention : Option Retention
  drip : Option Drip
  phaseRecord : Option (List Byte)
  /-- ARR cycles of roles per die since the last switch event (R271), keyed by (mapping × 256 + role) × 8 + die. -/
  busy : SMap Nat
  /-- Laggard records written in this step (R359). -/
  lagRecords : Nat
deriving DecidableEq, Repr

/-- A ring that the module writes records into: telemetry (R292). -/
structure Ring where
  base : Nat
  size : Nat
  off : Nat
  seq : Word64
deriving DecidableEq, Repr

/-- The Cupping journal of a partition (R471, Table 16-11). -/
structure Journal where
  enable : Nat
  base : Nat
  size : Nat
  tail : Nat
  seq : Word64
  waiting : Bool
  inputBytes : Word64
  fullAon : Word64
  fpStep : Word64
  snapshot : Word64
  /-- Pages of the partition's T1 marked by external writes (R472). -/
  marked : List Nat
  /-- Configuration requests still in force, in the order served (R473). -/
  config : List (List Byte)
  /-- The first STEP_BEGIN after a complete marker writes a snapshot. -/
  snapshotDue : Bool
deriving DecidableEq, Repr

/-- A journal that is off. -/
def Journal.off : Journal :=
  { enable := 0, base := 0, size := 0, tail := 0, seq := 0, waiting := false, inputBytes := 0,
    fullAon := 0, fpStep := 0, snapshot := 0, marked := [], config := [], snapshotDue := false }

end Sys2Proof.Machine
end

