-- ==== Sys2Proof/Machine/ServerState.lean ====
section
/-! DEFINITION. State of the server cores and of a partition's server block (chapter "Server cores and the services they run"). -/

namespace Sys2Proof.Machine

/-- A server core (hart) as far as the module's own rules reach it: its x registers, its LR reservation,
whether the MP has released it, and its desired performance (R215, R216, R231). -/
structure Hart where
  released : Bool
  pc : Word64
  x : Vector Word64 32
  reservation : Option Nat
  desiredMhz : Nat
  /-- Access faults raised on the hart, last one first: cause and address (R36). -/
  faults : List (Nat × Nat)
deriving DecidableEq, Repr

/-- A hart in reset. (DESIGN CHOICE, log entry 4) -/
def Hart.reset : Hart :=
  { released := false, pc := 0, x := Vector.replicate 32 0, reservation := none, desiredMhz := 2000,
    faults := [] }

/-- One file of an IMSIC (R224): pending bits of identities 1 to 511. -/
structure ImsicFile where
  pend : BitVec 512
deriving DecidableEq, Repr

/-- No identity pending. -/
def ImsicFile.reset : ImsicFile := { pend := 0 }

/-- Server boot of a partition (Table 7-5, R232). -/
structure Boot where
  step : Nat
  status : Word64
  /-- AON cycle of step 5. -/
  since : Word64
deriving DecidableEq, Repr

/-- No boot has run. -/
def Boot.reset : Boot := { step := 0, status := 0, since := 0 }

/-- An invalidation request of IOMMU_INVAL (Table 7-4). -/
structure IommuInval where
  pasid : Nat
  all : Bool
  region : Bool
  va : Nat
deriving DecidableEq, Repr

/-- Server registers of a partition (Table 7-3). -/
structure ServerRegs where
  pdtp : Word64
  /-- The value in force for translations; a write takes effect at the next IOMMU_SYNC read. -/
  pdtpActive : Word64
  invals : List IommuInval
  sync : Word64
  lmbBase : Word64
  boot : Boot
deriving DecidableEq, Repr

/-- Reset values of Table 7-3. -/
def ServerRegs.reset : ServerRegs :=
  { pdtp := 0, pdtpActive := 0, invals := [], sync := 0, lmbBase := 0, boot := Boot.reset }

end Sys2Proof.Machine
end

