-- ==== Sys2Proof/Machine/FwState.lean ====
section
/-! DEFINITION. State of functions, mailboxes, the shared window, placement regions, queue contexts and partitions (chapters 12 and 13). -/

namespace Sys2Proof.Machine

/-- A mailbox: ring positions, parking and re-reads (R394 to R398). The host rings hold their bytes here, the local ones in T1. -/
structure Mailbox where
  tail : Word32
  next : Word32
  rspTail : Word32
  rspHead : Word32
  parked : Bool
  /-- Failed reads of the header at `next` within its window. -/
  badReads : Nat
deriving DecidableEq, Repr

/-- A mailbox after function reset. -/
def Mailbox.reset : Mailbox :=
  { tail := 0, next := 0, rspTail := 0, rspHead := 0, parked := false, badReads := 0 }

/-- A mailbox request that the MP has read (Table 13-1). -/
structure MbxReq where
  isLocal : Bool
  pos : Nat
  cmd : Nat
  tag : Nat
  payload : List Byte
deriving DecidableEq, Repr

/-- What a BAR2 granule is bound to (R367). -/
inductive Granule where
  | memory (addr : Nat)
  | coreWindow (core : Nat)
  | placement (region offset : Nat)
  | readout (region addr : Nat)
deriving DecidableEq, Repr

/-- A slot set of the shared window (R369). -/
structure SlotSet where
  first : Nat
  granules : Nat
  slots : Nat
  slotBytes : Nat
  array : Nat
  base : Nat
  removed : Bool
deriving DecidableEq, Repr

/-- State of a placement region (Table 12-10). -/
inductive PlaceState where
  | free
  | open
  | runout
  | closed
deriving DecidableEq, Repr

/-- Why a placement region was withdrawn (Table 12-10). -/
inductive PlaceCause where
  | none
  | full
  | reset
  | disable
  | unregister
  | removal
deriving DecidableEq, Repr

/-- A placement region (R383). -/
structure Placement where
  state : PlaceState
  cause : PlaceCause
  first : Nat
  granules : Nat
  base : Nat
  log : Nat
  logBytes : Nat
  vector : Nat
  stream : Nat
  requesters : List Nat
  limit : Nat
  placed : Word64
  logUsed : Nat
  seq : Nat
  dropped : Word64
  /-- Writes were dropped since the last ACCEPT_PLACED (R388). -/
  droppedSince : Bool
  /-- AON cycle of the last arriving write, or of the withdrawal (R385). -/
  since : Word64
  /-- PARTITION_DESTROY scrubs it when it closes (R387). -/
  scrub : Bool
deriving DecidableEq, Repr

/-- A readout region (Table 13-4). -/
structure Readout where
  first : Nat
  granules : Nat
  base : Nat
  requesters : List Nat
deriving DecidableEq, Repr

/-- An MSI-X table entry of a function. -/
structure MsixEntry where
  addr : Nat
  data : Nat
  masked : Bool
deriving DecidableEq, Repr

/-- A function, PF0 or a VF (Tables 12-3, 12-4). -/
structure Func where
  disabled : Bool
  resetting : Bool
  removal : Bool
  flush : Word64
  dbRejected : Word64
  dbAhead : Word64
  bar2Unmapped : Word64
  ownRejected : Word64
  placeDropped : Word64
  ideDrops : Word64
  reqRing : SMap (List Byte)
  rspRing : SMap (List Byte)
  host : Mailbox
  loc : Mailbox
  lastLocal : Bool
  version : Nat
  nextVersion : Nat
  inService : Option MbxReq
  long : List MbxReq
  windows : SMap Granule
  slotSets : SMap SlotSet
  regions : SMap Placement
  readouts : SMap Readout
  rcc : SMap Nat
  /-- Messages sent so far to a remote counter: key module × 64 + counter (R381). -/
  rccSent : SMap Nat
  msixEnabled : Bool
  functionMask : Bool
  msix : SMap MsixEntry
  pba : List Nat
  bar2Size : Nat
deriving DecidableEq, Repr

/-- A function after function reset (Table 12-4; BAR2 at its 64 GiB default). -/
def Func.reset : Func :=
  { disabled := false, resetting := false, removal := false, flush := 0, dbRejected := 0, dbAhead := 0,
    bar2Unmapped := 0, ownRejected := 0, placeDropped := 0, ideDrops := 0, reqRing := [], rspRing := [],
    host := Mailbox.reset, loc := Mailbox.reset, lastLocal := false, version := 2, nextVersion := 2,
    inService := none, long := [], windows := [], slotSets := [], regions := [], readouts := [],
    rcc := [], rccSent := [], msixEnabled := false, functionMask := false, msix := [], pba := [],
    bar2Size := 2 ^ 36 }

/-- Kinds of declared buffers (Table 13-10). -/
inductive BufKind where
  | input
  | output
  | inPlace
  | shadow
deriving DecidableEq, Repr

/-- A declared buffer (Table 13-10). -/
structure Buf where
  addr : Nat
  bytes : Nat
  kind : BufKind
  slot : Option (Nat × Nat × Nat)
  release : Bool
deriving DecidableEq, Repr

/-- Where a command of a queue stands. -/
inductive CmdPhase where
  | waiting     -- its descriptor is valid; it is not admitted
  | admitted    -- it runs
  | finished    -- its work is over; it has not committed
deriving DecidableEq, Repr

/-- A command of a queue that has neither committed nor ended. -/
structure Cmd where
  pos : Nat
  desc : List Byte
  phase : CmdPhase
  status : Nat
  result : Nat
  bufs : List Buf
  cores : List Nat
  kills : Nat
  sliceStart : Word64
  /-- AON cycle since which the command waits for its cores, and its place in its partition's admission order. -/
  admittedAt : Word64
  order : Nat
  /-- Device address of its DESCRIPTOR record in the Cupping journal, 0 for none (Table 16-8). -/
  journalAt : Nat
  held : Bool
  fpAtomic : Bool
  inPlaceCopied : Bool
  engine : Word64
  killed : Word64
  t1 : Nat
  hostBytes : Nat
  portBytes : Nat
  /-- Collective progress: data chunks received (source, round, index), done and member outputs. -/
  begun : Bool
  group : List Nat
  tag : Nat
  collSeq : Nat
  collData : List RxMsg
  collDone : List Nat
  doneSent : Bool
  granted : Bool
  /-- LNK cycle counts of its start and of the last peer input, and the laggard so far: peer, cycles, cause (R358). -/
  lnkStart : Word64
  lnkLast : Word64
  lagPeer : Nat
  lagWait : Nat
  lagCause : Nat
deriving DecidableEq, Repr

/-- State of a queue context (Table 12-5). -/
inductive QueueState where
  | running
  | parked
  | disabled
deriving DecidableEq, Repr

/-- A queue context (Tables 13-6, 12-5, 13-8). -/
structure Queue where
  partition : Nat
  isLocal : Bool
  log2 : Nat
  tiles : Nat
  weight : Nat
  scratchBase : Nat
  scratchSize : Nat
  descRing : Nat
  cmplRing : Nat
  pasid : Option Nat
  vector : Nat
  state : QueueState
  parkPos : Nat
  tail : Word32
  head : Word32
  records : Word64
  badReads : Nat
  telemetry : Option Ring
  cmds : List Cmd
  accEngine : Word64
  accT1 : Word64
  accHost : Word64
  accPort : Word64
  accEnergy : Word64
  accKilled : Word64
  accCommits : Word64
  accEnded : Word64
deriving DecidableEq, Repr

/-- An entry of the peer table (Table 11-6). -/
structure Peer where
  module : Nat
  planes : Nat
  macs : List Nat
deriving DecidableEq, Repr

/-- A video session of a partition (R426). -/
structure VideoSession where
  queue : Nat
  unit : Nat
  encode : Bool
  codec : Nat
  bounded : Bool
  depth : Nat
  maxW : Nat
  maxH : Nat
  dpb : Nat
  dpbBytes : Nat
  out : Nat
  grainOff : Bool
  fmtAddr : Nat
  rc : Nat
  qp : Nat
  bframes : Nat
  kbps : Nat
  gop : Nat
  fpsNum : Nat
  fpsDen : Nat
  /-- Commands committed in the session: the version of its active state set (R428). -/
  version : Nat
  pictures : Nat
  /-- A picture has run out of its cycle budget and its record is not written yet (R432). -/
  overrun : Bool
deriving DecidableEq, Repr

/-- A Cupping replay in progress (R474). -/
structure Replay where
  base : Nat
  size : Nat
  /-- Offset in the ring of the next record, and the seq it must have once one has been read. -/
  off : Nat
  seq : Option Nat
  /-- The marker step M and the last step E. -/
  first : Nat
  last : Nat
  content : Bool
  /-- The snapshot after M has been reached; MAILBOX records of it still to come. -/
  running : Bool
  snapshotLeft : Nat
  /-- Last step whose COMMIT record matched. -/
  reproduced : Nat
  /-- COMMIT bodies that the replayed steps have produced, not yet compared. -/
  commits : List (List Byte)
  /-- The inputs of the last descriptor are not all in place, so it is not admitted. -/
  inputsDue : Bool
  /-- The next record is a COMMIT: the step's CHECK may be decided. -/
  commitDue : Bool
  /-- The status with which it has ended. -/
  result : Option Nat
deriving DecidableEq, Repr

/-- A partition: its resources and everything held for it (R183). -/
structure Partition where
  modes : Nat
  groups : BitVec 16
  devices : BitVec 32
  edgeWays : Nat
  sysWays : Nat
  clusters : BitVec 128
  migQuota : Nat
  msixQuota : Nat
  flowQuota : Nat
  videoQuota : Nat
  sliceBase : Nat
  tier : TierRegs
  hostRegs : SMap HostReg
  objects : SMap TieredObject
  migs : List Migration
  migQueue : List MigRequest
  server : ServerRegs
  signals : SMap Word64
  commitSeq : Word64
  /-- Commands admitted so far. -/
  admitted : Nat
  job : Option Job
  peers : List Peer
  rngKey : Nat
  journal : Journal
  replay : Option Replay
  sessions : SMap VideoSession
deriving DecidableEq, Repr

/-- A partition that owns nothing. -/
def Partition.empty : Partition :=
  { modes := 0, groups := 0, devices := 0, edgeWays := 0, sysWays := 0, clusters := 0, migQuota := 0,
    msixQuota := 0, flowQuota := 0, videoQuota := 0, sliceBase := 25000, tier := TierRegs.reset,
    hostRegs := [], objects := [], migs := [], migQueue := [], server := ServerRegs.reset,
    signals := [], commitSeq := 0, admitted := 0, job := none, peers := [], rngKey := 0, journal := Journal.off, replay := none,
    sessions := [] }

/-- Partition 0 when it owns everything (R183). -/
def Partition.zero : Partition :=
  { Partition.empty with
    groups := 0xFFFF, devices := 0xFFFFFFFF, edgeWays := 0xFFFF, sysWays := 0xFFFF,
    clusters := BitVec.allOnes 128, migQuota := 16384, msixQuota := 2048, flowQuota := 40960,
    videoQuota := 576 }

end Sys2Proof.Machine
end

