-- ==== Sys2Proof/Machine/ModuleState.lean ====
section
/-! DEFINITION. State of clocks, power, ageing, faults, firmware, security and video units (chapters 14 to 18). -/

namespace Sys2Proof.Machine

/-- Clock-domain states (Table 15-2). -/
inductive DomPhase where
  | run
  | gated
  | ret
  | off
deriving DecidableEq, Repr

/-- A clock domain (Table 15-6). -/
structure Domain where
  phase : DomPhase
  /-- The phase it is moving to. -/
  moving : Option DomPhase
  mhz : Nat
  starts : BitVec 32
  cycles : Word64
deriving DecidableEq, Repr

/-- Power and ageing registers of one die (Table 15-9). -/
structure DiePower where
  budget : Nat
  powerCeil : Nat
  thermalCeil : Nat
  ageCeil : Nat
  voff : Nat
  slack : Nat
  temp : Int
  budgetChanges : Word64
  minSlack : Nat
  roPpm : Nat
  lastHours : Nat
  checkpoints : Nat
  /-- Least slack history as recorded at checkpoints. -/
  lastSlack : Nat
  /-- AON cycle since which the die is above 110 °C, and above 105 °C with its thermal ceiling at 200. -/
  above110 : Option Word64
  above105 : Option Word64
  /-- A checkpoint waits for the die's core commands (R453). -/
  checkpointDue : Bool
  /-- Re-planning has run out of margin: the ageing cause of Decaf mode (R453, R470). -/
  exhausted : Bool
deriving DecidableEq, Repr

/-- Reset values of Table 15-9 for a compute die, or for another die. -/
def DiePower.reset (compute : Bool) : DiePower :=
  { budget := if compute then 1000 else 0, powerCeil := if compute then 1000 else 0,
    thermalCeil := if compute then 1000 else 0, ageCeil := if compute then 1000 else 0, voff := 0,
    slack := 0xFFFF, temp := 0, budgetChanges := 0, minSlack := 0xFFFF, roPpm := 0, lastHours := 0,
    checkpoints := 0, lastSlack := 0xFFFF, above110 := none, above105 := none, checkpointDue := false, exhausted := false }

/-- Input voltage range last seen (Table 15-3). -/
inductive InputBand where
  | normal
  | low
  | sag
  | high
  | over
deriving DecidableEq, Repr

/-- Module power registers (Table 15-9) and what the power loop holds. -/
structure PowerBlock where
  profile : Nat
  coolStrap : Nat
  strapLogged : Bool
  strapCap : Nat
  hostCap : Nat
  pldmCap : Nat
  inputMv10 : Nat
  inputMa10 : Nat
  inputW : Nat
  energyMj : Word64
  /-- Input energy not yet a whole mJ, in 10 fJ (a sample of 1 mV × 1 mA over 10 µs). -/
  energyRest : Nat
  uvEvents : Word64
  ovEvents : Word64
  capExcursions : Word64
  band : InputBand
  /-- AON cycle at which the input fell below 44.0 V, or rose above 60.0 V. -/
  bandSince : Word64
  serverCeil : Nat
  excursion : Bool
  alerts : List Nat
  thermtrip : Bool
  firstLoop : Bool
  /-- The state records were written ahead of need (R445). -/
  recordsAhead : Bool
  /-- AON cycle since which the applied cap has been exceeded at the lowest ceilings (R449). -/
  overSince : Option Word64
  /-- The ageing record was invalid at power-on (R454). -/
  recordLost : Bool
deriving DecidableEq, Repr

/-- Reset values of Table 15-9; the air profile before the first strap sample. (DESIGN CHOICE, log entry 4) -/
def PowerBlock.reset : PowerBlock :=
  { profile := 0, coolStrap := 0, strapLogged := false, strapCap := 1000, hostCap := 0, pldmCap := 0,
    inputMv10 := 0, inputMa10 := 0, inputW := 0, energyMj := 0, energyRest := 0, uvEvents := 0, ovEvents := 0,
    capExcursions := 0, band := .normal, bandSince := 0, serverCeil := 2400, excursion := false,
    alerts := [], thermtrip := false, firstLoop := false, recordsAhead := false,
    overSince := none, recordLost := false }

/-- An error-log entry (Table 16-3). -/
structure LogEntry where
  cls : Nat
  die : Nat
  code : Nat
  number : Nat
  aon : Word64
  partition : Nat
  queue : Nat
  status : Nat
  step : Nat
  addr : Nat
  detail : Nat
deriving DecidableEq, Repr

/-- The Decaf record of module flash (R467). -/
structure DecafRecord where
  cause : Nat
  aon : Word64
  /-- Per partition: ID, committed step, open step. -/
  steps : List (Nat × Nat × Nat)
  /-- A boot has found the record and logged it (R467). -/
  reported : Bool
deriving DecidableEq, Repr

/-- Decaf mode (R466, R468). -/
structure Decaf where
  cause : Nat
  since : Word64
  flushRunning : Bool
  flushDone : Bool
deriving DecidableEq, Repr

/-- Fault block (Table 16-10). -/
structure FaultBlock where
  log : List LogEntry
  nextEntry : Nat
  corrected : Word64
  command : Word64
  core : Word64
  unit : Word64
  object : Word64
  partition : Word64
  module : Word64
  resets : Word64
  decaf : Option Decaf
  causeCode : Nat
  /-- Cause code of the Decaf record found at boot (R467). -/
  bootCause : Nat
  /-- Status registers copied at Decaf entry, by register address (R469). -/
  shadow : SMap Word64
deriving DecidableEq, Repr

/-- Reset values of Table 16-10. -/
def FaultBlock.reset : FaultBlock :=
  { log := [], nextEntry := 0, corrected := 0, command := 0, core := 0, unit := 0, object := 0,
    partition := 0, module := 0, resets := 0, decaf := none, causeCode := 0, bootCause := 0, shadow := [] }

/-- An image in a firmware slot (Table 17-1). -/
structure Image where
  header : List Byte
  payload : List Byte
  fwVersion : Nat
  secVersion : Nat
deriving DecidableEq, Repr

/-- The two slots of a firmware component and its trial (R465). -/
structure Component where
  /-- Slot A holds the image that the module was made with; its bytes are `Config.factoryImage`. -/
  factory : Bool
  slotA : Option Image
  slotB : Option Image
  activeB : Bool
  staged : Bool
  trial : Bool
  /-- The trial has begun: the staged image runs. -/
  trying : Bool
  /-- The image that runs, as measured when it was loaded. -/
  running : Option Image
deriving DecidableEq, Repr

/-- A component as the module was made: the maker's image in slot A, nothing in slot B. -/
def Component.empty : Component :=
  { factory := true, slotA := none, slotB := none, activeB := false, staged := false, trial := false, trying := false,
    running := none }

/-- Module flash (R457): firmware slots, ageing record, Decaf record and the copy of the error log.
The configuration store is the partition state itself, kept where a reset keeps it. -/
structure Flash where
  components : Vector Component 5
  ageing : Option (List Nat)
  decaf : Option DecafRecord
  log : List LogEntry
  logNext : Nat
deriving DecidableEq, Repr

/-- Flash with nothing in it. (DESIGN CHOICE, log entry 4) -/
def Flash.empty : Flash :=
  { components := Vector.replicate 5 Component.empty, ageing := none, decaf := none, log := [],
    logNext := 0 }

/-- State of an IDE stream (R390, R487). -/
structure IdeStream where
  secure : Bool
  /-- Key sets programmed, and the one that the last K_SET_GO selected. -/
  keys : SMap Nat
  active : Nat
  previous : Option Nat
deriving DecidableEq, Repr

/-- MACsec keys of a port (R338, R488). -/
structure MacsecKeys where
  cak : Option Nat
  ckn : List Byte
  /-- A new CAK whose participant is not yet live. -/
  nextCak : Option Nat
  live : Bool
  rxSas : List Nat
  txSa : Option Nat
  /-- Next packet number expected, for the replay check. -/
  nextPn : Nat
deriving DecidableEq, Repr

/-- No MACsec key. -/
def MacsecKeys.none : MacsecKeys :=
  { cak := .none, ckn := [], nextCak := .none, live := false, rxSas := [], txSa := .none, nextPn := 0 }

/-- Debug-port states (R490). -/
inductive DebugPhase where
  | locked
  | observe
  | full
deriving DecidableEq, Repr

/-- The security engine (chapter "Boot, signatures and attestation"). -/
structure Security where
  otpVersion : Nat
  otpDebugLock : Bool
  debug : DebugPhase
  /-- Challenge outstanding and the AON cycle it was given. -/
  challenge : Option (Nat × Word64)
  entropyFailed : Bool
  romRecovery : Bool
  /-- Open secured SPDM sessions per transport: 0 DOE, 1 MCTP. -/
  sessions : List (Nat × Nat)
  ide : Vector IdeStream 8
  macsec : Vector MacsecKeys 16
  generation : BitVec 32
deriving DecidableEq, Repr

/-- A video unit (Table 14-7). -/
structure VideoUnit where
  disabled : Bool
  restarting : Bool
  decoded : Word64
  encoded : Word64
  concealed : Word64
  resyncs : Word64
  overruns : Word64
  unsupported : Word64
deriving DecidableEq, Repr

/-- A video unit at module reset (Table 14-7). -/
def VideoUnit.reset : VideoUnit :=
  { disabled := false, restarting := false, decoded := 0, encoded := 0, concealed := 0, resyncs := 0,
    overruns := 0, unsupported := 0 }

/-- Input pins and straps (Table 18-1). -/
structure Pins where
  p52v : Bool
  pwrEn : Bool
  perstN : Bool
  coolMode : Nat
  moduleIdPins : Nat
deriving DecidableEq, Repr

/-- Where the module stands between power-on, reset and removal (R391 to R393, R457, R458, R497, R500). -/
structure Life where
  /-- The input is applied and power is good (R391). -/
  powered : Bool
  /-- LPDDR5X is being zeroed after power-on (R458). -/
  zeroing : Bool
  /-- The MP runs: PERST_N has been deasserted and the configuration is restored (R457). -/
  running : Bool
  /-- VF Enable of PF0's SR-IOV capability. -/
  vfEnable : Bool
  /-- Firmware is attested: configuration requests are answered (R391). -/
  attested : Bool
  /-- Removal quiesce after DL_Down (R392). -/
  quiesce : Bool
  /-- PWR_EN was deasserted and the 2 ms opening timer runs (R497). -/
  opening : Bool
  /-- AON cycle of that deassertion. -/
  openSince : Word64
  /-- The regulators have stopped: nothing operates until the input is applied again (R500). -/
  stopped : Bool
  /-- The module ID in use and the baseboard number stored in AON (R496). -/
  moduleId : Nat
  baseboard : Nat
  /-- The I3C dynamic address, once assigned (R495). -/
  i3c : Option Nat
deriving DecidableEq, Repr

/-- No input has been applied. -/
def Life.off : Life :=
  { powered := false, zeroing := false, running := false, vfEnable := false, attested := false, quiesce := false,
    opening := false, openSince := 0, stopped := false, moduleId := 0, baseboard := 0, i3c := none }

/-- Host-link states (R362). -/
inductive LinkPhase where
  | down
  | l0
  | recovery
  | l1
deriving DecidableEq, Repr

/-- What the module has sent to the host or the baseboard, in order. -/
inductive HostOut where
  | write (partition bus : Nat) (bytes : List Byte)
  | msix (fn addr data : Nat)
  | completion (status : Nat) (bytes : List Byte)
  | mctp (bytes : List Byte)
  | spdm (bytes : List Byte)
  | jtag (bytes : List Byte)
deriving DecidableEq, Repr

end Sys2Proof.Machine
end

