-- ==== Sys2Proof/Machine/State.lean ====
section
/-! DEFINITION. The state of the module, its reset value, and the reasons a step can stop. -/

namespace Sys2Proof.Machine

/-- Why a step stops with a fault. (DESIGN CHOICE, log entry 8) -/
inductive Fault where
  /-- Raised by no command: every access that the spec ends, it ends with a status, an error code or nothing (R36).
  Kept so that the type is inhabited; safe. -/
  | none
deriving DecidableEq, Repr

/-- Why a step refuses a command. (DESIGN CHOICE, log entry 8) -/
inductive Refusal where
  /-- The command has no meaning in the model yet. Raised by `exec` only; safe. -/
  | notModelled (mnemonic : String)
deriving DecidableEq, Repr

/-- A transport frame or MKA answer handed to a port for sending. -/
structure PortOut where
  port : Nat
  frame : TFrame
deriving DecidableEq, Repr

/-- The module. -/
structure State where
  /-- The commands that wait, first in, first out. -/
  pending : List Sys2Proof.Instr
  /-- The ordering code is FLW-LNB-52-2048 (R3). -/
  big : Bool
  pins : Pins
  life : Life
  flash : Flash
  sec : Security
  power : PowerBlock
  dies : Vector DiePower 13
  /-- Powered hours of the module (R453). -/
  hours : Nat
  domains : Vector Domain 40
  fault : FaultBlock
  /-- Device memory: LPDDR5X and the core windows; an address that is not listed reads 0. -/
  mem : List Host.Cell
  /-- Host memory that the module has written or read: (partition, bus address) packed in one key. -/
  hostMem : List Host.Cell
  /-- Line addresses that are poisoned (R461; DEDUCED, log entry 28). -/
  poison : List Nat
  /-- Cores that are not as after core reset. -/
  cores : SMap Core
  spills : List SpillRecord
  clusterOff : BitVec 128
  /-- ARR cycle of the last grant of each die's start arbiter (R98). -/
  arbLast : Vector (Option Word64) 8
  channels : Vector Channel 128
  derated : BitVec 32
  caches : SMap (SMap CacheLine)
  homes : Vector HomeNode 4
  holds : SMap Hold
  hostReads : SMap HostRead
  partitions : SMap Partition
  funcs : SMap Func
  queues : SMap Queue
  harts : Vector Hart 64
  /-- IMSIC files: hart × 64 + file (0 M, 1 S, 2 and up guest files). -/
  imsic : SMap ImsicFile
  /-- Pending APLIC sources (R224). -/
  aplic : BitVec 32
  ports : Vector Port 16
  flows : SMap Flow
  colls : Vector CollEngine 4
  videos : Vector VideoUnit 4
  link : LinkPhase
  /-- Link-level replays of the 44 die links (R25). -/
  linkReplays : Vector Word64 44
  /-- EtherType of the transport (R333). -/
  etherType : Nat
  /-- Telemetry ring of PF0 (R292). -/
  telemetry : Option Ring
  /-- What has been sent, oldest first. -/
  hostOut : List HostOut
  portOut : List PortOut
  /-- MODEL'S OWN: how many free values have been drawn. -/
  free : Nat
deriving DecidableEq, Repr

/-- The domain of a code at power-on: frequencies of Table 15-1, SRV at 2.0 GHz, MGMT at 25 MHz idle. (DESIGN CHOICE, log entry 25) -/
def Domain.reset (code : Nat) : Domain :=
  { phase := .run, moving := .none,
    mhz :=
      if code = 0 then 25 else if code = 1 then 50 else if code = 2 then 100 else if code = 3 then 25
      else if code = 4 then 600 else if code = 5 then 500 else if code = 6 then 2000
      else if code ≤ 10 then 2000 else if code = 11 then 1000 else if code ≤ 15 then 800
      else if code ≤ 23 then 1050 else if code ≤ 31 then 1600 else if code ≤ 35 then 1333 else 1500,
    starts := 0, cycles := 0 }

/-- The state right after reset: nothing powered on yet, every register at its reset value. (DESIGN CHOICE, log entry 4) -/
def State.reset : State :=
  { pending := [], big := true,
    pins := { p52v := false, pwrEn := false, perstN := false, coolMode := 3, moduleIdPins := 63 },
    life := Life.off, flash := Flash.empty,
    sec := { otpVersion := 0, otpDebugLock := false, debug := .locked,
             challenge := none, entropyFailed := false, romRecovery := false, sessions := [],
             ide := Vector.replicate 8 { secure := false, keys := [], active := 0, previous := none },
             macsec := Vector.replicate 16 MacsecKeys.none, generation := 0 },
    power := PowerBlock.reset,
    dies := Vector.ofFn (fun i => DiePower.reset (decide (i.val < 8))), hours := 0,
    domains := Vector.ofFn (fun i => Domain.reset i.val), fault := FaultBlock.reset,
    mem := [], hostMem := [], poison := [], cores := [], spills := [], clusterOff := 0,
    arbLast := Vector.replicate 8 none, channels := Vector.replicate 128 Channel.reset, derated := 0,
    caches := [], homes := Vector.replicate 4 HomeNode.reset, holds := [], hostReads := [],
    partitions := [(0, Partition.zero)], funcs := [(0, Func.reset)], queues := [],
    harts := Vector.replicate 64 Hart.reset, imsic := [], aplic := 0,
    ports := Vector.ofFn (fun i => Port.reset i.val), flows := [],
    colls := Vector.replicate 4 CollEngine.reset, videos := Vector.replicate 4 VideoUnit.reset,
    link := .down, linkReplays := Vector.replicate 44 0, etherType := 0x88B5, telemetry := none,
    hostOut := [], portOut := [], free := 0 }

end Sys2Proof.Machine
end

