-- ==== Sys2Proof/Machine/Ops.lean ====
section
/-! DEFINITION. The shared operations: memory, addresses, ownership, coherent accesses, host memory, cores, clocks, the error log. -/

namespace Sys2Proof.Machine

/-- The outcome of a command. -/
abbrev Out := Host.Outcome State Fault Refusal

/-! ### Byte memory -/

/-- The byte at an address; an address that is not listed reads 0 (R458: LPDDR5X is zeroed; R38: lost contents read as zero). (DESIGN CHOICE, log entry 6) -/
def memByte : List Host.Cell → Nat → Byte
  | [], _ => 0
  | (k, v) :: rest, a => if k = a then v else if a < k then 0 else memByte rest a

/-- Memory with one byte written; a zero byte is not listed. -/
def memPut : List Host.Cell → Nat → Byte → List Host.Cell
  | [], a, b => if b = 0 then [] else [(a, b)]
  | (k, v) :: rest, a, b =>
    if a < k then (if b = 0 then (k, v) :: rest else (a, b) :: (k, v) :: rest)
    else if a = k then (if b = 0 then rest else (a, b) :: rest)
    else (k, v) :: memPut rest a b

/-- Memory with bytes written from an address on. -/
def memPutBytes : List Host.Cell → Nat → List Byte → List Host.Cell
  | m, _, [] => m
  | m, a, b :: bs => memPutBytes (memPut m a b) (a + 1) bs

/-- `n` bytes from an address on. -/
def memBytes (m : List Host.Cell) (a n : Nat) : List Byte := (List.range n).map (fun i => memByte m (a + i))

/-- Memory with every byte of [a, a + n) zero. -/
def memClear (m : List Host.Cell) (a n : Nat) : List Host.Cell := m.filter (fun c => decide (c.1 < a ∨ a + n ≤ c.1))

/-- The canonical form: addresses rise strictly, and no entry is 0. -/
def memWfFrom : Nat → List Host.Cell → Bool
  | _, [] => true
  | lo, (k, v) :: rest => decide (lo ≤ k) && v != 0 && memWfFrom (k + 1) rest

/-- Memory is in its canonical form. -/
def memWf (m : List Host.Cell) : Bool := memWfFrom 0 m

/-! ### Host memory: unlisted bytes are what the host has there -/

/-- The key of a byte of host memory: partition and bus address. -/
def hostKey (p bus : Nat) : Nat := p * 2 ^ 64 + bus

/-- A byte of a table whose unlisted entries are free. (DESIGN CHOICE, log entry 6) -/
def hostCell : List Host.Cell → Nat → Option Byte
  | [], _ => none
  | (k, v) :: rest, a => if k = a then some v else hostCell rest a

/-- Host memory with one byte written. -/
def hostPut : List Host.Cell → Nat → Byte → List Host.Cell
  | [], a, b => [(a, b)]
  | (k, v) :: rest, a, b =>
    if a < k then (a, b) :: (k, v) :: rest
    else if a = k then (a, b) :: rest
    else (k, v) :: hostPut rest a b

/-- Host memory with bytes written. -/
def hostPutBytes : List Host.Cell → Nat → List Byte → List Host.Cell
  | m, _, [] => m
  | m, a, b :: bs => hostPutBytes (hostPut m a b) (a + 1) bs

/-- Host memory in its canonical form: keys rise strictly. -/
def hostWfFrom : Nat → List Host.Cell → Bool
  | _, [] => true
  | lo, (k, _) :: rest => decide (lo ≤ k) && hostWfFrom (k + 1) rest

/-- Bytes of host memory as the module reads them. -/
def hostBytes (s : State) (p bus n : Nat) : List Byte :=
  (List.range n).map (fun i => (hostCell s.hostMem (hostKey p (bus + i))).getD (Config.hostByte p (bus + i)))

/-- The module writes host memory: a posted write on the host link. -/
def hostWrite (s : State) (p bus : Nat) (bs : List Byte) : State :=
  { s with hostMem := hostPutBytes s.hostMem (hostKey p bus) bs, hostOut := s.hostOut ++ [.write p bus bs] }

/-! ### Clocks -/

/-- The AON cycle count. -/
def aonNow (s : State) : Word64 := s.domains[0].cycles

/-- DOM_CYCLES of a domain code. -/
def domCycles (s : State) (code : Nat) : Word64 := ((s.domains[code]?).map (·.cycles)).getD 0

/-- ARR cycles of a compute die. -/
def arrNow (s : State) (die : Nat) : Word64 := domCycles s (16 + die % 8)

/-- AON cycles since an earlier count, modulo 2^64. -/
def aonSince (s : State) (t : Word64) : Nat := (aonNow s - t).toNat

/-! ### Tables of the state -/

/-- Partition p. (DESIGN CHOICE, log entry 9) -/
def partAt (s : State) (p : Nat) : Option Partition := mapGet s.partitions p

/-- The state with partition p replaced. -/
def setPart (s : State) (p : Nat) (x : Partition) : State := { s with partitions := mapSet s.partitions p x }

/-- The state with partition p changed, if it exists. -/
def modPart (s : State) (p : Nat) (f : Partition → Partition) : State :=
  { s with partitions := mapModify s.partitions p f }

/-- The function fn. (DESIGN CHOICE, log entry 9) -/
def funcAt (s : State) (fn : Nat) : Option Func := mapGet s.funcs fn

/-- The state with function fn changed, if it exists. -/
def modFunc (s : State) (fn : Nat) (f : Func → Func) : State := { s with funcs := mapModify s.funcs fn f }

/-- The queue context q. -/
def queueAt (s : State) (q : Nat) : Option Queue := mapGet s.queues q

/-- The state with queue context q changed, if it exists. -/
def modQueue (s : State) (q : Nat) (f : Queue → Queue) : State := { s with queues := mapModify s.queues q f }

/-- Core c; an entry that is absent is a core after core reset. -/
def coreAt (s : State) (c : Nat) : Core := mapGetD s.cores c Core.reset

/-- The state with core c replaced. -/
def setCore (s : State) (c : Nat) (x : Core) : State := { s with cores := mapSet s.cores c x }

/-- The state with core c changed. -/
def modCore (s : State) (c : Nat) (f : Core → Core) : State := setCore s c (f (coreAt s c))

/-- The job of a partition. -/
def jobAt (s : State) (p : Nat) : Option Job := (partAt s p).bind (·.job)

/-- The state with a partition's job changed, if it has one. -/
def modJob (s : State) (p : Nat) (f : Job → Job) : State := modPart s p (fun x => { x with job := x.job.map f })

/-- Channel c changed. -/
def modChannel (s : State) (c : Nat) (f : Channel → Channel) : State :=
  if h : c < 128 then { s with channels := s.channels.set c (f s.channels[c]) } else s

/-- Home node m changed. -/
def modHome (s : State) (m : Nat) (f : HomeNode → HomeNode) : State :=
  if h : m < 4 then { s with homes := s.homes.set m (f s.homes[m]) } else s

/-- Hart h changed. -/
def modHart (s : State) (i : Nat) (f : Hart → Hart) : State :=
  if h : i < 64 then { s with harts := s.harts.set i (f s.harts[i]) } else s

/-- Port i changed. -/
def modPort (s : State) (i : Nat) (f : Port → Port) : State :=
  if h : i < 16 then { s with ports := s.ports.set i (f s.ports[i]) } else s

/-- Video unit i changed. -/
def modVideo (s : State) (i : Nat) (f : VideoUnit → VideoUnit) : State :=
  if h : i < 4 then { s with videos := s.videos.set i (f s.videos[i]) } else s

/-- Die i changed. -/
def modDie (s : State) (i : Nat) (f : DiePower → DiePower) : State :=
  if h : i < 13 then { s with dies := s.dies.set i (f s.dies[i]) } else s

/-- Domain i changed. -/
def modDomain (s : State) (i : Nat) (f : Domain → Domain) : State :=
  if h : i < 40 then { s with domains := s.domains.set i (f s.domains[i]) } else s

/-- Collective engine i changed. -/
def modColl (s : State) (i : Nat) (f : CollEngine → CollEngine) : State :=
  if h : i < 4 then { s with colls := s.colls.set i (f s.colls[i]) } else s

/-- A free value below a bound, and the state in which it has been drawn. (DESIGN CHOICE, log entry 7) -/
def drawFree (s : State) (bound : Nat) : Nat × State :=
  (Config.freeValue s.free % bound, { s with free := s.free + 1 })

/-- `n` free bytes. (DESIGN CHOICE, log entry 7) -/
def drawBytes (s : State) (n : Nat) : List Byte × State :=
  (natToBytes n (Config.freeValue s.free), { s with free := s.free + 1 })

/-! ### Addresses -/

/-- Usable LPDDR5X bytes (R30, Table 0-1). (DESIGN CHOICE, log entry 5) -/
def usableBytes (s : State) : Nat := if s.big then 1920 * 2 ^ 30 else 1440 * 2 ^ 30

/-- First address of the host-tier aperture (Table 1-6). -/
def apertureBase : Nat := 0x10000000000000
/-- First address of the core windows (Table 1-6). -/
def coreWindowBase : Nat := 0x20000000000000
/-- First address of register space (Table 1-6). -/
def registerBase : Nat := 0x3F000000000000

/-- What lies at a device physical address (R33). -/
inductive Target where
  | lpddr (addr : Nat)
  | host (off : Nat)
  | scratch (core off : Nat)
  | wgb (core off : Nat)
  | register (die off : Nat)
  | unmapped
deriving DecidableEq, Repr

/-- The decode of R33. In Decaf mode the core windows are unmapped (R39). (DEDUCED, log entry 90) -/
def decodeAddr (s : State) (a : Nat) : Target :=
  if a < 0x20000000000 then
    if a < usableBytes s then .lpddr a else .unmapped
  else if apertureBase ≤ a ∧ a < apertureBase + 2 ^ 48 then .host (a - apertureBase)
  else if coreWindowBase ≤ a ∧ a < coreWindowBase + 2 ^ 33 ∧ s.fault.decaf.isNone then
    let core := natField a 20 13
    let off := natField a 0 20
    if off < 0x30000 then .scratch core off
    else if off < 0x40000 then .wgb core (off - 0x30000)
    else .unmapped
  else if registerBase ≤ a ∧ a < registerBase + 0xD000000 then .register (natField a 24 4) (natField a 0 24)
  else .unmapped

/-- The device address of a core-window offset (R32). -/
def coreAddr (core off : Nat) : Nat := coreWindowBase + core * 0x100000 + off

/-- t1_locate (R158): channel, raw address and address of the block's ECC line. -/
def t1Locate (a : Nat) : Nat × Nat × Nat :=
  let p := natField a 16 25
  let ch := natField p 0 7 ^^^ natField p 7 7 ^^^ natField p 14 7 ^^^ natField p 21 4
  let row := natField p 7 18
  let d := row * 65536 + natField a 0 16
  let line := d / 64
  (ch, (16 * (line / 15) + line % 15) * 64 + d % 64, (16 * (line / 15) + 15) * 64)

/-- The channel of an LPDDR5X address. -/
def t1Channel (a : Nat) : Nat := (t1Locate a).1

/-- The line identifier of a coherent address (R193). -/
def lidOf (a : Nat) : Nat := if a < apertureBase then a / 64 else 2 ^ 42 + (a - apertureBase) / 64

/-- The address of a line identifier. -/
def lidAddr (lid : Nat) : Nat := if lid < 2 ^ 42 then lid * 64 else apertureBase + (lid - 2 ^ 42) * 64

/-- The home node of a coherent address (R189). -/
def homeOf (a : Nat) : Nat := if a < apertureBase then t1Channel a / 32 else natField a 16 2

/-- The partition of an LPDDR5X channel: the one, other than 0, that owns its device; else 0 (R183). -/
def channelOwner (s : State) (ch : Nat) : Nat :=
  match s.partitions.find? (fun e => e.1 != 0 && e.2.devices.getLsbD (ch / 4)) with
  | some e => e.1
  | none => 0

/-- The partition of a cluster (R183). `cl` is die × 16 + cluster. -/
def clusterOwner (s : State) (cl : Nat) : Nat :=
  match s.partitions.find? (fun e => e.1 != 0 && e.2.clusters.getLsbD cl) with
  | some e => e.1
  | none => 0

/-- The partition of a core. -/
def coreOwner (s : State) (core : Nat) : Nat := clusterOwner s (core / 64)

/-- The partition of a hart: the one, other than 0, that owns its group; else 0 (R215). -/
def hartOwner (s : State) (h : Nat) : Nat :=
  match s.partitions.find? (fun e => e.1 != 0 && e.2.groups.getLsbD (h / 4)) with
  | some e => e.1
  | none => 0

/-- The compute die of a core ID. -/
def coreDie (core : Nat) : Nat := core / 1024

/-- Does partition p own every LPDDR5X byte of [a, a + n)? -/
def ownsT1 (s : State) (p a n : Nat) : Bool :=
  decide (a + n ≤ usableBytes s) &&
    (List.range (if n = 0 then 0 else (a + n - 1) / 65536 - a / 65536 + 1)).all
      (fun i => channelOwner s (t1Channel ((a / 65536 + i) * 65536)) == p)

/-! ### Tiers -/

/-- State of a tiered object's page (Table 5-5). -/
inductive PageState where
  | t2
  | t1
  | promoting
  | demoting
deriving DecidableEq, Repr

/-- The tier map entry of a page: frame, state and gen; none where the pair is invalid (R170). -/
def mapEntry (s : State) (o : TieredObject) (page : Nat) : Option (Nat × PageState × Nat) :=
  (cp32At (memBytes s.mem (o.mapAddr + 8 * page) 8) 0).map (fun v =>
    (natField v 0 25,
     (match natField v 25 2 with | 0 => .t2 | 1 => .t1 | 2 => .promoting | _ => .demoting),
     natField v 27 5))

/-- The value of a tier map entry (Table 5-5). -/
def mapValue (frame : Nat) (st : PageState) (gen : Nat) : Nat :=
  frame % 2 ^ 25 + (match st with | .t2 => 0 | .t1 => 1 | .promoting => 2 | .demoting => 3) * 2 ^ 25 + (gen % 32) * 2 ^ 27

/-- The state with a page's tier map entry written (R170). -/
def putMapEntry (s : State) (o : TieredObject) (page frame : Nat) (st : PageState) (gen : Nat) : State :=
  { s with mem := memPutBytes s.mem (o.mapAddr + 8 * page) (cp32Bytes (mapValue frame st gen)) }

/-- The tiered object of a partition that covers an aperture address. -/
def objectAt (x : Partition) (a : Nat) : Option (Nat × TieredObject) :=
  x.objects.find? (fun e => decide (e.2.base ≤ a ∧ a < e.2.base + e.2.pages * 65536))

/-- The host-tier registration of a partition that covers an aperture address. -/
def hostRegAt (x : Partition) (a : Nat) : Option HostReg :=
  (x.hostRegs.find? (fun e => decide (e.2.base ≤ a ∧ a < e.2.base + e.2.bytes))).map (·.2)

/-- Where the authoritative copy of a byte lies (R171). -/
inductive Place where
  | t1 (addr : Nat)
  | host (p bus : Nat)
  | flight (object page : Nat)
  | window (addr : Nat)
  | register (die off : Nat)
  | unmapped
deriving DecidableEq, Repr

/-- The authoritative place of a device physical address. -/
def placeOf (s : State) (a : Nat) : Place :=
  match decodeAddr s a with
  | .lpddr x => .t1 x
  | .scratch c o => .window (coreAddr c o)
  | .wgb c o => .window (coreAddr c (0x30000 + o))
  | .register d o => .register d o
  | .unmapped => .unmapped
  | .host off =>
    let p := off / 2 ^ 44
    match partAt s p with
    | none => .unmapped
    | some x =>
      match hostRegAt x a with
      | none => .unmapped
      | some r =>
        match objectAt x a with
        | none => .host p (r.bus + (a - r.base))
        | some (i, o) =>
          let page := (a - o.base) / 65536
          match mapEntry s o page with
          | none => .unmapped
          | some (frame, st, _) =>
            match st with
            | .t2 => .host p (r.bus + (a - r.base))
            | .t1 => .t1 (frame * 65536 + (a - o.base) % 65536)
            | .promoting => .flight i page
            | .demoting => .flight i page

/-- The byte that memory or the host holds at a place. -/
def placeByte (s : State) (pl : Place) : Byte :=
  match pl with
  | .t1 a => memByte s.mem a
  | .window a => memByte s.mem a
  | .host p bus => (hostCell s.hostMem (hostKey p bus)).getD (Config.hostByte p bus)
  | _ => 0

/-- A byte written at a place. -/
def placePut (s : State) (pl : Place) (b : Byte) : State :=
  match pl with
  | .t1 a => { s with mem := memPut s.mem a b }
  | .window a => { s with mem := memPut s.mem a b }
  | .host p bus => { s with hostMem := hostPut s.hostMem (hostKey p bus) b }
  | _ => s

/-- The 64 bytes of a line as memory or the backing holds them. -/
def lineBytes (s : State) (lid : Nat) : List Byte :=
  (List.range 64).map (fun i => placeByte s (placeOf s (lidAddr lid + i)))

/-- The line as one number, byte 0 lowest. -/
def lineWord (s : State) (lid : Nat) : BitVec 512 := BitVec.ofNat 512 (bytesToNat (lineBytes s lid))

/-- Bytes written at consecutive device addresses, at their authoritative places. -/
def putAt : State → Nat → List Byte → State
  | s, _, [] => s
  | s, a, b :: bs => putAt (placePut s (placeOf s a) b) (a + 1) bs

/-- A line written back. -/
def putLine (s : State) (lid : Nat) (d : BitVec 512) : State := putAt s (lidAddr lid) (natToBytes 64 d.toNat)

/-! ### Cached lines -/

/-- The line of a cache agent. -/
def cachedLine (s : State) (agent lid : Nat) : Option CacheLine := mapGet (mapGetD s.caches agent []) lid

/-- The state with a cache agent's line replaced. -/
def setLine (s : State) (agent lid : Nat) (l : CacheLine) : State :=
  { s with caches := mapSet s.caches agent (mapSet (mapGetD s.caches agent []) lid l) }

/-- The state with a cache agent's line gone. -/
def dropLine (s : State) (agent lid : Nat) : State :=
  { s with caches := mapModify s.caches agent (fun m => mapErase m lid) }

/-- Is the line state one in which memory may be stale (Table 6-2)? -/
def LineState.dirty : LineState → Bool
  | .modified => true
  | .owned => true
  | _ => false

/-- Line data that a dirty owner has forwarded and its requester has not yet installed. -/
def flightLine (s : State) (lid : Nat) : Option CacheLine :=
  ((s.homes.toList.flatMap (fun h => h.txns)).find? (fun t => t.lid == lid && t.dirty && !t.acking && t.data.isSome)).bind
    (fun t => t.data.map (fun d => { state := .modified, data := d, held := false, since := 0, writeBack := false }))

/-- The line of an owner whose data is newer than memory. -/
def dirtyOwner (s : State) (lid : Nat) : Option CacheLine :=
  match ((List.range 9).filterMap (fun a => cachedLine s a lid)).find? (fun l => l.state.dirty) with
  | some l => some l
  | none => flightLine s lid

/-- Every cached copy gone and the directory entry free; data on its way is no longer newer than memory. -/
def dropCopies (s : State) (lid : Nat) : State :=
  modHome ((List.range 9).foldl (fun t a => dropLine t a lid) s) (homeOf (lidAddr lid)) (fun h => { h with
    dir := mapErase h.dir lid,
    txns := h.txns.map (fun t => if t.lid = lid ∧ t.dirty then
      { t with dirty := false, grant := if t.grant = some .modified then some .exclusive else t.grant } else t) })

/-- Every cached copy recalled: dirty data written to its place, every copy gone, the entry freed (R195, R205). -/
def recallLine (s : State) (lid : Nat) : State :=
  dropCopies (match dirtyOwner s lid with
    | none => s
    | some l => putLine s lid l.data) lid

/-- Does any cache hold the line, or is it on its way to one? -/
def lineHeld (s : State) (lid : Nat) : Bool :=
  (List.range 9).any (fun a => (cachedLine s a lid).isSome) || (flightLine s lid).isSome

/-- The line identifiers that [a, a + n) touches. -/
def lidsOf (a n : Nat) : List Nat :=
  if n = 0 then [] else (List.range (lidOf (a + n - 1) - lidOf a + 1)).map (fun i => lidOf a + i)

/-- Is the address in a coherent range (Table 1-6)? -/
def isCoherent (a : Nat) : Bool := decide (a < 0x20000000000 ∨ (apertureBase ≤ a ∧ a < apertureBase + 2 ^ 48))

/-- The latest value of a byte: the owner's, else memory's (R43, R200). -/
def latestByte (s : State) (a : Nat) : Byte :=
  if isCoherent a then
    match dirtyOwner s (lidOf a) with
    | some l => BitVec.ofNat 8 (natField l.data.toNat (8 * (a % 64)) 8)
    | none => placeByte s (placeOf s a)
  else placeByte s (placeOf s a)

/-- An uncached read of `n` bytes (RdOnce). (DEDUCED, log entry 27) -/
def cohRead (s : State) (a n : Nat) : List Byte := (List.range n).map (fun i => latestByte s (a + i))

/-- The lines of a range recalled, if any is cached. -/
def recallRange (s : State) (a n : Nat) : State :=
  if isCoherent a then (lidsOf a n).foldl (fun t lid => if lineHeld t lid then recallLine t lid else t) s else s

/-- The first addresses of the lines that [a, a + n) touches. -/
def lineStarts (a n : Nat) : List Nat :=
  if n = 0 then [] else (List.range ((a + n - 1) / 64 - a / 64 + 1)).map (fun i => (a / 64 + i) * 64)

/-- The LPDDR5X line that holds a device address, through the tier map for an object's page. -/
def t1Line (s : State) (a : Nat) : Option Nat :=
  match placeOf s a with
  | .t1 x => some (x / 64 * 64)
  | _ => none

/-- Does the range touch a poisoned line? -/
def rangePoisoned (s : State) (a n : Nat) : Bool :=
  if s.poison.isEmpty then false
  else (lineStarts a n).any (fun l => match t1Line s l with | none => false | some x => s.poison.contains x)

/-- Poison cleared in the lines that a write covers whole (R461). -/
def clearPoison (s : State) (a n : Nat) : State :=
  if s.poison.isEmpty then s
  else
    let full := ((lineStarts a n).filter (fun l => decide (a ≤ l ∧ l + 64 ≤ a + n))).filterMap (t1Line s)
    { s with poison := s.poison.filter (fun l => !full.contains l) }

/-- Line data on its way to a reader is that of the last write performed (R200). -/
def refreshFlights (s : State) (a n : Nat) : State :=
  if s.homes.toList.all (fun h => h.txns.isEmpty) then s
  else
    { s with homes := s.homes.map (fun h => { h with txns := h.txns.map (fun t =>
        if t.data.isSome ∧ !t.acking ∧ (lidsOf a n).contains t.lid ∧ t.req ≠ .atmh ∧ t.req ≠ .atmf then
          { t with data := some (lineWord s t.lid) } else t) }) }

/-- LR reservations on written lines are lost. (DEDUCED, log entry 59) -/
def dropReservations (s : State) (a n : Nat) : State :=
  if s.harts.toList.all (fun h => h.reservation.isNone) then s
  else
    { s with harts := s.harts.map (fun h => match h.reservation with
        | some l => if (lidsOf a n).contains l then { h with reservation := none } else h
        | none => h) }

/-- An uncached write (WrU): every cached copy recalled, then the bytes written (R42, Table 6-5). (DEDUCED, log entries 27, 59) -/
def cohWrite (s : State) (a : Nat) (bs : List Byte) : State :=
  let n := bs.length
  clearPoison (dropReservations (refreshFlights (putAt (recallRange s a n) a bs) a n) a n) a n

/-- A line delivered poisoned from now on (R162); what it holds is lost, so its bytes become free values. (DEDUCED, log entry 28) -/
def poisonLine (s : State) (a : Nat) : State :=
  let l := a / 64 * 64
  let (bs, t) := drawBytes s 64
  { t with mem := memPutBytes t.mem l bs, poison := if t.poison.contains l then t.poison else t.poison ++ [l] }

/-- Bytes read and written on the channels of a T1 range, counted (Table 5-3). (DEDUCED, log entry 50) -/
def countChannel (s : State) (a n : Nat) (write : Bool) : State :=
  if a < usableBytes s then
    modChannel s (t1Channel a) (fun c =>
      if write then { c with bytesWr := bump c.bytesWr n } else { c with bytesRd := bump c.bytesRd n })
  else s

/-! ### Reach and ownership (R34, R35, R165) -/

/-- May an agent that acts for partition p through the coherent path reach [a, a + n)? LPDDR5X of its channels and its
own slice where a registration covers it. -/
def reachCoherent (s : State) (p a n : Nat) : Bool :=
  if a < 0x20000000000 then ownsT1 s p a n
  else
    decide (apertureBase + p * 2 ^ 44 ≤ a ∧ a + n ≤ apertureBase + (p + 1) * 2 ^ 44) &&
    (match partAt s p with
     | none => false
     | some x =>
       match hostRegAt x a with
       | none => false
       | some r => decide (a + n ≤ r.base + r.bytes))

/-- May an agent of partition p reach [a, a + n) of a core window of its own clusters? -/
def reachWindow (s : State) (p a n : Nat) (wgbToo : Bool) : Bool :=
  match decodeAddr s a with
  | .scratch c o => coreOwner s c == p && decide (o + n ≤ if wgbToo then 0x40000 else 0x30000)
  | .wgb c o => wgbToo && coreOwner s c == p && decide (o + n ≤ 0x10000)
  | _ => false

/-- May core DMA of partition p read [a, a + n) (Table 1-7)? -/
def dmaMayRead (s : State) (p a n : Nat) : Bool := reachCoherent s p a n || reachWindow s p a n true

/-- An isolation violation counted for a partition (R185). (DEDUCED, log entry 90) -/
def isoViolation (s : State) (p : Nat) : State :=
  modPart s p (fun x => { x with tier := { x.tier with isoViolations := bump x.tier.isoViolations 1 } })

/-- An access that fails its reach check: counted when the target is another's (R35); an address of the partition's own
aperture slice that nothing maps is an unmapped address (R36, R165). -/
def failAccess (s : State) (p a : Nat) : State :=
  match decodeAddr s a with
  | .unmapped => s
  | .host o => if o / 2 ^ 44 = p then s else isoViolation s p
  | _ => isoViolation s p

/-! ### Clock domains that an access needs (R38, R439) -/

/-- A domain that is not in RUN begins its start; one that already starts is joined. (DEDUCED, log entry 73) -/
def wakeDomain (s : State) (code : Nat) : State :=
  modDomain s code (fun d => if d.phase = .run ∧ d.moving.isNone then d
    else if d.moving = some .off then d
    else if d.phase = .run then { d with moving := none }
    else { d with moving := some .run })

/-- Does a domain serve accesses now? -/
def domainRuns (s : State) (code : Nat) : Bool := ((s.domains[code]?).map (fun d => decide (d.phase = .run))).getD false

/-- The clock domain of a core's die: ARRn. -/
def coreDomain (core : Nat) : Nat := 16 + coreDie core

/-- Is an access to a core held: its domain does not run, or a commit operation works on its WGB (R38, R106)? (DEDUCED, log entry 73) -/
def coreHeld (s : State) (core : Nat) (wgb : Bool) : Bool :=
  !domainRuns s (coreDomain core) || (wgb && ((coreAt s core).committing || s.spills.any (fun r => r.core == core)))

/-- A held access to a core brings its domain to RUN. -/
def wakeCore (s : State) (core : Nat) : State := wakeDomain s (coreDomain core)

/-- Is the partition replaying in content mode: gang-lane commands send nothing (R474)? -/
def replayContent (s : State) (p : Nat) : Bool :=
  ((partAt s p).bind (·.replay)).any (fun r => r.content && r.result.isNone)

/-- Is the partition replaying steps, its journal deciding what timing decided when it was recorded (R474)? -/
def replayRuns (s : State) (p : Nat) : Bool :=
  ((partAt s p).bind (·.replay)).any (fun r => r.running && r.result.isNone)

/-- Is a replayed descriptor still waiting for its inputs? -/
def replayInputs (s : State) (p : Nat) : Bool :=
  ((partAt s p).bind (·.replay)).any (fun r => r.running && r.inputsDue && r.result.isNone)

/-- Does a replay hold back the decision of its step (R474)? -/
def replayHolds (s : State) (p : Nat) : Bool :=
  ((partAt s p).bind (·.replay)).any (fun r => r.running && !r.commitDue && r.result.isNone)

/-! ### The host's and the baseboard's side -/

/-- Something sent to the host or the baseboard. (DESIGN CHOICE, log entry 94) -/
def sendHost (s : State) (o : HostOut) : State := { s with hostOut := s.hostOut ++ [o] }

end Sys2Proof.Machine
end

