-- ==== Sys2Proof/Machine/Clock.lean ====
section
/-! DEFINITION. The passing of time when no command waits: one AON cycle (R442). -/

namespace Sys2Proof.Machine

/-- Cycles that a domain of `mhz` MHz has run after `n` AON cycles of 40 ns (Table 15-1). Code 32 to 35, MEM, runs at
4000/3 MHz. -/
def nominalCycles (code mhz n : Nat) : Nat := if 32 ≤ code ∧ code ≤ 35 then n * 160 / 3 else n * mhz / 25

/-- A domain over one AON cycle, the `n`-th: it counts its own cycles in RUN (R442). -/
def tickDomain (code n : Nat) (d : Domain) : Domain :=
  if d.phase = .run then
    { d with cycles := bump d.cycles (nominalCycles code d.mhz (n + 1) - nominalCycles code d.mhz n) }
  else d

/-- Requests held for a cause add to its stall time (R180); admission that waits for journal space adds to TRC_FULL_AON (R473). -/
def tickHolds (s : State) : State :=
  { s with partitions := mapAll s.partitions (fun p x =>
      { x with
        tier := { x.tier with stallAon := Vector.ofFn (fun (i : Fin 8) =>
          if (mapFilter s.holds (fun _ h => h.partition == p && h.cause.code == i.val + 1)).isEmpty
          then x.tier.stallAon[i] else x.tier.stallAon[i] + 1) },
        journal := if x.journal.waiting then { x.journal with fullAon := x.journal.fullAon + 1 } else x.journal }) }

/-- Cycles that a domain has run in the cycle just passed. -/
def cyclesRun (before after : State) (code : Nat) : Nat := (domCycles after code - domCycles before code).toNat

/-- Channels of devices above 85 °C count the MEM cycles that pass (R163). -/
def tickDerated (before s : State) : State :=
  if s.derated = 0 then s
  else
    { s with channels := Vector.ofFn (fun (i : Fin 128) =>
        if s.derated.getLsbD (i.val / 4) then
          { s.channels[i] with derateCycles := bump s.channels[i].derateCycles (cyclesRun before s (32 + i.val / 32)) }
        else s.channels[i]) }

/-- One AON cycle. Before power is good nothing runs. (DESIGN CHOICE, log entry 2) -/
def tick (s : State) : State :=
  if s.life.powered ∧ !s.life.stopped then
    let n := s.domains[0].cycles.toNat
    tickDerated s (tickHolds { s with domains := Vector.ofFn (fun i => tickDomain i.val n s.domains[i]) })
  else s

end Sys2Proof.Machine
end

