-- ==== Sys2Proof/Machine/Float.lean ====
section
/-! DEFINITION. Floating-point values as exact dyadic numbers, the formats of Table 2-1, and one rounding of an exact value (R45 to R47, R50, R52). -/

namespace Sys2Proof.Machine

/-- The exact value of a floating-point number: NaN, an infinity, or (−1)^neg · mant · 2^exp. -/
inductive FVal where
  | nan
  | inf (neg : Bool)
  | fin (neg : Bool) (mant : Nat) (exp : Int)
deriving DecidableEq, Repr

/-- How a format spends the encodings at the top of its exponent range (Table 2-2). -/
inductive TopKind where
  | ieee      -- all-ones exponent holds the infinities and the NaNs
  | e4m3      -- only the all-ones encoding is NaN; no infinity
  | allFinite -- no infinity and no NaN
deriving DecidableEq, Repr

/-- A floating-point element format (Table 2-1). -/
structure FFmt where
  expBits : Nat
  manBits : Nat
  bias : Nat
  top : TopKind
deriving DecidableEq, Repr

/-- FP32 (Table 2-1). -/
def fmtFp32 : FFmt := ⟨8, 23, 127, .ieee⟩
/-- BF16 (Table 2-1). -/
def fmtBf16 : FFmt := ⟨8, 7, 127, .ieee⟩
/-- FP16 (Table 2-1). -/
def fmtFp16 : FFmt := ⟨5, 10, 15, .ieee⟩
/-- E5M2 (Table 2-1). -/
def fmtE5m2 : FFmt := ⟨5, 2, 15, .ieee⟩
/-- E4M3 (Table 2-1). -/
def fmtE4m3 : FFmt := ⟨4, 3, 7, .e4m3⟩
/-- E3M2 (Table 2-1). -/
def fmtE3m2 : FFmt := ⟨3, 2, 3, .allFinite⟩
/-- E2M3 (Table 2-1). -/
def fmtE2m3 : FFmt := ⟨2, 3, 1, .allFinite⟩
/-- E2M1 (Table 2-1). -/
def fmtE2m1 : FFmt := ⟨2, 1, 1, .allFinite⟩

/-- The number of bits of an element. -/
def FFmt.bits (f : FFmt) : Nat := 1 + f.expBits + f.manBits
/-- The significand width p, hidden bit included (R45). -/
def FFmt.prec (f : FFmt) : Nat := f.manBits + 1
/-- The least normal unbiased exponent (Table 2-1). -/
def FFmt.emin (f : FFmt) : Int := 1 - (f.bias : Int)
/-- The largest biased exponent field that holds finite values. -/
def FFmt.maxField (f : FFmt) : Nat :=
  match f.top with
  | .ieee => 2 ^ f.expBits - 2
  | _ => 2 ^ f.expBits - 1
/-- The largest normal unbiased exponent (Table 2-1). -/
def FFmt.emax (f : FFmt) : Int := (f.maxField : Int) - f.bias
/-- The encoding of the largest finite magnitude (Table 2-1). -/
def FFmt.maxEnc (f : FFmt) : Nat :=
  match f.top with
  | .e4m3 => f.maxField * 2 ^ f.manBits + (2 ^ f.manBits - 2)
  | _ => f.maxField * 2 ^ f.manBits + (2 ^ f.manBits - 1)
/-- The canonical NaN of a format; +0 in a format that has none (Table 2-2, Table 2-3). -/
def FFmt.canonNan (f : FFmt) : Nat :=
  match f.top with
  | .ieee => (2 ^ f.expBits - 1) * 2 ^ f.manBits + 2 ^ (f.manBits - 1)
  | .e4m3 => 2 ^ (f.expBits + f.manBits) - 1
  | .allFinite => 0

/-- The sign bit in its place. -/
def FFmt.signed (f : FFmt) (neg : Bool) (x : Nat) : Nat :=
  if neg then 2 ^ (f.expBits + f.manBits) + x else x

/-- The value that an encoding stands for (Table 2-1, Table 2-2; subnormals kept, R47). -/
def FFmt.decode (f : FFmt) (x : Nat) : FVal :=
  let man := natField x 0 f.manBits
  let ex := natField x f.manBits f.expBits
  let neg := natBit x (f.expBits + f.manBits)
  if f.top = .ieee ∧ ex = 2 ^ f.expBits - 1 then
    if man = 0 then .inf neg else .nan
  else if f.top = .e4m3 ∧ ex = 2 ^ f.expBits - 1 ∧ man = 2 ^ f.manBits - 1 then .nan
  else if ex = 0 then .fin neg man (f.emin - f.manBits)
  else .fin neg (2 ^ f.manBits + man) ((ex : Int) - f.bias - f.manBits)

/-- The number of bits of a positive number. -/
def bitLen (m : Nat) : Nat := if m = 0 then 0 else Nat.log2 m + 1

/-- `m · 2^e` rounded to an integer, ties to even. -/
def rneInt (m : Nat) (e : Int) : Nat :=
  if 0 ≤ e then m <<< e.toNat
  else
    let d := (-e).toNat
    let lo := m >>> d
    let rem := m % 2 ^ d
    let half := 2 ^ (d - 1)
    if rem > half ∨ (rem = half ∧ lo % 2 = 1) then lo + 1 else lo

/-- `m · 2^e` rounded stochastically to an integer with the 16-bit random value `r` (R52). -/
def srInt (r : Nat) (m : Nat) (e : Int) : Nat :=
  if 0 ≤ e then m <<< e.toNat
  else
    let d := (-e).toNat
    let lo := m >>> d
    let f := if 16 ≤ d then (m >>> (d - 16)) % 65536 else (m % 2 ^ d) <<< (16 - d)
    if f + r ≥ 65536 then lo + 1 else lo

/-- The rounding an operation selects: nearest-even, or stochastic with its 16 random bits. -/
inductive Round where
  | rne
  | sr (r : Nat)
deriving DecidableEq, Repr

/-- `m · 2^e` rounded to an integer as selected. -/
def roundInt (rd : Round) (m : Nat) (e : Int) : Nat :=
  match rd with
  | .rne => rneInt m e
  | .sr r => srInt r m e

/-- The exponent of the last place of a format at the magnitude `m · 2^e`: its precision with an
unbounded exponent range, and the subnormal spacing at the bottom (R50). -/
def FFmt.lastPlace (f : FFmt) (m : Nat) (e : Int) : Int :=
  max (e + bitLen m - 1) f.emin - (f.manBits : Int)

/-- The magnitude `m · 2^e` rounded to the format with an unbounded exponent range (R50): the
rounded integer and the exponent of its last place. -/
def FFmt.roundMag (f : FFmt) (rd : Round) (m : Nat) (e : Int) : Nat × Int :=
  let q := f.lastPlace m e
  let k := roundInt rd m (e - q)
  if k = 2 ^ f.prec then (2 ^ f.manBits, q + 1) else (k, q)

/-- What a finite overflow becomes (Table 2-3). -/
inductive OvfKind where
  | sat
  | nan
deriving DecidableEq, Repr

/-- The encoding of an exact value after one rounding to the format (R50, Table 2-3). `ovf` is the overflow
option of the FP8 destinations. -/
def FFmt.encode (f : FFmt) (rd : Round) (ovf : OvfKind) (v : FVal) : Nat :=
  match v with
  | .nan => f.canonNan
  | .inf neg =>
    match f.top with
    | .ieee => f.signed neg ((2 ^ f.expBits - 1) * 2 ^ f.manBits)
    | .e4m3 => f.canonNan
    | .allFinite => f.signed neg f.maxEnc
  | .fin neg m e =>
    if m = 0 then f.signed neg 0
    else
      let (k, q) := f.roundMag rd m e
      let enc :=
        if k < 2 ^ f.manBits then k
        else ((q + f.manBits + f.bias).toNat) * 2 ^ f.manBits + (k - 2 ^ f.manBits)
      if enc ≤ f.maxEnc then f.signed neg enc
      else
        match f.top with
        | .ieee =>
          if f.expBits = 5 ∧ f.manBits = 2 then
            (match ovf with
            | .sat => f.signed neg f.maxEnc
            | .nan => f.canonNan)
          else f.signed neg ((2 ^ f.expBits - 1) * 2 ^ f.manBits)
        | .e4m3 =>
          (match ovf with
          | .sat => f.signed neg f.maxEnc
          | .nan => f.canonNan)
        | .allFinite => f.signed neg f.maxEnc

/-- The exact value that a format's rounding of `v` yields (R66: one rounding). -/
def FFmt.rnd (f : FFmt) (v : FVal) : Nat := f.encode .rne .sat v

/-- −v. -/
def FVal.neg : FVal → FVal
  | .nan => .nan
  | .inf s => .inf (!s)
  | .fin s m e => .fin (!s) m e

/-- |v|. -/
def FVal.abs : FVal → FVal
  | .nan => .nan
  | .inf _ => .inf false
  | .fin _ m e => .fin false m e

/-- v · 2^k, exactly. -/
def FVal.scale (v : FVal) (k : Int) : FVal :=
  match v with
  | .fin s m e => .fin s m (e + k)
  | w => w

/-- Is the value finite? -/
def FVal.isFinite : FVal → Bool
  | .fin _ _ _ => true
  | _ => false

/-- Is the value a NaN? -/
def FVal.isNan : FVal → Bool
  | .nan => true
  | _ => false

/-- Is the value a zero of either sign? -/
def FVal.isZero : FVal → Bool
  | .fin _ m _ => m = 0
  | _ => false

/-- The sign of the value; false for a NaN. -/
def FVal.isNeg : FVal → Bool
  | .nan => false
  | .inf s => s
  | .fin s _ _ => s

/-- The exact integer of a finite value in units of 2^q, for q at or below its exponent. -/
def FVal.units (neg : Bool) (m : Nat) (e q : Int) : Int :=
  let k : Int := (m <<< (e - q).toNat : Nat)
  if neg then -k else k

/-- The value of a signed integer times 2^q; zero is +0. -/
def FVal.ofInt (k q : Int) : FVal := .fin (k < 0) k.natAbs q

/-- The exact sum; an exact zero sum is +0 unless both addends are −0 (R47, IEEE 754-2019). -/
def FVal.add (a b : FVal) : FVal :=
  match a, b with
  | .nan, _ => .nan
  | _, .nan => .nan
  | .inf s, .inf t => if s = t then .inf s else .nan
  | .inf s, _ => .inf s
  | _, .inf t => .inf t
  | .fin s m e, .fin t n g =>
    if m = 0 ∧ n = 0 then .fin (s && t) 0 0
    else
      let q := min e g
      FVal.ofInt (FVal.units s m e q + FVal.units t n g q) q

/-- The exact product (IEEE 754-2019). -/
def FVal.mul (a b : FVal) : FVal :=
  match a, b with
  | .nan, _ => .nan
  | _, .nan => .nan
  | .inf s, .inf t => .inf (s != t)
  | .inf s, .fin t n _ => if n = 0 then .nan else .inf (s != t)
  | .fin s m _, .inf t => if m = 0 then .nan else .inf (s != t)
  | .fin s m e, .fin t n g => .fin (s != t) (m * n) (e + g)

/-- a · b + c before its one rounding; a NaN operand gives NaN. -/
def FVal.fma (a b c : FVal) : FVal := (a.mul b).add c

/-- The quotient, with a sticky last bit far below any format's last place (IEEE 754-2019). -/
def FVal.div (a b : FVal) : FVal :=
  match a, b with
  | .nan, _ => .nan
  | _, .nan => .nan
  | .inf _, .inf _ => .nan
  | .inf s, .fin t _ _ => .inf (s != t)
  | .fin s _ _, .inf t => .fin (s != t) 0 0
  | .fin s m e, .fin t n g =>
    if n = 0 then (if m = 0 then .nan else .inf (s != t))
    else
      let x := m <<< 96
      let k := x / n
      let st := if x % n = 0 then 0 else 1
      .fin (s != t) (2 * k + st) (e - g - 97)

/-- The integer square root, found one bit at a time. -/
def isqrt (x : Nat) : Nat → Nat → Nat
  | 0, acc => acc
  | b + 1, acc =>
    let t := acc + 2 ^ b
    if t * t ≤ x then isqrt x b t else isqrt x b acc

/-- The square root, with a sticky last bit (IEEE 754-2019). -/
def FVal.sqrt (a : FVal) : FVal :=
  match a with
  | .nan => .nan
  | .inf s => if s then .nan else .inf false
  | .fin s m e =>
    if m = 0 then .fin s 0 0
    else if s then .nan
    else
      let (m', e') := if e % 2 = 0 then (m, e) else (2 * m, e - 1)
      let x := m' <<< 80
      let r := isqrt x (bitLen x / 2 + 1) 0
      let st := if r * r = x then 0 else 1
      .fin false (2 * r + st) (e' / 2 - 41)

/-- Is a < b, for values that are no NaN; −0 equals +0. -/
def FVal.lt (a b : FVal) : Bool :=
  match a, b with
  | .nan, _ => false
  | _, .nan => false
  | .inf s, .inf t => s && !t
  | .inf s, _ => s
  | _, .inf t => !t
  | .fin s m e, .fin t n g =>
    let q := min e g
    decide (FVal.units s m e q < FVal.units t n g q)

/-- Is a = b, for values that are no NaN; −0 equals +0. -/
def FVal.eq (a b : FVal) : Bool :=
  match a, b with
  | .nan, _ => false
  | _, .nan => false
  | .inf s, .inf t => s == t
  | .inf _, _ => false
  | _, .inf _ => false
  | .fin s m e, .fin t n g =>
    let q := min e g
    decide (FVal.units s m e q = FVal.units t n g q)

/-- The minimum, with −0 < +0 and NaN for any NaN operand (Table 4-8). -/
def FVal.min (a b : FVal) : FVal :=
  if a.isNan || b.isNan then .nan
  else if a.lt b then a
  else if b.lt a then b
  else if a.isNeg then a else b

/-- The maximum, with −0 < +0 and NaN for any NaN operand (Table 4-8). -/
def FVal.max (a b : FVal) : FVal :=
  if a.isNan || b.isNan then .nan
  else if a.lt b then b
  else if b.lt a then a
  else if a.isNeg then b else a

/-- The FP32 value of 32 bits. -/
def f32 (x : Word32) : FVal := fmtFp32.decode x.toNat

/-- The FP32 bits of an exact value after one RNE rounding. -/
def rne32 (v : FVal) : Word32 := BitVec.ofNat 32 (fmtFp32.rnd v)

/-- The FP32 sum with one rounding. -/
def addF32 (a b : Word32) : Word32 := rne32 ((f32 a).add (f32 b))

/-- The FP32 difference with one rounding. -/
def subF32 (a b : Word32) : Word32 := rne32 ((f32 a).add (f32 b).neg)

/-- The FP32 product with one rounding. -/
def mulF32 (a b : Word32) : Word32 := rne32 ((f32 a).mul (f32 b))

/-- The FP32 quotient with one rounding. -/
def divF32 (a b : Word32) : Word32 := rne32 ((f32 a).div (f32 b))

/-- The FP32 square root with one rounding. -/
def sqrtF32 (a : Word32) : Word32 := rne32 (f32 a).sqrt

/-- fma(a, b, c) with one rounding. -/
def fmaF32 (a b c : Word32) : Word32 := rne32 (FVal.fma (f32 a) (f32 b) (f32 c))

/-- The canonical FP32 NaN (Table 2-2). -/
def nanF32 : Word32 := 0x7FC00000

/-- Is the FP32 value a NaN or an infinity? -/
def nonfiniteF32 (a : Word32) : Bool := !(f32 a).isFinite

/-- The FP32 value of a natural number, rounded once. -/
def natF32 (n : Nat) : Word32 := rne32 (.fin false n 0)

/-- a < b on FP32 bits, false with a NaN. -/
def ltF32 (a b : Word32) : Bool := (f32 a).lt (f32 b)

/-- a ≤ b on FP32 bits, false with a NaN. -/
def leF32 (a b : Word32) : Bool := (f32 a).lt (f32 b) || (f32 a).eq (f32 b)

end Sys2Proof.Machine
end

