-- ==== Sys2Proof/Machine/Formats.lean ====
section
/-! DEFINITION. Element formats by code (Table 4-3), packing (R48), MX blocks (R49, R51), conversion (R50) and block alignment (R55). -/

namespace Sys2Proof.Machine

/-- What an element of a format code is: a floating-point format or a two's-complement integer of `w` bits. -/
inductive ElemKind where
  | flt (f : FFmt)
  | int (w : Nat)
deriving DecidableEq, Repr

/-- The element kind of a 4-bit format code (Table 4-3). -/
def codeKind (code : Nat) : ElemKind :=
  match code with
  | 0 => .flt fmtFp32
  | 1 => .flt fmtBf16
  | 2 => .flt fmtFp16
  | 3 => .flt fmtE5m2
  | 4 => .flt fmtE4m3
  | 5 => .flt fmtE3m2
  | 6 => .flt fmtE2m3
  | 7 => .flt fmtE2m1
  | 8 => .int 8
  | 9 => .int 4
  | 10 => .flt fmtE4m3
  | 11 => .flt fmtE5m2
  | 12 => .flt fmtE2m3
  | 13 => .flt fmtE3m2
  | 14 => .flt fmtE2m1
  | _ => .int 32

/-- Does the code name an MX format (Table 4-3)? -/
def codeIsMx (code : Nat) : Bool := 10 ≤ code && code ≤ 14

/-- Does the code name an integer format? -/
def codeIsInt (code : Nat) : Bool := code == 8 || code == 9 || code == 15

/-- Bits of one element. -/
def ElemKind.bits : ElemKind → Nat
  | .flt f => f.bits
  | .int w => w

/-- Bits of one element of a format code. -/
def codeBits (code : Nat) : Nat := (codeKind code).bits

/-- The significand width p of a kind (R45). -/
def ElemKind.prec : ElemKind → Nat
  | .flt f => f.prec
  | .int w => w

/-- The exact value of an element's bits. -/
def ElemKind.decode (k : ElemKind) (x : Nat) : FVal :=
  match k with
  | .flt f => f.decode x
  | .int w => FVal.ofInt (natToInt w x) 0

/-- The integer that a value converts to, saturated to `w` bits (Table 2-3). -/
def toIntSat (w : Nat) (rd : Round) (v : FVal) : Int :=
  let hi : Int := (2 ^ (w - 1) : Nat) - 1
  let lo : Int := -(2 ^ (w - 1) : Nat)
  match v with
  | .nan => 0
  | .inf neg => if neg then lo else hi
  | .fin neg m e =>
    let k : Int := (roundInt rd m e : Nat)
    clampInt lo hi (if neg then -k else k)

/-- The bits of a value converted to an element kind (R50, Table 2-3). -/
def ElemKind.encode (k : ElemKind) (rd : Round) (ovf : OvfKind) (v : FVal) : Nat :=
  match k with
  | .flt f => f.encode rd ovf v
  | .int w => intToNat w (toIntSat w rd v)

/-- Element `i` of a packed array read as one little-endian number (R48, R128). -/
def packedElem (image width i : Nat) : Nat := natField image (width * i) width

/-- A packed image with element `i` replaced. -/
def packedSet (image width i v : Nat) : Nat := natSetField image (width * i) width v

/-- The packed image of a list of elements. -/
def packElems (width : Nat) : List Nat → Nat
  | [] => 0
  | x :: xs => x % 2 ^ width + 2 ^ width * packElems width xs

/-- Bytes that `n` packed elements of `width` bits occupy. -/
def packedBytes (width n : Nat) : Nat := (width * n + 7) / 8

/-- The value of an element of an MX block with E8M0 scale `scale` (R49). -/
def mxValue (k : ElemKind) (scale x : Nat) : FVal :=
  if scale = 255 then .nan else (k.decode x).scale ((scale : Int) - 127)

/-- floor(log2) of a finite nonzero magnitude. -/
def FVal.ilog2 (v : FVal) : Int :=
  match v with
  | .fin _ m e => e + bitLen m - 1
  | _ => 0

/-- The largest floor(log2 |v|) over the nonzero values of a list. -/
def maxIlog2 : List FVal → Option Int
  | [] => none
  | v :: vs =>
    match v.isZero, maxIlog2 vs with
    | true, r => r
    | false, none => some v.ilog2
    | false, some r => some (max v.ilog2 r)

/-- An MX block of values: its E8M0 scale and its elements (R51). `rds` gives each element's rounding. -/
def mxEncode (k : ElemKind) (rds : List Round) (vs : List FVal) : Nat × List Nat :=
  match k with
  | .int _ => (0, vs.map (fun _ => 0))
  | .flt f =>
    if vs.any (fun v => !v.isFinite) then (255, vs.map (fun _ => 0))
    else
      match maxIlog2 vs with
      | none => (0, vs.map (fun _ => 0))
      | some ea =>
        let scale := (clampInt 0 254 (ea - f.emax + 127)).toNat
        (scale, (vs.zip rds).map (fun p => f.encode p.2 .sat (p.1.scale (127 - (scale : Int)))))

/-- The streamed or stationary group after alignment (R55): the exponent of the last place and the signed integers. -/
structure Aligned where
  lsb : Int
  vals : List Int
  nonfinite : Bool
deriving DecidableEq, Repr

/-- The exponent e of an aligned element: its last place raised by p − 1. -/
def elemExp (p : Nat) : FVal → Option Int
  | .fin _ m e => if m = 0 then none else some (e + p - 1)
  | _ => none

/-- The largest e of the nonzero elements. -/
def topExp (p : Nat) : List FVal → Option Int
  | [] => none
  | v :: vs =>
    match elemExp p v, topExp p vs with
    | none, r => r
    | some a, none => some a
    | some a, some b => some (max a b)

/-- The elements as integers in units of 2^lsb, each rounded once to nearest-even. -/
def alignAt (lsb : Int) (xs : List FVal) : List Int :=
  xs.map (fun v =>
    match v with
    | .fin neg m e => let k : Int := (rneInt m (e - lsb) : Nat); if neg then -k else k
    | _ => 0)

/-- align_group (R55): `w` bits, significand width `p`, the format's least normal exponent `lowE`. -/
def alignGroup (p w : Nat) (lowE : Int) (xs : List FVal) : Aligned :=
  if xs.any (fun v => !v.isFinite) then ⟨0, xs.map (fun _ => 0), true⟩
  else
    let top := (topExp p xs).getD lowE
    let lsb := top - ((w : Int) - 1)
    let a := alignAt lsb xs
    if a.all (fun k => k.natAbs < 2 ^ w) then ⟨lsb, a, false⟩
    else ⟨lsb + 1, alignAt (lsb + 1) xs, false⟩

/-- The least normal exponent of a kind, as R55 uses it. -/
def ElemKind.lowExp : ElemKind → Int
  | .flt f => f.emin
  | .int w => (w : Int) - 1

/-- The signed sum of products of two aligned groups (R59). -/
def groupPartial (a b : List Int) : Int :=
  (a.zip b).foldl (fun s p => s + p.1 * p.2) 0

/-- One accumulation step of R60: the running FP32 sum and the exact group partial, rounded once. -/
def accStep (acc : Word32) (a b : Aligned) : Word32 :=
  if a.nonfinite || b.nonfinite then nanF32
  else rne32 ((f32 acc).add (FVal.ofInt (groupPartial a.vals b.vals) (a.lsb + b.lsb)))

/-- One accumulation step of R61: INT32 with saturation. The partial is an integer times 2^lsb (R58). -/
def accStepInt (acc : Word32) (a b : Aligned) : Word32 :=
  let part := groupPartial a.vals b.vals
  let sh := a.lsb + b.lsb
  let v : Int := if 0 ≤ sh then part * (2 ^ sh.toNat : Nat) else part / (2 ^ (-sh).toNat : Nat)
  BitVec.ofInt 32 (clampInt (-2147483648) 2147483647 (natToInt 32 acc.toNat + v))

/-- column_result (R60): the groups of one output in ascending k. -/
def columnResult (init : Word32) (groups : List (Aligned × Aligned)) : Word32 :=
  groups.foldl (fun acc g => accStep acc g.1 g.2) init

/-- The INT32 accumulation of R61. -/
def columnResultInt (init : Word32) (groups : List (Aligned × Aligned)) : Word32 :=
  groups.foldl (fun acc g => accStepInt acc g.1 g.2) init

/-- A value with subnormals of a format flushed to zero, sign kept (Table 2-9). -/
def flushFmt (f : FFmt) (v : FVal) : FVal :=
  match v with
  | .fin neg m e => if m ≠ 0 ∧ e + bitLen m - 1 < f.emin then .fin neg 0 0 else v
  | w => w

/-- FP32 bits with a subnormal flushed to zero, sign kept (Table 2-9). -/
def flush32 (x : Word32) : Word32 := rne32 (flushFmt fmtFp32 (f32 x))

/-- Eskor-exact accumulation (Table 2-9): one rounding after every product, ascending k, subnormals flushed. -/
def columnResultEskor (init : Word32) (pairs : List (FVal × FVal)) : Word32 :=
  pairs.foldl (fun acc p => flush32 (rne32 ((f32 acc).add (p.1.mul p.2)))) init

end Sys2Proof.Machine
end

