-- ==== Sys2Proof/Machine/Crypto.lean ====
section
/-! DEFINITION. AES-128 (FIPS 197), SHA-256 and SHA-384 (FIPS 180-4), CRC-64 (R304) and CRC-32C (Table 11-3), computed on numbers. -/

namespace Sys2Proof.Machine

/-- The AES S-box of FIPS 197: byte x of the table is the image of x. -/
def aesSbox : Nat :=
  0x16bb54b00f2d99416842e6bf0d89a18cdf2855cee9871e9b948ed9691198f8e19e1dc186b95735610ef6034866b53e708a8bbd4b1f74dde8c6b4a61c2e2578ba08ae7a65eaf4566ca94ed58d6d37c8e779e4959162acd3c25c2406490a3a32e0db0b5ede14b8ee4688902a22dc4f816073195d643d7ea7c41744975fec130ccdd2f3ff1021dab6bcf5389d928f40a351a89f3c507f02f94585334d43fbaaefd0cf584c4a39becb6a5bb1fc20ed00d153842fe329b3d63b52a05a6e1b1a2c830975b227ebe28012079a059618c323c7041531d871f1e5a534ccf73f362693fdb7c072a49cafa2d4adf04759fa7dc982ca76abd7fe2b670130c56f6bf27b777c63

/-- The S-box image of a byte. -/
def aesSub (x : Nat) : Nat := (aesSbox >>> (8 * x)) % 256

/-- Multiplication by x in GF(2^8). -/
def aesXtime (x : Nat) : Nat :=
  let y := 2 * x
  if y < 256 then y else (y - 256) ^^^ 0x1b

/-- One key-schedule step: the next four words from the last four and a round constant. -/
def aesNextKey (rcon : Nat) (k : List Nat) : List Nat :=
  let b := fun i => k.getD i 0
  let t0 := aesSub (b 13) ^^^ rcon
  let t1 := aesSub (b 14)
  let t2 := aesSub (b 15)
  let t3 := aesSub (b 12)
  let w0 := [b 0 ^^^ t0, b 1 ^^^ t1, b 2 ^^^ t2, b 3 ^^^ t3]
  let w1 := (List.range 4).map (fun i => b (4 + i) ^^^ w0.getD i 0)
  let w2 := (List.range 4).map (fun i => b (8 + i) ^^^ w1.getD i 0)
  let w3 := (List.range 4).map (fun i => b (12 + i) ^^^ w2.getD i 0)
  w0 ++ w1 ++ w2 ++ w3

/-- SubBytes and ShiftRows. -/
def aesSubShift (s : List Nat) : List Nat :=
  (List.range 16).map (fun i => aesSub (s.getD ((i + 4 * (i % 4)) % 16) 0))

/-- MixColumns on one column. -/
def aesMixCol (a b c d : Nat) : List Nat :=
  let t := a ^^^ b ^^^ c ^^^ d
  [a ^^^ t ^^^ aesXtime (a ^^^ b), b ^^^ t ^^^ aesXtime (b ^^^ c),
   c ^^^ t ^^^ aesXtime (c ^^^ d), d ^^^ t ^^^ aesXtime (d ^^^ a)]

/-- MixColumns. -/
def aesMix (s : List Nat) : List Nat :=
  let b := fun i => s.getD i 0
  aesMixCol (b 0) (b 1) (b 2) (b 3) ++ aesMixCol (b 4) (b 5) (b 6) (b 7) ++
  aesMixCol (b 8) (b 9) (b 10) (b 11) ++ aesMixCol (b 12) (b 13) (b 14) (b 15)

/-- AddRoundKey. -/
def aesAdd (s k : List Nat) : List Nat := (s.zip k).map (fun p => p.1 ^^^ p.2)

/-- The middle rounds and the last one, over the remaining round constants. -/
def aesRounds : List Nat → List Nat → List Nat → List Nat
  | [], s, _ => s
  | [rc], s, k => aesAdd (aesSubShift s) (aesNextKey rc k)
  | rc :: rcs, s, k =>
    let k' := aesNextKey rc k
    aesRounds rcs (aesAdd (aesMix (aesSubShift s)) k') k'

/-- AES-128 encryption of 16 bytes (FIPS 197). -/
def aes128 (key input : List Nat) : List Nat :=
  aesRounds [1, 2, 4, 8, 16, 32, 64, 128, 27, 54] (aesAdd input key) key

/-- The low 8·n bits of a number as n bytes, little-endian. -/
def natBytes (n x : Nat) : List Nat := (natToBytes n x).map (·.toNat)

/-- The number that a byte list spells, little-endian. -/
def bytesNat : List Nat → Nat
  | [] => 0
  | b :: bs => b + 256 * bytesNat bs

/-- The number that a byte list spells, big-endian. -/
def bytesNatBe (bs : List Nat) : Nat := bs.foldl (fun a b => 256 * a + b) 0

/-- The round constants of SHA-512 and SHA-384; their high halves are those of SHA-256 (FIPS 180-4). -/
def shaK : List Nat :=
  [0x428a2f98d728ae22, 0x7137449123ef65cd, 0xb5c0fbcfec4d3b2f, 0xe9b5dba58189dbbc, 0x3956c25bf348b538, 0x59f111f1b605d019, 0x923f82a4af194f9b, 0xab1c5ed5da6d8118] ++
  [0xd807aa98a3030242, 0x12835b0145706fbe, 0x243185be4ee4b28c, 0x550c7dc3d5ffb4e2, 0x72be5d74f27b896f, 0x80deb1fe3b1696b1, 0x9bdc06a725c71235, 0xc19bf174cf692694] ++
  [0xe49b69c19ef14ad2, 0xefbe4786384f25e3, 0x0fc19dc68b8cd5b5, 0x240ca1cc77ac9c65, 0x2de92c6f592b0275, 0x4a7484aa6ea6e483, 0x5cb0a9dcbd41fbd4, 0x76f988da831153b5] ++
  [0x983e5152ee66dfab, 0xa831c66d2db43210, 0xb00327c898fb213f, 0xbf597fc7beef0ee4, 0xc6e00bf33da88fc2, 0xd5a79147930aa725, 0x06ca6351e003826f, 0x142929670a0e6e70] ++
  [0x27b70a8546d22ffc, 0x2e1b21385c26c926, 0x4d2c6dfc5ac42aed, 0x53380d139d95b3df, 0x650a73548baf63de, 0x766a0abb3c77b2a8, 0x81c2c92e47edaee6, 0x92722c851482353b] ++
  [0xa2bfe8a14cf10364, 0xa81a664bbc423001, 0xc24b8b70d0f89791, 0xc76c51a30654be30, 0xd192e819d6ef5218, 0xd69906245565a910, 0xf40e35855771202a, 0x106aa07032bbd1b8] ++
  [0x19a4c116b8d2d0c8, 0x1e376c085141ab53, 0x2748774cdf8eeb99, 0x34b0bcb5e19b48a8, 0x391c0cb3c5c95a63, 0x4ed8aa4ae3418acb, 0x5b9cca4f7763e373, 0x682e6ff3d6b2b8a3] ++
  [0x748f82ee5defb2fc, 0x78a5636f43172f60, 0x84c87814a1f0ab72, 0x8cc702081a6439ec, 0x90befffa23631e28, 0xa4506cebde82bde9, 0xbef9a3f7b2c67915, 0xc67178f2e372532b] ++
  [0xca273eceea26619c, 0xd186b8c721c0c207, 0xeada7dd6cde0eb1e, 0xf57d4f7fee6ed178, 0x06f067aa72176fba, 0x0a637dc5a2c898a6, 0x113f9804bef90dae, 0x1b710b35131c471b] ++
  [0x28db77f523047d84, 0x32caab7b40c72493, 0x3c9ebe0a15c9bebc, 0x431d67c49c100d4c, 0x4cc5d4becb3e42b6, 0x597f299cfc657e2a, 0x5fcb6fab3ad6faec, 0x6c44198c4a475817]

/-- Rotation right of a w-bit number. -/
def rotr (w x n : Nat) : Nat := (x >>> n) ||| ((x <<< (w - n)) % 2 ^ w)

/-- The word width, the rotation amounts and the rounds of one SHA-2 function. -/
structure ShaParam where
  w : Nat
  rounds : Nat
  bigA : Nat × Nat × Nat
  bigE : Nat × Nat × Nat
  smallA : Nat × Nat × Nat
  smallB : Nat × Nat × Nat
deriving DecidableEq, Repr

/-- SHA-256. -/
def sha256Param : ShaParam := ⟨32, 64, (2, 13, 22), (6, 11, 25), (7, 18, 3), (17, 19, 10)⟩
/-- SHA-384 and SHA-512. -/
def sha512Param : ShaParam := ⟨64, 80, (28, 34, 39), (14, 18, 41), (1, 8, 7), (19, 61, 6)⟩

/-- Three rotations combined. -/
def shaBig (w : Nat) (r : Nat × Nat × Nat) (x : Nat) : Nat :=
  rotr w x r.1 ^^^ rotr w x r.2.1 ^^^ rotr w x r.2.2

/-- Two rotations and a shift combined. -/
def shaSmall (w : Nat) (r : Nat × Nat × Nat) (x : Nat) : Nat :=
  rotr w x r.1 ^^^ rotr w x r.2.1 ^^^ (x >>> r.2.2)

/-- One SHA-2 round on the eight working words, with the message word and the constant. -/
def shaRound (p : ShaParam) (wt kt : Nat) (v : List Nat) : List Nat :=
  let g := fun i => v.getD i 0
  let ch := (g 4 &&& g 5) ^^^ ((2 ^ p.w - 1 - g 4) &&& g 6)
  let maj := (g 0 &&& g 1) ^^^ (g 0 &&& g 2) ^^^ (g 1 &&& g 2)
  let t1 := g 7 + shaBig p.w p.bigE (g 4) + ch + kt + wt
  let t2 := shaBig p.w p.bigA (g 0) + maj
  [(t1 + t2) % 2 ^ p.w, g 0, g 1, g 2, (g 3 + t1) % 2 ^ p.w, g 4, g 5, g 6]

/-- The rounds, with a window of the last 16 message words. -/
def shaRounds (p : ShaParam) : List Nat → List Nat → List Nat → List Nat
  | [], _, v => v
  | k :: ks, win, v =>
    let kt := if p.w = 32 then k >>> 32 else k
    let g := fun i => win.getD i 0
    let next := (g 0 + shaSmall p.w p.smallA (g 1) + g 9 + shaSmall p.w p.smallB (g 14)) % 2 ^ p.w
    shaRounds p ks (win.drop 1 ++ [next]) (shaRound p (g 0) kt v)

/-- One block into the hash value. -/
def shaBlock (p : ShaParam) (h : List Nat) (win : List Nat) : List Nat :=
  let v := shaRounds p (shaK.take p.rounds) win h
  (h.zip v).map (fun x => (x.1 + x.2) % 2 ^ p.w)

/-- All blocks of a padded message of 16-word blocks. -/
def shaBlocks (p : ShaParam) : Nat → List Nat → List Nat → List Nat
  | 0, h, _ => h
  | n + 1, h, ws => shaBlocks p n (shaBlock p h (ws.take 16)) (ws.drop 16)

/-- The words of a byte list, big-endian. -/
def shaWords (bytes : Nat) : Nat → List Nat → List Nat
  | 0, _ => []
  | n + 1, bs => bytesNatBe (bs.take bytes) :: shaWords bytes n (bs.drop bytes)

/-- The big-endian bytes of a number. -/
def natBytesBe (n x : Nat) : List Nat := (natBytes n x).reverse

/-- SHA-2 of a byte list with the given initial value (FIPS 180-4). -/
def sha2 (p : ShaParam) (init : List Nat) (msg : List Nat) : List Nat :=
  let wb := p.w / 8
  let block := 16 * wb
  let lenBytes := 2 * wb
  let blocks := (msg.length + 1 + lenBytes + block - 1) / block
  let zeros := blocks * block - (msg.length + 1 + lenBytes)
  let padded := msg ++ [0x80] ++ List.replicate zeros 0 ++ natBytesBe lenBytes (8 * msg.length)
  let h := shaBlocks p blocks init (shaWords wb (16 * blocks) padded)
  h.flatMap (natBytesBe wb)

/-- SHA-256 (FIPS 180-4). -/
def sha256 (msg : List Nat) : List Nat :=
  sha2 sha256Param [0x6a09e667, 0xbb67ae85, 0x3c6ef372, 0xa54ff53a, 0x510e527f, 0x9b05688c, 0x1f83d9ab, 0x5be0cd19] msg

/-- SHA-384 (FIPS 180-4). -/
def sha384 (msg : List Nat) : List Nat :=
  (sha2 sha512Param
    ([0xcbbb9d5dc1059ed8, 0x629a292a367cd507, 0x9159015a3070dd17, 0x152fecd8f70e5939] ++
  [0x67332667ffc00b31, 0x8eb44a8768581511, 0xdb0c2e0d64f98fa7, 0x47b5481dbefa4fa4]) msg).take 48

/-- One bit into the CRC-64 register (R304: polynomial ECMA-182, not reflected). -/
def crc64Bit (c : Nat) : Nat :=
  let d := (2 * c) % 2 ^ 64
  if 2 ^ 63 ≤ c then d ^^^ 0x42F0E1EBA9EA3693 else d

/-- One byte into the CRC-64 register. -/
def crc64Byte (c : Nat) (b : Byte) : Nat :=
  (List.range 8).foldl (fun x _ => crc64Bit x) (c ^^^ (b.toNat <<< 56))

/-- CRC-64 of bytes (R304). -/
def crc64 (bs : List Byte) : Nat := bs.foldl crc64Byte 0

/-- CRC-64 continued from a register value. -/
def crc64From (c : Nat) (bs : List Byte) : Nat := bs.foldl crc64Byte c

/-- One bit of the reflected CRC-32C register. -/
def crc32cBit (c : Nat) : Nat := if c % 2 = 1 then (c >>> 1) ^^^ 0x82F63B78 else c >>> 1

/-- One byte into the CRC-32C register. -/
def crc32cByte (c : Nat) (b : Byte) : Nat :=
  (List.range 8).foldl (fun x _ => crc32cBit x) (c ^^^ b.toNat)

/-- CRC-32C (Castagnoli) of bytes (Table 11-3, icrc). -/
def crc32c (bs : List Byte) : Nat := (bs.foldl crc32cByte 0xFFFFFFFF) ^^^ 0xFFFFFFFF

end Sys2Proof.Machine
end

