-- ==== Sys2Proof/Machine/Records.lean ====
section
/-! DEFINITION. What the module writes about itself: messages, the error log, ring records, journal records, completion records; and the end of a command without commit. -/

namespace Sys2Proof.Machine

/-- Status codes (Table 0-4 and the tables of the chapters that own the others). -/
abbrev stOk : Nat := 0x0000
abbrev stBusy : Nat := 0x0001
abbrev stInvalid : Nat := 0x0002
abbrev stDoorbellAhead : Nat := 0x0003
abbrev stAbortedDisabled : Nat := 0x0004
abbrev stAbortedReset : Nat := 0x0005
abbrev stTierStall : Nat := 0x0006
abbrev stTierError : Nat := 0x0007
abbrev stShardMismatch : Nat := 0x0008
abbrev stDivergence : Nat := 0x0009
abbrev stNonfiniteSkipped : Nat := 0x000A
abbrev stNormClipped : Nat := 0x000B
abbrev stPendingRemote : Nat := 0x000C
abbrev stAddressFault : Nat := 0x0D01
abbrev stWaitTimeout : Nat := 0x0D02
abbrev stNotPermitted : Nat := 0x0D03
abbrev stAcceptShort : Nat := 0x0C01
abbrev stSlotNotOwned : Nat := 0x0C02
abbrev stPlacedReserve : Nat := 0x0C03
abbrev stPlacedOverflow : Nat := 0x0C04
abbrev stDataPoisoned : Nat := 0x1001
abbrev stAbortedDecaf : Nat := 0x1002

/-- A write by the module at a device address: posted on the host link where the place is host memory (R378). -/
def moduleWrite (s : State) (a : Nat) (bs : List Byte) : State :=
  match placeOf s a with
  | .host p bus => hostWrite s p bus bs
  | _ => cohWrite s a bs

/-! ### Messages -/

/-- MSI-X entries of a function's allocation (R365). -/
def msixAlloc (s : State) (fn : Nat) : Nat :=
  if fn = 0 then
    min 2048 (4096 - ((s.partitions.filter (fun e => e.1 != 0)).map (fun e => e.2.msixQuota)).sum)
  else ((partAt s fn).map (·.msixQuota)).getD 0

/-- An MSI-X message of a function's entry: sent, left pending, or not sent at all (R365). (PRESUMED, log entry 23) -/
def sendMsix (s : State) (fn entry : Nat) : State :=
  match funcAt s fn with
  | none => s
  | some f =>
    if entry < msixAlloc s fn ∧ f.msixEnabled then
      let e := mapGetD f.msix entry { addr := 0, data := 0, masked := true }
      if e.masked || f.functionMask then
        modFunc s fn (fun g => if g.pba.contains entry then g else { g with pba := g.pba ++ [entry] })
      else sendHost s (.msix fn e.addr e.data)
    else s

/-- An MSI written to an IMSIC file: the identity becomes pending (R224, R225). File 0 is M, 1 is S. -/
def sendMsi (s : State) (hart file ident : Nat) : State :=
  if hart < 64 ∧ 1 ≤ ident ∧ ident < 512 then
    let k := hart * 64 + file
    let f := mapGetD s.imsic k ImsicFile.reset
    { s with imsic := mapSet s.imsic k { f with pend := f.pend ||| BitVec.ofNat 512 (2 ^ ident) } }
  else s

/-- An APLIC source raised (R224). -/
def raiseAplic (s : State) (src : Nat) : State := { s with aplic := s.aplic ||| BitVec.ofNat 32 (2 ^ src) }

/-- ALERT_N asserted for a cause; it stays asserted while any cause holds (R498). -/
def raiseAlert (s : State) (cause : Nat) : State :=
  if s.power.alerts.contains cause then s
  else { s with power := { s.power with alerts := s.power.alerts ++ [cause] } }

/-- A cause of ALERT_N is over (R498). -/
def clearAlert (s : State) (cause : Nat) : State :=
  { s with power := { s.power with alerts := s.power.alerts.filter (· != cause) } }

/-! ### The error log -/

/-- The open step of a partition's job, or its last committed step; 0 for none (Table 16-3). -/
def logStep (s : State) (p : Nat) : Nat :=
  match jobAt s p with
  | none => 0
  | some j => match j.step with
    | some o => o.step
    | none => j.committed

/-- The fault block with an entry of a class counted (R508, Table 16-10). -/
def countFault (f : FaultBlock) (cls code : Nat) : FaultBlock :=
  match cls with
  | 1 => { f with corrected := bump f.corrected 1 }
  | 2 => { f with command := bump f.command 1 }
  | 3 => { f with core := bump f.core 1 }
  | 4 => if code = 0x0602 ∨ code = 0x0603 then { f with object := bump f.object 1 } else { f with unit := bump f.unit 1 }
  | 5 => { f with partition := bump f.partition 1 }
  | 6 => { f with module := bump f.module 1 }
  | _ => f

/-- The last 1,024 entries of a log (R463). -/
def trimLog (l : List LogEntry) : List LogEntry := l.drop (l.length - 1024)

/-- An entry of the error log (R460, R463, R508). `die` is 0xFF for the module, `part` 0xFF and `queue` 0xFFFF for none. (DESIGN CHOICE, log entry 9) -/
def logError (s : State) (cls die code part queue status addr detail : Nat) : State :=
  let e : LogEntry :=
    { cls := cls, die := die, code := code, number := s.fault.nextEntry, aon := aonNow s, partition := part,
      queue := queue, status := status, step := logStep s part, addr := addr, detail := detail }
  { s with fault :=
      { countFault s.fault cls code with
        log := trimLog (s.fault.log ++ [e]), nextEntry := (s.fault.nextEntry + 1) % 2 ^ 32 } }

/-- The 64 bytes of an entry (Table 16-3). -/
def LogEntry.bytes (e : LogEntry) : List Byte :=
  cp32Bytes (e.cls + e.die * 256 + e.code * 65536) ++ natToBytes 4 e.number ++ natToBytes 4 0
    ++ natToBytes 8 e.aon.toNat ++ natToBytes 1 e.partition ++ natToBytes 1 0 ++ natToBytes 2 e.queue
    ++ natToBytes 2 e.status ++ natToBytes 2 0 ++ natToBytes 8 e.step ++ natToBytes 8 e.addr
    ++ natToBytes 16 e.detail

/-! ### Telemetry rings (R292, R293) -/

/-- Zero bytes. -/
def zeros (n : Nat) : List Byte := List.replicate n 0

/-- Bytes padded with zeros to a multiple of 64. -/
def pad64 (bs : List Byte) : List Byte := bs ++ zeros ((64 - bs.length % 64) % 64)

/-- A telemetry record: header of Table 9-10, then the body, padded to 64 B units. -/
def telemetryBytes (ty seq : Nat) (body : List Byte) : List Byte :=
  let len := (16 + body.length + 63) / 64
  pad64 (cp32Bytes (ty + len * 256 + 1 * 2 ^ 24) ++ natToBytes 8 seq ++ body)

/-- A record written into a ring; a padding record fills the rest of the ring where it does not fit (R292). -/
def ringWrite (s : State) (r : Ring) (ty : Nat) (body : List Byte) : State × Ring :=
  let len := pad64 (zeros 16 ++ body)
  if r.off + len.length ≤ r.size then
    (moduleWrite s (r.base + r.off) (telemetryBytes ty r.seq.toNat body),
     { r with off := (r.off + len.length) % r.size, seq := r.seq + 1 })
  else
    let rest := r.size - r.off
    let s1 := moduleWrite s (r.base + r.off) (cp32Bytes (0x3F + rest / 64 * 256 + 2 ^ 24) ++ natToBytes 8 r.seq.toNat)
    (moduleWrite s1 r.base (telemetryBytes ty (r.seq + 1).toNat body),
     { r with off := len.length % r.size, seq := r.seq + 2 })

/-- A record in the PF0 telemetry ring, where one is set. -/
def telemetryPf0 (s : State) (ty : Nat) (body : List Byte) : State :=
  match s.telemetry with
  | none => s
  | some r => let (s1, r1) := ringWrite s r ty body; { s1 with telemetry := some r1 }

/-- A record in a queue context's telemetry ring, where one is set. -/
def telemetryQueue (s : State) (q ty : Nat) (body : List Byte) : State :=
  match (queueAt s q).bind (·.telemetry) with
  | none => s
  | some r => let (s1, r1) := ringWrite s r ty body; modQueue s1 q (fun x => { x with telemetry := some r1 })

/-! ### The Cupping journal (R471, Tables 16-7 and 16-8) -/

/-- The consumer's head of a journal ring, from its control line. -/
def journalHead (s : State) (j : Journal) : Nat := (cp32At (cohRead s (j.base + 8) 8) 0).getD 0

/-- Free bytes of a journal ring: what head does not yet cover is in use (R473). -/
def journalFree (s : State) (j : Journal) : Nat :=
  j.size - ((j.tail + 2 ^ 32 - journalHead s j) % 2 ^ 32) * 64

/-- A journal record, its CRC-64 included (Table 16-7). (DEDUCED, log entry 60) -/
def journalBytes (ty seq step : Nat) (aon : Word64) (body : List Byte) : List Byte :=
  let len := (0x20 + body.length + 8 + 63) / 64
  let front := cp32Bytes (ty + len * 256) ++ natToBytes 8 seq ++ natToBytes 8 step ++ natToBytes 8 aon.toNat ++ body
  pad64 (front ++ natToBytes 8 (crc64 front))

/-- The partition's journal with one more record; nothing where the journal is off. -/
def journalWrite (s : State) (p ty : Nat) (body : List Byte) : State :=
  match partAt s p with
  | none => s
  | some x =>
    let j := x.journal
    if j.enable = 0 then s
    else
      let ringBytes := j.size - 64
      let off := j.tail * 64 % ringBytes
      let rec0 := journalBytes ty j.seq.toNat (logStep s p) (aonNow s) body
      let (s1, j1) :=
        if off + rec0.length ≤ ringBytes then
          (moduleWrite s (j.base + 64 + off) rec0,
           { j with tail := (j.tail + rec0.length / 64) % 2 ^ 32, seq := j.seq + 1 })
        else
          let rest := ringBytes - off
          let pad := cp32Bytes (0x3F + rest / 64 * 256) ++ natToBytes 8 j.seq.toNat ++ natToBytes 8 (logStep s p) ++ natToBytes 8 (aonNow s).toNat
          let sp := moduleWrite s (j.base + 64 + off) (pad64 (pad ++ natToBytes 8 (crc64 pad)))
          let rec1 := journalBytes ty (j.seq + 1).toNat (logStep s p) (aonNow s) body
          (moduleWrite sp (j.base + 64) rec1,
           { j with tail := (j.tail + rest / 64 + rec1.length / 64) % 2 ^ 32, seq := j.seq + 2 })
      let s2 := moduleWrite s1 j.base (cp32Bytes j1.tail)
      modPart s2 p (fun y => { y with journal := j1 })

/-- An OUTCOME record (Table 16-8). (DEDUCED, log entry 33) -/
def journalOutcome (s : State) (p sub : Nat) (fields : List Byte) : State :=
  journalWrite s p 0x09 (natToBytes 1 sub ++ fields)

/-- The 64 KiB pages of a T1 range marked as written from outside the journaled commands (R472). -/
def markExternal (s : State) (p a n : Nat) : State :=
  if a < 0x20000000000 ∧ n ≠ 0 then
    modPart s p (fun x =>
      if x.journal.enable = 0 then x
      else
        let pages := (List.range ((a + n - 1) / 65536 - a / 65536 + 1)).map (fun i => a / 65536 + i)
        { x with journal := { x.journal with
            marked := x.journal.marked ++ pages.filter (fun g => !x.journal.marked.contains g) } })
  else s

/-- One INPUT record (Table 16-8). -/
def inputRecord (t : State) (p b m : Nat) : State :=
  let bytes := cohRead t b m
  let t1 := journalWrite t p 0x04 (natToBytes 8 b ++ natToBytes 8 m ++ natToBytes 8 (crc64 bytes)
    ++ (if ((partAt t p).map (·.journal.enable)).getD 0 = 2 then bytes else []))
  modPart t1 p (fun y => { y with journal := { y.journal with inputBytes := bump y.journal.inputBytes m } })

/-- INPUT records for the parts of a range that came from outside: marked pages of T1 and every host-tier byte (R472). -/
def journalInput (s : State) (p a n : Nat) : State :=
  match partAt s p with
  | none => s
  | some x =>
    if x.journal.enable = 0 ∨ n = 0 then s
    else
      let one (t : State) (b m : Nat) : State := inputRecord t p b m
      if a < 0x20000000000 then
        let pages := (List.range ((a + n - 1) / 65536 - a / 65536 + 1)).map (fun i => a / 65536 + i)
        let hit := pages.filter (fun g => x.journal.marked.contains g)
        let s1 := hit.foldl (fun t g =>
          let lo := max a (g * 65536)
          let hi := min (a + n) ((g + 1) * 65536)
          one t lo (hi - lo)) s
        modPart s1 p (fun y => { y with journal := { y.journal with marked := y.journal.marked.filter (fun g => !hit.contains g) } })
      else if apertureBase ≤ a ∧ a < apertureBase + 2 ^ 48 then one s a n
      else s

/-! ### Completion records (R377, Table 12-9) -/

/-- Entries of a queue context's rings. -/
def Queue.entries (x : Queue) : Nat := 2 ^ x.log2

/-- The bytes of a completion record. -/
def completionBytes (q pos status result flags seq rccModule rccIndex rccTarget : Nat) : List Byte :=
  cp32Bytes (status % 65536 + (pos % 65536) * 65536) ++ natToBytes 4 result ++ natToBytes 2 q ++ natToBytes 1 flags
    ++ natToBytes 1 0 ++ natToBytes 8 seq ++ natToBytes 2 rccModule ++ natToBytes 1 rccIndex ++ natToBytes 1 0
    ++ natToBytes 4 rccTarget

/-- The completion record of position `pos` and its message; records of host-submitted queues are discarded in removal
quiesce (R392). -/
def writeCompletion (s : State) (q pos status result flags seq rccModule rccIndex rccTarget : Nat) : State :=
  match queueAt s q with
  | none => s
  | some x =>
    if s.life.quiesce ∧ !x.isLocal then s
    else
      let s1 := moduleWrite s (x.cmplRing + (pos % x.entries) * 32)
        (completionBytes q pos status result flags seq rccModule rccIndex rccTarget)
      let s2 := modQueue s1 q (fun y => { y with records := y.records + 1 })
      if x.isLocal then sendMsi s2 (natField x.vector 0 6) 1 (natField x.vector 6 9)
      else if x.vector = 0xFFFF then s2
      else sendMsix s2 x.partition x.vector

/-! ### Commands -/

/-- The command of a queue at a position. -/
def cmdAt (s : State) (q pos : Nat) : Option Cmd := (queueAt s q).bind (fun x => x.cmds.find? (fun c => c.pos == pos))

/-- The state with a command changed. -/
def modCmd (s : State) (q pos : Nat) (f : Cmd → Cmd) : State :=
  modQueue s q (fun x => { x with cmds := x.cmds.map (fun c => if c.pos == pos then f c else c) })

/-- Opcode of a descriptor (Table 13-7). -/
def Cmd.opcode (c : Cmd) : Nat := fieldAt c.desc 0x08 1
/-- Phase tag of a descriptor: 0 untagged, 1 FWD, 2 BWD, 3 REDUCE, 4 EVAL (Table 9-1). -/
def Cmd.phaseTag (c : Cmd) : Nat := natField (fieldAt c.desc 0x09 1) 0 3
/-- The chunk-end flag. -/
def Cmd.chunkEnd (c : Cmd) : Bool := natBit (fieldAt c.desc 0x09 1) 3
/-- The target word. -/
def Cmd.target (c : Cmd) : Nat := fieldAt c.desc 0x0C 4
/-- The aux word. -/
def Cmd.aux (c : Cmd) : Nat := fieldAt c.desc 0x1C 4

/-- ARR cycles that a command's running cores have used since their start (Table 13-8). -/
def runUsage (s : State) (c : Cmd) : Word64 :=
  c.cores.foldl (fun a k =>
    let x := coreAt s k
    if x.run = .running then a + (arrNow s (coreDie k) - x.startCycle) else a) 0

/-- A core whose command is killed: engine empty, DMAs abandoned, WGB operations dropped except during commit
(R112, R150). -/
def killCore (s : State) (k : Nat) : State :=
  modCore s k (fun x =>
    { x with
      run := if x.run = .running then .killed else x.run, wait := .none, dmas := [],
      wgbOps := if x.committing then x.wgbOps else [],
      engine := { x.engine with insts := [], ramp := if x.engine.colsOn = 8 then .steady else x.engine.ramp },
      job := CoreJob.none })

/-- Holds and outstanding reads of a command end with it (R179). -/
def dropHolds (s : State) (q pos : Nat) : State :=
  { s with
    holds := mapFilter s.holds (fun _ h => decide (h.cmd ≠ some { queue := q, pos := pos })),
    hostReads := mapFilter s.hostReads (fun _ h => decide (h.cmd ≠ some { queue := q, pos := pos })) }

/-- The usage of a command added to its queue's registers (R419). The energy is an estimate from counters that the spec does not
give (R420): a free value. -/
def account (s0 : State) (q : Nat) (c : Cmd) (committed : Bool) : State :=
  let (e, s) := drawFree s0 (2 ^ 64)
  modQueue s q (fun x =>
    { x with
      accEngine := x.accEngine + c.engine, accKilled := x.accKilled + c.killed,
      accT1 := bump x.accT1 c.t1, accHost := bump x.accHost c.hostBytes, accPort := bump x.accPort c.portBytes,
      accEnergy := bump x.accEnergy e,
      accCommits := if committed then x.accCommits + 1 else x.accCommits,
      accEnded := if committed then x.accEnded else x.accEnded + 1 })

/-- A command removed from its queue. -/
def removeCmd (s : State) (q pos : Nat) : State :=
  modQueue s q (fun x => { x with cmds := x.cmds.filter (fun c => c.pos != pos) })

/-- The run of a STEP_COMMIT or STEP_RECOVER ends with its command. -/
def dropCommitRun (s : State) (p q pos : Nat) : State :=
  modJob s p (fun j =>
    match j.commit with
    | none => j
    | some r => if r.queue = q ∧ r.pos = pos then { j with commit := none } else j)

/-- The flags byte of a command's record: a hold, a floating-point atomic (Table 12-9). -/
def Cmd.recordFlags (c : Cmd) : Nat := 2 * bitOf c.held + 4 * bitOf c.fpAtomic

/-- A command ends without commit: its cores are killed, its usage is accounted, its record carries the status
(R150, R377, R419). -/
def endCmdWith (s : State) (q pos status result : Nat) : State :=
  match queueAt s q, cmdAt s q pos with
  | some x, some c =>
    let used := runUsage s c
    let s1 := c.cores.foldl killCore s
    let s2 := dropCommitRun (dropHolds s1 q pos) x.partition q pos
    let s3 := account s2 q { c with engine := c.engine + used } false
    writeCompletion (removeCmd s3 q pos) q pos status result c.recordFlags 0 0 0 0
  | _, _ => s

/-- A command ends without commit, result word 0. -/
def endCmd (s : State) (q pos status : Nat) : State := endCmdWith s q pos status 0

/-- The work of a command is over; it waits for its commit. -/
def finishCmd (s : State) (q pos status result : Nat) : State :=
  modCmd s q pos (fun c => { c with phase := .finished, status := status, result := result })

/-- Every command of the queues that satisfy a test, in queue order. -/
def cmdsWhere (s : State) (p : Nat → Queue → Cmd → Bool) : List (Nat × Nat) :=
  s.queues.flatMap (fun e => (e.2.cmds.filter (p e.1 e.2)).map (fun c => (e.1, c.pos)))

/-- Several commands ended with one status. -/
def endCmds (s : State) (l : List (Nat × Nat)) (status : Nat) : State :=
  l.foldl (fun t e => endCmd t e.1 e.2 status) s

/-! ### Translation by the IOMMU (R226, R227, R229) -/

/-- The process-directory entry of a PASID: its first-stage control word, where every level is valid. The layout is that
of the RISC-V IOMMU Architecture Specification, version 1.0, which R226 names. -/
def processContext (s : State) (p pasid : Nat) : Option Nat :=
  match partAt s p with
  | none => none
  | some x =>
    let pdtp := x.server.pdtpActive.toNat
    let root := natField pdtp 0 44 * 4096
    let step (base idx : Nat) : Option Nat :=
      let e := bytesToNat (cohRead s (base + idx * 8) 8)
      if natBit e 0 && ownsT1 s p (base + idx * 8) 8 then some (natField e 10 44 * 4096) else none
    let leaf (base : Nat) : Option Nat :=
      let a := base + natField pasid 0 8 * 16
      if !ownsT1 s p a 16 then none
      else
        let ta := bytesToNat (cohRead s a 8)
        if natBit ta 0 then some (bytesToNat (cohRead s (a + 8) 8)) else none
    match natField pdtp 60 4 with
    | 1 => if natField pasid 8 12 = 0 then leaf root else none
    | 2 => if natField pasid 17 3 = 0 then (step root (natField pasid 8 9)).bind leaf else none
    | 3 => ((step root (natField pasid 17 3)).bind (fun b => step b (natField pasid 8 9))).bind leaf
    | _ => none

/-- One walk of a page table from level `lvl` down: the physical address, where the entry allows the access.
A and D must be set (R226: no hardware update). -/
def walkTable (s : State) (p va : Nat) (write : Bool) : Nat → Nat → Option Nat
  | 0, _ => none
  | lvl + 1, base =>
    let a := base + natField va (12 + 9 * lvl) 9 * 8
    if !ownsT1 s p a 8 then none
    else
      let e := bytesToNat (cohRead s a 8)
      let r := natBit e 1
      let w := natBit e 2
      let x := natBit e 3
      let ppn := natField e 10 44
      if !natBit e 0 || (w && !r) || natField e 54 10 != 0 then none
      else if !r && !x then walkTable s p va write lvl (ppn * 4096)
      else if !natBit e 4 || !natBit e 6 || (if write then !w || !natBit e 7 else !r) then none
      else if natField ppn 0 (9 * lvl) != 0 then none
      else some (ppn * 4096 + natField va 0 (12 + 9 * lvl))

/-- The physical address of a virtual address of a PASID. (PRESUMED, log entry 23) (DEDUCED, log entry 26) -/
def iommuWalk (s : State) (p pasid va : Nat) (write : Bool) : Option Nat :=
  match processContext s p pasid with
  | none => none
  | some fsc =>
    let root := natField fsc 0 44 * 4096
    let canon (bits : Nat) : Bool :=
      let hi := natField va (bits - 1) (64 - bits + 1)
      hi == 0 || hi == 2 ^ (64 - bits + 1) - 1
    match natField fsc 60 4 with
    | 0 => some va
    | 8 => if canon 39 then walkTable s p va write 3 root else none
    | 9 => if canon 48 then walkTable s p va write 4 root else none
    | 10 => if canon 57 then walkTable s p va write 5 root else none
    | _ => none

/-- The pieces, in device physical addresses, of a range that a request of a queue context names: split at 4 KiB pages
where the context has a PASID. None on a translation fault. -/
def pieces (s : State) (p : Nat) (pasid : Option Nat) (write : Bool) : Nat → Nat → Nat → Option (List (Nat × Nat))
  | 0, _, _ => some []
  | fuel + 1, a, n =>
    match pasid with
    | none => some (if n = 0 then [] else [(a, n)])
    | some id =>
      if n = 0 then some []
      else
        let k := min n (4096 - a % 4096)
        match iommuWalk s p id a write with
        | none => none
        | some pa => (pieces s p pasid write fuel (a + k) (n - k)).map (fun l => (pa, k) :: l)

/-- The pieces of a range, with fuel for every page. -/
def rangePieces (s : State) (p : Nat) (pasid : Option Nat) (write : Bool) (a n : Nat) : Option (List (Nat × Nat)) :=
  pieces s p pasid write (n / 4096 + 2) a n

/-- The PASID of a queue context. -/
def queuePasid (s : State) (q : Nat) : Option Nat := (queueAt s q).bind (·.pasid)

/-- The bytes of pieces, in order. -/
def readPieces (s : State) (l : List (Nat × Nat)) : List Byte := l.flatMap (fun e => cohRead s e.1 e.2)

/-- Bytes written over pieces, in order. -/
def writePieces : State → List (Nat × Nat) → List Byte → State
  | s, [], _ => s
  | s, (a, n) :: rest, bs => writePieces (moduleWrite s a (bs.take n)) rest (bs.drop n)

/-- Does any piece touch a poisoned line? -/
def piecesPoisoned (s : State) (l : List (Nat × Nat)) : Bool := l.any (fun e => rangePoisoned s e.1 e.2)

/-- An MSI to a hart and an identity of the partition that no rule gives: free values. (DEDUCED, log entry 51) -/
def msiSomewhere (s : State) (p : Nat) : State :=
  let (h, s1) := drawFree s 64
  let (i, s2) := drawFree s1 511
  let harts := (List.range 64).filter (fun k => hartOwner s k == p)
  match harts[h % max 1 harts.length]? with
  | none => s2
  | some k => sendMsi s2 k 1 (i + 1)

/-- The fault record of the IOMMU: error log 0x0601 and an MSI to the partition's fault identity, which no rule
gives (R229). -/
def iommuFault (s : State) (p q a : Nat) : State :=
  let s1 := logError s 2 0xFF 0x0601 p q stAddressFault a 0
  msiSomewhere s1 p

end Sys2Proof.Machine
end

