-- ==== Sys2Proof/Machine/CoreOps.lean ====
section
/-! DEFINITION. What every core instruction shares: register views, fetch, stops, scratch access checks, the geometry of engine instructions and the interlocks (R117, R118, R148). -/

namespace Sys2Proof.Machine

/-- x[r]; x0 reads zero. -/
def getX (c : Core) (r : BitVec 5) : Word32 := if r = 0 then 0 else c.regs.x.get r.toFin

/-- x[r] := v; a write of x0 is discarded. -/
def setX (c : Core) (r : BitVec 5) (v : Word32) : Core :=
  if r = 0 then c else { c with regs := { c.regs with x := c.regs.x.set r.toNat v r.isLt } }

/-- v[r], the 2,048-bit image (R128). -/
def getV (c : Core) (r : BitVec 5) : BitVec 2048 := c.regs.v.get r.toFin

/-- v[r] := image. -/
def setV (c : Core) (r : BitVec 5) (v : BitVec 2048) : Core :=
  { c with regs := { c.regs with v := c.regs.v.set r.toNat v r.isLt } }

/-- C[r]. -/
def getC (c : Core) (r : BitVec 2) : Word64 := c.regs.c.get r.toFin

/-- C[r] := bits. -/
def setC (c : Core) (r : BitVec 2) (v : Word64) : Core :=
  { c with regs := { c.regs with c := c.regs.c.set r.toNat v r.isLt } }

/-- VL set (R128). -/
def setVl (c : Core) (n : Nat) : Core := { c with regs := { c.regs with vl := n } }

/-! ### Geometry of an engine instruction (Tables 3-2, 4-4, R155, R507) -/

/-- Reduction extent k of a shape. -/
def shapeK (sh : Nat) : Nat := match sh with | 0 => 64 | 1 => 32 | 2 => 128 | 3 => 256 | 4 => 64 | _ => 16
/-- Outputs n of a shape. -/
def shapeN (sh : Nat) : Nat := match sh with | 0 => 64 | 1 => 128 | 2 => 32 | 3 => 16 | 4 => 32 | _ => 64
/-- Streamed elements per row. -/
def shapeStr (sh : Nat) : Nat := match sh with | 0 => 64 | 1 => 32 | 2 => 128 | 3 => 256 | _ => 64
/-- Alignment groups per output. -/
def shapeGroups (sh : Nat) : Nat := match sh with | 0 => 2 | 1 => 1 | 2 => 4 | 3 => 8 | 4 => 2 | _ => 1
/-- Scale bytes per streamed row (R507). -/
def shapeStrScales (sh : Nat) : Nat := match sh with | 0 => 2 | 1 => 1 | 2 => 4 | 3 => 8 | 4 => 2 | _ => 4

/-- Bytes of one stored tile row. -/
def tileRowBytes (sh : Nat) (t : Bool) (w : Nat) : Nat :=
  packedBytes w (if sh = 5 then 16 else if t then shapeK sh else shapeN sh)

/-- Stored rows of a tile; MM.G stores four blocks of 16. -/
def tileRows (sh : Nat) (t : Bool) : Nat := if sh = 5 then 64 else if t then shapeN sh else shapeK sh

/-- Bytes of a tile (R155). -/
def tileBytes (sh : Nat) (t : Bool) (w : Nat) : Nat := tileRows sh t * tileRowBytes sh t w

/-- A byte range. -/
abbrev Rng := Nat × Nat

/-- Do two ranges overlap? -/
def overlap (a b : Rng) : Bool := decide (a.1 < b.1 + b.2 ∧ b.1 < a.1 + a.2 ∧ 0 < a.2 ∧ 0 < b.2)

/-- The bounding range of strided rows. -/
def rowsRange (addr stride rows bytes : Nat) : Rng := (addr, (rows - 1) * stride + bytes)

/-- The offset that means "none". -/
def noAddr : Nat := 0xFFFFFFFF

/-- Scratch ranges that an engine instruction reads (R148). -/
def EngInst.readRanges (e : EngInst) : List Rng :=
  let d := e.desc
  let n := shapeN e.shape
  [(d.staAddr, tileBytes e.shape e.transposed (codeBits d.fmtSta)),
   rowsRange d.strAddr d.strStride e.rows (packedBytes (codeBits d.fmtStr) (shapeStr e.shape))]
  ++ (if codeIsMx d.fmtSta then [(d.staScale, n * shapeGroups e.shape)] else [])
  ++ (if codeIsMx d.fmtStr then [rowsRange d.strScale d.strScaleStride e.rows (shapeStrScales e.shape)] else [])
  ++ (if d.accAddr = noAddr then [] else [rowsRange d.accAddr d.accStride e.rows (4 * n)])
  ++ (match d.drain with
      | 1 => [(d.vecAddr, 8 * n)]
      | 2 => [(d.vecAddr, 4 * n)]
             ++ (if d.auxAddr = noAddr then [] else [rowsRange d.auxAddr d.auxStride e.rows (packedBytes (codeBits d.fmtAux) n)])
      | 4 => [(d.vecAddr, 8 * n)]
      | _ => [])

/-- Scratch ranges that an engine instruction writes. -/
def EngInst.writeRanges (e : EngInst) : List Rng :=
  let d := e.desc
  let n := shapeN e.shape
  [rowsRange d.outAddr d.outStride e.rows (packedBytes (codeBits d.fmtOut) n)]
  ++ (if codeIsMx d.fmtOut then [rowsRange d.outScale d.outScaleStride e.rows (n / 32)] else [])
  ++ (if d.drain = 1 ∧ d.auxAddr ≠ noAddr then [rowsRange d.auxAddr d.auxStride e.rows (packedBytes (codeBits d.fmtAux) n)] else [])

/-- The part of a device range that lies in the core's own scratch, as scratch offsets. -/
def ownScratch (core : Nat) (r : Rng) : Rng :=
  let base := coreAddr core 0
  let lo := max r.1 base
  let hi := min (r.1 + r.2) (base + 0x30000)
  if lo < hi then (lo - base, hi - lo) else (0, 0)

/-- The bounding range of a DMA's source. -/
def Dma.srcRange (d : Dma) : Rng := if d.fill then (0, 0) else rowsRange d.src d.srcStride d.rows d.rowBytes
/-- The bounding range of a DMA's destination. -/
def Dma.dstRange (d : Dma) : Rng := rowsRange d.dst d.dstStride d.rows d.rowBytes

/-- The first physical address of a device range that a core's command names, for the interlocks. -/
def corePhys (s : State) (c : Core) (r : Rng) (write : Bool) : Rng :=
  match queuePasid s c.job.queue with
  | none => r
  | some id => match iommuWalk s c.job.partition id r.1 write with
    | none => r
    | some pa => (pa, r.2)

/-- Own-scratch destination ranges of the core's incomplete DMAs. -/
def dmaDstRanges (s : State) (k : Nat) : List Rng :=
  let c := coreAt s k
  (c.dmas.filter (fun d => !d.moved)).map (fun d => ownScratch k (corePhys s c d.dstRange true))

/-- Own-scratch source ranges of the core's incomplete DMAs. -/
def dmaSrcRanges (s : State) (k : Nat) : List Rng :=
  let c := coreAt s k
  (c.dmas.filter (fun d => !d.moved)).map (fun d => ownScratch k (corePhys s c d.srcRange false))

/-- Write ranges of the core's incomplete engine instructions. -/
def engWrites (s : State) (k : Nat) : List Rng := (coreAt s k).engine.insts.flatMap EngInst.writeRanges
/-- Read ranges of the core's incomplete engine instructions. -/
def engReads (s : State) (k : Nat) : List Rng := (coreAt s k).engine.insts.flatMap EngInst.readRanges

/-- A load of these scratch ranges waits (R148). -/
def loadHeld (s : State) (k : Nat) (rs : List Rng) : Bool :=
  rs.any (fun r => (engWrites s k).any (overlap r) || (dmaDstRanges s k).any (overlap r))

/-- A store to these scratch ranges waits (R148). -/
def storeHeld (s : State) (k : Nat) (rs : List Rng) : Bool :=
  loadHeld s k rs || rs.any (fun r => (engReads s k).any (overlap r) || (dmaSrcRanges s k).any (overlap r))

/-! ### Scratch access (R117, R118, R127) -/

/-- Does [off, off + n) lie in the context's share? -/
def inShare (c : Core) (off n : Nat) : Bool :=
  decide (c.job.shareBase ≤ off ∧ off + n ≤ c.job.shareBase + c.job.shareSize)

/-- The source blocks of recorded folds and spills (R127). -/
def wgbSources (c : Core) : List Rng :=
  c.wgbOps.filterMap (fun o => match o with
    | .fold src _ => some (src, 0x4000)
    | .spill src _ => some (src, 0x4000)
    | _ => none)

/-- The cause that stops a load of `n` bytes at a window offset, if any (Table 4-17). (DEDUCED, log entry 16) -/
def loadFault (c : Core) (off n : Nat) : Option Nat :=
  if off % n ≠ 0 then some 4
  else if inShare c off n || decide (0x30000 ≤ off ∧ off + n ≤ 0x40000) then none
  else some 5

/-- The cause that stops a store of `n` bytes at a window offset, if any. (DEDUCED, log entry 16) -/
def storeFault (c : Core) (off n : Nat) : Option Nat :=
  if off % n ≠ 0 then some 4
  else if 0x30000 ≤ off ∧ off < 0x40000 then some 2
  else if !inShare c off n then some 5
  else if overlap (off, n) (c.job.textBase, c.job.textSize) then some 5
  else if (wgbSources c).any (overlap (off, n)) then some 2
  else none

/-- `n` bytes of the core's window from an offset, as a number. -/
def windowRead (s : State) (k off n : Nat) : Nat := bytesToNat (memBytes s.mem (coreAddr k off) n)

/-- `n` bytes written into the core's window. -/
def windowWrite (s : State) (k off n v : Nat) : State :=
  { s with mem := memPutBytes s.mem (coreAddr k off) (natToBytes n v) }

/-! ### Issue -/

/-- What an instruction does at issue: it retires and execution goes on at `pc`; it stops the program; it is held. -/
inductive Issue where
  | retire (s : State) (pc : Word32)
  | stop (cause addr : Nat)
  | hold

/-- What instruction fetch finds at a core's pc (R117, R118): the word and its length, or the fetch offset that lies
outside the text range. (DEDUCED, log entry 15) -/
def fetch (s : State) (k : Nat) : Except Nat (Word32 × Nat) :=
  let c := coreAt s k
  let pc := c.regs.pc.toNat
  let inText (o : Nat) : Bool := decide (c.job.textBase ≤ o ∧ o + 2 ≤ c.job.textBase + c.job.textSize)
  if !inText pc then .error pc
  else
    let p0 := windowRead s k pc 2
    if p0 % 4 ≠ 3 then .ok (BitVec.ofNat 32 p0, 2)
    else if !inText (pc + 2) then .error (pc + 2)
    else .ok (BitVec.ofNat 32 (windowRead s k pc 4), 4)

/-- The status that a stop cause gives the command (R118). -/
def causeStatus (cause : Nat) : Nat :=
  if cause = 5 ∨ cause = 6 then stAddressFault else if cause = 10 then stDataPoisoned else stInvalid

/-- A core's program stops: the command ends without side effects, its other cores are killed (R118). -/
def stopCore (s : State) (k cause : Nat) (insn : Word32) (addr : Nat) : State :=
  let j := (coreAt s k).job
  let s1 := endCmd s j.queue j.pos (causeStatus cause)
  modCore s1 k (fun c =>
    { c with
      run := .stopped, wait := .none, dmas := [], wgbOps := [],
      engine := { c.engine with insts := [] }, job := CoreJob.none,
      faultCause := cause, faultStatus := causeStatus cause, faultInsn := insn,
      faultAddr := BitVec.ofNat 64 addr })

/-- Does a core's sequencer issue? -/
def canIssue (s : State) (k : Nat) : Bool :=
  let c := coreAt s k
  decide (c.run = .running ∧ c.wait = .none)

/-- An instruction retires. -/
def retire (s : State) (k : Nat) (pc : Word32) : State :=
  modCore s k (fun c =>
    { c with regs := { c.regs with pc := pc }, instret := c.instret + 1, seqInstret := c.seqInstret + 1 })

/-- The state in which an instruction's issue leaves the module. -/
def settle (s : State) (k : Nat) (word : Word32) : Issue → State
  | .retire t pc => retire t k pc
  | .stop cause addr => stopCore s k cause word addr
  | .hold => s

/-- The issue of one instruction: the fetched word must be the one that the command names. `eff` gets the pc of the next
instruction. -/
def issue (s : State) (k : Nat) (word : Word32) (eff : Core → Word32 → Issue) : State :=
  if !canIssue s k then s
  else
    match fetch s k with
    | .error off => stopCore s k 5 0 off
    | .ok (w, len) =>
      if w ≠ word then s
      else settle s k word (eff (coreAt s k) ((coreAt s k).regs.pc + BitVec.ofNat 32 len))

/-- An instruction that only changes registers of its core. -/
def onCore (s : State) (k : Nat) (f : Core → Core) (pc : Word32) : Issue := .retire (modCore s k f) pc

/-! ### Encoding of the extension (R121, Table 4-2) -/

/-- A word of the R format. -/
def rWord (f7 rs2 rs1 f3 rd opc : Nat) : Word32 :=
  BitVec.ofNat 32 (f7 * 2 ^ 25 + rs2 * 2 ^ 20 + rs1 * 2 ^ 15 + f3 * 2 ^ 12 + rd * 2 ^ 7 + opc)

/-- A word of custom-0: matrix, WGB and engine control. -/
def c0Word (f7 rs2 rs1 f3 rd : Nat) : Word32 := rWord f7 rs2 rs1 f3 rd 0x0B
/-- A word of custom-1: vector. -/
def c1Word (f7 rs2 rs1 f3 rd : Nat) : Word32 := rWord f7 rs2 rs1 f3 rd 0x2B
/-- A word of custom-2: data movement, synchronisation, conditions, random numbers. -/
def c2Word (f7 rs2 rs1 f3 rd : Nat) : Word32 := rWord f7 rs2 rs1 f3 rd 0x5B

/-! ### Waits -/

/-- Is a ticket or tag at or before another (R126)? -/
def ticketCovers (t x : Word32) : Bool := decide ((t - x).toNat < 2 ^ 31)

/-- The wait of a core, over once its condition holds (R126, R143). -/
def releaseWait (c : Core) : Core :=
  match c.wait with
  | .tickets t => if c.engine.insts.any (fun e => ticketCovers t e.ticket) then c else { c with wait := .none }
  | .engineEmpty => if c.engine.insts.isEmpty then { c with wait := .none } else c
  | .dmaTag t => if c.dmas.any (fun d => ticketCovers t d.tag) then c else { c with wait := .none }
  | .dmaAll => if c.dmas.isEmpty then { c with wait := .none } else c
  | _ => c

/-- The partition of a core's command runs in Eskor-exact numerics (R74, R402). -/
def eskorExact (s : State) (p : Nat) : Bool := natBit (((partAt s p).map (·.modes)).getD 0) 1

end Sys2Proof.Machine
end

