-- ==== Sys2Proof/Machine/Tiers.lean ====
section
/-! DEFINITION. The host tier: held requests, host reads, migrations of tiered objects, and the commands of chapter "Memory tiers" (R162, R165 to R186). -/

namespace Sys2Proof.Machine

/-- The next free key of a table: one above the last. -/
def nextKey {α : Type} (m : SMap α) : Nat := match m.getLast? with | none => 0 | some e => e.1 + 1

/-- The host link carries traffic. -/
def linkUp (s : State) : Bool := decide (s.link = .l0)

/-! ### Holds (R178 to R182) -/

/-- Is the partition in Eskor compatibility mode? -/
def eskorMode (s : State) (p : Nat) : Bool := ((partAt s p).map (·.tier.eskor)).getD false

/-- Causes that end an Eskor request at once (R181). (DEDUCED, log entry 32) -/
def endsAtOnce (c : StallCause) : Bool :=
  match c with
  | .coldPromote => true
  | .hostTimeout => true
  | .hostError => true
  | .linkDown => true
  | _ => false

/-- A held episode counted (R182). (DEDUCED, log entry 32) -/
def countHold (s : State) (p : Nat) (c : StallCause) : State :=
  modPart s p (fun x =>
    { x with tier := { x.tier with
        stallEvents := x.tier.stallEvents.set! (c.code - 1) (x.tier.stallEvents[c.code - 1]! + 1) } })

/-- A command ends with TIER_ERROR, and the Cupping journal records it (R181, R182, Table 16-8). -/
def endTierError (s : State) (p : Nat) (c : CmdRef) : State :=
  journalOutcome (endCmd s c.queue c.pos stTierError) p 1 (natToBytes 2 c.queue ++ natToBytes 2 c.pos)

/-- A request is held for a cause: one episode for one request and cause; the command is marked; an Eskor request ends
where R181 says so. -/
def holdRequest (s : State) (p : Nat) (cause : StallCause) (cmd : Option CmdRef) (a obj page : Nat) (rd : Option Nat) :
    State :=
  if s.holds.any (fun e => decide (e.2.partition = p ∧ e.2.cause = cause ∧ e.2.cmd = cmd ∧ e.2.addr = a)) then s
  else
    let s1 := countHold s p cause
    match (if eskorMode s p && endsAtOnce cause then cmd else none) with
    | some c => endTierError s1 p c
    | none =>
      let h : Hold :=
        { partition := p, cause := cause, since := aonNow s, notified := false, cmd := cmd, addr := a,
          object := obj, page := page, read := rd }
      let s2 := { s1 with holds := mapSet s1.holds (nextKey s1.holds) h }
      match cmd with
      | none => s2
      | some c => modCmd s2 c.queue c.pos (fun y => { y with held := true })

/-- Holds that satisfy a test are over. -/
def endHolds (s : State) (t : Hold → Bool) : State := { s with holds := mapFilter s.holds (fun _ h => !t h) }

/-- Is an access to a page waiting? -/
def pageWaited (s : State) (p obj page : Nat) : Bool :=
  s.holds.any (fun e => decide (e.2.partition = p ∧ e.2.object = obj ∧ e.2.page = page ∧
    (e.2.cause = .pageInFlight ∨ e.2.cause = .coldPromote ∨ e.2.cause = .poolEmpty ∨ e.2.cause = .migrationFull
      ∨ e.2.cause = .hostTimeout ∨ e.2.cause = .hostError)))

/-- The waits on a page are over (Table 5-7 step 6, Table 5-8 step 7). -/
def releasePage (s : State) (p obj page : Nat) : State :=
  endHolds s (fun h => decide (h.partition = p ∧ h.object = obj ∧ h.page = page ∧ h.cause ≠ .hostLate ∧ h.cause ≠ .linkDown))

/-! ### Host reads (R178, R363) -/

/-- A host read issued. -/
def issueRead (s : State) (p bus n : Nat) (why : HostReadFor) (a : Nat) (cmd : Option CmdRef) : State :=
  let r : HostRead :=
    { partition := p, bus := bus, bytes := n, purpose := why, addr := a, cmd := cmd, since := aonNow s,
      late := false, failed := false, done := false }
  { s with hostReads := mapSet s.hostReads (nextKey s.hostReads) r }

/-- The outstanding read of a command for an address. -/
def readFor (s : State) (p : Nat) (why : HostReadFor) (cmd : Option CmdRef) (a n : Nat) : Option (Nat × HostRead) :=
  s.hostReads.find? (fun e => decide (e.2.partition = p ∧ e.2.purpose = why ∧ e.2.cmd = cmd ∧ e.2.addr = a ∧ e.2.bytes = n))

/-! ### Tier map and migrations (R170 to R175) -/

/-- The tiered object of a partition. -/
def tierObject (s : State) (p obj : Nat) : Option TieredObject := (partAt s p).bind (fun x => mapGet x.objects obj)

/-- The state with a tiered object changed. -/
def modObject (s : State) (p obj : Nat) (f : TieredObject → TieredObject) : State :=
  modPart s p (fun x => { x with objects := mapModify x.objects obj f })

/-- The migration of a page in flight. -/
def migAt (s : State) (p obj page : Nat) : Option Migration :=
  (partAt s p).bind (fun x => x.migs.find? (fun m => m.object == obj && m.page == page))

/-- The state with a page's migration changed. -/
def modMig (s : State) (p obj page : Nat) (f : Migration → Migration) : State :=
  modPart s p (fun x => { x with migs := x.migs.map (fun m => if m.object == obj && m.page == page then f m else m) })

/-- The in-flight entry of a page freed. -/
def freeMig (s : State) (p obj page : Nat) : State :=
  modPart s p (fun x => { x with migs := x.migs.filter (fun m => !(m.object == obj && m.page == page)) })

/-- The device address of a page. -/
def pageAddr (o : TieredObject) (page : Nat) : Nat := o.base + page * 65536

/-- The host bus address of a page's backing. -/
def pageBus (s : State) (p : Nat) (o : TieredObject) (page : Nat) : Nat :=
  match (partAt s p).bind (fun x => mapGet x.hostRegs o.backing) with
  | none => 0
  | some r => r.bus + (pageAddr o page - r.base)

/-- The channel that page `page` must lie on under fixed placement; none under placement "any". -/
def wantedChannel (o : TieredObject) (page : Nat) : Option Nat :=
  if o.fixed then o.chans[page % (max o.chans.length 1)]? else none

/-- Does a frame suit a page? -/
def frameSuits (o : TieredObject) (page frame : Nat) : Bool :=
  match wantedChannel o page with
  | none => true
  | some ch => t1Channel (frame * 65536) == ch

/-- Every module-side cached line of a page recalled; dirty lines go to `place`, by byte offset in the page. -/
def recallPage (s : State) (o : TieredObject) (page : Nat) (place : Nat → Place) : State :=
  (lidsOf (pageAddr o page) 65536).foldl (fun t lid =>
    if lineHeld t lid then
      let t1 := match dirtyOwner t lid with
        | none => t
        | some l =>
          let off := lidAddr lid - pageAddr o page
          ((natToBytes 64 l.data.toNat).zipIdx).foldl (fun u e => placePut u (place (off + e.2)) e.1) t
      dropCopies t1 lid
    else t) s

/-- Step 2 of Table 5-7: the frame is taken, the entry is PROMOTING, the recall begins. (DESIGN CHOICE, log entry 30) -/
def promoteInto (s : State) (p obj page frame : Nat) : State :=
  match tierObject s p obj with
  | none => s
  | some o =>
    let gen := match mapEntry s o page with | some (_, _, g) => g | none => 0
    let s1 := modObject s p obj (fun y => { y with free := y.free.filter (· != frame) })
    let s2 := putMapEntry s1 o page frame .promoting gen
    modMig s2 p obj page (fun m => { m with step := 3, frame := frame, retryWait := false })

/-- The victim of a promotion that finds no frame: the earliest promoted T1 page without a waiting access, not held by
pool units, not migrating, on the required channel (R172, R251). (DESIGN CHOICE, log entry 30) -/
def victimOf (s : State) (p obj : Nat) (o : TieredObject) (page : Nat) : Option Nat :=
  o.resident.find? (fun v =>
    !pageWaited s p obj v && !o.pinned.contains v && (migAt s p obj v).isNone &&
    (match mapEntry s o v with
     | some (f, .t1, _) => frameSuits o page f
     | _ => false))

/-- Steps 1 and 2 of Table 5-8: an in-flight entry, then DEMOTING. -/
def beginDemotion (s : State) (p obj page : Nat) (src : MigSource) : State :=
  match tierObject s p obj with
  | none => s
  | some o =>
    match mapEntry s o page with
    | some (f, _, g) =>
      let s1 := putMapEntry s o page f .demoting g
      modPart s1 p (fun x => { x with migs := x.migs ++
        [{ object := obj, page := page, dir := .demote, source := src, step := 3, frame := f, retryWait := false }] })
    | none => s

/-- How a request for a migration was taken. -/
inductive MigAnswer where
  | taken       -- it starts, joins one in flight, waits behind one in the other direction, or has nothing to do
  | full        -- the partition's quota is full
  | empty       -- no free frame and no victim
deriving DecidableEq, Repr

/-- A migration request queued (R174). -/
def queueMig (s : State) (p : Nat) (r : MigRequest) : State :=
  modPart s p (fun x => { x with migQueue := if x.migQueue.contains r then x.migQueue else x.migQueue ++ [r] })

/-- A migration started for a page (R172 to R174); none starts in an object that is being unregistered (R177). (DESIGN CHOICE, log entry 30) -/
def startMigration (s : State) (p obj page : Nat) (dir : MigDir) (src : MigSource) : MigAnswer × State :=
  match partAt s p, tierObject s p obj with
  | some x, some o =>
    match migAt s p obj page with
    | some m => if m.dir = dir then (.taken, s) else (.taken, queueMig s p { object := obj, page := page, dir := dir, source := src })
    | none =>
      if o.closing then (.full, s)
      else
      match mapEntry s o page with
      | none => (.taken, s)
      | some (_, st, _) =>
        match dir with
        | .promote =>
          if st ≠ .t2 then (.taken, s)
          else if x.migQuota ≤ x.migs.length then (.full, s)
          else
            let m : Migration := { object := obj, page := page, dir := .promote, source := src, step := 1, frame := 0, retryWait := false }
            match o.free.find? (frameSuits o page) with
            | some f =>
              (.taken, promoteInto (modPart s p (fun y => { y with migs := y.migs ++ [m] })) p obj page f)
            | none =>
              match victimOf s p obj o page with
              | none => (.empty, s)
              | some v =>
                if x.migQuota ≤ x.migs.length + 1 then (.full, s)
                else (.taken, beginDemotion (modPart s p (fun y => { y with migs := y.migs ++ [m] })) p obj v src)
        | .demote =>
          if st ≠ .t1 then (.taken, s)
          else if o.pinned.contains page then (.taken, queueMig s p { object := obj, page := page, dir := dir, source := src })
          else if x.migQuota ≤ x.migs.length then (.full, s)
          else (.taken, beginDemotion s p obj page src)
  | _, _ => (.taken, s)

/-- Promotions of an object that wait in step 1 take the frames that suit them. -/
def giveFrames (s : State) (p obj : Nat) : State :=
  match partAt s p with
  | none => s
  | some x =>
    (x.migs.filter (fun m => m.object == obj && m.dir == .promote && m.step == 1 && !m.retryWait)).foldl (fun t m =>
      match tierObject t p obj with
      | none => t
      | some o => match o.free.find? (frameSuits o m.page) with
        | none => t
        | some f => promoteInto t p obj m.page f) s

/-- Queued requests start, in order, as far as they can (R174). -/
def startQueued (s : State) (p : Nat) : State :=
  match partAt s p with
  | none => s
  | some x =>
    x.migQueue.foldl (fun t r =>
      match startMigration t p r.object r.page r.dir r.source with
      | (.taken, u) => u
      | (_, u) => queueMig u p r) (modPart s p (fun y => { y with migQueue := [] }))

/-- An explicit page request dropped and counted (R174). -/
def dropRequests (s : State) (p n : Nat) : State :=
  modPart s p (fun x => { x with tier := { x.tier with reqDropped := bump x.tier.reqDropped n } })

/-- The pages of an explicit request that lie in its object. -/
def requestPages (s : State) (p obj first count : Nat) : List Nat :=
  match tierObject s p obj with
  | none => []
  | some o => (List.range (min count (o.pages - first))).map (fun i => first + i)

/-- An explicit request: each page is a migration of its own; those that find the quota full, or no frame, are dropped
and counted (R174, R186). -/
def explicitRequest (s : State) (p obj first count : Nat) (dir : MigDir) : State :=
  (requestPages s p obj first count).foldl (fun t g =>
    match startMigration t p obj g dir .explicit with
    | (.taken, u) => u
    | (_, u) => dropRequests u p 1) s

/-- A counted access to a T2 page; at the threshold it asks for a promotion, which a full quota drops (R172, R174). -/
def demandAccess (s : State) (p obj page : Nat) : State :=
  match tierObject s p obj with
  | none => s
  | some o =>
    if o.threshold = 0 then s
    else
      let n := mapGetD o.counts page 0 + 1
      let s1 := modObject s p obj (fun y => { y with counts := mapSet y.counts page n })
      if o.threshold ≤ n then (startMigration s1 p obj page .promote .demand).2 else s1

/-- Pages of tiered objects, T2 backing and T1 that a range touches, piece by piece: (address, bytes) within 64 KiB pages. -/
def pagePieces (a n : Nat) : List (Nat × Nat) :=
  if n = 0 then []
  else (List.range ((a + n - 1) / 65536 - a / 65536 + 1)).map (fun i =>
    let lo := max a ((a / 65536 + i) * 65536)
    (lo, min (a + n) ((a / 65536 + i + 1) * 65536) - lo))

/-- Whether a request can proceed in the tiers. -/
inductive TierAnswer where
  | ready (s : State)
  | held (s : State)
  | bad (s : State)    -- unmapped, or a tier map entry that stays invalid (R170)

/-- One piece of a request for the tiers: a page in flight holds it, a T2 page holds an agent that cannot reach T2 and
starts its promotion, a read of host memory waits for its completion (Table 5-6, Table 5-9). -/
def tierPiece (s : State) (p : Nat) (cmd : Option CmdRef) (reachesT2 read : Bool) (a n : Nat) : TierAnswer :=
  match decodeAddr s a with
  | .host _ =>
    match partAt s p with
    | none => .bad s
    | some x =>
      match hostRegAt x a with
      | none => .bad s
      | some _ =>
        let viaHost (t : State) (obj page : Nat) : TierAnswer :=
          if !linkUp t then .held (holdRequest t p .linkDown cmd a obj page none)
          else if !read then .ready t
          else
            match placeOf t a with
            | .host _ bus =>
              match readFor t p .request cmd a n with
              | none => .held (issueRead t p bus n .request a cmd)
              | some (k, r) => if r.done then .ready { t with hostReads := mapErase t.hostReads k } else .held t
            | _ => .ready t
        match objectAt x a with
        | none => viaHost s 0 0
        | some (obj, o) =>
          let page := (a - o.base) / 65536
          match mapEntry s o page with
          | none => .bad (logError s 4 12 0x0602 p (match cmd with | some c => c.queue | none => 0xFFFF) 0 a obj)
          | some (_, .t1, _) => .ready s
          | some (_, .promoting, _) => .held (holdRequest s p .pageInFlight cmd a obj page none)
          | some (_, .demoting, _) => .held (holdRequest s p .pageInFlight cmd a obj page none)
          | some (_, .t2, _) =>
            if reachesT2 then viaHost (demandAccess s p obj page) obj page
            else
              match startMigration s p obj page .promote .cold with
              | (.taken, t) => .held (holdRequest t p .coldPromote cmd a obj page none)
              | (.full, t) => .held (holdRequest t p .migrationFull cmd a obj page none)
              | (.empty, t) => .held (holdRequest t p .poolEmpty cmd a obj page none)
  | _ => .ready s

/-- The pieces of a request, all of which must be able to proceed. A command that ended meanwhile stays ended. -/
def tierPieces (p : Nat) (cmd : Option CmdRef) (reachesT2 read : Bool) : State → Bool → List (Nat × Nat) → TierAnswer
  | s, ok, [] => if ok then .ready s else .held s
  | s, ok, (a, n) :: rest =>
    match tierPiece s p cmd reachesT2 read a n with
    | .ready t => tierPieces p cmd reachesT2 read t ok rest
    | .held t => tierPieces p cmd reachesT2 read t false rest
    | .bad t => .bad t

/-- A request of a command over device ranges: it proceeds, and its holds are over, or it is held, or it meets an unmapped
address. -/
def tierReady (s : State) (p : Nat) (cmd : Option CmdRef) (reachesT2 read : Bool) (l : List (Nat × Nat)) : TierAnswer :=
  match tierPieces p cmd reachesT2 read s true (l.flatMap (fun e => pagePieces e.1 e.2)) with
  | .ready t =>
    .ready (endHolds t (fun h => decide (h.partition = p ∧ h.cmd = cmd) &&
      l.any (fun e => decide (e.1 ≤ h.addr ∧ h.addr < e.1 + e.2))))
  | other => other

/-- The error-log entry of a command that reads a poisoned line (R461, Table 16-2). (DEDUCED, log entry 88) -/
def logPoison (s : State) (p q a : Nat) : State :=
  match t1Line s a with
  | some x => logError s 2 (8 + t1Channel x / 32) 0x0202 p q stDataPoisoned a (t1Channel x)
  | none => logError s 2 12 0x0202 p q stDataPoisoned a 0

/-! ### Resets and ends -/

/-- The tier map entries of a partition as R176 interprets them after a reset. -/
def revertMigrations (s : State) (p : Nat) : State :=
  match partAt s p with
  | none => s
  | some x =>
    let s1 := x.migs.foldl (fun t m =>
      match tierObject t p m.object with
      | none => t
      | some o =>
        match mapEntry t o m.page with
        | some (f, .promoting, g) =>
          modObject (putMapEntry t o m.page 0 .t2 g) p m.object (fun y => { y with free := y.free ++ [f] })
        | some (f, .demoting, g) => putMapEntry t o m.page f .t1 g
        | _ => t) s
    modPart s1 p (fun y => { y with migs := [], migQueue := [] })

/-! ### Commands -/

/-- HOST_TIER_READ_COMPLETE (R178, R179, R181, R175): result 0 brings the data; 1 is a completion timeout; 2, 3 and 4 are
Unsupported Request, Completer Abort and poisoned data. -/
def execHostTierReadComplete (req : Nat) (result : BitVec 3) (bytes : List Byte) (s : State) : Out :=
  match mapGet s.hostReads req with
  | none => .next s
  | some r =>
    if r.done ∨ r.failed ∨ 4 < result.toNat ∨ (match r.purpose with | .descriptor _ _ => true | _ => false) = true then .next s
    else if result = 0 then
      if bytes.length ≠ r.bytes then .next s
      else
        let s1 := { s with hostMem := hostPutBytes s.hostMem (hostKey r.partition r.bus) bytes,
                           hostReads := mapSet s.hostReads req { r with done := true } }
        .next (endHolds s1 (fun h => decide (h.read = some req)))
    else
      let cause : StallCause := if result = 1 then .hostTimeout else .hostError
      let s1 := { s with hostReads := mapSet s.hostReads req { r with failed := true } }
      let s2 := endHolds s1 (fun h => decide (h.read = some req ∧ h.cause = .hostLate))
      match r.purpose with
      | .migration =>
        match (partAt s2 r.partition).bind (fun x => objectAt x r.addr) with
        | none => .next { s2 with hostReads := mapErase s2.hostReads req }
        | some (obj, o) =>
          let page := (r.addr - o.base) / 65536
          let waiters := (s2.holds.filter (fun e => decide (e.2.partition = r.partition ∧ e.2.object = obj ∧ e.2.page = page
            ∧ e.2.cause = .pageInFlight))).map (fun e => e.2)
          let s3 := { s2 with hostReads := mapErase s2.hostReads req }
          let s4 :=
            match mapEntry s3 o page with
            | some (f, .promoting, g) =>
              modMig (modObject (putMapEntry s3 o page 0 .t2 g) r.partition obj (fun y => { y with free := y.free ++ [f] }))
                r.partition obj page (fun m => { m with step := 1, retryWait := true })
            | some (f, .demoting, g) =>
              modMig (putMapEntry s3 o page f .t1 g) r.partition obj page (fun m => { m with step := 1, retryWait := true })
            | _ => s3
          .next (if waiters.isEmpty then countHold s4 r.partition cause
                 else waiters.foldl (fun t h => holdRequest t r.partition cause h.cmd h.addr obj page none) s4)
      | _ => .next (holdRequest s2 r.partition cause r.cmd r.addr 0 0 (some req))

/-- HOST_READ_REISSUE (R179). -/
def execHostReadReissue (req : Nat) (s : State) : Out :=
  match mapGet s.hostReads req with
  | none => .next s
  | some r =>
    if r.failed && linkUp s then
      .next { s with hostReads := mapSet s.hostReads req { r with failed := false, late := false, since := aonNow s } }
    else .next s

/-- HOST_LATE_THRESHOLD (Table 5-9): outstanding for more than TIER_LATE_AON. -/
def execHostLateThreshold (req : Nat) (s : State) : Out :=
  match mapGet s.hostReads req with
  | none => .next s
  | some r =>
    let late := ((partAt s r.partition).map (·.tier.late)).getD 500
    if !r.late && !r.done && !r.failed && decide (late < aonSince s r.since) then
      let s1 := { s with hostReads := mapSet s.hostReads req { r with late := true } }
      .next (holdRequest s1 r.partition .hostLate r.cmd r.addr 0 0 (some req))
    else .next s

/-- The body of a tier-stall notice (Table 9-16). -/
def stallNotice (s : State) (h : Hold) (limit : Nat) : List Byte :=
  natToBytes 1 h.partition ++ natToBytes 1 h.cause.code
    ++ natToBytes 2 (match h.cmd with | some c => c.queue | none => 0) ++ natToBytes 4 0
    ++ natToBytes 8 h.addr ++ natToBytes 8 (aonNow s).toNat ++ natToBytes 8 (limit + 1) ++ zeros 16

/-- TIER_STALL_NOTIFY (R179, R298): once in an episode, held for more than TIER_LIMIT_AON. (DEDUCED, log entry 32) -/
def execTierStallNotify (hold : Nat) (s : State) : Out :=
  match mapGet s.holds hold with
  | none => .next s
  | some h =>
    let limit := ((partAt s h.partition).map (·.tier.limit)).getD 2500000
    if !h.notified && decide (limit < aonSince s h.since) then
      let s1 := { s with holds := mapSet s.holds hold { h with notified := true } }
      let s2 := telemetryPf0 s1 0x03 (stallNotice s h limit)
      .next (match h.cmd with
        | none => s2
        | some c => telemetryQueue s2 c.queue 0x03 (stallNotice s h limit))
    else .next s

/-- ESKOR_DEADLINE_EXPIRE (R181): held for more than TIER_DEADLINE_AON in Eskor compatibility mode. -/
def execEskorDeadlineExpire (hold : Nat) (s : State) : Out :=
  match mapGet s.holds hold with
  | none => .next s
  | some h =>
    let deadline := ((partAt s h.partition).map (·.tier.deadline)).getD 25000
    if eskorMode s h.partition && decide (deadline < aonSince s h.since) then
      match h.cmd with
      | some c => .next (endTierError s h.partition c)
      | none => .next (endHolds s (fun g => decide (g = h)))
    else .next s

/-- TIER_REQ_PROMOTE (R186, Table 5-11 dir 1). -/
def execTierReqPromote (p : BitVec 4) (object : BitVec 10) (first : BitVec 28) (count : BitVec 16) (s : State) : Out :=
  .next (explicitRequest s p.toNat object.toNat first.toNat count.toNat .promote)

/-- TIER_REQ_DEMOTE (R186, Table 5-11 dir 2; a page that pool units hold waits, R251). -/
def execTierReqDemote (p : BitVec 4) (object : BitVec 10) (first : BitVec 28) (count : BitVec 16) (s : State) : Out :=
  .next (explicitRequest s p.toNat object.toNat first.toNat count.toNat .demote)

/-- TIER_REQ_DROPPED (R186): dir 0 or 3 is dropped, and its page requests are counted. (DEDUCED, log entry 31) -/
def execTierReqDropped (p : BitVec 4) (dir : BitVec 2) (object : BitVec 10) (first : BitVec 28) (count : BitVec 16)
    (s : State) : Out :=
  if dir = 0 ∨ dir = 3 then
    .next (dropRequests s p.toNat (requestPages s p.toNat object.toNat first.toNat count.toNat).length)
  else .next s

/-- PROMOTION_START (R172, R174): source 0 demand, 1 cold access, 2 and 3 explicit. It starts where its source asks for it:
the count has reached the threshold, an access waits for the page, a request is queued. -/
def execPromotionStart (p : BitVec 4) (object : BitVec 10) (page : BitVec 28) (source : BitVec 2) (s : State) : Out :=
  let pn := p.toNat
  let obj := object.toNat
  let pg := page.toNat
  match partAt s pn, tierObject s pn obj with
  | some x, some o =>
    if source = 0 then
      if o.threshold ≠ 0 ∧ o.threshold ≤ mapGetD o.counts pg 0 then .next (startMigration s pn obj pg .promote .demand).2
      else .next s
    else if source = 1 then
      if pageWaited s pn obj pg then
        let waiting := (s.holds.filter (fun e => decide (e.2.partition = pn ∧ e.2.object = obj ∧ e.2.page = pg
          ∧ (e.2.cause = .poolEmpty ∨ e.2.cause = .migrationFull)))).map (fun e => e.2)
        match startMigration s pn obj pg .promote .cold with
        | (.taken, t) =>
          let t1 := endHolds t (fun h => waiting.contains h)
          .next (waiting.foldl (fun u h => holdRequest u pn .coldPromote h.cmd h.addr obj pg none) t1)
        | (_, t) => .next t
      else .next s
    else
      let r := x.migQueue.find? (fun m => m.object == obj && m.page == pg && m.dir == .promote)
      match r with
      | none => .next s
      | some q =>
        let s1 := modPart s pn (fun y => { y with migQueue := y.migQueue.filter (· != q) })
        match startMigration s1 pn obj pg .promote q.source with
        | (.taken, t) => .next t
        | (_, t) => .next (queueMig t pn q)
  | _, _ => .next s

/-- PROMOTION_STEP_DONE (Table 5-7): step 3 ends with the recall, step 4 with the data of the host read. -/
def execPromotionStepDone (p : BitVec 4) (object : BitVec 10) (page : BitVec 28) (s : State) : Out :=
  let pn := p.toNat
  let obj := object.toNat
  let pg := page.toNat
  match tierObject s pn obj, migAt s pn obj pg with
  | some o, some m =>
    if m.dir ≠ .promote ∨ m.retryWait ∨ !linkUp s then .next s
    else if m.step = 3 then
      let bus := pageBus s pn o pg
      let s1 := recallPage s o pg (fun off => .host pn (bus + off))
      let s2 := issueRead s1 pn bus 65536 .migration (pageAddr o pg) none
      .next (modMig s2 pn obj pg (fun y => { y with step := 4 }))
    else if m.step = 4 then
      match readFor s pn .migration none (pageAddr o pg) 65536 with
      | some (k, r) =>
        if !r.done then .next s
        else
          let gen := match mapEntry s o pg with | some (_, _, g) => g | none => 0
          let s1 := { s with hostReads := mapErase s.hostReads k,
                             mem := memPutBytes s.mem (m.frame * 65536) (hostBytes s pn (pageBus s pn o pg) 65536) }
          let s2 := clearPoison s1 (m.frame * 65536) 65536
          let s3 := putMapEntry s2 o pg m.frame .t1 (gen + 1)
          let s4 := modObject s3 pn obj (fun y =>
            { y with resident := y.resident ++ [pg], counts := mapErase y.counts pg })
          let s5 := modPart s4 pn (fun x => { x with tier := { x.tier with promoted := x.tier.promoted + 1 } })
          .next (startQueued (freeMig (releasePage s5 pn obj pg) pn obj pg) pn)
      | none => .next s
    else .next s
  | _, _ => .next s

/-- DEMOTION_STEP_DONE (Table 5-8): step 3 ends with the recall, step 4 with the write, step 5 with the read-back. -/
def execDemotionStepDone (p : BitVec 4) (object : BitVec 10) (page : BitVec 28) (s : State) : Out :=
  let pn := p.toNat
  let obj := object.toNat
  let pg := page.toNat
  match tierObject s pn obj, migAt s pn obj pg with
  | some o, some m =>
    if m.dir ≠ .demote ∨ m.retryWait ∨ !linkUp s then .next s
    else if m.step = 3 then
      .next (modMig (recallPage s o pg (fun off => .t1 (m.frame * 65536 + off))) pn obj pg (fun y => { y with step := 4 }))
    else if m.step = 4 then
      let bus := pageBus s pn o pg
      let s1 := hostWrite s pn bus (memBytes s.mem (m.frame * 65536) 65536)
      let s2 := issueRead s1 pn (bus + 65472) 64 .migration (pageAddr o pg + 65472) none
      .next (modMig s2 pn obj pg (fun y => { y with step := 5 }))
    else if m.step = 5 then
      match readFor s pn .migration none (pageAddr o pg + 65472) 64 with
      | some (k, r) =>
        if !r.done then .next s
        else
          let gen := match mapEntry s o pg with | some (_, _, g) => g | none => 0
          let s1 := putMapEntry { s with hostReads := mapErase s.hostReads k } o pg 0 .t2 (gen + 1)
          let s2 := modObject s1 pn obj (fun y =>
            { y with resident := y.resident.filter (· != pg), free := y.free ++ [m.frame] })
          let s3 := modPart s2 pn (fun x => { x with tier := { x.tier with demoted := x.tier.demoted + 1 } })
          let s4 := freeMig (releasePage s3 pn obj pg) pn obj pg
          .next (startQueued (giveFrames s4 pn obj) pn)
      | none => .next s
    else .next s
  | _, _ => .next s

/-- MIGRATION_RETRY_TIMER (R175): a failed promotion is retried while an access waits; a failed demotion is retried. -/
def execMigrationRetryTimer (p : BitVec 4) (object : BitVec 10) (page : BitVec 28) (s : State) : Out :=
  let pn := p.toNat
  let obj := object.toNat
  let pg := page.toNat
  match migAt s pn obj pg with
  | none => .next s
  | some m =>
    if !m.retryWait then .next s
    else
      let s1 := freeMig s pn obj pg
      match m.dir with
      | .promote =>
        if pageWaited s pn obj pg then .next (startMigration s1 pn obj pg .promote m.source).2
        else .next (startQueued s1 pn)
      | .demote => .next (startMigration s1 pn obj pg .demote m.source).2

/-- PATROL_SCRUB (R162): outcome 0 a clean line, 1 a corrected error, 2 an uncorrectable error, 3 the end of a pass.
Corrected errors are logged once per 2^16 counts (R460); an uncorrectable line is poisoned (R461). (DEDUCED, log entry 88) -/
def execPatrolScrub (addr : BitVec 56) (outcome : BitVec 2) (s : State) : Out :=
  let a := addr.toNat
  if usableBytes s ≤ a then .next s
  else
    let ch := t1Channel a
    let die := 8 + ch / 32
    let own := channelOwner s ch
    if outcome = 1 then
      let s1 := modChannel s ch (fun c => { c with eccCorr := c.eccCorr + 1 })
      let n : Nat := ((s1.channels[ch]?).map (fun c => c.eccCorr.toNat)).getD 0
      .next (if n % 65536 = 0 then logError s1 1 die 0x0201 own 0xFFFF 0 (a / 64 * 64) ch else s1)
    else if outcome = 2 then
      let s1 := modChannel s ch (fun c => { c with eccUncorr := c.eccUncorr + 1 })
      .next (logError (poisonLine s1 a) 2 die 0x0202 own 0xFFFF 0 (a / 64 * 64) ch)
    else if outcome = 3 then
      .next (modChannel s ch (fun c => { c with scrubPasses := c.scrubPasses + 1 }))
    else .next s

end Sys2Proof.Machine
end

