-- ==== Sys2Proof/Machine/CoreMove.lean ====
section
/-! DEFINITION. Data movement, barriers and the end of core programs: lx.dma, lx.dwait, lx.dfence, lx.bar.c, lx.bar.d, lx.end and the events that complete them (R119, R141 to R145). -/

namespace Sys2Proof.Machine

/-- The T1 and host bytes of an access to a device range counted: on its channels (Table 5-3) and for its command
(Table 13-8). (DEDUCED, log entry 50) -/
def chargeRange (s : State) (q pos a n : Nat) (write : Bool) : State :=
  (pagePieces a n).foldl (fun t e =>
    match placeOf t e.1 with
    | .t1 x => modCmd (countChannel t x e.2 write) q pos (fun c => { c with t1 := c.t1 + e.2 })
    | .host _ _ => modCmd t q pos (fun c => { c with hostBytes := c.hostBytes + e.2 })
    | _ => t) s

/-- Several pieces charged. -/
def chargePieces (s : State) (q pos : Nat) (l : List (Nat × Nat)) (write : Bool) : State :=
  l.foldl (fun t e => chargeRange t q pos e.1 e.2 write) s

/-- Is the buffer one that the command may write (R142, R406)? -/
def Buf.writable (b : Buf) : Bool := match b.kind with | .input => false | _ => true

/-- May a DMA of a core's command write a range: a declared buffer, by the address the program uses, or the context's own
share, by its physical pieces (R142)? (DEDUCED, log entry 29) -/
def dmaMayWrite (s : State) (c : Core) (a n : Nat) (l : List (Nat × Nat)) : Bool :=
  (((cmdAt s c.job.queue c.job.pos).map (·.bufs)).getD []).any
    (fun b => b.writable && decide (b.addr ≤ a ∧ a + n ≤ b.addr + b.bytes))
  || l.all (fun e => match decodeAddr s e.1 with
      | .scratch k o => coreOwner s k == c.job.partition && inShare c o e.2
      | _ => false)

/-- The fields of a DMA descriptor (Table 4-13). -/
def dmaOfBytes (tag insn : Word32) (b : List Byte) : Dma :=
  { tag := tag, insn := insn, src := fieldAt b 0 8, dst := fieldAt b 8 8, rowBytes := fieldAt b 0x10 4,
    rows := fieldAt b 0x14 4, srcStride := fieldAt b 0x18 8, dstStride := fieldAt b 0x20 8,
    fill := fieldAt b 0x28 1 == 1, pattern := BitVec.ofNat 64 (fieldAt b 0x30 8), moved := false }

/-- The byte ranges of the rows of a strided block. -/
def rowRanges (addr stride rows bytes : Nat) : List Rng := (List.range rows).map (fun i => (addr + i * stride, bytes))

/-- Do the source and destination byte ranges of a copy overlap (R142)? (DEDUCED, log entry 29) -/
def dmaOverlaps (d : Dma) : Bool :=
  !d.fill && overlap d.srcRange d.dstRange &&
    (rowRanges d.src d.srcStride d.rows d.rowBytes).any (fun x =>
      (rowRanges d.dst d.dstStride d.rows d.rowBytes).any (overlap x))

/-- Is a DMA descriptor valid (R142, Table 4-13)? -/
def dmaValid (b : List Byte) (d : Dma) : Bool :=
  (d.fill || decide (d.src < 2 ^ 56)) && decide (d.dst < 2 ^ 56) && decide (1 ≤ d.rowBytes ∧ d.rowBytes ≤ 1048576)
    && decide (1 ≤ d.rows ∧ d.rows ≤ 65536) && decide (fieldAt b 0x28 1 < 2) && zeroAt b 0x29 7 && zeroAt b 0x38 8
    && !dmaOverlaps d

/-- Does the issue of a DMA wait for an interlock (R148)? -/
def dmaHeld (s : State) (k : Nat) (d : Dma) : Bool :=
  let c := coreAt s k
  let w := ownScratch k (corePhys s c d.dstRange true)
  let r := ownScratch k (corePhys s c d.srcRange false)
  storeHeld s k [w] || loadHeld s k [r]

/-- LX_DMA (R141, R142): the descriptor is read and checked at issue; the 17th DMA waits. (DEDUCED, log entry 29) -/
def execLxDma (core : CoreId) (rd rs1 : BitVec 5) (s : State) : Out :=
  let k := core.toNat
  let word := c2Word 0 0 rs1.toNat 0 rd.toNat
  .next (issue s k word (fun c next =>
    let a := (getX c rs1).toNat
    if a % 64 ≠ 0 then .stop 7 a
    else if !inShare c a 64 then .stop 5 a
    else if 16 ≤ c.dmas.length ∨ loadHeld s k [(a, 64)] then .hold
    else
      let b := memBytes s.mem (coreAddr k a) 64
      let tag := c.dmaTag + 1
      let d := dmaOfBytes tag word b
      if !dmaValid b d then .stop 7 a
      else if dmaHeld s k d then .hold
      else onCore s k (fun x => { setX x rd tag with dmaTag := tag, dmas := x.dmas ++ [d] }) next))

/-- LX_DWAIT (R143). -/
def execLxDwait (core : CoreId) (rs1 : BitVec 5) (s : State) : Out :=
  .next (issue s core.toNat (c2Word 1 0 rs1.toNat 0 0) (fun _ next =>
    onCore s core.toNat (fun c => releaseWait { c with wait := .dmaTag (getX c rs1) }) next))

/-- LX_DFENCE (R143). -/
def execLxDfence (core : CoreId) (s : State) : Out :=
  .next (issue s core.toNat (c2Word 2 0 0 0 0) (fun _ next =>
    onCore s core.toNat (fun c => releaseWait { c with wait := .dmaAll }) next))

/-- LX_BAR_C (R144): arrival at a cluster barrier. -/
def execLxBarC (core : CoreId) (id : BitVec 3) (s : State) : Out :=
  let k := core.toNat
  .next (issue s k (c2Word 0 id.toNat 0 1 0) (fun _ next =>
    onCore s k (fun c => { c with wait := .barrier false id.toNat (arrNow s (coreDie k)) }) next))

/-- LX_BAR_D (R144): arrival at a die barrier. -/
def execLxBarD (core : CoreId) (id : BitVec 3) (s : State) : Out :=
  let k := core.toNat
  .next (issue s k (c2Word 1 id.toNat 0 1 0) (fun _ next =>
    onCore s k (fun c => { c with wait := .barrier true id.toNat (arrNow s (coreDie k)) }) next))

/-- LX_END (R119): the exit word; the core ends once its engine instructions and DMAs are complete. -/
def execLxEnd (core : CoreId) (rs1 : BitVec 5) (s : State) : Out :=
  .next (issue s core.toNat (c2Word 2 0 rs1.toNat 1 0) (fun _ next =>
    onCore s core.toNat (fun c => { c with wait := .ending (getX c rs1) }) next))

/-- The participants of a barrier (R144): the command's cores in the cluster, or on the die, of a core. -/
def participants (s : State) (k : Nat) (die : Bool) : List Nat :=
  let j := (coreAt s k).job
  (((cmdAt s j.queue j.pos).map (·.cores)).getD []).filter
    (fun c => if die then c / 1024 == k / 1024 else c / 64 == k / 64)

/-- Has a core ended under R119? -/
def coreEnded (c : Core) : Bool := c.exitWord.isSome

/-- Does a core wait at a barrier, its earlier DMAs complete? -/
def atBarrier (c : Core) (die : Bool) (id : Nat) : Bool :=
  match c.wait with
  | .barrier d i _ => d == die && i == id && c.dmas.isEmpty && c.run == .running
  | _ => false

/-- A core released from its barrier; its waiting cycles are counted (Table 4-15). -/
def leaveBarrier (now : Word64) (c : Core) : Core :=
  match c.wait with
  | .barrier _ _ since => { c with wait := .none, barWait := c.barWait + (now - since) }
  | _ => c

/-- BARRIER_RELEASE (R144): every participant waits at the ID or has ended; those that wait go on. -/
def execBarrierRelease (die : Bool) (core : CoreId) (id : BitVec 3) (s : State) : Out :=
  let k := core.toNat
  let ps := participants s k die
  if atBarrier (coreAt s k) die id.toNat &&
      ps.all (fun c => atBarrier (coreAt s c) die id.toNat || coreEnded (coreAt s c)) then
    .next ((ps.filter (fun c => atBarrier (coreAt s c) die id.toNat)).foldl
      (fun t c => modCore t c (leaveBarrier (arrNow s (coreDie c)))) s)
  else .next s

/-- What the transfer of a DMA came to. -/
inductive DmaAnswer where
  | moved (s : State)
  | waits (s : State)
  | faults (s : State) (cause addr : Nat)

/-- The rows of a DMA, each with the pieces of its source and destination; the address of a translation fault otherwise. -/
def dmaRows (s : State) (c : Core) (d : Dma) : Except Nat (List ((Nat × List (Nat × Nat)) × (Nat × List (Nat × Nat)))) :=
  let pasid := queuePasid s c.job.queue
  (List.range d.rows).foldr (fun i acc =>
    let a := d.src + i * d.srcStride
    let b := d.dst + i * d.dstStride
    match (if d.fill then some [] else rangePieces s c.job.partition pasid false a d.rowBytes),
          rangePieces s c.job.partition pasid true b d.rowBytes, acc with
    | none, _, _ => .error a
    | _, none, _ => .error b
    | some x, some y, .ok l => .ok (((a, x), (b, y)) :: l)
    | _, _, .error e => .error e) (.ok [])

/-- The bytes that a fill writes into a row of `n` bytes. -/
def fillBytes (pattern n : Nat) : List Byte := (List.range n).map (fun i => BitVec.ofNat 8 (natField pattern (8 * (i % 8)) 8))

/-- The transfer of a DMA (R142, R143). (DEDUCED, log entries 27, 29) -/
def moveDma (s : State) (k : Nat) (d : Dma) : DmaAnswer :=
  let c := coreAt s k
  let p := c.job.partition
  let cmd : CmdRef := { queue := c.job.queue, pos := c.job.pos }
  match dmaRows s c d with
  | .error a => .faults (iommuFault s p c.job.queue a) 6 a
  | .ok rows =>
    let reads := rows.flatMap (fun r => r.1.2)
    let writes := rows.flatMap (fun r => r.2.2)
    match reads.find? (fun e => !dmaMayRead s p e.1 e.2) with
    | some e => .faults (failAccess s p e.1) 6 e.1
    | none =>
      match rows.find? (fun r => !dmaMayWrite s c r.2.1 d.rowBytes r.2.2) with
      | some r => .faults s 6 r.2.1
      | none =>
        match tierReady s p (some cmd) false true reads with
        | .held t => .waits t
        | .bad t => .faults t 6 d.src
        | .ready t =>
          match tierReady t p (some cmd) false false writes with
          | .held u => .waits u
          | .bad u => .faults u 6 d.dst
          | .ready u =>
            match reads.find? (fun e => rangePoisoned u e.1 e.2) with
            | some e => .faults (logPoison u p c.job.queue e.1) 10 e.1
            | none =>
              let v := rows.foldl (fun w r =>
                writePieces w r.2.2 (if d.fill then fillBytes d.pattern.toNat d.rowBytes else readPieces w r.1.2)) u
              .moved (chargePieces (chargePieces v c.job.queue c.job.pos reads false) c.job.queue c.job.pos writes true)

/-- The tags of the transfers that are over at the front of the queue complete, in order (R143). -/
def completeTags (c : Core) : Core :=
  let done := c.dmas.takeWhile (·.moved)
  releaseWait
    { c with
      dmas := c.dmas.drop done.length,
      dmaDone := match done.getLast? with | some d => d.tag | none => c.dmaDone }

/-- Does the DMA wait for an earlier one whose destination shares a 64 B line with its own (R143)? -/
def behindEarlier (c : Core) (d : Dma) : Bool :=
  let lines (r : Rng) : Rng := (r.1 / 64 * 64, (r.1 + r.2 + 63) / 64 * 64 - r.1 / 64 * 64)
  (c.dmas.takeWhile (fun e => e.tag != d.tag)).any (fun e => !e.moved && overlap (lines e.dstRange) (lines d.dstRange))

/-- DMA_COMPLETE (R141 to R143): the transfer of a tag is made, or stops the program, or waits in the tiers. -/
def execDmaComplete (core : CoreId) (tag : Word32) (s : State) : Out :=
  let k := core.toNat
  let c := coreAt s k
  match c.dmas.find? (fun d => d.tag == tag) with
  | none => .next s
  | some d =>
    if d.moved || behindEarlier c d || !(c.run == .running) then .next s
    else
      match moveDma s k d with
      | .waits t => .next t
      | .faults t cause addr => .next (stopCore t k cause d.insn addr)
      | .moved t =>
        let n := d.rows * d.rowBytes
        .next (modCore t k (fun x => completeTags
          { x with
            dmas := x.dmas.map (fun e => if e.tag == tag then { e with moved := true } else e),
            dmaBytesRd := bump x.dmaBytesRd (if d.fill then 0 else n), dmaBytesWr := bump x.dmaBytesWr n }))

/-- The mapping table in which a tagged command's role is resolved (R261, R268). -/
def phaseMap (j : Job) (tag : Nat) : Option Nat :=
  match tag with
  | 1 => j.step.map (·.plan.mapFb)
  | 2 => j.step.map (·.plan.mapFb)
  | 3 => j.step.map (·.plan.mapRed)
  | 4 => j.eval.map (·.installed)
  | _ => none

/-- ARR cycles of a run on one core added to its role's count (R271). -/
def addBusy (s : State) (p : Nat) (c : Cmd) (core cycles : Nat) : State :=
  modJob s p (fun j =>
    match phaseMap j c.phaseTag with
    | none => j
    | some idx =>
      let key := (idx * 256 + natField c.target 0 8) * 8 + coreDie core
      { j with busy := mapSet j.busy key (mapGetD j.busy key 0 + cycles) })

/-- CORE_PROGRAM_ENDED (R119): the core ends; when every core of its command has ended, the command's work is over and its
result word is the exit word of rank 0. -/
def execCoreProgramEnded (core : CoreId) (s : State) : Out :=
  let k := core.toNat
  let c := coreAt s k
  match c.wait with
  | .ending exit =>
    if c.run == .running && c.engine.insts.isEmpty && c.dmas.isEmpty then
      let q := c.job.queue
      let pos := c.job.pos
      let s1 := setCore s k { c with run := .idle, wait := .none, exitWord := some exit }
      let ran := arrNow s (coreDie k) - c.startCycle
      let sb := match cmdAt s1 q pos with
        | some x => addBusy s1 c.job.partition x k ran.toNat
        | none => s1
      let s2 := modCmd sb q pos (fun x => { x with engine := x.engine + ran })
      match cmdAt s2 q pos with
      | none => .next s2
      | some x =>
        if x.cores.all (fun i => coreEnded (coreAt s2 i)) then
          let w := match x.cores.head? with
            | some i => (((coreAt s2 i).exitWord).map (·.toNat)).getD 0
            | none => 0
          .next (finishCmd s2 q pos stOk w)
        else .next s2
    else .next s
  | _ => .next s

end Sys2Proof.Machine
end

