-- ==== Sys2Proof/Machine/Tables.lean ====
section
/-! DEFINITION. Embedding tables: row and page placement, routing under a re-layout, encoding of rows, and the switch points and restarts of re-layouts (R237 to R240, R252 to R259). -/

namespace Sys2Proof.Machine

/-! ### Rows and pages (R237 to R240) -/

/-- Bytes of one element of a row format (R238). -/
def rowElemBytes (fmt : Nat) : Nat := if fmt = 0 then 4 else if fmt = 1 then 2 else 1

/-- Offset of the scale of an INT8 row (R238). -/
def TableDesc.offScale (d : TableDesc) : Nat := 4 * ((d.dim + 3) / 4)

/-- Offset of the state words (R238). -/
def TableDesc.offState (d : TableDesc) : Nat :=
  if d.fmt = 8 then d.offScale + 4 else 4 * ((d.dim * rowElemBytes d.fmt + 3) / 4)

/-- Slot size S (R238). -/
def TableDesc.slot (d : TableDesc) : Nat := 64 * ((d.offState + 4 * d.stateWords + 63) / 64)

/-- Slots in a page (R238). -/
def TableDesc.rpp (d : TableDesc) : Nat := 65472 / d.slot

/-- Rows per shard in order 1. -/
def TableDesc.shardRows (d : TableDesc) : Nat := (d.rows + d.n - 1) / d.n

/-- Pages of the table (R239). -/
def TableDesc.pageCount (d : TableDesc) : Nat :=
  if d.order = 0 then (d.rows + d.rpp - 1) / d.rpp else d.n * ((d.shardRows + d.rpp - 1) / d.rpp)

/-- row_place (R239): page and slot of a row. -/
def TableDesc.place (d : TableDesc) (r : Nat) : Nat × Nat :=
  if d.order = 0 then (r / d.rpp, r % d.rpp)
  else
    let b := d.shardRows
    ((r % b) / d.rpp * d.n + r / b, (r % b) % d.rpp)

/-- The channel of a table page. -/
def TableDesc.channel (d : TableDesc) (page : Nat) : Nat := d.chans.getD (page % (max d.n 1)) 0

/-- The fields of a table descriptor (Table 8-1), with the lists it names. -/
def tableOfBytes (b : List Byte) (chans frames shadows : List Nat) : TableDesc :=
  { rows := fieldAt b 0 8, tableId := fieldAt b 8 2, dim := fieldAt b 0x0A 2, fmt := fieldAt b 0x0C 1,
    stateWords := fieldAt b 0x0D 1, order := fieldAt b 0x0E 1, tiered := fieldAt b 0x0F 1 == 1,
    n := fieldAt b 0x10 1, sr := natBit (fieldAt b 0x11 1) 0, nanOpt := natBit (fieldAt b 0x11 1) 1,
    object := fieldAt b 0x12 2, firstPage := fieldAt b 0x14 4, chans := chans, frameList := frames,
    shadowList := shadows, g := fieldAt b 0x30 4, stamp0 := fieldAt b 0x34 4, tensorId := fieldAt b 0x38 2 }

/-- The device address of table page i: its frame, or its page of the tiered object (R240). -/
def tablePageAddr (s : State) (p : Nat) (d : TableDesc) (i : Nat) : Nat :=
  if d.tiered then
    match tierObject s p d.object with
    | some o => o.base + (d.firstPage + i) * 65536
    | none => 0
  else d.frameList.getD i 0 * 65536

/-- The device address of a row's slot in one layout. -/
def slotAddr (s : State) (p : Nat) (d : TableDesc) (r : Nat) : Nat :=
  tablePageAddr s p d (d.place r).1 + (d.place r).2 * d.slot

/-- The table of a job. -/
def tableAt (s : State) (p id : Nat) : Option EmbTable := (jobAt s p).bind (fun j => mapGet j.tables id)

/-- A table of a job changed. -/
def modTable (s : State) (p id : Nat) (f : EmbTable → EmbTable) : State :=
  modJob s p (fun j => { j with tables := mapModify j.tables id f })

/-! ### Routing under a re-layout (R252, R254) -/

/-- The region of an old page. -/
def pageRegion (page : Nat) : Nat := page / 16

/-- Does a region's traffic go to the new layout (R254; under revert with the layouts exchanged, R258)? -/
def servedNew (r : Relayout) (j : Nat) : Bool :=
  match r.regions[j]? with
  | none => false
  | some g => match g.state with
    | .old => false
    | .moving => r.revert
    | .new => true

/-- The layout that serves a row. -/
def servingDesc (t : EmbTable) (row : Nat) : TableDesc :=
  match t.relayout with
  | none => t.desc
  | some r => if servedNew r (pageRegion (t.desc.place row).1) then r.newDesc else t.desc

/-- The device address of a row's slot. -/
def rowAddr (s : State) (p : Nat) (t : EmbTable) (row : Nat) : Nat := slotAddr s p (servingDesc t row) row

/-- The channel of a row. -/
def rowChannel (t : EmbTable) (row : Nat) : Nat :=
  let d := servingDesc t row
  d.channel (d.place row).1

/-! ### Contents of rows (R238, R242, R249) -/

/-- The elements of a slot in FP32, decoded exactly; an INT8 element is rne32(q × scale). -/
def decodeRow (d : TableDesc) (slot : List Byte) : List Word32 :=
  let e := rowElemBytes d.fmt
  (List.range d.dim).map (fun i =>
    let v := (codeKind d.fmt).decode (fieldAt slot (i * e) e)
    if d.fmt = 8 then rne32 (v.mul (f32 (BitVec.ofNat 32 (fieldAt slot d.offScale 4)))) else rne32 v)

/-- The state words of a slot. -/
def rowState (d : TableDesc) (slot : List Byte) : List Nat :=
  (List.range d.stateWords).map (fun i => fieldAt slot (d.offState + 4 * i) 4)

/-- A slot encoded in a row format (R249, R254): an INT8 row takes a new scale rne32(amax / 127). `rds` gives the rounding
of each element. Bytes that no field covers are zero. -/
def encodeRow (d : TableDesc) (rds : Nat → Round) (vals : List Word32) (st : List Nat) : List Byte :=
  let ovf : OvfKind := if d.nanOpt then .nan else .sat
  let elems :=
    if d.fmt = 8 then
      let amax := vals.foldl (fun a x => rne32 ((f32 a).max (f32 x).abs)) 0
      let scale := divF32 amax (natF32 127)
      let q := vals.map (fun v => if (f32 amax).isZero then 0 else
        intToNat 8 (toIntSat 8 .rne (f32 (divF32 v scale))))
      let body := q.flatMap (fun x => natToBytes 1 x)
      body ++ zeros (d.offScale - body.length) ++ natToBytes 4 (if (f32 amax).isZero then 0 else scale.toNat)
    else
      (vals.zipIdx).flatMap (fun e => natToBytes (rowElemBytes d.fmt) ((codeKind d.fmt).encode (rds e.2) ovf (f32 e.1)))
  let state := st.flatMap (fun w => natToBytes 4 w)
  let body := elems ++ zeros (d.offState - elems.length) ++ state
  body ++ zeros (d.slot - body.length)

/-- The bytes of a page's stamp line that hold its stamp (R238). -/
def pageStampAddr (s : State) (p : Nat) (d : TableDesc) (page : Nat) : Nat := tablePageAddr s p d page + 0xFFC0

/-- The rows of a region, ascending. -/
def regionRows (t : EmbTable) (j : Nat) : List Nat :=
  let d := t.desc
  if d.order = 0 then
    (List.range (min d.rows ((16 * (j + 1)) * d.rpp) - min d.rows (16 * j * d.rpp))).map (fun i => 16 * j * d.rpp + i)
  else
    (List.range 16).flatMap (fun k =>
      let page := 16 * j + k
      let shard := page % d.n
      let lo := page / d.n * d.rpp
      (List.range d.rpp).filterMap (fun i =>
        let r := shard * d.shardRows + lo + i
        if page < d.pageCount ∧ lo + i < d.shardRows ∧ r < d.rows then some r else none))

/-- Regions of a table under its old layout (R252). -/
def regionCount (d : TableDesc) : Nat := (d.pageCount + 15) / 16

/-! ### The journal and bitmap of a re-layout (R253) -/

/-- The value of a region entry (Table 8-4). -/
def Region.value (r : Region) : Nat :=
  (match r.state with | .old => 1 | .moving => 2 | .new => 3) + 4 * bitOf r.copied + 8 * (r.restarts % 4)

/-- The value of ctl (Table 8-3). -/
def Relayout.ctl (r : Relayout) : Nat :=
  r.newDesc.tableId % 1024 + 1024 * bitOf r.revert
    + 2048 * (match r.status with | .running => 0 | .stopped => 1 | .complete => 2 | .reverted => 3)

/-- The header of the journal (Table 8-3). -/
def Relayout.header (r : Relayout) : List Byte :=
  cp32Bytes r.ctl ++ cp32Bytes r.regions.length ++ cp32Bytes r.epoch ++ cp32Bytes r.flip
    ++ natToBytes 8 r.newDescAddr ++ zeros 24

/-- The bitmap of a re-layout. -/
def Relayout.bits (r : Relayout) : List Byte :=
  (List.range ((r.regions.length + 7) / 8)).map (fun i =>
    BitVec.ofNat 8 (((List.range 8).map (fun b => bitOf (servedNew r (8 * i + b)) * 2 ^ b)).sum))

/-- The whole journal and bitmap written (the MP alone writes them, R253). -/
def putRelayout (s : State) (r : Relayout) : State :=
  let s1 := cohWrite s r.journal (r.header ++ r.regions.flatMap (fun g => cp32Bytes g.value))
  cohWrite s1 r.bitmap r.bits

/-- One region entry written. (DEDUCED, log entry 36) -/
def putRegion (s : State) (r : Relayout) (j : Nat) : State :=
  match r.regions[j]? with
  | none => s
  | some g => cohWrite s (r.journal + 0x40 + 8 * j) (cp32Bytes g.value)

/-- A re-layout of a table replaced, with its journal and bitmap. -/
def setRelayout (s : State) (p id : Nat) (r : Relayout) : State :=
  putRelayout (modTable s p id (fun t => { t with relayout := some r })) r

/-- One region of a table's re-layout changed, with its entry. -/
def modRegionEntry (s : State) (p id j : Nat) (f : Region → Region) : State :=
  match (tableAt s p id).bind (·.relayout) with
  | none => s
  | some r =>
    let r1 := { r with regions := r.regions.modify j f }
    putRegion (modTable s p id (fun t => { t with relayout := some r1 })) r1 j

/-- A write to a row of a MOVING region: its copy restarts; a fourth attempt is paused and completes (R255). -/
def restartRegion (s : State) (p id j : Nat) : State :=
  match tableAt s p id with
  | none => s
  | some t =>
    match t.relayout with
    | none => s
    | some r =>
      match r.regions[j]? with
      | none => s
      | some g =>
        if r.status = .running ∧ g.state = .moving ∧ g.restarts < 3 then
          let src := if r.revert then r.newDesc else t.desc
          modChannel (modRegionEntry s p id j (fun x => { x with copied := false, restarts := x.restarts + 1 }))
            (src.channel (16 * j)) (fun c => { c with puRelayoutRestarts := c.puRelayoutRestarts + 1 })
        else s

/-- The MOVING regions of a partition's tables whose rows a write to a device range touches restart (R255). (DEDUCED, log entry 36) -/
def restartTouched (s : State) (p a n : Nat) : State :=
  match jobAt s p with
  | none => s
  | some j =>
    j.tables.foldl (fun st e =>
      match e.2.relayout with
      | none => st
      | some r =>
        (r.regions.zipIdx).foldl (fun u g =>
          if g.1.state = .moving ∧ (List.range 16).any (fun k =>
              decide (16 * g.2 + k < e.2.desc.pageCount) &&
              overlap (tablePageAddr u p e.2.desc (16 * g.2 + k), 65536) (a, n)) then restartRegion u p e.1 g.2
          else u) st) s

/-! ### Switch points (R256, R258) -/

/-- The new-layout pages that received rows of the switched regions. -/
def switchedPages (t : EmbTable) (r : Relayout) (js : List Nat) : List Nat :=
  let d := if r.revert then t.desc else r.newDesc
  (js.flatMap (regionRows t)).foldl (fun l row =>
    let g := (d.place row).1
    if l.contains g then l else l ++ [g]) []

/-- The regions of a re-layout whose copies are complete. -/
def copiedRegions (r : Relayout) : List Nat := ((r.regions.zipIdx).filter (fun g => g.1.state == .moving && g.1.copied)).map (·.2)

/-- A switch point of a table (R256): copied regions switch, their pages take the stamp of the most recent apply; when
every region has switched already, the re-layout completes (R258). The journal records it with its regions. -/
def switchRegions (s : State) (p id : Nat) : State :=
  match tableAt s p id with
  | none => s
  | some t =>
    match t.relayout with
    | none => s
    | some r =>
      if r.status ≠ .running then s
      else
        let goal : RegionState := if r.revert then .old else .new
        let js := copiedRegions r
        let s0 := journalOutcome s p 4 (natToBytes 2 id ++ natToBytes 4 js.length ++ js.flatMap (natToBytes 4))
        if r.regions.all (fun g => g.state == goal) then
          let r1 := { r with status := if r.revert then .reverted else .complete, epoch := r.epoch + 1, flip := r.epoch + 1 }
          let s1 := putRelayout s0 r1
          modTable s1 p id (fun x => { x with desc := if r.revert then x.desc else r.newDesc, relayout := none })
        else
          let d := if r.revert then t.desc else r.newDesc
          let r1 := { r with
            flip := r.epoch + 1, epoch := r.epoch + 1,
            regions := r.regions.map (fun g =>
              if g.state == .moving && g.copied then { state := goal, copied := false, restarts := 0 } else g) }
          (switchedPages t r js).foldl (fun u g =>
            cohWrite u (pageStampAddr u p d g) (cp32Bytes t.lastStamp)) (setRelayout s0 p id r1)

/-- A switch point of a table; in a replay the journal's records take its place (R474). (DEDUCED, log entry 36) -/
def switchPoint (s : State) (p id : Nat) : State := if replayRuns s p then s else switchRegions s p id

/-- The switch point of every table of a job, at the acceptance of STEP_BEGIN or EVAL_BEGIN (R256). -/
def switchTables (s : State) (p : Nat) : State :=
  match jobAt s p with
  | none => s
  | some j => (mapKeys j.tables).foldl (fun st id => switchPoint st p id) s

/-- The repair of a table's re-layout after a reset (R259). -/
def repairRelayout (s : State) (p id : Nat) : State :=
  match (tableAt s p id).bind (·.relayout) with
  | none => s
  | some r =>
    let home : RegionState := if r.revert then .new else .old
    let r1 := { r with
      status := .stopped,
      regions := r.regions.map (fun g => if g.state == .moving then { state := home, copied := false, restarts := 0 } else g) }
    setRelayout s p id r1

end Sys2Proof.Machine
end

