-- ==== Sys2Proof/Machine/Commands.lean ====
section
/-! DEFINITION. What every queue command shares: its declared buffers, the accesses of the unit that runs it; and the copy and control commands COPY, FILL, FENCE, SIGNAL, WAIT and ACCEPT_PLACED (R382, R388, R405, R409 to R412). -/

namespace Sys2Proof.Machine

/-- A field of a descriptor. -/
def Cmd.field (c : Cmd) (off n : Nat) : Nat := fieldAt c.desc off n

/-- A command that runs: admitted, of the opcode, its partition alive. -/
def runCmd (s : State) (q pos op : Nat) (f : Queue → Cmd → State) : State :=
  match queueAt s q, cmdAt s q pos with
  | some x, some c => if c.phase = .admitted ∧ c.opcode = op then f x c else s
  | _, _ => s

/-- Is ring position `a` before `b` (R373)? -/
def posBefore (a b : Nat) : Bool := decide (0 < (b + 2 ^ 32 - a) % 2 ^ 32 ∧ (b + 2 ^ 32 - a) % 2 ^ 32 < 2 ^ 31)

/-! ### Accesses of collective engines, video units and the MP (Table 1-7) -/

/-- What an access of a command came to. -/
inductive CmdIo where
  | ok (s : State) (bytes : List Byte)
  | held (s : State)
  | ended (s : State)

/-- May a collective engine or the MP, for partition p, read [a, a + n)? -/
def unitMayRead (s : State) (p a n : Nat) : Bool := reachCoherent s p a n || reachWindow s p a n true

/-- May it write there (R106: no writes to a WGB)? -/
def unitMayWrite (s : State) (p a n : Nat) : Bool := reachCoherent s p a n || reachWindow s p a n false

/-- A read of a command: translated, checked, delayed in the tiers, ended by a fault or by poison (R36, R178, R461). -/
def cmdRead (s : State) (q pos a n : Nat) : CmdIo :=
  match queueAt s q with
  | none => .ended s
  | some x =>
    let p := x.partition
    match rangePieces s p x.pasid false a n with
    | none => .ended (endCmd (iommuFault s p q a) q pos stAddressFault)
    | some l =>
      match l.find? (fun e => !unitMayRead s p e.1 e.2) with
      | some e => .ended (endCmd (failAccess s p e.1) q pos stAddressFault)
      | none =>
        match tierReady s p (some { queue := q, pos := pos }) true true l with
        | .held t => .held t
        | .bad t => .ended (endCmd t q pos stAddressFault)
        | .ready t =>
          match l.find? (fun e => rangePoisoned t e.1 e.2) with
          | some e => .ended (endCmd (logPoison t p q e.1) q pos stDataPoisoned)
          | none => .ok (chargePieces t q pos l false) (readPieces t l)

/-- A write of a command. -/
def cmdWrite (s : State) (q pos a : Nat) (bs : List Byte) : CmdIo :=
  match queueAt s q with
  | none => .ended s
  | some x =>
    let p := x.partition
    match rangePieces s p x.pasid true a bs.length with
    | none => .ended (endCmd (iommuFault s p q a) q pos stAddressFault)
    | some l =>
      match l.find? (fun e => !unitMayWrite s p e.1 e.2) with
      | some e => .ended (endCmd (failAccess s p e.1) q pos stAddressFault)
      | none =>
        match tierReady s p (some { queue := q, pos := pos }) true false l with
        | .held t => .held t
        | .bad t => .ended (endCmd t q pos stAddressFault)
        | .ready t => .ok (chargePieces (writePieces t l bs) q pos l true) []

/-- What follows a successful access; a held or ended command stops there. -/
def CmdIo.bind (x : CmdIo) (f : State → List Byte → State) : State :=
  match x with
  | .ok s b => f s b
  | .held s => s
  | .ended s => s

/-- What follows a successful access, where it can again be held or ended. -/
def CmdIo.andThen (x : CmdIo) (f : State → List Byte → CmdIo) : CmdIo :=
  match x with
  | .ok s b => f s b
  | .held s => .held s
  | .ended s => .ended s

/-- Accesses over a list, in order, until one does not succeed. -/
def ioFold {α : Type} (f : State → α → CmdIo) : State → List α → CmdIo
  | s, [] => .ok s []
  | s, a :: rest => (f s a).andThen (fun t _ => ioFold f t rest)

/-- Several reads of a command, one after another; all succeed or the first that does not decides. -/
def cmdReads (q pos : Nat) : State → List (Nat × Nat) → List (List Byte) → CmdIo × List (List Byte)
  | s, [], acc => (.ok s [], acc.reverse)
  | s, (a, n) :: rest, acc =>
    match cmdRead s q pos a n with
    | .ok t b => cmdReads q pos t rest (b :: acc)
    | other => (other, acc.reverse)

/-- Several writes of a command. -/
def cmdWrites (q pos : Nat) : State → List (Nat × List Byte) → CmdIo
  | s, [] => .ok s []
  | s, (a, bs) :: rest =>
    match cmdWrite s q pos a bs with
    | .ok t _ => cmdWrites q pos t rest
    | other => other

/-! ### Copy lane (R405, R412) -/

/-- Is a copy command among the first four of its partition's copy lane, in admission order (R412)? -/
def copyTurn (s : State) (p : Nat) (c : Cmd) : Bool :=
  decide ((cmdsWhere s (fun _ x d =>
    x.partition == p && d.phase == .admitted && (d.opcode == 2 || d.opcode == 3) && decide (d.order < c.order))).length < 4)

/-- COPY (Table 13-9). -/
def execCopy (q : BitVec 12) (pos : BitVec 32) (s : State) : Out :=
  .next (runCmd s q.toNat pos.toNat 0x02 (fun x c =>
    if !copyTurn s x.partition c then s
    else
      match cmdRead s q.toNat pos.toNat (c.field 0x20 8) (c.field 0x30 8) with
      | .held t => t
      | .ended t => t
      | .ok t bs =>
        match cmdWrite t q.toNat pos.toNat (c.field 0x28 8) bs with
        | .held u => u
        | .ended u => u
        | .ok u _ =>
          finishCmd (restartTouched u x.partition (c.field 0x28 8) (c.field 0x30 8)) q.toNat pos.toNat stOk 0))

/-- FILL (Table 13-9): the pattern repeats from the first byte. -/
def execFill (q : BitVec 12) (pos : BitVec 32) (s : State) : Out :=
  .next (runCmd s q.toNat pos.toNat 0x03 (fun x c =>
    if !copyTurn s x.partition c then s
    else
      match cmdWrite s q.toNat pos.toNat (c.field 0x20 8) (fillBytes (c.field 0x30 8) (c.field 0x28 8)) with
      | .held u => u
      | .ended u => u
      | .ok u _ =>
        finishCmd (restartTouched u x.partition (c.field 0x20 8) (c.field 0x28 8)) q.toNat pos.toNat stOk 0))

/-! ### Signals, waits, fences (R382, R411) -/

/-- A signal counter of a partition. -/
def signalAt (s : State) (p i : Nat) : Word64 := ((partAt s p).map (fun x => mapGetD x.signals i 0)).getD 0

/-- The value that a SIGNAL gives its counter. -/
def signalValue (s : State) (p : Nat) (c : Cmd) : Word64 :=
  if c.field 0x22 1 = 0 then bump (signalAt s p (c.field 0x20 2)) (c.field 0x28 8) else BitVec.ofNat 64 (c.field 0x28 8)

/-- Commit step 4 of a SIGNAL: the counter, then the mirror word (R409, R411). -/
def applySignal (s : State) (p : Nat) (q : Nat) (c : Cmd) : State :=
  let v := signalValue s p c
  let s1 := modPart s p (fun x => { x with signals := mapSet x.signals (c.field 0x20 2) v })
  let a := c.field 0x30 8
  if a = 0 then s1
  else
    match rangePieces s1 p (queuePasid s1 q) true a 8 with
    | some l => writePieces s1 l (natToBytes 8 v.toNat)
    | none => s1

/-- Is a command the oldest of its queue that has neither committed nor ended? -/
def isOldest (x : Queue) (pos : Nat) : Bool := !x.cmds.any (fun d => posBefore d.pos pos)

/-- SIGNAL_ADD (R411, Table 13-9 op 0): its update is applied in its commit. -/
def execSignalAdd (q : BitVec 12) (pos : BitVec 32) (s : State) : Out :=
  .next (runCmd s q.toNat pos.toNat 0x11 (fun _ c =>
    if c.field 0x22 1 = 0 then finishCmd s q.toNat pos.toNat stOk 0 else s))

/-- SIGNAL_SET (R411, Table 13-9 op 1). -/
def execSignalSet (q : BitVec 12) (pos : BitVec 32) (s : State) : Out :=
  .next (runCmd s q.toNat pos.toNat 0x11 (fun _ c =>
    if c.field 0x22 1 = 1 then finishCmd s q.toNat pos.toNat stOk 0 else s))

/-- Has a signal counter reached the value of a WAIT (R411)? -/
def waitMet (s : State) (p : Nat) (c : Cmd) : Bool :=
  decide ((signalAt s p (c.field 0x20 2) - BitVec.ofNat 64 (c.field 0x28 8)).toNat < 2 ^ 63)

/-- WAIT (R411): it commits once the counter has reached the value. -/
def execWait (q : BitVec 12) (pos : BitVec 32) (s : State) : Out :=
  .next (runCmd s q.toNat pos.toNat 0x12 (fun x c =>
    if waitMet s x.partition c then
      finishCmd s q.toNat pos.toNat stOk ((signalAt s x.partition (c.field 0x20 2)).toNat % 2 ^ 32)
    else s))

/-- WAIT_DEADLINE (R411): the deadline passes first; 0 is no deadline. -/
def execWaitDeadline (q : BitVec 12) (pos : BitVec 32) (s : State) : Out :=
  .next (runCmd s q.toNat pos.toNat 0x12 (fun x c =>
    let d := c.field 0x24 4
    if d ≠ 0 ∧ d ≤ aonSince s c.admittedAt ∧ !waitMet s x.partition c then endCmd s q.toNat pos.toNat stWaitTimeout else s))

/-- FN_FLUSH of a function. -/
def flushOf (s : State) (fn : Nat) : Word64 := ((funcAt s fn).map (·.flush)).getD 0

/-- Have the earlier commands in a fence's scope committed or ended (R382)? -/
def fenceMet (s : State) (q : Nat) (x : Queue) (c : Cmd) : Bool :=
  if c.field 0x20 1 = 0 then isOldest x c.pos
  else (cmdsWhere s (fun r y d =>
    y.partition == x.partition && d.phase != .waiting && decide (d.order < c.order) && !(r == q && d.pos == c.pos))).isEmpty

/-- FENCE (R382): its result word is FN_FLUSH. -/
def execFence (q : BitVec 12) (pos : BitVec 32) (s : State) : Out :=
  .next (runCmd s q.toNat pos.toNat 0x10 (fun x c =>
    if fenceMet s q.toNat x c then finishCmd s q.toNat pos.toNat stOk ((flushOf s x.partition).toNat % 2 ^ 32) else s))

/-! ### ACCEPT_PLACED (R388) -/

/-- Every cached copy of a range dropped without writing it back. -/
def discardRange (s : State) (a n : Nat) : State :=
  refreshFlights ((lidsOf a n).foldl (fun t lid => if lineHeld t lid then dropCopies t lid else t) s) a n

/-- A placement region of a function. -/
def regionAt (s : State) (fn i : Nat) : Option Placement := (funcAt s fn).bind (fun f => mapGet f.regions i)

/-- A placement region changed. -/
def modRegion (s : State) (fn i : Nat) (f : Placement → Placement) : State :=
  modFunc s fn (fun x => { x with regions := mapModify x.regions i f })

/-- Bytes of a region's data area. -/
def Placement.bytes (r : Placement) : Nat := r.granules * 2 ^ 20

/-- Has PR_PLACED reached a target? -/
def placedMet (r : Placement) (target : Nat) : Bool := decide ((r.placed - BitVec.ofNat 64 target).toNat < 2 ^ 63)

/-- Is the range of an ACCEPT_PLACED inside its region's data area? -/
def acceptRangeOk (r : Placement) (c : Cmd) : Bool := decide (c.field 0x28 8 + c.field 0x30 8 ≤ r.bytes)

/-- Steps 2 and 3 of R388: cached lines of the range, and of the used log outside OPEN, dropped; the bytes journaled. -/
def acceptPlaced (s : State) (p : Nat) (r : Placement) (c : Cmd) : State :=
  let a := r.base + c.field 0x28 8
  let n := c.field 0x30 8
  let logN := if r.state = .open then 0 else r.logUsed
  let s1 := discardRange (discardRange s a n) r.log logN
  let bytes := memBytes s1.mem a n ++ memBytes s1.mem r.log logN
  journalWrite s1 p 0x05 (sliceBytes c.desc 0x1C 36 ++ natToBytes 8 (c.field 0x38 8) ++ natToBytes 8 (crc64 bytes)
    ++ (if ((partAt s1 p).map (·.journal.enable)).getD 0 = 2 then bytes else []))

/-- ACCEPT_PLACED (R388): it waits for the target, then accepts the range. A region or range that does not exist ends it
with INVALID. -/
def execAcceptPlaced (q : BitVec 12) (pos : BitVec 32) (s : State) : Out :=
  .next (runCmd s q.toNat pos.toNat 0x13 (fun x c =>
    let i := c.field 0x20 1
    match regionAt s x.partition i with
    | none => endCmd s q.toNat pos.toNat stInvalid
    | some r =>
      if r.state = .free ∨ !acceptRangeOk r c then endCmd s q.toNat pos.toNat stInvalid
      else if !placedMet r (c.field 0x38 8) then s
      else
        let s1 := acceptPlaced s x.partition r c
        let st := if r.droppedSince then stPlacedOverflow
          else if r.state ≠ .open ∧ r.logUsed ≠ 0 then stPlacedReserve else stOk
        finishCmd (modRegion s1 x.partition i (fun y => { y with droppedSince := false })) q.toNat pos.toNat st 0))

/-- ACCEPT_PLACED_DEADLINE (R388): the deadline passes before the target is reached. -/
def execAcceptPlacedDeadline (q : BitVec 12) (pos : BitVec 32) (s : State) : Out :=
  .next (runCmd s q.toNat pos.toNat 0x13 (fun x c =>
    let d := c.aux
    match regionAt s x.partition (c.field 0x20 1) with
    | none => s
    | some r =>
      if d ≤ aonSince s c.admittedAt ∧ !placedMet r (c.field 0x38 8) then
        endCmd s q.toNat pos.toNat stAcceptShort
      else s))

end Sys2Proof.Machine
end

