-- ==== Sys2Proof/Machine/Transport.lean ====
section
/-! DEFINITION. The transport: frames, flows, messages sent to peers, acknowledgement, retransmission and the window (R331 to R349). -/

namespace Sys2Proof.Machine

/-! ### Ports and planes -/

/-- Is a port usable for sending: UP, with a transmit SA where MACsec is on, not paused (R334, R339)? (DEDUCED, log entry 41) -/
def portUsable (x : Port) : Bool :=
  decide (x.phase = .up) && (!x.macsec || x.secured) && x.paused.isNone

/-- The port of an index. -/
def portAt (s : State) (i : Nat) : Option Port := s.ports[i]?

/-- Planes available on this module's side. -/
def planesHere (s : State) : List Nat := (List.range 16).filter (fun i => ((portAt s i).map portUsable).getD false)

/-- The peer table entry of a module. -/
def peerOf (s : State) (p m : Nat) : Option Peer := (partAt s p).bind (fun x => x.peers.find? (fun e => e.module == m))

/-- Planes available on both ends of a flow (R332, R348). -/
def flowPlanes (s : State) (f : Flow) : List Nat :=
  match peerOf s f.partition f.peer with
  | none => []
  | some e => (planesHere s).filter (fun i => natBit e.planes i)

/-- The next available plane above one, wrapping at 16 (R346, R348). -/
def nextPlane (planes : List Nat) (last : Nat) : Option Nat :=
  match planes.find? (fun i => decide (last < i)) with
  | some i => some i
  | none => planes.head?

/-- LNK cycles of the die that holds a flow. -/
def flowLnk (s : State) (fid : Nat) : Word64 := domCycles s (36 + fid / 10240 % 4)

/-- The flow of an ID. -/
def flowAt (s : State) (fid : Nat) : Option Flow := mapGet s.flows fid

/-- A flow changed. -/
def modFlow (s : State) (fid : Nat) (f : Flow → Flow) : State := { s with flows := mapModify s.flows fid f }

/-! ### Frames (Tables 11-2, 11-3) -/

/-- The 64 header bytes of a frame, its CRC-32C included. -/
def headerBytes (f : TFrame) : List Byte :=
  let h := natToBytes 1 f.ver ++ natToBytes 1 f.type ++ natToBytes 1 f.cls ++ natToBytes 1 f.flags ++ natToBytes 2 f.netId
    ++ natToBytes 2 f.srcModule ++ natToBytes 2 f.dstModule ++ natToBytes 2 f.srcFlow ++ natToBytes 2 f.dstFlow
    ++ natToBytes 2 f.payload.length ++ natToBytes 4 f.gen ++ natToBytes 4 f.psn ++ natToBytes 4 f.ackPsn
    ++ natToBytes 4 f.ts ++ natToBytes 8 f.sack ++ natToBytes 4 f.tsEcho ++ natToBytes 2 f.tag ++ natToBytes 1 f.op
    ++ natToBytes 1 f.cause ++ natToBytes 4 f.seq ++ natToBytes 4 f.chunk ++ natToBytes 4 f.dstGen
  h ++ natToBytes 4 (crc32c (h ++ zeros 4 ++ f.payload))

/-- The frame that header and payload bytes spell. -/
def frameOfBytes (h payload : List Byte) : TFrame :=
  { ver := fieldAt h 0 1, type := fieldAt h 1 1, cls := fieldAt h 2 1, flags := fieldAt h 3 1, netId := fieldAt h 4 2,
    srcModule := fieldAt h 6 2, dstModule := fieldAt h 8 2, srcFlow := fieldAt h 0x0A 2, dstFlow := fieldAt h 0x0C 2,
    gen := fieldAt h 0x10 4, psn := fieldAt h 0x14 4, ackPsn := fieldAt h 0x18 4, ts := fieldAt h 0x1C 4,
    sack := fieldAt h 0x20 8, tsEcho := fieldAt h 0x28 4, tag := fieldAt h 0x2C 2, op := fieldAt h 0x2E 1,
    cause := fieldAt h 0x2F 1, seq := fieldAt h 0x30 4, chunk := fieldAt h 0x34 4, dstGen := fieldAt h 0x38 4,
    payload := payload }

/-- Bytes of a frame on a port, destination MAC to FCS (R336). -/
def wireBytes (x : Port) (payload : Nat) : Nat :=
  14 + (if x.vlan.isSome then 4 else 0) + (if x.macsec then 32 else 0) + 64 + payload + 4

/-- A frame handed to a port. -/
def emitFrame (s : State) (port : Nat) (f : TFrame) : State :=
  match portAt s port with
  | none => s
  | some x =>
    let s1 := modPort s port (fun y => { y with
      txFrames := y.txFrames + 1, txBytes := bump y.txBytes (wireBytes x f.payload.length) })
    let s2 := if f.type = 1 then modColl s1 (port / 4) (fun c => { c with bytesSent := bump c.bytesSent f.payload.length }) else s1
    { s2 with portOut := s2.portOut ++ [{ port := port, frame := f }] }

/-- A control frame of a flow: ACK, CONNECT, ACCEPT, REJECT, KEEPALIVE or CLOSE. -/
def controlFrame (s : State) (fid : Nat) (f : Flow) (type : Nat) : TFrame :=
  { ver := 1, type := type, cls := 0, flags := 0, netId := f.netId, srcModule := s.life.moduleId, dstModule := f.peer,
    srcFlow := fid, dstFlow := if type = 3 then 0xFFFF else f.peerFlow, gen := s.sec.generation.toNat, psn := 0,
    ackPsn := f.rxNext, ts := (flowLnk s fid).toNat % 2 ^ 32, sack := f.rxSack.toNat % 2 ^ 64, tsEcho := f.tsEcho,
    tag := 0, op := 0, cause := 0, seq := 0, chunk := 0, dstGen := f.peerGen, payload := [] }

/-- A control frame sent on the lowest available plane. -/
def sendControl (s : State) (fid type : Nat) : State :=
  match flowAt s fid with
  | none => s
  | some f =>
    match (flowPlanes s f).head? with
    | none => s
    | some pl => emitFrame s pl (controlFrame s fid f type)

/-- A control frame sent on every available plane. -/
def sendControlAll (s : State) (fid type : Nat) : State :=
  match flowAt s fid with
  | none => s
  | some f => (flowPlanes s f).foldl (fun t pl => emitFrame t pl (controlFrame t fid f type)) s

/-- An ACK of a flow, which resets the counts of R345. -/
def sendAck (s : State) (fid : Nat) : State := modFlow (sendControl s fid 2) fid (fun f => { f with unacked := 0 })

/-! ### Sending (R344 to R348) -/

/-- The setting of a flow: that of its lowest available plane's port, or of port 0. -/
def flowSetting (s : State) (f : Flow) (g : Port → Nat) : Nat :=
  ((portAt s ((flowPlanes s f).headD 0)).map g).getD 0

/-- Nanoseconds in LNK cycles of 1.5 GHz. -/
def nsToLnk (ns : Nat) : Nat := ns * 3 / 2

/-- Frames of a flow that are sent and not acknowledged. -/
def Flow.inFlight (f : Flow) : Nat := (f.sent.filter (fun x => !x.acked)).length

/-- A DATA frame with the flow's piggybacked acknowledgement. -/
def stampFrame (s : State) (fid : Nat) (f : Flow) (x : TFrame) : TFrame :=
  { x with ackPsn := f.rxNext, sack := f.rxSack.toNat % 2 ^ 64, tsEcho := f.tsEcho, dstFlow := f.peerFlow,
           dstGen := f.peerGen, gen := s.sec.generation.toNat, ts := (flowLnk s fid).toNat % 2 ^ 32, srcFlow := fid }

/-- Chunks sent while the window has room (R347, R348). `fuel` bounds the window. -/
def pumpFlow : Nat → State → Nat → State
  | 0, s, _ => s
  | fuel + 1, s, fid =>
    match flowAt s fid with
    | none => s
    | some f =>
      match f.phase, f.queue with
      | .open, x :: rest =>
        if f.window ≤ f.inFlight then s
        else
          match nextPlane (flowPlanes s f) f.lastPlane with
          | none => s
          | some pl =>
            let y := stampFrame s fid f { x with psn := f.txNext }
            let s1 := emitFrame s pl y
            let s2 := modFlow s1 fid (fun g => { g with
              queue := rest, txNext := (g.txNext + 1) % 2 ^ 32, lastPlane := pl, unacked := 0,
              txFrames := g.txFrames + 1, lastUsed := aonNow s,
              sent := g.sent ++ [{ frame := y, plane := pl, sentAt := flowLnk s fid, resent := false, fastAt := none, acked := false }] })
            pumpFlow fuel s2 fid
      | _, _ => s

/-- The flow pumped. -/
def pump (s : State) (fid : Nat) : State := pumpFlow 256 s fid

/-- One PSN retransmitted on the next available plane above the one that last carried it (R346). -/
def resendPsn (s : State) (fid psn : Nat) : State :=
  match flowAt s fid with
  | none => s
  | some f =>
    match f.sent.find? (fun x => x.frame.psn == psn && !x.acked) with
    | none => s
    | some x =>
      match nextPlane (flowPlanes s f) x.plane with
      | none => s
      | some pl =>
        let y := stampFrame s fid f { x.frame with flags := x.frame.flags ||| 2 }
        let s1 := modPort (emitFrame s pl y) pl (fun q => { q with retx := q.retx + 1 })
        modFlow s1 fid (fun g => { g with
          txFrames := g.txFrames + 1, retxFrames := g.retxFrames + 1,
          sent := g.sent.map (fun z => if z.frame.psn == psn then
            { z with plane := pl, sentAt := flowLnk s fid, resent := true } else z) })

/-! ### Opening flows (R340 to R342) -/

/-- The net_id of a partition's job. -/
def partNetId (s : State) (p : Nat) : Option Nat := (jobAt s p).map (·.netId)

/-- The partition of a net_id (R342). -/
def partOfNet (s : State) (n : Nat) : Option Nat :=
  (s.partitions.find? (fun e => match e.2.job with | some j => j.netId == n | none => false)).map (·.1)

/-- The flow of a partition to a peer. -/
def flowTo (s : State) (p m : Nat) : Option (Nat × Flow) := s.flows.find? (fun e => e.2.partition == p && e.2.peer == m)

/-- A new flow context. -/
def newFlow (s : State) (p m : Nat) (phase : FlowPhase) : Flow :=
  { phase := phase, partition := p, peer := m, peerFlow := 0xFFFF, netId := (partNetId s p).getD 0, peerGen := 0, planes := 0,
    window := 64, txNext := 0, txUna := 0, rxNext := 0, rto := 75000, rxSack := 0, srtt := 0, retxRun := 0, txFrames := 0,
    rxFrames := 0, retxFrames := 0, lastAck := 0, tsEcho := 0, sent := [], queue := [], lastPlane := 15, unacked := 0,
    ackedInWindow := 0, shrunkAt := 0, lastUsed := aonNow s, lastHeard := aonNow s, inbox := [] }

/-- Does a running gang-lane command of the partition use flows to a peer? -/
def flowInUse (s : State) (f : Flow) : Bool :=
  !(cmdsWhere s (fun _ x c => x.partition == f.partition && c.phase != .waiting &&
    ((c.opcode == 5 || c.opcode == 6) && c.group.contains f.peer || c.opcode == 10 || c.opcode == 11))).isEmpty

/-- Room for one more flow of a partition: within its quota, or after closing the least recently used idle flow (R341). -/
def flowRoom (s : State) (p : Nat) : Option State :=
  let mine := s.flows.filter (fun e => e.2.partition == p)
  let quota := ((partAt s p).map (·.flowQuota)).getD 0
  if mine.length < quota ∧ s.flows.length < 40960 then some s
  else
    let idle := mine.filter (fun e => e.2.phase == .open && e.2.sent.isEmpty && e.2.queue.isEmpty && !flowInUse s e.2
      && decide (250000000 ≤ aonSince s e.2.lastUsed))
    let best := idle.foldl (fun (b : Option (Nat × Flow)) e =>
      match b with
      | none => some e
      | some y => if aonSince s y.2.lastUsed < aonSince s e.2.lastUsed then some e else b) none
    match best with
    | none => none
    | some e => some { sendControl s e.1 7 with flows := mapErase s.flows e.1 }

/-- A flow to a peer, opened by a CONNECT where there is none (R341). -/
def openFlow (s : State) (p m : Nat) : Option (Nat × State) :=
  match flowTo s p m with
  | some e => some (e.1, s)
  | none =>
    match flowRoom s p with
    | none => none
    | some s1 =>
      let fid := mapFree s1.flows 0 40960
      let f := newFlow s1 p m .connecting
      let f1 := { f with rto := nsToLnk (flowSetting s1 f (·.initialRto)) }
      let s2 := { s1 with flows := mapSet s1.flows fid f1 }
      some (fid, sendControl s2 fid 3)

/-- Why a message cannot be sent. -/
inductive SendFail where
  | noPeer   -- the module is not in the peer table: INVALID (R342)
  | busy     -- no flow context: BUSY (R341)
deriving DecidableEq, Repr

/-- The chunks of a message (R336). -/
def chunksOf (fuel : Nat) (body : List Byte) : List (List Byte) :=
  match fuel with
  | 0 => [body]
  | n + 1 => if body.length ≤ 8192 then [body] else body.take 8192 :: chunksOf n (body.drop 8192)

/-- The sender's dominant local cause (Table 11-12) as far as the model holds it: fewer than 16 planes. -/
def localCause (s : State) : Nat := if (planesHere s).length < 16 then 0x10 else 0

/-- A message queued on the flow to a peer and sent as far as the window allows. -/
def sendMessage (s : State) (p m cls tag op seq round : Nat) (body : List Byte) : Except SendFail State :=
  match (if replayContent s p then none else some (peerOf s p m)) with
  | none => .ok s
  | some none => .error .noPeer
  | some (some _) =>
    match openFlow s p m with
    | none => .error .busy
    | some (fid, s1) =>
      let cs := chunksOf (body.length / 8192 + 1) body
      let frames := (cs.zipIdx).map (fun e =>
        let last := decide (e.2 + 1 = cs.length)
        ({ ver := 1, type := 1, cls := cls, flags := bitOf last, netId := (partNetId s p).getD 0,
           srcModule := s.life.moduleId, dstModule := m, srcFlow := fid, dstFlow := 0, gen := 0, psn := 0, ackPsn := 0,
           ts := 0, sack := 0, tsEcho := 0, tag := tag, op := op, cause := if last then localCause s else 0,
           seq := seq, chunk := e.2 + round * 2 ^ 24, dstGen := 0, payload := e.1 } : TFrame))
      .ok (pump (modFlow s1 fid (fun f => { f with queue := f.queue ++ frames })) fid)

/-- A message sent where it can be; a module without a peer entry or a flow gets none. -/
def sendOr (s : State) (p m cls tag op seq round : Nat) (body : List Byte) : State :=
  match sendMessage s p m cls tag op seq round body with
  | .ok t => t
  | .error _ => s

/-! ### Acknowledgements (R345 to R347) -/

/-- Is PSN x before y? -/
def psnBefore (x y : Nat) : Bool := decide (0 < (y + 2 ^ 32 - x) % 2 ^ 32 ∧ (y + 2 ^ 32 - x) % 2 ^ 32 < 2 ^ 31)

/-- A new RTT sample: srtt, rto and the window (R346, R347). (DEDUCED, log entry 41) -/
def takeSample (s : State) (fid : Nat) (f : Flow) (sample ackedNow : Nat) : Flow :=
  let srtt := ((f.srtt : Int) + ((sample : Int) - f.srtt) / 8).toNat
  let target := nsToLnk (flowSetting s f (·.targetRtt))
  let f1 := { f with srtt := srtt, rto := max (4 * srtt) 30000 }
  if sample ≤ target then
    let n := f1.ackedInWindow + ackedNow
    if f1.window ≤ n then { f1 with window := min 256 (f1.window + 1), ackedInWindow := 0 } else { f1 with ackedInWindow := n }
  else if srtt ≤ (flowLnk s fid - f1.shrunkAt).toNat then
    { f1 with window := max 8 (f1.window * 7 / 8), shrunkAt := flowLnk s fid }
  else f1

/-- The acknowledgement fields of a received frame taken in: tx_una, sack, RTT, window, fast retransmit. -/
def takeAck (s : State) (fid : Nat) (x : TFrame) : State :=
  match flowAt s fid with
  | none => s
  | some f =>
    let covered (y : SentFrame) : Bool := psnBefore y.frame.psn x.ackPsn ||
      (psnBefore x.ackPsn y.frame.psn && decide ((y.frame.psn + 2 ^ 32 - x.ackPsn - 1) % 2 ^ 32 < 64)
        && natBit x.sack ((y.frame.psn + 2 ^ 32 - x.ackPsn - 1) % 2 ^ 32))
    let fresh := f.sent.filter (fun y => !y.acked && covered y)
    let advanced := psnBefore f.txUna x.ackPsn
    let sent1 := (f.sent.map (fun y => if covered y then { y with acked := true } else y)).filter
      (fun y => !psnBefore y.frame.psn x.ackPsn)
    let f1 := { f with
      sent := sent1, txUna := if advanced then x.ackPsn else f.txUna, lastAck := aonNow s,
      retxRun := if advanced then 0 else f.retxRun,
      rto := if advanced ∧ f.srtt ≠ 0 then max (4 * f.srtt) 30000 else f.rto }
    let f2 := if fresh.isEmpty ∨ fresh.any (·.resent) then f1
      else takeSample s fid f1 (((flowLnk s fid).toNat + 2 ^ 32 - x.tsEcho) % 2 ^ 32) fresh.length
    let s1 := modFlow s fid (fun _ => f2)
    let lost := sent1.filter (fun y => !y.acked &&
      decide (3 ≤ (sent1.filter (fun z => z.acked && psnBefore y.frame.psn z.frame.psn)).length) &&
      (match y.fastAt with | none => true | some t => decide (f2.srtt ≤ (flowLnk s fid - t).toNat)))
    let s2 := lost.foldl (fun t y =>
      modFlow (resendPsn t fid y.frame.psn) fid (fun g => { g with
        sent := g.sent.map (fun z => if z.frame.psn == y.frame.psn then { z with fastAt := some (flowLnk s fid) } else z) })) s1
    pump s2 fid

/-! ### Laggard records (R348, R358, R359) -/

/-- A laggard record (Table 11-13) to the PF0 ring and a queue's ring, at most 16 per partition and step. -/
def laggard (s : State) (p q tag peer cause plane lagPm n seq wait total : Nat) : State :=
  let j := jobAt s p
  let eng := tag % 4
  if 16 ≤ (j.map (·.lagRecords)).getD 0 then
    modColl s eng (fun c => { c with lagSuppressed := c.lagSuppressed + 1 })
  else
    let body := natToBytes 8 (logStep s p) ++ natToBytes 2 tag ++ natToBytes 2 peer ++ natToBytes 1 cause
      ++ natToBytes 1 plane ++ natToBytes 2 lagPm ++ natToBytes 4 n ++ natToBytes 4 seq ++ natToBytes 8 wait
      ++ natToBytes 8 total ++ zeros 8
    let s1 := telemetryQueue (telemetryPf0 s 0x05 body) q 0x05 body
    modColl (modJob s1 p (fun y => { y with lagRecords := y.lagRecords + 1 })) eng
      (fun c => { c with lagRecords := c.lagRecords + 1 })

end Sys2Proof.Machine
end

