-- ==== Sys2Proof/Machine/Bounds.lean ====
section
/-! DEFINITION. The exact values of the functions of Tables 2-6 and 2-7 in fixed point, and the FP32 results that their error
bounds admit (R67, R68). A fixed-point value is an integer number of units of 2^−400; a final value is rounded to a multiple of
2^−300, so that a value which FP32 holds exactly comes out exactly. Which admitted result the A1 function reference returns
is free (R505). -/

namespace Sys2Proof.Machine

/-! ### Fixed point -/

/-- The value 1. -/
def fxOne : Int := 2 ^ 400

/-- Product. -/
def fxMul (a b : Int) : Int := a * b / fxOne

/-- Quotient. -/
def fxDiv (a b : Int) : Int := a * fxOne / b

/-- Square root of a value that is not negative. -/
def fxSqrt (a : Int) : Int :=
  let x := (a * fxOne).toNat
  (isqrt x (bitLen x / 2 + 1) 0 : Nat)

/-- A value rounded to a multiple of 2^−300. -/
def fxRound (a : Int) : Int := (a + 2 ^ 99) / 2 ^ 100 * 2 ^ 100

/-- A value held within [−b, b], b an integer. -/
def fxClamp (b : Nat) (a : Int) : Int := max (-(b * fxOne)) (min (b * fxOne) a)

/-- The value m · 2^e of a finite FP32 number. -/
def fxOf (neg : Bool) (m : Nat) (e : Int) : Int :=
  let v : Int := if 0 ≤ e + 400 then (m : Int) * 2 ^ (e + 400).toNat else (m : Int) / 2 ^ (-(e + 400)).toNat
  if neg then -v else v

/-- Σ over n of the terms t_n · 1/(2n + 1), where t_{n+1} = t_n · z: `k` terms from n on. -/
def fxArcSum (z : Int) : Nat → Nat → Int → Int
  | 0, _, _ => 0
  | k + 1, n, t => t / (2 * n + 1 : Nat) + fxArcSum z k (n + 1) (fxMul t z)

/-- artanh z for |z| ≤ 1/3. -/
def fxArtanh (z : Int) : Int := fxArcSum (fxMul z z) 140 0 z

/-- arctan 1/n. -/
def fxArctanInv (n : Nat) : Int := let z := fxOne / n; fxArcSum (-(fxMul z z)) 140 0 z

/-- The natural logarithm of 2. -/
def fxLn2 : Int := 2 * fxArtanh (fxOne / 3)

/-- π, by Machin's formula. -/
def fxPi : Int := 16 * fxArctanInv 5 - 4 * fxArctanInv 239

/-- Σ of t_n, where t_{n+1} = t_n · z / ((a·n + 1)(a·n + 2)…): with `two` the divisor is (2n + 1 + s)(2n + 2 + s), else n + 1. -/
def fxPowSum (z : Int) (two : Bool) (s : Nat) : Nat → Nat → Int → Int
  | 0, _, _ => 0
  | k + 1, n, t =>
    t + fxPowSum z two s k (n + 1) (fxMul t z / (if two then (2 * n + 1 + s) * (2 * n + 2 + s) else n + 1 : Nat))

/-- e^x for |x| ≤ 1000. -/
def fxExp (x : Int) : Int :=
  let y := fxClamp 1000 x
  let k := y / fxLn2
  let v := fxPowSum (y - k * fxLn2) false 0 90 0 fxOne
  if 0 ≤ k then v * 2 ^ k.toNat else v / 2 ^ (-k).toNat

/-- The natural logarithm of m · 2^e, m not zero. -/
def fxLn (m : Nat) (e : Int) : Int :=
  let b := bitLen m
  let y := fxOf false m (-(b : Int))
  fxLn2 * (e + b) + 2 * fxArtanh (fxDiv (y - fxOne) (y + fxOne))

/-- The sigmoid 1 / (1 + e^−x). -/
def fxSigmoid (x : Int) : Int := fxDiv fxOne (fxOne + fxExp (-(fxClamp 170 x)))

/-- erf x, for |x| up to b; beyond it the value at b. -/
def fxErf (b : Nat) (x : Int) : Int :=
  let y := fxClamp b x
  let z := -(fxMul y y)
  let s := (List.range 650).foldl (fun (acc : Int × Int) n => (acc.1 + acc.2 / (2 * n + 1 : Nat), fxMul acc.2 z / (n + 1 : Nat))) (0, y)
  fxDiv (2 * s.1) (fxSqrt fxPi)

/-- sin x (`cosine` false) or cos x. -/
def fxSin (cosine : Bool) (x : Int) : Int :=
  let r := x - x / (2 * fxPi) * (2 * fxPi) - fxPi
  let z := -(fxMul r r)
  if cosine then -(fxPowSum z true 0 130 0 fxOne) else -(fxPowSum z true 1 130 0 r)

/-! ### Results within a bound (R67) -/

/-- The rank of the largest FP32 number not above a value that is not negative; that of +Inf counts as 2^128. -/
def floorRank (v : Nat) : Int :=
  if v < 2 ^ 274 then (v / 2 ^ 251 : Nat)
  else
    let e := bitLen v - 1
    min 0x7F800000 ((e - 274) * 2 ^ 23 + v / 2 ^ (e - 23) : Nat)

/-- The rank of the least FP32 number not below a value that is not negative. -/
def ceilRank (v : Nat) : Int :=
  let r := floorRank v
  let exact := if v < 2 ^ 274 then v % 2 ^ 251 = 0 else v % 2 ^ (bitLen v - 24) = 0
  if exact ∨ r = 0x7F800000 then r else r + 1

/-- The FP32 number of a rank: negative ranks are negative numbers; zero is −0 where `neg` says so. -/
def ofRank (neg : Bool) (r : Int) : Word32 :=
  if r < 0 then BitVec.ofNat 32 (2 ^ 31 + (-r).toNat) else if r = 0 ∧ neg then BitVec.ofNat 32 (2 ^ 31) else BitVec.ofNat 32 r.toNat

/-- One ulp of an exact value: 2^(max(e_y, −126) − 23). -/
def fxUlp (y : Int) : Int := 2 ^ (max (bitLen y.natAbs - 1) 274 - 23)

/-- The FP32 result that `pick` selects among those within `ulps` ulp of y, or within `absTol` where that is larger. (DESIGN CHOICE, log entry 19) -/
def withinBound (y : Int) (ulps : Nat) (absTol : Int) (pick : Word32) : Word32 :=
  let tol := max (ulps * fxUlp y) absTol
  let lo : Int := if 0 ≤ y - tol then ceilRank (y - tol).toNat else -(floorRank (tol - y).toNat)
  let hi : Int := if 0 ≤ y + tol then floorRank (y + tol).toNat else -(ceilRank (-(y + tol)).toNat)
  let n := (hi - lo + 1).toNat
  ofRank (pick.getLsbD 31) (lo + (pick.toNat % max 1 n : Nat))

/-! ### The functions of Table 2-6 -/

/-- A positive value that fixed point may have lost is at least one unit. -/
def fxPos (a : Int) : Int := max (2 ^ 100) (fxRound a)

/-- The exact result of a vector function for a finite operand inside its domain: op of Table 4-7. -/
def fnExact (op : Nat) (neg : Bool) (m : Nat) (e : Int) : Int :=
  let x := fxOf neg m e
  match op with
  | 0x09 => fxRound (if x = 0 then 0 else fxDiv fxOne x)
  | 0x0A => fxRound (if x = 0 then 0 else fxSqrt (fxDiv fxOne x))
  | 0x0B => fxPos (fxExp x)
  | 0x0C => fxPos (fxExp (fxMul (fxClamp 1000 x) fxLn2))
  | 0x0D => fxRound (fxLn m e)
  | 0x0E => fxRound (fxDiv (fxLn m e) fxLn2)
  | 0x0F => fxRound (2 * fxSigmoid (2 * x) - fxOne)
  | 0x10 => fxPos (fxSigmoid x)
  | 0x11 => fxRound (fxErf 8 x)
  | 0x12 => fxRound (fxSin false x)
  | _ => fxRound (fxSin true x)

/-- The bound of a vector function in ulp, with its absolute term (Table 2-6). -/
def fnBound (op : Nat) : Nat × Int :=
  if op < 0x0F then (1, 0) else if op < 0x12 then (2, 0) else (2, 2 ^ 376)

/-! ### The functions of Table 2-7 -/

/-- The distribution function Φ. -/
def fxPhi (x : Int) : Int := (fxOne + fxErf 12 (fxDiv x (fxSqrt (2 * fxOne)))) / 2

/-- The argument √(2/π)(x + 0.044715 x³) of the tanh form of GELU. -/
def fxGeluArg (x : Int) : Int :=
  fxMul (fxSqrt (fxDiv (2 * fxOne) fxPi)) (x + fxMul x (fxMul x x) * 44715 / 1000000)

/-- f(x) of Table 2-7 for function codes 3 to 7; a negative result that fixed point loses is at most one unit below zero. -/
def drainExact (f : Nat) (x : Int) : Int :=
  let below (v : Int) : Int := if x < 0 then min (-(2 ^ 100)) (fxRound v) else fxRound v
  let c := max (-(40 * fxOne)) x
  let d := max (-(170 * fxOne)) x
  match f with
  | 3 => below (fxMul c (fxPhi c))
  | 4 => below (fxMul c (fxSigmoid (2 * fxGeluArg c)))
  | 5 => below (fxMul d (fxSigmoid d))
  | 6 => fxPos (fxSigmoid x)
  | _ => fxRound (2 * fxSigmoid (2 * x) - fxOne)

/-- f′(x) of Table 2-7 for function codes 3 to 7. -/
def derivExact (f : Nat) (x : Int) : Int :=
  let spread (v : Int) : Int := let s := fxSigmoid v; fxMul s (fxSigmoid (-v))
  match f with
  | 3 =>
    let c := fxClamp 40 x
    fxRound (fxPhi x + fxDiv (fxMul c (fxExp (-(fxMul c c) / 2))) (fxSqrt (2 * fxPi)))
  | 4 =>
    let c := fxClamp 40 x
    let u := 2 * fxGeluArg c
    let du := 2 * fxMul (fxSqrt (fxDiv (2 * fxOne) fxPi)) (fxOne + 3 * fxMul c c * 44715 / 1000000)
    fxRound (fxSigmoid u + fxMul (fxMul c (spread u)) du)
  | 5 =>
    let c := fxClamp 170 x
    let s := fxSigmoid c
    fxRound (fxMul s (fxOne + fxMul c (fxSigmoid (-c))))
  | 6 => fxPos (spread x)
  | _ => fxPos (4 * spread (2 * x))

/-- The bound of f or f′ (Table 2-7). -/
def drainBound (f : Nat) (deriv : Bool) : Nat × Int :=
  if deriv then (if f = 3 ∨ f = 4 then (4, 2 ^ 378) else if f = 5 then (3, 2 ^ 378) else (2, 0)) else (2, 0)

end Sys2Proof.Machine
end

