-- ==== Sys2Proof/Machine/Scalar.lean ====
section
/-! DEFINITION. The sequencer: RV32IMC with Zicsr (R116 to R120), and which words the extension lists (R121, Table 4-2). -/

namespace Sys2Proof.Machine

/-! ### RV32C expanded to RV32I words -/

/-- An I-type word. -/
def iWord (imm rs1 f3 rd opc : Nat) : Nat := imm % 4096 * 2 ^ 20 + rs1 * 2 ^ 15 + f3 * 2 ^ 12 + rd * 2 ^ 7 + opc
/-- An S-type word. -/
def sWord (imm rs2 rs1 f3 opc : Nat) : Nat :=
  natField imm 5 7 * 2 ^ 25 + rs2 * 2 ^ 20 + rs1 * 2 ^ 15 + f3 * 2 ^ 12 + natField imm 0 5 * 2 ^ 7 + opc
/-- A B-type word; `imm` is a 13-bit two's-complement offset. -/
def bWord (imm rs2 rs1 f3 : Nat) : Nat :=
  natField imm 12 1 * 2 ^ 31 + natField imm 5 6 * 2 ^ 25 + rs2 * 2 ^ 20 + rs1 * 2 ^ 15 + f3 * 2 ^ 12
    + natField imm 1 4 * 2 ^ 8 + natField imm 11 1 * 2 ^ 7 + 0x63
/-- A J-type word; `imm` is a 21-bit two's-complement offset. -/
def jWord (imm rd : Nat) : Nat :=
  natField imm 20 1 * 2 ^ 31 + natField imm 1 10 * 2 ^ 21 + natField imm 11 1 * 2 ^ 20 + natField imm 12 8 * 2 ^ 12
    + rd * 2 ^ 7 + 0x6F
/-- An R-type word of opcode OP. -/
def opWord (f7 rs2 rs1 f3 rd : Nat) : Nat := f7 * 2 ^ 25 + rs2 * 2 ^ 20 + rs1 * 2 ^ 15 + f3 * 2 ^ 12 + rd * 2 ^ 7 + 0x33

/-- The low `w` bits sign-extended to 32 bits, as a number. -/
def sext32 (w x : Nat) : Nat := intToNat 32 (natToInt w x)

/-- The CJ-format offset. -/
def cjOffset (c : Nat) : Nat :=
  sext32 12 (natField c 12 1 * 2 ^ 11 + natField c 11 1 * 2 ^ 4 + natField c 9 2 * 2 ^ 8 + natField c 8 1 * 2 ^ 10
    + natField c 7 1 * 2 ^ 6 + natField c 6 1 * 2 ^ 7 + natField c 3 3 * 2 + natField c 2 1 * 2 ^ 5)

/-- The CB-format branch offset. -/
def cbOffset (c : Nat) : Nat :=
  sext32 9 (natField c 12 1 * 2 ^ 8 + natField c 10 2 * 2 ^ 3 + natField c 5 2 * 2 ^ 6 + natField c 3 2 * 2
    + natField c 2 1 * 2 ^ 5)

/-- The RV32I word of an RV32C parcel; none where RV32C reserves the parcel, or F or D would be needed (R121).
C.EBREAK is not among them: it is the EBREAK row's. -/
def expandC (c : Nat) : Option Nat :=
  let f3 := natField c 13 3
  let rdp := 8 + natField c 2 3
  let rs1p := 8 + natField c 7 3
  let rd := natField c 7 5
  let rs2 := natField c 2 5
  let imm6 := sext32 6 (natField c 12 1 * 32 + natField c 2 5)
  match c % 4, f3 with
  | 0, 0 =>
    let u := natField c 11 2 * 16 + natField c 7 4 * 64 + natField c 6 1 * 4 + natField c 5 1 * 8
    if u = 0 then none else some (iWord u 2 0 rdp 0x13)
  | 0, 2 => some (iWord (natField c 10 3 * 8 + natField c 6 1 * 4 + natField c 5 1 * 64) rs1p 2 rdp 0x03)
  | 0, 6 => some (sWord (natField c 10 3 * 8 + natField c 6 1 * 4 + natField c 5 1 * 64) rdp rs1p 2 0x23)
  | 1, 0 => some (iWord imm6 rd 0 rd 0x13)
  | 1, 1 => some (jWord (cjOffset c) 1)
  | 1, 2 => some (iWord imm6 0 0 rd 0x13)
  | 1, 3 =>
    if rd = 2 then
      let v := sext32 10 (natField c 12 1 * 2 ^ 9 + natField c 6 1 * 16 + natField c 5 1 * 64 + natField c 3 2 * 128
        + natField c 2 1 * 32)
      if v = 0 then none else some (iWord v 2 0 2 0x13)
    else if imm6 = 0 then none
    else some ((imm6 % 2 ^ 20) * 2 ^ 12 + rd * 2 ^ 7 + 0x37)
  | 1, 4 =>
    match natField c 10 2 with
    | 0 => if natBit c 12 then none else some (iWord (natField c 2 5) rs1p 5 rs1p 0x13)
    | 1 => if natBit c 12 then none else some (iWord (0x400 + natField c 2 5) rs1p 5 rs1p 0x13)
    | 2 => some (iWord imm6 rs1p 7 rs1p 0x13)
    | _ =>
      if natBit c 12 then none
      else
        match natField c 5 2 with
        | 0 => some (opWord 0x20 rdp rs1p 0 rs1p)
        | 1 => some (opWord 0 rdp rs1p 4 rs1p)
        | 2 => some (opWord 0 rdp rs1p 6 rs1p)
        | _ => some (opWord 0 rdp rs1p 7 rs1p)
  | 1, 5 => some (jWord (cjOffset c) 0)
  | 1, 6 => some (bWord (cbOffset c) 0 rs1p 0)
  | 1, 7 => some (bWord (cbOffset c) 0 rs1p 1)
  | 2, 0 => if natBit c 12 then none else some (iWord (natField c 2 5) rd 1 rd 0x13)
  | 2, 2 =>
    if rd = 0 then none
    else some (iWord (natField c 12 1 * 32 + natField c 4 3 * 4 + natField c 2 2 * 64) 2 2 rd 0x03)
  | 2, 4 =>
    if natBit c 12 then
      (if rs2 = 0 then (if rd = 0 then none else some (iWord 0 rd 0 1 0x67)) else some (opWord 0 rs2 rd 0 rd))
    else if rs2 = 0 then (if rd = 0 then none else some (iWord 0 rd 0 0 0x67))
    else some (opWord 0 rs2 0 0 rd)
  | 2, 6 => some (sWord (natField c 9 4 * 4 + natField c 7 2 * 64) rs2 2 2 0x23)
  | _, _ => none

/-! ### Which words the extension and Zicsr list -/

/-- Does Table 4-7 list the operation for the element type and mod? (DEDUCED, log entry 17) -/
def vecListed (ety md op rd rs2 : Nat) : Bool :=
  let isF := decide (ety < 3)
  let sat := natBit md 0
  let u := natBit md 1
  if op ≤ 4 ∨ op = 7 ∨ op = 0x16 then !isF || md == 0
  else if op ≤ 6 ∨ op = 8 ∨ op = 0x17 ∨ op = 0x18 then if isF then md == 0 else !sat
  else if op ≤ 0x0E then md == 0
  else if op ≤ 0x13 ∨ op = 0x19 then isF && md == 0
  else if op ≤ 0x15 then if isF then md == 0 else !u
  else if op = 0x1A then decide (rd < 4)
  else if op = 0x1B then true
  else if op ≤ 0x1D then rs2 == 0
  else md == 0

/-- Is the word a listed instruction of the extension, with every zero field zero (R121)? (DEDUCED, log entry 17) -/
def lxListed (w : Nat) : Bool :=
  let f7 := natField w 25 7
  let rs2 := natField w 20 5
  let rs1 := natField w 15 5
  let f3 := natField w 12 3
  let rd := natField w 7 5
  match natField w 0 7 with
  | 0x0B =>
    if f3 ≤ 5 then !natBit w 25
    else if f3 = 6 then decide (f7 ≤ 3) && rd == 0 && (f7 != 0 || rs2 == 0)
    else rd == 0 && rs2 == 0 && (f7 == 0 || (f7 == 1 && rs1 == 0))
  | 0x2B =>
    if f3 ≤ 5 then vecListed f3 (natField w 30 2) (natField w 25 5) rd rs2
    else if f3 = 6 then
      !natBit w 24 && (!natBit w 30 || natField w 25 4 == 3 || natField w 25 4 == 4) && !natBit w 29
    else
      natField w 30 2 != 3 && decide (natField w 25 5 ≤ 4) && (natField w 25 5 != 2 || rs2 == 0)
  | 0x5B =>
    match f3 with
    | 0 => (f7 == 0 && rs2 == 0) || (f7 == 1 && rd == 0 && rs2 == 0) || (f7 == 2 && rd == 0 && rs1 == 0 && rs2 == 0)
    | 1 => (decide (f7 ≤ 1 ∧ rs2 < 8) && rd == 0 && rs1 == 0) || (f7 == 2 && rd == 0 && rs2 == 0)
    | 2 =>
      if f7 ≤ 3 then decide (rd < 4 ∧ rs1 < 4 ∧ rs2 < 4)
      else if f7 = 4 then decide (rd < 4 ∧ rs1 < 4 ∧ rs2 = 0)
      else if f7 ≤ 7 ∨ f7 = 0x0A then decide (rs1 < 4 ∧ rs2 = 0)
      else if f7 ≤ 9 then decide (rd < 4 ∧ rs2 = 0)
      else false
    | 3 => (f7 == 0 && rs2 == 0) || (f7 == 1 && rs1 == 0 && rs2 == 0)
    | _ => false
  | _ => false

/-- Is the word another row's: ECALL, EBREAK, a Zicsr instruction or a listed instruction of the extension? (DEDUCED, log entry 17) -/
def otherRow (w len : Nat) : Bool :=
  if len = 2 then w == 0x9002
  else
    w == 0x73 || w == 0x100073 || (natField w 0 7 == 0x73 && natField w 12 2 != 0) || lxListed w

/-! ### Arithmetic of RV32IM -/

/-- OP and OP-IMM of RV32I: funct3, whether the alternate form (SUB, SRA) is selected, operands. -/
def aluOp (f3 : Nat) (alt : Bool) (a b : Word32) : Word32 :=
  match f3 with
  | 0 => if alt then a - b else a + b
  | 1 => a <<< (b.toNat % 32)
  | 2 => if a.toInt < b.toInt then 1 else 0
  | 3 => if a.toNat < b.toNat then 1 else 0
  | 4 => a ^^^ b
  | 5 => if alt then a.sshiftRight (b.toNat % 32) else a >>> (b.toNat % 32)
  | 6 => a ||| b
  | _ => a &&& b

/-- The M extension: funct3 and operands. -/
def mulOp (f3 : Nat) (a b : Word32) : Word32 :=
  match f3 with
  | 0 => a * b
  | 1 => BitVec.ofInt 32 (a.toInt * b.toInt / 2 ^ 32)
  | 2 => BitVec.ofInt 32 (a.toInt * (b.toNat : Int) / 2 ^ 32)
  | 3 => BitVec.ofNat 32 (a.toNat * b.toNat / 2 ^ 32)
  | 4 =>
    if b = 0 then BitVec.allOnes 32
    else BitVec.ofInt 32 (a.toInt.tdiv b.toInt)
  | 5 => if b = 0 then BitVec.allOnes 32 else a / b
  | 6 => if b = 0 then a else BitVec.ofInt 32 (a.toInt.tmod b.toInt)
  | _ => if b = 0 then a else a % b

/-- Is a branch taken? -/
def branchTaken (f3 : Nat) (a b : Word32) : Bool :=
  match f3 with
  | 0 => a == b
  | 1 => a != b
  | 4 => decide (a.toInt < b.toInt)
  | 5 => decide (b.toInt ≤ a.toInt)
  | 6 => decide (a.toNat < b.toNat)
  | _ => decide (b.toNat ≤ a.toNat)

/-- The effect of a 32-bit RV32IM word (R116). `pc` is its own pc and `next` the pc after it. -/
def execWord (s : State) (k : Nat) (w : Nat) (next : Word32) : Issue :=
  let c := coreAt s k
  let rd := BitVec.ofNat 5 (natField w 7 5)
  let a := getX c (BitVec.ofNat 5 (natField w 15 5))
  let b := getX c (BitVec.ofNat 5 (natField w 20 5))
  let f3 := natField w 12 3
  let f7 := natField w 25 7
  let immI := BitVec.ofNat 32 (sext32 12 (natField w 20 12))
  let pc := c.regs.pc
  match natField w 0 7 with
  | 0x37 => onCore s k (fun x => setX x rd (BitVec.ofNat 32 (natField w 12 20 * 4096))) next
  | 0x17 => onCore s k (fun x => setX x rd (pc + BitVec.ofNat 32 (natField w 12 20 * 4096))) next
  | 0x6F =>
    let off := sext32 21 (natField w 31 1 * 2 ^ 20 + natField w 12 8 * 2 ^ 12 + natField w 20 1 * 2 ^ 11 + natField w 21 10 * 2)
    onCore s k (fun x => setX x rd next) (pc + BitVec.ofNat 32 off)
  | 0x67 =>
    if f3 = 0 then onCore s k (fun x => setX x rd next) ((a + immI) &&& 0xFFFFFFFE) else .stop 1 0
  | 0x63 =>
    if f3 = 2 ∨ f3 = 3 then .stop 1 0
    else
      let off := sext32 13 (natField w 31 1 * 2 ^ 12 + natField w 7 1 * 2 ^ 11 + natField w 25 6 * 2 ^ 5 + natField w 8 4 * 2)
      onCore s k id (if branchTaken f3 a b then pc + BitVec.ofNat 32 off else next)
  | 0x03 =>
    let addr := (a + immI).toNat
    let n := if f3 % 4 = 0 then 1 else if f3 % 4 = 1 then 2 else 4
    if f3 = 3 ∨ f3 ≥ 6 then .stop 1 0
    else
      match loadFault c addr n with
      | some cause => .stop cause addr
      | none =>
        if loadHeld s k [(addr, n)] then .hold
        else
          let v := windowRead s k addr n
          onCore s k (fun x => setX x rd (BitVec.ofNat 32 (if f3 < 3 then sext32 (8 * n) v else v))) next
  | 0x23 =>
    let addr := (a + BitVec.ofNat 32 (sext32 12 (natField w 25 7 * 32 + natField w 7 5))).toNat
    if f3 ≥ 3 then .stop 1 0
    else
      let n := 2 ^ f3
      match storeFault c addr n with
      | some cause => .stop cause addr
      | none => if storeHeld s k [(addr, n)] then .hold else .retire (windowWrite s k addr n b.toNat) next
  | 0x13 =>
    if f3 = 1 ∧ f7 ≠ 0 then .stop 1 0
    else if f3 = 5 ∧ f7 ≠ 0 ∧ f7 ≠ 0x20 then .stop 1 0
    else onCore s k (fun x => setX x rd (aluOp f3 (f3 == 5 && f7 == 0x20) a
      (if f3 = 1 ∨ f3 = 5 then BitVec.ofNat 32 (natField w 20 5) else immI))) next
  | 0x33 =>
    if f7 = 1 then onCore s k (fun x => setX x rd (mulOp f3 a b)) next
    else if f7 = 0 then onCore s k (fun x => setX x rd (aluOp f3 false a b)) next
    else if f7 = 0x20 ∧ (f3 = 0 ∨ f3 = 5) then onCore s k (fun x => setX x rd (aluOp f3 true a b)) next
    else .stop 1 0
  | 0x0F => if f3 ≤ 1 then onCore s k id next else .stop 1 0
  | _ => .stop 1 0

/-- RV32IMC_INSTRUCTION (R116): an RV32IMC instruction, or a word that is no instruction at all, which stops the
program. A word that another row names changes nothing. -/
def rv32imc (s : State) (k : Nat) (word : Word32) : State :=
  issue s k word (fun _ next =>
    let w := word.toNat
    let len := if w % 4 = 3 then 4 else 2
    if otherRow w len then .hold
    else if len = 4 then execWord s k w next
    else
      match expandC w with
      | some e => execWord s k e next
      | none => .stop 1 0)

/-- Meaning of RV32IMC_INSTRUCTION. -/
def execRv32imcInstruction (core : CoreId) (word : Word32) (s : State) : Out := .next (rv32imc s core.toNat word)

/-! ### CSRs (R120, Table 4-1) -/

/-- The value of a sequencer CSR; none where it does not exist. -/
def csrRead (s : State) (k csr : Nat) : Option Word32 :=
  let c := coreAt s k
  let lo (x : Word64) : Word32 := x.setWidth 32
  let hi (x : Word64) : Word32 := (x >>> 32).setWidth 32
  let n (x : Nat) : Word32 := BitVec.ofNat 32 x
  match csr with
  | 0x300 => some 0
  | 0x304 => some 0
  | 0x305 => some 0
  | 0xC00 => some (lo (arrNow s (coreDie k) - c.startCycle))
  | 0xC80 => some (hi (arrNow s (coreDie k) - c.startCycle))
  | 0xC02 => some (lo c.instret)
  | 0xC82 => some (hi c.instret)
  | 0xF14 => some (n k)
  | 0xFC0 => some (n c.regs.vl)
  | 0xFC1 => some (n (c.job.queue % 4096 + c.job.partition % 16 * 4096))
  | 0xFC2 => some (n c.job.rank)
  | 0xFC3 => some (n c.job.nranks)
  | 0xFC4 => some (n c.job.shareBase)
  | 0xFC5 => some (n c.job.shareSize)
  | 0xFC6 => some (n c.job.textBase)
  | 0xFC7 => some (n c.job.textSize)
  | 0xFC8 => some c.dmaTag
  | 0xFC9 => some c.dmaDone
  | 0xFCA => some (c.engine.lastTicket)
  | 0xFCB => some (c.engine.doneTicket)
  | 0xFCC => some c.job.args[0]
  | 0xFCD => some c.job.args[1]
  | 0xFCE => some c.job.args[2]
  | 0xFCF => some c.job.args[3]
  | 0x7C0 => some c.regs.rngStream
  | 0x7C1 => some c.regs.rngOp
  | 0x7C2 => some (lo c.regs.rngIdx)
  | 0x7C3 => some (hi c.regs.rngIdx)
  | _ => none

/-- The registers of a core with a CSR written. -/
def csrWrite (r : CoreRegs) (csr : Nat) (v : Word32) : CoreRegs :=
  match csr with
  | 0x7C0 => { r with rngStream := v }
  | 0x7C1 => { r with rngOp := v }
  | 0x7C2 => { r with rngIdx := (r.rngIdx >>> 32).setWidth 32 ++ v }
  | 0x7C3 => { r with rngIdx := v ++ r.rngIdx.setWidth 32 }
  | _ => r

/-- May the CSR be written (Table 4-1)? A read-only CSR may not. -/
def csrWritable (csr : Nat) : Bool :=
  csr == 0x300 || csr == 0x304 || csr == 0x305 || (decide (0x7C0 ≤ csr ∧ csr ≤ 0x7C3))

/-- ZICSR_ACCESS (R120). CSRRS and CSRRC with rs1 field 0 do not write; a stream of kind 3 may not be set (R287). (DEDUCED, log entry 18) -/
def zicsr (s : State) (k f3 csr : Nat) (rs1 rd : BitVec 5) : State :=
  issue s k (BitVec.ofNat 32 (csr * 2 ^ 20 + rs1.toNat * 2 ^ 15 + f3 * 2 ^ 12 + rd.toNat * 2 ^ 7 + 0x73)) (fun c next =>
    if f3 % 4 = 0 then .hold
    else
      match csrRead s k csr with
      | none => .stop 1 0
      | some old =>
        let src := if f3 < 4 then getX c rs1 else BitVec.ofNat 32 rs1.toNat
        let writes := f3 % 4 == 1 || rs1 != 0
        let new := if f3 % 4 = 1 then src else if f3 % 4 = 2 then old ||| src else old &&& ~~~src
        if writes && !csrWritable csr then .stop 1 0
        else if writes && csr == 0x7C0 && natField new.toNat 30 2 == 3 then .stop 3 0
        else onCore s k (fun x => setX (if writes then { x with regs := csrWrite x.regs csr new } else x) rd old) next)

/-- Meaning of ZICSR_ACCESS. -/
def execZicsrAccess (core : CoreId) (funct3 : BitVec 3) (csr : BitVec 12) (rs1 rd : BitVec 5) (s : State) : Out :=
  .next (zicsr s core.toNat funct3.toNat csr.toNat rs1 rd)

/-- Meaning of ECALL: the program stops with cause 8 (R118, Table 4-17). -/
def execEcall (core : CoreId) (s : State) : Out := .next (issue s core.toNat 0x73 (fun _ _ => .stop 8 0))

/-- Meaning of EBREAK and C.EBREAK: the program stops with cause 9 (R118). -/
def execEbreak (core : CoreId) (compressed : Bool) (s : State) : Out :=
  .next (issue s core.toNat (if compressed then 0x9002 else 0x00100073) (fun _ _ => .stop 9 0))

end Sys2Proof.Machine
end

