-- ==== Sys2Proof/Machine/Vector.lean ====
section
/-! DEFINITION. The vector unit: arithmetic, reductions, compares, compress and expand, conversions, memory (R128 to R137, Tables 4-7 to 4-10). -/

namespace Sys2Proof.Machine

/-- Element width in bits of an element type (R130): 0 FP32, 1 BF16, 2 FP16, 3 INT32, 4 INT16, 5 INT8. -/
def etyBits (ety : Nat) : Nat := match ety with | 0 => 32 | 1 => 16 | 2 => 16 | 3 => 32 | 4 => 16 | _ => 8

/-- The floating-point format of an element type below 3. -/
def etyFmt (ety : Nat) : FFmt := match ety with | 0 => fmtFp32 | 1 => fmtBf16 | _ => fmtFp16

/-- VLMAX of an element width (R128). -/
def vlmax (bits : Nat) : Nat := 2048 / bits

/-- Element i of a register image. -/
def elem (v : BitVec 2048) (bits i : Nat) : Nat := natField v.toNat (bits * i) bits

/-- The first `n` elements. -/
def elems (v : BitVec 2048) (bits n : Nat) : List Nat := (List.range n).map (elem v bits)

/-- A register image with elements 0 to n − 1 replaced; the other bits keep (R129). -/
def putElems (v : BitVec 2048) (bits : Nat) (xs : List Nat) : BitVec 2048 :=
  let w := bits * xs.length
  BitVec.ofNat 2048 (v.toNat / 2 ^ w * 2 ^ w + packElems bits xs)

/-! ### Element functions -/

/-- A value flushed where the partition is Eskor-exact (Table 2-9). -/
def flushIf (ek : Bool) (f : FFmt) (v : FVal) : FVal := if ek then flushFmt f v else v

/-- An exact result rounded once to a format; in Eskor-exact mode a subnormal result is flushed. -/
def rndElem (ek : Bool) (f : FFmt) (v : FVal) : Nat :=
  let r := f.rnd v
  if ek then f.rnd (flushFmt f (f.decode r)) else r

/-- The special results of Table 2-6 for a vector function, where the table gives one: op of Table 4-7 and operand. -/
def fnSpecial (op : Nat) (x : Word32) : Option Word32 :=
  let v := f32 x
  let inf (neg : Bool) : Word32 := rne32 (.inf neg)
  match v with
  | .nan => some nanF32
  | .inf neg =>
    match op with
    | 0x09 => some (rne32 (.fin neg 0 0))
    | 0x0A => if neg then some nanF32 else none
    | 0x0B => if neg then some 0 else some (inf false)
    | 0x0C => if neg then some 0 else some (inf false)
    | 0x0D => if neg then some nanF32 else none
    | 0x0E => if neg then some nanF32 else none
    | 0x0F => some (rne32 (.fin neg 1 0))
    | 0x10 => if neg then some 0 else some (rne32 (.fin false 1 0))
    | 0x11 => some (rne32 (.fin neg 1 0))
    | 0x12 => some nanF32
    | 0x13 => some nanF32
    | _ => none
  | .fin neg m e =>
    match op with
    | 0x09 => if m = 0 then some (inf neg) else none
    | 0x0A => if m = 0 then some (inf neg) else if neg then some nanF32 else none
    | 0x0C => if !neg && !(v.lt (.fin false 128 0)) then some (inf false) else none
    | 0x0D => if m = 0 then some (inf true) else if neg then some nanF32 else none
    | 0x0E => if m = 0 then some (inf true) else if neg then some nanF32 else none
    | 0x12 => if (FVal.fin false 65536 0).lt (.fin false m e) then some nanF32 else none
    | 0x13 => if (FVal.fin false 65536 0).lt (.fin false m e) then some nanF32 else none
    | _ => none

/-- A vector function of Table 2-6 on FP32: its special results; else the result that the A1 function reference returns, one of
those within the table's bound (R67, R505). -/
def vecFn (op : Nat) (x : Word32) : Word32 :=
  match fnSpecial op x, f32 x with
  | some y, _ => y
  | none, .fin neg m e =>
    let y := fnExact op neg m e
    if op = 0x0B ∧ 2 ^ 528 ≤ y then rne32 (.inf false) else withinBound y (fnBound op).1 (fnBound op).2 (Config.vecFn op x)
  | none, _ => Config.vecFn op x

/-- A function of Table 2-6 on an element: the FP32 result rounded once to the type (R130). -/
def fnElem (ek : Bool) (op : Nat) (f : FFmt) (x : Nat) : Nat :=
  let v := flushIf ek f (f.decode x)
  let y := if ek then (if v.isNan then nanF32 else flush32 (Config.eskorVecFn op (rne32 v))) else vecFn op (rne32 v)
  rndElem ek f (f32 y)

/-- A floating-point operation of Table 4-7 on elements a (vs1), b (vs2) and d (the old vd). -/
def fltElem (ek : Bool) (op : Nat) (f : FFmt) (a b d : Nat) : Nat :=
  let va := flushIf ek f (f.decode a)
  let vb := flushIf ek f (f.decode b)
  let vd := flushIf ek f (f.decode d)
  match op with
  | 0x00 => rndElem ek f (va.add vb)
  | 0x01 => rndElem ek f (va.add vb.neg)
  | 0x02 => rndElem ek f (va.mul vb)
  | 0x03 => rndElem ek f ((va.mul vb).add vd)
  | 0x04 => rndElem ek f ((va.mul vb).neg.add vd)
  | 0x05 => rndElem ek f (va.min vb)
  | 0x06 => rndElem ek f (va.max vb)
  | 0x07 => rndElem ek f (va.div vb)
  | 0x08 => rndElem ek f va.sqrt
  | 0x14 => rndElem ek f va.abs
  | 0x15 => rndElem ek f va.neg
  | _ => fnElem ek op f a

/-- An integer result of width w: wrapped, or clamped with .sat (Table 4-8). -/
def intResult (w : Nat) (sat u : Bool) (x : Int) : Nat :=
  if sat then
    (if u then intToNat w (clampInt 0 ((2 ^ w : Nat) - 1) x)
     else intToNat w (clampInt (-(2 ^ (w - 1) : Nat)) ((2 ^ (w - 1) : Nat) - 1) x))
  else intToNat w x

/-- An integer operation of Table 4-7 on elements a (vs1), b (vs2) and d (the old vd). -/
def intElem (op w : Nat) (sat u : Bool) (a b d : Nat) : Nat :=
  let val (x : Nat) : Int := if u then (x : Int) else natToInt w x
  let ia := val a
  let ib := val b
  let id' := val d
  match op with
  | 0x00 => intResult w sat u (ia + ib)
  | 0x01 => intResult w sat u (ia - ib)
  | 0x02 => intResult w sat u (ia * ib)
  | 0x03 => intResult w sat u (ia * ib + id')
  | 0x04 => intResult w sat u (id' - ia * ib)
  | 0x05 => if ia ≤ ib then a else b
  | 0x06 => if ia ≤ ib then b else a
  | 0x07 => if b = 0 then 2 ^ w - 1 else intResult w sat u (ia.tdiv ib)
  | 0x08 => if b = 0 then a else intToNat w (ia.tmod ib)
  | 0x09 => Nat.land a b
  | 0x0A => Nat.lor a b
  | 0x0B => Nat.xor a b
  | 0x0C => (a * 2 ^ (b % w)) % 2 ^ w
  | 0x0D => a / 2 ^ (b % w)
  | 0x0E => intToNat w (natToInt w a / (2 ^ (b % w) : Nat))
  | 0x14 => intResult w sat false (if natToInt w a < 0 then -(natToInt w a) else natToInt w a)
  | _ => intResult w sat false (-(natToInt w a))

/-- One element of an element-wise operation. -/
def lane (ek : Bool) (op ety md a b d : Nat) : Nat :=
  if ety < 3 then fltElem ek op (etyFmt ety) a b d
  else intElem op (etyBits ety) (natBit md 0) (natBit md 1) a b d

/-- Element-wise over the first `vl` elements (R129). -/
def laneMap (ek : Bool) (op ety md vl : Nat) (va vb vd : BitVec 2048) : BitVec 2048 :=
  let w := etyBits ety
  putElems vd w ((List.range vl).map (fun i => lane ek op ety md (elem va w i) (elem vb w i) (elem vd w i)))

/-! ### Reductions (R132) -/

/-- Neighbours combined, an odd last element carried over. -/
def pairUp (f : Word32 → Word32 → Word32) : List Word32 → List Word32
  | a :: b :: rest => f a b :: pairUp f rest
  | l => l

/-- The tree of R132: `fuel` levels. -/
def treeReduce (f : Word32 → Word32 → Word32) : Nat → List Word32 → Word32
  | _, [] => 0
  | _, [x] => x
  | 0, x :: _ => x
  | n + 1, l => treeReduce f n (pairUp f l)

/-- The node of a reduction: op 0x16 sum, 0x17 max, 0x18 min. -/
def redNode (ek : Bool) (op ety md : Nat) (a b : Word32) : Word32 :=
  if ety < 3 then
    match op with
    | 0x16 => BitVec.ofNat 32 (fltElem ek 0 fmtFp32 a.toNat b.toNat 0)
    | 0x17 => BitVec.ofNat 32 (fltElem ek 6 fmtFp32 a.toNat b.toNat 0)
    | _ => BitVec.ofNat 32 (fltElem ek 5 fmtFp32 a.toNat b.toNat 0)
  else
    let u := natBit md 1
    match op with
    | 0x16 => BitVec.ofNat 32 (intElem 0 32 (natBit md 0) u a.toNat b.toNat 0)
    | 0x17 => BitVec.ofNat 32 (intElem 6 32 false u a.toNat b.toNat 0)
    | _ => BitVec.ofNat 32 (intElem 5 32 false u a.toNat b.toNat 0)

/-- An element widened to 32 bits: exactly to FP32, or sign- or zero-extended. -/
def widen (ek : Bool) (ety md x : Nat) : Word32 :=
  if ety < 3 then rne32 (flushIf ek (etyFmt ety) ((etyFmt ety).decode x))
  else if natBit md 1 then BitVec.ofNat 32 x
  else BitVec.ofInt 32 (natToInt (etyBits ety) x)

/-- NaN and infinite elements among the first `vl`. -/
def countNonfinite (ety vl : Nat) (v : BitVec 2048) : Nat :=
  ((elems v (etyBits ety) vl).filter (fun x => !((etyFmt ety).decode x).isFinite)).length

/-- The image of vd after a reduction: the result word, and for floating-point types the flag (R132). -/
def reduceImage (ek : Bool) (op ety md vl : Nat) (v d : BitVec 2048) : BitVec 2048 :=
  let r := treeReduce (redNode ek op ety md) 9 ((elems v (etyBits ety) vl).map (widen ek ety md))
  if ety < 3 then putElems d 32 [r.toNat, countNonfinite ety vl v] else putElems d 32 [r.toNat]

/-! ### Issue of vector instructions -/

/-- A custom-1 arithmetic word. -/
def vecWord (ety md op vd vs1 vs2 : Nat) : Word32 := c1Word (md * 32 + op) vs2 vs1 ety vd

/-- The partition of a core's command is Eskor-exact. -/
def coreEskor (s : State) (c : Core) : Bool := eskorExact s c.job.partition

/-- Issue of a vector instruction: an unlisted encoding is illegal (cause 1); a violated condition stops with cause 3;
otherwise the core changes as `f` says. -/
def vecIssue (s : State) (k : Nat) (word : Word32) (ok : Core → Bool) (f : Core → Core) : State :=
  issue s k word (fun c next =>
    if !lxListed word.toNat then .stop 1 0
    else if !ok c then .stop 3 0
    else onCore s k f next)

/-- The VL check of R129 for an element width. -/
def vlOk (bits : Nat) (c : Core) : Bool := decide (c.regs.vl ≤ vlmax bits)

/-- An element-wise vector operation (R130). Rows that name an operation of one kind only are that row's only on that
kind: on the other kind the op code is another row's, and nothing changes. -/
def vecArith (s : State) (k op ety md : Nat) (kind : Bool) (vd vs1 vs2 : BitVec 5) : State :=
  if !kind then s
  else
    vecIssue s k (vecWord ety md op vd.toNat vs1.toNat vs2.toNat) (vlOk (etyBits ety)) (fun c =>
      setV c vd (laneMap (coreEskor s c) op ety md c.regs.vl (getV c vs1) (getV c vs2) (getV c vd)))

/-- Is the element type floating-point? -/
def isFlt (ety : BitVec 3) : Bool := decide (ety.toNat < 3)
/-- Is the element type an integer type? -/
def isInt (ety : BitVec 3) : Bool := decide (3 ≤ ety.toNat ∧ ety.toNat < 6)
/-- Is it an element type at all? -/
def isEty (ety : BitVec 3) : Bool := decide (ety.toNat < 6)

/-- LX_VADD. -/
def execLxVadd (core : CoreId) (ety : BitVec 3) (md : BitVec 2) (vd vs1 vs2 : BitVec 5) (s : State) : Out :=
  .next (vecArith s core.toNat 0x00 ety.toNat md.toNat (isEty ety) vd vs1 vs2)
/-- LX_VSUB. -/
def execLxVsub (core : CoreId) (ety : BitVec 3) (md : BitVec 2) (vd vs1 vs2 : BitVec 5) (s : State) : Out :=
  .next (vecArith s core.toNat 0x01 ety.toNat md.toNat (isEty ety) vd vs1 vs2)
/-- LX_VMUL. -/
def execLxVmul (core : CoreId) (ety : BitVec 3) (md : BitVec 2) (vd vs1 vs2 : BitVec 5) (s : State) : Out :=
  .next (vecArith s core.toNat 0x02 ety.toNat md.toNat (isEty ety) vd vs1 vs2)
/-- LX_VFMA: fma or mac. -/
def execLxVfma (core : CoreId) (ety : BitVec 3) (md : BitVec 2) (vd vs1 vs2 : BitVec 5) (s : State) : Out :=
  .next (vecArith s core.toNat 0x03 ety.toNat md.toNat (isEty ety) vd vs1 vs2)
/-- LX_VFMS: fms or msc. -/
def execLxVfms (core : CoreId) (ety : BitVec 3) (md : BitVec 2) (vd vs1 vs2 : BitVec 5) (s : State) : Out :=
  .next (vecArith s core.toNat 0x04 ety.toNat md.toNat (isEty ety) vd vs1 vs2)
/-- LX_VMIN. -/
def execLxVmin (core : CoreId) (ety : BitVec 3) (md : BitVec 2) (vd vs1 vs2 : BitVec 5) (s : State) : Out :=
  .next (vecArith s core.toNat 0x05 ety.toNat md.toNat (isEty ety) vd vs1 vs2)
/-- LX_VMAX. -/
def execLxVmax (core : CoreId) (ety : BitVec 3) (md : BitVec 2) (vd vs1 vs2 : BitVec 5) (s : State) : Out :=
  .next (vecArith s core.toNat 0x06 ety.toNat md.toNat (isEty ety) vd vs1 vs2)
/-- LX_VDIV. -/
def execLxVdiv (core : CoreId) (ety : BitVec 3) (md : BitVec 2) (vd vs1 vs2 : BitVec 5) (s : State) : Out :=
  .next (vecArith s core.toNat 0x07 ety.toNat md.toNat (isEty ety) vd vs1 vs2)
/-- LX_VSQRT, floating-point types only. -/
def execLxVsqrt (core : CoreId) (ety : BitVec 3) (vd vs1 vs2 : BitVec 5) (s : State) : Out :=
  .next (vecArith s core.toNat 0x08 ety.toNat 0 (isFlt ety) vd vs1 vs2)
/-- LX_VREM, integer types only. -/
def execLxVrem (core : CoreId) (ety : BitVec 3) (md : BitVec 2) (vd vs1 vs2 : BitVec 5) (s : State) : Out :=
  .next (vecArith s core.toNat 0x08 ety.toNat md.toNat (isInt ety) vd vs1 vs2)
/-- LX_VRECIP. -/
def execLxVrecip (core : CoreId) (ety : BitVec 3) (vd vs1 vs2 : BitVec 5) (s : State) : Out :=
  .next (vecArith s core.toNat 0x09 ety.toNat 0 (isFlt ety) vd vs1 vs2)
/-- LX_VRSQRT. -/
def execLxVrsqrt (core : CoreId) (ety : BitVec 3) (vd vs1 vs2 : BitVec 5) (s : State) : Out :=
  .next (vecArith s core.toNat 0x0A ety.toNat 0 (isFlt ety) vd vs1 vs2)
/-- LX_VEXP. -/
def execLxVexp (core : CoreId) (ety : BitVec 3) (vd vs1 vs2 : BitVec 5) (s : State) : Out :=
  .next (vecArith s core.toNat 0x0B ety.toNat 0 (isFlt ety) vd vs1 vs2)
/-- LX_VEXP2. -/
def execLxVexp2 (core : CoreId) (ety : BitVec 3) (vd vs1 vs2 : BitVec 5) (s : State) : Out :=
  .next (vecArith s core.toNat 0x0C ety.toNat 0 (isFlt ety) vd vs1 vs2)
/-- LX_VLOG. -/
def execLxVlog (core : CoreId) (ety : BitVec 3) (vd vs1 vs2 : BitVec 5) (s : State) : Out :=
  .next (vecArith s core.toNat 0x0D ety.toNat 0 (isFlt ety) vd vs1 vs2)
/-- LX_VLOG2. -/
def execLxVlog2 (core : CoreId) (ety : BitVec 3) (vd vs1 vs2 : BitVec 5) (s : State) : Out :=
  .next (vecArith s core.toNat 0x0E ety.toNat 0 (isFlt ety) vd vs1 vs2)
/-- LX_VAND, integer types only. -/
def execLxVand (core : CoreId) (ety : BitVec 3) (vd vs1 vs2 : BitVec 5) (s : State) : Out :=
  .next (vecArith s core.toNat 0x09 ety.toNat 0 (isInt ety) vd vs1 vs2)
/-- LX_VOR. -/
def execLxVor (core : CoreId) (ety : BitVec 3) (vd vs1 vs2 : BitVec 5) (s : State) : Out :=
  .next (vecArith s core.toNat 0x0A ety.toNat 0 (isInt ety) vd vs1 vs2)
/-- LX_VXOR. -/
def execLxVxor (core : CoreId) (ety : BitVec 3) (vd vs1 vs2 : BitVec 5) (s : State) : Out :=
  .next (vecArith s core.toNat 0x0B ety.toNat 0 (isInt ety) vd vs1 vs2)
/-- LX_VSLL. -/
def execLxVsll (core : CoreId) (ety : BitVec 3) (vd vs1 vs2 : BitVec 5) (s : State) : Out :=
  .next (vecArith s core.toNat 0x0C ety.toNat 0 (isInt ety) vd vs1 vs2)
/-- LX_VSRL. -/
def execLxVsrl (core : CoreId) (ety : BitVec 3) (vd vs1 vs2 : BitVec 5) (s : State) : Out :=
  .next (vecArith s core.toNat 0x0D ety.toNat 0 (isInt ety) vd vs1 vs2)
/-- LX_VSRA. -/
def execLxVsra (core : CoreId) (ety : BitVec 3) (vd vs1 vs2 : BitVec 5) (s : State) : Out :=
  .next (vecArith s core.toNat 0x0E ety.toNat 0 (isInt ety) vd vs1 vs2)
/-- LX_VTANH. -/
def execLxVtanh (core : CoreId) (ety : BitVec 3) (vd vs1 vs2 : BitVec 5) (s : State) : Out :=
  .next (vecArith s core.toNat 0x0F ety.toNat 0 (isFlt ety) vd vs1 vs2)
/-- LX_VSIGMOID. -/
def execLxVsigmoid (core : CoreId) (ety : BitVec 3) (vd vs1 vs2 : BitVec 5) (s : State) : Out :=
  .next (vecArith s core.toNat 0x10 ety.toNat 0 (isFlt ety) vd vs1 vs2)
/-- LX_VERF. -/
def execLxVerf (core : CoreId) (ety : BitVec 3) (vd vs1 vs2 : BitVec 5) (s : State) : Out :=
  .next (vecArith s core.toNat 0x11 ety.toNat 0 (isFlt ety) vd vs1 vs2)
/-- LX_VSIN. -/
def execLxVsin (core : CoreId) (ety : BitVec 3) (vd vs1 vs2 : BitVec 5) (s : State) : Out :=
  .next (vecArith s core.toNat 0x12 ety.toNat 0 (isFlt ety) vd vs1 vs2)
/-- LX_VCOS. -/
def execLxVcos (core : CoreId) (ety : BitVec 3) (vd vs1 vs2 : BitVec 5) (s : State) : Out :=
  .next (vecArith s core.toNat 0x13 ety.toNat 0 (isFlt ety) vd vs1 vs2)
/-- LX_VABS. -/
def execLxVabs (core : CoreId) (ety : BitVec 3) (md : BitVec 2) (vd vs1 vs2 : BitVec 5) (s : State) : Out :=
  .next (vecArith s core.toNat 0x14 ety.toNat md.toNat (isEty ety) vd vs1 vs2)
/-- LX_VNEG. -/
def execLxVneg (core : CoreId) (ety : BitVec 3) (md : BitVec 2) (vd vs1 vs2 : BitVec 5) (s : State) : Out :=
  .next (vecArith s core.toNat 0x15 ety.toNat md.toNat (isEty ety) vd vs1 vs2)

/-- A reduction (R132). -/
def vecReduce (s : State) (k op ety md : Nat) (kind : Bool) (vd vs1 vs2 : BitVec 5) : State :=
  if !kind then s
  else
    vecIssue s k (vecWord ety md op vd.toNat vs1.toNat vs2.toNat) (vlOk (etyBits ety)) (fun c =>
      setV c vd (reduceImage (coreEskor s c) op ety md c.regs.vl (getV c vs1) (getV c vd)))

/-- LX_VREDSUM. -/
def execLxVredsum (core : CoreId) (ety : BitVec 3) (md : BitVec 2) (vd vs1 vs2 : BitVec 5) (s : State) : Out :=
  .next (vecReduce s core.toNat 0x16 ety.toNat md.toNat (isEty ety) vd vs1 vs2)
/-- LX_VREDMAX. -/
def execLxVredmax (core : CoreId) (ety : BitVec 3) (md : BitVec 2) (vd vs1 vs2 : BitVec 5) (s : State) : Out :=
  .next (vecReduce s core.toNat 0x17 ety.toNat md.toNat (isEty ety) vd vs1 vs2)
/-- LX_VREDMIN. -/
def execLxVredmin (core : CoreId) (ety : BitVec 3) (md : BitVec 2) (vd vs1 vs2 : BitVec 5) (s : State) : Out :=
  .next (vecReduce s core.toNat 0x18 ety.toNat md.toNat (isEty ety) vd vs1 vs2)

/-- LX_VCNTNF: x[rd] := count of NaN and infinite elements, 0 at VL = 0 (R129, R130). -/
def execLxVcntnf (core : CoreId) (ety : BitVec 3) (rd vs1 vs2 : BitVec 5) (s : State) : Out :=
  .next (if isFlt ety then
    vecIssue s core.toNat (vecWord ety.toNat 0 0x19 rd.toNat vs1.toNat vs2.toNat) (vlOk (etyBits ety.toNat)) (fun c =>
      setX c rd (BitVec.ofNat 32 (countNonfinite ety.toNat c.regs.vl (getV c vs1))))
    else s)

/-- One predicate of R135 on two elements. -/
def cmpElem (ek : Bool) (ety pred a b : Nat) : Bool :=
  if ety < 3 then
    let f := etyFmt ety
    let va := flushIf ek f (f.decode a)
    let vb := flushIf ek f (f.decode b)
    match pred with
    | 0 => va.eq vb
    | 1 => va.lt vb
    | 2 => va.lt vb || va.eq vb
    | _ => va.isNan || vb.isNan
  else
    let w := etyBits ety
    match pred with
    | 0 => a == b
    | 1 => decide (natToInt w a < natToInt w b)
    | 2 => decide (a < b)
    | _ => a != b

/-- Bits as a number, the first lowest. -/
def bitsNat : List Bool → Nat
  | [] => 0
  | b :: bs => bitOf b + 2 * bitsNat bs

/-- The VL check of an instruction that uses a condition register (R135). -/
def condOk (bits : Nat) (c : Core) : Bool := vlOk bits c && decide (c.regs.vl ≤ 64)

/-- LX_VCMP (R135): bits VL to 63 become zero. -/
def execLxVcmp (core : CoreId) (ety : BitVec 3) (md cd : BitVec 2) (vs1 vs2 : BitVec 5) (s : State) : Out :=
  .next (if isEty ety then
    vecIssue s core.toNat (vecWord ety.toNat md.toNat 0x1A cd.toNat vs1.toNat vs2.toNat) (condOk (etyBits ety.toNat)) (fun c =>
      let w := etyBits ety.toNat
      setC c cd (BitVec.ofNat 64 (bitsNat ((List.range c.regs.vl).map (fun i =>
        cmpElem (coreEskor s c) ety.toNat md.toNat (elem (getV c vs1) w i) (elem (getV c vs2) w i))))))
    else s)

/-- LX_VMERGE (R136). (DEDUCED, log entry 95) -/
def execLxVmerge (core : CoreId) (ety : BitVec 3) (cr : BitVec 2) (vd vs1 vs2 : BitVec 5) (s : State) : Out :=
  .next (if isEty ety then
    vecIssue s core.toNat (vecWord ety.toNat cr.toNat 0x1B vd.toNat vs1.toNat vs2.toNat) (condOk (etyBits ety.toNat)) (fun c =>
      let w := etyBits ety.toNat
      setV c vd (putElems (getV c vd) w ((List.range c.regs.vl).map (fun i =>
        if (getC c cr).getLsbD i then elem (getV c vs1) w i else elem (getV c vs2) w i))))
    else s)

/-- The active elements packed together, zeros after them (R136). -/
def compressElems (c : Word64) (xs : List Nat) : List Nat :=
  let act := (xs.zipIdx.filter (fun e => c.getLsbD e.2)).map Prod.fst
  act ++ List.replicate (xs.length - act.length) 0

/-- Packed elements spread to their active positions, zeros elsewhere (R136). -/
def expandElems (c : Word64) (n : Nat) (xs : List Nat) : List Nat :=
  (List.range n).map (fun j =>
    if c.getLsbD j then xs.getD ((List.range j).filter (fun i => c.getLsbD i)).length 0 else 0)

/-- LX_VCOMPRESS (R136). -/
def execLxVcompress (core : CoreId) (ety : BitVec 3) (cr : BitVec 2) (vd vs1 : BitVec 5) (s : State) : Out :=
  .next (if isEty ety then
    vecIssue s core.toNat (vecWord ety.toNat cr.toNat 0x1C vd.toNat vs1.toNat 0) (condOk (etyBits ety.toNat)) (fun c =>
      let w := etyBits ety.toNat
      setV c vd (putElems (getV c vd) w (compressElems (getC c cr) (elems (getV c vs1) w c.regs.vl))))
    else s)

/-- LX_VEXPAND (R136). -/
def execLxVexpand (core : CoreId) (ety : BitVec 3) (cr : BitVec 2) (vd vs1 : BitVec 5) (s : State) : Out :=
  .next (if isEty ety then
    vecIssue s core.toNat (vecWord ety.toNat cr.toNat 0x1D vd.toNat vs1.toNat 0) (condOk (etyBits ety.toNat)) (fun c =>
      let w := etyBits ety.toNat
      setV c vd (putElems (getV c vd) w (expandElems (getC c cr) c.regs.vl (elems (getV c vs1) w c.regs.vl))))
    else s)

/-- LX_VSPLAT: every element := low bits of x[rs1]. -/
def execLxVsplat (core : CoreId) (ety : BitVec 3) (vd rs1 vs2 : BitVec 5) (s : State) : Out :=
  .next (if isEty ety then
    vecIssue s core.toNat (vecWord ety.toNat 0 0x1E vd.toNat rs1.toNat vs2.toNat) (vlOk (etyBits ety.toNat)) (fun c =>
      let w := etyBits ety.toNat
      setV c vd (putElems (getV c vd) w (List.replicate c.regs.vl ((getX c rs1).toNat % 2 ^ w))))
    else s)

/-- LX_VMOVE: elements 0 to VL − 1 of vs1 copied. (DEDUCED, log entry 95) -/
def execLxVmove (core : CoreId) (ety : BitVec 3) (vd vs1 vs2 : BitVec 5) (s : State) : Out :=
  .next (if isEty ety then
    vecIssue s core.toNat (vecWord ety.toNat 0 0x1F vd.toNat vs1.toNat vs2.toNat) (vlOk (etyBits ety.toNat)) (fun c =>
      let w := etyBits ety.toNat
      setV c vd (putElems (getV c vd) w (elems (getV c vs1) w c.regs.vl)))
    else s)

/-! ### Random numbers (R138 to R140) -/

/-- The key K of a job seed (R138). -/
def rngKey (seed : Word64) : Nat :=
  let msg := [0x46, 0x4C, 0x49, 0x4F, 0x57, 0x2D, 0x4C, 0x4E, 0x42, 0x2D, 0x52, 0x4E, 0x47, 0x31] ++ natBytes 8 seed.toNat
  bytesNat ((sha256 msg).take 16)

/-- O, the encrypted counter block (R139): key, stream, operation and element index. -/
def rngBlock (key stream op idx : Nat) : Nat :=
  bytesNat (aes128 (natBytes 16 key) (natBytes 16 (idx % 2 ^ 64 + op % 2 ^ 32 * 2 ^ 64 + stream % 2 ^ 32 * 2 ^ 96)))

/-- The 16 random bits of element i (R53). -/
def rngElem (key stream tensor i : Nat) : Nat :=
  natField (rngBlock key stream tensor (i / 8)) (16 * (i % 8)) 16

/-- The key loaded into a core: that of its partition's job. -/
def coreKey (s : State) (c : Core) : Nat := ((partAt s c.job.partition).map (·.rngKey)).getD 0

/-! ### Conversion (R133) -/

/-- The conditions of R133: VL, MX blocks, 6-bit packing, registers beside an MX operand, Eskor-exact formats. -/
def cvtOk (s : State) (dst src vd vs1 : Nat) (sr : Bool) (c : Core) : Bool :=
  let vl := c.regs.vl
  let widest := max (codeBits dst) (codeBits src)
  let mx := codeIsMx dst || codeIsMx src
  let six := codeBits dst == 6 || codeBits src == 6
  decide (vl ≤ 256 ∧ vl * widest ≤ 2048)
    && (!mx || vl % 32 == 0) && (!six || vl % 4 == 0)
    && (!codeIsMx src || vs1 != 31) && (!codeIsMx dst || vd != 31)
    && (!coreEskor s c ||
        (!sr && (dst ≤ 2 || dst == 8 || dst == 15) && (src ≤ 2 || src == 8 || src == 15)))

/-- The exact values of a source register. -/
def cvtSource (src vl : Nat) (v scales : BitVec 2048) : List FVal :=
  let k := codeKind src
  (List.range vl).map (fun i =>
    let x := packedElem v.toNat k.bits i
    if codeIsMx src then mxValue k (natField scales.toNat (8 * (i / 32)) 8) x else k.decode x)

/-- The element's rounding. SR draws from the block lxrngidx + floor(p / 8) at slot p mod 8. -/
def cvtRound (s : State) (c : Core) (sr : Bool) (p : Nat) : Round :=
  if sr then
    .sr (natField (rngBlock (coreKey s c) c.regs.rngStream.toNat c.regs.rngOp.toNat (c.regs.rngIdx.toNat + p / 8))
      (16 * (p % 8)) 16)
  else .rne

/-- The core after `lx.vcvt`. -/
def cvtCore (s : State) (sr nan : Bool) (dst src : Nat) (vd vs1 : BitVec 5) (c : Core) : Core :=
  let vl := c.regs.vl
  let ek := coreEskor s c
  let fl (code : Nat) (v : FVal) : FVal :=
    match codeKind code with
    | .flt f => flushIf ek f v
    | .int _ => v
  let xs := (cvtSource src vl (getV c vs1) (getV c (vs1 + 1))).map (fl src)
  let rd := cvtRound s c sr
  let blocks := if sr then (vl + 7) / 8 else 0
  let c0 := { c with rngBlocks := bump c.rngBlocks blocks }
  let k := codeKind dst
  if codeIsMx dst then
    let bl := (List.range (vl / 32)).map (fun b =>
      mxEncode k ((List.range 32).map (fun j => rd (32 * b + j))) ((xs.drop (32 * b)).take 32))
    let c1 := setV c0 vd (putElems (getV c vd) k.bits (bl.flatMap Prod.snd))
    setV c1 (vd + 1) (putElems (getV c1 (vd + 1)) 8 (bl.map Prod.fst))
  else
    let ys := xs.zipIdx.map (fun e => k.encode (rd e.2) (if nan then .nan else .sat) e.1)
    let zs := if ek then ys.map (fun y => k.encode .rne .sat (fl dst (k.decode y))) else ys
    setV c0 vd (putElems (getV c vd) k.bits zs)

/-- LX_VCVT (R133). -/
def execLxVcvt (core : CoreId) (sr nan : Bool) (dst src : BitVec 4) (vd vs1 : BitVec 5) (s : State) : Out :=
  .next (vecIssue s core.toNat (c1Word (64 * bitOf sr + 32 * bitOf nan + dst.toNat) src.toNat vs1.toNat 6 vd.toNat)
    (cvtOk s dst.toNat src.toNat vd.toNat vs1.toNat sr) (cvtCore s sr nan dst.toNat src.toNat vd vs1))

/-! ### Vector memory and control (Table 4-9) -/

/-- Element width of a mod field. -/
def mdBits (md : Nat) : Nat := match md with | 0 => 8 | 1 => 16 | _ => 32

/-- The window offset of each element (R134). -/
def elemAddrs (c : Core) (rs1 rs2 : BitVec 5) : List Nat :=
  (List.range c.regs.vl).map (fun i => (getX c rs1 + BitVec.ofNat 32 i * getX c rs2).toNat)

/-- The first element address that stops an access, with its cause. -/
def firstFault (f : Nat → Option Nat) (addrs : List Nat) : Option (Nat × Nat) :=
  addrs.findSome? (fun a => (f a).map (fun cause => (cause, a)))

/-- A word of custom-1 funct3 7. -/
def vmWord (md op rd rs1 rs2 : Nat) : Word32 := c1Word (md * 32 + op) rs2 rs1 7 rd

/-- LX_VLD (R134). -/
def execLxVld (core : CoreId) (md : BitVec 2) (vd rs1 rs2 : BitVec 5) (s : State) : Out :=
  .next (let k := core.toNat
    let w := vmWord md.toNat 0 vd.toNat rs1.toNat rs2.toNat
    issue s k w (fun c next =>
      let bits := mdBits md.toNat
      let n := bits / 8
      let addrs := elemAddrs c rs1 rs2
      if !lxListed w.toNat then .stop 1 0
      else if !vlOk bits c then .stop 3 0
      else
        match firstFault (fun a => loadFault c a n) addrs with
        | some (cause, a) => .stop cause a
        | none =>
          if loadHeld s k (addrs.map (fun a => (a, n))) then .hold
          else onCore s k (fun x => setV x vd (putElems (getV x vd) bits (addrs.map (fun a => windowRead s k a n)))) next))

/-- LX_VST (R134): overlapping elements leave the one with the highest index. -/
def execLxVst (core : CoreId) (md : BitVec 2) (vs rs1 rs2 : BitVec 5) (s : State) : Out :=
  .next (let k := core.toNat
    let w := vmWord md.toNat 1 vs.toNat rs1.toNat rs2.toNat
    issue s k w (fun c next =>
      let bits := mdBits md.toNat
      let n := bits / 8
      let addrs := elemAddrs c rs1 rs2
      if !lxListed w.toNat then .stop 1 0
      else if !vlOk bits c then .stop 3 0
      else
        match firstFault (fun a => storeFault c a n) addrs with
        | some (cause, a) => .stop cause a
        | none =>
          if storeHeld s k (addrs.map (fun a => (a, n))) then .hold
          else .retire (addrs.zipIdx.foldl (fun t e => windowWrite t k e.1 n (elem (getV c vs) bits e.2)) s) next))

/-- LX_VSETVL (R128): VL := min(rs1, VLMAX); mod 3 is illegal. -/
def execLxVsetvl (core : CoreId) (md : BitVec 2) (rd rs1 : BitVec 5) (s : State) : Out :=
  .next (vecIssue s core.toNat (vmWord md.toNat 2 rd.toNat rs1.toNat 0) (fun _ => true) (fun c =>
    let n := min (getX c rs1).toNat (vlmax (mdBits md.toNat))
    setX (setVl c n) rd (BitVec.ofNat 32 n)))

/-- LX_VMVX: x[rd] := element x[rs2] of vs1, zero-extended; 0 at an index of VLMAX or more. -/
def execLxVmvx (core : CoreId) (md : BitVec 2) (rd vs1 rs2 : BitVec 5) (s : State) : Out :=
  .next (vecIssue s core.toNat (vmWord md.toNat 3 rd.toNat vs1.toNat rs2.toNat) (fun _ => true) (fun c =>
    let bits := mdBits md.toNat
    let i := (getX c rs2).toNat
    setX c rd (if i < vlmax bits then BitVec.ofNat 32 (elem (getV c vs1) bits i) else 0)))

/-- LX_VINS: element x[rs2] of vd := low bits of x[rs1]; nothing at an index of VLMAX or more. -/
def execLxVins (core : CoreId) (md : BitVec 2) (vd rs1 rs2 : BitVec 5) (s : State) : Out :=
  .next (vecIssue s core.toNat (vmWord md.toNat 4 vd.toNat rs1.toNat rs2.toNat) (fun _ => true) (fun c =>
    let bits := mdBits md.toNat
    let i := (getX c rs2).toNat
    if i < vlmax bits then
      setV c vd (BitVec.ofNat 2048 (packedSet (getV c vd).toNat bits i (getX c rs1).toNat))
    else c))

/-! ### Condition registers (R137, Table 4-10) -/

/-- A condition operation: VL above 64 stops the program (R135). -/
def condIssue (s : State) (k f7 rd rs1 rs2 : Nat) (f : Core → Core) : State :=
  vecIssue s k (c2Word f7 rs2 rs1 2 rd) (fun c => decide (c.regs.vl ≤ 64)) f

/-- LX_CAND. -/
def execLxCand (core : CoreId) (cd cs1 cs2 : BitVec 2) (s : State) : Out :=
  .next (condIssue s core.toNat 0 cd.toNat cs1.toNat cs2.toNat (fun c => setC c cd (getC c cs1 &&& getC c cs2)))
/-- LX_COR. -/
def execLxCor (core : CoreId) (cd cs1 cs2 : BitVec 2) (s : State) : Out :=
  .next (condIssue s core.toNat 1 cd.toNat cs1.toNat cs2.toNat (fun c => setC c cd (getC c cs1 ||| getC c cs2)))
/-- LX_CXOR. -/
def execLxCxor (core : CoreId) (cd cs1 cs2 : BitVec 2) (s : State) : Out :=
  .next (condIssue s core.toNat 2 cd.toNat cs1.toNat cs2.toNat (fun c => setC c cd (getC c cs1 ^^^ getC c cs2)))
/-- LX_CANDN: C[rs1] and not C[rs2]. -/
def execLxCandn (core : CoreId) (cd cs1 cs2 : BitVec 2) (s : State) : Out :=
  .next (condIssue s core.toNat 3 cd.toNat cs1.toNat cs2.toNat (fun c => setC c cd (getC c cs1 &&& ~~~getC c cs2)))
/-- LX_CNOT. -/
def execLxCnot (core : CoreId) (cd cs1 : BitVec 2) (s : State) : Out :=
  .next (condIssue s core.toNat 4 cd.toNat cs1.toNat 0 (fun c => setC c cd (~~~getC c cs1)))

/-- Set bits of a condition register. -/
def popCount (c : Word64) : Nat := ((List.range 64).filter (fun i => c.getLsbD i)).length

/-- LX_CPOP. -/
def execLxCpop (core : CoreId) (rd : BitVec 5) (cs1 : BitVec 2) (s : State) : Out :=
  .next (condIssue s core.toNat 5 rd.toNat cs1.toNat 0 (fun c => setX c rd (BitVec.ofNat 32 (popCount (getC c cs1)))))
/-- LX_CRD_LO. -/
def execLxCrdLo (core : CoreId) (rd : BitVec 5) (cs1 : BitVec 2) (s : State) : Out :=
  .next (condIssue s core.toNat 6 rd.toNat cs1.toNat 0 (fun c => setX c rd ((getC c cs1).setWidth 32)))
/-- LX_CRD_HI. -/
def execLxCrdHi (core : CoreId) (rd : BitVec 5) (cs1 : BitVec 2) (s : State) : Out :=
  .next (condIssue s core.toNat 7 rd.toNat cs1.toNat 0 (fun c => setX c rd ((getC c cs1 >>> 32).setWidth 32)))
/-- LX_CWR_LO: the other half is unchanged. -/
def execLxCwrLo (core : CoreId) (cd : BitVec 2) (rs1 : BitVec 5) (s : State) : Out :=
  .next (condIssue s core.toNat 8 cd.toNat rs1.toNat 0 (fun c =>
    setC c cd ((getC c cd >>> 32).setWidth 32 ++ getX c rs1)))
/-- LX_CWR_HI. -/
def execLxCwrHi (core : CoreId) (cd : BitVec 2) (rs1 : BitVec 5) (s : State) : Out :=
  .next (condIssue s core.toNat 9 cd.toNat rs1.toNat 0 (fun c =>
    setC c cd (getX c rs1 ++ (getC c cd).setWidth 32)))

/-- Index of the lowest set bit; 64 if none. -/
def firstSet (c : Word64) : Nat := ((List.range 64).find? (fun i => c.getLsbD i)).getD 64

/-- LX_CFIRST. -/
def execLxCfirst (core : CoreId) (rd : BitVec 5) (cs1 : BitVec 2) (s : State) : Out :=
  .next (condIssue s core.toNat 0x0A rd.toNat cs1.toNat 0 (fun c => setX c rd (BitVec.ofNat 32 (firstSet (getC c cs1)))))

/-! ### The AES unit (R140) -/

/-- LX_RNGW: word rs1[1:0] of O at lxrngidx; other bits of rs1 must be zero. -/
def execLxRngw (core : CoreId) (rd rs1 : BitVec 5) (s : State) : Out :=
  .next (vecIssue s core.toNat (c2Word 0 0 rs1.toNat 3 rd.toNat) (fun c => decide ((getX c rs1).toNat < 4)) (fun c =>
    let o := rngBlock (coreKey s c) c.regs.rngStream.toNat c.regs.rngOp.toNat c.regs.rngIdx.toNat
    setX { c with rngBlocks := bump c.rngBlocks 1 } rd (BitVec.ofNat 32 (natField o (32 * (getX c rs1).toNat) 32))))

/-- LX_VRNG: the blocks for lxrngidx to lxrngidx + 15, and lxrngidx + 16. -/
def execLxVrng (core : CoreId) (vd : BitVec 5) (s : State) : Out :=
  .next (vecIssue s core.toNat (c2Word 1 0 0 3 vd.toNat) (fun _ => true) (fun c =>
    let o := (List.range 16).map (fun i =>
      rngBlock (coreKey s c) c.regs.rngStream.toNat c.regs.rngOp.toNat (c.regs.rngIdx.toNat + i))
    let c1 := setV c vd (BitVec.ofNat 2048 (packElems 128 o))
    { c1 with rngBlocks := bump c.rngBlocks 16, regs := { c1.regs with rngIdx := c.regs.rngIdx + 16 } }))

end Sys2Proof.Machine
end

