-- ==== Sys2Proof/Machine/Matrix.lean ====
section
/-! DEFINITION. Matrix instructions and the engine: descriptors, validity, tiles, rows, the drain, timing counters and ramps (R76 to R103, R115, R122 to R126, R506, R507). -/

namespace Sys2Proof.Machine

/-! ### The matrix operation descriptor -/

/-- A MOD from its 128 bytes (Table 4-4). -/
def modOfBytes (b : List Byte) : Mod :=
  let u (o : Nat) : Nat := fieldAt b o 4
  let fi := fieldAt b 0x3C 1
  let fo := fieldAt b 0x3D 1
  let dr := fieldAt b 0x3E 1
  let ro := fieldAt b 0x3F 1
  { staAddr := u 0x00, staScale := u 0x04, strAddr := u 0x08, strStride := u 0x0C, strScale := u 0x10,
    strScaleStride := u 0x14, outAddr := u 0x18, outStride := u 0x1C, outScale := u 0x20, outScaleStride := u 0x24,
    auxAddr := u 0x28, auxStride := u 0x2C, accAddr := u 0x30, accStride := u 0x34, vecAddr := u 0x38,
    fmtSta := natField fi 0 4, fmtStr := natField fi 4 4, fmtOut := natField fo 0 4, fmtAux := natField fo 4 4,
    drain := natField dr 0 3, func := natField dr 3 4, sr := natBit ro 0, nanOpt := natBit ro 1,
    kExt := fieldAt b 0x40 2, tensorId := fieldAt b 0x42 2, streamId := u 0x44, idxBase := fieldAt b 0x48 8,
    idxRowStride := fieldAt b 0x50 8 }

/-- Reserved bits of a MOD are zero (R125). -/
def modReserved (b : List Byte) : Bool :=
  !natBit (fieldAt b 0x3E 1) 7 && fieldAt b 0x3F 1 < 4 && zeroAt b 0x58 40

/-- The output, aux format and aux_addr agree with the drain operation (R506, Table 4-18). -/
def drainFormats (d : Mod) : Bool :=
  let outF := decide (d.fmtOut ≤ 4 ∨ (10 ≤ d.fmtOut ∧ d.fmtOut ≤ 14))
  let none := d.auxAddr == noAddr
  match d.drain with
  | 0 => d.fmtOut == 0 && d.fmtAux == 0 && none
  | 1 => outF && (if none then d.fmtAux == 0 else decide (d.fmtAux ≤ 4))
  | 2 => outF && (if none then d.fmtAux == 0 && d.func == 0 else decide (d.fmtAux ≤ 7) && d.func != 0)
  | 3 => d.fmtOut == 15 && d.fmtAux == 0 && none
  | 4 => outF && d.fmtAux == 0 && none
  | _ => false

/-- Operand formats agree with the shape (R58, R85, R122). -/
def operandFormats (sh : Nat) (d : Mod) : Bool :=
  d.fmtSta != 15 && d.fmtStr != 15
    && (if sh = 4 then d.fmtSta == 0 else d.fmtSta != 0)
    && codeIsInt d.fmtSta == codeIsInt d.fmtStr
    && (if codeIsInt d.fmtSta then d.drain == 3 || d.drain == 4 else decide (d.drain ≤ 2))

/-- Every address and stride is a multiple of 4 (R124). -/
def modAligned (d : Mod) : Bool :=
  let ok (a : Nat) : Bool := a == noAddr || a % 4 == 0
  [d.staAddr, d.staScale, d.strAddr, d.strStride, d.strScale, d.strScaleStride, d.outAddr, d.outStride, d.outScale,
   d.outScaleStride, d.auxAddr, d.auxStride, d.accAddr, d.accStride, d.vecAddr].all ok

/-- Addresses that the instruction needs are not "none" (R125). -/
def modAddresses (d : Mod) : Bool :=
  d.staAddr != noAddr && d.strAddr != noAddr && d.outAddr != noAddr
    && (!codeIsMx d.fmtSta || d.staScale != noAddr) && (!codeIsMx d.fmtStr || d.strScale != noAddr)
    && (!codeIsMx d.fmtOut || d.outScale != noAddr)
    && (d.drain == 0 || d.drain == 3 || d.vecAddr != noAddr)

/-- The formats that Eskor-exact mode knows (Table 2-9, R75). -/
def eskorFormats (d : Mod) : Bool :=
  let ok (f : Nat) : Bool := f ≤ 2 || f == 8 || f == 15
  ok d.fmtSta && ok d.fmtStr && ok d.fmtOut && ok d.fmtAux && !d.sr

/-- An engine instruction is valid (R115, R125), the share apart. (DEDUCED, log entry 18) -/
def engValid (ek : Bool) (sh ws rows : Nat) (b : List Byte) : Bool :=
  let d := modOfBytes b
  decide (2 ≤ ws ∧ ws ≤ 24) && decide (1 ≤ rows ∧ rows ≤ 16384)
    && modReserved b && decide (d.func ≤ 7) && drainFormats d && operandFormats sh d && modAligned d && modAddresses d
    && (!codeIsMx d.fmtOut || sh == 0 || sh == 1 || sh == 2 || sh == 4)
    && decide (1 ≤ d.kExt ∧ d.kExt ≤ shapeK sh)
    && decide (packedBytes (codeBits d.fmtStr) (shapeStr sh) ≤ d.strStride)
    && (!d.sr || d.streamId / 2 ^ 30 != 3)
    && (!ek || eskorFormats d)

/-- Every scratch range of an engine instruction. -/
def EngInst.ranges (e : EngInst) : List Rng := e.readRanges ++ e.writeRanges

/-- Engine instructions that have not streamed their last bit: at most two are held (R80). -/
def unstreamed (c : Core) : Nat :=
  let l := c.engine.insts.filter (fun e => e.phase != .streaming || decide (e.drained < e.rows))
  let late := l.filter (fun e => e.phase != .streaming)
  late.length + (if (l.filter (fun e => e.phase == .streaming)).isEmpty then 0 else 1)

/-- An engine that gets work: a waiting ramp-down request is withdrawn, columns that are off are asked for (R97, R98). -/
def workArrives (now : Word64) (e : Engine) : Engine :=
  match e.ramp with
  | .wantDown => { e with ramp := .steady }
  | .goingDown g none => { e with ramp := .goingDown g (some now) }
  | .steady => if e.colsOn = 8 then e else { e with ramp := .wantUp now }
  | _ => e

/-- LX_MM (R123). -/
def execLxMm (core : CoreId) (shape : BitVec 3) (t : Bool) (ws rd rs1 rs2 : BitVec 5) (s : State) : Out :=
  .next (let k := core.toNat
    let w := c0Word (bitOf t * 64 + ws.toNat * 2) rs2.toNat rs1.toNat shape.toNat rd.toNat
    issue s k w (fun c next =>
      if 5 < shape.toNat then .hold
      else
        let off := (getX c rs1).toNat
        let m := (getX c rs2).toNat
        if off % 64 ≠ 0 ∨ 0x30000 < off + 128 then .stop 2 0
        else if !inShare c off 128 then .stop 5 off
        else if loadHeld s k [(off, 128)] then .hold
        else
          let b := memBytes s.mem (coreAddr k off) 128
          let d := modOfBytes b
          let rows := m % 32768
          let e : EngInst :=
            { ticket := c.engine.lastTicket + 1, shape := shape.toNat, transposed := t, ws := ws.toNat, rows := rows,
              desc := d, phase := .issued, tile := [], drained := 0 }
          if 32768 ≤ m ∨ !engValid (coreEskor s c) shape.toNat ws.toNat rows b then .stop 2 0
          else if e.ranges.any (fun r => decide (0x30000 < r.1 + r.2)) then .stop 2 0
          else
            match e.ranges.find? (fun r => !inShare c r.1 r.2) with
            | some r => .stop 5 r.1
            | none =>
              let dst := dmaDstRanges s k
              let src := dmaSrcRanges s k
              if e.ranges.any (fun r => dst.any (overlap r)) || e.writeRanges.any (fun r => src.any (overlap r)) then .hold
              else if 2 ≤ unstreamed c then .hold
              else
                onCore s k (fun x =>
                  setX { x with engine := { workArrives (arrNow s (coreDie k)) x.engine with
                    insts := x.engine.insts ++ [e], lastTicket := e.ticket } } rd e.ticket) next))

/-! ### Operands in the engine -/

/-- The exact values of one group of elements, positions at or beyond the k extent as +0 (R54). -/
def groupValues (k : ElemKind) (mxScale : Option Nat) (ext : Nat) (xs : List (Nat × Nat)) : List FVal :=
  xs.map (fun e =>
    if ext ≤ e.1 then FVal.fin false 0 0
    else match mxScale with
      | some sc => mxValue k sc e.2
      | none => k.decode e.2)

/-- A group with every element exact: the last place is the lowest exponent (Eskor-exact mode, Table 2-9). -/
def exactGroup (xs : List FVal) : Aligned :=
  if xs.any (fun v => !v.isFinite) then ⟨0, xs.map (fun _ => 0), true⟩
  else
    let lo := xs.foldl (fun q v => match v with | .fin _ m e => if m = 0 then q else min q e | _ => q) (0 : Int)
    ⟨lo, xs.map (fun v => match v with | .fin neg m e => if m = 0 then 0 else FVal.units neg m e lo | _ => 0), false⟩

/-- Alignment of a group: R55 with width `w`, or exact in Eskor-exact mode with subnormals flushed. -/
def engAlign (ek : Bool) (k : ElemKind) (w : Nat) (mx : Option Nat) (xs : List FVal) : Aligned :=
  let low := match mx with | some sc => k.lowExp + ((sc : Int) - 127) | none => k.lowExp
  if ek then
    exactGroup (xs.map (fun v => match k with | .flt f => flushFmt f v | .int _ => v))
  else alignGroup k.prec w low xs

/-- An aligned group as the cells hold it. -/
def toTile (a : Aligned) : TileGroup := { lsb := a.lsb, vals := a.vals, nonfinite := a.nonfinite }

/-- The stored bits of stationary element (kk, j) of a tile: k index within the output's reduction, output j (R155). -/
def tileElem (s : State) (k : Nat) (e : EngInst) (kk j : Nat) : Nat :=
  let w := codeBits e.desc.fmtSta
  let rb := tileRowBytes e.shape e.transposed w
  let (row, col) :=
    if e.shape = 5 then
      (if e.transposed then (j / 16 * 16 + j % 16, kk) else (j / 16 * 16 + kk, j % 16))
    else if e.transposed then (j, kk) else (kk, j)
  packedElem (windowRead s k (e.desc.staAddr + row * rb) rb) w col

/-- Width of a stationary group in bits (R55). -/
def staWidth (sh : Nat) : Nat := if sh = 4 then 40 else 20

/-- Elements of an alignment group (R54). -/
def groupLen (sh : Nat) : Nat := if sh = 5 then 16 else 32

/-- The stationary tile, aligned: for each output its groups in ascending k (R54, R55, R77). -/
def loadTile (s : State) (k : Nat) (e : EngInst) : List (List TileGroup) :=
  let c := coreAt s k
  let ek := coreEskor s c
  let kind := codeKind e.desc.fmtSta
  let gl := groupLen e.shape
  let gs := shapeGroups e.shape
  (List.range (shapeN e.shape)).map (fun j => (List.range gs).map (fun g =>
    let mx := if codeIsMx e.desc.fmtSta then some (windowRead s k (e.desc.staScale + j * gs + g) 1) else none
    let xs := (List.range gl).map (fun r => (g * gl + r, tileElem s k e (g * gl + r) j))
    toTile (engAlign ek kind (staWidth e.shape) mx (groupValues kind mx e.desc.kExt xs))))

/-- The groups of streamed row i, in ascending k; for MM.G one per block (R54, R507). -/
def loadRow (s : State) (k : Nat) (e : EngInst) (i : Nat) : List Aligned :=
  let c := coreAt s k
  let ek := coreEskor s c
  let kind := codeKind e.desc.fmtStr
  let w := codeBits e.desc.fmtStr
  let n := shapeStr e.shape
  let gl := groupLen e.shape
  let img := windowRead s k (e.desc.strAddr + i * e.desc.strStride) (packedBytes w n)
  (List.range (n / gl)).map (fun g =>
    let mx := if codeIsMx e.desc.fmtStr then
        some (windowRead s k (e.desc.strScale + i * e.desc.strScaleStride + g) 1) else none
    let xs := (List.range gl).map (fun r =>
      ((if e.shape = 5 then r else g * gl + r), packedElem img w (g * gl + r)))
    engAlign ek kind e.ws mx (groupValues kind mx e.desc.kExt xs))

/-! ### The drain (R60 to R63, R100, R101, R103) -/

/-- f of Table 2-7 on an FP32 value: the exact rows, the limits at the infinities, else the result of the A1 function reference,
one of those within the bound (R68, R505). -/
def drainFn (ek : Bool) (f : Nat) (x : Word32) : Word32 :=
  let v := f32 x
  if v.isNan then nanF32
  else if f = 0 then x
  else if ek then flush32 (Config.eskorDrainFn f x)
  else
    match f with
    | 1 => rne32 (v.max (.fin false 0 0))
    | 2 => rne32 ((v.max (.fin false 0 0)).mul (v.max (.fin false 0 0)))
    | _ =>
      match v with
      | .inf false => if f = 6 ∨ f = 7 then rne32 (.fin false 1 0) else rne32 (.inf false)
      | .inf true => if f = 6 then 0 else if f = 7 then rne32 (.fin true 1 0) else rne32 (.fin true 0 0)
      | .fin neg m e => withinBound (drainExact f (fxOf neg m e)) (drainBound f false).1 (drainBound f false).2 (Config.drainFn f x)
      | .nan => nanF32

/-- f′ of Table 2-7. -/
def drainDeriv (ek : Bool) (f : Nat) (x : Word32) : Word32 :=
  let v := f32 x
  let one := rne32 (.fin false 1 0)
  if f = 0 then one
  else if v.isNan then nanF32
  else if ek then flush32 (Config.eskorDrainDeriv f x)
  else
    match f with
    | 1 => if (FVal.fin false 0 0).lt v then one else 0
    | 2 => rne32 ((v.max (.fin false 0 0)).scale 1)
    | _ =>
      match v with
      | .inf false => if f = 6 ∨ f = 7 then 0 else one
      | .inf true => 0
      | .fin neg m e => withinBound (derivExact f (fxOf neg m e)) (drainBound f true).1 (drainBound f true).2 (Config.drainDeriv f x)
      | .nan => nanF32

/-- The accumulated value of output j of a row: FP32 bits, or an INT32 for integer operands (R60, R61). -/
def accumulate (ek isInt : Bool) (init : Word32) (sta : List TileGroup) (str : List Aligned) : Word32 :=
  let gs : List (Aligned × Aligned) := (str.zip sta).map (fun p => (p.1, ⟨p.2.lsb, p.2.vals, p.2.nonfinite⟩))
  if isInt then columnResultInt init gs
  else if ek then
    if gs.any (fun g => g.1.nonfinite || g.2.nonfinite) then nanF32
    else columnResultEskor init (gs.flatMap (fun g =>
      (g.1.vals.zip g.2.vals).map (fun p => (FVal.ofInt p.1 g.1.lsb, FVal.ofInt p.2 g.2.lsb))))
  else columnResult init gs

/-- Random 16 bits of output j of streamed row i (R53, R124). -/
def drainRound (s : State) (c : Core) (d : Mod) (i j : Nat) : Round :=
  if d.sr then .sr (rngElem (coreKey s c) d.streamId d.tensorId ((d.idxBase + i * d.idxRowStride + j) % 2 ^ 64))
  else .rne

/-- FP32 values packed in an output format: the elements and, for MX, the scales (R101). -/
def convertRow (code : Nat) (rds : List Round) (ovf : OvfKind) (ys : List Word32) : List Nat × List Nat :=
  let k := codeKind code
  let vs := ys.map f32
  if codeIsMx code then
    let bl := (List.range (ys.length / 32)).map (fun b => mxEncode k ((rds.drop (32 * b)).take 32) ((vs.drop (32 * b)).take 32))
    (bl.flatMap Prod.snd, bl.map Prod.fst)
  else ((vs.zip rds).map (fun p => k.encode p.2 ovf p.1), [])

/-- What the drain makes of row i: the FP32 (or INT32) outputs, and the pre-activations y of FWD and INTQ. -/
def drainRow (s : State) (k : Nat) (e : EngInst) (i : Nat) : List Word32 × List Word32 :=
  let c := coreAt s k
  let ek := coreEskor s c
  let d := e.desc
  let n := shapeN e.shape
  let isInt := codeIsInt d.fmtSta
  let str := loadRow s k e i
  let w32 (off : Nat) : Word32 := BitVec.ofNat 32 (windowRead s k off 4)
  let fl (x : Word32) : Word32 := if ek then flush32 x else x
  let accs := (List.range n).map (fun j =>
    let init := if d.accAddr = noAddr then 0 else w32 (d.accAddr + i * d.accStride + 4 * j)
    let rowGroups := if e.shape = 5 then [str.getD (j / 16) ⟨0, [], false⟩] else str
    accumulate ek isInt (if isInt then init else fl init) (e.tile.getD j []) rowGroups)
  let scale (j : Nat) : FVal := f32 (fl (w32 (d.vecAddr + 4 * j)))
  let bias (j : Nat) : FVal := f32 (fl (w32 (d.vecAddr + 4 * n + 4 * j)))
  let value (a : Word32) : FVal := if isInt then FVal.ofInt a.toInt 0 else f32 a
  match d.drain with
  | 1 =>
    let ys := accs.zipIdx.map (fun p => fl (rne32 (FVal.fma (value p.1) (scale p.2) (bias p.2))))
    (ys.map (drainFn ek d.func), ys)
  | 2 =>
    (accs.zipIdx.map (fun p =>
      let g := fl (rne32 ((value p.1).mul (scale p.2)))
      if d.func = 0 then g
      else
        let kz := codeKind d.fmtAux
        let z := rne32 (kz.decode (packedElem
          (windowRead s k (d.auxAddr + i * d.auxStride) (packedBytes kz.bits n)) kz.bits p.2))
        fl (rne32 ((f32 g).mul (f32 (drainDeriv ek d.func (fl z)))))), [])
  | 4 =>
    let ys := accs.zipIdx.map (fun p => fl (rne32 (FVal.fma (value p.1) (scale p.2) (bias p.2))))
    (ys.map (drainFn ek d.func), ys)
  | _ => (accs, [])

/-- A packed row written into scratch. -/
def putRow (s : State) (k off w : Nat) (xs : List Nat) : State :=
  windowWrite s k off (packedBytes w xs.length) (packElems w xs)

/-- The state after row i of an engine instruction is drained: outputs, output scales, aux in scratch (R100, R101). -/
def writeRow (s : State) (k : Nat) (e : EngInst) (i : Nat) : State :=
  let c := coreAt s k
  let d := e.desc
  let (outs, ys) := drainRow s k e i
  let ovf := if d.nanOpt then OvfKind.nan else OvfKind.sat
  let off := d.outAddr + i * d.outStride
  if d.drain = 3 then putRow s k off 32 (outs.map (·.toNat))
  else
    let rds := (List.range outs.length).map (drainRound s c d i)
    let (xs, scs) := convertRow d.fmtOut rds ovf outs
    let s1 := putRow s k off (codeBits d.fmtOut) xs
    let s2 := if codeIsMx d.fmtOut then putRow s1 k (d.outScale + i * d.outScaleStride) 8 scs else s1
    if d.drain = 1 ∧ d.auxAddr ≠ noAddr then
      putRow s2 k (d.auxAddr + i * d.auxStride) (codeBits d.fmtAux)
        (convertRow d.fmtAux (ys.map (fun _ => .rne)) ovf ys).1
    else s2

/-- Non-finite outputs of a row, before conversion (R103). -/
def rowNonfinite (s : State) (k : Nat) (e : EngInst) (i : Nat) : Nat :=
  if e.desc.drain = 3 then 0 else ((drainRow s k e i).1.filter nonfiniteF32).length

/-- t_row (R82). -/
def rowCycles (sh ws : Nat) : Nat := max ws (shapeStr sh / 64)

/-- AES blocks that a row's stochastic rounding takes. -/
def rowBlocks (e : EngInst) (i : Nat) : Nat :=
  if e.desc.sr then
    let a := e.desc.idxBase + i * e.desc.idxRowStride
    (a + shapeN e.shape - 1) / 8 - a / 8 + 1
  else 0

/-! ### Engine events -/

/-- The engine of a core changed. -/
def modEngine (s : State) (k : Nat) (f : Engine → Engine) : State :=
  modCore s k (fun c => { c with engine := f c.engine })

/-- The first engine instruction in a phase, with its position. -/
def instAt (c : Core) (ph : EngPhase) : Option (Nat × EngInst) :=
  (c.engine.insts.zipIdx.find? (fun p => p.1.phase == ph)).map (fun p => (p.2, p.1))

/-- Does an operand that the instruction loads or streams overlap a result of an earlier incomplete one (R148)? -/
def heldByEarlier (c : Core) (i : Nat) (e : EngInst) : Bool :=
  let ops := (e.readRanges.take 2) ++ (if codeIsMx e.desc.fmtSta || codeIsMx e.desc.fmtStr then
    (e.readRanges.drop 2).take 2 else [])
  (c.engine.insts.take i).any (fun p => p.writeRanges.any (fun r => ops.any (overlap r)))

/-- STATIONARY_LOAD_COMPLETE (R77, R80): the tile of the next issued instruction is complete in the shadow register. -/
def execStationaryLoadComplete (core : CoreId) (s : State) : Out :=
  .next (let k := core.toNat
    let c := coreAt s k
    match instAt c .issued with
    | none => s
    | some (i, e) =>
      if (c.engine.insts.take i).any (fun p => p.phase != .streaming) || heldByEarlier c i e then s
      else
        modEngine s k (fun g => { g with insts := g.insts.set i { e with phase := .loaded, tile := loadTile s k e } }))

/-- ENGINE_STREAM_START (R89, R90): the first bit enters array row 0, after the load wait and FEED freezes that the
event names. (DEDUCED, log entry 22) -/
def execEngineStreamStart (core : CoreId) (loadWait feed : BitVec 32) (s : State) : Out :=
  .next (let k := core.toNat
    let c := coreAt s k
    match instAt c .loaded with
    | none => s
    | some (i, e) =>
      let before := c.engine.insts.take i
      let steady := c.engine.ramp == .steady || c.engine.ramp == .wantDown
      if c.engine.colsOn ≠ 8 || !steady || before.any (fun p => p.shape != e.shape || decide (p.drained = 0 ∧ p.phase ≠ .streaming))
          || heldByEarlier c i e then s
      else
        modEngine s k (fun g =>
          { g with
            insts := g.insts.set i { e with phase := .streaming }, ramp := .steady,
            loadWait := bump g.loadWait loadWait.toNat, freezeFeed := bump g.freezeFeed feed.toNat }))

/-- ENGINE_ROW_DRAINED (R87, R91, R92): the next row of the earliest streaming instruction is written; the freeze cycles
since the last row are those that the event names. -/
def execEngineRowDrained (core : CoreId) (feed drain budget : BitVec 32) (s : State) : Out :=
  .next (let k := core.toNat
    let c := coreAt s k
    match c.engine.insts.zipIdx.find? (fun p => p.1.phase == .streaming && decide (p.1.drained < p.1.rows)) with
    | none => s
    | some (e, i) =>
      if c.engine.ramp ≠ .steady ∧ c.engine.ramp ≠ .wantDown then s
      else
        let nf := rowNonfinite s k e e.drained
        let s1 := writeRow s k e e.drained
        let s2 := modEngine s1 k (fun g =>
          { g with
            insts := g.insts.set i { e with drained := e.drained + 1 }, ramp := .steady,
            streamCycles := bump g.streamCycles (rowCycles e.shape e.ws), nonfinite := bump g.nonfinite nf,
            freezeFeed := bump g.freezeFeed feed.toNat, freezeDrain := bump g.freezeDrain drain.toNat,
            freezeBudget := bump g.freezeBudget budget.toNat })
        modCore s2 k (fun x => { x with rngBlocks := bump x.rngBlocks (rowBlocks e e.drained) }))

/-- ENGINE_INSTRUCTION_COMPLETE (R88): the earliest instruction, whose rows are all drained, is complete; waits on it are
released. The overhead counts when no later stream overlaps it (R89). (DEDUCED, log entry 22) -/
def execEngineInstructionComplete (core : CoreId) (s : State) : Out :=
  .next (let k := core.toNat
    match (coreAt s k).engine.insts with
    | [] => s
    | e :: rest =>
      if e.phase ≠ .streaming ∨ e.drained < e.rows then s
      else
        let ovh := if rest.any (fun p => p.phase == .streaming) then 0 else 72 + 2 * e.ws - rowCycles e.shape e.ws
        modCore s k (fun c =>
          releaseWait { c with engine := { c.engine with
            insts := rest, doneTicket := e.ticket, overheadCycles := bump c.engine.overheadCycles ovh } }))

/-- RAMP_DOWN_REQUEST (R97): the 256th consecutive idle ARR cycle. (DEDUCED, log entry 14) -/
def execRampDownRequest (core : CoreId) (s : State) : Out :=
  .next (modEngine s core.toNat (fun g => if g.colsOn = 8 ∧ g.ramp = .steady then { g with ramp := .wantDown } else g))

/-- The core whose ramp-up request is earliest; ties go to the lower core ID (R98). (DESIGN CHOICE, log entry 21) -/
def earliestUp (now : Word64) : List (Nat × Core) → Option (Nat × Word64)
  | [] => none
  | (k, c) :: rest =>
    let r := earliestUp now rest
    match c.engine.ramp with
    | .wantUp t =>
      match r with
      | some (k', t') => if (now - t').toNat ≤ (now - t).toNat then some (k, t) else some (k', t')
      | none => some (k, t)
    | _ => r

/-- START_ARBITER_GRANT (R98): one ramp in any window of 16 ARR cycles, ramp-ups first. (DESIGN CHOICE, log entry 21) -/
def execStartArbiterGrant (die : BitVec 3) (s : State) : Out :=
  .next (let d := die.toNat
    let now := arrNow s d
    let last := s.arbLast.get die.toFin
    let free := match last with | none => true | some t => decide (16 ≤ (now - t).toNat)
    let cores := s.cores.filter (fun e => decide (coreDie e.1 = d))
    let mark (t : State) : State := { t with arbLast := t.arbLast.set d (some now) die.isLt }
    if !free then s
    else
      match earliestUp now cores with
      | some (k, t0) => mark (modEngine s k (fun g => { g with ramp := .goingUp t0 now }))
      | none =>
        match cores.find? (fun e => e.2.engine.ramp == .wantDown) with
        | some (k, _) => mark (modEngine s k (fun g => { g with ramp := .goingDown now none }))
        | none => s)

/-- RAMP_DOWN_COMPLETE (R97, R98): every column is off; an engine that holds work asks for a ramp-up. -/
def execRampDownComplete (core : CoreId) (s : State) : Out :=
  .next (modEngine s core.toNat (fun g =>
    match g.ramp with
    | .goingDown _ none => { g with ramp := .steady, colsOn := 0 }
    | .goingDown _ (some t) => { g with ramp := .wantUp t, colsOn := 0 }
    | _ => g))

/-- RAMP_UP_COMPLETE (R97): every column is active; the wait and the ramp count as tamp (R98, R111). -/
def execRampUpComplete (core : CoreId) (s : State) : Out :=
  .next (modEngine s core.toNat (fun g =>
    match g.ramp with
    | .goingUp t _ => { g with ramp := .steady, colsOn := 8, tampCycles := g.tampCycles + (arrNow s (coreDie core.toNat) - t) }
    | _ => g))

/-- LX_EWAIT (R126): waits until the engine instructions up to a ticket are complete. -/
def execLxEwait (core : CoreId) (rs1 : BitVec 5) (s : State) : Out :=
  .next (issue s core.toNat (c0Word 0 0 rs1.toNat 7 0) (fun _ next =>
    onCore s core.toNat (fun c => releaseWait { c with wait := .tickets (getX c rs1) }) next))

/-- LX_EQUIESCE (R126): waits until the engine is empty. -/
def execLxEquiesce (core : CoreId) (s : State) : Out :=
  .next (issue s core.toNat (c0Word 1 0 0 7 0) (fun _ next =>
    onCore s core.toNat (fun c => releaseWait { c with wait := .engineEmpty }) next))

/-! ### WGB instructions (R105, R127) -/

/-- The tiles that a core's context owns (R104). -/
def ownedTiles (s : State) (c : Core) : Nat := ((queueAt s c.job.queue).map (·.tiles)).getD 0

/-- A tile operand: bits [1:0] name a tile of the context, the others are zero. -/
def tileOk (s : State) (c : Core) (t : Nat) : Bool := decide (t < 4) && natBit (ownedTiles s c) t

/-- A WGB descriptor from its 32 bytes (Table 4-6). -/
def wgbDescOfBytes (b : List Byte) : WgbDesc :=
  { addr := fieldAt b 0 8, normAddr := fieldAt b 8 8, tensorId := fieldAt b 0x10 2,
    add := natBit (fieldAt b 0x12 1) 0, final := natBit (fieldAt b 0x12 1) 1 }

/-- Is a WGB descriptor valid (R107, R108, R127)? -/
def wgbDescOk (s : State) (p : Nat) (flush : Bool) (b : List Byte) : Bool :=
  let d := wgbDescOfBytes b
  let norm := flush || d.final
  zeroAt b 0x13 13 && (if flush then fieldAt b 0x12 1 == 0 else fieldAt b 0x12 1 < 4)
    && d.addr % 64 == 0 && decide (d.addr < 2 ^ 56) && ownsT1 s p d.addr 0x4000
    && (!norm || (d.normAddr % 16 == 0 && ownsT1 s p d.normAddr 16))

/-- A source block operand: 16 KiB, 64 B aligned, in scratch. -/
def blockOk (off : Nat) : Bool := off % 64 == 0 && decide (off + 0x4000 ≤ 0x30000)

/-- A WGB instruction: checks of R115, then the operation is recorded. `src` and `desc` are offsets it reads. -/
def wgbIssue (s : State) (k : Nat) (word : Word32) (tile src desc : Core → Option Nat) (flush : Bool)
    (op : Core → WgbDesc → WgbOp) : State :=
  issue s k word (fun c next =>
    let tileBad := match tile c with | some t => !tileOk s c t | none => false
    let srcBad := match src c with | some o => !blockOk o | none => false
    let descBad := match desc c with | some o => o % 32 != 0 || decide (0x30000 < o + 32) | none => false
    let outside := (match src c with | some o => if inShare c o 0x4000 then none else some o | none => none).orElse (fun _ =>
      match desc c with | some o => if inShare c o 32 then none else some o | none => none)
    if tileBad || srcBad || descBad || decide (16 ≤ c.wgbOps.length) then .stop 2 0
    else
      match outside with
      | some o => .stop 5 o
      | none =>
        let held := (match src c with | some o => loadHeld s k [(o, 0x4000)] | none => false)
          || (match desc c with | some o => loadHeld s k [(o, 32)] | none => false)
        if held then .hold
        else
          let b := match desc c with | some o => memBytes s.mem (coreAddr k o) 32 | none => zeros 32
          if (desc c).isSome && !wgbDescOk s c.job.partition flush b then .stop 2 0
          else onCore s k (fun x => { x with wgbOps := x.wgbOps ++ [op c (wgbDescOfBytes b)] }) next)

/-- LX_WGB_ZERO. -/
def execLxWgbZero (core : CoreId) (rs1 : BitVec 5) (s : State) : Out :=
  .next (wgbIssue s core.toNat (c0Word 0 0 rs1.toNat 6 0) (fun c => some (getX c rs1).toNat) (fun _ => none)
    (fun _ => none) false (fun c _ => .zero (getX c rs1).toNat))

/-- LX_WGB_FOLD. -/
def execLxWgbFold (core : CoreId) (rs1 rs2 : BitVec 5) (s : State) : Out :=
  .next (wgbIssue s core.toNat (c0Word 1 rs2.toNat rs1.toNat 6 0) (fun c => some (getX c rs2).toNat)
    (fun c => some (getX c rs1).toNat) (fun _ => none) false (fun c _ => .fold (getX c rs1).toNat (getX c rs2).toNat))

/-- LX_WGB_SPILL. -/
def execLxWgbSpill (core : CoreId) (rs1 rs2 : BitVec 5) (s : State) : Out :=
  .next (wgbIssue s core.toNat (c0Word 2 rs2.toNat rs1.toNat 6 0) (fun _ => none)
    (fun c => some (getX c rs1).toNat) (fun c => some (getX c rs2).toNat) false (fun c d => .spill (getX c rs1).toNat d))

/-- LX_WGB_FLUSH. -/
def execLxWgbFlush (core : CoreId) (rs1 rs2 : BitVec 5) (s : State) : Out :=
  .next (wgbIssue s core.toNat (c0Word 3 rs2.toNat rs1.toNat 6 0) (fun c => some (getX c rs1).toNat)
    (fun _ => none) (fun c => some (getX c rs2).toNat) true (fun c d => .flush (getX c rs1).toNat d))

/-! ### WGB operations in a commit (R105, R107, R108) -/

/-- FP32 words of a byte string. -/
def wordsOf (b : List Byte) (n : Nat) : List Word32 := (List.range n).map (fun i => BitVec.ofNat 32 (fieldAt b (4 * i) 4))

/-- The bytes of FP32 words. -/
def wordBytes (ws : List Word32) : List Byte := ws.flatMap (fun w => natToBytes 4 w.toNat)

/-- The sum of squares of R108, its NaN and infinity rules included, and the count of non-finite elements. -/
def normOf (ws : List Word32) : Word32 × Nat :=
  let ss := ws.foldl (fun a x => fmaF32 x x a) 0
  let nf := (ws.filter nonfiniteF32).length
  let anyNan := ws.any (fun x => (f32 x).isNan)
  let ss' := if anyNan then nanF32 else if 0 < nf then rne32 (.inf false) else ss
  (ss', nf)

/-- A norm record (Table 3-9). -/
def normRecord (ws : List Word32) (tensor tile : Nat) (torn : Bool) : List Byte :=
  let (ss, nf) := normOf ws
  natToBytes 4 ss.toNat ++ natToBytes 4 nf ++ natToBytes 2 tensor ++ natToBytes 1 tile ++ natToBytes 1 (bitOf torn)
    ++ natToBytes 4 0

/-- The bytes of WGB tile t of a core. -/
def tileBytesOf (s : State) (k t : Nat) : List Byte := memBytes s.mem (coreAddr k (0x30000 + t * 0x4000)) 0x4000

/-- One WGB operation applied (Table 3-8). -/
def applyWgb (s : State) (k : Nat) (op : WgbOp) : State :=
  match op with
  | .zero t =>
    let s1 := { s with mem := memClear s.mem (coreAddr k (0x30000 + t * 0x4000)) 0x4000 }
    modCore s1 k (fun c => { c with torn := c.torn &&& ~~~(BitVec.ofNat 4 (2 ^ t)) })
  | .fold src t =>
    let y := wordsOf (memBytes s.mem (coreAddr k src) 0x4000) 4096
    let a := wordsOf (tileBytesOf s k t) 4096
    let sum := wordBytes ((a.zip y).map (fun p => addF32 p.1 p.2))
    { s with mem := memPutBytes s.mem (coreAddr k (0x30000 + t * 0x4000)) sum }
  | .spill src d =>
    let s1 := { s with spills := s.spills ++ [{ core := k, data := memBytes s.mem (coreAddr k src) 0x4000, desc := d }] }
    modCore s1 k (fun c => { c with spillBytes := bump c.spillBytes 16384 })
  | .flush t d =>
    let b := tileBytesOf s k t
    let s1 := cohWrite s d.addr b
    cohWrite s1 d.normAddr (normRecord (wordsOf b 4096) d.tensorId t ((coreAt s k).torn.getLsbD t))

/-- A core's recorded operations applied in issue order (R105). -/
def applyWgbOps (s : State) (k : Nat) : State :=
  let s1 := (coreAt s k).wgbOps.foldl (fun t op => applyWgb t k op) s
  modCore s1 k (fun c => { c with wgbOps := [], committing := false })

/-- The lines of a range that are poisoned. -/
def poisonedLines (s : State) (a n : Nat) : List Nat := (lineStarts a n).filter (fun l => rangePoisoned s l 64)

/-- One line of an accumulator: y written, or added to each element; a poisoned line of an add stays poisoned (R107). -/
def applySpillLine (s : State) (d : WgbDesc) (data : List Byte) (i : Nat) : State :=
  let a := d.addr + 64 * i
  let y := wordsOf (sliceBytes data (64 * i) 64) 16
  if d.add then
    if rangePoisoned s a 64 then logError s 2 (8 + t1Channel a / 32) 0x0202 (channelOwner s (t1Channel a)) 0xFFFF 0 a 0
    else cohWrite s a (wordBytes (((wordsOf (cohRead s a 64) 16).zip y).map (fun p => addF32 p.1 p.2)))
  else cohWrite s a (wordBytes y)

/-- One contribution's lanes combined into the step (R313). -/
def addLanes (s : State) (p : Nat) (flag : Bool) (nfc src layer : Nat) : State :=
  modJob s p (fun j => { j with step := j.step.map (fun o =>
    { o with flag := o.flag || flag, nfc := min (2 ^ 32 - 1) (o.nfc + nfc),
             src := if flag then min o.src src else o.src,
             layerNf := mapSet o.layerNf layer (min (2 ^ 32 - 1) (mapGetD o.layerNf layer 0 + nfc)) }) })

/-- The layer of a tensor, from the tensor-to-layer map of JOB_CONFIG (R296); 0xFFFF for none. -/
def layerOf (s : State) (p tensor : Nat) : Nat :=
  match jobAt s p with
  | none => 0xFFFF
  | some j => fieldAt j.layerMap (2 * tensor) 2

/-- The lanes of a norm record added to the step (R313); `core` 0x1FFF stands for a table or an accumulator. -/
def addRecordLanes (s : State) (p core a : Nat) : State :=
  let b := cohRead s a 16
  let nf := fieldAt b 4 4
  let flag := decide (nf ≠ 0) || natBit (fieldAt b 0xB 1) 0
  addLanes s p flag nf (s.life.moduleId * 2 ^ 13 + core) (layerOf s p (fieldAt b 8 2))

/-- The core's oldest spill record applied line by line; a final record writes its norm record (R107). -/
def applySpill (s : State) (core : Nat) : State :=
  match s.spills.find? (fun r => r.core == core) with
    | none => s
    | some r =>
      let s0 := { s with spills := s.spills.erase r }
      let s1 := (List.range 256).foldl (fun t i => applySpillLine t r.desc r.data i) s0
      let s2 := if r.desc.final then
          addRecordLanes (cohWrite s1 r.desc.normAddr
              (normRecord (wordsOf (cohRead s1 r.desc.addr 0x4000) 4096) r.desc.tensorId 0xFF
                (!(poisonedLines s1 r.desc.addr 0x4000).isEmpty)))
            (coreOwner s r.core) 0x1FFF r.desc.normAddr
        else s1
      s2

/-- SPILL_RECORD_APPLY (R107). -/
def execSpillRecordApply (core : CoreId) (s : State) : Out := .next (applySpill s core.toNat)

/-- A stop of WGB commit operations part-way (R109): the first `n` operations stay applied, the one in progress leaves its
tile undefined and torn, the others are dropped. -/
def tearWgb (s : State) (k n : Nat) : State :=
  let ops := (coreAt s k).wgbOps
  let s1 := (ops.take n).foldl (fun t op => applyWgb t k op) s
  let s2 := match ops[n]? with
    | some (.zero t) | some (.fold _ t) | some (.flush t _) =>
      let (bs, t1) := drawBytes s1 0x4000
      let t2 : State := { t1 with mem := memPutBytes t1.mem (coreAddr k (0x30000 + t * 0x4000)) bs }
      modCore t2 k (fun c => { c with torn := c.torn ||| BitVec.ofNat 4 (2 ^ t) })
    | _ => s1
  modCore s2 k (fun c => { c with wgbOps := [], committing := false })

end Sys2Proof.Machine
end

