-- ==== Sys2Proof/Machine/TableCmds.lean ====
section
/-! DEFINITION. The table commands EMB_LOOKUP and EMB_UPDATE (its reduce stage) and the events of a re-layout (R241 to R258). -/

namespace Sys2Proof.Machine

/-- A lookup or update plan entry (Table 8-2). -/
structure PlanEntry where
  table : Nat
  pool : Nat
  fmts : Nat
  segs : Nat
  idxAddr : Nat
  offAddr : Nat
  wAddr : Nat
  vecAddr : Nat
  vecStride : Nat
  count : Nat
  normAddr : Nat
deriving DecidableEq, Repr

/-- The entries of a plan's bytes. -/
def planEntry (b : List Byte) : PlanEntry :=
  { table := fieldAt b 0 2, pool := fieldAt b 2 1, fmts := fieldAt b 3 1, segs := fieldAt b 4 4,
    idxAddr := fieldAt b 8 8, offAddr := fieldAt b 0x10 8, wAddr := fieldAt b 0x18 8, vecAddr := fieldAt b 0x20 8,
    vecStride := fieldAt b 0x28 4, count := fieldAt b 0x2C 4, normAddr := fieldAt b 0x30 8 }

/-- Output or gradient format code of an entry. -/
def PlanEntry.fmt (e : PlanEntry) : Nat := e.fmts % 16
/-- Position gradients rather than segment gradients. -/
def PlanEntry.byPosition (e : PlanEntry) : Bool := natBit e.fmts 4
/-- Vectors that the entry reads or writes at vec_addr. -/
def PlanEntry.vectors (e : PlanEntry) : Nat := if e.byPosition then e.count else e.segs

/-- The entries of a plan of n entries. -/
def planEntries (b : List Byte) (n : Nat) : List PlanEntry :=
  (List.range n).map (fun i => planEntry (sliceBytes b (64 * i) 64))

/-- Is an entry within Table 8-2 (R241, R246)? -/
def planEntryOk (s : State) (p : Nat) (update : Bool) (b : List Byte) : Bool :=
  let e := planEntry b
  match tableAt s p e.table with
  | none => false
  | some t =>
    decide (e.pool ≤ 3 ∧ e.fmt ≤ 1 ∧ e.fmts < 32 ∧ 1 ≤ e.segs ∧ e.segs ≤ 65536 ∧ 1 ≤ e.count ∧ e.count ≤ 2 ^ 24
      ∧ e.vecStride % 4 = 0 ∧ t.desc.dim * rowElemBytes e.fmt ≤ e.vecStride)
    && zeroAt b 0x38 8
    && (if e.pool = 3 then e.wAddr != 2 ^ 64 - 1 else e.wAddr == 2 ^ 64 - 1)
    && (if update then decide (e.pool ≠ 2 ∨ e.byPosition = true) && decide (t.desc.g ≠ 0)
        else !e.byPosition && decide (e.normAddr = 0))

/-- The little-endian words of bytes. -/
def natWords (b : List Byte) (w n : Nat) : List Nat := (List.range n).map (fun i => fieldAt b (w * i) w)

/-- off[0] = 0, non-decreasing, off[segs] = count. -/
def offsetsOk (off : List Nat) (count : Nat) : Bool :=
  decide (off.head? = some 0 ∧ off.getLast? = some count) && (off.zip off.tail).all (fun p => decide (p.1 ≤ p.2))

/-- The segment of each position. -/
def segOf (off : List Nat) (j : Nat) : Nat := (off.tail.filter (fun o => decide (o ≤ j))).length

/-- Fit rows for a pool unit: their pages in T1, none poisoned (R244). -/
def rowsReady (s : State) (q pos p : Nat) (rows : List (Nat × Nat)) : CmdIo :=
  match tierReady s p (some { queue := q, pos := pos }) false true rows with
  | .held t => .held t
  | .bad t => .ended (endCmd t q pos stAddressFault)
  | .ready t =>
    match rows.find? (fun e => rangePoisoned t e.1 e.2) with
    | some e => .ended (endCmd (logPoison t p q e.1) q pos stDataPoisoned)
    | none => .ok t []

/-- An entry rejected for its index (R241): logged with the entry and the first offending position. -/
def rejectIndex (s : State) (q pos p i j : Nat) : CmdIo :=
  .ended (endCmd (logError s 2 12 0x0902 p q stInvalid 0 (i + j * 2 ^ 32)) q pos stInvalid)

/-- The arrays of an entry: indices, offsets and weights, all valid. -/
def readEntry (s : State) (q pos p : Nat) (i : Nat) (e : PlanEntry)
    (f : State → EmbTable → List Nat → List Nat → List Nat → CmdIo) : CmdIo :=
  match tableAt s p e.table with
  | none => .ended (endCmd s q pos stInvalid)
  | some t =>
    (cmdRead s q pos e.offAddr (4 * (e.segs + 1))).andThen (fun s1 ob =>
      let off := natWords ob 4 (e.segs + 1)
      if !offsetsOk off e.count then .ended (endCmd s1 q pos stInvalid)
      else
        (cmdRead s1 q pos e.idxAddr (8 * e.count)).andThen (fun s2 ib =>
          let idx := natWords ib 8 e.count
          match idx.findIdx? (fun r => decide (t.desc.rows ≤ r)) with
          | some j => rejectIndex s2 q pos p i j
          | none =>
            if e.pool = 3 then
              (cmdRead s2 q pos e.wAddr (4 * e.count)).andThen (fun s3 wb => f s3 t idx off (natWords wb 4 e.count))
            else f s2 t idx off []))

/-! ### EMB_LOOKUP (R241 to R244) -/

/-- Two vectors combined element by element. -/
def zipF (f : Word32 → Word32 → Word32) (a b : List Word32) : List Word32 := (a.zip b).map (fun x => f x.1 x.2)

/-- The pooled vector of a segment from its rows in ascending position (R242). -/
def poolRows (pool dim : Nat) (rows : List (List Word32)) (ws : List Nat) : List Word32 :=
  let zero : List Word32 := List.replicate dim 0
  match rows with
  | [] => zero
  | first :: rest =>
    match pool with
    | 0 => rows.foldl (zipF addF32) zero
    | 1 => (rows.foldl (zipF addF32) zero).map (fun x => divF32 x (natF32 rows.length))
    | 2 => rest.foldl (zipF (fun a b => rne32 ((f32 a).max (f32 b)))) (first.map (fun x => rne32 (f32 x)))
    | _ => (rows.zip ws).foldl (fun acc r => zipF (fun a x => fmaF32 (BitVec.ofNat 32 r.2) x a) acc r.1) zero

/-- A vector's bytes in FP32 or BF16 (RNE). -/
def vecBytes (fmt : Nat) (v : List Word32) : List Byte :=
  v.flatMap (fun x => if fmt = 0 then natToBytes 4 x.toNat else natToBytes 2 (fmtBf16.rnd (f32 x)))

/-- One entry of a lookup: its rows read, pooled and written. -/
def lookupEntry (s : State) (q pos p i : Nat) (e : PlanEntry) : CmdIo :=
  readEntry s q pos p i e (fun s1 t idx off ws =>
    let addrs := idx.map (fun r => (rowAddr s1 p t r, (servingDesc t r).slot))
    (rowsReady s1 q pos p addrs).andThen (fun s2 _ =>
      let vals := idx.map (fun r =>
        let d := servingDesc t r
        decodeRow d (cohRead s2 (rowAddr s2 p t r) d.slot))
      let s3 := idx.foldl (fun u r =>
        let d := servingDesc t r
        let n := 64 * ((d.offState + 63) / 64)
        modCmd (modChannel u (rowChannel t r) (fun c =>
          { c with puLookupRows := c.puLookupRows + 1, bytesRd := bump c.bytesRd n })) q pos (fun c => { c with t1 := c.t1 + n })) s2
      ioFold (fun u g =>
        let lo := off.getD g 0
        let n := off.getD (g + 1) 0 - lo
        let out := poolRows e.pool t.desc.dim ((vals.drop lo).take n) ((ws.drop lo).take n)
        let a := e.vecAddr + g * e.vecStride
        if apertureBase ≤ a ∧ a < coreWindowBase then .ended (endCmd (failAccess u p a) q pos stAddressFault)
        else cmdWrite u q pos a (vecBytes e.fmt out)) s3 (List.range e.segs)))

/-- EMB_LOOKUP (R241): the entries run as one command; its result is the number of rows read. -/
def execEmbLookup (q : BitVec 12) (pos : BitVec 32) (s : State) : Out :=
  .next (runCmd s q.toNat pos.toNat 0x07 (fun x c =>
    let n := c.field 0x28 1
    (cmdRead s q.toNat pos.toNat (c.field 0x20 8) (64 * n)).bind (fun s1 b =>
      let es := planEntries b n
      if !(List.range n).all (fun i => planEntryOk s1 x.partition false (sliceBytes b (64 * i) 64)) then
        endCmd s1 q.toNat pos.toNat stInvalid
      else
        (ioFold (fun u e => lookupEntry u q.toNat pos.toNat x.partition e.2 e.1) s1 es.zipIdx).bind (fun s2 _ =>
          finishCmd s2 q.toNat pos.toNat stOk ((es.map (·.count)).sum % 2 ^ 32)))))

/-! ### EMB_UPDATE: the reduce stage (R246 to R249) -/

/-- The contribution of position j (R246). -/
def contribution (e : PlanEntry) (off : List Nat) (ws : List Nat) (grads : List (List Word32)) (j : Nat) : List Word32 :=
  if e.byPosition then grads.getD j []
  else
    let sg := segOf off j
    let g := grads.getD sg []
    match e.pool with
    | 1 => g.map (fun x => divF32 x (natF32 (off.getD (sg + 1) 0 - off.getD sg 0)))
    | 3 => g.map (mulF32 (BitVec.ofNat 32 (ws.getD j 0)))
    | _ => g

/-- row_grad (R247): the reduced gradient of a row and the number of its contributions. -/
def rowGrad (contrib : Nat → List Word32) (js : List Nat) : List Word32 :=
  match js with
  | [] => []
  | j :: rest => rest.foldl (fun acc k => zipF addF32 acc (contrib k)) (contrib j)

/-- The distinct touched rows, ascending. (DEDUCED, log entry 35) -/
def touchedRows (idx : List Nat) : List Nat := mapKeys (idx.foldl (fun (m : SMap Unit) r => mapSet m r ()) [])

/-- Offset of the old slot in a shadow entry (R248). -/
def shadowHead (dim : Nat) : Nat := 64 * ((16 + 4 * dim + 63) / 64)

/-- The bytes of a shadow entry. -/
def shadowBytes (dim : Nat) (r : ShadowRow) : List Byte :=
  let head := natToBytes 8 r.row ++ natToBytes 4 r.count ++ zeros 4 ++ r.grad.flatMap (fun g => natToBytes 4 g.toNat)
  head ++ zeros (shadowHead dim - head.length) ++ r.old

/-- The address of the k-th shadow entry of a channel (by its place in the channel list). -/
def shadowAddr (d : TableDesc) (shard k : Nat) : Nat :=
  let size := shadowHead d.dim + d.slot
  let per := 65536 / size
  d.shadowList.getD (shard * d.g + k / per) 0 * 65536 + k % per * size

/-- The norm record of a reduce stage (R248, Table 3-9). -/
def tableNorm (tensor : Nat) (byChannel : List (List (List Word32))) : List Byte × Nat × Bool :=
  let all := byChannel.flatten.flatten
  let nf := min (2 ^ 32 - 1) (all.filter nonfiniteF32).length
  let sums := byChannel.map (fun rows => rows.flatten.foldl (fun a x => fmaF32 x x a) 0)
  let ss := if all.any (fun x => (f32 x).isNan) then nanF32 else if 0 < nf then rne32 (.inf false) else sums.foldl addF32 0
  (natToBytes 4 ss.toNat ++ natToBytes 4 nf ++ natToBytes 2 tensor ++ natToBytes 1 0xFF ++ natToBytes 5 0, nf, decide (0 < nf))

/-- One entry's reduce stage: contributions, row gradients, shadow entries and the norm record. -/
def reduceEntry (s : State) (q pos p step i : Nat) (e : PlanEntry) : CmdIo :=
  readEntry s q pos p i e (fun s1 t idx off ws =>
      let d := t.desc
      let eb := rowElemBytes e.fmt
      let vecs := (List.range e.vectors).map (fun v => (e.vecAddr + v * e.vecStride, d.dim * eb))
      match cmdReads q pos s1 vecs [] with
      | (.ok s3 _, bs) =>
        let grads := bs.map (fun b => (List.range d.dim).map (fun k => rne32 ((codeKind e.fmt).decode (fieldAt b (k * eb) eb))))
        let rows := touchedRows idx
        let addrs := rows.map (fun r => (rowAddr s3 p t r, (servingDesc t r).slot))
        (rowsReady s3 q pos p addrs).andThen (fun s4 _ =>
          let contrib := contribution e off ws grads
          let entries := rows.map (fun r =>
            let js := (List.range e.count).filter (fun j => idx.getD j 0 == r)
            let sd := servingDesc t r
            ({ row := r, count := js.length, grad := rowGrad contrib js,
               old := cohRead s4 (rowAddr s4 p t r) sd.slot } : ShadowRow))
          let chans := (List.range d.n).map (fun k => (k, d.chans.getD k 0))
          let per := 65536 / (shadowHead d.dim + d.slot)
          let onChan (c : Nat) : List ShadowRow := entries.filter (fun r => rowChannel t r.row == c)
          if chans.any (fun c => decide (d.g * per < (onChan c.2).length)) then .ended (endCmd s4 q pos stInvalid)
          else
            let s5 := chans.foldl (fun u c =>
              ((onChan c.2).zipIdx).foldl (fun w r =>
                chargeRange (cohWrite w (shadowAddr d c.1 r.2) (shadowBytes d.dim r.1)) q pos (shadowAddr d c.1 r.2)
                  (shadowHead d.dim + d.slot) true) u) (chargePieces s4 q pos addrs false)
            let s6 := chans.foldl (fun u c =>
              modChannel u c.2 (fun x => { x with puSorted := bump x.puSorted (((onChan c.2).map (·.count)).sum) })) s5
            let sorted := (List.range 128).map (fun c => (onChan c).map (·.grad))
            let (rec, nf, flag) := tableNorm d.tensorId sorted
            (cmdWrite s6 q pos e.normAddr rec).andThen (fun s7 _ =>
              let s8 := modTable s7 p e.table (fun y => { y with pendingStep := some step, shadow := entries })
              let pages := rows.map (fun r => d.firstPage + (d.place r).1)
              let s9 := if d.tiered then modObject s8 p d.object (fun o =>
                { o with pinned := o.pinned ++ pages.filter (fun g => !o.pinned.contains g) }) else s8
              .ok (addLanes s9 p flag nf (s.life.moduleId * 2 ^ 13 + 0x1FFF) (layerOf s9 p d.tensorId)) []))
      | (.held u, _) => .held u
      | (.ended u, _) => .ended u)

/-- The tables that an update plan names. -/
def planTables (es : List PlanEntry) : List Nat := es.map (·.table)

/-- A reduce stage that did not complete leaves no table and no lane changed; it is run again from its start (R249). -/
def dropReduce (s : State) (p : Nat) (ts : List Nat) (o : OpenStep) : State :=
  modJob (ts.foldl (fun w t => modTable w p t (fun y => { y with pendingStep := none, shadow := [] })) s) p
    (fun j => { j with step := some o })

/-- EMB_UPDATE (R246 to R250): its reduce stage. The command then waits for the apply stage, which the step's commit runs. (DEDUCED, log entry 35) -/
def execEmbUpdate (q : BitVec 12) (pos : BitVec 32) (s : State) : Out :=
  .next (runCmd s q.toNat pos.toNat 0x08 (fun x c =>
    let p := x.partition
    let n := c.field 0x28 1
    match (jobAt s p).bind (·.step) with
    | none => s
    | some o =>
      if c.granted then s
      else
        (cmdRead s q.toNat pos.toNat (c.field 0x20 8) (64 * n)).bind (fun s1 b =>
          let es := planEntries b n
          let ts := planTables es
          if !(List.range n).all (fun i => planEntryOk s1 p true (sliceBytes b (64 * i) 64))
              || !decide ts.Nodup || ts.any (fun t => o.updated.contains t) then
            endCmd s1 q.toNat pos.toNat stInvalid
          else if ts.any (fun t => ((tableAt s1 p t).bind (·.pendingStep)).isSome) then s
          else
            match ioFold (fun u e => reduceEntry u q.toNat pos.toNat p o.step e.2 e.1) s1 es.zipIdx with
            | .held u => dropReduce u p ts o
            | .ended u => dropReduce u p ts o
            | .ok u _ =>
              modCmd (modJob u p (fun j => { j with step := j.step.map (fun y => { y with updated := y.updated ++ ts }) }))
                q.toNat pos.toNat (fun y =>
                  { y with granted := true,
                           result := ((ts.filterMap (fun t => (tableAt u p t).map (fun z => z.shadow.length))).sum) % 2 ^ 32 }))))

/-! ### Re-layout events (R254 to R256) -/

/-- The channels that a region's old pages lie on. -/
def regionChannels (d : TableDesc) (j : Nat) : List Nat :=
  (List.range 16).filterMap (fun k => if 16 * j + k < d.pageCount then some (d.channel (16 * j + k)) else none)

/-- RELAYOUT_REGION_START (R254 step 1): the next region, in ascending order, whose channels move no other region. -/
def execRelayoutRegionStart (p : BitVec 4) (table : BitVec 16) (region : Nat) (s : State) : Out :=
  let pn := p.toNat
  let id := table.toNat
  match tableAt s pn id with
  | none => .next s
  | some t =>
    match t.relayout with
    | none => .next s
    | some r =>
      let home : RegionState := if r.revert then .new else .old
      let next := r.regions.findIdx? (fun g => g.state == home)
      let busy := ((r.regions.zipIdx).filter (fun g => g.1.state == .moving && !g.1.copied)).flatMap (fun g => regionChannels t.desc g.2)
      if r.status = .running ∧ next = some region ∧ (regionChannels t.desc region).all (fun c => !busy.contains c) then
        .next (modRegionEntry s pn id region (fun _ => { state := .moving, copied := false, restarts := 0 }))
      else .next s

/-- One row copied from the serving layout to the other, decoded exactly and encoded with the new round field (R254). -/
def copyRow (s : State) (p : Nat) (src dst : TableDesc) (row : Nat) : State :=
  let slot := cohRead s (slotAddr s p src row) src.slot
  let vals := decodeRow src slot
  let key := ((partAt s p).map (·.rngKey)).getD 0
  let rds (i : Nat) : Round := if dst.sr then .sr (rngElem key 0xFFFFFFFE dst.tensorId (row * dst.dim + i)) else .rne
  let st := (rowState src slot ++ List.replicate dst.stateWords 0).take dst.stateWords
  let s1 := cohWrite s (slotAddr s p dst row) (encodeRow dst rds vals st)
  let s2 := modChannel s1 (src.channel (src.place row).1) (fun c => { c with puRelayoutBytes := bump c.puRelayoutBytes src.slot })
  modChannel s2 (dst.channel (dst.place row).1) (fun c => { c with puRelayoutBytes := bump c.puRelayoutBytes dst.slot })

/-- RELAYOUT_REGION_COPIED (R254 steps 2 and 3): the copy of a MOVING region, which a page outside T1 holds (R259). -/
def execRelayoutRegionCopied (p : BitVec 4) (table : BitVec 16) (region : Nat) (s : State) : Out :=
  let pn := p.toNat
  let id := table.toNat
  match tableAt s pn id with
  | none => .next s
  | some t =>
    match t.relayout with
    | none => .next s
    | some r =>
      match r.regions[region]? with
      | none => .next s
      | some g =>
        if r.status ≠ .running ∨ g.state ≠ .moving ∨ g.copied then .next s
        else
          let src := if r.revert then r.newDesc else t.desc
          let dst := if r.revert then t.desc else r.newDesc
          let rows := regionRows t region
          let spots := rows.map (fun w => (slotAddr s pn src w, src.slot)) ++ rows.map (fun w => (slotAddr s pn dst w, dst.slot))
          match tierReady s pn none false true spots with
          | .held u => .next u
          | .bad u => .next u
          | .ready u =>
            .next (modRegionEntry (rows.foldl (fun w row => copyRow w pn src dst row) u) pn id region
              (fun x => { x with copied := true }))

/-- RELAYOUT_REGION_RESTART (R255). -/
def execRelayoutRegionRestart (p : BitVec 4) (table : BitVec 16) (region : Nat) (s : State) : Out :=
  .next (restartRegion s p.toNat table.toNat region)

/-- Does any queued or running command declare a table? -/
def tableInUse (s : State) (p id : Nat) : Bool :=
  !(cmdsWhere s (fun q x c => x.partition == p && (c.opcode == 7 || c.opcode == 8) &&
    (match rangePieces s p (queuePasid s q) false (c.field 0x20 8) (64 * c.field 0x28 1) with
     | none => true
     | some l => (planTables (planEntries (readPieces s l) (c.field 0x28 1))).contains id))).isEmpty

/-- RELAYOUT_SWITCH_POINT (R256, second kind): no command declaring the table is queued or running. -/
def execRelayoutSwitchPoint (p : BitVec 4) (table : BitVec 16) (s : State) : Out :=
  if tableInUse s p.toNat table.toNat then .next s else .next (switchPoint s p.toNat table.toNat)

end Sys2Proof.Machine
end

