-- ==== Sys2Proof/Machine/Update.lean ====
section
/-! DEFINITION. The update lanes: parameter blocks, update rules, the update of one block, the apply stage of a table, and the drip records a block stages (R299 to R312, R325 to R328). -/

namespace Sys2Proof.Machine

/-! ### Directory, descriptors and records (Tables 10-1 to 10-4) -/

/-- A parameter directory entry (Table 10-1). -/
structure DirEnt where
  blocks : Nat
  descAddr : Nat
  xBase : Nat
  tensor : Nat
  layer : Nat
  rule : Nat
  copyFmt : Nat
  gradFmt : Nat
  sr : Bool
  noDrip : Bool
  group : Nat
deriving DecidableEq, Repr

/-- The fields of a directory entry. -/
def dirEntOfBytes (b : List Byte) : DirEnt :=
  { blocks := fieldAt b 0 8, descAddr := fieldAt b 8 8, xBase := fieldAt b 0x10 8, tensor := fieldAt b 0x18 2,
    layer := fieldAt b 0x1A 2, rule := fieldAt b 0x1C 1, copyFmt := fieldAt b 0x1D 1 % 16, gradFmt := fieldAt b 0x1D 1 / 16,
    sr := natBit (fieldAt b 0x1E 1) 0, noDrip := natBit (fieldAt b 0x1E 1) 1, group := fieldAt b 0x1F 1 }

/-- Directory entry i of a job. -/
def dirEnt (_ : State) (j : Job) (i : Nat) : DirEnt := dirEntOfBytes (sliceBytes j.paramDir (64 * i) 64)

/-- A block descriptor (Table 10-2). -/
structure BlockDesc where
  record : Nat
  copy : Nat
  grad : Nat
  elems : Nat
deriving DecidableEq, Repr

/-- The descriptor of block b of a directory entry. -/
def blockDesc (s : State) (e : DirEnt) (b : Nat) : BlockDesc :=
  let x := cohRead s (e.descAddr + 32 * b) 32
  { record := fieldAt x 0 8, copy := fieldAt x 8 8, grad := fieldAt x 0x10 8, elems := fieldAt x 0x18 2 }

/-- Is a rule factored? -/
def ruleFactored (r : Nat) : Bool := r == 4 || r == 5
/-- Has a rule a moment? -/
def ruleMoment (r : Nat) : Bool := r == 1 || r == 2 || r == 3 || r == 5

/-- Set size of a rule's record (R301). -/
def setSize (r : Nat) : Nat := if ruleFactored r then 1056 else 32

/-- A set of a block record (Table 10-4). -/
structure BlockSet where
  master : Nat
  moment : Nat
  digest : Nat
  wss : Word32
  uss : Word32
  ra : List Word32
  ca : List Word32
deriving DecidableEq, Repr

/-- Set i of a record. -/
def readSet (s : State) (rule : Nat) (d : BlockDesc) (i : Nat) : BlockSet :=
  let b := cohRead s (d.record + 0x20 + i * setSize rule) (setSize rule)
  { master := fieldAt b 0 4 % 2 ^ 25, moment := fieldAt b 4 4, digest := fieldAt b 8 8,
    wss := BitVec.ofNat 32 (fieldAt b 0x10 4), uss := BitVec.ofNat 32 (fieldAt b 0x14 4),
    ra := if ruleFactored rule then wordsOf (sliceBytes b 0x20 512) 128 else [],
    ca := if ruleFactored rule then wordsOf (sliceBytes b 0x220 512) 128 else [] }

/-- Set i of a record written. -/
def writeSet (s : State) (rule : Nat) (d : BlockDesc) (i : Nat) (x : BlockSet) : State :=
  cohWrite s (d.record + 0x20 + i * setSize rule)
    (natToBytes 4 x.master ++ natToBytes 4 x.moment ++ natToBytes 8 x.digest ++ natToBytes 4 x.wss.toNat
      ++ natToBytes 4 x.uss.toNat ++ zeros 8 ++ (if ruleFactored rule then wordBytes x.ra ++ wordBytes x.ca else []))

/-- The stamp of a block, where its pair is valid. -/
def blockStamp (s : State) (d : BlockDesc) : Option Nat := cp32At (cohRead s d.record 8) 0

/-- sel of a block: active set and quarantined. -/
def blockSel (s : State) (d : BlockDesc) : Option (Nat × Bool) :=
  (cp32At (cohRead s (d.record + 8) 8) 0).map (fun v => (v % 2, natBit v 1))

/-- stamp and sel written as one access (R302). -/
def putStampSel (s : State) (d : BlockDesc) (stamp active : Nat) (quarantined : Bool) : State :=
  cohWrite s d.record (cp32Bytes (stamp % 2 ^ 32) ++ cp32Bytes (active + 2 * bitOf quarantined))

/-- The home channel of a block (R300). -/
def homeChannel (d : BlockDesc) : Nat := t1Channel d.record

/-- Words of a frame. -/
def frameWords (s : State) (frame n : Nat) : List Word32 := wordsOf (cohRead s (frame * 65536) (4 * n)) n

/-- The retained gradient of a block, decoded exactly. -/
def blockGrad (s : State) (e : DirEnt) (d : BlockDesc) : List Word32 :=
  let w := rowElemBytes e.gradFmt
  let b := cohRead s d.grad (w * d.elems)
  (List.range d.elems).map (fun i => rne32 ((codeKind e.gradFmt).decode (fieldAt b (w * i) w)))

/-! ### Hyperparameters (Table 10-7) -/

/-- A hyperparameter entry. -/
structure Hyper where
  lr : Word32
  lrScale : Word32
  wd : Word32
  b1 : Word32
  b2 : Word32
  eps : Word32
  eps1 : Word32
  reserved : Nat
deriving DecidableEq, Repr

/-- The entry of a layer. -/
def hyperAt (s : State) (table layer : Nat) : Hyper :=
  let b := cohRead s (table + 32 * layer) 32
  let w (o : Nat) : Word32 := BitVec.ofNat 32 (fieldAt b o 4)
  { lr := w 0, lrScale := w 4, wd := w 8, b1 := w 12, b2 := w 16, eps := w 20, eps1 := w 24, reserved := fieldAt b 28 4 }

/-- Finite and at least +0.0. −0.0 counts as +0.0. -/
def finNonneg (x : Word32) : Bool := (f32 x).isFinite && (!(f32 x).isNeg || (f32 x).isZero)

/-- Finite and above +0.0. -/
def finPos (x : Word32) : Bool := (f32 x).isFinite && !(f32 x).isNeg && !(f32 x).isZero

/-- 1.0. -/
def oneF32 : Word32 := 0x3F800000

/-- Is an entry within Table 10-7 for a rule? -/
def hyperOk (rule : Nat) (h : Hyper) : Bool :=
  finNonneg h.lr && finNonneg h.lrScale && finNonneg h.wd && finNonneg h.b1 && ltF32 h.b1 oneF32
    && finNonneg h.b2 && ltF32 h.b2 oneF32 && finNonneg h.eps && (rule != 6 || finPos h.eps)
    && (!ruleFactored rule || finPos h.eps1) && h.reserved == 0

/-- The rules that Eskor-exact numerics allow (Table 2-9). (DEDUCED, log entry 37) -/
def eskorRule (rule : Nat) : Bool := rule == 0 || rule == 1 || rule == 2 || rule == 6

/-! ### Rules (R306, R307, R309) -/

/-- fma, or its two separately rounded operations in Eskor-exact mode (Table 2-9). (DEDUCED, log entry 37) -/
def lfma (ek : Bool) (a b c : Word32) : Word32 := if ek then addF32 (mulF32 a b) c else fmaF32 a b c

/-- The true gradient: unscaled by 2^−s_l, then clipped (R306). -/
def trueGrad (sl : Int) (clip : Option Word32) (g : Word32) : Word32 :=
  let u := rne32 ((f32 g).scale (-sl))
  match clip with
  | none => u
  | some c => mulF32 u c

/-- The new parameter value (R306). -/
def stepWeight (h : Hyper) (w u : Word32) : Word32 :=
  let eta := mulF32 h.lr h.lrScale
  subF32 w (mulF32 eta (addF32 u (mulF32 h.wd w)))

/-- Direction and new moment of rules 0 to 3 (Table 10-6). -/
def ruleStep (ek : Bool) (rule : Nat) (h : Hyper) (m g : Word32) : Word32 × Word32 :=
  let ob1 := subF32 oneF32 h.b1
  let ob2 := subF32 oneF32 h.b2
  match rule with
  | 0 => (g, m)
  | 1 => let m1 := lfma ek h.b1 m g; (m1, m1)
  | 2 => let m1 := lfma ek h.b1 m g; (lfma ek h.b1 m1 g, m1)
  | _ =>
    let t := lfma ek h.b1 m (mulF32 ob1 g)
    let u : Word32 := if (f32 t).isNan then nanF32 else if (f32 t).isZero then 0 else if (f32 t).isNeg then 0xBF800000 else oneF32
    (u, lfma ek h.b2 m (mulF32 ob2 g))

/-- Accumulators of `factored` over rows or columns (R307). `at i j` is the gradient element. -/
def factorAcc (h : Hyper) (at' : Nat → Nat → Word32) (old : List Word32) : List Word32 :=
  let ob2 := subF32 oneF32 h.b2
  (List.range 128).map (fun i =>
    let acc := (List.range 128).foldl (fun a j => addF32 a (fmaF32 (at' i j) (at' i j) h.eps1)) 0
    fmaF32 h.b2 (old.getD i 0) (mulF32 ob2 (divF32 acc (natF32 128))))

/-- `factored` (R307): directions, new moments and accumulators, for the block's elements. -/
def factoredRule (rule : Nat) (h : Hyper) (g m ra ca : List Word32) : List Word32 × List Word32 × List Word32 × List Word32 :=
  let el (i j : Nat) : Word32 := g.getD (128 * i + j) 0
  let ra1 := factorAcc h el ra
  let ca1 := factorAcc h (fun j i => el i j) ca
  let rbar := divF32 (ra1.foldl addF32 0) (natF32 128)
  let ob1 := subF32 oneF32 h.b1
  let u0 (x : Nat) : Word32 :=
    divF32 (g.getD x 0) (sqrtF32 (divF32 (mulF32 (ra1.getD (x / 128) 0) (ca1.getD (x % 128) 0)) rbar))
  let us := (List.range g.length).map u0
  if rule = 5 then
    let m1 := (us.zipIdx).map (fun e => fmaF32 h.b1 (m.getD e.2 0) (mulF32 ob1 e.1))
    (m1, m1, ra1, ca1)
  else (us, m, ra1, ca1)

/-- What a rule makes of a block: new masters, new moments and accumulators. -/
def applyRule (ek : Bool) (rule : Nat) (h : Hyper) (w g m ra ca : List Word32) :
    List Word32 × List Word32 × List Word32 × List Word32 :=
  if ruleFactored rule then
    let (u, m1, ra1, ca1) := factoredRule rule h g m ra ca
    ((w.zip u).map (fun p => stepWeight h p.1 p.2), m1, ra1, ca1)
  else
    let um := (g.zipIdx).map (fun e => ruleStep ek rule h (m.getD e.2 0) e.1)
    ((w.zip um).map (fun p => stepWeight h p.1 p.2.1), um.map (·.2), ra, ca)

/-- The stream of the update lanes or of a table apply: kind 0, the purpose, the step (R287, R311). -/
def laneStream (purpose step : Nat) : Nat := step % 2 ^ 26 + purpose * 2 ^ 26

/-- The compute copy of a block: the masters in the copy format (R311). -/
def copyBytes (key step : Nat) (e : DirEnt) (b : Nat) (w : List Word32) : List Byte :=
  let width := codeBits e.copyFmt
  let xs := (w.zipIdx).map (fun p =>
    let x := e.xBase + 16384 * b + p.2
    let rd : Round := if e.sr then .sr (rngElem key (laneStream 3 step) e.tensor x) else .rne
    (codeKind e.copyFmt).encode rd .sat (f32 p.1))
  natToBytes (packedBytes width w.length) (packElems width xs)

/-! ### Drip records (Tables 10-15 and 10-16, R327) -/

/-- A drip record. -/
def dripRecord (ty step module idA idB : Nat) (payload : List Byte) : List Byte :=
  let n := 0x20 + payload.length + 8
  let body := cp32Bytes (ty + (n + 63) / 64 * 256) ++ natToBytes 8 step ++ natToBytes 2 module ++ natToBytes 2 idA
    ++ natToBytes 4 payload.length ++ natToBytes 8 idB ++ payload
  pad64 (body ++ natToBytes 8 (crc64 body))

/-- A run of the XOR-RLE code: zero words, or literal words. -/
def rleRuns : List Nat → List (List Nat)
  | [] => []
  | x :: rest =>
    match rleRuns rest with
    | (y :: ys) :: runs => if (x == 0) == (y == 0) then (x :: y :: ys) :: runs else [x] :: (y :: ys) :: runs
    | other => [x] :: other

/-- XOR-RLE of a difference (R327). -/
def xorRle (words : List Nat) : List Byte :=
  (rleRuns words).flatMap (fun r =>
    if r.head? = some 0 then natToBytes 4 r.length
    else natToBytes 4 (2 ^ 31 + r.length) ++ r.flatMap (natToBytes 4))

/-- The words of a block that a drip record carries: masters, moments, accumulators. -/
def dripWords (rule : Nat) (w m ra ca : List Word32) : List Word32 :=
  w ++ (if ruleMoment rule then m else []) ++ (if ruleFactored rule then ra ++ ca else [])

/-- BLOCK_FULL of a block as it stands (Table 10-16). -/
def blockFull (s : State) (e : DirEnt) (b : Nat) : List Byte :=
  let d := blockDesc s e b
  let a := ((blockSel s d).map (·.1)).getD 0
  let x := readSet s e.rule d a
  let ws := dripWords e.rule (frameWords s x.master d.elems)
    (if ruleMoment e.rule then frameWords s x.moment d.elems else []) x.ra x.ca
  dripRecord 0x01 ((blockStamp s d).getD 0) s.life.moduleId e.tensor b (wordBytes ws)

/-- Staged bytes of a channel. -/
def stagedBytes (dr : Drip) (ch : Nat) : Nat := ((dr.staged.filter (fun x => x.1 == ch)).map (fun x => x.2.2.2.length)).sum

/-- A block's change staged, or the block behind (R328 step 4). -/
def stageBlock (s : State) (p step dirIdx b : Nat) (e : DirEnt) (d : BlockDesc) (old new : List Word32) : State :=
  match (jobAt s p).bind (·.drip) with
  | none => s
  | some dr =>
    if e.noDrip || !dr.leads.contains e.group then s
    else
      let ch := homeChannel d
      let drip := (cp32At (cohRead s (d.record + 0x18) 8) 0).getD 0
      let current := natBit drip 31 && decide (drip % 2 ^ 31 = (step - 1) % 2 ^ 31)
      let diff := (new.zip old).map (fun x => (x.1 ^^^ x.2).toNat)
      let xr := xorRle diff
      let full := wordBytes new
      let rec0 := if full.length < xr.length then dripRecord 0x01 step s.life.moduleId e.tensor b full
        else dripRecord 0x02 step s.life.moduleId e.tensor b xr
      let room := fieldAt dr.stagingList (8 * ch + 4) 4 * 65536
      if current && decide (stagedBytes dr ch + rec0.length ≤ room) then
        let s1 := cohWrite s (d.record + 0x18) (cp32Bytes (step % 2 ^ 31 + 2 ^ 31))
        let s2 := modChannel s1 ch (fun c => { c with ulDripStaged := bump c.ulDripStaged rec0.length })
        modJob s2 p (fun j => { j with drip := j.drip.map (fun y => { y with staged := y.staged ++ [(ch, dirIdx, b, rec0)] }) })
      else
        let s1 := modChannel s ch (fun c => { c with ulDripBehind := c.ulDripBehind + 1 })
        modJob s1 p (fun j => { j with drip := j.drip.map (fun y =>
          { y with behind := if y.behind.any (fun x => x.1 == dirIdx && x.2.1 == b) then y.behind
                             else y.behind ++ [(dirIdx, b, if natBit drip 31 then drip % 2 ^ 31 else 0)] }) })

/-! ### The update of one block (Table 10-5) -/

/-- The address of a channel's lane journal area; 0 for none. -/
def laneJournalAt (_ : State) (j : Job) (ch : Nat) : Nat := fieldAt j.laneJournal (8 * ch) 8

/-- Step 2: the slot names the block and the spare frames (R303). -/
def putLaneSlot (s : State) (j : Job) (ch dirIdx b : Nat) (spare : Nat × Nat) : State :=
  let a := laneJournalAt s j ch
  if a = 0 then s
  else cohWrite s a (cp64Bytes (dirIdx % 2 ^ 16 + b * 2 ^ 16)
    ++ cp64Bytes (spare.1 % 2 ^ 25 + (if spare.2 = 0xFFFFFFFF then 0x1FFFFFF else spare.2 % 2 ^ 25) * 2 ^ 25))

/-- T1 ranges that the commit of a partition's step touches, counted for the command that runs it (R418, R419). (DESIGN CHOICE, log entry 42) (DEDUCED, log entry 50) -/
def chargeCommit (s : State) (p : Nat) (l : List (Nat × Nat)) (write : Bool) : State :=
  match (jobAt s p).bind (·.commit) with
  | none => s
  | some r => chargePieces s r.queue r.pos l write

/-- Does any line of a block that the update reads stay poisoned (R462)? -/
def blockPoisoned (s : State) (e : DirEnt) (d : BlockDesc) (x : BlockSet) : Bool :=
  rangePoisoned s (x.master * 65536) (4 * d.elems)
    || (ruleMoment e.rule && rangePoisoned s (x.moment * 65536) (4 * d.elems))
    || rangePoisoned s d.grad (rowElemBytes e.gradFmt * d.elems)
    || rangePoisoned s d.record (0x20 + 2 * setSize e.rule)

/-- The error-log entry of a poisoned line that an update lane finds in a block (R462, Table 16-2). -/
def logLanePoison (s : State) (p : Nat) (e : DirEnt) (d : BlockDesc) (x : BlockSet) : State :=
  let ranges := [(x.master * 65536, 4 * d.elems), (d.grad, rowElemBytes e.gradFmt * d.elems),
    (d.record, 0x20 + 2 * setSize e.rule)] ++ (if ruleMoment e.rule then [(x.moment * 65536, 4 * d.elems)] else [])
  match (ranges.flatMap (fun r => lineStarts r.1 r.2)).find? (fun l => rangePoisoned s l 64) with
  | some a => logError s 2 (8 + t1Channel a / 32) 0x0203 p 0xFFFF 0 a (t1Channel a)
  | none => s

/-- The contents of a block written into the spare frames and the inactive set, and the block switched (Table 10-5 steps 2
to 6); the newly inactive frames become the spare frames. (DESIGN CHOICE, log entry 78) -/
def switchBlock (s : State) (p step dirIdx b : Nat) (e : DirEnt) (w m ra ca : List Word32) (uss : Word32) : State :=
  match jobAt s p with
  | none => s
  | some j =>
    let d := blockDesc s e b
    let ch := homeChannel d
    let a := ((blockSel s d).map (·.1)).getD 0
    let old := readSet s e.rule d a
    let spares := mapGetD j.spares ch []
    let spare := spares.headD (0, 0xFFFFFFFF)
    let key := ((partAt s p).map (·.rngKey)).getD 0
    let s1 := putLaneSlot s j ch dirIdx b spare
    let bytes := wordBytes w
    let s2 := cohWrite s1 (spare.1 * 65536) bytes
    let s3 := if ruleMoment e.rule then cohWrite s2 (spare.2 * 65536) (wordBytes m) else s2
    let wss := w.foldl (fun acc x => fmaF32 x x acc) 0
    let s4 := writeSet s3 e.rule d (1 - a)
      { master := spare.1, moment := if ruleMoment e.rule then spare.2 else 0xFFFFFFFF, digest := crc64 bytes,
        wss := wss, uss := uss, ra := ra, ca := ca }
    let s5 := cohWrite s4 d.copy (copyBytes key step e b w)
    let s6 := putStampSel s5 d step (1 - a) false
    let s7 := modJob s6 p (fun y => { y with spares := mapSet y.spares ch ((old.master, if ruleMoment e.rule then old.moment else spare.2) :: spares.drop 1) })
    let s8 := chargeCommit s7 p ([(spare.1 * 65536, bytes.length), (d.copy, packedBytes (codeBits e.copyFmt) d.elems),
      (d.record, setSize e.rule + 32)] ++ (if ruleMoment e.rule then [(spare.2 * 65536, 4 * d.elems)] else [])) true
    modChannel s8 ch (fun c => { c with
      ulBlocks := c.ulBlocks + 1,
      ulBytesWr := bump c.ulBytesWr (bytes.length + (if ruleMoment e.rule then 4 * d.elems else 0)
        + packedBytes (codeBits e.copyFmt) d.elems + setSize e.rule + 32) })

/-- What became of a block in step 4. -/
inductive BlockEnd where
  | done        -- already at step N
  | applied
  | poisoned    -- nothing written (R462)
deriving DecidableEq, Repr

/-- The update of one block for step N under APPLY or CLIP (Table 10-5, R306). -/
def updateBlock (s : State) (p step dirIdx b hyper : Nat) (clip : Option Word32) : BlockEnd × State :=
  match jobAt s p with
  | none => (.done, s)
  | some j =>
    let e := dirEnt s j dirIdx
    let d := blockDesc s e b
    match blockStamp s d, blockSel s d with
    | some st, some (a, quar) =>
      if st = step % 2 ^ 32 ∧ !quar then (.done, s)
      else
        let x := readSet s e.rule d a
        if blockPoisoned s e d x then (.poisoned, logLanePoison s p e d x)
        else
          let h := hyperAt s hyper e.layer
          let sl := j.scale.getD e.layer 0
          let w := frameWords s x.master d.elems
          let m := if ruleMoment e.rule then frameWords s x.moment d.elems else []
          let g := (blockGrad s e d).map (trueGrad sl clip)
          let (w1, m1, ra1, ca1) := applyRule (eskorExact s p) e.rule h w g m x.ra x.ca
          let uss := (w1.zip w).foldl (fun acc q => let dd := subF32 q.1 q.2; fmaF32 dd dd acc) 0
          let s0 := chargeCommit s p ([(x.master * 65536, 4 * d.elems), (d.grad, rowElemBytes e.gradFmt * d.elems),
            (d.record, setSize e.rule + 32)] ++ (if ruleMoment e.rule then [(x.moment * 65536, 4 * d.elems)] else [])) false
          let s1 := switchBlock s0 p step dirIdx b e w1 m1 ra1 ca1 uss
          let s2 := modChannel s1 (homeChannel d) (fun c => { c with
            ulBytesRd := bump c.ulBytesRd (4 * d.elems + (if ruleMoment e.rule then 4 * d.elems else 0)
              + rowElemBytes e.gradFmt * d.elems + setSize e.rule + 32) })
          (.applied, stageBlock s2 p step dirIdx b e d (dripWords e.rule w m x.ra x.ca) (dripWords e.rule w1 m1 ra1 ca1))
    | _, _ => (.poisoned, s)

/-- Every block of a job: directory index and block index, ascending. -/
def allBlocks (s : State) (j : Job) : List (Nat × Nat) :=
  (List.range j.paramEntries).flatMap (fun i => (List.range (dirEnt s j i).blocks).map (fun b => (i, b)))

/-! ### The apply stage of a table (R249, R250, R309) -/

/-- The rule of a table: that of the directory entry with its tensor ID; otherwise row-wise Adagrad where it has state
words, else SGD. (DEDUCED, log entry 34) -/
def tableRule (s : State) (j : Job) (d : TableDesc) : Nat :=
  match ((List.range j.paramEntries).map (dirEnt s j)).find? (fun e => e.tensor == d.tensorId) with
  | some e => e.rule
  | none => if d.stateWords = 0 then 0 else 6

/-- A row's new slot (R306, R309). -/
def applyRow (s : State) (p : Nat) (j : Job) (d : TableDesc) (step rule hyper : Nat) (clip : Option Word32) (r : ShadowRow) :
    List Byte :=
  let layer := layerOf s p d.tensorId
  let h := hyperAt s hyper layer
  let sl := j.scale.getD layer 0
  let ek := eskorExact s p
  let w := decodeRow d r.old
  let g := r.grad.map (trueGrad sl clip)
  let st := rowState d r.old
  let (u, st1) : List Word32 × List Nat :=
    if rule = 6 then
      let ss := g.foldl (fun a x => lfma ek x x a) 0
      let a := addF32 (BitVec.ofNat 32 (st.headD 0)) (divF32 ss (natF32 d.dim))
      (g.map (fun x => divF32 x (addF32 (sqrtF32 a) h.eps)), a.toNat :: st.drop 1)
    else (g, st)
  let key := ((partAt s p).map (·.rngKey)).getD 0
  let rds (i : Nat) : Round :=
    if d.sr && !ek then .sr (rngElem key (laneStream 4 step) d.tensorId (r.row * d.dim + i)) else .rne
  encodeRow d rds ((w.zip u).map (fun q => stepWeight h q.1 q.2)) st1

/-- The apply stage of a table: pages in ascending page number, each written whole and then stamped; a page that holds the
step's stamp is skipped (R249, R250). -/
def applyTable (s : State) (p id step hyper : Nat) (clip : Option Word32) : State :=
  match jobAt s p, tableAt s p id with
  | some j, some t =>
    let rule := tableRule s j t.desc
    let rows := t.shadow
    let pages : SMap Unit := rows.foldl (fun m r =>
      let d := servingDesc t r.row
      mapSet m (tablePageAddr s p d (d.place r.row).1) ()) []
    let s1 := (mapKeys pages).foldl (fun st pg =>
      if cp32At (cohRead st (pg + 0xFFC0) 8) 0 = some (step % 2 ^ 32) then st
      else
        let mine := rows.filter (fun r =>
          let d := servingDesc t r.row
          tablePageAddr st p d (d.place r.row).1 == pg)
        let st1 := mine.foldl (fun u r =>
          let d := servingDesc t r.row
          let u1 := cohWrite u (rowAddr u p t r.row) (applyRow u p j d step rule hyper clip r)
          let u2 := modChannel (chargeCommit u1 p [(rowAddr u p t r.row, d.slot)] true) (rowChannel t r.row)
            (fun c => { c with puUpdateRows := c.puUpdateRows + 1 })
          restartRegion u2 p id (pageRegion (t.desc.place r.row).1)) st
        chargeCommit (cohWrite st1 (pg + 0xFFC0) (cp32Bytes (step % 2 ^ 32))) p [(pg + 0xFFC0, 8)] true) s
    let s2 := modTable s1 p id (fun y => { y with pendingStep := none, lastStamp := step % 2 ^ 32 })
    if t.desc.tiered then
      modObject s2 p t.desc.object (fun o =>
        { o with pinned := o.pinned.filter (fun g => !(rows.map (fun r => t.desc.firstPage + (t.desc.place r.row).1)).contains g) })
    else s2
  | _, _ => s

/-- A table whose step is skipped: nothing is written, the pages are released (R249). -/
def skipTable (s : State) (p id : Nat) : State :=
  match tableAt s p id with
  | none => s
  | some t =>
    let s1 := modTable s p id (fun y => { y with pendingStep := none })
    if t.desc.tiered then
      modObject s1 p t.desc.object (fun o =>
        { o with pinned := o.pinned.filter (fun g => !(t.shadow.map (fun r => t.desc.firstPage + (t.desc.place r.row).1)).contains g) })
    else s1

end Sys2Proof.Machine
end

