-- ==== Sys2Proof/Machine/Drip.lean ====
section
/-! DEFINITION. The drip stream of a job: staged records, the ring, markers, behind blocks and pages, lag records (R325 to R329). -/

namespace Sys2Proof.Machine

/-- A job's drip stream changed. -/
def modDrip (s : State) (p : Nat) (f : Drip → Drip) : State := modJob s p (fun j => { j with drip := j.drip.map f })

/-- Units that the consumer has not freed (R325). -/
def dripUsed (s : State) (d : Drip) : Nat :=
  (d.tail + 2 ^ 32 - (cp32At (cohRead s (d.ring + 8) 8) 0).getD 0) % 2 ^ 32

/-- Free 64 B units of the ring. -/
def dripFree (s : State) (d : Drip) : Nat := (d.size - 64) / 64 - dripUsed s d

/-- One record into the ring, where there is room for it and for the padding before it. -/
def dripPut (s : State) (p : Nat) (r : List Byte) : Option State :=
  match (jobAt s p).bind (·.drip) with
  | none => none
  | some d =>
    let area := d.size - 64
    let off := d.tail * 64 % area
    let pad := if off + r.length ≤ area then 0 else area - off
    if (pad + r.length) / 64 ≤ dripFree s d then
      let s1 := if pad = 0 then s else moduleWrite s (d.ring + 64 + off) (cp32Bytes (0x3F + pad / 64 * 256))
      let off1 := if pad = 0 then off else 0
      let s2 := moduleWrite s1 (d.ring + 64 + off1) r
      let tail := (d.tail + (pad + r.length) / 64) % 2 ^ 32
      let s3 := moduleWrite s2 d.ring (cp32Bytes tail)
      some (modDrip s3 p (fun y => { y with tail := tail }))
    else none

/-- Waiting records written while there is room. `fuel` is their number. -/
def drainReady : Nat → State → Nat → State
  | 0, s, _ => s
  | fuel + 1, s, p =>
    match (jobAt s p).bind (·.drip) with
    | none => s
    | some d =>
      match d.ready with
      | [] => s
      | r :: rest =>
        match dripPut s p r with
        | none => s
        | some t => drainReady fuel (modDrip t p (fun y => { y with ready := rest })) p

/-- Every waiting record written while there is room. -/
def drainDrip (s : State) (p : Nat) : State :=
  drainReady ((((jobAt s p).bind (·.drip)).map (fun d => d.ready.length)).getD 0) s p

/-- A record queued for the ring and counted in its step. -/
def dripEmit (s : State) (p : Nat) (r : List Byte) : State :=
  modDrip s p (fun d => { d with ready := d.ready ++ [r], recordsInStep := d.recordsInStep + 1 })

/-- ROW records of a table, or its touched pages behind where they exceed the table rate (R328). -/
def dripTable (s : State) (p step id : Nat) : State :=
  match (jobAt s p).bind (·.drip), tableAt s p id with
  | some d, some t =>
    let total := (t.shadow.map (fun r => (servingDesc t r.row).slot)).sum
    if total ≤ d.tableRate then
      t.shadow.foldl (fun u r =>
        dripEmit u p (dripRecord 0x03 step s.life.moduleId id r.row
          (cohRead u (rowAddr u p t r.row) (servingDesc t r.row).slot))) s
    else
      modDrip s p (fun y => { y with behindPages := t.shadow.foldl (fun l r =>
        let pg := ((servingDesc t r.row).place r.row).1
        if l.contains (id, pg) then l else l ++ [(id, pg)]) y.behindPages })
  | _, _ => s

/-- The behind block emitted first: oldest drip step, then directory and block order. (DESIGN CHOICE, log entry 46) -/
def oldestBehind (l : List (Nat × Nat × Nat)) : Option (Nat × Nat × Nat) :=
  l.foldl (fun (b : Option (Nat × Nat × Nat)) x =>
    match b with
    | none => some x
    | some y =>
      if x.2.2 < y.2.2 ∨ (x.2.2 = y.2.2 ∧ (x.1 < y.1 ∨ (x.1 = y.1 ∧ x.2.1 < y.2.1))) then some x else some y) none

/-- The MARKER of a step (Table 10-17). -/
def markerBody (j : Job) (d : Drip) (decision step : Nat) (scale : List Byte) : List Byte :=
  let complete := d.behind.isEmpty && d.behindPages.isEmpty
  natToBytes 2 decision ++ natToBytes 1 (bitOf complete) ++ zeros 1 ++ natToBytes 4 d.recordsInStep
    ++ natToBytes 8 (if complete then step else d.lastComplete) ++ natToBytes 2 j.layers ++ zeros 6 ++ scale

/-- A drip lag record (Table 10-18). -/
def lagBody (s : State) (j : Job) (d : Drip) (step : Nat) : List Byte :=
  let o := oldestBehind d.behind
  natToBytes 8 step ++ natToBytes 8 d.lastComplete ++ natToBytes 4 d.behind.length ++ natToBytes 4 d.behindPages.length
    ++ natToBytes 2 ((o.map (fun x => (dirEnt s j x.1).tensor)).getD 0) ++ natToBytes 6 ((o.map (·.2.1)).getD 0)
    ++ natToBytes 8 (dripFree s d) ++ zeros 8

/-- What follows a step's commit on a drip leader (R328, R329): staged records, rows, the marker, the lag record.
`q` is the queue that submitted STEP_BEGIN. -/
def dripRelease (s : State) (p q step decision : Nat) (tables : List Nat) (scale : List Byte) : State :=
  match jobAt s p with
  | none => s
  | some j =>
    match j.drip with
    | none => s
    | some d =>
      if d.dest = 0 then s
      else
        let s1 := modDrip s p (fun y => { y with
          ready := y.ready ++ y.staged.map (·.2.2.2), recordsInStep := y.recordsInStep + y.staged.length, staged := [] })
        let s2 := if decision = 1 ∨ decision = 2 then tables.foldl (fun t id => dripTable t p step id) s1 else s1
        let d2 := ((jobAt s2 p).bind (·.drip)).getD d
        let mark := dripRecord 0x05 step s.life.moduleId 0 0 (markerBody j d2 decision step scale)
        let complete := d2.behind.isEmpty && d2.behindPages.isEmpty
        let s3 := modDrip s2 p (fun y => { y with
          ready := y.ready ++ [mark], recordsInStep := 0, lastComplete := if complete then step else y.lastComplete })
        let s4 := drainDrip s3 p
        let s5 := if complete then modPart s4 p (fun x => { x with journal := { x.journal with snapshotDue := true } }) else s4
        let d5 := ((jobAt s5 p).bind (·.drip)).getD d2
        if d5.lastComplete + d5.lag < step + 1 then
          let body := lagBody s5 j d5 step
          telemetryQueue (telemetryPf0 s5 0x04 body) q 0x04 body
        else s5

/-- Every block of a replica group invalid in the drip stream: a new leader's first step (R325). -/
def dripInvalidate (s : State) (p g : Nat) : State :=
  match jobAt s p with
  | none => s
  | some j =>
    (allBlocks s j).foldl (fun t x =>
      let e := dirEnt t j x.1
      if e.group = g then cohWrite t ((blockDesc t e x.2).record + 0x18) (cp32Bytes 0) else t) s

/-- DRIP_BEHIND_EMIT (R328): one BLOCK_FULL or PAGE_FULL for what is behind, where the ring has room and no record waits. -/
def execDripBehindEmit (p : BitVec 4) (s : State) : Out :=
  let pn := p.toNat
  match jobAt s pn with
  | none => .next s
  | some j =>
    match j.drip with
    | none => .next s
    | some d =>
      if !d.ready.isEmpty ∨ d.dest = 0 then .next s
      else
        match oldestBehind d.behind with
        | some (i, b, _) =>
          let e := dirEnt s j i
          let r := blockFull s e b
          match dripPut s pn r with
          | none => .next s
          | some t =>
            let de := blockDesc t e b
            let st := (blockStamp t de).getD 0
            let t1 := cohWrite t (de.record + 0x18) (cp32Bytes (st % 2 ^ 31 + 2 ^ 31))
            .next (modDrip t1 pn (fun y => { y with
              behind := y.behind.filter (fun x => !(x.1 == i && x.2.1 == b)), recordsInStep := y.recordsInStep + 1 }))
        | none =>
          match d.behindPages with
          | [] => .next s
          | (id, pg) :: rest =>
            match tableAt s pn id with
            | none => .next (modDrip s pn (fun y => { y with behindPages := rest }))
            | some t =>
              let a := tablePageAddr s pn t.desc pg
              let r := dripRecord 0x04 t.lastStamp s.life.moduleId id pg (cohRead s a 65536)
              match dripPut s pn r with
              | none => .next s
              | some u => .next (modDrip u pn (fun y => { y with
                  behindPages := rest, recordsInStep := y.recordsInStep + 1 }))

/-- DRIP_RING_ROOM (R325): the consumer's head, and waiting records resume. -/
def execDripRingRoom (p : BitVec 4) (head : BitVec 64) (s : State) : Out :=
  let pn := p.toNat
  match (jobAt s pn).bind (·.drip) with
  | none => .next s
  | some d =>
    .next (drainDrip (moduleWrite s (d.ring + 8) (cp32Bytes (head.toNat % 2 ^ 32))) pn)

end Sys2Proof.Machine
end

