-- ==== Sys2Proof/Machine/Images.lean ====
section
/-! DEFINITION. Signed images, their verification, the slots of module flash, and trials (R465, R478 to R483). -/

namespace Sys2Proof.Machine

/-- The image that bytes spell: a header of 0x1000 bytes and the payload (R478). -/
def imageOfBytes (b : List Byte) : Image :=
  { header := sliceBytes b 0 0x1000, payload := b.drop 0x1000, fwVersion := fieldAt b 0x008 8, secVersion := fieldAt b 0x010 8 }

/-- The image that a component was made with. (DESIGN CHOICE, log entry 61) -/
def factoryOf (c : Nat) : Image := imageOfBytes (Config.factoryImage c)

/-- The digest of bytes, as a number whose bytes are those of the digest, first byte lowest. -/
def sha384Of (bs : List Byte) : Nat := bytesNat (sha384 (bs.map (·.toNat)))

/-- Do the fields that are not signatures hold what Table 17-1 gives them for component c? -/
def headerOk (c : Nat) (h : List Byte) : Bool :=
  decide (fieldAt h 0 4 = 0x464C5749 ∧ fieldAt h 5 1 = 0xA1 ∧ fieldAt h 6 2 = 1 ∧ fieldAt h 4 1 = c ∧ fieldAt h 0x010 8 ≤ 64) &&
  zeroAt h 0x020 8 && zeroAt h 0x0F0 16 && zeroAt h 0x84C 1972

/-- Do the key hashes, the digest and both signatures verify (R479)? (DESIGN CHOICE, log entry 61) -/
def signaturesOk (i : Image) : Bool :=
  let h := i.header
  let msg := sliceBytes h 0 0x100
  let digest := natToBytes 48 (sha384Of msg)
  decide (sha384Of (sliceBytes h 0x058 96) = Config.otpEcdsaHash ∧ sha384Of (sliceBytes h 0x0B8 56) = Config.otpLmsHash
    ∧ sha384Of (i.payload.take (fieldAt h 0x018 4)) = fieldAt h 0x028 48) &&
  Config.ecdsaVerify (sliceBytes h 0x058 96) digest (sliceBytes h 0x100 96) &&
  Config.lmsVerify (sliceBytes h 0x0B8 56) msg (sliceBytes h 0x160 1772)

/-- verify of R479. -/
def verifyImage (s : State) (c : Nat) (i : Image) : Bool :=
  headerOk c i.header && decide (fieldAt i.header 0x018 4 ≤ i.payload.length) && signaturesOk i && decide (s.sec.otpVersion ≤ i.secVersion)

/-- A firmware component of module flash. -/
def componentAt (s : State) (c : Nat) : Component := (s.flash.components[c]?).getD Component.empty

/-- A component changed. -/
def modComponent (s : State) (c : Nat) (f : Component → Component) : State :=
  if h : c < 5 then { s with flash := { s.flash with components := s.flash.components.set c (f s.flash.components[c]) } } else s

/-- The image of one of a component's two slots. -/
def slotImage (s : State) (c : Nat) (b : Bool) : Option Image :=
  let x := componentAt s c
  if b then x.slotB else if x.factory then some (factoryOf c) else x.slotA

/-- A slot's image, where it verifies. The maker's image is taken to carry valid signatures; its security version counts. -/
def slotVerified (s : State) (c : Nat) (b : Bool) : Option Image :=
  match slotImage s c b with
  | none => none
  | some i =>
    let ok := if !b && (componentAt s c).factory then decide (s.sec.otpVersion ≤ i.secVersion) else verifyImage s c i
    if ok then some i else none

/-- The image that a stage loads: the staged slot of a trial, then the active slot, then the other one (R465, R481). -/
def bootImage (s : State) (c : Nat) : Option Image :=
  let x := componentAt s c
  if x.trying then slotVerified s c (!x.activeB)
  else
    match slotVerified s c x.activeB with
    | some i => some i
    | none => slotVerified s c (!x.activeB)

/-- A failed trial: the old slot is used again, the mark is cleared, the event is logged (R465, Table 16-13). -/
def failTrial (s : State) (c : Nat) : State :=
  let s1 := modComponent s c (fun x => { x with trial := false, trying := false })
  logError s1 0 0xFF 0x0806 0xFF 0xFFFF 0 0 c

/-- A trial begins: the staged slot is loaded if it verifies, and the trial fails if it does not. -/
def startTrial (s : State) (c : Nat) : State :=
  let x := componentAt s c
  if x.trial ∧ !x.trying then
    match slotVerified s c (!x.activeB) with
    | some i => modComponent s c (fun y => { y with trying := true, running := some i })
    | none => failTrial s c
  else s

/-- A component's image loaded at its boot. None where no slot verifies. -/
def loadComponent (s : State) (c : Nat) : State × Option Image :=
  let s1 := startTrial s c
  match bootImage s1 c with
  | some i => (modComponent s1 c (fun y => { y with running := some i }), some i)
  | none => (s1, none)

/-- The least security version over the five active slots (R483). -/
def leastActive (s : State) : Nat :=
  ((List.range 5).map (fun c => ((slotImage s c (componentAt s c).activeB).map (·.secVersion)).getD 0)).foldl min 64

/-- A successful trial: the staged slot becomes active, the OTP version rises to the least active one (R465, R483). -/
def passTrial (s : State) (c : Nat) : State :=
  let s1 := modComponent s c (fun x => { x with activeB := !x.activeB, staged := false, trial := false, trying := false })
  let s2 := { s1 with sec := { s1.sec with otpVersion := max s1.sec.otpVersion (leastActive s1) } }
  logError s2 0 0xFF 0x0806 0xFF 0xFFFF 0 0 (c + 256)

end Sys2Proof.Machine
end

