-- ==== Sys2Proof/Machine/Commit.lean ====
section
/-! DEFINITION. CHECK, commit, replica identity and recovery of a step (R313 to R324, R462). -/

namespace Sys2Proof.Machine

/-! ### The job commit record (R317) -/

/-- The job commit record as read: committed, intent, decision, clip, hyper, halt; none where a pair is invalid. -/
structure CommitRec where
  committed : Nat
  intent : Nat
  decision : Nat
  clip : Nat
  hyper : Nat
  halt : Nat
deriving DecidableEq, Repr

/-- The record that 128 bytes hold. -/
def commitRecOf (b : List Byte) : Option CommitRec :=
  match cp64At b 0, cp64At b 0x10, cp32At b 0x20, cp32At b 0x28, cp64At b 0x30, cp32At b 0x40 with
  | some c, some i, some d, some k, some h, some t =>
    some { committed := c, intent := i, decision := d % 8, clip := k, hyper := h, halt := t % 65536 }
  | _, _, _, _, _, _ => none

/-- The job commit record of a job. (DEDUCED, log entry 79) -/
def readCommitRec (s : State) (j : Job) : Option CommitRec := commitRecOf (cohRead s j.commitRecord 128)

/-- A new job commit record (R401). -/
def commitRecBytes (c : CommitRec) : List Byte :=
  cp64Bytes c.committed ++ cp64Bytes c.intent ++ cp32Bytes c.decision ++ cp32Bytes c.clip ++ cp64Bytes c.hyper
    ++ cp32Bytes c.halt ++ zeros 56

/-- Decision, clip and hyper written, then intent (Table 10-13 step 3). -/
def writeIntent (s : State) (j : Job) (step decision clip hyper : Nat) : State :=
  let s1 := cohWrite s (j.commitRecord + 0x20) (cp32Bytes decision ++ cp32Bytes clip ++ cp64Bytes hyper)
  cohWrite s1 (j.commitRecord + 0x10) (cp64Bytes step)

/-- The job halted with a status code (R315, R320). Its step is no longer open. -/
def haltJob (s : State) (p code : Nat) : State :=
  match jobAt s p with
  | none => s
  | some j =>
    modJob (cohWrite s (j.commitRecord + 0x40) (cp32Bytes code)) p
      (fun y => { y with halted := code, step := none, commit := none })

/-! ### CHECK (R313 to R315) -/

/-- A shard's sum of squares over its blocks, ascending (R314). -/
def entrySquares (s : State) (e : DirEnt) : Word32 :=
  (List.range e.blocks).foldl (fun acc b =>
    (blockGrad s e (blockDesc s e b)).foldl (fun a x => fmaF32 x x a) acc) 0

/-- This member's contribution: shard sums in directory order, then those of the tables updated in the step. -/
def ownCheck (s : State) (p : Nat) (j : Job) (o : OpenStep) : CheckMsg :=
  let dirs := (List.range j.paramEntries).map (fun i =>
    let e := dirEnt s j i
    (e.group, e.layer, entrySquares s e))
  let tabs := o.updated.filterMap (fun id => (mapGet j.tables id).map (fun t =>
    ((0xFFFF : Nat), layerOf s p t.desc.tensorId, t.shadow.foldl (fun acc r => r.grad.foldl (fun a x => fmaF32 x x a) acc) (0 : Word32))))
  { member := s.life.moduleId, shards := dirs ++ tabs, nfc := (List.range j.layers).map (fun l => mapGetD o.layerNf l 0),
    flag := o.flag, src := o.src }

/-- A contribution as a message carries it. -/
def checkBytes (m : CheckMsg) : List Byte :=
  natToBytes 4 (bitOf m.flag) ++ natToBytes 4 m.src ++ natToBytes 4 m.nfc.length ++ natToBytes 4 m.shards.length
    ++ m.nfc.flatMap (natToBytes 4)
    ++ m.shards.flatMap (fun x => natToBytes 2 x.1 ++ natToBytes 2 x.2.1 ++ natToBytes 4 x.2.2.toNat)

/-- The contribution of a message. -/
def checkOfBytes (member : Nat) (b : List Byte) : CheckMsg :=
  let l := fieldAt b 8 4
  { member := member, flag := fieldAt b 0 4 != 0, src := fieldAt b 4 4,
    nfc := (List.range l).map (fun i => fieldAt b (16 + 4 * i) 4),
    shards := (List.range (fieldAt b 12 4)).map (fun i =>
      let a := 16 + 4 * l + 8 * i
      (fieldAt b a 2, fieldAt b (a + 2) 2, BitVec.ofNat 32 (fieldAt b (a + 4) 4))) }

/-- The contribution of a member, if it is present. -/
def checkOf (r : CommitRun) (m : Nat) : Option CheckMsg := r.checks.find? (fun c => c.member == m)

/-- The shards of the job in ascending index: group by group from the lowest-ranked present member, then the tables of
each present member in check-group order. -/
def jobShards (j : Job) (r : CommitRun) : List (Nat × Word32) :=
  let byGroup := (j.groups.zipIdx).flatMap (fun g =>
    match (g.1.members.filterMap (checkOf r)).head? with
    | none => []
    | some c => (c.shards.filter (fun x => x.1 == g.2)).map (·.2))
  let tabs := j.checkGroup.flatMap (fun m =>
    match checkOf r m with
    | none => []
    | some c => (c.shards.filter (fun x => x.1 == 0xFFFF)).map (·.2))
  byGroup ++ tabs

/-- Has every replica group a present member? (DEDUCED, log entry 45) -/
def checkDecidable (j : Job) (r : CommitRun) : Bool :=
  j.groups.all (fun g => g.members.any (fun m => (checkOf r m).isSome))

/-- 2^k times an FP32 value, rounded once. -/
def scaleF32 (x : Word32) (k : Int) : Word32 := rne32 ((f32 x).scale k)

/-- n_l of each layer (R314). -/
def layerNormsOf (j : Job) (r : CommitRun) : List Word32 :=
  let shards := jobShards j r
  (List.range j.layers).map (fun l =>
    let ss := (shards.filter (fun x => x.1 == l)).foldl (fun a x => addF32 a x.2) 0
    scaleF32 (sqrtF32 ss) (-(j.scale.getD l 0)))

/-- The global norm G (R314). -/
def globalNorm (ns : List Word32) : Word32 := sqrtF32 (ns.foldl (fun a n => addF32 a (mulF32 n n)) 0)

/-- Combined non-finite counts of the layers. -/
def combinedNfc (j : Job) (r : CommitRun) : List Nat :=
  (List.range j.layers).map (fun l => min (2 ^ 32 - 1) ((r.checks.map (fun c => c.nfc.getD l 0)).sum))

/-- The decision of R315: code of Table 10-9, clip factor, and whether G was absurd. A step that Table 9-6 skips is a SKIP. -/
def decide315 (pol : Policy) (mismatch : Option Bool) (flag : Bool) (g : Word32) : Nat × Word32 × Bool :=
  if mismatch.isSome then (3, oneF32, false)
  else if flag then (if pol.abortOnNonfinite then 4 else 3, oneF32, false)
  else if g = 0x7F800000 ∨ ltF32 pol.absurd g then (3, oneF32, true)
  else if ltF32 pol.clip g then (2, divF32 pol.clip g, false)
  else (1, oneF32, false)

/-! ### Scale records (R71 to R73, R324) -/

/-- ceil_log2 of a finite positive FP32 value, from its bits. -/
def ceilLog2 (x : Word32) : Int :=
  match f32 x with
  | .fin _ m e => e + bitLen m - 1 + (if 2 ^ (bitLen m - 1) = m then 0 else 1)
  | _ => 0

/-- target_l of a step as its 8-bit field holds it (R71, R72, Table 2-8): e_g is 127 for both gradient formats. A norm that is
not finite has no stated target: a free value. One above 127 does not fit the field: a free value of at least 63, so that s_l is
still what R71 says. The target of a reseeded layer is clamped (R324). (DEDUCED, log entry 38) -/
def targetOf (s : State) (skipNonfinite reseeded : Bool) (sl : Int) (n : Word32) (nf : Nat) : Int × State :=
  let t := 123 - ceilLog2 n
  if skipNonfinite ∧ nf ≠ 0 then (clampInt (-64) 63 (sl - 4), s)
  else if (f32 n).isZero then (63, s)
  else if !(f32 n).isFinite then let (v, s1) := drawFree s 128; ((v : Int) - 64, s1)
  else if reseeded then (clampInt (-64) 63 t, s)
  else if t ≤ 127 then (t, s)
  else let (v, s1) := drawFree s 65; (63 + (v : Int), s1)

/-- The value of a scale-record entry (Table 2-8). (DEDUCED, log entry 38) -/
def scaleEntry (sl target : Int) (step : Nat) : Nat := intToNat 8 sl + intToNat 8 target * 2 ^ 8 + step % 2 ^ 16 * 2 ^ 16

/-- The address of a layer's entry for a step (R73). -/
def scaleAddr (j : Job) (l step : Nat) : Nat := j.scaleRecords + 128 * l + 8 * (step % 16)

/-- Address of the norm table entry of a step (R316). -/
def normEntry (j : Job) (step : Nat) : Nat := j.normTable + step % 16 * (64 + 16 * j.layers)

/-- The norm table entry of a step (R316): layers first, the header last. -/
def writeNormTable (s : State) (p : Nat) (r : CommitRun) (flag : Bool) (src : Nat) : State :=
  match jobAt s p with
  | none => s
  | some j =>
    let skipNf := decide (r.decision = 3) && flag
    let base := normEntry j r.step
    let o := j.step
    let s1 := (List.range j.layers).foldl (fun t l =>
      let sl := j.scale.getD l 0
      let n := r.layerNorms.getD l 0
      let nf := r.layerNf.getD l 0
      let reseeded := ((o.map (·.reseeded)).getD []).contains l
      let (tg, t1) := targetOf t skipNf reseeded sl n nf
      let torn := (o.map (fun x => (mapGetD x.agg l { ss := 0, nf := 0, torn := false }).torn)).getD false
      let t2 := if reseeded then journalWrite t1 p 0x07 (natToBytes 2 l ++ natToBytes 8 r.step ++ natToBytes 1 (intToNat 8 tg)) else t1
      cohWrite t2 (base + 64 + 16 * l) (natToBytes 4 n.toNat ++ natToBytes 4 nf ++ natToBytes 1 (intToNat 8 sl)
        ++ natToBytes 1 (intToNat 8 tg)
        ++ natToBytes 1 (bitOf reseeded + 2 * bitOf (decide (r.decision = 2)) + 4 * bitOf torn) ++ zeros 5)) s
    let nfc := min 0xFFFF (r.layerNf.sum)
    let s2 := cohWrite s1 (base + 8) (natToBytes 8 r.step ++ natToBytes 4 r.gnorm.toNat ++ natToBytes 4 r.clip.toNat
      ++ natToBytes 2 (if flag then src / 2 ^ 13 else 0) ++ natToBytes 2 (if flag then src % 2 ^ 13 else 0) ++ natToBytes 2 nfc
      ++ natToBytes 2 (bitOf flag + 2 * bitOf r.absurd + 4 * bitOf flag) ++ zeros 32)
    cohWrite s2 base (cp32Bytes (r.step % 2 ^ 16 + r.decision * 2 ^ 16))

/-- s, target and the reseeded flag that the norm table entry of a step holds for a layer. -/
def normLayer (s : State) (j : Job) (step l : Nat) : Int × Int × Bool :=
  let b := cohRead s (normEntry j step + 64 + 16 * l) 16
  (natToInt 8 (fieldAt b 8 1), natToInt 8 (fieldAt b 9 1), natBit (fieldAt b 10 1) 0)

/-- The scale-record entry of one layer written from the norm table, and s_l of the next step (R71, R324). -/
def writeScale (s : State) (p step l : Nat) : State :=
  match jobAt s p with
  | none => s
  | some j =>
    let (sl, tg, re) := normLayer s j step l
    if re then
      let s1 := (List.range 16).foldl (fun t k =>
        cohWrite t (scaleAddr j l (step + k + 1)) (cp32Bytes (scaleEntry tg tg (step + k + 1 + 2 ^ 16 - 16)))) s
      modJob s1 p (fun y => { y with scale := y.scale.set l tg })
    else
      let s1 := cohWrite s (scaleAddr j l step) (cp32Bytes (scaleEntry sl tg step))
      let targets := (List.range 16).map (fun k =>
        natToInt 8 (natField ((cp32At (cohRead s1 (j.scaleRecords + 128 * l + 8 * k) 8) 0).getD 0) 8 8))
      let next := clampInt (-64) 63 (targets.foldl min (sl + 1))
      modJob s1 p (fun y => { y with scale := y.scale.set l next })

/-! ### Digest lists (R320) -/

/-- Digests of a group's blocks in directory and block order. -/
def groupDigests (s : State) (j : Job) (g : Nat) : List (Nat × Nat × Nat) :=
  (allBlocks s j).filterMap (fun x =>
    let e := dirEnt s j x.1
    if e.group = g then
      let d := blockDesc s e x.2
      some (x.1, x.2, (readSet s e.rule d (((blockSel s d).map (·.1)).getD 0)).digest)
    else none)

/-- Groups of a job that a member belongs to, with more than one member. -/
def sharedGroups (j : Job) (m : Nat) : List Nat :=
  ((j.groups.zipIdx).filter (fun g => g.1.members.contains m && decide (1 < g.1.members.length))).map (·.2)

/-- Members that this module waits for in step 5: those of its shared groups; none in a replay in content mode. -/
def digestPeers (s : State) (p : Nat) (j : Job) : List Nat :=
  if replayContent s p then [] else
  ((sharedGroups j s.life.moduleId).flatMap (fun g => ((j.groups[g]?).map (·.members)).getD [])).dedup.filter (· != s.life.moduleId)

/-- A commit-exchange message: its kind, then its contents. (DESIGN CHOICE, log entry 43) -/
def sendExchange (s : State) (p m step kind : Nat) (body : List Byte) : State :=
  sendOr s p m 4 0 0 (step % 2 ^ 32) 0 (natToBytes 1 kind ++ body)

/-- The members of the check group other than this module. -/
def checkPeers (s : State) (j : Job) : List Nat := j.checkGroup.filter (· != s.life.moduleId)

/-- This member's digest lists sent; a member that shares no group gets an empty list, which confirms the step (R318). -/
def sendDigests (s : State) (p step : Nat) : State :=
  match jobAt s p with
  | none => s
  | some j =>
    let me := s.life.moduleId
    let s1 := (sharedGroups j me).foldl (fun t g =>
      let body := natToBytes 2 g ++ (groupDigests s j g).flatMap (fun x => natToBytes 8 x.2.2)
      ((((j.groups[g]?).map (·.members)).getD []).filter (· != me)).foldl (fun u m => sendExchange u p m step 1 body) t) s
    ((checkPeers s j).filter (fun m => !(digestPeers s p j).contains m)).foldl
      (fun u m => sendExchange u p m step 1 (natToBytes 2 0xFFFF)) s1

/-- What the comparison of one block comes to. -/
inductive BlockVerdict where
  | same
  | mine (want : Nat) (sources : List Nat)
  | others
  | diverged
deriving DecidableEq, Repr

/-- The comparison of one block's digests: (member, digest) in rank order, this member among them (R320). -/
def judge (me : Nat) (ds : List (Nat × Nat)) : BlockVerdict :=
  let mine := ((ds.find? (fun x => x.1 == me)).map (·.2)).getD 0
  if ds.all (fun x => x.2 == mine) then .same
  else if ds.length < 3 then .diverged
  else
    match ds.find? (fun x => decide (ds.length < 2 * (ds.filter (fun y => y.2 == x.2)).length)) with
    | none => .diverged
    | some x => if x.2 = mine then .others else .mine x.2 ((ds.filter (fun y => y.2 == x.2)).map (·.1))

/-- Verdicts of a group's blocks. -/
def groupVerdicts (s : State) (j : Job) (r : CommitRun) (g : Nat) : List (Nat × Nat × BlockVerdict) :=
  let me := s.life.moduleId
  let members := ((j.groups[g]?).map (·.members)).getD []
  ((groupDigests s j g).zipIdx).map (fun x =>
    let ds := members.filterMap (fun m =>
      if m = me then some (m, x.1.2.2)
      else (r.digests.find? (fun d => d.member == m && d.group == g)).map (fun d => (m, d.digests.getD x.2 0)))
    (x.1.1, x.1.2.1, judge me ds))

/-! ### Progress of a STEP_COMMIT or STEP_RECOVER -/

/-- The run of a partition's commit changed. -/
def modRun (s : State) (p : Nat) (f : CommitRun → CommitRun) : State := modJob s p (fun j => { j with commit := j.commit.map f })

/-- The run of a partition's commit. -/
def runOf (s : State) (p : Nat) : Option CommitRun := (jobAt s p).bind (·.commit)

/-- The status of a run that commits (R319, R462). -/
def commitStatus (r : CommitRun) (held mismatch : Bool) : Nat :=
  if mismatch then stShardMismatch
  else if r.decision = 3 then stNonfiniteSkipped
  else if r.fetched ≠ 0 then 0x0A03
  else if r.absent ≠ [] then 0x0A02
  else if r.decision = 2 then stNormClipped
  else if held then stTierStall
  else stOk

/-- CRC-64 of the module's digest list in directory and block order, for the journal (Table 16-8). -/
def digestListCrc (s : State) (j : Job) : Nat :=
  crc64 ((allBlocks s j).flatMap (fun x =>
    let e := dirEnt s j x.1
    let d := blockDesc s e x.2
    natToBytes 8 (readSet s e.rule d (((blockSel s d).map (·.1)).getD 0)).digest))

/-- The COMMIT record of the journal; a replay compares it. -/
def journalCommit (s : State) (p : Nat) (j : Job) (decision status : Nat) (clip : Word32) : State :=
  let body := natToBytes 2 decision ++ natToBytes 2 status ++ natToBytes 4 clip.toNat ++ natToBytes 8 (digestListCrc s j)
  modPart (journalWrite s p 0x0A body) p (fun x => { x with replay := x.replay.map (fun r => { r with commits := r.commits ++ [body] }) })

/-- The run ends without commit and the job halts. -/
def endHalted (s : State) (p : Nat) (r : CommitRun) (status result : Nat) : State :=
  match jobAt s p with
  | none => s
  | some j =>
    let s1 := journalCommit s p j r.decision status r.clip
    let s2 := modDrip (haltJob s1 p status) p (fun d => { d with staged := [] })
    endCmdWith s2 r.queue r.pos status result

/-- EMB_UPDATE commands of a partition whose apply stage is over. -/
def finishUpdates (s : State) (p : Nat) : State :=
  (cmdsWhere s (fun _ x c => x.partition == p && c.phase == .admitted && c.opcode == 8 && c.granted)).foldl
    (fun t e => modCmd t e.1 e.2 (fun c => { c with phase := .finished, status := stOk })) s

/-- Step 5 is over: leaders that were absent are replaced (R325), absent members logged (R319), the command's work done. (DEDUCED, log entry 89) -/
def finishRun (s : State) (p : Nat) : State :=
  match jobAt s p, runOf s p with
  | some j, some r =>
    let me := s.life.moduleId
    let s1 := if r.absent = [] then s
      else logError s 0 0xFF 0x0809 p r.queue 0x0A02 0 (bytesToNat (r.absent.flatMap (natToBytes 2)))
    let gone := (j.groups.zipIdx).filter (fun g => r.absent.contains (g.1.members.getD g.1.leaderRank 0))
    let s2 := gone.foldl (fun t g =>
      match (g.1.members.zipIdx).find? (fun x => !r.absent.contains x.1) with
      | none => t
      | some (m, rank) =>
        let t1 := modJob t p (fun y => { y with groups := y.groups.set g.2 { g.1 with leaderRank := rank } })
        if m = me then dripInvalidate (modDrip t1 p (fun d => { d with leads := (d.leads ++ [g.2]).dedup })) p g.2
        else t1) s1
    let held := ((cmdAt s2 r.queue r.pos).map (·.held)).getD false
    let mm := ((j.step.map (·.mismatch.isSome)).getD false)
    finishCmd s2 r.queue r.pos (commitStatus r held mm) (if r.recover then r.recomputed + r.fetched else r.decision)
  | _, _ => s

/-- A block quarantined: stamp unchanged (R321). -/
def quarantine (s : State) (j : Job) (i b : Nat) : State :=
  let e := dirEnt s j i
  let d := blockDesc s e b
  putStampSel s d ((blockStamp s d).getD 0) (((blockSel s d).map (·.1)).getD 0) true

/-- A block fetch request (R321, R357). -/
def requestBlock (s : State) (p step : Nat) (f : Refetch) : State :=
  match f.sources with
  | [] => s
  | m :: _ => sendOr s p m 5 0 0 (step % 2 ^ 32) 0 (natToBytes 4 f.dirIdx ++ natToBytes 4 f.block)

/-- Blocks to be refetched, quarantined and asked for. -/
def beginRefetch (s : State) (p : Nat) (fs : List Refetch) : State :=
  match jobAt s p, runOf s p with
  | some j, some r =>
    let s1 := fs.foldl (fun t f => quarantine t j f.dirIdx f.block) s
    let s2 := modRun s1 p (fun x => { x with phase := .refetch, refetch := fs })
    fs.foldl (fun t f => requestBlock t p r.step f) s2
  | _, _ => s

/-- The comparison of step 5 with the members present. -/
def compareDigests (s : State) (p : Nat) : State :=
  match jobAt s p, runOf s p with
  | some j, some r =>
    let vs := (sharedGroups j s.life.moduleId).flatMap (groupVerdicts s j r)
    match vs.find? (fun v => v.2.2 == .diverged) with
    | some v =>
      let s1 := logError s 2 0xFF 0x0904 p r.queue stDivergence (blockDesc s (dirEnt s j v.1) v.2.1).record (v.1 + v.2.1 * 2 ^ 32)
      endHalted s1 p r stDivergence 0
    | none =>
      let fs := vs.filterMap (fun v => match v.2.2 with
        | .mine want src => some { dirIdx := v.1, block := v.2.1, sources := src, want := some want : Refetch }
        | _ => none)
      if fs.isEmpty then finishRun s p
      else
        let s1 := modDrip s p (fun d => { d with
          staged := d.staged.filter (fun x => !fs.any (fun f => f.dirIdx == x.2.1 && f.block == x.2.2.1)) })
        let s2 := fs.foldl (fun t f =>
          let e := dirEnt t j f.dirIdx
          cohWrite t ((blockDesc t e f.block).record + 0x18) (cp32Bytes 0)) s1
        beginRefetch s2 p fs
  | _, _ => s

/-- Have all digest lists that this member waits for arrived? -/
def digestsIn (s : State) (p : Nat) (j : Job) (r : CommitRun) : Bool :=
  (digestPeers s p j).all (fun m => r.confirmed.contains m || j.policy.removed.contains m)

/-- Step 5: digest lists sent, and compared once all are there. -/
def beginDigests (s : State) (p : Nat) : State :=
  match runOf s p with
  | none => s
  | some r =>
    let s1 := sendDigests (modRun s p (fun x => { x with phase := .digest })) p r.step
    match jobAt s1 p, runOf s1 p with
    | some j1, some r1 => if digestsIn s1 p j1 r1 then compareDigests s1 p else s1
    | _, _ => s1

/-- Sources of a block whose majority is not known: the members of its group, in rank order, that are not this one. -/
def groupSources (s : State) (j : Job) (i : Nat) : List Nat :=
  (((j.groups[(dirEnt s j i).group]?).map (·.members)).getD []).filter (· != s.life.moduleId)

/-- Step 4: every block and every table under the decision, then step 5. On recovery a block is recomputed only from a
retained gradient of the step (R323); another one is refetched. -/
def applyStep (s : State) (p : Nat) : State :=
  match jobAt s p, runOf s p with
  | some j, some r =>
    let tables := match j.step with
      | some o => o.updated
      | none => mapKeys (mapFilter j.tables (fun _ t => t.pendingStep == some r.step))
    if r.decision = 1 ∨ r.decision = 2 then
      let clip := if r.decision = 2 then some r.clip else none
      let (s1, bad) := (allBlocks s j).foldl (fun (acc : State × List (Nat × Nat)) x =>
        let e := dirEnt acc.1 j x.1
        let d := blockDesc acc.1 e x.2
        let gs := cp32At (cohRead acc.1 (d.record + 0x10) 8) 0
        let st := blockStamp acc.1 d
        let quar := ((blockSel acc.1 d).map (·.2)).getD true
        if st = some (r.step % 2 ^ 32) ∧ !quar then acc
        else if r.recover ∧ !(st = some ((r.step + 2 ^ 32 - 1) % 2 ^ 32) ∧ gs = some (r.step % 2 ^ 32)) then (acc.1, acc.2 ++ [x])
        else
          match updateBlock acc.1 p r.step x.1 x.2 r.hyper clip with
          | (.poisoned, t) => (t, acc.2 ++ [x])
          | (_, t) =>
            if r.recover then
              (modRun (modChannel t (homeChannel d) (fun c => { c with ulRecovered := c.ulRecovered + 1 })) p
                (fun y => { y with recomputed := y.recomputed + 1 }), acc.2)
            else (t, acc.2)) (s, [])
      let s2 := tables.foldl (fun t id => applyTable t p id r.step r.hyper clip) s1
      let s3 := finishUpdates s2 p
      if bad.isEmpty then beginDigests s3 p
      else beginRefetch (modRun s3 p (fun y => { y with poisoned := true })) p
        (bad.map (fun x => { dirIdx := x.1, block := x.2, sources := groupSources s3 j x.1, want := none }))
    else beginDigests (finishUpdates (tables.foldl (fun t id => skipTable t p id) s) p) p
  | _, _ => s

/-- The refetch goes on with the next source of a block, or the run fails: no source verified (R321, R462). (DEDUCED, log entry 88) -/
def nextSource (s : State) (p i b : Nat) : State :=
  match jobAt s p, runOf s p with
  | some j, some r =>
    match r.refetch.find? (fun f => f.dirIdx == i && f.block == b) with
    | none => s
    | some f =>
      match f.sources with
      | _ :: m :: rest =>
        let g := { f with sources := m :: rest }
        requestBlock (modRun s p (fun x => { x with
          refetch := x.refetch.map (fun y => if y.dirIdx = i ∧ y.block = b then g else y) })) p r.step g
      | _ =>
        let s1 := logError s 2 0xFF 0x0905 p r.queue (if r.poisoned ∧ !r.recover then stDataPoisoned else 0x0A05)
          (blockDesc s (dirEnt s j i) b).record (i + b * 2 ^ 32)
        endHalted s1 p r (if r.poisoned ∧ !r.recover then stDataPoisoned else 0x0A05) 0
  | _, _ => s

/-- Blocks without any source fail the run at once. -/
def settleRefetch (s : State) (p : Nat) : State :=
  match runOf s p with
  | none => s
  | some r =>
    if r.phase = .refetch then
      match r.refetch.find? (fun f => f.sources.isEmpty) with
      | some f => nextSource s p f.dirIdx f.block
      | none => s
    else s

/-- The contributions of other members, journaled in content mode (Table 16-8). -/
def journalChecks (s : State) (p : Nat) (r : CommitRun) : State :=
  if ((partAt s p).map (·.journal.enable)).getD 0 = 2 then
    (r.checks.filter (fun m => m.member != s.life.moduleId)).foldl
      (fun t m => journalWrite t p 0x0B (natToBytes 1 2 ++ natToBytes 2 m.member ++ checkBytes m)) s
  else s

/-- CHECK decided with the members present: norm table, intent, step 4 (Table 10-13 steps 2 to 4). (DEDUCED, log entry 45) -/
def decideStep (s0 : State) (p : Nat) : State :=
  match jobAt s0 p, runOf s0 p with
  | some j, some r =>
    let s := journalChecks s0 p r
    let ns := layerNormsOf j r
    let g := globalNorm ns
    let flag := r.checks.any (·.flag)
    let src := ((r.checks.filter (·.flag)).map (·.src)).foldl min (2 ^ 32 - 1)
    let (dec, clip, absurd) := decide315 j.policy ((j.step.map (·.mismatch)).getD none) flag g
    let r1 := { r with decision := dec, clip := clip, gnorm := g, absurd := absurd, layerNorms := ns, layerNf := combinedNfc j r,
                       absent := (checkPeers s j).filter (fun m => (checkOf r m).isNone) }
    let s1 := modRun s p (fun _ => r1)
    let s2 := writeNormTable s1 p r1 flag src
    let s3 := writeIntent s2 j r.step dec clip.toNat r.hyper
    if dec = 4 then endHalted s3 p r1 0x0A01 4
    else settleRefetch (applyStep s3 p) p
  | _, _ => s0

/-- Are the contributions of every member of the check group there? -/
def checksIn (s : State) (j : Job) (r : CommitRun) : Bool := (checkPeers s j).all (fun m => (checkOf r m).isSome)

/-- The run goes on where it can. -/
def progressCommit (s : State) (p : Nat) : State :=
  match jobAt s p, runOf s p with
  | some j, some r =>
    match r.phase with
    | .check => if checksIn s j r then decideStep s p else s
    | .digest =>
      match cmdAt s r.queue r.pos with
      | some c => if c.phase = .admitted ∧ digestsIn s p j r then compareDigests s p else s
      | none => s
    | _ => s
  | _, _ => s

/-- A new run. -/
def newRun (q pos step hyper : Nat) (recover : Bool) : CommitRun :=
  { queue := q, pos := pos, step := step, recover := recover, hyper := hyper, phase := .check, decision := 0, clip := oneF32,
    gnorm := 0, absurd := false, layerNorms := [], layerNf := [], checks := [], digests := [], confirmed := [], absent := [],
    refetch := [], fetched := 0, recomputed := 0, poisoned := false }

/-- A digest list of a member taken in. -/
def takeDigests (r : CommitRun) (member : Nat) (b : List Byte) : CommitRun :=
  let g := fieldAt b 0 2
  let d : DigestMsg := { member := member, group := g, digests := (List.range ((b.length - 2) / 8)).map (fun i => fieldAt b (2 + 8 * i) 8) }
  { r with digests := if g = 0xFFFF then r.digests else r.digests.filter (fun x => !(x.member == member && x.group == g)) ++ [d],
           confirmed := if r.confirmed.contains member then r.confirmed else r.confirmed ++ [member] }

/-- A member's confirmation of a step whose gradients are retained (R318). -/
def confirmRetained (j : Job) (step member : Nat) : Job :=
  match j.retention with
  | none => j
  | some t =>
    if t.step % 2 ^ 32 = step % 2 ^ 32 then
      let w := t.waiting.filter (· != member)
      { j with retention := if w.isEmpty then none else some { t with waiting := w } }
    else j

/-- The step is abandoned: no member holds an intent (R323). -/
def abandonStep (s : State) (p : Nat) (r : CommitRun) : State :=
  match jobAt s p with
  | none => s
  | some j =>
    let ts := mapKeys (mapFilter j.tables (fun _ t => t.pendingStep == some r.step))
    let s1 := ts.foldl (fun t id => modTable (skipTable t p id) p id (fun y => { y with shadow := [] })) s
    let s2 := modJob s1 p (fun y => { y with commit := none, step := none, retention := none })
    endCmd s2 r.queue r.pos 0x0A06

/-- The spare frames of the lane journal slots rebuilt (R303). -/
def rebuildSpares (s : State) (p : Nat) : State :=
  match jobAt s p with
  | none => s
  | some j =>
    (mapKeys j.spares).foldl (fun t ch =>
      let a := laneJournalAt t j ch
      if a = 0 then t
      else
        let b := cohRead t a 32
        match cp64At b 0, cp64At b 16 with
        | some blk, some fr =>
          let e := dirEnt t j (blk % 2 ^ 16)
          let d := blockDesc t e (blk / 2 ^ 16)
          match blockSel t d with
          | none => t
          | some (act, _) =>
            let cur := readSet t e.rule d act
            let moment := if natField fr 25 25 = 0x1FFFFFF then 0xFFFFFFFF else natField fr 25 25
            let sp : Nat × Nat :=
              if cur.master = fr % 2 ^ 25 then
                let old := readSet t e.rule d (1 - act)
                (old.master, if ruleMoment e.rule then old.moment else moment)
              else (fr % 2 ^ 25, moment)
            modJob t p (fun y => { y with spares := mapModify y.spares ch (fun l => sp :: l.drop 1) })
        | _, _ => t) s

/-- A recovery goes on once the intent of its step is known (R323 points 3 to 5). -/
def recoverWith (s : State) (p decision : Nat) (clip : Nat) (hyper : Nat) : State :=
  match runOf s p with
  | none => s
  | some r =>
    let s1 := modRun s p (fun x => { x with decision := decision, clip := BitVec.ofNat 32 clip, hyper := hyper })
    if decision = 4 then endHalted s1 p { r with decision := 4 } 0x0A01 (if r.recover then 0 else 4)
    else settleRefetch (applyStep (rebuildSpares s1 p) p) p

/-- The intent record of this module for a step, as an answer to a query. -/
def intentAnswer (s : State) (j : Job) (step : Nat) : List Byte :=
  match readCommitRec s j with
  | some c =>
    if c.intent % 2 ^ 32 = step % 2 ^ 32 then natToBytes 1 1 ++ natToBytes 1 c.decision ++ zeros 2 ++ natToBytes 4 c.clip ++ natToBytes 8 c.hyper
    else natToBytes 16 0
  | none => natToBytes 16 0

/-- A commit-exchange message taken in: 0 CHECK, 1 digest list, 2 intent query, 3 intent answer. A message that its step
has not reached is staged. -/
def commitExchange (s : State) (p member kind step : Nat) (b : List Byte) : State :=
  match jobAt s p with
  | none => s
  | some j =>
    let stage (t : State) : State :=
      if j.early.any (fun m => m.src == member && m.cls == 4 && m.seq == step && m.body.headD 0 == BitVec.ofNat 8 kind && kind != 1) then t
      else modJob t p (fun y => { y with early := y.early ++
        [{ src := member, cls := 4, tag := 0, op := 0, cause := 0, seq := step, round := 0, body := natToBytes 1 kind ++ b }] })
    match kind with
    | 2 => sendExchange s p member step 3 (intentAnswer s j step)
    | 1 =>
      let s1 := modJob s p (fun y => confirmRetained y step member)
      match j.commit with
      | some r =>
        if r.step % 2 ^ 32 = step then progressCommit (modRun s1 p (fun x => takeDigests x member b)) p else s1
      | none => if j.committed % 2 ^ 32 = step then s1 else stage s1
    | 0 =>
      match j.commit with
      | some r =>
        if r.step % 2 ^ 32 = step ∧ r.phase = .check then
          progressCommit (modRun s p (fun x => if (checkOf x member).isSome then x else { x with checks := x.checks ++ [checkOfBytes member b] })) p
        else s
      | none => stage s
    | _ =>
      match j.commit with
      | some r =>
        if r.step % 2 ^ 32 = step ∧ r.phase = .intentQuery then
          if fieldAt b 0 1 = 1 then
            let s1 := writeIntent s j r.step (fieldAt b 1 1) (fieldAt b 4 4) (fieldAt b 8 8)
            recoverWith s1 p (fieldAt b 1 1) (fieldAt b 4 4) (fieldAt b 8 8)
          else
            let absent := if r.absent.contains member then r.absent else r.absent ++ [member]
            if (checkPeers s j).all (absent.contains ·) then abandonStep s p r
            else modRun s p (fun x => { x with absent := absent })
        else s
      | none => s

/-- Staged messages of the run's step taken in. -/
def replayEarly (s : State) (p step : Nat) : State :=
  match jobAt s p with
  | none => s
  | some j =>
    let mine := j.early.filter (fun m => m.cls == 4 && m.seq == step % 2 ^ 32)
    let s1 := modJob s p (fun y => { y with early := y.early.filter (fun m => !(m.cls == 4 && decide (m.seq = step % 2 ^ 32))) })
    mine.foldl (fun t m => commitExchange t p m.src ((m.body.headD 0).toNat) m.seq (m.body.drop 1)) s1

/-- Is the hyperparameter table right for every directory entry (R305)? -/
def hyperTableOk (s : State) (p : Nat) (j : Job) (table : Nat) : Bool :=
  (List.range j.paramEntries).all (fun i =>
    let e := dirEnt s j i
    hyperOk e.rule (hyperAt s table e.layer) && (!eskorExact s p || eskorRule e.rule))

/-- STEP_COMMIT (R314 to R320): its steps 1 to 5 as far as they can run; messages and timers take it further. -/
def execStepCommit (q : BitVec 12) (pos : BitVec 32) (s : State) : Out :=
  .next (runCmd s q.toNat pos.toNat 0x0A (fun x c =>
    let p := x.partition
    match jobAt s p with
    | none => endCmd s q.toNat pos.toNat stInvalid
    | some j =>
      if replayHolds s p then s
      else if j.commit.isSome then progressCommit s p
      else
        match j.step with
        | none => endCmd s q.toNat pos.toNat stInvalid
        | some o =>
          let table := c.field 0x20 8
          if !(decide (table < usableBytes s) && ownsT1 s p table (32 * j.layers)) then endCmd (failAccess s p table) q.toNat pos.toNat stAddressFault
          else if rangePoisoned s table (32 * j.layers) then endCmd (logPoison s p q.toNat table) q.toNat pos.toNat stDataPoisoned
          else if !hyperTableOk s p j table then endCmd s q.toNat pos.toNat stInvalid
          else
            let own := ownCheck s p j o
            let r := { newRun q.toNat pos.toNat o.step table false with checks := [own] }
            let s1 := modJob s p (fun y => { y with commit := some r })
            let s2 := (checkPeers s1 j).foldl (fun t m => sendExchange t p m o.step 0 (checkBytes own)) s1
            progressCommit (replayEarly s2 p o.step) p))

/-- STEP_RECOVER (R323). (DEDUCED, log entry 89) -/
def execStepRecover (q : BitVec 12) (pos : BitVec 32) (s : State) : Out :=
  .next (runCmd s q.toNat pos.toNat 0x0B (fun x c =>
    let p := x.partition
    let n := c.field 0x20 8
    match jobAt s p with
    | none => endCmd s q.toNat pos.toNat stInvalid
    | some j =>
      if j.commit.isSome then progressCommit s p
      else if j.step.isSome ∨ j.halted ≠ 0 then endCmd s q.toNat pos.toNat stInvalid
      else
        match readCommitRec s j with
        | none => endCmd s q.toNat pos.toNat stInvalid
        | some k =>
          if n ≤ k.committed then finishCmd (sendDigests s p n) q.toNat pos.toNat stOk 0
          else
            let r := newRun q.toNat pos.toNat n k.hyper true
            let s1 := modJob s p (fun y => { y with commit := some r })
            if k.intent = n then recoverWith (replayEarly s1 p n) p k.decision k.clip k.hyper
            else if (checkPeers s j).isEmpty then abandonStep s1 p r
            else
              let s2 := modRun s1 p (fun y => { y with phase := .intentQuery })
              (checkPeers s2 j).foldl (fun t m => sendExchange t p m n 2 []) s2))

/-- COMMIT_EXCHANGE (R313, R320, R323): a commit-exchange message of a member arrives, for the run's step. -/
def execCommitExchange (p : BitVec 4) (member : BitVec 16) (kind : BitVec 2) (bytes : List Byte) (s : State) : Out :=
  let pn := p.toNat
  match jobAt s pn with
  | none => .next s
  | some j =>
    let step := match j.commit, j.step with
      | some r, _ => r.step
      | none, some o => o.step
      | none, none => j.committed
    .next (commitExchange s pn member.toNat kind.toNat (step % 2 ^ 32) bytes)

/-- COMMIT_TIMEOUT (R314, R319, R323): the members that have not answered are absent. (DESIGN CHOICE, log entry 44) -/
def execCommitTimeout (p : BitVec 4) (s : State) : Out :=
  let pn := p.toNat
  match jobAt s pn, runOf s pn with
  | some j, some r =>
    match cmdAt s r.queue r.pos with
    | none => .next s
    | some c =>
      if c.phase ≠ .admitted then .next s
      else
        match r.phase with
        | .check =>
          if checkDecidable j r then .next (decideStep s pn)
          else .next (endCmd (modJob s pn (fun y => { y with commit := none })) r.queue r.pos 0x0A04)
        | .digest =>
          let missing := (digestPeers s p.toNat j).filter (fun m => !r.confirmed.contains m && !j.policy.removed.contains m)
          .next (compareDigests (modRun s pn (fun x => { x with absent := (x.absent ++ missing).dedup })) pn)
        | .refetch => .next (r.refetch.foldl (fun t f => nextSource t pn f.dirIdx f.block) s)
        | .intentQuery => .next (abandonStep s pn r)
  | _, _ => .next s

/-! ### Block fetches (R321, R357) -/

/-- A block's stamp, digest and data, as a response carries them. -/
def blockAnswer (s : State) (j : Job) (i b : Nat) : List Byte :=
  let e := dirEnt s j i
  let d := blockDesc s e b
  let x := readSet s e.rule d (((blockSel s d).map (·.1)).getD 0)
  natToBytes 8 ((blockStamp s d).getD (2 ^ 32)) ++ natToBytes 8 x.digest ++ cohRead s (x.master * 65536) (4 * d.elems)
    ++ (if ruleMoment e.rule then cohRead s (x.moment * 65536) (4 * d.elems) else [])
    ++ (if ruleFactored e.rule then wordBytes x.ra ++ wordBytes x.ca else [])

/-- A fetch request served: the response goes back on the same flow. -/
def serveFetch (s : State) (p member i b step : Nat) : State :=
  match jobAt s p with
  | none => s
  | some j =>
    if i < j.paramEntries ∧ b < (dirEnt s j i).blocks then
      sendOr s p member 6 0 0 step 0 (natToBytes 4 i ++ natToBytes 4 b ++ blockAnswer s j i b)
    else s

/-- A fetched block: verified, switched in, or the next source asked. (DEDUCED, log entry 45) -/
def takeFetched (s : State) (p member i b : Nat) (bytes : List Byte) : State :=
  match jobAt s p, runOf s p with
  | some j, some r =>
    match r.refetch.find? (fun f => f.dirIdx == i && f.block == b && f.sources.head? == some member) with
    | none => s
    | some f =>
      let e := dirEnt s j i
      let d := blockDesc s e b
      let n := d.elems
      let masters := sliceBytes bytes 16 (4 * n)
      let mo := if ruleMoment e.rule then 4 * n else 0
      let total := 16 + 4 * n + mo + (if ruleFactored e.rule then 1024 else 0)
      let dg := crc64 masters
      let good := decide (bytes.length = total) && decide (fieldAt bytes 0 8 = r.step % 2 ^ 32) && dg == fieldAt bytes 8 8
        && (match f.want with | none => true | some w => w == dg)
      if !good then nextSource s p i b
      else
        let (uss, s0) := drawFree s (2 ^ 32)
        let s1 := switchBlock s0 p r.step i b e (wordsOf masters n) (wordsOf (sliceBytes bytes (16 + 4 * n) mo) (mo / 4))
          (wordsOf (sliceBytes bytes (16 + 4 * n + mo) 512) 128) (wordsOf (sliceBytes bytes (16 + 4 * n + mo + 512) 512) 128)
          (BitVec.ofNat 32 uss)
        let s2 := modChannel s1 (homeChannel d) (fun c => { c with ulFetched := c.ulFetched + 1 })
        let s3 := if ((partAt s2 p).map (·.journal.enable)).getD 0 = 2 then journalWrite s2 p 0x0B (natToBytes 1 3 ++ natToBytes 2 member ++ natToBytes 4 i ++ natToBytes 4 b ++ bytes) else s2
        let s4 := modRun s3 p (fun x => { x with
          fetched := x.fetched + 1, refetch := x.refetch.filter (fun y => !(y.dirIdx == i && y.block == b)) })
        match runOf s4 p with
        | none => s4
        | some r4 =>
          if r4.refetch.isEmpty then
            if r4.poisoned ∧ !r4.confirmed.contains s.life.moduleId then
              beginDigests (modRun s4 p (fun x => { x with confirmed := x.confirmed ++ [s.life.moduleId] })) p
            else finishRun s4 p
          else s4
  | _, _ => s

/-- BLOCK_FETCH_REQUEST (R321, R357). -/
def execBlockFetchRequest (p : BitVec 4) (member : BitVec 16) (dirIdx block : BitVec 32) (s : State) : Out :=
  .next (serveFetch s p.toNat member.toNat dirIdx.toNat block.toNat (logStep s p.toNat % 2 ^ 32))

/-- BLOCK_FETCH_RESPONSE (R321). -/
def execBlockFetchResponse (p : BitVec 4) (member : BitVec 16) (dirIdx block : BitVec 32) (bytes : List Byte) (s : State) : Out :=
  .next (takeFetched s p.toNat member.toNat dirIdx.toNat block.toNat bytes)

/-! ### Steps 6 and 7 of Table 10-13, run in the command's commit -/

/-- Step 6 before the completion record: scale-record entries, then committed. -/
def commitWrites (s : State) (p : Nat) : State :=
  match jobAt s p, runOf s p with
  | some j, some r =>
    let s1 := (List.range j.layers).foldl (fun t l => writeScale t p r.step l) s
    cohWrite s1 j.commitRecord (cp64Bytes r.step)
  | _, _ => s

/-- The layer entries of a layer norm record (Table 9-15). -/
def layerEntry (s : State) (j : Job) (r : CommitRun) (agg : SMap LayerAgg) (l : Nat) : List Byte :=
  let b := cohRead s (normEntry j r.step + 64 + 16 * l) 16
  let a := mapGetD agg l { ss := 0, nf := 0, torn := false }
  let sl := natToInt 8 (fieldAt b 8 1)
  let flags := fieldAt b 10 1
  let blocks := (allBlocks s j).filter (fun x => (dirEnt s j x.1).layer == l)
  let sets := blocks.map (fun x =>
    let e := dirEnt s j x.1
    let d := blockDesc s e x.2
    readSet s e.rule d (((blockSel s d).map (·.1)).getD 0))
  let ws := sqrtF32 (sets.foldl (fun acc y => addF32 acc y.wss) 0)
  let us := if r.decision = 3 then 0 else sqrtF32 (sets.foldl (fun acc y => addF32 acc y.uss) 0)
  natToBytes 2 l ++ natToBytes 1 (intToNat 8 sl)
    ++ natToBytes 1 (flags % 4 + 4 * bitOf a.torn + 8 * bitOf (decide (a.nf ≠ 0))) ++ natToBytes 4 a.nf
    ++ natToBytes 4 (scaleF32 (sqrtF32 a.ss) (-sl)).toNat ++ natToBytes 4 (fieldAt b 0 4) ++ natToBytes 4 ws.toNat
    ++ natToBytes 4 us.toNat ++ zeros 8

/-- Layer norm records to the ring of the queue that submitted STEP_BEGIN (R297). (DEDUCED, log entry 45) -/
def normTelemetry (s : State) (j : Job) (r : CommitRun) (o : OpenStep) (status : Nat) : State :=
  (List.range ((j.layers + 1023) / 1024)).foldl (fun t k =>
    let first := 1024 * k
    let n := min 1024 (j.layers - first)
    telemetryQueue t o.queue 0x02 (natToBytes 8 r.step ++ natToBytes 2 status ++ natToBytes 2 n ++ natToBytes 2 first ++ zeros 2
      ++ (List.range n).flatMap (fun i => layerEntry t j r o.agg (first + i)))) s

/-- A phase record (R294). The cycle counts of its die entries are timing that the model does not hold: they are free. (DESIGN CHOICE, log entry 42) -/
def phaseRecord (s : State) (p : Nat) (j : Job) (r : CommitRun) (o : OpenStep) (status : Nat) : State :=
  let m := mapGetD j.mappings o.plan.mapFb { p := 0, v := 0, stageDie := [], roles := [] }
  let (cd, s1) := (List.range 8).foldl (fun (acc : List Byte × State) d =>
    let (b, t) := drawBytes acc.2 64
    let stage := (m.stageDie.take m.p).contains d
    (acc.1 ++ (if stage then b else zeros 32 ++ b.drop 32), t)) ([], s)
  let (mb, s2) := drawBytes s1 128
  let body := natToBytes 8 r.step ++ natToBytes 2 status ++ natToBytes 1 p ++ natToBytes 1 m.p ++ natToBytes 1 m.v ++ zeros 1
    ++ natToBytes 2 o.plan.m ++ natToBytes 8 (aonSince s2 o.acceptedAon) ++ natToBytes 4 o.sliversMoved ++ zeros 20 ++ cd ++ mb ++ zeros 64
  let seq := (s2.telemetry.map (·.seq.toNat)).getD 0
  modJob (telemetryPf0 s2 0x01 body) p (fun y => { y with phaseRecord := some (telemetryBytes 0x01 seq body) })

/-- What the completion of STEP_COMMIT or STEP_RECOVER leaves: the step closed and committed, retention, drip, telemetry
(R263, R294, R297, R318, R328). -/
def commitAfter (s : State) (p status : Nat) : State :=
  match jobAt s p, runOf s p with
  | some j, some r =>
    let me := s.life.moduleId
    let waiting := j.checkGroup.filter (fun m => m != me && !r.confirmed.contains m && !j.policy.removed.contains m)
    let scale := (List.range j.layers).flatMap (fun l => cohRead s (scaleAddr j l r.step) 8)
    let tables := match j.step with
      | some o => o.updated
      | none => mapKeys (mapFilter j.tables (fun _ t => t.lastStamp == r.step % 2 ^ 32 && !t.shadow.isEmpty))
    let s1 := journalCommit s p j r.decision status r.clip
    let s2 := match j.step with
      | none => dripRelease s1 p r.queue r.step r.decision tables scale
      | some o => phaseRecord (normTelemetry (dripRelease s1 p o.queue r.step r.decision tables scale) j r o status) p j r o status
    let again := match j.step with
      | some o => if r.decision = 3 then o.reseeded else []
      | none => []
    let halt := match (j.step.map (·.mismatch)).getD none with
      | some true => true
      | _ => false
    let s3 := modJob s2 p (fun y => { y with
      committed := r.step, step := none, commit := none, reseedAgain := again, lagRecords := 0,
      testScale := y.testScale || r.recover,
      retention := if waiting.isEmpty then none else some { step := r.step, waiting := waiting } })
    if halt then haltJob s3 p 0x0A01 else s3
  | _, _ => s

end Sys2Proof.Machine
end

