-- ==== Sys2Proof/Machine/Collective.lean ====
section
/-! DEFINITION. Collectives and ring passes of the gang lane (R284 to R286, R350 to R359). -/

namespace Sys2Proof.Machine

/-! ### The gang lane (R412) -/

/-- Is a command of the gang lane? -/
def isGang (op : Nat) : Bool := op == 5 || op == 6 || op == 10 || op == 11

/-- Is a command a pass of a local ring? -/
def isLocalRing (c : Cmd) : Bool := c.opcode == 5 && c.field 0x20 8 == 0

/-- Is it a command's turn in the gang lane of its partition: no earlier one runs, but for the passes of one local ring,
which run together because each waits for the others? -/
def gangTurn (s : State) (p : Nat) (c : Cmd) : Bool :=
  (cmdsWhere s (fun _ x d => x.partition == p && d.phase == .admitted && isGang d.opcode && decide (d.order < c.order) &&
    !(isLocalRing c && isLocalRing d && d.field 0x38 2 == c.field 0x38 2 && d.field 0x3A 1 == c.field 0x3A 1))).isEmpty

/-! ### Groups (R350) -/

/-- The members of a group descriptor and its tag, where it is right for this module. -/
def groupOf (s : State) (p : Nat) (b : List Byte) : Option (List Nat × Nat) :=
  let n := fieldAt b 0 4
  let ms := (List.range n).map (fun i => fieldAt b (16 + 2 * i) 2)
  if 1 ≤ n ∧ n ≤ 65536 ∧ zeroAt b 6 10 ∧ ms.Nodup ∧ ms.contains s.life.moduleId
      ∧ ms.all (fun m => m == s.life.moduleId || (peerOf s p m).isSome) then some (ms, fieldAt b 4 2)
  else none

/-- The group descriptor of a command read: members and tag, or the command has ended or is held. -/
def readGroup (s : State) (q pos a : Nat) (f : State → List Nat → Nat → State) : State :=
  match queueAt s q with
  | none => s
  | some x =>
    if a % 64 ≠ 0 ∨ usableBytes s ≤ a then endCmd s q pos stInvalid
    else
      (cmdRead s q pos a 16).bind (fun s1 h =>
        let n := fieldAt h 0 4
        if n = 0 ∨ 65536 < n then endCmd s1 q pos stInvalid
        else
          (cmdRead s1 q pos a (16 + 2 * n)).bind (fun s2 b =>
            match groupOf s2 x.partition b with
            | none => endCmd s2 q pos stInvalid
            | some (ms, tag) => f s2 ms tag))

/-- The rank of a member. -/
def rankOf (ms : List Nat) (m : Nat) : Nat := ms.idxOf m

/-- The next number of a tag, taken (R353). -/
def takeSeq (s : State) (p tag : Nat) : Nat × State :=
  let n := ((jobAt s p).map (fun j => mapGetD j.collSeq tag 0)).getD 0
  (n, modJob s p (fun j => { j with collSeq := mapSet j.collSeq tag ((n + 1) % 2 ^ 32) }))

/-! ### The data of a collective (R351, R352) -/

/-- Bytes per element of a collective's format code. -/
def collBytes (fmt : Nat) : Nat := if fmt = 1 ∨ fmt = 2 then 2 else 4

/-- Is the format one of R351? -/
def collFmtOk (fmt : Nat) : Bool := fmt == 0 || fmt == 1 || fmt == 2 || fmt == 15

/-- Slice k of S bytes over q ranks: offset and length (R351). -/
def sliceRange (total q k : Nat) : Nat × Nat :=
  let w := 64 * ((total + 64 * q - 1) / (64 * q))
  let off := min total (w * k)
  (off, min w (total - off))

/-- Fields of a COLLECTIVE: op, reduction, format, root, elements. -/
structure CollArgs where
  op : Nat
  red : Nat
  fmt : Nat
  root : Nat
  n : Nat
deriving DecidableEq, Repr

/-- The arguments of a COLLECTIVE (Table 13-9). -/
def collArgs (c : Cmd) : CollArgs :=
  { op := c.field 0x38 1, red := c.field 0x39 1 % 16, fmt := c.field 0x39 1 / 16, root := c.field 0x3C 4, n := c.aux }

/-- Are the arguments in range for q members? -/
def collArgsOk (a : CollArgs) (q : Nat) (c : Cmd) : Bool :=
  decide (1 ≤ a.op ∧ a.op ≤ 5 ∧ a.red ≤ 2) && collFmtOk a.fmt && decide (a.root < q) && decide (a.op ≠ 5 ∨ a.n % q = 0)
    && decide (c.field 0x28 8 % 64 = 0 ∧ c.field 0x30 8 % 64 = 0)

/-- Bytes of the input buffer of rank k: its own slice in an all-gather. -/
def collInput (a : CollArgs) (q k : Nat) : Nat :=
  if a.op = 2 then (sliceRange (q * a.n * collBytes a.fmt) q k).2 else a.n * collBytes a.fmt

/-- Bytes of the output of rank k (Table 11-9). -/
def collOutput (a : CollArgs) (q k : Nat) : Nat :=
  match a.op with
  | 1 => (sliceRange (a.n * collBytes a.fmt) q k).2
  | 2 => q * a.n * collBytes a.fmt
  | _ => a.n * collBytes a.fmt

/-- Input elements widened to the accumulation format (R352). -/
def widenColl (fmt : Nat) (b : List Byte) : List Word32 :=
  let w := collBytes fmt
  (List.range (b.length / w)).map (fun i =>
    let x := fieldAt b (w * i) w
    if fmt = 1 ∨ fmt = 2 then rne32 ((codeKind fmt).decode x) else BitVec.ofNat 32 x)

/-- Accumulated elements in the output format: one RNE rounding for BF16 and FP16 (R352). -/
def narrowColl (fmt : Nat) (ws : List Word32) : List Byte :=
  ws.flatMap (fun w =>
    if fmt = 1 ∨ fmt = 2 then natToBytes 2 ((codeKind fmt).encode .rne .sat (f32 w)) else natToBytes 4 w.toNat)

/-- A node of the reduction tree (R352): sum, max or min in the accumulation format. -/
def collNode (fmt red : Nat) (a b : Word32) : Word32 :=
  let op := if red = 0 then 0x16 else if red = 1 then 0x17 else 0x18
  redNode false op (if fmt = 15 then 3 else 0) 0 a b

/-- The reduction of the contributions in rank order, element by element. -/
def reduceColl (fmt red : Nat) (cs : List (List Word32)) : List Word32 :=
  (List.range ((cs.headD []).length)).map (fun i => treeReduce (collNode fmt red) 17 (cs.map (fun c => c.getD i 0)))

/-- The prefix of a member's first chunk (R353). (DESIGN CHOICE, log entry 43) -/
def collPrefix (a : CollArgs) : List Byte :=
  natToBytes 1 a.op ++ natToBytes 1 (a.red + 16 * a.fmt) ++ zeros 2 ++ natToBytes 4 a.n ++ natToBytes 4 a.root ++ zeros 4

/-- What this member, rank k, sends to rank m. -/
def collPayload (a : CollArgs) (q k m : Nat) (input : List Byte) : List Byte :=
  match a.op with
  | 1 =>
    let (off, len) := sliceRange input.length q m
    wordBytes (widenColl a.fmt (sliceBytes input off len))
  | 3 => wordBytes (widenColl a.fmt input)
  | 4 => if k = a.root then input else []
  | 5 => sliceBytes input (m * (input.length / q)) (input.length / q)
  | _ => input

/-- The output of rank k from what every rank sent it; its own contribution stands at its own rank. -/
def collResult (a : CollArgs) (k : Nat) (parts : List (List Byte)) : List Byte :=
  match a.op with
  | 1 => narrowColl a.fmt (reduceColl a.fmt a.red (parts.map (fun b => wordsOf b (b.length / 4))))
  | 3 => narrowColl a.fmt (reduceColl a.fmt a.red (parts.map (fun b => wordsOf b (b.length / 4))))
  | 4 => parts.getD a.root (parts.getD k [])
  | _ => parts.flatten

/-! ### Running a collective -/

/-- The LNK count of a coordinating engine (R358). -/
def collNow (s : State) (tag : Nat) : Word64 := domCycles s (36 + tag % 4)

/-- Messages to several members; the command ends where one has no peer entry or no flow context (R341, R342). -/
def sendEach (q pos p : Nat) (f : Nat → Nat × Nat × Nat × Nat × List Byte) : State → List Nat → State
  | s, [] => s
  | s, m :: rest =>
    let (cls, tag, op, seq, body) := f m
    match sendMessage s p m cls tag op seq 0 body with
    | .error .noPeer => endCmd s q pos stInvalid
    | .error .busy => endCmd s q pos stBusy
    | .ok t =>
      sendEach q pos p f (modCmd t q pos (fun c => { c with portBytes := c.portBytes + body.length })) rest

/-- Members of a command's group other than this module. -/
def others (s : State) (c : Cmd) : List Nat := c.group.filter (· != s.life.moduleId)

/-- This member's data sent to every peer. (DESIGN CHOICE, log entry 43) -/
def sendContribution (s : State) (q pos p : Nat) (c : Cmd) (input : List Byte) : State :=
  let a := collArgs c
  let k := rankOf c.group s.life.moduleId
  sendEach q pos p (fun m => (0, c.tag, a.op + 16 * a.red, c.collSeq,
    collPrefix a ++ collPayload a c.group.length k (rankOf c.group m) input)) s (others s c)

/-- gstamp of every block whose gradient a REDUCE command's output holds (R302, R318). -/
def stampGrads (s : State) (p a n : Nat) : State :=
  match jobAt s p with
  | none => s
  | some j =>
    match j.step with
    | none => s
    | some o =>
      (allBlocks s j).foldl (fun t x =>
        let e := dirEnt t j x.1
        let d := blockDesc t e x.2
        if a ≤ d.grad ∧ d.grad + rowElemBytes e.gradFmt * d.elems ≤ a + n then
          cohWrite t (d.record + 0x10) (cp32Bytes (o.step % 2 ^ 32))
        else t) s

/-- A laggard record where the lag fraction exceeds the threshold (R358, R359). -/
def collLaggard (s : State) (p q : Nat) (c : Cmd) : State :=
  let total := (collNow s c.tag - c.lnkStart).toNat
  let pm := if total = 0 then 0 else 1000 * c.lagWait / total
  let thr := match flowTo s p c.lagPeer with
    | some (_, f) => flowSetting s f (·.laggard)
    | none => 50
  if c.lagWait ≠ 0 ∧ thr < pm then
    laggard s p q c.tag c.lagPeer (if c.lagCause = 0 then 1 else c.lagCause) 0xFF pm c.group.length c.collSeq c.lagWait total
  else s

/-- A collective whose output is known: written, and its work over. -/
def completeColl (s : State) (q pos p : Nat) (c : Cmd) (out : List Byte) : State :=
  (cmdWrite s q pos (c.field 0x30 8) out).bind (fun s1 _ =>
    let s2 := if c.phaseTag = 3 then stampGrads s1 p (c.field 0x30 8) out.length else s1
    let s3 := if ((partAt s2 p).map (·.journal.enable)).getD 0 = 2 then journalWrite s2 p 0x0B (natToBytes 1 0 ++ natToBytes 2 q ++ natToBytes 4 pos ++ out) else s2
    let s4 := modColl (collLaggard s3 p q c) (c.tag % 4) (fun e => { e with collectives := e.collectives + 1 })
    finishCmd s4 q pos stOk (if c.lagWait = 0 then 0xFFFF else c.lagPeer))

/-- A COLLECTIVE ends with a mismatch: its peers hear of it (R353). -/
def mismatchColl (s : State) (q pos p : Nat) (c : Cmd) (tell : Bool) : State :=
  let s1 := if tell then (others s c).foldl (fun t m => sendOr t p m 1 c.tag 0 c.collSeq 0 (natToBytes 1 2)) s else s
  endCmd s1 q pos 0x0B01

/-- The progress of a collective: DONE once all data is there, the output once every member is done (R356). -/
def progressColl (s : State) (q pos : Nat) : State :=
  match queueAt s q, cmdAt s q pos with
  | some x, some c =>
    if c.phase ≠ .admitted ∨ !c.begun ∨ c.opcode ≠ 6 then s
    else
      let p := x.partition
      let a := collArgs c
      let peers := others s c
      let datas := c.collData.filter (fun m => m.cls == 0)
      if datas.any (fun m => m.body.take 16 != collPrefix a) then mismatchColl s q pos p c true
      else if !peers.all (fun m => datas.any (fun d => d.src == m)) then s
      else
        let s1 := if c.doneSent then s
          else peers.foldl (fun t m => sendOr t p m 1 c.tag a.op c.collSeq 0 (natToBytes 1 0))
            (modCmd s q pos (fun d => { d with doneSent := true }))
        if !peers.all (fun m => c.collDone.contains m) then s1
        else
          let n := c.group.length
          let k := rankOf c.group s.life.moduleId
          (cmdRead s1 q pos (c.field 0x28 8) (collInput a n k)).bind (fun s2 input =>
            let parts := (c.group.zipIdx).map (fun m =>
              if m.2 = k then collPayload a n k k input
              else ((datas.find? (fun d => d.src == m.1)).map (fun d => d.body.drop 16)).getD [])
            completeColl s2 q pos p c ((collResult a k parts).take (collOutput a n k)))
  | _, _ => s

/-- A collective begins: group, number, data to every peer. -/
def beginColl (s : State) (q pos p : Nat) (c : Cmd) : State :=
  readGroup s q pos (c.field 0x20 8) (fun s1 ms tag =>
    let a := collArgs c
    if !collArgsOk a ms.length c then endCmd s1 q pos stInvalid
    else
      (cmdRead s1 q pos (c.field 0x28 8) (collInput a ms.length (rankOf ms s1.life.moduleId))).bind (fun s2 input =>
        if ms.length = 1 then
          completeColl s2 q pos p { c with group := ms, tag := tag } input
        else
          let (seq, s3) := takeSeq s2 p tag
          let now := collNow s3 tag
          let upd (d : Cmd) : Cmd :=
            { d with begun := true, group := ms, tag := tag, collSeq := seq, lnkStart := now, lnkLast := now }
          sendContribution (modCmd s3 q pos upd) q pos p (upd c) input))

/-- A member's data taken in: the last one to arrive is the laggard so far (R358). -/
def takeData (s : State) (q pos : Nat) (m : RxMsg) : State :=
  match cmdAt s q pos with
  | none => s
  | some c =>
    let now := collNow s c.tag
    let waits := c.lagWait < (now - c.lnkLast).toNat ∧ (c.collData.length + 2 = c.group.length)
    modCmd s q pos (fun d => { d with
      collData := d.collData.filter (fun y => !(y.src == m.src && y.cls == m.cls)) ++ [m], lnkLast := now,
      portBytes := d.portBytes + m.body.length,
      lagPeer := if waits then m.src else d.lagPeer,
      lagWait := if waits then (now - c.lnkLast).toNat else d.lagWait,
      lagCause := if waits then m.cause else d.lagCause })

/-- A RESTART: progress abandoned, data sent again (R356). `tell`: this member starts it. -/
def restartColl (s : State) (q pos : Nat) (tell : Bool) : State :=
  match queueAt s q, cmdAt s q pos with
  | some x, some c =>
    if c.phase ≠ .admitted ∨ !c.begun ∨ c.doneSent ∨ c.opcode ≠ 6 then s
    else
      let p := x.partition
      let s1 := modColl (modCmd s q pos (fun d => { d with collData := [], collDone := [] })) (c.tag % 4)
        (fun e => { e with restarts := e.restarts + 1 })
      let s2 := if tell then (others s c).foldl (fun t m => sendOr t p m 1 c.tag 0 c.collSeq 0 (natToBytes 1 1)) s1 else s1
      (cmdRead s2 q pos (c.field 0x28 8) (collInput (collArgs c) c.group.length (rankOf c.group s.life.moduleId))).bind
        (fun s3 input => sendContribution s3 q pos p c input)
  | _, _ => s

/-- A DONE of a member taken in. -/
def takeDone (s : State) (q pos member : Nat) : State :=
  match cmdAt s q pos with
  | none => s
  | some c =>
    if c.begun ∧ c.group.contains member then
      progressColl (modCmd s q pos (fun d => { d with
        collDone := if d.collDone.contains member then d.collDone else d.collDone ++ [member] })) q pos
    else s

/-! ### Ring passes (R284 to R286) -/

/-- Buffer address of a pass: `k` 0 for what it sends, 1 for what it receives. -/
def ringBuf (c : Cmd) (k : Nat) : Nat := if (c.field 0x38 2 + k) % 2 = 0 then c.field 0x28 8 else c.field 0x30 8

/-- The role of a tagged command's target. -/
def Cmd.role (c : Cmd) : Nat := natField c.target 0 8

/-- The running pass of a local ring's participant. -/
def localPass (s : State) (p : Nat) (c : Cmd) (role : Nat) : Option (Nat × Nat) :=
  (cmdsWhere s (fun _ x d => x.partition == p && d.phase == .admitted && isLocalRing d && d.begun && d.role == role
    && d.field 0x38 2 == c.field 0x38 2 && d.field 0x3A 1 == c.field 0x3A 1)).head?

/-- The flow to the successor holds no frame of the pass any more. -/
def ringAcked (s : State) (p succ : Nat) (c : Cmd) : Bool :=
  match flowTo s p succ with
  | none => true
  | some (_, f) =>
    !(f.queue.any (fun y => y.cls == 2 && y.tag == c.tag && y.seq == c.collSeq)
      || f.sent.any (fun y => !y.acked && y.frame.cls == 2 && y.frame.tag == c.tag && y.frame.seq == c.collSeq))

/-- The progress of a pass: sent after the grant, committed once acknowledged and received (R285). With remote outputs allowed,
a received block counts in the remote counter that the pass names (R381). -/
def progressRing (s : State) (q pos : Nat) : State :=
  match queueAt s q, cmdAt s q pos with
  | some x, some c =>
    if c.phase ≠ .admitted ∨ !c.begun ∨ c.opcode ≠ 5 then s
    else
      let p := x.partition
      let n := c.group.length
      let k := rankOf c.group s.life.moduleId
      let succ := c.group.getD ((k + 1) % n) 0
      let s1 :=
        if c.granted ∧ !c.doneSent then
          (cmdRead s q pos (ringBuf c 0) c.aux).bind (fun t b =>
            sendEach q pos p (fun _ => (2, c.tag, 6, c.collSeq, b)) (modCmd t q pos (fun d => { d with doneSent := true })) [succ])
        else s
      match cmdAt s1 q pos with
      | none => s1
      | some c1 =>
        match c1.collData.find? (fun m => m.cls == 2) with
        | none => s1
        | some m =>
          if c1.doneSent ∧ ringAcked s1 p succ c1 then
            (cmdWrite s1 q pos (ringBuf c 1) (m.body.take c.aux)).bind (fun t _ =>
              let t0 := if natBit (c1.field 0x0A 2) 0 then
                  modFunc t p (fun f => { f with rcc := mapSet f.rcc (c1.field 0x1A 1) ((mapGetD f.rcc (c1.field 0x1A 1) 0 + 1) % 2 ^ 32) })
                else t
              let t1 := if ((partAt t0 p).map (·.journal.enable)).getD 0 = 2 then journalWrite t0 p 0x0B (natToBytes 1 1 ++ natToBytes 2 q ++ natToBytes 4 pos ++ m.body) else t0
              finishCmd t1 q pos stOk 0)
          else s1
  | _, _ => s

/-- A pass of a local ring: the block goes to the successor's command once that is admitted. -/
def progressLocalRing (s : State) (q pos p : Nat) (c : Cmd) : State :=
  let n := c.field 0x3A 1
  let s1 :=
    if c.doneSent then s
    else
      match localPass s p c ((c.role + 1) % n) with
      | none => s
      | some (q2, pos2) =>
        (cmdRead s q pos (ringBuf c 0) c.aux).bind (fun t b =>
          modCmd (modCmd t q2 pos2 (fun d => { d with collData :=
            [{ src := c.role, cls := 2, tag := 0, op := 6, cause := 0, seq := 0, round := 0, body := b }] }))
            q pos (fun d => { d with doneSent := true }))
  match cmdAt s1 q pos with
  | none => s1
  | some c1 =>
    if c1.doneSent then
      match c1.collData.head? with
      | none => s1
      | some m => (cmdWrite s1 q pos (ringBuf c 1) m.body).bind (fun t _ => finishCmd t q pos stOk 0)
    else s1

/-- Are a pass's fields in range (R284)? -/
def ringOk (c : Cmd) (n : Nat) : Bool :=
  decide (2 ≤ n ∧ 64 ≤ c.aux ∧ c.aux ≤ 2 ^ 28 ∧ c.aux % 64 = 0 ∧ c.field 0x28 8 % 64 = 0 ∧ c.field 0x30 8 % 64 = 0
    ∧ c.field 0x38 2 + 2 ≤ n)

/-! ### Messages (R353, R357) -/

/-- The running gang command of a tag and number. -/
def gangCmd (s : State) (p op tag seq : Nat) : Option (Nat × Nat) :=
  (cmdsWhere s (fun _ x d => x.partition == p && d.phase == .admitted && d.opcode == op && d.begun && d.tag == tag && d.collSeq == seq)).head?

/-- A complete message delivered to what it belongs to; one of a number not yet reached is staged (R353). -/
def deliver (s : State) (p : Nat) (m : RxMsg) : State :=
  let next := ((jobAt s p).map (fun j => mapGetD j.collSeq m.tag 0)).getD 0
  let stage : State :=
    if posBefore m.seq next then s
    else modJob s p (fun j => { j with early := j.early ++ [m] })
  match m.cls with
  | 0 =>
    match gangCmd s p 6 m.tag m.seq with
    | some (q, pos) => progressColl (takeData s q pos m) q pos
    | none => stage
  | 1 =>
    match gangCmd s p 6 m.tag m.seq with
    | some (q, pos) =>
      match (m.body.headD 0).toNat with
      | 0 => takeDone s q pos m.src
      | 1 => restartColl s q pos false
      | _ => match cmdAt s q pos with
        | some c => mismatchColl s q pos p c false
        | none => s
    | none => stage
  | 2 =>
    match gangCmd s p 5 m.tag m.seq with
    | some (q, pos) => progressRing (takeData s q pos m) q pos
    | none => stage
  | 3 =>
    match gangCmd s p 5 m.tag m.seq with
    | some (q, pos) => progressRing (modCmd s q pos (fun c => { c with granted := true })) q pos
    | none => stage
  | 4 => commitExchange s p m.src ((m.body.headD 0).toNat) m.seq (m.body.drop 1)
  | 5 => serveFetch s p m.src (fieldAt m.body 0 4) (fieldAt m.body 4 4) m.seq
  | _ => takeFetched s p m.src (fieldAt m.body 0 4) (fieldAt m.body 4 4) (m.body.drop 8)

/-- Staged messages of a number that a command has now reached. -/
def deliverEarly (s : State) (p tag seq : Nat) : State :=
  match jobAt s p with
  | none => s
  | some j =>
    let hit (m : RxMsg) : Bool := decide (m.cls < 4) && m.tag == tag && m.seq == seq
    (j.early.filter hit).foldl (fun t m => deliver t p m)
      (modJob s p (fun y => { y with early := y.early.filter (fun m => !hit m) }))

/-- COLLECTIVE (R351, R354, R356): begun in its turn, then as far as the messages received allow. -/
def execCollective (q : BitVec 12) (pos : BitVec 32) (s : State) : Out :=
  .next (runCmd s q.toNat pos.toNat 0x06 (fun x c =>
    if !gangTurn s x.partition c then s
    else if c.begun then progressColl s q.toNat pos.toNat
    else
      let s1 := beginColl s q.toNat pos.toNat x.partition c
      match cmdAt s1 q.toNat pos.toNat with
      | some d => if d.begun then progressColl (deliverEarly s1 x.partition d.tag d.collSeq) q.toNat pos.toNat else s1
      | none => s1))

/-- COLLECTIVE_DONE (R356). -/
def execCollectiveDone (q : BitVec 12) (pos : BitVec 32) (member : BitVec 16) (s : State) : Out :=
  .next (runCmd s q.toNat pos.toNat 0x06 (fun _ _ => takeDone s q.toNat pos.toNat member.toNat))

/-- COLLECTIVE_RESTART (R356). (DESIGN CHOICE, log entry 44) -/
def execCollectiveRestart (q : BitVec 12) (pos : BitVec 32) (s : State) : Out :=
  .next (runCmd s q.toNat pos.toNat 0x06 (fun _ _ => restartColl s q.toNat pos.toNat false))

/-- RING_PASS (R284, R285): its admission grants the predecessor; it sends after its successor's grant. (DESIGN CHOICE, log entry 44) -/
def execRingPass (q : BitVec 12) (pos : BitVec 32) (s : State) : Out :=
  let qn := q.toNat
  let pn := pos.toNat
  .next (runCmd s qn pn 0x05 (fun x c =>
    let p := x.partition
    if !gangTurn s p c then s
    else if isLocalRing c then
      if !ringOk c (c.field 0x3A 1) then endCmd s qn pn stInvalid
      else progressLocalRing (modCmd s qn pn (fun d => { d with begun := true })) qn pn p { c with begun := true }
    else if c.begun then progressRing s qn pn
    else
      readGroup s qn pn (c.field 0x20 8) (fun s1 ms tag =>
        if !ringOk c ms.length ∨ c.field 0x3A 1 ≠ 0 then endCmd s1 qn pn stInvalid
        else
          let (seq, s2) := takeSeq s1 p tag
          let k := rankOf ms s.life.moduleId
          let n := ms.length
          let now := collNow s2 tag
          let s3 := modCmd s2 qn pn (fun d => { d with
            begun := true, group := ms, tag := tag, collSeq := seq, lnkStart := now, lnkLast := now })
          let s4 := sendEach qn pn p (fun _ => (3, tag, 6, seq, natToBytes 4 (c.field 0x38 2))) s3 [ms.getD ((k + n - 1) % n) 0]
          progressRing (deliverEarly s4 p tag seq) qn pn)))

/-- RING_PASS_GRANT (R285): the successor's grant. -/
def execRingPassGrant (q : BitVec 12) (pos : BitVec 32) (s : State) : Out :=
  .next (runCmd s q.toNat pos.toNat 0x05 (fun _ _ =>
    progressRing (modCmd s q.toNat pos.toNat (fun c => { c with granted := true })) q.toNat pos.toNat))

end Sys2Proof.Machine
end

