-- ==== Sys2Proof/Machine/Training.lean ====
section
/-! DEFINITION. The training step: plans, mapping tables, chunks, gathers, core programs, evaluation windows (R117, R261 to R291). -/

namespace Sys2Proof.Machine

/-! ### Mapping tables and roles (R266 to R271) -/

/-- A mapping table of a job. -/
def mappingAt (j : Job) (idx : Nat) : Option Mapping := mapGet j.mappings idx

/-- The role that a tagged command names in its phase's table (R268). -/
def commandRole (j : Job) (c : Cmd) : Option Role :=
  ((phaseMap j c.phaseTag).bind (mappingAt j)).bind (fun m => m.roles[c.role]?)

/-- The cores of a command: its role's, or those that an untagged PROGRAM_RUN names (Table 13-7). -/
def commandCores (s : State) (p : Nat) (c : Cmd) : Option (List Nat) :=
  if c.phaseTag = 0 then
    if c.opcode = 1 then
      let first := natField c.target 0 13
      let n := natField c.target 13 13 + 1
      some ((List.range n).map (first + ·))
    else some []
  else ((jobAt s p).bind (fun j => commandRole j c)).map (·.cores)

/-- First sliver of rank r: the counts before it (R270). -/
def firstSliver (r : Role) (k : Nat) : Nat := (r.slivers.take k).sum

/-- Slivers of a role on a die. -/
def dieSlivers (r : Role) (die : Nat) : Nat :=
  (((r.cores.zip r.slivers).filter (fun x => coreDie x.1 == die)).map (·.2)).sum

/-- `k` slivers taken from the ranks of a die, highest rank first. -/
def takeSlivers (die : Nat) : List (Nat × Nat) → Nat → List (Nat × Nat)
  | [], _ => []
  | (core, n) :: rest, k =>
    -- the list stands highest rank first
    if coreDie core = die then (core, n - min n k) :: takeSlivers die rest (k - min n k)
    else (core, n) :: takeSlivers die rest k

/-- A role after one move of R271, with the number moved: dies and busy counts decide. -/
def rebalanceRole (busy : Nat → Nat) (pm : Nat) (r : Role) : Role × Nat × Nat × Nat :=
  let dies := ((r.cores.map coreDie).dedup).mergeSort (· ≤ ·)
  if !r.sliverFlag ∨ dies.length < 2 then (r, 0, 0, 0)
  else
    let slow := dies.foldl (fun b d => if busy b < busy d then d else b) (dies.headD 0)
    let fast := dies.foldl (fun b d => if busy d < busy b then d else b) (dies.headD 0)
    if busy fast * (1000 + pm) < busy slow * 1000 then
      let k := min (dieSlivers r slow) (max 1 (dieSlivers r slow / 1024))
      let taken := (takeSlivers slow (r.cores.zip r.slivers).reverse k).reverse
      let at' := r.cores.findIdx (fun c => coreDie c == fast)
      let sl := (taken.zipIdx).map (fun x => if x.2 = at' then x.1.2 + k else x.1.2)
      ({ r with slivers := sl }, k, slow, fast)
    else (r, 0, 0, 0)

/-- A role's slivers moved, and the move journaled: index, role, slivers and the two dies (R271). -/
def moveSlivers (t : State) (p idx role : Nat) (r : Role) (k slow fast : Nat) : State :=
  let t1 := modJob t p (fun y => { y with
    mappings := mapModify y.mappings idx (fun z => { z with roles := z.roles.set role r }),
    step := y.step.map (fun o => { o with sliversMoved := o.sliversMoved + k }) })
  journalOutcome t1 p 3 (natToBytes 1 idx ++ natToBytes 1 role ++ natToBytes 2 k ++ natToBytes 1 slow ++ natToBytes 1 fast)

/-- A switch event for a mapping table: it is installed, and its roles are rebalanced where the plan says so (R269, R271). -/
def switchMapping (s : State) (p idx : Nat) (rebalance : Bool) (pm : Nat) : State :=
  match jobAt s p with
  | none => s
  | some j =>
    let s1 := match mappingAt j idx with
      | none => s
      | some m =>
        if !rebalance ∨ replayRuns s p then s
        else
          (m.roles.zipIdx).foldl (fun t x =>
            let (r, k, slow, fast) := rebalanceRole (fun d => mapGetD j.busy ((idx * 256 + x.2) * 8 + d) 0) pm x.1
            if k = 0 then t else moveSlivers t p idx x.2 r k slow fast) s
    modJob s1 p (fun y => { y with
      busy := [], step := y.step.map (fun o => { o with installed := idx }),
      eval := y.eval.map (fun o => { o with installed := idx }) })

/-! ### Chunks (R264, R273, R274) -/

/-- p and v of the open step: those of map_fb. -/
def stepPv (j : Job) (o : OpenStep) : Nat × Nat :=
  match mappingAt j o.plan.mapFb with
  | some m => (m.p, m.v)
  | none => (1, 1)

/-- The order of chunks on a die (R273): stage position d. -/
def schedule (d p v m : Nat) : List Chunk :=
  let n := v * m
  let w0 := if v = 1 then p - d - 1 else 2 * (p - d - 1) + (v - 1) * p
  let w := min w0 n
  let f (k : Nat) : Chunk := { bwd := false, i := k / (p * v) * p + k % p, j := k % (p * v) / p * p + d }
  let b (k : Nat) : Chunk := { bwd := true, i := k / (p * v) * p + k % p, j := (v - 1 - k % (p * v) / p) * p + d }
  (List.range w).map f ++ (List.range (n - w)).flatMap (fun k => [f (w + k), b k]) ++ (List.range w).map (fun k => b (n - w + k))

/-- Warm-up count of a stage position. -/
def warmup (d p v m : Nat) : Nat := min (if v = 1 then p - d - 1 else 2 * (p - d - 1) + (v - 1) * p) (v * m)

/-- The chunk of a tagged command (Table 13-7). -/
def Cmd.chunk (c : Cmd) : Chunk := { bwd := c.phaseTag == 2, i := natField c.target 8 10, j := natField c.target 18 6 }

/-- Is the command tagged FWD or BWD? -/
def inWindow (c : Cmd) : Bool := c.phaseTag == 1 || c.phaseTag == 2

/-- Is a chunk done in the step? -/
def chunkEnded (o : OpenStep) (x : Chunk) : Bool := o.ended.contains x

/-- Chunks in flight on a stage position (R274 item 3). -/
def inFlight (o : OpenStep) (p d : Nat) : List Chunk :=
  o.started.filter (fun x => x.j % p == d && !o.ended.contains { x with bwd := true })

/-- Do the schedule constraints of R274 items 2 and 3 let a command in? -/
def chunkReady (j : Job) (o : OpenStep) (c : Cmd) : Bool :=
  let x := c.chunk
  let (p, v) := stepPv j o
  if !inWindow c then true
  else if x.bwd then chunkEnded o { x with bwd := false }
  else o.started.contains x || decide ((inFlight o p (x.j % p)).length < warmup (x.j % p) p v o.plan.m + 1)

/-- The place of a chunk in its die's schedule. -/
def chunkOrder (j : Job) (o : OpenStep) (x : Chunk) : Nat :=
  let (p, v) := stepPv j o
  (schedule (x.j % p) p v o.plan.m).idxOf x

/-- Does a command's commit wait for another chunk (R274 items 1 and 4)? `wgb`: it carries WGB operations. -/
def chunkCommitReady (o : OpenStep) (c : Cmd) (wgb : Bool) : Bool :=
  let x := c.chunk
  if !inWindow c ∨ x.i = 0 then true
  else if c.chunkEnd ∨ (wgb ∧ x.bwd) then chunkEnded o { x with i := x.i - 1 }
  else true

/-- Is a cluster of the module disabled (R416 kind 1)? -/
def clusterDisabled (s : State) (core : Nat) : Bool := s.clusterOff.getLsbD (core / 64)

/-- What R264, R265, R268, R272 and R279 end a tagged command with at admission; none where they let it in. -/
def tagStatus (s : State) (p q : Nat) (c : Cmd) : Option Nat :=
  if c.phaseTag = 0 then none
  else
    match jobAt s p with
    | none => some stInvalid
    | some j =>
      let role := commandRole j c
      let roleBad := role.isNone
      let off := match role with
        | some r => r.cores.any (clusterDisabled s)
        | none => false
      let common : Option Nat := if roleBad then some stInvalid else if off then some stAbortedDisabled else none
      if c.phaseTag = 4 then (if j.eval.isNone then some stInvalid else common)
      else
        match j.step with
        | none => some stInvalid
        | some o =>
          let (pp, v) := stepPv j o
          let late : Bool := match o.cutoff with
            | none => false
            | some l => !(l.any (fun x => x.1 == q && posBefore c.pos x.2))
          if inWindow c ∧ (o.windowClosed ∨ o.plan.m ≤ c.chunk.i ∨ v * pp ≤ c.chunk.j) then some stInvalid
          else if c.phaseTag = 3 ∧ late then some stInvalid
          else if inWindow c ∧ (role.bind (·.stage)) ≠ some (c.chunk.j % pp) then some stInvalid
          else if o.mismatch.isSome then some stShardMismatch
          else common

/-! ### The window's end (R265, R296) and offload (R282) -/

/-- The norm area aggregated: per layer the sum of squares, the non-finite count, the torn flag (R296). -/
def aggregateNorms (s : State) (p : Nat) (o : OpenStep) : SMap LayerAgg :=
  (List.range o.plan.normSlots).foldl (fun m i =>
    let b := cohRead s (o.plan.normArea + 16 * i) 16
    let t := fieldAt b 8 2
    if t = 0xFFFF then m
    else
      let l := layerOf s p t
      let a := mapGetD m l { ss := 0, nf := 0, torn := false }
      mapSet m l { ss := addF32 a.ss (BitVec.ofNat 32 (fieldAt b 0 4)), nf := min (2 ^ 32 - 1) (a.nf + fieldAt b 4 4),
                   torn := a.torn || natBit (fieldAt b 0xB 1) 0 }) []

/-- The pipeline window closes once every chunk has ended. (DEDUCED, log entry 89) -/
def closeWindow (s : State) (p : Nat) : State :=
  match jobAt s p with
  | none => s
  | some j =>
    match j.step with
    | none => s
    | some o =>
      let (pp, v) := stepPv j o
      if o.windowClosed ∨ o.ended.length < 2 * v * o.plan.m * pp then s
      else
        let agg := aggregateNorms s p o
        let s1 := modJob s p (fun y => { y with step := y.step.map (fun z => { z with windowClosed := true, agg := agg }) })
        switchMapping s1 p o.plan.mapRed o.plan.rebalance o.plan.rebalPm

/-- Entries of the activation table that offload a virtual stage: base, bytes per micro-batch, object (R281, R282). -/
def offloadEntries (s : State) (o : OpenStep) (stage : Nat) : List (Nat × Nat × Nat) :=
  (List.range o.plan.actEntries).filterMap (fun i =>
    let b := cohRead s (o.plan.actTable + 32 * i) 32
    if fieldAt b 0xE 2 = stage ∧ natBit (fieldAt b 0x12 1) 0 then some (fieldAt b 0 8, fieldAt b 8 4, fieldAt b 0x10 2) else none)

/-- Migrations of a micro-batch's pages of a stage requested; they wait for quota instead of being dropped. -/
def offloadPages (s : State) (p : Nat) (o : OpenStep) (x : Chunk) (dir : MigDir) : State :=
  (offloadEntries s o x.j).foldl (fun t e =>
    match tierObject t p e.2.2 with
    | none => t
    | some ob =>
      let first := (e.1 + x.i * e.2.1 - ob.base) / 65536
      (List.range ((e.2.1 + 65535) / 65536)).foldl (fun u k =>
        match startMigration u p e.2.2 (first + k) dir .offload with
        | (.full, w) => queueMig w p { object := e.2.2, page := first + k, dir := dir, source := .offload }
        | (_, w) => w) t) s

/-- BWD chunks of a die that lie within the prefetch distance of its next BWD chunk. -/
def nearBwd (j : Job) (o : OpenStep) (d : Nat) : List Chunk :=
  let (p, v) := stepPv j o
  let left := (schedule d p v o.plan.m).filter (fun x => x.bwd && !chunkEnded o x)
  left.take (o.plan.prefetchD + 1)

/-- What the commit of a chunk-end command does: the chunk has ended, pages move, the window may close. -/
def chunkDone (s : State) (p : Nat) (c : Cmd) : State :=
  match jobAt s p with
  | none => s
  | some j =>
    match j.step with
    | none => s
    | some o =>
      if !c.chunkEnd ∨ !inWindow c then s
      else
        let x := c.chunk
        let (pp, _) := stepPv j o
        let o1 := { o with ended := if o.ended.contains x then o.ended else o.ended ++ [x] }
        let s1 := modJob s p (fun y => { y with step := some o1 })
        let s2 :=
          if !o.plan.offload then s1
          else
            let near := nearBwd j o1 (x.j % pp)
            let s3 := if !x.bwd ∧ !near.contains { x with bwd := true } then offloadPages s1 p o1 x .demote else s1
            near.foldl (fun t y => offloadPages t p o1 y .promote) s3
        closeWindow s2 p

/-! ### STEP_BEGIN (R262, R263, R281, R324) -/

/-- A step plan from its 64 bytes. -/
def planOf (b : List Byte) : StepPlan :=
  { step := fieldAt b 0 8, m := fieldAt b 8 2, mapFb := fieldAt b 0xA 1, mapRed := fieldAt b 0xB 1, mapEval := fieldAt b 0xC 1,
    rebalance := natBit (fieldAt b 0xD 1) 0, offload := natBit (fieldAt b 0xD 1) 1, prefetchD := fieldAt b 0xE 1,
    stale := fieldAt b 0xF 1, normArea := fieldAt b 0x10 8, normSlots := fieldAt b 0x18 4, rebalPm := fieldAt b 0x1C 2,
    actEntries := fieldAt b 0x1E 2, actTable := fieldAt b 0x20 8, stampLog := fieldAt b 0x28 8 }

/-- Is an activation-table entry right (R281)? -/
def actEntryOk (s : State) (p m : Nat) (b : List Byte) : Bool :=
  if !natBit (fieldAt b 0x12 1) 0 then true
  else
    match tierObject s p (fieldAt b 0x10 2) with
    | none => false
    | some o =>
      let base := fieldAt b 0 8
      let n := fieldAt b 8 4
      decide (base % 65536 = 0 ∧ n % 65536 = 0 ∧ o.base ≤ base ∧ base + m * n ≤ o.base + o.pages * 65536)

/-- Does a plan satisfy Table 9-2 and R281, and are its mapping indices loaded (R262)? -/
def planOk (s : State) (p : Nat) (j : Job) (b : List Byte) : Bool :=
  let x := planOf b
  match mappingAt j x.mapFb with
  | none => false
  | some m =>
    (mappingAt j x.mapRed).isSome && (mappingAt j x.mapEval).isSome
      && decide (1 ≤ x.m ∧ x.m ≤ 1024 ∧ (m.v = 1 ∨ x.m % m.p = 0)) && decide (fieldAt b 0xD 1 < 4)
      && decide (1 ≤ x.prefetchD ∧ x.prefetchD ≤ 16 ∧ x.stale ≤ 3 ∧ x.normArea % 16 = 0 ∧ x.normSlots ≤ 1048576
          ∧ 1 ≤ x.rebalPm ∧ x.rebalPm ≤ 1000 ∧ x.actEntries ≤ 4096 ∧ x.stampLog % 64 = 0)
      && (x.normSlots == 0 || ownsT1 s p x.normArea (16 * x.normSlots)) && ownsT1 s p x.stampLog 524288
      && (x.actEntries == 0 || (x.actTable % 64 == 0 && ownsT1 s p x.actTable (32 * x.actEntries)
          && (List.range x.actEntries).all (fun i => actEntryOk s p x.m (cohRead s (x.actTable + 32 * i) 32))))
      && zeroAt b 0x30 16

/-- T1 bytes zeroed: every cached copy recalled first. -/
def clearRange (s : State) (a n : Nat) : State :=
  let t := recallRange s a n
  clearPoison { t with mem := memClear t.mem a n } a n

/-- Is a layer's scale record intact (R73)? -/
def scaleIntact (s : State) (j : Job) (l : Nat) : Bool :=
  (List.range 16).all (fun k =>
    let step := j.committed + 2 ^ 16 - k
    match cp32At (cohRead s (j.scaleRecords + 128 * l + 8 * (step % 16)) 8) 0 with
    | none => false
    | some v => natField v 16 16 == step % 2 ^ 16)

/-- The layers reseeded in a step (R324): those without an intact record, and those reseeded in a skipped step before. (DEDUCED, log entry 79) -/
def reseededLayers (s : State) (j : Job) : List Nat :=
  (List.range j.layers).filter (fun l => (j.testScale && !scaleIntact s j l) || j.reseedAgain.contains l)

/-- The ranges of a table descriptor at an address and of the lists that it names (Table 8-1). -/
def tableNamed (s : State) (a : Nat) : List (Nat × Nat) :=
  let b := cohRead s a 64
  let d := tableOfBytes b [] [] []
  [(a, 64), (fieldAt b 0x18 8, d.n), (fieldAt b 0x20 8, if d.tiered then 0 else 4 * d.pageCount), (fieldAt b 0x28 8, 4 * d.n * d.g)]

/-- The structures that a configuration request names, from its 256 B entry (R473). -/
def namedRanges (s : State) (entry : List Byte) : List (Nat × Nat) :=
  let b := sliceBytes entry 0x10 240
  match fieldAt entry 8 2 with
  | 0x07 => if fieldAt b 0 1 = 1 then
      [(fieldAt b 0x20 8, 4 * fieldAt b 0x28 4), (fieldAt b 0x30 8, if fieldAt b 0x16 1 = 1 then fieldAt b 0x2C 1 else 0)] else []
  | 0x0A =>
    let dir := fieldAt b 0x10 8
    let n := fieldAt b 0x18 4
    [(dir, 64 * n), (fieldAt b 0x20 8, 131072), (fieldAt b 0x30 8, fieldAt b 0x1C 2), (fieldAt b 0x48 8, 2048), (fieldAt b 0x50 8, 1024),
      (fieldAt b 0x58 8, 136 * fieldAt b 0x60 2), (fieldAt b 0x68 8, 2 * fieldAt b 0x70 4)]
      ++ (List.range n).map (fun i =>
        let e := dirEntOfBytes (cohRead s (dir + 64 * i) 64)
        (e.descAddr, 32 * e.blocks))
  | 0x0B => [(fieldAt b 8 8, fieldAt (cohRead s (fieldAt b 8 8) 4) 0 4)]
  | 0x0D => tableNamed s (fieldAt b 0 8)
  | 0x0E => tableNamed s (fieldAt b 8 8)
  | 0x11 => [(fieldAt b 0x18 8, 1024)]
  | 0x16 => [(fieldAt b 0 8, 128 * fieldAt b 8 4)]
  | _ => []

/-- A configuration snapshot of the journal (R473). -/
def writeSnapshot (s : State) (p : Nat) : State :=
  match partAt s p with
  | none => s
  | some x =>
    if x.journal.enable = 0 ∨ !x.journal.snapshotDue then s
    else
      let at' := x.journal.seq
      let s1 := x.journal.config.foldl (fun t b =>
        journalWrite ((namedRanges t b).foldl (fun u r => if r.2 = 0 then u else inputRecord u p r.1 r.2) t) p 0x01 b)
        (journalWrite s p 0x0C (natToBytes 4 x.journal.config.length))
      modPart s1 p (fun y => { y with journal := { y.journal with snapshotDue := false, snapshot := at' } })

/-- The step opened (R262): stamp log invalid, norm area empty, map_fb installed, tables at a switch point. -/
def openStep (s : State) (p q : Nat) (j : Job) (x : StepPlan) : State :=
  let re := reseededLayers s j
  let s1 := clearRange s x.stampLog 524288
  let s2 := (List.range x.normSlots).foldl (fun t i => cohWrite t (x.normArea + 16 * i) (zeros 8 ++ natToBytes 2 0xFFFF ++ zeros 6)) s1
  let o : OpenStep :=
    { step := x.step, plan := x, queue := q, acceptedAon := aonNow s, ended := [], started := [], windowClosed := false, cutoff := none,
      installed := x.mapFb, mismatch := none, sliversMoved := 0, agg := [], flag := false, nfc := 0, src := 2 ^ 32 - 1,
      layerNf := [], reseeded := re, updated := [] }
  let s3 := modJob s2 p (fun y => { y with
    step := some o, lastPlan := some x, testScale := false, reseedAgain := [], lagRecords := 0,
    scale := (y.scale.zipIdx).map (fun e => if re.contains e.2 ∧ !j.reseedAgain.contains e.2 then y.initScale.getD e.2 0 else e.1) })
  switchTables (switchMapping s3 p x.mapFb x.rebalance x.rebalPm) p

/-- STEP_BEGIN (R262, R263). -/
def execStepBegin (q : BitVec 12) (pos : BitVec 32) (s : State) : Out :=
  let qn := q.toNat
  let pn := pos.toNat
  .next (runCmd s qn pn 0x09 (fun x c =>
    let p := x.partition
    match jobAt s p with
    | none => endCmd s qn pn stInvalid
    | some j =>
      if j.step.isSome ∨ j.eval.isSome then s
      else if j.halted ≠ 0 then endCmd s qn pn stInvalid
      else
        let a := c.field 0x20 8
        if a % 64 ≠ 0 then endCmd s qn pn stInvalid
        else if !ownsT1 s p a 64 then endCmd (failAccess s p a) qn pn stAddressFault
        else
          (cmdRead s qn pn a 64).bind (fun s1 b =>
            let plan := planOf b
            if plan.step ≠ j.committed + 1 ∨ !planOk s1 p j b then endCmd s1 qn pn stInvalid
            else finishCmd (openStep s1 p qn j plan) qn pn stOk 0)))

/-- EVAL_BEGIN (R290). -/
def execEvalBegin (q : BitVec 12) (pos : BitVec 32) (s : State) : Out :=
  let qn := q.toNat
  let pn := pos.toNat
  .next (runCmd s qn pn 0x0C (fun x _ =>
    let p := x.partition
    match jobAt s p with
    | none => endCmd s qn pn stInvalid
    | some j =>
      match j.lastPlan with
      | none => endCmd s qn pn stInvalid
      | some plan =>
        if j.step.isSome ∨ j.eval.isSome ∨ plan.step ≠ j.committed then endCmd s qn pn stInvalid
        else
          let s1 := modJob s p (fun y => { y with eval := some { step := j.committed, installed := plan.mapEval } })
          finishCmd (switchTables (switchMapping s1 p plan.mapEval plan.rebalance plan.rebalPm) p) qn pn stOk 0))

/-- EVAL_END (R290): it waits until every EVAL command of the partition has committed. -/
def execEvalEnd (q : BitVec 12) (pos : BitVec 32) (s : State) : Out :=
  let qn := q.toNat
  let pn := pos.toNat
  .next (runCmd s qn pn 0x0D (fun x _ =>
    let p := x.partition
    match (jobAt s p).bind (·.eval) with
    | none => endCmd s qn pn stInvalid
    | some _ =>
      if !(cmdsWhere s (fun _ y d => y.partition == p && d.phase != .waiting && d.phaseTag == 4)).isEmpty then s
      else finishCmd (modJob s p (fun y => { y with eval := none })) qn pn stOk 0))

/-! ### The core lane (R117, R407, R412, R413) -/

/-- Is a command of the core lane? -/
def isCoreCmd (op : Nat) : Bool := op == 1 || op == 4

/-- Do two core lists meet? -/
def coresMeet (a b : List Nat) : Bool := a.any (fun x => b.contains x)

/-- Are the cores of an admitted command free: no other command runs on them or waits to commit there, and none that has
waited longer wants one of them (R413; ties go to the lower queue)? -/
def coresFree (s : State) (q : Nat) (c : Cmd) : Bool :=
  (cmdsWhere s (fun r _ d =>
    isCoreCmd d.opcode && d.phase != .waiting && !(r == q && d.pos == c.pos) && coresMeet c.cores d.cores &&
      (d.begun || decide (d.admittedAt.toNat < c.admittedAt.toNat)
        || (d.admittedAt == c.admittedAt && decide (r < q ∨ (r = q ∧ d.order < c.order)))))).isEmpty

/-- The random-number stream of a command at program start (R289). -/
def startStream (s : State) (p : Nat) (c : Cmd) : Nat :=
  match c.phaseTag with
  | 0 => 2 * 2 ^ 30
  | 4 => (((jobAt s p).bind (·.eval)).map (·.step)).getD 0 % 2 ^ 26 + 2 ^ 30
  | _ => (((jobAt s p).bind (·.step)).map (·.step)).getD 0 % 2 ^ 26

/-- The in-place buffers of a command with their shadows (R406). -/
def inPlacePairs (bufs : List Buf) : List (Buf × Buf) := (bufs.zip bufs.tail).filter (fun e => e.1.kind == .inPlace)

/-- The in-place buffers of a command copied into their shadows, or back on a re-run (R407). -/
def inPlaceCopies (q pos : Nat) (back : Bool) (s : State) (bufs : List Buf) : CmdIo :=
  ioFold (fun t e =>
    (cmdRead t q pos (if back then e.2.addr else e.1.addr) e.1.bytes).andThen (fun u bs =>
      cmdWrite u q pos (if back then e.1.addr else e.2.addr) bs)) s (inPlacePairs bufs)

/-- The program's start on one core (R117): rank r of a role or range. (DEDUCED, log entry 15) -/
def startCore (s : State) (q p : Nat) (x : Queue) (c : Cmd) (text : List Byte) (role : Option Role) (r k : Nat) : State :=
  let textBase := x.scratchBase + c.field 0x28 2 * 64
  let size := c.field 0x2A 2 * 64
  let s1 := if c.field 0x20 8 = 0 then s else { s with mem := memPutBytes s.mem (coreAddr k textBase) text }
  let a3 := match role with
    | some ro => if ro.sliverFlag then firstSliver ro r + ro.slivers.getD r 0 * 2 ^ 16 else c.field 0x3C 4
    | none => c.field 0x3C 4
  let args : List Nat := [c.field 0x30 4, c.field 0x34 4, c.field 0x38 4, a3]
  let regs : CoreRegs :=
    { CoreRegs.zero with
      pc := BitVec.ofNat 32 (textBase + c.field 0x2C 4),
      x := Vector.ofFn (fun i =>
        if i.val = 2 then BitVec.ofNat 32 (x.scratchBase + x.scratchSize)
        else if 10 ≤ i.val ∧ i.val < 14 then BitVec.ofNat 32 (args.getD (i.val - 10) 0) else 0),
      rngStream := BitVec.ofNat 32 (startStream s p c) }
  modCore s1 k (fun y => { y with
    run := .running, wait := .none, regs := regs, exitWord := none, startCycle := arrNow s (coreDie k), wgbOps := [],
    committing := false, dmas := [],
    job := { queue := q, pos := c.pos, partition := p, rank := r, nranks := c.cores.length, shareBase := x.scratchBase,
             shareSize := x.scratchSize, textBase := textBase, textSize := size,
             args := Vector.ofFn (fun i => BitVec.ofNat 32 (args.getD i.val 0)) } })

/-- Is a PROGRAM_RUN right at admission (R117)? -/
def programOk (x : Queue) (c : Cmd) : Bool :=
  let off := c.field 0x28 2 * 64
  let size := c.field 0x2A 2 * 64
  decide (c.field 0x2A 2 ≠ 0 ∧ c.field 0x2C 4 % 2 = 0 ∧ c.field 0x2C 4 < size ∧ off + size ≤ x.scratchSize)

/-- PROGRAM_RUN (R117): the programs start once the cores are free. -/
def execProgramRun (q : BitVec 12) (pos : BitVec 32) (s : State) : Out :=
  let qn := q.toNat
  let pn := pos.toNat
  .next (runCmd s qn pn 0x01 (fun x c =>
    let p := x.partition
    if c.begun ∨ !coresFree s qn c then s
    else if !programOk x c then endCmd s qn pn stInvalid
    else
      (inPlaceCopies qn pn c.inPlaceCopied s c.bufs).bind (fun s1 _ =>
        let s2 := modCmd s1 qn pn (fun d => { d with inPlaceCopied := true })
        let role := (jobAt s2 p).bind (fun j => commandRole j c)
        let start (t : State) (text : List Byte) : State :=
          let t1 := modCmd t qn pn (fun d => { d with begun := true, sliceStart := aonNow t })
          (c.cores.zipIdx).foldl (fun u e => startCore u qn p x c text role e.2 e.1) t1
        if c.field 0x20 8 = 0 then start s2 []
        else (cmdRead s2 qn pn (c.field 0x20 8) (c.field 0x2A 2 * 64)).bind (fun t text => start t text))))

/-! ### GATHER_SHARD (R276 to R279) -/

/-- The directory entry of a tensor. -/
def tensorEntry (s : State) (j : Job) (tensor : Nat) : Option DirEnt :=
  ((List.range j.paramEntries).map (dirEnt s j)).find? (fun e => e.tensor == tensor)

/-- The stamp that all of several pairs hold, if they are valid and alike. -/
def commonStamp (l : List (Option Nat)) : Option Nat :=
  match l with
  | some x :: rest => if rest.all (fun y => y == some x) then some x else none
  | _ => none

/-- A gather fails: the entry of code 0x0901, the command's end, the action of the policy (R279, Table 9-6). (DEDUCED, log entry 48) -/
def gatherFails (s : State) (q pos p : Nat) (tensor shard want found : Nat) : State :=
  let s1 := logError s 2 0xFF 0x0901 p q stShardMismatch 0 (tensor + shard * 2 ^ 16 + want * 2 ^ 32 + found * 2 ^ 64)
  let s2 := endCmd s1 q pos stShardMismatch
  modJob s2 p (fun j =>
    if j.policy.mismatch = 0 then j
    else { j with step := j.step.map (fun o => { o with mismatch := some (j.policy.mismatch == 2) }) })

/-- Is a stamp accepted (R277), and if the command is tagged FWD or BWD, what does the stamp log come to (R278)? -/
def stampAccepted (s : State) (j : Job) (c : Cmd) (tensor stamp : Nat) : Bool × Nat :=
  match c.phaseTag with
  | 4 =>
    let want := ((j.eval.map (·.step)).getD 0) % 2 ^ 32
    (stamp == want, want)
  | 3 => (true, stamp)
  | 0 => (true, stamp)
  | _ =>
    match j.step with
    | none => (false, 0)
    | some o =>
      let want := (o.step - 1) % 2 ^ 32
      let near := decide ((want + 2 ^ 32 - stamp) % 2 ^ 32 ≤ o.plan.stale)
      match cp32At (cohRead s (o.plan.stampLog + 8 * tensor) 8) 0 with
      | none => (near, want)
      | some v => (near && v == stamp, v)

/-- The stamp log after an accepted gather (R278). -/
def logStamp (s : State) (j : Job) (c : Cmd) (tensor stamp : Nat) : State :=
  if !inWindow c then s
  else
    match j.step with
    | none => s
    | some o => cohWrite s (o.plan.stampLog + 8 * tensor) (cp32Bytes stamp)

/-- The shard written behind its header into every destination core (Table 9-5). (DEDUCED, log entry 48) -/
def scatterShard (s : State) (x : Queue) (c : Cmd) (tensor shard stamp : Nat) (data : List Byte) : State :=
  let bytes := cp32Bytes stamp ++ natToBytes 2 tensor ++ natToBytes 2 shard ++ natToBytes 4 data.length ++ data
  c.cores.foldl (fun t k => { t with mem := memPutBytes t.mem (coreAddr k (x.scratchBase + c.field 0x30 4)) bytes }) s

/-- A gather whose source has been read: checks, then the shard. -/
def finishGather (s : State) (q pos : Nat) (x : Queue) (c : Cmd) (stamp : Option Nat) (data : List Byte) : State :=
  let p := x.partition
  let tensor := c.field 0x20 2
  let shard := c.field 0x22 2
  match jobAt s p with
  | none => endCmd s q pos stInvalid
  | some j =>
    if x.scratchSize ≤ c.field 0x30 4 then endCmd s q pos stInvalid
    else if x.scratchSize < c.field 0x30 4 + 16 + data.length then endCmd s q pos stAddressFault
    else
      match stamp with
      | none => gatherFails s q pos p tensor shard (((j.step.map (·.step)).getD 1 - 1) % 2 ^ 32) 0
      | some st =>
        let (ok, want) := stampAccepted s j c tensor st
        if !ok then
          let raced := match j.step with
            | some o => inWindow c && decide (o.plan.stale ≠ 0) && (cp32At (cohRead s (o.plan.stampLog + 8 * tensor) 8) 0).isSome
            | none => false
          let s1 := if raced then journalOutcome s p 2 (natToBytes 2 tensor ++ natToBytes 4 want) else s
          gatherFails s1 q pos p tensor shard want st
        else
          let s1 := scatterShard (logStamp s j c tensor st) x c tensor shard st data
          let s2 := modCmd s1 q pos (fun d => { d with begun := true })
          finishCmd s2 q pos stOk st

/-- GATHER_SHARD (R276 to R279). A quarantined block holds it until the block is switched (R321). -/
def execGatherShard (q : BitVec 12) (pos : BitVec 32) (s : State) : Out :=
  let qn := q.toNat
  let pn := pos.toNat
  .next (runCmd s qn pn 0x04 (fun x c =>
    let p := x.partition
    if !coresFree s qn c then s
    else
      match jobAt s p with
      | none => endCmd s qn pn stInvalid
      | some j =>
        if c.field 0x24 1 = 0 then
          match tensorEntry s j (c.field 0x20 2) with
          | none => endCmd s qn pn stInvalid
          | some e =>
            let first := c.field 0x28 4
            let n := c.field 0x2C 4
            if n = 0 ∨ e.blocks < first + n then endCmd s qn pn stInvalid
            else
              let ds := (List.range n).map (fun i => blockDesc s e (first + i))
              if ds.any (fun d => ((blockSel s d).map (·.2)).getD false) then s
              else
                match cmdReads qn pn s (ds.map (fun d => (d.copy, packedBytes (codeBits e.copyFmt) d.elems))) [] with
                | (.ok s1 _, bs) => finishGather s1 qn pn x c (commonStamp (ds.map (blockStamp s1))) bs.flatten
                | (.held t, _) => t
                | (.ended t, _) => t
        else if c.field 0x24 1 = 1 then
          let k := c.field 0x28 4
          let off := c.field 0x2C 4
          if 8192 ≤ k ∨ coreOwner s k ≠ p ∨ 0x30000 < off + 16 then endCmd s qn pn stInvalid
          else
            (cmdRead s qn pn (coreAddr k off) 16).bind (fun s1 h =>
              let n := fieldAt h 0xC 4
              if 0x30000 < off + 16 + n then endCmd s1 qn pn stInvalid
              else (cmdRead s1 qn pn (coreAddr k (off + 16)) n).bind (fun s2 data => finishGather s2 qn pn x c (cp32At h 0) data))
        else endCmd s qn pn stInvalid))

end Sys2Proof.Machine
end

