-- ==== Sys2Proof/Machine/Queues.lean ====
section
/-! DEFINITION. Queue contexts: doorbells, descriptor reads, admission, commit and preemption (R372 to R377, R404 to R415). -/

namespace Sys2Proof.Machine

/-! ### Server-core faults (R36, R215) -/

/-- An access fault raised on a hart: cause 5 for a load, 7 for a store or AMO, as the privileged architecture numbers them. -/
def hartFault (s : State) (h cause addr : Nat) : State :=
  modHart s h (fun x => { x with faults := (cause, addr) :: x.faults })

/-! ### Doorbells (R373, R234) -/

/-- Is the module in service for queues: MP firmware runs, memory is initialised, no removal (R391, R392, R458)? -/
def inService (s : State) : Bool := s.life.running && !s.life.zeroing && !s.life.quiesce

/-- One more rejected doorbell or mailbox write of a function (Table 12-4). -/
def rejectDoorbell (s : State) (fn : Nat) : State := modFunc s fn (fun f => { f with dbRejected := f.dbRejected + 1 })

/-- Is a tail acceptable to a queue (R373)? -/
def tailOk (x : Queue) (t : Word32) : Bool :=
  decide ((t - x.tail).toNat < 2 ^ 31 ∧ (t - x.head).toNat ≤ x.entries)

/-- An accepted doorbell: the new tail; a parked queue is unparked with a new window (R373, R375). -/
def acceptTail (s : State) (q p : Nat) (t : Word32) : State :=
  let s1 := modQueue s q (fun x =>
    { x with tail := t, state := if x.state = .parked then .running else x.state,
             badReads := if x.state = .parked then 0 else x.badReads })
  journalWrite s1 p 0x03 (natToBytes 4 q ++ natToBytes 4 t.toNat)

/-- DOORBELL (R373): a write to page q of the function's BAR4. -/
def execDoorbell (fn : BitVec 4) (q : BitVec 12) (off : BitVec 12) (size : BitVec 4) (value : BitVec 64) (s : State) : Out :=
  let f := fn.toNat
  if (funcAt s f).isNone ∨ !inService s ∨ off ≠ 0 ∨ size ≠ 8 then .next s
  else
    match queueAt s q.toNat, cp32Value value with
    | some x, some t =>
      if x.partition = f ∧ !x.isLocal ∧ tailOk x t then .next (acceptTail s q.toNat f t)
      else .next (rejectDoorbell s f)
    | _, _ => .next (rejectDoorbell s f)

/-- The device address of a local queue's doorbell slot (R230). -/
def slotDoorbell (q : Nat) : Nat := registerBase + 12 * 0x1000000 + 0xC00000 + q * 0x40

/-- A store to a doorbell slot (R230, R234): only the slot of a local queue context of the hart's partition is granted. -/
def localDoorbell (s : State) (h q size : Nat) (value : Word64) : State :=
  let p := hartOwner s h
  match queueAt s q with
  | none => hartFault s h 7 (slotDoorbell q)
  | some x =>
    if !x.isLocal then hartFault s h 7 (slotDoorbell q)
    else if x.partition ≠ p then hartFault (isoViolation s p) h 7 (slotDoorbell q)
    else if !inService s ∨ size ≠ 8 then s
    else
      match cp32Value value with
      | some t => if tailOk x t then acceptTail s q p t else rejectDoorbell s p
      | none => rejectDoorbell s p

/-- LOCAL_DOORBELL (R234). -/
def execLocalDoorbell (hart : BitVec 6) (q : BitVec 12) (size : BitVec 4) (value : BitVec 64) (s : State) : Out :=
  .next (localDoorbell s hart.toNat q.toNat size.toNat value)

/-! ### Descriptor reads (R372, R374, R375) -/

/-- What a descriptor read shows. -/
inductive HeaderVerdict where
  | valid
  | invalid      -- a valid pair with nonzero reserved bits
  | notWritten
deriving DecidableEq, Repr

/-- The header check of Table 12-7. (DEDUCED, log entry 54) -/
def headerVerdict (q n : Nat) (d : List Byte) : HeaderVerdict :=
  match cp32At d 0 with
  | none => .notWritten
  | some v =>
    if natField v 29 3 ≠ 0 then .invalid
    else if natField v 0 17 = n % 2 ^ 17 ∧ natField v 17 12 = q then .valid
    else .notWritten

/-- A command that has just been read. -/
def Cmd.fresh (pos : Nat) (desc : List Byte) : Cmd :=
  { pos := pos, desc := desc, phase := .waiting, status := 0, result := 0, bufs := [], cores := [], kills := 0, sliceStart := 0,
    admittedAt := 0, order := 0, journalAt := 0, held := false, fpAtomic := false, inPlaceCopied := false,
    engine := 0, killed := 0, t1 := 0, hostBytes := 0, portBytes := 0, begun := false, group := [], tag := 0, collSeq := 0,
    collData := [], collDone := [], doneSent := false, granted := false, lnkStart := 0, lnkLast := 0, lagPeer := 0,
    lagWait := 0, lagCause := 0 }

/-- A rejected descriptor: its record, and it counts as ended (R377, Table 13-8). (DEDUCED, log entry 40) -/
def rejectDescriptor (s : State) (q n : Nat) : State :=
  let s1 := modQueue s q (fun x => { x with head := x.head + 1, accEnded := x.accEnded + 1, badReads := 0 })
  writeCompletion s1 q n stInvalid 0 0 0 0 0 0

/-- Descriptors taken in from the head on, up to the tail or the first that is not yet written. -/
def takeDescriptors : Nat → State → Nat → List Byte → State
  | 0, s, _, _ => s
  | fuel + 1, s, q, bs =>
    match queueAt s q with
    | none => s
    | some x =>
      if x.head = x.tail ∨ bs.length < 64 then s
      else
        let n := x.head.toNat
        let d := bs.take 64
        match headerVerdict q n d with
        | .valid =>
          takeDescriptors fuel (modQueue s q (fun y =>
            { y with head := y.head + 1, badReads := 0, cmds := y.cmds ++ [Cmd.fresh n d] })) q (bs.drop 64)
        | .invalid => takeDescriptors fuel (rejectDescriptor s q n) q (bs.drop 64)
        | .notWritten => modQueue s q (fun y => { y with badReads := y.badReads + 1 })

/-- The device address of a ring position's descriptor. -/
def descAddr (x : Queue) (n : Nat) : Nat := x.descRing + n % x.entries * 64

/-- What a read of `k` descriptors from the head returns: a local ring lies in T1; a host ring is what the host returned. (DEDUCED, log entry 51) -/
def descBytes (s : State) (x : Queue) (k : Nat) (bytes : List Byte) : List Byte :=
  if x.isLocal then
    (List.range k).flatMap (fun i =>
      let a := descAddr x (x.head.toNat + i)
      if rangePoisoned s a 64 then zeros 64 else cohRead s a 64)
  else bytes.take (64 * k)

/-- The failed read of a queue's descriptor that waits to be reissued. -/
def failedDesc (s : State) (q : Nat) : Option (Nat × HostRead) :=
  s.hostReads.find? (fun e => match e.2.purpose with
    | .descriptor r _ => r == q
    | _ => false)

/-- May descriptors of a queue be read now? -/
def mayFetch (s : State) (x : Queue) : Bool :=
  inService s && decide (x.state = .running ∧ x.head ≠ x.tail) && !replayRuns s x.partition

/-- A descriptor read ended by timeout or error: held as a host-tier read, reissued every 100 µs (R372). (DEDUCED, log entry 54) -/
def holdDescriptor (s : State) (q : Nat) (x : Queue) (result : Nat) : State :=
  let a := descAddr x x.head.toNat
  let why : HostReadFor := .descriptor q x.head.toNat
  let cause : StallCause := if !linkUp s then .linkDown else if result = 1 then .hostTimeout else .hostError
  let bus := ((partAt s x.partition).bind (fun y => hostRegAt y a)).elim 0 (fun r => r.bus + (a - r.base))
  match failedDesc s q with
  | some (k, r) => holdRequest { s with hostReads := mapSet s.hostReads k { r with failed := true } } x.partition cause none a 0 0 (some k)
  | none =>
    let k := nextKey s.hostReads
    let s1 := issueRead s x.partition bus 64 why a none
    holdRequest { s1 with hostReads := mapModify s1.hostReads k (fun r => { r with failed := true }) } x.partition cause none a 0 0 (some k)

/-- The read of a queue's descriptor is over: no hold of it remains. -/
def descReadDone (s : State) (q : Nat) : State :=
  match failedDesc s q with
  | none => s
  | some (k, _) => endHolds { s with hostReads := mapErase s.hostReads k } (fun h => decide (h.read = some k))

/-- DESCRIPTOR_FETCH_COMPLETE (R372, R375): up to 16 descriptors from the head; result 1 is a completion timeout, 2 to 4 an
error or poisoned data. -/
def execDescriptorFetchComplete (q : BitVec 12) (result : BitVec 3) (bytes : List Byte) (s : State) : Out :=
  let qn := q.toNat
  match queueAt s qn with
  | none => .next s
  | some x =>
    let waits : Bool := match failedDesc s qn with
      | some (_, r) => r.failed
      | none => false
    if !mayFetch s x ∨ x.badReads ≠ 0 ∨ waits then .next s
    else if x.isLocal ∨ result = 0 then
      let k := min 16 (x.tail - x.head).toNat
      .next (takeDescriptors 16 (descReadDone s qn) qn (descBytes s x k bytes))
    else .next (holdDescriptor s qn x result.toNat)

/-- The queue parks at its head (R375). -/
def parkQueue (s : State) (q : Nat) (x : Queue) : State :=
  let n := x.head.toNat
  let s1 := modQueue s q (fun y => { y with state := .parked, parkPos := n, badReads := 0 })
  modFunc (writeCompletion s1 q n stDoorbellAhead 0 0 0 0 0 0) x.partition (fun f => { f with dbAhead := f.dbAhead + 1 })

/-- DESCRIPTOR_REREAD (R375): a re-read within the window; the ninth read that does not validate parks the queue. -/
def execDescriptorReread (q : BitVec 12) (bytes : List Byte) (s : State) : Out :=
  let qn := q.toNat
  match queueAt s qn with
  | none => .next s
  | some x =>
    if !mayFetch s x ∨ x.badReads = 0 then .next s
    else
      let d := descBytes s x 1 bytes
      if d.length < 64 then .next s
      else
        match headerVerdict qn x.head.toNat d with
        | .notWritten =>
          if x.badReads = 8 then .next (parkQueue s qn x) else .next (modQueue s qn (fun y => { y with badReads := y.badReads + 1 }))
        | _ => .next (takeDescriptors 1 s qn d)

/-! ### What a descriptor must satisfy (R404, Tables 13-7 and 13-9) -/

/-- May an opcode carry a phase tag? -/
def phaseAllowed (op tag : Nat) : Bool :=
  if op = 1 ∨ op = 0x11 ∨ op = 0x12 ∨ (4 ≤ op ∧ op ≤ 7) then true
  else if op = 8 then tag != 0
  else tag == 0

/-- The fields of a descriptor that need no memory. (DEDUCED, log entry 10) -/
def descriptorOk (c : Cmd) : Bool :=
  let op := c.opcode
  let tag := c.phaseTag
  decide (1 ≤ op ∧ op ≤ 0x13 ∧ c.field 0x09 1 < 16 ∧ tag ≤ 4 ∧ c.field 0x0A 2 < 2 ∧ c.field 0x18 2 ≤ 256 ∧ c.field 0x1A 1 ≤ 63
    ∧ c.field 0x1B 1 = 0 ∧ (c.field 0x10 8 = 0 ↔ c.field 0x18 2 = 0)) && phaseAllowed op tag
  && (if tag ≠ 0 then decide (natField c.target 24 8 = 0)
      else if op = 1 then decide (natField c.target 26 6 = 0)
      else decide (c.target = 0))
  && (if op = 0x10 then decide (c.field 0x20 1 ≤ 1) else true)
  && (if op = 0x11 then decide (c.field 0x20 2 < 1024 ∧ c.field 0x22 1 ≤ 1 ∧ c.field 0x30 8 % 8 = 0) else true)
  && (if op = 0x12 then decide (c.field 0x20 2 < 1024) else true)
  && (if op = 8 then tag != 4 else true)

/-! ### Declared buffers (R405, R406) -/

/-- Device bytes that a command's unit may read, without taking part in the tiers; none where it may not. -/
def peek (s : State) (p : Nat) (pasid : Option Nat) (a n : Nat) : Option (List Byte) :=
  match rangePieces s p pasid false a n with
  | none => none
  | some l => if l.all (fun e => unitMayRead s p e.1 e.2) then some (readPieces s l) else none

/-- A buffer list entry (Table 13-10). -/
def bufOfBytes (b : List Byte) : Option Buf :=
  let flags := fieldAt b 0x11 1
  let kind : Option BufKind := match fieldAt b 0x10 1 with
    | 0 => some .input
    | 1 => some .output
    | 2 => some .inPlace
    | 3 => some .shadow
    | _ => none
  let set := fieldAt b 0x12 2
  let slot := fieldAt b 0x14 4
  let gen := fieldAt b 0x18 2
  let n := fieldAt b 8 8
  match kind with
  | none => none
  | some k =>
    if 1 ≤ n ∧ n ≤ 2 ^ 40 ∧ flags < 4 ∧ flags ≠ 2 ∧ slot < 65536 ∧ zeroAt b 0x1A 6
        ∧ (natBit flags 0 = true ∨ (set = 0 ∧ slot = 0 ∧ gen = 0)) then
      some { addr := fieldAt b 0 8, bytes := n, kind := k, slot := if natBit flags 0 then some (set, slot, gen) else none,
             release := natBit flags 1 }
    else none

/-- Every in-place entry is followed by a shadow of its size, and no shadow stands alone (R406): `want` is the size of the
in-place entry just before. -/
def shadowsOk : Option Nat → List Buf → Bool
  | want, [] => want.isNone
  | want, b :: rest =>
    match want, b.kind with
    | some n, .shadow => b.bytes == n && shadowsOk none rest
    | some _, _ => false
    | none, .shadow => false
    | none, .inPlace => shadowsOk (some b.bytes) rest
    | none, _ => shadowsOk none rest

/-- A range that a command only reads. -/
def inBuf (a n : Nat) : List Buf := if n = 0 then [] else [{ addr := a, bytes := n, kind := .input, slot := none, release := false }]
/-- A range that a command writes. -/
def outBuf (a n : Nat) : List Buf := if n = 0 then [] else [{ addr := a, bytes := n, kind := .output, slot := none, release := false }]

/-- The ranges of one entry of a lookup or update plan. -/
def planBufs (s : State) (p : Nat) (update : Bool) (e : PlanEntry) : List Buf :=
  let w := ((tableAt s p e.table).map (fun t => t.desc.dim * rowElemBytes e.fmt)).getD 0
  let vecs := if e.vectors = 0 then 0 else (e.vectors - 1) * e.vecStride + w
  inBuf e.offAddr (4 * (e.segs + 1)) ++ inBuf e.idxAddr (8 * e.count) ++ (if e.pool = 3 then inBuf e.wAddr (4 * e.count) else [])
    ++ (if update then inBuf e.vecAddr vecs ++ outBuf e.normAddr 16 else outBuf e.vecAddr vecs)

/-- The parts of a gather's source that it reads. -/
def gatherBufs (s : State) (p : Nat) (c : Cmd) : List Buf :=
  match jobAt s p with
  | none => []
  | some j =>
    if c.field 0x24 1 = 0 then
      match tensorEntry s j (c.field 0x20 2) with
      | none => []
      | some e =>
        (List.range (min (c.field 0x2C 4) e.blocks)).flatMap (fun i =>
          let d := blockDesc s e (c.field 0x28 4 + i)
          inBuf d.copy (packedBytes (codeBits e.copyFmt) d.elems))
    else
      let a := coreAddr (c.field 0x28 4) (c.field 0x2C 4)
      if 8192 ≤ c.field 0x28 4 ∨ 0x30000 < c.field 0x2C 4 + 16 then []
      else inBuf a (16 + fieldAt (memBytes s.mem a 16) 0xC 4)

/-- Members of the group that a gang command names; 0 where the descriptor cannot be read or is wrong. -/
def groupSize (s : State) (p : Nat) (pasid : Option Nat) (a : Nat) : Nat × Nat :=
  match peek s p pasid a 16 with
  | none => (0, 0)
  | some h =>
    match peek s p pasid a (16 + 2 * min 65536 (fieldAt h 0 4)) with
    | none => (0, 0)
    | some b => match groupOf s p b with
      | none => (0, 0)
      | some (ms, _) => (ms.length, rankOf ms s.life.moduleId)

/-- The buffers that a command declares by its arguments (R405). -/
def implicitBufs (s : State) (p : Nat) (x : Queue) (c : Cmd) : List Buf :=
  match c.opcode with
  | 0x01 => if c.field 0x20 8 = 0 then [] else inBuf (c.field 0x20 8) (c.field 0x2A 2 * 64)
  | 0x02 => inBuf (c.field 0x20 8) (c.field 0x30 8) ++ outBuf (c.field 0x28 8) (c.field 0x30 8)
  | 0x03 => outBuf (c.field 0x20 8) (c.field 0x28 8)
  | 0x04 => gatherBufs s p c
  | 0x05 => inBuf (ringBuf c 0) c.aux ++ outBuf (ringBuf c 1) c.aux
  | 0x06 =>
    let (n, k) := groupSize s p x.pasid (c.field 0x20 8)
    let a := collArgs c
    if n = 0 then [] else inBuf (c.field 0x28 8) (collInput a n k) ++ outBuf (c.field 0x30 8) (collOutput a n k)
  | 0x07 =>
    let n := min 64 (c.field 0x28 1)
    inBuf (c.field 0x20 8) (64 * n) ++
      (match peek s p x.pasid (c.field 0x20 8) (64 * n) with
       | none => []
       | some b => (planEntries b n).flatMap (planBufs s p false))
  | 0x08 =>
    let n := min 64 (c.field 0x28 1)
    inBuf (c.field 0x20 8) (64 * n) ++
      (match peek s p x.pasid (c.field 0x20 8) (64 * n) with
       | none => []
       | some b => (planEntries b n).flatMap (planBufs s p true))
  | 0x09 => inBuf (c.field 0x20 8) 64
  | 0x0A => inBuf (c.field 0x20 8) (32 * ((jobAt s p).map (·.layers)).getD 0)
  | 0x0E => inBuf (c.field 0x28 8) c.aux ++ outBuf (c.field 0x30 8) (c.field 0x38 4)
  | 0x0F => inBuf (c.field 0x28 8) c.aux ++ outBuf (c.field 0x30 8) (c.field 0x38 4)
  | 0x11 => if c.field 0x30 8 = 0 then [] else outBuf (c.field 0x30 8) 8
  | _ => []

/-- Is a buffer written? -/
def Buf.written (b : Buf) : Bool := b.kind != .input

/-- The device ranges of a buffer, where the command's unit may use them (R401). (DEDUCED, log entry 52) -/
def bufRanges (s : State) (p : Nat) (pasid : Option Nat) (b : Buf) : Option (List (Nat × Nat)) :=
  match rangePieces s p pasid b.written b.addr b.bytes with
  | none => none
  | some l =>
    if l.all (fun e => if b.written then unitMayWrite s p e.1 e.2 else unitMayRead s p e.1 e.2) then some l else none

/-- Do two ranges meet? -/
def rangesMeet (a b : Nat × Nat) : Bool := decide (0 < a.2 ∧ 0 < b.2 ∧ a.1 < b.1 + b.2 ∧ b.1 < a.1 + a.2)

/-- The declared ranges of a command, with "written": its buffers, and a core command's own share on its cores (R405). -/
def declared (s : State) (x : Queue) (bufs : List Buf) (c : Cmd) (cores : List Nat) : List (Bool × Nat × Nat) :=
  bufs.flatMap (fun b => ((bufRanges s x.partition x.pasid b).getD []).map (fun e => (b.written, e.1, e.2)))
    ++ (if isCoreCmd c.opcode then cores.map (fun k => (true, coreAddr k x.scratchBase, x.scratchSize)) else [])

/-- Two declarations conflict: they meet, and one of them is written. -/
def declConflict (a b : Bool × Nat × Nat) : Bool := (a.1 || b.1) && rangesMeet a.2 b.2

/-- An output or in-place buffer that meets another buffer of the command (R406). -/
def selfConflict : List (Bool × Nat × Nat) → Bool
  | [] => false
  | d :: rest => rest.any (declConflict d) || selfConflict rest

/-- Does a command's declaration conflict with an admitted command of its partition (R408)? -/
def admissionConflict (s : State) (p q pos : Nat) (ds : List (Bool × Nat × Nat)) : Bool :=
  !(cmdsWhere s (fun r y d => y.partition == p && d.phase != .waiting && !(r == q && d.pos == pos) &&
    (declared s y d.bufs d d.cores).any (fun e => ds.any (declConflict e)))).isEmpty

/-- The ranges that an EVAL command must not write (R291). -/
def evalForbidden (s : State) (p : Nat) : List (Nat × Nat) :=
  match jobAt s p with
  | none => []
  | some j =>
    (allBlocks s j).flatMap (fun x =>
      let e := dirEnt s j x.1
      let d := blockDesc s e x.2
      let sets := [readSet s e.rule d 0, readSet s e.rule d 1]
      (d.copy, packedBytes (codeBits e.copyFmt) d.elems) :: (d.record, 16 + 2 * setSize e.rule)
        :: sets.flatMap (fun y => [(y.master * 65536, 65536), (y.moment * 65536, 65536)]))
    ++ j.tables.flatMap (fun t => (List.range t.2.desc.pageCount).map (fun i => (tablePageAddr s p t.2.desc i, 65536)))
    ++ [(j.scaleRecords, 128 * j.layers)]
    ++ (match j.lastPlan with | some y => [(y.stampLog, 524288)] | none => [])

/-- The gradient buffers that retention holds (R318). -/
def gradRanges (s : State) (j : Job) : List (Nat × Nat) :=
  (allBlocks s j).map (fun x =>
    let e := dirEnt s j x.1
    let d := blockDesc s e x.2
    (d.grad, rowElemBytes e.gradFmt * d.elems))

/-! ### Window slots (R369 to R371) -/

/-- The ownership word of a slot: owner, generation, and its address. -/
def slotWord (s : State) (fn set slot : Nat) : Option (Nat × Nat × Nat) :=
  match (funcAt s fn).bind (fun f => mapGet f.slotSets set) with
  | none => none
  | some y =>
    if slot < y.slots ∧ !y.removed then
      (cp32At (cohRead s (y.array + 8 * slot) 8) 0).map (fun v => (natField v 0 8, natField v 16 16, y.array + 8 * slot))
    else none

/-- Is every named slot DEVICE with the expected generation? (DEDUCED, log entry 52) -/
def slotsOwned (s : State) (fn : Nat) (bufs : List Buf) : Bool :=
  bufs.all (fun b => match b.slot with
    | none => true
    | some (set, slot, gen) => match slotWord s fn set slot with
      | some (2, g, _) => g == gen
      | _ => false)

/-- The value of an ownership word. -/
def ownerWord (owner gen : Nat) : Nat := owner + gen % 65536 * 65536

/-- The slots that a command releases: DEVICE, g becomes HOST, g + 1 (Table 12-6). -/
def releaseSlots (s : State) (fn : Nat) (bufs : List Buf) : State :=
  bufs.foldl (fun t b => match b.slot, b.release with
    | some (set, slot, gen), true =>
      match slotWord t fn set slot with
      | some (2, g, a) => if g = gen then cohWrite t a (cp32Bytes (ownerWord 1 (g + 1))) else t
      | _ => t
    | _, _ => t) s

/-! ### Admission (R404 to R408, R262 to R274, R473) -/

/-- The command at a queue's head: the first that is not admitted. -/
def headCmd (x : Queue) : Option Cmd := x.cmds.find? (fun c => c.phase == .waiting)

/-- Does an earlier FENCE or WAIT of the queue hold admission (R382, R411)? -/
def behindFence (x : Queue) : Bool := x.cmds.any (fun c => c.phase != .waiting && (c.opcode == 0x10 || c.opcode == 0x12))

/-- Commands that Decaf mode still runs (R468). -/
def decafRuns (op : Nat) : Bool := op == 0x02 || op == 0x10 || op == 0x11 || op == 0x12

/-- Is no FWD or BWD command of a partition left? -/
def windowEmpty (s : State) (p : Nat) : Bool :=
  (cmdsWhere s (fun _ y d => y.partition == p && inWindow d)).isEmpty

/-- Has REDUCE closed (R265)? An EMB_UPDATE whose reduce stage is over waits for the step itself and does not count. After a
mismatch under SKIP or ABORT no chunk end can commit any more: the window then counts as closed once no FWD or BWD command is
left, so that `STEP_COMMIT` ends as Table 9-6 says. (DEDUCED, log entry 35) -/
def reduceClosed (s : State) (p : Nat) (o : OpenStep) : Bool :=
  (o.windowClosed || (o.mismatch.isSome && windowEmpty s p)) &&
  (match o.cutoff with
   | none => false
   | some l =>
     (cmdsWhere s (fun r y d => y.partition == p && d.phaseTag == 3 && l.any (fun e => e.1 == r && posBefore d.pos e.2)
       && !(d.opcode == 8 && d.begun))).isEmpty
     && l.all (fun e => match queueAt s e.1 with
       | none => true
       | some y => !posBefore y.head.toNat e.2))

/-- The cut-off: the accepted tail of every queue of the partition. (DEDUCED, log entry 39) -/
def cutoffOf (s : State) (p : Nat) : List (Nat × Nat) :=
  (s.queues.filter (fun e => e.2.partition == p)).map (fun e => (e.1, e.2.tail.toNat))

/-- What the step makes a command wait for (R262, R265, R269, R274 items 2 and 3, R250, R318). -/
def stepWaits (s : State) (p : Nat) (c : Cmd) (ds : List (Bool × Nat × Nat)) : Bool :=
  match jobAt s p with
  | none => false
  | some j =>
    if c.opcode = 0x09 then j.step.isSome || j.eval.isSome
    else
      match j.step with
      | none => false
      | some o =>
        if c.opcode = 0x0A then !reduceClosed s p o
        else if inWindow c then !chunkReady j o c
        else if c.phaseTag = 3 then
          (isCoreCmd c.opcode && o.plan.mapRed != o.plan.mapFb && !o.windowClosed)
          || (j.retention.isSome && (c.opcode == 8 ||
              ds.any (fun d => d.1 && (gradRanges s j).any (fun g => rangesMeet d.2 g))))
        else false

/-- The buffers of a command, its cores, and its declaration. (DEDUCED, log entry 52) -/
def cmdDecl (s : State) (p : Nat) (x : Queue) (c : Cmd) (explicit : List Buf) : List Buf × List Nat × List (Bool × Nat × Nat) :=
  let bufs := explicit ++ implicitBufs s p x c
  let cores := (commandCores s p c).getD []
  (bufs, cores, declared s x bufs c cores)

/-- The explicit buffers as a plain read of the list shows them. -/
def listBufs (s : State) (p : Nat) (x : Queue) (c : Cmd) : List Buf :=
  match peek s p x.pasid (c.field 0x10 8) (32 * c.field 0x18 2) with
  | none => []
  | some b => (List.range (c.field 0x18 2)).filterMap (fun i => bufOfBytes (sliceBytes b (32 * i) 32))

/-- Is a queue's head a ready FWD or BWD command of a stage position, with its place in the schedule (R274 item 5)? -/
def readyChunk (s : State) (p d : Nat) (q : Nat) (x : Queue) (j : Job) (o : OpenStep) : Option Nat :=
  if x.partition ≠ p ∨ behindFence x ∨ x.state = .disabled then none
  else
    match headCmd x with
    | none => none
    | some c =>
      let (_, _, ds) := cmdDecl s p x c (listBufs s p x c)
      if inWindow c ∧ c.chunk.j % (stepPv j o).1 = d ∧ chunkReady j o c ∧ !admissionConflict s p q c.pos ds then
        some (chunkOrder j o c.chunk)
      else none

/-- Is a ready command of an earlier chunk of the same die waiting in another queue? -/
def earlierChunkReady (s : State) (p q : Nat) (c : Cmd) : Bool :=
  match jobAt s p with
  | none => false
  | some j =>
    match j.step with
    | none => false
    | some o =>
      inWindow c && s.queues.any (fun e => e.1 != q &&
        (match readyChunk s p (c.chunk.j % (stepPv j o).1) e.1 e.2 j o with
         | some k => decide (k < chunkOrder j o c.chunk)
         | none => false))

/-- The address of the next record of a partition's journal, for a body of n bytes. -/
def journalNextAt (s : State) (p n : Nat) : Nat :=
  match partAt s p with
  | none => 0
  | some x =>
    let j := x.journal
    if j.enable = 0 then 0
    else
      let len := (0x20 + n + 8 + 63) / 64 * 64
      let off := j.tail * 64 % (j.size - 64)
      if off + len ≤ j.size - 64 then j.base + 64 + off else j.base + 64

/-- The DESCRIPTOR record of an admitted command and the INPUT records of its inputs (R472, Table 16-8). -/
def journalAdmission (s : State) (p q : Nat) (c : Cmd) (order : Nat) (bufs : List Buf) : State × Nat :=
  let at' := journalNextAt s p 88
  let s1 := journalWrite s p 0x02 (natToBytes 4 q ++ natToBytes 4 c.pos ++ natToBytes 8 order ++ natToBytes 8 (2 ^ 64 - 1) ++ c.desc)
  let ins := bufs.filter (fun b => b.kind == .input || b.kind == .inPlace)
  (ins.foldl (fun t b => ((rangePieces t p (queuePasid t q) false b.addr b.bytes).getD []).foldl (fun u e => journalInput u p e.1 e.2) t) s1, at')

/-- The command is admitted. -/
def admitCmd (s : State) (p q : Nat) (c : Cmd) (bufs : List Buf) (cores : List Nat) : State :=
  let order := ((partAt s p).map (·.admitted)).getD 0
  let (s1, at') := journalAdmission (if c.opcode = 9 then writeSnapshot s p else s) p q c order bufs
  let s2 := modPart s1 p (fun x => { x with admitted := x.admitted + 1, journal := { x.journal with waiting := false } })
  let s3 := modCmd s2 q c.pos (fun d => { d with
    phase := .admitted, bufs := bufs, cores := cores, order := order, admittedAt := aonNow s, journalAt := at' })
  if c.phaseTag = 1 then
    modJob s3 p (fun j => { j with step := j.step.map (fun o =>
      { o with started := if o.started.contains c.chunk then o.started else o.started ++ [c.chunk] }) })
  else s3

/-- Does the explicit list of a valid descriptor break Table 13-10? -/
def bufListBad (b : List Byte) (n : Nat) : Bool :=
  let l := (List.range n).map (fun i => bufOfBytes (sliceBytes b (32 * i) 32))
  l.any (·.isNone) || !shadowsOk none (l.filterMap id)

/-- Does a checkpoint that has fallen due hold core commands off a core's die (R453)? -/
def checkpointHolds (s : State) (k : Nat) : Bool := ((s.dies[coreDie k]?).map (·.checkpointDue)).getD false

/-- Does a command wait because the units it needs have no code (R481): the cores without component 3, the video units without
component 4? (DEDUCED, log entry 87) -/
def noCode (s : State) (op : Nat) : Bool :=
  ((op == 1 || op == 4) && (componentAt s 3).running.isNone) || ((op == 0x0E || op == 0x0F) && (componentAt s 4).running.isNone)

/-- The rest of admission once the explicit buffers have been read. (DEDUCED, log entry 87) -/
def admitWith (s : State) (q p : Nat) (x : Queue) (c : Cmd) (explicit : List Buf) : State :=
  let (bufs, cores, ds) := cmdDecl s p x c explicit
  let coreBad := c.opcode = 1 ∧ c.phaseTag = 0 ∧ cores.any (fun k => decide (8192 ≤ k) || coreOwner s k != p)
  match tagStatus s p q c with
  | some st => endCmd s q c.pos st
  | none =>
      if stepWaits s p c ds ∨ noCode s c.opcode ∨ cores.any (checkpointHolds s) then s
      else if coreBad ∨ (c.opcode = 1 ∧ !programOk x c) then endCmd s q c.pos stInvalid
      else if cores.any (clusterDisabled s) then endCmd s q c.pos stAbortedDisabled
      else
        match bufs.find? (fun b => (bufRanges s p x.pasid b).isNone) with
        | some b =>
          match rangePieces s p x.pasid b.written b.addr b.bytes with
          | none => endCmd (iommuFault s p q b.addr) q c.pos stAddressFault
          | some _ => endCmd (failAccess s p b.addr) q c.pos stAddressFault
        | none =>
          if selfConflict ds then endCmd s q c.pos stInvalid
          else if c.phaseTag = 4 ∧ ds.any (fun d => d.1 && (evalForbidden s p).any (rangesMeet d.2)) then
            endCmd s q c.pos stInvalid
          else if admissionConflict s p q c.pos ds ∨ earlierChunkReady s p q c then s
          else if cores.any (fun k => !domainRuns s (coreDomain k)) then cores.foldl wakeCore s
          else if !slotsOwned s p bufs then endCmd s q c.pos stSlotNotOwned
          else admitCmd s p q c bufs cores

/-- COMMAND_ADMISSION (R404 to R408): the head of a queue is admitted, ends, or waits. -/
def execCommandAdmission (q : BitVec 12) (s : State) : Out :=
  let qn := q.toNat
  match queueAt s qn with
  | none => .next s
  | some x =>
    match headCmd x with
    | none => .next s
    | some c =>
      let p := x.partition
      if !inService s ∨ x.state = .disabled ∨ behindFence x ∨ replayInputs s p then .next s
      else if s.fault.decaf.isSome ∧ !decafRuns c.opcode then .next (endCmd s qn c.pos stAbortedDecaf)
      else if !descriptorOk c then .next (endCmd s qn c.pos stInvalid)
      else
        match partAt s p with
        | none => .next s
        | some y =>
          if y.journal.enable ≠ 0 ∧ journalFree s y.journal < 65536 then
            .next (modPart s p (fun z => { z with journal := { z.journal with waiting := true } }))
          else
            let s1 :=
              if c.opcode = 0x0A then
                modJob s p (fun j => { j with step := j.step.map (fun o =>
                  { o with cutoff := some (o.cutoff.getD (cutoffOf s p)) }) })
              else s
            if c.field 0x18 2 = 0 then .next (admitWith s1 qn p x c [])
            else
              let n := c.field 0x18 2
              .next ((cmdRead s1 qn c.pos (c.field 0x10 8) (32 * n)).bind (fun s2 b =>
                if bufListBad b n then endCmd s2 qn c.pos stInvalid
                else admitWith s2 qn p x c ((List.range n).filterMap (fun i => bufOfBytes (sliceBytes b (32 * i) 32)))))

/-! ### Commit (R409, R371, R377, R381) -/

/-- Does a command carry WGB operations, as far as R409 counts them? -/
def carriesWgb (s : State) (x : Queue) (c : Cmd) : Bool :=
  c.opcode == 1 && decide (x.tiles ≠ 0) && (c.phase == .admitted || c.cores.any (fun k => !(coreAt s k).wgbOps.isEmpty || (coreAt s k).committing))

/-- Does an earlier command of the queue hold back a commit (R409)? (DEDUCED, log entry 52) -/
def commitHeld (s : State) (x : Queue) (c : Cmd) : Bool :=
  let ds := declared s x c.bufs c c.cores
  x.cmds.any (fun d => posBefore d.pos c.pos && (carriesWgb s x d ||
    (declared s x d.bufs d d.cores).any (fun e => ds.any (fun f => rangesMeet e.2 f.2))))

/-- T1 bytes of a WGB operation counted for its command (R418). -/
def chargeWgb (s : State) (q pos : Nat) (op : WgbOp) : State :=
  match op with
  | .flush _ d => chargePieces s q pos [(d.addr, 0x4000), (d.normAddr, 16)] true
  | .spill _ d =>
    chargePieces (chargePieces s q pos ((if d.add then [(d.addr, 0x4000)] else []) ++ (if d.final then [(d.addr, 0x4000)] else [])) false)
      q pos ((d.addr, 0x4000) :: (if d.final then [(d.normAddr, 16)] else [])) true
  | _ => s

/-- A core's WGB operations applied, the lanes of their flush records added to the step (R105, R313). -/
def commitWgb (s : State) (p q pos k : Nat) : State :=
  let ops := (coreAt s k).wgbOps
  let s1 := ops.foldl (fun t op =>
    let u := chargeWgb (applyWgb t k op) q pos op
    match op with
    | .flush _ d => addRecordLanes u p k d.normAddr
    | _ => u) s
  modCore s1 k (fun c => { c with wgbOps := [], committing := !ops.isEmpty })

/-- Does a spill record of one of the cores wait for its lanes (R105)? -/
def spillsPending (s : State) (cores : List Nat) : Bool := s.spills.any (fun r => cores.contains r.core)

/-- The commit sequence number patched into the command's journal record, with its CRC (Table 16-8). (DEDUCED, log entry 40) -/
def patchJournal (s : State) (c : Cmd) (seq : Nat) : State :=
  if c.journalAt = 0 then s
  else
    let b := putBytes (cohRead s c.journalAt 120) (0x20 + 16) (natToBytes 8 seq)
    moduleWrite s c.journalAt (b ++ natToBytes 8 (crc64 b))

/-- The remote part of a command: a pass of a ring over ports with remote outputs allowed (R381). -/
def remotePart (s : State) (p : Nat) (c : Cmd) : Option (Nat × Nat) :=
  if c.opcode = 5 ∧ !isLocalRing c ∧ natBit (c.field 0x0A 2) 0 then
    let succ := c.group.getD ((rankOf c.group s.life.moduleId + 1) % c.group.length) 0
    let key := succ * 64 + c.field 0x1A 1
    some (succ, ((funcAt s p).map (fun f => mapGetD f.rccSent key 0)).getD 0 + 1)
  else none

/-- The messages of a command counted for its remote counter. (DEDUCED, log entry 53) -/
def countRemote (s : State) (p : Nat) (c : Cmd) (r : Option (Nat × Nat)) : State :=
  match r with
  | none => s
  | some (m, t) => modFunc s p (fun f => { f with rccSent := mapSet f.rccSent (m * 64 + c.field 0x1A 1) (t % 2 ^ 32) })

/-- Steps 2 to 6 of a commit, and what the commit leaves (R409). (DESIGN CHOICE, log entry 42) -/
def commitRest (s : State) (q p : Nat) (c : Cmd) : State :=
  let s1 := releaseSlots s p c.bufs
  let (s2, result) :=
    if c.opcode = 0x11 then (applySignal s1 p q c, (signalValue s1 p c).toNat % 2 ^ 32) else (s1, c.result)
  let s3 := account s2 q c true
  let s4 := if c.opcode = 0x0A ∨ c.opcode = 0x0B then commitWrites s3 p else s3
  let seq := ((partAt s4 p).map (·.commitSeq)).getD 0
  let s5 := modPart s4 p (fun y => { y with commitSeq := y.commitSeq + 1 })
  let s6 := modFunc (patchJournal s5 c seq.toNat) p (fun f => { f with flush := f.flush + 1 })
  let r := remotePart s6 p c
  let st0 := if c.held ∧ c.status = stOk then stTierStall else c.status
  let st := if r.isSome ∧ (st0 = stOk ∨ st0 = stTierStall) then stPendingRemote else st0
  let s7 := countRemote (removeCmd s6 q c.pos) p c r
  let s8 := writeCompletion s7 q c.pos st result (c.recordFlags + bitOf r.isSome) seq.toNat
    ((r.map (·.1)).getD 0) (if r.isSome then c.field 0x1A 1 else 0) ((r.map (fun e => e.2 % 2 ^ 32)).getD 0)
  let s9 := chunkDone s8 p c
  if c.opcode = 0x0A ∨ c.opcode = 0x0B then commitAfter s9 p st else s9

/-- Does the open step hold back a commit (R274 items 1 and 4)? Not after a mismatch that ends the step (Table 9-6). -/
def chunkHolds (s : State) (p : Nat) (c : Cmd) (wgb : Bool) : Bool :=
  match (jobAt s p).bind (·.step) with
  | none => false
  | some o => o.mismatch.isNone && !chunkCommitReady o c wgb

/-- COMMAND_COMMIT (R409): WGB operations first; the rest once every spill record is accepted. -/
def execCommandCommit (q : BitVec 12) (pos : BitVec 32) (s : State) : Out :=
  let qn := q.toNat
  match queueAt s qn, cmdAt s qn pos.toNat with
  | some x, some c =>
    let p := x.partition
    let ops := c.cores.any (fun k => !(coreAt s k).wgbOps.isEmpty)
    let wgb := ops || c.cores.any (fun k => (coreAt s k).committing)
    if c.phase ≠ .finished ∨ commitHeld s x c ∨ chunkHolds s p c wgb ∨ (c.opcode = 0x11 ∧ !isOldest x c.pos) then .next s
    else if ops ∧ c.phaseTag = 4 then .next (endCmd s qn c.pos stInvalid)
    else
      let s1 := if ops then c.cores.foldl (fun t k => commitWgb t p qn c.pos k) s else s
      if spillsPending s1 c.cores then .next s1
      else
        let s2 := c.cores.foldl (fun t k => if (coreAt t k).committing then modCore t k (fun y => { y with committing := false }) else t) s1
        .next (commitRest s2 qn p ((cmdAt s2 qn c.pos).getD c))
  | _, _ => .next s

/-! ### Preemption (R413 to R415) -/

/-- AON cycles of a run's slice. -/
def sliceOf (y : Partition) (x : Queue) (c : Cmd) : Nat := y.sliceBase * x.weight * 2 ^ min c.kills 6

/-- Has a command of another context of the partition waited for one of the run's cores? -/
def coreWanted (s : State) (p q : Nat) (c : Cmd) : Bool :=
  !(cmdsWhere s (fun r y d => y.partition == p && r != q && d.phase == .admitted && isCoreCmd d.opcode && !d.begun &&
    coresMeet d.cores c.cores && decide (1 ≤ aonSince s d.admittedAt))).isEmpty

/-- SLICE_PREEMPTION (R413, R415): the run is killed as a whole and will run again from its inputs. -/
def execSlicePreemption (q : BitVec 12) (pos : BitVec 32) (s : State) : Out :=
  let qn := q.toNat
  match queueAt s qn, cmdAt s qn pos.toNat with
  | some x, some c =>
    match partAt s x.partition with
    | none => .next s
    | some y =>
      if c.phase = .admitted ∧ isCoreCmd c.opcode ∧ c.begun ∧ c.kills < 7 ∧ sliceOf y x c ≤ aonSince s c.sliceStart
          ∧ coreWanted s x.partition qn c then
        let used := runUsage s c
        let s1 := dropHolds (c.cores.foldl killCore s) qn c.pos
        let s2 := modCmd s1 qn c.pos (fun d => { d with
          kills := d.kills + 1, begun := false, engine := d.engine + used, killed := d.killed + used, admittedAt := aonNow s })
        .next (journalOutcome s2 x.partition 5 (natToBytes 2 qn ++ natToBytes 4 c.pos))
      else .next s
  | _, _ => .next s

end Sys2Proof.Machine
end

