-- ==== Sys2Proof/Machine/Coherence.lean ====
section
/-! DEFINITION. Coherence inside the package: home nodes, cache agents, transactions, holds, reservations, atomics (R187 to R214, R218). -/

namespace Sys2Proof.Machine

/-! ### Clock domains that an access needs (R38, R203) -/

/-- The hold domain of a cache agent (Table 6-1): CDFn for an edge cache, HUBF for the hub's system cache. (DEDUCED, log entry 58) -/
def holdDomain (agent : Nat) : Nat := if agent < 8 then 24 + agent else 6

/-- The agent class of a requester (Table 6-1): 0 EDGE, 1 HUB, 2 MB. -/
def agentClass (agent : Nat) : Nat := if agent < 8 then 0 else if agent < 14 then 1 else 2

/-- The partition that owns a coherent line (R190). -/
def linePartition (s : State) (lid : Nat) : Nat :=
  if lid < 2 ^ 42 then channelOwner s (t1Channel (lid * 64)) else natField (lid - 2 ^ 42) 38 4

/-! ### Transactions (R197) -/

/-- A request as it leaves its requester. -/
def newTxn (s : State) (agent lid : Nat) (req : CohReq) : CohTxn :=
  { agent := agent, lid := lid, req := req, partition := linePartition s lid, credit := false, snoops := [], data := none,
    dirty := false, mask := 0, wdata := 0, op := .add, operand := 0, cmp := 0, offset := 0, size := 8, grant := none,
    afterState := none, afterOwner := 0, afterSharers := 0, ready := false, acking := false }

/-- The sharers of an entry, as agents. -/
def sharerList (b : BitVec 9) : List Nat := (List.range 9).filter (fun a => b.getLsbD a)

/-- The bit of an agent. -/
def agentBit (a : Nat) : BitVec 9 := BitVec.ofNat 9 (2 ^ a)

/-- Snoops of one kind to agents. -/
def snoopAll (k : SnoopKind) (l : List Nat) : List Snoop :=
  l.map (fun a => { agent := a, kind := k, stage := .sent, afterHold := false, back := none })

/-- Directory set of a line (R193). -/
def dirSet (lid : Nat) : Nat := natField lid 0 18 ^^^ natField lid 18 18

/-- What a request that needs an entry finds in its set (R194, R195). -/
inductive WayAnswer where
  | way (w : Nat)
  | victim (lid : Nat)
  | busy
deriving DecidableEq, Repr

/-- A way of the partition's mask in the line's set: a free one, else the least recently allocated that is not busy. -/
def findWay (s : State) (h : HomeNode) (p lid : Nat) : WayAnswer :=
  let mask := ((partAt s p).map (·.sysWays)).getD 0
  let here := h.dir.filter (fun e => dirSet e.1 == dirSet lid)
  let ways := (List.range 16).filter (fun w => natBit mask w)
  match ways.find? (fun w => !here.any (fun e => e.2.way == w)) with
  | some w => .way w
  | none =>
    let idle := here.filter (fun e => ways.contains e.2.way && !e.2.busy)
    match idle with
    | [] => .busy
    | e :: rest => .victim (rest.foldl (fun b x => if x.2.stamp < b.2.stamp then x else b) e).1

/-- Is the memory side of a line ready to be read or written: its page settled, and the link up for host memory? -/
def lineReady (s : State) (lid : Nat) : Bool :=
  match placeOf s (lidAddr lid) with
  | .t1 _ => true
  | .host _ _ => linkUp s
  | _ => false

/-- A transaction replaced. -/
def setTxn (s : State) (m : Nat) (t : CohTxn) : State :=
  modHome s m (fun h => { h with txns := h.txns.map (fun x => if x.agent = t.agent ∧ x.lid = t.lid then t else x) })

/-- The recall of an entry as a transaction of the home node itself (R195): agent 31. -/
def recallTxn (s : State) (lid : Nat) (e : DirEntry) : CohTxn :=
  { newTxn s 31 lid .recall with
    partition := e.partition,
    snoops := snoopAll .invalidate ((if e.state = .owned then [e.owner] else []) ++ sharerList e.sharers) }

/-- The snoops, data and outcome of a request on its line (Table 6-5). `e`: the entry before, none for U. (DEDUCED, log entry 58) -/
def planTxn (s : State) (t : CohTxn) (e : Option DirEntry) : CohTxn × Option (BitVec 512) :=
  let mem := lineWord s t.lid
  let owner := e.bind (fun x => if x.state = .owned ∧ x.owner ≠ t.agent then some x.owner else none)
  let sh := (e.map (·.sharers)).getD 0
  let others := (sharerList sh).filter (· != t.agent)
  let readUnique : CohTxn :=
    { t with
      snoops := snoopAll .unique owner.toList ++ snoopAll .invalidate others,
      data := if owner.isNone ∧ others.isEmpty then some mem else none,
      grant := some .exclusive, afterState := some .owned, afterOwner := t.agent, afterSharers := 0 }
  let same : CohTxn := { t with afterState := e.map (·.state), afterOwner := (e.map (·.owner)).getD 0, afterSharers := sh }
  match t.req with
  | .rds =>
    match owner with
    | some a => ({ t with snoops := snoopAll .share [a], grant := some .shared, afterState := some .shared,
                          afterSharers := sh ||| agentBit t.agent }, none)
    | none =>
      if others.isEmpty then
        ({ t with data := some mem, grant := some .exclusive, afterState := some .owned, afterOwner := t.agent }, none)
      else
        ({ t with data := some mem, grant := some .shared, afterState := some .shared, afterSharers := sh ||| agentBit t.agent }, none)
  | .rdu => (readUnique, none)
  | .clnu =>
    match cachedLine s t.agent t.lid with
    | none => (readUnique, none)
    | some l =>
      let sn := snoopAll .invalidate (owner.toList ++ others)
      ({ t with snoops := sn, ready := sn.isEmpty, grant := some (if l.state.dirty then .modified else .exclusive),
                afterState := some .owned, afterOwner := t.agent, afterSharers := 0 }, none)
  | .wbd =>
    match e, cachedLine s t.agent t.lid with
    | some x, some l =>
      if x.state = .owned ∧ x.owner = t.agent then
        ({ t with ready := true, afterState := if sh = 0 then none else some .shared, afterSharers := sh }, some l.data)
      else ({ same with ready := true }, none)
    | _, _ => ({ same with ready := true }, none)
  | .evict =>
    let rest := sh &&& ~~~(agentBit t.agent)
    match e with
    | none => ({ t with ready := true }, none)
    | some x =>
      if x.state = .owned ∧ x.owner ≠ t.agent then ({ same with ready := true, afterSharers := rest }, none)
      else ({ t with ready := true, afterState := if rest = 0 then none else some .shared, afterSharers := rest }, none)
  | .rdonce =>
    match owner with
    | some a => ({ same with snoops := snoopAll .once [a] }, none)
    | none => ({ same with data := some mem }, none)
  | .recall => (t, none)
  | _ =>
    let all := (match e with
      | some x => if x.state = .owned then [x.owner] else []
      | none => [])
    ({ t with snoops := snoopAll .unique all ++ snoopAll .invalidate (sharerList sh) }, none)

/-! ### Atomics (R205 to R208) -/

/-- The operation of a code. -/
def atomicOfCode (c : Nat) : Option AtomicOp :=
  match c with
  | 0 => some .add
  | 1 => some .minS
  | 2 => some .maxS
  | 3 => some .minU
  | 4 => some .maxU
  | 5 => some .and
  | 6 => some .or
  | 7 => some .xor
  | 8 => some .swap
  | 9 => some .cas
  | 10 => some .faddFp32
  | 11 => some .faddBf16x2
  | _ => none

/-- The code of an operation. -/
def AtomicOp.code : AtomicOp → Nat
  | .add => 0
  | .minS => 1
  | .maxS => 2
  | .minU => 3
  | .maxU => 4
  | .and => 5
  | .or => 6
  | .xor => 7
  | .swap => 8
  | .cas => 9
  | .faddFp32 => 10
  | .faddBf16x2 => 11

/-- Does an operation round? -/
def AtomicOp.isFp : AtomicOp → Bool
  | .faddFp32 => true
  | .faddBf16x2 => true
  | _ => false

/-- One BF16 lane added, rounded once (R47). -/
def addBf16 (a b : Nat) : Nat := fmtBf16.rnd ((fmtBf16.decode a).add (fmtBf16.decode b))

/-- The new word (Table 6-7): `bits` 32 or 64. -/
def atomicResult (op : AtomicOp) (bits old x cmp : Nat) : Nat :=
  let lt (a b : Nat) : Bool := decide (natToInt bits a < natToInt bits b)
  match op with
  | .add => (old + x) % 2 ^ bits
  | .minS => if lt x old then x else old
  | .maxS => if lt old x then x else old
  | .minU => min old x
  | .maxU => max old x
  | .and => old &&& x
  | .or => old ||| x
  | .xor => old ^^^ x
  | .swap => x
  | .cas => if old = cmp then x else old
  | .faddFp32 => (addF32 (BitVec.ofNat 32 old) (BitVec.ofNat 32 x)).toNat
  | .faddBf16x2 => addBf16 (old % 65536) (x % 65536) + addBf16 (old / 65536) (x / 65536) * 65536

/-- An atomic applied to memory once every cached copy is back: counted, journaled (R207, R208); the old word. (DEDUCED, log entry 60) -/
def atomicApply (s : State) (agent p addr size : Nat) (op : AtomicOp) (x cmp : Nat) (far : Bool) : Nat × State :=
  let m := homeOf addr
  let old := bytesToNat (cohRead s addr size)
  let s1 := cohWrite s addr (natToBytes size (atomicResult op (8 * size) old (x % 2 ^ (8 * size)) (cmp % 2 ^ (8 * size))))
  let serial := ((s.homes[m]?).map (fun h => h.homeAtomics.toNat + h.farAtomics.toNat)).getD 0
  let s2 := modHome s1 m (fun h => { h with
    homeAtomics := if far then h.homeAtomics else h.homeAtomics + 1,
    farAtomics := if far then h.farAtomics + 1 else h.farAtomics,
    fpAtomics := if op.isFp then h.fpAtomics + 1 else h.fpAtomics })
  let body := if op.isFp then natToBytes 8 agent ++ natToBytes 8 addr
    else natToBytes 1 m ++ natToBytes 1 op.code ++ natToBytes 6 size ++ natToBytes 8 addr ++ natToBytes 8 x ++ natToBytes 8 cmp
      ++ natToBytes 8 old ++ natToBytes 8 serial
  let s3 := journalWrite s2 p 0x08 body
  (old, if op.isFp then
      modPart s3 p (fun y => if y.journal.enable = 0 then y
        else { y with journal := { y.journal with fpStep := BitVec.ofNat 64 (logStep s3 p) } })
    else s3)

/-! ### Completion of a transaction at its home node -/

/-- A line with bytes replaced under byte enables. -/
def mergeLine (old new : BitVec 512) (mask : BitVec 64) : BitVec 512 :=
  BitVec.ofNat 512 (bytesToNat (((natToBytes 64 old.toNat).zip (natToBytes 64 new.toNat)).zipIdx.map
    (fun e => if mask.getLsbD e.2 then e.1.2 else e.1.1)))

/-- The runs of enabled bytes written one by one. -/
def writeMasked (s : State) (lid : Nat) (d : BitVec 512) (mask : BitVec 64) : State :=
  let new := mergeLine (lineWord s lid) d mask
  let s1 := dropReservations (putLine s lid new) (lidAddr lid) 64
  if mask = BitVec.allOnes 64 then clearPoison s1 (lidAddr lid) 64 else s1

/-- The home node has every snoop response: what remains to be done before Data or Comp (Table 6-5). A recall ends here. -/
def finishSnoops (s : State) (m : Nat) (t : CohTxn) : State :=
  match t.req with
  | .wru => setTxn (writeMasked s t.lid t.wdata t.mask) m { t with ready := true }
  | .atmh =>
    let (old, s1) := atomicApply s t.agent t.partition (lidAddr t.lid + t.offset) t.size t.op t.operand t.cmp false
    setTxn s1 m { t with data := some (BitVec.ofNat 512 old) }
  | .atmf =>
    let far := decide (t.lid < 2 ^ 42)
    let (old, s1) := atomicApply s t.agent t.partition (lidAddr t.lid + t.offset) t.size t.op t.operand t.cmp far
    setTxn s1 m { t with data := some (BitVec.ofNat 512 old) }
  | .recall =>
    modHome s m (fun h => { h with
      txns := h.txns.filter (fun x => !(x.agent == t.agent && x.lid == t.lid)), dir := mapErase h.dir t.lid,
      dirEvictions := h.dirEvictions + 1 })
  | .clnu => setTxn s m (if t.grant = some .exclusive ∧ (cachedLine s t.agent t.lid).isNone ∧ t.data.isNone
      then { t with data := some (lineWord s t.lid) } else { t with ready := true })
  | .wbd => setTxn s m { t with ready := true }
  | .evict => setTxn s m { t with ready := true }
  | _ => setTxn s m (if t.data.isNone then { t with data := some (lineWord s t.lid) } else t)

/-- A transaction begins on an idle line; a request that needs a directory way takes one, or starts the eviction of a victim
and waits. -/
def startTxn (s : State) (m : Nat) (t : CohTxn) : Option State :=
  match s.homes[m]? with
  | none => none
  | some h =>
    if h.txns.any (fun x => x.lid == t.lid) ∨ !lineReady s t.lid then none
    else
      let e := mapGet h.dir t.lid
      let needs : Bool := e.isNone && (t.req == .rds || t.req == .rdu || t.req == .clnu)
      let run (s1 : State) : State :=
        let (t1, wb) := planTxn s1 t e
        let s2 := match wb with
          | some d => putLine s1 t.lid d
          | none => s1
        let s3 := modHome s2 m (fun g => { g with
          txns := g.txns ++ [t1], waiting := g.waiting.erase t,
          dir := mapModify g.dir t.lid (fun x => { x with busy := true }) })
        if t1.snoops.isEmpty then finishSnoops s3 m t1 else s3
      if needs then
        match findWay s h t.partition t.lid with
        | .way w =>
          let entry (stamp : Nat) : DirEntry :=
            { lid := t.lid, state := .shared, owner := 0, sharers := 0, partition := t.partition, busy := true, way := w,
              stamp := stamp }
          some (run (modHome s m (fun g => { g with
            allocs := g.allocs + 1, dir := mapSet g.dir t.lid (entry g.allocs) })))
        | .victim v =>
          match mapGet h.dir v with
          | none => none
          | some x =>
            if lineReady s v then
              let r := recallTxn s v x
              some (modHome s m (fun g => { g with txns := g.txns ++ [r], dir := mapModify g.dir v (fun y => { y with busy := true }) }))
            else none
        | .busy => none
      else some (run s)

/-- The requests that a home node holds back are tried in order; of one line only the first. -/
def kickHome : Nat → State → Nat → State
  | 0, s, _ => s
  | fuel + 1, s, m =>
    match s.homes[m]? with
    | none => s
    | some h =>
      let first (t : CohTxn) : Bool := (h.waiting.takeWhile (fun x => x != t)).all (fun x => x.lid != t.lid)
      match (h.waiting.filter first).findSome? (fun t => startTxn s m t) with
      | some s1 => kickHome fuel s1 m
      | none => s

/-- A home node after any of its events. -/
def settleHome (s : State) (m : Nat) : State := kickHome (2 * (((s.homes[m]?).map (fun h => h.waiting.length)).getD 0) + 2) s m

/-- Unreserved tracker entries in use. -/
def trackerUsed (h : HomeNode) : Nat := ((h.txns ++ h.waiting).filter (fun t => !t.credit && t.req != .recall)).length

/-- A request accepted (R198). (DEDUCED, log entry 58) -/
def acceptTxn (s : State) (m : Nat) (t : CohTxn) : State :=
  settleHome (modHome s m (fun h => { h with accepted := h.accepted + 1, waiting := h.waiting ++ [t] })) m

/-- A request arrives at its home node: accepted, or answered with Retry and a reserved entry (R202). A second one of a
requester that holds a reservation there waits at the requester. -/
def arriveTxn (s : State) (t : CohTxn) : State :=
  let m := homeOf (lidAddr t.lid)
  match s.homes[m]? with
  | none => s
  | some h =>
    if trackerUsed h < 488 then acceptTxn s m t
    else if h.reservations.any (fun r => r.txn.agent == t.agent) then s
    else modHome s m (fun g => { g with
      retries := g.retries + 1,
      reservations := g.reservations ++ [{ txn := t, since := domCycles s (32 + m) }] })

/-- Has an agent a request outstanding on a line (R198)? -/
def outstanding (s : State) (agent lid : Nat) : Bool :=
  match s.homes[homeOf (lidAddr lid)]? with
  | none => false
  | some h => (h.txns ++ h.waiting ++ h.reservations.map (·.txn)).any (fun t => t.agent == agent && t.lid == lid)

/-- May a request name this line at all: coherent, mapped for the line's partition (R35, R190)? -/
def lineNamed (s : State) (addr : Nat) : Bool :=
  isCoherent addr && reachCoherent s (linePartition s (lidOf addr)) (addr / 64 * 64) 64

/-- A request of a cache agent, where the line's state in it satisfies a test. -/
def cacheRequest (s : State) (agent addr : Nat) (req : CohReq) (test : Option LineState → Bool) : State :=
  let lid := lidOf addr
  if agent ≤ 8 ∧ lineNamed s addr ∧ !outstanding s agent lid ∧ test ((cachedLine s agent lid).map (·.state)) then
    arriveTxn s (newTxn s agent lid req)
  else s

/-- A request of any requester, uncached. -/
def plainRequest (s : State) (agent addr : Nat) (t : CohTxn) : State :=
  if agent ≤ 21 ∧ lineNamed s addr ∧ !outstanding s agent t.lid then arriveTxn s t else s

/-! ### Snoops at a cache agent (R199, R201, R203) -/

/-- A snoop answered from the line, or without data where the agent no longer has it. (DEDUCED, log entry 58) -/
def answerSnoop (s : State) (m : Nat) (t : CohTxn) (x : Snoop) (afterHold : Bool) : State :=
  let done (back : Option (BitVec 512)) (u : CohTxn) : CohTxn :=
    { u with snoops := u.snoops.map (fun y => if y.agent = x.agent then { y with stage := .answered, afterHold := afterHold, back := back } else y) }
  match cachedLine s x.agent t.lid with
  | none => setTxn s m (done none t)
  | some l =>
    let dirtyData := if l.state.dirty then some l.data else none
    match x.kind with
    | .share =>
      let u := { t with data := some l.data }
      if l.writeBack then
        setTxn (dropLine s x.agent t.lid) m (done dirtyData u)
      else if l.state.dirty then
        setTxn (setLine s x.agent t.lid { l with state := .owned, held := false }) m
          (done none { u with afterState := some .owned, afterOwner := x.agent })
      else
        setTxn (setLine s x.agent t.lid { l with state := .shared, held := false }) m
          (done none { u with afterSharers := u.afterSharers ||| agentBit x.agent })
    | .unique =>
      if t.req = .rdu ∨ t.req = .clnu then
        setTxn (dropLine s x.agent t.lid) m
          (done none { t with data := some l.data, dirty := l.state.dirty,
                              grant := some (if l.state.dirty then .modified else .exclusive) })
      else setTxn (dropLine s x.agent t.lid) m (done dirtyData t)
    | .invalidate => setTxn (dropLine s x.agent t.lid) m (done dirtyData t)
    | .once => setTxn s m (done none { t with data := some l.data })

/-- The transaction of a line that has a snoop of a kind and stage for an agent. -/
def snoopAt (s : State) (agent lid : Nat) (test : Snoop → Bool) : Option (CohTxn × Snoop) :=
  match s.homes[homeOf (lidAddr lid)]? with
  | none => none
  | some h =>
    (h.txns.find? (fun t => t.lid == lid && t.snoops.any (fun x => x.agent == agent && test x))).bind (fun t =>
      (t.snoops.find? (fun x => x.agent == agent && test x)).map (fun x => (t, x)))

/-- A snoop arrives at a cache agent: its domain is started, or it waits for a hold, or it is answered. -/
def snoopArrives (s : State) (agent addr : Nat) (kind : SnoopKind) : State :=
  let lid := lidOf addr
  let m := homeOf (lidAddr lid)
  match snoopAt s agent lid (fun x => x.kind == kind && x.stage == .sent) with
  | none => s
  | some (t, x) =>
    if !domainRuns s (holdDomain agent) then wakeDomain s (holdDomain agent)
    else if kind ≠ .once ∧ ((cachedLine s agent lid).map (·.held)).getD false then
      setTxn s m { t with snoops := t.snoops.map (fun y => if y.agent = agent then { y with stage := .waiting } else y) }
    else answerSnoop s m t x false

/-- A hold ends: the snoops that wait for it are answered. -/
def releaseHold (s : State) (agent lid : Nat) : State :=
  match cachedLine s agent lid with
  | none => s
  | some l =>
    let s1 := setLine s agent lid { l with held := false }
    match snoopAt s1 agent lid (fun x => x.stage == .waiting) with
    | none => s1
    | some (t, x) => answerSnoop s1 (homeOf (lidAddr lid)) t x true

/-- A holder gives a line up: the data stays in its buffer until the home node acknowledges (R191, R199). -/
def giveUp (s : State) (agent addr : Nat) (req : CohReq) (test : LineState → Bool) : State :=
  let lid := lidOf addr
  match cachedLine s agent lid with
  | none => s
  | some l =>
    if agent ≤ 8 ∧ test l.state ∧ !l.writeBack ∧ !outstanding s agent lid then
      releaseHold (arriveTxn (setLine s agent lid { l with writeBack := true }) (newTxn s agent lid req)) agent lid
    else s

/-! ### The commands: requests -/

/-- RDS (Table 6-5): a cache agent that does not hold the line. -/
def execRds (agent : BitVec 5) (addr : BitVec 56) (s : State) : Out :=
  .next (cacheRequest s agent.toNat addr.toNat .rds (fun l => l.isNone))

/-- RDU. -/
def execRdu (agent : BitVec 5) (addr : BitVec 56) (s : State) : Out :=
  .next (cacheRequest s agent.toNat addr.toNat .rdu (fun l => l.isNone))

/-- CLNU: a holder in S or O. -/
def execClnu (agent : BitVec 5) (addr : BitVec 56) (s : State) : Out :=
  .next (cacheRequest s agent.toNat addr.toNat .clnu (fun l => decide (l = some .shared ∨ l = some .owned)))

/-- WBD: an owner in M or O. -/
def execWbd (agent : BitVec 5) (addr : BitVec 56) (s : State) : Out :=
  .next (giveUp s agent.toNat addr.toNat .wbd (fun l => l.dirty))

/-- EVICT: a holder in S or E. -/
def execEvict (agent : BitVec 5) (addr : BitVec 56) (s : State) : Out :=
  .next (giveUp s agent.toNat addr.toNat .evict (fun l => !l.dirty))

/-- RDONCE. -/
def execRdonce (agent : BitVec 5) (addr : BitVec 56) (s : State) : Out :=
  .next (plainRequest s agent.toNat addr.toNat (newTxn s agent.toNat (lidOf addr.toNat) .rdonce))

/-- WRU: bytes of the line under byte enables. -/
def execWru (agent : BitVec 5) (addr : BitVec 56) (mask : BitVec 64) (data : BitVec 512) (s : State) : Out :=
  .next (plainRequest s agent.toNat addr.toNat
    { newTxn s agent.toNat (lidOf addr.toNat) .wru with mask := mask, wdata := data })

/-- An atomic request (R206): aligned, of an operation and size of Table 6-7. -/
def atomicRequest (s : State) (agent addr op : Nat) (wide : Bool) (operand cmp : Nat) (req : CohReq) : State :=
  let size := if wide then 8 else 4
  match atomicOfCode op with
  | none => s
  | some o =>
    if addr % size ≠ 0 ∨ (o.isFp ∧ wide) then s
    else plainRequest s agent addr
      { newTxn s agent (lidOf addr) req with op := o, operand := operand, cmp := cmp, offset := addr % 64, size := size }

/-- ATMH (R205). -/
def execAtmh (agent : BitVec 5) (addr : BitVec 56) (op : BitVec 4) (wide : Bool) (operand cmp : BitVec 64) (s : State) : Out :=
  .next (atomicRequest s agent.toNat addr.toNat op.toNat wide operand.toNat cmp.toNat .atmh)

/-- ATMF (R205): to the host-tier aperture it runs as a home atomic. -/
def execAtmf (agent : BitVec 5) (addr : BitVec 56) (op : BitVec 4) (wide : Bool) (operand cmp : BitVec 64) (s : State) : Out :=
  .next (atomicRequest s agent.toNat addr.toNat op.toNat wide operand.toNat cmp.toNat .atmf)

/-! ### The commands: snoops and answers -/

/-- SNPS arrives. -/
def execSnps (agent : BitVec 5) (addr : BitVec 56) (s : State) : Out := .next (snoopArrives s agent.toNat addr.toNat .share)

/-- SNPU arrives. -/
def execSnpu (agent : BitVec 5) (addr : BitVec 56) (s : State) : Out := .next (snoopArrives s agent.toNat addr.toNat .unique)

/-- SNPINV arrives. -/
def execSnpinv (agent : BitVec 5) (addr : BitVec 56) (s : State) : Out := .next (snoopArrives s agent.toNat addr.toNat .invalidate)

/-- SNPONCE arrives. -/
def execSnponce (agent : BitVec 5) (addr : BitVec 56) (s : State) : Out := .next (snoopArrives s agent.toNat addr.toNat .once)

/-- HOLD_END (R201): 64 cycles of the hold domain have passed since the line was installed, or the domain has left RUN. -/
def execHoldEnd (agent : BitVec 5) (addr : BitVec 56) (s : State) : Out :=
  let a := agent.toNat
  let lid := lidOf addr.toNat
  .next (match cachedLine s a lid with
    | none => s
    | some l =>
      if l.held ∧ (64 ≤ (domCycles s (holdDomain a) - l.since).toNat ∨ !domainRuns s (holdDomain a)) then releaseHold s a lid else s)

/-- SNPRESP: the response reaches the home node; dirty data goes to memory; the last one lets the transaction go on. -/
def execSnpresp (agent : BitVec 5) (addr : BitVec 56) (s : State) : Out :=
  let a := agent.toNat
  let lid := lidOf addr.toNat
  let m := homeOf (lidAddr lid)
  .next (match snoopAt s a lid (fun x => x.stage == .answered) with
    | none => s
    | some (t, x) =>
      let s1 := match x.back with
        | some d => putLine s lid d
        | none => s
      let u := { t with snoops := t.snoops.filter (fun y => y.agent != a) }
      let s2 := modHome (setTxn s1 m u) m (fun h => { h with snoopHeld := if x.afterHold then h.snoopHeld + 1 else h.snoopHeld })
      if u.snoops.isEmpty then settleHome (finishSnoops s2 m u) m else s2)

/-- A transaction of an agent on a line. -/
def txnOf (s : State) (agent lid : Nat) : Option CohTxn :=
  (s.homes[homeOf (lidAddr lid)]?).bind (fun h => h.txns.find? (fun t => t.agent == agent && t.lid == lid))

/-- DATA: a cache agent installs the line, held for 64 cycles in E or M (R201); the requester answers CompAck. -/
def execData (agent : BitVec 5) (addr : BitVec 56) (s : State) : Out :=
  let a := agent.toNat
  let lid := lidOf addr.toNat
  let m := homeOf (lidAddr lid)
  .next (match txnOf s a lid with
    | none => s
    | some t =>
      match t.data with
      | none => s
      | some d =>
        if t.acking then s
        else
          let caches : Bool := t.req == .rds || t.req == .rdu || t.req == .clnu
          let s1 := match (if caches then t.grant else none) with
            | some g => setLine s a lid { state := g, data := d, held := decide (g = .exclusive ∨ g = .modified),
                                          since := domCycles s (holdDomain a), writeBack := false }
            | none => s
          setTxn s1 m { t with acking := true })

/-- RETRY (R202): the requester resends, and the request takes its reserved entry. -/
def execRetry (agent : BitVec 5) (addr : BitVec 56) (s : State) : Out :=
  let a := agent.toNat
  let lid := lidOf addr.toNat
  let m := homeOf (lidAddr lid)
  .next (match (s.homes[m]?).bind (fun h => h.reservations.find? (fun r => r.txn.agent == a && r.txn.lid == lid)) with
    | none => s
    | some r =>
      acceptTxn (modHome s m (fun h => { h with reservations := h.reservations.filter (fun y => y.txn.agent != a) })) m
        { r.txn with credit := true })

/-- COMP: the requester's line takes its new state, or its buffer is free (R199). -/
def execComp (agent : BitVec 5) (addr : BitVec 56) (s : State) : Out :=
  let a := agent.toNat
  let lid := lidOf addr.toNat
  let m := homeOf (lidAddr lid)
  .next (match txnOf s a lid with
    | none => s
    | some t =>
      if !t.ready ∨ t.acking ∨ t.data.isSome then s
      else
        let s1 :=
          match t.req, cachedLine s a lid with
          | .clnu, some l => setLine s a lid { l with state := t.grant.getD .exclusive, held := true, since := domCycles s (holdDomain a) }
          | .wbd, some _ => dropLine s a lid
          | .evict, some _ => dropLine s a lid
          | _, _ => s
        setTxn s1 m { t with acking := true })

/-- COMPACK: the directory takes its new entry, and the next request on the line starts. -/
def execCompack (agent : BitVec 5) (addr : BitVec 56) (s : State) : Out :=
  let a := agent.toNat
  let lid := lidOf addr.toNat
  let m := homeOf (lidAddr lid)
  .next (match txnOf s a lid with
    | none => s
    | some t =>
      if !t.acking ∨ !t.snoops.isEmpty then s
      else
        let gone : Bool := (t.req == .rds || t.req == .rdu || t.req == .clnu) && (cachedLine s a lid).isNone
        let s1 := modHome s m (fun h =>
          let old := mapGet h.dir lid
          let dir := match (if gone then none else t.afterState) with
            | none => mapErase h.dir lid
            | some st =>
              mapSet h.dir lid
                { lid := lid, state := st, owner := if st = .owned then t.afterOwner else 0, sharers := t.afterSharers,
                  partition := t.partition, busy := false, way := (old.map (·.way)).getD 0, stamp := (old.map (·.stamp)).getD h.allocs }
          { h with dir := dir, txns := h.txns.filter (fun x => !(x.agent == a && x.lid == lid)) })
        settleHome s1 m)

/-- RESERVATION_LAPSE (R202): unused after 4,096 MEM cycles; the requester starts again from its first attempt. -/
def execReservationLapse (home : BitVec 2) (agent : BitVec 5) (s : State) : Out :=
  let m := home.toNat
  let a := agent.toNat
  .next (match (s.homes[m]?).bind (fun h => h.reservations.find? (fun r => r.txn.agent == a)) with
    | none => s
    | some r =>
      if 4096 ≤ (domCycles s (32 + m) - r.since).toNat then
        arriveTxn (modHome s m (fun h => { h with
          reservations := h.reservations.filter (fun y => y.txn.agent != a), resvLapsed := h.resvLapsed + 1 })) r.txn
      else s)

/-! ### Floating-point atomics of the server cores (R218) -/

/-- Register x0 reads zero. -/
def xReg (h : Hart) (i : Nat) : Word64 := if i = 0 then 0 else (h.x[i]?).getD 0

/-- Register x0 is not written. -/
def setXReg (s : State) (hart i : Nat) (v : Word64) : State :=
  modHart s hart (fun h => if i = 0 then h else { h with x := h.x.set! i v })

/-- A 32-bit value sign-extended. -/
def sextWord (v : Nat) : Word64 := (BitVec.ofNat 32 v).signExtend 64

/-- An lxs.amofadd: misaligned, foreign, unmapped or not main memory is a store/AMO access fault; an IO page in the LPDDR5X
tier takes it as AtmF, any other page as AtmH (R205, R206, R218). The tiers may make it wait, and a poisoned word is an access fault
(R209, R461). (DEDUCED, log entry 91) -/
def amofadd (s : State) (hart attr rd rs1 rs2 : Nat) (op : AtomicOp) : State :=
  match s.harts[hart]? with
  | none => s
  | some h =>
    if !h.released then s
    else
      let p := hartOwner s hart
      let a := (xReg h rs1).toNat % 2 ^ 56
      if a % 4 ≠ 0 ∨ !isCoherent a then hartFault s hart 7 a
      else if !reachCoherent s p a 4 then hartFault (failAccess s p a) hart 7 a
      else if !lineReady s (lidOf a) then s
      else
        match tierReady s p none true true [(a, 4)] with
        | .held t => t
        | .bad t => hartFault t hart 7 a
        | .ready t =>
          if rangePoisoned t a 4 then hartFault (logPoison t p 0xFFFF a) hart 7 a
          else
            let far := attr = 2 ∧ a < 0x20000000000
            let (old, s1) := atomicApply t (64 + hart) p a 4 op ((xReg h rs2).toNat % 2 ^ 32) 0 far
            setXReg (restartTouched (markExternal s1 p a 4) p a 4) hart rd (sextWord old)

/-- LXS_AMOFADD_S. -/
def execLxsAmofaddS (hart : BitVec 6) (attr : BitVec 2) (rd rs1 rs2 : BitVec 5) (s : State) : Out :=
  .next (amofadd s hart.toNat attr.toNat rd.toNat rs1.toNat rs2.toNat .faddFp32)

/-- LXS_AMOFADD_BF16X2. -/
def execLxsAmofaddBf16x2 (hart : BitVec 6) (attr : BitVec 2) (rd rs1 rs2 : BitVec 5) (s : State) : Out :=
  .next (amofadd s hart.toNat attr.toNat rd.toNat rs1.toNat rs2.toNat .faddBf16x2)

end Sys2Proof.Machine
end

