-- ==== Sys2Proof/Machine/Mailbox.lean ====
section
/-! DEFINITION. Mailboxes: framing, serving, answers; and the requests GET_INFO, GET_CAPS, STEP_POLICY, TELEMETRY_CONFIG (R394 to R401, Table 13-3). -/

namespace Sys2Proof.Machine

/-- Statuses of the mailbox. -/
abbrev mbxPf0Only (cmd : Nat) : Bool :=
  cmd == 0x03 || cmd == 0x04 || cmd == 0x15 || cmd == 0x18 || cmd == 0x19 || cmd == 0x1B || cmd == 0x1C || cmd == 0x1D

/-- The commands of kind L (Table 13-3). -/
def mbxLong (cmd : Nat) : Bool :=
  cmd == 0x04 || cmd == 0x08 || cmd == 0x0E || cmd == 0x0F || cmd == 0x14 || cmd == 0x17 || cmd == 0x19 || cmd == 0x1C || cmd == 0x1D

/-- The commands of version 1 (R399). -/
def mbxVersion1 (cmd : Nat) : Bool :=
  [0x01, 0x02, 0x03, 0x05, 0x06, 0x07, 0x08, 0x09, 0x0A, 0x0B, 0x0D, 0x12, 0x15, 0x17, 0x1F].contains cmd

/-- The requests that Decaf mode still serves (R468). -/
def mbxDecaf (cmd : Nat) : Bool := [0x01, 0x02, 0x09, 0x1F, 0x1E, 0x1A, 0x12].contains cmd

/-- The requests that ROM recovery serves: GET_INFO, ERROR_LOG_READ, FW_STAGE of components 0 and 1 (R481). -/
def mbxRecovery (r : MbxReq) : Bool := r.cmd == 0x01 || r.cmd == 0x1F || (r.cmd == 0x1C && decide (fieldAt r.payload 0 1 < 2))

/-- The requests that a disabled function still serves (R416). -/
def mbxDisabled (cmd : Nat) : Bool := cmd == 0x01 || cmd == 0x02 || cmd == 0x17

/-! ### Rings (R394, R235, Table 13-1) -/

/-- The base of a partition's local mailbox area; 0 where it is disabled. -/
def lmbBase (s : State) (p : Nat) : Nat :=
  ((partAt s p).map (fun x => natField x.server.lmbBase.toNat 12 44 * 4096)).getD 0

/-- One of a function's two mailboxes. -/
def mboxOf (f : Func) (isLocal : Bool) : Mailbox := if isLocal then f.loc else f.host

/-- A mailbox of a function changed. -/
def modMbox (s : State) (fn : Nat) (isLocal : Bool) (g : Mailbox → Mailbox) : State :=
  modFunc s fn (fun f => if isLocal then { f with loc := g f.loc } else { f with host := g f.host })

/-- Request entry n of a mailbox: 256 bytes. -/
def reqEntry (s : State) (fn : Nat) (f : Func) (isLocal : Bool) (n : Nat) : List Byte :=
  if isLocal then
    let a := lmbBase s fn + n % 64 * 256
    if rangePoisoned s a 256 then zeros 256 else cohRead s a 256
  else sliceBytes (mapGetD f.reqRing (n % 64) []) 0 256

/-- The responses that the requester has consumed: of the local mailbox, as server software has written it (R398). -/
def consumed (s : State) (fn : Nat) (f : Func) (isLocal : Bool) : Word32 :=
  if !isLocal then f.host.rspHead
  else
    match cp32At (cohRead s (lmbBase s fn + 0x8000) 8) 0 with
    | none => f.loc.rspHead
    | some v =>
      let h : Word32 := BitVec.ofNat 32 v
      if (h - f.loc.rspHead).toNat ≤ (f.loc.rspTail - f.loc.rspHead).toNat then h else f.loc.rspHead

/-- Has the requester consumed the entry that the next response needs (R398)? -/
def rspRoom (s : State) (fn : Nat) (f : Func) (isLocal : Bool) : Bool :=
  decide (((mboxOf f isLocal).rspTail - consumed s fn f isLocal).toNat < 64)

/-- The 256 bytes of a mailbox entry. -/
def mbxEntry (hdr cmd tag : Nat) (payload : List Byte) : List Byte :=
  cp32Bytes hdr ++ natToBytes 2 cmd ++ natToBytes 2 payload.length ++ natToBytes 4 tag ++ sliceBytes payload 0 240

/-- The message of a response: entry 0 of the function; for the local mailbox an MSI, whose hart and identity no rule gives. -/
def rspMessage (s : State) (fn : Nat) (isLocal : Bool) : State :=
  if !isLocal then sendMsix s fn 0
  else msiSomewhere s fn

/-- A response written (R398): its bytes, then the response tail, then the message. -/
def writeResponse (s : State) (fn : Nat) (isLocal : Bool) (pos cmd tag status : Nat) (payload : List Byte) : State :=
  match funcAt s fn with
  | none => s
  | some f =>
    let m := mboxOf f isLocal
    let e := mbxEntry (pos % 65536 + status * 65536) cmd tag payload
    let k := m.rspTail.toNat % 64
    let s1 :=
      if isLocal then
        let a := lmbBase s fn
        cohWrite (cohWrite s (a + 0x4000 + k * 256) e) (a + 0x8008) (cp32Bytes (m.rspTail + 1).toNat)
      else modFunc s fn (fun g => { g with rspRing := mapSet g.rspRing k e })
    let s2 := modMbox s1 fn isLocal (fun y => { y with rspTail := y.rspTail + 1, rspHead := consumed s fn f isLocal })
    rspMessage s2 fn isLocal

/-- Requests that configure the partition: journaled and kept for snapshots (R473). (DEDUCED, log entry 57) -/
def mbxConfig (cmd : Nat) : Bool :=
  [0x05, 0x06, 0x07, 0x08, 0x09, 0x0A, 0x0B, 0x0C, 0x0D, 0x0E, 0x0F, 0x10, 0x11, 0x12, 0x16].contains cmd

/-- Is a configuration record replaced by a new JOB_CONFIG? (DEDUCED, log entry 57) -/
def mbxReplaced (b : List Byte) : Bool := [0x0A, 0x0B, 0x0C, 0x0D, 0x0E, 0x0F, 0x10, 0x11].contains (fieldAt b 8 2)

/-- The body of a MAILBOX record: the entry as served, then the response status; 0xFFFF while a re-layout runs. -/
def mbxBody (f : Func) (r : MbxReq) (status : Nat) : List Byte :=
  mbxEntry (r.pos % 65536 + f.version * 65536) r.cmd r.tag r.payload ++ natToBytes 2 status

/-- The journal's MAILBOX record of a request (Table 16-8), and the requests still in force. -/
def journalMbx (s : State) (fn : Nat) (f : Func) (r : MbxReq) (status : Nat) : State :=
  let b := mbxBody f r status
  let s1 := journalWrite s fn 0x01 b
  if mbxConfig r.cmd ∧ (status = stOk ∨ status = 0xFFFF) then
    modPart s1 fn (fun x =>
      let keep := if r.cmd = 0x0A then x.journal.config.filter (fun y => !mbxReplaced y) else x.journal.config
      { x with journal := { x.journal with config := keep ++ [b] } })
  else s1

/-- RELAYOUT_START and RELAYOUT_RESUME are journaled when they are accepted: a replay needs their effect there. -/
def mbxAtStart (cmd : Nat) : Bool := cmd == 0x0E || cmd == 0x0F

/-- A request answered: journaled, its response written, out of service. -/
def answer (s : State) (fn : Nat) (r : MbxReq) (status : Nat) (payload : List Byte) : State :=
  match funcAt s fn with
  | none => s
  | some f =>
    let s0 :=
      if mbxAtStart r.cmd && f.long.contains r then
        modPart s fn (fun x => { x with journal := { x.journal with
          config := x.journal.config.map (fun y => if y = mbxBody f r 0xFFFF then mbxBody f r status else y) } })
      else journalMbx s fn f r status
    let s1 := writeResponse s0 fn r.isLocal r.pos r.cmd r.tag status payload
    modFunc s1 fn (fun g => { g with
      inService := if g.inService = some r then none else g.inService, long := g.long.filter (· != r) })

/-! ### What a request's row does -/

/-- What the MP does with a request: an answer, an accepted long request, or a wait in the tiers or for a bound. -/
inductive MbxAnswer where
  | done (s : State) (status : Nat) (payload : List Byte)
  | long (s : State)
  | wait (s : State)

/-- The answer INVALID without effect. -/
def mbxInvalid (s : State) : MbxAnswer := .done s stInvalid []

/-- The objects that a request names (R397): kind and number. -/
def mbxObjects (r : MbxReq) : List (Nat × Nat) :=
  let b := r.payload
  match r.cmd with
  | 0x03 => [(1, fieldAt b 0 1)]
  | 0x04 => [(1, fieldAt b 0 1)]
  | 0x08 => [(2 + fieldAt b 0 1, fieldAt b 2 2)]
  | 0x09 => if fieldAt b 0x0C 1 = 3 then [(4, fieldAt b 0x10 2)] else []
  | 0x0E => [(20, fieldAt b 0 2)]
  | 0x0F => [(20, fieldAt b 0 2)]
  | 0x10 => [(20, fieldAt b 0 2)]
  | 0x17 => [(if fieldAt b 0 1 = 0 then 1 else 30 + fieldAt b 0 1, fieldAt b 2 2)]
  | 0x19 => [(40, 0)]
  | 0x1C => [(41, fieldAt b 0 1)]
  | 0x1D => [(41, fieldAt b 0 1)]
  | _ => []

/-- Does a request meet one of the two BUSY cases of R397? (DESIGN CHOICE, log entry 56) -/
def mbxBusy (f : Func) (r : MbxReq) : Bool :=
  (mbxLong r.cmd && decide (8 ≤ f.long.length)) ||
  (r.cmd != 0x01 && r.cmd != 0x10 && f.long.any (fun l => (mbxObjects l).any (fun o => (mbxObjects r).contains o)))

/-- The request in service of a function, of a command and form, run once its response has room. (DESIGN CHOICE, log entry 56) -/
def runMbx (s : State) (fn cmd : Nat) (form : List Byte → Bool) (f : Func → MbxReq → MbxAnswer) : State :=
  match funcAt s fn with
  | none => s
  | some g =>
    match g.inService with
    | none => s
    | some r =>
      if r.cmd ≠ cmd ∨ !form r.payload ∨ !rspRoom s fn g r.isLocal then s
      else if s.sec.romRecovery ∧ !mbxRecovery r then answer s fn r stAbortedDecaf []
      else if s.fault.decaf.isSome ∧ !mbxDecaf cmd then answer s fn r stAbortedDecaf []
      else if g.disabled ∧ !mbxDisabled cmd then answer s fn r stAbortedDisabled []
      else if mbxPf0Only cmd ∧ fn ≠ 0 then answer s fn r stNotPermitted []
      else if mbxBusy g r then answer s fn r stBusy []
      else
        match f g r with
        | .done t st p => answer t fn r st p
        | .wait t => t
        | .long t =>
          let t1 := if mbxAtStart cmd then journalMbx t fn g r 0xFFFF else t
          modFunc t1 fn (fun y => { y with inService := none, long := y.long ++ [r] })

/-- Any form. -/
def anyForm : List Byte → Bool := fun _ => true

/-! ### Memory named by a request (R401, R472) -/

/-- A read of memory that a request names, for the partition: its bytes are journaled as input. (DEDUCED, log entry 51) -/
def mpRead (s : State) (p a n : Nat) (f : State → List Byte → MbxAnswer) : MbxAnswer :=
  if n = 0 then f s []
  else if !reachCoherent s p a n then .done (failAccess s p a) stAddressFault []
  else
    match tierReady s p none true true [(a, n)] with
    | .held t => .wait t
    | .bad t => .done t stAddressFault []
    | .ready t =>
      if rangePoisoned t a n then .done (logPoison t p 0xFFFF a) stDataPoisoned []
      else f (journalInput t p a n) (cohRead t a n)

/-- A write of the MP on a request's behalf. -/
def mpWrite (s : State) (p a : Nat) (bs : List Byte) (f : State → MbxAnswer) : MbxAnswer :=
  if bs.isEmpty then f s
  else if !reachCoherent s p a bs.length then .done (failAccess s p a) stAddressFault []
  else
    match tierReady s p none true false [(a, bs.length)] with
    | .held t => .wait t
    | .bad t => .done t stAddressFault []
    | .ready t => f (markExternal (moduleWrite t a bs) p a bs.length)

/-! ### Framing (R395 to R398) -/

/-- Is a request tail acceptable (R395)? -/
def mbxTailOk (m : Mailbox) (head t : Word32) : Bool := decide ((t - m.tail).toNat < 2 ^ 31 ∧ (t - head).toNat ≤ 64)

/-- A request tail written: accepted, or discarded and counted. -/
def writeMbxTail (s : State) (fn : Nat) (isLocal : Bool) (value : Word64) : State :=
  match funcAt s fn with
  | none => s
  | some f =>
    match cp32Value value with
    | none => rejectDoorbell s fn
    | some t =>
      if mbxTailOk (mboxOf f isLocal) (consumed s fn f isLocal) t then
        modMbox s fn isLocal (fun m => { m with
          tail := t, parked := false, badReads := if m.parked then 0 else m.badReads, rspHead := consumed s fn f isLocal })
      else rejectDoorbell s fn

/-- MBX_REQ_TAIL_WRITE (R395). -/
def execMbxReqTailWrite (fn : BitVec 4) (value : BitVec 64) (s : State) : Out :=
  .next (if inService s then writeMbxTail s fn.toNat false value else s)

/-- LMB_DOORBELL (R398, Table 7-3): of the hart's partition; nothing while the local mailbox is disabled. -/
def execLmbDoorbell (hart : BitVec 6) (value : BitVec 64) (s : State) : Out :=
  let p := hartOwner s hart.toNat
  .next (if inService s ∧ lmbBase s p ≠ 0 then writeMbxTail s p true value else s)

/-- A response head written: accepted, or discarded and counted. -/
def writeMbxHead (s : State) (fn : Nat) (value : Word64) : State :=
  match funcAt s fn with
  | none => s
  | some f =>
    match cp32Value value with
    | none => rejectDoorbell s fn
    | some h =>
      if (h - f.host.rspHead).toNat ≤ (f.host.rspTail - f.host.rspHead).toNat then
        modMbox s fn false (fun m => { m with rspHead := h })
      else rejectDoorbell s fn

/-- MBX_RSP_HEAD_WRITE (R395). -/
def execMbxRspHeadWrite (fn : BitVec 4) (value : BitVec 64) (s : State) : Out :=
  .next (if inService s then writeMbxHead s fn.toNat value else s)

/-- What the header of request n shows (R396). (DEDUCED, log entry 54) -/
def mbxVerdict (n : Nat) (e : List Byte) : Option (Nat × Bool) :=
  match cp32At e 0 with
  | none => none
  | some v => if natField v 0 16 = n % 65536 then some (natField v 16 8, natField v 24 8 == 0) else none

/-- Is there a request to read in a mailbox? -/
def mbxReady (s : State) (fn : Nat) (f : Func) (isLocal : Bool) : Bool :=
  let m := mboxOf f isLocal
  decide (m.next ≠ m.tail) && !m.parked && (!isLocal || lmbBase s fn != 0)

/-- A request with a validating header put into service, or answered with INVALID. -/
def takeRequest (s : State) (fn : Nat) (f : Func) (isLocal : Bool) (e : List Byte) (clean : Bool) : State :=
  let m := mboxOf f isLocal
  let cmd := fieldAt e 8 2
  let len := fieldAt e 0x0A 2
  let r : MbxReq := { isLocal := isLocal, pos := m.next.toNat, cmd := cmd, tag := fieldAt e 0x0C 4, payload := sliceBytes e 0x10 (min len 240) }
  let s1 := modFunc (modMbox s fn isLocal (fun y => { y with next := y.next + 1, badReads := 0 })) fn
    (fun g => { g with lastLocal := isLocal, version := g.nextVersion })
  if clean ∧ 1 ≤ cmd ∧ cmd ≤ 0x1F ∧ len ≤ 240 ∧ (f.nextVersion ≠ 1 ∨ mbxVersion1 cmd) then
    modFunc s1 fn (fun g => { g with inService := some r })
  else answer s1 fn r stInvalid []

/-- The header at the next position read once (R396). A header of another command-set version is answered with INVALID (R399). (DEDUCED, log entry 10) -/
def readRequest (s : State) (fn : Nat) (f : Func) (isLocal : Bool) : State :=
  let m := mboxOf f isLocal
  let e := reqEntry s fn f isLocal m.next.toNat
  match mbxVerdict m.next.toNat e with
  | some (v, reserved) =>
    if v = f.nextVersion then takeRequest s fn f isLocal e reserved
    else takeRequest s fn f isLocal e false
  | none => modMbox s fn isLocal (fun y => { y with badReads := y.badReads + 1 })

/-- May the MP start a request of a function now? -/
def mayServe (s : State) (f : Func) : Bool := inService s && f.inService.isNone && !f.removal

/-- MAILBOX_REQUEST_SERVE (R235, R397): the rings alternate; an empty one is passed over. -/
def execMailboxRequestServe (fn : BitVec 4) (s : State) : Out :=
  let n := fn.toNat
  .next (match funcAt s n with
    | none => s
    | some f =>
      let ready (l : Bool) : Bool := mbxReady s n f l && (mboxOf f l).badReads == 0 && rspRoom s n f l
      if !mayServe s f then s
      else if ready (!f.lastLocal) then readRequest s n f (!f.lastLocal)
      else if ready f.lastLocal then readRequest s n f f.lastLocal
      else s)

/-- MAILBOX_REREAD (R396): a re-read within the window; the ninth that fails parks the mailbox. -/
def execMailboxReread (fn : BitVec 4) (s : State) : Out :=
  let n := fn.toNat
  .next (match funcAt s n with
    | none => s
    | some f =>
      let l := decide (f.host.badReads = 0)
      let m := mboxOf f l
      if !mayServe s f ∨ !mbxReady s n f l ∨ m.badReads = 0 ∨ !rspRoom s n f l then s
      else
        let e := reqEntry s n f l m.next.toNat
        match mbxVerdict m.next.toNat e with
        | some _ => readRequest s n f l
        | none =>
          if m.badReads = 8 then
            let s1 := modMbox s n l (fun y => { y with parked := true, badReads := 0 })
            writeResponse s1 n l m.next.toNat (fieldAt e 8 2) (fieldAt e 0x0C 4) stDoorbellAhead []
          else modMbox s n l (fun y => { y with badReads := y.badReads + 1 }))

/-! ### GET_INFO (Table 13-3) -/

/-- The eight accounting registers of a queue context (Table 13-8). -/
def accountingBytes (x : Queue) : List Byte :=
  [x.accEngine, x.accT1, x.accHost, x.accPort, x.accEnergy, x.accKilled, x.accCommits, x.accEnded].flatMap (fun v => natToBytes 8 v.toNat)

/-- The PARTITION_CREATE fields of a partition. -/
def partitionBytes (p : Nat) (x : Partition) : List Byte :=
  natToBytes 1 p ++ natToBytes 1 x.modes ++ natToBytes 2 x.groups.toNat ++ natToBytes 4 x.devices.toNat ++ natToBytes 2 x.edgeWays
    ++ natToBytes 2 x.sysWays ++ natToBytes 2 x.migQuota ++ natToBytes 2 x.msixQuota ++ natToBytes 16 x.clusters.toNat
    ++ natToBytes 4 x.flowQuota ++ natToBytes 4 x.sliceBase ++ natToBytes 2 x.videoQuota

/-- The image of a firmware component that runs. -/
def imageVersions (s : State) (c : Nat) : Nat × Nat :=
  match (s.flash.components[c]?).bind (·.running) with
  | some i => (i.fwVersion, i.secVersion)
  | none => (0, 0)

/-- GET_INFO item 0. -/
def moduleInfo (s : State) (f : Func) : List Byte :=
  let v := imageVersions s 1
  natToBytes 1 (bitOf s.big) ++ natToBytes 1 0xA1 ++ natToBytes 2 f.version ++ natToBytes 4 s.life.moduleId ++ natToBytes 8 v.1
    ++ natToBytes 8 v.2 ++ natToBytes 2 s.power.coolStrap ++ natToBytes 2 s.fault.bootCause

/-- GET_INFO: an item above 3, or a queue or partition that does not exist, is INVALID. (DEDUCED, log entry 55) -/
def execGetInfo (fn : BitVec 4) (s : State) : Out :=
  let n := fn.toNat
  .next (runMbx s n 0x01 anyForm (fun f r =>
    let item := fieldAt r.payload 0 2
    let index := fieldAt r.payload 2 2
    let p := if n = 0 then index else n
    match item with
    | 0 => .done s stOk (moduleInfo s f)
    | 1 => match partAt s p with
      | some x => .done s stOk (partitionBytes p x)
      | none => mbxInvalid s
    | 2 => match queueAt s index with
      | some x => if x.partition = n then .done s stOk (accountingBytes x) else .done s stNotPermitted []
      | none => mbxInvalid s
    | 3 => match partAt s p with
      | some x => .done s stOk (natToBytes 8 x.server.boot.status.toNat)
      | none => mbxInvalid s
    | _ => mbxInvalid s))

/-! ### GET_CAPS (R399) -/

/-- The fields of GET_CAPS. (DEDUCED, log entry 55) -/
def capsBytes (version : Nat) : List Byte :=
  natToBytes 1 version ++ natToBytes 3 6 ++ natToBytes 4 16 ++ natToBytes 4 4096 ++ natToBytes 4 40960 ++ natToBytes 4 16384
    ++ natToBytes 4 4096

/-- GET_CAPS without a switch; a select above 2 is INVALID. -/
def execGetCaps (fn : BitVec 4) (s : State) : Out :=
  .next (runMbx s fn.toNat 0x02 (fun b => fieldAt b 0 1 != 1 && fieldAt b 0 1 != 2) (fun f r =>
    if fieldAt r.payload 0 1 = 0 then .done s stOk (capsBytes f.version) else mbxInvalid s))

/-- GET_CAPS with select 1: only on a partition in Eskor compatibility mode. -/
def execGetCapsSwitchV1 (fn : BitVec 4) (s : State) : Out :=
  let n := fn.toNat
  .next (runMbx s n 0x02 (fun b => fieldAt b 0 1 == 1) (fun _ _ =>
    if ((partAt s n).map (fun x => natBit x.modes 0)).getD false then
      .done (modFunc s n (fun g => { g with nextVersion := 1 })) stOk (capsBytes 1)
    else .done s stNotPermitted (capsBytes 2)))

/-- GET_CAPS with select 2. -/
def execGetCapsSwitchV2 (fn : BitVec 4) (s : State) : Out :=
  let n := fn.toNat
  .next (runMbx s n 0x02 (fun b => fieldAt b 0 1 == 2) (fun _ _ =>
    .done (modFunc s n (fun g => { g with nextVersion := 2 })) stOk (capsBytes 2)))

/-! ### STEP_POLICY, TELEMETRY_CONFIG -/

/-- Members removed end the retention that waits for them alone (R318). -/
def removeMembers (j : Job) (l : List Nat) : Job :=
  { j with retention := j.retention.bind (fun t =>
      let w := t.waiting.filter (fun m => !l.contains m)
      if w.isEmpty then none else some { t with waiting := w }) }

/-- STEP_POLICY (Table 13-3): without a job there is nothing to set. -/
def doStepPolicy (s : State) (n : Nat) (r : MbxReq) : MbxAnswer :=
    let b := r.payload
    let t := fieldAt b 0x0C 4
    let k := fieldAt b 0x10 1
    let members := (List.range k).map (fun i => fieldAt b (0x12 + 2 * i) 2)
    if (jobAt s n).isNone ∨ 1 < fieldAt b 0 1 ∨ 2 < fieldAt b 1 1 ∨ t < 25000 ∨ 250000000 < t ∨ 16 < k then mbxInvalid s
    else
      .done (modJob s n (fun j => removeMembers { j with policy :=
        { abortOnNonfinite := decide (fieldAt b 0 1 = 1), mismatch := fieldAt b 1 1, absurd := BitVec.ofNat 32 (fieldAt b 4 4),
          clip := BitVec.ofNat 32 (fieldAt b 8 4), timeout := t, removed := members } } members)) stOk []

/-- STEP_POLICY. -/
def execStepPolicy (fn : BitVec 4) (s : State) : Out :=
  .next (runMbx s fn.toNat 0x0C anyForm (fun _ r => doStepPolicy s fn.toNat r))

/-- May a ring of n bytes lie at an address: T1 owned by the partition, or one of its host-tier registrations (R292)? -/
def ringPlace (s : State) (p a n : Nat) : Bool := decide (a % 64 = 0) && reachCoherent s p a n

/-- TELEMETRY_CONFIG (R292): log2 size 0 disables the ring. -/
def doTelemetryConfig (s : State) (n : Nat) (r : MbxReq) : MbxAnswer :=
    let b := r.payload
    let target := fieldAt b 0 2
    let l := fieldAt b 2 1
    let a := fieldAt b 8 8
    let ring : Option Ring := if l = 0 then none else some { base := a, size := 2 ^ l, off := 0, seq := 0 }
    if l ≠ 0 ∧ (l < 16 ∨ 26 < l) then mbxInvalid s
    else if target = 0xFFFF then
      if n ≠ 0 then .done s stNotPermitted []
      else if l ≠ 0 ∧ !ringPlace s n a (2 ^ l) then .done s stAddressFault []
      else .done { s with telemetry := ring } stOk []
    else
      match queueAt s target with
      | none => mbxInvalid s
      | some x =>
        if x.partition ≠ n then .done s stNotPermitted []
        else if l ≠ 0 ∧ !ringPlace s n a (2 ^ l) then .done s stAddressFault []
        else .done (modQueue s target (fun y => { y with telemetry := ring })) stOk []

/-- TELEMETRY_CONFIG. -/
def execTelemetryConfig (fn : BitVec 4) (s : State) : Out :=
  .next (runMbx s fn.toNat 0x12 anyForm (fun _ r => doTelemetryConfig s fn.toNat r))

end Sys2Proof.Machine
end

