-- ==== Sys2Proof/Machine/Registers.lean ====
section
/-! DEFINITION. What every register of register space reads as (Table 1-6 and the register tables of all chapters). -/

namespace Sys2Proof.Machine

/-! ### Core control blocks (Tables 3-10 to 3-12, 4-15 to 4-17) -/

/-- ENG_STATUS (Table 3-11). (DESIGN CHOICE, log entry 68) -/
def engStatus (s : State) (k : Nat) (c : Core) : Nat :=
  let e := c.engine
  let run := e.insts.find? (fun i => i.phase == .streaming)
  bitOf (!e.insts.isEmpty) + 2 * bitOf (e.insts.any (fun i => i.phase == .loaded)) + 4 * bitOf (decide (1 < e.insts.length))
    + 8 * bitOf (!e.insts.isEmpty && Config.engineFrozen k (arrNow s (coreDie k)).toNat) + 16 * (e.colsOn % 16)
    + 256 * bitOf (match e.ramp with | .wantUp _ => true | .wantDown => true | _ => false)
    + (match run with
       | none => 0
       | some i => 512 * (i.shape % 8) + 4096 * bitOf i.transposed + 8192 * (i.ws % 32) + 2 ^ 32 * ((i.rows - i.drained) % 2 ^ 15))

/-- WGB tiles of a core that queue contexts hold. -/
def tilesOwned (s : State) (k : Nat) : Nat :=
  let p := coreOwner s k
  (s.queues.filter (fun e => e.2.partition == p)).foldl (fun a e => a ||| e.2.tiles) 0

/-- WGB_STATUS (Table 3-12). -/
def wgbStatus (s : State) (k : Nat) (c : Core) : Nat :=
  c.torn.toNat + 16 * (tilesOwned s k % 16) + 256 * (c.wgbOps.length % 32)
    + 8192 * bitOf (c.committing || s.spills.any (fun r => r.core == k))

/-- CORE_STATUS (Table 4-16). -/
def coreStatus (c : Core) : Nat :=
  (match c.run with | .idle => 0 | .running => 1 | .stopped => 2 | .killed => 3)
    + 4 * bitOf (match c.wait with | .barrier _ _ _ => true | _ => false)
    + 8 * bitOf (match c.wait with | .dmaTag _ => true | .dmaAll => true | _ => false)
    + 16 * bitOf (match c.wait with | .tickets _ => true | .engineEmpty => true | _ => false)
    + 32 * (c.dmas.length % 32) + 1024 * (c.job.queue % 4096) + 2 ^ 22 * (c.job.partition % 16)

/-- A register of a core's control block; reserved offsets read zero. -/
def coreReg (s : State) (k off : Nat) : Nat :=
  let c := coreAt s k
  match off with
  | 0x0000 => coreStatus c
  | 0x0008 => c.regs.pc.toNat
  | 0x0010 => c.faultCause % 256 + 65536 * (c.faultStatus % 65536) + 2 ^ 32 * c.faultInsn.toNat
  | 0x0018 => c.faultAddr.toNat
  | 0x0020 => c.seqInstret.toNat
  | 0x0028 => c.seqStall.toNat
  | 0x0030 => c.vecBusy.toNat
  | 0x0038 => c.dmaBytesRd.toNat
  | 0x0040 => c.dmaBytesWr.toNat
  | 0x0048 => c.barWait.toNat
  | 0x0050 => c.rngBlocks.toNat
  | 0x0800 => engStatus s k c
  | 0x0808 => c.engine.streamCycles.toNat
  | 0x0810 => c.engine.overheadCycles.toNat
  | 0x0818 => c.engine.freezeFeed.toNat
  | 0x0820 => c.engine.freezeDrain.toNat
  | 0x0828 => c.engine.freezeBudget.toNat
  | 0x0830 => c.engine.loadWait.toNat
  | 0x0838 => c.engine.tampCycles.toNat
  | 0x0840 => c.engine.nonfinite.toNat
  | 0x0848 => wgbStatus s k c
  | 0x0850 => c.spillBytes.toNat
  | _ => 0

/-! ### Memory-base dies (Tables 5-3, 6-9, 8-5, 10-20, 11-7, 11-14 to 11-16) -/

/-- The n-th 64-bit register of a block; zero beyond its list. -/
def nthReg (l : List Nat) (off : Nat) : Nat := l.getD (off / 8) 0

/-- Channel registers (Table 5-3). -/
def channelRegs (c : Channel) : List Nat :=
  [c.bytesRd, c.bytesWr, c.eccCorr, c.eccUncorr, c.derateCycles, c.scrubPasses].map (·.toNat)

/-- Pool unit registers (Table 8-5). -/
def poolRegs (c : Channel) : List Nat :=
  [c.puLookupRows, c.puSorted, c.puUpdateRows, c.puRelayoutBytes, c.puRelayoutRestarts, c.puRelayoutPause, c.puFloor, c.puRowWait].map (·.toNat)

/-- Update lane registers (Table 10-20). -/
def laneRegs (c : Channel) : List Nat :=
  [c.ulBlocks, c.ulBytesRd, c.ulBytesWr, c.ulRecovered, c.ulFetched, c.ulDripBehind, c.ulDripStaged].map (·.toNat)

/-- Home node registers (Table 6-9). -/
def homeRegs (h : HomeNode) : List Nat :=
  [h.txns.length % 1024 + 1024 * (h.reservations.length % 32), h.accepted.toNat, h.retries.toNat, h.resvLapsed.toNat,
   h.snoopHeld.toNat, h.dirEvictions.toNat, h.homeAtomics.toNat + 2 ^ 32 * h.farAtomics.toNat, h.fpAtomics.toNat,
   h.eccCorr.toNat, h.eccUncorr.toNat]

/-- PORT_STATUS (Table 11-15). -/
def portStatus (x : Port) : Nat :=
  (match x.phase with | .disabled => 0 | .training => 1 | .up => 2 | .down => 3) + 4 * bitOf x.kr + 8 * bitOf x.macsec
    + 16 * bitOf x.secured + 32 * (x.laneLock % 16) + 512 * bitOf x.localFault + 1024 * bitOf x.remoteFault + 2048 * bitOf x.obeyPfc

/-- Port registers (Table 11-14). -/
def portRegs (x : Port) : List Nat :=
  portStatus x :: [x.txFrames, x.rxFrames, x.txBytes, x.rxBytes, x.rxDropped, x.fcsErrors, x.fecCorrected, x.fecUncorrected,
    x.retx, x.duplicates, x.noStaging, x.macsecDrops, x.pauseFrames, x.downEvents].map (·.toNat)

/-- Collective-engine registers of memory-base die m (Table 11-16). -/
def collRegs (s : State) (m : Nat) : List Nat :=
  match s.colls[m]? with
  | none => []
  | some c =>
    [c.collectives.toNat, c.bytesSent.toNat, c.bytesReceived.toNat, c.restarts.toNat,
     (s.flows.filter (fun e => e.1 / 10240 == m)).length % 2 ^ 14, c.unreachable.toNat, c.lagRecords.toNat, c.lagSuppressed.toNat]

/-- The 128 bytes of a flow context (Table 11-7); a free one is zero. -/
def flowBytes (s : State) (fid : Nat) : List Byte :=
  match mapGet s.flows fid with
  | none => zeros 128
  | some f =>
    natToBytes 1 (match f.phase with | .connecting => 1 | .open => 2 | .unreachable => 3 | .closing => 4)
      ++ natToBytes 1 f.partition ++ natToBytes 2 f.peer ++ natToBytes 2 f.peerFlow ++ natToBytes 2 f.netId ++ natToBytes 4 f.peerGen
      ++ natToBytes 2 f.planes ++ natToBytes 2 f.window ++ natToBytes 4 f.txNext ++ natToBytes 4 f.txUna ++ natToBytes 4 f.rxNext
      ++ natToBytes 4 f.rto ++ natToBytes 8 f.rxSack.toNat ++ natToBytes 4 f.srtt ++ natToBytes 2 f.retxRun ++ natToBytes 2 0
      ++ natToBytes 8 f.txFrames.toNat ++ natToBytes 8 f.rxFrames.toNat ++ natToBytes 8 f.retxFrames.toNat
      ++ natToBytes 8 f.lastAck.toNat ++ natToBytes 24 (f.rxSack.toNat / 2 ^ 64)

/-- A register of memory-base die m; none where no unit lies. -/
def baseReg (s : State) (m off : Nat) : Option Nat :=
  let chan (a : Nat) (l : Channel → List Nat) : Option Nat :=
    (s.channels[32 * m + (off - a) / 0x100]?).map (fun c => nthReg (l c) (off % 0x100))
  if 0x100000 ≤ off ∧ off < 0x102000 then chan 0x100000 channelRegs
  else if 0x200000 ≤ off ∧ off < 0x201000 then (s.homes[m]?).map (fun h => nthReg (homeRegs h) (off - 0x200000))
  else if 0x300000 ≤ off ∧ off < 0x302000 then chan 0x300000 poolRegs
  else if 0x340000 ≤ off ∧ off < 0x342000 then chan 0x340000 laneRegs
  else if 0x380000 ≤ off ∧ off < 0x384000 then
    (s.ports[4 * m + (off - 0x380000) / 0x1000]?).map (fun x => nthReg (portRegs x) (off % 0x1000))
  else if 0x3C0000 ≤ off ∧ off < 0x3C1000 then some (nthReg (collRegs s m) (off - 0x3C0000))
  else if 0x400000 ≤ off ∧ off < 0x540000 then
    some (fieldAt (flowBytes s (10240 * m + (off - 0x400000) / 0x80)) (off % 0x80 / 8 * 8) 8)
  else none

/-! ### The hub (Tables 5-10, 7-3, 13-8, 14-7, 15-6, 15-9, 16-10, 16-11) -/

/-- Tier registers of a partition (Table 5-10). -/
def tierReg (s : State) (p : Nat) (x : Partition) (off : Nat) : Nat :=
  let t := x.tier
  if 0x100 ≤ off ∧ off < 0x180 then
    let c := (off - 0x100) / 16
    if off % 16 < 8 then (t.stallEvents[c]?.map (·.toNat)).getD 0 else (t.stallAon[c]?.map (·.toNat)).getD 0
  else
    nthReg [bitOf t.eskor, t.late, t.limit, t.deadline, 0, x.migs.length, t.promoted.toNat, t.demoted.toNat, t.reqDropped.toNat,
      t.isoViolations.toNat,
      ((List.range 8).filter (fun c => s.holds.any (fun h => h.2.partition == p && h.2.cause.code == c + 1))).foldl (fun a c => a + 2 ^ c) 0] off

/-- Server registers of a partition (Table 7-3). -/
def serverRegs (x : Partition) : List Nat :=
  [x.server.pdtp.toNat, 0, x.server.sync.toNat, x.server.lmbBase.toNat, 0, x.server.boot.status.toNat]

/-- Sessions of a video unit that are open. -/
def sessionCount (s : State) (u : Nat) (encode : Bool) : Nat :=
  ((s.partitions.map (fun e => (e.2.sessions.filter (fun v => v.2.unit == u && v.2.encode == encode)).length)).sum)

/-- Does a unit run a command? -/
def unitBusy (s : State) (u : Nat) : Bool :=
  s.queues.any (fun e => e.2.cmds.any (fun c => (c.opcode == 0x0E || c.opcode == 0x0F) && c.phase == .admitted &&
    (match (partAt s e.2.partition).bind (fun x => mapGet x.sessions (fieldAt c.desc 0x20 2)) with
     | some v => v.unit == u
     | none => false)))

/-- Video unit registers (Table 14-7). -/
def videoRegs (s : State) (u : Nat) : List Nat :=
  match s.videos[u]? with
  | none => []
  | some v =>
    [sessionCount s u false % 256 + 256 * (sessionCount s u true % 32) + 8192 * bitOf (unitBusy s u) + 16384 * bitOf v.disabled,
     v.decoded.toNat, v.encoded.toNat, v.concealed.toNat, v.resyncs.toNat, v.overruns.toNat, v.unsupported.toNat]

/-- The applied cap: the least of the three sources (R448). -/
def appliedCap (w : PowerBlock) : Nat :=
  let a := if w.hostCap = 0 then w.strapCap else min w.strapCap w.hostCap
  if w.pldmCap = 0 then a else min a w.pldmCap

/-- Module power registers (Table 15-9). -/
def moduleRegs (s : State) : List Nat :=
  let w := s.power
  [w.profile % 4 + 4 * (w.coolStrap % 4) + 16 * bitOf (!w.alerts.isEmpty) + 32 * bitOf (w.band == .low || w.band == .sag)
      + 64 * bitOf (w.band == .high || w.band == .over),
   appliedCap w + 2 ^ 16 * w.strapCap + 2 ^ 32 * w.hostCap + 2 ^ 48 * w.pldmCap,
   w.inputMv10 % 65536 + 2 ^ 16 * (w.inputMa10 % 65536) + 2 ^ 32 * (w.inputW % 65536),
   w.energyMj.toNat, w.uvEvents.toNat, w.ovEvents.toNat, w.capExcursions.toNat]

/-- Power registers of die d (Table 15-9). -/
def dieRegs (d : Nat) (x : DiePower) : List Nat :=
  [if d < 8 then x.budget % 1024 + 2 ^ 10 * (x.powerCeil % 1024) + 2 ^ 20 * (x.thermalCeil % 1024) + 2 ^ 30 * (x.ageCeil % 1024) else 0,
   x.voff, x.slack, intToNat 16 x.temp, if d < 8 then x.budgetChanges.toNat else 0]

/-- DOM_STATE of a domain (Table 15-6). -/
def domState (d : Domain) : Nat :=
  (match d.phase with | .run => 0 | .gated => 1 | .ret => 2 | .off => 3) + 4 * bitOf d.moving.isSome + 2 ^ 16 * (d.mhz % 65536)
    + 2 ^ 32 * d.starts.toNat

/-- The hub power block (R456). -/
def powerReg (s : State) (off : Nat) : Nat :=
  if off < 0x100 then nthReg (moduleRegs s) off
  else if off < 0x440 then
    let d := (off - 0x100) / 0x40
    ((s.dies[d]?).map (fun x => nthReg (dieRegs d x) (off % 0x40))).getD 0
  else if 0x800 ≤ off ∧ off < 0x940 then ((s.domains[(off - 0x800) / 8]?).map domState).getD 0
  else if 0xA00 ≤ off ∧ off < 0xB40 then ((s.domains[(off - 0xA00) / 8]?).map (·.cycles.toNat)).getD 0
  else 0

/-- The fault block (Table 16-10). -/
def faultRegs (s : State) : List Nat :=
  let f := s.fault
  [bitOf f.decaf.isSome + 2 * bitOf (match f.decaf with | some d => d.flushRunning | none => false)
     + 4 * bitOf (match f.decaf with | some d => d.flushDone | none => false) + 256 * (f.causeCode % 65536),
   f.nextEntry, f.corrected.toNat, f.command.toNat, f.core.toNat, f.unit.toNat, f.object.toNat, f.partition.toNat, f.module.toNat,
   f.resets.toNat]

/-- Journal registers of a partition (Table 16-11). -/
def journalRegs (x : Partition) : List Nat :=
  let j := x.journal
  [j.enable % 4 + 4 * bitOf j.waiting, j.seq.toNat, j.inputBytes.toNat, j.fullAon.toNat, j.fpStep.toNat, j.snapshot.toNat]

/-- Accounting registers of a queue context (Table 13-8). -/
def accountRegs (x : Queue) : List Nat :=
  [x.accEngine, x.accT1, x.accHost, x.accPort, x.accEnergy, x.accKilled, x.accCommits, x.accEnded].map (·.toNat)

/-- A register of the hub; none where no unit lies. The APLIC and the IMSIC files read as zero: the standards that they follow
fix their contents, and the module's rules only write them. -/
def hubReg (s : State) (off : Nat) : Option Nat :=
  let part (p : Nat) (f : Partition → Nat) : Option Nat := some (((partAt s p).map f).getD 0)
  if 0x200000 ≤ off ∧ off < 0x204000 then some (nthReg (videoRegs s ((off - 0x200000) / 0x1000)) (off % 0x1000))
  else if 0x300000 ≤ off ∧ off < 0x301000 then some (powerReg s (off - 0x300000))
  else if 0x310000 ≤ off ∧ off < 0x311000 then some (nthReg (faultRegs s) (off - 0x310000))
  else if 0x311000 ≤ off ∧ off < 0x312000 then part ((off - 0x311000) / 0x100) (fun x => nthReg (journalRegs x) (off % 0x100))
  else if 0x400000 ≤ off ∧ off < 0x410000 then
    part ((off - 0x400000) / 0x1000) (fun x => tierReg s ((off - 0x400000) / 0x1000) x (off % 0x1000))
  else if 0x510000 ≤ off ∧ off < 0x511000 then part ((off - 0x510000) / 0x100) (fun x => nthReg (serverRegs x) (off % 0x100))
  else if 0x600000 ≤ off ∧ off < 0x604000 then some 0
  else if 0x800000 ≤ off ∧ off < 0x840000 then some 0
  else if 0xA00000 ≤ off ∧ off < 0xC00000 then some 0
  else if 0xC00000 ≤ off ∧ off < 0xC40000 then some 0
  else if 0xD00000 ≤ off ∧ off < 0xD40000 then
    some (((queueAt s ((off - 0xD00000) / 0x40)).map (fun x => nthReg (accountRegs x) (off % 0x40))).getD 0)
  else none

/-- The register at an offset of a die's block, as its unit holds it; none where it is unmapped (R33). -/
def liveReg (s : State) (die off : Nat) : Option Nat :=
  if die < 8 then
    if off < 0x800000 then some (coreReg s (die * 1024 + off / 0x2000) (off % 0x2000 / 8 * 8)) else none
  else if die < 12 then baseReg s (die - 8) (off / 8 * 8)
  else if die = 12 then hubReg s (off / 8 * 8)
  else none

/-- The status registers that stay mapped in Decaf mode (R469). -/
def isStatusReg (die off : Nat) : Bool :=
  if die < 8 then
    decide (off < 0x800000) && (decide (off % 0x2000 < 0x58) || decide (0x800 ≤ off % 0x2000 ∧ off % 0x2000 < 0x858))
  else if die < 12 then decide (0x380000 ≤ off ∧ off < 0x384000 ∧ off % 0x1000 < 0x78)
  else decide (0x200000 ≤ off ∧ off < 0x204000 ∧ off % 0x1000 < 0x38) || decide (0x300000 ≤ off ∧ off < 0x301000)
    || decide (0x310000 ≤ off ∧ off < 0x311000)

/-- Blocks of units that Decaf mode stops. -/
def isStopped (die off : Nat) : Bool :=
  decide (die < 8) || (decide (die < 12) && decide (0x380000 ≤ off ∧ off < 0x384000))
    || (die == 12 && decide (0x200000 ≤ off ∧ off < 0x204000))

/-- The key of a register in the status shadow. -/
def shadowKey (die off : Nat) : Nat := die * 0x1000000 + off / 8 * 8

/-- The 64-bit register at an offset of a die's block: in Decaf mode a status register comes from the shadow (R469), and the
blocks of stopped units are unmapped otherwise (R39). (DEDUCED, log entry 69) -/
def regRead (s : State) (die off : Nat) : Option Nat :=
  if s.fault.decaf.isNone then liveReg s die off
  else if isStatusReg die off then some ((mapGetD s.fault.shadow (shadowKey die off) 0).toNat)
  else if isStopped die off then none
  else liveReg s die off

/-- The offsets of the status registers of a die, as far as they can differ from zero. -/
def statusOffsets (s : State) (die : Nat) : List Nat :=
  if die < 8 then
    (mapKeys (mapFilter s.cores (fun k _ => coreDie k == die))).flatMap (fun k =>
      (List.range 11).map (fun i => k % 1024 * 0x2000 + 8 * i) ++ (List.range 11).map (fun i => k % 1024 * 0x2000 + 0x800 + 8 * i))
  else if die < 12 then (List.range 4).flatMap (fun p => (List.range 15).map (fun i => 0x380000 + p * 0x1000 + 8 * i))
  else (List.range 4).flatMap (fun u => (List.range 7).map (fun i => 0x200000 + u * 0x1000 + 8 * i))
    ++ (List.range 512).map (fun i => 0x300000 + 8 * i) ++ (List.range 10).map (fun i => 0x310000 + 8 * i)

/-- The status shadow: the status registers as they are now (R469); registers that read zero are not listed. -/
def statusShadow (s : State) : SMap Word64 :=
  (List.range 13).flatMap (fun die =>
    (statusOffsets s die).filterMap (fun off =>
      match liveReg s die off with
      | some v => if v = 0 then none else some (shadowKey die off, BitVec.ofNat 64 v)
      | none => none))

end Sys2Proof.Machine
end

