-- ==== Sys2Proof/Machine/Video.lean ====
section
/-! DEFINITION. Video units: sessions, decode, encode, budget overruns, errors (R422 to R437). What a codec makes of a
stream is the codec specification's, which this manual names and does not give: the pictures are free values. -/

namespace Sys2Proof.Machine

/-- Samples of a picture in the session's format, in bytes (R427, R430). -/
def pictureBytes (w h depth : Nat) : Nat := w * h * 3 / 2 * (if depth = 8 then 1 else 2)

/-- Bytes that a session's DPB area needs (R427). -/
def dpbNeed (x : VideoSession) : Nat :=
  let b := if x.depth = 8 then 1 else 2
  let slots := if x.encode then 6 + x.bframes else if x.codec = 0 then 17 else 9
  65536 + slots * (64 * ((x.maxW * x.maxH * 3 * b + 127) / 128))

/-- The session that a descriptor describes (Table 14-2). -/
def sessionOf (q unit : Nat) (b : List Byte) : VideoSession :=
  { queue := q, unit := unit, codec := fieldAt b 0 1, encode := fieldAt b 1 1 == 1, bounded := fieldAt b 2 1 == 1,
    depth := fieldAt b 3 1, maxW := fieldAt b 4 2, maxH := fieldAt b 6 2, dpb := fieldAt b 8 8, dpbBytes := fieldAt b 0x10 4,
    out := fieldAt b 0x14 1, grainOff := natBit (fieldAt b 0x15 1) 0, fmtAddr := fieldAt b 0x18 8, rc := fieldAt b 0x20 1,
    qp := fieldAt b 0x21 1, bframes := fieldAt b 0x22 1, kbps := fieldAt b 0x24 4, gop := fieldAt b 0x28 4,
    fpsNum := fieldAt b 0x2C 2, fpsDen := fieldAt b 0x2E 2, version := 0, pictures := 0, overrun := false }

/-- Does a descriptor satisfy Table 14-2 for a direction? -/
def sessionOk (s : State) (p : Nat) (encode : Bool) (b : List Byte) : Bool :=
  let x := sessionOf 0 0 b
  decide (x.codec ≤ 1 ∧ fieldAt b 1 1 = bitOf encode ∧ fieldAt b 2 1 ≤ (if encode then 0 else 1) ∧ (x.depth = 8 ∨ x.depth = 10))
    && decide (16 ≤ x.maxW ∧ x.maxW ≤ 16384 ∧ x.maxW % 8 = 0 ∧ 16 ≤ x.maxH ∧ x.maxH ≤ 16384 ∧ x.maxH % 8 = 0)
    && decide (x.maxW * x.maxH ≤ 35651584) && decide (x.dpb % 65536 = 0 ∧ dpbNeed x ≤ x.dpbBytes) && ownsT1 s p x.dpb x.dpbBytes
    && decide (fieldAt b 0x15 1 < 2 ∧ x.out ≤ (if encode then 1 else 2)) && zeroAt b 0x16 2 && zeroAt b 0x23 1 && zeroAt b 0x30 16
    && (x.out == 2 || x.fmtAddr == 0)
    && (!encode || decide (x.rc ≤ 2 ∧ x.qp ≤ (if x.codec = 0 then 51 else 255) ∧ x.bframes ≤ 3 ∧ x.gop ≤ 2 ^ 31
          ∧ 1 ≤ x.fpsNum ∧ 1 ≤ x.fpsDen ∧ (x.rc = 0 ∨ (100 ≤ x.kbps ∧ x.kbps ≤ 800000))))

/-- Does a formatter descriptor satisfy Table 14-5? -/
def formatterOk (b : List Byte) : Bool :=
  decide (1 ≤ fieldAt b 8 2 ∧ fieldAt b 8 2 ≤ 4096 ∧ 1 ≤ fieldAt b 0xA 2 ∧ fieldAt b 0xA 2 ≤ 4096 ∧ fieldAt b 0xC 1 ≤ 1
    ∧ fieldAt b 0xD 1 ≤ 3 ∧ fieldAt b 0xE 1 ≤ 2 ∧ fieldAt b 0xF 1 < 4)
    && (fieldAt b 0x10 1 == 1 || fieldAt b 0x10 1 == 3 || fieldAt b 0x10 1 == 4) && zeroAt b 0x11 3 && zeroAt b 0x2C 20

/-- Bytes of the tensor of one picture (R434). -/
def tensorBytes (b : List Byte) : Nat := 3 * fieldAt b 8 2 * fieldAt b 0xA 2 * (if fieldAt b 0x10 1 = 1 then 2 else 1)

/-- Open sessions of a unit in a direction. -/
def unitSessions (s : State) (u : Nat) (encode : Bool) : Nat :=
  (s.partitions.map (fun e => (e.2.sessions.filter (fun x => x.2.unit == u && x.2.encode == encode)).length)).sum

/-- The enabled unit with the fewest open sessions and room in a direction (R426, R427). -/
def chooseUnit (s : State) (encode : Bool) : Option Nat :=
  let ok := (List.range 4).filter (fun u =>
    match s.videos[u]? with
    | none => false
    | some v => !v.disabled && !v.restarting && decide (unitSessions s u encode < if encode then 16 else 128))
  ok.foldl (fun (b : Option Nat) u =>
    match b with
    | none => some u
    | some w => if unitSessions s u true + unitSessions s u false < unitSessions s w true + unitSessions s w false then some u else some w) none

/-- A session changed. -/
def modSession (s : State) (p i : Nat) (f : VideoSession → VideoSession) : State :=
  modPart s p (fun x => { x with sessions := mapModify x.sessions i f })

/-- Is it a command's turn in its session: no earlier admitted one of it (R428)? -/
def videoTurn (s : State) (p : Nat) (c : Cmd) : Bool :=
  (cmdsWhere s (fun _ x d => x.partition == p && d.phase == .admitted && (d.opcode == 0x0E || d.opcode == 0x0F)
    && d.field 0x20 2 == c.field 0x20 2 && decide (d.order < c.order))).isEmpty

/-- What one command of a session has output so far. -/
structure VideoRun where
  state : State
  bytes : List Byte
  pictures : Nat
  concealed : Nat

/-- One output slot: a picture record, then the data, padded (R430, Table 14-4). Order, size, flags and data are the
codec's; a tensor's size is the formatter's. -/
def videoSlot (x : VideoSession) (fmt : List Byte) (room : Nat) (r : VideoRun) : VideoRun :=
  let (w0, s1) := drawFree r.state (x.maxW - 15)
  let (h0, s2) := drawFree s1 (x.maxH - 15)
  let tensor := !x.encode && x.out == 2
  let w := if x.encode then x.maxW else if tensor then fieldAt fmt 8 2 else 16 + w0
  let h := if x.encode then x.maxH else if tensor then fieldAt fmt 0xA 2 else 16 + h0
  let (u, s3) := drawFree s2 (2 ^ 32)
  let n := if x.encode then u % (room + 1) else if tensor then tensorBytes fmt else pictureBytes w h (if x.out = 1 then 10 else 8)
  let (order, s4) := drawFree s3 (2 ^ 32)
  let (fl, s5) := drawFree s4 32
  let (lost, s6) := drawFree s5 (2 ^ 32)
  let spent := x.overrun && r.pictures == 0
  let conc := natBit fl 0 || spent
  let slot := 64 + 64 * ((n + 63) / 64)
  if room < r.bytes.length + slot then { r with state := s6 }
  else
    let (data, s7) := drawBytes s6 n
    let flags := bitOf conc + 2 * bitOf (natBit fl 1 && !x.encode) + 4 * bitOf (natBit fl 2) + 8 * bitOf (natBit fl 3)
      + 16 * bitOf (natBit fl 4 && x.codec == 1 && !x.grainOff && !x.encode) + 32 * bitOf spent
    let record := natToBytes 4 n ++ natToBytes 4 order ++ natToBytes 2 w ++ natToBytes 2 h ++ natToBytes 1 flags
      ++ natToBytes 1 (if x.encode then 3 + x.codec else x.out) ++ zeros 2 ++ natToBytes 8 (x.pictures + r.pictures)
      ++ natToBytes 4 (if conc then lost else 0) ++ zeros 36
    { state := s7, bytes := r.bytes ++ pad64 (record ++ data), pictures := r.pictures + 1,
      concealed := r.concealed + bitOf (flags % 4 != 0) }

/-- The slots of a command: as many as the codec has to give, a free number of at most 65,535. -/
def videoSlots (x : VideoSession) (fmt : List Byte) (room : Nat) : Nat → VideoRun → VideoRun
  | 0, r => r
  | n + 1, r => videoSlots x fmt room n (videoSlot x fmt room r)

/-- A command's pictures written, its session advanced, its status (R430, R431, R436). (DESIGN CHOICE, log entry 49) -/
def runVideo (s : State) (q pos p i : Nat) (x : VideoSession) (c : Cmd) (fmt : List Byte) : State :=
  let room := c.field 0x38 4
  let (n, s1) := drawFree s 65536
  let r := videoSlots x fmt room n { state := s1, bytes := [], pictures := 0, concealed := 0 }
  let (held, s2) := drawFree r.state 65536
  let (resync, s3) := drawFree s2 (2 ^ 32)
  let (unsup, s4) := drawFree s3 (2 ^ 32)
  (cmdWrite s4 q pos (c.field 0x30 8) r.bytes).bind (fun s5 _ =>
    let (dpb, s6) := drawBytes s5 x.dpbBytes
    let s7 := cohWrite s6 x.dpb dpb
    let s8 := modVideo s7 x.unit (fun v =>
      if x.encode then { v with encoded := bump v.encoded r.pictures }
      else { v with decoded := bump v.decoded r.pictures, concealed := bump v.concealed r.concealed,
                    resyncs := bump v.resyncs resync, unsupported := bump v.unsupported unsup })
    let closing := natBit (c.field 0x22 2) 1
    let s9 := if closing then modPart s8 p (fun y => { y with sessions := mapErase y.sessions i })
      else modSession s8 p i (fun y => { y with version := y.version + 1, pictures := y.pictures + r.pictures, overrun := false })
    let st := if unsup ≠ 0 ∧ !x.encode then 0x0E02 else if r.concealed ≠ 0 then 0x0E03 else stOk
    finishCmd s9 q pos st (r.pictures + held * 2 ^ 16))

/-- The formatter descriptor of a session read, where it has one. -/
def withFormatter (s : State) (q pos : Nat) (x : VideoSession) (f : State → List Byte → State) : State :=
  if x.encode ∨ x.out ≠ 2 then f s []
  else (cmdRead s q pos x.fmtAddr 64).bind (fun s1 b => if formatterOk b then f s1 b else endCmd s1 q pos stInvalid)

/-- A video command of a direction (R427 to R431). -/
def videoCommand (s : State) (q pos : Nat) (encode : Bool) (x : Queue) (c : Cmd) : State :=
  let p := x.partition
  let i := c.field 0x20 2
  let flags := c.field 0x22 2
  let n := c.aux
  if !videoTurn s p c then s
  else if flags ≥ (if encode then 128 else 8) then endCmd s q pos stInvalid
  else
    match partAt s p with
    | none => s
    | some y =>
      if natBit flags 0 then
        (cmdRead s q pos (c.field 0x28 8) n).bind (fun s1 b =>
          if mapHas y.sessions i ∨ y.videoQuota ≤ i ∨ n < 64 ∨ !sessionOk s1 p encode b then endCmd s1 q pos stInvalid
          else
            match chooseUnit s1 encode with
            | none => endCmd s1 q pos stBusy
            | some u =>
              let v := sessionOf q u b
              if encode ∧ (n - 64) % pictureBytes v.maxW v.maxH v.depth ≠ 0 then endCmd s1 q pos stInvalid
              else
                withFormatter s1 q pos v (fun s2 fmt =>
                  runVideo (modPart s2 p (fun z => { z with sessions := mapSet z.sessions i v })) q pos p i v c fmt))
      else
        match mapGet y.sessions i with
        | none => endCmd s q pos 0x0E01
        | some v =>
          if v.queue ≠ q ∨ v.encode ≠ encode ∨ (encode ∧ n % pictureBytes v.maxW v.maxH v.depth ≠ 0) then endCmd s q pos stInvalid
          else
            (cmdRead s q pos (c.field 0x28 8) n).bind (fun s1 _ =>
              withFormatter s1 q pos v (fun s2 fmt => runVideo s2 q pos p i v c fmt))

/-- VIDEO_DECODE (R427 to R434). (DESIGN CHOICE, log entry 49) -/
def execVideoDecode (q : BitVec 12) (pos : BitVec 32) (s : State) : Out :=
  .next (runCmd s q.toNat pos.toNat 0x0E (fun x c => videoCommand s q.toNat pos.toNat false x c))

/-- VIDEO_ENCODE (R427 to R430). (DESIGN CHOICE, log entry 49) -/
def execVideoEncode (q : BitVec 12) (pos : BitVec 32) (s : State) : Out :=
  .next (runCmd s q.toNat pos.toNat 0x0F (fun x c => videoCommand s q.toNat pos.toNat true x c))

/-- VIDEO_BUDGET_OVERRUN (R432): a picture of a bounded decode session. -/
def execVideoBudgetOverrun (p : BitVec 4) (session : BitVec 16) (s : State) : Out :=
  match (partAt s p.toNat).bind (fun x => mapGet x.sessions session.toNat) with
  | none => .next s
  | some v =>
    if v.bounded then
      .next (modVideo (modSession s p.toNat session.toNat (fun y => { y with overrun := true })) v.unit
        (fun u => { u with overruns := u.overruns + 1 }))
    else .next s

/-- The sessions that satisfy a test end: their uncommitted commands end with a status (R435). -/
def endSessions (s : State) (status : Nat) (t : Nat → VideoSession → Bool) : State :=
  let hit := s.partitions.flatMap (fun e => (e.2.sessions.filter (fun x => t e.1 x.2)).map (fun x => (e.1, x.1)))
  let cmds := cmdsWhere s (fun _ x c => (c.opcode == 0x0E || c.opcode == 0x0F) && c.phase == .admitted
    && hit.contains (x.partition, c.field 0x20 2))
  let s1 := endCmds s cmds status
  { s1 with partitions := mapAll s1.partitions (fun p x => { x with sessions := mapFilter x.sessions (fun _ v => !t p v) }) }

/-- VIDEO_UNIT_INTERNAL_ERROR (R435, Table 16-2 code 0x0502): the unit's sessions end and it restarts. -/
def execVideoUnitInternalError (unit : BitVec 2) (s : State) : Out :=
  let u := unit.toNat
  let s1 := endSessions (logError s 4 12 0x0502 0xFF 0xFFFF 0 0 u) stAbortedReset (fun _ v => v.unit == u)
  .next (modVideo s1 u (fun v => { v with restarting := true }))

/-- VIDEO_UNIT_RESTART: the unit accepts sessions again. -/
def execVideoUnitRestart (unit : BitVec 2) (s : State) : Out :=
  .next (modVideo s unit.toNat (fun v => { v with restarting := false }))

end Sys2Proof.Machine
end

