-- ==== Sys2Proof/Machine/Resets.lean ====
section
/-! DEFINITION. What resets, removal and Decaf entry share: commits that finish, queues and regions that end, server boot, Decaf entry (R231 to R233, R385 to R387, R457 to R469). -/

namespace Sys2Proof.Machine

/-! ### Commands and queues -/

/-- A commit in progress finished at once: spill records, then the rest (R113, R457). -/
def finishCommit (s : State) (q pos : Nat) : State :=
  match queueAt s q, cmdAt s q pos with
  | some x, some c =>
    if c.cores.any (fun k => (coreAt s k).committing) then
      let s1 := c.cores.foldl (fun t k => (List.range (t.spills.filter (fun r => r.core == k)).length).foldl (fun u _ => applySpill u k) t) s
      let s2 := c.cores.foldl (fun t k => modCore t k (fun y => { y with committing := false })) s1
      commitRest s2 q x.partition c
    else s
  | _, _ => s

/-- Every commit in progress of the commands that satisfy a test finished. -/
def finishCommits (s : State) (t : Nat → Queue → Cmd → Bool) : State :=
  (cmdsWhere s t).foldl (fun u e => finishCommit u e.1 e.2) s

/-- A queue context freed: its share and tiles are free, its sessions are over, its outstanding descriptor read is dropped. -/
def freeQueue (s : State) (q status : Nat) : State :=
  let s1 := endSessions s status (fun _ v => v.queue == q)
  let s2 := descReadDone s1 q
  { s2 with queues := mapErase s2.queues q }

/-- Queue contexts destroyed: their uncommitted commands end with a status, then the contexts are freed. -/
def destroyQueues (s : State) (t : Nat → Queue → Bool) (status : Nat) : State :=
  let qs := (s.queues.filter (fun e => t e.1 e.2)).map (·.1)
  let s1 := endCmds s (cmdsWhere s (fun q _ _ => qs.contains q)) status
  qs.foldl (fun u q => freeQueue u q status) s1

/-- FW_STAGE requests of a function that a reset interrupts leave their inactive slots invalid (R482). -/
def spoilStaging (s : State) (fn : Nat) : State :=
  match funcAt s fn with
  | none => s
  | some f => (f.long.filter (fun r => r.cmd == 0x1C)).foldl (fun t r =>
      modComponent t (fieldAt r.payload 0 1) (fun c =>
        if c.activeB then { c with factory := false, slotA := none, staged := false } else { c with slotB := none, staged := false })) s

/-- A replay of a partition ended without an answer of its own. -/
def dropReplay (s : State) (p : Nat) : State := modPart s p (fun x => { x with replay := none })

/-- Long mailbox requests of a function answered with a status. -/
def abortLong (s : State) (fn status : Nat) : State :=
  match funcAt s fn with
  | none => s
  | some f => f.long.foldl (fun t r => answer t fn r status []) (dropReplay (if status = stAbortedReset then spoilStaging s fn else s) fn)

/-! ### Window slots and placement regions -/

/-- The DEVICE slots of one slot set become RETIRED (Table 12-6). -/
def retireSet (s : State) (y : SlotSet) : State :=
  (List.range y.slots).foldl (fun t i =>
    let a := y.array + 8 * i
    match cp32At (cohRead t a 8) 0 with
    | some v => if natField v 0 8 = 2 then cohWrite t a (cp32Bytes (ownerWord 3 (natField v 16 16))) else t
    | none => t) s

/-- The DEVICE slots of a function's sets become RETIRED. -/
def retireSlots (s : State) (fn : Nat) : State :=
  match funcAt s fn with
  | none => s
  | some f => f.slotSets.foldl (fun t e => if e.2.removed then t else retireSet t e.2) s

/-- Bytes of a range zeroed, cached copies dropped. -/
def scrubRange (s : State) (a n : Nat) : State :=
  let t := discardRange s a n
  clearPoison { t with mem := memClear t.mem a n } a n

/-- A region becomes FREE: its granules are unmapped (R387), and it is scrubbed where PARTITION_DESTROY asks for it. -/
def freeRegion (s : State) (fn i : Nat) : State :=
  match regionAt s fn i with
  | none => s
  | some r =>
    let s1 := if r.scrub then scrubRange (scrubRange s r.base r.bytes) r.log r.logBytes else s
    modFunc s1 fn (fun f => { f with
      regions := mapErase f.regions i,
      windows := mapFilter f.windows (fun _ g => match g with
        | .placement j _ => j != i
        | _ => true) })

/-- Causes after which a closed region becomes FREE. -/
def PlaceCause.frees (c : PlaceCause) : Bool :=
  match c with
  | .reset => true
  | .disable => true
  | .unregister => true
  | _ => false

/-- A region becomes CLOSED: its message once on entry; then FREE where its cause says so (R385, R387). -/
def closeRegion (s : State) (fn i : Nat) : State :=
  match regionAt s fn i with
  | none => s
  | some r =>
    let s1 := if r.state = .closed then s else sendMsix (modRegion s fn i (fun y => { y with state := .closed })) fn r.vector
    if r.cause.frees then freeRegion s1 fn i else s1

/-- The code of a withdrawal's cause (Table 12-10). -/
def PlaceCause.code (c : PlaceCause) : Nat :=
  match c with
  | .none => 0
  | .full => 1
  | .reset => 2
  | .disable => 3
  | .unregister => 4
  | .removal => 5

/-- A region withdrawn (R385): RUNOUT, its message, an information entry with region, cause and PR_PLACED. One that has
closed after FULL has no run-out left, and becomes FREE. (DEDUCED, log entry 64) -/
def withdrawRegion (s : State) (fn i : Nat) (cause : PlaceCause) : State :=
  match regionAt s fn i with
  | none => s
  | some r =>
    let s1 := modRegion s fn i (fun y => { y with
      state := if y.state = .open then .runout else y.state, cause := cause, since := aonNow s,
      seq := if y.state = .open then 0 else y.seq })
    let s2 := logError (sendMsix s1 fn r.vector) 0 0xFF 0x0808 fn 0xFFFF 0 r.base (i + 2 ^ 8 * cause.code + 2 ^ 64 * r.placed.toNat)
    if r.state = .closed ∧ cause.frees then freeRegion s2 fn i else s2

/-- Every region of a function withdrawn for a cause. -/
def withdrawRegions (s : State) (fn : Nat) (cause : PlaceCause) : State :=
  match funcAt s fn with
  | none => s
  | some f => (mapKeys f.regions).foldl (fun t i => withdrawRegion t fn i cause) s

/-! ### Job, flows, repairs -/

/-- The open step and evaluation window of a partition closed by a reset (R457). -/
def closeStep (s : State) (p : Nat) : State := modJob s p (fun j => { j with step := none, eval := none })

/-- The flows of a partition cleared, with a new generation (R342). -/
def clearFlows (s : State) (p : Nat) : State :=
  { s with flows := mapFilter s.flows (fun _ f => f.partition != p), sec := { s.sec with generation := s.sec.generation + 1 } }

/-- The repairs of a partition after a reset that keeps T1: tier map, lane journals, re-layout journals (R176, R303, R259). -/
def repairPartition (s : State) (p : Nat) : State :=
  let s1 := modPart (rebuildSpares (revertMigrations s p) p) p (fun x =>
    { x with objects := mapAll x.objects (fun _ o => { o with closing := false, pinned := [] }) })
  match jobAt s1 p with
  | none => s1
  | some j => (mapKeys j.tables).foldl (fun t id => repairRelayout t p id) s1

/-- Held requests and outstanding reads of a partition are gone. -/
def dropTierWork (s : State) (p : Nat) : State :=
  { s with holds := mapFilter s.holds (fun _ h => h.partition != p), hostReads := mapFilter s.hostReads (fun _ r => r.partition != p) }

/-! ### Server boot (R231, R232, Table 7-5) -/

/-- The harts of a partition, ascending. -/
def hartsOf (s : State) (p : Nat) : List Nat := (List.range 64).filter (fun h => hartOwner s h == p)

/-- The harts of a partition held in reset; an SRV domain without a hart out of reset goes OFF (Table 15-1). -/
def holdHarts (s : State) (p : Nat) : State :=
  let own := hartsOf s p
  { s with harts := Vector.ofFn (fun (i : Fin 64) => if own.contains i.val then Hart.reset else s.harts[i]) }

/-- Bytes put into the pages of a range that a partition owns. -/
def putOwned (s : State) (p a : Nat) (bs : List Byte) : State :=
  (List.range ((bs.length + 65535) / 65536)).foldl (fun t i =>
    if ownsT1 t p (a + i * 65536) 65536 then cohWrite t (a + i * 65536) ((bs.drop (i * 65536)).take 65536) else t) s

/-- A CP32 register value. -/
def cp32Reg (v : Nat) : Word64 := cp32 (BitVec.ofNat 32 v)

/-- BOOT_STATUS of a partition written. -/
def setBoot (s : State) (p step status : Nat) : State :=
  modPart s p (fun x => { x with server := { x.server with boot := { step := step, status := cp32Reg status, since := aonNow s } } })

/-- Table 7-5: the partition's harts held, the image loaded and verified, the device tree after it, BOOT_STATUS, the release.
The spec gives no place for the image and no bytes for the device tree: both are free. (DESIGN CHOICE, log entry 65) -/
def bootServers (s : State) (p : Nat) : State :=
  let s0 := holdHarts s p
  if (hartsOf s0 p).isEmpty then s0
  else
    match loadComponent s0 2 with
    | (s1, none) => setBoot (logError s1 4 12 0x0503 p 0xFFFF 0 0 2) p 0 0xFFFF
    | (s1, some img) =>
      let (page, s2) := drawFree s1 (usableBytes s1 / 65536)
      let (n, s3) := drawFree s2 65536
      let (blob, s4) := drawBytes s3 n
      let base := page * 65536
      let dt := base + (img.payload.length + 65535) / 65536 * 65536
      let s5 := setBoot (putOwned (putOwned s4 p base img.payload) p dt blob) p 5 1
      let own := hartsOf s5 p
      let s6 := { s5 with harts := Vector.ofFn (fun (i : Fin 64) =>
        if own.contains i.val then
          { Hart.reset with
            released := true, pc := BitVec.ofNat 64 (base + fieldAt img.header 0x01C 4),
            x := (Hart.reset.x.set 10 (BitVec.ofNat 64 i.val)).set 11 (BitVec.ofNat 64 dt) }
        else s5.harts[i]) }
      (List.range 4).foldl (fun t k =>
        if own.any (fun h => h / 16 == k) then
          modDomain t (7 + k) (fun d => if d.phase = .run then d else { d with phase := .run, moving := none, starts := d.starts + 1, mhz := 2000 })
        else t) s6

/-- The partition's server cores restarted (R233, code 0x0501): its local queue contexts are destroyed first. -/
def restartServers (s : State) (p : Nat) : State :=
  let mine : Nat → Queue → Bool := fun _ x => x.partition == p && x.isLocal
  let s1 := destroyQueues (finishCommits s (fun q x _ => mine q x)) mine stAbortedReset
  bootServers s1 p

/-! ### Function-level and partition reset (Table 16-1) -/

/-- A function as its reset leaves it: regions run out, the local mailbox stays. -/
def Func.afterReset (f : Func) : Func :=
  { Func.reset with
    regions := f.regions, loc := f.loc, lastLocal := f.lastLocal,
    windows := mapFilter f.windows (fun _ g => match g with
      | .placement _ _ => true
      | _ => false),
    inService := f.inService.bind (fun r => if r.isLocal then some r else none) }

/-- Function-level reset. (DESIGN CHOICE, log entry 12) (DEDUCED, log entry 64) -/
def functionReset (s : State) (fn : Nat) : State :=
  let mine : Nat → Queue → Bool := fun _ x => x.partition == fn && !x.isLocal
  let s1 := finishCommits s (fun q x _ => mine q x)
  let s2 := destroyQueues s1 mine stAbortedReset
  let s3 := retireSlots (withdrawRegions (abortLong s2 fn stAbortedReset) fn .reset) fn
  let s4 := modFunc s3 fn Func.afterReset
  repairPartition (clearFlows (closeStep s4 fn) fn) fn

/-- Everything that a partition reset ends, short of the reboot of its server cores. -/
def partitionStop (s : State) (p : Nat) : State :=
  let mine : Nat → Queue → Bool := fun _ x => x.partition == p
  let s1 := finishCommits s (fun q x _ => mine q x)
  let s2 := destroyQueues s1 mine stAbortedReset
  let s3 := retireSlots (withdrawRegions s2 p .reset) p
  let s4 := modPart s3 p (fun x => { x with signals := [], replay := none, server := ServerRegs.reset })
  let s5 := modFunc s4 p (fun f => { f with loc := Mailbox.reset })
  dropTierWork (clearFlows (closeStep (holdHarts s5 p) p) p) p

/-- Partition reset (Table 16-1): long requests, too, are answered with ABORTED_RESET. (DEDUCED, log entry 64) -/
def partitionReset (s : State) (p : Nat) : State :=
  let s1 := partitionStop s p
  bootServers (repairPartition (abortLong s1 p stAbortedReset) p) p

/-! ### State records (R454, R463, R467) -/

/-- Powered hours: those recorded before power-on and those that AON has counted since (R453). -/
def hoursNow (s : State) : Nat := s.hours + (aonNow s).toNat / 90000000000

/-- The contents of the ageing record: hours, then seven numbers for each die; an exhausted die shows an offset beyond 24 steps
or a ceiling below 200 permille (R453, R470). -/
def ageingRecord (s : State) : List Nat :=
  hoursNow s :: (s.dies.toList.zipIdx).flatMap (fun e =>
    let d := e.1
    [if d.exhausted ∧ 8 ≤ e.2 then 25 else d.voff, if d.exhausted ∧ e.2 < 8 then 150 else d.ageCeil, d.lastSlack, d.minSlack,
     d.roPpm, d.lastHours, d.checkpoints])

/-- The committed and open step of every partition. -/
def stepsNow (s : State) : List (Nat × Nat × Nat) :=
  s.partitions.map (fun e => (e.1, (e.2.job.map (·.committed)).getD 0, ((e.2.job.bind (·.step)).map (·.step)).getD 0))

/-- The state records written to flash: the Decaf record, the error log, the ageing record. -/
def writeStateRecords (s : State) (cause : Nat) : State :=
  { s with flash := { s.flash with
      decaf := some { cause := cause, aon := aonNow s, steps := stepsNow s, reported := false },
      log := s.fault.log, logNext := s.fault.nextEntry, ageing := some (ageingRecord s) } }

/-! ### Decaf entry (R466, Table 16-6) -/

/-- ALERT_N causes: 1 low input, 2 high input, 3 cap excursion, 4 Decaf mode, 5 ROM recovery. -/
def alertDecaf : Nat := 4

/-- Core windows lost: scratch and WGB read as zero (R38). -/
def loseWindows (s : State) : State := { s with mem := s.mem.filter (fun c => decide (c.1 < coreWindowBase)), cores := [], spills := [] }

/-- Every cached line recalled, dirty data written to its place. -/
def recallAll (s : State) : State :=
  ((s.caches.flatMap (fun e => mapKeys e.2)).dedup).foldl recallLine s

/-- Domains of a range of codes set to a phase. (DEDUCED, log entry 73) -/
def setDomains (s : State) (codes : List Nat) (ph : DomPhase) : State :=
  codes.foldl (fun t c => modDomain t c (fun d => { d with phase := ph, moving := none })) s

/-- The units that Decaf entry stops: cores, video units, ports, server cores; their domains go OFF. (DEDUCED, log entry 66) -/
def stopUnits (s : State) : State :=
  let s1 := loseWindows (recallAll s)
  let s2 := { s1 with
    harts := Vector.replicate 64 Hart.reset,
    ports := s1.ports.map (fun x => { x with phase := .disabled, secured := false }) }
  setDomains s2 ((List.range 4).map (7 + ·) ++ (List.range 20).map (12 + ·) ++ (List.range 4).map (36 + ·)) .off

/-- The Decaf notice in the PF0 telemetry ring (R468). -/
def decafNotice (s : State) (code : Nat) : State :=
  telemetryPf0 s 0x06 (natToBytes 8 code ++ natToBytes 8 (aonNow s).toNat)

/-- A fault of module class: its entry, and Decaf mode where the module is not in it yet (R460, R466). (DEDUCED, log entry 66) -/
def enterDecaf (s : State) (die code addr detail : Nat) : State :=
  let s1 := logError s 6 die code 0xFF 0xFFFF 0 addr detail
  if s1.fault.decaf.isSome then s1
  else
    let s2 := raiseAplic (raiseAlert s1 alertDecaf) 2
    let s3 := finishCommits s2 (fun _ _ _ => true)
    let s4 := endCmds s3 (cmdsWhere s3 (fun _ _ _ => true)) stAbortedDecaf
    let s5 := (mapKeys s4.funcs).foldl (fun t fn => abortLong t fn stAbortedDecaf) s4
    let s6 := (mapKeys s5.partitions).foldl (fun t p => journalOutcome t p 6 (natToBytes 2 code)) s5
    let d : Decaf := { cause := code, since := aonNow s6, flushRunning := false, flushDone := false }
    let s7 := { s6 with fault := { s6.fault with decaf := some d, causeCode := code, bootCause := 0 } }
    let shadow := statusShadow s7
    let s8 := endSessions s7 stAbortedDecaf (fun _ _ => true)
    let s9 := { s8 with fault := { s8.fault with shadow := shadow } }
    decafNotice (writeStateRecords (stopUnits s9) code) code

/-! ### Loss of power and power-on (Table 16-1, R458) -/

/-- A tiered object as the configuration store restores it: every page in T2. (DESIGN CHOICE, log entry 67) -/
def restoreObject (s : State) (o : TieredObject) : State × TieredObject :=
  ({ s with mem := (List.range o.pages).foldl (fun m i => memPutBytes m (o.mapAddr + 8 * i) (cp32Bytes (mapValue 0 .t2 0))) s.mem },
   { o with free := o.pool, resident := [], counts := [], pinned := [], closing := false })

/-- A job as the configuration store restores it. (DESIGN CHOICE, log entry 67) -/
def restoreJob (j : Job) : Job :=
  { j with
    step := none, eval := none, lastPlan := none, commit := none, retention := none, early := [], collSeq := [], phaseRecord := none,
    busy := [], lagRecords := 0, testScale := true, reseedAgain := [],
    tables := mapAll j.tables (fun _ t => { t with pendingStep := none, shadow := [] }),
    drip := j.drip.map (fun d => { d with staged := [], ready := [], behind := [], behindPages := [], recordsInStep := 0 }) }

/-- A partition as the configuration store restores it after a loss of power. -/
def restorePartition (x : Partition) : Partition :=
  { x with
    tier := { TierRegs.reset with eskor := natBit x.modes 0 }, migs := [], migQueue := [], server := ServerRegs.reset, signals := [],
    commitSeq := 0, admitted := 0, journal := Journal.off, replay := none, sessions := [], job := x.job.map restoreJob }

/-- Everything lost but module flash, OTP and the host's own memory: no power (R457, R500). (DESIGN CHOICE, log entry 67) -/
def powerOff (s0 : State) : State :=
  let s := spoilStaging s0 0
  let fresh := State.reset
  let fns := s.partitions.map (fun e => (e.1, Func.reset))
  { fresh with
    pending := s.pending, big := s.big, flash := s.flash, hours := hoursNow s, hostMem := s.hostMem, hostOut := s.hostOut,
    portOut := s.portOut, free := s.free, funcs := fns,
    partitions := mapAll s.partitions (fun _ x => restorePartition x),
    sec := { fresh.sec with otpVersion := s.sec.otpVersion, otpDebugLock := s.sec.otpDebugLock },
    life := { Life.off with stopped := true } }

/-- The components whose trial had begun have failed it (R465). -/
def failTrials (s : State) : State :=
  (List.range 5).foldl (fun t c => if (componentAt t c).trying then failTrial t c else t) s

/-! ### Module reset (Table 16-1, R459) -/

/-- What a spill record in progress leaves at its destination: any mixture of old and new data (R109). -/
def tearSpill (s : State) (r : SpillRecord) : State :=
  let (b, s1) := drawBytes s 0x4000
  let s2 := cohWrite s1 r.desc.addr b
  if r.desc.final then
    let (n, s3) := drawBytes s2 16
    cohWrite s3 r.desc.normAddr n
  else s2

/-- Commits stop at once: each core's oldest spill record is torn, later ones are dropped. (DEDUCED, log entry 63) -/
def tearCommits (s : State) : State :=
  ((s.spills.map (·.core)).dedup).foldl (fun t k =>
    match s.spills.find? (fun r => r.core == k) with
    | some r => tearSpill t r
    | none => t) s

/-- A job across a module reset. (DEDUCED, log entry 63) -/
def keepJob (j : Job) : Job :=
  { j with
    step := none, eval := none, commit := none, early := [], phaseRecord := none, busy := [], lagRecords := 0,
    drip := j.drip.map (fun d => { d with staged := [], ready := [], recordsInStep := 0 }) }

/-- A partition across a module reset: the configuration store and what T1 holds. (DEDUCED, log entry 63) -/
def keepPartition (x : Partition) : Partition :=
  { x with server := ServerRegs.reset, signals := [], journal := Journal.off, replay := none, sessions := [], job := x.job.map keepJob }

/-- Module reset, at the assertion of PERST_N. (DEDUCED, log entry 63) -/
def moduleReset (s : State) : State :=
  let s1 := tearCommits (spoilStaging { s with life := { s.life with quiesce := true } } 0)
  let s2 := failTrials (endCmds s1 (cmdsWhere s1 (fun _ _ _ => true)) stAbortedReset)
  let s3 := loseWindows s2
  let alerts := s3.power.alerts.filter (fun a => a != alertDecaf && a != 5)
  let fns := s3.partitions.map (fun e => (e.1, Func.reset))
  let aon := s3.domains
  let fresh := State.reset
  { s3 with
    life := { s3.life with running := false, vfEnable := false, attested := false, quiesce := false },
    power := { s3.power with alerts := alerts },
    sec := { s3.sec with
      challenge := none, romRecovery := false, sessions := [], ide := fresh.sec.ide, macsec := fresh.sec.macsec,
      generation := s3.sec.generation + 1 },
    fault := { s3.fault with decaf := none, causeCode := 0, shadow := [], resets := s3.fault.resets + 1 },
    domains := aon.map (fun d => { d with phase := .run, moving := none }),
    clusterOff := 0, arbLast := fresh.arbLast, channels := fresh.channels, caches := [], homes := fresh.homes, holds := [],
    hostReads := [], partitions := mapAll s3.partitions (fun _ x => keepPartition x), funcs := fns, queues := [],
    harts := fresh.harts, imsic := [], aplic := 0, ports := fresh.ports, flows := [], colls := fresh.colls, videos := fresh.videos,
    link := .down, linkReplays := fresh.linkReplays, etherType := 0x88B5, telemetry := none }

end Sys2Proof.Machine
end

