-- ==== Sys2Proof/Machine/Host.lean ====
section
/-! DEFINITION. What the host and adapters do on the link: BAR2, placement, AtomicOps, configuration space, MSI-X (R361 to R370, R380, R383 to R387, R391). -/

namespace Sys2Proof.Machine

/-- Does the link carry requests to the module: trained, MP running, not in removal quiesce? -/
def linkServes (s : State) : Bool := s.life.running && !s.life.quiesce && linkUp s

/-- A completion sent: 0 success, 1 Unsupported Request, 2 Request Retry Status, 4 success with the poisoned bit. -/
def complete (s : State) (status : Nat) (bytes : List Byte) : State := sendHost s (.completion status bytes)

/-! ### MSI-X (R365) -/

/-- Pending messages of unmasked entries sent. -/
def sendPending (s : State) (fn : Nat) : State :=
  match funcAt s fn with
  | none => s
  | some f =>
    if !f.msixEnabled ∨ f.functionMask then s
    else
      let open' (i : Nat) : Bool := !(mapGetD f.msix i { addr := 0, data := 0, masked := true }).masked
      (f.pba.filter open').foldl (fun t i => sendMsix t fn i) (modFunc s fn (fun g => { g with pba := g.pba.filter (fun i => !open' i) }))

/-- MSIX_ENTRY_UNMASK: the entry's mask cleared; a pending message is sent. -/
def execMsixEntryUnmask (fn : BitVec 4) (entry : BitVec 11) (s : State) : Out :=
  let n := fn.toNat
  let i := entry.toNat
  .next (sendPending (modFunc s n (fun f => { f with
    msix := mapSet f.msix i { mapGetD f.msix i { addr := 0, data := 0, masked := true } with masked := false } })) n)

/-! ### Configuration space (R364, R365, R391) -/

/-- Is a function visible in configuration space: PF0, or a VF once VF Enable is set and not in ROM recovery (R481)? -/
def functionVisible (s : State) (fn : Nat) : Bool := decide (fn = 0) || (s.life.vfEnable && !s.sec.romRecovery)

/-- A read of the MSI-X control word: enable, function mask, table size 2,048; the capability header below it is free. -/
def msixControlWord (f : Func) (low : Nat) : Nat :=
  low % 65536 + 2047 * 65536 + 2 ^ 30 * bitOf f.functionMask + 2 ^ 31 * bitOf f.msixEnabled

/-- CONFIGURATION_REQUEST (R391): Request Retry Status until firmware is attested. The offsets of the capabilities are not the
manual's: they are constants of `Config`. Other words of configuration space read as free values and keep nothing. (PRESUMED, log entry 62) -/
def execConfigurationRequest (fn : BitVec 4) (off : BitVec 12) (write : Bool) (value : BitVec 32) (s : State) : Out :=
  let n := fn.toNat
  .next (
    if !s.life.powered ∨ s.life.stopped ∨ s.life.quiesce then s
    else if !s.life.attested then complete s 2 []
    else if !functionVisible s n then complete s 1 []
    else
      match funcAt s n with
      | none => complete s 1 []
      | some f =>
        if write then
          if off.toNat = Config.msixControl then
            complete (sendPending (modFunc s n (fun g => { g with msixEnabled := value.getLsbD 31, functionMask := value.getLsbD 30 })) n) 0 []
          else if n = 0 ∧ off.toNat = Config.sriovControl then
            complete { s with life := { s.life with vfEnable := value.getLsbD 0 } } 0 []
          else complete s 0 []
        else
          let (v, s1) := drawFree s (2 ^ 32)
          let w := if off.toNat = Config.msixControl then msixControlWord f v
            else if n = 0 ∧ off.toNat = Config.sriovControl then v / 2 * 2 + bitOf s.life.vfEnable else v
          complete s1 0 (natToBytes 4 w))

/-! ### The shared window (R367 to R370) -/

/-- What a BAR2 request of a function lands on. -/
inductive WindowHit where
  | unmapped
  | memory (addr : Nat)
  | window (core off : Nat)
  | readout (region addr : Nat)
  | placement (region off : Nat)

/-- The target of BAR2 offset `off`. -/
def windowHit (s : State) (f : Func) (off : Nat) : WindowHit :=
  if f.bar2Size ≤ off ∨ s.sec.romRecovery then .unmapped
  else
    let o := off % 2 ^ 20
    match mapGet f.windows (off / 2 ^ 20) with
    | none => .unmapped
    | some (.memory a) => .memory (a + o)
    | some (.coreWindow c) => if o < 0x40000 ∧ s.fault.decaf.isNone then .window c o else .unmapped
    | some (.placement r b) => .placement r (b + o)
    | some (.readout r a) => .readout r (a + o)

/-- A BAR2 request to unmapped granule space counted. -/
def countUnmapped (s : State) (fn : Nat) : State := modFunc s fn (fun f => { f with bar2Unmapped := f.bar2Unmapped + 1 })

/-- A request dropped at a placement region (Tables 12-4, 12-10). (DEDUCED, log entry 69) -/
def dropPlacement (s : State) (fn i : Nat) (isWrite : Bool) : State :=
  modRegion (modFunc s fn (fun f => { f with placeDropped := f.placeDropped + 1 })) fn i
    (fun r => { r with dropped := r.dropped + 1, droppedSince := r.droppedSince || isWrite })

/-- BAR2_READ (R367, R383, R384, R461). (DEDUCED, log entry 69) -/
def execBar2Read (fn : BitVec 4) (requester : BitVec 16) (off : BitVec 36) (len : BitVec 13) (s : State) : Out :=
  let n := fn.toNat
  let k := len.toNat
  .next (
    if !linkServes s ∨ k = 0 then s
    else
      match funcAt s n with
      | none => complete s 1 []
      | some f =>
        match windowHit s f off.toNat with
        | .unmapped => complete (countUnmapped s n) 1 []
        | .memory a => complete s (if rangePoisoned s a k then 4 else 0) (cohRead s a k)
        | .window c o =>
          if coreHeld s c (decide (0x30000 < o + k)) then wakeCore s c
          else if o + k ≤ 0x40000 then complete s 0 (memBytes s.mem (coreAddr c o) k) else complete (countUnmapped s n) 1 []
        | .readout r a =>
          if ((mapGet f.readouts r).map (fun x => x.requesters.contains requester.toNat)).getD false then
            complete s (if rangePoisoned s a k then 4 else 0) (cohRead s a k)
          else complete (countUnmapped s n) 1 []
        | .placement r _ => complete (dropPlacement s n r false) 1 [])

/-- The slot set of a function whose ownership array covers a byte, with the address of the word (R369). -/
def slotArrayAt (f : Func) (a : Nat) : Option Nat :=
  (f.slotSets.find? (fun e => decide (e.2.array ≤ a ∧ a < e.2.array + 8 * e.2.slots))).map (fun e => e.2.array + (a - e.2.array) / 8 * 8)

/-- May the host write this value over an ownership word (R370, Table 12-6)? -/
def ownerWriteOk (s : State) (a : Nat) (bs : List Byte) : Bool :=
  match cp32At bs 0, cp32At (cohRead s a 8) 0 with
  | some new, some cur =>
    new == cur ||
      (natField cur 0 8 == 1 && natField new 16 16 == natField cur 16 16 && natField new 8 8 == 0
        && (natField new 0 8 == 2 || natField new 0 8 == 3))
  | _, _ => false

/-- Bytes of a host write to memory, 8-byte word by word, each ownership word checked. `fuel` is the number of words. -/
def hostWords (fn : Nat) : Nat → State → Func → Nat → List Byte → State
  | 0, s, _, _, _ => s
  | fuel + 1, s, f, a, bs =>
    if bs.isEmpty then s
    else
      let k := min bs.length (8 - a % 8)
      let w := bs.take k
      let s1 :=
        match slotArrayAt f a with
        | none => cohWrite s a w
        | some x =>
          if x = a ∧ k = 8 ∧ ownerWriteOk s a w then cohWrite s a w
          else modFunc s fn (fun g => { g with ownRejected := g.ownRejected + 1 })
      hostWords fn fuel s1 f (a + k) (bs.drop k)

/-- A host write to device memory (R367, R370): journal and re-layout take note of it. -/
def hostMemWrite (s : State) (fn : Nat) (f : Func) (a : Nat) (bs : List Byte) : State :=
  let near := f.slotSets.any (fun e => decide (e.2.array < a + bs.length ∧ a < e.2.array + 8 * e.2.slots))
  let s1 := if near then hostWords fn (bs.length / 8 + 2) s f a bs else cohWrite s a bs
  restartTouched (markExternal s1 fn a bs.length) fn a bs.length

/-! ### Placement (R383 to R388, R390) -/

/-- Bytes written straight to LPDDR5X, past the home nodes. -/
def directWrite (s : State) (a : Nat) (bs : List Byte) : State :=
  clearPoison { s with mem := memPutBytes s.mem a bs } a bs.length

/-- A write appended to a region's reserve log; one that does not fit closes the region (R385, R386). -/
def logPlacement (s : State) (fn i off : Nat) (bs : List Byte) : State :=
  match regionAt s fn i with
  | none => s
  | some r =>
    let e64 := pad64 (natToBytes 8 off ++ natToBytes 4 bs.length ++ natToBytes 4 r.seq ++ bs)
    if r.logUsed + e64.length ≤ r.logBytes then
      modRegion (directWrite s (r.log + r.logUsed) e64) fn i (fun y => { y with
        logUsed := y.logUsed + e64.length, seq := (y.seq + 1) % 2 ^ 32, placed := bump y.placed bs.length, since := aonNow s })
    else closeRegion (dropPlacement s fn i true) fn i

/-- Is an IDE stream keyed (R390)? (DEDUCED, log entry 86) -/
def streamSecure (s : State) (i : Nat) : Bool := ((s.sec.ide[i]?).map (·.secure)).getD false

/-- A write that reaches a placement region at a data-area offset (R384 to R387). -/
def placeWrite (s : State) (fn i off requester : Nat) (stream : Option Nat) (bs : List Byte) : State :=
  match regionAt s fn i with
  | none => s
  | some r =>
    let permitted := r.requesters.contains requester && (decide (r.stream = 0xFF) || (decide (stream = some r.stream) && streamSecure s r.stream))
    if !permitted then dropPlacement s fn i true
    else
      match r.state with
      | .free => s
      | .open =>
        if off + bs.length ≤ r.limit then
          modRegion (directWrite s (r.base + off) bs) fn i (fun y => { y with placed := bump y.placed bs.length })
        else logPlacement (withdrawRegion s fn i .full) fn i off bs
      | .runout => logPlacement s fn i off bs
      | .closed => dropPlacement s fn i true

/-- PLACEMENT_WRITE: kind 0 a memory write, 1 a read, 2 an AtomicOp. -/
def execPlacementWrite (fn : BitVec 4) (off : BitVec 36) (requester : BitVec 16) (stream : BitVec 3) (kind : BitVec 2)
    (bytes : List Byte) (s : State) : Out :=
  let n := fn.toNat
  .next (
    if !linkServes s then s
    else
      match funcAt s n with
      | none => s
      | some f =>
        match windowHit s f off.toNat with
        | .placement r o =>
          if kind = 0 then placeWrite s n r o requester.toNat (some stream.toNat) bytes
          else if kind = 1 ∨ kind = 2 then complete (dropPlacement s n r false) 1 [] else s
        | _ => s)

/-- RUNOUT_CLOSE_TIMER (R385): 10 ms without an arriving write. -/
def execRunoutCloseTimer (fn : BitVec 4) (region : BitVec 6) (s : State) : Out :=
  let n := fn.toNat
  .next (match regionAt s n region.toNat with
    | none => s
    | some r => if r.state = .runout ∧ r.cause ≠ .full ∧ 250000 ≤ aonSince s r.since then closeRegion s n region.toNat else s)

/-- A region reopened after FULL: its log is emptied (R387). -/
def reopenRegion (s : State) (fn i : Nat) : State :=
  modRegion s fn i (fun r =>
    if (r.state = .runout ∨ r.state = .closed) ∧ r.cause = .full then { r with state := .open, cause := .none, logUsed := 0, seq := 0 }
    else r)

/-- PR_CTL_REOPEN (R387). -/
def execPrCtlReopen (fn : BitVec 4) (region : BitVec 6) (s : State) : Out := .next (reopenRegion s fn.toNat region.toNat)

/-- BAR2_WRITE (R367, R370). -/
def execBar2Write (fn : BitVec 4) (requester : BitVec 16) (off : BitVec 36) (bytes : List Byte) (s : State) : Out :=
  let n := fn.toNat
  .next (
    if !linkServes s ∨ bytes.isEmpty then s
    else
      match funcAt s n with
      | none => s
      | some f =>
        match windowHit s f off.toNat with
        | .unmapped => countUnmapped s n
        | .memory a => hostMemWrite s n f a bytes
        | .window c o =>
          if coreHeld s c false then wakeCore s c else
          let room := 0x30000 - o
          let s1 := if room = 0 then s else { s with mem := memPutBytes s.mem (coreAddr c o) (bytes.take room) }
          if room < bytes.length then countUnmapped s1 n else s1
        | .readout _ _ => countUnmapped s n
        | .placement r o => placeWrite s n r o requester.toNat none bytes)

/-- FN_FLUSH_READ (R380): every write of the model is performed when its command ends, so the read completes at once. -/
def execFnFlushRead (fn : BitVec 4) (s : State) : Out :=
  .next (
    if !linkServes s then s
    else
      match funcAt s fn.toNat with
      | none => complete s 1 []
      | some f => complete s 0 (natToBytes 8 f.flush.toNat))

/-! ### What BAR0 reads (Tables 12-3 to 12-5, 12-10) -/

/-- The function registers (Table 12-4); the write-only mailbox registers read zero (R8). (DEDUCED, log entry 87) -/
def functionRegs (s : State) (fn : Nat) (f : Func) : List Nat :=
  [fn + 16 * bitOf (decide (fn ≠ 0)),
   bitOf (!f.disabled) + 2 * bitOf f.disabled + 4 * bitOf f.resetting + 8 * bitOf f.removal + 16 * bitOf s.fault.decaf.isSome,
   f.flush.toNat, 0, (cp32 f.host.rspTail).toNat, 0, f.dbRejected.toNat, f.dbAhead.toNat, f.bar2Unmapped.toNat,
   f.ownRejected.toNat, f.placeDropped.toNat, if fn = 0 then f.ideDrops.toNat else 0]

/-- The queue status block (Table 12-5); a context of another function or of a local submitter reads zero. -/
def queueStatus (s : State) (fn q : Nat) : List Nat :=
  match queueAt s q with
  | none => []
  | some x =>
    if x.isLocal ∨ x.partition ≠ fn then []
    else
      let code := match x.state with
        | .running => 1
        | .parked => 2
        | .disabled => 3
      [code + 2 ^ 32 * (if x.state = .parked then x.parkPos % 2 ^ 32 else 0), x.tail.toNat, x.head.toNat, x.records.toNat]

/-- Placement region registers (Table 12-10). -/
def placementRegs (r : Placement) : List Nat :=
  let code := match r.state with
    | .free => 0
    | .open => 1
    | .runout => 2
    | .closed => 3
  [code + 8 * r.cause.code, r.limit, r.placed.toNat, r.logUsed, r.dropped.toNat]

/-- Pending bits of 64 MSI-X entries from entry n on. -/
def pendingBits (f : Func) (n : Nat) : Nat := (List.range 64).foldl (fun v i => v + 2 ^ i * bitOf (f.pba.contains (n + i))) 0

/-- The aligned 8 bytes at an offset of a function's BAR0 (Table 12-3). -/
def bar0Word (s : State) (fn off : Nat) : Nat :=
  match funcAt s fn with
  | none => 0
  | some f =>
    if off < 0x1000 then nthReg (functionRegs s fn f) off
    else if 0x10000 ≤ off ∧ off < 0x14000 then fieldAt (mapGetD f.reqRing ((off - 0x10000) / 256) []) (off % 256) 8
    else if 0x14000 ≤ off ∧ off < 0x18000 then fieldAt (mapGetD f.rspRing ((off - 0x14000) / 256) []) (off % 256) 8
    else if 0x20000 ≤ off ∧ off < 0x40000 then nthReg (queueStatus s fn ((off - 0x20000) / 32)) (off % 32)
    else if 0x40000 ≤ off ∧ off < 0x41000 then
      ((mapGet f.regions ((off - 0x40000) / 64)).map (fun r => nthReg (placementRegs r) (off % 64))).getD 0
    else if 0x50000 ≤ off ∧ off < 0x50200 then mapGetD f.rcc ((off - 0x50000) / 8) 0
    else if 0x60000 ≤ off ∧ off < 0x68000 then
      let e := mapGetD f.msix ((off - 0x60000) / 16) { addr := 0, data := 0, masked := true }
      if off % 16 = 0 then e.addr else e.data + 2 ^ 32 * bitOf e.masked
    else if 0x68000 ≤ off ∧ off < 0x68100 then pendingBits f ((off - 0x68000) * 8)
    else 0

/-! ### AtomicOps (R204 to R206, R361) -/

/-- The operation of a PCI Express AtomicOp. -/
def hostOp (op : Nat) : Option AtomicOp :=
  match op with
  | 0 => some .add
  | 1 => some .swap
  | 2 => some .cas
  | _ => none

/-- HOST_ATOMICOP: op 0 FetchAdd, 1 Swap, 2 CAS, on 4 or 8 bytes; anything else ends with Unsupported Request. An ownership
word changes only as R370 lets the host change it. (DEDUCED, log entries 69, 91) -/
def execHostAtomicop (fn : BitVec 4) (off : BitVec 36) (op : BitVec 2) (size : BitVec 5) (operand cmp : BitVec 128) (s : State) :
    Out :=
  let n := fn.toNat
  let k := size.toNat
  .next (
    if !linkServes s then s
    else
      match funcAt s n with
      | none => complete s 1 []
      | some f =>
        match windowHit s f off.toNat with
        | .unmapped => complete (countUnmapped s n) 1 []
        | .placement r _ => complete (dropPlacement s n r false) 1 []
        | .window _ _ => complete s 1 []
        | .readout _ _ => complete (countUnmapped s n) 1 []
        | .memory a =>
          match hostOp op.toNat with
          | none => complete s 1 []
          | some o =>
            if (k ≠ 4 ∧ k ≠ 8) ∨ a % k ≠ 0 then complete s 1 []
            else
              let old := bytesToNat (cohRead s a k)
              let new := atomicResult o (8 * k) old (operand.toNat % 2 ^ (8 * k)) (cmp.toNat % 2 ^ (8 * k))
              let owned := (slotArrayAt f a).isSome
              if owned ∧ !(decide (k = 8) && ownerWriteOk s a (natToBytes 8 new)) then
                complete (modFunc s n (fun g => { g with ownRejected := g.ownRejected + 1 })) 0 (natToBytes k old)
              else
                let (v, s1) := atomicApply s 128 n a k o operand.toNat cmp.toNat false
                complete (restartTouched (markExternal s1 n a k) n a k) (if rangePoisoned s a k then 4 else 0) (natToBytes k v))

end Sys2Proof.Machine
end

