-- ==== Sys2Proof/Machine/Server.lean ====
section
/-! DEFINITION. Server cores: their accesses, performance requests, the IOMMU interface, boot, and register writes (R8, R36, R215 to R233). -/

namespace Sys2Proof.Machine

/-! ### Registers that writes act on (Tables 5-10, 7-3) -/

/-- IOMMU_PDTP: a mode above 3 is ignored, bits [59:44] stay zero. -/
def pdtpValue (old v : Word64) : Word64 :=
  if 3 < natField v.toNat 60 4 then old else BitVec.ofNat 64 (natField v.toNat 0 44 + natField v.toNat 60 4 * 2 ^ 60)

/-- An invalidation request (Table 7-4). -/
def invalOf (v : Word64) : IommuInval :=
  { pasid := natField v.toNat 0 20, all := natBit v.toNat 20, region := natBit v.toNat 21, va := natField v.toNat 22 42 }

/-- The server registers of a partition changed. -/
def modServer (s : State) (p : Nat) (f : ServerRegs → ServerRegs) : State :=
  modPart s p (fun x => { x with server := f x.server })

/-- The tier registers of a partition changed. -/
def modTier (s : State) (p : Nat) (f : TierRegs → TierRegs) : State :=
  modPart s p (fun x => { x with tier := f x.tier })

/-- A write of TIER_REQ (Table 5-11). -/
def tierRequest (s : State) (p : Nat) (v : Word64) : State :=
  let first := natField v.toNat 0 28
  let count := natField v.toNat 28 16
  let object := natField v.toNat 44 10
  match natField v.toNat 54 2 with
  | 1 => explicitRequest s p object first count .promote
  | 2 => explicitRequest s p object first count .demote
  | _ => dropRequests s p (requestPages s p object first count).length

/-- A write of a tier register; a read-only one ignores it, and so do the three limits a write of 0 (R186). -/
def writeTier (s : State) (p off : Nat) (v : Word64) : State :=
  match off with
  | 0x008 => if natField v.toNat 0 24 = 0 then s else modTier s p (fun t => { t with late := natField v.toNat 0 24 })
  | 0x010 => if natField v.toNat 0 32 = 0 then s else modTier s p (fun t => { t with limit := natField v.toNat 0 32 })
  | 0x018 => if natField v.toNat 0 32 = 0 then s else modTier s p (fun t => { t with deadline := natField v.toNat 0 32 })
  | 0x020 => tierRequest s p v
  | _ => s

/-- A write of IOMMU_INVAL: queued in arrival order (R228). -/
def invalidate (s : State) (p : Nat) (v : Word64) : State :=
  modServer s p (fun r => { r with invals := r.invals ++ [invalOf v] })

/-- A read of IOMMU_SYNC: every earlier invalidation has completed; the written process-directory root is in force from now on
(R228, R230). (DEDUCED, log entry 26) -/
def syncIommu (s : State) (p : Nat) : State :=
  modServer s p (fun r => { r with sync := bump r.sync r.invals.length, invals := [], pdtpActive := r.pdtp })

/-- A write of a server register by partition p. The local mailbox area is 8 KiB aligned: bit 12 stays zero. (DEDUCED, log entry 51) -/
def writeServer (s : State) (p off : Nat) (v : Word64) : State :=
  match off with
  | 0x00 => modServer s p (fun r => { r with pdtp := pdtpValue r.pdtp v })
  | 0x08 => invalidate s p v
  | 0x18 => modFunc (modServer s p (fun r => { r with lmbBase := BitVec.ofNat 64 (natField v.toNat 13 43 * 2 ^ 13) })) p
      (fun f => { f with loc := Mailbox.reset })
  | 0x20 => if inService s ∧ lmbBase s p ≠ 0 then writeMbxTail s p true v else s
  | _ => s

/-- What of the hub's block a server access meets (R230). -/
inductive HubGrant where
  | server (off : Nat)
  | tier (off : Nat)
  | imsic (hart file off : Nat)
  | doorbell (q off : Nat)
  | readOnly
  | foreign
  | denied

/-- The grant of a hub offset to partition p: `foreign` is another partition's IMSIC file. (DEDUCED, log entry 90) -/
def hubGrant (s : State) (p off : Nat) : HubGrant :=
  if 0x510000 + p * 0x100 ≤ off ∧ off < 0x510000 + (p + 1) * 0x100 then .server (off - 0x510000 - p * 0x100)
  else if 0x400000 + p * 0x1000 ≤ off ∧ off < 0x400000 + (p + 1) * 0x1000 then .tier (off - 0x400000 - p * 0x1000)
  else if 0xA00000 ≤ off ∧ off < 0xC00000 then
    let h := (off - 0xA00000) / 0x8000
    if hartOwner s h = p then .imsic h ((off - 0xA00000) % 0x8000 / 0x1000 + 1) (off % 0x1000) else .foreign
  else if 0xC00000 ≤ off ∧ off < 0xC40000 then .doorbell ((off - 0xC00000) / 0x40) (off % 0x40)
  else if 0x300000 ≤ off ∧ off < 0x301000 ∧ p = 0 then .readOnly
  else .denied

/-- May partition p read a register outside the hub: control blocks of its own cores; for partition 0, flow contexts (R230)? -/
def dieGrant (s : State) (p die off : Nat) : Bool :=
  if die < 8 then decide (off < 0x800000) && coreOwner s (die * 1024 + off / 0x2000) == p
  else decide (die < 12) && decide (p = 0) && decide (0x400000 ≤ off ∧ off < 0x540000)

/-- A store of hart h to a register (R230). Registers are 64 bits wide: a store of another size changes nothing. (DEDUCED, log entry 71) -/
def hartStoreReg (s : State) (h p a die off size : Nat) (v : Word64) : State :=
  if die ≠ 12 then hartFault s h 7 a
  else
    match hubGrant s p off with
    | .server o => if size = 8 ∧ o % 8 = 0 then writeServer s p o v else s
    | .tier o => if size = 8 ∧ o % 8 = 0 then writeTier s p o v else s
    | .imsic i file o => if size = 4 ∧ o = 0 then sendMsi s i file (natField v.toNat 0 32) else s
    | .doorbell q o => if o = 0 then localDoorbell s h q size v else hartFault s h 7 a
    | .readOnly => hartFault s h 7 a
    | .foreign => hartFault (isoViolation s p) h 7 a
    | .denied => hartFault s h 7 a

/-- The value that a load of hart h reads at a register, with the state after it; none for an access fault. (DEDUCED, log entry 71) -/
def hartLoadReg (s : State) (p die off size : Nat) : Option Nat × State :=
  let part (v : Option Nat) : Option Nat := v.map (fun x => natField x (8 * (off % 8)) (8 * size))
  if die ≠ 12 then (if dieGrant s p die off then (part (regRead s die off), s) else (none, s))
  else
    match hubGrant s p off with
    | .server o =>
      let t := if o / 8 = 2 then syncIommu s p else s
      (part (regRead t die off), t)
    | .tier _ => (part (regRead s die off), s)
    | .imsic _ _ _ => (some 0, s)
    | .doorbell q o =>
      match queueAt s q with
      | some x => if x.isLocal ∧ x.partition = p ∧ o < 8 then (some 0, s) else (none, s)
      | none => (none, s)
    | .readOnly => (part (regRead s die off), s)
    | .foreign => (none, isoViolation s p)
    | .denied => (none, s)

/-! ### Accesses of a server core (R34 to R36, R215 to R220, R461) -/

/-- A loaded value in a register: sign-extended where the instruction does so. -/
def loadValue (size : Nat) (signed : Bool) (v : Nat) : Word64 :=
  if signed then BitVec.ofNat 64 (intToNat 64 (natToInt (8 * size) v)) else BitVec.ofNat 64 v

/-- A store to main memory: in the hub cache's line where it is held in E or M, else at its place. -/
def hartWrite (s : State) (p a : Nat) (bs : List Byte) : State :=
  let t :=
    match cachedLine s 8 (lidOf a) with
    | some l =>
      if (l.state = .exclusive ∨ l.state = .modified) ∧ lidOf (a + bs.length - 1) = lidOf a ∧ !l.writeBack then
        let d := BitVec.ofNat 512 (bytesToNat (putBytes (natToBytes 64 l.data.toNat) (a % 64) bs))
        dropReservations (setLine s 8 (lidOf a) { l with state := .modified, data := d }) a bs.length
      else cohWrite s a bs
    | none => cohWrite s a bs
  restartTouched (markExternal t p a bs.length) p a bs.length

/-- Does the access of this kind fault whatever its target (R206, R219): 0 load, 1 store, 2 AMO, 3 LR and SC? -/
def attrFault (kind attr op size a : Nat) : Bool :=
  decide (2 ≤ kind ∧ a % size ≠ 0)
    || (kind == 2 && (match atomicOfCode op with | none => true | some o => o.isFp))
    || (decide (2 ≤ kind) && attr != 0 && (kind == 3 || decide (size < 4)))

/-- An access to main memory that the tiers let through. -/
def hartAccess (s : State) (h p kind attr op size a : Nat) (v : Word64) (rd : Nat) : State :=
  let old := bytesToNat (cohRead s a size)
  match kind with
  | 0 => setXReg s h rd (loadValue size (op == 0) old)
  | 1 => hartWrite s p a (natToBytes size v.toNat)
  | 2 =>
    match atomicOfCode op with
    | none => s
    | some o =>
      let bits := 8 * size
      let x := v.toNat % 2 ^ bits
      let cmp := ((s.harts[h]?).map (fun y => (xReg y rd).toNat)).getD 0 % 2 ^ bits
      if attr = 0 then setXReg (hartWrite s p a (natToBytes size (atomicResult o bits old x cmp))) h rd (loadValue size true old)
      else
        let (was, t) := atomicApply s (64 + h) p a size o x cmp (attr = 2 ∧ a < 0x20000000000)
        setXReg (restartTouched (markExternal t p a size) p a size) h rd (loadValue size true was)
  | _ =>
    if op = 0 then modHart (setXReg s h rd (loadValue size true old)) h (fun y => { y with reservation := some (lidOf a) })
    else
      let won := ((s.harts[h]?).bind (·.reservation)) = some (lidOf a)
      let t := if won then hartWrite s p a (natToBytes size v.toNat) else s
      modHart (setXReg t h rd (if won then 0 else 1)) h (fun y => { y with reservation := none })

/-- A server core's access to a core window (R42, R106, R220): plain, aligned accesses only; a store to the WGB has no effect. -/
def hartWindow (s : State) (h p kind op size a core off : Nat) (v : Word64) (rd : Nat) : State :=
  let cause := if kind = 0 then 5 else 7
  if 2 ≤ kind ∨ a % size ≠ 0 then hartFault s h (if kind = 3 ∧ op = 0 then 5 else cause) a
  else if coreOwner s core ≠ p then hartFault (isoViolation s p) h cause a
  else if coreHeld s core (decide (0x30000 ≤ off)) then wakeCore s core
  else if kind = 0 then setXReg s h rd (loadValue size (op == 0) (bytesToNat (memBytes s.mem a size)))
  else if off < 0x30000 then { s with mem := memPutBytes s.mem a (natToBytes size v.toNat) }
  else s

/-- A server core's access to register space. -/
def hartRegister (s : State) (h p kind op size a die off : Nat) (v : Word64) (rd : Nat) : State :=
  let cause := if kind = 0 then 5 else 7
  if 2 ≤ kind ∨ a % size ≠ 0 then hartFault s h (if kind = 3 ∧ op = 0 then 5 else cause) a
  else if die < 8 ∧ s.fault.decaf.isNone ∧ dieGrant s p die off ∧ !domainRuns s (16 + die) then wakeDomain s (16 + die)
  else if kind = 0 then
    match hartLoadReg s p die off size with
    | (some x, t) => setXReg t h rd (loadValue size (op == 0) x)
    | (none, t) => hartFault t h 5 a
  else hartStoreReg s h p a die off size v

/-- A server core's access to main memory. (DEDUCED, log entry 71) -/
def hartMemory (s : State) (h p kind attr op size a : Nat) (v : Word64) (rd : Nat) : State :=
  let cause := if kind = 0 ∨ (kind = 3 ∧ op = 0) then 5 else 7
  if attrFault kind attr op size a then hartFault s h cause a
  else if !reachCoherent s p a size then hartFault (failAccess s p a) h cause a
  else if !lineReady s (lidOf a) then s
  else
    match tierReady s p none true (kind != 1) [(a, size)] with
    | .held t => t
    | .bad t => hartFault t h cause a
    | .ready t => if kind ≠ 1 ∧ rangePoisoned t a size then hartFault (logPoison t p 0xFFFF a) h cause a
        else hartAccess t h p kind attr op size a v rd

/-- SERVER_CORE_ACCESS: kind 0 load (op 0 signed, 1 unsigned), 1 store, 2 AMO (op of Table 6-7; the comparand is x[rd]),
3 LR (op 0) or SC (op 1); attr 0 PMA, 1 NC, 2 IO. A hart in reset makes no access. -/
def execServerCoreAccess (hart : BitVec 6) (kind attr : BitVec 2) (op size : BitVec 4) (addr : BitVec 56) (value : BitVec 64)
    (rd : BitVec 5) (s : State) : Out :=
  let h := hart.toNat
  let a := addr.toNat
  let k := kind.toNat
  let n := max 1 size.toNat
  let p := hartOwner s h
  let fault := if k = 0 ∨ (k = 3 ∧ op = 0) then 5 else 7
  .next (
    if !s.harts[hart.toFin].released then s
    else
      match decodeAddr s a with
      | .lpddr _ => hartMemory s h p k attr.toNat op.toNat n a value rd.toNat
      | .host _ => hartMemory s h p k attr.toNat op.toNat n a value rd.toNat
      | .scratch c o => hartWindow s h p k op.toNat n a c o value rd.toNat
      | .wgb c o => hartWindow s h p k op.toNat n a c (0x30000 + o) value rd.toNat
      | .register d o => hartRegister s h p k op.toNat n a d o value rd.toNat
      | .unmapped => hartFault s h fault a)

/-! ### Performance, IOMMU, boot -/

/-- The highest desired frequency of a cluster's running harts, within the profile's ceiling. -/
def clusterMhz (s : State) (k : Nat) : Option Nat :=
  let run := (s.harts.toList.drop (16 * k)).take 16 |>.filter (·.released)
  if run.isEmpty then none else some (max 800 (min s.power.serverCeil ((run.map (·.desiredMhz)).foldl max 0)))

/-- Each cluster at the frequency that its harts ask for (R216). -/
def setClusters (s : State) : State :=
  (List.range 4).foldl (fun t k =>
    match clusterMhz t k with
    | none => t
    | some m => modDomain t (7 + k) (fun d => { d with mhz := m })) s

/-- CPPC_REQUEST (R216): 0.8 to 3.2 GHz in steps of 100 MHz. -/
def execCppcRequest (hart : BitVec 6) (mhz : BitVec 16) (s : State) : Out :=
  let m := max 800 (min 3200 (mhz.toNat / 100 * 100))
  .next (if s.harts[hart.toFin].released then setClusters (modHart s hart.toNat (fun h => { h with desiredMhz := m })) else s)

/-- IOMMU_INVAL_WRITE (R228). -/
def execIommuInvalWrite (hart : BitVec 6) (value : BitVec 64) (s : State) : Out := .next (invalidate s (hartOwner s hart.toNat) value)

/-- IOMMU_SYNC_READ (R228). -/
def execIommuSyncRead (hart : BitVec 6) (s : State) : Out := .next (syncIommu s (hartOwner s hart.toNat))

/-- BOOT_STATUS_MIRROR (R232): the word is mirrored while the partition's harts run. (DESIGN CHOICE, log entry 65) -/
def execBootStatusMirror (p : BitVec 4) (value : BitVec 64) (s : State) : Out :=
  .next (
    if (hartsOf s p.toNat).any (fun h => ((s.harts[h]?).map (·.released)).getD false) then
      modServer s p.toNat (fun r => { r with boot := { r.boot with status := value } })
    else s)

/-- SERVER_BOOT_TIMEOUT (R232): 10 s after step 5 without CP32(2). A board-support trial fails with it (R465). (DESIGN CHOICE, log entry 65) -/
def execServerBootTimeout (p : BitVec 4) (s : State) : Out :=
  let n := p.toNat
  .next (match partAt s n with
    | none => s
    | some x =>
      let b := x.server.boot
      if b.step = 5 ∧ b.status ≠ cp32Reg 2 ∧ 250000000 ≤ aonSince s b.since then
        let s1 := logError (setBoot (holdHarts s n) n 0 0xFFFF) 4 12 0x0504 n 0xFFFF 0 0 0
        if (componentAt s1 2).trying then failTrial s1 2 else s1
      else s)

/-- SBI_SRST_REBOOT (R233). -/
def execSbiSrstReboot (hart : BitVec 6) (s : State) : Out :=
  .next (if s.harts[hart.toFin].released then restartServers s (hartOwner s hart.toNat) else s)

/-- SERVER_CORE_INTERNAL_ERROR (R460, code 0x0501): the partition's server cores restart. -/
def execServerCoreInternalError (hart : BitVec 6) (s : State) : Out :=
  let p := hartOwner s hart.toNat
  .next (
    if s.harts[hart.toFin].released then
      restartServers (raiseAplic (logError s 4 12 0x0501 p 0xFFFF 0 0 hart.toNat) 3) p
    else s)

/-! ### Register writes (R8, R366) -/

/-- A write of a placement region's register (Table 12-10). -/
def writePlacementReg (s : State) (fn i off : Nat) (v : Word64) : State :=
  match off with
  | 0x08 => modRegion s fn i (fun r => if v.toNat % 64 = 0 ∧ v.toNat ≤ r.bytes then { r with limit := v.toNat } else r)
  | 0x28 => if v.getLsbD 0 then reopenRegion s fn i else s
  | _ => s

/-- Bytes of an entry replaced. -/
def ringPut (ring : SMap (List Byte)) (off : Nat) (bs : List Byte) : SMap (List Byte) :=
  mapSet ring (off / 256) (putBytes (sliceBytes (mapGetD ring (off / 256) []) 0 256) (off % 256) bs)

/-- A write to the MSI-X table: address, data, mask of an entry. Unmasking sends a pending message. -/
def writeMsix (s : State) (fn off size : Nat) (v : Word64) : State :=
  let i := off / 16
  let o := off % 16
  let s1 := modFunc s fn (fun f =>
    let e := mapGetD f.msix i { addr := 0, data := 0, masked := true }
    let b := putBytes (natToBytes 8 e.addr ++ natToBytes 4 e.data ++ natToBytes 4 (bitOf e.masked)) o (natToBytes size v.toNat)
    { f with msix := mapSet f.msix i { addr := fieldAt b 0 8, data := fieldAt b 8 4, masked := natBit (fieldAt b 12 4) 0 } })
  sendPending s1 fn

/-- A write to BAR0 of a function (Table 12-3). Posted, so one of a wrong size is discarded. -/
def writeBar0 (s : State) (fn off size : Nat) (v : Word64) : State :=
  let aligned := off % size = 0
  if 0x10000 ≤ off ∧ off < 0x14000 then
    if aligned ∧ (size = 4 ∨ size = 8) then
      modFunc s fn (fun f => { f with reqRing := ringPut f.reqRing (off - 0x10000) (natToBytes size v.toNat) })
    else s
  else if 0x60000 ≤ off ∧ off < 0x68000 then
    if aligned ∧ (size = 4 ∨ size = 8) then writeMsix s fn (off - 0x60000) size v else s
  else if size ≠ 8 ∨ !aligned then s
  else if off = 0x018 then (if inService s then writeMbxTail s fn false v else s)
  else if off = 0x028 then (if inService s then writeMbxHead s fn v else s)
  else if 0x40000 ≤ off ∧ off < 0x41000 then writePlacementReg s fn ((off - 0x40000) / 0x40) (off % 0x40) v
  else s

/-- A register written by the MP, which reaches all of register space (Table 1-7). -/
def mpWriteReg (s : State) (die off size : Nat) (v : Word64) : State :=
  if die ≠ 12 ∨ size ≠ 8 ∨ off % 8 ≠ 0 then s
  else if 0x400000 ≤ off ∧ off < 0x410000 then writeTier s ((off - 0x400000) / 0x1000) (off % 0x1000) v
  else if 0x510000 ≤ off ∧ off < 0x511000 then writeServer s ((off - 0x510000) / 0x100) (off % 0x100) v
  else s

/-- REGISTER_WRITE: space 0 is BAR0 of function `who`, 1 register space as hart `who` stores to it, 2 register space as the MP
writes it; 3 names nothing. A read-only or reserved register ignores the write. (DESIGN CHOICE, log entry 72) -/
def execRegisterWrite (space : BitVec 2) (who : BitVec 6) (off : BitVec 56) (size : BitVec 4) (value : BitVec 64) (s : State) : Out :=
  let n := max 1 size.toNat
  let v := BitVec.ofNat 64 (natField value.toNat 0 (8 * n))
  .next (
    match space.toNat with
    | 0 => if linkServes s ∧ (funcAt s who.toNat).isSome then writeBar0 s who.toNat off.toNat n v else s
    | 1 =>
      if s.harts[who.toFin].released then
        let p := hartOwner s who.toNat
        match decodeAddr s (registerBase + off.toNat) with
        | .register d o => hartRegister s who.toNat p 1 0 n (registerBase + off.toNat) d o v 0
        | _ => hartFault s who.toNat 7 (registerBase + off.toNat)
      else s
    | 2 =>
      match decodeAddr s (registerBase + off.toNat) with
      | .register d o => mpWriteReg s d o n v
      | _ => s
    | _ => s)

end Sys2Proof.Machine
end

