-- ==== Sys2Proof/Machine/Life.lean ====
section
/-! DEFINITION. Power-on, resets, removal, the host link's states, straps and the baseboard's sideband (R295, R362, R391, R392, R447, R457 to R459, R470, R495 to R500). -/

namespace Sys2Proof.Machine

/-! ### Straps and caps (R447, R448, Table 15-4) -/

/-- Table 15-4: strap cap in W, profile budget in permille, server-cluster ceiling in MHz. -/
def coolProfile (mode : Nat) : Nat × Nat × Nat :=
  match mode with
  | 1 => (2000, 1000, 3200)
  | 2 => (1500, 800, 2800)
  | _ => (1000, 450, 2400)

/-- A change of the applied cap: APLIC source 1 and an information entry (R448). -/
def noteCap (s : State) (old : Nat) : State :=
  let new := appliedCap s.power
  if new = old then s else logError (raiseAplic s 1) 0 0xFF 0x0802 0xFF 0xFFFF 0 0 new

/-- A sample of the straps: the profile is selected, and value 3 is logged (R447, R496). -/
def sampleStraps (s : State) (mode slot : Nat) : State :=
  let (cap, _, ceil) := coolProfile mode
  let s1 := { s with
    pins := { s.pins with coolMode := mode, moduleIdPins := slot },
    power := { s.power with coolStrap := mode, profile := if mode = 3 then 0 else mode, strapLogged := false, strapCap := cap, serverCeil := ceil } }
  if mode = 3 then logError s1 0 0xFF 0x0801 0xFF 0xFFFF 0 0 mode else s1

/-! ### Power-on (R458, Table 12-12) -/

/-- A die with what the ageing record holds of it (Table 15-8); without a record, offset 0, the profile budget and a checkpoint
before the first core command (R454). -/
def agedDie (rec' : Option (List Nat)) (budget i : Nat) (d : DiePower) : DiePower :=
  match rec' with
  | some l =>
    let f (k : Nat) : Nat := l.getD (1 + 7 * i + k) 0
    { d with voff := min 24 (f 0), ageCeil := max 200 (f 1), lastSlack := f 2, minSlack := f 3, roPpm := f 4, lastHours := f 5, checkpoints := f 6,
             exhausted := decide (24 < f 0) || (decide (i < 8) && decide (f 1 < 200)) }
  | none => { d with ageCeil := if i < 8 then budget else d.ageCeil, checkpointDue := true }

/-- POWER_ON (R391, R444, R457, R458): AON and the boot ROM start; flash gives the error log, the ageing state and the
configuration store; zeroing of LPDDR5X begins. -/
def execPowerOn (coolMode : BitVec 2) (slot : BitVec 6) (s : State) : Out :=
  .next (
    if s.life.powered then s
    else
      let s0 := powerOff s
      let (g, s1) := drawFree s0 (2 ^ 32)
      let rec' := s1.flash.ageing
      let s2 := { s1 with
        life := { Life.off with powered := true, zeroing := true },
        pins := { s1.pins with p52v := true, pwrEn := true, perstN := false },
        sec := { s1.sec with generation := BitVec.ofNat 32 g },
        power := { s1.power with recordLost := rec'.isNone },
        hours := (rec'.getD []).headD 0,
        dies := Vector.ofFn (fun i => agedDie rec' (coolProfile coolMode.toNat).2.1 i.val s1.dies[i]),
        fault := { s1.fault with log := s1.flash.log, nextEntry := s1.flash.logNext } }
      sampleStraps s2 coolMode.toNat slot.toNat)

/-- Every object's map as the store restores it, once memory is zeroed. -/
def restoreMaps (s : State) : State :=
  (mapKeys s.partitions).foldl (fun t p =>
    match partAt t p with
    | none => t
    | some x =>
      (mapKeys x.objects).foldl (fun u i =>
        match mapGet x.objects i with
        | none => u
        | some o => let (u1, o1) := restoreObject u o; modObject u1 p i (fun _ => o1)) t) s

/-- Every partition's server cores booted (R231). -/
def bootAll (s : State) : State := (mapKeys s.partitions).foldl bootServers s

/-- LPDDR5X_INIT_COMPLETE (R458): the configuration store is restored, and commands are accepted from now on. -/
def execLpddr5xInitComplete (s : State) : Out :=
  .next (
    if s.life.powered ∧ s.life.zeroing then
      let s1 := restoreMaps { s with life := { s.life with zeroing := false }, mem := [], poison := [] }
      if s1.life.running ∧ s1.fault.decaf.isNone then bootAll s1 else s1
    else s)

/-! ### Module reset (R457, R459, R470, R480, R481) -/

/-- PERST_N_ASSERT: a module reset; a hot-swap opening under way writes the state records after it (R497). -/
def execPerstNAssert (s : State) : Out :=
  .next (
    if s.life.powered ∧ s.pins.perstN then
      let s1 := moduleReset { s with pins := { s.pins with perstN := false } }
      if s1.life.opening then writeStateRecords s1 0 else s1
    else s)

/-- Components 3 and 4 loaded; one that fails is logged, and its units stay without code (R481). -/
def loadUnits (s : State) : State :=
  [3, 4].foldl (fun t c =>
    match bootImage t c with
    | some i => modComponent t c (fun y => { y with running := some i })
    | none => logError (modComponent t c (fun y => { y with running := none })) 4 12 0x0503 0xFF 0xFFFF 0 0 c) s

/-- The Decaf record found at boot: reported and logged (R467). -/
def findDecafRecord (s : State) : State :=
  match s.flash.decaf with
  | none => s
  | some r =>
    let s1 := { s with fault := { s.fault with bootCause := r.cause } }
    if r.reported then s1
    else
      let s2 := { s1 with flash := { s1.flash with decaf := some { r with reported := true } } }
      let steps := r.steps.foldl (fun a e => a * 2 ^ 132 + e.1 * 2 ^ 128 + e.2.1 * 2 ^ 64 + e.2.2) 0
      logError s2 0 0xFF 0x0804 0xFF 0xFFFF 0 0 (r.cause + 2 ^ 16 * r.aon.toNat + 2 ^ 80 * steps)

/-- Why the module enters Decaf mode again after a module reset (R470). (DEDUCED, log entry 66) -/
def reentryCause (s : State) : Option (Nat × Nat) :=
  if s.power.band = .sag then some (12, 0x0704)
  else
    match (s.dies.toList.zipIdx).find? (fun e => decide (1050 < e.1.temp)) with
    | some e => some (e.2, 0x0703)
    | none =>
      match (s.dies.toList.zipIdx).find? (fun e => e.1.exhausted) with
      | some e => some (e.2, 0x0705)
      | none => if s.sec.debug = .full then some (12, 0x0706) else none

/-- The MP started: measured components 0 and 1, or ROM recovery where one of them does not verify (R480, R481). -/
def startMp (s : State) : State :=
  match loadComponent s 0 with
  | (s1, none) => raiseAlert { s1 with life := { s1.life with running := true, attested := true }, sec := { s1.sec with romRecovery := true } } 5
  | (s1, some _) =>
    match loadComponent s1 1 with
    | (s2, none) => raiseAlert { s2 with life := { s2.life with running := true, attested := true }, sec := { s2.sec with romRecovery := true } } 5
    | (s2, some _) =>
      let s3 := { s2 with life := { s2.life with running := true, attested := true } }
      let s4 := (mapKeys s3.partitions).foldl repairPartition (findDecafRecord (loadUnits s3))
      match reentryCause s4 with
      | some (die, code) => enterDecaf s4 die code 0 0
      | none => if s4.life.zeroing then s4 else bootAll s4

/-- PERST_N_DEASSERT: straps sampled, the module ID taken, the MP restarted, maps and journals repaired. (DEDUCED, log entry 74) -/
def execPerstNDeassert (coolMode : BitVec 2) (slot : BitVec 6) (s : State) : Out :=
  .next (
    if s.life.powered ∧ !s.life.stopped ∧ !s.pins.perstN then
      let old := appliedCap s.power
      let s1 := noteCap (sampleStraps { s with pins := { s.pins with perstN := true } } coolMode.toNat slot.toNat) old
      startMp { s1 with life := { s1.life with moduleId := s1.life.baseboard * 64 + slot.toNat } }
    else s)

/-- FUNCTION_LEVEL_RESET (Table 16-1). -/
def execFunctionLevelReset (fn : BitVec 4) (s : State) : Out :=
  .next (if linkServes s ∧ (funcAt s fn.toNat).isSome then functionReset s fn.toNat else s)

/-- POOL_UNIT_INTERNAL_FAULT (R460, code 0x0404). -/
def execPoolUnitInternalFault (channel : BitVec 7) (s : State) : Out :=
  let c := channel.toNat
  let p := channelOwner s c
  .next (if s.life.running then partitionReset (logError s 5 (8 + c / 32) 0x0404 p 0xFFFF 0 0 c) p else s)

/-! ### Removal and the link (R362, R391, R392, R497, R500) -/

/-- Every region of every function CLOSED with cause REMOVAL (R392). -/
def closeForRemoval (s : State) : State :=
  { s with funcs := mapAll s.funcs (fun _ f => { f with
      removal := true, regions := mapAll f.regions (fun _ r => { r with state := .closed, cause := .removal }) }) }

/-- A surprise removal (R392, Table 12-13). (DEDUCED, log entries 74, 88) -/
def removeModule (s : State) : State :=
  let s1 := closeForRemoval { s with link := .down, life := { s.life with quiesce := true } }
  let s2 := finishCommits s1 (fun _ _ _ => true)
  let s3 := endCmds s2 (cmdsWhere s2 (fun _ _ _ => true)) stAbortedReset
  let s4 := logError { s3 with holds := [], hostReads := [] } 0 0xFF 0x0807 0xFF 0xFFFF 0 0 0
  setDomains (stopUnits s4) (6 :: (List.range 4).map (32 + ·)) .ret

/-- SURPRISE_REMOVAL: DL_Down while PERST_N is deasserted. -/
def execSurpriseRemoval (s : State) : Out :=
  .next (if s.life.running ∧ s.pins.perstN ∧ !s.life.quiesce then removeModule s else s)

/-- LINK_STATE_CHANGE: 0 down, 1 L0, 2 Recovery, 3 L1. In removal quiesce the link does not train. -/
def execLinkStateChange (link : BitVec 2) (s : State) : Out :=
  .next (
    if !s.life.powered ∨ s.life.quiesce then s
    else
      match link.toNat with
      | 0 => if s.life.running ∧ s.pins.perstN then removeModule s else { s with link := .down }
      | 1 => setDomains { s with link := .l0 } [11] .run
      | 2 => setDomains { s with link := .recovery } [11] .run
      | _ => setDomains { s with link := .l1 } [11] .gated)

/-- PWR_EN_ASSERT (R391, R497, R498): ignored while the controller opens; a lasting deassertion has released THERMTRIP_N. (DEDUCED, log entry 74) -/
def execPwrEnAssert (s : State) : Out :=
  .next (
    if s.life.opening then s
    else { s with pins := { s.pins with pwrEn := true },
                  power := { s.power with thermtrip := if s.pins.pwrEn then s.power.thermtrip else false } })

/-- PWR_EN_DEASSERT (R497): the MP writes the state records, and the opening timer starts. -/
def execPwrEnDeassert (s : State) : Out :=
  .next (
    if !s.life.powered then { s with pins := { s.pins with pwrEn := false } }
    else if s.life.opening then s
    else
      let s1 := { s with pins := { s.pins with pwrEn := false }, life := { s.life with opening := true, openSince := aonNow s } }
      writeStateRecords s1 ((s1.fault.decaf.map (·.cause)).getD 0))

/-- HOTSWAP_OPEN_TIMER (R497): 2 ms after the deassertion. -/
def execHotswapOpenTimer (s : State) : Out :=
  .next (if s.life.opening ∧ 50000 ≤ aonSince s s.life.openSince then powerOff s else s)

/-- REGULATORS_STOP (R500). -/
def execRegulatorsStop (s : State) : Out := .next (if s.life.powered then powerOff s else s)

/-! ### Sideband (R295, R447, R495, R496) -/

/-- COOL_MODE_CHANGE (R447): no effect but the first entry after each sample. -/
def execCoolModeChange (mode : BitVec 2) (s : State) : Out :=
  let s1 := { s with pins := { s.pins with coolMode := mode.toNat } }
  .next (
    if s.life.powered ∧ mode.toNat ≠ s.power.coolStrap ∧ !s.power.strapLogged then
      logError { s1 with power := { s1.power with strapLogged := true } } 0 0xFF 0x0801 0xFF 0xFFFF 0 0 mode.toNat
    else s1)

/-- MCTP_BASEBOARD_NUMBER (R496): answered from 20 ms after power good. -/
def execMctpBaseboardNumber (number : BitVec 16) (s : State) : Out :=
  .next (
    if !s.life.powered ∨ (aonNow s).toNat < 500000 then s
    else if number.toNat < 1024 then
      sendHost { s with life := { s.life with baseboard := number.toNat } } (.mctp [0])
    else sendHost s (.mctp [1]))

/-- MCTP_PHASE_RECORD_READ (R295): completion code, then the record. -/
def execMctpPhaseRecordRead (p : BitVec 8) (s : State) : Out :=
  .next (
    if !s.life.running then s
    else
      match partAt s p.toNat with
      | none => sendHost s (.mctp [2])
      | some x =>
        match x.job.bind (·.phaseRecord) with
        | none => sendHost s (.mctp [1])
        | some r => sendHost s (.mctp (0 :: r)))

/-- I3C_ENTDAA (R495). -/
def execI3cEntdaa (addr : BitVec 7) (s : State) : Out :=
  .next (if s.life.powered then { s with life := { s.life with i3c := some addr.toNat } } else s)

end Sys2Proof.Machine
end

