-- ==== Sys2Proof/Machine/MbxPart.lean ====
section
/-! DEFINITION. Mailbox requests about partitions and queue contexts: PARTITION_CREATE, PARTITION_DESTROY, QUEUE_CREATE, QUEUE_DESTROY (R183, R400, R403, R457). -/

namespace Sys2Proof.Machine

/-! ### PARTITION_CREATE (R183, Table 13-3) -/

/-- The resources that a PARTITION_CREATE asks for. -/
structure CreateReq where
  p : Nat
  modes : Nat
  groups : BitVec 16
  devices : BitVec 32
  edge : BitVec 16
  sys : BitVec 16
  mig : Nat
  msix : Nat
  clusters : BitVec 128
  flow : Nat
  slice : Nat
  video : Nat

/-- The fields of the request; version 1 ends before the video sessions. -/
def createReqOf (version : Nat) (b : List Byte) : CreateReq :=
  { p := fieldAt b 0 1, modes := fieldAt b 1 1, groups := BitVec.ofNat 16 (fieldAt b 2 2), devices := BitVec.ofNat 32 (fieldAt b 4 4),
    edge := BitVec.ofNat 16 (fieldAt b 8 2), sys := BitVec.ofNat 16 (fieldAt b 0x0A 2), mig := fieldAt b 0x0C 2, msix := fieldAt b 0x0E 2,
    clusters := BitVec.ofNat 128 (fieldAt b 0x10 16), flow := fieldAt b 0x20 4, slice := fieldAt b 0x24 4,
    video := if version = 1 then 0 else fieldAt b 0x28 2 }

/-- MSI-X entries that virtual functions hold. -/
def msixHeld (s : State) : Nat := ((s.partitions.filter (fun e => e.1 != 0)).map (fun e => e.2.msixQuota)).sum

/-- Is every bit of `x` set in `y`? -/
def bitsWithin {w : Nat} (x y : BitVec w) : Bool := x &&& y == x

/-- Are the ranges of Table 13-3 kept? -/
def createRanges (c : CreateReq) : Bool :=
  decide (1 ≤ c.p ∧ c.p ≤ 15 ∧ c.modes < 4 ∧ c.mig ≤ 16384 ∧ c.msix % 64 = 0 ∧ c.flow ≤ 40960 ∧ c.video ≤ 512
    ∧ (c.slice = 0 ∨ (1250 ≤ c.slice ∧ c.slice ≤ 2500000)))

/-- Does partition 0 hold what is asked for? Each way mask keeps at least one way on both sides. (DEDUCED, log entry 75) -/
def createHeld (s : State) (z : Partition) (c : CreateReq) : Bool :=
  let ze := BitVec.ofNat 16 z.edgeWays
  let zs := BitVec.ofNat 16 z.sysWays
  bitsWithin c.groups z.groups && bitsWithin c.devices z.devices && bitsWithin c.clusters z.clusters
    && bitsWithin c.edge ze && bitsWithin c.sys zs && c.sys != 0 && c.sys != zs && c.edge != ze && (c.edge != 0 || c.clusters == 0)
    && decide (c.mig ≤ z.migQuota ∧ c.flow ≤ z.flowQuota ∧ c.video ≤ z.videoQuota ∧ c.msix + msixHeld s ≤ 4096)

/-- Does partition 0 still use quota that it would give up? (DEDUCED, log entry 75) -/
def createBusy (s : State) (z : Partition) (c : CreateReq) : Bool :=
  decide (z.migQuota - c.mig < z.migs.length)
    || decide (z.flowQuota - c.flow < (s.flows.filter (fun e => e.2.partition == 0)).length)
    || decide (z.videoQuota - c.video < z.sessions.length)

/-- The new partition. -/
def newPartition (c : CreateReq) : Partition :=
  { Partition.empty with
    modes := c.modes, groups := c.groups, devices := c.devices, edgeWays := c.edge.toNat, sysWays := c.sys.toNat,
    clusters := c.clusters, migQuota := c.mig, msixQuota := c.msix, flowQuota := c.flow, videoQuota := c.video,
    sliceBase := if c.slice = 0 then 25000 else c.slice, tier := { TierRegs.reset with eskor := natBit c.modes 0 } }

/-- Partition 0 without what the new partition takes. -/
def takeFromZero (z : Partition) (c : CreateReq) (held : Nat) : Partition :=
  { z with
    groups := z.groups &&& ~~~c.groups, devices := z.devices &&& ~~~c.devices, clusters := z.clusters &&& ~~~c.clusters,
    edgeWays := (BitVec.ofNat 16 z.edgeWays &&& ~~~c.edge).toNat, sysWays := (BitVec.ofNat 16 z.sysWays &&& ~~~c.sys).toNat,
    migQuota := z.migQuota - c.mig, flowQuota := z.flowQuota - c.flow, videoQuota := z.videoQuota - c.video,
    msixQuota := min 2048 (4096 - held) }

/-- PARTITION_CREATE. -/
def doPartitionCreate (s : State) (f : Func) (r : MbxReq) : MbxAnswer :=
  let c := createReqOf f.version r.payload
  match partAt s 0 with
  | none => mbxInvalid s
  | some z =>
    if !createRanges c ∨ (partAt s c.p).isSome ∨ !createHeld s z c then mbxInvalid s
    else if createBusy s z c then .done s stBusy []
    else
      let s1 := setPart (setPart s 0 (takeFromZero z c (msixHeld s + c.msix))) c.p (newPartition c)
      let s2 := { s1 with funcs := mapSet s1.funcs c.p Func.reset }
      .done (bootServers s2 c.p) stOk (natToBytes 1 c.p)

/-- PARTITION_CREATE. -/
def execPartitionCreate (fn : BitVec 4) (s : State) : Out :=
  .next (runMbx s fn.toNat 0x03 anyForm (doPartitionCreate s))

/-! ### PARTITION_DESTROY (Table 16-1) -/

/-- The regions of a function scrubbed when they close. (DEDUCED, log entry 75) -/
def markScrub (s : State) (p : Nat) : State :=
  modFunc s p (fun f => { f with regions := mapAll f.regions (fun _ y => { y with scrub := true }) })

/-- PARTITION_DESTROY accepted: everything of the partition ends; its regions run out first. -/
def doPartitionDestroy (s : State) (r : MbxReq) : MbxAnswer :=
  let p := fieldAt r.payload 0 1
  if p = 0 ∨ 15 < p ∨ (partAt s p).isNone then mbxInvalid s
  else
    let s1 := modFunc (abortLong (partitionStop (markScrub s p) p) p stAbortedReset) p (fun f => { f with disabled := true, inService := none })
    .long { s1 with queues := mapFilter s1.queues (fun _ x => x.partition != p) }

/-- PARTITION_DESTROY. -/
def execPartitionDestroy (fn : BitVec 4) (s : State) : Out :=
  .next (runMbx s fn.toNat 0x04 anyForm (fun _ r => doPartitionDestroy s r))

/-- Does a byte of device memory belong to a partition: its channels, or the windows of its cores? -/
def memOwned (s : State) (p a : Nat) : Bool :=
  if a < 0x20000000000 then channelOwner s (t1Channel a) == p
  else decide (coreWindowBase ≤ a) && coreOwner s (natField a 20 13) == p

/-- All owned memory and scratch of a partition zeroed, cached copies and directory entries dropped. -/
def scrubPartition (s : State) (p : Nat) : State :=
  { s with
    mem := s.mem.filter (fun c => !memOwned s p c.1), poison := s.poison.filter (fun a => !memOwned s p a),
    caches := mapAll s.caches (fun _ m => mapFilter m (fun lid _ => linePartition s lid != p)),
    homes := s.homes.map (fun h => { h with
      dir := mapFilter h.dir (fun _ e => e.partition != p), txns := h.txns.filter (fun t => t.partition != p),
      waiting := h.waiting.filter (fun t => t.partition != p), reservations := h.reservations.filter (fun x => x.txn.partition != p) }),
    cores := mapFilter s.cores (fun k _ => coreOwner s k != p), spills := s.spills.filter (fun x => coreOwner s x.core != p) }

/-- Partition 0 with a destroyed partition's resources back. -/
def returnToZero (z x : Partition) (held : Nat) : Partition :=
  { z with
    groups := z.groups ||| x.groups, devices := z.devices ||| x.devices, clusters := z.clusters ||| x.clusters,
    edgeWays := z.edgeWays ||| x.edgeWays, sysWays := z.sysWays ||| x.sysWays, migQuota := z.migQuota + x.migQuota,
    flowQuota := z.flowQuota + x.flowQuota, videoQuota := z.videoQuota + x.videoQuota, msixQuota := min 2048 (4096 - held) }

/-- The end of a PARTITION_DESTROY: scrubbed, and its resources are partition 0's. -/
def finishDestroy (s : State) (p : Nat) : State :=
  match partAt s p, partAt s 0 with
  | some x, some z =>
    let s1 := scrubPartition s p
    { s1 with
      partitions := mapErase (mapSet s1.partitions 0 (returnToZero z x (msixHeld s - x.msixQuota))) p,
      funcs := mapErase s1.funcs p }
  | _, _ => s

/-! ### QUEUE_CREATE (R403, Table 13-6) -/

/-- The lowest offset at which a share of n bytes is free on the partition's cores. -/
def freeShare (s : State) (p n : Nat) : Option Nat :=
  let used := (s.queues.filter (fun e => e.2.partition == p && e.2.scratchSize != 0)).map (fun e => (e.2.scratchBase, e.2.scratchSize))
  (((List.range 12).map (· * 16384)).filter (fun b =>
    decide (b + n ≤ 0x30000) && used.all (fun u => decide (b + n ≤ u.1 ∨ u.1 + u.2 ≤ b)))).head?

/-- The n lowest free WGB tiles, as a mask. -/
def freeTiles (s : State) (p n : Nat) : Option Nat :=
  let used := (s.queues.filter (fun e => e.2.partition == p)).foldl (fun a e => a ||| e.2.tiles) 0
  let l := ((List.range 4).filter (fun t => !natBit used t)).take n
  if l.length = n then some (l.foldl (fun a t => a + 2 ^ t) 0) else none

/-- A ring of a queue context: a status where it may not lie there. A host-submitted queue's rings lie in host-tier
registrations, 4 KiB aligned (R372); a local one's in the partition's T1 memory (R234). -/
def ringStatus (s : State) (p : Nat) (isLocal : Bool) (a n : Nat) : Option Nat :=
  if isLocal then
    if 0x20000000000 ≤ a then some stInvalid else if ownsT1 s p a n then none else some stAddressFault
  else if a % 4096 ≠ 0 ∨ a < 0x20000000000 then some stInvalid
  else if !reachCoherent s p a n then some stAddressFault
  else if (((partAt s p).bind (fun x => objectAt x a)).isSome || ((partAt s p).bind (fun x => objectAt x (a + n - 1))).isSome) then
    some stInvalid
  else none

/-- Is a vector field right: an entry of the function or 0xFFFF; an own hart and an identity 1 to 511? -/
def vectorOk (s : State) (p : Nat) (isLocal : Bool) (v : Nat) : Bool :=
  if isLocal then hartOwner s (natField v 0 6) == p && decide (1 ≤ natField v 6 9) && !natBit v 15
  else v == 0xFFFF || decide (v < msixAlloc s p)

/-- QUEUE_CREATE. -/
def doQueueCreate (s : State) (p : Nat) (r : MbxReq) : MbxAnswer :=
  let b := r.payload
  let kind := fieldAt b 0 1
  let log2 := fieldAt b 1 1
  let tiles := fieldAt b 2 1
  let weight := fieldAt b 3 1
  let scratch := fieldAt b 4 4
  let desc := fieldAt b 8 8
  let cmpl := fieldAt b 0x10 8
  let pasid := fieldAt b 0x18 4
  let vec := fieldAt b 0x1C 2
  let isLocal := decide (kind = 1)
  let pasidOk := if natBit pasid 31 then natField pasid 20 11 = 0 else pasid = 0
  if 1 < kind ∨ log2 < 6 ∨ 16 < log2 ∨ 4 < tiles ∨ weight < 1 ∨ 16 < weight ∨ scratch % 16384 ≠ 0 ∨ 0x30000 < scratch ∨ !pasidOk
      ∨ !vectorOk s p isLocal vec then mbxInvalid s
  else
    match ringStatus s p isLocal desc (64 * 2 ^ log2), ringStatus s p isLocal cmpl (32 * 2 ^ log2) with
    | some st, _ => .done s st []
    | _, some st => .done s st []
    | none, none =>
      let q := mapFree s.queues 0 4096
      match (if scratch = 0 then some 0 else freeShare s p scratch), freeTiles s p tiles with
      | some base, some mask =>
        if 4096 ≤ q then .done s stBusy []
        else
          let x : Queue :=
            { partition := p, isLocal := isLocal, log2 := log2, tiles := mask, weight := weight, scratchBase := base,
              scratchSize := scratch, descRing := desc, cmplRing := cmpl,
              pasid := if natBit pasid 31 then some (natField pasid 0 20) else none, vector := vec, state := .running, parkPos := 0,
              tail := 0, head := 0, records := 0, badReads := 0, telemetry := none, cmds := [], accEngine := 0, accT1 := 0, accHost := 0,
              accPort := 0, accEnergy := 0, accKilled := 0, accCommits := 0, accEnded := 0 }
          .done { s with queues := mapSet s.queues q x } stOk
            (natToBytes 2 q ++ zeros 2 ++ natToBytes 4 base ++ natToBytes 1 mask)
      | _, _ => .done s stBusy []

/-- QUEUE_CREATE. -/
def execQueueCreate (fn : BitVec 4) (s : State) : Out :=
  .next (runMbx s fn.toNat 0x05 anyForm (fun _ r => doQueueCreate s fn.toNat r))

/-- QUEUE_DESTROY: commits under way finish; uncommitted commands end; the accounting values go into the response. -/
def doQueueDestroy (s : State) (p : Nat) (r : MbxReq) : MbxAnswer :=
  let q := fieldAt r.payload 0 2
  match queueAt s q with
  | none => mbxInvalid s
  | some x =>
    if x.partition ≠ p then .done s stNotPermitted []
    else
      let s1 := finishCommits s (fun k _ _ => k == q)
      let s2 := endCmds s1 (cmdsWhere s1 (fun k _ _ => k == q)) stAbortedReset
      .done (freeQueue s2 q stAbortedReset) stOk (((queueAt s2 q).map accountingBytes).getD [])

/-- QUEUE_DESTROY. -/
def execQueueDestroy (fn : BitVec 4) (s : State) : Out :=
  .next (runMbx s fn.toNat 0x06 anyForm (fun _ r => doQueueDestroy s fn.toNat r))

end Sys2Proof.Machine
end

