-- ==== Sys2Proof/Machine/MbxRegion.lean ====
section
/-! DEFINITION. Mailbox requests about memory: REGION_REGISTER, REGION_UNREGISTER, WINDOW_MAP (R166 to R169, R177, R367 to R370, R383, Table 13-4). -/

namespace Sys2Proof.Machine

/-! ### Host-tier registrations (R166, R168) -/

/-- Do two ranges overlap? -/
def rangesCross (a n b m : Nat) : Bool := decide (a < b + m ∧ b < a + n)

/-- The partition's slice of the aperture. -/
def inSlice (p a n : Nat) : Bool := decide (apertureBase + p * 2 ^ 44 ≤ a ∧ a + n ≤ apertureBase + (p + 1) * 2 ^ 44)

/-- REGION_REGISTER kind 0. -/
def registerHost (s : State) (p : Nat) (b : List Byte) : MbxAnswer :=
  let base := fieldAt b 8 8
  let n := fieldAt b 0x10 8
  let bus := fieldAt b 0x18 8
  match partAt s p with
  | none => mbxInvalid s
  | some x =>
    if base % 65536 ≠ 0 ∨ n % 65536 ≠ 0 ∨ n = 0 ∨ 2 ^ 44 < n ∨ !inSlice p base n ∨ 2 ^ 64 < bus + n
        ∨ x.hostRegs.any (fun e => rangesCross base n e.2.base e.2.bytes || rangesCross bus n e.2.bus e.2.bytes) then mbxInvalid s
    else
      let i := mapFree x.hostRegs 0 1024
      if 1024 ≤ i ∨ 4096 ≤ (s.partitions.map (fun e => e.2.hostRegs.length)).sum then .done s stBusy []
      else
        .done (modPart s p (fun y => { y with hostRegs := mapSet y.hostRegs i { base := base, bytes := n, bus := bus } })) stOk (natToBytes 2 i)

/-- Does a registration hold a ring of a queue, of telemetry, of a drip stream or of a journal (R168)? -/
def holdsRing (s : State) (p : Nat) (x : Partition) (r : HostReg) : Bool :=
  let inside (a : Nat) : Bool := decide (r.base ≤ a ∧ a < r.base + r.bytes)
  s.queues.any (fun e => e.2.partition == p && ((!e.2.isLocal && (inside e.2.descRing || inside e.2.cmplRing))
      || (match e.2.telemetry with | some t => inside t.base | none => false)))
    || (p == 0 && (match s.telemetry with | some t => inside t.base | none => false))
    || (match x.job.bind (·.drip) with | some d => d.dest != 0 && inside d.ring | none => false)
    || (x.journal.enable != 0 && inside x.journal.base)

/-- May a host-tier registration not be taken away now (R168)? -/
def hostRegBusy (s : State) (p i : Nat) (x : Partition) (r : HostReg) : Bool :=
  x.objects.any (fun e => e.2.backing == i) || holdsRing s p x r

/-- Does an access of the module to a range still run: a held request, an outstanding read, a declared buffer of a command? -/
def rangeInUse (s : State) (p a n : Nat) : Bool :=
  s.holds.any (fun h => h.2.partition == p && decide (a ≤ h.2.addr ∧ h.2.addr < a + n))
    || s.hostReads.any (fun r => r.2.partition == p && decide (a ≤ r.2.addr ∧ r.2.addr < a + n))
    || s.queues.any (fun e => e.2.partition == p && e.2.cmds.any (fun c => c.phase != .waiting && c.bufs.any (fun u => rangesCross u.addr u.bytes a n)))

/-- The cached lines of a range recalled, dirty ones written to their place. -/
def recallCached (s : State) (a n : Nat) : State :=
  (((s.caches.flatMap (fun e => mapKeys e.2)).dedup).filter (fun l => decide (a ≤ lidAddr l ∧ lidAddr l < a + n))).foldl recallLine s

/-- The cached lines of a range dropped. -/
def dropCached (s : State) (a n : Nat) : State :=
  (((s.caches.flatMap (fun e => mapKeys e.2)).dedup).filter (fun l => decide (a ≤ lidAddr l ∧ lidAddr l < a + n))).foldl dropCopies s

/-- A host-tier registration ended. -/
def endHostReg (s : State) (p i : Nat) : State :=
  match (partAt s p).bind (fun x => mapGet x.hostRegs i) with
  | none => s
  | some r => modPart (recallCached s r.base r.bytes) p (fun y => { y with hostRegs := mapErase y.hostRegs i })

/-! ### Tiered objects (R169, R177) -/

/-- Are the fields of a tiered object within Table 5-4? -/
def objectOk (s : State) (p : Nat) (x : Partition) (o : TieredObject) (backing : Nat) (n : Nat) : Bool :=
  decide (o.base % 65536 = 0 ∧ 1 ≤ o.pages ∧ o.pages ≤ 2 ^ 28 ∧ o.mapAddr % 64 = 0) && inSlice p o.base (o.pages * 65536)
    && (match mapGet x.hostRegs backing with
        | none => false
        | some r => decide (r.base ≤ o.base ∧ o.base + o.pages * 65536 ≤ r.base + r.bytes))
    && o.pool.all (fun f => decide (f * 65536 < usableBytes s) && channelOwner s (t1Channel (f * 65536)) == p) && decide o.pool.Nodup
    && (!o.fixed || (decide (1 ≤ n ∧ n ≤ 128)
      && o.chans.all (fun c => decide (c < 128) && channelOwner s c == p && o.pool.any (fun f => t1Channel (f * 65536) == c))))

/-- Every page of an object wanted in T1 at creation, in ascending order, as far as the pool reaches. -/
def fillObject (s : State) (p i : Nat) (o : TieredObject) : State :=
  (List.range (min o.pages o.pool.length)).foldl (fun t g =>
    match startMigration t p i g .promote .explicit with
    | (.full, u) => queueMig u p { object := i, page := g, dir := .promote, source := .explicit }
    | (_, u) => u) s

/-- REGION_REGISTER kind 1. Each entry of the channel list is one byte, as in Table 8-1. -/
def registerObject (s : State) (p : Nat) (b : List Byte) : MbxAnswer :=
  let entries := fieldAt b 0x28 4
  let n := fieldAt b 0x2C 1
  let place := fieldAt b 0x16 1
  let initial := fieldAt b 0x2D 1
  let backing := fieldAt b 0x14 2
  if entries < 1 ∨ 2 ^ 24 < entries ∨ 1 < place ∨ 1 < initial ∨ 128 < n then mbxInvalid s
  else
    mpRead s p (fieldAt b 0x20 8) (4 * entries) (fun s1 pool =>
      mpRead s1 p (fieldAt b 0x30 8) (if place = 1 then n else 0) (fun s2 chans =>
        let frames := (List.range entries).map (fun i => fieldAt pool (4 * i) 4)
        let o : TieredObject :=
          { base := fieldAt b 8 8, pages := fieldAt b 0x10 4, backing := backing, mapAddr := fieldAt b 0x18 8, pool := frames,
            free := frames, fixed := place == 1, chans := chans.map (·.toNat), threshold := fieldAt b 0x17 1, resident := [],
            counts := [], pinned := [], closing := false }
        match partAt s2 p with
        | none => mbxInvalid s
        | some x =>
          if !objectOk s2 p x o backing n then mbxInvalid s2
          else if 0x20000000000 ≤ o.mapAddr ∨ !ownsT1 s2 p o.mapAddr (8 * o.pages) then .done (failAccess s2 p o.mapAddr) stAddressFault []
          else
            let i := mapFree x.objects 0 1024
            if 1024 ≤ i then .done s2 stBusy []
            else
              let s3 := modPart s2 p (fun y => { y with objects := mapSet y.objects i o })
              let s4 := (restoreObject s3 o).1
              .done (if initial = 1 then fillObject s4 p i o else s4) stOk (natToBytes 2 i)))

/-- A tiered object ended: cached lines dropped unwritten, frames released unscrubbed. -/
def endObject (s : State) (p i : Nat) : State :=
  match (partAt s p).bind (fun x => mapGet x.objects i) with
  | none => s
  | some o => modPart (dropCached s o.base (o.pages * 65536)) p (fun y =>
      { y with objects := mapErase y.objects i, migQueue := y.migQueue.filter (fun m => m.object != i) })

/-! ### Placement and readout regions (R383, Table 13-4) -/

/-- The four requester IDs of a region that are in use. -/
def requestersOf (b : List Byte) : List Nat := ((List.range 4).map (fun i => fieldAt b (0x28 + 2 * i) 2)).filter (· != 0)

/-- Are granules of a function free and within its BAR2? -/
def granulesFree (f : Func) (first n : Nat) : Bool :=
  decide (1 ≤ n ∧ (first + n) * 2 ^ 20 ≤ f.bar2Size) && f.windows.all (fun e => decide (e.1 < first ∨ first + n ≤ e.1))

/-- Granules bound. -/
def bindGranules (s : State) (fn first n : Nat) (g : Nat → Granule) : State :=
  modFunc s fn (fun f => { f with windows := (List.range n).foldl (fun w i => mapSet w (first + i) (g i)) f.windows })

/-- A status against a range of granules bound to LPDDR5X: a MiB beyond the usable tier is unmapped (R36); another's fails R401. -/
def lpddrStatus (s : State) (p base n : Nat) : Option Nat :=
  if base % 2 ^ 20 ≠ 0 ∨ usableBytes s < base + n then some stInvalid
  else if !ownsT1 s p base n then some stAddressFault else none

/-- REGION_REGISTER kind 2. -/
def registerPlacement (s : State) (p : Nat) (f : Func) (b : List Byte) : MbxAnswer :=
  let first := fieldAt b 8 4
  let n := fieldAt b 0x0C 4
  let base := fieldAt b 0x10 8
  let log := fieldAt b 0x18 8
  let logBytes := fieldAt b 0x20 4
  let vec := fieldAt b 0x24 2
  let stream := fieldAt b 0x26 1
  let req := requestersOf b
  if !granulesFree f first n ∨ log % 64 ≠ 0 ∨ logBytes % 65536 ≠ 0 ∨ logBytes < 65536 ∨ 2 ^ 26 < logBytes ∨ msixAlloc s p ≤ vec
      ∨ (7 < stream ∧ stream ≠ 0xFF) ∨ req.isEmpty ∨ usableBytes s < log + logBytes then mbxInvalid s
  else
    match lpddrStatus s p base (n * 2 ^ 20) with
    | some st => .done s st []
    | none =>
      let i := mapFree f.regions 0 64
      if !ownsT1 s p log logBytes then .done s stAddressFault []
      else if 64 ≤ i then .done s stBusy []
      else
        let y : Placement :=
          { state := .open, cause := .none, first := first, granules := n, base := base, log := log, logBytes := logBytes, vector := vec,
            stream := stream, requesters := req, limit := n * 2 ^ 20, placed := 0, logUsed := 0, seq := 0, dropped := 0,
            droppedSince := false, since := aonNow s, scrub := false }
        let s1 := modFunc s p (fun g => { g with regions := mapSet g.regions i y })
        .done (bindGranules s1 p first n (fun k => .placement i (k * 2 ^ 20))) stOk (natToBytes 2 i)

/-- REGION_REGISTER kind 3. -/
def registerReadout (s : State) (p : Nat) (f : Func) (b : List Byte) : MbxAnswer :=
  let first := fieldAt b 8 4
  let n := fieldAt b 0x0C 4
  let base := fieldAt b 0x10 8
  if !granulesFree f first n ∨ (requestersOf b).isEmpty then mbxInvalid s
  else
    match lpddrStatus s p base (n * 2 ^ 20) with
    | some st => .done s st []
    | none =>
      let i := mapFree f.readouts 0 65536
      let y : Readout := { first := first, granules := n, base := base, requesters := requestersOf b }
      let s1 := modFunc s p (fun g => { g with readouts := mapSet g.readouts i y })
      .done (bindGranules s1 p first n (fun k => .readout i (base + k * 2 ^ 20))) stOk (natToBytes 2 i)

/-- REGION_REGISTER. (DEDUCED, log entry 76) -/
def doRegionRegister (s : State) (p : Nat) (f : Func) (r : MbxReq) : MbxAnswer :=
  match fieldAt r.payload 0 1 with
  | 0 => registerHost s p r.payload
  | 1 => registerObject s p r.payload
  | 2 => registerPlacement s p f r.payload
  | 3 => registerReadout s p f r.payload
  | _ => mbxInvalid s

/-- REGION_REGISTER. -/
def execRegionRegister (fn : BitVec 4) (s : State) : Out :=
  .next (runMbx s fn.toNat 0x07 anyForm (doRegionRegister s fn.toNat))

/-- REGION_UNREGISTER accepted or refused (R168, R177, R387). (DEDUCED, log entry 76) -/
def doRegionUnregister (s : State) (p : Nat) (f : Func) (r : MbxReq) : MbxAnswer :=
  let i := fieldAt r.payload 2 2
  match partAt s p, fieldAt r.payload 0 1 with
  | some x, 0 =>
    match mapGet x.hostRegs i with
    | none => mbxInvalid s
    | some g => if hostRegBusy s p i x g then .done s stBusy [] else .long s
  | some x, 1 =>
    match mapGet x.objects i with
    | none => mbxInvalid s
    | some _ => .long (modObject s p i (fun o => { o with closing := true }))
  | some _, 2 =>
    match mapGet f.regions i with
    | none => mbxInvalid s
    | some g => .long (if g.cause.frees then s else withdrawRegion s p i .unregister)
  | some _, 3 => if mapHas f.readouts i then .long s else mbxInvalid s
  | _, _ => mbxInvalid s

/-- REGION_UNREGISTER. -/
def execRegionUnregister (fn : BitVec 4) (s : State) : Out :=
  .next (runMbx s fn.toNat 0x08 anyForm (doRegionUnregister s fn.toNat))

/-- The end of a REGION_UNREGISTER, where its conditions have cleared. -/
def unregisterDone (s : State) (p : Nat) (r : MbxReq) : Option State :=
  let i := fieldAt r.payload 2 2
  match partAt s p, fieldAt r.payload 0 1 with
  | some x, 0 =>
    match mapGet x.hostRegs i with
    | none => some s
    | some g => if rangeInUse s p g.base g.bytes then none else some (endHostReg s p i)
  | some x, 1 => if x.migs.any (fun m => m.object == i) then none else some (endObject s p i)
  | some _, 2 => if (regionAt s p i).isSome then none else some s
  | _, _ => some (modFunc s p (fun f => { f with
      readouts := mapErase f.readouts i,
      windows := mapFilter f.windows (fun _ g => match g with
        | .readout j _ => j != i
        | _ => true) }))

/-! ### WINDOW_MAP (R367, R369, R370) -/

/-- The bytes behind a slot set's mapping. -/
def targetBase (f : Func) (target arg : Nat) : Nat :=
  if target = 1 then arg else if target = 2 then coreAddr arg 0 else ((mapGet f.regions arg).map (·.base)).getD 0

/-- What op 0 binds each granule to, or the status with which it ends. -/
def mapTarget (s : State) (p : Nat) (f : Func) (target arg n : Nat) : Except Nat (Nat → Granule) :=
  match target with
  | 1 =>
    match lpddrStatus s p arg (n * 2 ^ 20) with
    | some st => .error st
    | none => .ok (fun i => .memory (arg + i * 2 ^ 20))
  | 2 =>
    if 8192 ≤ arg ∨ n ≠ 1 then .error stInvalid
    else if coreOwner s arg ≠ p then .error stAddressFault
    else .ok (fun _ => .coreWindow arg)
  | 3 =>
    match mapGet f.regions arg with
    | none => .error stInvalid
    | some g => if g.granules < n then .error stInvalid else .ok (fun i => .placement arg (i * 2 ^ 20))
  | _ => .error stInvalid

/-- WINDOW_MAP op 0. (DEDUCED, log entry 76) -/
def doWindowMap (s : State) (p : Nat) (f : Func) (r : MbxReq) : MbxAnswer :=
  let b := r.payload
  let first := fieldAt b 4 4
  let n := fieldAt b 8 4
  let target := fieldAt b 0x0C 1
  let arg := fieldAt b 0x10 8
  let slots := fieldAt b 0x18 4
  let size := fieldAt b 0x1C 4 * 4096
  let array := fieldAt b 0x20 8
  if fieldAt b 0 1 ≠ 0 ∨ !granulesFree f first n then mbxInvalid s
  else
    match mapTarget s p f target arg n with
    | .error st => .done s st []
    | .ok g =>
      if slots = 0 then
        let (free, s1) := drawFree s 65536
        .done (bindGranules s1 p first n g) stOk (natToBytes 2 free)
      else if 65536 < slots ∨ size = 0 ∨ n * 2 ^ 20 < slots * size ∨ array % 8 ≠ 0 ∨ 0x20000000000 ≤ array then mbxInvalid s
      else if !ownsT1 s p array (8 * slots) then .done (failAccess s p array) stAddressFault []
      else
        let i := mapFree f.slotSets 0 65536
        let y : SlotSet :=
          { first := first, granules := n, slots := slots, slotBytes := size, array := array, base := targetBase f target arg, removed := false }
        let s1 := bindGranules s p first n g
        let s2 := modFunc s1 p (fun h => { h with slotSets := mapSet h.slotSets i y })
        let s3 := cohWrite s2 array ((List.range slots).flatMap (fun _ => cp32Bytes (ownerWord 1 0)))
        .done (markExternal s3 p array (8 * slots)) stOk (natToBytes 2 i)

/-- WINDOW_MAP op 0, and an op above 3, which is INVALID. -/
def execWindowMapMap (fn : BitVec 4) (s : State) : Out :=
  .next (runMbx s fn.toNat 0x09 (fun b => fieldAt b 0 1 == 0 || decide (3 < fieldAt b 0 1)) (doWindowMap s fn.toNat))

/-- WINDOW_MAP op 1: a granule that is not mapped stays unmapped. The set ID of the response is a free value. (DEDUCED, log entry 76) -/
def doWindowUnmap (s : State) (p : Nat) (f : Func) (r : MbxReq) : MbxAnswer :=
  let first := fieldAt r.payload 4 4
  let n := fieldAt r.payload 8 4
  if n = 0 ∨ f.bar2Size < (first + n) * 2 ^ 20 then mbxInvalid s
  else
    let (free, s1) := drawFree s 65536
    .done (modFunc s1 p (fun g => { g with windows := mapFilter g.windows (fun k _ => decide (k < first ∨ first + n ≤ k)) })) stOk
      (natToBytes 2 free)

/-- WINDOW_MAP op 1. -/
def execWindowMapUnmap (fn : BitVec 4) (s : State) : Out :=
  .next (runMbx s fn.toNat 0x09 (fun b => fieldAt b 0 1 == 1) (doWindowUnmap s fn.toNat))

/-- WINDOW_MAP op 2: DEVICE slots of the set become RETIRED. -/
def doRemoveSet (s : State) (p : Nat) (f : Func) (r : MbxReq) : MbxAnswer :=
  let i := fieldAt r.payload 0x28 2
  match mapGet f.slotSets i with
  | none => mbxInvalid s
  | some y =>
    .done (modFunc (retireSet s y) p (fun g => { g with slotSets := mapModify g.slotSets i (fun z => { z with removed := true }) })) stOk
      (natToBytes 2 i)

/-- WINDOW_MAP op 2. -/
def execWindowMapRemoveSet (fn : BitVec 4) (s : State) : Out :=
  .next (runMbx s fn.toNat 0x09 (fun b => fieldAt b 0 1 == 2) (doRemoveSet s fn.toNat))

/-- The RETIRED slots of a set return to HOST with the next generation (Table 12-6). -/
def reviveSet (s : State) (y : SlotSet) : State :=
  (List.range y.slots).foldl (fun t i =>
    let a := y.array + 8 * i
    match cp32At (cohRead t a 8) 0 with
    | some v => if natField v 0 8 = 3 then cohWrite t a (cp32Bytes (ownerWord 1 (natField v 16 16 + 1))) else t
    | none => t) s

/-- WINDOW_MAP op 3. -/
def doReactivateSet (s : State) (p : Nat) (f : Func) (r : MbxReq) : MbxAnswer :=
  let i := fieldAt r.payload 0x28 2
  match mapGet f.slotSets i with
  | none => mbxInvalid s
  | some y =>
    .done (modFunc (reviveSet s y) p (fun g => { g with slotSets := mapModify g.slotSets i (fun z => { z with removed := false }) })) stOk
      (natToBytes 2 i)

/-- WINDOW_MAP op 3. -/
def execWindowMapReactivateSet (fn : BitVec 4) (s : State) : Out :=
  .next (runMbx s fn.toNat 0x09 (fun b => fieldAt b 0 1 == 3) (doReactivateSet s fn.toNat))

end Sys2Proof.Machine
end

