-- ==== Sys2Proof/Machine/MbxJob.lean ====
section
/-! DEFINITION. Mailbox requests about a job: JOB_CONFIG, MAPPING_LOAD, TABLE_CREATE, re-layouts, DRIP_CONFIG, REPLAY_CONFIG, PEER_TABLE_LOAD (R237 to R240, R252, R258, R266, R267, R299 to R303, R325, R342, R401, R471). -/

namespace Sys2Proof.Machine

/-! ### Several reads or writes of one request -/

/-- Several reads of a request, one after another. -/
def mpReads (p : Nat) (f : State → List (List Byte) → MbxAnswer) : State → List (Nat × Nat) → List (List Byte) → MbxAnswer
  | s, [], acc => f s acc
  | s, (a, n) :: rest, acc => mpRead s p a n (fun t b => mpReads p f t rest (acc ++ [b]))

/-- Several writes of a request: none is made before all can be. -/
def mpWrites (s : State) (p : Nat) (ws : List (Nat × List Byte)) (f : State → MbxAnswer) : MbxAnswer :=
  match ws.find? (fun w => !reachCoherent s p w.1 w.2.length) with
  | some w => .done (failAccess s p w.1) stAddressFault []
  | none =>
    match tierReady s p none true false (ws.map (fun w => (w.1, w.2.length))) with
    | .held t => .wait t
    | .bad t => .done t stAddressFault []
    | .ready t => f (ws.foldl (fun u w => markExternal (moduleWrite u w.1 w.2) p w.1 w.2.length) t)

/-- A read that the spec places in T1 owned by the partition. -/
def mpReadT1 (s : State) (p a n : Nat) (f : State → List Byte → MbxAnswer) : MbxAnswer :=
  if n ≠ 0 ∧ (0x20000000000 ≤ a ∨ !ownsT1 s p a n) then .done (failAccess s p a) stAddressFault [] else mpRead s p a n f

/-! ### JOB_CONFIG: the directory (R299 to R301) -/

/-- The channel of a range of resident T1 memory that a partition owns, outside every tiered object; none otherwise (R300). -/
def residentChannel (s : State) (p a n : Nat) : Option Nat :=
  let pooled := ((partAt s p).map (fun x => x.objects.flatMap (fun o => o.2.pool))).getD []
  let pages := (List.range ((a % 65536 + n + 65535) / 65536)).map (fun i => a / 65536 + i)
  if ownsT1 s p a n ∧ a < 0x20000000000 ∧ pages.all (fun g => t1Channel (g * 65536) == t1Channel a && !pooled.contains g) then
    some (t1Channel a)
  else none

/-- Do ranges overlap pairwise nowhere? -/
def disjointRanges : List (Nat × Nat) → Bool
  | [] => true
  | a :: rest => rest.all (fun b => !rangesCross a.1 a.2 b.1 b.2) && disjointRanges rest

/-- Is a directory entry within Table 10-1, for a job of L layers and G replica groups? Rule 6 serves tables only (R309). (DEDUCED, log entry 77) -/
def dirEntryOk (l g : Nat) (b : List Byte) : Bool :=
  let e := dirEntOfBytes b
  decide (1 ≤ e.blocks ∧ e.blocks ≤ 2 ^ 32 ∧ e.descAddr % 64 = 0 ∧ e.xBase + 16384 * e.blocks ≤ 2 ^ 38 ∧ e.tensor ≠ 0xFFFF
    ∧ e.layer < l ∧ e.rule ≤ 5 ∧ e.copyFmt ≤ 4 ∧ e.gradFmt ≤ 1 ∧ fieldAt b 0x1E 1 < 4 ∧ e.group < g) && zeroAt b 0x20 32

/-- Bytes of a block record (R301). -/
def recordBytes (rule : Nat) : Nat := 0x20 + if ruleFactored rule then 2144 else 96

/-- The places of a block: its channel and its ranges; none where it breaks R300 or Table 10-2, or where its sel is no valid
pair or names reserved bits (R401). -/
def blockPlaces (s : State) (p : Nat) (e : DirEnt) (b : List Byte) : Option (Nat × List (Nat × Nat)) :=
  let d : BlockDesc := { record := fieldAt b 0 8, copy := fieldAt b 8 8, grad := fieldAt b 0x10 8, elems := fieldAt b 0x18 2 }
  if d.elems = 0 ∨ 16384 < d.elems ∨ !zeroAt b 0x1A 6 ∨ d.record % 64 ≠ 0 ∨ d.copy % 64 ≠ 0 ∨ d.grad % 64 ≠ 0
      ∨ (residentChannel s p d.record (recordBytes e.rule)).isNone ∨ rangePoisoned s d.record 64 then none
  else
    match cp32At (cohRead s (d.record + 8) 8) 0 with
    | none => none
    | some sel =>
      let x := readSet s e.rule d (sel % 2)
      let moment := ruleMoment e.rule
      let raw := fieldAt (cohRead s (d.record + 0x20 + sel % 2 * setSize e.rule) 4) 0 4
      let ranges := [(d.record, recordBytes e.rule), (d.copy, packedBytes (codeBits e.copyFmt) d.elems),
        (d.grad, 16384 * rowElemBytes e.gradFmt), (x.master * 65536, 65536)] ++ (if moment then [(x.moment * 65536, 65536)] else [])
      let ch := homeChannel d
      if 4 ≤ sel ∨ 2 ^ 25 ≤ raw ∨ (!moment && x.moment != 0xFFFFFFFF)
          ∨ ranges.any (fun r => residentChannel s p r.1 r.2 != some ch) then none
      else some (ch, ranges)

/-- The spare frames of a channel: four where a block there has a moment, two otherwise; two lane journal slots. (DESIGN CHOICE, log entry 78) -/
def spareSlots (moment : Bool) (f : List Nat) : List (Nat × Nat) :=
  if moment then [(f.getD 0 0, f.getD 1 0), (f.getD 2 0, f.getD 3 0)] else [(f.getD 0 0, 0xFFFFFFFF), (f.getD 1 0, 0xFFFFFFFF)]

/-- The frames of spare slots. (DESIGN CHOICE, log entry 78) -/
def spareFrames (l : List (Nat × Nat)) : List Nat := l.flatMap (fun x => if x.2 = 0xFFFFFFFF then [x.1] else [x.1, x.2])

/-- The spare frames of each home channel of a valid directory; none where it breaks R300, Table 10-1 or Table 10-2. -/
def directorySpares (s : State) (p : Nat) (ents : List (DirEnt × List Byte)) (spare : List Byte) : Option (SMap (List (Nat × Nat))) :=
  let blocks := ents.flatMap (fun x => (List.range x.1.blocks).map (fun b => (x.1, sliceBytes x.2 (32 * b) 32)))
  let places := blocks.map (fun x => (blockPlaces s p x.1 x.2, ruleMoment x.1.rule))
  if places.any (fun x => x.1.isNone) ∨ !decide (ents.map (·.1.tensor)).Nodup then none
  else
    let chans : SMap Bool := places.foldl (fun m x => match x.1 with
      | some (c, _) => mapSet m c (mapGetD m c false || x.2)
      | none => m) []
    let spares : SMap (List (Nat × Nat)) :=
      chans.map (fun e => (e.1, spareSlots e.2 ((List.range 4).map (fun i => fieldAt spare (16 * e.1 + 4 * i) 4))))
    let given := spares.flatMap (fun e => (spareFrames e.2).map (fun f => (e.1, f)))
    let ranges := places.flatMap (fun x => (x.1.map (·.2)).getD []) ++ given.map (fun x => (x.2 * 65536, 65536))
    if given.any (fun x => residentChannel s p (x.2 * 65536) 65536 != some x.1) ∨ !disjointRanges ranges then none else some spares

/-! ### JOB_CONFIG (Table 13-5) -/

/-- A replica group's entry, where it is valid (R320). -/
def groupOfBytes (b : List Byte) : Option ReplicaGroup :=
  let n := fieldAt b 0 1
  if n = 0 ∨ 64 < n ∨ n ≤ fieldAt b 1 1 ∨ !zeroAt b 2 6 then none
  else some { members := (List.range n).map (fun i => fieldAt b (8 + 2 * i) 2), leaderRank := fieldAt b 1 1 }

/-- The scale s_l with which the step after the last one of an intact record starts (R71, R73). (DEDUCED, log entry 79) -/
def keptScale (s : State) (j : Job) (step l : Nat) (init : Int) : Int :=
  let b := cohRead s (j.scaleRecords + 128 * l) 128
  let vals := (List.range 16).map (fun i => cp32At b (8 * i))
  match (vals.getD (step % 16) none) with
  | none => init
  | some v =>
    let targets := vals.filterMap (fun x => x.map (fun y => natToInt 8 (natField y 8 8)))
    clampInt (-64) 63 (targets.foldl min (natToInt 8 (natField v 0 8) + 1))

/-- A job as JOB_CONFIG starts it. (DEDUCED, log entry 77) -/
def newJob (b : List Byte) (dir layerMap lanes : List Byte) (init : List Int) (groups : List ReplicaGroup) (check : List Nat)
    (spares : SMap (List (Nat × Nat))) : Job :=
  { seed := BitVec.ofNat 64 (fieldAt b 0 8), firstStep := fieldAt b 8 8, paramDir := dir, paramEntries := fieldAt b 0x18 4,
    layers := fieldAt b 0x1C 2, netId := fieldAt b 0x1E 2, layerMap := layerMap, scaleRecords := fieldAt b 0x28 8,
    initScale := init, normTable := fieldAt b 0x38 8, commitRecord := fieldAt b 0x40 8, laneJournal := lanes, groups := groups,
    dpRank := fieldAt b 0x64 4, checkGroup := check, spares := spares, tables := [], mappings := [], policy := Policy.default,
    step := none, eval := none, lastPlan := none, committed := 0, halted := 0, scale := init, testScale := true, reseedAgain := [],
    collSeq := [], early := [], commit := none, retention := none, drip := none, phaseRecord := none, busy := [], lagRecords := 0 }

/-- The scale records of a job that starts (R73): every entry holds the initial exponent as s and as target. -/
def firstScales (j : Job) : List (Nat × List Byte) :=
  (List.range j.layers).map (fun l =>
    (j.scaleRecords + 128 * l, (List.range 16).flatMap (fun i =>
      let back := (j.firstStep + 16 - i) % 16
      let step := (j.firstStep + 2 ^ 64 - (if back = 0 then 16 else back)) % 2 ^ 64
      cp32Bytes (scaleEntry (j.initScale.getD l 0) (j.initScale.getD l 0) step))))

/-- RELAYOUT requests of a table, or of every table, that still run are answered with ABORTED_DISABLED (R400). -/
def endRelayouts (s : State) (fn : Nat) (t : Nat → Bool) : State :=
  match funcAt s fn with
  | none => s
  | some f => (f.long.filter (fun r => (r.cmd == 0x0E || r.cmd == 0x0F) && t (fieldAt r.payload 0 2))).foldl
      (fun u r => answer u fn r stAbortedDisabled []) s

/-- A job put into its partition: collective numbering, policy and mappings start anew; the RNG key is the seed's (R138). -/
def putJob (s : State) (p : Nat) (j : Job) : State :=
  modPart (endRelayouts s p (fun _ => true)) p (fun x => { x with job := some j, rngKey := rngKey j.seed })

/-- A job with its commit record: a valid one is kept and un-halted, otherwise it is written afresh with the scale records
(Table 13-5, R73). -/
def startJob (s : State) (p : Nat) (j : Job) (record : List Byte) : MbxAnswer :=
  match commitRecOf record with
  | some c =>
    let scale := (List.range j.layers).map (fun l => keptScale s j c.committed l (j.initScale.getD l 0))
    let k := { j with committed := c.committed, scale := scale }
    if c.halt = 0 then .done (putJob s p k) stOk []
    else
      mpWrites s p [(j.commitRecord + 0x10, cp64Bytes c.committed), (j.commitRecord + 0x40, cp32Bytes 0)]
        (fun t => .done (putJob t p k) stOk [])
  | none =>
    let last := (j.firstStep + 2 ^ 64 - 1) % 2 ^ 64
    let c : CommitRec := { committed := last, intent := last, decision := 0, clip := oneF32.toNat, hyper := 0, halt := 0 }
    mpWrites s p ((j.commitRecord, commitRecBytes c) :: firstScales j) (fun t => .done (putJob t p { j with committed := last }) stOk [])

/-- Is a step, an evaluation window or a recovery of a job open? (DEDUCED, log entry 77) -/
def jobBusy (j : Job) : Bool := j.step.isSome || j.eval.isSome || j.commit.isSome

/-- JOB_CONFIG. (DEDUCED, log entry 77) -/
def doJobConfig (s : State) (p : Nat) (r : MbxReq) : MbxAnswer :=
  let b := r.payload
  let ents := fieldAt b 0x18 4
  let l := fieldAt b 0x1C 2
  let g := fieldAt b 0x60 2
  let k := fieldAt b 0x70 4
  if ((jobAt s p).map jobBusy).getD false then .done s stBusy []
  else if ents < 1 ∨ 65536 < ents ∨ l < 1 ∨ 4096 < l ∨ g < 1 ∨ 256 < g ∨ k < 1 ∨ 65536 < k
      ∨ s.partitions.any (fun e => e.1 != p && (match e.2.job with | some j => j.netId == fieldAt b 0x1E 2 | none => false)) then mbxInvalid s
  else
    match [(fieldAt b 0x28 8, 128 * l), (fieldAt b 0x38 8, 16 * (64 + 16 * l))].find? (fun x => !reachCoherent s p x.1 x.2) with
    | some x => .done (failAccess s p x.1) stAddressFault []
    | none =>
    mpReads p (fun s1 rd =>
      let dir := rd.getD 0 []
      let dirs := (List.range ents).map (fun i => sliceBytes dir (64 * i) 64)
      let groups := (List.range g).map (fun i => groupOfBytes (sliceBytes (rd.getD 5 []) (136 * i) 136))
      if !dirs.all (dirEntryOk l g) ∨ groups.any (·.isNone) then mbxInvalid s1
      else
        let es := dirs.map dirEntOfBytes
        mpReads p (fun s2 descs =>
          match directorySpares s2 p (es.zip (descs.take ents)) (rd.getD 3 []) with
          | none => mbxInvalid s2
          | some spares =>
            let init := (List.range l).map (fun i => natToInt 8 (fieldAt (rd.getD 2 []) i 1))
            let check := (List.range k).map (fun i => fieldAt (rd.getD 6 []) (2 * i) 2)
            startJob s2 p (newJob b dir (rd.getD 1 []) (rd.getD 4 []) init (groups.filterMap id) check spares) (rd.getD 7 []))
          s1 (es.map (fun e => (e.descAddr, 32 * e.blocks))) [])
      s [(fieldAt b 0x10 8, 64 * ents), (fieldAt b 0x20 8, 131072), (fieldAt b 0x30 8, l), (fieldAt b 0x48 8, 2048),
         (fieldAt b 0x50 8, 1024), (fieldAt b 0x58 8, 136 * g), (fieldAt b 0x68 8, 2 * k),
         (fieldAt b 0x40 8, 128)] []

/-- JOB_CONFIG. -/
def execJobConfig (fn : BitVec 4) (s : State) : Out :=
  .next (runMbx s fn.toNat 0x0A anyForm (fun _ r => doJobConfig s fn.toNat r))

/-! ### MAPPING_LOAD (R266, R267, Tables 9-3 and 9-4) -/

/-- A role of a mapping table from its directory entry, where the lists fit. -/
def roleOfBytes (t : List Byte) (i : Nat) : Option Role :=
  let e := sliceBytes t (0x40 + 16 * i) 16
  let off := fieldAt e 0 4
  let n := fieldAt e 4 2
  let words := (List.range n).map (fun k => fieldAt t (off + 4 * k) 4)
  if off % 4 ≠ 0 ∨ n < 1 ∨ 8192 < n ∨ t.length < off + 4 * n ∨ 1 < fieldAt e 7 1 ∨ !zeroAt e 8 8 ∨ words.any (fun w => natField w 13 3 != 0) then none
  else
    some { cores := words.map (fun w => w % 8192), slivers := words.map (fun w => w / 65536),
           stage := if fieldAt e 6 1 = 0xFF then none else some (fieldAt e 6 1), sliverFlag := fieldAt e 7 1 == 1 }

/-- Does a role keep R267 in a table of p stage positions? -/
def roleOk (s : State) (p stages : Nat) (stageDie : List Nat) (r : Role) : Bool :=
  r.cores.all (fun c => coreOwner s c == p && !clusterDisabled s c) && decide r.cores.Nodup
    && (match r.stage with
        | none => true
        | some k => decide (k < stages) && r.cores.all (fun c => stageDie.getD k 0xFF == coreDie c))
    && (if r.sliverFlag then decide (r.slivers.sum ≤ 65535) else r.slivers.all (· == 0))

/-- A mapping table, where it keeps R267. -/
def mappingOfBytes (s : State) (p : Nat) (t : List Byte) : Option Mapping :=
  let n := fieldAt t 4 2
  let st := fieldAt t 6 1
  let v := fieldAt t 7 1
  let dies := (List.range 8).map (fun i => fieldAt t (8 + i) 1)
  let used := dies.take st
  let roles := (List.range n).map (roleOfBytes t)
  if n < 1 ∨ 256 < n ∨ t.length < 0x40 + 16 * n ∨ st < 1 ∨ 8 < st ∨ !([1, 2, 4, 8].contains v) ∨ !zeroAt t 0x10 48
      ∨ (dies.drop st).any (· != 0xFF) ∨ !decide used.Nodup
      ∨ used.any (fun d => decide (8 ≤ d) || !(List.range 16).any (fun c => clusterOwner s (16 * d + c) == p))
      ∨ !roles.all (fun r => match r with
          | none => false
          | some x => roleOk s p st used x) then none
  else some { p := st, v := v, stageDie := used, roles := roles.filterMap id }

/-- Is a mapping index bound to the open step or evaluation window (R267)? -/
def mappingBound (j : Job) (i : Nat) : Bool :=
  (match j.step with
    | some o => i == o.plan.mapFb || i == o.plan.mapRed
    | none => false) ||
  (match j.eval with
    | some e => i == e.installed
    | none => false)

/-- MAPPING_LOAD. -/
def doMappingLoad (s : State) (p : Nat) (r : MbxReq) : MbxAnswer :=
  let i := fieldAt r.payload 0 1
  let a := fieldAt r.payload 8 8
  match jobAt s p with
  | none => mbxInvalid s
  | some j =>
    if 7 < i then mbxInvalid s
    else if mappingBound j i then .done s stBusy []
    else
      mpReadT1 s p a 64 (fun s1 h =>
        let n := fieldAt h 0 4
        if n < 64 ∨ 1048576 < n ∨ n % 4 ≠ 0 then mbxInvalid s1
        else
          mpReadT1 s1 p a n (fun s2 t =>
            match mappingOfBytes s2 p t with
            | none => mbxInvalid s2
            | some m => .done (modJob s2 p (fun y => { y with mappings := mapSet y.mappings i m })) stOk []))

/-- MAPPING_LOAD. -/
def execMappingLoad (fn : BitVec 4) (s : State) : Out :=
  .next (runMbx s fn.toNat 0x0B anyForm (fun _ r => doMappingLoad s fn.toNat r))

/-! ### TABLE_CREATE (R237, R240, Table 8-1) -/

/-- Are a descriptor's own fields within Table 8-1? -/
def tableFieldsOk (b : List Byte) : Bool :=
  let fmt := fieldAt b 0x0C 1
  let round := fieldAt b 0x11 1
  let tiered := fieldAt b 0x0F 1
  decide (1 ≤ fieldAt b 0 8 ∧ fieldAt b 0 8 ≤ 2 ^ 36 ∧ fieldAt b 8 2 ≤ 1023 ∧ 1 ≤ fieldAt b 0x0A 2 ∧ fieldAt b 0x0A 2 ≤ 4096
    ∧ fieldAt b 0x0D 1 ≤ 4 ∧ fieldAt b 0x0E 1 ≤ 1 ∧ tiered ≤ 1 ∧ 1 ≤ fieldAt b 0x10 1 ∧ fieldAt b 0x10 1 ≤ 128 ∧ round < 4
    ∧ fieldAt b 0x12 2 ≤ 1023 ∧ fieldAt b 0x30 4 ≤ 65536)
    && [0, 1, 3, 4, 8].contains fmt && (round < 2 || fmt == 3 || fmt == 4)
    && (if tiered = 1 then fieldAt b 0x20 8 == 0 else fieldAt b 0x12 2 == 0 && fieldAt b 0x14 4 == 0) && zeroAt b 0x3A 6

/-- Does a table fit the storage that it names (R239, R240)? -/
def tableStorageOk (s : State) (p : Nat) (d : TableDesc) : Bool :=
  let own (f : Nat) : Bool := ownsT1 s p (f * 65536) 65536 && decide (f * 65536 < 0x20000000000)
  d.chans.all (fun c => decide (c < 128) && channelOwner s c == p) && decide d.chans.Nodup
    && (if d.tiered then
          (match tierObject s p d.object with
           | none => false
           | some o => o.fixed && o.chans == d.chans && !o.closing && decide (d.firstPage + d.pageCount ≤ o.pages))
        else (d.frameList.zipIdx).all (fun x => own x.1 && t1Channel (x.1 * 65536) == d.channel x.2))
    && (d.shadowList.zipIdx).all (fun x => own x.1 && t1Channel (x.1 * 65536) == d.chans.getD (x.2 / d.g) 128)
    && decide (d.frameList ++ d.shadowList).Nodup

/-- A table descriptor read with its lists, once it is within Table 8-1 and fits its storage. -/
def readTable (s : State) (p a : Nat) (f : State → TableDesc → MbxAnswer) : MbxAnswer :=
  mpReadT1 s p a 64 (fun s1 b =>
    if !tableFieldsOk b then mbxInvalid s1
    else
      let d0 := tableOfBytes b [] [] []
      mpReads p (fun s2 rd =>
        let d := tableOfBytes b ((rd.getD 0 []).map (·.toNat)) (natWords (rd.getD 1 []) 4 (if d0.tiered then 0 else d0.pageCount))
          (natWords (rd.getD 2 []) 4 (d0.n * d0.g))
        if tableStorageOk s2 p d then f s2 d else mbxInvalid s2)
        s1 [(fieldAt b 0x18 8, d0.n), (fieldAt b 0x20 8, if d0.tiered then 0 else 4 * d0.pageCount), (fieldAt b 0x28 8, 4 * d0.n * d0.g)] [])

/-- TABLE_CREATE: the stamp line of every page is written in the page's current tier. -/
def doTableCreate (s : State) (p : Nat) (r : MbxReq) : MbxAnswer :=
  match jobAt s p with
  | none => mbxInvalid s
  | some j =>
    readTable s p (fieldAt r.payload 0 8) (fun s1 d =>
      if mapHas j.tables d.tableId then mbxInvalid s1
      else
        let line := cp32Bytes d.stamp0 ++ zeros 56
        mpWrites s1 p ((List.range d.pageCount).map (fun i => (pageStampAddr s1 p d i, line))) (fun s2 =>
          let t : EmbTable := { desc := d, relayout := none, pendingStep := none, shadow := [], lastStamp := d.stamp0 }
          .done (modJob s2 p (fun y => { y with tables := mapSet y.tables d.tableId t })) stOk []))

/-- TABLE_CREATE. -/
def execTableCreate (fn : BitVec 4) (s : State) : Out :=
  .next (runMbx s fn.toNat 0x0D anyForm (fun _ r => doTableCreate s fn.toNat r))

/-! ### Re-layouts (R252, R258) -/

/-- The pages and shadow pages of a layout. -/
def tableRanges (s : State) (p : Nat) (d : TableDesc) : List (Nat × Nat) :=
  (List.range d.pageCount).map (fun i => (tablePageAddr s p d i, 65536)) ++ d.shadowList.map (fun f => (f * 65536, 65536))

/-- Do two lists of ranges meet? -/
def rangesTouch (a b : List (Nat × Nat)) : Bool := a.any (fun x => b.any (fun y => rangesCross x.1 x.2 y.1 y.2))

/-- RELAYOUT_START accepted or refused. -/
def doRelayoutStart (s : State) (p : Nat) (r : MbxReq) : MbxAnswer :=
  let b := r.payload
  let id := fieldAt b 0 2
  let journal := fieldAt b 0x10 8
  let bitmap := fieldAt b 0x18 8
  match jobAt s p, tableAt s p id with
  | some j, some t =>
    if t.relayout.isSome ∨ journal % 64 ≠ 0 ∨ bitmap % 64 ≠ 0 then mbxInvalid s
    else
      readTable s p (fieldAt b 8 8) (fun s1 d =>
        let rc := regionCount t.desc
        let jr := (journal, 0x40 + 8 * rc)
        let br := (bitmap, (rc + 7) / 8)
        let all := j.tables.flatMap (fun e => tableRanges s1 p e.2.desc ++ (match e.2.relayout with
          | some x => tableRanges s1 p x.newDesc
          | none => [])) ++ tableRanges s1 p d
        match [jr, br].find? (fun x => decide (0x20000000000 ≤ x.1) || !ownsT1 s1 p x.1 x.2) with
        | some x => .done (failAccess s1 p x.1) stAddressFault []
        | none =>
          if d.tableId ≠ t.desc.tableId ∨ d.rows ≠ t.desc.rows ∨ d.dim ≠ t.desc.dim
              ∨ rangesTouch (tableRanges s1 p t.desc) (tableRanges s1 p d) ∨ rangesTouch [jr, br] all
              ∨ rangesCross jr.1 jr.2 br.1 br.2 then mbxInvalid s1
          else
            let x : Relayout :=
              { newDesc := d, journal := journal, bitmap := bitmap, newDescAddr := fieldAt b 8 8, revert := false, status := .running,
                epoch := 0, flip := 0, regions := List.replicate rc { state := .old, copied := false, restarts := 0 } }
            .long (setRelayout s1 p id x))
  | _, _ => mbxInvalid s

/-- RELAYOUT_START. -/
def execRelayoutStart (fn : BitVec 4) (s : State) : Out :=
  .next (runMbx s fn.toNat 0x0E anyForm (fun _ r => doRelayoutStart s fn.toNat r))

/-- RELAYOUT_RESUME: a stopped re-layout runs again in its recorded direction. -/
def doRelayoutResume (s : State) (p : Nat) (r : MbxReq) : MbxAnswer :=
  let id := fieldAt r.payload 0 2
  match (tableAt s p id).bind (·.relayout) with
  | none => mbxInvalid s
  | some x => if x.status = .stopped then .long (setRelayout s p id { x with status := .running }) else mbxInvalid s

/-- RELAYOUT_RESUME. -/
def execRelayoutResume (fn : BitVec 4) (s : State) : Out :=
  .next (runMbx s fn.toNat 0x0F anyForm (fun _ r => doRelayoutResume s fn.toNat r))

/-- The MOVING regions of a re-layout back in the state whose pages serve them (R258). -/
def settleRegions (x : Relayout) : List Region :=
  let home : RegionState := if x.revert then .new else .old
  x.regions.map (fun g => if g.state == .moving then { state := home, copied := false, restarts := 0 } else g)

/-- RELAYOUT_ABORT in either mode; the running request of the table is answered with ABORTED_DISABLED. (DEDUCED, log entry 36) -/
def doRelayoutAbort (s : State) (p : Nat) (revert : Bool) (r : MbxReq) : MbxAnswer :=
  let id := fieldAt r.payload 0 2
  match (tableAt s p id).bind (·.relayout) with
  | none => mbxInvalid s
  | some x =>
    let back := settleRegions x
    let y : Relayout :=
      if !revert then { x with status := .stopped, regions := back }
      else if x.revert then { x with status := .running }
      else { x with status := .running, revert := true, regions := back }
    .done (setRelayout (endRelayouts s p (· == id)) p id y) stOk []

/-- RELAYOUT_ABORT mode 0; a mode above 1 is INVALID. -/
def execRelayoutAbortStop (fn : BitVec 4) (s : State) : Out :=
  .next (runMbx s fn.toNat 0x10 (fun b => fieldAt b 2 1 != 1) (fun _ r =>
    if fieldAt r.payload 2 1 = 0 then doRelayoutAbort s fn.toNat false r else mbxInvalid s))

/-- RELAYOUT_ABORT mode 1. -/
def execRelayoutAbortRevert (fn : BitVec 4) (s : State) : Out :=
  .next (runMbx s fn.toNat 0x10 (fun b => fieldAt b 2 1 == 1) (fun _ r => doRelayoutAbort s fn.toNat true r))

/-! ### DRIP_CONFIG, REPLAY_CONFIG (R325, R329, R471) -/

/-- Does a ring lie in T1 owned by a partition (1), or in one of its host-tier registrations (2)? (DEDUCED, log entry 80) -/
def ringIn (s : State) (p : Nat) (t1 : Bool) (a n : Nat) : Bool :=
  if t1 then decide (a + n ≤ 0x20000000000) && ownsT1 s p a n
  else ((partAt s p).map (fun x => x.hostRegs.any (fun r => decide (r.2.base ≤ a ∧ a + n ≤ r.2.base + r.2.bytes)))).getD false

/-- The replica groups that this module leads (R320, R325). (DEDUCED, log entry 80) -/
def ledGroups (s : State) (j : Job) : List Nat :=
  ((j.groups.zipIdx).filter (fun g => g.1.members.getD g.1.leaderRank 0x10000 == s.life.moduleId)).map (·.2)

/-- DRIP_CONFIG. A lag bound of 0 takes the default. (DESIGN CHOICE, log entry 46) (DEDUCED, log entry 80) -/
def doDripConfig (s : State) (p : Nat) (r : MbxReq) : MbxAnswer :=
  let b := r.payload
  let dest := fieldAt b 0 1
  let units := fieldAt b 4 4
  let ring := fieldAt b 8 8
  let lag := if fieldAt b 0x10 2 = 0 then 64 else fieldAt b 0x10 2
  match jobAt s p with
  | none => mbxInvalid s
  | some j =>
    if j.step.isSome then .done s stBusy []
    else if dest = 0 then .done (modJob s p (fun y => { y with drip := none })) stOk []
    else if 2 < dest ∨ units < 16 ∨ 2 ^ 20 < units ∨ 2 ^ Nat.log2 units ≠ units ∨ ring % 64 ≠ 0 then mbxInvalid s
    else if !ringIn s p (dest == 2) ring (units * 65536) then .done (failAccess s p ring) stAddressFault []
    else if !reachCoherent s p (fieldAt b 0x20 8) 1 then .done (failAccess s p (fieldAt b 0x20 8)) stAddressFault []
    else
      mpRead s p (fieldAt b 0x18 8) 1024 (fun s1 staging =>
        let d : Drip :=
          { dest := dest, ring := ring, size := units * 65536, lag := lag, stagingList := staging, dripMap := fieldAt b 0x20 8,
            tableRate := fieldAt b 0x28 8, tail := 0, lastComplete := 0, behind := [], behindPages := [], staged := [], ready := [],
            recordsInStep := 0, leads := ledGroups s1 j }
        let s2 := modJob s1 p (fun y => { y with drip := some d })
        let s3 := moduleWrite s2 ring (cp32Bytes 0)
        .done (d.leads.foldl (fun t g => dripInvalidate t p g) s3) stOk [])

/-- DRIP_CONFIG. -/
def execDripConfig (fn : BitVec 4) (s : State) : Out :=
  .next (runMbx s fn.toNat 0x11 anyForm (fun _ r => doDripConfig s fn.toNat r))

/-- REPLAY_CONFIG: the journal starts anew; its configuration requests still in force stay. (DEDUCED, log entry 80) -/
def doReplayConfig (s : State) (p : Nat) (r : MbxReq) : MbxAnswer :=
  let b := r.payload
  let en := fieldAt b 0 1
  let dest := fieldAt b 1 1
  let ring := fieldAt b 8 8
  let size := if fieldAt b 0x10 8 = 0 then 2 ^ 32 else fieldAt b 0x10 8
  let set (t : State) (f : Journal → Journal) : State := modPart t p (fun x => { x with journal := f { Journal.off with config := x.journal.config } })
  if 2 < en then mbxInvalid s
  else if en = 0 then .done (set s id) stOk []
  else if dest < 1 ∨ 2 < dest ∨ ring % 64 ≠ 0 ∨ size % 64 ≠ 0 ∨ size < 128 then mbxInvalid s
  else if !ringIn s p (dest == 1) ring size then .done (failAccess s p ring) stAddressFault []
  else .done (moduleWrite (set s (fun j => { j with enable := en, base := ring, size := size })) ring (cp32Bytes 0)) stOk []

/-- REPLAY_CONFIG. -/
def execReplayConfig (fn : BitVec 4) (s : State) : Out :=
  .next (runMbx s fn.toNat 0x13 anyForm (fun _ r => doReplayConfig s fn.toNat r))

/-! ### PEER_TABLE_LOAD (R342, Table 11-6) -/

/-- A peer from its 128 B entry. -/
def peerOfBytes (b : List Byte) : Peer :=
  { module := fieldAt b 0 2, planes := fieldAt b 2 2, macs := (List.range 16).map (fun i => fieldAt b (8 + 6 * i) 6) }

/-- Do module IDs rise strictly? -/
def risingIds : List Nat → Bool
  | a :: b :: rest => decide (a < b) && risingIds (b :: rest)
  | _ => true

/-- Does a gang-lane command of a partition run (R412)? -/
def gangRuns (s : State) (p : Nat) : Bool :=
  !(cmdsWhere s (fun _ x c => x.partition == p && c.phase != .waiting && (c.opcode == 5 || c.opcode == 6 || c.opcode == 0x0A || c.opcode == 0x0B))).isEmpty

/-- PEER_TABLE_LOAD. -/
def doPeerTableLoad (s : State) (p : Nat) (r : MbxReq) : MbxAnswer :=
  let n := fieldAt r.payload 8 4
  if gangRuns s p then .done s stBusy []
  else if n < 1 ∨ 65536 < n then mbxInvalid s
  else
    mpReadT1 s p (fieldAt r.payload 0 8) (128 * n) (fun s1 b =>
      let es := (List.range n).map (fun i => sliceBytes b (128 * i) 128)
      let peers := es.map peerOfBytes
      if !es.all (fun e => zeroAt e 4 4 && zeroAt e 0x68 24) ∨ !risingIds (peers.map (·.module)) then mbxInvalid s1
      else .done (modPart s1 p (fun x => { x with peers := peers })) stOk [])

/-- PEER_TABLE_LOAD. -/
def execPeerTableLoad (fn : BitVec 4) (s : State) : Out :=
  .next (runMbx s fn.toNat 0x16 anyForm (fun _ r => doPeerTableLoad s fn.toNat r))

end Sys2Proof.Machine
end

