-- ==== Sys2Proof/Machine/Ports.lean ====
section
/-! DEFINITION. Received frames, the timers of flows and the states of ports (R331 to R349). -/

namespace Sys2Proof.Machine

/-! ### What a received frame meets (R335, R337 to R339) -/

/-- A frame dropped and counted. -/
def dropFrame (s : State) (port : Nat) : State := modPort s port (fun x => { x with rxDropped := x.rxDropped + 1 })

/-- A frame with a good FCS counted. -/
def countRx (s : State) (port bytes : Nat) : State :=
  modPort s port (fun x => { x with rxFrames := x.rxFrames + 1, rxBytes := bump x.rxBytes bytes })

/-- Does the header's CRC-32C cover the frame (Table 11-3)? -/
def icrcOk (header payload : List Byte) : Bool :=
  fieldAt header 0x3C 4 == crc32c (header.take 60 ++ zeros 4 ++ payload)

/-- May a port accept a transport frame: UP, and with MACsec on, a receive SA and a good ICV? A failing ICV is counted. -/
def admitFrame (s : State) (port : Nat) (dst etherType : Nat) (fcsOk icvOk : Bool) (n : Nat) (f : State → State) : State :=
  match portAt s port with
  | none => s
  | some x =>
    if x.phase ≠ .up then s
    else if !fcsOk then modPort s port (fun y => { y with fcsErrors := y.fcsErrors + 1 })
    else
      let s1 := countRx s port (wireBytes x n)
      if dst ≠ x.mac then dropFrame s1 port
      else if x.macsec ∧ (!icvOk ∨ (s.sec.macsec[port]?.map (·.rxSas)).getD [] = []) then
        modPort s1 port (fun y => { y with macsecDrops := y.macsecDrops + 1 })
      else if etherType ≠ s.etherType then dropFrame s1 port
      else f s1

/-- A reply on the port that a frame came in on, to a sender without a flow context here. -/
def replyFrame (s : State) (port type srcFlow : Nat) (x : TFrame) : State :=
  emitFrame s port
    { ver := 1, type := type, cls := 0, flags := 0, netId := x.netId, srcModule := s.life.moduleId, dstModule := x.srcModule,
      srcFlow := srcFlow, dstFlow := x.srcFlow, gen := s.sec.generation.toNat, psn := 0, ackPsn := 0, ts := 0, sack := 0,
      tsEcho := 0, tag := 0, op := 0, cause := 0, seq := 0, chunk := 0, dstGen := x.gen, payload := [] }

/-- A transport frame of a type: header checks of R337, then what follows for its partition. (DEDUCED, log entry 41) -/
def checkFrame (s : State) (port type : Nat) (header payload : List Byte) (f : State → Nat → TFrame → State) : State :=
  let x := frameOfBytes header payload
  if header.length ≠ 64 ∨ x.ver ≠ 1 ∨ x.type ≠ type ∨ (type = 1 ∧ 6 < x.cls) ∨ !icrcOk header payload
      ∨ fieldAt header 0x0E 2 ≠ payload.length ∨ 8192 < payload.length ∨ (type ≠ 1 ∧ payload ≠ []) then dropFrame s port
  else
    match partOfNet s x.netId with
    | none => dropFrame s port
    | some p => f s p x

/-- A frame of an open flow: the context belongs to the partition and peer, and the generation is this module's (R342). (DEDUCED, log entry 41) -/
def flowFrame (s : State) (port type : Nat) (header payload : List Byte) (f : State → Nat → Nat → Flow → TFrame → State) : State :=
  checkFrame s port type header payload (fun s1 p x =>
    match flowAt s1 x.dstFlow with
    | none => dropFrame s1 port
    | some g =>
      if g.partition ≠ p ∨ g.peer ≠ x.srcModule then dropFrame s1 port
      else if x.dstGen ≠ s1.sec.generation.toNat ∧ type ≠ 5 then replyFrame s1 port 5 0xFFFF x
      else
        let s2 := modFlow s1 x.dstFlow (fun h => { h with
          lastHeard := aonNow s1, phase := if h.phase = .unreachable then .open else h.phase })
        f s2 p x.dstFlow g x)

/-- Gang-lane commands of a partition go on where an acknowledgement allows. -/
def progressGang (s : State) (p : Nat) : State :=
  (cmdsWhere s (fun _ x c => x.partition == p && c.phase == .admitted && c.begun && isGang c.opcode)).foldl (fun t e =>
    progressRing (progressColl t e.1 e.2) e.1 e.2) s

/-! ### DATA (R344, R345) -/

/-- The receive bitmap after PSN rx_next + d has arrived: the new rx_next offset and bitmap. -/
def shiftBitmap : Nat → Nat → BitVec 256 → Nat × BitVec 256
  | 0, k, b => (k, b)
  | fuel + 1, k, b => if b.getLsbD 0 then shiftBitmap fuel (k + 1) (b >>> 1) else (k, b)

/-- A PSN marked received: rx_next passes every PSN in order, and the bitmap shifts by the same count. -/
def markPsn (f : Flow) (d : Nat) : Flow :=
  if d = 0 then
    -- bit 0 stands for rx_next + 1, which becomes rx_next when the bitmap shifts by one
    let (k, b) := shiftBitmap 256 1 f.rxSack
    { f with rxNext := (f.rxNext + k) % 2 ^ 32, rxSack := b >>> 1 }
  else { f with rxSack := f.rxSack ||| BitVec.ofNat 256 (2 ^ (d - 1)) }

/-- Chunks in PSN order from `psn` on that are all there, and the rest. -/
def takeInOrder : Nat → Nat → List TFrame → List TFrame × List TFrame
  | 0, _, l => ([], l)
  | fuel + 1, psn, l =>
    match l.find? (fun x => x.psn == psn) with
    | none => ([], l)
    | some x =>
      let (a, b) := takeInOrder fuel ((psn + 1) % 2 ^ 32) (l.filter (fun y => y.psn != psn))
      (x :: a, b)

/-- Complete messages at the front of a chunk list, and the chunks of one that is not complete. -/
def splitMessages : List TFrame → List TFrame → List (List TFrame) × List TFrame
  | acc, [] => ([], acc)
  | acc, x :: rest =>
    if natBit x.flags 0 then
      let (ms, tl) := splitMessages [] rest
      ((acc ++ [x]) :: ms, tl)
    else splitMessages (acc ++ [x]) rest

/-- The message of its chunks (R336). -/
def messageOf (cs : List TFrame) : Option RxMsg :=
  cs.getLast?.map (fun x =>
    { src := x.srcModule, cls := x.cls, tag := x.tag, op := x.op, cause := x.cause, seq := x.seq, round := x.chunk / 2 ^ 24,
      body := cs.flatMap (·.payload) })

/-- Messages of a flow that are complete in PSN order are delivered, once each. -/
def deliverFlow (s : State) (fid : Nat) : State :=
  match flowAt s fid with
  | none => s
  | some f =>
    match (f.inbox.filter (fun x => psnBefore x.psn f.rxNext)).foldl (fun (b : Option Nat) x =>
        match b with
        | none => some x.psn
        | some y => if psnBefore x.psn y then some x.psn else some y) none with
    | none => s
    | some first =>
      let (run, later) := takeInOrder f.inbox.length first f.inbox
      let ready := run.filter (fun x => psnBefore x.psn f.rxNext)
      let ahead := run.filter (fun x => !psnBefore x.psn f.rxNext)
      let (ms, tl) := splitMessages [] ready
      let s1 := modFlow s fid (fun g => { g with inbox := tl ++ ahead ++ later })
      ms.foldl (fun t cs => match messageOf cs with
        | none => t
        | some m => deliver t f.partition m) s1

/-- DATA_FRAME (R344, R345). -/
def execDataFrame (port : BitVec 4) (dst : BitVec 48) (etherType : BitVec 16) (fcsOk icvOk : Bool) (header payload : List Byte)
    (s : State) : Out :=
  let pt := port.toNat
  .next (admitFrame s pt dst.toNat etherType.toNat fcsOk icvOk payload.length (fun s1 =>
    flowFrame s1 pt 1 header payload (fun s2 p fid g x =>
      let d := (x.psn + 2 ^ 32 - g.rxNext) % 2 ^ 32
      let fresh := d < 256 ∧ !(0 < d && g.rxSack.getLsbD (d - 1))
      if !fresh then
        takeAck (sendAck (modPort s2 pt (fun y => { y with duplicates := y.duplicates + 1 })) fid) fid x
      else
        let s3 := modFlow s2 fid (fun h => { markPsn h d with
          rxFrames := h.rxFrames + 1, tsEcho := x.ts, unacked := h.unacked + 1, inbox := h.inbox ++ [x], lastUsed := aonNow s2 })
        let s4 := modColl s3 (pt / 4) (fun c => { c with bytesReceived := bump c.bytesReceived payload.length })
        let s5 := takeAck s4 fid x
        let n : Nat := ((flowAt s5 fid).map (·.unacked)).getD 0
        let s6 := if 16 ≤ n ∨ natBit x.flags 2 then sendAck s5 fid else s5
        progressGang (deliverFlow s6 fid) p)))

/-- ACK_FRAME (R345 to R347). -/
def execAckFrame (port : BitVec 4) (dst : BitVec 48) (etherType : BitVec 16) (fcsOk icvOk : Bool) (header payload : List Byte)
    (s : State) : Out :=
  .next (admitFrame s port.toNat dst.toNat etherType.toNat fcsOk icvOk payload.length (fun s1 =>
    flowFrame s1 port.toNat 2 header payload (fun s2 p fid _ x => progressGang (takeAck s2 fid x) p)))

/-- The planes of a flow that both ends have, as its context shows them. -/
def setPlanes (s : State) (fid : Nat) : State :=
  match flowAt s fid with
  | none => s
  | some f => modFlow s fid (fun g => { g with planes := ((flowPlanes s f).map (2 ^ ·)).sum })

/-- CONNECT_FRAME (R341, R342): accepted where the peer is known and a context is free. -/
def execConnectFrame (port : BitVec 4) (dst : BitVec 48) (etherType : BitVec 16) (fcsOk icvOk : Bool) (header payload : List Byte)
    (s : State) : Out :=
  let pt := port.toNat
  .next (admitFrame s pt dst.toNat etherType.toNat fcsOk icvOk payload.length (fun s1 =>
    checkFrame s1 pt 3 header payload (fun s2 p x =>
      match peerOf s2 p x.srcModule with
      | none => replyFrame s2 pt 5 0xFFFF x
      | some _ =>
        match flowTo s2 p x.srcModule with
        | some (fid, f) =>
          let again := f.phase == .open && f.peerFlow == x.srcFlow && f.peerGen == x.gen
          let s3 := modFlow s2 fid (fun g =>
            if again then { g with lastHeard := aonNow s2 }
            else { newFlow s2 p x.srcModule .open with
              queue := g.queue, peerFlow := x.srcFlow, peerGen := x.gen, rto := g.rto, txFrames := g.txFrames,
              rxFrames := g.rxFrames, retxFrames := g.retxFrames })
          pump (setPlanes (replyFrame s3 pt 4 fid x) fid) fid
        | none =>
          match flowRoom s2 p with
          | none => replyFrame s2 pt 5 0xFFFF x
          | some s3 =>
            let fid := mapFree s3.flows 0 40960
            let f := { newFlow s3 p x.srcModule .open with peerFlow := x.srcFlow, peerGen := x.gen }
            let f1 := { f with rto := nsToLnk (flowSetting s3 f (·.initialRto)) }
            setPlanes (replyFrame { s3 with flows := mapSet s3.flows fid f1 } pt 4 fid x) fid)))

/-- ACCEPT_FRAME (R341): the flow is open, and waiting chunks go out. -/
def execAcceptFrame (port : BitVec 4) (dst : BitVec 48) (etherType : BitVec 16) (fcsOk icvOk : Bool) (header payload : List Byte)
    (s : State) : Out :=
  .next (admitFrame s port.toNat dst.toNat etherType.toNat fcsOk icvOk payload.length (fun s1 =>
    flowFrame s1 port.toNat 4 header payload (fun s2 _ fid g x =>
      if g.phase = .connecting then
        pump (setPlanes (modFlow s2 fid (fun h => { h with phase := .open, peerFlow := x.srcFlow, peerGen := x.gen })) fid) fid
      else s2)))

/-- A flow's unacknowledged state discarded, the flow opened again, and the collectives that used it restarted (R342). -/
def reopenFlow (s : State) (fid : Nat) : State :=
  match flowAt s fid with
  | none => s
  | some f =>
    let p := f.partition
    let s1 := modFlow s fid (fun g =>
      { newFlow s p g.peer .connecting with rto := g.rto, txFrames := g.txFrames, rxFrames := g.rxFrames, retxFrames := g.retxFrames })
    let s2 := sendControl s1 fid 3
    (cmdsWhere s2 (fun _ x c => x.partition == p && c.phase == .admitted && c.begun && c.group.contains f.peer)).foldl
      (fun t e => restartColl (modCmd t e.1 e.2 (fun c => if c.opcode = 5 then { c with doneSent := false } else c)) e.1 e.2 true) s2

/-- REJECT_FRAME (R342). -/
def execRejectFrame (port : BitVec 4) (dst : BitVec 48) (etherType : BitVec 16) (fcsOk icvOk : Bool) (header payload : List Byte)
    (s : State) : Out :=
  .next (admitFrame s port.toNat dst.toNat etherType.toNat fcsOk icvOk payload.length (fun s1 =>
    flowFrame s1 port.toNat 5 header payload (fun s2 p fid _ _ => progressGang (reopenFlow s2 fid) p)))

/-- KEEPALIVE_FRAME (R348): answered with an ACK. -/
def execKeepaliveFrame (port : BitVec 4) (dst : BitVec 48) (etherType : BitVec 16) (fcsOk icvOk : Bool)
    (header payload : List Byte) (s : State) : Out :=
  .next (admitFrame s port.toNat dst.toNat etherType.toNat fcsOk icvOk payload.length (fun s1 =>
    flowFrame s1 port.toNat 6 header payload (fun s2 _ fid _ _ => sendAck s2 fid)))

/-- CLOSE_FRAME (Table 11-5): the flow context is free. -/
def execCloseFrame (port : BitVec 4) (dst : BitVec 48) (etherType : BitVec 16) (fcsOk icvOk : Bool) (header payload : List Byte)
    (s : State) : Out :=
  .next (admitFrame s port.toNat dst.toNat etherType.toNat fcsOk icvOk payload.length (fun s1 =>
    flowFrame s1 port.toNat 7 header payload (fun s2 _ fid _ _ => { s2 with flows := mapErase s2.flows fid })))

/-- NON_TRANSPORT_FRAME (R335): every other frame is dropped and counted. -/
def execNonTransportFrame (port : BitVec 4) (dst : BitVec 48) (etherType : BitVec 16) (fcsOk icvOk : Bool)
    (header payload : List Byte) (s : State) : Out :=
  let pt := port.toNat
  match portAt s pt with
  | none => .next s
  | some x =>
    if x.phase ≠ .up then .next s
    else if !fcsOk then .next (modPort s pt (fun y => { y with fcsErrors := y.fcsErrors + 1 }))
    else
      let s1 := countRx s pt (14 + header.length + payload.length + 4)
      if dst.toNat = x.mac ∧ etherType.toNat ≠ 0x888E ∧ x.macsec ∧ !icvOk then
        .next (modPort s1 pt (fun y => { y with macsecDrops := y.macsecDrops + 1 }))
      else .next (dropFrame s1 pt)

/-- MKA_FRAME (R338, R339, R488): a receive SA is installed before the transmit SA changes. A new CAK takes over once its
participant is live. The bytes of the frame are the standard's, so they are not counted. (DEDUCED, log entry 47) -/
def execMkaFrame (port : BitVec 4) (_dst : BitVec 48) (fcsOk installRx installTx : Bool) (sak : BitVec 128) (s : State) : Out :=
  let pt := port.toNat
  match portAt s pt with
  | none => .next s
  | some x =>
    if x.phase ≠ .up then .next s
    else if !fcsOk then .next (modPort s pt (fun y => { y with fcsErrors := y.fcsErrors + 1 }))
    else
      let s1 := modPort s pt (fun y => { y with rxFrames := y.rxFrames + 1 })
      if !x.macsec then .next (dropFrame s1 pt)
      else
        match s1.sec.macsec[pt]? with
        | none => .next s1
        | some k =>
          if k.cak.isNone ∧ k.nextCak.isNone then .next s1
          else
            let k1 := if installRx then { k with rxSas := k.rxSas.filter (· != sak.toNat) ++ [sak.toNat] } else k
            let tx := installTx && k1.rxSas.contains sak.toNat
            let k2 := if tx then { k1 with
                txSa := some sak.toNat, rxSas := [sak.toNat], live := true,
                cak := (match k1.nextCak with | some c => some c | none => k1.cak), nextCak := none } else k1
            let s2 := { s1 with sec := { s1.sec with macsec := s1.sec.macsec.set! pt k2 } }
            .next (if tx then s2.flows.foldl (fun t e => pump t e.1) (modPort s2 pt (fun y => { y with secured := true })) else s2)

/-- LNK cycles of a PFC pause time: 512 bit times of 800 Gb/s each. (DEDUCED, log entry 47) -/
def pauseCycles (time : Nat) : Nat := time * 96 / 100

/-- PAUSE_FRAME (R334): counted and discarded; an obeyed PFC frame pauses the configured priority. -/
def execPauseFrame (port : BitVec 4) (pfc : Bool) (prio : BitVec 3) (time : BitVec 16) (s : State) : Out :=
  let pt := port.toNat
  match portAt s pt with
  | none => .next s
  | some x =>
    if x.phase ≠ .up then .next s
    else
      let s1 := modPort s pt (fun y => { y with pauseFrames := y.pauseFrames + 1, rxFrames := y.rxFrames + 1 })
      let mine : Bool := match x.vlan with
        | some v => natField v 13 3 == prio.toNat
        | none => false
      if pfc ∧ x.obeyPfc ∧ mine then
        if time.toNat = 0 then .next (s1.flows.foldl (fun t e => pump t e.1) (modPort s1 pt (fun y => { y with paused := none })))
        else .next (modPort s1 pt (fun y => { y with
          paused := some (bump (domCycles s (36 + pt / 4)) (pauseCycles time.toNat)) }))
      else .next s1

/-- PFC_PAUSE_EXPIRY (R334). -/
def execPfcPauseExpiry (port : BitVec 4) (s : State) : Out :=
  let s1 := modPort s port.toNat (fun y => { y with paused := none })
  .next (s1.flows.foldl (fun t e => pump t e.1) s1)

/-! ### Timers of a flow -/

/-- ACK_TIMER (R345): 2 µs after the first DATA frame not yet acknowledged. -/
def execAckTimer (flow : BitVec 16) (s : State) : Out :=
  match flowAt s flow.toNat with
  | none => .next s
  | some f => .next (if 0 < f.unacked then sendAck s flow.toNat else s)

/-- RETRANSMIT_TIMEOUT (R346, R347): tx_una goes again, rto doubles up to 8 ms, the window falls to 8. -/
def execRetransmitTimeout (flow : BitVec 16) (s : State) : Out :=
  let fid := flow.toNat
  match flowAt s fid with
  | none => .next s
  | some f =>
    if f.phase = .open ∧ f.sent.any (fun x => x.frame.psn == f.txUna && !x.acked) then
      let s1 := resendPsn s fid f.txUna
      .next (modFlow s1 fid (fun g => { g with rto := min (2 * g.rto) 12000000, window := 8, retxRun := g.retxRun + 1 }))
    else .next s

/-- CONNECT_RETRY_TIMER (R341). -/
def execConnectRetryTimer (flow : BitVec 16) (s : State) : Out :=
  match flowAt s flow.toNat with
  | none => .next s
  | some f => .next (if f.phase = .connecting then sendControl s flow.toNat 3 else s)

/-- Has a flow unacknowledged frames, or does a command wait on its peer? -/
def flowWaits (s : State) (f : Flow) : Bool := decide (0 < f.inFlight) || flowInUse s f

/-- KEEPALIVE_TIMER (R348): 1 ms without a frame from the peer. -/
def execKeepaliveTimer (flow : BitVec 16) (s : State) : Out :=
  match flowAt s flow.toNat with
  | none => .next s
  | some f =>
    .next (if (f.phase = .open ∨ f.phase = .unreachable) ∧ flowWaits s f ∧ 25000 ≤ aonSince s f.lastHeard then
      sendControlAll s flow.toNat 6 else s)

/-- PEER_UNREACHABLE (R348): the peer timeout has passed without a frame. -/
def execPeerUnreachable (flow : BitVec 16) (s : State) : Out :=
  let fid := flow.toNat
  match flowAt s fid with
  | none => .next s
  | some f =>
    if f.phase = .open ∧ 25 * flowSetting s f (·.peerTimeout) ≤ aonSince s f.lastHeard then
      let s1 := modColl (modFlow s fid (fun g => { g with phase := .unreachable })) (fid / 10240 % 4)
        (fun c => { c with unreachable := c.unreachable + 1 })
      let cmd := (cmdsWhere s1 (fun _ x c => x.partition == f.partition && c.phase == .admitted && c.begun && c.group.contains f.peer)).head?
      match cmd.bind (fun e => (cmdAt s1 e.1 e.2).map (fun c => (e.1, c))) with
      | some (q, c) =>
        let total := (collNow s1 c.tag - c.lnkStart).toNat
        .next (laggard s1 f.partition q c.tag f.peer 2 0xFF 0 c.group.length c.collSeq 0 total)
      | none => .next (laggard s1 f.partition 0xFFF 0 f.peer 2 0xFF 0 0 0 0 0)
    else .next s

/-! ### Port states (R334) -/

/-- PORT_LINK_UP. -/
def execPortLinkUp (port : BitVec 4) (s : State) : Out :=
  match portAt s port.toNat with
  | none => .next s
  | some x =>
    if x.phase = .training then
      let s1 := modPort s port.toNat (fun y => { y with phase := .up, laneLock := 15, localFault := false, remoteFault := false })
      .next (s1.flows.foldl (fun t e => pump (setPlanes t e.1) e.1) s1)
    else .next s

/-- PORT_LINK_DOWN: cause 0 block lock, 1 local fault, 2 remote fault, 3 FEC. -/
def execPortLinkDown (port : BitVec 4) (cause : BitVec 2) (s : State) : Out :=
  match portAt s port.toNat with
  | none => .next s
  | some x =>
    if x.phase = .up then
      let s1 := modPort s port.toNat (fun y => { y with
        phase := .down, downEvents := y.downEvents + 1, paused := none, laneLock := if cause = 0 then 0 else y.laneLock,
        localFault := decide (cause = 1), remoteFault := decide (cause = 2),
        fecUncorrected := if cause = 3 then y.fecUncorrected + 1 else y.fecUncorrected })
      .next (s1.flows.foldl (fun t e => setPlanes t e.1) s1)
    else .next s

/-- TRAINING_TIMEOUT: training starts again; the failed attempt is counted. -/
def execTrainingTimeout (port : BitVec 4) (s : State) : Out :=
  match portAt s port.toNat with
  | none => .next s
  | some x => .next (if x.phase = .training then modPort s port.toNat (fun y => { y with downEvents := y.downEvents + 1 }) else s)

/-- PORT_RETRAIN_TIMER: 10 ms after DOWN. -/
def execPortRetrainTimer (port : BitVec 4) (s : State) : Out :=
  match portAt s port.toNat with
  | none => .next s
  | some x => .next (if x.phase = .down then modPort s port.toNat (fun y => { y with phase := .training }) else s)

end Sys2Proof.Machine
end

