-- ==== Sys2Proof/Machine/MbxAdmin.lean ====
section
/-! DEFINITION. Administrative mailbox requests: LINK_CONFIG, FUNCTION_DISABLE, POWER_PROFILE, ageing, DECAF_ENTER, firmware, attestation, the error log (R333, R416, R448, R453 to R455, R463, R465, R482, R486). -/

namespace Sys2Proof.Machine

/-! ### LINK_CONFIG (R333, Table 11-1) -/

/-- EtherTypes that the module may not take. -/
def etherReserved (e : Nat) : Bool := [0x0800, 0x0806, 0x86DD, 0x8100, 0x88A8, 0x8808, 0x888E, 0x88E5].contains e

/-- Are the fields of a LINK_CONFIG in range? -/
def linkFieldsOk (b : List Byte) : Bool :=
  let ether := fieldAt b 0x0A 2
  let tag := fieldAt b 0x0C 2
  let rto := fieldAt b 0x14 4
  let rtt := fieldAt b 0x18 4
  let peer := fieldAt b 0x1C 4
  let lag := fieldAt b 0x20 2
  decide (fieldAt b 0 1 < 16 ∧ fieldAt b 1 1 ≤ 2 ∧ fieldAt b 3 1 ≤ 1 ∧ fieldAt b 0x10 4 ≤ 2 ^ 30 ∧ 20000 ≤ rto ∧ rto ≤ 1000000
    ∧ 2000 ≤ rtt ∧ rtt ≤ 1000000 ∧ 10000 ≤ peer ∧ peer ≤ 60000000 ∧ 1 ≤ lag ∧ lag ≤ 1000)
    && !natBit (fieldAt b 4 1) 0 && (ether == 0 || (decide (0x0600 ≤ ether) && !etherReserved ether))
    && (!natBit tag 15 || decide (1 ≤ tag % 4096 ∧ tag % 4096 ≤ 4094))

/-- The port as a LINK_CONFIG sets it. Enabling a port, or another PHY or lane setting, trains it anew. -/
def configPort (b : List Byte) (x : Port) : Port :=
  let tag := fieldAt b 0x0C 2
  let y := { x with
    enabled := fieldAt b 1 1 != 0, kr := fieldAt b 1 1 == 2, polarity := fieldAt b 2 1, reversed := fieldAt b 3 1 == 1,
    mac := fieldAt b 4 6, vlan := if natBit tag 15 then some (tag % 4096 + tag / 4096 % 8 * 8192) else none,
    obeyPfc := natBit (fieldAt b 0x0E 1) 0, macsec := natBit (fieldAt b 0x0E 1) 1, replayWindow := fieldAt b 0x10 4,
    initialRto := fieldAt b 0x14 4, targetRtt := fieldAt b 0x18 4, peerTimeout := fieldAt b 0x1C 4, laggard := fieldAt b 0x20 2 }
  let same := x.enabled == y.enabled && x.kr == y.kr && x.polarity == y.polarity && x.reversed == y.reversed
  { y with phase := if !y.enabled || y.blocked then .disabled else if same then x.phase else .training }

/-- LINK_CONFIG: a new EtherType closes every flow. (DEDUCED, log entry 81) -/
def doLinkConfig (s : State) (r : MbxReq) : MbxAnswer :=
  let b := r.payload
  if !linkFieldsOk b then mbxInvalid s
  else
    let ether := fieldAt b 0x0A 2
    let s1 := modPort s (fieldAt b 0 1) (configPort b)
    let s2 :=
      if ether = 0 ∨ ether = s1.etherType then s1
      else
        let t := s1.flows.foldl (fun u e => sendControl u e.1 7) s1
        { t with etherType := ether, flows := [] }
    .done (s2.flows.foldl (fun t e => setPlanes t e.1) s2) stOk []

/-- LINK_CONFIG. -/
def execLinkConfig (fn : BitVec 4) (s : State) : Out :=
  .next (runMbx s fn.toNat 0x15 anyForm (fun _ r => doLinkConfig s r))

/-! ### FUNCTION_DISABLE (R416, R417) -/

/-- Is the target of a FUNCTION_DISABLE there? -/
def disableTarget (s : State) (kind i : Nat) : Bool :=
  match kind with
  | 0 => (funcAt s i).isSome
  | 1 => decide (i < 128)
  | 2 => decide (i < 4)
  | 3 => decide (i < 16)
  | _ => false

/-- May a function send this FUNCTION_DISABLE? -/
def mayDisable (fn kind i : Nat) : Bool := fn == 0 || (kind == 0 && i == fn)

/-- Does a command fall under a disabled function or cluster? -/
def disableHits (kind i : Nat) (x : Queue) (c : Cmd) : Bool :=
  c.phase != .waiting && (if kind = 0 then x.partition == i else c.cores.any (fun k => k / 64 == i))

/-- Is a command in its commit: past the point at which it can be killed (R113, R319)? -/
def inCommit (s : State) (c : Cmd) : Bool := c.cores.any (fun k => (coreAt s k).committing)

/-- A target disabled: affected commands that have not reached commit end with ABORTED_DISABLED. -/
def disableNow (s : State) (kind i : Nat) : State :=
  let kill (t : State) : State :=
    endCmds t (cmdsWhere t (fun _ x c => disableHits kind i x c && !inCommit t c)) stAbortedDisabled
  match kind with
  | 0 =>
    let s1 := kill { s with queues := mapAll s.queues (fun _ x => if x.partition = i then { x with state := .disabled } else x) }
    modFunc (retireSlots (withdrawRegions s1 i .disable) i) i (fun f => { f with disabled := true })
  | 1 => kill { s with clusterOff := s.clusterOff ||| BitVec.ofNat 128 (2 ^ i) }
  | 2 => modVideo (endSessions s stAbortedDisabled (fun _ v => v.unit == i)) i (fun v => { v with disabled := true })
  | _ =>
    let s1 := modPort s i (fun x => { x with phase := .disabled, blocked := true })
    s1.flows.foldl (fun t e => setPlanes t e.1) s1

/-- A target enabled again; one that is not disabled stays as it is. -/
def enableNow (s : State) (kind i : Nat) : State :=
  match kind with
  | 0 =>
    let s1 := { s with queues := mapAll s.queues (fun _ x => if x.partition = i ∧ x.state = .disabled then { x with state := .running } else x) }
    modFunc s1 i (fun f => { f with disabled := false })
  | 1 => { s with clusterOff := s.clusterOff &&& ~~~BitVec.ofNat 128 (2 ^ i) }
  | 2 => modVideo s i (fun v => { v with disabled := false })
  | _ => modPort s i (fun x =>
      if x.blocked then { x with blocked := false, phase := if x.enabled then .training else .disabled } else x)

/-- FUNCTION_DISABLE with op 0: accepted, and answered once every affected command has ended. (DEDUCED, log entry 81) -/
def doFunctionDisable (s : State) (fn : Nat) (r : MbxReq) : MbxAnswer :=
  let kind := fieldAt r.payload 0 1
  let op := fieldAt r.payload 1 1
  let i := fieldAt r.payload 2 2
  if 3 < kind ∨ 1 < op then mbxInvalid s
  else if !mayDisable fn kind i then .done s stNotPermitted []
  else if !disableTarget s kind i ∨ (kind = 0 ∧ i = 0) then mbxInvalid s
  else .long (disableNow s kind i)

/-- Have the commands that a FUNCTION_DISABLE affects all ended? -/
def disableDone (s : State) (r : MbxReq) : Bool :=
  let kind := fieldAt r.payload 0 1
  let i := fieldAt r.payload 2 2
  decide (2 ≤ kind) || (cmdsWhere s (fun _ x c => disableHits kind i x c)).isEmpty

/-- FUNCTION_DISABLE, op 0; an op above 1 is INVALID. -/
def execFunctionDisable (fn : BitVec 4) (s : State) : Out :=
  .next (runMbx s fn.toNat 0x17 (fun b => fieldAt b 1 1 != 1) (fun _ r => doFunctionDisable s fn.toNat r))

/-- FUNCTION_DISABLE with op 1. -/
def doFunctionEnable (s : State) (fn : Nat) (r : MbxReq) : MbxAnswer :=
  let kind := fieldAt r.payload 0 1
  let i := fieldAt r.payload 2 2
  if 3 < kind then mbxInvalid s
  else if !mayDisable fn kind i then .done s stNotPermitted []
  else if !disableTarget s kind i then mbxInvalid s
  else .done (enableNow s kind i) stOk []

/-- FUNCTION_DISABLE, op 1. -/
def execFunctionEnable (fn : BitVec 4) (s : State) : Out :=
  .next (runMbx s fn.toNat 0x17 (fun b => fieldAt b 1 1 == 1) (fun _ r => doFunctionEnable s fn.toNat r))

/-! ### POWER_PROFILE (R448) -/

/-- A cap as a source may set it: 0 withdraws the source. -/
def sourceCap (strap v : Nat) : Nat := if v = 0 then 0 else min strap (max 500 v)

/-- POWER_PROFILE. -/
def execPowerProfile (fn : BitVec 4) (s : State) : Out :=
  .next (runMbx s fn.toNat 0x18 anyForm (fun _ r =>
    let old := appliedCap s.power
    let s1 := noteCap { s with power := { s.power with hostCap := sourceCap s.power.strapCap (fieldAt r.payload 0 2) } } old
    .done s1 stOk (natToBytes 2 (appliedCap s1.power))))

/-! ### Ageing (R453 to R455, Tables 15-7 and 15-8) -/

/-- The dies that an AGEING_CHECK names. -/
def maskDies (r : MbxReq) : List Nat := (List.range 13).filter (fun d => natBit (fieldAt r.payload 0 2) d)

/-- AGEING_CHECK accepted: each named die waits for its checkpoint. -/
def execAgeingCheck (fn : BitVec 4) (s : State) : Out :=
  .next (runMbx s fn.toNat 0x19 anyForm (fun _ r =>
    if 2 ^ 13 ≤ fieldAt r.payload 0 2 then mbxInvalid s
    else .long ((maskDies r).foldl (fun t d => modDie t d (fun x => { x with checkpointDue := true })) s)))

/-- An entry of the ageing report (Table 15-8). -/
def ageingEntry (i : Nat) (d : DiePower) : List Byte :=
  let ceil := if i < 8 then d.ageCeil else 1000
  natToBytes 2 d.voff ++ natToBytes 2 (24 - d.voff) ++ natToBytes 2 ceil ++ natToBytes 2 (if i < 8 then ceil - 200 else 0)
    ++ natToBytes 2 d.lastSlack ++ natToBytes 2 d.minSlack ++ natToBytes 4 d.roPpm ++ natToBytes 8 d.lastHours
    ++ natToBytes 4 d.checkpoints ++ zeros 4

/-- The signature of the identity key over the SHA-384 of bytes (R484). -/
def identitySign (bs : List Byte) : List Byte := sliceBytes (Config.signature (natToBytes 48 (sha384Of bs))) 0 96

/-- The ageing report (Table 15-7). -/
def ageingReport (s : State) : List Byte :=
  let decaf := ((s.fault.decaf.map (·.cause)).getD s.fault.bootCause) == 0x0705
  let body := natToBytes 4 0x41474531 ++ natToBytes 2 1 ++ natToBytes 2 s.life.moduleId ++ natToBytes 8 (hoursNow s)
    ++ natToBytes 8 (imageVersions s 1).1 ++ natToBytes 2 (bitOf s.power.recordLost + 2 * bitOf decaf) ++ zeros 38
    ++ (s.dies.toList.zipIdx).flatMap (fun e => ageingEntry e.2 e.1)
  body ++ identitySign body

/-- AGEING_REPORT. In debug state 2 no identity-key signature is given (R490). -/
def execAgeingReport (fn : BitVec 4) (s : State) : Out :=
  let n := fn.toNat
  .next (runMbx s n 0x1A anyForm (fun _ r =>
    if fieldAt r.payload 8 4 < 576 then mbxInvalid s
    else if s.sec.debug = .full then .done s stNotPermitted []
    else mpWrite s n (fieldAt r.payload 0 8) (ageingReport s) (fun t => .done t stOk (natToBytes 4 576))))

/-! ### DECAF_ENTER (R466) -/

/-- DECAF_ENTER: a fault of module class with code 0x0706. -/
def execDecafEnter (fn : BitVec 4) (s : State) : Out :=
  .next (runMbx s fn.toNat 0x1B anyForm (fun _ _ => .done (enterDecaf s 12 0x0706 0 0) stOk []))

/-! ### Firmware (R465, R478 to R483) -/

/-- Does any partition hold an open step? -/
def anyStepOpen (s : State) : Bool := s.partitions.any (fun e => (e.2.job.bind (·.step)).isSome)

/-- An image written to a component's inactive slot; in ROM recovery to slot A, from which the component boots (R481, R482). -/
def storeImage (s : State) (c : Nat) (i : Image) : State :=
  modComponent s c (fun x =>
    if s.sec.romRecovery then { x with factory := false, slotA := some i, activeB := false, staged := false }
    else if x.activeB then { x with factory := false, slotA := some i, staged := true }
    else { x with slotB := some i, staged := true })

/-- The outcome of a FW_STAGE whose image is read (R482). (DEDUCED, log entry 81) -/
def stageImage (s : State) (c n : Nat) (bytes : List Byte) : State × Nat :=
  let i := imageOfBytes bytes
  let size := fieldAt i.header 0x018 4
  if n ≠ 0x1000 + size ∨ size < 1 ∨ !headerOk c i.header then (s, stInvalid)
  else if !signaturesOk i then (s, 0x1101)
  else if i.secVersion < s.sec.otpVersion then (s, 0x1102)
  else (storeImage s c i, stOk)

/-- FW_STAGE accepted: the image is read and verified by the time it is answered. -/
def execFwStage (fn : BitVec 4) (s : State) : Out :=
  .next (runMbx s fn.toNat 0x1C anyForm (fun _ r =>
    let c := fieldAt r.payload 0 1
    let n := fieldAt r.payload 0x10 8
    if 4 < c ∨ n < 0x1000 ∨ 0x1000 + 64 * 2 ^ 20 < n then mbxInvalid s
    else if (componentAt s c).trial then .done s stBusy []
    else .long s))

/-- FW_ACTIVATE: components 0 and 1 are answered at once, the others when the trial is over. -/
def execFwActivate (fn : BitVec 4) (s : State) : Out :=
  .next (runMbx s fn.toNat 0x1D anyForm (fun _ r =>
    let c := fieldAt r.payload 0 1
    if 4 < c ∨ !(componentAt s c).staged then mbxInvalid s
    else if 3 ≤ c ∧ anyStepOpen s then .done s stBusy []
    else
      let s1 := modComponent s c (fun x => { x with trial := true, trying := false })
      if c ≤ 1 then .done s1 stOk [] else .long s1))

/-- FW_TRIAL_START (Table 16-5): component 3 when no core command runs, component 4 when no video session is open. The trials
of components 0 to 2 begin in the module reset and in the server boot that load them. -/
def execFwTrialStart (comp : BitVec 3) (s : State) : Out :=
  let c := comp.toNat
  let coreRuns := !(cmdsWhere s (fun _ _ x => x.phase != .waiting && isCoreCmd x.opcode)).isEmpty
  .next (if !s.life.running then s
    else if c = 3 ∧ !coreRuns then startTrial s 3
    else if c = 4 ∧ s.partitions.all (fun e => e.2.sessions.isEmpty) then startTrial s 4
    else s)

/-- FW_TRIAL_OUTCOME (R465, R483): of a trial that has begun. After a failed one the units of components 3 and 4 load the old
slot again. -/
def execFwTrialOutcome (comp : BitVec 3) (success : Bool) (s : State) : Out :=
  let c := comp.toNat
  .next (if !(componentAt s c).trying then s
    else if success then passTrial s c
    else
      let s1 := failTrial s c
      if 3 ≤ c then (match bootImage s1 c with
        | some i => modComponent s1 c (fun y => { y with running := some i })
        | none => s1)
      else s1)

/-! ### ATTEST_GET (R485, R486, Tables 17-3 and 17-4) -/

/-- The content of a measurement block. The spec gives blocks 7 and 8 no layout: `Config.blockLayout` lays them out. (DEDUCED, log entry 81) -/
def measureBlock (s : State) (i : Nat) : List Byte :=
  match i with
  | 1 => natToBytes 48 Config.romDigest
  | 7 => Config.blockLayout 7 [s.sec.otpVersion, (match s.sec.debug with | .locked => 0 | .observe => 1 | .full => 2), bitOf s.sec.romRecovery]
  | 8 => Config.blockLayout 8 (s.partitions.flatMap (fun e => [e.1, e.2.modes, e.2.clusters.toNat]))
  | _ =>
    match (s.flash.components[i - 2]?).bind (·.running) with
    | none => []
    | some m => sliceBytes m.header 0x028 48 ++ natToBytes 8 m.fwVersion ++ natToBytes 8 m.secVersion ++ sliceBytes m.header 0x100 96
        ++ sliceBytes m.header 0x160 1772

/-- The report over the selected blocks (Table 17-4). -/
def attestReport (s : State) (nonce : List Byte) (mask : Nat) : List Byte :=
  let sel := (List.range 9).filter (fun i => decide (1 ≤ i) && natBit mask i)
  let blocks := sel.flatMap (fun i =>
    let c := (measureBlock s i).take 65535
    natToBytes 1 i ++ natToBytes 1 (Config.blockType i) ++ natToBytes 2 c.length ++ c)
  let body := natToBytes 4 0x41545331 ++ natToBytes 2 s.life.moduleId ++ natToBytes 2 sel.length ++ nonce ++ natToBytes 8 mask ++ blocks
  body ++ identitySign body

/-- ATTEST_GET. In debug state 2 it fails (R490). -/
def execAttestGet (fn : BitVec 4) (s : State) : Out :=
  let n := fn.toNat
  .next (runMbx s n 0x1E anyForm (fun _ r =>
    let mask := fieldAt r.payload 0x20 8
    let rep := attestReport s (sliceBytes r.payload 0 32) mask
    if mask = 0 ∨ natBit mask 0 ∨ 512 ≤ mask ∨ fieldAt r.payload 0x30 4 < rep.length then mbxInvalid s
    else if s.sec.debug = .full then .done s stNotPermitted []
    else mpWrite s n (fieldAt r.payload 0x28 8) rep (fun t => .done t stOk (natToBytes 4 rep.length))))

/-! ### ERROR_LOG_READ (R463) -/

/-- The held entries from a number on that a function may read: from the oldest one where the named one is overwritten. -/
def logFrom (s : State) (fn first : Nat) : List LogEntry :=
  let held := s.fault.log
  let back := (s.fault.nextEntry + 2 ^ 32 - first) % 2 ^ 32
  let from' := if back ≤ held.length then held.drop (held.length - back) else if back < 2 ^ 31 then held else []
  from'.filter (fun e => fn == 0 || e.partition == fn)

/-- ERROR_LOG_READ: at most `count` entries, and the number at which a next request goes on. -/
def execErrorLogRead (fn : BitVec 4) (s : State) : Out :=
  let n := fn.toNat
  .next (runMbx s n 0x1F anyForm (fun _ r =>
    let count := fieldAt r.payload 4 4
    let all := logFrom s n (fieldAt r.payload 0 4)
    let sel := all.take count
    let next := if count < all.length then ((all[count]?).map (·.number)).getD s.fault.nextEntry else s.fault.nextEntry
    mpWrite s n (fieldAt r.payload 8 8) (sel.flatMap (·.bytes)) (fun t => .done t stOk (natToBytes 4 sel.length ++ natToBytes 4 next))))

end Sys2Proof.Machine
end

