-- ==== Sys2Proof/Machine/Power.lean ====
section
/-! DEFINITION. Input power, the activity budget, temperature, ageing and the clock domains as time moves them (R38, R163, R438 to R454, R463). -/

namespace Sys2Proof.Machine

/-- Does the module have power? -/
def powered (s : State) : Bool := s.life.powered && !s.life.stopped

/-- Does MP firmware run outside Decaf mode? -/
def mpRuns (s : State) : Bool := powered s && s.life.running && s.fault.decaf.isNone

/-! ### Input (R444, R445, Table 15-3) -/

/-- The range of Table 15-3 that a voltage in mV lies in. -/
def inputBand (mv : Nat) : InputBand :=
  if mv < 44000 then .sag else if mv < 46000 then .low else if mv ≤ 58000 then .normal else if mv ≤ 60000 then .high else .over

/-- Below 46.0 V? -/
def InputBand.under (b : InputBand) : Bool := b == .low || b == .sag
/-- Above 58.0 V? -/
def InputBand.above (b : InputBand) : Bool := b == .high || b == .over

/-- A sample in the power registers: 10 mV, 10 mA, W, mJ, the counted entries (Table 15-9). (DEDUCED, log entry 83) -/
def samplePower (w : PowerBlock) (now : Word64) (mv ma : Nat) : PowerBlock :=
  let b := inputBand mv
  let e := w.energyRest + mv * ma
  { w with
    inputMv10 := mv / 10, inputMa10 := ma / 10, inputW := mv * ma / 1000000,
    energyMj := bump w.energyMj (e / 100000000), energyRest := e % 100000000,
    uvEvents := if b.under ∧ !w.band.under then w.uvEvents + 1 else w.uvEvents,
    ovEvents := if b.above ∧ !w.band.above then w.ovEvents + 1 else w.ovEvents,
    bandSince := if b = w.band then w.bandSince else now, band := b,
    recordsAhead := w.recordsAhead && b == .sag }

/-- ALERT_N while the input is outside its operating range (R498): causes 1 and 2. -/
def alertInput (s : State) : State :=
  let s1 := if s.power.band.under then raiseAlert s 1 else clearAlert s 1
  if s1.power.band.above then raiseAlert s1 2 else clearAlert s1 2

/-- PWR_SAMPLE (R444, R445): a sag writes the state records ahead of need; a lost input enters Decaf mode at once. -/
def execPwrSample (mv ma : BitVec 20) (reverse : Bool) (s : State) : Out :=
  .next (
    if !powered s then s
    else
      let s1 := alertInput { s with power := samplePower s.power (aonNow s) mv.toNat ma.toNat }
      let s2 :=
        if s1.power.band = .sag ∧ !s1.power.recordsAhead ∧ s1.life.running then
          let t := writeStateRecords s1 ((s1.fault.decaf.map (·.cause)).getD 0x0704)
          { t with power := { t.power with recordsAhead := true } }
        else s1
      if (reverse ∨ mv.toNat < 38000) ∧ mpRuns s2 then enterDecaf s2 12 0x0704 0 0 else s2)

/-- UNDERVOLTAGE_TIMER (R444): below 44.0 V for more than 2 ms. -/
def execUndervoltageTimer (s : State) : Out :=
  .next (if mpRuns s ∧ s.power.band = .sag ∧ 50000 < aonSince s s.power.bandSince then enterDecaf s 12 0x0704 0 0 else s)

/-- OVERVOLTAGE_TRIP_TIMER (R444): above 60.0 V for more than 100 µs, the hot-swap controller opens. -/
def execOvervoltageTripTimer (s : State) : Out :=
  .next (if powered s ∧ s.power.band = .over ∧ 2500 < aonSince s s.power.bandSince then powerOff s else s)

/-- PLDM_POWER_LIMIT (R448): 0 withdraws the limit. -/
def execPldmPowerLimit (watts : BitVec 16) (s : State) : Out :=
  .next (
    if powered s then
      let old := appliedCap s.power
      noteCap { s with power := { s.power with pldmCap := sourceCap s.power.strapCap watts.toNat } } old
    else s)

/-! ### The activity budget (R449 to R451) -/

/-- Does the loop lower the power ceiling: the average exceeds 1.2 × cap, or the projection exceeds the cap (R449)? -/
def capExceeded (cap avg proj : Nat) : Bool := decide (6 * cap < 5 * avg ∨ cap < proj)

/-- A power ceiling after one step of the loop: lowered in proportion to the greater excess, or raised by 10 (R449). (DEDUCED, log entry 83) -/
def stepPowerCeil (cap avg proj c : Nat) : Nat :=
  if capExceeded cap avg proj then
    let a := if 6 * cap < 5 * avg then c * 6 * cap / (5 * avg) else c
    let b := if cap < proj then c * cap / proj else c
    max 200 (min a b)
  else min 1000 (c + 10)

/-- A thermal ceiling after one step of the loop (R451). -/
def stepThermalCeil (d : DiePower) : Nat :=
  if 1000 < d.temp then max 200 (d.thermalCeil - 50) else if d.temp ≤ 950 then min 1000 (d.thermalCeil + 10) else d.thermalCeil

/-- The least of the four ceilings (R449). -/
def leastCeil (profile : Nat) (d : DiePower) : Nat := min (min profile d.ageCeil) (min d.thermalCeil d.powerCeil)

/-- A compute die's new budget written: a change is counted and journaled in every partition with a cluster on the die (R450). -/
def writeBudget (profile : Nat) (first : Bool) (s : State) (d : Nat) : State :=
  match s.dies[d]? with
  | none => s
  | some x =>
    let b := leastCeil profile x
    if b = x.budget ∧ !first then s
    else
      let s1 := modDie s d (fun y => { y with budget := b, budgetChanges := y.budgetChanges + 1 })
      (s1.partitions.filter (fun e => natField e.2.clusters.toNat (16 * d) 16 != 0)).foldl
        (fun t e => journalWrite t e.1 0x06 (natToBytes 1 d ++ natToBytes 2 b ++ natToBytes 8 (arrNow t d).toNat)) s1

/-- Every compute die at a power ceiling of 200 permille? -/
def ceilsLow (s : State) : Bool := (s.dies.toList.take 8).all (fun d => d.powerCeil == 200)

/-- The server-cluster ceiling after one step: lowered by 100 MHz where the power ceilings are at 200, else raised toward the
profile's. -/
def stepServerCeil (s : State) (low exceeded : Bool) : Nat :=
  let top := (coolProfile s.power.coolStrap).2.2
  if exceeded && low then max 800 (s.power.serverCeil - 100)
  else if exceeded then s.power.serverCeil else min top (s.power.serverCeil + 100)

/-- Input power above the cap at the lowest ceilings for more than 1 s: counted once, ALERT_N asserted while it lasts (R449). (DEDUCED, log entry 83) -/
def noteExcursion (s : State) (above : Bool) : State :=
  if !above then clearAlert { s with power := { s.power with overSince := none, excursion := false } } 3
  else
    let since := s.power.overSince.getD (aonNow s)
    let s1 := { s with power := { s.power with overSince := some since } }
    if 25000000 < aonSince s since ∧ !s.power.excursion then
      raiseAlert { s1 with power := { s1.power with excursion := true, capExcursions := s1.power.capExcursions + 1 } } 3
    else s1

/-- BUDGET_LOOP_STEP (R449): `avg` is the input power averaged over the last 100 µs, `proj` the projected average over 1 s. (DEDUCED, log entry 83) -/
def execBudgetLoopStep (avg proj : BitVec 16) (s : State) : Out :=
  .next (
    if !powered s then s
    else
      let cap := appliedCap s.power
      let exceeded := capExceeded cap avg.toNat proj.toNat
      let low := ceilsLow s
      let s1 := { s with
        dies := Vector.ofFn (fun (i : Fin 13) =>
          let d := s.dies[i]
          if i.val < 8 then { d with powerCeil := stepPowerCeil cap avg.toNat proj.toNat d.powerCeil, thermalCeil := stepThermalCeil d }
          else d) }
      let s2 := setClusters { s1 with power := { s1.power with serverCeil := stepServerCeil s low exceeded } }
      let s3 := (List.range 8).foldl (writeBudget (coolProfile s.power.coolStrap).2.1 (!s.power.firstLoop)) s2
      noteExcursion { s3 with power := { s3.power with firstLoop := true } }
        (decide (cap < avg.toNat) && ceilsLow s3 && s3.power.serverCeil == 800))

/-- THERMAL_SAMPLE (R451): the temperature in 0.1 °C, two's complement; at 125 °C the regulators turn off. -/
def execThermalSample (die : BitVec 4) (tenths : BitVec 16) (s : State) : Out :=
  let t := natToInt 16 tenths.toNat
  let now := aonNow s
  .next (
    if !powered s ∨ 13 ≤ die.toNat then s
    else if 1250 ≤ t then
      let s1 := powerOff s
      { s1 with power := { s1.power with thermtrip := true } }
    else
      modDie s die.toNat (fun d =>
        let hot := decide (die.toNat < 8) && decide (1050 < t) && d.thermalCeil == 200
        { d with
          temp := t, above110 := if 1100 < t then some (d.above110.getD now) else none,
          above105 := if hot then some (d.above105.getD now) else none }))

/-- Has a die been above a limit for more than `n` AON cycles? -/
def tooLong (s : State) (since : Option Word64) (n : Nat) : Bool :=
  match since with
  | some t => decide (n < aonSince s t)
  | none => false

/-- COOLING_LOST (R451): above 110 °C for more than 100 ms, or a compute die above 105 °C at 200 permille for more than 1 s. -/
def execCoolingLost (die : BitVec 4) (s : State) : Out :=
  .next (match s.dies[die.toNat]? with
    | none => s
    | some d =>
      if mpRuns s ∧ (tooLong s d.above110 2500000 ∨ tooLong s d.above105 25000000) then enterDecaf s die.toNat 0x0703 0 0 else s)

/-! ### Ageing (R452 to R454) -/

/-- A die's offset and ceiling after re-planning at slack s, and whether the margin is exhausted (R453): a compute die takes
50 permille for each voltage step that is not left. (DEDUCED, log entry 84) -/
def replan (compute : Bool) (slack : Nat) (d : DiePower) : DiePower :=
  let want := if 40 ≤ slack then 0 else if 20 ≤ slack then 1 else 4
  let steps := min want (24 - d.voff)
  let cut := 50 * (want - steps)
  if compute then
    { d with voff := d.voff + steps, ageCeil := if d.ageCeil < 200 + cut then d.ageCeil else d.ageCeil - cut,
             exhausted := d.exhausted || decide (d.ageCeil < 200 + cut) }
  else { d with voff := d.voff + steps, exhausted := d.exhausted || decide (steps < want) }

/-- The ageing record written to flash (R454). -/
def writeAgeing (s : State) : State := { s with flash := { s.flash with ageing := some (ageingRecord s) } }

/-- The ageing cause of Decaf mode, where a die is exhausted (R453). -/
def ageingDecaf (s : State) (die : Nat) : State :=
  if ((s.dies[die]?).map (·.exhausted)).getD false ∧ mpRuns s then enterDecaf s die 0x0705 0 0 else s

/-- Do core commands run on a compute die? -/
def coreCmdsOn (s : State) (die : Nat) : Bool :=
  !(cmdsWhere s (fun _ _ c => c.phase != .waiting && isCoreCmd c.opcode && c.cores.any (fun k => coreDie k == die))).isEmpty

/-- AGEING_CHECKPOINT_DUE (R453): 168 powered hours after the last checkpoint, or for an AGEING_CHECK. On a compute die it waits
for the core commands that run there; admission of others waits for it. (DEDUCED, log entry 84) -/
def execAgeingCheckpointDue (die : BitVec 4) (slack : BitVec 16) (roPpm : BitVec 32) (s : State) : Out :=
  let i := die.toNat
  .next (match s.dies[i]? with
    | none => s
    | some d =>
      if !powered s ∨ !s.life.running ∨ (!d.checkpointDue ∧ hoursNow s < d.lastHours + 168) then s
      else if i < 8 ∧ coreCmdsOn s i then modDie s i (fun x => { x with checkpointDue := true })
      else
        let n := slack.toNat
        let x := replan (decide (i < 8)) n d
        let y := { x with
          slack := 0xFFFF, lastSlack := n, minSlack := min d.minSlack n, roPpm := roPpm.toNat, lastHours := hoursNow s,
          checkpoints := (d.checkpoints + 1) % 2 ^ 32, checkpointDue := false }
        let s1 := modDie s i (fun _ => y)
        let s2 := if n < 40 then raiseAplic (logError s1 0 i 0x0803 0xFF 0xFFFF 0 0 n) 1 else s1
        ageingDecaf (writeAgeing s2) i)

/-- SLACK_ALARM (R453): the least live slack of a die; below 10 ps the ceiling falls by 100 permille at once. (DEDUCED, log entry 84) -/
def execSlackAlarm (die : BitVec 4) (slack : BitVec 16) (s : State) : Out :=
  let i := die.toNat
  let n := slack.toNat
  .next (
    if !powered s then s
    else
      let s1 := modDie s i (fun d => { d with slack := min d.slack n, minSlack := min d.minSlack n })
      if 10 ≤ n ∨ 13 ≤ i ∨ !s.life.running then s1
      else
        let s2 := logError s1 0 i 0x0803 0xFF 0xFFFF 0 0 n
        if 8 ≤ i then s2
        else
          ageingDecaf (modDie s2 i (fun d =>
            if d.ageCeil < 300 then { d with exhausted := true } else { d with ageCeil := d.ageCeil - 100 })) i)

/-- AGEING_RECORD_HOURLY (R454). -/
def execAgeingRecordHourly (s : State) : Out := .next (if powered s ∧ s.life.running then writeAgeing s else s)

/-- ERROR_LOG_FLASH_COPY (R463). -/
def execErrorLogFlashCopy (s : State) : Out :=
  .next (if powered s ∧ s.life.running then { s with flash := { s.flash with log := s.fault.log, logNext := s.fault.nextEntry } } else s)

/-! ### Clock domains (R38, R438 to R441) -/

/-- Order of the phases from RUN down. -/
def DomPhase.depth (p : DomPhase) : Nat :=
  match p with
  | .run => 0
  | .gated => 1
  | .ret => 2
  | .off => 3

/-- The compute dies that an open step or evaluation window keeps in RUN (R440). -/
def heldDies (s : State) : List Nat :=
  s.partitions.flatMap (fun e => match e.2.job with
    | none => []
    | some j =>
      let roles (i : Nat) : List Nat := ((mappingAt j i).map (fun m => m.roles.flatMap (fun r => r.cores.map coreDie))).getD []
      (match j.step with
        | some o => ((mappingAt j o.plan.mapFb).map (·.stageDie)).getD [] ++ roles o.plan.mapRed
        | none => [])
      ++ (match j.eval with
        | some v => roles v.installed
        | none => []))

/-- Does a queue context hold a scratch share or WGB tile on a compute die (R440)? -/
def dieShared (s : State) (n : Nat) : Bool :=
  s.queues.any (fun e => (e.2.scratchSize != 0 || e.2.tiles != 0) && (List.range 16).any (fun c => clusterOwner s (16 * n + c) == e.2.partition))

/-- Does an engine of a compute die hold work? -/
def engineBusy (s : State) (n : Nat) : Bool := s.cores.any (fun e => coreDie e.1 == n && !e.2.engine.insts.isEmpty)

/-- Is a drain command running in Decaf mode (R466, R468)? -/
def draining (s : State) : Bool := !(cmdsWhere s (fun _ _ c => c.phase != .waiting)).isEmpty

/-- May a domain leave RUN for a phase now (Table 15-1, R440), as far as the module's state shows it? -/
def mayLeave (s : State) (code : Nat) (to' : DomPhase) : Bool :=
  if code ≤ 3 then false
  else if code = 4 then to' == .gated
  else if code = 5 then to' == .gated && s.partitions.all (fun e => e.2.journal.enable == 0)
  else if code = 6 then to' == .ret && s.life.quiesce
  else if code ≤ 10 then
    to' == .gated || (to' == .off && !((s.harts.toList.drop (16 * (code - 7))).take 16).any (·.released))
  else if code = 11 then to' == .gated && s.link == .l1
  else if code ≤ 15 then
    let mine := s.partitions.flatMap (fun e => (e.2.sessions.filter (fun x => x.2.unit == code - 12)).map (fun x => x.1))
    (to' == .gated && (cmdsWhere s (fun _ _ c => c.phase != .waiting && (c.opcode == 0x0E || c.opcode == 0x0F) && mine.contains (c.field 0x20 2))).isEmpty)
      || (to' == .off && mine.isEmpty)
  else if code ≤ 23 then
    let n := code - 16
    !coreCmdsOn s n && !engineBusy s n && !(heldDies s).contains n && (to' != .off || !dieShared s n)
  else if code ≤ 31 then
    let n := code - 24
    !(heldDies s).contains n && (to' != .off || decide (((s.domains[16 + n]?).map (·.phase)) = some .off))
  else if code ≤ 35 then
    to' == .gated || (to' == .ret && (s.life.quiesce || (s.fault.decaf.isSome && !draining s)))
  else to' == .gated || (to' == .off && ((s.ports.toList.drop (4 * (code - 36))).take 4).all (fun x => x.phase == .disabled))

/-- What a compute die's ARR domain loses on its way to OFF: scratch, WGB and core state read as zero after the start (R38). -/
def loseDie (s : State) (n : Nat) : State :=
  { s with
    mem := s.mem.filter (fun c => decide (c.1 < coreWindowBase) || coreDie (natField c.1 20 13) != n),
    cores := mapFilter s.cores (fun k _ => coreDie k != n) }

/-- The lines of a cache agent recalled before its domain goes OFF (R203). -/
def emptyCache (s : State) (agent : Nat) : State := (mapKeys (mapGetD s.caches agent [])).foldl recallLine s

/-- DOMAIN_IDLE_TIMER (R439, R440): an idle domain moves to GATED (1), RET (2) or OFF (3); MGMT drops to 25 MHz. (DEDUCED, log entry 73) -/
def execDomainIdleTimer (dom : BitVec 6) (dest : BitVec 2) (s : State) : Out :=
  let c := dom.toNat
  let to' : DomPhase := match dest.toNat with
    | 1 => .gated
    | 2 => .ret
    | 3 => .off
    | _ => .run
  .next (
    if !powered s then s
    else if c = 3 then
      (if s.funcs.all (fun e => e.2.inService.isNone && e.2.long.isEmpty) then modDomain s 3 (fun d => { d with mhz := 25 }) else s)
    else
      match s.domains[c]? with
      | none => s
      | some d =>
        if d.phase.depth < to'.depth ∧ d.moving.isNone ∧ mayLeave s c to' then
          let s1 :=
            if to' = .off ∧ 16 ≤ c ∧ c ≤ 23 then loseDie s (c - 16)
            else if to' = .off ∧ 24 ≤ c ∧ c ≤ 31 then emptyCache s (c - 24)
            else s
          modDomain s1 c (fun y => { y with phase := to' })
        else s)

/-- The engines of a compute die ramped down, as an ARR domain that leaves RET or OFF starts (R441). -/
def rampedDown (s : State) (n : Nat) : State :=
  { s with cores := mapAll s.cores (fun k c =>
      if coreDie k = n then { c with engine := { c.engine with colsOn := 0, ramp := .steady } } else c) }

/-- DOMAIN_START_COMPLETE (R38, Table 15-2): a domain that starts is in RUN; MGMT runs at 400 MHz while the MP has work. -/
def execDomainStartComplete (dom : BitVec 6) (s : State) : Out :=
  let c := dom.toNat
  .next (match s.domains[c]? with
    | none => s
    | some d =>
      if c = 3 then
        (if s.funcs.any (fun e => e.2.inService.isSome || !e.2.long.isEmpty) then modDomain s 3 (fun y => { y with mhz := 400 }) else s)
      else if d.moving = some .run then
        let s1 := modDomain s c (fun y => { y with phase := .run, moving := none, starts := y.starts + 1 })
        if 16 ≤ c ∧ c ≤ 23 ∧ d.phase ≠ .gated then rampedDown s1 (c - 16) else s1
      else s)

/-- DEVICE_TEMPERATURE_85C (R163): a device's refresh doubles while it is above 85 °C. -/
def execDeviceTemperature85c (device : BitVec 5) (hot : Bool) (s : State) : Out :=
  let b : BitVec 32 := BitVec.ofNat 32 (2 ^ device.toNat)
  .next (if powered s then { s with derated := if hot then s.derated ||| b else s.derated &&& ~~~b } else s)

end Sys2Proof.Machine
end

