-- ==== Sys2Proof/Machine/Faults.lean ====
section
/-! DEFINITION. Die-link faults, faults of module class, the drip flush of Decaf mode, journal space (R25, R460, R466 to R468, R473, R489). -/

namespace Sys2Proof.Machine

/-! ### Faults of module class (Table 16-2) -/

/-- The codes of class 6 of Table 16-2. -/
def moduleCodes : List Nat := [0x0302, 0x0401, 0x0701, 0x0702, 0x0703, 0x0704, 0x0705, 0x0706, 0x0707]

/-- A fault of module class where MP firmware runs. -/
def moduleFault (s : State) (die code detail : Nat) : State :=
  if powered s ∧ s.life.running then enterDecaf s die code 0 detail else s

/-- LINK_CRC_REPLAY (R25): each replay is counted; the sixteenth of one flit that fails makes the link fault. -/
def execLinkCrcReplay (link : BitVec 6) (run : BitVec 5) (s : State) : Out :=
  let k := link.toNat
  .next (
    if h : k < 44 then
      let s1 := { s with linkReplays := s.linkReplays.set k (s.linkReplays[k] + 1) }
      if 16 ≤ run.toNat then moduleFault s1 0xFF 0x0401 k else s1
    else s)

/-- LINK_RETRAIN_TIMEOUT (R25). -/
def execLinkRetrainTimeout (link : BitVec 6) (s : State) : Out :=
  .next (if link.toNat < 44 then moduleFault s 0xFF 0x0401 link.toNat else s)

/-- MP_WATCHDOG (R460). -/
def execMpWatchdog (s : State) : Out := .next (moduleFault s 12 0x0701 0)

/-- REGULATOR_FAULT (R460). -/
def execRegulatorFault (s : State) : Out := .next (moduleFault s 0xFF 0x0702 0)

/-- ENTROPY_HEALTH_FAILURE (R489): the generator stops. -/
def execEntropyHealthFailure (s : State) : Out :=
  .next (if powered s then moduleFault { s with sec := { s.sec with entropyFailed := true } } 12 0x0707 0 else s)

/-- DECAF_ENTRY (R466): a fault of class 6 with its code; another code is no such fault. -/
def execDecafEntry (cause : BitVec 16) (s : State) : Out :=
  .next (if moduleCodes.contains cause.toNat then moduleFault s 0xFF cause.toNat 0 else s)

/-! ### The drip flush of Decaf mode (R468) -/

/-- Is a block's stamp beyond the committed step? -/
def stampBeyond (stamp committed : Nat) : Bool :=
  let d := (stamp + 2 ^ 32 - committed % 2 ^ 32) % 2 ^ 32
  decide (0 < d ∧ d < 2 ^ 31)

/-- BLOCK_FULL of the committed version of a block: from its inactive set where its stamp exceeds the committed step. -/
def blockCommitted (s : State) (e : DirEnt) (b committed : Nat) : List Byte :=
  let d := blockDesc s e b
  let st := (blockStamp s d).getD 0
  if stampBeyond st committed then
    let x := readSet s e.rule d (1 - ((blockSel s d).map (·.1)).getD 0)
    dripRecord 0x01 committed s.life.moduleId e.tensor b (wordBytes (dripWords e.rule (frameWords s x.master d.elems)
      (if ruleMoment e.rule then frameWords s x.moment d.elems else []) x.ra x.ca))
  else blockFull s e b

/-- Staged records of an uncommitted step dropped: their blocks are behind. -/
def unstage (d : Drip) : Drip :=
  { d with
    staged := [],
    behind := d.behind ++ (d.staged.filter (fun x => !d.behind.any (fun y => y.1 == x.2.1 && y.2.1 == x.2.2.1))).map (fun x => (x.2.1, x.2.2.1, 0)) }

/-- The records that a job's flush still has to write: those that wait, then behind blocks and pages. (DEDUCED, log entry 85) -/
def flushRecords (s : State) (p : Nat) (j : Job) (d : Drip) : List (List Byte) :=
  let order := (d.behind.mergeSort (fun a b =>
    decide (a.2.2 < b.2.2) || (a.2.2 == b.2.2 && (decide (a.1 < b.1) || (a.1 == b.1 && decide (a.2.1 ≤ b.2.1))))))
  d.ready ++ order.map (fun x => blockCommitted s (dirEnt s j x.1) x.2.1 j.committed)
    ++ d.behindPages.filterMap (fun x => (mapGet j.tables x.1).map (fun t =>
      dripRecord 0x04 t.lastStamp s.life.moduleId x.1 x.2 (cohRead s (tablePageAddr s p t.desc x.2) 65536)))

/-- The MARKER of the committed step, written again. (DEDUCED, log entry 85) -/
def flushMarker (s : State) (j : Job) (d : Drip) : List Byte :=
  let scale := (List.range j.layers).flatMap (fun l => cohRead s (scaleAddr j l j.committed) 8)
  let decision := ((readCommitRec s j).map (·.decision)).getD 1
  dripRecord 0x05 j.committed s.life.moduleId 0 0 (markerBody j d decision j.committed scale)

/-- The drip stream of one partition flushed: everything behind, then the marker; what finds no room waits in order. (DEDUCED, log entry 85) -/
def flushDrip (s : State) (p : Nat) : State :=
  match jobAt s p with
  | none => s
  | some j =>
    match j.drip with
    | none => s
    | some d0 =>
      if d0.dest = 0 ∨ d0.leads.isEmpty then s
      else
        let d := unstage d0
        let recs := flushRecords s p j d
        let d1 : Drip := { d with behind := [], behindPages := [], recordsInStep := d.recordsInStep + (recs.length - d.ready.length) }
        let mark := flushMarker s j d1
        drainDrip (modDrip s p (fun _ => { d1 with ready := recs ++ [mark], recordsInStep := 0, lastComplete := j.committed })) p

/-- Do records of any partition's stream wait for room? -/
def dripWaits (s : State) : Bool :=
  s.partitions.any (fun e => match e.2.job.bind (·.drip) with
    | some d => !d.ready.isEmpty
    | none => false)

/-- The flush bits of the fault block. -/
def setFlush (s : State) (running done : Bool) : State :=
  { s with fault := { s.fault with decaf := s.fault.decaf.map (fun d => { d with flushRunning := running, flushDone := done }) } }

/-- DECAF_DRIP_FLUSH (R468): once after entry, every stream is flushed; where a ring has no room the flush goes on when the
consumer has freed some. -/
def execDecafDripFlush (s : State) : Out :=
  .next (match s.fault.decaf with
    | none => s
    | some d =>
      if d.flushDone then s
      else
        let s1 := if d.flushRunning then (mapKeys s.partitions).foldl drainDrip s else (mapKeys s.partitions).foldl flushDrip s
        if dripWaits s1 then setFlush s1 true false else setFlush s1 false true)

/-! ### Journal space (R473) -/

/-- JOURNAL_SPACE: the consumer's head; admission resumes once 64 KiB are free. -/
def execJournalSpace (p : BitVec 4) (head : BitVec 64) (s : State) : Out :=
  let n := p.toNat
  .next (match partAt s n with
    | none => s
    | some x =>
      if x.journal.enable = 0 then s
      else
        let s1 := moduleWrite s (x.journal.base + 8) (cp32Bytes (head.toNat % 2 ^ 32))
        modPart s1 n (fun y => if 65536 ≤ journalFree s1 y.journal then { y with journal := { y.journal with waiting := false } } else y))

end Sys2Proof.Machine
end

