-- ==== Sys2Proof/Machine/Replay.lean ====
section
/-! DEFINITION. Cupping replay (R474, R475): the journal read back record by record, and the request REPLAY_RUN. -/

namespace Sys2Proof.Machine

/-! ### Records read back (Tables 16-7 and 16-8) -/

/-- A journal record as a replay reads it: type, seq, step, body, and its length in bytes. -/
structure JournalRecord where
  type : Nat
  seq : Nat
  step : Nat
  body : List Byte
  bytes : Nat

/-- Does the CRC of a record that ends its body at byte k fit, with zeros after it? -/
def crcFits (bs : List Byte) (k : Nat) : Bool :=
  fieldAt bs k 8 == crc64 (bs.take k) && zeroAt bs (k + 8) (bs.length - (k + 8))

/-- A record from its bytes: the body's end is where the CRC fits (Table 16-7); a PAD record has no body. -/
def recordOfBytes (ty : Nat) (bs : List Byte) : Option JournalRecord :=
  let r : JournalRecord := { type := ty, seq := fieldAt bs 8 8, step := fieldAt bs 0x10 8, body := [], bytes := bs.length }
  if ty = 0x3F then (if fieldAt bs 0x20 8 = crc64 (bs.take 0x20) then some r else none)
  else
    let ends := ((List.range 64).map (fun i => bs.length - 8 - i)).filter (fun k => decide (0x20 ≤ k))
    (ends.find? (crcFits bs)).map (fun k => { r with body := (bs.take k).drop 0x20 })

/-- The next record of a replay; none where it is missing or fails its CRC, or where its seq leaves a gap (R473). -/
def nextRecord (s : State) (p : Nat) (r : Replay) : Option JournalRecord :=
  let ring := r.size - 64
  let a := r.base + 64 + r.off
  let tail := ((cp32At (cohRead s r.base 8) 0).getD 0) * 64 % ring
  if r.off = tail ∨ !reachCoherent s p a 64 ∨ rangePoisoned s a 64 then none
  else
    match cp32At (cohRead s a 8) 0 with
    | none => none
    | some h =>
      let n := h / 256 * 64
      if n = 0 ∨ ring < r.off + n ∨ !reachCoherent s p a n ∨ (h % 256 ≠ 0x3F ∧ rangePoisoned s a n) then none
      else
        match recordOfBytes (h % 256) (cohRead s a n) with
        | none => none
        | some x => if r.seq.all (· == x.seq) then some x else none

/-- A partition's replay changed. -/
def modReplay (s : State) (p : Nat) (f : Replay → Replay) : State := modPart s p (fun x => { x with replay := x.replay.map f })

/-- The replay has ended with a status (R474, Table 16-12). -/
def endReplay (s : State) (p status : Nat) : State := modReplay s p (fun r => { r with result := some status })

/-- A record consumed. -/
def passRecord (s : State) (p : Nat) (x : JournalRecord) : State :=
  modReplay s p (fun r => { r with off := (r.off + x.bytes) % (r.size - 64), seq := some (x.seq + 1) })

/-! ### What a record does -/

/-- A configuration request applied as it was served. -/
def replayRequest (s : State) (p : Nat) (f : Func) (r : MbxReq) : MbxAnswer :=
  match r.cmd with
  | 0x05 => doQueueCreate s p r
  | 0x06 => doQueueDestroy s p r
  | 0x07 => doRegionRegister s p f r
  | 0x08 => doRegionUnregister s p f r
  | 0x09 =>
    match fieldAt r.payload 0 1 with
    | 1 => doWindowUnmap s p f r
    | 2 => doRemoveSet s p f r
    | 3 => doReactivateSet s p f r
    | _ => doWindowMap s p f r
  | 0x0A => doJobConfig s p r
  | 0x0B => doMappingLoad s p r
  | 0x0C => doStepPolicy s p r
  | 0x0D => doTableCreate s p r
  | 0x0E => doRelayoutStart s p r
  | 0x0F => doRelayoutResume s p r
  | 0x10 => doRelayoutAbort s p (fieldAt r.payload 2 1 == 1) r
  | 0x11 => doDripConfig s p r
  | 0x12 => doTelemetryConfig s p r
  | 0x16 => doPeerTableLoad s p r
  | _ => .done s stOk []

/-- A long request of a replay taken to its end at once. -/
def replayEnd (t : State) (p : Nat) (r : MbxReq) : State :=
  if r.cmd = 0x08 then (unregisterDone t p r).getD t else t

/-- The memory of a state before a snapshot's request: what the request wrote is undone (R474). -/
def keepMemory (s t : State) : State :=
  { t with mem := s.mem, hostMem := s.hostMem, poison := s.poison, hostOut := s.hostOut, caches := s.caches, homes := s.homes }

/-- A finished re-layout of a snapshot: the table stands in its new layout. -/
def settleTable (s : State) (p : Nat) (r : MbxReq) (status : Nat) : State :=
  if r.cmd = 0x0E ∧ status = stOk then
    modTable s p (fieldAt r.payload 0 2) (fun t => match t.relayout with
      | some y => { t with desc := y.newDesc, relayout := none }
      | none => t)
  else s

/-- A MAILBOX record: its request is applied as it was served; within the snapshot without its memory effects, but for the
tier map of an object that it registers. A request that waits, or meets a running command, is tried again. -/
def replayMailbox (s : State) (p : Nat) (x : JournalRecord) (left : Nat) : State :=
  let b := x.body
  let status := fieldAt b 256 2
  let r : MbxReq := { isLocal := false, pos := fieldAt b 0 2, cmd := fieldAt b 8 2, tag := fieldAt b 0x0C 4,
                      payload := sliceBytes b 0x10 (min 240 (fieldAt b 0x0A 2)) }
  let done (t : State) : State := modReplay (passRecord t p x) p (fun y => { y with snapshotLeft := left - 1 })
  let kept (t : State) : State :=
    if left = 0 ∨ (r.cmd = 0x07 ∧ fieldAt r.payload 0 1 = 1) then t else settleTable (keepMemory s t) p r status
  match funcAt s p with
  | none => done s
  | some f =>
    if (status ≠ stOk ∧ status ≠ 0xFFFF) ∨ !mbxConfig r.cmd then done s
    else
      match replayRequest s p f r with
      | .done t st _ => if st = stBusy then s else done (kept t)
      | .long t => done (kept (replayEnd t p r))
      | .wait t => t

/-- A DESCRIPTOR record: the command stands at its queue's head. For a STEP_BEGIN the layers that the journal reseeds in the
step are reseeded (R324, R474). -/
def replayDescriptor (s : State) (p : Nat) (x : JournalRecord) (reseeds : List Nat) : State :=
  let q := fieldAt x.body 0 4
  let pos := fieldAt x.body 4 4
  let c := Cmd.fresh pos (sliceBytes x.body 24 64)
  let s1 := modQueue s q (fun y => if y.partition = p then
    { y with cmds := y.cmds ++ [c], head := BitVec.ofNat 32 (pos + 1), tail := if y.head = y.tail then BitVec.ofNat 32 (pos + 1) else y.tail }
    else y)
  let s2 := if c.opcode = 9 then modJob s1 p (fun j => { j with
      scale := if j.testScale then (j.scale.zipIdx).map (fun e => if reseeds.contains e.2 then j.initScale.getD e.2 0 else e.1) else j.scale,
      testScale := false, reseedAgain := reseeds })
    else s1
  modReplay (passRecord s2 p x) p (fun r => { r with inputsDue := true })

/-- An INPUT record: in content mode the bytes are placed; otherwise the digest of what is placed is compared. -/
def replayInput (s : State) (p : Nat) (x : JournalRecord) : State :=
  let a := fieldAt x.body 0 8
  let n := fieldAt x.body 8 8
  let bs := x.body.drop 24
  if bs ≠ [] then modReplay (passRecord (moduleWrite s a bs) p x) p (fun r => { r with content := true })
  else if n = 0 ∨ crc64 (cohRead s a n) = fieldAt x.body 16 8 then passRecord s p x
  else endReplay s p 0x1003

/-- A PLACED record: its range and used log are placed or compared, and the ACCEPT_PLACED that it stands for is over. -/
def replayPlaced (s : State) (p : Nat) (x : JournalRecord) : State :=
  let b := x.body
  match regionAt s p (fieldAt b 4 1) with
  | none => endReplay s p 0x1003
  | some r =>
    let a := r.base + fieldAt b 0x0C 8
    let n := fieldAt b 0x14 8
    let logN := if r.state = .open then 0 else r.logUsed
    let bs := b.drop 52
    let same : Bool := crc64 (memBytes s.mem a n ++ memBytes s.mem r.log logN) == fieldAt b 44 8
    let hit := cmdsWhere s (fun _ y c => y.partition == p && c.phase == .admitted && c.opcode == 0x13
      && sliceBytes c.desc 0x1C 36 == sliceBytes b 0 36)
    if bs = [] ∧ !same then endReplay s p 0x1003
    else
      let s1 := if bs = [] then s else cohWrite (cohWrite s a (bs.take n)) r.log (bs.drop n)
      let s2 := modRegion s1 p (fieldAt b 4 1) (fun y => { y with
        placed := BitVec.ofNat 64 (fieldAt b 36 8), logUsed := if bs = [] then y.logUsed else bs.length - n })
      passRecord (match hit.head? with
        | some e => finishCmd s2 e.1 e.2 stOk 0
        | none => s2) p x

/-- Is a STEP_BEGIN or EVAL_BEGIN admitted and not finished? -/
def beginRuns (s : State) (p : Nat) : Bool :=
  !(cmdsWhere s (fun _ y c => y.partition == p && c.phase == .admitted && (c.opcode == 9 || c.opcode == 0x0C))).isEmpty

/-- A sliver move replayed: the recorded dies decide (R271). -/
def replaySlivers (s : State) (p idx role slow fast : Nat) : State :=
  match (jobAt s p).bind (fun j => mappingAt j idx) with
  | none => s
  | some m =>
    match m.roles[role]? with
    | none => s
    | some y =>
      let (r, k, sl, fa) := rebalanceRole (fun d => if d = slow then 2 else if d = fast then 0 else 1) 0 y
      if k = 0 then s else moveSlivers s p idx role r k sl fa

/-- The recorded regions of a table copied whole and switched (R256). -/
def replaySwitch (s : State) (p id : Nat) (js : List Nat) : State :=
  match tableAt s p id with
  | none => s
  | some t =>
    match t.relayout with
    | none => s
    | some y =>
      let (src, dst) := if y.revert then (y.newDesc, t.desc) else (t.desc, y.newDesc)
      let s1 := js.foldl (fun u j => (regionRows t j).foldl (fun v row => copyRow v p src dst row) u) s
      let s2 := setRelayout s1 p id { y with regions := (y.regions.zipIdx).map (fun g =>
        if js.contains g.2 then { g.1 with state := .moving, copied := true } else { g.1 with copied := false }) }
      switchRegions s2 p id

/-- An OUTCOME record (Table 16-8): kills, re-runs and Decaf entries change no result. -/
def replayOutcome (s : State) (p : Nat) (x : JournalRecord) : State :=
  let b := x.body
  match fieldAt b 0 1 with
  | 1 =>
    let q := fieldAt b 1 2
    match (queueAt s q).bind (fun y => y.cmds.find? (fun c => c.pos % 65536 == fieldAt b 3 2)) with
    | some c => passRecord (endCmd s q c.pos stTierError) p x
    | none => passRecord s p x
  | 2 =>
    match (jobAt s p).bind (·.step) with
    | some o => passRecord (cohWrite s (o.plan.stampLog + 8 * fieldAt b 1 2) (cp32Bytes (fieldAt b 3 4))) p x
    | none => passRecord s p x
  | 3 => if beginRuns s p then s else passRecord (replaySlivers s p (fieldAt b 1 1) (fieldAt b 2 1) (fieldAt b 5 1) (fieldAt b 6 1)) p x
  | 4 =>
    if beginRuns s p then s
    else passRecord (replaySwitch s p (fieldAt b 1 2) ((List.range (fieldAt b 3 4)).map (fun i => fieldAt b (7 + 4 * i) 4))) p x
  | _ => passRecord s p x

/-- A TRANSFER record: the outputs of gang-lane commands (Table 16-8, R474). -/
def replayTransfer (s : State) (p : Nat) (x : JournalRecord) : State :=
  let b := x.body
  let q := fieldAt b 1 2
  let pos := fieldAt b 3 4
  match fieldAt b 0 1 with
  | 0 =>
    match cmdAt s q pos with
    | some c => if c.phase = .admitted then completeColl (passRecord s p x) q pos p c (b.drop 7) else passRecord s p x
    | none => passRecord s p x
  | 1 =>
    match cmdAt s q pos with
    | some c =>
      if c.phase = .admitted then
        (cmdWrite (passRecord s p x) q pos (ringBuf c 1) ((b.drop 7).take c.aux)).bind (fun t _ => finishCmd t q pos stOk 0)
      else passRecord s p x
    | none => passRecord s p x
  | 2 => commitExchange (passRecord s p x) p q 0 ((((jobAt s p).bind (·.step)).map (·.step)).getD 0 % 2 ^ 32) (b.drop 3)
  | _ => passRecord s p x

/-- An ATOMIC record: an integer atomic is applied; a floating-point one cannot be replayed. -/
def replayAtomic (s : State) (p : Nat) (x : JournalRecord) : State :=
  let b := x.body
  if b.length ≤ 16 then endReplay s p 0x1005
  else
    let size := fieldAt b 2 6
    let a := fieldAt b 8 8
    match atomicOfCode (fieldAt b 1 1) with
    | none => passRecord s p x
    | some op =>
      let old := bytesToNat (cohRead s a size)
      passRecord (cohWrite s a (natToBytes size
        (atomicResult op (8 * size) old (fieldAt b 0x10 8 % 2 ^ (8 * size)) (fieldAt b 0x18 8 % 2 ^ (8 * size))))) p x

/-- A status as far as replay reproduces it (Table 16-9): OK, TIER_STALL, PENDING_REMOTE and MEMBER_ABSENT are one; a block
that was fetched again then need not be now. -/
def replayStatus (st : Nat) : Nat := if [stOk, stTierStall, stPendingRemote, 0x0A02, 0x0A03].contains st then stOk else st

/-- Do two COMMIT bodies agree: decision, status, c and the digest list's CRC-64? (DESIGN CHOICE, log entry 82) -/
def commitsAgree (a b : List Byte) : Bool :=
  a.take 2 == b.take 2 && replayStatus (fieldAt a 2 2) == replayStatus (fieldAt b 2 2) && a.drop 4 == b.drop 4

/-- A COMMIT record: the step's decision may be taken now; once it is there it is compared. In content mode members that sent
nothing in the recorded step are absent. -/
def replayCommit (s : State) (p : Nat) (r : Replay) (x : JournalRecord) : State :=
  match r.commits with
  | [] =>
    let s1 := modReplay s p (fun y => { y with commitDue := true })
    match runOf s1 p with
    | some k => if r.content ∧ k.phase = .check then decideStep s1 p else s1
    | none => s1
  | own :: rest =>
    if !commitsAgree own x.body then endReplay s p 0x1004
    else
      let step := logStep s p
      modReplay (passRecord s p x) p (fun y => { y with
        reproduced := step, commits := rest, commitDue := false, result := if step = y.last then some stOk else none })

/-- The layers that the journal reseeds between a record and the next COMMIT record. -/
def reseedsAhead : Nat → State → Nat → Replay → List Nat
  | 0, _, _, _ => []
  | fuel + 1, s, p, r =>
    match nextRecord s p r with
    | none => []
    | some x =>
      if x.type = 0x0A then []
      else
        (if x.type = 0x07 then [fieldAt x.body 0 2] else [])
          ++ reseedsAhead fuel s p { r with off := (r.off + x.bytes) % (r.size - 64), seq := some (x.seq + 1) }

/-- Do commands of a partition wait for admission? -/
def admissionWaits (s : State) (p : Nat) : Bool :=
  !(cmdsWhere s (fun _ y c => y.partition == p && c.phase == .waiting)).isEmpty

/-- One record of a running replay. Inputs follow their descriptor; every other record waits until the descriptors before it
are admitted. (DESIGN CHOICE, log entry 82) -/
def replayRecord (s : State) (p : Nat) (r : Replay) (x : JournalRecord) : State :=
  if x.type = 0x04 then replayInput s p x
  else if r.inputsDue then modReplay s p (fun y => { y with inputsDue := false })
  else if admissionWaits s p then s
  else
    match x.type with
    | 0x01 => replayMailbox s p x r.snapshotLeft
    | 0x02 => replayDescriptor s p x (if fieldAt x.body 32 1 = 9 then reseedsAhead (r.size / 64) s p r else [])
    | 0x03 => passRecord (modQueue s (fieldAt x.body 0 4) (fun y => if y.partition = p then { y with tail := BitVec.ofNat 32 (fieldAt x.body 4 4) } else y)) p x
    | 0x05 => replayPlaced s p x
    | 0x08 => replayAtomic s p x
    | 0x09 => replayOutcome s p x
    | 0x0A => replayCommit s p r x
    | 0x0B => replayTransfer s p x
    | _ => passRecord s p x

/-- The replay taken on by one record: before the snapshot after M, records are passed over. -/
def replayStep (s : State) (p : Nat) : State :=
  match (partAt s p).bind (·.replay) with
  | none => s
  | some r =>
    if r.result.isSome then s
    else
      match nextRecord s p r with
      | none => endReplay s p 0x1006
      | some x =>
        if r.running then replayRecord s p r x
        else if x.type = 0x0C ∧ x.step = r.first then
          modReplay (passRecord s p x) p (fun y => { y with running := true, snapshotLeft := fieldAt x.body 0 4 })
        else passRecord s p x

/-! ### REPLAY_RUN (R474) -/

/-- A replay that starts: at the head of the journal's ring. (DESIGN CHOICE, log entry 82) -/
def startReplay (s : State) (p base first last : Nat) : State :=
  let own := (partAt s p).map (·.journal)
  let size := match own with
    | some j => if j.enable ≠ 0 ∧ j.base = base then j.size else 2 ^ 32
    | none => 2 ^ 32
  let head := (cp32At (cohRead s (base + 8) 8) 0).getD 0
  let r : Replay :=
    { base := base, size := size, off := head * 64 % (size - 64), seq := none, first := first, last := last, content := false,
      running := false, snapshotLeft := 0, reproduced := first, commits := [], inputsDue := false, commitDue := false, result := none }
  modPart s p (fun x => { x with replay := some r })

/-- REPLAY_RUN accepted or refused. -/
def doReplayRun (s : State) (p : Nat) (r : MbxReq) : MbxAnswer :=
  let m := fieldAt r.payload 0 8
  let a := fieldAt r.payload 8 8
  let e := fieldAt r.payload 0x10 8
  if e ≤ m ∨ a % 64 ≠ 0 then mbxInvalid s
  else if !reachCoherent s p a 64 then .done (failAccess s p a) stAddressFault []
  else if ((partAt s p).bind (·.replay)).isSome then .done s stBusy []
  else .long (startReplay s p a m e)

/-- Is a REPLAY_RUN request in service? -/
def replayAsked (s : State) (fn : Nat) : Bool :=
  match (funcAt s fn).bind (·.inService) with
  | some r => r.cmd == 0x14
  | none => false

/-- REPLAY_RUN: a request in service is accepted or refused; while a replay runs, it goes on by one journal record. -/
def execReplayRun (fn : BitVec 4) (s : State) : Out :=
  let n := fn.toNat
  .next (if replayAsked s n then runMbx s n 0x14 anyForm (fun _ r => doReplayRun s n r) else replayStep s n)

end Sys2Proof.Machine
end

