-- ==== Sys2Proof/Machine/MbxLong.lean ====
section
/-! DEFINITION. The end of the long mailbox requests: MAILBOX_L_COMPLETE (R397). -/

namespace Sys2Proof.Machine

/-- Have the regions of a partition being destroyed all closed (R387)? -/
def regionsGone (s : State) (p : Nat) : Bool := ((funcAt s p).map (fun f => f.regions.all (fun e => e.2.state == .free))).getD true

/-- The outcome of a FW_ACTIVATE trial that is over: the staged image became active, or it did not. -/
def trialAnswer (s : State) (c : Nat) : MbxAnswer :=
  let x := componentAt s c
  if x.trial then .wait s
  else if !x.staged then .done s stOk []
  else
    let (v, s1) := drawFree s 65535
    .done s1 (v + 1) []

/-- What a long request answers once its work is over; a wait until then. -/
def longDone (s : State) (fn : Nat) (r : MbxReq) : MbxAnswer :=
  match r.cmd with
  | 0x04 =>
    let p := fieldAt r.payload 0 1
    if regionsGone s p then .done (finishDestroy s p) stOk [] else .wait s
  | 0x08 =>
    match unregisterDone s fn r with
    | some t => .done t stOk []
    | none => .wait s
  | 0x0E => if ((tableAt s fn (fieldAt r.payload 0 2)).bind (·.relayout)).isNone then .done s stOk [] else .wait s
  | 0x0F => if ((tableAt s fn (fieldAt r.payload 0 2)).bind (·.relayout)).isNone then .done s stOk [] else .wait s
  | 0x14 =>
    match (partAt s fn).bind (·.replay) with
    | some y =>
      match y.result with
      | some st => .done (dropReplay s fn) st (natToBytes 8 y.reproduced)
      | none => .wait s
    | none => .wait s
  | 0x17 => if disableDone s r then .done s stOk [] else .wait s
  | 0x19 => if (maskDies r).any (fun d => ((s.dies[d]?).map (·.checkpointDue)).getD false) then .wait s else .done s stOk []
  | 0x1C =>
    let c := fieldAt r.payload 0 1
    let n := fieldAt r.payload 0x10 8
    mpRead s fn (fieldAt r.payload 8 8) n (fun t b =>
      let (u, st) := stageImage t c n b
      .done u st [])
  | 0x1D => trialAnswer s (fieldAt r.payload 0 1)
  | _ => .wait s

/-- MAILBOX_L_COMPLETE (R397): the long request of a function with that position is answered when its work is over and its
response has room. -/
def execMailboxLComplete (fn : BitVec 4) (pos : BitVec 32) (s : State) : Out :=
  let n := fn.toNat
  .next (match funcAt s n with
    | none => s
    | some f =>
      match f.long.find? (fun r => r.pos == pos.toNat) with
      | none => s
      | some r =>
        if !inService s ∨ !rspRoom s n f r.isLocal then s
        else
          match longDone s n r with
          | .done t st b => answer t n r st b
          | .long t => t
          | .wait t => t)

end Sys2Proof.Machine
end

