-- ==== Sys2Proof/Machine/Secure.lean ====
section
/-! DEFINITION. The security engine: SPDM, IDE and MACsec keys, the debug port (R390, R484 to R490). -/

namespace Sys2Proof.Machine

/-! ### SPDM (R485, R489) -/

/-- The number of a transport: 0 DOE, 1 MCTP. -/
def transportOf (mctp : Bool) : Nat := bitOf mctp

/-- Is a secured session open on a transport? -/
def sessionOpen (s : State) (transport session : Nat) : Bool := s.sec.sessions.contains (transport, session)

/-- Does a transport deliver requests now: DOE over the host link, MCTP over I3C? -/
def spdmServes (s : State) (mctp : Bool) : Bool := powered s && s.life.attested && !s.sec.romRecovery && (mctp || linkServes s)

/-- An SPDM response. -/
def spdmReply (s : State) (code : Nat) (bytes : List Byte) : State := sendHost s (.spdm (Config.spdmAnswer code bytes))

/-- Codes of the SPDM standard: KEY_EXCHANGE, END_SESSION, ERROR; and the requests that the identity key signs. -/
abbrev spdmKeyExchange : Nat := 0xE4
abbrev spdmEndSession : Nat := 0xEC
abbrev spdmError : Nat := 0x7F

/-- Does a request ask for an identity-key signature: CHALLENGE, GET_MEASUREMENTS, KEY_EXCHANGE? -/
def spdmSigned (code : Nat) : Bool := code == 0x83 || code == 0xE0 || code == spdmKeyExchange

/-- Does a request end with an SPDM error: the generator has failed; the port is fully open; no such session; four sessions? -/
def spdmFails (s : State) (t session code : Nat) : Bool :=
  s.sec.entropyFailed || (s.sec.debug == .full && spdmSigned code)
    || (code != spdmKeyExchange && session != 0 && !sessionOpen s t session)
    || (code == spdmKeyExchange && (sessionOpen s t session || decide (4 ≤ (s.sec.sessions.filter (fun x => x.1 == t)).length)))

/-- SPDM_REQUEST (R485): `session` is 0 outside a session; KEY_EXCHANGE opens the named one, END_SESSION closes it. (PRESUMED, log entry 24) -/
def execSpdmRequest (transport : Bool) (session : BitVec 16) (code : BitVec 8) (bytes : List Byte) (s : State) : Out :=
  let t := transportOf transport
  let k := session.toNat
  let c := code.toNat
  .next (
    if !spdmServes s transport then s
    else if spdmFails s t k c then spdmReply s spdmError bytes
    else
      let s1 := spdmReply s c bytes
      if c = spdmKeyExchange then { s1 with sec := { s1.sec with sessions := s1.sec.sessions ++ [(t, k)] } }
      else if c = spdmEndSession then { s1 with sec := { s1.sec with sessions := s1.sec.sessions.filter (fun x => x != (t, k)) } }
      else s1)

/-! ### IDE (R390, R487) -/

/-- An IDE stream changed. -/
def modIde (s : State) (i : Nat) (f : IdeStream → IdeStream) : State :=
  if h : i < 8 then { s with sec := { s.sec with ide := s.sec.ide.set i (f s.sec.ide[i]) } } else s

/-- IDE_KM_KEY_PROG (R390): inside a secured session on DOE; in debug state 2 it is refused (R490). -/
def execIdeKmKeyProg (session : BitVec 16) (stream : BitVec 3) (keySet : BitVec 1) (key : BitVec 256) (s : State) : Out :=
  .next (
    if spdmServes s false ∧ sessionOpen s 0 session.toNat ∧ s.sec.debug ≠ .full then
      modIde s stream.toNat (fun x => { x with keys := mapSet x.keys keySet.toNat key.toNat })
    else s)

/-- K_SET_GO (R487): a key set that is programmed becomes the active one; the one before stays accepted until K_SET_STOP. -/
def execKSetGo (stream : BitVec 3) (keySet : BitVec 1) (s : State) : Out :=
  .next (
    if spdmServes s false then
      modIde s stream.toNat (fun x =>
        if mapHas x.keys keySet.toNat then
          { x with previous := if x.secure ∧ x.active ≠ keySet.toNat then some x.active else x.previous, active := keySet.toNat, secure := true }
        else x)
    else s)

/-- K_SET_STOP (R487): the previous key set is no longer accepted. (DEDUCED, log entry 86) -/
def execKSetStop (stream : BitVec 3) (keySet : BitVec 1) (s : State) : Out :=
  .next (
    if spdmServes s false then
      modIde s stream.toNat (fun x => if x.previous = some keySet.toNat then { x with previous := none } else x)
    else s)

/-- IDE_CHECK_FAILURE (R390): the stream is Insecure until it is keyed again; counted in PF0's FN_IDE_DROPS. (DEDUCED, log entry 86) -/
def execIdeCheckFailure (stream : BitVec 3) (s : State) : Out :=
  .next (
    if linkServes s then
      modFunc (modIde s stream.toNat (fun x => { x with secure := false, keys := [], previous := none })) 0
        (fun f => { f with ideDrops := f.ideDrops + 1 })
    else s)

/-! ### MACsec (R488) -/

/-- A CAK for a port: it replaces the CAK of a live session only once the new participant is live. -/
def setCak (k : MacsecKeys) (cak : Nat) (ckn : List Byte) : MacsecKeys :=
  if k.live then { k with nextCak := some cak, ckn := ckn } else { k with cak := some cak, ckn := ckn }

/-- MACSEC_CAK_SET (R488): in a secured session; a CKN of 1 to 32 B; in debug state 2 it is refused (R490). -/
def execMacsecCakSet (session : BitVec 16) (transport : Bool) (ports : BitVec 16) (cak : BitVec 256) (ckn : List Byte) (s : State) : Out :=
  .next (
    if spdmServes s transport ∧ sessionOpen s (transportOf transport) session.toNat ∧ s.sec.debug ≠ .full ∧ 1 ≤ ckn.length
        ∧ ckn.length ≤ 32 ∧ !s.sec.entropyFailed then
      { s with sec := { s.sec with macsec := Vector.ofFn (fun (i : Fin 16) =>
          if ports.getLsbD i.val then setCak s.sec.macsec[i] cak.toNat ckn else s.sec.macsec[i]) } }
    else s)

/-! ### The debug port (R490) -/

/-- DEBUG_CHALLENGE: 32 free bytes; none while the generator is stopped. -/
def execDebugChallenge (s : State) : Out :=
  .next (
    if !powered s ∨ s.sec.entropyFailed then s
    else
      let (v, s1) := drawFree s (2 ^ 256)
      sendHost { s1 with sec := { s1.sec with challenge := some (v, aonNow s1) } } (.jtag (natToBytes 32 v)))

/-- Does a token answer a challenge for this module, under both vendor keys (R479)? The spec gives a token no layout. (DESIGN CHOICE, log entry 61) -/
def tokenGood (s : State) (v : Nat) (b : List Byte) : Bool :=
  let f := fun k => Config.tokenField k b
  let msg := f 3
  decide (bytesToNat (f 0) = v ∧ bytesToNat (f 1) = s.life.moduleId) &&
  decide (sha384Of (f 4) = Config.otpEcdsaHash ∧ sha384Of (f 5) = Config.otpLmsHash) &&
  Config.ecdsaVerify (f 4) (natToBytes 48 (sha384Of msg)) (f 6) && Config.lmsVerify (f 5) msg (f 7)

/-- Keys that full access erases: IDE, MACsec and job-seed keys. -/
def eraseKeys (s : State) : State :=
  { s with
    sec := { s.sec with
      ide := Vector.replicate 8 { secure := false, keys := [], active := 0, previous := none },
      macsec := Vector.replicate 16 MacsecKeys.none },
    partitions := mapAll s.partitions (fun _ x => { x with rngKey := 0 }) }

/-- The debug port in a state that a good token names; full access enters Decaf mode. (DEDUCED, log entry 86) -/
def openDebug (s : State) (st : Nat) : State :=
  if st = 1 ∧ s.sec.debug = .locked then { s with sec := { s.sec with debug := .observe } }
  else if st = 2 ∧ s.sec.debug ≠ .full then moduleFault (eraseKeys { s with sec := { s.sec with debug := .full } }) 12 0x0706 0
  else s

/-- DEBUG_UNLOCK_TOKEN: one attempt within 10 minutes of the challenge; the blown OTP bit keeps state 0. -/
def execDebugUnlockToken (bytes : List Byte) (s : State) : Out :=
  .next (
    if !powered s then s
    else
      match s.sec.challenge with
      | none => s
      | some (v, t) =>
        let s1 := { s with sec := { s.sec with challenge := none } }
        if s.sec.otpDebugLock ∨ 15000000000 < aonSince s t ∨ !tokenGood s v bytes then s1
        else openDebug s1 (bytesToNat (Config.tokenField 2 bytes)))

/-- A read through the open port: 8 bytes of a register or of memory. -/
def debugRead (s : State) (a : Nat) : List Byte :=
  match decodeAddr s a with
  | .register d o => natToBytes 8 ((regRead s d o).getD 0)
  | .unmapped => zeros 8
  | _ => cohRead s a 8

/-- A write through the open port: registers as their access codes have it, memory in place. -/
def debugWrite (s : State) (a : Nat) (v : Word64) : State :=
  match decodeAddr s a with
  | .register d o => mpWriteReg s d o 8 v
  | .unmapped => s
  | _ => moduleWrite s a (natToBytes 8 v.toNat)

/-- DEBUG_PORT_ACCESS (R490): state 0 reads the IDCODE alone, whose value the spec does not give; state 1 reads registers; state 2
reads and writes everything. -/
def execDebugPortAccess (write : Bool) (addr : BitVec 56) (value : BitVec 64) (s : State) : Out :=
  let a := addr.toNat
  .next (
    if !powered s then s
    else
      match s.sec.debug with
      | .locked => if write then s else sendHost s (.jtag (natToBytes 4 Config.idcode))
      | .observe =>
        match decodeAddr s a with
        | .register d o => if write then s else sendHost s (.jtag (natToBytes 8 ((regRead s d o).getD 0)))
        | _ => s
      | .full => if write then debugWrite s a value else sendHost s (.jtag (debugRead s a)))

end Sys2Proof.Machine
end

