-- ==== Sys2Proof/Machine/Dispatch.lean ====
section
/-! DEFINITION. The dispatch: one arm per command, each a direct call of its meaning. -/

namespace Sys2Proof.Machine

/-- What a command does to everything but the queue. -/
def exec (i : Instr) (s : State) : Host.Outcome State Fault Refusal :=
  match i with
  | .powerOn coolMode slot => Sys2Proof.Machine.execPowerOn coolMode slot s
  | .perstNAssert => Sys2Proof.Machine.execPerstNAssert s
  | .perstNDeassert coolMode slot => Sys2Proof.Machine.execPerstNDeassert coolMode slot s
  | .pwrEnAssert => Sys2Proof.Machine.execPwrEnAssert s
  | .pwrEnDeassert => Sys2Proof.Machine.execPwrEnDeassert s
  | .hotswapOpenTimer => Sys2Proof.Machine.execHotswapOpenTimer s
  | .functionLevelReset fn => Sys2Proof.Machine.execFunctionLevelReset fn s
  | .poolUnitInternalFault channel => Sys2Proof.Machine.execPoolUnitInternalFault channel s
  | .surpriseRemoval => Sys2Proof.Machine.execSurpriseRemoval s
  | .linkStateChange link => Sys2Proof.Machine.execLinkStateChange link s
  | .hostTierReadComplete req result bytes => Sys2Proof.Machine.execHostTierReadComplete req result bytes s
  | .hostReadReissue req => Sys2Proof.Machine.execHostReadReissue req s
  | .hostLateThreshold req => Sys2Proof.Machine.execHostLateThreshold req s
  | .tierStallNotify hold => Sys2Proof.Machine.execTierStallNotify hold s
  | .eskorDeadlineExpire hold => Sys2Proof.Machine.execEskorDeadlineExpire hold s
  | .tierReqPromote p object first count => Sys2Proof.Machine.execTierReqPromote p object first count s
  | .tierReqDemote p object first count => Sys2Proof.Machine.execTierReqDemote p object first count s
  | .tierReqDropped p dir object first count => Sys2Proof.Machine.execTierReqDropped p dir object first count s
  | .promotionStart p object page source => Sys2Proof.Machine.execPromotionStart p object page source s
  | .promotionStepDone p object page => Sys2Proof.Machine.execPromotionStepDone p object page s
  | .demotionStepDone p object page => Sys2Proof.Machine.execDemotionStepDone p object page s
  | .migrationRetryTimer p object page => Sys2Proof.Machine.execMigrationRetryTimer p object page s
  | .patrolScrub addr outcome => Sys2Proof.Machine.execPatrolScrub addr outcome s
  | .rv32imcInstruction core word => Sys2Proof.Machine.execRv32imcInstruction core word s
  | .zicsrAccess core funct3 csr rs1 rd => Sys2Proof.Machine.execZicsrAccess core funct3 csr rs1 rd s
  | .ecall core => Sys2Proof.Machine.execEcall core s
  | .ebreak core compressed => Sys2Proof.Machine.execEbreak core compressed s
  | .lxMm core shape t ws rd rs1 rs2 => Sys2Proof.Machine.execLxMm core shape t ws rd rs1 rs2 s
  | .lxWgbZero core rs1 => Sys2Proof.Machine.execLxWgbZero core rs1 s
  | .lxWgbFold core rs1 rs2 => Sys2Proof.Machine.execLxWgbFold core rs1 rs2 s
  | .lxWgbSpill core rs1 rs2 => Sys2Proof.Machine.execLxWgbSpill core rs1 rs2 s
  | .lxWgbFlush core rs1 rs2 => Sys2Proof.Machine.execLxWgbFlush core rs1 rs2 s
  | .lxEwait core rs1 => Sys2Proof.Machine.execLxEwait core rs1 s
  | .lxEquiesce core => Sys2Proof.Machine.execLxEquiesce core s
  | .lxVadd core ety md vd vs1 vs2 => Sys2Proof.Machine.execLxVadd core ety md vd vs1 vs2 s
  | .lxVsub core ety md vd vs1 vs2 => Sys2Proof.Machine.execLxVsub core ety md vd vs1 vs2 s
  | .lxVmul core ety md vd vs1 vs2 => Sys2Proof.Machine.execLxVmul core ety md vd vs1 vs2 s
  | .lxVfma core ety md vd vs1 vs2 => Sys2Proof.Machine.execLxVfma core ety md vd vs1 vs2 s
  | .lxVfms core ety md vd vs1 vs2 => Sys2Proof.Machine.execLxVfms core ety md vd vs1 vs2 s
  | .lxVmin core ety md vd vs1 vs2 => Sys2Proof.Machine.execLxVmin core ety md vd vs1 vs2 s
  | .lxVmax core ety md vd vs1 vs2 => Sys2Proof.Machine.execLxVmax core ety md vd vs1 vs2 s
  | .lxVdiv core ety md vd vs1 vs2 => Sys2Proof.Machine.execLxVdiv core ety md vd vs1 vs2 s
  | .lxVsqrt core ety vd vs1 vs2 => Sys2Proof.Machine.execLxVsqrt core ety vd vs1 vs2 s
  | .lxVrem core ety md vd vs1 vs2 => Sys2Proof.Machine.execLxVrem core ety md vd vs1 vs2 s
  | .lxVrecip core ety vd vs1 vs2 => Sys2Proof.Machine.execLxVrecip core ety vd vs1 vs2 s
  | .lxVrsqrt core ety vd vs1 vs2 => Sys2Proof.Machine.execLxVrsqrt core ety vd vs1 vs2 s
  | .lxVexp core ety vd vs1 vs2 => Sys2Proof.Machine.execLxVexp core ety vd vs1 vs2 s
  | .lxVexp2 core ety vd vs1 vs2 => Sys2Proof.Machine.execLxVexp2 core ety vd vs1 vs2 s
  | .lxVlog core ety vd vs1 vs2 => Sys2Proof.Machine.execLxVlog core ety vd vs1 vs2 s
  | .lxVlog2 core ety vd vs1 vs2 => Sys2Proof.Machine.execLxVlog2 core ety vd vs1 vs2 s
  | .lxVand core ety vd vs1 vs2 => Sys2Proof.Machine.execLxVand core ety vd vs1 vs2 s
  | .lxVor core ety vd vs1 vs2 => Sys2Proof.Machine.execLxVor core ety vd vs1 vs2 s
  | .lxVxor core ety vd vs1 vs2 => Sys2Proof.Machine.execLxVxor core ety vd vs1 vs2 s
  | .lxVsll core ety vd vs1 vs2 => Sys2Proof.Machine.execLxVsll core ety vd vs1 vs2 s
  | .lxVsrl core ety vd vs1 vs2 => Sys2Proof.Machine.execLxVsrl core ety vd vs1 vs2 s
  | .lxVsra core ety vd vs1 vs2 => Sys2Proof.Machine.execLxVsra core ety vd vs1 vs2 s
  | .lxVtanh core ety vd vs1 vs2 => Sys2Proof.Machine.execLxVtanh core ety vd vs1 vs2 s
  | .lxVsigmoid core ety vd vs1 vs2 => Sys2Proof.Machine.execLxVsigmoid core ety vd vs1 vs2 s
  | .lxVerf core ety vd vs1 vs2 => Sys2Proof.Machine.execLxVerf core ety vd vs1 vs2 s
  | .lxVsin core ety vd vs1 vs2 => Sys2Proof.Machine.execLxVsin core ety vd vs1 vs2 s
  | .lxVcos core ety vd vs1 vs2 => Sys2Proof.Machine.execLxVcos core ety vd vs1 vs2 s
  | .lxVabs core ety md vd vs1 vs2 => Sys2Proof.Machine.execLxVabs core ety md vd vs1 vs2 s
  | .lxVneg core ety md vd vs1 vs2 => Sys2Proof.Machine.execLxVneg core ety md vd vs1 vs2 s
  | .lxVredsum core ety md vd vs1 vs2 => Sys2Proof.Machine.execLxVredsum core ety md vd vs1 vs2 s
  | .lxVredmax core ety md vd vs1 vs2 => Sys2Proof.Machine.execLxVredmax core ety md vd vs1 vs2 s
  | .lxVredmin core ety md vd vs1 vs2 => Sys2Proof.Machine.execLxVredmin core ety md vd vs1 vs2 s
  | .lxVcntnf core ety rd vs1 vs2 => Sys2Proof.Machine.execLxVcntnf core ety rd vs1 vs2 s
  | .lxVcmp core ety md cd vs1 vs2 => Sys2Proof.Machine.execLxVcmp core ety md cd vs1 vs2 s
  | .lxVmerge core ety cr vd vs1 vs2 => Sys2Proof.Machine.execLxVmerge core ety cr vd vs1 vs2 s
  | .lxVcompress core ety cr vd vs1 => Sys2Proof.Machine.execLxVcompress core ety cr vd vs1 s
  | .lxVexpand core ety cr vd vs1 => Sys2Proof.Machine.execLxVexpand core ety cr vd vs1 s
  | .lxVsplat core ety vd rs1 vs2 => Sys2Proof.Machine.execLxVsplat core ety vd rs1 vs2 s
  | .lxVmove core ety vd vs1 vs2 => Sys2Proof.Machine.execLxVmove core ety vd vs1 vs2 s
  | .lxVcvt core sr nan dst src vd vs1 => Sys2Proof.Machine.execLxVcvt core sr nan dst src vd vs1 s
  | .lxVld core md vd rs1 rs2 => Sys2Proof.Machine.execLxVld core md vd rs1 rs2 s
  | .lxVst core md vs rs1 rs2 => Sys2Proof.Machine.execLxVst core md vs rs1 rs2 s
  | .lxVsetvl core md rd rs1 => Sys2Proof.Machine.execLxVsetvl core md rd rs1 s
  | .lxVmvx core md rd vs1 rs2 => Sys2Proof.Machine.execLxVmvx core md rd vs1 rs2 s
  | .lxVins core md vd rs1 rs2 => Sys2Proof.Machine.execLxVins core md vd rs1 rs2 s
  | .lxCand core cd cs1 cs2 => Sys2Proof.Machine.execLxCand core cd cs1 cs2 s
  | .lxCor core cd cs1 cs2 => Sys2Proof.Machine.execLxCor core cd cs1 cs2 s
  | .lxCxor core cd cs1 cs2 => Sys2Proof.Machine.execLxCxor core cd cs1 cs2 s
  | .lxCandn core cd cs1 cs2 => Sys2Proof.Machine.execLxCandn core cd cs1 cs2 s
  | .lxCnot core cd cs1 => Sys2Proof.Machine.execLxCnot core cd cs1 s
  | .lxCpop core rd cs1 => Sys2Proof.Machine.execLxCpop core rd cs1 s
  | .lxCrdLo core rd cs1 => Sys2Proof.Machine.execLxCrdLo core rd cs1 s
  | .lxCrdHi core rd cs1 => Sys2Proof.Machine.execLxCrdHi core rd cs1 s
  | .lxCwrLo core cd rs1 => Sys2Proof.Machine.execLxCwrLo core cd rs1 s
  | .lxCwrHi core cd rs1 => Sys2Proof.Machine.execLxCwrHi core cd rs1 s
  | .lxCfirst core rd cs1 => Sys2Proof.Machine.execLxCfirst core rd cs1 s
  | .lxRngw core rd rs1 => Sys2Proof.Machine.execLxRngw core rd rs1 s
  | .lxVrng core vd => Sys2Proof.Machine.execLxVrng core vd s
  | .lxDma core rd rs1 => Sys2Proof.Machine.execLxDma core rd rs1 s
  | .lxDwait core rs1 => Sys2Proof.Machine.execLxDwait core rs1 s
  | .lxDfence core => Sys2Proof.Machine.execLxDfence core s
  | .lxBarC core id => Sys2Proof.Machine.execLxBarC core id s
  | .lxBarD core id => Sys2Proof.Machine.execLxBarD core id s
  | .lxEnd core rs1 => Sys2Proof.Machine.execLxEnd core rs1 s
  | .barrierRelease die core id => Sys2Proof.Machine.execBarrierRelease die core id s
  | .dmaComplete core tag => Sys2Proof.Machine.execDmaComplete core tag s
  | .coreProgramEnded core => Sys2Proof.Machine.execCoreProgramEnded core s
  | .stationaryLoadComplete core => Sys2Proof.Machine.execStationaryLoadComplete core s
  | .engineStreamStart core loadWait feed => Sys2Proof.Machine.execEngineStreamStart core loadWait feed s
  | .engineRowDrained core feed drain budget => Sys2Proof.Machine.execEngineRowDrained core feed drain budget s
  | .engineInstructionComplete core => Sys2Proof.Machine.execEngineInstructionComplete core s
  | .rampDownRequest core => Sys2Proof.Machine.execRampDownRequest core s
  | .startArbiterGrant die => Sys2Proof.Machine.execStartArbiterGrant die s
  | .rampDownComplete core => Sys2Proof.Machine.execRampDownComplete core s
  | .rampUpComplete core => Sys2Proof.Machine.execRampUpComplete core s
  | .commandAdmission q => Sys2Proof.Machine.execCommandAdmission q s
  | .commandCommit q pos => Sys2Proof.Machine.execCommandCommit q pos s
  | .spillRecordApply core => Sys2Proof.Machine.execSpillRecordApply core s
  | .slicePreemption q pos => Sys2Proof.Machine.execSlicePreemption q pos s
  | .rds agent addr => Sys2Proof.Machine.execRds agent addr s
  | .rdu agent addr => Sys2Proof.Machine.execRdu agent addr s
  | .clnu agent addr => Sys2Proof.Machine.execClnu agent addr s
  | .wbd agent addr => Sys2Proof.Machine.execWbd agent addr s
  | .evict agent addr => Sys2Proof.Machine.execEvict agent addr s
  | .rdonce agent addr => Sys2Proof.Machine.execRdonce agent addr s
  | .wru agent addr mask data => Sys2Proof.Machine.execWru agent addr mask data s
  | .atmh agent addr op wide operand cmp => Sys2Proof.Machine.execAtmh agent addr op wide operand cmp s
  | .atmf agent addr op wide operand cmp => Sys2Proof.Machine.execAtmf agent addr op wide operand cmp s
  | .snps agent addr => Sys2Proof.Machine.execSnps agent addr s
  | .snpu agent addr => Sys2Proof.Machine.execSnpu agent addr s
  | .snpinv agent addr => Sys2Proof.Machine.execSnpinv agent addr s
  | .snponce agent addr => Sys2Proof.Machine.execSnponce agent addr s
  | .holdEnd agent addr => Sys2Proof.Machine.execHoldEnd agent addr s
  | .data agent addr => Sys2Proof.Machine.execData agent addr s
  | .snpresp agent addr => Sys2Proof.Machine.execSnpresp agent addr s
  | .retry agent addr => Sys2Proof.Machine.execRetry agent addr s
  | .comp agent addr => Sys2Proof.Machine.execComp agent addr s
  | .compack agent addr => Sys2Proof.Machine.execCompack agent addr s
  | .reservationLapse home agent => Sys2Proof.Machine.execReservationLapse home agent s
  | .lxsAmofaddS hart attr rd rs1 rs2 => Sys2Proof.Machine.execLxsAmofaddS hart attr rd rs1 rs2 s
  | .lxsAmofaddBf16x2 hart attr rd rs1 rs2 => Sys2Proof.Machine.execLxsAmofaddBf16x2 hart attr rd rs1 rs2 s
  | .serverCoreAccess hart kind attr op size addr value rd => Sys2Proof.Machine.execServerCoreAccess hart kind attr op size addr value rd s
  | .hostAtomicop fn off op size operand cmp => Sys2Proof.Machine.execHostAtomicop fn off op size operand cmp s
  | .cppcRequest hart mhz => Sys2Proof.Machine.execCppcRequest hart mhz s
  | .iommuInvalWrite hart value => Sys2Proof.Machine.execIommuInvalWrite hart value s
  | .iommuSyncRead hart => Sys2Proof.Machine.execIommuSyncRead hart s
  | .localDoorbell hart q size value => Sys2Proof.Machine.execLocalDoorbell hart q size value s
  | .lmbDoorbell hart value => Sys2Proof.Machine.execLmbDoorbell hart value s
  | .bootStatusMirror p value => Sys2Proof.Machine.execBootStatusMirror p value s
  | .serverBootTimeout p => Sys2Proof.Machine.execServerBootTimeout p s
  | .sbiSrstReboot hart => Sys2Proof.Machine.execSbiSrstReboot hart s
  | .embLookup q pos => Sys2Proof.Machine.execEmbLookup q pos s
  | .embUpdate q pos => Sys2Proof.Machine.execEmbUpdate q pos s
  | .relayoutRegionStart p table region => Sys2Proof.Machine.execRelayoutRegionStart p table region s
  | .relayoutRegionCopied p table region => Sys2Proof.Machine.execRelayoutRegionCopied p table region s
  | .relayoutRegionRestart p table region => Sys2Proof.Machine.execRelayoutRegionRestart p table region s
  | .relayoutSwitchPoint p table => Sys2Proof.Machine.execRelayoutSwitchPoint p table s
  | .commitTimeout p => Sys2Proof.Machine.execCommitTimeout p s
  | .dripBehindEmit p => Sys2Proof.Machine.execDripBehindEmit p s
  | .dripRingRoom p head => Sys2Proof.Machine.execDripRingRoom p head s
  | .programRun q pos => Sys2Proof.Machine.execProgramRun q pos s
  | .copy q pos => Sys2Proof.Machine.execCopy q pos s
  | .fill q pos => Sys2Proof.Machine.execFill q pos s
  | .gatherShard q pos => Sys2Proof.Machine.execGatherShard q pos s
  | .ringPass q pos => Sys2Proof.Machine.execRingPass q pos s
  | .collective q pos => Sys2Proof.Machine.execCollective q pos s
  | .stepBegin q pos => Sys2Proof.Machine.execStepBegin q pos s
  | .stepCommit q pos => Sys2Proof.Machine.execStepCommit q pos s
  | .stepRecover q pos => Sys2Proof.Machine.execStepRecover q pos s
  | .evalBegin q pos => Sys2Proof.Machine.execEvalBegin q pos s
  | .evalEnd q pos => Sys2Proof.Machine.execEvalEnd q pos s
  | .videoDecode q pos => Sys2Proof.Machine.execVideoDecode q pos s
  | .videoEncode q pos => Sys2Proof.Machine.execVideoEncode q pos s
  | .videoBudgetOverrun p session => Sys2Proof.Machine.execVideoBudgetOverrun p session s
  | .fence q pos => Sys2Proof.Machine.execFence q pos s
  | .signalAdd q pos => Sys2Proof.Machine.execSignalAdd q pos s
  | .signalSet q pos => Sys2Proof.Machine.execSignalSet q pos s
  | .wait q pos => Sys2Proof.Machine.execWait q pos s
  | .waitDeadline q pos => Sys2Proof.Machine.execWaitDeadline q pos s
  | .acceptPlaced q pos => Sys2Proof.Machine.execAcceptPlaced q pos s
  | .acceptPlacedDeadline q pos => Sys2Proof.Machine.execAcceptPlacedDeadline q pos s
  | .doorbell fn q off size value => Sys2Proof.Machine.execDoorbell fn q off size value s
  | .descriptorFetchComplete q result bytes => Sys2Proof.Machine.execDescriptorFetchComplete q result bytes s
  | .descriptorReread q bytes => Sys2Proof.Machine.execDescriptorReread q bytes s
  | .mbxReqTailWrite fn value => Sys2Proof.Machine.execMbxReqTailWrite fn value s
  | .mbxRspHeadWrite fn value => Sys2Proof.Machine.execMbxRspHeadWrite fn value s
  | .mailboxRequestServe fn => Sys2Proof.Machine.execMailboxRequestServe fn s
  | .mailboxReread fn => Sys2Proof.Machine.execMailboxReread fn s
  | .mailboxLComplete fn pos => Sys2Proof.Machine.execMailboxLComplete fn pos s
  | .fnFlushRead fn => Sys2Proof.Machine.execFnFlushRead fn s
  | .bar2Read fn requester off len => Sys2Proof.Machine.execBar2Read fn requester off len s
  | .bar2Write fn requester off bytes => Sys2Proof.Machine.execBar2Write fn requester off bytes s
  | .placementWrite fn off requester stream kind bytes => Sys2Proof.Machine.execPlacementWrite fn off requester stream kind bytes s
  | .runoutCloseTimer fn region => Sys2Proof.Machine.execRunoutCloseTimer fn region s
  | .prCtlReopen fn region => Sys2Proof.Machine.execPrCtlReopen fn region s
  | .getInfo fn => Sys2Proof.Machine.execGetInfo fn s
  | .getCaps fn => Sys2Proof.Machine.execGetCaps fn s
  | .getCapsSwitchV1 fn => Sys2Proof.Machine.execGetCapsSwitchV1 fn s
  | .getCapsSwitchV2 fn => Sys2Proof.Machine.execGetCapsSwitchV2 fn s
  | .partitionCreate fn => Sys2Proof.Machine.execPartitionCreate fn s
  | .partitionDestroy fn => Sys2Proof.Machine.execPartitionDestroy fn s
  | .queueCreate fn => Sys2Proof.Machine.execQueueCreate fn s
  | .queueDestroy fn => Sys2Proof.Machine.execQueueDestroy fn s
  | .regionRegister fn => Sys2Proof.Machine.execRegionRegister fn s
  | .regionUnregister fn => Sys2Proof.Machine.execRegionUnregister fn s
  | .windowMapMap fn => Sys2Proof.Machine.execWindowMapMap fn s
  | .windowMapUnmap fn => Sys2Proof.Machine.execWindowMapUnmap fn s
  | .windowMapRemoveSet fn => Sys2Proof.Machine.execWindowMapRemoveSet fn s
  | .windowMapReactivateSet fn => Sys2Proof.Machine.execWindowMapReactivateSet fn s
  | .jobConfig fn => Sys2Proof.Machine.execJobConfig fn s
  | .mappingLoad fn => Sys2Proof.Machine.execMappingLoad fn s
  | .stepPolicy fn => Sys2Proof.Machine.execStepPolicy fn s
  | .tableCreate fn => Sys2Proof.Machine.execTableCreate fn s
  | .relayoutStart fn => Sys2Proof.Machine.execRelayoutStart fn s
  | .relayoutResume fn => Sys2Proof.Machine.execRelayoutResume fn s
  | .relayoutAbortStop fn => Sys2Proof.Machine.execRelayoutAbortStop fn s
  | .relayoutAbortRevert fn => Sys2Proof.Machine.execRelayoutAbortRevert fn s
  | .dripConfig fn => Sys2Proof.Machine.execDripConfig fn s
  | .telemetryConfig fn => Sys2Proof.Machine.execTelemetryConfig fn s
  | .replayConfig fn => Sys2Proof.Machine.execReplayConfig fn s
  | .replayRun fn => Sys2Proof.Machine.execReplayRun fn s
  | .linkConfig fn => Sys2Proof.Machine.execLinkConfig fn s
  | .peerTableLoad fn => Sys2Proof.Machine.execPeerTableLoad fn s
  | .functionDisable fn => Sys2Proof.Machine.execFunctionDisable fn s
  | .functionEnable fn => Sys2Proof.Machine.execFunctionEnable fn s
  | .powerProfile fn => Sys2Proof.Machine.execPowerProfile fn s
  | .ageingCheck fn => Sys2Proof.Machine.execAgeingCheck fn s
  | .ageingReport fn => Sys2Proof.Machine.execAgeingReport fn s
  | .decafEnter fn => Sys2Proof.Machine.execDecafEnter fn s
  | .fwStage fn => Sys2Proof.Machine.execFwStage fn s
  | .fwActivate fn => Sys2Proof.Machine.execFwActivate fn s
  | .fwTrialStart comp => Sys2Proof.Machine.execFwTrialStart comp s
  | .fwTrialOutcome comp success => Sys2Proof.Machine.execFwTrialOutcome comp success s
  | .attestGet fn => Sys2Proof.Machine.execAttestGet fn s
  | .errorLogRead fn => Sys2Proof.Machine.execErrorLogRead fn s
  | .dataFrame port dst etherType fcsOk icvOk header payload => Sys2Proof.Machine.execDataFrame port dst etherType fcsOk icvOk header payload s
  | .ackFrame port dst etherType fcsOk icvOk header payload => Sys2Proof.Machine.execAckFrame port dst etherType fcsOk icvOk header payload s
  | .connectFrame port dst etherType fcsOk icvOk header payload => Sys2Proof.Machine.execConnectFrame port dst etherType fcsOk icvOk header payload s
  | .acceptFrame port dst etherType fcsOk icvOk header payload => Sys2Proof.Machine.execAcceptFrame port dst etherType fcsOk icvOk header payload s
  | .rejectFrame port dst etherType fcsOk icvOk header payload => Sys2Proof.Machine.execRejectFrame port dst etherType fcsOk icvOk header payload s
  | .keepaliveFrame port dst etherType fcsOk icvOk header payload => Sys2Proof.Machine.execKeepaliveFrame port dst etherType fcsOk icvOk header payload s
  | .closeFrame port dst etherType fcsOk icvOk header payload => Sys2Proof.Machine.execCloseFrame port dst etherType fcsOk icvOk header payload s
  | .mkaFrame port dst fcsOk installRx installTx sak => Sys2Proof.Machine.execMkaFrame port dst fcsOk installRx installTx sak s
  | .pauseFrame port pfc prio time => Sys2Proof.Machine.execPauseFrame port pfc prio time s
  | .nonTransportFrame port dst etherType fcsOk icvOk header payload => Sys2Proof.Machine.execNonTransportFrame port dst etherType fcsOk icvOk header payload s
  | .ackTimer flow => Sys2Proof.Machine.execAckTimer flow s
  | .retransmitTimeout flow => Sys2Proof.Machine.execRetransmitTimeout flow s
  | .connectRetryTimer flow => Sys2Proof.Machine.execConnectRetryTimer flow s
  | .keepaliveTimer flow => Sys2Proof.Machine.execKeepaliveTimer flow s
  | .peerUnreachable flow => Sys2Proof.Machine.execPeerUnreachable flow s
  | .collectiveDone q pos member => Sys2Proof.Machine.execCollectiveDone q pos member s
  | .collectiveRestart q pos => Sys2Proof.Machine.execCollectiveRestart q pos s
  | .ringPassGrant q pos => Sys2Proof.Machine.execRingPassGrant q pos s
  | .commitExchange p member kind bytes => Sys2Proof.Machine.execCommitExchange p member kind bytes s
  | .blockFetchRequest p member dirIdx block => Sys2Proof.Machine.execBlockFetchRequest p member dirIdx block s
  | .blockFetchResponse p member dirIdx block bytes => Sys2Proof.Machine.execBlockFetchResponse p member dirIdx block bytes s
  | .portLinkUp port => Sys2Proof.Machine.execPortLinkUp port s
  | .portLinkDown port cause => Sys2Proof.Machine.execPortLinkDown port cause s
  | .trainingTimeout port => Sys2Proof.Machine.execTrainingTimeout port s
  | .portRetrainTimer port => Sys2Proof.Machine.execPortRetrainTimer port s
  | .linkCrcReplay link run => Sys2Proof.Machine.execLinkCrcReplay link run s
  | .linkRetrainTimeout link => Sys2Proof.Machine.execLinkRetrainTimeout link s
  | .mctpPhaseRecordRead p => Sys2Proof.Machine.execMctpPhaseRecordRead p s
  | .mctpBaseboardNumber number => Sys2Proof.Machine.execMctpBaseboardNumber number s
  | .pldmPowerLimit watts => Sys2Proof.Machine.execPldmPowerLimit watts s
  | .i3cEntdaa addr => Sys2Proof.Machine.execI3cEntdaa addr s
  | .spdmRequest transport session code bytes => Sys2Proof.Machine.execSpdmRequest transport session code bytes s
  | .ideKmKeyProg session stream keySet key => Sys2Proof.Machine.execIdeKmKeyProg session stream keySet key s
  | .kSetGo stream keySet => Sys2Proof.Machine.execKSetGo stream keySet s
  | .kSetStop stream keySet => Sys2Proof.Machine.execKSetStop stream keySet s
  | .ideCheckFailure stream => Sys2Proof.Machine.execIdeCheckFailure stream s
  | .macsecCakSet session transport ports cak ckn => Sys2Proof.Machine.execMacsecCakSet session transport ports cak ckn s
  | .debugChallenge => Sys2Proof.Machine.execDebugChallenge s
  | .debugUnlockToken bytes => Sys2Proof.Machine.execDebugUnlockToken bytes s
  | .pwrSample mv ma reverse => Sys2Proof.Machine.execPwrSample mv ma reverse s
  | .undervoltageTimer => Sys2Proof.Machine.execUndervoltageTimer s
  | .overvoltageTripTimer => Sys2Proof.Machine.execOvervoltageTripTimer s
  | .budgetLoopStep avg proj => Sys2Proof.Machine.execBudgetLoopStep avg proj s
  | .thermalSample die tenths => Sys2Proof.Machine.execThermalSample die tenths s
  | .coolingLost die => Sys2Proof.Machine.execCoolingLost die s
  | .ageingCheckpointDue die slack roPpm => Sys2Proof.Machine.execAgeingCheckpointDue die slack roPpm s
  | .slackAlarm die slack => Sys2Proof.Machine.execSlackAlarm die slack s
  | .ageingRecordHourly => Sys2Proof.Machine.execAgeingRecordHourly s
  | .errorLogFlashCopy => Sys2Proof.Machine.execErrorLogFlashCopy s
  | .domainIdleTimer dom dest => Sys2Proof.Machine.execDomainIdleTimer dom dest s
  | .domainStartComplete dom => Sys2Proof.Machine.execDomainStartComplete dom s
  | .mpWatchdog => Sys2Proof.Machine.execMpWatchdog s
  | .decafEntry cause => Sys2Proof.Machine.execDecafEntry cause s
  | .decafDripFlush => Sys2Proof.Machine.execDecafDripFlush s
  | .journalSpace p head => Sys2Proof.Machine.execJournalSpace p head s
  | .registerWrite space who off size value => Sys2Proof.Machine.execRegisterWrite space who off size value s
  | .coolModeChange mode => Sys2Proof.Machine.execCoolModeChange mode s
  | .deviceTemperature85c device hot => Sys2Proof.Machine.execDeviceTemperature85c device hot s
  | .serverCoreInternalError hart => Sys2Proof.Machine.execServerCoreInternalError hart s
  | .videoUnitInternalError unit => Sys2Proof.Machine.execVideoUnitInternalError unit s
  | .videoUnitRestart unit => Sys2Proof.Machine.execVideoUnitRestart unit s
  | .regulatorFault => Sys2Proof.Machine.execRegulatorFault s
  | .entropyHealthFailure => Sys2Proof.Machine.execEntropyHealthFailure s
  | .regulatorsStop => Sys2Proof.Machine.execRegulatorsStop s
  | .configurationRequest fn off write value => Sys2Proof.Machine.execConfigurationRequest fn off write value s
  | .msixEntryUnmask fn entry => Sys2Proof.Machine.execMsixEntryUnmask fn entry s
  | .lpddr5xInitComplete => Sys2Proof.Machine.execLpddr5xInitComplete s
  | .pfcPauseExpiry port => Sys2Proof.Machine.execPfcPauseExpiry port s
  | .debugPortAccess write addr value => Sys2Proof.Machine.execDebugPortAccess write addr value s

end Sys2Proof.Machine
end

