-- ==== Sys2Proof/Safety.lean ====
section
/-! DEFINITION. The words in which the statements speak: sound states, a core that issues an instruction, a request in service,
a command at work. -/

namespace Sys2Proof.Machine

/-- Device memory and host memory are in their canonical forms. -/
def State.memOk (s : State) : Bool := memWf s.mem && hostWfFrom 0 s.hostMem

/-! ### Core programs (R116 to R121) -/

/-- Core k issues the instruction `word` of `len` bytes next: its program runs, waits for nothing, and fetch finds the word at
its pc. -/
structure Issues (s : State) (k : Nat) (word : Word32) (len : Nat) : Prop where
  can : canIssue s k = true
  fetched : fetch s k = .ok (word, len)

/-- The pc after an instruction of `len` bytes. -/
def pcAfter (s : State) (k len : Nat) : Word32 := (coreAt s k).regs.pc + BitVec.ofNat 32 len

/-- Core k changed by `f`, one more instruction retired, and its pc at `pc`; nothing else is changed. -/
def coreStep (s : State) (k : Nat) (f : Core → Core) (pc : Word32) : State :=
  setCore s k (let c := f (coreAt s k)
    { c with regs := { c.regs with pc := pc }, instret := c.instret + 1, seqInstret := c.seqInstret + 1 })

/-- The state after a step of core k whose store wrote `n` bytes of `v` at window offset `off`. -/
def storeStep (s : State) (k off n : Nat) (v : Word32) : State :=
  coreStep (windowWrite s k off n v.toNat) k id (pcAfter s k 4)

/-- Core k issues a listed vector instruction whose VL the element width admits (R121, R129). -/
structure VecIssues (s : State) (k : Nat) (word : Word32) (bits : Nat) : Prop extends Issues s k word 4 where
  listed : lxListed word.toNat = true
  vl : (coreAt s k).regs.vl ≤ vlmax bits

/-- The state after a vector instruction that writes `g c i` to element i of vd, for i below VL (R129). -/
def lanesWritten (s : State) (k : Nat) (vd : BitVec 5) (bits : Nat) (g : Core → Nat → Nat) : State :=
  coreStep s k (fun c => setV c vd (putElems (getV c vd) bits ((List.range c.regs.vl).map (g c)))) (pcAfter s k 4)

/-- The engine instruction that `lx.mm` issues from the MOD at a scratch offset (R123, R126). -/
def mmInst (s : State) (k : Nat) (shape : Nat) (t : Bool) (ws : Nat) (off rows : Nat) : EngInst :=
  { ticket := (coreAt s k).engine.lastTicket + 1, shape := shape, transposed := t, ws := ws, rows := rows,
    desc := modOfBytes (memBytes s.mem (coreAddr k off) 128), phase := .issued, tile := [], drained := 0 }

/-! ### The host tier (R174, R186) -/

/-- What an explicit request for one page's migration does: a full quota or an empty pool drops it and counts it. -/
def pageRequest (p obj : Nat) (dir : MigDir) (t : State) (page : Nat) : State :=
  match startMigration t p obj page dir .explicit with
  | (.taken, u) => u
  | (_, u) => modPart u p (fun x => { x with tier := { x.tier with reqDropped := bump x.tier.reqDropped 1 } })

/-! ### Commands of queue contexts (R404 to R410) -/

/-- The command of queue q at position pos has been admitted and its work is not over. -/
structure Working (s : State) (q pos op : Nat) (x : Queue) (c : Cmd) : Prop where
  queue : queueAt s q = some x
  cmd : cmdAt s q pos = some c
  admitted : c.phase = .admitted
  opcode : c.opcode = op

/-- A range of T1 that partition p owns, none of whose lines is poisoned or cached. -/
structure Quiet (s : State) (p a n : Nat) : Prop where
  owned : ownsT1 s p a n = true
  nonempty : 0 < n
  sound : rangePoisoned s a n = false
  uncached : ∀ lid ∈ lidsOf a n, lineHeld s lid = false

/-- Accesses of the MP for partition p meet nothing that would change the state beside them: no request is held, nothing is
journaled, no table is being re-laid out. -/
structure Undisturbed (s : State) (p : Nat) : Prop where
  noHolds : s.holds = []
  noJournal : ∀ x, partAt s p = some x → x.journal.enable = 0
  noRelayout : ∀ j, jobAt s p = some j → ∀ e ∈ j.tables, e.2.relayout = none

/-- No table of partition p is being re-laid out, so no write restarts a copy (R255). -/
def NoRelayout (s : State) (p : Nat) : Prop := ∀ j, jobAt s p = some j → ∀ e ∈ j.tables, e.2.relayout = none

/-! ### Mailbox requests (R397, R416, R468, R481) -/

/-- Request r of function fn is in service with room for its response, and nothing turns it away. -/
structure Serving (s : State) (fn : Nat) (f : Func) (r : MbxReq) (cmd : Nat) : Prop where
  func : funcAt s fn = some f
  inService : f.inService = some r
  cmdIs : r.cmd = cmd
  room : rspRoom s fn f r.isLocal = true
  rom : s.sec.romRecovery = false ∨ mbxRecovery r = true
  decaf : s.fault.decaf = none ∨ mbxDecaf cmd = true
  enabled : f.disabled = false ∨ mbxDisabled cmd = true
  own : mbxPf0Only cmd = true → fn = 0
  free : mbxBusy f r = false

/-- A long request accepted: it leaves the service and its function holds it until it is answered. -/
def accepted (s : State) (fn : Nat) (r : MbxReq) : State :=
  modFunc s fn (fun g => { g with inService := none, long := g.long ++ [r] })

/-! ### Frames (R335, R337, R342) -/

/-- A transport frame of a type arrives at port `pt` (in state `x`) and passes the checks of R335, R337 and R339; its net_id is
that of partition p. -/
structure Arrives (s : State) (pt : Nat) (x : Port) (dst etherType : Nat) (fcsOk icvOk : Bool) (header payload : List Byte)
    (type p : Nat) : Prop where
  port : portAt s pt = some x
  up : x.phase = .up
  fcs : fcsOk = true
  mac : dst = x.mac
  sealed : x.macsec = true → icvOk = true ∧ (s.sec.macsec[pt]?.map (·.rxSas)).getD [] ≠ []
  ether : etherType = s.etherType
  length : header.length = 64
  version : (frameOfBytes header payload).ver = 1
  typed : (frameOfBytes header payload).type = type
  cls : type = 1 → (frameOfBytes header payload).cls ≤ 6
  icrc : icrcOk header payload = true
  len : fieldAt header 0x0E 2 = payload.length
  room : payload.length ≤ 8192
  bare : type ≠ 1 → payload = []
  net : partOfNet s (frameOfBytes header payload).netId = some p

/-- A frame that arrives on the flow `g` of partition p: its context, its peer and this module's generation. -/
structure ArrivesOn (s : State) (pt : Nat) (x : Port) (dst etherType : Nat) (fcsOk icvOk : Bool) (header payload : List Byte)
    (type p : Nat) (g : Flow) : Prop extends Arrives s pt x dst etherType fcsOk icvOk header payload type p where
  flow : flowAt s (frameOfBytes header payload).dstFlow = some g
  part : g.partition = p
  peer : g.peer = (frameOfBytes header payload).srcModule
  gen : type ≠ 5 → (frameOfBytes header payload).dstGen = s.sec.generation.toNat

/-- The state once a frame of `n` payload bytes has been counted at its port and heard on flow fid: an unreachable peer that
answers is open again (R348). -/
def heard (s : State) (pt : Nat) (x : Port) (n fid : Nat) : State :=
  modFlow (countRx s pt (wireBytes x n)) fid (fun h => { h with
    lastHeard := aonNow s, phase := if h.phase = .unreachable then .open else h.phase })

end Sys2Proof.Machine
end

