-- ==== Sys2Proof/Certificates/Slice0/Obligations.lean ====
section
/-! DEFINITION. The statements for the provers. -/

open Sys2Proof Sys2Proof.Machine

/-! ### The block -/

/-- Each step takes the command at the front of the queue and runs its meaning on the state with the rest of the queue. -/
def Obligations.StepRunsTheFrontCommand : Prop :=
  ∀ (c : Instr) (rest : List Instr) (s : State), step { s with pending := c :: rest } = exec c { s with pending := rest }

/-- The model's choice (log entry 2): with an empty queue a step is one AON cycle. Once power is good, a domain in RUN counts
its cycles and one that is not in RUN counts none (R442); before that nothing changes. -/
def Obligations.EmptyQueueIsOneAonCycle : Prop :=
  ∀ (s : State), s.pending = [] →
    step s = .next (tick s)
    ∧ (s.life.powered = false → tick s = s)
    ∧ (s.life.powered = true → s.life.stopped = false →
        (s.domains[0].phase = .run → s.domains[0].mhz = 25 → aonNow (tick s) = aonNow s + 1)
        ∧ ∀ i : Fin 40, s.domains[i].phase ≠ .run → (tick s).domains[i] = s.domains[i])

/-- No step stops: in every state the step has a next state, which leaves every command of the queue but the one it takes. -/
def Obligations.EveryStepTakesOneCommand : Prop :=
  ∀ (s : State), ∃ t, step s = .next t ∧ t.pending = s.pending.tail

/-- Every step keeps device memory and host memory in their canonical forms. -/
def Obligations.EveryStepKeepsMemoryCanonical : Prop :=
  ∀ (s t : State), s.memOk = true → step s = .next t → t.memOk = true

/-- No step lowers the one-time-programmable security version (R483), and none changes the product variant. -/
def Obligations.SecurityVersionNeverFalls : Prop :=
  ∀ (s t : State), step s = .next t → s.sec.otpVersion ≤ t.sec.otpVersion ∧ t.big = s.big

/-! ### The sequencer -/

/-- OP instructions of RV32IM: the result of each on x[rs1] and x[rs2] goes to x[rd], and nothing else changes but the pc and
the retired count (R116). -/
def Obligations.RvRegisterArithmetic : Prop :=
  ∀ (s : State) (core : CoreId) (rd rs1 rs2 : BitVec 5),
    let k := core.toNat
    let a := getX (coreAt s k) rs1
    let b := getX (coreAt s k) rs2
    let word (f7 f3 : Nat) : Word32 := rWord f7 rs2.toNat rs1.toNat f3 rd.toNat 0x33
    let gives (f7 f3 : Nat) (v : Word32) : Prop := Issues s k (word f7 f3) 4 →
      exec (.rv32imcInstruction core (word f7 f3)) s = .next (coreStep s k (fun c => setX c rd v) (pcAfter s k 4))
    gives 0 0 (a + b) ∧ gives 0x20 0 (a - b) ∧ gives 0 1 (a <<< (b.toNat % 32))
    ∧ gives 0 2 (if a.toInt < b.toInt then 1 else 0) ∧ gives 0 3 (if a.toNat < b.toNat then 1 else 0)
    ∧ gives 0 4 (a ^^^ b) ∧ gives 0 5 (a >>> (b.toNat % 32)) ∧ gives 0x20 5 (a.sshiftRight (b.toNat % 32))
    ∧ gives 0 6 (a ||| b) ∧ gives 0 7 (a &&& b)
    ∧ gives 1 0 (a * b) ∧ gives 1 1 (BitVec.ofInt 32 (a.toInt * b.toInt / 2 ^ 32))
    ∧ gives 1 2 (BitVec.ofInt 32 (a.toInt * (b.toNat : Int) / 2 ^ 32)) ∧ gives 1 3 (BitVec.ofNat 32 (a.toNat * b.toNat / 2 ^ 32))
    ∧ gives 1 4 (if b = 0 then BitVec.allOnes 32 else BitVec.ofInt 32 (a.toInt.tdiv b.toInt))
    ∧ gives 1 5 (if b = 0 then BitVec.allOnes 32 else a / b)
    ∧ gives 1 6 (if b = 0 then a else BitVec.ofInt 32 (a.toInt.tmod b.toInt)) ∧ gives 1 7 (if b = 0 then a else a % b)

/-- OP-IMM, LUI, AUIPC, JAL, JALR and the branches, each with the immediate that its word holds (R116). JALR clears bit 0 of its
target (R117). The compressed forms c.li, c.addi, c.mv, c.add and c.jr do what their base instruction does, in 2 bytes. -/
def Obligations.RvImmediatesAndControl : Prop :=
  ∀ (s : State) (core : CoreId) (rd rs1 rs2 : BitVec 5) (i12 : BitVec 12) (i20 : BitVec 20),
    let k := core.toNat
    let c0 := coreAt s k
    let pc := c0.regs.pc
    let a := getX c0 rs1
    let b := getX c0 rs2
    let imm : Word32 := i12.signExtend 32
    let iW (f3 opc : Nat) : Word32 := i12 ++ rs1 ++ BitVec.ofNat 3 f3 ++ rd ++ BitVec.ofNat 7 opc
    let uW (opc : Nat) : Word32 := i20 ++ rd ++ BitVec.ofNat 7 opc
    let jW : Word32 := i20.extractLsb' 19 1 ++ i20.extractLsb' 0 10 ++ i20.extractLsb' 10 1 ++ i20.extractLsb' 11 8 ++ rd ++ 0x6F#7
    let bW (f3 : Nat) : Word32 :=
      i12.extractLsb' 11 1 ++ i12.extractLsb' 4 6 ++ rs2 ++ rs1 ++ BitVec.ofNat 3 f3 ++ i12.extractLsb' 0 4 ++ i12.extractLsb' 10 1
        ++ 0x63#7
    let shW (f7 f3 : Nat) : Word32 := BitVec.ofNat 7 f7 ++ rs2 ++ rs1 ++ BitVec.ofNat 3 f3 ++ rd ++ 0x13#7
    let next := pcAfter s k 4
    let gives (w : Word32) (v : Word32) (dest : Word32) : Prop := Issues s k w 4 →
      exec (.rv32imcInstruction core w) s = .next (coreStep s k (fun c => setX c rd v) dest)
    let short (w : Word32) (r : BitVec 5) (v dest : Word32) : Prop := Issues s k w 2 →
      exec (.rv32imcInstruction core w) s = .next (coreStep s k (fun c => setX c r v) dest)
    let jumps (f3 : Nat) (taken : Bool) : Prop := Issues s k (bW f3) 4 →
      exec (.rv32imcInstruction core (bW f3)) s
        = .next (coreStep s k id (if taken then pc + (i12 ++ 0#1).signExtend 32 else next))
    gives (iW 0 0x13) (a + imm) next ∧ gives (iW 2 0x13) (if a.toInt < imm.toInt then 1 else 0) next
    ∧ gives (iW 3 0x13) (if a.toNat < imm.toNat then 1 else 0) next ∧ gives (iW 4 0x13) (a ^^^ imm) next
    ∧ gives (iW 6 0x13) (a ||| imm) next ∧ gives (iW 7 0x13) (a &&& imm) next
    ∧ gives (shW 0 1) (a <<< rs2.toNat) next ∧ gives (shW 0 5) (a >>> rs2.toNat) next
    ∧ gives (shW 0x20 5) (a.sshiftRight rs2.toNat) next
    ∧ gives (uW 0x37) (i20 ++ 0#12) next ∧ gives (uW 0x17) (pc + (i20 ++ 0#12)) next
    ∧ gives jW next (pc + (i20 ++ 0#1).signExtend 32)
    ∧ gives (iW 0 0x67) next ((a + imm) &&& 0xFFFFFFFE)
    ∧ short (0#16 ++ 2#3 ++ i12.extractLsb' 5 1 ++ rd ++ i12.extractLsb' 0 5 ++ 1#2) rd ((i12.setWidth 6).signExtend 32) (pcAfter s k 2)
    ∧ short (0#16 ++ 0#3 ++ i12.extractLsb' 5 1 ++ rd ++ i12.extractLsb' 0 5 ++ 1#2) rd (getX c0 rd + (i12.setWidth 6).signExtend 32) (pcAfter s k 2)
    ∧ (rs2 ≠ 0 → short (0#16 ++ 8#4 ++ rd ++ rs2 ++ 2#2) rd b (pcAfter s k 2) ∧ short (0#16 ++ 9#4 ++ rd ++ rs2 ++ 2#2) rd (getX c0 rd + b) (pcAfter s k 2))
    ∧ (rs1 ≠ 0 → short (0#16 ++ 8#4 ++ rs1 ++ 0#5 ++ 2#2) 0 0 (a &&& 0xFFFFFFFE))
    ∧ jumps 0 (a == b) ∧ jumps 1 (a != b) ∧ jumps 4 (a.slt b) ∧ jumps 5 (!a.slt b) ∧ jumps 6 (a.ult b) ∧ jumps 7 (!a.ult b)

/-- Loads sign- or zero-extend what the share or the WGB holds; stores write the low bytes of x[rs2] into the share (R116,
R118). An access that an interlock holds leaves the state as it is. -/
def Obligations.RvLoadsAndStores : Prop :=
  ∀ (s : State) (core : CoreId) (rd rs1 rs2 : BitVec 5) (i12 : BitVec 12),
    let k := core.toNat
    let off := (getX (coreAt s k) rs1 + i12.signExtend 32).toNat
    let ld (f3 : Nat) : Word32 := i12 ++ rs1 ++ BitVec.ofNat 3 f3 ++ rd ++ 0x03#7
    let st (f3 : Nat) : Word32 := i12.extractLsb' 5 7 ++ rs2 ++ rs1 ++ BitVec.ofNat 3 f3 ++ i12.extractLsb' 0 5 ++ 0x23#7
    let loads (f3 n : Nat) (v : Word32) : Prop := Issues s k (ld f3) 4 → loadFault (coreAt s k) off n = none →
      exec (.rv32imcInstruction core (ld f3)) s =
        .next (if loadHeld s k [(off, n)] then s else coreStep s k (fun c => setX c rd v) (pcAfter s k 4))
    let stores (f3 n : Nat) : Prop := Issues s k (st f3) 4 → storeFault (coreAt s k) off n = none →
      exec (.rv32imcInstruction core (st f3)) s =
        .next (if storeHeld s k [(off, n)] then s else storeStep s k off n (getX (coreAt s k) rs2))
    loads 0 1 ((BitVec.ofNat 8 (windowRead s k off 1)).signExtend 32) ∧ loads 1 2 ((BitVec.ofNat 16 (windowRead s k off 2)).signExtend 32)
    ∧ loads 2 4 (BitVec.ofNat 32 (windowRead s k off 4)) ∧ loads 4 1 (BitVec.ofNat 32 (windowRead s k off 1))
    ∧ loads 5 2 (BitVec.ofNat 32 (windowRead s k off 2)) ∧ stores 0 1 ∧ stores 1 2 ∧ stores 2 4

/-- The sequencer's CSRs: an access to one of Table 4-1 reads it and, where it may be written, writes it; one to any other number,
or a write to a read-only one, stops the program with cause 1 (R120); so does a stream of kind 3, with cause 3 (R287). -/
def Obligations.CsrAccesses : Prop :=
  ∀ (s : State) (core : CoreId) (rs1 rd : BitVec 5),
    let k := core.toNat
    let c := coreAt s k
    let word (f3 csr : Nat) : Word32 := BitVec.ofNat 32 (csr * 2 ^ 20 + rs1.toNat * 2 ^ 15 + f3 * 2 ^ 12 + rd.toNat * 2 ^ 7 + 0x73)
    let run (f3 csr : Nat) : Out := exec (.zicsrAccess core (BitVec.ofNat 3 f3) (BitVec.ofNat 12 csr) rs1 rd) s
    let goesOn (f : Core → Core) : Out := .next (coreStep s k f (pcAfter s k 4))
    let src (f3 : Nat) : Word32 := if f3 < 4 then getX c rs1 else BitVec.ofNat 32 rs1.toNat
    let new (f3 : Nat) (old : Word32) : Word32 :=
      if f3 % 4 = 1 then src f3 else if f3 % 4 = 2 then old ||| src f3 else old &&& ~~~src f3
    (∀ f3 csr, f3 < 8 → f3 % 4 ≠ 0 → csr < 4096 → Issues s k (word f3 csr) 4 →
      (∀ old, csrRead s k csr = some old →
        (f3 % 4 ≠ 1 → rs1 = 0 → run f3 csr = goesOn (fun x => setX x rd old))
        ∧ (f3 % 4 = 1 ∨ rs1 ≠ 0 →
            (csrWritable csr = false → run f3 csr = .next (stopCore s k 1 (word f3 csr) 0))
            ∧ (csrWritable csr = true → csr = 0x7C0 → 3 * 2 ^ 30 ≤ (new f3 old).toNat →
                run f3 csr = .next (stopCore s k 3 (word f3 csr) 0))
            ∧ (csrWritable csr = true → (csr = 0x7C0 → (new f3 old).toNat < 3 * 2 ^ 30) →
                run f3 csr = goesOn (fun x => setX { x with regs := csrWrite x.regs csr (new f3 old) } rd old))))
      ∧ (csrRead s k csr = none → run f3 csr = .next (stopCore s k 1 (word f3 csr) 0)))
    ∧ csrRead s k 0x300 = some 0 ∧ csrRead s k 0x304 = some 0 ∧ csrRead s k 0x305 = some 0
    ∧ (∀ v, csrWrite c.regs 0x300 v = c.regs ∧ csrWrite c.regs 0x304 v = c.regs ∧ csrWrite c.regs 0x305 v = c.regs)
    ∧ csrRead s k 0xF14 = some (BitVec.ofNat 32 k) ∧ csrRead s k 0xFC0 = some (BitVec.ofNat 32 c.regs.vl)
    ∧ csrRead s k 0xC02 = some (c.instret.setWidth 32) ∧ csrRead s k 0x7C0 = some c.regs.rngStream
    ∧ csrRead s k 0x7C1 = some c.regs.rngOp ∧ csrRead s k 0xC01 = none ∧ csrRead s k 0xC81 = none

/-- What stops a program (R116 to R118, R121, R129, R131). ecall has cause 8, ebreak 9, a fetch outside the text 5, a vector word that no
table lists 1, a VL beyond the width 3. The stop records the cause, the word and the address, gives the command the status of Table 4-17 and
leaves the core stopped, its engine empty, its recorded WGB operations and DMAs gone; other commands' cores are as they were. -/
def Obligations.ProgramsStop : Prop :=
  ∀ (s : State) (core : CoreId) (ety : BitVec 3) (md : BitVec 2) (vd vs1 vs2 : BitVec 5),
    let k := core.toNat
    let vec := vecWord ety.toNat md.toNat 0 vd.toNat vs1.toNat vs2.toNat
    (Issues s k 0x73 4 → exec (.ecall core) s = .next (stopCore s k 8 0x73 0))
    ∧ (Issues s k 0x100073 4 → exec (.ebreak core false) s = .next (stopCore s k 9 0x100073 0))
    ∧ (Issues s k 0x9002 2 → exec (.ebreak core true) s = .next (stopCore s k 9 0x9002 0))
    ∧ (∀ off, canIssue s k = true → fetch s k = .error off →
        exec (.ecall core) s = .next (stopCore s k 5 0 off)
        ∧ (∀ w, exec (.rv32imcInstruction core w) s = .next (stopCore s k 5 0 off))
        ∧ (∀ m rd rs1, exec (.lxVsetvl core m rd rs1) s = .next (stopCore s k 5 0 off)))
    ∧ (ety.toNat < 6 → Issues s k vec 4 →
        (lxListed vec.toNat = false → exec (.lxVadd core ety md vd vs1 vs2) s = .next (stopCore s k 1 vec 0))
        ∧ (lxListed vec.toNat = true → vlmax (etyBits ety.toNat) < (coreAt s k).regs.vl →
            exec (.lxVadd core ety md vd vs1 vs2) s = .next (stopCore s k 3 vec 0)))
    ∧ (∀ (cause addr : Nat) (word : Word32),
        let t := stopCore s k cause word addr
        let c := coreAt t k
        c.run = .stopped ∧ c.faultCause = cause ∧ c.faultInsn = word ∧ c.faultAddr = BitVec.ofNat 64 addr
        ∧ c.faultStatus = (if cause = 5 ∨ cause = 6 then 0x0D01 else if cause = 10 then 0x1001 else 0x0002)
        ∧ c.wgbOps = [] ∧ c.dmas = [] ∧ c.engine.insts = []
        ∧ (∀ i, i ≠ k → (∀ x, cmdAt s (coreAt s k).job.queue (coreAt s k).job.pos = some x → i ∉ x.cores) → coreAt t i = coreAt s i))

/-! ### The vector unit -/

/-- The integer rows of Table 4-7 on element types INT32, INT16 and INT8: element i of vd, for i below VL, is the exact result of
elements i of the operands, wrapped to the width or clamped with .sat; division by zero gives all ones and the dividend
(R130, R131, Table 4-8). -/
def Obligations.IntegerVectorArithmetic : Prop :=
  ∀ (s : State) (core : CoreId) (ety : BitVec 3) (md : BitVec 2) (vd vs1 vs2 : BitVec 5), 3 ≤ ety.toNat → ety.toNat < 6 →
    let k := core.toNat
    let w := etyBits ety.toNat
    let u := natBit md.toNat 1
    let sat := natBit md.toNat 0
    let sg (x : Nat) : Int := natToInt w x
    let val (x : Nat) : Int := if u then (x : Int) else sg x
    let fits (lo hi x : Int) : Nat := if sat then intToNat w (if x < lo then lo else if hi < x then hi else x) else intToNat w x
    let fit (x : Int) : Nat := if u then fits 0 ((2 ^ w : Nat) - 1) x else fits (-(2 ^ (w - 1) : Nat)) ((2 ^ (w - 1) : Nat) - 1) x
    let fitS (x : Int) : Nat := fits (-(2 ^ (w - 1) : Nat)) ((2 ^ (w - 1) : Nat) - 1) x
    let gives (i : Instr) (op m : Nat) (g : Nat → Nat → Nat → Nat) : Prop :=
      VecIssues s k (vecWord ety.toNat m op vd.toNat vs1.toNat vs2.toNat) w →
      exec i s = .next (lanesWritten s k vd w (fun c j => g (elem (getV c vs1) w j) (elem (getV c vs2) w j) (elem (getV c vd) w j)))
    gives (.lxVadd core ety md vd vs1 vs2) 0x00 md.toNat (fun a b _ => fit (val a + val b))
    ∧ gives (.lxVsub core ety md vd vs1 vs2) 0x01 md.toNat (fun a b _ => fit (val a - val b))
    ∧ gives (.lxVmul core ety md vd vs1 vs2) 0x02 md.toNat (fun a b _ => fit (val a * val b))
    ∧ gives (.lxVfma core ety md vd vs1 vs2) 0x03 md.toNat (fun a b d => fit (val a * val b + val d))
    ∧ gives (.lxVfms core ety md vd vs1 vs2) 0x04 md.toNat (fun a b d => fit (val d - val a * val b))
    ∧ gives (.lxVmin core ety md vd vs1 vs2) 0x05 md.toNat (fun a b _ => if val a ≤ val b then a else b)
    ∧ gives (.lxVmax core ety md vd vs1 vs2) 0x06 md.toNat (fun a b _ => if val a ≤ val b then b else a)
    ∧ gives (.lxVdiv core ety md vd vs1 vs2) 0x07 md.toNat (fun a b _ => if b = 0 then 2 ^ w - 1 else fit ((val a).tdiv (val b)))
    ∧ gives (.lxVrem core ety md vd vs1 vs2) 0x08 md.toNat (fun a b _ => if b = 0 then a else intToNat w ((val a).tmod (val b)))
    ∧ gives (.lxVand core ety vd vs1 vs2) 0x09 0 (fun a b _ => a &&& b)
    ∧ gives (.lxVor core ety vd vs1 vs2) 0x0A 0 (fun a b _ => a ||| b)
    ∧ gives (.lxVxor core ety vd vs1 vs2) 0x0B 0 (fun a b _ => a ^^^ b)
    ∧ gives (.lxVsll core ety vd vs1 vs2) 0x0C 0 (fun a b _ => (a * 2 ^ (b % w)) % 2 ^ w)
    ∧ gives (.lxVsrl core ety vd vs1 vs2) 0x0D 0 (fun a b _ => a / 2 ^ (b % w))
    ∧ gives (.lxVsra core ety vd vs1 vs2) 0x0E 0 (fun a b _ => intToNat w (sg a / (2 ^ (b % w) : Nat)))
    ∧ gives (.lxVabs core ety md vd vs1 vs2) 0x14 md.toNat (fun a _ _ => fitS (if sg a < 0 then -(sg a) else sg a))
    ∧ gives (.lxVneg core ety md vd vs1 vs2) 0x15 md.toNat (fun a _ _ => fitS (-(sg a)))

/-- The floating-point rows of Table 4-7 on FP32, BF16 and FP16: element i of vd, for i below VL, is the exact result on elements i
of the operands, rounded once (R130); fma and fms round once. In Eskor-exact numerics operands and result are flushed (Table 2-9). -/
def Obligations.FloatVectorArithmetic : Prop :=
  ∀ (s : State) (core : CoreId) (ety : BitVec 3) (vd vs1 vs2 : BitVec 5), ety.toNat < 3 →
    let k := core.toNat
    let w := etyBits ety.toNat
    let f := etyFmt ety.toNat
    let ek := coreEskor s (coreAt s k)
    let val (x : Nat) : FVal := if ek then flushFmt f (f.decode x) else f.decode x
    let rnd (v : FVal) : Nat := if ek then f.rnd (flushFmt f (f.decode (f.rnd v))) else f.rnd v
    let gives (i : Instr) (op : Nat) (g : FVal → FVal → FVal → FVal) : Prop :=
      VecIssues s k (vecWord ety.toNat 0 op vd.toNat vs1.toNat vs2.toNat) w →
      exec i s = .next (lanesWritten s k vd w (fun c j =>
        rnd (g (val (elem (getV c vs1) w j)) (val (elem (getV c vs2) w j)) (val (elem (getV c vd) w j)))))
    gives (.lxVadd core ety 0 vd vs1 vs2) 0x00 (fun a b _ => a.add b)
    ∧ gives (.lxVsub core ety 0 vd vs1 vs2) 0x01 (fun a b _ => a.add b.neg)
    ∧ gives (.lxVmul core ety 0 vd vs1 vs2) 0x02 (fun a b _ => a.mul b)
    ∧ gives (.lxVfma core ety 0 vd vs1 vs2) 0x03 (fun a b d => (a.mul b).add d)
    ∧ gives (.lxVfms core ety 0 vd vs1 vs2) 0x04 (fun a b d => (a.mul b).neg.add d)
    ∧ gives (.lxVmin core ety 0 vd vs1 vs2) 0x05 (fun a b _ => a.min b)
    ∧ gives (.lxVmax core ety 0 vd vs1 vs2) 0x06 (fun a b _ => a.max b)
    ∧ gives (.lxVdiv core ety 0 vd vs1 vs2) 0x07 (fun a b _ => a.div b)
    ∧ gives (.lxVsqrt core ety vd vs1 vs2) 0x08 (fun a _ _ => a.sqrt)
    ∧ gives (.lxVabs core ety 0 vd vs1 vs2) 0x14 (fun a _ _ => a.abs)
    ∧ gives (.lxVneg core ety 0 vd vs1 vs2) 0x15 (fun a _ _ => a.neg)

/-- The functions of Table 2-6: the operand taken exactly to FP32, the function's FP32 result, rounded once to the element type
(R130); in Eskor-exact numerics the model's free function of that mode, operand and result flushed. At the table's special operands
the result is the table's own. -/
def Obligations.VectorFunctions : Prop :=
  (∀ (s : State) (core : CoreId) (ety : BitVec 3) (vd vs1 vs2 : BitVec 5), ety.toNat < 3 →
    let k := core.toNat
    let w := etyBits ety.toNat
    let f := etyFmt ety.toNat
    let ek := coreEskor s (coreAt s k)
    let exact (op : Nat) (x : FVal) : Nat :=
      let r := f.rnd (f32 (if x.isNan then nanF32 else flush32 (Config.eskorVecFn op (rne32 x))))
      f.rnd (flushFmt f (f.decode r))
    let gives (i : Instr) (op : Nat) : Prop :=
      VecIssues s k (vecWord ety.toNat 0 op vd.toNat vs1.toNat vs2.toNat) w →
      exec i s = .next (lanesWritten s k vd w (fun c j =>
        let x := f.decode (elem (getV c vs1) w j)
        if ek then exact op (flushFmt f x) else f.rnd (f32 (vecFn op (rne32 x)))))
    gives (.lxVrecip core ety vd vs1 vs2) 0x09 ∧ gives (.lxVrsqrt core ety vd vs1 vs2) 0x0A ∧ gives (.lxVexp core ety vd vs1 vs2) 0x0B
    ∧ gives (.lxVexp2 core ety vd vs1 vs2) 0x0C ∧ gives (.lxVlog core ety vd vs1 vs2) 0x0D ∧ gives (.lxVlog2 core ety vd vs1 vs2) 0x0E
    ∧ gives (.lxVtanh core ety vd vs1 vs2) 0x0F ∧ gives (.lxVsigmoid core ety vd vs1 vs2) 0x10
    ∧ gives (.lxVerf core ety vd vs1 vs2) 0x11 ∧ gives (.lxVsin core ety vd vs1 vs2) 0x12 ∧ gives (.lxVcos core ety vd vs1 vs2) 0x13)
  ∧ (∀ op x, (f32 x).isNan = true → vecFn op x = nanF32)
  ∧ vecFn 0x09 0x00000000 = 0x7F800000 ∧ vecFn 0x09 0x80000000 = 0xFF800000 ∧ vecFn 0x0A 0xBF800000 = nanF32
  ∧ vecFn 0x0B 0xFF800000 = 0 ∧ vecFn 0x0D 0 = 0xFF800000 ∧ vecFn 0x0E 0xBF800000 = nanF32 ∧ vecFn 0x0F 0x7F800000 = 0x3F800000
  ∧ vecFn 0x10 0xFF800000 = 0 ∧ vecFn 0x11 0xFF800000 = 0xBF800000 ∧ vecFn 0x12 0x7F800000 = nanF32


/-- Reductions (R132): the tree's result in bits [31:0] of vd, for floating-point types the count of NaN and infinite inputs in
bits [63:32], every other bit of vd unchanged. The tree adds neighbours, carries an odd last element over, and gives 0 at VL = 0. -/
def Obligations.VectorReductions : Prop :=
  ∀ (s : State) (core : CoreId) (ety : BitVec 3) (md : BitVec 2) (vd vs1 vs2 : BitVec 5), ety.toNat < 6 →
    let k := core.toNat
    let w := etyBits ety.toNat
    let ek := coreEskor s (coreAt s k)
    let gives (i : Instr) (op : Nat) : Prop :=
      VecIssues s k (vecWord ety.toNat md.toNat op vd.toNat vs1.toNat vs2.toNat) w →
      exec i s = .next (coreStep s k (fun c =>
        let r := treeReduce (redNode ek op ety.toNat md.toNat) 9 ((elems (getV c vs1) w c.regs.vl).map (widen ek ety.toNat md.toNat))
        let n := ((elems (getV c vs1) w c.regs.vl).filter (fun x => !((etyFmt ety.toNat).decode x).isFinite)).length
        setV c vd (putElems (getV c vd) 32 (if ety.toNat < 3 then [r.toNat, n] else [r.toNat]))) (pcAfter s k 4))
    gives (.lxVredsum core ety md vd vs1 vs2) 0x16 ∧ gives (.lxVredmax core ety md vd vs1 vs2) 0x17
    ∧ gives (.lxVredmin core ety md vd vs1 vs2) 0x18
    ∧ (∀ (f : Word32 → Word32 → Word32), treeReduce f 9 [] = 0 ∧ (∀ x, treeReduce f 9 [x] = x)
        ∧ ∀ (l : List Word32), 2 ≤ l.length → l.length ≤ 256 →
            treeReduce f 9 l = treeReduce f 9
              ((List.range (l.length / 2)).map (fun j => f (l.getD (2 * j) 0) (l.getD (2 * j + 1) 0))
                ++ (if l.length % 2 = 1 then [l.getD (l.length - 1) 0] else [])))

/-- cntnf, cmp, merge, compress, expand, splat and move (R130, R135, R136). cntnf writes its count to x[rd]; cmp writes bit i for
element i below VL and zeros above; the others write elements of vd below VL; expand undoes compress on the active positions. -/
def Obligations.CountCompareAndSelect : Prop :=
  ∀ (s : State) (core : CoreId) (ety : BitVec 3) (md cr : BitVec 2) (rd rs1 vd vs1 vs2 : BitVec 5), ety.toNat < 6 →
    let k := core.toNat
    let w := etyBits ety.toNat
    let ek := coreEskor s (coreAt s k)
    let ready (m op d r1 r2 : Nat) : Prop := VecIssues s k (vecWord ety.toNat m op d r1 r2) w
    let goesOn (f : Core → Core) : Out := .next (coreStep s k f (pcAfter s k 4))
    let short := (coreAt s k).regs.vl ≤ 64
    (ety.toNat < 3 → ready 0 0x19 rd.toNat vs1.toNat vs2.toNat → exec (.lxVcntnf core ety rd vs1 vs2) s =
      goesOn (fun c => setX c rd (BitVec.ofNat 32
        ((elems (getV c vs1) w c.regs.vl).filter (fun x => !((etyFmt ety.toNat).decode x).isFinite)).length)))
    ∧ (ready md.toNat 0x1A cr.toNat vs1.toNat vs2.toNat → short → exec (.lxVcmp core ety md cr vs1 vs2) s =
      goesOn (fun c => setC c cr (BitVec.ofNat 64 (bitsNat ((List.range c.regs.vl).map (fun i =>
        cmpElem ek ety.toNat md.toNat (elem (getV c vs1) w i) (elem (getV c vs2) w i)))))))
    ∧ (ready cr.toNat 0x1B vd.toNat vs1.toNat vs2.toNat → short → exec (.lxVmerge core ety cr vd vs1 vs2) s =
      .next (lanesWritten s k vd w (fun c i =>
        if (getC c cr).getLsbD i then elem (getV c vs1) w i else elem (getV c vs2) w i)))
    ∧ (ready cr.toNat 0x1C vd.toNat vs1.toNat 0 → short → exec (.lxVcompress core ety cr vd vs1) s =
      goesOn (fun c => setV c vd (putElems (getV c vd) w (compressElems (getC c cr) (elems (getV c vs1) w c.regs.vl)))))
    ∧ (ready cr.toNat 0x1D vd.toNat vs1.toNat 0 → short → exec (.lxVexpand core ety cr vd vs1) s =
      goesOn (fun c => setV c vd (putElems (getV c vd) w (expandElems (getC c cr) c.regs.vl (elems (getV c vs1) w c.regs.vl)))))
    ∧ (ready 0 0x1E vd.toNat rs1.toNat vs2.toNat → exec (.lxVsplat core ety vd rs1 vs2) s =
      .next (lanesWritten s k vd w (fun c _ => (getX c rs1).toNat % 2 ^ w)))
    ∧ (ready 0 0x1F vd.toNat vs1.toNat vs2.toNat → exec (.lxVmove core ety vd vs1 vs2) s =
      .next (lanesWritten s k vd w (fun c i => elem (getV c vs1) w i)))
    ∧ (∀ (c : Word64) (xs : List Nat), xs.length ≤ 64 →
        (compressElems c xs).length = xs.length
        ∧ expandElems c xs.length (compressElems c xs) = xs.zipIdx.map (fun e => if c.getLsbD e.2 then e.1 else 0))

/-- lx.vcvt, lx.vld, lx.vst, lx.vsetvl, lx.vmvx and lx.vins (R128, R133, R134). A load or store that an interlock holds leaves the
state as it is; a misaligned or outside element stops the program with its cause at the first such element. -/
def Obligations.VectorMemoryAndControl : Prop :=
  ∀ (s : State) (core : CoreId) (md : BitVec 2) (rd vd rs1 rs2 : BitVec 5),
    let k := core.toNat
    let w := mdBits md.toNat
    let n := w / 8
    let addrs := (List.range (coreAt s k).regs.vl).map (fun i =>
      (getX (coreAt s k) rs1 + BitVec.ofNat 32 i * getX (coreAt s k) rs2).toNat)
    let held (h : Bool) (t : State) : Out := .next (if h then s else t)
    (VecIssues s k (vmWord md.toNat 0 vd.toNat rs1.toNat rs2.toNat) w →
      (firstFault (fun a => loadFault (coreAt s k) a n) addrs = none → exec (.lxVld core md vd rs1 rs2) s =
        held (loadHeld s k (addrs.map (fun a => (a, n))))
          (coreStep s k (fun c => setV c vd (putElems (getV c vd) w (addrs.map (fun a => windowRead s k a n)))) (pcAfter s k 4)))
      ∧ ∀ cause a, firstFault (fun a => loadFault (coreAt s k) a n) addrs = some (cause, a) →
          exec (.lxVld core md vd rs1 rs2) s = .next (stopCore s k cause (vmWord md.toNat 0 vd.toNat rs1.toNat rs2.toNat) a))
    ∧ (VecIssues s k (vmWord md.toNat 1 vd.toNat rs1.toNat rs2.toNat) w →
        (firstFault (fun a => storeFault (coreAt s k) a n) addrs = none → exec (.lxVst core md vd rs1 rs2) s =
          held (storeHeld s k (addrs.map (fun a => (a, n))))
            (coreStep (addrs.zipIdx.foldl (fun t e => windowWrite t k e.1 n (elem (getV (coreAt s k) vd) w e.2)) s) k id (pcAfter s k 4)))
        ∧ ∀ cause a, firstFault (fun a => storeFault (coreAt s k) a n) addrs = some (cause, a) →
            exec (.lxVst core md vd rs1 rs2) s = .next (stopCore s k cause (vmWord md.toNat 1 vd.toNat rs1.toNat rs2.toNat) a))
    ∧ (Issues s k (vmWord md.toNat 2 rd.toNat rs1.toNat 0) 4 → lxListed (vmWord md.toNat 2 rd.toNat rs1.toNat 0).toNat = true →
        exec (.lxVsetvl core md rd rs1) s = .next (coreStep s k (fun c =>
          let m := min (getX c rs1).toNat (if md = 0 then 256 else if md = 1 then 128 else 64)
          setX (setVl c m) rd (BitVec.ofNat 32 m)) (pcAfter s k 4)))
    ∧ (Issues s k (vmWord md.toNat 3 rd.toNat rs1.toNat rs2.toNat) 4 →
        lxListed (vmWord md.toNat 3 rd.toNat rs1.toNat rs2.toNat).toNat = true →
        exec (.lxVmvx core md rd rs1 rs2) s = .next (coreStep s k (fun c =>
          setX c rd (if (getX c rs2).toNat < 2048 / w then BitVec.ofNat 32 (elem (getV c rs1) w (getX c rs2).toNat) else 0)) (pcAfter s k 4)))
    ∧ (Issues s k (vmWord md.toNat 4 vd.toNat rs1.toNat rs2.toNat) 4 →
        lxListed (vmWord md.toNat 4 vd.toNat rs1.toNat rs2.toNat).toNat = true →
        exec (.lxVins core md vd rs1 rs2) s = .next (coreStep s k (fun c =>
          if (getX c rs2).toNat < 2048 / w then
            setV c vd (BitVec.ofNat 2048 (packedSet (getV c vd).toNat w (getX c rs2).toNat (getX c rs1).toNat))
          else c) (pcAfter s k 4)))
    ∧ ∀ (sr nan : Bool) (dst src : BitVec 4),
        let word := c1Word (64 * bitOf sr + 32 * bitOf nan + dst.toNat) src.toNat rs1.toNat 6 vd.toNat
        Issues s k word 4 → lxListed word.toNat = true →
          (cvtOk s dst.toNat src.toNat vd.toNat rs1.toNat sr (coreAt s k) = true → exec (.lxVcvt core sr nan dst src vd rs1) s =
            .next (coreStep s k (cvtCore s sr nan dst.toNat src.toNat vd rs1) (pcAfter s k 4)))
          ∧ (cvtOk s dst.toNat src.toNat vd.toNat rs1.toNat sr (coreAt s k) = false → exec (.lxVcvt core sr nan dst src vd rs1) s =
              .next (stopCore s k 3 word 0))

/-- A conversion between plain formats rounds each of the VL elements once into the destination format, packed under R48, and
leaves every other register as it was (R133); with SR, element p takes its 16 random bits from block lxrngidx + p / 8, slot p mod 8. -/
def Obligations.PlainConversions : Prop :=
  ∀ (s : State) (sr nan : Bool) (dst src : Nat) (vd vs1 : BitVec 5) (c : Core),
    codeIsMx dst = false → codeIsMx src = false → coreEskor s c = false → 
      let t := cvtCore s sr nan dst src vd vs1 c
      let rnd (p : Nat) : Round := if sr then .sr (natField (rngBlock (coreKey s c) c.regs.rngStream.toNat c.regs.rngOp.toNat
        (c.regs.rngIdx.toNat + p / 8)) (16 * (p % 8)) 16) else .rne
      getV t vd = putElems (getV c vd) (codeBits dst) ((List.range c.regs.vl).map (fun p =>
          (codeKind dst).encode (rnd p) (if nan then .nan else .sat)
            ((codeKind src).decode (packedElem (getV c vs1).toNat (codeKind src).bits p))))
      ∧ (∀ r, r ≠ vd → getV t r = getV c r) ∧ t.regs.x = c.regs.x ∧ t.regs.c = c.regs.c ∧ t.regs.vl = c.regs.vl

/-- The condition operations of Table 4-10 (R137): each writes one condition register or x[rd]; VL above 64 stops the program
with cause 3 (R135). Their words are listed exactly where bits [4:2] of the condition fields are zero. -/
def Obligations.ConditionOperations : Prop :=
  ∀ (s : State) (core : CoreId) (cd cs1 cs2 : BitVec 2) (rd rs1 : BitVec 5),
    let k := core.toNat
    let gives (i : Instr) (f7 d r1 r2 : Nat) (f : Core → Core) : Prop :=
      Issues s k (c2Word f7 r2 r1 2 d) 4 → lxListed (c2Word f7 r2 r1 2 d).toNat = true →
        ((coreAt s k).regs.vl ≤ 64 → exec i s = .next (coreStep s k f (pcAfter s k 4)))
        ∧ (64 < (coreAt s k).regs.vl → exec i s = .next (stopCore s k 3 (c2Word f7 r2 r1 2 d) 0))
    gives (.lxCand core cd cs1 cs2) 0 cd.toNat cs1.toNat cs2.toNat (fun c => setC c cd (getC c cs1 &&& getC c cs2))
    ∧ gives (.lxCor core cd cs1 cs2) 1 cd.toNat cs1.toNat cs2.toNat (fun c => setC c cd (getC c cs1 ||| getC c cs2))
    ∧ gives (.lxCxor core cd cs1 cs2) 2 cd.toNat cs1.toNat cs2.toNat (fun c => setC c cd (getC c cs1 ^^^ getC c cs2))
    ∧ gives (.lxCandn core cd cs1 cs2) 3 cd.toNat cs1.toNat cs2.toNat (fun c => setC c cd (getC c cs1 &&& ~~~getC c cs2))
    ∧ gives (.lxCnot core cd cs1) 4 cd.toNat cs1.toNat 0 (fun c => setC c cd (~~~getC c cs1))
    ∧ gives (.lxCpop core rd cs1) 5 rd.toNat cs1.toNat 0 (fun c =>
        setX c rd (BitVec.ofNat 32 ((List.range 64).filter (fun i => (getC c cs1).getLsbD i)).length))
    ∧ gives (.lxCrdLo core rd cs1) 6 rd.toNat cs1.toNat 0 (fun c => setX c rd ((getC c cs1).extractLsb' 0 32))
    ∧ gives (.lxCrdHi core rd cs1) 7 rd.toNat cs1.toNat 0 (fun c => setX c rd ((getC c cs1).extractLsb' 32 32))
    ∧ gives (.lxCwrLo core cd rs1) 8 cd.toNat rs1.toNat 0 (fun c => setC c cd ((getC c cd).extractLsb' 32 32 ++ getX c rs1))
    ∧ gives (.lxCwrHi core cd rs1) 9 cd.toNat rs1.toNat 0 (fun c => setC c cd (getX c rs1 ++ (getC c cd).extractLsb' 0 32))
    ∧ gives (.lxCfirst core rd cs1) 0x0A rd.toNat cs1.toNat 0 (fun c =>
        setX c rd (BitVec.ofNat 32 (((List.range 64).find? (fun i => (getC c cs1).getLsbD i)).getD 64)))
    ∧ ∀ (f7 : BitVec 7) (d r1 r2 : BitVec 5), lxListed (c2Word f7.toNat r2.toNat r1.toNat 2 d.toNat).toNat = true ↔
        (f7 ≤ 3 ∧ d < 4 ∧ r1 < 4 ∧ r2 < 4) ∨ (f7 = 4 ∧ d < 4 ∧ r1 < 4 ∧ r2 = 0) ∨ (5 ≤ f7 ∧ f7 ≤ 7 ∧ r1 < 4 ∧ r2 = 0)
          ∨ (f7 = 0x0A ∧ r1 < 4 ∧ r2 = 0) ∨ (8 ≤ f7 ∧ f7 ≤ 9 ∧ d < 4 ∧ r2 = 0)

/-- lx.rngw gives word x[rs1] of the AES block at lxrngidx and leaves lxrngidx; lx.vrng fills vd with 16 blocks and adds 16 to it
(R140). -/
def Obligations.RandomNumbers : Prop :=
  ∀ (s : State) (core : CoreId) (rd rs1 vd : BitVec 5),
    let k := core.toNat
    let block (c : Core) (i : Nat) : Nat :=
      rngBlock (coreKey s c) c.regs.rngStream.toNat c.regs.rngOp.toNat (c.regs.rngIdx.toNat + i)
    (Issues s k (c2Word 0 0 rs1.toNat 3 rd.toNat) 4 → lxListed (c2Word 0 0 rs1.toNat 3 rd.toNat).toNat = true →
      ((getX (coreAt s k) rs1).toNat < 4 → exec (.lxRngw core rd rs1) s = .next (coreStep s k (fun c =>
        setX { c with rngBlocks := c.rngBlocks + 1 } rd (BitVec.ofNat 32 (natField (block c 0) (32 * (getX c rs1).toNat) 32)))
          (pcAfter s k 4)))
      ∧ (4 ≤ (getX (coreAt s k) rs1).toNat →
          exec (.lxRngw core rd rs1) s = .next (stopCore s k 3 (c2Word 0 0 rs1.toNat 3 rd.toNat) 0)))
    ∧ (Issues s k (c2Word 1 0 0 3 vd.toNat) 4 → lxListed (c2Word 1 0 0 3 vd.toNat).toNat = true →
        exec (.lxVrng core vd) s = .next (coreStep s k (fun c =>
          let t := setV c vd (BitVec.ofNat 2048 (packElems 128 ((List.range 16).map (block c))))
          { t with rngBlocks := c.rngBlocks + 16, regs := { t.regs with rngIdx := c.regs.rngIdx + 16 } }) (pcAfter s k 4)))

/-! ### The engine, the WGB and data movement -/

/-- lx.mm (R123, R125, R126): with an aligned MOD in the share, a valid instruction whose operands lie in the share and that nothing
holds, the instruction joins the engine with the next ticket, which x[rd] receives; an invalid one stops the program with cause 2.
lx.ewait and lx.equiesce wait for tickets and for the empty engine, and no longer than that. -/
def Obligations.MatrixIssueAndWaits : Prop :=
  ∀ (s : State) (core : CoreId) (shape : BitVec 3) (t : Bool) (ws rd rs1 rs2 : BitVec 5),
    let k := core.toNat
    let c := coreAt s k
    let word := c0Word (bitOf t * 64 + ws.toNat * 2) rs2.toNat rs1.toNat shape.toNat rd.toNat
    let off := (getX c rs1).toNat
    let rows := (getX c rs2).toNat
    let e := mmInst s k shape.toNat t ws.toNat off (rows % 32768)
    let b := memBytes s.mem (coreAddr k off) 128
    let mod := Issues s k word 4 ∧ shape.toNat ≤ 5 ∧ off % 64 = 0 ∧ off + 128 ≤ 0x30000 ∧ inShare c off 128 = true
      ∧ loadHeld s k [(off, 128)] = false
    let valid := rows < 32768 ∧ engValid (coreEskor s c) shape.toNat ws.toNat rows b = true
    (mod → valid →
      (∀ r ∈ e.ranges, r.1 + r.2 ≤ 0x30000 ∧ inShare c r.1 r.2 = true ∧ (dmaDstRanges s k).any (overlap r) = false) →
      (∀ r ∈ e.writeRanges, (dmaSrcRanges s k).any (overlap r) = false) → unstreamed c < 2 →
        exec (.lxMm core shape t ws rd rs1 rs2) s = .next (coreStep s k (fun x =>
          setX { x with engine := { workArrives (arrNow s (coreDie k)) x.engine with
            insts := x.engine.insts ++ [e], lastTicket := x.engine.lastTicket + 1 } } rd (x.engine.lastTicket + 1)) (pcAfter s k 4)))
    ∧ (mod → ¬valid → exec (.lxMm core shape t ws rd rs1 rs2) s = .next (stopCore s k 2 word 0))
    ∧ (Issues s k (c0Word 0 0 rs1.toNat 7 0) 4 → exec (.lxEwait core rs1) s = .next (coreStep s k (fun x =>
        if x.engine.insts.any (fun i => decide ((getX x rs1 - i.ticket).toNat < 2 ^ 31)) then { x with wait := .tickets (getX x rs1) }
        else { x with wait := .none }) (pcAfter s k 4)))
    ∧ (Issues s k (c0Word 1 0 0 7 0) 4 → exec (.lxEquiesce core) s = .next (coreStep s k (fun x =>
        { x with wait := if x.engine.insts.isEmpty then .none else .engineEmpty }) (pcAfter s k 4)))

/-- The four WGB instructions record their operation and change nothing else (R105, R127): tiles the context owns, source blocks
and descriptors aligned and in the share, descriptors valid, at most sixteen operations recorded. -/
def Obligations.WgbInstructionsRecord : Prop :=
  ∀ (s : State) (core : CoreId) (rs1 rs2 : BitVec 5),
    let k := core.toNat
    let c := coreAt s k
    let a := (getX c rs1).toNat
    let b := (getX c rs2).toNat
    let tile (t : Nat) : Prop := t < 4 ∧ natBit (ownedTiles s c) t = true
    let block (o : Nat) : Prop := o % 64 = 0 ∧ o + 0x4000 ≤ 0x30000 ∧ inShare c o 0x4000 = true ∧ loadHeld s k [(o, 0x4000)] = false
    let bytes (o : Nat) : List Byte := memBytes s.mem (coreAddr k o) 32
    let desc (o : Nat) (flush : Bool) : Prop := o % 32 = 0 ∧ o + 32 ≤ 0x30000 ∧ inShare c o 32 = true ∧ loadHeld s k [(o, 32)] = false
      ∧ wgbDescOk s c.job.partition flush (bytes o) = true
    let gives (i : Instr) (word : Word32) (op : WgbOp) : Prop := Issues s k word 4 → c.wgbOps.length < 16 →
      exec i s = .next (coreStep s k (fun x => { x with wgbOps := x.wgbOps ++ [op] }) (pcAfter s k 4))
    (tile a → gives (.lxWgbZero core rs1) (c0Word 0 0 rs1.toNat 6 0) (.zero a))
    ∧ (tile b → block a → gives (.lxWgbFold core rs1 rs2) (c0Word 1 rs2.toNat rs1.toNat 6 0) (.fold a b))
    ∧ (block a → desc b false → gives (.lxWgbSpill core rs1 rs2) (c0Word 2 rs2.toNat rs1.toNat 6 0) (.spill a (wgbDescOfBytes (bytes b))))
    ∧ (tile a → desc b true → gives (.lxWgbFlush core rs1 rs2) (c0Word 3 rs2.toNat rs1.toNat 6 0) (.flush a (wgbDescOfBytes (bytes b))))

/-- lx.dma takes the next tag and joins the core's DMAs; lx.dwait and lx.dfence wait; lx.bar.c and lx.bar.d arrive; lx.end sets the
exit word (R119, R141, R143, R144). A misaligned descriptor stops the program with cause 7, one outside the share with cause 5. -/
def Obligations.DataMovementIssue : Prop :=
  ∀ (s : State) (core : CoreId) (rd rs1 : BitVec 5) (id : BitVec 3),
    let k := core.toNat
    let c := coreAt s k
    let a := (getX c rs1).toNat
    let word := c2Word 0 0 rs1.toNat 0 rd.toNat
    let b := memBytes s.mem (coreAddr k a) 64
    let d := dmaOfBytes (c.dmaTag + 1) word b
    let goesOn (f : Core → Core) : Out := .next (coreStep s k f (pcAfter s k 4))
    (Issues s k word 4 → a % 64 = 0 → inShare c a 64 = true → c.dmas.length < 16 → loadHeld s k [(a, 64)] = false →
      dmaValid b d = true → dmaHeld s k d = false → exec (.lxDma core rd rs1) s =
        goesOn (fun x => { setX x rd (c.dmaTag + 1) with dmaTag := c.dmaTag + 1, dmas := x.dmas ++ [d] }))
    ∧ (Issues s k word 4 → a % 64 ≠ 0 → exec (.lxDma core rd rs1) s = .next (stopCore s k 7 word a))
    ∧ (Issues s k word 4 → a % 64 = 0 → inShare c a 64 = false → exec (.lxDma core rd rs1) s = .next (stopCore s k 5 word a))
    ∧ (Issues s k (c2Word 1 0 rs1.toNat 0 0) 4 → exec (.lxDwait core rs1) s = goesOn (fun x =>
        { x with wait := if x.dmas.any (fun e => decide ((getX x rs1 - e.tag).toNat < 2 ^ 31)) then .dmaTag (getX x rs1) else .none }))
    ∧ (Issues s k (c2Word 2 0 0 0 0) 4 → exec (.lxDfence core) s =
        goesOn (fun x => { x with wait := if x.dmas.isEmpty then .none else .dmaAll }))
    ∧ (Issues s k (c2Word 0 id.toNat 0 1 0) 4 → exec (.lxBarC core id) s =
        goesOn (fun x => { x with wait := .barrier false id.toNat (arrNow s (coreDie k)) }))
    ∧ (Issues s k (c2Word 1 id.toNat 0 1 0) 4 → exec (.lxBarD core id) s =
        goesOn (fun x => { x with wait := .barrier true id.toNat (arrNow s (coreDie k)) }))
    ∧ (Issues s k (c2Word 2 0 rs1.toNat 1 0) 4 → exec (.lxEnd core rs1) s = goesOn (fun x => { x with wait := .ending (getX x rs1) }))

/-- A barrier releases every core that waits at it once each participant waits there or has ended (R144); a DMA that moves its data
completes in tag order (R143); a program that has ended makes its core idle with its exit word, and the command's work is over once
every core has ended, with the exit word of rank 0 as its result (R119). -/
def Obligations.BarrierDmaAndProgramEnd : Prop :=
  ∀ (s : State) (core : CoreId),
    let k := core.toNat
    let c := coreAt s k
    (∀ (die : Bool) (id : BitVec 3), atBarrier c die id.toNat = true →
      (∀ i ∈ participants s k die, atBarrier (coreAt s i) die id.toNat = true ∨ (coreAt s i).exitWord.isSome = true) →
      ∃ t, exec (.barrierRelease die core id) s = .next t
        ∧ (∀ i ∈ participants s k die, atBarrier (coreAt s i) die id.toNat = true → (coreAt t i).wait = .none)
        ∧ (∀ i, i ∉ participants s k die → coreAt t i = coreAt s i) ∧ t.mem = s.mem)
    ∧ (∀ (tag : Word32) (d : Dma) (u : State), c.dmas.find? (fun e => e.tag == tag) = some d → d.moved = false → c.run = .running →
        behindEarlier c d = false → moveDma s k d = .moved u →
        ∃ t, exec (.dmaComplete core tag) s = .next t ∧ t.mem = u.mem
          ∧ (coreAt t k).dmaBytesWr = bump (coreAt u k).dmaBytesWr (d.rows * d.rowBytes)
          ∧ (∀ e, (coreAt u k).dmas = [e] → e.tag = tag → (coreAt t k).dmas = [] ∧ (coreAt t k).dmaDone = tag))
    ∧ (∀ (exit : Word32), c.wait = .ending exit → c.run = .running → c.engine.insts = [] → c.dmas = [] →
        ∃ t, exec (.coreProgramEnded core) s = .next t
          ∧ (coreAt t k).run = .idle ∧ (coreAt t k).exitWord = some exit
          ∧ ∀ x, cmdAt s c.job.queue c.job.pos = some x → x.cores = [k] →
              ((cmdAt t c.job.queue c.job.pos).map (fun y => (y.phase, y.status, y.result))) = some (.finished, 0, exit.toNat))

/-- The engine's events (R77, R87, R88, R90, R97, R98): a tile becomes complete, a stream starts, a row is drained, an instruction
completes and moves the completed ticket. An idle engine with its columns on asks for a ramp-down; the die's arbiter grants it when no ramp-up waits and 16 ARR cycles have
passed since its last grant; when the ramp is over no column is on. A ramp-up that is granted ends with all eight on (R97, R98). -/
def Obligations.EngineEvents : Prop :=
  ∀ (s : State) (core : CoreId) (e : EngInst) (rest : List EngInst),
    let k := core.toNat
    let g := (coreAt s k).engine
    let leaves (i : Instr) (f : Engine → Engine) : Prop := exec i s = .next (modEngine s k f)
    (g.insts = e :: rest →
    (e.phase = .issued → leaves (.stationaryLoadComplete core)
      (fun x => { x with insts := { e with phase := .loaded, tile := loadTile s k e } :: rest }))
    ∧ (∀ wait feed : BitVec 32, e.phase = .loaded → g.colsOn = 8 → g.ramp = .steady →
        leaves (.engineStreamStart core wait feed) (fun x => { x with
          insts := { e with phase := .streaming } :: rest, ramp := .steady,
          loadWait := bump x.loadWait wait.toNat, freezeFeed := bump x.freezeFeed feed.toNat }))
    ∧ (∀ feed drain budget : BitVec 32, e.phase = .streaming → e.drained < e.rows → g.ramp = .steady →
        ∃ t, exec (.engineRowDrained core feed drain budget) s = .next t
          ∧ t.mem = (writeRow s k e e.drained).mem
          ∧ (coreAt t k).engine.insts = { e with drained := e.drained + 1 } :: rest
          ∧ (coreAt t k).engine.nonfinite = bump g.nonfinite (rowNonfinite s k e e.drained)
          ∧ (coreAt t k).engine.streamCycles = bump g.streamCycles (max e.ws (shapeStr e.shape / 64)))
    ∧ (e.phase = .streaming → e.rows ≤ e.drained →
        ∃ t, exec (.engineInstructionComplete core) s = .next t
          ∧ (coreAt t k).engine.insts = rest ∧ (coreAt t k).engine.doneTicket = e.ticket ∧ t.mem = s.mem))
    ∧ (g.colsOn = 8 → g.ramp = .steady → leaves (.rampDownRequest core) (fun x => { x with ramp := .wantDown }))
    ∧ (∀ t, g.ramp = .goingDown t none → leaves (.rampDownComplete core) (fun x => { x with ramp := .steady, colsOn := 0 }))
    ∧ (∀ t u, g.ramp = .goingDown t (some u) → leaves (.rampDownComplete core) (fun x => { x with ramp := .wantUp u, colsOn := 0 }))
    ∧ (∀ t u, g.ramp = .goingUp t u → leaves (.rampUpComplete core) (fun x =>
        { x with ramp := .steady, colsOn := 8, tampCycles := x.tampCycles + (arrNow s (coreDie k) - t) }))
    ∧ (∀ die : BitVec 3, s.arbLast.get die.toFin = none → coreDie k = die.toNat → s.cores = [(k, coreAt s k)] →
        (∀ t, g.ramp = .wantUp t → exec (.startArbiterGrant die) s =
          .next { modEngine s k (fun x => { x with ramp := .goingUp t (arrNow s die.toNat) }) with
            arbLast := s.arbLast.set die.toNat (some (arrNow s die.toNat)) die.isLt })
        ∧ (g.ramp = .wantDown → exec (.startArbiterGrant die) s =
          .next { modEngine s k (fun x => { x with ramp := .goingDown (arrNow s die.toNat) none }) with
            arbLast := s.arbLast.set die.toNat (some (arrNow s die.toNat)) die.isLt }))

/-- An instruction that only changes its core leaves memory, every other core and everything else as it was; x0 stays zero, and a
write of one x, v or condition register leaves the others (the frame of the register instructions of the sequencer and of the
vector unit). Elements written below VL are read back, and every other element of vd keeps what it had. -/
def Obligations.RegisterInstructionFrame : Prop :=
  ∀ (s : State) (k : Nat) (f : Core → Core) (pc : Word32),
    let t := coreStep s k f pc
    { t with cores := s.cores } = s ∧ (∀ i, i ≠ k → coreAt t i = coreAt s i)
    ∧ (coreAt t k).regs = { (f (coreAt s k)).regs with pc := pc }
    ∧ (∀ (c : Core) (r q : BitVec 5) (x : Word32) (v : BitVec 2048) (a b : BitVec 2) (y : Word64),
        getX (setX c 0 x) q = getX c q ∧ getX c 0 = 0 ∧ (r ≠ 0 → getX (setX c r x) r = x) ∧ (q ≠ r → getX (setX c r x) q = getX c q)
        ∧ getV (setX c r x) q = getV c q ∧ getC (setX c r x) a = getC c a
        ∧ getV (setV c r v) r = v ∧ (q ≠ r → getV (setV c r v) q = getV c q) ∧ getX (setV c r v) q = getX c q
        ∧ getC (setV c r v) a = getC c a
        ∧ getC (setC c a y) a = y ∧ (b ≠ a → getC (setC c a y) b = getC c b) ∧ getX (setC c a y) q = getX c q
        ∧ getV (setC c a y) q = getV c q)
    ∧ (∀ (v : BitVec 2048) (w i : Nat) (xs : List Nat), (w = 8 ∨ w = 16 ∨ w = 32) → w * xs.length ≤ 2048 → w * (i + 1) ≤ 2048 →
        elem (putElems v w xs) w i = (match xs[i]? with | some x => x % 2 ^ w | none => elem v w i))


/-! ### Coherence -/

/-- Coherence requests (R189, R196, R198, R202, R205): a request that its agent may send in the state of its line becomes a transaction of the
line's home node; where no unreserved entry is free it is answered with Retry and an entry is set aside; WbD and Evict mark the line and end
its hold. -/
def Obligations.RequestsReachTheirHome : Prop :=
  ∀ (s : State) (agent : BitVec 5) (addr : BitVec 56) (h : HomeNode),
    let a := agent.toNat
    let lid := lidOf addr.toNat
    let m := homeOf (lidAddr lid)
    let line := (cachedLine s a lid).map (·.state)
    s.homes[m]? = some h → lineNamed s addr.toNat = true → outstanding s a lid = false →
      let arrives (i : Instr) (t : CohTxn) : Prop :=
        (trackerUsed h < 488 → exec i s = .next (acceptTxn s m t))
        ∧ (488 ≤ trackerUsed h → (∀ r ∈ h.reservations, r.txn.agent ≠ a) → exec i s = .next (modHome s m (fun g => { g with
            retries := g.retries + 1, reservations := g.reservations ++ [{ txn := t, since := domCycles s (32 + m) }] })))
      (a ≤ 8 → line = none → arrives (.rds agent addr) (newTxn s a lid .rds) ∧ arrives (.rdu agent addr) (newTxn s a lid .rdu))
      ∧ (a ≤ 8 → line = some .shared ∨ line = some .owned → arrives (.clnu agent addr) (newTxn s a lid .clnu))
      ∧ (a ≤ 21 → arrives (.rdonce agent addr) (newTxn s a lid .rdonce)
        ∧ (∀ mask data, arrives (.wru agent addr mask data) { newTxn s a lid .wru with mask := mask, wdata := data })
        ∧ (∀ (op : BitVec 4) (o : AtomicOp) (wide : Bool) (operand cmp : BitVec 64), atomicOfCode op.toNat = some o →
            addr.toNat % (if wide then 8 else 4) = 0 → (o.isFp = true → wide = false) →
              let t (req : CohReq) : CohTxn := { newTxn s a lid req with
                op := o, operand := operand.toNat, cmp := cmp.toNat,
                offset := addr.toNat % 64, size := if wide then 8 else 4 }
              arrives (.atmh agent addr op wide operand cmp) (t .atmh) ∧ arrives (.atmf agent addr op wide operand cmp) (t .atmf)))
      ∧ (∀ l, a ≤ 8 → cachedLine s a lid = some l → l.writeBack = false →
          let gone (req : CohReq) : State :=
            releaseHold (arriveTxn (setLine s a lid { l with writeBack := true }) (newTxn s a lid req)) a lid
          (l.state = .modified ∨ l.state = .owned → exec (.wbd agent addr) s = .next (gone .wbd))
          ∧ (l.state = .shared ∨ l.state = .exclusive → exec (.evict agent addr) s = .next (gone .evict)))

/-- What a home node plans for a request on its line, by the state of the directory (Table 6-5): where the data comes from, who is
snooped, what the requester and the directory hold after. -/
def Obligations.TransactionsFollowTheTable : Prop :=
  ∀ (s : State) (t : CohTxn) (x : DirEntry),
    let mem := lineWord s t.lid
    let plan (req : CohReq) (e : Option DirEntry) : CohTxn := (planTxn s { t with req := req, snoops := [], data := none } e).1
    let others := (sharerList x.sharers).filter (· != t.agent)
    let snoops (k : SnoopKind) (l : List Nat) : List Snoop :=
      l.map (fun a => { agent := a, kind := k, stage := .sent, afterHold := false, back := none })
    -- no cache holds the line: memory gives the data, the requester owns it
    ((plan .rds none).data = some mem ∧ (plan .rds none).grant = some .exclusive ∧ (plan .rds none).afterState = some .owned
      ∧ (plan .rds none).afterOwner = t.agent ∧ (plan .rds none).snoops = [])
    ∧ ((plan .rdu none).data = some mem ∧ (plan .rdu none).grant = some .exclusive ∧ (plan .rdu none).afterOwner = t.agent)
    ∧ ((plan .rdonce none).data = some mem ∧ (plan .rdonce none).afterState = none)
    -- shared: RdS adds the requester, RdU takes the line from every sharer
    ∧ (x.state = .shared → others ≠ [] →
        (plan .rds (some x)).data = some mem ∧ (plan .rds (some x)).grant = some .shared
        ∧ (plan .rds (some x)).afterSharers = (x.sharers ||| agentBit t.agent)
        ∧ (plan .rdu (some x)).snoops = snoops .invalidate others ∧ (plan .rdu (some x)).afterSharers = 0)
    -- owned by another cache: it is snooped and forwards the data
    ∧ (x.state = .owned → x.owner ≠ t.agent →
        (plan .rds (some x)).snoops = snoops .share [x.owner] ∧ (plan .rds (some x)).data = none
        ∧ (plan .rds (some x)).grant = some .shared
        ∧ (plan .rdu (some x)).snoops = snoops .unique [x.owner] ++ snoops .invalidate others
        ∧ (plan .rdonce (some x)).snoops = snoops .once [x.owner] ∧ (plan .rdonce (some x)).afterState = some .owned)
    -- a write or an atomic recalls every holder, and the line ends in U
    ∧ (x.state = .owned → ∀ req, req = .wru ∨ req = .atmh ∨ req = .atmf →
        (plan req (some x)).snoops = snoops .unique [x.owner] ++ snoops .invalidate (sharerList x.sharers))
    -- a dirty owner writes back and leaves
    ∧ (∀ l, x.state = .owned → x.owner = t.agent → cachedLine s t.agent t.lid = some l →
        (planTxn s { t with req := .wbd } (some x)).2 = some l.data
        ∧ (plan .wbd (some x)).afterState = (if x.sharers = 0 then none else some .shared))

/-- The operations of Table 6-7 on the old word and the operand. -/
def Obligations.AtomicOperations : Prop :=
  ∀ (bits old x cmp : Nat), (bits = 32 ∨ bits = 64) → old < 2 ^ bits → x < 2 ^ bits → cmp < 2 ^ bits →
    atomicResult .add bits old x cmp = (old + x) % 2 ^ bits
    ∧ atomicResult .swap bits old x cmp = x ∧ atomicResult .cas bits old x cmp = (if old = cmp then x else old)
    ∧ atomicResult .and bits old x cmp = (old &&& x) ∧ atomicResult .or bits old x cmp = (old ||| x)
    ∧ atomicResult .xor bits old x cmp = (old ^^^ x)
    ∧ atomicResult .minU bits old x cmp = min old x ∧ atomicResult .maxU bits old x cmp = max old x
    ∧ natToInt bits (atomicResult .minS bits old x cmp) = min (natToInt bits old) (natToInt bits x)
    ∧ natToInt bits (atomicResult .maxS bits old x cmp) = max (natToInt bits old) (natToInt bits x)

/-- Snoops at a cache agent (R197, R199, R201, R203). A line that is not held answers at once: SnpS leaves it in S, or in O where it
was dirty; SnpU and SnpInv take it away; SnpOnce leaves it. A held line makes the others wait; a domain that does not run is woken
first. A hold ends after 64 cycles. -/
def Obligations.SnoopsAreAnswered : Prop :=
  ∀ (s : State) (agent : BitVec 5) (addr : BitVec 56) (t : CohTxn) (x : Snoop) (l : CacheLine),
    let a := agent.toNat
    let lid := lidOf addr.toNat
    let due (k : SnoopKind) : Prop := snoopAt s a lid (fun y => y.kind == k && y.stage == .sent) = some (t, x) ∧ x.kind = k
      ∧ x.agent = a ∧ t.lid = lid
    let runs := domainRuns s (holdDomain a) = true
    let after (i : Instr) (p : State → Prop) : Prop := ∃ u, exec i s = .next u ∧ u.mem = s.mem ∧ p u
    cachedLine s a lid = some l →
      (due .share → runs → l.held = false → l.writeBack = false → after (.snps agent addr) (fun u =>
        cachedLine u a lid = some { l with state := if l.state.dirty then .owned else .shared, held := false }))
      ∧ (due .unique → runs → l.held = false → after (.snpu agent addr) (fun u => cachedLine u a lid = none))
      ∧ (due .invalidate → runs → l.held = false → after (.snpinv agent addr) (fun u => cachedLine u a lid = none))
      ∧ (due .once → runs → after (.snponce agent addr) (fun u => u.caches = s.caches))
      ∧ (due .share → runs → l.held = true → after (.snps agent addr) (fun u => u.caches = s.caches))
      ∧ (due .unique → runs → l.held = true → after (.snpu agent addr) (fun u => u.caches = s.caches))
      ∧ (due .invalidate → runs → l.held = true → after (.snpinv agent addr) (fun u => u.caches = s.caches))
      ∧ (due .share → domainRuns s (holdDomain a) = false → exec (.snps agent addr) s = .next (wakeDomain s (holdDomain a)))
      ∧ (l.held = true → 64 ≤ (domCycles s (holdDomain a) - l.since).toNat →
          snoopAt (setLine s a lid { l with held := false }) a lid (fun y => y.stage == .waiting) = none →
          exec (.holdEnd agent addr) s = .next (setLine s a lid { l with held := false }))

/-- How transactions go on and end (R196, R197, R199, R201, R202): a snoop response writes dirty data back and is taken off the
transaction; Data installs the line, held in E and M; Comp gives the line its new state or frees its buffer; CompAck ends the
transaction and writes the directory entry; Retry resends with a credit; a reservation lapses after 4,096 cycles. -/
def Obligations.TransactionsEnd : Prop :=
  ∀ (s : State) (agent : BitVec 5) (addr : BitVec 56) (t : CohTxn) (h : HomeNode),
    let a := agent.toNat
    let lid := lidOf addr.toNat
    let m := homeOf (lidAddr lid)
    let now := domCycles s (holdDomain a)
    s.homes[m]? = some h →
      (∀ x, snoopAt s a lid (fun y => y.stage == .answered) = some (t, x) →
        let u := { t with snoops := t.snoops.filter (fun y => y.agent != a) }
        let s1 := match x.back with
          | some d => putLine s lid d
          | none => s
        let s2 := modHome (setTxn s1 m u) m (fun g => { g with snoopHeld := if x.afterHold then g.snoopHeld + 1 else g.snoopHeld })
        exec (.snpresp agent addr) s = .next (if u.snoops.isEmpty then settleHome (finishSnoops s2 m u) m else s2))
      ∧ (txnOf s a lid = some t → t.acking = false →
          (∀ d g, t.data = some d → t.grant = some g → t.req = .rds ∨ t.req = .rdu ∨ t.req = .clnu →
            exec (.data agent addr) s = .next (setTxn (setLine s a lid
              { state := g, data := d, held := decide (g = .exclusive ∨ g = .modified), since := now, writeBack := false }) m
                { t with acking := true }))
          ∧ (∀ d, t.data = some d → t.req = .rdonce ∨ t.req = .atmh ∨ t.req = .atmf →
              exec (.data agent addr) s = .next (setTxn s m { t with acking := true }))
          ∧ (t.ready = true → t.data = none →
              (∀ l, t.req = .clnu → cachedLine s a lid = some l → exec (.comp agent addr) s =
                .next (setTxn (setLine s a lid { l with state := t.grant.getD .exclusive, held := true, since := now }) m { t with acking := true }))
              ∧ (∀ l, t.req = .wbd ∨ t.req = .evict → cachedLine s a lid = some l → exec (.comp agent addr) s =
                .next (setTxn (dropLine s a lid) m { t with acking := true }))
              ∧ (t.req = .wru → exec (.comp agent addr) s = .next (setTxn s m { t with acking := true }))))
      ∧ (txnOf s a lid = some t → t.acking = true → t.snoops = [] → h.waiting = [] → t.req = .wru ∨ t.req = .wbd ∨ t.req = .evict →
          ∃ u g, exec (.compack agent addr) s = .next u ∧ u.homes[m]? = some g
            ∧ g.txns = h.txns.filter (fun x => !(x.agent == a && x.lid == lid))
            ∧ (t.afterState = none → g.dir = mapErase h.dir lid)
            ∧ (∀ st, t.afterState = some st → (mapGet g.dir lid).map (fun e => (e.state, e.sharers, e.busy)) = some (st, t.afterSharers, false)))
      ∧ (∀ r, h.reservations.find? (fun y => y.txn.agent == a && y.txn.lid == lid) = some r →
          exec (.retry agent addr) s = .next (acceptTxn (modHome s m (fun g => { g with
            reservations := g.reservations.filter (fun y => y.txn.agent != a) })) m { r.txn with credit := true }))
      ∧ (∀ (home : BitVec 2) r, home.toNat = m → h.reservations.find? (fun y => y.txn.agent == a) = some r →
          4096 ≤ (domCycles s (32 + m) - r.since).toNat →
          exec (.reservationLapse home agent) s = .next (arriveTxn (modHome s m (fun g => { g with
            reservations := g.reservations.filter (fun y => y.txn.agent != a), resvLapsed := g.resvLapsed + 1 })) r.txn))

/-! ### The host tier -/

/-- Host-tier reads (R178, R179, Table 5-9): data that arrives is what the host holds there from then on, and no hold waits for the
read; a completion timeout or an error makes the read failed and its request held; a failed read is issued again; a read
outstanding for longer than TIER_LATE_AON is late and its request held. A hold longer than TIER_LIMIT_AON is notified once, in the telemetry ring of PF0 where one is set (R179, R298). In Eskor
compatibility mode a hold longer than TIER_DEADLINE_AON ends its command, and no hold of the command remains (R181). -/
def Obligations.HostReadsAndHolds : Prop :=
  ∀ (s : State) (req : Nat) (r : HostRead), mapGet s.hostReads req = some r →
    let held (t : State) (c : StallCause) : Prop :=
      ∃ e ∈ t.holds, e.2.partition = r.partition ∧ e.2.cause = c ∧ e.2.cmd = r.cmd ∧ e.2.addr = r.addr
    ((∀ q n, r.purpose ≠ .descriptor q n) → r.done = false → r.failed = false → ∀ bytes : List Byte, bytes.length = r.bytes →
      ∃ t, exec (.hostTierReadComplete req 0 bytes) s = .next t ∧ mapGet t.hostReads req = some { r with done := true }
        ∧ hostBytes t r.partition r.bus r.bytes = bytes ∧ t.mem = s.mem ∧ ∀ e ∈ t.holds, e.2.read ≠ some req)
    ∧ (r.purpose = .request → r.done = false → r.failed = false → eskorMode s r.partition = false ∨ r.cmd = none →
        ∀ (result : BitVec 3) (bytes : List Byte), 1 ≤ result.toNat → result.toNat ≤ 4 →
          ∃ t, exec (.hostTierReadComplete req result bytes) s = .next t ∧ mapGet t.hostReads req = some { r with failed := true }
            ∧ t.mem = s.mem ∧ t.hostMem = s.hostMem ∧ held t (if result = 1 then .hostTimeout else .hostError))
    ∧ (r.failed = true → linkUp s = true → exec (.hostReadReissue req) s =
        .next { s with hostReads := mapSet s.hostReads req { r with failed := false, late := false, since := aonNow s } })
    ∧ (∀ x, partAt s r.partition = some x → r.late = false → r.done = false → r.failed = false → x.tier.late < aonSince s r.since →
        ∃ t, exec (.hostLateThreshold req) s = .next t ∧ mapGet t.hostReads req = some { r with late := true }
          ∧ t.mem = s.mem ∧ held t .hostLate)
    ∧ ∀ (hold : Nat) (h : Hold) (x : Partition), mapGet s.holds hold = some h → partAt s h.partition = some x →
        (h.notified = false → x.tier.limit < aonSince s h.since →
          ∃ t, exec (.tierStallNotify hold) s = .next t ∧ mapGet t.holds hold = some { h with notified := true }
            ∧ (∀ r, s.telemetry = some r → ∃ r1, t.telemetry = some r1 ∧ r1.base = r.base ∧ r1.seq ≠ r.seq)
            ∧ (s.telemetry = none → h.cmd = none → t = { s with holds := t.holds }))
        ∧ (h.notified = true → exec (.tierStallNotify hold) s = .next s)
        ∧ (∀ c y, x.tier.eskor = true → h.cmd = some c → cmdAt s c.queue c.pos = some y → x.tier.deadline < aonSince s h.since →
            ∃ t, exec (.eskorDeadlineExpire hold) s = .next t ∧ cmdAt t c.queue c.pos = none ∧ ∀ e ∈ t.holds, e.2.cmd ≠ some c)

/-- TIER_REQ asks for each page of the range that lies in its object, in order; dir 0 and 3 only count (R186). A page of T2 with
a suitable free frame and room in the quota starts its promotion: it is PROMOTING into that frame, its gen unchanged, the frame is
no longer free, and step 3 of Table 5-7 is next; a demand count at its threshold does the same (R172). A page of T1 starts its
demotion. With the quota full nothing starts, and the request is counted (R174). A failed promotion that no access waits for gives
its entry back (R175). -/
def Obligations.MigrationsStart : Prop :=
  ∀ (s : State) (p : BitVec 4) (object : BitVec 10) (first : BitVec 28) (count : BitVec 16) (x : Partition) (o : TieredObject),
    let pn := p.toNat
    let obj := object.toNat
    let pg := first.toNat
    let pages := (List.range (min count.toNat (o.pages - pg))).map (fun i => pg + i)
    s.memOk = true → partAt s pn = some x → mapGet x.objects obj = some o →
      exec (.tierReqPromote p object first count) s = .next (pages.foldl (pageRequest pn obj .promote) s)
      ∧ exec (.tierReqDemote p object first count) s = .next (pages.foldl (pageRequest pn obj .demote) s)
      ∧ (∀ dir : BitVec 2, dir = 0 ∨ dir = 3 → exec (.tierReqDropped p dir object first count) s = .next (modPart s pn (fun y =>
          { y with tier := { y.tier with reqDropped := bump y.tier.reqDropped (min count.toNat (o.pages - pg)) } })))
      ∧ (∀ f g, o.closing = false → migAt s pn obj pg = none → mapEntry s o pg = some (f, .t2, g) → x.migs.length < x.migQuota →
          ∀ frame, frame < 2 ^ 25 → o.free.find? (frameSuits o pg) = some frame →
            let starts (t : State) (src : MigSource) : Prop := mapEntry t o pg = some (frame, .promoting, g) ∧
              (migAt t pn obj pg).map (fun m => (m.dir, m.source, m.step, m.frame)) = some (.promote, src, 3, frame)
              ∧ (tierObject t pn obj).map (·.free) = some (o.free.filter (· != frame))
            starts (pageRequest pn obj .promote s pg) .explicit
            ∧ (∀ n, o.threshold ≠ 0 → mapGet o.counts pg = some n → o.threshold ≤ n →
                ∃ t, exec (.promotionStart p object first 0) s = .next t ∧ starts t .demand))
      ∧ (∀ f g, o.closing = false → migAt s pn obj pg = none → mapEntry s o pg = some (f, .t1, g) → o.pinned.contains pg = false →
          f < 2 ^ 25 → x.migs.length < x.migQuota →
            mapEntry (pageRequest pn obj .demote s pg) o pg = some (f, .demoting, g)
            ∧ (migAt (pageRequest pn obj .demote s pg) pn obj pg).map (fun m => (m.dir, m.step, m.frame)) = some (.demote, 3, f))
      ∧ (∀ f g, o.closing = false → migAt s pn obj pg = none → mapEntry s o pg = some (f, .t2, g) → x.migQuota ≤ x.migs.length →
          pageRequest pn obj .promote s pg =
            modPart s pn (fun y => { y with tier := { y.tier with reqDropped := bump y.tier.reqDropped 1 } }))
      ∧ (∀ m, migAt s pn obj pg = some m → m.retryWait = true → m.dir = .promote → pageWaited s pn obj pg = false →
          x.migQueue = [] → ∃ t, exec (.migrationRetryTimer p object first) s = .next t ∧ migAt t pn obj pg = none ∧ t.mem = s.mem)

/-- Promotions and demotions step by step (R173, Tables 5-7 and 5-8). After the recall a promotion reads its page from the host; with
the data the frame holds the page, the entry says T1 with the next gen, and the in-flight entry is free. A demotion writes the frame
to the host, reads back, and then its entry says T2 with the next gen and its frame is free. -/
def Obligations.MigrationsMovePages : Prop :=
  ∀ (s : State) (p : BitVec 4) (object : BitVec 10) (page : BitVec 28) (x : Partition) (o : TieredObject) (m : Migration) (f g : Nat)
    (st : PageState),
    let pn := p.toNat
    let obj := object.toNat
    let pg := page.toNat
    let bus := pageBus s pn o pg
    let away := o.mapAddr + 8 * pg + 8 ≤ m.frame * 65536 ∨ (m.frame + 1) * 65536 ≤ o.mapAddr + 8 * pg
    s.memOk = true → partAt s pn = some x → mapGet x.objects obj = some o → migAt s pn obj pg = some m → m.retryWait = false → linkUp s = true →
      mapEntry s o pg = some (f, st, g) → x.migQueue = [] → m.frame < 2 ^ 25 →
      (m.dir = .promote → m.step = 3 → (∀ lid ∈ lidsOf (pageAddr o pg) 65536, lineHeld s lid = false) →
        ∃ t, exec (.promotionStepDone p object page) s = .next t ∧ t.mem = s.mem ∧ (migAt t pn obj pg).map (·.step) = some 4
          ∧ (readFor t pn .migration none (pageAddr o pg) 65536).isSome = true)
      ∧ (∀ k r, m.dir = .promote → m.step = 4 → away → readFor s pn .migration none (pageAddr o pg) 65536 = some (k, r) → r.done = true →
          ∃ t, exec (.promotionStepDone p object page) s = .next t ∧ mapEntry t o pg = some (m.frame, .t1, (g + 1) % 32)
            ∧ memBytes t.mem (m.frame * 65536) 65536 = hostBytes s pn bus 65536 ∧ migAt t pn obj pg = none
            ∧ (∀ a, (a < m.frame * 65536 ∨ (m.frame + 1) * 65536 ≤ a) → (a < o.mapAddr + 8 * pg ∨ o.mapAddr + 8 * pg + 8 ≤ a) →
                memByte t.mem a = memByte s.mem a)
            ∧ (partAt t pn).map (·.tier.promoted) = some (x.tier.promoted + 1))
      ∧ (m.dir = .demote → m.step = 3 → (∀ lid ∈ lidsOf (pageAddr o pg) 65536, lineHeld s lid = false) →
          exec (.demotionStepDone p object page) s = .next (modMig s pn obj pg (fun y => { y with step := 4 })))
      ∧ (m.dir = .demote → m.step = 4 → ∃ t, exec (.demotionStepDone p object page) s = .next t ∧ t.mem = s.mem
          ∧ hostBytes t pn bus 65536 = memBytes s.mem (m.frame * 65536) 65536 ∧ (migAt t pn obj pg).map (·.step) = some 5
          ∧ (readFor t pn .migration none (pageAddr o pg + 65472) 64).isSome = true)
      ∧ (∀ k r, m.dir = .demote → m.step = 5 → readFor s pn .migration none (pageAddr o pg + 65472) 64 = some (k, r) → r.done = true →
          x.migs.filter (fun y => y.dir == .promote) = [] →
          ∃ t, exec (.demotionStepDone p object page) s = .next t ∧ mapEntry t o pg = some (0, .t2, (g + 1) % 32) ∧ migAt t pn obj pg = none
            ∧ (tierObject t pn obj).map (·.free) = some (o.free ++ [m.frame])
            ∧ (partAt t pn).map (·.tier.demoted) = some (x.tier.demoted + 1))

/-! ### Queue contexts -/

/-- Doorbells and mailbox tails (R230, R234, R373, R395, R398): an 8 B write of a valid pair whose value lies in the ring becomes the
tail; anything else changes nothing but DB_REJECTED. A local doorbell of another partition's slot, or of one that no local queue has,
is an access fault of the hart. With the journal off no other state changes. FN_FLUSH reads as it stands (R380). -/
def Obligations.DoorbellsMoveTails : Prop :=
  ∀ (s : State) (fn : BitVec 4) (q : BitVec 12) (hart : BitVec 6) (value : BitVec 64) (t : Word32) (x : Queue) (f : Func),
    let n := fn.toNat
    let qn := q.toNat
    let h := hart.toNat
    let moved : State := modQueue s qn (fun y => { y with
      tail := t, state := if y.state = .parked then .running else y.state, badReads := if y.state = .parked then 0 else y.badReads })
    let quietJournal (p : Nat) : Prop := ∀ y, partAt s p = some y → y.journal.enable = 0
    let rejected (p : Nat) : State := modFunc s p (fun f => { f with dbRejected := f.dbRejected + 1 })
    inService s = true → funcAt s n = some f →
      (queueAt s qn = some x → cp32Value value = some t →
        (x.partition = n → x.isLocal = false → tailOk x t = true →
          (quietJournal n → exec (.doorbell fn q 0 8 value) s = .next moved)
          ∧ ∃ u, exec (.doorbell fn q 0 8 value) s = .next u ∧ (queueAt u qn).map (·.tail) = some t)
        ∧ (x.partition ≠ n ∨ x.isLocal = true ∨ tailOk x t = false → exec (.doorbell fn q 0 8 value) s = .next (rejected n))
        ∧ (x.isLocal = true → x.partition = hartOwner s h →
            (tailOk x t = true → quietJournal (hartOwner s h) → exec (.localDoorbell hart q 8 value) s = .next moved)
            ∧ (tailOk x t = false → exec (.localDoorbell hart q 8 value) s = .next (rejected (hartOwner s h)))))
      ∧ (∀ off size, off ≠ 0 ∨ size ≠ 8 → exec (.doorbell fn q off size value) s = .next s)
      ∧ (∀ size, queueAt s qn = none → ∃ u, exec (.localDoorbell hart q size value) s = .next u ∧ u.queues = s.queues
          ∧ (u.harts[h]?).map (·.faults) = (s.harts[h]?).map (fun y => (7, registerBase + 12 * 0x1000000 + 0xC00000 + qn * 0x40) :: y.faults))
      ∧ (cp32Value value = none → exec (.mbxReqTailWrite fn value) s = .next (rejected n)
          ∧ exec (.mbxRspHeadWrite fn value) s = .next (rejected n))
      ∧ (cp32Value value = some t → mbxTailOk f.host f.host.rspHead t = true → ∃ u, exec (.mbxReqTailWrite fn value) s = .next u
          ∧ funcAt u n = some { f with host := { f.host with
              tail := t, parked := false, badReads := if f.host.parked then 0 else f.host.badReads } })
      ∧ (cp32Value value = some t → (t - f.host.rspHead).toNat ≤ (f.host.rspTail - f.host.rspHead).toNat →
          exec (.mbxRspHeadWrite fn value) s = .next (modFunc s n (fun g => { g with host := { g.host with rspHead := t } })))
      ∧ (∀ g, cp32Value value = some t → funcAt s (hartOwner s h) = some g → lmbBase s (hartOwner s h) ≠ 0 →
          mbxTailOk g.loc (consumed s (hartOwner s h) g true) t = true →
            ∃ u v, exec (.lmbDoorbell hart value) s = .next u ∧ funcAt u (hartOwner s h) = some v ∧ v.loc.tail = t ∧ v.loc.parked = false
              ∧ u.queues = s.queues ∧ u.mem = s.mem)
      ∧ (linkServes s = true → exec (.fnFlushRead fn) s = .next (complete s 0 (natToBytes 8 f.flush.toNat)))

/-- Reading descriptors (R372, R375, Table 12-7). A descriptor whose header pair names its queue and position joins the queue; a valid
pair with reserved bits ends its position with INVALID; a header that is not written yet is read again, and the ninth read parks the
queue at that position, with a record and one more DB_AHEAD. A read that the host does not complete is held. -/
def Obligations.DescriptorsAreRead : Prop :=
  ∀ (s : State) (q : BitVec 12) (bytes : List Byte) (x : Queue),
    let qn := q.toNat
    let n := x.head.toNat
    let d := bytes.take 64
    let joined : State := modQueue s qn (fun y => { y with head := y.head + 1, badReads := 0, cmds := y.cmds ++ [Cmd.fresh n d] })
    queueAt s qn = some x → mayFetch s x = true → x.isLocal = false → 64 ≤ bytes.length →
      (x.badReads = 0 → failedDesc s qn = none →
        (x.tail = x.head + 1 → headerVerdict qn n d = .valid → exec (.descriptorFetchComplete q 0 bytes) s = .next joined)
        ∧ (x.tail = x.head + 1 → headerVerdict qn n d = .invalid →
            exec (.descriptorFetchComplete q 0 bytes) s = .next (rejectDescriptor s qn n))
        ∧ (headerVerdict qn n d = .notWritten → exec (.descriptorFetchComplete q 0 bytes) s = .next (modQueue s qn (fun y => { y with badReads := 1 })))
        ∧ (∀ result : BitVec 3, result ≠ 0 → ∃ u, exec (.descriptorFetchComplete q result bytes) s = .next u ∧ u.queues = s.queues
            ∧ u.mem = s.mem ∧ (failedDesc u qn).map (fun e => (e.2.failed, e.2.bytes)) = some (true, 64)))
      ∧ (x.badReads ≠ 0 →
          (headerVerdict qn n d = .valid → exec (.descriptorReread q bytes) s = .next joined)
          ∧ (headerVerdict qn n d = .notWritten → x.badReads ≠ 8 →
              exec (.descriptorReread q bytes) s = .next (modQueue s qn (fun y => { y with badReads := y.badReads + 1 })))
          ∧ (headerVerdict qn n d = .notWritten → x.badReads = 8 → ∀ f, funcAt s x.partition = some f →
              ∃ u, exec (.descriptorReread q bytes) s = .next u
                ∧ (queueAt u qn).map (fun y => (y.state, y.parkPos, y.badReads, y.head)) = some (.parked, n, 0, x.head)
                ∧ (funcAt u x.partition).map (·.dbAhead) = some (f.dbAhead + 1)))

/-- Admission, commit and preemption (R408, R409, R413). A queue's head that asks for nothing it may not have, that nothing holds and
whose declaration meets no admitted command is admitted next in its partition's order. A finished command commits: commit_seq and
FN_FLUSH go up by one, the queue counts it, and it leaves the queue. A run whose slice is over and whose cores another queue waits for
is killed and waits again. -/
def Obligations.AdmissionCommitPreemption : Prop :=
  ∀ (s : State) (q : BitVec 12) (x : Queue) (c : Cmd) (y : Partition),
    let qn := q.toNat
    let p := x.partition
    queueAt s qn = some x → partAt s p = some y →
      (∀ bufs cores ds, inService s = true → headCmd x = some c → x.state ≠ .disabled → behindFence x = false → replayInputs s p = false →
          (s.fault.decaf = none ∨ decafRuns c.opcode = true) → descriptorOk c = true → y.journal.enable = 0 → c.opcode ≠ 0x0A →
          c.field 0x18 2 = 0 → cmdDecl s p x c [] = (bufs, cores, ds) → tagStatus s p qn c = none → stepWaits s p c ds = false →
          noCode s c.opcode = false → cores.any (checkpointHolds s) = false →
          (c.opcode = 1 → programOk x c = true ∧ (c.phaseTag = 0 → cores.any (fun k => decide (8192 ≤ k) || coreOwner s k != p) = false)) →
          cores.any (clusterDisabled s) = false → bufs.all (fun b => (bufRanges s p x.pasid b).isSome) = true → selfConflict ds = false →
          (c.phaseTag = 4 → ds.any (fun d => d.1 && (evalForbidden s p).any (rangesMeet d.2)) = false) →
          admissionConflict s p qn c.pos ds = false → earlierChunkReady s p qn c = false →
          cores.any (fun k => !domainRuns s (coreDomain k)) = false → slotsOwned s p bufs = true →
            ∃ t, exec (.commandAdmission q) s = .next t ∧ t.mem = s.mem ∧ t.hostMem = s.hostMem
              ∧ (cmdAt t qn c.pos).map (fun d => (d.phase, d.bufs, d.cores, d.order, d.admittedAt)) = some (.admitted, bufs, cores, y.admitted, aonNow s)
              ∧ (partAt t p).map (·.admitted) = some (y.admitted + 1))
      ∧ (∀ f, cmdAt s qn c.pos = some c → funcAt s p = some f → c.phase = .finished → commitHeld s x c = false → c.cores = [] →
          chunkHolds s p c false = false → c.opcode ≠ 0x0A → c.opcode ≠ 0x0B → c.opcode ≠ 5 → (c.opcode = 0x11 → isOldest x c.pos = true) →
          ∀ pos : BitVec 32, pos.toNat = c.pos → ∃ t, exec (.commandCommit q pos) s = .next t ∧
              cmdAt t qn c.pos = none ∧ (partAt t p).map (·.commitSeq) = some (y.commitSeq + 1)
              ∧ (funcAt t p).map (·.flush) = some (f.flush + 1)
              ∧ (queueAt t qn).map (fun z => (z.accCommits, z.accEnded)) = some (x.accCommits + 1, x.accEnded)
              ∧ (c.opcode = 0x11 → c.field 0x30 8 = 0 → (partAt t p).map (fun z => mapGet z.signals (c.field 0x20 2)) = some (some (signalValue s p c))))
      ∧ (∀ pos : BitVec 32, cmdAt s qn pos.toNat = some c → c.pos = pos.toNat → c.phase = .admitted → isCoreCmd c.opcode = true → c.begun = true →
          c.kills < 7 → y.sliceBase * x.weight * 2 ^ min c.kills 6 ≤ aonSince s c.sliceStart → coreWanted s p qn c = true →
            ∃ t, exec (.slicePreemption q pos) s = .next t
              ∧ (cmdAt t qn c.pos).map (fun d => (d.phase, d.kills, d.begun)) = some (.admitted, c.kills + 1, false)
              ∧ ∀ k ∈ c.cores, (coreAt t k).wait = .none ∧ (coreAt t k).engine.insts = [] ∧ (coreAt t k).dmas = [])

/-- FENCE, SIGNAL, WAIT and ACCEPT_PLACED (R382, R388, R411). Each finishes with its result once what it waits for is there and changes
nothing before; a SIGNAL's counter is written in its commit; a deadline that passes first ends the command. -/
def Obligations.ControlCommands : Prop :=
  ∀ (s : State) (q : BitVec 12) (pos : BitVec 32) (x : Queue) (c : Cmd),
    let qn := q.toNat
    let n := pos.toNat
    let p := x.partition
    let works (op : Nat) : Prop := Working s qn n op x c
    let count := signalAt s p (c.field 0x20 2)
    let met := (count - BitVec.ofNat 64 (c.field 0x28 8)).toNat < 2 ^ 63
    (works 0x10 → (fenceMet s qn x c = true → exec (.fence q pos) s = .next (finishCmd s qn n stOk ((flushOf s p).toNat % 2 ^ 32)))
      ∧ (fenceMet s qn x c = false → exec (.fence q pos) s = .next s))
    ∧ (works 0x11 → (c.field 0x22 1 = 0 → exec (.signalAdd q pos) s = .next (finishCmd s qn n stOk 0)
          ∧ exec (.signalSet q pos) s = .next s)
        ∧ (c.field 0x22 1 = 1 → exec (.signalSet q pos) s = .next (finishCmd s qn n stOk 0) ∧ exec (.signalAdd q pos) s = .next s))
    ∧ (works 0x12 → (met → exec (.wait q pos) s = .next (finishCmd s qn n stOk (count.toNat % 2 ^ 32))
          ∧ exec (.waitDeadline q pos) s = .next s)
        ∧ (¬met → exec (.wait q pos) s = .next s)
        ∧ (¬met → c.field 0x24 4 ≠ 0 → c.field 0x24 4 ≤ aonSince s c.admittedAt →
            exec (.waitDeadline q pos) s = .next (endCmd s qn n stWaitTimeout)))
    ∧ (works 0x13 → ∀ r, regionAt s p (c.field 0x20 1) = some r →
        (r.state ≠ .free → acceptRangeOk r c = true → placedMet r (c.field 0x38 8) = true → r.droppedSince = false →
          (∀ y, partAt s p = some y → y.journal.enable = 0) →
          (∀ lid ∈ lidsOf (r.base + c.field 0x28 8) (c.field 0x30 8), lineHeld s lid = false) →
          (∀ lid ∈ lidsOf r.log (if r.state = .open then 0 else r.logUsed), lineHeld s lid = false) →
            ∃ t, exec (.acceptPlaced q pos) s = .next t ∧ t.mem = s.mem
              ∧ (cmdAt t qn n).map (fun d => (d.phase, d.status, d.result)) =
                  some (.finished, if r.state ≠ .open ∧ r.logUsed ≠ 0 then stPlacedReserve else stOk, 0))
        ∧ (r.state ≠ .free → acceptRangeOk r c = true → placedMet r (c.field 0x38 8) = false → exec (.acceptPlaced q pos) s = .next s)
        ∧ (placedMet r (c.field 0x38 8) = false → c.aux ≤ aonSince s c.admittedAt →
            exec (.acceptPlacedDeadline q pos) s = .next (endCmd s qn n stAcceptShort)))

/-- The work of a command that is over changes the command alone; a command that ends leaves its queue, frees its cores, is counted as
ended, and no hold of it remains (R150, R377, R419). A record holds status and position as a pair, the result, the queue, the flags
and commit_seq (Table 12-9). -/
def Obligations.CommandsEndWithARecord : Prop :=
  ∀ (s : State) (q pos status result : Nat) (x : Queue) (c : Cmd), queueAt s q = some x → cmdAt s q pos = some c →
    (let t := finishCmd s q pos status result;
      t = { s with queues := t.queues } ∧ cmdAt t q pos = some { c with phase := .finished, status := status, result := result }
      ∧ ∀ r, r ≠ q → queueAt t r = queueAt s r)
    ∧ (let t := endCmdWith s q pos status result;
      cmdAt t q pos = none ∧ (queueAt t q).map (fun y => (y.accEnded, y.accCommits)) = some (x.accEnded + 1, x.accCommits)
      ∧ (∀ e ∈ t.holds, e.2.cmd ≠ some { queue := q, pos := pos })
      ∧ (∀ k ∈ c.cores, (coreAt t k).wait = .none ∧ (coreAt t k).dmas = [] ∧ (coreAt t k).engine.insts = [])
      ∧ ∀ k, k ∉ c.cores → coreAt t k = coreAt s k)
    ∧ ∀ flags seq mod index target : Nat, let b := completionBytes q pos status result flags seq mod index target;
        b.length = 32 ∧ cp32At b 0 = some (status % 2 ^ 16 + pos % 2 ^ 16 * 2 ^ 16) ∧ fieldAt b 8 4 = result % 2 ^ 32
        ∧ fieldAt b 0xC 2 = q % 2 ^ 16 ∧ fieldAt b 0xE 1 = flags % 2 ^ 8 ∧ fieldAt b 0x10 8 = seq % 2 ^ 64 ∧ fieldAt b 0x18 2 = mod % 2 ^ 16
        ∧ fieldAt b 0x1A 1 = index % 2 ^ 8 ∧ fieldAt b 0x1C 4 = target % 2 ^ 32

/-- COPY, FILL and the WGB at commit (R105, R107, R405). A COPY between quiet ranges of the partition's T1 memory moves the bytes and
nothing else, a FILL repeats its pattern, and both finish with OK. WGB_ZERO clears its tile and the tile's torn bit; FOLD adds the
source block; a spill record that neither adds nor is final writes its block. -/
def Obligations.CopyFillAndWgbCommit : Prop :=
  ∀ (s : State) (q : BitVec 12) (pos : BitVec 32) (x : Queue) (c : Cmd) (core : CoreId),
    let qn := q.toNat
    let n := pos.toNat
    let p := x.partition
    let k := core.toNat
    let done (t : State) : Prop := (cmdAt t qn n).map (fun d => (d.phase, d.status)) = some (.finished, stOk)
    let tile (i : Nat) : Nat := coreAddr k (0x30000 + i * 0x4000)
    s.memOk = true →
      (x.pasid = none → copyTurn s p c = true → NoRelayout s p →
        (Working s qn n 0x02 x c → Quiet s p (c.field 0x20 8) (c.field 0x30 8) → Quiet s p (c.field 0x28 8) (c.field 0x30 8) →
          ∃ t, exec (.copy q pos) s = .next t ∧ done t
            ∧ memBytes t.mem (c.field 0x28 8) (c.field 0x30 8) = memBytes s.mem (c.field 0x20 8) (c.field 0x30 8)
            ∧ ∀ a, a < c.field 0x28 8 ∨ c.field 0x28 8 + c.field 0x30 8 ≤ a → memByte t.mem a = memByte s.mem a)
        ∧ (Working s qn n 0x03 x c → Quiet s p (c.field 0x20 8) (c.field 0x28 8) →
          ∃ t, exec (.fill q pos) s = .next t ∧ done t
            ∧ (∀ i, i < c.field 0x28 8 → memByte t.mem (c.field 0x20 8 + i) = BitVec.ofNat 8 (natField (c.field 0x30 8) (8 * (i % 8)) 8))
            ∧ ∀ a, a < c.field 0x20 8 ∨ c.field 0x20 8 + c.field 0x28 8 ≤ a → memByte t.mem a = memByte s.mem a))
      ∧ (∀ i : Nat, i < 4 →
          (let t := applyWgb s k (.zero i);
            (∀ a, memByte t.mem a = if tile i ≤ a ∧ a < tile i + 0x4000 then 0 else memByte s.mem a)
            ∧ (coreAt t k).torn.getLsbD i = false ∧ ∀ j, j ≠ i → (coreAt t k).torn.getLsbD j = (coreAt s k).torn.getLsbD j)
          ∧ ∀ src, (let t := applyWgb s k (.fold src i);
            (∀ e, e < 4096 → fieldAt (memBytes t.mem (tile i) 0x4000) (4 * e) 4
              = (addF32 (BitVec.ofNat 32 (fieldAt (memBytes s.mem (tile i) 0x4000) (4 * e) 4))
                  (BitVec.ofNat 32 (fieldAt (memBytes s.mem (coreAddr k src) 0x4000) (4 * e) 4))).toNat)
            ∧ ∀ a, a < tile i ∨ tile i + 0x4000 ≤ a → memByte t.mem a = memByte s.mem a))
      ∧ (∀ r, s.spills.find? (fun y => y.core == k) = some r → r.desc.add = false → r.desc.final = false → r.data.length = 0x4000 →
          Quiet s p r.desc.addr 0x4000 →
          ∃ t, exec (.spillRecordApply core) s = .next t ∧ t.spills = s.spills.erase r ∧ memBytes t.mem r.desc.addr 0x4000 = r.data
            ∧ ∀ a, a < r.desc.addr ∨ r.desc.addr + 0x4000 ≤ a → memByte t.mem a = memByte s.mem a)

/-! ### Programs, tables, steps, collectives -/

/-- PROGRAM_RUN starts its program on every core of the command: its text in the core's share, the pc at the entry, the stack pointer at
the top of the share, the arguments in a0 to a3, its rank (R117). GATHER_SHARD puts the header and the shard into every destination
core and finishes with the stamp; a stamp that is not accepted ends it with SHARD_VERSION_MISMATCH (R276, R277). -/
def Obligations.ProgramsAndGathers : Prop :=
  ∀ (s : State) (q : BitVec 12) (pos : BitVec 32) (x : Queue) (c : Cmd),
    let qn := q.toNat
    let n := pos.toNat
    let p := x.partition
    let base := x.scratchBase + c.field 0x28 2 * 64
    let size := c.field 0x2A 2 * 64
    let role := (jobAt s p).bind (fun j => commandRole j c)
    let started (t : State) : Prop := ∀ r k, c.cores[r]? = some k →
      let y := coreAt t k
      y.run = .running ∧ y.wait = .none ∧ y.regs.pc = BitVec.ofNat 32 (base + c.field 0x2C 4)
        ∧ getX y 2 = BitVec.ofNat 32 (x.scratchBase + x.scratchSize) ∧ getX y 10 = BitVec.ofNat 32 (c.field 0x30 4)
        ∧ getX y 11 = BitVec.ofNat 32 (c.field 0x34 4) ∧ getX y 12 = BitVec.ofNat 32 (c.field 0x38 4)
        ∧ (role = none → getX y 13 = BitVec.ofNat 32 (c.field 0x3C 4))
        ∧ (∀ i : BitVec 5, i ≠ 2 → i.toNat < 10 ∨ 14 ≤ i.toNat → getX y i = 0)
        ∧ y.regs.vl = 0 ∧ y.exitWord = none ∧ y.wgbOps = [] ∧ y.dmas = [] ∧ y.job.rank = r ∧ y.job.nranks = c.cores.length
        ∧ y.job.shareBase = x.scratchBase ∧ y.job.shareSize = x.scratchSize ∧ y.job.queue = qn ∧ y.job.pos = c.pos
    (Working s qn n 0x01 x c → c.begun = false → coresFree s qn c = true → programOk x c = true → c.cores.Nodup →
      c.bufs.all (fun b => b.kind != .inPlace) = true →
        (c.field 0x20 8 = 0 → ∃ t, exec (.programRun q pos) s = .next t ∧ started t ∧ t.mem = s.mem
          ∧ ∀ k, k ∉ c.cores → coreAt t k = coreAt s k)
        ∧ (s.memOk = true → c.field 0x20 8 ≠ 0 → x.pasid = none → Quiet s p (c.field 0x20 8) size → base + size ≤ 0x30000 →
            ∃ t, exec (.programRun q pos) s = .next t ∧ started t
              ∧ ∀ k ∈ c.cores, memBytes t.mem (coreAddr k base) size = memBytes s.mem (c.field 0x20 8) size))
    ∧ (Working s qn n 0x04 x c → coresFree s qn c = true → ∀ j e, jobAt s p = some j → c.field 0x24 1 = 0 →
        tensorEntry s j (c.field 0x20 2) = some e → 0 < c.field 0x2C 4 → c.field 0x28 4 + c.field 0x2C 4 ≤ e.blocks →
          let ds := (List.range (c.field 0x2C 4)).map (fun i => blockDesc s e (c.field 0x28 4 + i))
          ds.any (fun d => ((blockSel s d).map (·.2)).getD false) = false →
          ∀ s1 b bs, cmdReads qn n s (ds.map (fun d => (d.copy, packedBytes (codeBits e.copyFmt) d.elems))) [] = (.ok s1 b, bs) →
          jobAt s1 p = some j → (cmdAt s1 qn n).isSome = true →
            let off := c.field 0x30 4
            x.scratchBase + x.scratchSize ≤ 0x30000 → off + 16 + bs.flatten.length ≤ x.scratchSize →
            (∀ st w, s1.memOk = true → commonStamp (ds.map (blockStamp s1)) = some st → stampAccepted s1 j c (c.field 0x20 2) st = (true, w) →
              ∃ t, exec (.gatherShard q pos) s = .next t
                ∧ (cmdAt t qn n).map (fun d => (d.phase, d.status, d.result)) = some (.finished, stOk, st)
                ∧ ∀ k ∈ c.cores, memBytes t.mem (coreAddr k (x.scratchBase + off)) (16 + bs.flatten.length) =
                    cp32Bytes st ++ natToBytes 2 (c.field 0x20 2) ++ natToBytes 2 (c.field 0x22 2) ++ natToBytes 4 bs.flatten.length
                      ++ bs.flatten)
            ∧ (∀ st w, commonStamp (ds.map (blockStamp s1)) = some st → stampAccepted s1 j c (c.field 0x20 2) st = (false, w) →
                ∃ t, exec (.gatherShard q pos) s = .next t ∧ cmdAt t qn n = none))

/-- Table and video commands (R241, R246, R250, R256, R428, R430, R431). A lookup whose plan and entries are right finishes with the rows
read; an update has then reduced its rows and waits for the step. A video command of a
session that is not open ends with 0x0E01; one of an open session writes its output, moves the session on and finishes. -/
def Obligations.TablesAndVideo : Prop :=
  ∀ (s : State) (q : BitVec 12) (pos : BitVec 32) (x : Queue) (c : Cmd),
    let qn := q.toNat
    let n := pos.toNat
    let p := x.partition
    let k := c.field 0x28 1
    (∀ s1 b, cmdRead s qn n (c.field 0x20 8) (64 * k) = .ok s1 b →
      let es := planEntries b k
      (Working s qn n 0x07 x c →
        ((List.range k).all (fun i => planEntryOk s1 p false (sliceBytes b (64 * i) 64)) = false →
          exec (.embLookup q pos) s = .next (endCmd s1 qn n stInvalid))
        ∧ (∀ s2 y, (List.range k).all (fun i => planEntryOk s1 p false (sliceBytes b (64 * i) 64)) = true →
            ioFold (fun u e => lookupEntry u qn n p e.2 e.1) s1 es.zipIdx = .ok s2 y →
              exec (.embLookup q pos) s = .next (finishCmd s2 qn n stOk ((es.map (·.count)).sum % 2 ^ 32))))
      ∧ (∀ o s2 y, Working s qn n 0x08 x c → (jobAt s p).bind (·.step) = some o → c.granted = false →
          (List.range k).all (fun i => planEntryOk s1 p true (sliceBytes b (64 * i) 64)) = true → (planTables es).Nodup →
          (planTables es).any (fun t => o.updated.contains t) = false →
          (planTables es).any (fun t => ((tableAt s1 p t).bind (·.pendingStep)).isSome) = false →
          ioFold (fun u e => reduceEntry u qn n p o.step e.2 e.1) s1 es.zipIdx = .ok s2 y →
            ∃ t, exec (.embUpdate q pos) s = .next t ∧ t.mem = s2.mem
              ∧ (∀ d, cmdAt s2 qn n = some d → (cmdAt t qn n).map (fun d => (d.phase, d.granted)) = some (d.phase, true))
              ∧ (∀ j o2, jobAt s2 p = some j → j.step = some o2 →
                  ((jobAt t p).bind (·.step)).map (·.updated) = some (o2.updated ++ planTables es))))
    ∧ (∀ enc : Bool, Working s qn n (if enc then 0x0F else 0x0E) x c → videoTurn s p c = true →
        c.field 0x22 2 < (if enc then 128 else 8) → natBit (c.field 0x22 2) 0 = false → ∀ y, partAt s p = some y →
          let i := c.field 0x20 2
          let run : Out := if enc then exec (.videoEncode q pos) s else exec (.videoDecode q pos) s
          (mapGet y.sessions i = none → run = .next (endCmd s qn n 0x0E01))
          ∧ (∀ v, mapGet y.sessions i = some v → v.queue = qn → v.encode = enc → x.pasid = none → v.out ≠ 2 →
              (enc = true → c.aux % pictureBytes v.maxW v.maxH v.depth = 0) → Quiet s p (c.field 0x28 8) c.aux →
              Quiet s p (c.field 0x30 8) (c.field 0x38 4) →
                ∃ t, run = .next t ∧ (cmdAt t qn n).map (·.phase) = some .finished
                  ∧ (mapWf y.sessions = true → natBit (c.field 0x22 2) 1 = true → (partAt t p).bind (fun z => mapGet z.sessions i) = none)
                  ∧ (natBit (c.field 0x22 2) 1 = false →
                      ((partAt t p).bind (fun z => mapGet z.sessions i)).map (·.version) = some (v.version + 1))))
    ∧ (∀ (pp : BitVec 4) (session : BitVec 16) v y, partAt s pp.toNat = some y → mapGet y.sessions session.toNat = some v → v.bounded = true →
        ∃ t, exec (.videoBudgetOverrun pp session) s = .next t
          ∧ ((partAt t pp.toNat).bind (fun z => mapGet z.sessions session.toNat)).map (·.overrun) = some true
          ∧ ∀ u, s.videos[v.unit]? = some u → (t.videos[v.unit]?).map (·.overruns) = some (u.overruns + 1))

/-- A region of a re-layout (R254, R255, R256): the next one in order starts to move, a copy that is done is marked, a write to it restarts
it at most three times, and it switches only where no command uses the table. -/
def Obligations.RelayoutRegions : Prop :=
  ∀ (s : State) (p : BitVec 4) (table : BitVec 16) (region : Nat) (t : EmbTable) (r : Relayout) (g : Region),
    let pn := p.toNat
    let id := table.toNat
    let entry (u : State) : Option Region := ((tableAt u pn id).bind (·.relayout)).bind (fun y => y.regions[region]?)
    let home : RegionState := if r.revert then .new else .old
    tableAt s pn id = some t → t.relayout = some r → r.status = .running → r.regions[region]? = some g →
      (g.state = home → (∀ (i : Nat) h, i < region → r.regions[i]? = some h → h.state ≠ home) →
        (∀ (i : Nat) h, r.regions[i]? = some h → h.state = .moving → h.copied = true) →
          ∃ u, exec (.relayoutRegionStart p table region) s = .next u ∧ entry u = some { state := .moving, copied := false, restarts := 0 })
      ∧ (let src := if r.revert then r.newDesc else t.desc
        let dst := if r.revert then t.desc else r.newDesc
        let rows := regionRows t region
        g.state = .moving → g.copied = false → ∀ u0, tierReady s pn none false true
          (rows.map (fun w => (slotAddr s pn src w, src.slot)) ++ rows.map (fun w => (slotAddr s pn dst w, dst.slot))) = .ready u0 →
            exec (.relayoutRegionCopied p table region) s = .next (modRegionEntry (rows.foldl (fun w row => copyRow w pn src dst row) u0)
              pn id region (fun x => { x with copied := true })))
      ∧ (g.state = .moving → g.restarts < 3 → ∃ u, exec (.relayoutRegionRestart p table region) s = .next u
          ∧ entry u = some { g with copied := false, restarts := g.restarts + 1 })
      ∧ (g.state = .moving → 3 ≤ g.restarts → exec (.relayoutRegionRestart p table region) s = .next s)
      ∧ (tableInUse s pn id = true → exec (.relayoutSwitchPoint p table) s = .next s)
      ∧ (tableInUse s pn id = false → exec (.relayoutSwitchPoint p table) s = .next (switchPoint s pn id))

/-- The step and evaluation commands (R262, R263, R290, R314, R323). STEP_BEGIN of the step after the last committed one, with a plan
that satisfies Table 9-2, opens it; STEP_COMMIT gives this member's contribution and waits for the members of the check group;
STEP_RECOVER of a committed step confirms it; EVAL_BEGIN and EVAL_END open and close the window. -/
def Obligations.StepAndEvaluation : Prop :=
  ∀ (s : State) (q : BitVec 12) (pos : BitVec 32) (x : Queue) (c : Cmd) (j : Job),
    let qn := q.toNat
    let n := pos.toNat
    let p := x.partition
    let ended (t : State) : Prop := (cmdAt t qn n).map (fun d => (d.phase, d.status)) = some (.finished, stOk)
    jobAt s p = some j →
      (Working s qn n 0x09 x c → j.step = none → j.eval = none → j.halted = 0 → c.field 0x20 8 % 64 = 0 → ownsT1 s p (c.field 0x20 8) 64 = true →
        ∀ s1 b, cmdRead s qn n (c.field 0x20 8) 64 = .ok s1 b → jobAt s1 p = some j → (cmdAt s1 qn n).isSome = true →
          ((planOf b).step = j.committed + 1 → planOk s1 p j b = true → ∃ t o, exec (.stepBegin q pos) s = .next t ∧ ended t
            ∧ (jobAt t p).bind (·.step) = some o ∧ o.step = j.committed + 1 ∧ o.plan = planOf b ∧ o.queue = qn ∧ o.ended = [] ∧ o.started = []
            ∧ o.flag = false ∧ o.nfc = 0 ∧ o.cutoff = none ∧ o.installed = (planOf b).mapFb)
          ∧ ((planOf b).step ≠ j.committed + 1 → exec (.stepBegin q pos) s = .next (endCmd s1 qn n stInvalid)))
      ∧ (∀ o, Working s qn n 0x0A x c → replayHolds s p = false → j.commit = none → j.step = some o → c.field 0x20 8 < usableBytes s →
          ownsT1 s p (c.field 0x20 8) (32 * j.layers) = true → rangePoisoned s (c.field 0x20 8) (32 * j.layers) = false →
          hyperTableOk s p j (c.field 0x20 8) = true → j.early = [] → (checkPeers s j).any (· != s.life.moduleId) = true →
            ∃ t r, exec (.stepCommit q pos) s = .next t ∧ (jobAt t p).bind (·.commit) = some r ∧ r.step = o.step ∧ r.phase = .check
              ∧ r.checks = [ownCheck s p j o] ∧ r.queue = qn ∧ r.pos = n ∧ r.hyper = c.field 0x20 8 ∧ t.mem = s.mem)
      ∧ (∀ k, Working s qn n 0x0B x c → j.commit = none → j.step = none → j.halted = 0 → readCommitRec s j = some k →
          c.field 0x20 8 ≤ k.committed →
            exec (.stepRecover q pos) s = .next (finishCmd (sendDigests s p (c.field 0x20 8)) qn n stOk 0))
      ∧ (∀ plan, Working s qn n 0x0C x c → j.lastPlan = some plan → j.step = none → j.eval = none → plan.step = j.committed →
          ∃ t, exec (.evalBegin q pos) s = .next t ∧ ended t
            ∧ ((jobAt t p).bind (·.eval)).map (fun e => (e.step, e.installed)) = some (j.committed, plan.mapEval))
      ∧ (∀ e, Working s qn n 0x0D x c → j.eval = some e →
          (cmdsWhere s (fun _ y d => y.partition == p && d.phase != .waiting && d.phaseTag == 4)) = [] →
            exec (.evalEnd q pos) s = .next (finishCmd (modJob s p (fun y => { y with eval := none })) qn n stOk 0))
      ∧ (∀ (pol : Policy) (g : Word32), (∀ m, decide315 pol (some m) true g = (3, 0x3F800000, false))
          ∧ decide315 pol none true g = (if pol.abortOnNonfinite then 4 else 3, 0x3F800000, false)
          ∧ (decide315 pol none false 0x7F800000).1 = 3 ∧ (ltF32 pol.absurd g = true → (decide315 pol none false g).1 = 3)
          ∧ (g ≠ 0x7F800000 → ltF32 pol.absurd g = false → ltF32 pol.clip g = true →
              decide315 pol none false g = (2, divF32 pol.clip g, false))
          ∧ (g ≠ 0x7F800000 → ltF32 pol.absurd g = false → ltF32 pol.clip g = false → decide315 pol none false g = (1, 0x3F800000, false)))

/-- Collectives and ring passes (R284, R285, R351 to R357). The slices of a buffer are contiguous, start at multiples of 64 B and cover
it. A group of one copies its input to its output; in a larger one a command takes the next number of its tag. A DONE is noted, and the
one that completes the exchange writes the result; a RESTART before DONE abandons the progress. A pass grants, is granted, sends and
finishes; passes of a local ring hand their blocks on directly. -/
def Obligations.RingsAndCollectives : Prop :=
  (∀ total n k : Nat, 0 < n →
    let a := sliceRange total n k
    (sliceRange total n 0).1 = 0 ∧ a.1 + a.2 = (sliceRange total n (k + 1)).1 ∧ (sliceRange total n n).1 = total
      ∧ (a.2 ≠ 0 → a.1 % 64 = 0)) ∧
  ∀ (s : State) (q : BitVec 12) (pos : BitVec 32) (x : Queue) (c : Cmd),
    let qn := q.toNat
    let n := pos.toNat
    let p := x.partition
    let a := collArgs c
    let me := s.life.moduleId
    let datas := c.collData.filter (fun m => m.cls == 0)
    let rank := rankOf c.group me
    (Working s qn n 0x06 x c → gangTurn s p c = true → c.begun = false → c.field 0x20 8 % 64 = 0 → c.field 0x20 8 < usableBytes s →
      ∀ s1 h s2 b ms tag s3 input, cmdRead s qn n (c.field 0x20 8) 16 = .ok s1 h → 1 ≤ fieldAt h 0 4 → fieldAt h 0 4 ≤ 65536 →
        cmdRead s1 qn n (c.field 0x20 8) (16 + 2 * fieldAt h 0 4) = .ok s2 b → groupOf s2 p b = some (ms, tag) →
        collArgsOk a ms.length c = true →
        cmdRead s2 qn n (c.field 0x28 8) (collInput a ms.length (rankOf ms s2.life.moduleId)) = .ok s3 input →
          let alone := completeColl s3 qn n p { c with group := ms, tag := tag } input
          (ms.length = 1 → (∀ d, cmdAt alone qn n = some d → d.begun = false) → exec (.collective q pos) s = .next alone)
          ∧ (∀ j, 1 < ms.length → jobAt s3 p = some j → j.early = [] → ∃ t, exec (.collective q pos) s = .next t
              ∧ ∀ d, cmdAt t qn n = some d → d.begun = true ∧ d.group = ms ∧ d.tag = tag ∧ d.collSeq = mapGetD j.collSeq tag 0))
    ∧ (Working s qn n 0x06 x c → c.begun = true → ∀ member : BitVec 16, member.toNat ∈ c.group →
        let all := if c.collDone.contains member.toNat then c.collDone else c.collDone ++ [member.toNat]
        let noted := modCmd s qn n (fun d => { d with
          collDone := if d.collDone.contains member.toNat then d.collDone else d.collDone ++ [member.toNat] })
        datas.all (fun m => m.body.take 16 == collPrefix a) = true →
        ((∃ m ∈ c.group, m ≠ me ∧ ∀ d ∈ datas, d.src ≠ m) → exec (.collectiveDone q pos member) s = .next noted)
        ∧ (∀ s2 input, c.doneSent = true → (∀ m ∈ c.group, m ≠ me → (∃ d ∈ datas, d.src = m) ∧ m ∈ all) →
            cmdRead noted qn n (c.field 0x28 8) (collInput a c.group.length rank) = .ok s2 input →
              let parts := c.group.zipIdx.map (fun m => if m.2 = rank then collPayload a c.group.length rank rank input
                else ((datas.find? (fun d => d.src == m.1)).map (fun d => d.body.drop 16)).getD [])
              exec (.collectiveDone q pos member) s = .next (completeColl s2 qn n p { c with collDone := all }
                ((collResult a rank parts).take (collOutput a c.group.length rank)))))
    ∧ (Working s qn n 0x06 x c → c.begun = true →
        (c.doneSent = true → exec (.collectiveRestart q pos) s = .next s)
        ∧ (c.doneSent = false → ∀ e, s.colls[c.tag % 4]? = some e → ∃ t, exec (.collectiveRestart q pos) s = .next t
            ∧ (t.colls[c.tag % 4]?).map (·.restarts) = some (e.restarts + 1)
            ∧ ∀ d, cmdAt t qn n = some d → d.collData = [] ∧ d.collDone = []))
    ∧ (let granted := modCmd s qn n (fun d => { d with granted := true })
      Working s qn n 0x05 x c →
        (c.begun = false → exec (.ringPassGrant q pos) s = .next granted)
        ∧ (∀ t b, c.begun = true → c.doneSent = false → c.collData = [] → cmdRead granted qn n (ringBuf c 0) c.aux = .ok t b →
            ∃ u, exec (.ringPassGrant q pos) s = .next u ∧ ∀ d, cmdAt u qn n = some d → d.granted = true ∧ d.doneSent = true))
    ∧ (let begun := modCmd s qn n (fun d => { d with begun := true })
      let next := localPass begun p { c with begun := true } ((c.role + 1) % c.field 0x3A 1)
      Working s qn n 0x05 x c → gangTurn s p c = true → isLocalRing c = true → ringOk c (c.field 0x3A 1) = true →
        (c.doneSent = false → next = none → exec (.ringPass q pos) s = .next begun)
        ∧ (∀ q2 p2 t b d, c.doneSent = false → next = some (q2, p2) → (q2, p2) ≠ (qn, n) →
            cmdRead begun qn n (ringBuf c 0) c.aux = .ok t b → cmdAt t qn n = some d → d.collData = [] → d.doneSent = false →
              exec (.ringPass q pos) s = .next (modCmd (modCmd t q2 p2 (fun y => { y with
                collData := [{ src := c.role, cls := 2, tag := 0, op := 6, cause := 0, seq := 0, round := 0, body := b }] }))
                qn n (fun y => { y with doneSent := true })))
        ∧ (∀ t y m rest, c.doneSent = true → c.collData = m :: rest → cmdWrite begun qn n (ringBuf c 1) m.body = .ok t y →
            exec (.ringPass q pos) s = .next (finishCmd t qn n stOk 0)))

/-- Commit exchanges, block fetches and the drip stream (R314, R318, R321, R323, R325, R328). A confirmation of a step whose gradients
are retained is taken; a CHECK that the step has not reached is kept, one that it waits for is counted; an intent query is answered. A
commit whose check times out with a replica group without any member ends with 0x0A04. A request is answered with the block; a fetched
block that is right is switched in, and one that is wrong is asked of the next source. The block longest behind is emitted first,
where the ring has room; the consumer's head makes room. -/
def Obligations.CommitExchangesAndDrip : Prop :=
  ∀ (s : State) (p : BitVec 4) (member : BitVec 16) (bytes : List Byte) (j : Job),
    let pn := p.toNat
    let m := member.toNat
    jobAt s pn = some j →
      (j.commit = none → j.step = none →
        exec (.commitExchange p member 1 bytes) s = .next (modJob s pn (fun y => confirmRetained y (j.committed % 2 ^ 32) m)))
      ∧ (∀ r, j.retention = some r → r.step % 2 ^ 32 = j.committed % 2 ^ 32 →
          (confirmRetained j (j.committed % 2 ^ 32) m).retention
            = if r.waiting.filter (· != m) = [] then none else some { r with waiting := r.waiting.filter (· != m) })
      ∧ (∀ o, j.commit = none → j.step = some o → j.early.all (fun e => e.cls != 4 || e.src != m) = true →
          exec (.commitExchange p member 0 bytes) s = .next (modJob s pn (fun y => { y with early := y.early ++
            [{ src := m, cls := 4, tag := 0, op := 0, cause := 0, seq := o.step % 2 ^ 32, round := 0, body := 0 :: bytes }] })))
      ∧ (∀ r, j.commit = some r → r.phase = .check → checkOf r m = none →
          (∃ i ∈ checkPeers s j, i ≠ m ∧ checkOf r i = none) →
            exec (.commitExchange p member 0 bytes) s
              = .next (modRun s pn (fun y => { y with checks := y.checks ++ [checkOfBytes m bytes] })))
      ∧ (j.commit = none → j.step = none → exec (.commitExchange p member 2 bytes) s
          = .next (sendExchange s pn m (j.committed % 2 ^ 32) 3 (intentAnswer s j (j.committed % 2 ^ 32))))
      ∧ (∀ r c, j.commit = some r → cmdAt s r.queue r.pos = some c → c.phase = .admitted →
          (r.phase = .check → checkDecidable j r = false →
            exec (.commitTimeout p) s = .next (endCmd (modJob s pn (fun y => { y with commit := none })) r.queue r.pos 0x0A04))
          ∧ (r.phase = .check → checkDecidable j r = true → exec (.commitTimeout p) s = .next (decideStep s pn))
          ∧ (r.phase = .intentQuery → exec (.commitTimeout p) s = .next (abandonStep s pn r)))
      ∧ (∀ i b : BitVec 32,
          (i.toNat < j.paramEntries → b.toNat < (dirEnt s j i.toNat).blocks →
            exec (.blockFetchRequest p member i b) s = .next (sendOr s pn m 6 0 0 (logStep s pn % 2 ^ 32) 0
              (natToBytes 4 i.toNat ++ natToBytes 4 b.toNat ++ blockAnswer s j i.toNat b.toNat)))
          ∧ (∀ r f m2 rest, j.commit = some r → f.sources = m :: m2 :: rest →
              r.refetch.find? (fun y => y.dirIdx == i.toNat && y.block == b.toNat && y.sources.head? == some m) = some f →
              r.refetch.find? (fun y => y.dirIdx == i.toNat && y.block == b.toNat) = some f →
                let e := dirEnt s j i.toNat
                let d := blockDesc s e b.toNat
                let mo := if ruleMoment e.rule then 4 * d.elems else 0
                let k := 16 + 4 * d.elems + mo
                let masters := sliceBytes bytes 16 (4 * d.elems)
                let good : Prop := bytes.length = k + (if ruleFactored e.rule then 1024 else 0)
                  ∧ fieldAt bytes 0 8 = r.step % 2 ^ 32 ∧ crc64 masters = fieldAt bytes 8 8 ∧ (∀ w, f.want = some w → w = crc64 masters)
                (¬ good → exec (.blockFetchResponse p member i b bytes) s =
                  .next (requestBlock (modRun s pn (fun y => { y with refetch := y.refetch.map (fun z =>
                    if z.dirIdx = i.toNat ∧ z.block = b.toNat then { f with sources := m2 :: rest } else z) })) pn r.step
                    { f with sources := m2 :: rest }))
                ∧ (good → (∀ y, partAt s pn = some y → y.journal.enable ≠ 2) →
                    (∃ z ∈ r.refetch, z.dirIdx ≠ i.toNat ∨ z.block ≠ b.toNat) → ∃ u,
                      exec (.blockFetchResponse p member i b bytes) s = .next (modRun (modChannel (switchBlock
                        (drawFree s (2 ^ 32)).2 pn r.step i.toNat b.toNat e (wordsOf masters d.elems)
                        (wordsOf (sliceBytes bytes (16 + 4 * d.elems) mo) (mo / 4)) (wordsOf (sliceBytes bytes k 512) 128)
                        (wordsOf (sliceBytes bytes (k + 512) 512) 128) u) (homeChannel d) (fun h => { h with ulFetched := h.ulFetched + 1 }))
                        pn (fun y => { y with fetched := y.fetched + 1,
                                              refetch := y.refetch.filter (fun z => !(z.dirIdx == i.toNat && z.block == b.toNat)) })))))
      ∧ (∀ d : Drip, j.drip = some d →
          (∀ head : BitVec 64, d.ready = [] →
            exec (.dripRingRoom p head) s = .next (moduleWrite s (d.ring + 8) (cp32Bytes (head.toNat % 2 ^ 32))))
          ∧ (∀ r, (dripFree s d < r.length / 64 → dripPut s pn r = none)
              ∧ ∀ t, dripPut s pn r = some t → ∃ pad, ((jobAt t pn).bind (·.drip)).map (·.tail) = some ((d.tail + (pad + r.length) / 64) % 2 ^ 32)
                ∧ (d.tail * 64 % (d.size - 64) + r.length ≤ d.size - 64 → pad = 0))
          ∧ (∀ y, oldestBehind d.behind = some y → y ∈ d.behind ∧ ∀ z ∈ d.behind, y.2.2 ≤ z.2.2)
          ∧ (∀ i b st, d.ready = [] → d.dest ≠ 0 → oldestBehind d.behind = some (i, b, st) →
              let e := dirEnt s j i
              (dripPut s pn (blockFull s e b) = none → exec (.dripBehindEmit p) s = .next s)
              ∧ (∀ t, dripPut s pn (blockFull s e b) = some t →
                  let de := blockDesc t e b
                  exec (.dripBehindEmit p) s = .next (modDrip
                    (cohWrite t (de.record + 0x18) (cp32Bytes (((blockStamp t de).getD 0) % 2 ^ 31 + 2 ^ 31))) pn
                    (fun y => { y with behind := y.behind.filter (fun z => !(z.1 == i && z.2.1 == b)),
                                       recordsInStep := y.recordsInStep + 1 })))))

/-! ### Server cores and the host link -/

/-- Server cores (R205, R206, R215 to R220, R228, R232, R233) and AtomicOps of the host (R361). A load, store, AMO, LR or SC on memory
that the partition owns does what its word says and nothing else; a misaligned atomic and another partition's memory are access faults;
lxs.amofadd adds in FP32, or in two lanes of BF16, and returns the old word. A hart asks for a frequency and its cluster takes the highest; a
synchronisation completes the invalidations; a reboot destroys the partition's local contexts and keeps the others. -/
def Obligations.ServerCoresAndAtomics : Prop :=
  ∀ (s : State) (hart : BitVec 6) (a : BitVec 56) (size op : BitVec 4) (attr : BitVec 2) (value : BitVec 64) (rd rs1 rs2 : BitVec 5),
    let h := hart.toNat
    let p := hartOwner s h
    let n := size.toNat
    let xAt (t : State) (r : BitVec 5) : Word64 := ((t.harts[h]?).map (fun y => xReg y r.toNat)).getD 0
    let old := fieldAt (memBytes s.mem a.toNat n) 0 n
    let access (kind : BitVec 2) : Out := exec (.serverCoreAccess hart kind attr op size a value rd) s
    let keeps (t : State) : Prop := ∀ i, i < a.toNat ∨ a.toNat + n ≤ i → memByte t.mem i = memByte s.mem i
    let writes (t : State) (v : Nat) : Prop := memBytes t.mem a.toNat n = natToBytes n v ∧ keeps t
    let quiet : Prop := s.memOk = true ∧ Quiet s p a.toNat n ∧ NoRelayout s p ∧ ∀ y, partAt s p = some y → y.journal.enable = 0
    (s.harts[hart.toFin].released = true → 0 < n →
      (quiet →
        (∃ t, access 0 = .next t ∧ t.mem = s.mem ∧ (rd ≠ 0 → xAt t rd = loadValue n (op == 0) old) ∧ ∀ r, r ≠ rd ∨ r = 0 → xAt t r = xAt s r)
        ∧ (∃ t, access 1 = .next t ∧ writes t value.toNat ∧ ∀ r, xAt t r = xAt s r)
        ∧ (a.toNat % n = 0 →
            (∀ o, atomicOfCode op.toNat = some o → o.isFp = false → attr = 0 ∨ 4 ≤ n →
              ∃ t, access 2 = .next t ∧ writes t (atomicResult o (8 * n) old (value.toNat % 2 ^ (8 * n)) ((xAt s rd).toNat % 2 ^ (8 * n)))
                ∧ (rd ≠ 0 → xAt t rd = loadValue n true old))
            ∧ (attr = 0 → op = 0 → ∃ t, access 3 = .next t ∧ t.mem = s.mem ∧ (rd ≠ 0 → xAt t rd = loadValue n true old)
                ∧ (t.harts[h]?).bind (·.reservation) = some (lidOf a.toNat))
            ∧ (attr = 0 → op ≠ 0 → ∃ t, access 3 = .next t ∧ (t.harts[h]?).bind (·.reservation) = none
                ∧ (if (s.harts[h]?).bind (·.reservation) = some (lidOf a.toNat)
                    then writes t value.toNat ∧ (rd ≠ 0 → xAt t rd = 0) else t.mem = s.mem ∧ (rd ≠ 0 → xAt t rd = 1)))))
      ∧ (a.toNat + n ≤ usableBytes s →
          (a.toNat % n ≠ 0 → access 2 = .next (hartFault s h 7 a.toNat))
          ∧ (ownsT1 s p a.toNat n = false → access 0 = .next (hartFault (isoViolation s p) h 5 a.toNat)
              ∧ access 1 = .next (hartFault (isoViolation s p) h 7 a.toNat)))
      ∧ (decodeAddr s a.toNat = .unmapped → access 0 = .next (hartFault s h 5 a.toNat) ∧ access 1 = .next (hartFault s h 7 a.toNat))
      ∧ ((xAt s rs1).toNat % 2 ^ 56 = a.toNat →
          let x := xAt s rs2
          (a.toNat % 4 ≠ 0 → exec (.lxsAmofaddS hart attr rd rs1 rs2) s = .next (hartFault s h 7 a.toNat)
            ∧ exec (.lxsAmofaddBf16x2 hart attr rd rs1 rs2) s = .next (hartFault s h 7 a.toNat))
          ∧ (a.toNat % 4 = 0 → n = 4 → quiet →
              (∃ t, exec (.lxsAmofaddS hart attr rd rs1 rs2) s = .next t
                ∧ writes t (addF32 (BitVec.ofNat 32 old) (x.setWidth 32)).toNat ∧ (rd ≠ 0 → xAt t rd = sextWord old))
              ∧ (∃ t, exec (.lxsAmofaddBf16x2 hart attr rd rs1 rs2) s = .next t
                ∧ writes t (addBf16 (old % 65536) (x.toNat % 65536) + addBf16 (old / 65536) (x.toNat / 65536 % 65536) * 65536)
                ∧ (rd ≠ 0 → xAt t rd = sextWord old)))))
    ∧ (s.harts[hart.toFin].released = false → access 0 = .next s ∧ access 1 = .next s ∧ access 2 = .next s ∧ access 3 = .next s)
    ∧ (∀ mhz : BitVec 16, s.harts[hart.toFin].released = true → ∃ t, exec (.cppcRequest hart mhz) s = .next t
        ∧ (t.harts[h]?).map (·.desiredMhz) = some (max 800 (min 3200 (mhz.toNat / 100 * 100)))
        ∧ ∀ k, k < 4 → ∀ m, clusterMhz t k = some m → (t.domains[7 + k]?).map (·.mhz) = some m ∧ 800 ≤ m)
    ∧ exec (.iommuInvalWrite hart value) s = .next (modServer s p (fun r => { r with invals := r.invals ++
        [{ pasid := value.toNat % 2 ^ 20, all := value.getLsbD 20, region := value.getLsbD 21, va := value.toNat / 2 ^ 22 }] }))
    ∧ (∀ y, partAt s p = some y → ∃ t, exec (.iommuSyncRead hart) s = .next t
        ∧ (partAt t p).map (fun z => (z.server.invals, z.server.pdtpActive)) = some ([], y.server.pdtp))
    ∧ (let restarted (t : State) : Prop := ∀ q x, queueAt s q = some x →
          (x.partition = p → x.isLocal = true → queueAt t q = none) ∧ (x.partition ≠ p ∨ x.isLocal = false → (queueAt t q).isSome = true)
      mapWf s.queues = true → s.harts[hart.toFin].released = true →
        (∃ t, exec (.sbiSrstReboot hart) s = .next t ∧ restarted t) ∧ (∃ t, exec (.serverCoreInternalError hart) s = .next t ∧ restarted t))
    ∧ (∀ (pp : BitVec 4) (y : Partition), partAt s pp.toNat = some y →
        ((∃ k, hartOwner s k = pp.toNat ∧ (s.harts[k]?).map (·.released) = some true) → exec (.bootStatusMirror pp value) s =
          .next (modServer s pp.toNat (fun r => { r with boot := { r.boot with status := value } })))
        ∧ (y.server.boot.step = 5 → y.server.boot.status ≠ cp32 2 → 250000000 ≤ aonSince s y.server.boot.since →
            (componentAt s 2).trying = false → ∃ t, exec (.serverBootTimeout pp) s = .next t
              ∧ (partAt t pp.toNat).map (·.server.boot.status) = some (cp32 0xFFFF)
              ∧ ∀ k, hartOwner s k = pp.toNat → ∀ z, t.harts[k]? = some z → z.released = false)
        ∧ (y.server.boot.status = cp32 2 → exec (.serverBootTimeout pp) s = .next s))
    ∧ (∀ (fn : BitVec 4) (off : BitVec 36) (hop : BitVec 2) (k : BitVec 5) (x cmp : BitVec 128) (f : Func) (m : Nat) (o : AtomicOp),
        linkServes s = true → funcAt s fn.toNat = some f → windowHit s f off.toNat = .memory m →
        hop = 0 ∧ o = .add ∨ hop = 1 ∧ o = .swap ∨ hop = 2 ∧ o = .cas →
          let w := k.toNat
          let before := fieldAt (memBytes s.mem m w) 0 w
          (w ≠ 4 ∧ w ≠ 8 ∨ m % w ≠ 0 → exec (.hostAtomicop fn off hop k x cmp) s = .next (complete s 1 []))
          ∧ (w = 4 ∨ w = 8 → m % w = 0 → s.memOk = true → slotArrayAt f m = none → Quiet s fn.toNat m w → NoRelayout s fn.toNat →
              (∀ y, partAt s fn.toNat = some y → y.journal.enable = 0) →
                ∃ t, exec (.hostAtomicop fn off hop k x cmp) s = .next t
                  ∧ memBytes t.mem m w = natToBytes w (atomicResult o (8 * w) before (x.toNat % 2 ^ (8 * w)) (cmp.toNat % 2 ^ (8 * w)))
                  ∧ t.hostOut = s.hostOut ++ [.completion 0 (natToBytes w before)]
                  ∧ ∀ i, i < m ∨ m + w ≤ i → memByte t.mem i = memByte s.mem i))

/-- BAR2 and placement (R367, R370, R383 to R387). A request to unmapped granules is counted and, for a read, unsupported; mapped memory is
read and written in place; an ownership word changes only by Table 12-6. A placement write of a permitted requester lands in an open
region below its limit; the first one beyond the limit withdraws the region and starts its log; a closed region drops it. A withdrawn
region closes when its writes have run out, and one that filled up may be reopened. -/
def Obligations.WindowsAndPlacement : Prop :=
  ∀ (s : State) (fn : BitVec 4) (req : BitVec 16) (off : BitVec 36) (f : Func),
    let n := fn.toNat
    let hit := windowHit s f off.toNat
    let unmapped := countUnmapped s n
    linkServes s = true → funcAt s n = some f →
      (∀ len : BitVec 13, len ≠ 0 →
        (hit = .unmapped → exec (.bar2Read fn req off len) s = .next (complete unmapped 1 []))
        ∧ (∀ a, hit = .memory a → Quiet s n a len.toNat →
            exec (.bar2Read fn req off len) s = .next (complete s 0 (memBytes s.mem a len.toNat)))
        ∧ (∀ r o, hit = .placement r o → exec (.bar2Read fn req off len) s = .next (complete (dropPlacement s n r false) 1 [])))
      ∧ (∀ bytes : List Byte, bytes ≠ [] →
          (hit = .unmapped → exec (.bar2Write fn req off bytes) s = .next unmapped)
          ∧ (∀ a, hit = .memory a → s.memOk = true → NoRelayout s n → Quiet s n a bytes.length →
              (f.slotSets.any (fun e => decide (e.2.array < a + bytes.length ∧ a < e.2.array + 8 * e.2.slots)) = false →
                ∃ t, exec (.bar2Write fn req off bytes) s = .next t ∧ memBytes t.mem a bytes.length = bytes
                  ∧ ∀ i, i < a ∨ a + bytes.length ≤ i → memByte t.mem i = memByte s.mem i)
              ∧ (a % 8 = 0 → bytes.length = 8 → slotArrayAt f a = some a → ∃ t, exec (.bar2Write fn req off bytes) s = .next t
                  ∧ (∀ new cur, cp32At bytes 0 = some new → cp32At (memBytes s.mem a 8) 0 = some cur →
                      if new = cur ∨ (cur % 256 = 1 ∧ (new % 256 = 2 ∨ new % 256 = 3) ∧ new / 256 % 256 = 0 ∧ new / 65536 = cur / 65536)
                        then memBytes t.mem a 8 = bytes
                        else t.mem = s.mem ∧ (funcAt t n).map (·.ownRejected) = some (f.ownRejected + 1))
                  ∧ (cp32At bytes 0 = none → t.mem = s.mem ∧ (funcAt t n).map (·.ownRejected) = some (f.ownRejected + 1)))))
      ∧ (∀ (stream : BitVec 3) (bytes : List Byte) (i o : Nat) (r : Placement), hit = .placement i o → regionAt s n i = some r → s.memOk = true →
          let place := exec (.placementWrite fn off req stream 0 bytes) s
          let ok := r.requesters.contains req.toNat = true ∧ (r.stream = 0xFF ∨ (r.stream = stream.toNat ∧ streamSecure s r.stream = true))
          let entry (seq : Nat) := pad64 (natToBytes 8 o ++ natToBytes 4 bytes.length ++ natToBytes 4 seq ++ bytes)
          let logs (seq : Nat) (st : PlaceState) (cause : PlaceCause) : Prop := ∃ t, place = .next t
            ∧ memBytes t.mem (r.log + r.logUsed) (entry seq).length = entry seq
            ∧ (∀ a, a < r.log + r.logUsed ∨ r.log + r.logUsed + (entry seq).length ≤ a → memByte t.mem a = memByte s.mem a)
            ∧ (regionAt t n i).map (fun x => (x.state, x.cause, x.logUsed)) = some (st, cause, r.logUsed + (entry seq).length)
          (¬ ok → place = .next (dropPlacement s n i true))
          ∧ (ok → r.state = .open → o + bytes.length ≤ r.limit → ∃ t, place = .next t
              ∧ memBytes t.mem (r.base + o) bytes.length = bytes
              ∧ (∀ a, a < r.base + o ∨ r.base + o + bytes.length ≤ a → memByte t.mem a = memByte s.mem a)
              ∧ (regionAt t n i).map (fun x => (x.state, x.placed)) = some (.open, bump r.placed bytes.length))
          ∧ (ok → r.state = .open → r.limit < o + bytes.length → r.logUsed + (entry 0).length ≤ r.logBytes → logs 0 .runout .full)
          ∧ (ok → r.state = .runout → r.logUsed + (entry r.seq).length ≤ r.logBytes → logs r.seq .runout r.cause)
          ∧ (ok → r.state = .runout → r.logBytes < r.logUsed + (entry r.seq).length → r.cause.frees = false →
              ∃ t, place = .next t ∧ t.mem = s.mem ∧ (regionAt t n i).map (·.state) = some .closed)
          ∧ (ok → r.state = .closed → place = .next (dropPlacement s n i true))
          ∧ (∀ kind : BitVec 2, kind = 1 ∨ kind = 2 →
              exec (.placementWrite fn off req stream kind bytes) s = .next (complete (dropPlacement s n i false) 1 [])))
      ∧ (∀ (region : BitVec 6) (r : Placement), regionAt s n region.toNat = some r →
          (r.state = .runout → r.cause ≠ .full → 250000 ≤ aonSince s r.since →
            ∃ t, exec (.runoutCloseTimer fn region) s = .next t
              ∧ (r.cause.frees = false → (regionAt t n region.toNat).map (·.state) = some .closed)
              ∧ (r.cause.frees = true → mapWf f.regions = true → regionAt t n region.toNat = none))
          ∧ (r.state ≠ .runout ∨ r.cause = .full → exec (.runoutCloseTimer fn region) s = .next s)
          ∧ (r.cause = .full → r.state = .runout ∨ r.state = .closed → ∃ t, exec (.prCtlReopen fn region) s = .next t ∧ t.mem = s.mem
              ∧ regionAt t n region.toNat = some { r with state := .open, cause := .none, logUsed := 0, seq := 0 })
          ∧ (r.cause ≠ .full ∨ (r.state ≠ .runout ∧ r.state ≠ .closed) → ∃ t, exec (.prCtlReopen fn region) s = .next t
              ∧ regionAt t n region.toNat = some r ∧ t.mem = s.mem))

/-- Mailboxes (R235, R396 to R398). The rings alternate; a valid header puts its request into service, a wrong one is answered with
INVALID, one that is not written yet is read again, and the ninth failure parks the mailbox with DOORBELL_AHEAD. A long request whose
work is over is answered. An answer writes the entry at the response tail, moves the tail on and takes the request out. -/
def Obligations.MailboxFraming : Prop :=
  ∀ (s : State) (fn : BitVec 4) (f : Func),
    let n := fn.toNat
    let m := f.host
    let e := reqEntry s n f false m.next.toNat
    let cmd := fieldAt e 8 2
    let len := fieldAt e 0x0A 2
    let r : MbxReq := { isLocal := false, pos := m.next.toNat, cmd := cmd, tag := fieldAt e 0x0C 4, payload := sliceBytes e 0x10 (min len 240) }
    funcAt s n = some f → inService s = true → f.removal = false → f.inService = none → m.next ≠ m.tail → m.parked = false →
      rspRoom s n f false = true →
        let good := mbxVerdict m.next.toNat e = some (f.nextVersion, true) ∧ 1 ≤ cmd ∧ cmd ≤ 0x1F ∧ len ≤ 240
          ∧ (f.nextVersion = 1 → mbxVersion1 cmd = true)
        let served (o : Out) : Prop := ∃ t, o = .next t ∧ t.mem = s.mem ∧ funcAt t n = some { f with
          host := { m with next := m.next + 1, badReads := 0 }, lastLocal := false, version := f.nextVersion, inService := some r }
        let refused (o : Out) : Prop := ∃ t g, o = .next t ∧ funcAt t n = some g ∧ g.inService = none ∧ g.host.next = m.next + 1
          ∧ g.host.rspTail = m.rspTail + 1
          ∧ mapGet g.rspRing (m.rspTail.toNat % 64) = some (mbxEntry (r.pos % 65536 + stInvalid * 65536) cmd r.tag [])
        (m.badReads = 0 → f.lastLocal = true →
          (good → served (exec (.mailboxRequestServe fn) s))
          ∧ (∀ v, mbxVerdict m.next.toNat e = some v → ¬ good → refused (exec (.mailboxRequestServe fn) s))
          ∧ (mbxVerdict m.next.toNat e = none → ∃ t, exec (.mailboxRequestServe fn) s = .next t ∧ t.mem = s.mem
              ∧ funcAt t n = some { f with host := { m with badReads := 1 } }))
        ∧ (m.badReads ≠ 0 →
            (good → served (exec (.mailboxReread fn) s))
            ∧ (∀ v, mbxVerdict m.next.toNat e = some v → ¬ good → refused (exec (.mailboxReread fn) s))
            ∧ (mbxVerdict m.next.toNat e = none → m.badReads ≠ 8 → ∃ t, exec (.mailboxReread fn) s = .next t ∧ t.mem = s.mem
                ∧ funcAt t n = some { f with host := { m with badReads := m.badReads + 1 } })
            ∧ (mbxVerdict m.next.toNat e = none → m.badReads = 8 → ∃ t g, exec (.mailboxReread fn) s = .next t ∧ funcAt t n = some g
                ∧ g.host.parked = true ∧ g.host.badReads = 0 ∧ g.host.next = m.next ∧ g.host.rspTail = m.rspTail + 1
                ∧ mapGet g.rspRing (m.rspTail.toNat % 64) = some (mbxEntry (m.next.toNat % 65536 + stDoorbellAhead * 65536) cmd r.tag [])))
        ∧ (∀ (pos : BitVec 32) (l : MbxReq), f.long.find? (fun y => y.pos == pos.toNat) = some l → rspRoom s n f l.isLocal = true →
            (∀ t st b, longDone s n l = .done t st b → exec (.mailboxLComplete fn pos) s = .next (answer t n l st b))
            ∧ (∀ t, longDone s n l = .wait t → exec (.mailboxLComplete fn pos) s = .next t))
        ∧ ∀ (q : MbxReq) (st : Nat) (b : List Byte), ∃ g, funcAt (answer s n q st b) n = some g
            ∧ (q ∉ f.long → g.long = f.long) ∧ q ∉ g.long ∧ g.inService = none
            ∧ (q.isLocal = false → g.host = { m with rspTail := m.rspTail + 1 }
                ∧ mapGet g.rspRing (m.rspTail.toNat % 64) = some (mbxEntry (q.pos % 65536 + st * 65536) q.cmd q.tag b))

/-- What turns a mailbox request away before its own checks (R397, R401, R416, R468, R481): ROM recovery and Decaf mode, a disabled
function, a request of PF0 alone from another function, and the two BUSY cases. It is answered with the status, and nothing else of it
happens. -/
def Obligations.MailboxTurnsAway : Prop :=
  ∀ (s : State) (fn : BitVec 4) (f : Func) (r : MbxReq),
    let n := fn.toNat
    funcAt s n = some f → f.inService = some r → rspRoom s n f r.isLocal = true →
      ∀ i : Instr, (i = .partitionCreate fn ∧ r.cmd = 0x03 ∨ i = .partitionDestroy fn ∧ r.cmd = 0x04 ∨ i = .queueCreate fn ∧ r.cmd = 0x05
          ∨ i = .regionRegister fn ∧ r.cmd = 0x07 ∨ i = .jobConfig fn ∧ r.cmd = 0x0A ∨ i = .linkConfig fn ∧ r.cmd = 0x15
          ∨ i = .relayoutStart fn ∧ r.cmd = 0x0E ∨ i = .powerProfile fn ∧ r.cmd = 0x18 ∨ i = .fwStage fn ∧ r.cmd = 0x1C) →
        let turned (st : Nat) : Prop := exec i s = .next (answer s n r st [])
        let plain := s.sec.romRecovery = false ∧ s.fault.decaf = none
        (s.sec.romRecovery = true → mbxRecovery r = false → turned stAbortedDecaf)
        ∧ (s.sec.romRecovery = false → s.fault.decaf.isSome = true → turned stAbortedDecaf)
        ∧ (plain → f.disabled = true → turned stAbortedDisabled)
        ∧ (plain → f.disabled = false → mbxPf0Only r.cmd = true → n ≠ 0 → turned stNotPermitted)
        ∧ (plain → f.disabled = false → (mbxPf0Only r.cmd = true → n = 0) → mbxLong r.cmd = true → 8 ≤ f.long.length → turned stBusy)
        ∧ (plain → f.disabled = false → (mbxPf0Only r.cmd = true → n = 0) →
            (∃ l ∈ f.long, ∃ o ∈ mbxObjects l, o ∈ mbxObjects r) → turned stBusy)

/-- GET_INFO, GET_CAPS, partitions and queue contexts (R183, R399, R400, R403, Tables 13-3 and 13-6). A partition takes its
resources from partition 0 and gives them back, scrubbed; a queue context gets the lowest free identifier, a share and tiles that no other
context of the partition has, and is gone after its destruction. -/
def Obligations.PartitionAndQueueRequests : Prop :=
  ∀ (s : State) (fn : BitVec 4) (f : Func) (r : MbxReq),
    let n := fn.toNat
    let b := r.payload
    let item := fieldAt b 0 2
    let index := fieldAt b 2 2
    let who := if n = 0 then index else n
    let ans (o : Out) (t : State) (st : Nat) (p : List Byte) : Prop := o = .next (answer t n r st p)
    (Serving s n f r 0x01 →
      (item = 0 → ans (exec (.getInfo fn) s) s stOk (moduleInfo s f))
      ∧ (∀ x, partAt s who = some x → (item = 1 → ans (exec (.getInfo fn) s) s stOk (partitionBytes who x))
          ∧ (item = 3 → ans (exec (.getInfo fn) s) s stOk (natToBytes 8 x.server.boot.status.toNat)))
      ∧ (∀ x, item = 2 → queueAt s index = some x → ans (exec (.getInfo fn) s) s (if x.partition = n then stOk else stNotPermitted)
          (if x.partition = n then accountingBytes x else []))
      ∧ (4 ≤ item → ans (exec (.getInfo fn) s) s stInvalid []))
    ∧ (Serving s n f r 0x02 →
        (fieldAt b 0 1 = 0 → ans (exec (.getCaps fn) s) s stOk (capsBytes f.version))
        ∧ (∀ x, partAt s n = some x → fieldAt b 0 1 = 1 →
            (natBit x.modes 0 = true → ans (exec (.getCapsSwitchV1 fn) s) (modFunc s n (fun g => { g with nextVersion := 1 })) stOk (capsBytes 1))
            ∧ (natBit x.modes 0 = false → ans (exec (.getCapsSwitchV1 fn) s) s stNotPermitted (capsBytes 2)))
        ∧ (fieldAt b 0 1 = 2 → ans (exec (.getCapsSwitchV2 fn) s) (modFunc s n (fun g => { g with nextVersion := 2 })) stOk (capsBytes 2)))
    ∧ (∀ z, Serving s n f r 0x03 → partAt s 0 = some z →
        let c := createReqOf f.version b
        (createRanges c = false ∨ (partAt s c.p).isSome = true ∨ createHeld s z c = false → ans (exec (.partitionCreate fn) s) s stInvalid [])
        ∧ (createRanges c = true → partAt s c.p = none → createHeld s z c = true → createBusy s z c = false →
            ∃ t y w, ans (exec (.partitionCreate fn) s) t stOk (natToBytes 1 c.p)
              ∧ partAt t c.p = some y ∧ y.groups = c.groups ∧ y.devices = c.devices ∧ y.clusters = c.clusters ∧ y.migQuota = c.mig
              ∧ y.msixQuota = c.msix ∧ y.flowQuota = c.flow ∧ y.videoQuota = c.video ∧ y.modes = c.modes ∧ y.job = none
              ∧ partAt t 0 = some w ∧ w.groups = (z.groups &&& ~~~c.groups) ∧ w.devices = (z.devices &&& ~~~c.devices)
              ∧ w.clusters = (z.clusters &&& ~~~c.clusters) ∧ w.migQuota = z.migQuota - c.mig ∧ w.flowQuota = z.flowQuota - c.flow
              ∧ funcAt t c.p = some Func.reset))
    ∧ (let p := fieldAt b 0 1
      Serving s n f r 0x04 →
        (p = 0 ∨ 15 < p ∨ partAt s p = none → ans (exec (.partitionDestroy fn) s) s stInvalid [])
        ∧ (0 < p → p ≤ 15 → (partAt s p).isSome = true → ∃ t g, exec (.partitionDestroy fn) s = .next t
            ∧ (∀ q x, queueAt t q = some x → x.partition ≠ p) ∧ (∀ h, funcAt t p = some h → h.disabled = true)
            ∧ funcAt t n = some g ∧ g.inService = none ∧ r ∈ g.long))
    ∧ (∀ (p : Nat) (x z : Partition), p ≠ 0 → s.memOk = true → mapWf s.partitions = true → mapWf s.funcs = true → partAt s p = some x →
        partAt s 0 = some z →
          let t := finishDestroy s p
          partAt t p = none ∧ funcAt t p = none
          ∧ (partAt t 0).map (fun w => (w.groups, w.devices, w.clusters, w.migQuota, w.flowQuota))
              = some (z.groups ||| x.groups, z.devices ||| x.devices, z.clusters ||| x.clusters, z.migQuota + x.migQuota, z.flowQuota + x.flowQuota)
          ∧ ∀ a, memByte t.mem a = if memOwned s p a then 0 else memByte s.mem a)
    ∧ (let scratch := fieldAt b 4 4
      let log2 := fieldAt b 1 1
      let desc := fieldAt b 8 8
      let cmpl := fieldAt b 0x10 8
      let pasid := fieldAt b 0x18 4
      let isLocal := decide (fieldAt b 0 1 = 1)
      Serving s n f r 0x05 →
        (1 < fieldAt b 0 1 ∨ log2 < 6 ∨ 16 < log2 ∨ 4 < fieldAt b 2 1 ∨ fieldAt b 3 1 < 1 ∨ 16 < fieldAt b 3 1 ∨ scratch % 16384 ≠ 0 →
          ans (exec (.queueCreate fn) s) s stInvalid [])
        ∧ (fieldAt b 0 1 ≤ 1 → 6 ≤ log2 → log2 ≤ 16 → fieldAt b 2 1 ≤ 4 → 1 ≤ fieldAt b 3 1 → fieldAt b 3 1 ≤ 16 → scratch % 16384 = 0 →
            scratch ≤ 0x30000 → pasid = 0 → vectorOk s n isLocal (fieldAt b 0x1C 2) = true →
            ringStatus s n isLocal desc (64 * 2 ^ log2) = none → ringStatus s n isLocal cmpl (32 * 2 ^ log2) = none →
            (scratch = 0 ∨ (freeShare s n scratch).isSome = true) → (freeTiles s n (fieldAt b 2 1)).isSome = true →
            mapFree s.queues 0 4096 < 4096 →
              ∃ q x, ans (exec (.queueCreate fn) s) { s with queues := mapSet s.queues q x } stOk
                  (natToBytes 2 q ++ zeros 2 ++ natToBytes 4 x.scratchBase ++ natToBytes 1 x.tiles)
                ∧ q < 4096 ∧ queueAt s q = none ∧ x.partition = n ∧ x.isLocal = isLocal ∧ x.log2 = log2 ∧ x.weight = fieldAt b 3 1
                ∧ x.scratchSize = scratch ∧ x.descRing = desc ∧ x.cmplRing = cmpl ∧ x.pasid = none ∧ x.vector = fieldAt b 0x1C 2
                ∧ x.state = .running ∧ x.tail = 0 ∧ x.head = 0 ∧ x.records = 0 ∧ x.cmds = []
                ∧ (scratch ≠ 0 → freeShare s n scratch = some x.scratchBase) ∧ freeTiles s n (fieldAt b 2 1) = some x.tiles))
    ∧ (∀ k base, freeShare s n k = some base → base % 16384 = 0 ∧ base + k ≤ 0x30000
        ∧ ∀ e ∈ s.queues, e.2.partition = n → e.2.scratchSize ≠ 0 → base + k ≤ e.2.scratchBase ∨ e.2.scratchBase + e.2.scratchSize ≤ base)
    ∧ (∀ k m, freeTiles s n k = some m → m < 16 ∧ ∀ e ∈ s.queues, e.2.partition = n → m &&& e.2.tiles % 16 = 0)
    ∧ (let q := fieldAt b 0 2
      Serving s n f r 0x06 →
        (queueAt s q = none → ans (exec (.queueDestroy fn) s) s stInvalid [])
        ∧ (∀ x, queueAt s q = some x → x.partition ≠ n → ans (exec (.queueDestroy fn) s) s stNotPermitted [])
        ∧ (∀ x, queueAt s q = some x → x.partition = n → mapWf s.queues = true →
            ∃ t p, ans (exec (.queueDestroy fn) s) t stOk p ∧ queueAt t q = none))

/-- REGION_REGISTER, REGION_UNREGISTER, WINDOW_MAP (R166, R168, R169, R177, R367, R369, R370, R383, Table 13-4): a registration, an object or
a region gets the lowest free index; granules are bound one by one and unbound again; the words of a new slot set start as HOST,
generation 0. -/
def Obligations.RegionAndWindowRequests : Prop :=
  ∀ (s : State) (fn : BitVec 4) (f : Func) (r : MbxReq) (x : Partition),
    let n := fn.toNat
    let b := r.payload
    let ans (o : Out) (t : State) (st : Nat) (p : List Byte) : Prop := o = .next (answer t n r st p)
    let first := fieldAt b 4 4
    let cnt := fieldAt b 8 4
    partAt s n = some x →
      (Serving s n f r 0x07 →
        let reg (t : State) (st : Nat) (p : List Byte) : Prop := ans (exec (.regionRegister fn) s) t st p
        let base := fieldAt b 8 8
        let bytes := fieldAt b 0x10 8
        let bus := fieldAt b 0x18 8
        let hi := mapFree x.hostRegs 0 1024
        (fieldAt b 0 1 = 0 → base % 65536 = 0 → bytes % 65536 = 0 → 0 < bytes → bytes ≤ 2 ^ 44 → inSlice n base bytes = true → bus + bytes ≤ 2 ^ 64 →
          x.hostRegs.any (fun e => rangesCross base bytes e.2.base e.2.bytes || rangesCross bus bytes e.2.bus e.2.bytes) = false →
          hi < 1024 → (s.partitions.map (fun e => e.2.hostRegs.length)).sum < 4096 →
            reg (modPart s n (fun y => { y with hostRegs := mapSet y.hostRegs hi { base := base, bytes := bytes, bus := bus } })) stOk (natToBytes 2 hi))
        ∧ (fieldAt b 0 1 = 0 → base % 65536 ≠ 0 ∨ bytes % 65536 ≠ 0 ∨ bytes = 0 ∨ inSlice n base bytes = false → reg s stInvalid [])
        ∧ (4 ≤ fieldAt b 0 1 → reg s stInvalid [])
        ∧ (let entries := fieldAt b 0x28 4
          let frames := (List.range entries).map (fun i => fieldAt (memBytes s.mem (fieldAt b 0x20 8) (4 * entries)) (4 * i) 4)
          let o : TieredObject :=
            { base := base, pages := fieldAt b 0x10 4, backing := fieldAt b 0x14 2, mapAddr := bus, pool := frames, free := frames,
              fixed := false, chans := [], threshold := fieldAt b 0x17 1, resident := [], counts := [], pinned := [], closing := false }
          fieldAt b 0 1 = 1 → 1 ≤ entries → entries ≤ 2 ^ 24 → fieldAt b 0x16 1 = 0 → fieldAt b 0x2D 1 = 0 → fieldAt b 0x2C 1 ≤ 128 →
            Undisturbed s n → Quiet s n (fieldAt b 0x20 8) (4 * entries) → objectOk s n x o o.backing (fieldAt b 0x2C 1) = true →
            bus < 0x20000000000 → ownsT1 s n bus (8 * o.pages) = true → mapFree x.objects 0 1024 < 1024 →
              reg (restoreObject (modPart s n (fun y => { y with objects := mapSet y.objects (mapFree x.objects 0 1024) o })) o).1 stOk
                (natToBytes 2 (mapFree x.objects 0 1024)))
        ∧ (let g := fieldAt b 0x0C 4
          granulesFree f cnt g = true → (requestersOf b).isEmpty = false → lpddrStatus s n bytes (g * 2 ^ 20) = none →
            (fieldAt b 0 1 = 2 → bus % 64 = 0 → fieldAt b 0x20 4 % 65536 = 0 → 65536 ≤ fieldAt b 0x20 4 → fieldAt b 0x20 4 ≤ 2 ^ 26 →
              fieldAt b 0x24 2 < msixAlloc s n → (fieldAt b 0x26 1 ≤ 7 ∨ fieldAt b 0x26 1 = 0xFF) → bus + fieldAt b 0x20 4 ≤ usableBytes s →
              ownsT1 s n bus (fieldAt b 0x20 4) = true → mapFree f.regions 0 64 < 64 →
                ∃ t i y, reg t stOk (natToBytes 2 i) ∧ regionAt s n i = none ∧ regionAt t n i = some y ∧ y.state = .open ∧ y.base = bytes
                  ∧ y.granules = g ∧ y.limit = g * 2 ^ 20 ∧ y.log = bus ∧ y.placed = 0 ∧ y.requesters = requestersOf b
                  ∧ ∀ j, j < g → ∀ h, funcAt t n = some h → mapGet h.windows (cnt + j) = some (.placement i (j * 2 ^ 20)))
            ∧ (fieldAt b 0 1 = 3 → mapFree f.readouts 0 65536 < 65536 → ∃ t i, reg t stOk (natToBytes 2 i)
                ∧ ∀ h, funcAt t n = some h → (mapGet h.readouts i).map (·.requesters) = some (requestersOf b)
                  ∧ ∀ j, j < g → mapGet h.windows (cnt + j) = some (.readout i (bytes + j * 2 ^ 20)))))
      ∧ (Serving s n f r 0x08 →
          let un (t : State) : Prop := exec (.regionUnregister fn) s = .next (accepted t n r)
          let i := fieldAt b 2 2
          (∀ g, fieldAt b 0 1 = 0 → mapGet x.hostRegs i = some g →
            (hostRegBusy s n i x g = true → ans (exec (.regionUnregister fn) s) s stBusy []) ∧ (hostRegBusy s n i x g = false → un s))
          ∧ (∀ o, fieldAt b 0 1 = 1 → mapGet x.objects i = some o → un (modObject s n i (fun y => { y with closing := true })))
          ∧ (∀ g, fieldAt b 0 1 = 2 → mapGet f.regions i = some g → un (if g.cause.frees then s else withdrawRegion s n i .unregister))
          ∧ (fieldAt b 0 1 = 3 → mapHas f.readouts i = true → un s)
          ∧ (fieldAt b 0 1 = 0 → mapGet x.hostRegs i = none → ans (exec (.regionUnregister fn) s) s stInvalid [])
          ∧ (4 ≤ fieldAt b 0 1 → ans (exec (.regionUnregister fn) s) s stInvalid []))
      ∧ (Serving s n f r 0x09 →
          let arg := fieldAt b 0x10 8
          let bound (t : State) (g : Nat → Granule) : Prop := ∀ h, funcAt t n = some h → ∀ j, mapGet h.windows j =
            if first ≤ j ∧ j < first + cnt then some (g (j - first)) else mapGet f.windows j
          let array := fieldAt b 0x20 8
          let slots := fieldAt b 0x18 4
          (∀ g, fieldAt b 0 1 = 0 → granulesFree f first cnt = true → mapTarget s n f (fieldAt b 0x0C 1) arg cnt = .ok g →
            (slots = 0 → ∃ t v, ans (exec (.windowMapMap fn) s) t stOk (natToBytes 2 v) ∧ bound t g ∧ t.mem = s.mem)
            ∧ (s.memOk = true → 1 ≤ slots → slots ≤ 65536 → 0 < fieldAt b 0x1C 4 → slots * (fieldAt b 0x1C 4 * 4096) ≤ cnt * 2 ^ 20 → array % 8 = 0 →
                Quiet s n array (8 * slots) → ∃ t i, ans (exec (.windowMapMap fn) s) t stOk (natToBytes 2 i) ∧ bound t g
                  ∧ (∀ h, funcAt t n = some h → (mapGet h.slotSets i).map (fun y => (y.array, y.slots, y.removed)) = some (array, slots, false))
                  ∧ ∀ k, k < slots → memBytes t.mem (array + 8 * k) 8 = cp32Bytes (ownerWord 1 0)))
          ∧ (∀ st, fieldAt b 0 1 = 0 → granulesFree f first cnt = true → mapTarget s n f (fieldAt b 0x0C 1) arg cnt = .error st →
              ans (exec (.windowMapMap fn) s) s st [])
          ∧ (fieldAt b 0 1 = 0 → granulesFree f first cnt = false → ans (exec (.windowMapMap fn) s) s stInvalid [])
          ∧ (fieldAt b 0 1 = 1 → 0 < cnt → (first + cnt) * 2 ^ 20 ≤ f.bar2Size → ∃ t v, ans (exec (.windowMapUnmap fn) s) t stOk (natToBytes 2 v)
              ∧ ∀ h, funcAt t n = some h → ∀ j, (first ≤ j → j < first + cnt → mapGet h.windows j = none)
                ∧ (j < first ∨ first + cnt ≤ j → mapGet h.windows j = mapGet f.windows j))
          ∧ (let i := fieldAt b 0x28 2
            ∀ y, mapGet f.slotSets i = some y →
              (fieldAt b 0 1 = 2 → ans (exec (.windowMapRemoveSet fn) s) (modFunc (retireSet s y) n (fun g => { g with
                slotSets := mapModify g.slotSets i (fun z => { z with removed := true }) })) stOk (natToBytes 2 i))
              ∧ (fieldAt b 0 1 = 3 → ans (exec (.windowMapReactivateSet fn) s) (modFunc (reviveSet s y) n (fun g => { g with
                slotSets := mapModify g.slotSets i (fun z => { z with removed := false }) })) stOk (natToBytes 2 i))))

/-- The requests of a job (R237, R258, R266, R292, R299, R325, R342, R401, R471, R474). JOB_CONFIG is BUSY while a step is open and
otherwise leaves a job of its fields without step, mappings or tables; a mapping, a policy, a table, a drip stream, a telemetry ring, a
journal and a peer table replace what was there; a re-layout starts with every region OLD, stops and turns back. -/
def Obligations.JobRequests : Prop :=
  ∀ (s : State) (fn : BitVec 4) (f : Func) (r : MbxReq) (x : Partition),
    let n := fn.toNat
    let b := r.payload
    let a0 := fieldAt b 0 8
    let ans (o : Out) (t : State) (st : Nat) : Prop := o = .next (answer t n r st [])
    let t1 (a : Nat) := a < 0x20000000000
    partAt s n = some x →
      (Serving s n f r 0x0A →
        (∀ j, jobAt s n = some j → jobBusy j = true → ans (exec (.jobConfig fn) s) s stBusy)
        ∧ (∀ t, doJobConfig s n r = .done t stOk [] → ans (exec (.jobConfig fn) s) t stOk
            ∧ ∃ j, jobAt t n = some j ∧ j.seed = BitVec.ofNat 64 a0 ∧ j.firstStep = fieldAt b 8 8 ∧ j.layers = fieldAt b 0x1C 2
              ∧ j.netId = fieldAt b 0x1E 2 ∧ j.commitRecord = fieldAt b 0x40 8 ∧ j.step = none ∧ j.eval = none ∧ j.halted = 0 ∧ j.tables = []
              ∧ j.mappings = [] ∧ j.policy = Policy.default ∧ j.collSeq = [] ∧ j.drip = none)
        ∧ (∀ t st p, doJobConfig s n r = .done t st p → exec (.jobConfig fn) s = .next (answer t n r st p)))
      ∧ (∀ j, jobAt s n = some j → Undisturbed s n →
          (let i := fieldAt b 0 1
            let a := fieldAt b 8 8
            let len := fieldAt (memBytes s.mem a 64) 0 4
            Serving s n f r 0x0B →
              (7 < i → ans (exec (.mappingLoad fn) s) s stInvalid)
              ∧ (i ≤ 7 → mappingBound j i = true → ans (exec (.mappingLoad fn) s) s stBusy)
              ∧ (i ≤ 7 → mappingBound j i = false → Quiet s n a 64 → 64 ≤ len → len ≤ 1048576 → len % 4 = 0 → Quiet s n a len →
                  (∀ m, mappingOfBytes s n (memBytes s.mem a len) = some m →
                    ans (exec (.mappingLoad fn) s) (modJob s n (fun y => { y with mappings := mapSet y.mappings i m })) stOk)
                  ∧ (mappingOfBytes s n (memBytes s.mem a len) = none → ans (exec (.mappingLoad fn) s) s stInvalid)))
          ∧ (let k := fieldAt b 0x10 1
            let wait := fieldAt b 0x0C 4
            Serving s n f r 0x0C →
              (fieldAt b 0 1 ≤ 1 → fieldAt b 1 1 ≤ 2 → 25000 ≤ wait → wait ≤ 250000000 → k ≤ 16 → ∃ t,
                ans (exec (.stepPolicy fn) s) t stOk ∧ (jobAt t n).map (·.policy) = some
                  { abortOnNonfinite := decide (fieldAt b 0 1 = 1), mismatch := fieldAt b 1 1, absurd := BitVec.ofNat 32 (fieldAt b 4 4),
                    clip := BitVec.ofNat 32 (fieldAt b 8 4), timeout := wait, removed := (List.range k).map (fun i => fieldAt b (0x12 + 2 * i) 2) })
              ∧ (1 < fieldAt b 0 1 ∨ 2 < fieldAt b 1 1 ∨ wait < 25000 ∨ 250000000 < wait ∨ 16 < k → ans (exec (.stepPolicy fn) s) s stInvalid))
          ∧ (∀ t, Serving s n f r 0x0D → doTableCreate s n r = .done t stOk [] → ans (exec (.tableCreate fn) s) t stOk
              ∧ ∃ id y, tableAt s n id = none ∧ tableAt t n id = some y ∧ y.desc.tableId = id ∧ y.relayout = none ∧ y.pendingStep = none
                ∧ y.shadow = [] ∧ y.lastStamp = y.desc.stamp0)
          ∧ (let id := fieldAt b 0 2
            (∀ t, Serving s n f r 0x0E → doRelayoutStart s n r = .long t →
              exec (.relayoutStart fn) s = .next (accepted (journalMbx t n f r 0xFFFF) n r)
                ∧ ∃ y, (tableAt t n id).bind (·.relayout) = some y ∧ y.status = .running ∧ y.revert = false
                  ∧ ∀ g ∈ y.regions, g = { state := .old, copied := false, restarts := 0 })
            ∧ (∀ t y, tableAt s n id = some t → t.relayout = some y →
                (Serving s n f r 0x0E → ans (exec (.relayoutStart fn) s) s stInvalid)
                ∧ (Serving s n f r 0x0F → (y.status = .stopped → exec (.relayoutResume fn) s =
                      .next (accepted (journalMbx (setRelayout s n id { y with status := .running }) n f r 0xFFFF) n r))
                    ∧ (y.status = .running → ans (exec (.relayoutResume fn) s) s stInvalid))
                ∧ (Serving s n f r 0x10 → (fieldAt b 2 1 = 0 → ans (exec (.relayoutAbortStop fn) s)
                      (setRelayout (endRelayouts s n (· == id)) n id { y with status := .stopped, regions := settleRegions y }) stOk)
                    ∧ (fieldAt b 2 1 = 1 → y.revert = false → ans (exec (.relayoutAbortRevert fn) s)
                      (setRelayout (endRelayouts s n (· == id)) n id { y with status := .running, revert := true, regions := settleRegions y }) stOk)))
            ∧ (∀ t, tableAt s n id = some t → t.relayout = none →
                (Serving s n f r 0x0F → ans (exec (.relayoutResume fn) s) s stInvalid)
                ∧ (Serving s n f r 0x10 → fieldAt b 2 1 = 0 → ans (exec (.relayoutAbortStop fn) s) s stInvalid)
                ∧ (Serving s n f r 0x10 → fieldAt b 2 1 = 1 → ans (exec (.relayoutAbortRevert fn) s) s stInvalid)))
          ∧ (let dest := fieldAt b 0 1
            let units := fieldAt b 4 4
            let ring := fieldAt b 8 8
            Serving s n f r 0x11 →
              (j.step.isSome = true → ans (exec (.dripConfig fn) s) s stBusy)
              ∧ (j.step = none → dest = 0 → ans (exec (.dripConfig fn) s) (modJob s n (fun y => { y with drip := none })) stOk)
              ∧ (j.step = none → dest = 1 ∨ dest = 2 → (∃ k, 4 ≤ k ∧ k ≤ 20 ∧ units = 2 ^ k) → ring % 64 = 0 →
                  ringIn s n (dest == 2) ring (units * 65536) = true → reachCoherent s n (fieldAt b 0x20 8) 1 = true →
                  Quiet s n (fieldAt b 0x18 8) 1024 → ∃ t, ans (exec (.dripConfig fn) s) t stOk
                    ∧ ((jobAt t n).bind (·.drip)).map (fun d => (d.dest, d.ring, d.size, d.lag, d.tail)) = some (dest, ring, units * 65536,
                        (if fieldAt b 0x10 2 = 0 then 64 else fieldAt b 0x10 2), 0))))
      ∧ (let target := fieldAt b 0 2
        let l := fieldAt b 2 1
        let a := fieldAt b 8 8
        let ring : Option Ring := if l = 0 then none else some { base := a, size := 2 ^ l, off := 0, seq := 0 }
        Serving s n f r 0x12 → (l = 0 ∨ (16 ≤ l ∧ l ≤ 26 ∧ ringPlace s n a (2 ^ l) = true)) →
          (target = 0xFFFF → n = 0 → ans (exec (.telemetryConfig fn) s) { s with telemetry := ring } stOk)
          ∧ (target = 0xFFFF → n ≠ 0 → ans (exec (.telemetryConfig fn) s) s stNotPermitted)
          ∧ (∀ y, target ≠ 0xFFFF → queueAt s target = some y →
              (y.partition = n → ans (exec (.telemetryConfig fn) s) (modQueue s target (fun z => { z with telemetry := ring })) stOk)
              ∧ (y.partition ≠ n → ans (exec (.telemetryConfig fn) s) s stNotPermitted)))
      ∧ (let en := fieldAt b 0 1
        let dest := fieldAt b 1 1
        let ring := fieldAt b 8 8
        let size := if fieldAt b 0x10 8 = 0 then 2 ^ 32 else fieldAt b 0x10 8
        Serving s n f r 0x13 →
          (2 < en → ans (exec (.replayConfig fn) s) s stInvalid)
          ∧ (en = 0 → ∃ t, ans (exec (.replayConfig fn) s) t stOk ∧ t.mem = s.mem
              ∧ (partAt t n).map (·.journal) = some { Journal.off with config := x.journal.config })
          ∧ (en = 1 ∨ en = 2 → dest = 1 ∨ dest = 2 → ring % 64 = 0 → size % 64 = 0 → 128 ≤ size → ringIn s n (dest == 1) ring size = true →
              ∃ t, ans (exec (.replayConfig fn) s) t stOk ∧ (partAt t n).map (·.journal) =
                some { Journal.off with config := x.journal.config, enable := en, base := ring, size := size }))
      ∧ (Serving s n f r 0x14 →
          (fieldAt b 0x10 8 ≤ a0 ∨ fieldAt b 8 8 % 64 ≠ 0 → ans (exec (.replayRun fn) s) s stInvalid)
          ∧ (a0 < fieldAt b 0x10 8 → fieldAt b 8 8 % 64 = 0 → reachCoherent s n (fieldAt b 8 8) 64 = true →
              (x.replay.isSome = true → ans (exec (.replayRun fn) s) s stBusy)
              ∧ (x.replay = none → exec (.replayRun fn) s = .next (accepted (startReplay s n (fieldAt b 8 8) a0 (fieldAt b 0x10 8)) n r)
                  ∧ ((partAt (startReplay s n (fieldAt b 8 8) a0 (fieldAt b 0x10 8)) n).bind (·.replay)).map
                      (fun y => (y.base, y.first, y.last, y.running)) = some (fieldAt b 8 8, a0, fieldAt b 0x10 8, false))))
      ∧ (let cnt := fieldAt b 8 4
        let bytes := memBytes s.mem a0 (128 * cnt)
        let es := (List.range cnt).map (fun i => sliceBytes bytes (128 * i) 128)
        let ps := es.map peerOfBytes
        Serving s n f r 0x16 →
          (gangRuns s n = true → ans (exec (.peerTableLoad fn) s) s stBusy)
          ∧ (gangRuns s n = false → cnt < 1 ∨ 65536 < cnt → ans (exec (.peerTableLoad fn) s) s stInvalid)
          ∧ (gangRuns s n = false → 1 ≤ cnt → cnt ≤ 65536 → t1 a0 → Undisturbed s n → Quiet s n a0 (128 * cnt) →
              ((es.all (fun e => zeroAt e 4 4 && zeroAt e 0x68 24)) = true → risingIds (ps.map (·.module)) = true →
                ans (exec (.peerTableLoad fn) s) (modPart s n (fun y => { y with peers := ps })) stOk)
              ∧ (risingIds (ps.map (·.module)) = false → ans (exec (.peerTableLoad fn) s) s stInvalid)))

/-- Administrative requests (R333, R416, R448, R454, R463, R465, R466, R482, R483, R486): each sets what its fields name, or is turned
away. A disabled target stays so until it is enabled; a cap is at least 500 W and at most the strap's; an image is stored only if it
verifies and its security version is not below the fuses'; a trial that passes makes its slot active. -/
def Obligations.AdministrativeRequests : Prop :=
  ∀ (s : State) (fn : BitVec 4) (f : Func) (r : MbxReq),
    let n := fn.toNat
    let b := r.payload
    let kind := fieldAt b 0 1
    let comp := fieldAt b 0 1
    let at2 := fieldAt b 2 2
    let ans (o : Out) (t : State) (st : Nat) (p : List Byte) : Prop := o = .next (answer t n r st p)
    let takes (o : Out) (t : State) : Prop := o = .next (accepted t n r)
    let stores (o : Out) (a : Nat) (bytes payload : List Byte) : Prop := ∃ t, ans o t stOk payload
      ∧ memBytes t.mem a bytes.length = bytes ∧ ∀ i, i < a ∨ a + bytes.length ≤ i → memByte t.mem i = memByte s.mem i
    (Serving s n f r 0x15 →
      (linkFieldsOk b = false → ans (exec (.linkConfig fn) s) s stInvalid [])
      ∧ (linkFieldsOk b = true → fieldAt b 0x0A 2 = 0 ∨ fieldAt b 0x0A 2 = s.etherType → ∃ t, ans (exec (.linkConfig fn) s) t stOk []
          ∧ t.ports[comp]? = (s.ports[comp]?).map (configPort b) ∧ (∀ i, i ≠ comp → t.ports[i]? = s.ports[i]?)
          ∧ t.etherType = s.etherType ∧ mapKeys t.flows = mapKeys s.flows)
      ∧ (linkFieldsOk b = true → fieldAt b 0x0A 2 ≠ 0 → fieldAt b 0x0A 2 ≠ s.etherType → ∃ t, ans (exec (.linkConfig fn) s) t stOk []
          ∧ t.etherType = fieldAt b 0x0A 2 ∧ t.flows = []))
    ∧ (Serving s n f r 0x17 →
        let may := n = 0 ∨ (kind = 0 ∧ at2 = n)
        (fieldAt b 1 1 = 0 →
          (kind ≤ 3 → ¬ may → ans (exec (.functionDisable fn) s) s stNotPermitted [])
          ∧ (3 < kind → ans (exec (.functionDisable fn) s) s stInvalid [])
          ∧ (kind ≤ 3 → may → disableTarget s kind at2 = true → kind ≠ 0 ∨ at2 ≠ 0 →
              takes (exec (.functionDisable fn) s) (disableNow s kind at2)
              ∧ (kind = 0 → (funcAt (disableNow s 0 at2) at2).map (·.disabled) = some true)
              ∧ (kind = 1 → (disableNow s 1 at2).clusterOff.getLsbD at2 = true)
              ∧ (kind = 2 → ((disableNow s 2 at2).videos[at2]?).map (·.disabled) = some true)
              ∧ (kind = 3 → ((disableNow s 3 at2).ports[at2]?).map (fun p => (p.phase, p.blocked)) = some (.disabled, true))))
        ∧ (fieldAt b 1 1 = 1 → kind ≤ 3 →
            (¬ may → ans (exec (.functionEnable fn) s) s stNotPermitted [])
            ∧ (may → disableTarget s kind at2 = true → ∃ t, ans (exec (.functionEnable fn) s) t stOk []
                ∧ (kind = 0 → (funcAt t at2).map (·.disabled) = some false)
                ∧ (kind = 1 → t.clusterOff.getLsbD at2 = false)
                ∧ (kind = 2 → (t.videos[at2]?).map (·.disabled) = some false)
                ∧ (kind = 3 → (t.ports[at2]?).map (·.blocked) = some false))))
    ∧ (Serving s n f r 0x18 → ∃ t, ans (exec (.powerProfile fn) s) t stOk (natToBytes 2 (appliedCap t.power))
        ∧ t.power.hostCap = (if fieldAt b 0 2 = 0 then 0 else min s.power.strapCap (max 500 (fieldAt b 0 2)))
        ∧ (appliedCap t.power ≠ appliedCap s.power → t.fault.nextEntry ≠ s.fault.nextEntry)
        ∧ (appliedCap t.power = appliedCap s.power → t.fault = s.fault))
    ∧ (Serving s n f r 0x19 →
        (2 ^ 13 ≤ fieldAt b 0 2 → ans (exec (.ageingCheck fn) s) s stInvalid [])
        ∧ (fieldAt b 0 2 < 2 ^ 13 → ∃ t, takes (exec (.ageingCheck fn) s) t ∧ ∀ d x, s.dies[d]? = some x →
            (t.dies[d]?).map (·.checkpointDue) = some (natBit (fieldAt b 0 2) d || x.checkpointDue)))
    ∧ (Serving s n f r 0x1A →
        (fieldAt b 8 4 < 576 → ans (exec (.ageingReport fn) s) s stInvalid [])
        ∧ (576 ≤ fieldAt b 8 4 → s.sec.debug = .full → ans (exec (.ageingReport fn) s) s stNotPermitted [])
        ∧ (ageingReport s).length = 576
        ∧ (576 ≤ fieldAt b 8 4 → s.sec.debug ≠ .full → s.memOk = true → Undisturbed s n → Quiet s n (fieldAt b 0 8) 576 →
            stores (exec (.ageingReport fn) s) (fieldAt b 0 8) (ageingReport s) (natToBytes 4 576)))
    ∧ (Serving s n f r 0x1B → ans (exec (.decafEnter fn) s) (enterDecaf s 12 0x0706 0 0) stOk []
        ∧ (s.fault.decaf = none → ((enterDecaf s 12 0x0706 0 0).fault.decaf).map (·.cause) = some 0x0706))
    ∧ (Serving s n f r 0x1C →
        let len := fieldAt b 0x10 8
        (4 < comp ∨ len < 0x1000 ∨ 0x1000 + 64 * 2 ^ 20 < len → ans (exec (.fwStage fn) s) s stInvalid [])
        ∧ (comp ≤ 4 → 0x1000 ≤ len → len ≤ 0x1000 + 64 * 2 ^ 20 → (componentAt s comp).trial = true → ans (exec (.fwStage fn) s) s stBusy [])
        ∧ (comp ≤ 4 → 0x1000 ≤ len → len ≤ 0x1000 + 64 * 2 ^ 20 → (componentAt s comp).trial = false → takes (exec (.fwStage fn) s) s))
    ∧ (∀ (c len : Nat) (bytes : List Byte), c < 5 →
        let i := imageOfBytes bytes
        let size := fieldAt i.header 0x018 4
        let x := componentAt s c
        (len ≠ 0x1000 + size ∨ size < 1 ∨ headerOk c i.header = false → stageImage s c len bytes = (s, stInvalid))
        ∧ (len = 0x1000 + size → 1 ≤ size → headerOk c i.header = true →
            (signaturesOk i = false → stageImage s c len bytes = (s, 0x1101))
            ∧ (signaturesOk i = true → i.secVersion < s.sec.otpVersion → stageImage s c len bytes = (s, 0x1102))
            ∧ (signaturesOk i = true → s.sec.otpVersion ≤ i.secVersion → ∃ t, stageImage s c len bytes = (t, stOk)
                ∧ (s.sec.romRecovery = false → slotImage t c (!x.activeB) = some i ∧ (componentAt t c).staged = true
                    ∧ (componentAt t c).activeB = x.activeB ∧ slotImage t c x.activeB = slotImage s c x.activeB))))
    ∧ (Serving s n f r 0x1D →
        (4 < comp ∨ (componentAt s comp).staged = false → ans (exec (.fwActivate fn) s) s stInvalid [])
        ∧ (comp ≤ 4 → (componentAt s comp).staged = true →
            let marked := modComponent s comp (fun x => { x with trial := true, trying := false })
            (comp ≤ 1 → ans (exec (.fwActivate fn) s) marked stOk [])
            ∧ (comp = 2 → takes (exec (.fwActivate fn) s) marked)
            ∧ (3 ≤ comp → anyStepOpen s = true → ans (exec (.fwActivate fn) s) s stBusy [])
            ∧ (3 ≤ comp → anyStepOpen s = false → takes (exec (.fwActivate fn) s) marked)))
    ∧ (∀ c : BitVec 3,
        let k := c.toNat
        let x := componentAt s k
        (k = 3 ∨ k = 4 → s.life.running = true → x.trial = true → x.trying = false → s.queues = [] → (∀ e ∈ s.partitions, e.2.sessions = []) →
          (∀ i, slotVerified s k (!x.activeB) = some i → exec (.fwTrialStart c) s =
            .next (modComponent s k (fun y => { y with trying := true, running := some i })))
          ∧ (slotVerified s k (!x.activeB) = none → exec (.fwTrialStart c) s = .next (failTrial s k)))
        ∧ (x.trying = false → ∀ ok, exec (.fwTrialOutcome c ok) s = .next s)
        ∧ (k < 5 → x.trying = true → ∃ t, exec (.fwTrialOutcome c true) s = .next t ∧ (componentAt t k).activeB = !x.activeB
            ∧ (componentAt t k).trial = false ∧ (componentAt t k).staged = false ∧ s.sec.otpVersion ≤ t.sec.otpVersion)
        ∧ (k < 5 → x.trying = true → ∃ t, exec (.fwTrialOutcome c false) s = .next t ∧ (componentAt t k).activeB = x.activeB
            ∧ (componentAt t k).trial = false ∧ (componentAt t k).trying = false ∧ t.sec = s.sec))
    ∧ (let mask := fieldAt b 0x20 8
      let report := attestReport s (sliceBytes b 0 32) mask
      Serving s n f r 0x1E →
        (mask = 0 ∨ natBit mask 0 = true ∨ 512 ≤ mask ∨ fieldAt b 0x30 4 < report.length → ans (exec (.attestGet fn) s) s stInvalid [])
        ∧ (mask ≠ 0 → natBit mask 0 = false → mask < 512 → report.length ≤ fieldAt b 0x30 4 →
            (s.sec.debug = .full → ans (exec (.attestGet fn) s) s stNotPermitted [])
            ∧ (s.sec.debug ≠ .full → s.memOk = true → Undisturbed s n → Quiet s n (fieldAt b 0x28 8) report.length →
                stores (exec (.attestGet fn) s) (fieldAt b 0x28 8) report (natToBytes 4 report.length))))
    ∧ (let sel := (logFrom s n (fieldAt b 0 4)).take (fieldAt b 4 4)
      let bytes := sel.flatMap (·.bytes)
      Serving s n f r 0x1F → s.memOk = true → Undisturbed s n →
        (∀ e ∈ sel, n = 0 ∨ e.partition = n)
        ∧ (sel ≠ [] → Quiet s n (fieldAt b 8 8) bytes.length → ∃ next, stores (exec (.errorLogRead fn) s) (fieldAt b 8 8) bytes
            (natToBytes 4 sel.length ++ natToBytes 4 next))
        ∧ (sel = [] → ∃ next, ans (exec (.errorLogRead fn) s) s stOk (natToBytes 4 0 ++ natToBytes 4 next)))

/-! ### Scale-out ports -/

/-- Received frames (R335, R337, R339, R341, R342, R344, R345, R348). A port that is not up hears nothing; a bad FCS is only counted; another
MAC, EtherType, version, type, class, icrc, net_id or context is dropped and counted. On its flow, a KEEPALIVE is answered with an ACK, an ACK
moves tx_una, a CLOSE frees the context, an ACCEPT opens it and a REJECT opens it anew. A CONNECT is accepted where the peer is known and a
context is free. DATA in the window that is not set is marked received and a message complete in order is delivered; a duplicate is counted and
answered with an ACK; an MKA frame installs the receive key before the transmit key; every other frame is dropped and counted. -/
def Obligations.TransportFrames : Prop :=
  ∀ (s : State) (port : BitVec 4) (dst : BitVec 48) (et : BitVec 16) (fcsOk icvOk rx tx : Bool) (header payload : List Byte) (x : Port) (p : Nat) (g : Flow)
    (sak : BitVec 128),
    let pt := port.toNat
    let fr := frameOfBytes header payload
    let fid := fr.dstFlow
    let u := heard s pt x payload.length fid
    let counted := countRx s pt (wireBytes x payload.length)
    let flow (t : State) (q : Flow → Prop) : Prop := ∃ h, flowAt t fid = some h ∧ q h
    let sent (t : State) (q : TFrame → Prop) : Prop := ∃ f, t.portOut = s.portOut ++ [{ port := pt, frame := f }] ∧ q f
    let arrives (type : Nat) : Prop := Arrives s pt x dst.toNat et.toNat fcsOk icvOk header payload type p
    let on (type : Nat) : Prop := ArrivesOn s pt x dst.toNat et.toNat fcsOk icvOk header payload type p g
    let d := (fr.psn + 2 ^ 32 - g.rxNext) % 2 ^ 32
    let msg : RxMsg := { src := fr.srcModule, cls := fr.cls, tag := fr.tag, op := fr.op, cause := fr.cause, seq := fr.seq, round := fr.chunk / 2 ^ 24, body := payload }
    let data : Out := exec (.dataFrame port dst et fcsOk icvOk header payload) s
    let connect : Out := exec (.connectFrame port dst et fcsOk icvOk header payload) s
    (portAt s pt = some x →
      (∀ c ∈ [Instr.dataFrame port dst et fcsOk icvOk header payload, .ackFrame port dst et fcsOk icvOk header payload,
          .connectFrame port dst et fcsOk icvOk header payload, .acceptFrame port dst et fcsOk icvOk header payload,
          .rejectFrame port dst et fcsOk icvOk header payload, .keepaliveFrame port dst et fcsOk icvOk header payload,
          .closeFrame port dst et fcsOk icvOk header payload],
        (x.phase ≠ .up → exec c s = .next s)
        ∧ (x.phase = .up → fcsOk = false → exec c s = .next (modPort s pt (fun y => { y with fcsErrors := y.fcsErrors + 1 })))
        ∧ (x.phase = .up → fcsOk = true → dst.toNat ≠ x.mac → exec c s = .next (dropFrame counted pt))
        ∧ (x.phase = .up → fcsOk = true → dst.toNat = x.mac → x.macsec = true → icvOk = false →
            exec c s = .next (modPort counted pt (fun y => { y with macsecDrops := y.macsecDrops + 1 })))
        ∧ (x.phase = .up → fcsOk = true → dst.toNat = x.mac → x.macsec = false →
            et.toNat ≠ s.etherType ∨ fr.ver ≠ 1 ∨ 7 < fr.type ∨ icrcOk header payload = false ∨ partOfNet s fr.netId = none →
            exec c s = .next (dropFrame counted pt)))
      ∧ (x.phase = .up → fcsOk = true → dst.toNat ≠ x.mac ∨ x.macsec = false ∨ icvOk = true →
          exec (.nonTransportFrame port dst et fcsOk icvOk header payload) s
            = .next (dropFrame (countRx s pt (14 + header.length + payload.length + 4)) pt))
      ∧ (x.phase = .up → x.macsec = true → ∀ k, s.sec.macsec[pt]? = some k → k.cak.isSome = true →
          ∃ t, exec (.mkaFrame port dst true rx tx sak) s = .next t ∧
            let sas := if rx then k.rxSas.filter (· != sak.toNat) ++ [sak.toNat] else k.rxSas
            t.sec.macsec[pt]?.map (fun y => (y.txSa, y.rxSas)) =
              some (if tx ∧ sak.toNat ∈ sas then (some sak.toNat, [sak.toNat]) else (k.txSa, sas))))
    ∧ (∀ t f pl, flowAt t fid = some f → (flowPlanes t f).head? = some pl →
        (sendAck t fid).portOut = t.portOut ++ [{ port := pl, frame := controlFrame t fid f 2 }]
        ∧ flowAt (sendAck t fid) fid = some { f with unacked := 0 })
    ∧ (on 6 → exec (.keepaliveFrame port dst et fcsOk icvOk header payload) s = .next (sendAck u fid))
    ∧ (on 7 → exec (.closeFrame port dst et fcsOk icvOk header payload) s = .next { u with flows := mapErase u.flows fid })
    ∧ (on 2 → exec (.ackFrame port dst et fcsOk icvOk header payload) s = .next (progressGang (takeAck u fid fr) p)
        ∧ flow (takeAck u fid fr) (fun h => h.txUna = (if psnBefore g.txUna fr.ackPsn then fr.ackPsn else g.txUna) ∧ h.lastAck = aonNow s))
    ∧ (on 4 → g.phase = .connecting → ∃ t, exec (.acceptFrame port dst et fcsOk icvOk header payload) s = .next t
        ∧ flow t (fun h => h.phase = FlowPhase.open ∧ h.peerFlow = fr.srcFlow ∧ h.peerGen = fr.gen))
    ∧ (on 5 → s.queues = [] → ∃ t, exec (.rejectFrame port dst et fcsOk icvOk header payload) s = .next t
        ∧ flow t (fun h => h.phase = .connecting ∧ h.sent = [] ∧ h.queue = [] ∧ h.txNext = 0 ∧ h.rxNext = 0))
    ∧ (on 1 →
        (256 ≤ d ∨ (0 < d ∧ g.rxSack.getLsbD (d - 1) = true) →
          data = .next (takeAck (sendAck (modPort u pt (fun y => { y with duplicates := y.duplicates + 1 })) fid) fid fr))
        ∧ (0 < d → d < 256 → g.rxSack.getLsbD (d - 1) = false → g.inbox = [] → s.queues = [] → ∃ t, data = .next t
            ∧ flow t (fun h => h.rxNext = g.rxNext ∧ h.rxSack = (g.rxSack ||| BitVec.ofNat 256 (2 ^ (d - 1))) ∧ h.inbox = [fr]
                ∧ h.rxFrames = g.rxFrames + 1 ∧ h.tsEcho = fr.ts))
        ∧ (d = 0 → g.rxNext < 2 ^ 32 → g.rxSack = 0 → g.inbox = [] → natBit fr.flags 0 = true → ∃ w,
            data = .next (progressGang (deliver w p msg) p)
            ∧ flow w (fun h => h.rxNext = (g.rxNext + 1) % 2 ^ 32 ∧ h.rxSack = 0 ∧ h.inbox = [] ∧ h.rxFrames = g.rxFrames + 1)))
    ∧ (arrives 3 →
        (peerOf s p fr.srcModule = none → ∃ t, connect = .next t ∧ t.flows = s.flows
          ∧ sent t (fun f => f.type = 5 ∧ f.srcFlow = 0xFFFF ∧ f.dstFlow = fr.srcFlow ∧ f.dstModule = fr.srcModule ∧ f.dstGen = fr.gen))
        ∧ (∀ e y, peerOf s p fr.srcModule = some e → flowTo s p fr.srcModule = none → partAt s p = some y →
            (s.flows.filter (fun z => z.2.partition == p)).length < y.flowQuota → s.flows.length < 40960 →
            ∃ t n, connect = .next t ∧ n = mapFree s.flows 0 40960
              ∧ (flowAt t n).map (fun h => (h.phase, h.partition, h.peer, h.peerFlow, h.peerGen)) = some (FlowPhase.open, p, fr.srcModule, fr.srcFlow, fr.gen)
              ∧ sent t (fun f => f.type = 4 ∧ f.srcFlow = n ∧ f.dstFlow = fr.srcFlow ∧ f.gen = s.sec.generation.toNat)))

/-- Timers of flows and states of ports and die links (R25, R334, R341, R345 to R348). The ACK timer acknowledges what is not acknowledged; a
retransmission timeout sends tx_una again on the next plane with flags[1] set, doubles rto up to 8 ms and sets the window to 8; CONNECT repeats
on the lowest plane; a keepalive goes on every plane; a silent peer becomes unreachable. A port that leaves UP carries no flow and counts the
event, training starts again, and a die link counts each replay and faults at the sixteenth of one flit. -/
def Obligations.FlowTimersAndPorts : Prop :=
  ∀ (s : State) (flow : BitVec 16) (port : BitVec 4) (cause : BitVec 2) (link : BitVec 6) (run : BitVec 5) (pfc : Bool) (prio : BitVec 3) (time : BitVec 16),
    let fid := flow.toNat
    let pt := port.toNat
    let after (t : State) (q : Flow → Prop) : Prop := ∃ h, flowAt t fid = some h ∧ q h
    (∀ f, flowAt s fid = some f →
      exec (.ackTimer flow) s = .next (if 0 < f.unacked then sendAck s fid else s)
      ∧ (∀ pl, f.phase = .connecting → (flowPlanes s f).head? = some pl → ∃ t, exec (.connectRetryTimer flow) s = .next t
          ∧ t.flows = s.flows ∧ t.portOut = s.portOut ++ [{ port := pl, frame := controlFrame s fid f 3 }])
      ∧ (f.phase ≠ .connecting → exec (.connectRetryTimer flow) s = .next s)
      ∧ (f.phase = FlowPhase.open → f.sent.any (fun x => x.frame.psn == f.txUna && !x.acked) = true →
          ∃ t, exec (.retransmitTimeout flow) s = .next t
            ∧ after t (fun h => h.rto = min (2 * f.rto) 12000000 ∧ h.window = 8 ∧ h.retxRun = f.retxRun + 1 ∧ h.txUna = f.txUna ∧ h.txNext = f.txNext)
            ∧ ∀ x pl, f.sent.find? (fun x => x.frame.psn == f.txUna && !x.acked) = some x → nextPlane (flowPlanes s f) x.plane = some pl →
              ∃ y, t.portOut = s.portOut ++ [{ port := pl, frame := y }] ∧ y.psn = f.txUna ∧ y.payload = x.frame.payload ∧ natBit y.flags 1 = true
                ∧ y.ackPsn = f.rxNext ∧ after t (fun h => h.retxFrames = f.retxFrames + 1))
      ∧ (f.sent = [] → exec (.retransmitTimeout flow) s = .next s)
      ∧ (f.phase = FlowPhase.open ∨ f.phase = .unreachable → flowWaits s f = true → 25000 ≤ aonSince s f.lastHeard →
          ∃ t, exec (.keepaliveTimer flow) s = .next t ∧ t.flows = s.flows
            ∧ t.portOut = s.portOut ++ (flowPlanes s f).map (fun pl => { port := pl, frame := controlFrame s fid f 6 }))
      ∧ (aonSince s f.lastHeard < 25000 → exec (.keepaliveTimer flow) s = .next s)
      ∧ (f.phase = FlowPhase.open → 25 * flowSetting s f (·.peerTimeout) ≤ aonSince s f.lastHeard → ∃ t, exec (.peerUnreachable flow) s = .next t
          ∧ after t (fun h => h.phase = .unreachable)
          ∧ (t.colls[fid / 10240 % 4]?).map (·.unreachable) = (s.colls[fid / 10240 % 4]?).map (·.unreachable + 1)
          ∧ ∀ n, n ≠ fid → flowAt t n = flowAt s n)
      ∧ (aonSince s f.lastHeard < 25 * flowSetting s f (·.peerTimeout) → exec (.peerUnreachable flow) s = .next s))
    ∧ (∀ x, portAt s pt = some x →
        (x.phase = .training → ∃ t, exec (.portLinkUp port) s = .next t
          ∧ (portAt t pt).map (fun y => (y.phase, y.localFault, y.remoteFault)) = some (.up, false, false)
          ∧ ∀ i, i ≠ pt → (portAt t i).map (·.phase) = (portAt s i).map (·.phase))
        ∧ (x.phase = .up → ∃ t, exec (.portLinkDown port cause) s = .next t
          ∧ (portAt t pt).map (fun y => (y.phase, y.downEvents, y.localFault, y.remoteFault))
              = some (.down, x.downEvents + 1, decide (cause = 1), decide (cause = 2))
          ∧ (∀ n f, flowAt t n = some f → pt ∉ flowPlanes t f) ∧ ∀ i, i ≠ pt → portAt t i = portAt s i)
        ∧ (x.phase = .training → exec (.trainingTimeout port) s = .next (modPort s pt (fun y => { y with downEvents := y.downEvents + 1 })))
        ∧ (x.phase = .down → exec (.portRetrainTimer port) s = .next (modPort s pt (fun y => { y with phase := .training })))
        ∧ (x.phase ≠ .training → exec (.portLinkUp port) s = .next s ∧ exec (.trainingTimeout port) s = .next s)
        ∧ (x.phase ≠ .up → exec (.portLinkDown port cause) s = .next s)
        ∧ (x.phase ≠ .down → exec (.portRetrainTimer port) s = .next s)
        ∧ (x.phase = .up → ∃ t, exec (.pauseFrame port pfc prio time) s = .next t
            ∧ (portAt t pt).map (·.pauseFrames) = some (x.pauseFrames + 1)
            ∧ (pfc = false ∨ x.obeyPfc = false ∨ x.vlan = none → t.flows = s.flows ∧ (portAt t pt).map (·.paused) = some x.paused)
            ∧ (∀ v, pfc = true → x.obeyPfc = true → x.vlan = some v → natField v 13 3 = prio.toNat → 0 < time.toNat →
                (portAt t pt).map portUsable = some false))
        ∧ ∃ t, exec (.pfcPauseExpiry port) s = .next t ∧ (portAt t pt).map (·.paused) = some none)
    ∧ (∀ h : link.toNat < 44,
        let counted := { s with linkReplays := s.linkReplays.set link.toNat (s.linkReplays[link.toNat] + 1) }
        exec (.linkCrcReplay link run) s = .next (if run.toNat < 16 then counted else moduleFault counted 0xFF 0x0401 link.toNat)
        ∧ exec (.linkRetrainTimeout link) s = .next (moduleFault s 0xFF 0x0401 link.toNat))

/-! ### Power-on, resets, removal, sideband -/

/-- Power-on, resets and removal (R342, R362, R365, R391, R392, R447, R457 to R459, R480, R481, R495 to R500). Power-on keeps flash and host
memory and zeroes the rest; PERST_N's assertion is a module reset, its deassertion samples the straps, takes the module ID and starts the MP;
a deasserted PWR_EN writes the state records and opens the controller 2 ms later. A function-level or partition reset destroys its contexts and
clears its flows under a new generation; a removal goes to quiesce, in which the link does not train. Configuration requests get Request Retry
Status until firmware is attested. -/
def Obligations.LifeAndSideband : Prop :=
  ∀ (s : State) (mode link : BitVec 2) (slot : BitVec 6) (fn : BitVec 4) (entry : BitVec 11) (ch : BitVec 7) (off : BitVec 12) (wr : Bool) (value : BitVec 32)
    (pp : BitVec 8) (number : BitVec 16) (addr : BitVec 7),
    let f := fn.toNat
    let m := mode.toNat
    let lost (t : State) : Prop := t.life.powered = false ∧ t.life.stopped = true ∧ t.mem = [] ∧ t.queues = [] ∧ t.flows = [] ∧ t.cores = []
      ∧ t.hostMem = s.hostMem ∧ t.flash.log = s.flash.log ∧ t.sec.otpVersion = s.sec.otpVersion
    let still : Prop := mapWf s.queues = true ∧ ∀ e ∈ s.queues, e.2.cmds = []
    let cleared (t : State) (p : Nat) : Prop := (∀ e ∈ t.flows, e.2.partition ≠ p) ∧ (still → t.sec.generation = s.sec.generation + 1)
    let quiesced (t : State) : Prop := t.cores = [] ∧ t.holds = [] ∧ (∀ x ∈ t.ports.toList, x.phase = .disabled)
      ∧ (still → t.link = .down ∧ t.life.quiesce = true)
    let io (t : State) (o : HostOut) : Prop := t = sendHost s o
    (s.life.powered = false → ∃ t, exec (.powerOn mode slot) s = .next t ∧ t.life.powered = true ∧ t.life.zeroing = true ∧ t.life.running = false
        ∧ t.pins.coolMode = m ∧ t.pins.moduleIdPins = slot.toNat ∧ t.power.strapCap = (coolProfile m).1 ∧ t.mem = [] ∧ t.queues = []
        ∧ t.hostMem = s.hostMem ∧ (m ≠ 3 → t.fault.log = s.flash.log ∧ t.fault.nextEntry = s.flash.logNext))
    ∧ (s.life.powered = true → exec (.powerOn mode slot) s = .next s)
    ∧ (s.life.powered = true → s.life.zeroing = true → s.partitions = [] →
        exec .lpddr5xInitComplete s = .next { s with life := { s.life with zeroing := false }, mem := [], poison := [] })
    ∧ (s.life.powered = true → s.pins.perstN = true → ∃ t, exec .perstNAssert s = .next t ∧ t.pins.perstN = false ∧ t.life.running = false
        ∧ t.life.attested = false ∧ t.link = .down ∧ t.queues = [] ∧ t.flows = [] ∧ t.cores = [] ∧ t.caches = [] ∧ t.holds = []
        ∧ t.sec.sessions = [] ∧ t.sec.generation = s.sec.generation + 1 ∧ t.fault.decaf = none)
    ∧ (s.life.powered = false ∨ s.pins.perstN = false → exec .perstNAssert s = .next s)
    ∧ (s.life.powered = true → s.life.stopped = false → s.pins.perstN = false →
        let u := noteCap (sampleStraps { s with pins := { s.pins with perstN := true } } m slot.toNat) (appliedCap s.power)
        exec (.perstNDeassert mode slot) s = .next (startMp { u with life := { u.life with moduleId := u.life.baseboard * 64 + slot.toNat } }))
    ∧ (∀ u, loadComponent s 0 = (u, none) → (startMp s).life.attested = true ∧ (startMp s).sec.romRecovery = true
        ∧ (startMp s).queues = u.queues ∧ 5 ∈ (startMp s).power.alerts)
    ∧ (exec .pwrEnAssert s = .next (if s.life.opening then s else
        { s with pins := { s.pins with pwrEn := true }, power := { s.power with thermtrip := s.pins.pwrEn && s.power.thermtrip } }))
    ∧ (s.life.powered = false → exec .pwrEnDeassert s = .next { s with pins := { s.pins with pwrEn := false } })
    ∧ (s.life.powered = true → s.life.opening = false → ∃ t, exec .pwrEnDeassert s = .next t ∧ t.pins.pwrEn = false ∧ t.life.opening = true
        ∧ t.life.openSince = aonNow s ∧ t.flash.log = s.fault.log ∧ t.flash.logNext = s.fault.nextEntry
        ∧ t.flash.ageing = some (ageingRecord s) ∧ t.flash.decaf.map (·.reported) = some false ∧ t.mem = s.mem ∧ t.queues = s.queues)
    ∧ (s.life.opening = true → 50000 ≤ aonSince s s.life.openSince → ∃ t, exec .hotswapOpenTimer s = .next t ∧ lost t)
    ∧ (s.life.opening = false ∨ aonSince s s.life.openSince < 50000 → exec .hotswapOpenTimer s = .next s)
    ∧ (s.life.powered = true → ∃ t, exec .regulatorsStop s = .next t ∧ lost t)
    ∧ (∀ g, linkServes s = true → funcAt s f = some g → ∃ t, exec (.functionLevelReset fn) s = .next t ∧ cleared t f
        ∧ (still → ∀ q x, queueAt t q = some x → x.partition = f → x.isLocal = true)
        ∧ (still → (funcAt t f).map (fun h => (h.host, h.disabled, h.long)) = some (Mailbox.reset, false, [])))
    ∧ (let p := channelOwner s ch.toNat
      (s.life.running = true → ∃ t, exec (.poolUnitInternalFault ch) s = .next t ∧ cleared t p
          ∧ (still → ∀ q x, queueAt t q = some x → x.partition ≠ p))
      ∧ (s.life.running = false → exec (.poolUnitInternalFault ch) s = .next s))
    ∧ (s.life.running = true → s.pins.perstN = true → s.life.quiesce = false →
        (∃ t, exec .surpriseRemoval s = .next t ∧ quiesced t)
        ∧ (s.life.powered = true → link = 0 → ∃ t, exec (.linkStateChange link) s = .next t ∧ quiesced t))
    ∧ (s.life.powered = true → s.life.quiesce = false → link ≠ 0 → ∃ t, exec (.linkStateChange link) s = .next t
        ∧ t.link = (if link = 1 then .l0 else if link = 2 then .recovery else .l1)
        ∧ t.domains[11].phase = (if link = 3 then .gated else .run))
    ∧ (s.life.quiesce = true → exec (.linkStateChange link) s = .next s ∧ exec .surpriseRemoval s = .next s)
    ∧ (let u := { s with pins := { s.pins with coolMode := m } }
      exec (.coolModeChange mode) s = .next (if s.life.powered = true ∧ m ≠ s.power.coolStrap ∧ s.power.strapLogged = false
        then logError { u with power := { u.power with strapLogged := true } } 0 0xFF 0x0801 0xFF 0xFFFF 0 0 m else u))
    ∧ (s.life.powered = true → s.life.stopped = false → s.life.quiesce = false →
        let r : Out := exec (.configurationRequest fn off wr value) s
        (s.life.attested = false → r = .next (complete s 2 []))
        ∧ (s.life.attested = true → functionVisible s f = false → r = .next (complete s 1 []))
        ∧ ∀ g, s.life.attested = true → functionVisible s f = true → funcAt s f = some g →
            (wr = true → off.toNat = Config.msixControl → ∃ t, r = .next t
              ∧ (funcAt t f).map (fun h => (h.msixEnabled, h.functionMask)) = some (value.getLsbD 31, value.getLsbD 30))
            ∧ (wr = true → off.toNat ≠ Config.msixControl → f = 0 → off.toNat = Config.sriovControl →
                r = .next (complete { s with life := { s.life with vfEnable := value.getLsbD 0 } } 0 []))
            ∧ (wr = false → off.toNat = Config.msixControl → ∃ t v, r = .next t ∧ t.funcs = s.funcs
                ∧ t.hostOut = s.hostOut ++ [.completion 0 (natToBytes 4 (msixControlWord g v))]))
    ∧ (∀ g, funcAt s f = some g → ∃ t, exec (.msixEntryUnmask fn entry) s = .next t ∧
        ∃ h, funcAt t f = some h ∧ (mapGet h.msix entry.toNat).map (·.masked) = some false
          ∧ (g.msixEnabled = true → g.functionMask = false → entry.toNat ∉ h.pba) ∧ (g.msixEnabled = false → h.pba = g.pba))
    ∧ (s.life.running = true → ∃ t, exec (.mctpPhaseRecordRead pp) s = .next t ∧ io t (.mctp (
        match partAt s pp.toNat with
        | none => [2]
        | some x => match x.job.bind (·.phaseRecord) with
          | none => [1]
          | some r => 0 :: r)))
    ∧ (s.life.powered = true → 500000 ≤ (aonNow s).toNat →
        exec (.mctpBaseboardNumber number) s = .next (if number.toNat < 1024
          then sendHost { s with life := { s.life with baseboard := number.toNat } } (.mctp [0]) else sendHost s (.mctp [1])))
    ∧ (s.life.powered = true → exec (.i3cEntdaa addr) s = .next { s with life := { s.life with i3c := some addr.toNat } })

/-! ### The security engine -/

/-- Sessions, keys, the debug port and the entropy source (R390, R485, R487 to R490). A request is answered, or ends with an SPDM error; KEY_EXCHANGE
opens a session and END_SESSION closes it. Inside a session on DOE a key is programmed; K_SET_GO makes a programmed set active and keeps the
one before until K_SET_STOP; a failed check makes the stream insecure until it is keyed again. A CAK replaces that of a live session only later.
A challenge is used once, within 10 minutes; the port in state 0 reads the IDCODE alone, in state 1 registers, in state 2 everything. -/
def Obligations.SecurityCommands : Prop :=
  ∀ (s : State) (mctp wr : Bool) (session ports : BitVec 16) (code : BitVec 8) (bytes ckn : List Byte) (stream : BitVec 3) (set : BitVec 1) (key : BitVec 256)
    (addr : BitVec 56) (value : BitVec 64),
    let t0 := transportOf mctp
    let k := session.toNat
    let ide (t : State) : IdeStream := t.sec.ide[stream.toFin]
    let x := ide s
    let others (t : State) : Prop := ∀ j : Fin 8, j ≠ stream.toFin → t.sec.ide[j] = s.sec.ide[j]
    let spdm : Out := exec (.spdmRequest mctp session code bytes) s
    let cak : Out := exec (.macsecCakSet session mctp ports key ckn) s
    let reply (t : State) (c : Nat) : Prop := t.hostOut = s.hostOut ++ [.spdm (Config.spdmAnswer c bytes)]
    (spdmServes s mctp = false → spdm = .next s)
    ∧ (spdmServes s mctp = true → spdmFails s t0 k code.toNat = true → spdm = .next (spdmReply s spdmError bytes))
    ∧ (spdmServes s mctp = true → spdmFails s t0 k code.toNat = false → ∃ t, spdm = .next t ∧ reply t code.toNat
        ∧ (code.toNat = spdmKeyExchange → sessionOpen t t0 k = true)
        ∧ (code.toNat = spdmEndSession → sessionOpen t t0 k = false)
        ∧ (code.toNat ≠ spdmKeyExchange → code.toNat ≠ spdmEndSession → t.sec = s.sec)
        ∧ ∀ a b, (a, b) ≠ (t0, k) → sessionOpen t a b = sessionOpen s a b)
    ∧ (spdmServes s false = true → sessionOpen s 0 k = true → s.sec.debug ≠ .full → ∃ t, exec (.ideKmKeyProg session stream set key) s = .next t
        ∧ mapGet (ide t).keys set.toNat = some key.toNat ∧ (ide t).active = x.active ∧ (ide t).secure = x.secure ∧ others t)
    ∧ (spdmServes s false = false ∨ sessionOpen s 0 k = false ∨ s.sec.debug = .full → exec (.ideKmKeyProg session stream set key) s = .next s)
    ∧ (spdmServes s false = true → mapHas x.keys set.toNat = true → ∃ t, exec (.kSetGo stream set) s = .next t
        ∧ (ide t).active = set.toNat ∧ (ide t).secure = true ∧ (ide t).keys = x.keys ∧ others t
        ∧ (ide t).previous = (if x.secure = true ∧ x.active ≠ set.toNat then some x.active else x.previous))
    ∧ (spdmServes s false = true → x.previous = some set.toNat → ∃ t, exec (.kSetStop stream set) s = .next t
        ∧ ide t = { x with previous := none } ∧ others t)
    ∧ (linkServes s = true → ∃ t, exec (.ideCheckFailure stream) s = .next t ∧ (ide t).secure = false ∧ (ide t).keys = [] ∧ (ide t).previous = none
        ∧ others t ∧ (funcAt t 0).map (·.ideDrops) = (funcAt s 0).map (·.ideDrops + 1))
    ∧ (spdmServes s mctp = true → sessionOpen s t0 k = true → s.sec.debug ≠ .full → s.sec.entropyFailed = false → 1 ≤ ckn.length → ckn.length ≤ 32 →
        ∃ t, cak = .next t ∧ ∀ j : Fin 16, t.sec.macsec[j] = (
          let y := s.sec.macsec[j]
          if ports.getLsbD j.val = false then y
          else if y.live then { y with nextCak := some key.toNat, ckn := ckn } else { y with cak := some key.toNat, ckn := ckn }))
    ∧ (ckn = [] ∨ 32 < ckn.length ∨ sessionOpen s t0 k = false ∨ s.sec.debug = .full → cak = .next s)
    ∧ (powered s = true → s.sec.entropyFailed = false → ∃ t v, exec .debugChallenge s = .next t ∧ v < 2 ^ 256
        ∧ t.sec.challenge = some (v, aonNow s) ∧ t.hostOut = s.hostOut ++ [.jtag (natToBytes 32 v)])
    ∧ (powered s = true → ∀ v at0, s.sec.challenge = some (v, at0) →
        let u := { s with sec := { s.sec with challenge := none } }
        let good := s.sec.otpDebugLock = false ∧ aonSince s at0 ≤ 15000000000 ∧ tokenGood s v bytes = true
        exec (.debugUnlockToken bytes) s = .next (if good then openDebug u (bytesToNat (Config.tokenField 2 bytes)) else u)
        ∧ (good → s.sec.debug = .locked → bytesToNat (Config.tokenField 2 bytes) = 1 →
            exec (.debugUnlockToken bytes) s = .next { u with sec := { u.sec with debug := .observe } }))
    ∧ (powered s = true → s.sec.challenge = none → exec (.debugUnlockToken bytes) s = .next s)
    ∧ (∀ u, (eraseKeys u).sec.ide.toList.all (fun y => !y.secure && y.keys.isEmpty) = true
        ∧ (eraseKeys u).sec.macsec.toList.all (fun y => y.cak.isNone && y.txSa.isNone) = true
        ∧ ∀ p y, partAt (eraseKeys u) p = some y → y.rngKey = 0)
    ∧ (powered s = true → exec .entropyHealthFailure s = .next (moduleFault { s with sec := { s.sec with entropyFailed := true } } 12 0x0707 0))
    ∧ (powered s = true →
        let port : Out := exec (.debugPortAccess wr addr value) s
        let tells (b : List Byte) : Out := .next (sendHost s (.jtag b))
        (s.sec.debug = .locked → port = if wr then .next s else tells (natToBytes 4 Config.idcode))
        ∧ (∀ d o, s.sec.debug ≠ .locked → wr = false → decodeAddr s addr.toNat = .register d o → port = tells (natToBytes 8 ((regRead s d o).getD 0)))
        ∧ (s.sec.debug = .observe → wr = true ∨ addr.toNat < usableBytes s → port = .next s)
        ∧ (s.sec.debug = .full → addr.toNat + 8 ≤ usableBytes s → s.memOk = true → (∀ lid ∈ lidsOf addr.toNat 8, lineHeld s lid = false) →
            (wr = false → port = tells (memBytes s.mem addr.toNat 8))
            ∧ (wr = true → ∃ t, port = .next t ∧ memBytes t.mem addr.toNat 8 = natToBytes 8 value.toNat)))

/-! ### Power, temperature, ageing -/

/-- Input power, caps, the activity budget, temperature and ageing (R444, R445, R448, R449, R451, R453, R454). A sample gives the voltage range, the
registers, the energy and the counted entries; a lasting sag, lost cooling, or a die without margin enters Decaf mode; a lasting overvoltage and 125 °C
turn the module off. The loop lowers every power ceiling in proportion to the excess or raises it by 10, moves the thermal ceilings by 50 and 10, and
gives each compute die the least of its four ceilings. A checkpoint re-plans voltage offset and ageing ceiling and writes the record. -/
def Obligations.PowerThermalAgeing : Prop :=
  ∀ (s : State) (mv ma : BitVec 20) (reverse : Bool) (avg proj watts tenths slack : BitVec 16) (ppm : BitVec 32) (die : BitVec 4) (n : Fin 13),
    let w := s.power
    let mw := mv.toNat
    let d := s.dies[n]
    let cap := appliedCap w
    let temp := natToInt 16 tenths.toNat
    let sl := slack.toNat
    let sample : Out := exec (.pwrSample mv ma reverse) s
    let off (t : State) : Prop := t.life.powered = false ∧ t.life.stopped = true ∧ t.mem = [] ∧ t.hostMem = s.hostMem ∧ t.flash.ageing = s.flash.ageing
    let limit (x : Nat) : Nat := if x = 0 then 0 else min w.strapCap (max 500 x)
    let held := (n.val < 8 ∧ coreCmdsOn s n.val = true)
    let due := (d.checkpointDue = true ∨ d.lastHours + 168 ≤ hoursNow s)
    (powered s = true →
      (40000 ≤ mw → reverse = false → inputBand mw ≠ .sag → ∃ t, sample = .next t ∧ t.power.band = inputBand mw
          ∧ t.power.inputMv10 = mw / 10 ∧ t.power.inputMa10 = ma.toNat / 10 ∧ t.power.inputW = mw * ma.toNat / 1000000
          ∧ t.power.energyRest = (w.energyRest + mw * ma.toNat) % 100000000
          ∧ t.power.energyMj = bump w.energyMj ((w.energyRest + mw * ma.toNat) / 100000000)
          ∧ (1 ∈ t.power.alerts ↔ mw < 46000) ∧ (2 ∈ t.power.alerts ↔ 58000 < mw)
          ∧ t.power.uvEvents = (if mw < 46000 ∧ w.band.under = false then w.uvEvents + 1 else w.uvEvents)
          ∧ t.power.ovEvents = (if 58000 < mw ∧ w.band.above = false then w.ovEvents + 1 else w.ovEvents)
          ∧ t.dies = s.dies ∧ t.queues = s.queues ∧ t.mem = s.mem)
      ∧ (mw < 44000 → 38000 ≤ mw → reverse = false → s.life.running = true → w.recordsAhead = false → ∃ t, sample = .next t ∧ t.power.band = .sag
          ∧ t.power.recordsAhead = true ∧ t.flash.log = s.fault.log ∧ t.flash.decaf.map (·.reported) = some false)
      ∧ (mpRuns s = true → w.band = .sag → 50000 < aonSince s w.bandSince → exec .undervoltageTimer s = .next (enterDecaf s 12 0x0704 0 0))
      ∧ (w.band ≠ .sag → exec .undervoltageTimer s = .next s)
      ∧ (w.band = .over → 2500 < aonSince s w.bandSince → ∃ t, exec .overvoltageTripTimer s = .next t ∧ off t)
      ∧ (w.band ≠ .over → exec .overvoltageTripTimer s = .next s)
      ∧ (∃ t, exec (.pldmPowerLimit watts) s = .next t ∧ t.power.pldmCap = limit watts.toNat
          ∧ (appliedCap t.power ≠ cap → t.aplic = s.aplic ||| 2 ∧ t.fault.nextEntry ≠ s.fault.nextEntry)
          ∧ (appliedCap t.power = cap → t.aplic = s.aplic ∧ t.fault = s.fault))
      ∧ (∃ t, exec (.budgetLoopStep avg proj) s = .next t ∧
          let x := t.dies[n]
          (n.val < 8 →
            x.powerCeil = stepPowerCeil cap avg.toNat proj.toNat d.powerCeil
            ∧ x.thermalCeil = (if 1000 < d.temp then max 200 (d.thermalCeil - 50) else if d.temp ≤ 950 then min 1000 (d.thermalCeil + 10) else d.thermalCeil)
            ∧ x.budget = min (min (coolProfile w.coolStrap).2.1 x.ageCeil) (min x.thermalCeil x.powerCeil)
            ∧ x.budgetChanges = (if x.budget = d.budget ∧ w.firstLoop = true then d.budgetChanges else d.budgetChanges + 1))
          ∧ (8 ≤ n.val → x = d) ∧ x.ageCeil = d.ageCeil ∧ x.voff = d.voff ∧ t.power.firstLoop = true)
      ∧ (200 ≤ d.powerCeil → 5 * avg.toNat ≤ 6 * cap → proj.toNat ≤ cap →
          stepPowerCeil cap avg.toNat proj.toNat d.powerCeil = min 1000 (d.powerCeil + 10))
      ∧ (200 ≤ d.powerCeil → cap < proj.toNat → stepPowerCeil cap avg.toNat proj.toNat d.powerCeil ≤ max 200 (d.powerCeil * cap / proj.toNat))
      ∧ (die.toNat < 13 → 1250 ≤ temp → ∃ t, exec (.thermalSample die tenths) s = .next t ∧ off t ∧ t.power.thermtrip = true)
      ∧ (die.toNat = n.val → temp < 1250 → ∃ t, exec (.thermalSample die tenths) s = .next t ∧ t.dies[n].temp = temp
          ∧ (t.dies[n].above110.isSome = true ↔ 1100 < temp)
          ∧ (t.dies[n].above105.isSome = true ↔ n.val < 8 ∧ 1050 < temp ∧ d.thermalCeil = 200)
          ∧ (∀ m, m ≠ n → t.dies[m] = s.dies[m]) ∧ t.power = w)
      ∧ (die.toNat = n.val → exec (.coolingLost die) s = .next (
          if mpRuns s = true ∧ (tooLong s d.above110 2500000 = true ∨ tooLong s d.above105 25000000 = true) then enterDecaf s n.val 0x0703 0 0 else s))
      ∧ (s.life.running = true → die.toNat = n.val →
          (due → held → exec (.ageingCheckpointDue die slack ppm) s = .next (modDie s n.val (fun x => { x with checkpointDue := true })))
          ∧ (¬ due → exec (.ageingCheckpointDue die slack ppm) s = .next s)
          ∧ (due → ¬ held → d.exhausted = false → 200 ≤ d.ageCeil ∨ 8 ≤ n.val → d.voff + 4 ≤ 24 → ∃ t, exec (.ageingCheckpointDue die slack ppm) s = .next t ∧
              t.dies[n] = { d with voff := d.voff + (if 40 ≤ sl then 0 else if 20 ≤ sl then 1 else 4), slack := 0xFFFF, lastSlack := sl,
                                   minSlack := min d.minSlack sl, roPpm := ppm.toNat, lastHours := hoursNow s,
                                   checkpoints := (d.checkpoints + 1) % 2 ^ 32, checkpointDue := false }
              ∧ t.flash.ageing = some (ageingRecord t) ∧ (sl < 40 → t.aplic = s.aplic ||| 2))
          ∧ (due → ¬ held → n.val < 8 → d.exhausted = false → d.voff = 24 → sl < 20 → 400 ≤ d.ageCeil → ∃ t,
              exec (.ageingCheckpointDue die slack ppm) s = .next t ∧ t.dies[n].voff = 24 ∧ t.dies[n].ageCeil = d.ageCeil - 200 ∧ t.dies[n].exhausted = false)
          ∧ (10 ≤ sl → exec (.slackAlarm die slack) s = .next (modDie s n.val (fun x => { x with slack := min x.slack sl, minSlack := min x.minSlack sl })))
          ∧ (sl < 10 → n.val < 8 → d.exhausted = false → 300 ≤ d.ageCeil → ∃ t, exec (.slackAlarm die slack) s = .next t
              ∧ t.dies[n] = { d with slack := min d.slack sl, minSlack := min d.minSlack sl, ageCeil := d.ageCeil - 100 }))
      ∧ (s.life.running = true → exec .ageingRecordHourly s = .next { s with flash := { s.flash with ageing := some (ageingRecord s) } }
          ∧ exec .errorLogFlashCopy s = .next { s with flash := { s.flash with log := s.fault.log, logNext := s.fault.nextEntry } }))
    ∧ (powered s = false → sample = .next s ∧ exec .undervoltageTimer s = .next s ∧ exec .overvoltageTripTimer s = .next s
        ∧ exec (.pldmPowerLimit watts) s = .next s ∧ exec (.budgetLoopStep avg proj) s = .next s ∧ exec (.thermalSample die tenths) s = .next s
        ∧ exec .ageingRecordHourly s = .next s ∧ exec .errorLogFlashCopy s = .next s)

/-! ### Faults, Decaf mode, clock domains, registers -/

/-- Faults of the module, memory scrubbing, clock domains, journal space and register writes (R38, R162, R163, R387, R395, R435, R439 to R441, R460,
R461, R466, R468, R473). A fault of module class enters Decaf mode once: units stop, cores and their windows are lost, ports are disabled; a second one is
only logged. A corrected error is counted and logged each 65,536; an uncorrectable one poisons its line. An idle domain leaves RUN where it may,
and one that starts runs again; a die whose array goes off loses its cores. A faulty video unit's sessions end. Read-only registers ignore writes. -/
def Obligations.FaultsAndDomains : Prop :=
  ∀ (s : State) (code : BitVec 16) (addr off : BitVec 56) (out dest space : BitVec 2) (dom who : BitVec 6) (dev : BitVec 5) (hot : Bool) (unit : BitVec 2)
    (pp size : BitVec 4) (head value : BitVec 64) (die cd a0 dt : Nat),
    let a := addr.toNat
    let ch := t1Channel a
    let c := dom.toNat
    let goal : DomPhase := if dest = 1 then .gated else if dest = 2 then .ret else if dest = 3 then .off else .run
    let fatal : Prop := powered s = true ∧ s.life.running = true
    let count (t : State) (g : Channel → Word64) : Prop := (t.channels[ch]?).map g = (s.channels[ch]?).map (fun x => g x + 1)
    let busy := s.funcs.any (fun e => e.2.inService.isSome || !e.2.long.isEmpty)
    let reg : Out := exec (.registerWrite space who off size value) s
    let fn := who.toNat
    -- Decaf mode
    (fatal → exec .mpWatchdog s = .next (enterDecaf s 12 0x0701 0 0) ∧ exec .regulatorFault s = .next (enterDecaf s 0xFF 0x0702 0 0)
        ∧ (code.toNat ∈ moduleCodes → exec (.decafEntry code) s = .next (enterDecaf s 0xFF code.toNat 0 0)))
    ∧ (¬ fatal → exec .mpWatchdog s = .next s ∧ exec .regulatorFault s = .next s ∧ exec (.decafEntry code) s = .next s)
    ∧ (code.toNat ∉ moduleCodes → exec (.decafEntry code) s = .next s)
    ∧ (s.fault.decaf.isSome = true → enterDecaf s die cd a0 dt = logError s 6 die cd 0xFF 0xFFFF 0 a0 dt)
    ∧ (s.fault.decaf = none →
        let t := enterDecaf s die cd a0 dt
        t.fault.decaf.map (·.cause) = some cd ∧ t.fault.causeCode = cd ∧ t.cores = [] ∧ t.spills = [] ∧ (∀ x ∈ t.ports.toList, x.phase = .disabled)
        ∧ (∀ h ∈ t.harts.toList, h.released = false) ∧ t.flash.decaf.map (·.cause) = some cd)
    ∧ (s.fault.decaf = none → exec .decafDripFlush s = .next s)
    ∧ (∀ d, s.fault.decaf = some d → (d.flushDone = true → exec .decafDripFlush s = .next s)
        ∧ (d.flushDone = false → ∃ t, exec .decafDripFlush s = .next t
          ∧ t.fault.decaf = some { d with flushRunning := dripWaits t, flushDone := !dripWaits t }))
    -- memory
    ∧ (usableBytes s ≤ a → exec (.patrolScrub addr out) s = .next s)
    ∧ (a < usableBytes s →
        (out = 0 → exec (.patrolScrub addr out) s = .next s)
        ∧ (out = 1 → ∃ t, exec (.patrolScrub addr out) s = .next t ∧ count t (·.eccCorr) ∧ t.mem = s.mem ∧ t.poison = s.poison
            ∧ (((t.channels[ch]?).map (fun x => x.eccCorr.toNat % 65536) ≠ some 0) → t.fault = s.fault))
        ∧ (out = 2 → ∃ t, exec (.patrolScrub addr out) s = .next t ∧ count t (·.eccUncorr) ∧ a / 64 * 64 ∈ t.poison
            ∧ t.fault.nextEntry = (s.fault.nextEntry + 1) % 2 ^ 32)
        ∧ (out = 3 → ∃ t, exec (.patrolScrub addr out) s = .next t ∧ count t (·.scrubPasses) ∧ t.mem = s.mem ∧ t.fault = s.fault))
    ∧ (powered s = true → ∃ t, exec (.deviceTemperature85c dev hot) s = .next t ∧ ∀ i, i < 32 →
        t.derated.getLsbD i = (if i = dev.toNat then hot else s.derated.getLsbD i))
    -- clock domains
    ∧ (∀ d, powered s = true → c ≠ 3 → s.domains[c]? = some d →
        exec (.domainIdleTimer dom dest) s = .next (if d.phase.depth < goal.depth ∧ d.moving = none ∧ mayLeave s c goal = true
          then modDomain (if goal = .off ∧ 16 ≤ c ∧ c ≤ 23 then loseDie s (c - 16) else if goal = .off ∧ 24 ≤ c ∧ c ≤ 31 then emptyCache s (c - 24) else s) c
            (fun y => { y with phase := goal })
          else s))
    ∧ (∀ n core o, coreDie core = n → core < 8192 → o < 2 ^ 20 →
        mapGet (loseDie s n).cores core = none ∧ memByte (loseDie s n).mem (coreAddr core o) = 0)
    ∧ (∀ d, c ≠ 3 → s.domains[c]? = some d →
        (d.moving = some .run → ∃ t, exec (.domainStartComplete dom) s = .next t
          ∧ t.domains[c]? = some { d with phase := .run, moving := none, starts := d.starts + 1 })
        ∧ (d.moving ≠ some .run → exec (.domainStartComplete dom) s = .next s))
    ∧ (c = 3 → powered s = true →
        exec (.domainIdleTimer dom dest) s = .next (if busy then s else modDomain s 3 (fun d => { d with mhz := 25 }))
        ∧ exec (.domainStartComplete dom) s = .next (if busy then modDomain s 3 (fun d => { d with mhz := 400 }) else s))
    -- video units and journal space
    ∧ (∃ t, exec (.videoUnitInternalError unit) s = .next t ∧ (t.videos[unit.toNat]?).map (·.restarting) = some true
        ∧ ∀ p x, partAt t p = some x → ∀ e ∈ x.sessions, e.2.unit ≠ unit.toNat)
    ∧ exec (.videoUnitRestart unit) s = .next (modVideo s unit.toNat (fun v => { v with restarting := false }))
    ∧ (∀ x, partAt s pp.toNat = some x →
        (x.journal.enable = 0 → exec (.journalSpace pp head) s = .next s)
        ∧ (x.journal.enable ≠ 0 → s.memOk = true → Quiet s pp.toNat (x.journal.base + 8) 8 → ∃ t, exec (.journalSpace pp head) s = .next t
            ∧ journalHead t x.journal = head.toNat % 2 ^ 32
            ∧ (partAt t pp.toNat).map (·.journal.waiting) = some (x.journal.waiting
                && decide (x.journal.size - ((x.journal.tail + 2 ^ 32 - head.toNat % 2 ^ 32) % 2 ^ 32) * 64 < 65536))))
    -- register writes
    ∧ (space = 0 → linkServes s = true → (funcAt s fn).isSome = true →
        (off = 0x018 → size = 8 → inService s = true → reg = .next (writeMbxTail s fn false value))
        ∧ (0x10000 ≤ off.toNat → off.toNat < 0x14000 → off.toNat % 8 = 0 → size = 8 →
            reg = .next (modFunc s fn (fun f => { f with reqRing := ringPut f.reqRing (off.toNat - 0x10000) (natToBytes 8 value.toNat) })))
        ∧ (∀ i, off.toNat = 0x40008 + i * 0x40 → i < 64 → size = 8 → reg = .next (modRegion s fn i (fun r =>
            if value.toNat % 64 = 0 ∧ value.toNat ≤ r.bytes then { r with limit := value.toNat } else r)))
        ∧ (off.toNat < 0x10000 → size = 4 → reg = .next s))
    ∧ (space = 2 → ∀ p, p < 16 → size = 8 → off.toNat = 0xC400008 + p * 0x1000 →
        reg = .next (if natField value.toNat 0 24 = 0 then s else modTier s p (fun t => { t with late := natField value.toNat 0 24 })))
    ∧ (space = 2 → off.toNat < 0xC000000 → reg = .next s)
    ∧ (space = 1 → s.harts[who.toFin].released = false → reg = .next s)

/-! ### Reset -/

/-- The machine before power-on: no command waits, memory is empty, partition 0 owns everything and no other exists (R183), and every register
with a reset value in Tables 5-10, 12-4, 15-9, 16-10, 16-11, 11-1 and 11-7 reads it. Values the spec does not state are the log's. -/
def Obligations.ResetValues : Prop :=
  let s := State.reset
  let hub (off : Nat) : Option Nat := regRead s 12 off
  s.pending = [] ∧ s.memOk = true ∧ s.queues = [] ∧ s.flows = [] ∧ s.cores = [] ∧ s.holds = [] ∧ s.poison = []
  ∧ (partAt s 0).map (fun x => (x.groups, x.devices, x.edgeWays, x.sysWays, x.clusters, x.migQuota, x.msixQuota, x.flowQuota, x.videoQuota))
      = some (0xFFFF, 0xFFFFFFFF, 0xFFFF, 0xFFFF, BitVec.allOnes 128, 16384, 2048, 40960, 576)
  ∧ (∀ p, p ≠ 0 → partAt s p = none ∧ funcAt s p = none) ∧ (∀ a, memByte s.mem a = 0)
  ∧ hub 0x400000 = some 0 ∧ hub 0x400008 = some 500 ∧ hub 0x400010 = some 2500000 ∧ hub 0x400018 = some 25000
  ∧ (∀ i, 5 ≤ i → i < 48 → hub (0x400000 + 8 * i) = some 0)
  ∧ hub 0x300000 = some 0 ∧ (∀ i, 2 ≤ i → i < 7 → hub (0x300000 + 8 * i) = some 0)
  ∧ (∀ d, d < 13 → hub (0x300100 + 0x40 * d) = some (if d < 8 then 1000 + 1000 * 2 ^ 10 + 1000 * 2 ^ 20 + 1000 * 2 ^ 30 else 0)
      ∧ hub (0x300108 + 0x40 * d) = some 0 ∧ hub (0x300110 + 0x40 * d) = some 0xFFFF ∧ hub (0x300118 + 0x40 * d) = some 0
      ∧ hub (0x300120 + 0x40 * d) = some 0)
  ∧ (∀ i, i < 10 → hub (0x310000 + 8 * i) = some 0) ∧ (∀ i, i < 6 → hub (0x311000 + 8 * i) = some 0)
  ∧ (∀ k off, k < 8192 → off < 0x2000 → regRead s (k / 1024) (k % 1024 * 0x2000 + off) = some 0)
  ∧ (∀ f i, f < 40960 → i < 16 → regRead s (8 + f / 10240) (0x400000 + f % 10240 * 0x80 + 8 * i) = some 0)
  ∧ (∀ i : Fin 16, let x := s.ports[i]
      x.phase = .disabled ∧ x.vlan = none ∧ x.obeyPfc = false ∧ x.macsec = false ∧ x.replayWindow = 64 ∧ x.initialRto = 50000
        ∧ x.targetRtt = 20000 ∧ x.peerTimeout = 200000 ∧ x.laggard = 50)
  ∧ s.etherType = 0x88B5 ∧ s.sec.debug = .locked ∧ s.sec.sessions = [] ∧ s.fault.decaf = none
end

