-- ==== Sys2Proof/Laws/Bits.lean ====
section
/-! SUPPORT. Bit fields of numbers and of bit vectors put together; byte strings; crema pairs. -/

namespace Sys2Proof.Machine

theorem natField_lt (x lo w : Nat) : natField x lo w < 2 ^ w := Nat.mod_lt _ (by positivity)

theorem append_toNat {n m : Nat} (x : BitVec n) (y : BitVec m) : (x ++ y).toNat = x.toNat * 2 ^ m + y.toNat := by
  rw [BitVec.toNat_append, ← Nat.shiftLeft_add_eq_or_of_lt y.isLt, Nat.shiftLeft_eq]

/-- A field that lies in the lower of two bit vectors put together. -/
theorem natField_append_low {n m : Nat} (x : BitVec n) (y : BitVec m) {lo w : Nat} (h : lo + w ≤ m) :
    natField (x ++ y).toNat lo w = natField y.toNat lo w := by
  obtain ⟨d, rfl⟩ := Nat.exists_eq_add_of_le h
  rw [append_toNat]
  simp only [natField, Nat.shiftRight_eq_div_pow]
  rw [show x.toNat * 2 ^ (lo + w + d) + y.toNat = y.toNat + 2 ^ lo * (2 ^ w * (2 ^ d * x.toNat)) by rw [pow_add, pow_add]; ring,
    Nat.add_mul_div_left _ _ (by positivity), Nat.add_mul_mod_self_left]

/-- A field that lies in the upper of two bit vectors put together. -/
theorem natField_append_high {n m : Nat} (x : BitVec n) (y : BitVec m) {lo w : Nat} (h : m ≤ lo) :
    natField (x ++ y).toNat lo w = natField x.toNat (lo - m) w := by
  obtain ⟨d, rfl⟩ := Nat.exists_eq_add_of_le h
  rw [append_toNat]
  simp only [natField, Nat.shiftRight_eq_div_pow]
  rw [Nat.pow_add, ← Nat.div_div_eq_div_mul, Nat.mul_comm x.toNat, Nat.mul_add_div (by positivity), Nat.div_eq_of_lt y.isLt,
    Nat.add_zero, Nat.add_sub_cancel_left]

/-- The whole of a bit vector. -/
theorem natField_all {n : Nat} (x : BitVec n) : natField x.toNat 0 n = x.toNat := by
  simp [natField, Nat.mod_eq_of_lt x.isLt]

@[simp] theorem natToBytes_length (n x : Nat) : (natToBytes n x).length = n := by
  induction n generalizing x with
  | zero => rfl
  | succ n ih => simp [natToBytes, ih]

/-- The number that the little-endian bytes of a number spell (R6). -/
theorem bytesToNat_natToBytes (n x : Nat) : bytesToNat (natToBytes n x) = x % 2 ^ (8 * n) := by
  induction n generalizing x with
  | zero => simp [natToBytes, bytesToNat, Nat.mod_one]
  | succ n ih =>
    simp only [natToBytes, bytesToNat, ih, BitVec.toNat_ofNat]
    rw [show 8 * (n + 1) = 8 + 8 * n by ring, Nat.pow_add, Nat.mod_mul]

/-- A crema pair holds its value (R12, R13). -/
@[simp] theorem cp32Value_cp32 (v : Word32) : cp32Value (cp32 v) = some v := by
  have h : (cp32 v >>> 32).setWidth 32 = ~~~v := by
    apply BitVec.eq_of_getLsbD_eq; intro i hi; simp [cp32, hi]; rw [BitVec.getLsbD_append]; simp [hi, BitVec.getLsbD_eq_getElem]
  have l : (cp32 v).setWidth 32 = v := by
    apply BitVec.eq_of_getLsbD_eq; intro i hi; simp [cp32, hi]; rw [BitVec.getLsbD_append]; simp [hi, BitVec.getLsbD_eq_getElem]
  simp [cp32Value, h, l]

@[simp] theorem cp64Value_cp64 (v : Word64) : cp64Value (cp64 v) = some v := by
  have h : (cp64 v >>> 64).setWidth 64 = ~~~v := by
    apply BitVec.eq_of_getLsbD_eq; intro i hi; simp [cp64, hi]; rw [BitVec.getLsbD_append]; simp [hi, BitVec.getLsbD_eq_getElem]
  have l : (cp64 v).setWidth 64 = v := by
    apply BitVec.eq_of_getLsbD_eq; intro i hi; simp [cp64, hi]; rw [BitVec.getLsbD_append]; simp [hi, BitVec.getLsbD_eq_getElem]
  simp [cp64Value, h, l]

end Sys2Proof.Machine
end

