-- ==== Sys2Proof/Laws/Maps.lean ====
section
/-! SUPPORT. Sparse tables: what a read finds after a write, and that the keys keep rising. -/

namespace Sys2Proof.Machine

variable {α : Type}

@[simp] theorem mapGet_mapSet_same (m : SMap α) (k : Nat) (v : α) : mapGet (mapSet m k v) k = some v := by
  induction m with
  | nil => simp [mapSet, mapGet]
  | cons e m ih =>
    obtain ⟨j, w⟩ := e
    simp only [mapSet]
    split
    · simp [mapGet]
    · split
      · simp [mapGet]
      · rename_i h; simp [mapGet, ih, Ne.symm h]

theorem mapGet_mapSet_other (m : SMap α) {k i : Nat} (v : α) (h : i ≠ k) : mapGet (mapSet m k v) i = mapGet m i := by
  induction m with
  | nil => simp [mapSet, mapGet, Ne.symm h]
  | cons e m ih =>
    obtain ⟨j, w⟩ := e
    simp only [mapSet]
    split
    · simp [mapGet, Ne.symm h]
    · split
      · rename_i e; subst e; simp [mapGet, Ne.symm h]
      · simp [mapGet, ih]

@[simp] theorem mapSet_mapSet (m : SMap α) (k : Nat) (v w : α) : mapSet (mapSet m k v) k w = mapSet m k w := by
  induction m with
  | nil => simp [mapSet]
  | cons e m ih =>
    obtain ⟨j, x⟩ := e
    simp only [mapSet]
    split
    · simp [mapSet]
    · split
      · simp [mapSet]
      · rename_i a b; simp [mapSet, ih, a, b]

@[simp] theorem mapGetD_mapSet_same (m : SMap α) (k : Nat) (v d : α) : mapGetD (mapSet m k v) k d = v := by simp [mapGetD]

theorem mapGetD_mapSet_other (m : SMap α) {k i : Nat} (v d : α) (h : i ≠ k) : mapGetD (mapSet m k v) i d = mapGetD m i d := by
  simp [mapGetD, mapGet_mapSet_other m v h]

theorem mapGet_mapModify_same (m : SMap α) (k : Nat) (f : α → α) : mapGet (mapModify m k f) k = (mapGet m k).map f := by
  unfold mapModify
  cases h : mapGet m k with
  | none => simp [h]
  | some v => simp

theorem mapGet_mapModify_other (m : SMap α) {k i : Nat} (f : α → α) (h : i ≠ k) : mapGet (mapModify m k f) i = mapGet m i := by
  unfold mapModify
  cases mapGet m k with
  | none => rfl
  | some v => exact mapGet_mapSet_other m _ h

theorem mapGet_mapErase_other (m : SMap α) {k i : Nat} (h : i ≠ k) : mapGet (mapErase m k) i = mapGet m i := by
  induction m with
  | nil => rfl
  | cons e m ih =>
    obtain ⟨j, w⟩ := e
    simp only [mapErase]
    split
    · rename_i e; subst e; simp [mapGet, Ne.symm h]
    · simp [mapGet, ih]

/-- The keys above a bound rise strictly. -/
def keysFrom : Nat → SMap α → Bool
  | _, [] => true
  | lo, (j, _) :: rest => decide (lo ≤ j) && keysFrom (j + 1) rest

theorem mapWf_iff_keysFrom (m : SMap α) : mapWf m = true ↔ keysFrom 0 m = true := by
  have key : ∀ (m : SMap α) (lo : Nat), keysFrom lo m = true ↔ (mapWf m = true ∧ ∀ e ∈ m.head?, lo ≤ e.1) := by
    intro m
    induction m with
    | nil => simp [keysFrom, mapWf]
    | cons e m ih =>
      intro lo
      obtain ⟨j, w⟩ := e
      cases m with
      | nil => simp [keysFrom, mapWf]
      | cons e' m =>
        obtain ⟨j', w'⟩ := e'
        have := ih (j + 1)
        simp only [keysFrom, mapWf, Bool.and_eq_true, decide_eq_true_eq, List.head?_cons, Option.mem_def,
          Option.some.injEq, forall_eq'] at this ⊢
        constructor
        · rintro ⟨a, b, c⟩; exact ⟨⟨by omega, (this.mp ⟨b, c⟩).1⟩, a⟩
        · rintro ⟨⟨a, b⟩, c⟩; exact ⟨c, this.mpr ⟨b, by omega⟩⟩
  simpa using (key m 0).symm

end Sys2Proof.Machine
end

