-- ==== Sys2Proof/Laws/Core.lean ====
section
/-! SUPPORT. Cores: what reading a core finds after a change, and what the issue of an instruction comes to. -/

namespace Sys2Proof.Machine

@[simp] theorem coreAt_setCore_same (s : State) (k : Nat) (c : Core) : coreAt (setCore s k c) k = c := by simp [coreAt, setCore]

theorem coreAt_setCore_other (s : State) {k i : Nat} (c : Core) (h : i ≠ k) : coreAt (setCore s k c) i = coreAt s i := by
  simp [coreAt, setCore, mapGetD_mapSet_other _ _ _ h]

@[simp] theorem setCore_setCore (s : State) (k : Nat) (c d : Core) : setCore (setCore s k c) k d = setCore s k d := by
  simp [setCore]

@[simp] theorem coreAt_modCore_same (s : State) (k : Nat) (f : Core → Core) : coreAt (modCore s k f) k = f (coreAt s k) := by
  simp [modCore]

theorem coreAt_modCore_other (s : State) {k i : Nat} (f : Core → Core) (h : i ≠ k) : coreAt (modCore s k f) i = coreAt s i :=
  coreAt_setCore_other s _ h

/-- A change of a core followed by the retirement of its instruction is one step of the core. -/
theorem retire_modCore (s : State) (k : Nat) (f : Core → Core) (pc : Word32) : retire (modCore s k f) k pc = coreStep s k f pc := by
  simp [retire, modCore, coreStep]

@[simp] theorem settle_retire (s t : State) (k : Nat) (w pc : Word32) : settle s k w (.retire t pc) = retire t k pc := rfl
@[simp] theorem settle_stop (s : State) (k : Nat) (w : Word32) (cause addr : Nat) :
    settle s k w (.stop cause addr) = stopCore s k cause w addr := rfl
@[simp] theorem settle_hold (s : State) (k : Nat) (w : Word32) : settle s k w .hold = s := rfl
@[simp] theorem settle_onCore (s : State) (k : Nat) (w : Word32) (f : Core → Core) (pc : Word32) :
    settle s k w (onCore s k f pc) = coreStep s k f pc := retire_modCore s k f pc

/-- The issue of the instruction that a core issues next comes to what its effect says. -/
theorem issue_eq {s : State} {k len : Nat} {word : Word32} (h : Issues s k word len) (eff : Core → Word32 → Issue) :
    issue s k word eff = settle s k word (eff (coreAt s k) (pcAfter s k len)) := by
  simp [issue, h.can, h.fetched, pcAfter]

/-- A vector instruction whose word is listed and whose condition holds changes its core. -/
theorem vecIssue_eq {s : State} {k : Nat} {word : Word32} (h : Issues s k word 4) (hl : lxListed word.toNat = true)
    {ok : Core → Bool} (hk : ok (coreAt s k) = true) (f : Core → Core) :
    vecIssue s k word ok f = coreStep s k f (pcAfter s k 4) := by
  simp [vecIssue, issue_eq h, hl, hk]

/-- A word of six fields fits 32 bits. -/
theorem wordFields_lt {f7 rs2 rs1 f3 rd opc : Nat} (h7 : f7 < 128) (h2 : rs2 < 32) (h1 : rs1 < 32) (h3 : f3 < 8) (hd : rd < 32) (ho : opc < 128) :
    f7 * 2 ^ 25 + rs2 * 2 ^ 20 + rs1 * 2 ^ 15 + f3 * 2 ^ 12 + rd * 2 ^ 7 + opc < 2 ^ 32 := by omega
/-- The upper and the lower part of a number put together from two fields. -/
theorem fieldStep (a b w : Nat) (h : b < 2 ^ w) : (a * 2 ^ w + b) / 2 ^ w = a ∧ (a * 2 ^ w + b) % 2 ^ w = b := by
  constructor
  · rw [Nat.mul_comm, Nat.mul_add_div (by positivity), Nat.div_eq_of_lt h, Nat.add_zero]
  · rw [Nat.mul_comm, Nat.mul_add_mod, Nat.mod_eq_of_lt h]
/-- The fields of a word of the R format (R121). -/
theorem rWord_fields {f7 rs2 rs1 f3 rd opc : Nat} (h7 : f7 < 128) (h2 : rs2 < 32) (h1 : rs1 < 32) (h3 : f3 < 8) (hd : rd < 32) (ho : opc < 128) :
    natField (rWord f7 rs2 rs1 f3 rd opc).toNat 0 7 = opc ∧ natField (rWord f7 rs2 rs1 f3 rd opc).toNat 7 5 = rd
    ∧ natField (rWord f7 rs2 rs1 f3 rd opc).toNat 12 3 = f3 ∧ natField (rWord f7 rs2 rs1 f3 rd opc).toNat 15 5 = rs1
    ∧ natField (rWord f7 rs2 rs1 f3 rd opc).toNat 20 5 = rs2 ∧ natField (rWord f7 rs2 rs1 f3 rd opc).toNat 25 7 = f7 := by
  have e : (rWord f7 rs2 rs1 f3 rd opc).toNat = (((((f7 * 2 ^ 5 + rs2) * 2 ^ 5 + rs1) * 2 ^ 3 + f3) * 2 ^ 5 + rd) * 2 ^ 7 + opc) := by
    rw [rWord, BitVec.toNat_ofNat, Nat.mod_eq_of_lt (wordFields_lt h7 h2 h1 h3 hd ho)]; ring
  simp only [e, natField, Nat.shiftRight_eq_div_pow]
  have d7 (x : Nat) : x / 2 ^ 12 = x / 2 ^ 7 / 2 ^ 5 := by simp only [Nat.div_div_eq_div_mul]; rfl
  have d15 (x : Nat) : x / 2 ^ 15 = x / 2 ^ 7 / 2 ^ 5 / 2 ^ 3 := by simp only [Nat.div_div_eq_div_mul]; rfl
  have d20 (x : Nat) : x / 2 ^ 20 = x / 2 ^ 7 / 2 ^ 5 / 2 ^ 3 / 2 ^ 5 := by simp only [Nat.div_div_eq_div_mul]; rfl
  have d25 (x : Nat) : x / 2 ^ 25 = x / 2 ^ 7 / 2 ^ 5 / 2 ^ 3 / 2 ^ 5 / 2 ^ 5 := by simp only [Nat.div_div_eq_div_mul]; rfl
  have a1 := fieldStep ((((f7 * 2 ^ 5 + rs2) * 2 ^ 5 + rs1) * 2 ^ 3 + f3) * 2 ^ 5 + rd) opc 7 ho
  have a2 := fieldStep (((f7 * 2 ^ 5 + rs2) * 2 ^ 5 + rs1) * 2 ^ 3 + f3) rd 5 hd
  have a3 := fieldStep ((f7 * 2 ^ 5 + rs2) * 2 ^ 5 + rs1) f3 3 h3
  have a4 := fieldStep (f7 * 2 ^ 5 + rs2) rs1 5 h1
  have a5 := fieldStep f7 rs2 5 h2
  simp only [d7, d15, d20, d25, a1, a2, a3, a4, a5, pow_zero, Nat.div_one]
  simp [Nat.mod_eq_of_lt, *]

end Sys2Proof.Machine
end

