-- ==== Sys2Proof/Laws/State.lean ====
section
/-! SUPPORT. What each update of the state leaves as it was, one lemma an update, and what operations on memory leave. -/

namespace Sys2Proof.Machine

@[simp] theorem setPart_frame (s : State) (p : Nat) (x : Partition) :
    (setPart s p x).pending = s.pending ∧ (setPart s p x).big = s.big ∧ (setPart s p x).pins = s.pins ∧
    (setPart s p x).life = s.life ∧ (setPart s p x).flash = s.flash ∧ (setPart s p x).sec = s.sec ∧ (setPart s p x).power = s.power ∧
    (setPart s p x).dies = s.dies ∧ (setPart s p x).hours = s.hours ∧ (setPart s p x).domains = s.domains ∧
    (setPart s p x).fault = s.fault ∧ (setPart s p x).mem = s.mem ∧ (setPart s p x).hostMem = s.hostMem ∧
    (setPart s p x).poison = s.poison ∧ (setPart s p x).cores = s.cores ∧ (setPart s p x).spills = s.spills ∧
    (setPart s p x).clusterOff = s.clusterOff ∧ (setPart s p x).arbLast = s.arbLast ∧ (setPart s p x).channels = s.channels ∧
    (setPart s p x).derated = s.derated ∧ (setPart s p x).caches = s.caches ∧ (setPart s p x).homes = s.homes ∧
    (setPart s p x).holds = s.holds ∧ (setPart s p x).hostReads = s.hostReads ∧ (setPart s p x).funcs = s.funcs ∧
    (setPart s p x).queues = s.queues ∧ (setPart s p x).harts = s.harts ∧ (setPart s p x).imsic = s.imsic ∧
    (setPart s p x).aplic = s.aplic ∧ (setPart s p x).ports = s.ports ∧ (setPart s p x).flows = s.flows ∧
    (setPart s p x).colls = s.colls ∧ (setPart s p x).videos = s.videos ∧ (setPart s p x).link = s.link ∧
    (setPart s p x).linkReplays = s.linkReplays ∧ (setPart s p x).etherType = s.etherType ∧ (setPart s p x).telemetry = s.telemetry ∧
    (setPart s p x).hostOut = s.hostOut ∧ (setPart s p x).portOut = s.portOut ∧ (setPart s p x).free = s.free :=
  ⟨rfl, rfl, rfl, rfl, rfl, rfl, rfl, rfl, rfl, rfl, rfl, rfl, rfl, rfl, rfl, rfl, rfl, rfl, rfl, rfl, rfl, rfl, rfl, rfl, rfl, rfl, rfl, rfl, rfl, rfl, rfl, rfl, rfl, rfl, rfl, rfl, rfl, rfl, rfl, rfl⟩

@[simp] theorem modPart_frame (s : State) (p : Nat) (f : Partition → Partition) :
    (modPart s p f).pending = s.pending ∧ (modPart s p f).big = s.big ∧ (modPart s p f).pins = s.pins ∧
    (modPart s p f).life = s.life ∧ (modPart s p f).flash = s.flash ∧ (modPart s p f).sec = s.sec ∧ (modPart s p f).power = s.power ∧
    (modPart s p f).dies = s.dies ∧ (modPart s p f).hours = s.hours ∧ (modPart s p f).domains = s.domains ∧
    (modPart s p f).fault = s.fault ∧ (modPart s p f).mem = s.mem ∧ (modPart s p f).hostMem = s.hostMem ∧
    (modPart s p f).poison = s.poison ∧ (modPart s p f).cores = s.cores ∧ (modPart s p f).spills = s.spills ∧
    (modPart s p f).clusterOff = s.clusterOff ∧ (modPart s p f).arbLast = s.arbLast ∧ (modPart s p f).channels = s.channels ∧
    (modPart s p f).derated = s.derated ∧ (modPart s p f).caches = s.caches ∧ (modPart s p f).homes = s.homes ∧
    (modPart s p f).holds = s.holds ∧ (modPart s p f).hostReads = s.hostReads ∧ (modPart s p f).funcs = s.funcs ∧
    (modPart s p f).queues = s.queues ∧ (modPart s p f).harts = s.harts ∧ (modPart s p f).imsic = s.imsic ∧
    (modPart s p f).aplic = s.aplic ∧ (modPart s p f).ports = s.ports ∧ (modPart s p f).flows = s.flows ∧
    (modPart s p f).colls = s.colls ∧ (modPart s p f).videos = s.videos ∧ (modPart s p f).link = s.link ∧
    (modPart s p f).linkReplays = s.linkReplays ∧ (modPart s p f).etherType = s.etherType ∧ (modPart s p f).telemetry = s.telemetry ∧
    (modPart s p f).hostOut = s.hostOut ∧ (modPart s p f).portOut = s.portOut ∧ (modPart s p f).free = s.free :=
  ⟨rfl, rfl, rfl, rfl, rfl, rfl, rfl, rfl, rfl, rfl, rfl, rfl, rfl, rfl, rfl, rfl, rfl, rfl, rfl, rfl, rfl, rfl, rfl, rfl, rfl, rfl, rfl, rfl, rfl, rfl, rfl, rfl, rfl, rfl, rfl, rfl, rfl, rfl, rfl, rfl⟩

@[simp] theorem modFunc_frame (s : State) (fn : Nat) (f : Func → Func) :
    (modFunc s fn f).pending = s.pending ∧ (modFunc s fn f).big = s.big ∧ (modFunc s fn f).pins = s.pins ∧
    (modFunc s fn f).life = s.life ∧ (modFunc s fn f).flash = s.flash ∧ (modFunc s fn f).sec = s.sec ∧
    (modFunc s fn f).power = s.power ∧ (modFunc s fn f).dies = s.dies ∧ (modFunc s fn f).hours = s.hours ∧
    (modFunc s fn f).domains = s.domains ∧ (modFunc s fn f).fault = s.fault ∧ (modFunc s fn f).mem = s.mem ∧
    (modFunc s fn f).hostMem = s.hostMem ∧ (modFunc s fn f).poison = s.poison ∧ (modFunc s fn f).cores = s.cores ∧
    (modFunc s fn f).spills = s.spills ∧ (modFunc s fn f).clusterOff = s.clusterOff ∧ (modFunc s fn f).arbLast = s.arbLast ∧
    (modFunc s fn f).channels = s.channels ∧ (modFunc s fn f).derated = s.derated ∧ (modFunc s fn f).caches = s.caches ∧
    (modFunc s fn f).homes = s.homes ∧ (modFunc s fn f).holds = s.holds ∧ (modFunc s fn f).hostReads = s.hostReads ∧
    (modFunc s fn f).partitions = s.partitions ∧ (modFunc s fn f).queues = s.queues ∧ (modFunc s fn f).harts = s.harts ∧
    (modFunc s fn f).imsic = s.imsic ∧ (modFunc s fn f).aplic = s.aplic ∧ (modFunc s fn f).ports = s.ports ∧
    (modFunc s fn f).flows = s.flows ∧ (modFunc s fn f).colls = s.colls ∧ (modFunc s fn f).videos = s.videos ∧
    (modFunc s fn f).link = s.link ∧ (modFunc s fn f).linkReplays = s.linkReplays ∧ (modFunc s fn f).etherType = s.etherType ∧
    (modFunc s fn f).telemetry = s.telemetry ∧ (modFunc s fn f).hostOut = s.hostOut ∧ (modFunc s fn f).portOut = s.portOut ∧
    (modFunc s fn f).free = s.free :=
  ⟨rfl, rfl, rfl, rfl, rfl, rfl, rfl, rfl, rfl, rfl, rfl, rfl, rfl, rfl, rfl, rfl, rfl, rfl, rfl, rfl, rfl, rfl, rfl, rfl, rfl, rfl, rfl, rfl, rfl, rfl, rfl, rfl, rfl, rfl, rfl, rfl, rfl, rfl, rfl, rfl⟩

@[simp] theorem modQueue_frame (s : State) (q : Nat) (f : Queue → Queue) :
    (modQueue s q f).pending = s.pending ∧ (modQueue s q f).big = s.big ∧ (modQueue s q f).pins = s.pins ∧
    (modQueue s q f).life = s.life ∧ (modQueue s q f).flash = s.flash ∧ (modQueue s q f).sec = s.sec ∧
    (modQueue s q f).power = s.power ∧ (modQueue s q f).dies = s.dies ∧ (modQueue s q f).hours = s.hours ∧
    (modQueue s q f).domains = s.domains ∧ (modQueue s q f).fault = s.fault ∧ (modQueue s q f).mem = s.mem ∧
    (modQueue s q f).hostMem = s.hostMem ∧ (modQueue s q f).poison = s.poison ∧ (modQueue s q f).cores = s.cores ∧
    (modQueue s q f).spills = s.spills ∧ (modQueue s q f).clusterOff = s.clusterOff ∧ (modQueue s q f).arbLast = s.arbLast ∧
    (modQueue s q f).channels = s.channels ∧ (modQueue s q f).derated = s.derated ∧ (modQueue s q f).caches = s.caches ∧
    (modQueue s q f).homes = s.homes ∧ (modQueue s q f).holds = s.holds ∧ (modQueue s q f).hostReads = s.hostReads ∧
    (modQueue s q f).partitions = s.partitions ∧ (modQueue s q f).funcs = s.funcs ∧ (modQueue s q f).harts = s.harts ∧
    (modQueue s q f).imsic = s.imsic ∧ (modQueue s q f).aplic = s.aplic ∧ (modQueue s q f).ports = s.ports ∧
    (modQueue s q f).flows = s.flows ∧ (modQueue s q f).colls = s.colls ∧ (modQueue s q f).videos = s.videos ∧
    (modQueue s q f).link = s.link ∧ (modQueue s q f).linkReplays = s.linkReplays ∧ (modQueue s q f).etherType = s.etherType ∧
    (modQueue s q f).telemetry = s.telemetry ∧ (modQueue s q f).hostOut = s.hostOut ∧ (modQueue s q f).portOut = s.portOut ∧
    (modQueue s q f).free = s.free :=
  ⟨rfl, rfl, rfl, rfl, rfl, rfl, rfl, rfl, rfl, rfl, rfl, rfl, rfl, rfl, rfl, rfl, rfl, rfl, rfl, rfl, rfl, rfl, rfl, rfl, rfl, rfl, rfl, rfl, rfl, rfl, rfl, rfl, rfl, rfl, rfl, rfl, rfl, rfl, rfl, rfl⟩

@[simp] theorem setCore_frame (s : State) (c : Nat) (x : Core) :
    (setCore s c x).pending = s.pending ∧ (setCore s c x).big = s.big ∧ (setCore s c x).pins = s.pins ∧
    (setCore s c x).life = s.life ∧ (setCore s c x).flash = s.flash ∧ (setCore s c x).sec = s.sec ∧ (setCore s c x).power = s.power ∧
    (setCore s c x).dies = s.dies ∧ (setCore s c x).hours = s.hours ∧ (setCore s c x).domains = s.domains ∧
    (setCore s c x).fault = s.fault ∧ (setCore s c x).mem = s.mem ∧ (setCore s c x).hostMem = s.hostMem ∧
    (setCore s c x).poison = s.poison ∧ (setCore s c x).spills = s.spills ∧ (setCore s c x).clusterOff = s.clusterOff ∧
    (setCore s c x).arbLast = s.arbLast ∧ (setCore s c x).channels = s.channels ∧ (setCore s c x).derated = s.derated ∧
    (setCore s c x).caches = s.caches ∧ (setCore s c x).homes = s.homes ∧ (setCore s c x).holds = s.holds ∧
    (setCore s c x).hostReads = s.hostReads ∧ (setCore s c x).partitions = s.partitions ∧ (setCore s c x).funcs = s.funcs ∧
    (setCore s c x).queues = s.queues ∧ (setCore s c x).harts = s.harts ∧ (setCore s c x).imsic = s.imsic ∧
    (setCore s c x).aplic = s.aplic ∧ (setCore s c x).ports = s.ports ∧ (setCore s c x).flows = s.flows ∧
    (setCore s c x).colls = s.colls ∧ (setCore s c x).videos = s.videos ∧ (setCore s c x).link = s.link ∧
    (setCore s c x).linkReplays = s.linkReplays ∧ (setCore s c x).etherType = s.etherType ∧ (setCore s c x).telemetry = s.telemetry ∧
    (setCore s c x).hostOut = s.hostOut ∧ (setCore s c x).portOut = s.portOut ∧ (setCore s c x).free = s.free :=
  ⟨rfl, rfl, rfl, rfl, rfl, rfl, rfl, rfl, rfl, rfl, rfl, rfl, rfl, rfl, rfl, rfl, rfl, rfl, rfl, rfl, rfl, rfl, rfl, rfl, rfl, rfl, rfl, rfl, rfl, rfl, rfl, rfl, rfl, rfl, rfl, rfl, rfl, rfl, rfl, rfl⟩

@[simp] theorem modCore_frame (s : State) (c : Nat) (f : Core → Core) :
    (modCore s c f).pending = s.pending ∧ (modCore s c f).big = s.big ∧ (modCore s c f).pins = s.pins ∧
    (modCore s c f).life = s.life ∧ (modCore s c f).flash = s.flash ∧ (modCore s c f).sec = s.sec ∧ (modCore s c f).power = s.power ∧
    (modCore s c f).dies = s.dies ∧ (modCore s c f).hours = s.hours ∧ (modCore s c f).domains = s.domains ∧
    (modCore s c f).fault = s.fault ∧ (modCore s c f).mem = s.mem ∧ (modCore s c f).hostMem = s.hostMem ∧
    (modCore s c f).poison = s.poison ∧ (modCore s c f).spills = s.spills ∧ (modCore s c f).clusterOff = s.clusterOff ∧
    (modCore s c f).arbLast = s.arbLast ∧ (modCore s c f).channels = s.channels ∧ (modCore s c f).derated = s.derated ∧
    (modCore s c f).caches = s.caches ∧ (modCore s c f).homes = s.homes ∧ (modCore s c f).holds = s.holds ∧
    (modCore s c f).hostReads = s.hostReads ∧ (modCore s c f).partitions = s.partitions ∧ (modCore s c f).funcs = s.funcs ∧
    (modCore s c f).queues = s.queues ∧ (modCore s c f).harts = s.harts ∧ (modCore s c f).imsic = s.imsic ∧
    (modCore s c f).aplic = s.aplic ∧ (modCore s c f).ports = s.ports ∧ (modCore s c f).flows = s.flows ∧
    (modCore s c f).colls = s.colls ∧ (modCore s c f).videos = s.videos ∧ (modCore s c f).link = s.link ∧
    (modCore s c f).linkReplays = s.linkReplays ∧ (modCore s c f).etherType = s.etherType ∧ (modCore s c f).telemetry = s.telemetry ∧
    (modCore s c f).hostOut = s.hostOut ∧ (modCore s c f).portOut = s.portOut ∧ (modCore s c f).free = s.free :=
  ⟨rfl, rfl, rfl, rfl, rfl, rfl, rfl, rfl, rfl, rfl, rfl, rfl, rfl, rfl, rfl, rfl, rfl, rfl, rfl, rfl, rfl, rfl, rfl, rfl, rfl, rfl, rfl, rfl, rfl, rfl, rfl, rfl, rfl, rfl, rfl, rfl, rfl, rfl, rfl, rfl⟩

@[simp] theorem modJob_frame (s : State) (p : Nat) (f : Job → Job) :
    (modJob s p f).pending = s.pending ∧ (modJob s p f).big = s.big ∧ (modJob s p f).pins = s.pins ∧ (modJob s p f).life = s.life ∧
    (modJob s p f).flash = s.flash ∧ (modJob s p f).sec = s.sec ∧ (modJob s p f).power = s.power ∧ (modJob s p f).dies = s.dies ∧
    (modJob s p f).hours = s.hours ∧ (modJob s p f).domains = s.domains ∧ (modJob s p f).fault = s.fault ∧
    (modJob s p f).mem = s.mem ∧ (modJob s p f).hostMem = s.hostMem ∧ (modJob s p f).poison = s.poison ∧
    (modJob s p f).cores = s.cores ∧ (modJob s p f).spills = s.spills ∧ (modJob s p f).clusterOff = s.clusterOff ∧
    (modJob s p f).arbLast = s.arbLast ∧ (modJob s p f).channels = s.channels ∧ (modJob s p f).derated = s.derated ∧
    (modJob s p f).caches = s.caches ∧ (modJob s p f).homes = s.homes ∧ (modJob s p f).holds = s.holds ∧
    (modJob s p f).hostReads = s.hostReads ∧ (modJob s p f).funcs = s.funcs ∧ (modJob s p f).queues = s.queues ∧
    (modJob s p f).harts = s.harts ∧ (modJob s p f).imsic = s.imsic ∧ (modJob s p f).aplic = s.aplic ∧
    (modJob s p f).ports = s.ports ∧ (modJob s p f).flows = s.flows ∧ (modJob s p f).colls = s.colls ∧
    (modJob s p f).videos = s.videos ∧ (modJob s p f).link = s.link ∧ (modJob s p f).linkReplays = s.linkReplays ∧
    (modJob s p f).etherType = s.etherType ∧ (modJob s p f).telemetry = s.telemetry ∧ (modJob s p f).hostOut = s.hostOut ∧
    (modJob s p f).portOut = s.portOut ∧ (modJob s p f).free = s.free :=
  ⟨rfl, rfl, rfl, rfl, rfl, rfl, rfl, rfl, rfl, rfl, rfl, rfl, rfl, rfl, rfl, rfl, rfl, rfl, rfl, rfl, rfl, rfl, rfl, rfl, rfl, rfl, rfl, rfl, rfl, rfl, rfl, rfl, rfl, rfl, rfl, rfl, rfl, rfl, rfl, rfl⟩

@[simp] theorem modChannel_frame (s : State) (c : Nat) (f : Channel → Channel) :
    (modChannel s c f).pending = s.pending ∧ (modChannel s c f).big = s.big ∧ (modChannel s c f).pins = s.pins ∧
    (modChannel s c f).life = s.life ∧ (modChannel s c f).flash = s.flash ∧ (modChannel s c f).sec = s.sec ∧
    (modChannel s c f).power = s.power ∧ (modChannel s c f).dies = s.dies ∧ (modChannel s c f).hours = s.hours ∧
    (modChannel s c f).domains = s.domains ∧ (modChannel s c f).fault = s.fault ∧ (modChannel s c f).mem = s.mem ∧
    (modChannel s c f).hostMem = s.hostMem ∧ (modChannel s c f).poison = s.poison ∧ (modChannel s c f).cores = s.cores ∧
    (modChannel s c f).spills = s.spills ∧ (modChannel s c f).clusterOff = s.clusterOff ∧ (modChannel s c f).arbLast = s.arbLast ∧
    (modChannel s c f).derated = s.derated ∧ (modChannel s c f).caches = s.caches ∧ (modChannel s c f).homes = s.homes ∧
    (modChannel s c f).holds = s.holds ∧ (modChannel s c f).hostReads = s.hostReads ∧ (modChannel s c f).partitions = s.partitions ∧
    (modChannel s c f).funcs = s.funcs ∧ (modChannel s c f).queues = s.queues ∧ (modChannel s c f).harts = s.harts ∧
    (modChannel s c f).imsic = s.imsic ∧ (modChannel s c f).aplic = s.aplic ∧ (modChannel s c f).ports = s.ports ∧
    (modChannel s c f).flows = s.flows ∧ (modChannel s c f).colls = s.colls ∧ (modChannel s c f).videos = s.videos ∧
    (modChannel s c f).link = s.link ∧ (modChannel s c f).linkReplays = s.linkReplays ∧ (modChannel s c f).etherType = s.etherType ∧
    (modChannel s c f).telemetry = s.telemetry ∧ (modChannel s c f).hostOut = s.hostOut ∧ (modChannel s c f).portOut = s.portOut ∧
    (modChannel s c f).free = s.free := by
  unfold modChannel; split <;> exact ⟨rfl, rfl, rfl, rfl, rfl, rfl, rfl, rfl, rfl, rfl, rfl, rfl, rfl, rfl, rfl, rfl, rfl, rfl, rfl, rfl, rfl, rfl, rfl, rfl, rfl, rfl, rfl, rfl, rfl, rfl, rfl, rfl, rfl, rfl, rfl, rfl, rfl, rfl, rfl, rfl⟩

@[simp] theorem modHome_frame (s : State) (m : Nat) (f : HomeNode → HomeNode) :
    (modHome s m f).pending = s.pending ∧ (modHome s m f).big = s.big ∧ (modHome s m f).pins = s.pins ∧
    (modHome s m f).life = s.life ∧ (modHome s m f).flash = s.flash ∧ (modHome s m f).sec = s.sec ∧ (modHome s m f).power = s.power ∧
    (modHome s m f).dies = s.dies ∧ (modHome s m f).hours = s.hours ∧ (modHome s m f).domains = s.domains ∧
    (modHome s m f).fault = s.fault ∧ (modHome s m f).mem = s.mem ∧ (modHome s m f).hostMem = s.hostMem ∧
    (modHome s m f).poison = s.poison ∧ (modHome s m f).cores = s.cores ∧ (modHome s m f).spills = s.spills ∧
    (modHome s m f).clusterOff = s.clusterOff ∧ (modHome s m f).arbLast = s.arbLast ∧ (modHome s m f).channels = s.channels ∧
    (modHome s m f).derated = s.derated ∧ (modHome s m f).caches = s.caches ∧ (modHome s m f).holds = s.holds ∧
    (modHome s m f).hostReads = s.hostReads ∧ (modHome s m f).partitions = s.partitions ∧ (modHome s m f).funcs = s.funcs ∧
    (modHome s m f).queues = s.queues ∧ (modHome s m f).harts = s.harts ∧ (modHome s m f).imsic = s.imsic ∧
    (modHome s m f).aplic = s.aplic ∧ (modHome s m f).ports = s.ports ∧ (modHome s m f).flows = s.flows ∧
    (modHome s m f).colls = s.colls ∧ (modHome s m f).videos = s.videos ∧ (modHome s m f).link = s.link ∧
    (modHome s m f).linkReplays = s.linkReplays ∧ (modHome s m f).etherType = s.etherType ∧ (modHome s m f).telemetry = s.telemetry ∧
    (modHome s m f).hostOut = s.hostOut ∧ (modHome s m f).portOut = s.portOut ∧ (modHome s m f).free = s.free := by
  unfold modHome; split <;> exact ⟨rfl, rfl, rfl, rfl, rfl, rfl, rfl, rfl, rfl, rfl, rfl, rfl, rfl, rfl, rfl, rfl, rfl, rfl, rfl, rfl, rfl, rfl, rfl, rfl, rfl, rfl, rfl, rfl, rfl, rfl, rfl, rfl, rfl, rfl, rfl, rfl, rfl, rfl, rfl, rfl⟩

@[simp] theorem modHart_frame (s : State) (i : Nat) (f : Hart → Hart) :
    (modHart s i f).pending = s.pending ∧ (modHart s i f).big = s.big ∧ (modHart s i f).pins = s.pins ∧
    (modHart s i f).life = s.life ∧ (modHart s i f).flash = s.flash ∧ (modHart s i f).sec = s.sec ∧ (modHart s i f).power = s.power ∧
    (modHart s i f).dies = s.dies ∧ (modHart s i f).hours = s.hours ∧ (modHart s i f).domains = s.domains ∧
    (modHart s i f).fault = s.fault ∧ (modHart s i f).mem = s.mem ∧ (modHart s i f).hostMem = s.hostMem ∧
    (modHart s i f).poison = s.poison ∧ (modHart s i f).cores = s.cores ∧ (modHart s i f).spills = s.spills ∧
    (modHart s i f).clusterOff = s.clusterOff ∧ (modHart s i f).arbLast = s.arbLast ∧ (modHart s i f).channels = s.channels ∧
    (modHart s i f).derated = s.derated ∧ (modHart s i f).caches = s.caches ∧ (modHart s i f).homes = s.homes ∧
    (modHart s i f).holds = s.holds ∧ (modHart s i f).hostReads = s.hostReads ∧ (modHart s i f).partitions = s.partitions ∧
    (modHart s i f).funcs = s.funcs ∧ (modHart s i f).queues = s.queues ∧ (modHart s i f).imsic = s.imsic ∧
    (modHart s i f).aplic = s.aplic ∧ (modHart s i f).ports = s.ports ∧ (modHart s i f).flows = s.flows ∧
    (modHart s i f).colls = s.colls ∧ (modHart s i f).videos = s.videos ∧ (modHart s i f).link = s.link ∧
    (modHart s i f).linkReplays = s.linkReplays ∧ (modHart s i f).etherType = s.etherType ∧ (modHart s i f).telemetry = s.telemetry ∧
    (modHart s i f).hostOut = s.hostOut ∧ (modHart s i f).portOut = s.portOut ∧ (modHart s i f).free = s.free := by
  unfold modHart; split <;> exact ⟨rfl, rfl, rfl, rfl, rfl, rfl, rfl, rfl, rfl, rfl, rfl, rfl, rfl, rfl, rfl, rfl, rfl, rfl, rfl, rfl, rfl, rfl, rfl, rfl, rfl, rfl, rfl, rfl, rfl, rfl, rfl, rfl, rfl, rfl, rfl, rfl, rfl, rfl, rfl, rfl⟩

@[simp] theorem modPort_frame (s : State) (i : Nat) (f : Port → Port) :
    (modPort s i f).pending = s.pending ∧ (modPort s i f).big = s.big ∧ (modPort s i f).pins = s.pins ∧
    (modPort s i f).life = s.life ∧ (modPort s i f).flash = s.flash ∧ (modPort s i f).sec = s.sec ∧ (modPort s i f).power = s.power ∧
    (modPort s i f).dies = s.dies ∧ (modPort s i f).hours = s.hours ∧ (modPort s i f).domains = s.domains ∧
    (modPort s i f).fault = s.fault ∧ (modPort s i f).mem = s.mem ∧ (modPort s i f).hostMem = s.hostMem ∧
    (modPort s i f).poison = s.poison ∧ (modPort s i f).cores = s.cores ∧ (modPort s i f).spills = s.spills ∧
    (modPort s i f).clusterOff = s.clusterOff ∧ (modPort s i f).arbLast = s.arbLast ∧ (modPort s i f).channels = s.channels ∧
    (modPort s i f).derated = s.derated ∧ (modPort s i f).caches = s.caches ∧ (modPort s i f).homes = s.homes ∧
    (modPort s i f).holds = s.holds ∧ (modPort s i f).hostReads = s.hostReads ∧ (modPort s i f).partitions = s.partitions ∧
    (modPort s i f).funcs = s.funcs ∧ (modPort s i f).queues = s.queues ∧ (modPort s i f).harts = s.harts ∧
    (modPort s i f).imsic = s.imsic ∧ (modPort s i f).aplic = s.aplic ∧ (modPort s i f).flows = s.flows ∧
    (modPort s i f).colls = s.colls ∧ (modPort s i f).videos = s.videos ∧ (modPort s i f).link = s.link ∧
    (modPort s i f).linkReplays = s.linkReplays ∧ (modPort s i f).etherType = s.etherType ∧ (modPort s i f).telemetry = s.telemetry ∧
    (modPort s i f).hostOut = s.hostOut ∧ (modPort s i f).portOut = s.portOut ∧ (modPort s i f).free = s.free := by
  unfold modPort; split <;> exact ⟨rfl, rfl, rfl, rfl, rfl, rfl, rfl, rfl, rfl, rfl, rfl, rfl, rfl, rfl, rfl, rfl, rfl, rfl, rfl, rfl, rfl, rfl, rfl, rfl, rfl, rfl, rfl, rfl, rfl, rfl, rfl, rfl, rfl, rfl, rfl, rfl, rfl, rfl, rfl, rfl⟩

@[simp] theorem modVideo_frame (s : State) (i : Nat) (f : VideoUnit → VideoUnit) :
    (modVideo s i f).pending = s.pending ∧ (modVideo s i f).big = s.big ∧ (modVideo s i f).pins = s.pins ∧
    (modVideo s i f).life = s.life ∧ (modVideo s i f).flash = s.flash ∧ (modVideo s i f).sec = s.sec ∧
    (modVideo s i f).power = s.power ∧ (modVideo s i f).dies = s.dies ∧ (modVideo s i f).hours = s.hours ∧
    (modVideo s i f).domains = s.domains ∧ (modVideo s i f).fault = s.fault ∧ (modVideo s i f).mem = s.mem ∧
    (modVideo s i f).hostMem = s.hostMem ∧ (modVideo s i f).poison = s.poison ∧ (modVideo s i f).cores = s.cores ∧
    (modVideo s i f).spills = s.spills ∧ (modVideo s i f).clusterOff = s.clusterOff ∧ (modVideo s i f).arbLast = s.arbLast ∧
    (modVideo s i f).channels = s.channels ∧ (modVideo s i f).derated = s.derated ∧ (modVideo s i f).caches = s.caches ∧
    (modVideo s i f).homes = s.homes ∧ (modVideo s i f).holds = s.holds ∧ (modVideo s i f).hostReads = s.hostReads ∧
    (modVideo s i f).partitions = s.partitions ∧ (modVideo s i f).funcs = s.funcs ∧ (modVideo s i f).queues = s.queues ∧
    (modVideo s i f).harts = s.harts ∧ (modVideo s i f).imsic = s.imsic ∧ (modVideo s i f).aplic = s.aplic ∧
    (modVideo s i f).ports = s.ports ∧ (modVideo s i f).flows = s.flows ∧ (modVideo s i f).colls = s.colls ∧
    (modVideo s i f).link = s.link ∧ (modVideo s i f).linkReplays = s.linkReplays ∧ (modVideo s i f).etherType = s.etherType ∧
    (modVideo s i f).telemetry = s.telemetry ∧ (modVideo s i f).hostOut = s.hostOut ∧ (modVideo s i f).portOut = s.portOut ∧
    (modVideo s i f).free = s.free := by
  unfold modVideo; split <;> exact ⟨rfl, rfl, rfl, rfl, rfl, rfl, rfl, rfl, rfl, rfl, rfl, rfl, rfl, rfl, rfl, rfl, rfl, rfl, rfl, rfl, rfl, rfl, rfl, rfl, rfl, rfl, rfl, rfl, rfl, rfl, rfl, rfl, rfl, rfl, rfl, rfl, rfl, rfl, rfl, rfl⟩

@[simp] theorem modDie_frame (s : State) (i : Nat) (f : DiePower → DiePower) :
    (modDie s i f).pending = s.pending ∧ (modDie s i f).big = s.big ∧ (modDie s i f).pins = s.pins ∧ (modDie s i f).life = s.life ∧
    (modDie s i f).flash = s.flash ∧ (modDie s i f).sec = s.sec ∧ (modDie s i f).power = s.power ∧ (modDie s i f).hours = s.hours ∧
    (modDie s i f).domains = s.domains ∧ (modDie s i f).fault = s.fault ∧ (modDie s i f).mem = s.mem ∧
    (modDie s i f).hostMem = s.hostMem ∧ (modDie s i f).poison = s.poison ∧ (modDie s i f).cores = s.cores ∧
    (modDie s i f).spills = s.spills ∧ (modDie s i f).clusterOff = s.clusterOff ∧ (modDie s i f).arbLast = s.arbLast ∧
    (modDie s i f).channels = s.channels ∧ (modDie s i f).derated = s.derated ∧ (modDie s i f).caches = s.caches ∧
    (modDie s i f).homes = s.homes ∧ (modDie s i f).holds = s.holds ∧ (modDie s i f).hostReads = s.hostReads ∧
    (modDie s i f).partitions = s.partitions ∧ (modDie s i f).funcs = s.funcs ∧ (modDie s i f).queues = s.queues ∧
    (modDie s i f).harts = s.harts ∧ (modDie s i f).imsic = s.imsic ∧ (modDie s i f).aplic = s.aplic ∧
    (modDie s i f).ports = s.ports ∧ (modDie s i f).flows = s.flows ∧ (modDie s i f).colls = s.colls ∧
    (modDie s i f).videos = s.videos ∧ (modDie s i f).link = s.link ∧ (modDie s i f).linkReplays = s.linkReplays ∧
    (modDie s i f).etherType = s.etherType ∧ (modDie s i f).telemetry = s.telemetry ∧ (modDie s i f).hostOut = s.hostOut ∧
    (modDie s i f).portOut = s.portOut ∧ (modDie s i f).free = s.free := by
  unfold modDie; split <;> exact ⟨rfl, rfl, rfl, rfl, rfl, rfl, rfl, rfl, rfl, rfl, rfl, rfl, rfl, rfl, rfl, rfl, rfl, rfl, rfl, rfl, rfl, rfl, rfl, rfl, rfl, rfl, rfl, rfl, rfl, rfl, rfl, rfl, rfl, rfl, rfl, rfl, rfl, rfl, rfl, rfl⟩

@[simp] theorem modDomain_frame (s : State) (i : Nat) (f : Domain → Domain) :
    (modDomain s i f).pending = s.pending ∧ (modDomain s i f).big = s.big ∧ (modDomain s i f).pins = s.pins ∧
    (modDomain s i f).life = s.life ∧ (modDomain s i f).flash = s.flash ∧ (modDomain s i f).sec = s.sec ∧
    (modDomain s i f).power = s.power ∧ (modDomain s i f).dies = s.dies ∧ (modDomain s i f).hours = s.hours ∧
    (modDomain s i f).fault = s.fault ∧ (modDomain s i f).mem = s.mem ∧ (modDomain s i f).hostMem = s.hostMem ∧
    (modDomain s i f).poison = s.poison ∧ (modDomain s i f).cores = s.cores ∧ (modDomain s i f).spills = s.spills ∧
    (modDomain s i f).clusterOff = s.clusterOff ∧ (modDomain s i f).arbLast = s.arbLast ∧ (modDomain s i f).channels = s.channels ∧
    (modDomain s i f).derated = s.derated ∧ (modDomain s i f).caches = s.caches ∧ (modDomain s i f).homes = s.homes ∧
    (modDomain s i f).holds = s.holds ∧ (modDomain s i f).hostReads = s.hostReads ∧ (modDomain s i f).partitions = s.partitions ∧
    (modDomain s i f).funcs = s.funcs ∧ (modDomain s i f).queues = s.queues ∧ (modDomain s i f).harts = s.harts ∧
    (modDomain s i f).imsic = s.imsic ∧ (modDomain s i f).aplic = s.aplic ∧ (modDomain s i f).ports = s.ports ∧
    (modDomain s i f).flows = s.flows ∧ (modDomain s i f).colls = s.colls ∧ (modDomain s i f).videos = s.videos ∧
    (modDomain s i f).link = s.link ∧ (modDomain s i f).linkReplays = s.linkReplays ∧ (modDomain s i f).etherType = s.etherType ∧
    (modDomain s i f).telemetry = s.telemetry ∧ (modDomain s i f).hostOut = s.hostOut ∧ (modDomain s i f).portOut = s.portOut ∧
    (modDomain s i f).free = s.free := by
  unfold modDomain; split <;> exact ⟨rfl, rfl, rfl, rfl, rfl, rfl, rfl, rfl, rfl, rfl, rfl, rfl, rfl, rfl, rfl, rfl, rfl, rfl, rfl, rfl, rfl, rfl, rfl, rfl, rfl, rfl, rfl, rfl, rfl, rfl, rfl, rfl, rfl, rfl, rfl, rfl, rfl, rfl, rfl, rfl⟩

@[simp] theorem modColl_frame (s : State) (i : Nat) (f : CollEngine → CollEngine) :
    (modColl s i f).pending = s.pending ∧ (modColl s i f).big = s.big ∧ (modColl s i f).pins = s.pins ∧
    (modColl s i f).life = s.life ∧ (modColl s i f).flash = s.flash ∧ (modColl s i f).sec = s.sec ∧ (modColl s i f).power = s.power ∧
    (modColl s i f).dies = s.dies ∧ (modColl s i f).hours = s.hours ∧ (modColl s i f).domains = s.domains ∧
    (modColl s i f).fault = s.fault ∧ (modColl s i f).mem = s.mem ∧ (modColl s i f).hostMem = s.hostMem ∧
    (modColl s i f).poison = s.poison ∧ (modColl s i f).cores = s.cores ∧ (modColl s i f).spills = s.spills ∧
    (modColl s i f).clusterOff = s.clusterOff ∧ (modColl s i f).arbLast = s.arbLast ∧ (modColl s i f).channels = s.channels ∧
    (modColl s i f).derated = s.derated ∧ (modColl s i f).caches = s.caches ∧ (modColl s i f).homes = s.homes ∧
    (modColl s i f).holds = s.holds ∧ (modColl s i f).hostReads = s.hostReads ∧ (modColl s i f).partitions = s.partitions ∧
    (modColl s i f).funcs = s.funcs ∧ (modColl s i f).queues = s.queues ∧ (modColl s i f).harts = s.harts ∧
    (modColl s i f).imsic = s.imsic ∧ (modColl s i f).aplic = s.aplic ∧ (modColl s i f).ports = s.ports ∧
    (modColl s i f).flows = s.flows ∧ (modColl s i f).videos = s.videos ∧ (modColl s i f).link = s.link ∧
    (modColl s i f).linkReplays = s.linkReplays ∧ (modColl s i f).etherType = s.etherType ∧ (modColl s i f).telemetry = s.telemetry ∧
    (modColl s i f).hostOut = s.hostOut ∧ (modColl s i f).portOut = s.portOut ∧ (modColl s i f).free = s.free := by
  unfold modColl; split <;> exact ⟨rfl, rfl, rfl, rfl, rfl, rfl, rfl, rfl, rfl, rfl, rfl, rfl, rfl, rfl, rfl, rfl, rfl, rfl, rfl, rfl, rfl, rfl, rfl, rfl, rfl, rfl, rfl, rfl, rfl, rfl, rfl, rfl, rfl, rfl, rfl, rfl, rfl, rfl, rfl, rfl⟩

@[simp] theorem setLine_frame (s : State) (agent lid : Nat) (l : CacheLine) :
    (setLine s agent lid l).pending = s.pending ∧ (setLine s agent lid l).big = s.big ∧ (setLine s agent lid l).pins = s.pins ∧
    (setLine s agent lid l).life = s.life ∧ (setLine s agent lid l).flash = s.flash ∧ (setLine s agent lid l).sec = s.sec ∧
    (setLine s agent lid l).power = s.power ∧ (setLine s agent lid l).dies = s.dies ∧ (setLine s agent lid l).hours = s.hours ∧
    (setLine s agent lid l).domains = s.domains ∧ (setLine s agent lid l).fault = s.fault ∧ (setLine s agent lid l).mem = s.mem ∧
    (setLine s agent lid l).hostMem = s.hostMem ∧ (setLine s agent lid l).poison = s.poison ∧
    (setLine s agent lid l).cores = s.cores ∧ (setLine s agent lid l).spills = s.spills ∧
    (setLine s agent lid l).clusterOff = s.clusterOff ∧ (setLine s agent lid l).arbLast = s.arbLast ∧
    (setLine s agent lid l).channels = s.channels ∧ (setLine s agent lid l).derated = s.derated ∧
    (setLine s agent lid l).homes = s.homes ∧ (setLine s agent lid l).holds = s.holds ∧
    (setLine s agent lid l).hostReads = s.hostReads ∧ (setLine s agent lid l).partitions = s.partitions ∧
    (setLine s agent lid l).funcs = s.funcs ∧ (setLine s agent lid l).queues = s.queues ∧ (setLine s agent lid l).harts = s.harts ∧
    (setLine s agent lid l).imsic = s.imsic ∧ (setLine s agent lid l).aplic = s.aplic ∧ (setLine s agent lid l).ports = s.ports ∧
    (setLine s agent lid l).flows = s.flows ∧ (setLine s agent lid l).colls = s.colls ∧ (setLine s agent lid l).videos = s.videos ∧
    (setLine s agent lid l).link = s.link ∧ (setLine s agent lid l).linkReplays = s.linkReplays ∧
    (setLine s agent lid l).etherType = s.etherType ∧ (setLine s agent lid l).telemetry = s.telemetry ∧
    (setLine s agent lid l).hostOut = s.hostOut ∧ (setLine s agent lid l).portOut = s.portOut ∧
    (setLine s agent lid l).free = s.free :=
  ⟨rfl, rfl, rfl, rfl, rfl, rfl, rfl, rfl, rfl, rfl, rfl, rfl, rfl, rfl, rfl, rfl, rfl, rfl, rfl, rfl, rfl, rfl, rfl, rfl, rfl, rfl, rfl, rfl, rfl, rfl, rfl, rfl, rfl, rfl, rfl, rfl, rfl, rfl, rfl, rfl⟩

@[simp] theorem dropLine_frame (s : State) (agent lid : Nat) :
    (dropLine s agent lid).pending = s.pending ∧ (dropLine s agent lid).big = s.big ∧ (dropLine s agent lid).pins = s.pins ∧
    (dropLine s agent lid).life = s.life ∧ (dropLine s agent lid).flash = s.flash ∧ (dropLine s agent lid).sec = s.sec ∧
    (dropLine s agent lid).power = s.power ∧ (dropLine s agent lid).dies = s.dies ∧ (dropLine s agent lid).hours = s.hours ∧
    (dropLine s agent lid).domains = s.domains ∧ (dropLine s agent lid).fault = s.fault ∧ (dropLine s agent lid).mem = s.mem ∧
    (dropLine s agent lid).hostMem = s.hostMem ∧ (dropLine s agent lid).poison = s.poison ∧ (dropLine s agent lid).cores = s.cores ∧
    (dropLine s agent lid).spills = s.spills ∧ (dropLine s agent lid).clusterOff = s.clusterOff ∧
    (dropLine s agent lid).arbLast = s.arbLast ∧ (dropLine s agent lid).channels = s.channels ∧
    (dropLine s agent lid).derated = s.derated ∧ (dropLine s agent lid).homes = s.homes ∧ (dropLine s agent lid).holds = s.holds ∧
    (dropLine s agent lid).hostReads = s.hostReads ∧ (dropLine s agent lid).partitions = s.partitions ∧
    (dropLine s agent lid).funcs = s.funcs ∧ (dropLine s agent lid).queues = s.queues ∧ (dropLine s agent lid).harts = s.harts ∧
    (dropLine s agent lid).imsic = s.imsic ∧ (dropLine s agent lid).aplic = s.aplic ∧ (dropLine s agent lid).ports = s.ports ∧
    (dropLine s agent lid).flows = s.flows ∧ (dropLine s agent lid).colls = s.colls ∧ (dropLine s agent lid).videos = s.videos ∧
    (dropLine s agent lid).link = s.link ∧ (dropLine s agent lid).linkReplays = s.linkReplays ∧
    (dropLine s agent lid).etherType = s.etherType ∧ (dropLine s agent lid).telemetry = s.telemetry ∧
    (dropLine s agent lid).hostOut = s.hostOut ∧ (dropLine s agent lid).portOut = s.portOut ∧ (dropLine s agent lid).free = s.free :=
  ⟨rfl, rfl, rfl, rfl, rfl, rfl, rfl, rfl, rfl, rfl, rfl, rfl, rfl, rfl, rfl, rfl, rfl, rfl, rfl, rfl, rfl, rfl, rfl, rfl, rfl, rfl, rfl, rfl, rfl, rfl, rfl, rfl, rfl, rfl, rfl, rfl, rfl, rfl, rfl, rfl⟩

@[simp] theorem countChannel_frame (s : State) (a n : Nat) (write : Bool) :
    (countChannel s a n write).pending = s.pending ∧ (countChannel s a n write).big = s.big ∧
    (countChannel s a n write).pins = s.pins ∧ (countChannel s a n write).life = s.life ∧ (countChannel s a n write).flash = s.flash ∧
    (countChannel s a n write).sec = s.sec ∧ (countChannel s a n write).power = s.power ∧ (countChannel s a n write).dies = s.dies ∧
    (countChannel s a n write).hours = s.hours ∧ (countChannel s a n write).domains = s.domains ∧
    (countChannel s a n write).fault = s.fault ∧ (countChannel s a n write).mem = s.mem ∧
    (countChannel s a n write).hostMem = s.hostMem ∧ (countChannel s a n write).poison = s.poison ∧
    (countChannel s a n write).cores = s.cores ∧ (countChannel s a n write).spills = s.spills ∧
    (countChannel s a n write).clusterOff = s.clusterOff ∧ (countChannel s a n write).arbLast = s.arbLast ∧
    (countChannel s a n write).derated = s.derated ∧ (countChannel s a n write).caches = s.caches ∧
    (countChannel s a n write).homes = s.homes ∧ (countChannel s a n write).holds = s.holds ∧
    (countChannel s a n write).hostReads = s.hostReads ∧ (countChannel s a n write).partitions = s.partitions ∧
    (countChannel s a n write).funcs = s.funcs ∧ (countChannel s a n write).queues = s.queues ∧
    (countChannel s a n write).harts = s.harts ∧ (countChannel s a n write).imsic = s.imsic ∧
    (countChannel s a n write).aplic = s.aplic ∧ (countChannel s a n write).ports = s.ports ∧
    (countChannel s a n write).flows = s.flows ∧ (countChannel s a n write).colls = s.colls ∧
    (countChannel s a n write).videos = s.videos ∧ (countChannel s a n write).link = s.link ∧
    (countChannel s a n write).linkReplays = s.linkReplays ∧ (countChannel s a n write).etherType = s.etherType ∧
    (countChannel s a n write).telemetry = s.telemetry ∧ (countChannel s a n write).hostOut = s.hostOut ∧
    (countChannel s a n write).portOut = s.portOut ∧ (countChannel s a n write).free = s.free := by
  unfold countChannel; repeat' split
  all_goals first | exact ⟨rfl, rfl, rfl, rfl, rfl, rfl, rfl, rfl, rfl, rfl, rfl, rfl, rfl, rfl, rfl, rfl, rfl, rfl, rfl, rfl, rfl, rfl, rfl, rfl, rfl, rfl, rfl, rfl, rfl, rfl, rfl, rfl, rfl, rfl, rfl, rfl, rfl, rfl, rfl, rfl⟩ | simp

@[simp] theorem isoViolation_frame (s : State) (p : Nat) :
    (isoViolation s p).pending = s.pending ∧ (isoViolation s p).big = s.big ∧ (isoViolation s p).pins = s.pins ∧
    (isoViolation s p).life = s.life ∧ (isoViolation s p).flash = s.flash ∧ (isoViolation s p).sec = s.sec ∧
    (isoViolation s p).power = s.power ∧ (isoViolation s p).dies = s.dies ∧ (isoViolation s p).hours = s.hours ∧
    (isoViolation s p).domains = s.domains ∧ (isoViolation s p).fault = s.fault ∧ (isoViolation s p).mem = s.mem ∧
    (isoViolation s p).hostMem = s.hostMem ∧ (isoViolation s p).poison = s.poison ∧ (isoViolation s p).cores = s.cores ∧
    (isoViolation s p).spills = s.spills ∧ (isoViolation s p).clusterOff = s.clusterOff ∧ (isoViolation s p).arbLast = s.arbLast ∧
    (isoViolation s p).channels = s.channels ∧ (isoViolation s p).derated = s.derated ∧ (isoViolation s p).caches = s.caches ∧
    (isoViolation s p).homes = s.homes ∧ (isoViolation s p).holds = s.holds ∧ (isoViolation s p).hostReads = s.hostReads ∧
    (isoViolation s p).funcs = s.funcs ∧ (isoViolation s p).queues = s.queues ∧ (isoViolation s p).harts = s.harts ∧
    (isoViolation s p).imsic = s.imsic ∧ (isoViolation s p).aplic = s.aplic ∧ (isoViolation s p).ports = s.ports ∧
    (isoViolation s p).flows = s.flows ∧ (isoViolation s p).colls = s.colls ∧ (isoViolation s p).videos = s.videos ∧
    (isoViolation s p).link = s.link ∧ (isoViolation s p).linkReplays = s.linkReplays ∧ (isoViolation s p).etherType = s.etherType ∧
    (isoViolation s p).telemetry = s.telemetry ∧ (isoViolation s p).hostOut = s.hostOut ∧ (isoViolation s p).portOut = s.portOut ∧
    (isoViolation s p).free = s.free :=
  ⟨rfl, rfl, rfl, rfl, rfl, rfl, rfl, rfl, rfl, rfl, rfl, rfl, rfl, rfl, rfl, rfl, rfl, rfl, rfl, rfl, rfl, rfl, rfl, rfl, rfl, rfl, rfl, rfl, rfl, rfl, rfl, rfl, rfl, rfl, rfl, rfl, rfl, rfl, rfl, rfl⟩

@[simp] theorem wakeDomain_frame (s : State) (code : Nat) :
    (wakeDomain s code).pending = s.pending ∧ (wakeDomain s code).big = s.big ∧ (wakeDomain s code).pins = s.pins ∧
    (wakeDomain s code).life = s.life ∧ (wakeDomain s code).flash = s.flash ∧ (wakeDomain s code).sec = s.sec ∧
    (wakeDomain s code).power = s.power ∧ (wakeDomain s code).dies = s.dies ∧ (wakeDomain s code).hours = s.hours ∧
    (wakeDomain s code).fault = s.fault ∧ (wakeDomain s code).mem = s.mem ∧ (wakeDomain s code).hostMem = s.hostMem ∧
    (wakeDomain s code).poison = s.poison ∧ (wakeDomain s code).cores = s.cores ∧ (wakeDomain s code).spills = s.spills ∧
    (wakeDomain s code).clusterOff = s.clusterOff ∧ (wakeDomain s code).arbLast = s.arbLast ∧
    (wakeDomain s code).channels = s.channels ∧ (wakeDomain s code).derated = s.derated ∧ (wakeDomain s code).caches = s.caches ∧
    (wakeDomain s code).homes = s.homes ∧ (wakeDomain s code).holds = s.holds ∧ (wakeDomain s code).hostReads = s.hostReads ∧
    (wakeDomain s code).partitions = s.partitions ∧ (wakeDomain s code).funcs = s.funcs ∧ (wakeDomain s code).queues = s.queues ∧
    (wakeDomain s code).harts = s.harts ∧ (wakeDomain s code).imsic = s.imsic ∧ (wakeDomain s code).aplic = s.aplic ∧
    (wakeDomain s code).ports = s.ports ∧ (wakeDomain s code).flows = s.flows ∧ (wakeDomain s code).colls = s.colls ∧
    (wakeDomain s code).videos = s.videos ∧ (wakeDomain s code).link = s.link ∧ (wakeDomain s code).linkReplays = s.linkReplays ∧
    (wakeDomain s code).etherType = s.etherType ∧ (wakeDomain s code).telemetry = s.telemetry ∧
    (wakeDomain s code).hostOut = s.hostOut ∧ (wakeDomain s code).portOut = s.portOut ∧ (wakeDomain s code).free = s.free := by
  unfold wakeDomain; repeat' split
  all_goals first | exact ⟨rfl, rfl, rfl, rfl, rfl, rfl, rfl, rfl, rfl, rfl, rfl, rfl, rfl, rfl, rfl, rfl, rfl, rfl, rfl, rfl, rfl, rfl, rfl, rfl, rfl, rfl, rfl, rfl, rfl, rfl, rfl, rfl, rfl, rfl, rfl, rfl, rfl, rfl, rfl, rfl⟩ | simp

@[simp] theorem sendHost_frame (s : State) (o : HostOut) :
    (sendHost s o).pending = s.pending ∧ (sendHost s o).big = s.big ∧ (sendHost s o).pins = s.pins ∧ (sendHost s o).life = s.life ∧
    (sendHost s o).flash = s.flash ∧ (sendHost s o).sec = s.sec ∧ (sendHost s o).power = s.power ∧ (sendHost s o).dies = s.dies ∧
    (sendHost s o).hours = s.hours ∧ (sendHost s o).domains = s.domains ∧ (sendHost s o).fault = s.fault ∧
    (sendHost s o).mem = s.mem ∧ (sendHost s o).hostMem = s.hostMem ∧ (sendHost s o).poison = s.poison ∧
    (sendHost s o).cores = s.cores ∧ (sendHost s o).spills = s.spills ∧ (sendHost s o).clusterOff = s.clusterOff ∧
    (sendHost s o).arbLast = s.arbLast ∧ (sendHost s o).channels = s.channels ∧ (sendHost s o).derated = s.derated ∧
    (sendHost s o).caches = s.caches ∧ (sendHost s o).homes = s.homes ∧ (sendHost s o).holds = s.holds ∧
    (sendHost s o).hostReads = s.hostReads ∧ (sendHost s o).partitions = s.partitions ∧ (sendHost s o).funcs = s.funcs ∧
    (sendHost s o).queues = s.queues ∧ (sendHost s o).harts = s.harts ∧ (sendHost s o).imsic = s.imsic ∧
    (sendHost s o).aplic = s.aplic ∧ (sendHost s o).ports = s.ports ∧ (sendHost s o).flows = s.flows ∧
    (sendHost s o).colls = s.colls ∧ (sendHost s o).videos = s.videos ∧ (sendHost s o).link = s.link ∧
    (sendHost s o).linkReplays = s.linkReplays ∧ (sendHost s o).etherType = s.etherType ∧ (sendHost s o).telemetry = s.telemetry ∧
    (sendHost s o).portOut = s.portOut ∧ (sendHost s o).free = s.free :=
  ⟨rfl, rfl, rfl, rfl, rfl, rfl, rfl, rfl, rfl, rfl, rfl, rfl, rfl, rfl, rfl, rfl, rfl, rfl, rfl, rfl, rfl, rfl, rfl, rfl, rfl, rfl, rfl, rfl, rfl, rfl, rfl, rfl, rfl, rfl, rfl, rfl, rfl, rfl, rfl, rfl⟩

@[simp] theorem sendMsix_frame (s : State) (fn entry : Nat) :
    (sendMsix s fn entry).pending = s.pending ∧ (sendMsix s fn entry).big = s.big ∧ (sendMsix s fn entry).pins = s.pins ∧
    (sendMsix s fn entry).life = s.life ∧ (sendMsix s fn entry).flash = s.flash ∧ (sendMsix s fn entry).sec = s.sec ∧
    (sendMsix s fn entry).power = s.power ∧ (sendMsix s fn entry).dies = s.dies ∧ (sendMsix s fn entry).hours = s.hours ∧
    (sendMsix s fn entry).domains = s.domains ∧ (sendMsix s fn entry).fault = s.fault ∧ (sendMsix s fn entry).mem = s.mem ∧
    (sendMsix s fn entry).hostMem = s.hostMem ∧ (sendMsix s fn entry).poison = s.poison ∧ (sendMsix s fn entry).cores = s.cores ∧
    (sendMsix s fn entry).spills = s.spills ∧ (sendMsix s fn entry).clusterOff = s.clusterOff ∧
    (sendMsix s fn entry).arbLast = s.arbLast ∧ (sendMsix s fn entry).channels = s.channels ∧
    (sendMsix s fn entry).derated = s.derated ∧ (sendMsix s fn entry).caches = s.caches ∧ (sendMsix s fn entry).homes = s.homes ∧
    (sendMsix s fn entry).holds = s.holds ∧ (sendMsix s fn entry).hostReads = s.hostReads ∧
    (sendMsix s fn entry).partitions = s.partitions ∧ (sendMsix s fn entry).queues = s.queues ∧
    (sendMsix s fn entry).harts = s.harts ∧ (sendMsix s fn entry).imsic = s.imsic ∧ (sendMsix s fn entry).aplic = s.aplic ∧
    (sendMsix s fn entry).ports = s.ports ∧ (sendMsix s fn entry).flows = s.flows ∧ (sendMsix s fn entry).colls = s.colls ∧
    (sendMsix s fn entry).videos = s.videos ∧ (sendMsix s fn entry).link = s.link ∧
    (sendMsix s fn entry).linkReplays = s.linkReplays ∧ (sendMsix s fn entry).etherType = s.etherType ∧
    (sendMsix s fn entry).telemetry = s.telemetry ∧ (sendMsix s fn entry).portOut = s.portOut ∧ (sendMsix s fn entry).free = s.free := by
  unfold sendMsix
  split
  · exact ⟨rfl, rfl, rfl, rfl, rfl, rfl, rfl, rfl, rfl, rfl, rfl, rfl, rfl, rfl, rfl, rfl, rfl, rfl, rfl, rfl, rfl, rfl, rfl, rfl, rfl, rfl, rfl, rfl, rfl, rfl, rfl, rfl, rfl, rfl, rfl, rfl, rfl, rfl, rfl⟩
  split
  · dsimp only
    split <;> exact ⟨rfl, rfl, rfl, rfl, rfl, rfl, rfl, rfl, rfl, rfl, rfl, rfl, rfl, rfl, rfl, rfl, rfl, rfl, rfl, rfl, rfl, rfl, rfl, rfl, rfl, rfl, rfl, rfl, rfl, rfl, rfl, rfl, rfl, rfl, rfl, rfl, rfl, rfl, rfl⟩
  · exact ⟨rfl, rfl, rfl, rfl, rfl, rfl, rfl, rfl, rfl, rfl, rfl, rfl, rfl, rfl, rfl, rfl, rfl, rfl, rfl, rfl, rfl, rfl, rfl, rfl, rfl, rfl, rfl, rfl, rfl, rfl, rfl, rfl, rfl, rfl, rfl, rfl, rfl, rfl, rfl⟩

@[simp] theorem sendMsi_frame (s : State) (hart file ident : Nat) :
    (sendMsi s hart file ident).pending = s.pending ∧ (sendMsi s hart file ident).big = s.big ∧
    (sendMsi s hart file ident).pins = s.pins ∧ (sendMsi s hart file ident).life = s.life ∧
    (sendMsi s hart file ident).flash = s.flash ∧ (sendMsi s hart file ident).sec = s.sec ∧
    (sendMsi s hart file ident).power = s.power ∧ (sendMsi s hart file ident).dies = s.dies ∧
    (sendMsi s hart file ident).hours = s.hours ∧ (sendMsi s hart file ident).domains = s.domains ∧
    (sendMsi s hart file ident).fault = s.fault ∧ (sendMsi s hart file ident).mem = s.mem ∧
    (sendMsi s hart file ident).hostMem = s.hostMem ∧ (sendMsi s hart file ident).poison = s.poison ∧
    (sendMsi s hart file ident).cores = s.cores ∧ (sendMsi s hart file ident).spills = s.spills ∧
    (sendMsi s hart file ident).clusterOff = s.clusterOff ∧ (sendMsi s hart file ident).arbLast = s.arbLast ∧
    (sendMsi s hart file ident).channels = s.channels ∧ (sendMsi s hart file ident).derated = s.derated ∧
    (sendMsi s hart file ident).caches = s.caches ∧ (sendMsi s hart file ident).homes = s.homes ∧
    (sendMsi s hart file ident).holds = s.holds ∧ (sendMsi s hart file ident).hostReads = s.hostReads ∧
    (sendMsi s hart file ident).partitions = s.partitions ∧ (sendMsi s hart file ident).funcs = s.funcs ∧
    (sendMsi s hart file ident).queues = s.queues ∧ (sendMsi s hart file ident).harts = s.harts ∧
    (sendMsi s hart file ident).aplic = s.aplic ∧ (sendMsi s hart file ident).ports = s.ports ∧
    (sendMsi s hart file ident).flows = s.flows ∧ (sendMsi s hart file ident).colls = s.colls ∧
    (sendMsi s hart file ident).videos = s.videos ∧ (sendMsi s hart file ident).link = s.link ∧
    (sendMsi s hart file ident).linkReplays = s.linkReplays ∧ (sendMsi s hart file ident).etherType = s.etherType ∧
    (sendMsi s hart file ident).telemetry = s.telemetry ∧ (sendMsi s hart file ident).hostOut = s.hostOut ∧
    (sendMsi s hart file ident).portOut = s.portOut ∧ (sendMsi s hart file ident).free = s.free := by
  unfold sendMsi; split <;> exact ⟨rfl, rfl, rfl, rfl, rfl, rfl, rfl, rfl, rfl, rfl, rfl, rfl, rfl, rfl, rfl, rfl, rfl, rfl, rfl, rfl, rfl, rfl, rfl, rfl, rfl, rfl, rfl, rfl, rfl, rfl, rfl, rfl, rfl, rfl, rfl, rfl, rfl, rfl, rfl, rfl⟩

@[simp] theorem raiseAplic_frame (s : State) (src : Nat) :
    (raiseAplic s src).pending = s.pending ∧ (raiseAplic s src).big = s.big ∧ (raiseAplic s src).pins = s.pins ∧
    (raiseAplic s src).life = s.life ∧ (raiseAplic s src).flash = s.flash ∧ (raiseAplic s src).sec = s.sec ∧
    (raiseAplic s src).power = s.power ∧ (raiseAplic s src).dies = s.dies ∧ (raiseAplic s src).hours = s.hours ∧
    (raiseAplic s src).domains = s.domains ∧ (raiseAplic s src).fault = s.fault ∧ (raiseAplic s src).mem = s.mem ∧
    (raiseAplic s src).hostMem = s.hostMem ∧ (raiseAplic s src).poison = s.poison ∧ (raiseAplic s src).cores = s.cores ∧
    (raiseAplic s src).spills = s.spills ∧ (raiseAplic s src).clusterOff = s.clusterOff ∧ (raiseAplic s src).arbLast = s.arbLast ∧
    (raiseAplic s src).channels = s.channels ∧ (raiseAplic s src).derated = s.derated ∧ (raiseAplic s src).caches = s.caches ∧
    (raiseAplic s src).homes = s.homes ∧ (raiseAplic s src).holds = s.holds ∧ (raiseAplic s src).hostReads = s.hostReads ∧
    (raiseAplic s src).partitions = s.partitions ∧ (raiseAplic s src).funcs = s.funcs ∧ (raiseAplic s src).queues = s.queues ∧
    (raiseAplic s src).harts = s.harts ∧ (raiseAplic s src).imsic = s.imsic ∧ (raiseAplic s src).ports = s.ports ∧
    (raiseAplic s src).flows = s.flows ∧ (raiseAplic s src).colls = s.colls ∧ (raiseAplic s src).videos = s.videos ∧
    (raiseAplic s src).link = s.link ∧ (raiseAplic s src).linkReplays = s.linkReplays ∧ (raiseAplic s src).etherType = s.etherType ∧
    (raiseAplic s src).telemetry = s.telemetry ∧ (raiseAplic s src).hostOut = s.hostOut ∧ (raiseAplic s src).portOut = s.portOut ∧
    (raiseAplic s src).free = s.free :=
  ⟨rfl, rfl, rfl, rfl, rfl, rfl, rfl, rfl, rfl, rfl, rfl, rfl, rfl, rfl, rfl, rfl, rfl, rfl, rfl, rfl, rfl, rfl, rfl, rfl, rfl, rfl, rfl, rfl, rfl, rfl, rfl, rfl, rfl, rfl, rfl, rfl, rfl, rfl, rfl, rfl⟩

@[simp] theorem raiseAlert_frame (s : State) (cause : Nat) :
    (raiseAlert s cause).pending = s.pending ∧ (raiseAlert s cause).big = s.big ∧ (raiseAlert s cause).pins = s.pins ∧
    (raiseAlert s cause).life = s.life ∧ (raiseAlert s cause).flash = s.flash ∧ (raiseAlert s cause).sec = s.sec ∧
    (raiseAlert s cause).dies = s.dies ∧ (raiseAlert s cause).hours = s.hours ∧ (raiseAlert s cause).domains = s.domains ∧
    (raiseAlert s cause).fault = s.fault ∧ (raiseAlert s cause).mem = s.mem ∧ (raiseAlert s cause).hostMem = s.hostMem ∧
    (raiseAlert s cause).poison = s.poison ∧ (raiseAlert s cause).cores = s.cores ∧ (raiseAlert s cause).spills = s.spills ∧
    (raiseAlert s cause).clusterOff = s.clusterOff ∧ (raiseAlert s cause).arbLast = s.arbLast ∧
    (raiseAlert s cause).channels = s.channels ∧ (raiseAlert s cause).derated = s.derated ∧ (raiseAlert s cause).caches = s.caches ∧
    (raiseAlert s cause).homes = s.homes ∧ (raiseAlert s cause).holds = s.holds ∧ (raiseAlert s cause).hostReads = s.hostReads ∧
    (raiseAlert s cause).partitions = s.partitions ∧ (raiseAlert s cause).funcs = s.funcs ∧ (raiseAlert s cause).queues = s.queues ∧
    (raiseAlert s cause).harts = s.harts ∧ (raiseAlert s cause).imsic = s.imsic ∧ (raiseAlert s cause).aplic = s.aplic ∧
    (raiseAlert s cause).ports = s.ports ∧ (raiseAlert s cause).flows = s.flows ∧ (raiseAlert s cause).colls = s.colls ∧
    (raiseAlert s cause).videos = s.videos ∧ (raiseAlert s cause).link = s.link ∧ (raiseAlert s cause).linkReplays = s.linkReplays ∧
    (raiseAlert s cause).etherType = s.etherType ∧ (raiseAlert s cause).telemetry = s.telemetry ∧
    (raiseAlert s cause).hostOut = s.hostOut ∧ (raiseAlert s cause).portOut = s.portOut ∧ (raiseAlert s cause).free = s.free := by
  unfold raiseAlert; split <;> exact ⟨rfl, rfl, rfl, rfl, rfl, rfl, rfl, rfl, rfl, rfl, rfl, rfl, rfl, rfl, rfl, rfl, rfl, rfl, rfl, rfl, rfl, rfl, rfl, rfl, rfl, rfl, rfl, rfl, rfl, rfl, rfl, rfl, rfl, rfl, rfl, rfl, rfl, rfl, rfl, rfl⟩

@[simp] theorem clearAlert_frame (s : State) (cause : Nat) :
    (clearAlert s cause).pending = s.pending ∧ (clearAlert s cause).big = s.big ∧ (clearAlert s cause).pins = s.pins ∧
    (clearAlert s cause).life = s.life ∧ (clearAlert s cause).flash = s.flash ∧ (clearAlert s cause).sec = s.sec ∧
    (clearAlert s cause).dies = s.dies ∧ (clearAlert s cause).hours = s.hours ∧ (clearAlert s cause).domains = s.domains ∧
    (clearAlert s cause).fault = s.fault ∧ (clearAlert s cause).mem = s.mem ∧ (clearAlert s cause).hostMem = s.hostMem ∧
    (clearAlert s cause).poison = s.poison ∧ (clearAlert s cause).cores = s.cores ∧ (clearAlert s cause).spills = s.spills ∧
    (clearAlert s cause).clusterOff = s.clusterOff ∧ (clearAlert s cause).arbLast = s.arbLast ∧
    (clearAlert s cause).channels = s.channels ∧ (clearAlert s cause).derated = s.derated ∧ (clearAlert s cause).caches = s.caches ∧
    (clearAlert s cause).homes = s.homes ∧ (clearAlert s cause).holds = s.holds ∧ (clearAlert s cause).hostReads = s.hostReads ∧
    (clearAlert s cause).partitions = s.partitions ∧ (clearAlert s cause).funcs = s.funcs ∧ (clearAlert s cause).queues = s.queues ∧
    (clearAlert s cause).harts = s.harts ∧ (clearAlert s cause).imsic = s.imsic ∧ (clearAlert s cause).aplic = s.aplic ∧
    (clearAlert s cause).ports = s.ports ∧ (clearAlert s cause).flows = s.flows ∧ (clearAlert s cause).colls = s.colls ∧
    (clearAlert s cause).videos = s.videos ∧ (clearAlert s cause).link = s.link ∧ (clearAlert s cause).linkReplays = s.linkReplays ∧
    (clearAlert s cause).etherType = s.etherType ∧ (clearAlert s cause).telemetry = s.telemetry ∧
    (clearAlert s cause).hostOut = s.hostOut ∧ (clearAlert s cause).portOut = s.portOut ∧ (clearAlert s cause).free = s.free :=
  ⟨rfl, rfl, rfl, rfl, rfl, rfl, rfl, rfl, rfl, rfl, rfl, rfl, rfl, rfl, rfl, rfl, rfl, rfl, rfl, rfl, rfl, rfl, rfl, rfl, rfl, rfl, rfl, rfl, rfl, rfl, rfl, rfl, rfl, rfl, rfl, rfl, rfl, rfl, rfl, rfl⟩

@[simp] theorem logError_frame (s : State) (cls die code part queue status addr detail : Nat) :
    (logError s cls die code part queue status addr detail).pending = s.pending ∧
    (logError s cls die code part queue status addr detail).big = s.big ∧
    (logError s cls die code part queue status addr detail).pins = s.pins ∧
    (logError s cls die code part queue status addr detail).life = s.life ∧
    (logError s cls die code part queue status addr detail).flash = s.flash ∧
    (logError s cls die code part queue status addr detail).sec = s.sec ∧
    (logError s cls die code part queue status addr detail).power = s.power ∧
    (logError s cls die code part queue status addr detail).dies = s.dies ∧
    (logError s cls die code part queue status addr detail).hours = s.hours ∧
    (logError s cls die code part queue status addr detail).domains = s.domains ∧
    (logError s cls die code part queue status addr detail).mem = s.mem ∧
    (logError s cls die code part queue status addr detail).hostMem = s.hostMem ∧
    (logError s cls die code part queue status addr detail).poison = s.poison ∧
    (logError s cls die code part queue status addr detail).cores = s.cores ∧
    (logError s cls die code part queue status addr detail).spills = s.spills ∧
    (logError s cls die code part queue status addr detail).clusterOff = s.clusterOff ∧
    (logError s cls die code part queue status addr detail).arbLast = s.arbLast ∧
    (logError s cls die code part queue status addr detail).channels = s.channels ∧
    (logError s cls die code part queue status addr detail).derated = s.derated ∧
    (logError s cls die code part queue status addr detail).caches = s.caches ∧
    (logError s cls die code part queue status addr detail).homes = s.homes ∧
    (logError s cls die code part queue status addr detail).holds = s.holds ∧
    (logError s cls die code part queue status addr detail).hostReads = s.hostReads ∧
    (logError s cls die code part queue status addr detail).partitions = s.partitions ∧
    (logError s cls die code part queue status addr detail).funcs = s.funcs ∧
    (logError s cls die code part queue status addr detail).queues = s.queues ∧
    (logError s cls die code part queue status addr detail).harts = s.harts ∧
    (logError s cls die code part queue status addr detail).imsic = s.imsic ∧
    (logError s cls die code part queue status addr detail).aplic = s.aplic ∧
    (logError s cls die code part queue status addr detail).ports = s.ports ∧
    (logError s cls die code part queue status addr detail).flows = s.flows ∧
    (logError s cls die code part queue status addr detail).colls = s.colls ∧
    (logError s cls die code part queue status addr detail).videos = s.videos ∧
    (logError s cls die code part queue status addr detail).link = s.link ∧
    (logError s cls die code part queue status addr detail).linkReplays = s.linkReplays ∧
    (logError s cls die code part queue status addr detail).etherType = s.etherType ∧
    (logError s cls die code part queue status addr detail).telemetry = s.telemetry ∧
    (logError s cls die code part queue status addr detail).hostOut = s.hostOut ∧
    (logError s cls die code part queue status addr detail).portOut = s.portOut ∧
    (logError s cls die code part queue status addr detail).free = s.free := by
  simp [logError]

@[simp] theorem modCmd_frame (s : State) (q pos : Nat) (f : Cmd → Cmd) :
    (modCmd s q pos f).pending = s.pending ∧ (modCmd s q pos f).big = s.big ∧ (modCmd s q pos f).pins = s.pins ∧
    (modCmd s q pos f).life = s.life ∧ (modCmd s q pos f).flash = s.flash ∧ (modCmd s q pos f).sec = s.sec ∧
    (modCmd s q pos f).power = s.power ∧ (modCmd s q pos f).dies = s.dies ∧ (modCmd s q pos f).hours = s.hours ∧
    (modCmd s q pos f).domains = s.domains ∧ (modCmd s q pos f).fault = s.fault ∧ (modCmd s q pos f).mem = s.mem ∧
    (modCmd s q pos f).hostMem = s.hostMem ∧ (modCmd s q pos f).poison = s.poison ∧ (modCmd s q pos f).cores = s.cores ∧
    (modCmd s q pos f).spills = s.spills ∧ (modCmd s q pos f).clusterOff = s.clusterOff ∧ (modCmd s q pos f).arbLast = s.arbLast ∧
    (modCmd s q pos f).channels = s.channels ∧ (modCmd s q pos f).derated = s.derated ∧ (modCmd s q pos f).caches = s.caches ∧
    (modCmd s q pos f).homes = s.homes ∧ (modCmd s q pos f).holds = s.holds ∧ (modCmd s q pos f).hostReads = s.hostReads ∧
    (modCmd s q pos f).partitions = s.partitions ∧ (modCmd s q pos f).funcs = s.funcs ∧ (modCmd s q pos f).harts = s.harts ∧
    (modCmd s q pos f).imsic = s.imsic ∧ (modCmd s q pos f).aplic = s.aplic ∧ (modCmd s q pos f).ports = s.ports ∧
    (modCmd s q pos f).flows = s.flows ∧ (modCmd s q pos f).colls = s.colls ∧ (modCmd s q pos f).videos = s.videos ∧
    (modCmd s q pos f).link = s.link ∧ (modCmd s q pos f).linkReplays = s.linkReplays ∧ (modCmd s q pos f).etherType = s.etherType ∧
    (modCmd s q pos f).telemetry = s.telemetry ∧ (modCmd s q pos f).hostOut = s.hostOut ∧ (modCmd s q pos f).portOut = s.portOut ∧
    (modCmd s q pos f).free = s.free :=
  ⟨rfl, rfl, rfl, rfl, rfl, rfl, rfl, rfl, rfl, rfl, rfl, rfl, rfl, rfl, rfl, rfl, rfl, rfl, rfl, rfl, rfl, rfl, rfl, rfl, rfl, rfl, rfl, rfl, rfl, rfl, rfl, rfl, rfl, rfl, rfl, rfl, rfl, rfl, rfl, rfl⟩

@[simp] theorem endHolds_frame (s : State) (t : Hold → Bool) :
    (endHolds s t).pending = s.pending ∧ (endHolds s t).big = s.big ∧ (endHolds s t).pins = s.pins ∧ (endHolds s t).life = s.life ∧
    (endHolds s t).flash = s.flash ∧ (endHolds s t).sec = s.sec ∧ (endHolds s t).power = s.power ∧ (endHolds s t).dies = s.dies ∧
    (endHolds s t).hours = s.hours ∧ (endHolds s t).domains = s.domains ∧ (endHolds s t).fault = s.fault ∧
    (endHolds s t).mem = s.mem ∧ (endHolds s t).hostMem = s.hostMem ∧ (endHolds s t).poison = s.poison ∧
    (endHolds s t).cores = s.cores ∧ (endHolds s t).spills = s.spills ∧ (endHolds s t).clusterOff = s.clusterOff ∧
    (endHolds s t).arbLast = s.arbLast ∧ (endHolds s t).channels = s.channels ∧ (endHolds s t).derated = s.derated ∧
    (endHolds s t).caches = s.caches ∧ (endHolds s t).homes = s.homes ∧ (endHolds s t).hostReads = s.hostReads ∧
    (endHolds s t).partitions = s.partitions ∧ (endHolds s t).funcs = s.funcs ∧ (endHolds s t).queues = s.queues ∧
    (endHolds s t).harts = s.harts ∧ (endHolds s t).imsic = s.imsic ∧ (endHolds s t).aplic = s.aplic ∧
    (endHolds s t).ports = s.ports ∧ (endHolds s t).flows = s.flows ∧ (endHolds s t).colls = s.colls ∧
    (endHolds s t).videos = s.videos ∧ (endHolds s t).link = s.link ∧ (endHolds s t).linkReplays = s.linkReplays ∧
    (endHolds s t).etherType = s.etherType ∧ (endHolds s t).telemetry = s.telemetry ∧ (endHolds s t).hostOut = s.hostOut ∧
    (endHolds s t).portOut = s.portOut ∧ (endHolds s t).free = s.free :=
  ⟨rfl, rfl, rfl, rfl, rfl, rfl, rfl, rfl, rfl, rfl, rfl, rfl, rfl, rfl, rfl, rfl, rfl, rfl, rfl, rfl, rfl, rfl, rfl, rfl, rfl, rfl, rfl, rfl, rfl, rfl, rfl, rfl, rfl, rfl, rfl, rfl, rfl, rfl, rfl, rfl⟩

@[simp] theorem modObject_frame (s : State) (p obj : Nat) (f : TieredObject → TieredObject) :
    (modObject s p obj f).pending = s.pending ∧ (modObject s p obj f).big = s.big ∧ (modObject s p obj f).pins = s.pins ∧
    (modObject s p obj f).life = s.life ∧ (modObject s p obj f).flash = s.flash ∧ (modObject s p obj f).sec = s.sec ∧
    (modObject s p obj f).power = s.power ∧ (modObject s p obj f).dies = s.dies ∧ (modObject s p obj f).hours = s.hours ∧
    (modObject s p obj f).domains = s.domains ∧ (modObject s p obj f).fault = s.fault ∧ (modObject s p obj f).mem = s.mem ∧
    (modObject s p obj f).hostMem = s.hostMem ∧ (modObject s p obj f).poison = s.poison ∧ (modObject s p obj f).cores = s.cores ∧
    (modObject s p obj f).spills = s.spills ∧ (modObject s p obj f).clusterOff = s.clusterOff ∧
    (modObject s p obj f).arbLast = s.arbLast ∧ (modObject s p obj f).channels = s.channels ∧
    (modObject s p obj f).derated = s.derated ∧ (modObject s p obj f).caches = s.caches ∧ (modObject s p obj f).homes = s.homes ∧
    (modObject s p obj f).holds = s.holds ∧ (modObject s p obj f).hostReads = s.hostReads ∧ (modObject s p obj f).funcs = s.funcs ∧
    (modObject s p obj f).queues = s.queues ∧ (modObject s p obj f).harts = s.harts ∧ (modObject s p obj f).imsic = s.imsic ∧
    (modObject s p obj f).aplic = s.aplic ∧ (modObject s p obj f).ports = s.ports ∧ (modObject s p obj f).flows = s.flows ∧
    (modObject s p obj f).colls = s.colls ∧ (modObject s p obj f).videos = s.videos ∧ (modObject s p obj f).link = s.link ∧
    (modObject s p obj f).linkReplays = s.linkReplays ∧ (modObject s p obj f).etherType = s.etherType ∧
    (modObject s p obj f).telemetry = s.telemetry ∧ (modObject s p obj f).hostOut = s.hostOut ∧
    (modObject s p obj f).portOut = s.portOut ∧ (modObject s p obj f).free = s.free :=
  ⟨rfl, rfl, rfl, rfl, rfl, rfl, rfl, rfl, rfl, rfl, rfl, rfl, rfl, rfl, rfl, rfl, rfl, rfl, rfl, rfl, rfl, rfl, rfl, rfl, rfl, rfl, rfl, rfl, rfl, rfl, rfl, rfl, rfl, rfl, rfl, rfl, rfl, rfl, rfl, rfl⟩

@[simp] theorem modMig_frame (s : State) (p obj page : Nat) (f : Migration → Migration) :
    (modMig s p obj page f).pending = s.pending ∧ (modMig s p obj page f).big = s.big ∧ (modMig s p obj page f).pins = s.pins ∧
    (modMig s p obj page f).life = s.life ∧ (modMig s p obj page f).flash = s.flash ∧ (modMig s p obj page f).sec = s.sec ∧
    (modMig s p obj page f).power = s.power ∧ (modMig s p obj page f).dies = s.dies ∧ (modMig s p obj page f).hours = s.hours ∧
    (modMig s p obj page f).domains = s.domains ∧ (modMig s p obj page f).fault = s.fault ∧ (modMig s p obj page f).mem = s.mem ∧
    (modMig s p obj page f).hostMem = s.hostMem ∧ (modMig s p obj page f).poison = s.poison ∧
    (modMig s p obj page f).cores = s.cores ∧ (modMig s p obj page f).spills = s.spills ∧
    (modMig s p obj page f).clusterOff = s.clusterOff ∧ (modMig s p obj page f).arbLast = s.arbLast ∧
    (modMig s p obj page f).channels = s.channels ∧ (modMig s p obj page f).derated = s.derated ∧
    (modMig s p obj page f).caches = s.caches ∧ (modMig s p obj page f).homes = s.homes ∧ (modMig s p obj page f).holds = s.holds ∧
    (modMig s p obj page f).hostReads = s.hostReads ∧ (modMig s p obj page f).funcs = s.funcs ∧
    (modMig s p obj page f).queues = s.queues ∧ (modMig s p obj page f).harts = s.harts ∧ (modMig s p obj page f).imsic = s.imsic ∧
    (modMig s p obj page f).aplic = s.aplic ∧ (modMig s p obj page f).ports = s.ports ∧ (modMig s p obj page f).flows = s.flows ∧
    (modMig s p obj page f).colls = s.colls ∧ (modMig s p obj page f).videos = s.videos ∧ (modMig s p obj page f).link = s.link ∧
    (modMig s p obj page f).linkReplays = s.linkReplays ∧ (modMig s p obj page f).etherType = s.etherType ∧
    (modMig s p obj page f).telemetry = s.telemetry ∧ (modMig s p obj page f).hostOut = s.hostOut ∧
    (modMig s p obj page f).portOut = s.portOut ∧ (modMig s p obj page f).free = s.free :=
  ⟨rfl, rfl, rfl, rfl, rfl, rfl, rfl, rfl, rfl, rfl, rfl, rfl, rfl, rfl, rfl, rfl, rfl, rfl, rfl, rfl, rfl, rfl, rfl, rfl, rfl, rfl, rfl, rfl, rfl, rfl, rfl, rfl, rfl, rfl, rfl, rfl, rfl, rfl, rfl, rfl⟩

@[simp] theorem modRegion_frame (s : State) (fn i : Nat) (f : Placement → Placement) :
    (modRegion s fn i f).pending = s.pending ∧ (modRegion s fn i f).big = s.big ∧ (modRegion s fn i f).pins = s.pins ∧
    (modRegion s fn i f).life = s.life ∧ (modRegion s fn i f).flash = s.flash ∧ (modRegion s fn i f).sec = s.sec ∧
    (modRegion s fn i f).power = s.power ∧ (modRegion s fn i f).dies = s.dies ∧ (modRegion s fn i f).hours = s.hours ∧
    (modRegion s fn i f).domains = s.domains ∧ (modRegion s fn i f).fault = s.fault ∧ (modRegion s fn i f).mem = s.mem ∧
    (modRegion s fn i f).hostMem = s.hostMem ∧ (modRegion s fn i f).poison = s.poison ∧ (modRegion s fn i f).cores = s.cores ∧
    (modRegion s fn i f).spills = s.spills ∧ (modRegion s fn i f).clusterOff = s.clusterOff ∧
    (modRegion s fn i f).arbLast = s.arbLast ∧ (modRegion s fn i f).channels = s.channels ∧ (modRegion s fn i f).derated = s.derated ∧
    (modRegion s fn i f).caches = s.caches ∧ (modRegion s fn i f).homes = s.homes ∧ (modRegion s fn i f).holds = s.holds ∧
    (modRegion s fn i f).hostReads = s.hostReads ∧ (modRegion s fn i f).partitions = s.partitions ∧
    (modRegion s fn i f).queues = s.queues ∧ (modRegion s fn i f).harts = s.harts ∧ (modRegion s fn i f).imsic = s.imsic ∧
    (modRegion s fn i f).aplic = s.aplic ∧ (modRegion s fn i f).ports = s.ports ∧ (modRegion s fn i f).flows = s.flows ∧
    (modRegion s fn i f).colls = s.colls ∧ (modRegion s fn i f).videos = s.videos ∧ (modRegion s fn i f).link = s.link ∧
    (modRegion s fn i f).linkReplays = s.linkReplays ∧ (modRegion s fn i f).etherType = s.etherType ∧
    (modRegion s fn i f).telemetry = s.telemetry ∧ (modRegion s fn i f).hostOut = s.hostOut ∧
    (modRegion s fn i f).portOut = s.portOut ∧ (modRegion s fn i f).free = s.free :=
  ⟨rfl, rfl, rfl, rfl, rfl, rfl, rfl, rfl, rfl, rfl, rfl, rfl, rfl, rfl, rfl, rfl, rfl, rfl, rfl, rfl, rfl, rfl, rfl, rfl, rfl, rfl, rfl, rfl, rfl, rfl, rfl, rfl, rfl, rfl, rfl, rfl, rfl, rfl, rfl, rfl⟩

@[simp] theorem modTable_frame (s : State) (p id : Nat) (f : EmbTable → EmbTable) :
    (modTable s p id f).pending = s.pending ∧ (modTable s p id f).big = s.big ∧ (modTable s p id f).pins = s.pins ∧
    (modTable s p id f).life = s.life ∧ (modTable s p id f).flash = s.flash ∧ (modTable s p id f).sec = s.sec ∧
    (modTable s p id f).power = s.power ∧ (modTable s p id f).dies = s.dies ∧ (modTable s p id f).hours = s.hours ∧
    (modTable s p id f).domains = s.domains ∧ (modTable s p id f).fault = s.fault ∧ (modTable s p id f).mem = s.mem ∧
    (modTable s p id f).hostMem = s.hostMem ∧ (modTable s p id f).poison = s.poison ∧ (modTable s p id f).cores = s.cores ∧
    (modTable s p id f).spills = s.spills ∧ (modTable s p id f).clusterOff = s.clusterOff ∧ (modTable s p id f).arbLast = s.arbLast ∧
    (modTable s p id f).channels = s.channels ∧ (modTable s p id f).derated = s.derated ∧ (modTable s p id f).caches = s.caches ∧
    (modTable s p id f).homes = s.homes ∧ (modTable s p id f).holds = s.holds ∧ (modTable s p id f).hostReads = s.hostReads ∧
    (modTable s p id f).funcs = s.funcs ∧ (modTable s p id f).queues = s.queues ∧ (modTable s p id f).harts = s.harts ∧
    (modTable s p id f).imsic = s.imsic ∧ (modTable s p id f).aplic = s.aplic ∧ (modTable s p id f).ports = s.ports ∧
    (modTable s p id f).flows = s.flows ∧ (modTable s p id f).colls = s.colls ∧ (modTable s p id f).videos = s.videos ∧
    (modTable s p id f).link = s.link ∧ (modTable s p id f).linkReplays = s.linkReplays ∧
    (modTable s p id f).etherType = s.etherType ∧ (modTable s p id f).telemetry = s.telemetry ∧
    (modTable s p id f).hostOut = s.hostOut ∧ (modTable s p id f).portOut = s.portOut ∧ (modTable s p id f).free = s.free :=
  ⟨rfl, rfl, rfl, rfl, rfl, rfl, rfl, rfl, rfl, rfl, rfl, rfl, rfl, rfl, rfl, rfl, rfl, rfl, rfl, rfl, rfl, rfl, rfl, rfl, rfl, rfl, rfl, rfl, rfl, rfl, rfl, rfl, rfl, rfl, rfl, rfl, rfl, rfl, rfl, rfl⟩

@[simp] theorem modFlow_frame (s : State) (fid : Nat) (f : Flow → Flow) :
    (modFlow s fid f).pending = s.pending ∧ (modFlow s fid f).big = s.big ∧ (modFlow s fid f).pins = s.pins ∧
    (modFlow s fid f).life = s.life ∧ (modFlow s fid f).flash = s.flash ∧ (modFlow s fid f).sec = s.sec ∧
    (modFlow s fid f).power = s.power ∧ (modFlow s fid f).dies = s.dies ∧ (modFlow s fid f).hours = s.hours ∧
    (modFlow s fid f).domains = s.domains ∧ (modFlow s fid f).fault = s.fault ∧ (modFlow s fid f).mem = s.mem ∧
    (modFlow s fid f).hostMem = s.hostMem ∧ (modFlow s fid f).poison = s.poison ∧ (modFlow s fid f).cores = s.cores ∧
    (modFlow s fid f).spills = s.spills ∧ (modFlow s fid f).clusterOff = s.clusterOff ∧ (modFlow s fid f).arbLast = s.arbLast ∧
    (modFlow s fid f).channels = s.channels ∧ (modFlow s fid f).derated = s.derated ∧ (modFlow s fid f).caches = s.caches ∧
    (modFlow s fid f).homes = s.homes ∧ (modFlow s fid f).holds = s.holds ∧ (modFlow s fid f).hostReads = s.hostReads ∧
    (modFlow s fid f).partitions = s.partitions ∧ (modFlow s fid f).funcs = s.funcs ∧ (modFlow s fid f).queues = s.queues ∧
    (modFlow s fid f).harts = s.harts ∧ (modFlow s fid f).imsic = s.imsic ∧ (modFlow s fid f).aplic = s.aplic ∧
    (modFlow s fid f).ports = s.ports ∧ (modFlow s fid f).colls = s.colls ∧ (modFlow s fid f).videos = s.videos ∧
    (modFlow s fid f).link = s.link ∧ (modFlow s fid f).linkReplays = s.linkReplays ∧ (modFlow s fid f).etherType = s.etherType ∧
    (modFlow s fid f).telemetry = s.telemetry ∧ (modFlow s fid f).hostOut = s.hostOut ∧ (modFlow s fid f).portOut = s.portOut ∧
    (modFlow s fid f).free = s.free :=
  ⟨rfl, rfl, rfl, rfl, rfl, rfl, rfl, rfl, rfl, rfl, rfl, rfl, rfl, rfl, rfl, rfl, rfl, rfl, rfl, rfl, rfl, rfl, rfl, rfl, rfl, rfl, rfl, rfl, rfl, rfl, rfl, rfl, rfl, rfl, rfl, rfl, rfl, rfl, rfl, rfl⟩

@[simp] theorem modServer_frame (s : State) (p : Nat) (f : ServerRegs → ServerRegs) :
    (modServer s p f).pending = s.pending ∧ (modServer s p f).big = s.big ∧ (modServer s p f).pins = s.pins ∧
    (modServer s p f).life = s.life ∧ (modServer s p f).flash = s.flash ∧ (modServer s p f).sec = s.sec ∧
    (modServer s p f).power = s.power ∧ (modServer s p f).dies = s.dies ∧ (modServer s p f).hours = s.hours ∧
    (modServer s p f).domains = s.domains ∧ (modServer s p f).fault = s.fault ∧ (modServer s p f).mem = s.mem ∧
    (modServer s p f).hostMem = s.hostMem ∧ (modServer s p f).poison = s.poison ∧ (modServer s p f).cores = s.cores ∧
    (modServer s p f).spills = s.spills ∧ (modServer s p f).clusterOff = s.clusterOff ∧ (modServer s p f).arbLast = s.arbLast ∧
    (modServer s p f).channels = s.channels ∧ (modServer s p f).derated = s.derated ∧ (modServer s p f).caches = s.caches ∧
    (modServer s p f).homes = s.homes ∧ (modServer s p f).holds = s.holds ∧ (modServer s p f).hostReads = s.hostReads ∧
    (modServer s p f).funcs = s.funcs ∧ (modServer s p f).queues = s.queues ∧ (modServer s p f).harts = s.harts ∧
    (modServer s p f).imsic = s.imsic ∧ (modServer s p f).aplic = s.aplic ∧ (modServer s p f).ports = s.ports ∧
    (modServer s p f).flows = s.flows ∧ (modServer s p f).colls = s.colls ∧ (modServer s p f).videos = s.videos ∧
    (modServer s p f).link = s.link ∧ (modServer s p f).linkReplays = s.linkReplays ∧ (modServer s p f).etherType = s.etherType ∧
    (modServer s p f).telemetry = s.telemetry ∧ (modServer s p f).hostOut = s.hostOut ∧ (modServer s p f).portOut = s.portOut ∧
    (modServer s p f).free = s.free :=
  ⟨rfl, rfl, rfl, rfl, rfl, rfl, rfl, rfl, rfl, rfl, rfl, rfl, rfl, rfl, rfl, rfl, rfl, rfl, rfl, rfl, rfl, rfl, rfl, rfl, rfl, rfl, rfl, rfl, rfl, rfl, rfl, rfl, rfl, rfl, rfl, rfl, rfl, rfl, rfl, rfl⟩

@[simp] theorem modTier_frame (s : State) (p : Nat) (f : TierRegs → TierRegs) :
    (modTier s p f).pending = s.pending ∧ (modTier s p f).big = s.big ∧ (modTier s p f).pins = s.pins ∧
    (modTier s p f).life = s.life ∧ (modTier s p f).flash = s.flash ∧ (modTier s p f).sec = s.sec ∧ (modTier s p f).power = s.power ∧
    (modTier s p f).dies = s.dies ∧ (modTier s p f).hours = s.hours ∧ (modTier s p f).domains = s.domains ∧
    (modTier s p f).fault = s.fault ∧ (modTier s p f).mem = s.mem ∧ (modTier s p f).hostMem = s.hostMem ∧
    (modTier s p f).poison = s.poison ∧ (modTier s p f).cores = s.cores ∧ (modTier s p f).spills = s.spills ∧
    (modTier s p f).clusterOff = s.clusterOff ∧ (modTier s p f).arbLast = s.arbLast ∧ (modTier s p f).channels = s.channels ∧
    (modTier s p f).derated = s.derated ∧ (modTier s p f).caches = s.caches ∧ (modTier s p f).homes = s.homes ∧
    (modTier s p f).holds = s.holds ∧ (modTier s p f).hostReads = s.hostReads ∧ (modTier s p f).funcs = s.funcs ∧
    (modTier s p f).queues = s.queues ∧ (modTier s p f).harts = s.harts ∧ (modTier s p f).imsic = s.imsic ∧
    (modTier s p f).aplic = s.aplic ∧ (modTier s p f).ports = s.ports ∧ (modTier s p f).flows = s.flows ∧
    (modTier s p f).colls = s.colls ∧ (modTier s p f).videos = s.videos ∧ (modTier s p f).link = s.link ∧
    (modTier s p f).linkReplays = s.linkReplays ∧ (modTier s p f).etherType = s.etherType ∧ (modTier s p f).telemetry = s.telemetry ∧
    (modTier s p f).hostOut = s.hostOut ∧ (modTier s p f).portOut = s.portOut ∧ (modTier s p f).free = s.free :=
  ⟨rfl, rfl, rfl, rfl, rfl, rfl, rfl, rfl, rfl, rfl, rfl, rfl, rfl, rfl, rfl, rfl, rfl, rfl, rfl, rfl, rfl, rfl, rfl, rfl, rfl, rfl, rfl, rfl, rfl, rfl, rfl, rfl, rfl, rfl, rfl, rfl, rfl, rfl, rfl, rfl⟩

@[simp] theorem modIde_frame (s : State) (i : Nat) (f : IdeStream → IdeStream) :
    (modIde s i f).pending = s.pending ∧ (modIde s i f).big = s.big ∧ (modIde s i f).pins = s.pins ∧ (modIde s i f).life = s.life ∧
    (modIde s i f).flash = s.flash ∧ (modIde s i f).power = s.power ∧ (modIde s i f).dies = s.dies ∧ (modIde s i f).hours = s.hours ∧
    (modIde s i f).domains = s.domains ∧ (modIde s i f).fault = s.fault ∧ (modIde s i f).mem = s.mem ∧
    (modIde s i f).hostMem = s.hostMem ∧ (modIde s i f).poison = s.poison ∧ (modIde s i f).cores = s.cores ∧
    (modIde s i f).spills = s.spills ∧ (modIde s i f).clusterOff = s.clusterOff ∧ (modIde s i f).arbLast = s.arbLast ∧
    (modIde s i f).channels = s.channels ∧ (modIde s i f).derated = s.derated ∧ (modIde s i f).caches = s.caches ∧
    (modIde s i f).homes = s.homes ∧ (modIde s i f).holds = s.holds ∧ (modIde s i f).hostReads = s.hostReads ∧
    (modIde s i f).partitions = s.partitions ∧ (modIde s i f).funcs = s.funcs ∧ (modIde s i f).queues = s.queues ∧
    (modIde s i f).harts = s.harts ∧ (modIde s i f).imsic = s.imsic ∧ (modIde s i f).aplic = s.aplic ∧
    (modIde s i f).ports = s.ports ∧ (modIde s i f).flows = s.flows ∧ (modIde s i f).colls = s.colls ∧
    (modIde s i f).videos = s.videos ∧ (modIde s i f).link = s.link ∧ (modIde s i f).linkReplays = s.linkReplays ∧
    (modIde s i f).etherType = s.etherType ∧ (modIde s i f).telemetry = s.telemetry ∧ (modIde s i f).hostOut = s.hostOut ∧
    (modIde s i f).portOut = s.portOut ∧ (modIde s i f).free = s.free := by
  unfold modIde; split <;> exact ⟨rfl, rfl, rfl, rfl, rfl, rfl, rfl, rfl, rfl, rfl, rfl, rfl, rfl, rfl, rfl, rfl, rfl, rfl, rfl, rfl, rfl, rfl, rfl, rfl, rfl, rfl, rfl, rfl, rfl, rfl, rfl, rfl, rfl, rfl, rfl, rfl, rfl, rfl, rfl, rfl⟩

@[simp] theorem spdmReply_frame (s : State) (code : Nat) (bytes : List Byte) :
    (spdmReply s code bytes).pending = s.pending ∧ (spdmReply s code bytes).big = s.big ∧ (spdmReply s code bytes).pins = s.pins ∧
    (spdmReply s code bytes).life = s.life ∧ (spdmReply s code bytes).flash = s.flash ∧ (spdmReply s code bytes).sec = s.sec ∧
    (spdmReply s code bytes).power = s.power ∧ (spdmReply s code bytes).dies = s.dies ∧ (spdmReply s code bytes).hours = s.hours ∧
    (spdmReply s code bytes).domains = s.domains ∧ (spdmReply s code bytes).fault = s.fault ∧ (spdmReply s code bytes).mem = s.mem ∧
    (spdmReply s code bytes).hostMem = s.hostMem ∧ (spdmReply s code bytes).poison = s.poison ∧
    (spdmReply s code bytes).cores = s.cores ∧ (spdmReply s code bytes).spills = s.spills ∧
    (spdmReply s code bytes).clusterOff = s.clusterOff ∧ (spdmReply s code bytes).arbLast = s.arbLast ∧
    (spdmReply s code bytes).channels = s.channels ∧ (spdmReply s code bytes).derated = s.derated ∧
    (spdmReply s code bytes).caches = s.caches ∧ (spdmReply s code bytes).homes = s.homes ∧ (spdmReply s code bytes).holds = s.holds ∧
    (spdmReply s code bytes).hostReads = s.hostReads ∧ (spdmReply s code bytes).partitions = s.partitions ∧
    (spdmReply s code bytes).funcs = s.funcs ∧ (spdmReply s code bytes).queues = s.queues ∧ (spdmReply s code bytes).harts = s.harts ∧
    (spdmReply s code bytes).imsic = s.imsic ∧ (spdmReply s code bytes).aplic = s.aplic ∧ (spdmReply s code bytes).ports = s.ports ∧
    (spdmReply s code bytes).flows = s.flows ∧ (spdmReply s code bytes).colls = s.colls ∧ (spdmReply s code bytes).videos = s.videos ∧
    (spdmReply s code bytes).link = s.link ∧ (spdmReply s code bytes).linkReplays = s.linkReplays ∧
    (spdmReply s code bytes).etherType = s.etherType ∧ (spdmReply s code bytes).telemetry = s.telemetry ∧
    (spdmReply s code bytes).portOut = s.portOut ∧ (spdmReply s code bytes).free = s.free :=
  ⟨rfl, rfl, rfl, rfl, rfl, rfl, rfl, rfl, rfl, rfl, rfl, rfl, rfl, rfl, rfl, rfl, rfl, rfl, rfl, rfl, rfl, rfl, rfl, rfl, rfl, rfl, rfl, rfl, rfl, rfl, rfl, rfl, rfl, rfl, rfl, rfl, rfl, rfl, rfl, rfl⟩

@[simp] theorem modMbox_frame (s : State) (fn : Nat) (isLocal : Bool) (g : Mailbox → Mailbox) :
    (modMbox s fn isLocal g).pending = s.pending ∧ (modMbox s fn isLocal g).big = s.big ∧ (modMbox s fn isLocal g).pins = s.pins ∧
    (modMbox s fn isLocal g).life = s.life ∧ (modMbox s fn isLocal g).flash = s.flash ∧ (modMbox s fn isLocal g).sec = s.sec ∧
    (modMbox s fn isLocal g).power = s.power ∧ (modMbox s fn isLocal g).dies = s.dies ∧ (modMbox s fn isLocal g).hours = s.hours ∧
    (modMbox s fn isLocal g).domains = s.domains ∧ (modMbox s fn isLocal g).fault = s.fault ∧ (modMbox s fn isLocal g).mem = s.mem ∧
    (modMbox s fn isLocal g).hostMem = s.hostMem ∧ (modMbox s fn isLocal g).poison = s.poison ∧
    (modMbox s fn isLocal g).cores = s.cores ∧ (modMbox s fn isLocal g).spills = s.spills ∧
    (modMbox s fn isLocal g).clusterOff = s.clusterOff ∧ (modMbox s fn isLocal g).arbLast = s.arbLast ∧
    (modMbox s fn isLocal g).channels = s.channels ∧ (modMbox s fn isLocal g).derated = s.derated ∧
    (modMbox s fn isLocal g).caches = s.caches ∧ (modMbox s fn isLocal g).homes = s.homes ∧ (modMbox s fn isLocal g).holds = s.holds ∧
    (modMbox s fn isLocal g).hostReads = s.hostReads ∧ (modMbox s fn isLocal g).partitions = s.partitions ∧
    (modMbox s fn isLocal g).queues = s.queues ∧ (modMbox s fn isLocal g).harts = s.harts ∧ (modMbox s fn isLocal g).imsic = s.imsic ∧
    (modMbox s fn isLocal g).aplic = s.aplic ∧ (modMbox s fn isLocal g).ports = s.ports ∧ (modMbox s fn isLocal g).flows = s.flows ∧
    (modMbox s fn isLocal g).colls = s.colls ∧ (modMbox s fn isLocal g).videos = s.videos ∧ (modMbox s fn isLocal g).link = s.link ∧
    (modMbox s fn isLocal g).linkReplays = s.linkReplays ∧ (modMbox s fn isLocal g).etherType = s.etherType ∧
    (modMbox s fn isLocal g).telemetry = s.telemetry ∧ (modMbox s fn isLocal g).hostOut = s.hostOut ∧
    (modMbox s fn isLocal g).portOut = s.portOut ∧ (modMbox s fn isLocal g).free = s.free := by
  unfold modMbox; split <;> exact ⟨rfl, rfl, rfl, rfl, rfl, rfl, rfl, rfl, rfl, rfl, rfl, rfl, rfl, rfl, rfl, rfl, rfl, rfl, rfl, rfl, rfl, rfl, rfl, rfl, rfl, rfl, rfl, rfl, rfl, rfl, rfl, rfl, rfl, rfl, rfl, rfl, rfl, rfl, rfl, rfl⟩

@[simp] theorem modComponent_frame (s : State) (c : Nat) (f : Component → Component) :
    (modComponent s c f).pending = s.pending ∧ (modComponent s c f).big = s.big ∧ (modComponent s c f).pins = s.pins ∧
    (modComponent s c f).life = s.life ∧ (modComponent s c f).sec = s.sec ∧ (modComponent s c f).power = s.power ∧
    (modComponent s c f).dies = s.dies ∧ (modComponent s c f).hours = s.hours ∧ (modComponent s c f).domains = s.domains ∧
    (modComponent s c f).fault = s.fault ∧ (modComponent s c f).mem = s.mem ∧ (modComponent s c f).hostMem = s.hostMem ∧
    (modComponent s c f).poison = s.poison ∧ (modComponent s c f).cores = s.cores ∧ (modComponent s c f).spills = s.spills ∧
    (modComponent s c f).clusterOff = s.clusterOff ∧ (modComponent s c f).arbLast = s.arbLast ∧
    (modComponent s c f).channels = s.channels ∧ (modComponent s c f).derated = s.derated ∧ (modComponent s c f).caches = s.caches ∧
    (modComponent s c f).homes = s.homes ∧ (modComponent s c f).holds = s.holds ∧ (modComponent s c f).hostReads = s.hostReads ∧
    (modComponent s c f).partitions = s.partitions ∧ (modComponent s c f).funcs = s.funcs ∧ (modComponent s c f).queues = s.queues ∧
    (modComponent s c f).harts = s.harts ∧ (modComponent s c f).imsic = s.imsic ∧ (modComponent s c f).aplic = s.aplic ∧
    (modComponent s c f).ports = s.ports ∧ (modComponent s c f).flows = s.flows ∧ (modComponent s c f).colls = s.colls ∧
    (modComponent s c f).videos = s.videos ∧ (modComponent s c f).link = s.link ∧ (modComponent s c f).linkReplays = s.linkReplays ∧
    (modComponent s c f).etherType = s.etherType ∧ (modComponent s c f).telemetry = s.telemetry ∧
    (modComponent s c f).hostOut = s.hostOut ∧ (modComponent s c f).portOut = s.portOut ∧ (modComponent s c f).free = s.free := by
  unfold modComponent; split <;> exact ⟨rfl, rfl, rfl, rfl, rfl, rfl, rfl, rfl, rfl, rfl, rfl, rfl, rfl, rfl, rfl, rfl, rfl, rfl, rfl, rfl, rfl, rfl, rfl, rfl, rfl, rfl, rfl, rfl, rfl, rfl, rfl, rfl, rfl, rfl, rfl, rfl, rfl, rfl, rfl, rfl⟩

@[simp] theorem modDrip_frame (s : State) (p : Nat) (f : Drip → Drip) :
    (modDrip s p f).pending = s.pending ∧ (modDrip s p f).big = s.big ∧ (modDrip s p f).pins = s.pins ∧
    (modDrip s p f).life = s.life ∧ (modDrip s p f).flash = s.flash ∧ (modDrip s p f).sec = s.sec ∧ (modDrip s p f).power = s.power ∧
    (modDrip s p f).dies = s.dies ∧ (modDrip s p f).hours = s.hours ∧ (modDrip s p f).domains = s.domains ∧
    (modDrip s p f).fault = s.fault ∧ (modDrip s p f).mem = s.mem ∧ (modDrip s p f).hostMem = s.hostMem ∧
    (modDrip s p f).poison = s.poison ∧ (modDrip s p f).cores = s.cores ∧ (modDrip s p f).spills = s.spills ∧
    (modDrip s p f).clusterOff = s.clusterOff ∧ (modDrip s p f).arbLast = s.arbLast ∧ (modDrip s p f).channels = s.channels ∧
    (modDrip s p f).derated = s.derated ∧ (modDrip s p f).caches = s.caches ∧ (modDrip s p f).homes = s.homes ∧
    (modDrip s p f).holds = s.holds ∧ (modDrip s p f).hostReads = s.hostReads ∧ (modDrip s p f).funcs = s.funcs ∧
    (modDrip s p f).queues = s.queues ∧ (modDrip s p f).harts = s.harts ∧ (modDrip s p f).imsic = s.imsic ∧
    (modDrip s p f).aplic = s.aplic ∧ (modDrip s p f).ports = s.ports ∧ (modDrip s p f).flows = s.flows ∧
    (modDrip s p f).colls = s.colls ∧ (modDrip s p f).videos = s.videos ∧ (modDrip s p f).link = s.link ∧
    (modDrip s p f).linkReplays = s.linkReplays ∧ (modDrip s p f).etherType = s.etherType ∧ (modDrip s p f).telemetry = s.telemetry ∧
    (modDrip s p f).hostOut = s.hostOut ∧ (modDrip s p f).portOut = s.portOut ∧ (modDrip s p f).free = s.free :=
  ⟨rfl, rfl, rfl, rfl, rfl, rfl, rfl, rfl, rfl, rfl, rfl, rfl, rfl, rfl, rfl, rfl, rfl, rfl, rfl, rfl, rfl, rfl, rfl, rfl, rfl, rfl, rfl, rfl, rfl, rfl, rfl, rfl, rfl, rfl, rfl, rfl, rfl, rfl, rfl, rfl⟩

@[simp] theorem rejectDoorbell_frame (s : State) (fn : Nat) :
    (rejectDoorbell s fn).pending = s.pending ∧ (rejectDoorbell s fn).big = s.big ∧ (rejectDoorbell s fn).pins = s.pins ∧
    (rejectDoorbell s fn).life = s.life ∧ (rejectDoorbell s fn).flash = s.flash ∧ (rejectDoorbell s fn).sec = s.sec ∧
    (rejectDoorbell s fn).power = s.power ∧ (rejectDoorbell s fn).dies = s.dies ∧ (rejectDoorbell s fn).hours = s.hours ∧
    (rejectDoorbell s fn).domains = s.domains ∧ (rejectDoorbell s fn).fault = s.fault ∧ (rejectDoorbell s fn).mem = s.mem ∧
    (rejectDoorbell s fn).hostMem = s.hostMem ∧ (rejectDoorbell s fn).poison = s.poison ∧ (rejectDoorbell s fn).cores = s.cores ∧
    (rejectDoorbell s fn).spills = s.spills ∧ (rejectDoorbell s fn).clusterOff = s.clusterOff ∧
    (rejectDoorbell s fn).arbLast = s.arbLast ∧ (rejectDoorbell s fn).channels = s.channels ∧
    (rejectDoorbell s fn).derated = s.derated ∧ (rejectDoorbell s fn).caches = s.caches ∧ (rejectDoorbell s fn).homes = s.homes ∧
    (rejectDoorbell s fn).holds = s.holds ∧ (rejectDoorbell s fn).hostReads = s.hostReads ∧
    (rejectDoorbell s fn).partitions = s.partitions ∧ (rejectDoorbell s fn).queues = s.queues ∧
    (rejectDoorbell s fn).harts = s.harts ∧ (rejectDoorbell s fn).imsic = s.imsic ∧ (rejectDoorbell s fn).aplic = s.aplic ∧
    (rejectDoorbell s fn).ports = s.ports ∧ (rejectDoorbell s fn).flows = s.flows ∧ (rejectDoorbell s fn).colls = s.colls ∧
    (rejectDoorbell s fn).videos = s.videos ∧ (rejectDoorbell s fn).link = s.link ∧
    (rejectDoorbell s fn).linkReplays = s.linkReplays ∧ (rejectDoorbell s fn).etherType = s.etherType ∧
    (rejectDoorbell s fn).telemetry = s.telemetry ∧ (rejectDoorbell s fn).hostOut = s.hostOut ∧
    (rejectDoorbell s fn).portOut = s.portOut ∧ (rejectDoorbell s fn).free = s.free :=
  ⟨rfl, rfl, rfl, rfl, rfl, rfl, rfl, rfl, rfl, rfl, rfl, rfl, rfl, rfl, rfl, rfl, rfl, rfl, rfl, rfl, rfl, rfl, rfl, rfl, rfl, rfl, rfl, rfl, rfl, rfl, rfl, rfl, rfl, rfl, rfl, rfl, rfl, rfl, rfl, rfl⟩

@[simp] theorem dropFrame_frame (s : State) (port : Nat) :
    (dropFrame s port).pending = s.pending ∧ (dropFrame s port).big = s.big ∧ (dropFrame s port).pins = s.pins ∧
    (dropFrame s port).life = s.life ∧ (dropFrame s port).flash = s.flash ∧ (dropFrame s port).sec = s.sec ∧
    (dropFrame s port).power = s.power ∧ (dropFrame s port).dies = s.dies ∧ (dropFrame s port).hours = s.hours ∧
    (dropFrame s port).domains = s.domains ∧ (dropFrame s port).fault = s.fault ∧ (dropFrame s port).mem = s.mem ∧
    (dropFrame s port).hostMem = s.hostMem ∧ (dropFrame s port).poison = s.poison ∧ (dropFrame s port).cores = s.cores ∧
    (dropFrame s port).spills = s.spills ∧ (dropFrame s port).clusterOff = s.clusterOff ∧ (dropFrame s port).arbLast = s.arbLast ∧
    (dropFrame s port).channels = s.channels ∧ (dropFrame s port).derated = s.derated ∧ (dropFrame s port).caches = s.caches ∧
    (dropFrame s port).homes = s.homes ∧ (dropFrame s port).holds = s.holds ∧ (dropFrame s port).hostReads = s.hostReads ∧
    (dropFrame s port).partitions = s.partitions ∧ (dropFrame s port).funcs = s.funcs ∧ (dropFrame s port).queues = s.queues ∧
    (dropFrame s port).harts = s.harts ∧ (dropFrame s port).imsic = s.imsic ∧ (dropFrame s port).aplic = s.aplic ∧
    (dropFrame s port).flows = s.flows ∧ (dropFrame s port).colls = s.colls ∧ (dropFrame s port).videos = s.videos ∧
    (dropFrame s port).link = s.link ∧ (dropFrame s port).linkReplays = s.linkReplays ∧ (dropFrame s port).etherType = s.etherType ∧
    (dropFrame s port).telemetry = s.telemetry ∧ (dropFrame s port).hostOut = s.hostOut ∧ (dropFrame s port).portOut = s.portOut ∧
    (dropFrame s port).free = s.free := by
  simp [dropFrame]

@[simp] theorem countRx_frame (s : State) (port bytes : Nat) :
    (countRx s port bytes).pending = s.pending ∧ (countRx s port bytes).big = s.big ∧ (countRx s port bytes).pins = s.pins ∧
    (countRx s port bytes).life = s.life ∧ (countRx s port bytes).flash = s.flash ∧ (countRx s port bytes).sec = s.sec ∧
    (countRx s port bytes).power = s.power ∧ (countRx s port bytes).dies = s.dies ∧ (countRx s port bytes).hours = s.hours ∧
    (countRx s port bytes).domains = s.domains ∧ (countRx s port bytes).fault = s.fault ∧ (countRx s port bytes).mem = s.mem ∧
    (countRx s port bytes).hostMem = s.hostMem ∧ (countRx s port bytes).poison = s.poison ∧ (countRx s port bytes).cores = s.cores ∧
    (countRx s port bytes).spills = s.spills ∧ (countRx s port bytes).clusterOff = s.clusterOff ∧
    (countRx s port bytes).arbLast = s.arbLast ∧ (countRx s port bytes).channels = s.channels ∧
    (countRx s port bytes).derated = s.derated ∧ (countRx s port bytes).caches = s.caches ∧ (countRx s port bytes).homes = s.homes ∧
    (countRx s port bytes).holds = s.holds ∧ (countRx s port bytes).hostReads = s.hostReads ∧
    (countRx s port bytes).partitions = s.partitions ∧ (countRx s port bytes).funcs = s.funcs ∧
    (countRx s port bytes).queues = s.queues ∧ (countRx s port bytes).harts = s.harts ∧ (countRx s port bytes).imsic = s.imsic ∧
    (countRx s port bytes).aplic = s.aplic ∧ (countRx s port bytes).flows = s.flows ∧ (countRx s port bytes).colls = s.colls ∧
    (countRx s port bytes).videos = s.videos ∧ (countRx s port bytes).link = s.link ∧
    (countRx s port bytes).linkReplays = s.linkReplays ∧ (countRx s port bytes).etherType = s.etherType ∧
    (countRx s port bytes).telemetry = s.telemetry ∧ (countRx s port bytes).hostOut = s.hostOut ∧
    (countRx s port bytes).portOut = s.portOut ∧ (countRx s port bytes).free = s.free := by
  simp [countRx]

@[simp] theorem setPlanes_frame (s : State) (fid : Nat) :
    (setPlanes s fid).pending = s.pending ∧ (setPlanes s fid).big = s.big ∧ (setPlanes s fid).pins = s.pins ∧
    (setPlanes s fid).life = s.life ∧ (setPlanes s fid).flash = s.flash ∧ (setPlanes s fid).sec = s.sec ∧
    (setPlanes s fid).power = s.power ∧ (setPlanes s fid).dies = s.dies ∧ (setPlanes s fid).hours = s.hours ∧
    (setPlanes s fid).domains = s.domains ∧ (setPlanes s fid).fault = s.fault ∧ (setPlanes s fid).mem = s.mem ∧
    (setPlanes s fid).hostMem = s.hostMem ∧ (setPlanes s fid).poison = s.poison ∧ (setPlanes s fid).cores = s.cores ∧
    (setPlanes s fid).spills = s.spills ∧ (setPlanes s fid).clusterOff = s.clusterOff ∧ (setPlanes s fid).arbLast = s.arbLast ∧
    (setPlanes s fid).channels = s.channels ∧ (setPlanes s fid).derated = s.derated ∧ (setPlanes s fid).caches = s.caches ∧
    (setPlanes s fid).homes = s.homes ∧ (setPlanes s fid).holds = s.holds ∧ (setPlanes s fid).hostReads = s.hostReads ∧
    (setPlanes s fid).partitions = s.partitions ∧ (setPlanes s fid).funcs = s.funcs ∧ (setPlanes s fid).queues = s.queues ∧
    (setPlanes s fid).harts = s.harts ∧ (setPlanes s fid).imsic = s.imsic ∧ (setPlanes s fid).aplic = s.aplic ∧
    (setPlanes s fid).ports = s.ports ∧ (setPlanes s fid).colls = s.colls ∧ (setPlanes s fid).videos = s.videos ∧
    (setPlanes s fid).link = s.link ∧ (setPlanes s fid).linkReplays = s.linkReplays ∧ (setPlanes s fid).etherType = s.etherType ∧
    (setPlanes s fid).telemetry = s.telemetry ∧ (setPlanes s fid).hostOut = s.hostOut ∧ (setPlanes s fid).portOut = s.portOut ∧
    (setPlanes s fid).free = s.free := by
  unfold setPlanes; split <;> exact ⟨rfl, rfl, rfl, rfl, rfl, rfl, rfl, rfl, rfl, rfl, rfl, rfl, rfl, rfl, rfl, rfl, rfl, rfl, rfl, rfl, rfl, rfl, rfl, rfl, rfl, rfl, rfl, rfl, rfl, rfl, rfl, rfl, rfl, rfl, rfl, rfl, rfl, rfl, rfl, rfl⟩

@[simp] theorem complete_frame (s : State) (status : Nat) (bytes : List Byte) :
    (complete s status bytes).pending = s.pending ∧ (complete s status bytes).big = s.big ∧ (complete s status bytes).pins = s.pins ∧
    (complete s status bytes).life = s.life ∧ (complete s status bytes).flash = s.flash ∧ (complete s status bytes).sec = s.sec ∧
    (complete s status bytes).power = s.power ∧ (complete s status bytes).dies = s.dies ∧ (complete s status bytes).hours = s.hours ∧
    (complete s status bytes).domains = s.domains ∧ (complete s status bytes).fault = s.fault ∧
    (complete s status bytes).mem = s.mem ∧ (complete s status bytes).hostMem = s.hostMem ∧
    (complete s status bytes).poison = s.poison ∧ (complete s status bytes).cores = s.cores ∧
    (complete s status bytes).spills = s.spills ∧ (complete s status bytes).clusterOff = s.clusterOff ∧
    (complete s status bytes).arbLast = s.arbLast ∧ (complete s status bytes).channels = s.channels ∧
    (complete s status bytes).derated = s.derated ∧ (complete s status bytes).caches = s.caches ∧
    (complete s status bytes).homes = s.homes ∧ (complete s status bytes).holds = s.holds ∧
    (complete s status bytes).hostReads = s.hostReads ∧ (complete s status bytes).partitions = s.partitions ∧
    (complete s status bytes).funcs = s.funcs ∧ (complete s status bytes).queues = s.queues ∧
    (complete s status bytes).harts = s.harts ∧ (complete s status bytes).imsic = s.imsic ∧
    (complete s status bytes).aplic = s.aplic ∧ (complete s status bytes).ports = s.ports ∧
    (complete s status bytes).flows = s.flows ∧ (complete s status bytes).colls = s.colls ∧
    (complete s status bytes).videos = s.videos ∧ (complete s status bytes).link = s.link ∧
    (complete s status bytes).linkReplays = s.linkReplays ∧ (complete s status bytes).etherType = s.etherType ∧
    (complete s status bytes).telemetry = s.telemetry ∧ (complete s status bytes).portOut = s.portOut ∧
    (complete s status bytes).free = s.free :=
  ⟨rfl, rfl, rfl, rfl, rfl, rfl, rfl, rfl, rfl, rfl, rfl, rfl, rfl, rfl, rfl, rfl, rfl, rfl, rfl, rfl, rfl, rfl, rfl, rfl, rfl, rfl, rfl, rfl, rfl, rfl, rfl, rfl, rfl, rfl, rfl, rfl, rfl, rfl, rfl, rfl⟩

@[simp] theorem countUnmapped_frame (s : State) (fn : Nat) :
    (countUnmapped s fn).pending = s.pending ∧ (countUnmapped s fn).big = s.big ∧ (countUnmapped s fn).pins = s.pins ∧
    (countUnmapped s fn).life = s.life ∧ (countUnmapped s fn).flash = s.flash ∧ (countUnmapped s fn).sec = s.sec ∧
    (countUnmapped s fn).power = s.power ∧ (countUnmapped s fn).dies = s.dies ∧ (countUnmapped s fn).hours = s.hours ∧
    (countUnmapped s fn).domains = s.domains ∧ (countUnmapped s fn).fault = s.fault ∧ (countUnmapped s fn).mem = s.mem ∧
    (countUnmapped s fn).hostMem = s.hostMem ∧ (countUnmapped s fn).poison = s.poison ∧ (countUnmapped s fn).cores = s.cores ∧
    (countUnmapped s fn).spills = s.spills ∧ (countUnmapped s fn).clusterOff = s.clusterOff ∧
    (countUnmapped s fn).arbLast = s.arbLast ∧ (countUnmapped s fn).channels = s.channels ∧ (countUnmapped s fn).derated = s.derated ∧
    (countUnmapped s fn).caches = s.caches ∧ (countUnmapped s fn).homes = s.homes ∧ (countUnmapped s fn).holds = s.holds ∧
    (countUnmapped s fn).hostReads = s.hostReads ∧ (countUnmapped s fn).partitions = s.partitions ∧
    (countUnmapped s fn).queues = s.queues ∧ (countUnmapped s fn).harts = s.harts ∧ (countUnmapped s fn).imsic = s.imsic ∧
    (countUnmapped s fn).aplic = s.aplic ∧ (countUnmapped s fn).ports = s.ports ∧ (countUnmapped s fn).flows = s.flows ∧
    (countUnmapped s fn).colls = s.colls ∧ (countUnmapped s fn).videos = s.videos ∧ (countUnmapped s fn).link = s.link ∧
    (countUnmapped s fn).linkReplays = s.linkReplays ∧ (countUnmapped s fn).etherType = s.etherType ∧
    (countUnmapped s fn).telemetry = s.telemetry ∧ (countUnmapped s fn).hostOut = s.hostOut ∧
    (countUnmapped s fn).portOut = s.portOut ∧ (countUnmapped s fn).free = s.free :=
  ⟨rfl, rfl, rfl, rfl, rfl, rfl, rfl, rfl, rfl, rfl, rfl, rfl, rfl, rfl, rfl, rfl, rfl, rfl, rfl, rfl, rfl, rfl, rfl, rfl, rfl, rfl, rfl, rfl, rfl, rfl, rfl, rfl, rfl, rfl, rfl, rfl, rfl, rfl, rfl, rfl⟩

/-- The state t differs from s at most in what a write of memory reaches: memory, poison, cached lines, home nodes, reservations, messages to the host,
and the count of free values. -/
structure MemOnly (s t : State) : Prop where
  pending : t.pending = s.pending
  big : t.big = s.big
  pins : t.pins = s.pins
  life : t.life = s.life
  flash : t.flash = s.flash
  sec : t.sec = s.sec
  power : t.power = s.power
  dies : t.dies = s.dies
  hours : t.hours = s.hours
  domains : t.domains = s.domains
  fault : t.fault = s.fault
  cores : t.cores = s.cores
  spills : t.spills = s.spills
  clusterOff : t.clusterOff = s.clusterOff
  arbLast : t.arbLast = s.arbLast
  channels : t.channels = s.channels
  derated : t.derated = s.derated
  holds : t.holds = s.holds
  hostReads : t.hostReads = s.hostReads
  partitions : t.partitions = s.partitions
  funcs : t.funcs = s.funcs
  queues : t.queues = s.queues
  imsic : t.imsic = s.imsic
  aplic : t.aplic = s.aplic
  ports : t.ports = s.ports
  flows : t.flows = s.flows
  colls : t.colls = s.colls
  videos : t.videos = s.videos
  link : t.link = s.link
  linkReplays : t.linkReplays = s.linkReplays
  etherType : t.etherType = s.etherType
  telemetry : t.telemetry = s.telemetry
  portOut : t.portOut = s.portOut

theorem MemOnly.refl (s : State) : MemOnly s s := by constructor <;> rfl

theorem MemOnly.trans {s t u : State} (a : MemOnly s t) (b : MemOnly t u) : MemOnly s u :=
  ⟨b.pending.trans a.pending, b.big.trans a.big, b.pins.trans a.pins, b.life.trans a.life, b.flash.trans a.flash, b.sec.trans a.sec,
  b.power.trans a.power, b.dies.trans a.dies, b.hours.trans a.hours, b.domains.trans a.domains, b.fault.trans a.fault,
  b.cores.trans a.cores, b.spills.trans a.spills, b.clusterOff.trans a.clusterOff, b.arbLast.trans a.arbLast,
  b.channels.trans a.channels, b.derated.trans a.derated, b.holds.trans a.holds, b.hostReads.trans a.hostReads,
  b.partitions.trans a.partitions, b.funcs.trans a.funcs, b.queues.trans a.queues, b.imsic.trans a.imsic, b.aplic.trans a.aplic,
  b.ports.trans a.ports, b.flows.trans a.flows, b.colls.trans a.colls, b.videos.trans a.videos, b.link.trans a.link,
  b.linkReplays.trans a.linkReplays, b.etherType.trans a.etherType, b.telemetry.trans a.telemetry, b.portOut.trans a.portOut⟩

theorem MemOnly.foldl {α : Type} {f : State → α → State} (h : ∀ t x, MemOnly t (f t x)) (l : List α) (s : State) : MemOnly s (l.foldl f s) := by
  induction l generalizing s with
  | nil => exact .refl s
  | cons x l ih => exact (h s x).trans (ih _)

theorem hostWrite_memOnly (s : State) (p bus : Nat) (bs : List Byte) : MemOnly s (hostWrite s p bus bs) := by
  unfold hostWrite; (repeat' split) <;> constructor <;> rfl

theorem placePut_memOnly (s : State) (pl : Place) (b : Byte) : MemOnly s (placePut s pl b) := by
  unfold placePut; split <;> first | (constructor <;> rfl) | (constructor <;> simp)

theorem putAt_memOnly (s : State) (a : Nat) (bs : List Byte) : MemOnly s (putAt s a bs) := by
  induction bs generalizing s a with
  | nil => exact .refl s
  | cons b bs ih => exact (placePut_memOnly s _ _).trans (ih _ _)

theorem putLine_memOnly (s : State) (lid : Nat) (d : BitVec 512) : MemOnly s (putLine s lid d) :=
  putAt_memOnly s _ _

theorem setLine_memOnly (s : State) (agent lid : Nat) (l : CacheLine) : MemOnly s (setLine s agent lid l) := by constructor <;> rfl

theorem dropLine_memOnly (s : State) (agent lid : Nat) : MemOnly s (dropLine s agent lid) := by constructor <;> rfl

theorem modHome_memOnly (s : State) (m : Nat) (f : HomeNode → HomeNode) : MemOnly s (modHome s m f) := by constructor <;> simp

theorem modHart_memOnly (s : State) (i : Nat) (f : Hart → Hart) : MemOnly s (modHart s i f) := by constructor <;> simp

theorem dropCopies_memOnly (s : State) (lid : Nat) : MemOnly s (dropCopies s lid) := by
  unfold dropCopies
  exact (MemOnly.foldl (fun t x => dropLine_memOnly t x lid) _ _).trans (modHome_memOnly _ _ _)

theorem recallLine_memOnly (s : State) (lid : Nat) : MemOnly s (recallLine s lid) := by
  unfold recallLine; split
  · exact dropCopies_memOnly _ _
  · exact (putLine_memOnly _ _ _).trans (dropCopies_memOnly _ _)

theorem recallRange_memOnly (s : State) (a n : Nat) : MemOnly s (recallRange s a n) := by
  unfold recallRange; split
  · refine MemOnly.foldl (fun t x => ?_) _ _
    split
    · exact recallLine_memOnly _ _
    · exact .refl _
  · exact .refl _

theorem clearPoison_memOnly (s : State) (a n : Nat) : MemOnly s (clearPoison s a n) := by
  unfold clearPoison; split
  · exact .refl s
  · constructor <;> rfl

theorem refreshFlights_memOnly (s : State) (a n : Nat) : MemOnly s (refreshFlights s a n) := by
  unfold refreshFlights; split
  · exact .refl s
  · constructor <;> rfl

theorem dropReservations_memOnly (s : State) (a n : Nat) : MemOnly s (dropReservations s a n) := by
  unfold dropReservations; split
  · exact .refl s
  · constructor <;> rfl

theorem cohWrite_memOnly (s : State) (a : Nat) (bs : List Byte) : MemOnly s (cohWrite s a bs) :=
  (((recallRange_memOnly _ _ _).trans (putAt_memOnly _ _ _)).trans ((refreshFlights_memOnly _ _ _).trans (dropReservations_memOnly _ _ _))).trans
    (clearPoison_memOnly _ _ _)

theorem poisonLine_memOnly (s : State) (a : Nat) : MemOnly s (poisonLine s a) := by constructor <;> simp [poisonLine, drawBytes]

theorem moduleWrite_memOnly (s : State) (a : Nat) (bs : List Byte) : MemOnly s (moduleWrite s a bs) := by
  unfold moduleWrite; split
  · exact hostWrite_memOnly _ _ _ _
  · exact cohWrite_memOnly _ _ _

@[simp] theorem hostWrite_frame (s : State) (p bus : Nat) (bs : List Byte) :
    (hostWrite s p bus bs).pending = s.pending ∧ (hostWrite s p bus bs).big = s.big ∧ (hostWrite s p bus bs).pins = s.pins ∧
    (hostWrite s p bus bs).life = s.life ∧ (hostWrite s p bus bs).flash = s.flash ∧ (hostWrite s p bus bs).sec = s.sec ∧
    (hostWrite s p bus bs).power = s.power ∧ (hostWrite s p bus bs).dies = s.dies ∧ (hostWrite s p bus bs).hours = s.hours ∧
    (hostWrite s p bus bs).domains = s.domains ∧ (hostWrite s p bus bs).fault = s.fault ∧ (hostWrite s p bus bs).cores = s.cores ∧
    (hostWrite s p bus bs).spills = s.spills ∧ (hostWrite s p bus bs).clusterOff = s.clusterOff ∧
    (hostWrite s p bus bs).arbLast = s.arbLast ∧ (hostWrite s p bus bs).channels = s.channels ∧
    (hostWrite s p bus bs).derated = s.derated ∧ (hostWrite s p bus bs).holds = s.holds ∧
    (hostWrite s p bus bs).hostReads = s.hostReads ∧ (hostWrite s p bus bs).partitions = s.partitions ∧
    (hostWrite s p bus bs).funcs = s.funcs ∧ (hostWrite s p bus bs).queues = s.queues ∧ (hostWrite s p bus bs).imsic = s.imsic ∧
    (hostWrite s p bus bs).aplic = s.aplic ∧ (hostWrite s p bus bs).ports = s.ports ∧ (hostWrite s p bus bs).flows = s.flows ∧
    (hostWrite s p bus bs).colls = s.colls ∧ (hostWrite s p bus bs).videos = s.videos ∧ (hostWrite s p bus bs).link = s.link ∧
    (hostWrite s p bus bs).linkReplays = s.linkReplays ∧ (hostWrite s p bus bs).etherType = s.etherType ∧
    (hostWrite s p bus bs).telemetry = s.telemetry ∧ (hostWrite s p bus bs).portOut = s.portOut :=
  have h := hostWrite_memOnly s p bus bs
  ⟨h.pending, h.big, h.pins, h.life, h.flash, h.sec, h.power, h.dies, h.hours, h.domains, h.fault, h.cores, h.spills, h.clusterOff,
  h.arbLast, h.channels, h.derated, h.holds, h.hostReads, h.partitions, h.funcs, h.queues, h.imsic, h.aplic, h.ports, h.flows,
  h.colls, h.videos, h.link, h.linkReplays, h.etherType, h.telemetry, h.portOut⟩

@[simp] theorem putAt_frame (s : State) (a : Nat) (bs : List Byte) :
    (putAt s a bs).pending = s.pending ∧ (putAt s a bs).big = s.big ∧ (putAt s a bs).pins = s.pins ∧ (putAt s a bs).life = s.life ∧
    (putAt s a bs).flash = s.flash ∧ (putAt s a bs).sec = s.sec ∧ (putAt s a bs).power = s.power ∧ (putAt s a bs).dies = s.dies ∧
    (putAt s a bs).hours = s.hours ∧ (putAt s a bs).domains = s.domains ∧ (putAt s a bs).fault = s.fault ∧
    (putAt s a bs).cores = s.cores ∧ (putAt s a bs).spills = s.spills ∧ (putAt s a bs).clusterOff = s.clusterOff ∧
    (putAt s a bs).arbLast = s.arbLast ∧ (putAt s a bs).channels = s.channels ∧ (putAt s a bs).derated = s.derated ∧
    (putAt s a bs).holds = s.holds ∧ (putAt s a bs).hostReads = s.hostReads ∧ (putAt s a bs).partitions = s.partitions ∧
    (putAt s a bs).funcs = s.funcs ∧ (putAt s a bs).queues = s.queues ∧ (putAt s a bs).imsic = s.imsic ∧
    (putAt s a bs).aplic = s.aplic ∧ (putAt s a bs).ports = s.ports ∧ (putAt s a bs).flows = s.flows ∧
    (putAt s a bs).colls = s.colls ∧ (putAt s a bs).videos = s.videos ∧ (putAt s a bs).link = s.link ∧
    (putAt s a bs).linkReplays = s.linkReplays ∧ (putAt s a bs).etherType = s.etherType ∧ (putAt s a bs).telemetry = s.telemetry ∧
    (putAt s a bs).portOut = s.portOut :=
  have h := putAt_memOnly s a bs
  ⟨h.pending, h.big, h.pins, h.life, h.flash, h.sec, h.power, h.dies, h.hours, h.domains, h.fault, h.cores, h.spills, h.clusterOff,
  h.arbLast, h.channels, h.derated, h.holds, h.hostReads, h.partitions, h.funcs, h.queues, h.imsic, h.aplic, h.ports, h.flows,
  h.colls, h.videos, h.link, h.linkReplays, h.etherType, h.telemetry, h.portOut⟩

@[simp] theorem recallLine_frame (s : State) (lid : Nat) :
    (recallLine s lid).pending = s.pending ∧ (recallLine s lid).big = s.big ∧ (recallLine s lid).pins = s.pins ∧
    (recallLine s lid).life = s.life ∧ (recallLine s lid).flash = s.flash ∧ (recallLine s lid).sec = s.sec ∧
    (recallLine s lid).power = s.power ∧ (recallLine s lid).dies = s.dies ∧ (recallLine s lid).hours = s.hours ∧
    (recallLine s lid).domains = s.domains ∧ (recallLine s lid).fault = s.fault ∧ (recallLine s lid).cores = s.cores ∧
    (recallLine s lid).spills = s.spills ∧ (recallLine s lid).clusterOff = s.clusterOff ∧ (recallLine s lid).arbLast = s.arbLast ∧
    (recallLine s lid).channels = s.channels ∧ (recallLine s lid).derated = s.derated ∧ (recallLine s lid).holds = s.holds ∧
    (recallLine s lid).hostReads = s.hostReads ∧ (recallLine s lid).partitions = s.partitions ∧ (recallLine s lid).funcs = s.funcs ∧
    (recallLine s lid).queues = s.queues ∧ (recallLine s lid).imsic = s.imsic ∧ (recallLine s lid).aplic = s.aplic ∧
    (recallLine s lid).ports = s.ports ∧ (recallLine s lid).flows = s.flows ∧ (recallLine s lid).colls = s.colls ∧
    (recallLine s lid).videos = s.videos ∧ (recallLine s lid).link = s.link ∧ (recallLine s lid).linkReplays = s.linkReplays ∧
    (recallLine s lid).etherType = s.etherType ∧ (recallLine s lid).telemetry = s.telemetry ∧ (recallLine s lid).portOut = s.portOut :=
  have h := recallLine_memOnly s lid
  ⟨h.pending, h.big, h.pins, h.life, h.flash, h.sec, h.power, h.dies, h.hours, h.domains, h.fault, h.cores, h.spills, h.clusterOff,
  h.arbLast, h.channels, h.derated, h.holds, h.hostReads, h.partitions, h.funcs, h.queues, h.imsic, h.aplic, h.ports, h.flows,
  h.colls, h.videos, h.link, h.linkReplays, h.etherType, h.telemetry, h.portOut⟩

@[simp] theorem recallRange_frame (s : State) (a n : Nat) :
    (recallRange s a n).pending = s.pending ∧ (recallRange s a n).big = s.big ∧ (recallRange s a n).pins = s.pins ∧
    (recallRange s a n).life = s.life ∧ (recallRange s a n).flash = s.flash ∧ (recallRange s a n).sec = s.sec ∧
    (recallRange s a n).power = s.power ∧ (recallRange s a n).dies = s.dies ∧ (recallRange s a n).hours = s.hours ∧
    (recallRange s a n).domains = s.domains ∧ (recallRange s a n).fault = s.fault ∧ (recallRange s a n).cores = s.cores ∧
    (recallRange s a n).spills = s.spills ∧ (recallRange s a n).clusterOff = s.clusterOff ∧ (recallRange s a n).arbLast = s.arbLast ∧
    (recallRange s a n).channels = s.channels ∧ (recallRange s a n).derated = s.derated ∧ (recallRange s a n).holds = s.holds ∧
    (recallRange s a n).hostReads = s.hostReads ∧ (recallRange s a n).partitions = s.partitions ∧
    (recallRange s a n).funcs = s.funcs ∧ (recallRange s a n).queues = s.queues ∧ (recallRange s a n).imsic = s.imsic ∧
    (recallRange s a n).aplic = s.aplic ∧ (recallRange s a n).ports = s.ports ∧ (recallRange s a n).flows = s.flows ∧
    (recallRange s a n).colls = s.colls ∧ (recallRange s a n).videos = s.videos ∧ (recallRange s a n).link = s.link ∧
    (recallRange s a n).linkReplays = s.linkReplays ∧ (recallRange s a n).etherType = s.etherType ∧
    (recallRange s a n).telemetry = s.telemetry ∧ (recallRange s a n).portOut = s.portOut :=
  have h := recallRange_memOnly s a n
  ⟨h.pending, h.big, h.pins, h.life, h.flash, h.sec, h.power, h.dies, h.hours, h.domains, h.fault, h.cores, h.spills, h.clusterOff,
  h.arbLast, h.channels, h.derated, h.holds, h.hostReads, h.partitions, h.funcs, h.queues, h.imsic, h.aplic, h.ports, h.flows,
  h.colls, h.videos, h.link, h.linkReplays, h.etherType, h.telemetry, h.portOut⟩

@[simp] theorem cohWrite_frame (s : State) (a : Nat) (bs : List Byte) :
    (cohWrite s a bs).pending = s.pending ∧ (cohWrite s a bs).big = s.big ∧ (cohWrite s a bs).pins = s.pins ∧
    (cohWrite s a bs).life = s.life ∧ (cohWrite s a bs).flash = s.flash ∧ (cohWrite s a bs).sec = s.sec ∧
    (cohWrite s a bs).power = s.power ∧ (cohWrite s a bs).dies = s.dies ∧ (cohWrite s a bs).hours = s.hours ∧
    (cohWrite s a bs).domains = s.domains ∧ (cohWrite s a bs).fault = s.fault ∧ (cohWrite s a bs).cores = s.cores ∧
    (cohWrite s a bs).spills = s.spills ∧ (cohWrite s a bs).clusterOff = s.clusterOff ∧ (cohWrite s a bs).arbLast = s.arbLast ∧
    (cohWrite s a bs).channels = s.channels ∧ (cohWrite s a bs).derated = s.derated ∧ (cohWrite s a bs).holds = s.holds ∧
    (cohWrite s a bs).hostReads = s.hostReads ∧ (cohWrite s a bs).partitions = s.partitions ∧ (cohWrite s a bs).funcs = s.funcs ∧
    (cohWrite s a bs).queues = s.queues ∧ (cohWrite s a bs).imsic = s.imsic ∧ (cohWrite s a bs).aplic = s.aplic ∧
    (cohWrite s a bs).ports = s.ports ∧ (cohWrite s a bs).flows = s.flows ∧ (cohWrite s a bs).colls = s.colls ∧
    (cohWrite s a bs).videos = s.videos ∧ (cohWrite s a bs).link = s.link ∧ (cohWrite s a bs).linkReplays = s.linkReplays ∧
    (cohWrite s a bs).etherType = s.etherType ∧ (cohWrite s a bs).telemetry = s.telemetry ∧ (cohWrite s a bs).portOut = s.portOut :=
  have h := cohWrite_memOnly s a bs
  ⟨h.pending, h.big, h.pins, h.life, h.flash, h.sec, h.power, h.dies, h.hours, h.domains, h.fault, h.cores, h.spills, h.clusterOff,
  h.arbLast, h.channels, h.derated, h.holds, h.hostReads, h.partitions, h.funcs, h.queues, h.imsic, h.aplic, h.ports, h.flows,
  h.colls, h.videos, h.link, h.linkReplays, h.etherType, h.telemetry, h.portOut⟩

@[simp] theorem poisonLine_frame (s : State) (a : Nat) :
    (poisonLine s a).pending = s.pending ∧ (poisonLine s a).big = s.big ∧ (poisonLine s a).pins = s.pins ∧
    (poisonLine s a).life = s.life ∧ (poisonLine s a).flash = s.flash ∧ (poisonLine s a).sec = s.sec ∧
    (poisonLine s a).power = s.power ∧ (poisonLine s a).dies = s.dies ∧ (poisonLine s a).hours = s.hours ∧
    (poisonLine s a).domains = s.domains ∧ (poisonLine s a).fault = s.fault ∧ (poisonLine s a).cores = s.cores ∧
    (poisonLine s a).spills = s.spills ∧ (poisonLine s a).clusterOff = s.clusterOff ∧ (poisonLine s a).arbLast = s.arbLast ∧
    (poisonLine s a).channels = s.channels ∧ (poisonLine s a).derated = s.derated ∧ (poisonLine s a).holds = s.holds ∧
    (poisonLine s a).hostReads = s.hostReads ∧ (poisonLine s a).partitions = s.partitions ∧ (poisonLine s a).funcs = s.funcs ∧
    (poisonLine s a).queues = s.queues ∧ (poisonLine s a).imsic = s.imsic ∧ (poisonLine s a).aplic = s.aplic ∧
    (poisonLine s a).ports = s.ports ∧ (poisonLine s a).flows = s.flows ∧ (poisonLine s a).colls = s.colls ∧
    (poisonLine s a).videos = s.videos ∧ (poisonLine s a).link = s.link ∧ (poisonLine s a).linkReplays = s.linkReplays ∧
    (poisonLine s a).etherType = s.etherType ∧ (poisonLine s a).telemetry = s.telemetry ∧ (poisonLine s a).portOut = s.portOut :=
  have h := poisonLine_memOnly s a
  ⟨h.pending, h.big, h.pins, h.life, h.flash, h.sec, h.power, h.dies, h.hours, h.domains, h.fault, h.cores, h.spills, h.clusterOff,
  h.arbLast, h.channels, h.derated, h.holds, h.hostReads, h.partitions, h.funcs, h.queues, h.imsic, h.aplic, h.ports, h.flows,
  h.colls, h.videos, h.link, h.linkReplays, h.etherType, h.telemetry, h.portOut⟩

@[simp] theorem moduleWrite_frame (s : State) (a : Nat) (bs : List Byte) :
    (moduleWrite s a bs).pending = s.pending ∧ (moduleWrite s a bs).big = s.big ∧ (moduleWrite s a bs).pins = s.pins ∧
    (moduleWrite s a bs).life = s.life ∧ (moduleWrite s a bs).flash = s.flash ∧ (moduleWrite s a bs).sec = s.sec ∧
    (moduleWrite s a bs).power = s.power ∧ (moduleWrite s a bs).dies = s.dies ∧ (moduleWrite s a bs).hours = s.hours ∧
    (moduleWrite s a bs).domains = s.domains ∧ (moduleWrite s a bs).fault = s.fault ∧ (moduleWrite s a bs).cores = s.cores ∧
    (moduleWrite s a bs).spills = s.spills ∧ (moduleWrite s a bs).clusterOff = s.clusterOff ∧
    (moduleWrite s a bs).arbLast = s.arbLast ∧ (moduleWrite s a bs).channels = s.channels ∧ (moduleWrite s a bs).derated = s.derated ∧
    (moduleWrite s a bs).holds = s.holds ∧ (moduleWrite s a bs).hostReads = s.hostReads ∧
    (moduleWrite s a bs).partitions = s.partitions ∧ (moduleWrite s a bs).funcs = s.funcs ∧ (moduleWrite s a bs).queues = s.queues ∧
    (moduleWrite s a bs).imsic = s.imsic ∧ (moduleWrite s a bs).aplic = s.aplic ∧ (moduleWrite s a bs).ports = s.ports ∧
    (moduleWrite s a bs).flows = s.flows ∧ (moduleWrite s a bs).colls = s.colls ∧ (moduleWrite s a bs).videos = s.videos ∧
    (moduleWrite s a bs).link = s.link ∧ (moduleWrite s a bs).linkReplays = s.linkReplays ∧
    (moduleWrite s a bs).etherType = s.etherType ∧ (moduleWrite s a bs).telemetry = s.telemetry ∧
    (moduleWrite s a bs).portOut = s.portOut :=
  have h := moduleWrite_memOnly s a bs
  ⟨h.pending, h.big, h.pins, h.life, h.flash, h.sec, h.power, h.dies, h.hours, h.domains, h.fault, h.cores, h.spills, h.clusterOff,
  h.arbLast, h.channels, h.derated, h.holds, h.hostReads, h.partitions, h.funcs, h.queues, h.imsic, h.aplic, h.ports, h.flows,
  h.colls, h.videos, h.link, h.linkReplays, h.etherType, h.telemetry, h.portOut⟩

theorem ringWrite_memOnly (s : State) (r : Ring) (ty : Nat) (body : List Byte) : MemOnly s (ringWrite s r ty body).1 := by
  by_cases h : r.off + (pad64 (zeros 16 ++ body)).length ≤ r.size <;> simp only [ringWrite, h, if_true, if_false]
  · exact moduleWrite_memOnly _ _ _
  · exact (moduleWrite_memOnly _ _ _).trans (moduleWrite_memOnly _ _ _)

end Sys2Proof.Machine
end

