-- ==== Sys2Proof/Laws/Frames.lean ====
section
/-! SUPPORT. What the end of a command and the transport leave of the state as it was. -/

namespace Sys2Proof.Machine

/-- The state t differs from s at most in what the end of a command reaches: memory, its queue, its cores, its holds, its partition, messages
and telemetry. -/
structure EndOnly (s t : State) : Prop where
  pending : t.pending = s.pending
  big : t.big = s.big
  pins : t.pins = s.pins
  life : t.life = s.life
  flash : t.flash = s.flash
  sec : t.sec = s.sec
  power : t.power = s.power
  dies : t.dies = s.dies
  hours : t.hours = s.hours
  domains : t.domains = s.domains
  fault : t.fault = s.fault
  spills : t.spills = s.spills
  clusterOff : t.clusterOff = s.clusterOff
  arbLast : t.arbLast = s.arbLast
  channels : t.channels = s.channels
  derated : t.derated = s.derated
  aplic : t.aplic = s.aplic
  ports : t.ports = s.ports
  flows : t.flows = s.flows
  colls : t.colls = s.colls
  videos : t.videos = s.videos
  link : t.link = s.link
  linkReplays : t.linkReplays = s.linkReplays
  etherType : t.etherType = s.etherType
  portOut : t.portOut = s.portOut

theorem EndOnly.refl (s : State) : EndOnly s s := by constructor <;> rfl

theorem EndOnly.trans {s t u : State} (a : EndOnly s t) (b : EndOnly t u) : EndOnly s u :=
  ⟨b.pending.trans a.pending, b.big.trans a.big, b.pins.trans a.pins, b.life.trans a.life, b.flash.trans a.flash, b.sec.trans a.sec,
  b.power.trans a.power, b.dies.trans a.dies, b.hours.trans a.hours, b.domains.trans a.domains, b.fault.trans a.fault,
  b.spills.trans a.spills, b.clusterOff.trans a.clusterOff, b.arbLast.trans a.arbLast, b.channels.trans a.channels,
  b.derated.trans a.derated, b.aplic.trans a.aplic, b.ports.trans a.ports, b.flows.trans a.flows, b.colls.trans a.colls,
  b.videos.trans a.videos, b.link.trans a.link, b.linkReplays.trans a.linkReplays, b.etherType.trans a.etherType,
  b.portOut.trans a.portOut⟩

theorem EndOnly.foldl {α : Type} {f : State → α → State} (h : ∀ t x, EndOnly t (f t x)) (l : List α) (s : State) : EndOnly s (l.foldl f s) := by
  induction l generalizing s with
  | nil => exact .refl s
  | cons x l ih => exact (h s x).trans (ih _)

theorem MemOnly.end {s t : State} (h : MemOnly s t) : EndOnly s t := by constructor <;> simp [h.pending, h.big, h.pins, h.life, h.flash, h.sec, h.power, h.dies, h.hours, h.domains, h.fault, h.spills, h.clusterOff, h.arbLast, h.channels, h.derated, h.aplic, h.ports, h.flows, h.colls, h.videos, h.link, h.linkReplays, h.etherType, h.portOut]

theorem modPart_endOnly (s : State) (p : Nat) (f : Partition → Partition) : EndOnly s (modPart s p f) := by constructor <;> simp

theorem modJob_endOnly (s : State) (p : Nat) (f : Job → Job) : EndOnly s (modJob s p f) := by constructor <;> simp

theorem modFunc_endOnly (s : State) (fn : Nat) (f : Func → Func) : EndOnly s (modFunc s fn f) := by constructor <;> simp

theorem modQueue_endOnly (s : State) (q : Nat) (f : Queue → Queue) : EndOnly s (modQueue s q f) := by constructor <;> simp

theorem modCore_endOnly (s : State) (c : Nat) (f : Core → Core) : EndOnly s (modCore s c f) := by constructor <;> simp

theorem sendMsi_endOnly (s : State) (hart file ident : Nat) : EndOnly s (sendMsi s hart file ident) := by constructor <;> simp

theorem sendMsix_endOnly (s : State) (fn entry : Nat) : EndOnly s (sendMsix s fn entry) := by constructor <;> simp

theorem telemetryPf0_endOnly (s : State) (ty : Nat) (body : List Byte) : EndOnly s (telemetryPf0 s ty body) := by
  unfold telemetryPf0; split
  · exact .refl s
  · exact EndOnly.trans (ringWrite_memOnly s _ ty body).end (by constructor <;> rfl)

theorem telemetryQueue_endOnly (s : State) (q ty : Nat) (body : List Byte) : EndOnly s (telemetryQueue s q ty body) := by
  unfold telemetryQueue; split
  · exact .refl s
  · exact EndOnly.trans (ringWrite_memOnly s _ ty body).end (modQueue_endOnly _ _ _)

theorem journalWrite_endOnly (s : State) (p ty : Nat) (body : List Byte) : EndOnly s (journalWrite s p ty body) := by
  unfold journalWrite; split
  · exact .refl s
  dsimp only; split
  · exact .refl s
  refine EndOnly.trans ?_ (modPart_endOnly _ _ _)
  refine EndOnly.trans ?_ (moduleWrite_memOnly _ _ _).end
  split
  · exact (moduleWrite_memOnly _ _ _).end
  · exact EndOnly.trans (moduleWrite_memOnly _ _ _).end (moduleWrite_memOnly _ _ _).end

theorem journalOutcome_endOnly (s : State) (p sub : Nat) (fields : List Byte) : EndOnly s (journalOutcome s p sub fields) :=
  journalWrite_endOnly _ _ _ _

theorem writeCompletion_endOnly (s : State) (q pos status result flags seq rccModule rccIndex rccTarget : Nat) : EndOnly s (writeCompletion s q pos status result flags seq rccModule rccIndex rccTarget) := by
  unfold writeCompletion; split
  · exact .refl s
  split
  · exact .refl s
  dsimp only
  split
  · exact EndOnly.trans (EndOnly.trans (moduleWrite_memOnly _ _ _).end (modQueue_endOnly _ _ _)) (sendMsi_endOnly _ _ _ _)
  split
  · exact EndOnly.trans (moduleWrite_memOnly _ _ _).end (modQueue_endOnly _ _ _)
  · exact EndOnly.trans (EndOnly.trans (moduleWrite_memOnly _ _ _).end (modQueue_endOnly _ _ _)) (sendMsix_endOnly _ _ _)

theorem modCmd_endOnly (s : State) (q pos : Nat) (f : Cmd → Cmd) : EndOnly s (modCmd s q pos f) :=
  modQueue_endOnly _ _ _

theorem killCore_endOnly (s : State) (k : Nat) : EndOnly s (killCore s k) :=
  modCore_endOnly _ _ _

theorem dropHolds_endOnly (s : State) (q pos : Nat) : EndOnly s (dropHolds s q pos) := by constructor <;> rfl

theorem account_endOnly (s0 : State) (q : Nat) (c : Cmd) (committed : Bool) : EndOnly s0 (account s0 q c committed) := by
  unfold account drawFree
  exact EndOnly.trans (t := { s0 with free := s0.free + 1 }) (by constructor <;> rfl) (modQueue_endOnly _ _ _)

theorem removeCmd_endOnly (s : State) (q pos : Nat) : EndOnly s (removeCmd s q pos) :=
  modQueue_endOnly _ _ _

theorem dropCommitRun_endOnly (s : State) (p q pos : Nat) : EndOnly s (dropCommitRun s p q pos) :=
  modJob_endOnly _ _ _

theorem endCmdWith_endOnly (s : State) (q pos status result : Nat) : EndOnly s (endCmdWith s q pos status result) := by
  unfold endCmdWith; split
  · exact EndOnly.trans (EndOnly.trans (EndOnly.trans (EndOnly.foldl killCore_endOnly _ _) (dropHolds_endOnly _ _ _)) (dropCommitRun_endOnly _ _ _ _))
      (EndOnly.trans (account_endOnly _ _ _ _) (EndOnly.trans (removeCmd_endOnly _ _ _) (writeCompletion_endOnly _ _ _ _ _ _ _ _ _ _)))
  · exact .refl s

theorem endCmd_endOnly (s : State) (q pos status : Nat) : EndOnly s (endCmd s q pos status) :=
  endCmdWith_endOnly _ _ _ _ _

theorem finishCmd_endOnly (s : State) (q pos status result : Nat) : EndOnly s (finishCmd s q pos status result) :=
  modCmd_endOnly _ _ _ _

theorem endCmds_endOnly (s : State) (l : List (Nat × Nat)) (status : Nat) : EndOnly s (endCmds s l status) :=
  EndOnly.foldl (fun t (e : Nat × Nat) => endCmd_endOnly t e.1 e.2 status) l s

@[simp] theorem telemetryPf0_frame (s : State) (ty : Nat) (body : List Byte) :
    (telemetryPf0 s ty body).pending = s.pending ∧ (telemetryPf0 s ty body).big = s.big ∧ (telemetryPf0 s ty body).pins = s.pins ∧
    (telemetryPf0 s ty body).life = s.life ∧ (telemetryPf0 s ty body).flash = s.flash ∧ (telemetryPf0 s ty body).sec = s.sec ∧
    (telemetryPf0 s ty body).power = s.power ∧ (telemetryPf0 s ty body).dies = s.dies ∧ (telemetryPf0 s ty body).hours = s.hours ∧
    (telemetryPf0 s ty body).domains = s.domains ∧ (telemetryPf0 s ty body).fault = s.fault ∧
    (telemetryPf0 s ty body).spills = s.spills ∧ (telemetryPf0 s ty body).clusterOff = s.clusterOff ∧
    (telemetryPf0 s ty body).arbLast = s.arbLast ∧ (telemetryPf0 s ty body).channels = s.channels ∧
    (telemetryPf0 s ty body).derated = s.derated ∧ (telemetryPf0 s ty body).aplic = s.aplic ∧
    (telemetryPf0 s ty body).ports = s.ports ∧ (telemetryPf0 s ty body).flows = s.flows ∧ (telemetryPf0 s ty body).colls = s.colls ∧
    (telemetryPf0 s ty body).videos = s.videos ∧ (telemetryPf0 s ty body).link = s.link ∧
    (telemetryPf0 s ty body).linkReplays = s.linkReplays ∧ (telemetryPf0 s ty body).etherType = s.etherType ∧
    (telemetryPf0 s ty body).portOut = s.portOut :=
  have h := telemetryPf0_endOnly s ty body
  ⟨h.pending, h.big, h.pins, h.life, h.flash, h.sec, h.power, h.dies, h.hours, h.domains, h.fault, h.spills, h.clusterOff, h.arbLast,
  h.channels, h.derated, h.aplic, h.ports, h.flows, h.colls, h.videos, h.link, h.linkReplays, h.etherType, h.portOut⟩

@[simp] theorem telemetryQueue_frame (s : State) (q ty : Nat) (body : List Byte) :
    (telemetryQueue s q ty body).pending = s.pending ∧ (telemetryQueue s q ty body).big = s.big ∧
    (telemetryQueue s q ty body).pins = s.pins ∧ (telemetryQueue s q ty body).life = s.life ∧
    (telemetryQueue s q ty body).flash = s.flash ∧ (telemetryQueue s q ty body).sec = s.sec ∧
    (telemetryQueue s q ty body).power = s.power ∧ (telemetryQueue s q ty body).dies = s.dies ∧
    (telemetryQueue s q ty body).hours = s.hours ∧ (telemetryQueue s q ty body).domains = s.domains ∧
    (telemetryQueue s q ty body).fault = s.fault ∧ (telemetryQueue s q ty body).spills = s.spills ∧
    (telemetryQueue s q ty body).clusterOff = s.clusterOff ∧ (telemetryQueue s q ty body).arbLast = s.arbLast ∧
    (telemetryQueue s q ty body).channels = s.channels ∧ (telemetryQueue s q ty body).derated = s.derated ∧
    (telemetryQueue s q ty body).aplic = s.aplic ∧ (telemetryQueue s q ty body).ports = s.ports ∧
    (telemetryQueue s q ty body).flows = s.flows ∧ (telemetryQueue s q ty body).colls = s.colls ∧
    (telemetryQueue s q ty body).videos = s.videos ∧ (telemetryQueue s q ty body).link = s.link ∧
    (telemetryQueue s q ty body).linkReplays = s.linkReplays ∧ (telemetryQueue s q ty body).etherType = s.etherType ∧
    (telemetryQueue s q ty body).portOut = s.portOut :=
  have h := telemetryQueue_endOnly s q ty body
  ⟨h.pending, h.big, h.pins, h.life, h.flash, h.sec, h.power, h.dies, h.hours, h.domains, h.fault, h.spills, h.clusterOff, h.arbLast,
  h.channels, h.derated, h.aplic, h.ports, h.flows, h.colls, h.videos, h.link, h.linkReplays, h.etherType, h.portOut⟩

@[simp] theorem journalWrite_frame (s : State) (p ty : Nat) (body : List Byte) :
    (journalWrite s p ty body).pending = s.pending ∧ (journalWrite s p ty body).big = s.big ∧
    (journalWrite s p ty body).pins = s.pins ∧ (journalWrite s p ty body).life = s.life ∧ (journalWrite s p ty body).flash = s.flash ∧
    (journalWrite s p ty body).sec = s.sec ∧ (journalWrite s p ty body).power = s.power ∧ (journalWrite s p ty body).dies = s.dies ∧
    (journalWrite s p ty body).hours = s.hours ∧ (journalWrite s p ty body).domains = s.domains ∧
    (journalWrite s p ty body).fault = s.fault ∧ (journalWrite s p ty body).spills = s.spills ∧
    (journalWrite s p ty body).clusterOff = s.clusterOff ∧ (journalWrite s p ty body).arbLast = s.arbLast ∧
    (journalWrite s p ty body).channels = s.channels ∧ (journalWrite s p ty body).derated = s.derated ∧
    (journalWrite s p ty body).aplic = s.aplic ∧ (journalWrite s p ty body).ports = s.ports ∧
    (journalWrite s p ty body).flows = s.flows ∧ (journalWrite s p ty body).colls = s.colls ∧
    (journalWrite s p ty body).videos = s.videos ∧ (journalWrite s p ty body).link = s.link ∧
    (journalWrite s p ty body).linkReplays = s.linkReplays ∧ (journalWrite s p ty body).etherType = s.etherType ∧
    (journalWrite s p ty body).portOut = s.portOut :=
  have h := journalWrite_endOnly s p ty body
  ⟨h.pending, h.big, h.pins, h.life, h.flash, h.sec, h.power, h.dies, h.hours, h.domains, h.fault, h.spills, h.clusterOff, h.arbLast,
  h.channels, h.derated, h.aplic, h.ports, h.flows, h.colls, h.videos, h.link, h.linkReplays, h.etherType, h.portOut⟩

@[simp] theorem journalOutcome_frame (s : State) (p sub : Nat) (fields : List Byte) :
    (journalOutcome s p sub fields).pending = s.pending ∧ (journalOutcome s p sub fields).big = s.big ∧
    (journalOutcome s p sub fields).pins = s.pins ∧ (journalOutcome s p sub fields).life = s.life ∧
    (journalOutcome s p sub fields).flash = s.flash ∧ (journalOutcome s p sub fields).sec = s.sec ∧
    (journalOutcome s p sub fields).power = s.power ∧ (journalOutcome s p sub fields).dies = s.dies ∧
    (journalOutcome s p sub fields).hours = s.hours ∧ (journalOutcome s p sub fields).domains = s.domains ∧
    (journalOutcome s p sub fields).fault = s.fault ∧ (journalOutcome s p sub fields).spills = s.spills ∧
    (journalOutcome s p sub fields).clusterOff = s.clusterOff ∧ (journalOutcome s p sub fields).arbLast = s.arbLast ∧
    (journalOutcome s p sub fields).channels = s.channels ∧ (journalOutcome s p sub fields).derated = s.derated ∧
    (journalOutcome s p sub fields).aplic = s.aplic ∧ (journalOutcome s p sub fields).ports = s.ports ∧
    (journalOutcome s p sub fields).flows = s.flows ∧ (journalOutcome s p sub fields).colls = s.colls ∧
    (journalOutcome s p sub fields).videos = s.videos ∧ (journalOutcome s p sub fields).link = s.link ∧
    (journalOutcome s p sub fields).linkReplays = s.linkReplays ∧ (journalOutcome s p sub fields).etherType = s.etherType ∧
    (journalOutcome s p sub fields).portOut = s.portOut :=
  have h := journalOutcome_endOnly s p sub fields
  ⟨h.pending, h.big, h.pins, h.life, h.flash, h.sec, h.power, h.dies, h.hours, h.domains, h.fault, h.spills, h.clusterOff, h.arbLast,
  h.channels, h.derated, h.aplic, h.ports, h.flows, h.colls, h.videos, h.link, h.linkReplays, h.etherType, h.portOut⟩

@[simp] theorem writeCompletion_frame (s : State) (q pos status result flags seq rccModule rccIndex rccTarget : Nat) :
    (writeCompletion s q pos status result flags seq rccModule rccIndex rccTarget).pending = s.pending ∧
    (writeCompletion s q pos status result flags seq rccModule rccIndex rccTarget).big = s.big ∧
    (writeCompletion s q pos status result flags seq rccModule rccIndex rccTarget).pins = s.pins ∧
    (writeCompletion s q pos status result flags seq rccModule rccIndex rccTarget).life = s.life ∧
    (writeCompletion s q pos status result flags seq rccModule rccIndex rccTarget).flash = s.flash ∧
    (writeCompletion s q pos status result flags seq rccModule rccIndex rccTarget).sec = s.sec ∧
    (writeCompletion s q pos status result flags seq rccModule rccIndex rccTarget).power = s.power ∧
    (writeCompletion s q pos status result flags seq rccModule rccIndex rccTarget).dies = s.dies ∧
    (writeCompletion s q pos status result flags seq rccModule rccIndex rccTarget).hours = s.hours ∧
    (writeCompletion s q pos status result flags seq rccModule rccIndex rccTarget).domains = s.domains ∧
    (writeCompletion s q pos status result flags seq rccModule rccIndex rccTarget).fault = s.fault ∧
    (writeCompletion s q pos status result flags seq rccModule rccIndex rccTarget).spills = s.spills ∧
    (writeCompletion s q pos status result flags seq rccModule rccIndex rccTarget).clusterOff = s.clusterOff ∧
    (writeCompletion s q pos status result flags seq rccModule rccIndex rccTarget).arbLast = s.arbLast ∧
    (writeCompletion s q pos status result flags seq rccModule rccIndex rccTarget).channels = s.channels ∧
    (writeCompletion s q pos status result flags seq rccModule rccIndex rccTarget).derated = s.derated ∧
    (writeCompletion s q pos status result flags seq rccModule rccIndex rccTarget).aplic = s.aplic ∧
    (writeCompletion s q pos status result flags seq rccModule rccIndex rccTarget).ports = s.ports ∧
    (writeCompletion s q pos status result flags seq rccModule rccIndex rccTarget).flows = s.flows ∧
    (writeCompletion s q pos status result flags seq rccModule rccIndex rccTarget).colls = s.colls ∧
    (writeCompletion s q pos status result flags seq rccModule rccIndex rccTarget).videos = s.videos ∧
    (writeCompletion s q pos status result flags seq rccModule rccIndex rccTarget).link = s.link ∧
    (writeCompletion s q pos status result flags seq rccModule rccIndex rccTarget).linkReplays = s.linkReplays ∧
    (writeCompletion s q pos status result flags seq rccModule rccIndex rccTarget).etherType = s.etherType ∧
    (writeCompletion s q pos status result flags seq rccModule rccIndex rccTarget).portOut = s.portOut :=
  have h := writeCompletion_endOnly s q pos status result flags seq rccModule rccIndex rccTarget
  ⟨h.pending, h.big, h.pins, h.life, h.flash, h.sec, h.power, h.dies, h.hours, h.domains, h.fault, h.spills, h.clusterOff, h.arbLast,
  h.channels, h.derated, h.aplic, h.ports, h.flows, h.colls, h.videos, h.link, h.linkReplays, h.etherType, h.portOut⟩

@[simp] theorem killCore_frame (s : State) (k : Nat) :
    (killCore s k).pending = s.pending ∧ (killCore s k).big = s.big ∧ (killCore s k).pins = s.pins ∧ (killCore s k).life = s.life ∧
    (killCore s k).flash = s.flash ∧ (killCore s k).sec = s.sec ∧ (killCore s k).power = s.power ∧ (killCore s k).dies = s.dies ∧
    (killCore s k).hours = s.hours ∧ (killCore s k).domains = s.domains ∧ (killCore s k).fault = s.fault ∧
    (killCore s k).spills = s.spills ∧ (killCore s k).clusterOff = s.clusterOff ∧ (killCore s k).arbLast = s.arbLast ∧
    (killCore s k).channels = s.channels ∧ (killCore s k).derated = s.derated ∧ (killCore s k).aplic = s.aplic ∧
    (killCore s k).ports = s.ports ∧ (killCore s k).flows = s.flows ∧ (killCore s k).colls = s.colls ∧
    (killCore s k).videos = s.videos ∧ (killCore s k).link = s.link ∧ (killCore s k).linkReplays = s.linkReplays ∧
    (killCore s k).etherType = s.etherType ∧ (killCore s k).portOut = s.portOut :=
  have h := killCore_endOnly s k
  ⟨h.pending, h.big, h.pins, h.life, h.flash, h.sec, h.power, h.dies, h.hours, h.domains, h.fault, h.spills, h.clusterOff, h.arbLast,
  h.channels, h.derated, h.aplic, h.ports, h.flows, h.colls, h.videos, h.link, h.linkReplays, h.etherType, h.portOut⟩

@[simp] theorem dropHolds_frame (s : State) (q pos : Nat) :
    (dropHolds s q pos).pending = s.pending ∧ (dropHolds s q pos).big = s.big ∧ (dropHolds s q pos).pins = s.pins ∧
    (dropHolds s q pos).life = s.life ∧ (dropHolds s q pos).flash = s.flash ∧ (dropHolds s q pos).sec = s.sec ∧
    (dropHolds s q pos).power = s.power ∧ (dropHolds s q pos).dies = s.dies ∧ (dropHolds s q pos).hours = s.hours ∧
    (dropHolds s q pos).domains = s.domains ∧ (dropHolds s q pos).fault = s.fault ∧ (dropHolds s q pos).spills = s.spills ∧
    (dropHolds s q pos).clusterOff = s.clusterOff ∧ (dropHolds s q pos).arbLast = s.arbLast ∧
    (dropHolds s q pos).channels = s.channels ∧ (dropHolds s q pos).derated = s.derated ∧ (dropHolds s q pos).aplic = s.aplic ∧
    (dropHolds s q pos).ports = s.ports ∧ (dropHolds s q pos).flows = s.flows ∧ (dropHolds s q pos).colls = s.colls ∧
    (dropHolds s q pos).videos = s.videos ∧ (dropHolds s q pos).link = s.link ∧ (dropHolds s q pos).linkReplays = s.linkReplays ∧
    (dropHolds s q pos).etherType = s.etherType ∧ (dropHolds s q pos).portOut = s.portOut :=
  have h := dropHolds_endOnly s q pos
  ⟨h.pending, h.big, h.pins, h.life, h.flash, h.sec, h.power, h.dies, h.hours, h.domains, h.fault, h.spills, h.clusterOff, h.arbLast,
  h.channels, h.derated, h.aplic, h.ports, h.flows, h.colls, h.videos, h.link, h.linkReplays, h.etherType, h.portOut⟩

@[simp] theorem removeCmd_frame (s : State) (q pos : Nat) :
    (removeCmd s q pos).pending = s.pending ∧ (removeCmd s q pos).big = s.big ∧ (removeCmd s q pos).pins = s.pins ∧
    (removeCmd s q pos).life = s.life ∧ (removeCmd s q pos).flash = s.flash ∧ (removeCmd s q pos).sec = s.sec ∧
    (removeCmd s q pos).power = s.power ∧ (removeCmd s q pos).dies = s.dies ∧ (removeCmd s q pos).hours = s.hours ∧
    (removeCmd s q pos).domains = s.domains ∧ (removeCmd s q pos).fault = s.fault ∧ (removeCmd s q pos).spills = s.spills ∧
    (removeCmd s q pos).clusterOff = s.clusterOff ∧ (removeCmd s q pos).arbLast = s.arbLast ∧
    (removeCmd s q pos).channels = s.channels ∧ (removeCmd s q pos).derated = s.derated ∧ (removeCmd s q pos).aplic = s.aplic ∧
    (removeCmd s q pos).ports = s.ports ∧ (removeCmd s q pos).flows = s.flows ∧ (removeCmd s q pos).colls = s.colls ∧
    (removeCmd s q pos).videos = s.videos ∧ (removeCmd s q pos).link = s.link ∧ (removeCmd s q pos).linkReplays = s.linkReplays ∧
    (removeCmd s q pos).etherType = s.etherType ∧ (removeCmd s q pos).portOut = s.portOut :=
  have h := removeCmd_endOnly s q pos
  ⟨h.pending, h.big, h.pins, h.life, h.flash, h.sec, h.power, h.dies, h.hours, h.domains, h.fault, h.spills, h.clusterOff, h.arbLast,
  h.channels, h.derated, h.aplic, h.ports, h.flows, h.colls, h.videos, h.link, h.linkReplays, h.etherType, h.portOut⟩

@[simp] theorem endCmd_frame (s : State) (q pos status : Nat) :
    (endCmd s q pos status).pending = s.pending ∧ (endCmd s q pos status).big = s.big ∧ (endCmd s q pos status).pins = s.pins ∧
    (endCmd s q pos status).life = s.life ∧ (endCmd s q pos status).flash = s.flash ∧ (endCmd s q pos status).sec = s.sec ∧
    (endCmd s q pos status).power = s.power ∧ (endCmd s q pos status).dies = s.dies ∧ (endCmd s q pos status).hours = s.hours ∧
    (endCmd s q pos status).domains = s.domains ∧ (endCmd s q pos status).fault = s.fault ∧
    (endCmd s q pos status).spills = s.spills ∧ (endCmd s q pos status).clusterOff = s.clusterOff ∧
    (endCmd s q pos status).arbLast = s.arbLast ∧ (endCmd s q pos status).channels = s.channels ∧
    (endCmd s q pos status).derated = s.derated ∧ (endCmd s q pos status).aplic = s.aplic ∧ (endCmd s q pos status).ports = s.ports ∧
    (endCmd s q pos status).flows = s.flows ∧ (endCmd s q pos status).colls = s.colls ∧ (endCmd s q pos status).videos = s.videos ∧
    (endCmd s q pos status).link = s.link ∧ (endCmd s q pos status).linkReplays = s.linkReplays ∧
    (endCmd s q pos status).etherType = s.etherType ∧ (endCmd s q pos status).portOut = s.portOut :=
  have h := endCmd_endOnly s q pos status
  ⟨h.pending, h.big, h.pins, h.life, h.flash, h.sec, h.power, h.dies, h.hours, h.domains, h.fault, h.spills, h.clusterOff, h.arbLast,
  h.channels, h.derated, h.aplic, h.ports, h.flows, h.colls, h.videos, h.link, h.linkReplays, h.etherType, h.portOut⟩

@[simp] theorem endCmds_frame (s : State) (l : List (Nat × Nat)) (status : Nat) :
    (endCmds s l status).pending = s.pending ∧ (endCmds s l status).big = s.big ∧ (endCmds s l status).pins = s.pins ∧
    (endCmds s l status).life = s.life ∧ (endCmds s l status).flash = s.flash ∧ (endCmds s l status).sec = s.sec ∧
    (endCmds s l status).power = s.power ∧ (endCmds s l status).dies = s.dies ∧ (endCmds s l status).hours = s.hours ∧
    (endCmds s l status).domains = s.domains ∧ (endCmds s l status).fault = s.fault ∧ (endCmds s l status).spills = s.spills ∧
    (endCmds s l status).clusterOff = s.clusterOff ∧ (endCmds s l status).arbLast = s.arbLast ∧
    (endCmds s l status).channels = s.channels ∧ (endCmds s l status).derated = s.derated ∧ (endCmds s l status).aplic = s.aplic ∧
    (endCmds s l status).ports = s.ports ∧ (endCmds s l status).flows = s.flows ∧ (endCmds s l status).colls = s.colls ∧
    (endCmds s l status).videos = s.videos ∧ (endCmds s l status).link = s.link ∧ (endCmds s l status).linkReplays = s.linkReplays ∧
    (endCmds s l status).etherType = s.etherType ∧ (endCmds s l status).portOut = s.portOut :=
  have h := endCmds_endOnly s l status
  ⟨h.pending, h.big, h.pins, h.life, h.flash, h.sec, h.power, h.dies, h.hours, h.domains, h.fault, h.spills, h.clusterOff, h.arbLast,
  h.channels, h.derated, h.aplic, h.ports, h.flows, h.colls, h.videos, h.link, h.linkReplays, h.etherType, h.portOut⟩

/-- The state t differs from s at most in what the transport reaches: ports, frames sent, flows, collective counters. -/
structure PortOnly (s t : State) : Prop where
  pending : t.pending = s.pending
  big : t.big = s.big
  pins : t.pins = s.pins
  life : t.life = s.life
  flash : t.flash = s.flash
  sec : t.sec = s.sec
  power : t.power = s.power
  dies : t.dies = s.dies
  hours : t.hours = s.hours
  domains : t.domains = s.domains
  fault : t.fault = s.fault
  mem : t.mem = s.mem
  hostMem : t.hostMem = s.hostMem
  poison : t.poison = s.poison
  cores : t.cores = s.cores
  spills : t.spills = s.spills
  clusterOff : t.clusterOff = s.clusterOff
  arbLast : t.arbLast = s.arbLast
  channels : t.channels = s.channels
  derated : t.derated = s.derated
  caches : t.caches = s.caches
  homes : t.homes = s.homes
  holds : t.holds = s.holds
  hostReads : t.hostReads = s.hostReads
  partitions : t.partitions = s.partitions
  funcs : t.funcs = s.funcs
  queues : t.queues = s.queues
  harts : t.harts = s.harts
  imsic : t.imsic = s.imsic
  aplic : t.aplic = s.aplic
  videos : t.videos = s.videos
  link : t.link = s.link
  linkReplays : t.linkReplays = s.linkReplays
  etherType : t.etherType = s.etherType
  telemetry : t.telemetry = s.telemetry
  hostOut : t.hostOut = s.hostOut
  free : t.free = s.free

theorem PortOnly.refl (s : State) : PortOnly s s := by constructor <;> rfl

theorem PortOnly.trans {s t u : State} (a : PortOnly s t) (b : PortOnly t u) : PortOnly s u :=
  ⟨b.pending.trans a.pending, b.big.trans a.big, b.pins.trans a.pins, b.life.trans a.life, b.flash.trans a.flash, b.sec.trans a.sec,
  b.power.trans a.power, b.dies.trans a.dies, b.hours.trans a.hours, b.domains.trans a.domains, b.fault.trans a.fault,
  b.mem.trans a.mem, b.hostMem.trans a.hostMem, b.poison.trans a.poison, b.cores.trans a.cores, b.spills.trans a.spills,
  b.clusterOff.trans a.clusterOff, b.arbLast.trans a.arbLast, b.channels.trans a.channels, b.derated.trans a.derated,
  b.caches.trans a.caches, b.homes.trans a.homes, b.holds.trans a.holds, b.hostReads.trans a.hostReads,
  b.partitions.trans a.partitions, b.funcs.trans a.funcs, b.queues.trans a.queues, b.harts.trans a.harts, b.imsic.trans a.imsic,
  b.aplic.trans a.aplic, b.videos.trans a.videos, b.link.trans a.link, b.linkReplays.trans a.linkReplays,
  b.etherType.trans a.etherType, b.telemetry.trans a.telemetry, b.hostOut.trans a.hostOut, b.free.trans a.free⟩

theorem PortOnly.foldl {α : Type} {f : State → α → State} (h : ∀ t x, PortOnly t (f t x)) (l : List α) (s : State) : PortOnly s (l.foldl f s) := by
  induction l generalizing s with
  | nil => exact .refl s
  | cons x l ih => exact (h s x).trans (ih _)

theorem modPort_portOnly (s : State) (i : Nat) (f : Port → Port) : PortOnly s (modPort s i f) := by constructor <;> simp

theorem modColl_portOnly (s : State) (i : Nat) (f : CollEngine → CollEngine) : PortOnly s (modColl s i f) := by constructor <;> simp

theorem modFlow_portOnly (s : State) (fid : Nat) (f : Flow → Flow) : PortOnly s (modFlow s fid f) := by constructor <;> simp

theorem emitFrame_portOnly (s : State) (port : Nat) (f : TFrame) : PortOnly s (emitFrame s port f) := by
  unfold emitFrame; split
  · exact .refl s
  dsimp only; split <;> constructor <;> simp

theorem sendControl_portOnly (s : State) (fid type : Nat) : PortOnly s (sendControl s fid type) := by
  unfold sendControl; split
  · exact .refl s
  split
  · exact .refl s
  · exact emitFrame_portOnly _ _ _

theorem sendControlAll_portOnly (s : State) (fid type : Nat) : PortOnly s (sendControlAll s fid type) := by
  unfold sendControlAll; split
  · exact .refl s
  · exact PortOnly.foldl (fun t pl => emitFrame_portOnly _ _ _) _ _

theorem sendAck_portOnly (s : State) (fid : Nat) : PortOnly s (sendAck s fid) :=
  (sendControl_portOnly _ _ _).trans (modFlow_portOnly _ _ _)

theorem pumpFlow_portOnly (n : Nat) (s : State) (a : Nat) : PortOnly s (pumpFlow n s a) := by
  induction n generalizing s with
  | zero => exact .refl s
  | succ n ih =>
    unfold pumpFlow; split
    · exact .refl s
    split
    · split
      · exact .refl s
      split
      · exact .refl s
      · exact ((emitFrame_portOnly _ _ _).trans (modFlow_portOnly _ _ _)).trans (ih _)
    · exact .refl s

theorem pump_portOnly (s : State) (fid : Nat) : PortOnly s (pump s fid) :=
  pumpFlow_portOnly _ _ _

theorem resendPsn_portOnly (s : State) (fid psn : Nat) : PortOnly s (resendPsn s fid psn) := by
  unfold resendPsn; split
  · exact .refl s
  split
  · exact .refl s
  split
  · exact .refl s
  · exact (emitFrame_portOnly _ _ _).trans ((modPort_portOnly _ _ _).trans (modFlow_portOnly _ _ _))

theorem takeAck_portOnly (s : State) (fid : Nat) (x : TFrame) : PortOnly s (takeAck s fid x) := by
  unfold takeAck; split
  · exact .refl s
  dsimp only
  refine PortOnly.trans ?_ (pump_portOnly _ _)
  refine (modFlow_portOnly _ _ _).trans (PortOnly.foldl (fun t y => ?_) _ _)
  exact (resendPsn_portOnly _ _ _).trans (modFlow_portOnly _ _ _)

theorem setPlanes_portOnly (s : State) (fid : Nat) : PortOnly s (setPlanes s fid) := by
  unfold setPlanes; split
  · exact .refl s
  · exact modFlow_portOnly _ _ _

theorem countRx_portOnly (s : State) (port bytes : Nat) : PortOnly s (countRx s port bytes) :=
  modPort_portOnly _ _ _

theorem dropFrame_portOnly (s : State) (port : Nat) : PortOnly s (dropFrame s port) :=
  modPort_portOnly _ _ _

theorem replyFrame_portOnly (s : State) (port type srcFlow : Nat) (x : TFrame) : PortOnly s (replyFrame s port type srcFlow x) :=
  emitFrame_portOnly _ _ _

@[simp] theorem emitFrame_frame (s : State) (port : Nat) (f : TFrame) :
    (emitFrame s port f).pending = s.pending ∧ (emitFrame s port f).big = s.big ∧ (emitFrame s port f).pins = s.pins ∧
    (emitFrame s port f).life = s.life ∧ (emitFrame s port f).flash = s.flash ∧ (emitFrame s port f).sec = s.sec ∧
    (emitFrame s port f).power = s.power ∧ (emitFrame s port f).dies = s.dies ∧ (emitFrame s port f).hours = s.hours ∧
    (emitFrame s port f).domains = s.domains ∧ (emitFrame s port f).fault = s.fault ∧ (emitFrame s port f).mem = s.mem ∧
    (emitFrame s port f).hostMem = s.hostMem ∧ (emitFrame s port f).poison = s.poison ∧ (emitFrame s port f).cores = s.cores ∧
    (emitFrame s port f).spills = s.spills ∧ (emitFrame s port f).clusterOff = s.clusterOff ∧
    (emitFrame s port f).arbLast = s.arbLast ∧ (emitFrame s port f).channels = s.channels ∧ (emitFrame s port f).derated = s.derated ∧
    (emitFrame s port f).caches = s.caches ∧ (emitFrame s port f).homes = s.homes ∧ (emitFrame s port f).holds = s.holds ∧
    (emitFrame s port f).hostReads = s.hostReads ∧ (emitFrame s port f).partitions = s.partitions ∧
    (emitFrame s port f).funcs = s.funcs ∧ (emitFrame s port f).queues = s.queues ∧ (emitFrame s port f).harts = s.harts ∧
    (emitFrame s port f).imsic = s.imsic ∧ (emitFrame s port f).aplic = s.aplic ∧ (emitFrame s port f).videos = s.videos ∧
    (emitFrame s port f).link = s.link ∧ (emitFrame s port f).linkReplays = s.linkReplays ∧
    (emitFrame s port f).etherType = s.etherType ∧ (emitFrame s port f).telemetry = s.telemetry ∧
    (emitFrame s port f).hostOut = s.hostOut ∧ (emitFrame s port f).free = s.free :=
  have h := emitFrame_portOnly s port f
  ⟨h.pending, h.big, h.pins, h.life, h.flash, h.sec, h.power, h.dies, h.hours, h.domains, h.fault, h.mem, h.hostMem, h.poison, h.cores,
  h.spills, h.clusterOff, h.arbLast, h.channels, h.derated, h.caches, h.homes, h.holds, h.hostReads, h.partitions, h.funcs, h.queues,
  h.harts, h.imsic, h.aplic, h.videos, h.link, h.linkReplays, h.etherType, h.telemetry, h.hostOut, h.free⟩

@[simp] theorem sendControl_frame (s : State) (fid type : Nat) :
    (sendControl s fid type).pending = s.pending ∧ (sendControl s fid type).big = s.big ∧ (sendControl s fid type).pins = s.pins ∧
    (sendControl s fid type).life = s.life ∧ (sendControl s fid type).flash = s.flash ∧ (sendControl s fid type).sec = s.sec ∧
    (sendControl s fid type).power = s.power ∧ (sendControl s fid type).dies = s.dies ∧ (sendControl s fid type).hours = s.hours ∧
    (sendControl s fid type).domains = s.domains ∧ (sendControl s fid type).fault = s.fault ∧ (sendControl s fid type).mem = s.mem ∧
    (sendControl s fid type).hostMem = s.hostMem ∧ (sendControl s fid type).poison = s.poison ∧
    (sendControl s fid type).cores = s.cores ∧ (sendControl s fid type).spills = s.spills ∧
    (sendControl s fid type).clusterOff = s.clusterOff ∧ (sendControl s fid type).arbLast = s.arbLast ∧
    (sendControl s fid type).channels = s.channels ∧ (sendControl s fid type).derated = s.derated ∧
    (sendControl s fid type).caches = s.caches ∧ (sendControl s fid type).homes = s.homes ∧ (sendControl s fid type).holds = s.holds ∧
    (sendControl s fid type).hostReads = s.hostReads ∧ (sendControl s fid type).partitions = s.partitions ∧
    (sendControl s fid type).funcs = s.funcs ∧ (sendControl s fid type).queues = s.queues ∧ (sendControl s fid type).harts = s.harts ∧
    (sendControl s fid type).imsic = s.imsic ∧ (sendControl s fid type).aplic = s.aplic ∧ (sendControl s fid type).videos = s.videos ∧
    (sendControl s fid type).link = s.link ∧ (sendControl s fid type).linkReplays = s.linkReplays ∧
    (sendControl s fid type).etherType = s.etherType ∧ (sendControl s fid type).telemetry = s.telemetry ∧
    (sendControl s fid type).hostOut = s.hostOut ∧ (sendControl s fid type).free = s.free :=
  have h := sendControl_portOnly s fid type
  ⟨h.pending, h.big, h.pins, h.life, h.flash, h.sec, h.power, h.dies, h.hours, h.domains, h.fault, h.mem, h.hostMem, h.poison, h.cores,
  h.spills, h.clusterOff, h.arbLast, h.channels, h.derated, h.caches, h.homes, h.holds, h.hostReads, h.partitions, h.funcs, h.queues,
  h.harts, h.imsic, h.aplic, h.videos, h.link, h.linkReplays, h.etherType, h.telemetry, h.hostOut, h.free⟩

@[simp] theorem sendControlAll_frame (s : State) (fid type : Nat) :
    (sendControlAll s fid type).pending = s.pending ∧ (sendControlAll s fid type).big = s.big ∧
    (sendControlAll s fid type).pins = s.pins ∧ (sendControlAll s fid type).life = s.life ∧
    (sendControlAll s fid type).flash = s.flash ∧ (sendControlAll s fid type).sec = s.sec ∧
    (sendControlAll s fid type).power = s.power ∧ (sendControlAll s fid type).dies = s.dies ∧
    (sendControlAll s fid type).hours = s.hours ∧ (sendControlAll s fid type).domains = s.domains ∧
    (sendControlAll s fid type).fault = s.fault ∧ (sendControlAll s fid type).mem = s.mem ∧
    (sendControlAll s fid type).hostMem = s.hostMem ∧ (sendControlAll s fid type).poison = s.poison ∧
    (sendControlAll s fid type).cores = s.cores ∧ (sendControlAll s fid type).spills = s.spills ∧
    (sendControlAll s fid type).clusterOff = s.clusterOff ∧ (sendControlAll s fid type).arbLast = s.arbLast ∧
    (sendControlAll s fid type).channels = s.channels ∧ (sendControlAll s fid type).derated = s.derated ∧
    (sendControlAll s fid type).caches = s.caches ∧ (sendControlAll s fid type).homes = s.homes ∧
    (sendControlAll s fid type).holds = s.holds ∧ (sendControlAll s fid type).hostReads = s.hostReads ∧
    (sendControlAll s fid type).partitions = s.partitions ∧ (sendControlAll s fid type).funcs = s.funcs ∧
    (sendControlAll s fid type).queues = s.queues ∧ (sendControlAll s fid type).harts = s.harts ∧
    (sendControlAll s fid type).imsic = s.imsic ∧ (sendControlAll s fid type).aplic = s.aplic ∧
    (sendControlAll s fid type).videos = s.videos ∧ (sendControlAll s fid type).link = s.link ∧
    (sendControlAll s fid type).linkReplays = s.linkReplays ∧ (sendControlAll s fid type).etherType = s.etherType ∧
    (sendControlAll s fid type).telemetry = s.telemetry ∧ (sendControlAll s fid type).hostOut = s.hostOut ∧
    (sendControlAll s fid type).free = s.free :=
  have h := sendControlAll_portOnly s fid type
  ⟨h.pending, h.big, h.pins, h.life, h.flash, h.sec, h.power, h.dies, h.hours, h.domains, h.fault, h.mem, h.hostMem, h.poison, h.cores,
  h.spills, h.clusterOff, h.arbLast, h.channels, h.derated, h.caches, h.homes, h.holds, h.hostReads, h.partitions, h.funcs, h.queues,
  h.harts, h.imsic, h.aplic, h.videos, h.link, h.linkReplays, h.etherType, h.telemetry, h.hostOut, h.free⟩

@[simp] theorem sendAck_frame (s : State) (fid : Nat) :
    (sendAck s fid).pending = s.pending ∧ (sendAck s fid).big = s.big ∧ (sendAck s fid).pins = s.pins ∧
    (sendAck s fid).life = s.life ∧ (sendAck s fid).flash = s.flash ∧ (sendAck s fid).sec = s.sec ∧ (sendAck s fid).power = s.power ∧
    (sendAck s fid).dies = s.dies ∧ (sendAck s fid).hours = s.hours ∧ (sendAck s fid).domains = s.domains ∧
    (sendAck s fid).fault = s.fault ∧ (sendAck s fid).mem = s.mem ∧ (sendAck s fid).hostMem = s.hostMem ∧
    (sendAck s fid).poison = s.poison ∧ (sendAck s fid).cores = s.cores ∧ (sendAck s fid).spills = s.spills ∧
    (sendAck s fid).clusterOff = s.clusterOff ∧ (sendAck s fid).arbLast = s.arbLast ∧ (sendAck s fid).channels = s.channels ∧
    (sendAck s fid).derated = s.derated ∧ (sendAck s fid).caches = s.caches ∧ (sendAck s fid).homes = s.homes ∧
    (sendAck s fid).holds = s.holds ∧ (sendAck s fid).hostReads = s.hostReads ∧ (sendAck s fid).partitions = s.partitions ∧
    (sendAck s fid).funcs = s.funcs ∧ (sendAck s fid).queues = s.queues ∧ (sendAck s fid).harts = s.harts ∧
    (sendAck s fid).imsic = s.imsic ∧ (sendAck s fid).aplic = s.aplic ∧ (sendAck s fid).videos = s.videos ∧
    (sendAck s fid).link = s.link ∧ (sendAck s fid).linkReplays = s.linkReplays ∧ (sendAck s fid).etherType = s.etherType ∧
    (sendAck s fid).telemetry = s.telemetry ∧ (sendAck s fid).hostOut = s.hostOut ∧ (sendAck s fid).free = s.free :=
  have h := sendAck_portOnly s fid
  ⟨h.pending, h.big, h.pins, h.life, h.flash, h.sec, h.power, h.dies, h.hours, h.domains, h.fault, h.mem, h.hostMem, h.poison, h.cores,
  h.spills, h.clusterOff, h.arbLast, h.channels, h.derated, h.caches, h.homes, h.holds, h.hostReads, h.partitions, h.funcs, h.queues,
  h.harts, h.imsic, h.aplic, h.videos, h.link, h.linkReplays, h.etherType, h.telemetry, h.hostOut, h.free⟩

@[simp] theorem pump_frame (s : State) (fid : Nat) :
    (pump s fid).pending = s.pending ∧ (pump s fid).big = s.big ∧ (pump s fid).pins = s.pins ∧ (pump s fid).life = s.life ∧
    (pump s fid).flash = s.flash ∧ (pump s fid).sec = s.sec ∧ (pump s fid).power = s.power ∧ (pump s fid).dies = s.dies ∧
    (pump s fid).hours = s.hours ∧ (pump s fid).domains = s.domains ∧ (pump s fid).fault = s.fault ∧ (pump s fid).mem = s.mem ∧
    (pump s fid).hostMem = s.hostMem ∧ (pump s fid).poison = s.poison ∧ (pump s fid).cores = s.cores ∧
    (pump s fid).spills = s.spills ∧ (pump s fid).clusterOff = s.clusterOff ∧ (pump s fid).arbLast = s.arbLast ∧
    (pump s fid).channels = s.channels ∧ (pump s fid).derated = s.derated ∧ (pump s fid).caches = s.caches ∧
    (pump s fid).homes = s.homes ∧ (pump s fid).holds = s.holds ∧ (pump s fid).hostReads = s.hostReads ∧
    (pump s fid).partitions = s.partitions ∧ (pump s fid).funcs = s.funcs ∧ (pump s fid).queues = s.queues ∧
    (pump s fid).harts = s.harts ∧ (pump s fid).imsic = s.imsic ∧ (pump s fid).aplic = s.aplic ∧ (pump s fid).videos = s.videos ∧
    (pump s fid).link = s.link ∧ (pump s fid).linkReplays = s.linkReplays ∧ (pump s fid).etherType = s.etherType ∧
    (pump s fid).telemetry = s.telemetry ∧ (pump s fid).hostOut = s.hostOut ∧ (pump s fid).free = s.free :=
  have h := pump_portOnly s fid
  ⟨h.pending, h.big, h.pins, h.life, h.flash, h.sec, h.power, h.dies, h.hours, h.domains, h.fault, h.mem, h.hostMem, h.poison, h.cores,
  h.spills, h.clusterOff, h.arbLast, h.channels, h.derated, h.caches, h.homes, h.holds, h.hostReads, h.partitions, h.funcs, h.queues,
  h.harts, h.imsic, h.aplic, h.videos, h.link, h.linkReplays, h.etherType, h.telemetry, h.hostOut, h.free⟩

@[simp] theorem resendPsn_frame (s : State) (fid psn : Nat) :
    (resendPsn s fid psn).pending = s.pending ∧ (resendPsn s fid psn).big = s.big ∧ (resendPsn s fid psn).pins = s.pins ∧
    (resendPsn s fid psn).life = s.life ∧ (resendPsn s fid psn).flash = s.flash ∧ (resendPsn s fid psn).sec = s.sec ∧
    (resendPsn s fid psn).power = s.power ∧ (resendPsn s fid psn).dies = s.dies ∧ (resendPsn s fid psn).hours = s.hours ∧
    (resendPsn s fid psn).domains = s.domains ∧ (resendPsn s fid psn).fault = s.fault ∧ (resendPsn s fid psn).mem = s.mem ∧
    (resendPsn s fid psn).hostMem = s.hostMem ∧ (resendPsn s fid psn).poison = s.poison ∧ (resendPsn s fid psn).cores = s.cores ∧
    (resendPsn s fid psn).spills = s.spills ∧ (resendPsn s fid psn).clusterOff = s.clusterOff ∧
    (resendPsn s fid psn).arbLast = s.arbLast ∧ (resendPsn s fid psn).channels = s.channels ∧
    (resendPsn s fid psn).derated = s.derated ∧ (resendPsn s fid psn).caches = s.caches ∧ (resendPsn s fid psn).homes = s.homes ∧
    (resendPsn s fid psn).holds = s.holds ∧ (resendPsn s fid psn).hostReads = s.hostReads ∧
    (resendPsn s fid psn).partitions = s.partitions ∧ (resendPsn s fid psn).funcs = s.funcs ∧
    (resendPsn s fid psn).queues = s.queues ∧ (resendPsn s fid psn).harts = s.harts ∧ (resendPsn s fid psn).imsic = s.imsic ∧
    (resendPsn s fid psn).aplic = s.aplic ∧ (resendPsn s fid psn).videos = s.videos ∧ (resendPsn s fid psn).link = s.link ∧
    (resendPsn s fid psn).linkReplays = s.linkReplays ∧ (resendPsn s fid psn).etherType = s.etherType ∧
    (resendPsn s fid psn).telemetry = s.telemetry ∧ (resendPsn s fid psn).hostOut = s.hostOut ∧ (resendPsn s fid psn).free = s.free :=
  have h := resendPsn_portOnly s fid psn
  ⟨h.pending, h.big, h.pins, h.life, h.flash, h.sec, h.power, h.dies, h.hours, h.domains, h.fault, h.mem, h.hostMem, h.poison, h.cores,
  h.spills, h.clusterOff, h.arbLast, h.channels, h.derated, h.caches, h.homes, h.holds, h.hostReads, h.partitions, h.funcs, h.queues,
  h.harts, h.imsic, h.aplic, h.videos, h.link, h.linkReplays, h.etherType, h.telemetry, h.hostOut, h.free⟩

@[simp] theorem takeAck_frame (s : State) (fid : Nat) (x : TFrame) :
    (takeAck s fid x).pending = s.pending ∧ (takeAck s fid x).big = s.big ∧ (takeAck s fid x).pins = s.pins ∧
    (takeAck s fid x).life = s.life ∧ (takeAck s fid x).flash = s.flash ∧ (takeAck s fid x).sec = s.sec ∧
    (takeAck s fid x).power = s.power ∧ (takeAck s fid x).dies = s.dies ∧ (takeAck s fid x).hours = s.hours ∧
    (takeAck s fid x).domains = s.domains ∧ (takeAck s fid x).fault = s.fault ∧ (takeAck s fid x).mem = s.mem ∧
    (takeAck s fid x).hostMem = s.hostMem ∧ (takeAck s fid x).poison = s.poison ∧ (takeAck s fid x).cores = s.cores ∧
    (takeAck s fid x).spills = s.spills ∧ (takeAck s fid x).clusterOff = s.clusterOff ∧ (takeAck s fid x).arbLast = s.arbLast ∧
    (takeAck s fid x).channels = s.channels ∧ (takeAck s fid x).derated = s.derated ∧ (takeAck s fid x).caches = s.caches ∧
    (takeAck s fid x).homes = s.homes ∧ (takeAck s fid x).holds = s.holds ∧ (takeAck s fid x).hostReads = s.hostReads ∧
    (takeAck s fid x).partitions = s.partitions ∧ (takeAck s fid x).funcs = s.funcs ∧ (takeAck s fid x).queues = s.queues ∧
    (takeAck s fid x).harts = s.harts ∧ (takeAck s fid x).imsic = s.imsic ∧ (takeAck s fid x).aplic = s.aplic ∧
    (takeAck s fid x).videos = s.videos ∧ (takeAck s fid x).link = s.link ∧ (takeAck s fid x).linkReplays = s.linkReplays ∧
    (takeAck s fid x).etherType = s.etherType ∧ (takeAck s fid x).telemetry = s.telemetry ∧ (takeAck s fid x).hostOut = s.hostOut ∧
    (takeAck s fid x).free = s.free :=
  have h := takeAck_portOnly s fid x
  ⟨h.pending, h.big, h.pins, h.life, h.flash, h.sec, h.power, h.dies, h.hours, h.domains, h.fault, h.mem, h.hostMem, h.poison, h.cores,
  h.spills, h.clusterOff, h.arbLast, h.channels, h.derated, h.caches, h.homes, h.holds, h.hostReads, h.partitions, h.funcs, h.queues,
  h.harts, h.imsic, h.aplic, h.videos, h.link, h.linkReplays, h.etherType, h.telemetry, h.hostOut, h.free⟩

@[simp] theorem replyFrame_frame (s : State) (port type srcFlow : Nat) (x : TFrame) :
    (replyFrame s port type srcFlow x).pending = s.pending ∧ (replyFrame s port type srcFlow x).big = s.big ∧
    (replyFrame s port type srcFlow x).pins = s.pins ∧ (replyFrame s port type srcFlow x).life = s.life ∧
    (replyFrame s port type srcFlow x).flash = s.flash ∧ (replyFrame s port type srcFlow x).sec = s.sec ∧
    (replyFrame s port type srcFlow x).power = s.power ∧ (replyFrame s port type srcFlow x).dies = s.dies ∧
    (replyFrame s port type srcFlow x).hours = s.hours ∧ (replyFrame s port type srcFlow x).domains = s.domains ∧
    (replyFrame s port type srcFlow x).fault = s.fault ∧ (replyFrame s port type srcFlow x).mem = s.mem ∧
    (replyFrame s port type srcFlow x).hostMem = s.hostMem ∧ (replyFrame s port type srcFlow x).poison = s.poison ∧
    (replyFrame s port type srcFlow x).cores = s.cores ∧ (replyFrame s port type srcFlow x).spills = s.spills ∧
    (replyFrame s port type srcFlow x).clusterOff = s.clusterOff ∧ (replyFrame s port type srcFlow x).arbLast = s.arbLast ∧
    (replyFrame s port type srcFlow x).channels = s.channels ∧ (replyFrame s port type srcFlow x).derated = s.derated ∧
    (replyFrame s port type srcFlow x).caches = s.caches ∧ (replyFrame s port type srcFlow x).homes = s.homes ∧
    (replyFrame s port type srcFlow x).holds = s.holds ∧ (replyFrame s port type srcFlow x).hostReads = s.hostReads ∧
    (replyFrame s port type srcFlow x).partitions = s.partitions ∧ (replyFrame s port type srcFlow x).funcs = s.funcs ∧
    (replyFrame s port type srcFlow x).queues = s.queues ∧ (replyFrame s port type srcFlow x).harts = s.harts ∧
    (replyFrame s port type srcFlow x).imsic = s.imsic ∧ (replyFrame s port type srcFlow x).aplic = s.aplic ∧
    (replyFrame s port type srcFlow x).videos = s.videos ∧ (replyFrame s port type srcFlow x).link = s.link ∧
    (replyFrame s port type srcFlow x).linkReplays = s.linkReplays ∧ (replyFrame s port type srcFlow x).etherType = s.etherType ∧
    (replyFrame s port type srcFlow x).telemetry = s.telemetry ∧ (replyFrame s port type srcFlow x).hostOut = s.hostOut ∧
    (replyFrame s port type srcFlow x).free = s.free :=
  have h := replyFrame_portOnly s port type srcFlow x
  ⟨h.pending, h.big, h.pins, h.life, h.flash, h.sec, h.power, h.dies, h.hours, h.domains, h.fault, h.mem, h.hostMem, h.poison, h.cores,
  h.spills, h.clusterOff, h.arbLast, h.channels, h.derated, h.caches, h.homes, h.holds, h.hostReads, h.partitions, h.funcs, h.queues,
  h.harts, h.imsic, h.aplic, h.videos, h.link, h.linkReplays, h.etherType, h.telemetry, h.hostOut, h.free⟩

end Sys2Proof.Machine
end

