-- ==== Sys2Proof/Laws/Keeps.lean ====
section
/-! SUPPORT. What every operation of the model keeps: the queue of waiting commands, the variant, the OTP security version
(which never falls), and the canonical forms of device memory and host memory. -/

namespace Sys2Proof.Machine

/-- The state t after an operation on s keeps what no operation may break. -/
structure Keeps (s t : State) : Prop where
  pending : t.pending = s.pending
  big : t.big = s.big
  otp : s.sec.otpVersion ≤ t.sec.otpVersion
  mem : memWf s.mem = true → memWf t.mem = true
  host : hostWfFrom 0 s.hostMem = true → hostWfFrom 0 t.hostMem = true

/-- What an outcome keeps: its next state, if it has one. -/
inductive OutKeeps (s : State) : Out → Prop
  | next {t : State} (h : Keeps s t) : OutKeeps s (.next t)
  | fault {e : Fault} : OutKeeps s (.fault e)
  | refused {e : Refusal} : OutKeeps s (.refused e)

/-- What a mailbox answer keeps. -/
inductive MbxAnswer.Keeps (s : State) : MbxAnswer → Prop
  | done {t : State} {n : Nat} {b : List Byte} (h : Machine.Keeps s t) : MbxAnswer.Keeps s (.done t n b)
  | long {t : State} (h : Machine.Keeps s t) : MbxAnswer.Keeps s (.long t)
  | wait {t : State} (h : Machine.Keeps s t) : MbxAnswer.Keeps s (.wait t)

/-- What a command's access keeps. -/
inductive CmdIo.Keeps (s : State) : CmdIo → Prop
  | ok {t : State} {b : List Byte} (h : Machine.Keeps s t) : CmdIo.Keeps s (.ok t b)
  | held {t : State} (h : Machine.Keeps s t) : CmdIo.Keeps s (.held t)
  | ended {t : State} (h : Machine.Keeps s t) : CmdIo.Keeps s (.ended t)

/-- What a request for the tiers keeps. -/
inductive TierAnswer.Keeps (s : State) : TierAnswer → Prop
  | ready {t : State} (h : Machine.Keeps s t) : TierAnswer.Keeps s (.ready t)
  | held {t : State} (h : Machine.Keeps s t) : TierAnswer.Keeps s (.held t)
  | bad {t : State} (h : Machine.Keeps s t) : TierAnswer.Keeps s (.bad t)

/-- What an instruction's effect keeps. -/
inductive Issue.Keeps (s : State) : Issue → Prop
  | retire {t : State} {pc : Word32} (h : Machine.Keeps s t) : Issue.Keeps s (.retire t pc)
  | stop {c a : Nat} : Issue.Keeps s (.stop c a)
  | hold : Issue.Keeps s .hold

/-- What the transfer of a DMA keeps. -/
inductive DmaAnswer.Keeps (s : State) : DmaAnswer → Prop
  | moved {t : State} (h : Machine.Keeps s t) : DmaAnswer.Keeps s (.moved t)
  | waits {t : State} (h : Machine.Keeps s t) : DmaAnswer.Keeps s (.waits t)
  | faults {t : State} {c a : Nat} (h : Machine.Keeps s t) : DmaAnswer.Keeps s (.faults t c a)

/-- What the opening of a flow keeps. -/
inductive FlowKeeps (s : State) : Option (Nat × State) → Prop
  | some {i : Nat} {t : State} (h : Keeps s t) : FlowKeeps s (.some (i, t))
  | none : FlowKeeps s .none

/-- What the sending of a message keeps. -/
inductive SendKeeps (s : State) : Except SendFail State → Prop
  | ok {t : State} (h : Keeps s t) : SendKeeps s (.ok t)
  | error {f : SendFail} : SendKeeps s (.error f)

/-- What an operation that may answer no state keeps. -/
inductive OptKeeps (s : State) : Option State → Prop
  | some {t : State} (h : Keeps s t) : OptKeeps s (.some t)
  | none : OptKeeps s .none

theorem Keeps.refl (s : State) : Keeps s s := ⟨rfl, rfl, Nat.le_refl _, id, id⟩

/-- A state built from t with the queue and the variant of t, no lower security version, and canonical memories. -/
theorem keeps_mk {s0 t : State}
    {x_pins x_life x_flash x_power x_dies x_hours x_domains x_fault x_poison x_cores x_spills x_clusterOff x_arbLast
    x_channels x_derated x_caches x_homes x_holds x_hostReads x_partitions x_funcs x_queues x_harts x_imsic x_aplic
    x_ports x_flows x_colls x_videos x_link x_linkReplays x_etherType x_telemetry x_hostOut x_portOut x_free}
    {c : Security} {m n : List Host.Cell}
    (h : Keeps s0 t) (hc : t.sec.otpVersion ≤ c.otpVersion) (hm : memWf t.mem = true → memWf m = true)
    (hn : hostWfFrom 0 t.hostMem = true → hostWfFrom 0 n = true) :
    Keeps s0 (State.mk t.pending t.big x_pins x_life x_flash c x_power x_dies x_hours x_domains x_fault m n x_poison x_cores x_spills
    x_clusterOff x_arbLast x_channels x_derated x_caches x_homes x_holds x_hostReads x_partitions x_funcs x_queues
    x_harts x_imsic x_aplic x_ports x_flows x_colls x_videos x_link x_linkReplays x_etherType x_telemetry x_hostOut
    x_portOut x_free) :=
  ⟨h.1, h.2, Nat.le_trans h.3 hc, fun x => hm (h.4 x), fun x => hn (h.5 x)⟩

theorem keeps_foldl {a : Type} {s0 : State} {g : State → a → State} {l : List a} {s : State}
    (hg : ∀ t x, Keeps s0 t → Keeps s0 (g t x)) (h : Keeps s0 s) : Keeps s0 (l.foldl g s) := by
  induction l generalizing s with
  | nil => exact h
  | cons x l ih => exact ih (hg s x h)

theorem keeps_foldl_fst {a b : Type} {s0 : State} {g : State × b → a → State × b} {l : List a} {p : State × b}
    (hg : ∀ t x, Keeps s0 t.1 → Keeps s0 (g t x).1) (h : Keeps s0 p.1) : Keeps s0 (l.foldl g p).1 := by
  induction l generalizing p with
  | nil => exact h
  | cons x l ih => exact ih (hg p x h)

theorem keeps_foldl_snd {a b : Type} {s0 : State} {g : b × State → a → b × State} {l : List a} {p : b × State}
    (hg : ∀ t x, Keeps s0 t.2 → Keeps s0 (g t x).2) (h : Keeps s0 p.2) : Keeps s0 (l.foldl g p).2 := by
  induction l generalizing p with
  | nil => exact h
  | cons x l ih => exact ih (hg p x h)

theorem keeps_findSome {a : Type} {s0 : State} {f : a → Option State} {l : List a} (hf : ∀ x, OptKeeps s0 (f x)) :
    OptKeeps s0 (l.findSome? f) := by
  induction l with
  | nil => exact .none
  | cons x l ih =>
    rw [List.findSome?_cons]
    split
    · rename_i h; have := hf x; rw [h] at this; exact this
    · exact ih

theorem keeps_fst {b : Type} {s0 t : State} {y : b} {e : State × b} (h : e = (t, y)) (k : Keeps s0 e.1) : Keeps s0 t := by
  rw [h] at k; exact k

theorem keeps_snd {b : Type} {s0 t : State} {y : b} {e : b × State} (h : e = (y, t)) (k : Keeps s0 e.2) : Keeps s0 t := by
  rw [h] at k; exact k

theorem keeps_ready {s0 t : State} {e : TierAnswer} (h : e = .ready t) (k : e.Keeps s0) : Keeps s0 t := by rw [h] at k; cases k; assumption
theorem keeps_held {s0 t : State} {e : TierAnswer} (h : e = .held t) (k : e.Keeps s0) : Keeps s0 t := by rw [h] at k; cases k; assumption
theorem keeps_bad {s0 t : State} {e : TierAnswer} (h : e = .bad t) (k : e.Keeps s0) : Keeps s0 t := by rw [h] at k; cases k; assumption
theorem keeps_ok {s0 t : State} {b : List Byte} {e : CmdIo} (h : e = .ok t b) (k : e.Keeps s0) : Keeps s0 t := by rw [h] at k; cases k; assumption
theorem keeps_heldIo {s0 t : State} {e : CmdIo} (h : e = .held t) (k : e.Keeps s0) : Keeps s0 t := by rw [h] at k; cases k; assumption
theorem keeps_ended {s0 t : State} {e : CmdIo} (h : e = .ended t) (k : e.Keeps s0) : Keeps s0 t := by rw [h] at k; cases k; assumption
theorem keeps_done {s0 t : State} {n : Nat} {b : List Byte} {e : MbxAnswer} (h : e = .done t n b) (k : e.Keeps s0) : Keeps s0 t := by
  rw [h] at k; cases k; assumption
theorem keeps_long {s0 t : State} {e : MbxAnswer} (h : e = .long t) (k : e.Keeps s0) : Keeps s0 t := by rw [h] at k; cases k; assumption
theorem keeps_wait {s0 t : State} {e : MbxAnswer} (h : e = .wait t) (k : e.Keeps s0) : Keeps s0 t := by rw [h] at k; cases k; assumption
theorem keeps_some {s0 t : State} {e : Option State} (h : e = some t) (k : OptKeeps s0 e) : Keeps s0 t := by rw [h] at k; cases k; assumption

theorem keeps_okFst {b : Type} {s0 t : State} {l : List Byte} {y : b} {e : CmdIo × b} (h : e = (.ok t l, y)) (k : e.1.Keeps s0) : Keeps s0 t := by
  rw [h] at k; cases k; assumption
theorem keeps_heldFst {b : Type} {s0 t : State} {y : b} {e : CmdIo × b} (h : e = (.held t, y)) (k : e.1.Keeps s0) : Keeps s0 t := by
  rw [h] at k; cases k; assumption
theorem keeps_endedFst {b : Type} {s0 t : State} {y : b} {e : CmdIo × b} (h : e = (.ended t, y)) (k : e.1.Keeps s0) : Keeps s0 t := by
  rw [h] at k; cases k; assumption
theorem keeps_retire {s0 t : State} {pc : Word32} {e : Issue} (h : e = .retire t pc) (k : e.Keeps s0) : Keeps s0 t := by rw [h] at k; cases k; assumption
theorem keeps_moved {s0 t : State} {e : DmaAnswer} (h : e = .moved t) (k : e.Keeps s0) : Keeps s0 t := by rw [h] at k; cases k; assumption
theorem keeps_waits {s0 t : State} {e : DmaAnswer} (h : e = .waits t) (k : e.Keeps s0) : Keeps s0 t := by rw [h] at k; cases k; assumption
theorem keeps_faults {s0 t : State} {c a : Nat} {e : DmaAnswer} (h : e = .faults t c a) (k : e.Keeps s0) : Keeps s0 t := by
  rw [h] at k; cases k; assumption
theorem keeps_flow {s0 t : State} {i : Nat} {e : Option (Nat × State)} (h : e = some (i, t)) (k : FlowKeeps s0 e) : Keeps s0 t := by
  rw [h] at k; cases k; assumption
theorem keeps_sent {s0 t : State} {e : Except SendFail State} (h : e = .ok t) (k : SendKeeps s0 e) : Keeps s0 t := by rw [h] at k; cases k; assumption

theorem keeps_getD {s0 t : State} {o : Option State} (ho : OptKeeps s0 o) (h : Keeps s0 t) : Keeps s0 (o.getD t) := by
  cases ho <;> assumption

theorem outNext {s0 t : State} (h : Keeps s0 t) : OutKeeps s0 (.next t) := .next h
theorem mbxDoneOf {s0 t : State} {n : Nat} {b : List Byte} (h : Keeps s0 t) : MbxAnswer.Keeps s0 (.done t n b) := .done h
theorem mbxLongOf {s0 t : State} (h : Keeps s0 t) : MbxAnswer.Keeps s0 (.long t) := .long h
theorem mbxWaitOf {s0 t : State} (h : Keeps s0 t) : MbxAnswer.Keeps s0 (.wait t) := .wait h
theorem ioOk {s0 t : State} {b : List Byte} (h : Keeps s0 t) : CmdIo.Keeps s0 (.ok t b) := .ok h
theorem ioHeld {s0 t : State} (h : Keeps s0 t) : CmdIo.Keeps s0 (.held t) := .held h
theorem ioEnded {s0 t : State} (h : Keeps s0 t) : CmdIo.Keeps s0 (.ended t) := .ended h
theorem tierReadyOf {s0 t : State} (h : Keeps s0 t) : TierAnswer.Keeps s0 (.ready t) := .ready h
theorem tierHeldOf {s0 t : State} (h : Keeps s0 t) : TierAnswer.Keeps s0 (.held t) := .held h
theorem tierBadOf {s0 t : State} (h : Keeps s0 t) : TierAnswer.Keeps s0 (.bad t) := .bad h
theorem optSome {s0 t : State} (h : Keeps s0 t) : OptKeeps s0 (some t) := .some h
theorem optNone {s0 : State} : OptKeeps s0 none := .none
theorem issueRetire {s0 t : State} {pc : Word32} (h : Keeps s0 t) : Issue.Keeps s0 (.retire t pc) := .retire h
theorem issueStop {s0 : State} {c a : Nat} : Issue.Keeps s0 (.stop c a) := .stop
theorem issueHold {s0 : State} : Issue.Keeps s0 .hold := .hold
theorem dmaMoved {s0 t : State} (h : Keeps s0 t) : DmaAnswer.Keeps s0 (.moved t) := .moved h
theorem dmaWaits {s0 t : State} (h : Keeps s0 t) : DmaAnswer.Keeps s0 (.waits t) := .waits h
theorem dmaFaults {s0 t : State} {c a : Nat} (h : Keeps s0 t) : DmaAnswer.Keeps s0 (.faults t c a) := .faults h
theorem flowSome {s0 t : State} {i : Nat} (h : Keeps s0 t) : FlowKeeps s0 (some (i, t)) := .some h
theorem flowNone {s0 : State} : FlowKeeps s0 none := .none
theorem sentOk {s0 t : State} (h : Keeps s0 t) : SendKeeps s0 (.ok t) := .ok h
theorem sentError {s0 : State} {f : SendFail} : SendKeeps s0 (.error f) := .error

theorem keepsIte {s0 : State} {c : Prop} [Decidable c] {a b : State} (ha : Keeps s0 a) (hb : Keeps s0 b) :
    Keeps s0 (if c then a else b) := by split <;> assumption
theorem outIte {s0 : State} {c : Prop} [Decidable c] {a b : Out} (ha : OutKeeps s0 a) (hb : OutKeeps s0 b) :
    OutKeeps s0 (if c then a else b) := by split <;> assumption
theorem mbxIte {s0 : State} {c : Prop} [Decidable c] {a b : MbxAnswer} (ha : MbxAnswer.Keeps s0 a) (hb : MbxAnswer.Keeps s0 b) :
    MbxAnswer.Keeps s0 (if c then a else b) := by split <;> assumption
theorem ioIte {s0 : State} {c : Prop} [Decidable c] {a b : CmdIo} (ha : CmdIo.Keeps s0 a) (hb : CmdIo.Keeps s0 b) :
    CmdIo.Keeps s0 (if c then a else b) := by split <;> assumption
theorem tierIte {s0 : State} {c : Prop} [Decidable c] {a b : TierAnswer} (ha : TierAnswer.Keeps s0 a) (hb : TierAnswer.Keeps s0 b) :
    TierAnswer.Keeps s0 (if c then a else b) := by split <;> assumption
theorem optIte {s0 : State} {c : Prop} [Decidable c] {a b : Option State} (ha : OptKeeps s0 a) (hb : OptKeeps s0 b) :
    OptKeeps s0 (if c then a else b) := by split <;> assumption
theorem issueIte {s0 : State} {c : Prop} [Decidable c] {a b : Issue} (ha : Issue.Keeps s0 a) (hb : Issue.Keeps s0 b) :
    Issue.Keeps s0 (if c then a else b) := by split <;> assumption
theorem dmaIte {s0 : State} {c : Prop} [Decidable c] {a b : DmaAnswer} (ha : DmaAnswer.Keeps s0 a) (hb : DmaAnswer.Keeps s0 b) :
    DmaAnswer.Keeps s0 (if c then a else b) := by split <;> assumption
theorem flowIte {s0 : State} {c : Prop} [Decidable c] {a b : Option (Nat × State)} (ha : FlowKeeps s0 a) (hb : FlowKeeps s0 b) :
    FlowKeeps s0 (if c then a else b) := by split <;> assumption
theorem sentIte {s0 : State} {c : Prop} [Decidable c] {a b : Except SendFail State} (ha : SendKeeps s0 a) (hb : SendKeeps s0 b) :
    SendKeeps s0 (if c then a else b) := by split <;> assumption

end Sys2Proof.Machine
end

