-- ==== Sys2Proof/Laws/Memory.lean ====
section
/-! SUPPORT. The laws of the two byte memories: a read after a write, what a write leaves alone, and the canonical forms. -/

namespace Sys2Proof.Machine

/-! ### Device memory -/

/-- A lower bound may be lowered. -/
theorem memWfFrom_mono {lo hi : Nat} {m : List Host.Cell} (h : lo ≤ hi) (w : memWfFrom hi m = true) : memWfFrom lo m = true := by
  cases m with
  | nil => rfl
  | cons c m =>
    obtain ⟨k, v⟩ := c
    simp only [memWfFrom, Bool.and_eq_true, decide_eq_true_eq] at w ⊢
    exact ⟨⟨by omega, w.1.2⟩, w.2⟩

/-- An address below every listed one reads 0. -/
theorem memByte_below {lo a : Nat} {m : List Host.Cell} (w : memWfFrom lo m = true) (h : a < lo) : memByte m a = 0 := by
  cases m with
  | nil => rfl
  | cons c m =>
    obtain ⟨k, v⟩ := c
    simp only [memWfFrom, Bool.and_eq_true, decide_eq_true_eq] at w
    have h1 : k ≠ a := by omega
    have h2 : a < k := by omega
    simp [memByte, h1, h2]

/-- A written byte keeps the canonical form. -/
theorem memPut_wfFrom {lo a : Nat} {m : List Host.Cell} (b : Byte) (w : memWfFrom lo m = true) (h : lo ≤ a) :
    memWfFrom lo (memPut m a b) = true := by
  induction m generalizing lo with
  | nil => unfold memPut; split <;> simp_all [memWfFrom]
  | cons c m ih =>
    obtain ⟨k, v⟩ := c
    simp only [memWfFrom, Bool.and_eq_true, decide_eq_true_eq] at w
    unfold memPut
    split
    · split
      · simp_all [memWfFrom]
      · simp_all [memWfFrom]
    · split
      · split
        · exact memWfFrom_mono (by omega) w.2
        · simp_all [memWfFrom]
      · have := ih w.2 (by omega)
        simp_all [memWfFrom]

/-- A written byte keeps the canonical form. -/
theorem memPut_wf {m : List Host.Cell} (a : Nat) (b : Byte) (w : memWf m = true) : memWf (memPut m a b) = true :=
  memPut_wfFrom b w (Nat.zero_le a)

/-- Written bytes keep the canonical form. -/
theorem memPutBytes_wf {m : List Host.Cell} (a : Nat) (bs : List Byte) (w : memWf m = true) : memWf (memPutBytes m a bs) = true := by
  induction bs generalizing m a with
  | nil => exact w
  | cons b bs ih => exact ih _ (memPut_wf a b w)

/-- Entries left out keep the canonical form. -/
theorem filter_wfFrom {lo : Nat} {m : List Host.Cell} (p : Host.Cell → Bool) (w : memWfFrom lo m = true) :
    memWfFrom lo (m.filter p) = true := by
  induction m generalizing lo with
  | nil => rfl
  | cons c m ih =>
    obtain ⟨k, v⟩ := c
    simp only [memWfFrom, Bool.and_eq_true, decide_eq_true_eq] at w
    rw [List.filter_cons]
    split
    · have := ih w.2
      simp_all [memWfFrom]
    · exact memWfFrom_mono (by omega) (ih w.2)

/-- Entries left out keep the canonical form. -/
theorem filter_wf {m : List Host.Cell} (p : Host.Cell → Bool) (w : memWf m = true) : memWf (m.filter p) = true := filter_wfFrom p w

/-- Writes one after the other keep the canonical form. -/
theorem foldl_memPutBytes_wf {a : Type} (l : List a) (f : a → Nat) (g : a → List Byte) {m : List Host.Cell} (w : memWf m = true) :
    memWf (l.foldl (fun m x => memPutBytes m (f x) (g x)) m) = true := by
  induction l generalizing m with
  | nil => exact w
  | cons x l ih => exact ih (memPutBytes_wf _ _ w)

/-- Memory at reset is in its canonical form. -/
theorem reset_memWf : memWf State.reset.mem = true := rfl

/-- A cleared range keeps the canonical form. -/
theorem memClear_wf {m : List Host.Cell} (a n : Nat) (w : memWf m = true) : memWf (memClear m a n) = true := filter_wf _ w

/-- A written byte reads back. -/
theorem memByte_memPut_same {lo a : Nat} {m : List Host.Cell} (b : Byte) (w : memWfFrom lo m = true) :
    memByte (memPut m a b) a = b := by
  induction m generalizing lo with
  | nil => unfold memPut; split <;> simp_all [memByte]
  | cons c m ih =>
    obtain ⟨k, v⟩ := c
    simp only [memWfFrom, Bool.and_eq_true, decide_eq_true_eq] at w
    unfold memPut
    split
    · rename_i h
      split
      · rename_i hb
        have : k ≠ a := by omega
        simp [memByte, this, h, hb]
      · simp [memByte]
    · split
      · rename_i h1 h2
        subst h2
        split
        · rename_i hb
          rw [memByte_below w.2 (by omega), hb]
        · simp [memByte]
      · rename_i h1 h2
        have e1 : k ≠ a := by omega
        simp only [memByte, e1, if_false, h1]
        exact ih w.2

/-- A write leaves every other byte alone. -/
theorem memByte_memPut_other {a x : Nat} {lo : Nat} {m : List Host.Cell} (b : Byte) (w : memWfFrom lo m = true) (h : x ≠ a) :
    memByte (memPut m a b) x = memByte m x := by
  induction m generalizing lo with
  | nil =>
    unfold memPut
    split
    · rfl
    · have : a ≠ x := fun e => h e.symm
      simp [memByte, this]
  | cons c m ih =>
    obtain ⟨k, v⟩ := c
    simp only [memWfFrom, Bool.and_eq_true, decide_eq_true_eq] at w
    have hx : a ≠ x := fun e => h e.symm
    unfold memPut
    split
    · split
      · rfl
      · rename_i hlt _
        by_cases h1 : x < a
        · have e1 : k ≠ x := by omega
          have e2 : x < k := by omega
          simp [memByte, hx, h1, e1, e2]
        · simp [memByte, hx, h1]
    · split
      · rename_i h1 h2
        subst h2
        split
        · by_cases h3 : x < a
          · rw [memByte_below w.2 (by omega)]
            simp [memByte, hx, h3]
          · simp [memByte, hx, h3]
        · simp [memByte, hx]
      · simp only [memByte]
        split
        · rfl
        · split
          · rfl
          · exact ih w.2

/-- Written bytes leave every byte outside their range alone. -/
theorem memByte_memPutBytes_other {a x : Nat} {m : List Host.Cell} (bs : List Byte) (w : memWf m = true)
    (h : x < a ∨ a + bs.length ≤ x) : memByte (memPutBytes m a bs) x = memByte m x := by
  induction bs generalizing m a with
  | nil => rfl
  | cons b bs ih =>
    simp only [List.length_cons] at h
    unfold memPutBytes
    rw [ih (memPut_wf a b w) (by omega)]
    exact memByte_memPut_other b w (by omega)

/-- Written bytes read back. -/
theorem memByte_memPutBytes_same {a i : Nat} {m : List Host.Cell} (bs : List Byte) (w : memWf m = true) (h : i < bs.length) :
    memByte (memPutBytes m a bs) (a + i) = bs[i] := by
  induction bs generalizing m a i with
  | nil => simp at h
  | cons b bs ih =>
    unfold memPutBytes
    cases i with
    | zero =>
      rw [memByte_memPutBytes_other bs (memPut_wf a b w) (by omega)]
      exact memByte_memPut_same b w
    | succ i =>
      have := ih (a := a + 1) (i := i) (memPut_wf a b w) (by simpa using h)
      rw [show a + (i + 1) = a + 1 + i by omega, this]
      simp

/-- Bytes written from an address on are the bytes read from it on. -/
theorem memBytes_memPutBytes {a : Nat} {m : List Host.Cell} (bs : List Byte) (w : memWf m = true) :
    memBytes (memPutBytes m a bs) a bs.length = bs := by
  apply List.ext_getElem
  · simp [memBytes]
  · intro i h1 h2
    simp [memBytes, memByte_memPutBytes_same bs w h2]

/-! ### Host memory -/

/-- A lower bound may be lowered. -/
theorem hostWfFrom_mono {lo hi : Nat} {m : List Host.Cell} (h : lo ≤ hi) (w : hostWfFrom hi m = true) : hostWfFrom lo m = true := by
  cases m with
  | nil => rfl
  | cons c m =>
    obtain ⟨k, v⟩ := c
    simp only [hostWfFrom, Bool.and_eq_true, decide_eq_true_eq] at w ⊢
    exact ⟨by omega, w.2⟩

/-- A written byte keeps the canonical form. -/
theorem hostPut_wfFrom {lo a : Nat} {m : List Host.Cell} (b : Byte) (w : hostWfFrom lo m = true) (h : lo ≤ a) :
    hostWfFrom lo (hostPut m a b) = true := by
  induction m generalizing lo with
  | nil => simp [hostPut, hostWfFrom, h]
  | cons c m ih =>
    obtain ⟨k, v⟩ := c
    simp only [hostWfFrom, Bool.and_eq_true, decide_eq_true_eq] at w
    unfold hostPut
    split
    · simp_all [hostWfFrom]
    · split
      · simp_all [hostWfFrom]
      · have := ih w.2 (by omega)
        simp_all [hostWfFrom]

/-- Written bytes keep the canonical form. -/
theorem hostPutBytes_wf {m : List Host.Cell} (a : Nat) (bs : List Byte) (w : hostWfFrom 0 m = true) :
    hostWfFrom 0 (hostPutBytes m a bs) = true := by
  induction bs generalizing m a with
  | nil => exact w
  | cons b bs ih => exact ih _ (hostPut_wfFrom b w (Nat.zero_le a))

/-- A written byte reads back. -/
theorem hostCell_hostPut_same (m : List Host.Cell) (a : Nat) (b : Byte) : hostCell (hostPut m a b) a = some b := by
  induction m with
  | nil => simp [hostPut, hostCell]
  | cons c m ih =>
    obtain ⟨k, v⟩ := c
    unfold hostPut
    split
    · simp [hostCell]
    · split
      · simp [hostCell]
      · rename_i h1 h2
        have : k ≠ a := fun e => h2 e.symm
        simp [hostCell, this, ih]

/-- A write leaves every other byte alone. -/
theorem hostCell_hostPut_other (m : List Host.Cell) {a x : Nat} (b : Byte) (h : x ≠ a) :
    hostCell (hostPut m a b) x = hostCell m x := by
  have hx : a ≠ x := fun e => h e.symm
  induction m with
  | nil => simp [hostPut, hostCell, hx]
  | cons c m ih =>
    obtain ⟨k, v⟩ := c
    unfold hostPut
    split
    · simp [hostCell, hx]
    · split
      · rename_i h1 h2
        subst h2
        simp [hostCell, hx]
      · simp [hostCell, ih]

end Sys2Proof.Machine
end

