-- ==== Sys2Proof/Laws/KeepsOps.lean ====
section
/-! SUPPORT. What the operations of Machine/Ops.lean keep. -/

namespace Sys2Proof.Machine

theorem hostWrite_keeps {z0 : State} {s : State} (p bus : Nat) (bs : List Byte) (h_s : Keeps z0 s) :
    Keeps z0 (hostWrite s p bus bs) := by
  unfold hostWrite
  iterate 2
    all_goals repeat' first
      | with_reducible assumption
    all_goals try with_reducible apply keeps_mk
    all_goals try first
      | with_reducible exact id
      | with_reducible exact Nat.le_refl _
      | with_reducible exact hostPutBytes_wf _ _

theorem setPart_keeps {z0 : State} {s : State} (p : Nat) (x : Partition) (h_s : Keeps z0 s) :
    Keeps z0 (setPart s p x) := by
  unfold setPart
  iterate 2
    all_goals repeat' first
      | with_reducible assumption
    all_goals try with_reducible apply keeps_mk
    all_goals try first
      | with_reducible exact id
      | with_reducible exact Nat.le_refl _

theorem modPart_keeps {z0 : State} {s : State} (p : Nat) (f : Partition → Partition) (h_s : Keeps z0 s) :
    Keeps z0 (modPart s p f) := by
  unfold modPart
  iterate 2
    all_goals repeat' first
      | with_reducible assumption
    all_goals try with_reducible apply keeps_mk
    all_goals try first
      | with_reducible exact id
      | with_reducible exact Nat.le_refl _

theorem modFunc_keeps {z0 : State} {s : State} (fn : Nat) (f : Func → Func) (h_s : Keeps z0 s) :
    Keeps z0 (modFunc s fn f) := by
  unfold modFunc
  iterate 2
    all_goals repeat' first
      | with_reducible assumption
    all_goals try with_reducible apply keeps_mk
    all_goals try first
      | with_reducible exact id
      | with_reducible exact Nat.le_refl _

theorem modQueue_keeps {z0 : State} {s : State} (q : Nat) (f : Queue → Queue) (h_s : Keeps z0 s) :
    Keeps z0 (modQueue s q f) := by
  unfold modQueue
  iterate 2
    all_goals repeat' first
      | with_reducible assumption
    all_goals try with_reducible apply keeps_mk
    all_goals try first
      | with_reducible exact id
      | with_reducible exact Nat.le_refl _

theorem setCore_keeps {z0 : State} {s : State} (c : Nat) (x : Core) (h_s : Keeps z0 s) :
    Keeps z0 (setCore s c x) := by
  unfold setCore
  iterate 2
    all_goals repeat' first
      | with_reducible assumption
    all_goals try with_reducible apply keeps_mk
    all_goals try first
      | with_reducible exact id
      | with_reducible exact Nat.le_refl _

theorem modCore_keeps {z0 : State} {s : State} (c : Nat) (f : Core → Core) (h_s : Keeps z0 s) :
    Keeps z0 (modCore s c f) := by
  unfold modCore
  repeat' first
    | with_reducible assumption
    | with_reducible apply setCore_keeps

theorem modJob_keeps {z0 : State} {s : State} (p : Nat) (f : Job → Job) (h_s : Keeps z0 s) :
    Keeps z0 (modJob s p f) := by
  unfold modJob
  repeat' first
    | with_reducible assumption
    | with_reducible apply modPart_keeps

theorem modChannel_keeps {z0 : State} {s : State} (c : Nat) (f : Channel → Channel) (h_s : Keeps z0 s) :
    Keeps z0 (modChannel s c f) := by
  unfold modChannel
  iterate 2
    all_goals repeat' first
      | with_reducible assumption
      | split
    all_goals try with_reducible apply keeps_mk
    all_goals try first
      | with_reducible exact id
      | with_reducible exact Nat.le_refl _

theorem modHome_keeps {z0 : State} {s : State} (m : Nat) (f : HomeNode → HomeNode) (h_s : Keeps z0 s) :
    Keeps z0 (modHome s m f) := by
  unfold modHome
  iterate 2
    all_goals repeat' first
      | with_reducible assumption
      | split
    all_goals try with_reducible apply keeps_mk
    all_goals try first
      | with_reducible exact id
      | with_reducible exact Nat.le_refl _

theorem modHart_keeps {z0 : State} {s : State} (i : Nat) (f : Hart → Hart) (h_s : Keeps z0 s) :
    Keeps z0 (modHart s i f) := by
  unfold modHart
  iterate 2
    all_goals repeat' first
      | with_reducible assumption
      | split
    all_goals try with_reducible apply keeps_mk
    all_goals try first
      | with_reducible exact id
      | with_reducible exact Nat.le_refl _

theorem modPort_keeps {z0 : State} {s : State} (i : Nat) (f : Port → Port) (h_s : Keeps z0 s) :
    Keeps z0 (modPort s i f) := by
  unfold modPort
  iterate 2
    all_goals repeat' first
      | with_reducible assumption
      | split
    all_goals try with_reducible apply keeps_mk
    all_goals try first
      | with_reducible exact id
      | with_reducible exact Nat.le_refl _

theorem modVideo_keeps {z0 : State} {s : State} (i : Nat) (f : VideoUnit → VideoUnit) (h_s : Keeps z0 s) :
    Keeps z0 (modVideo s i f) := by
  unfold modVideo
  iterate 2
    all_goals repeat' first
      | with_reducible assumption
      | split
    all_goals try with_reducible apply keeps_mk
    all_goals try first
      | with_reducible exact id
      | with_reducible exact Nat.le_refl _

theorem modDie_keeps {z0 : State} {s : State} (i : Nat) (f : DiePower → DiePower) (h_s : Keeps z0 s) :
    Keeps z0 (modDie s i f) := by
  unfold modDie
  iterate 2
    all_goals repeat' first
      | with_reducible assumption
      | split
    all_goals try with_reducible apply keeps_mk
    all_goals try first
      | with_reducible exact id
      | with_reducible exact Nat.le_refl _

theorem modDomain_keeps {z0 : State} {s : State} (i : Nat) (f : Domain → Domain) (h_s : Keeps z0 s) :
    Keeps z0 (modDomain s i f) := by
  unfold modDomain
  iterate 2
    all_goals repeat' first
      | with_reducible assumption
      | split
    all_goals try with_reducible apply keeps_mk
    all_goals try first
      | with_reducible exact id
      | with_reducible exact Nat.le_refl _

theorem modColl_keeps {z0 : State} {s : State} (i : Nat) (f : CollEngine → CollEngine) (h_s : Keeps z0 s) :
    Keeps z0 (modColl s i f) := by
  unfold modColl
  iterate 2
    all_goals repeat' first
      | with_reducible assumption
      | split
    all_goals try with_reducible apply keeps_mk
    all_goals try first
      | with_reducible exact id
      | with_reducible exact Nat.le_refl _

theorem drawFree_keeps {z0 : State} {s : State} (bound : Nat) (h_s : Keeps z0 s) :
    Keeps z0 (drawFree s bound).2 := by
  unfold drawFree
  dsimp only
  iterate 2
    all_goals repeat' first
      | with_reducible assumption
    all_goals try with_reducible apply keeps_mk
    all_goals try first
      | with_reducible exact id
      | with_reducible exact Nat.le_refl _

theorem drawBytes_keeps {z0 : State} {s : State} (n : Nat) (h_s : Keeps z0 s) :
    Keeps z0 (drawBytes s n).2 := by
  unfold drawBytes
  dsimp only
  iterate 2
    all_goals repeat' first
      | with_reducible assumption
    all_goals try with_reducible apply keeps_mk
    all_goals try first
      | with_reducible exact id
      | with_reducible exact Nat.le_refl _

theorem putMapEntry_keeps {z0 : State} {s : State} (o : TieredObject) (page frame : Nat) (st : PageState) (gen : Nat) (h_s : Keeps z0 s) :
    Keeps z0 (putMapEntry s o page frame st gen) := by
  unfold putMapEntry
  iterate 2
    all_goals repeat' first
      | with_reducible assumption
    all_goals try with_reducible apply keeps_mk
    all_goals try first
      | with_reducible exact id
      | with_reducible exact Nat.le_refl _
      | with_reducible exact memPutBytes_wf _ _

theorem placePut_keeps {z0 : State} {s : State} (pl : Place) (b : Byte) (h_s : Keeps z0 s) :
    Keeps z0 (placePut s pl b) := by
  unfold placePut
  iterate 2
    all_goals repeat' first
      | with_reducible assumption
      | split
    all_goals try with_reducible apply keeps_mk
    all_goals try first
      | with_reducible exact id
      | with_reducible exact Nat.le_refl _
      | with_reducible exact memPut_wf _ _
      | with_reducible exact fun h => hostPut_wfFrom _ h (Nat.zero_le _)

theorem putAt_keeps {s0 s : State} (a : Nat) (bs : List Byte) (h : Keeps s0 s) : Keeps s0 (putAt s a bs) := by
  induction bs generalizing s a with
  | nil => exact h
  | cons b bs ih => exact ih _ (placePut_keeps _ _ h)

theorem putLine_keeps {z0 : State} {s : State} (lid : Nat) (d : BitVec 512) (h_s : Keeps z0 s) :
    Keeps z0 (putLine s lid d) := by
  unfold putLine
  repeat' first
    | with_reducible assumption
    | with_reducible apply putAt_keeps

theorem setLine_keeps {z0 : State} {s : State} (agent lid : Nat) (l : CacheLine) (h_s : Keeps z0 s) :
    Keeps z0 (setLine s agent lid l) := by
  unfold setLine
  iterate 2
    all_goals repeat' first
      | with_reducible assumption
    all_goals try with_reducible apply keeps_mk
    all_goals try first
      | with_reducible exact id
      | with_reducible exact Nat.le_refl _

theorem dropLine_keeps {z0 : State} {s : State} (agent lid : Nat) (h_s : Keeps z0 s) :
    Keeps z0 (dropLine s agent lid) := by
  unfold dropLine
  iterate 2
    all_goals repeat' first
      | with_reducible assumption
    all_goals try with_reducible apply keeps_mk
    all_goals try first
      | with_reducible exact id
      | with_reducible exact Nat.le_refl _

theorem dropCopies_keeps {z0 : State} {s : State} (lid : Nat) (h_s : Keeps z0 s) :
    Keeps z0 (dropCopies s lid) := by
  unfold dropCopies
  repeat' first
    | with_reducible assumption
    | intro _
    | with_reducible apply modHome_keeps
    | with_reducible apply dropLine_keeps
    | with_reducible apply keeps_foldl

theorem recallLine_keeps {z0 : State} {s : State} (lid : Nat) (h_s : Keeps z0 s) :
    Keeps z0 (recallLine s lid) := by
  unfold recallLine
  repeat' first
    | with_reducible assumption
    | with_reducible apply putLine_keeps
    | with_reducible apply dropCopies_keeps
    | split

theorem recallRange_keeps {z0 : State} {s : State} (a n : Nat) (h_s : Keeps z0 s) :
    Keeps z0 (recallRange s a n) := by
  unfold recallRange
  repeat' first
    | with_reducible assumption
    | intro _
    | with_reducible apply recallLine_keeps
    | with_reducible apply keeps_foldl
    | with_reducible apply keepsIte

theorem clearPoison_keeps {z0 : State} {s : State} (a n : Nat) (h_s : Keeps z0 s) :
    Keeps z0 (clearPoison s a n) := by
  unfold clearPoison
  dsimp only
  iterate 2
    all_goals repeat' first
      | with_reducible assumption
      | with_reducible apply keepsIte
    all_goals try with_reducible apply keeps_mk
    all_goals try first
      | with_reducible exact id
      | with_reducible exact Nat.le_refl _

theorem refreshFlights_keeps {z0 : State} {s : State} (a n : Nat) (h_s : Keeps z0 s) :
    Keeps z0 (refreshFlights s a n) := by
  unfold refreshFlights
  iterate 2
    all_goals repeat' first
      | with_reducible assumption
      | with_reducible apply keepsIte
    all_goals try with_reducible apply keeps_mk
    all_goals try first
      | with_reducible exact id
      | with_reducible exact Nat.le_refl _

theorem dropReservations_keeps {z0 : State} {s : State} (a n : Nat) (h_s : Keeps z0 s) :
    Keeps z0 (dropReservations s a n) := by
  unfold dropReservations
  iterate 2
    all_goals repeat' first
      | with_reducible assumption
      | with_reducible apply keepsIte
    all_goals try with_reducible apply keeps_mk
    all_goals try first
      | with_reducible exact id
      | with_reducible exact Nat.le_refl _

theorem cohWrite_keeps {z0 : State} {s : State} (a : Nat) (bs : List Byte) (h_s : Keeps z0 s) :
    Keeps z0 (cohWrite s a bs) := by
  unfold cohWrite
  dsimp only
  repeat' first
    | with_reducible assumption
    | with_reducible apply putAt_keeps
    | with_reducible apply recallRange_keeps
    | with_reducible apply clearPoison_keeps
    | with_reducible apply refreshFlights_keeps
    | with_reducible apply dropReservations_keeps

theorem poisonLine_keeps {z0 : State} {s : State} (a : Nat) (h_s : Keeps z0 s) :
    Keeps z0 (poisonLine s a) := by
  unfold poisonLine
  dsimp only
  iterate 2
    all_goals repeat' first
      | with_reducible assumption
      | with_reducible apply drawBytes_keeps
      | split
    all_goals try with_reducible apply keeps_mk
    all_goals try first
      | with_reducible exact id
      | with_reducible exact Nat.le_refl _
      | with_reducible exact memPutBytes_wf _ _

theorem countChannel_keeps {z0 : State} {s : State} (a n : Nat) (write : Bool) (h_s : Keeps z0 s) :
    Keeps z0 (countChannel s a n write) := by
  unfold countChannel
  repeat' first
    | with_reducible assumption
    | with_reducible apply modChannel_keeps
    | with_reducible apply keepsIte

theorem isoViolation_keeps {z0 : State} {s : State} (p : Nat) (h_s : Keeps z0 s) :
    Keeps z0 (isoViolation s p) := by
  unfold isoViolation
  dsimp only
  repeat' first
    | with_reducible assumption
    | with_reducible apply modPart_keeps

theorem failAccess_keeps {z0 : State} {s : State} (p a : Nat) (h_s : Keeps z0 s) :
    Keeps z0 (failAccess s p a) := by
  unfold failAccess
  repeat' first
    | with_reducible assumption
    | with_reducible apply isoViolation_keeps
    | with_reducible apply keepsIte
    | split

theorem wakeDomain_keeps {z0 : State} {s : State} (code : Nat) (h_s : Keeps z0 s) :
    Keeps z0 (wakeDomain s code) := by
  unfold wakeDomain
  repeat' first
    | with_reducible assumption
    | with_reducible apply modDomain_keeps

theorem wakeCore_keeps {z0 : State} {s : State} (core : Nat) (h_s : Keeps z0 s) :
    Keeps z0 (wakeCore s core) := by
  unfold wakeCore
  repeat' first
    | with_reducible assumption
    | with_reducible apply wakeDomain_keeps

theorem sendHost_keeps {z0 : State} {s : State} (o : HostOut) (h_s : Keeps z0 s) :
    Keeps z0 (sendHost s o) := by
  unfold sendHost
  iterate 2
    all_goals repeat' first
      | with_reducible assumption
    all_goals try with_reducible apply keeps_mk
    all_goals try first
      | with_reducible exact id
      | with_reducible exact Nat.le_refl _

end Sys2Proof.Machine
end

