-- ==== Sys2Proof/Laws/KeepsClock.lean ====
section
/-! SUPPORT. What the operations of Machine/Clock.lean keep. -/

namespace Sys2Proof.Machine

theorem tickHolds_keeps {z0 : State} {s : State} (h_s : Keeps z0 s) :
    Keeps z0 (tickHolds s) := by
  unfold tickHolds
  dsimp only
  iterate 2
    all_goals repeat' first
      | with_reducible assumption
    all_goals try with_reducible apply keeps_mk
    all_goals try first
      | with_reducible exact id
      | with_reducible exact Nat.le_refl _

theorem tickDerated_keeps {z0 : State} {before s : State} (h_before : Keeps z0 before) (h_s : Keeps z0 s) :
    Keeps z0 (tickDerated before s) := by
  unfold tickDerated
  dsimp only
  iterate 2
    all_goals repeat' first
      | with_reducible assumption
      | with_reducible apply keepsIte
    all_goals try with_reducible apply keeps_mk
    all_goals try first
      | with_reducible exact id
      | with_reducible exact Nat.le_refl _

theorem tick_keeps {z0 : State} {s : State} (h_s : Keeps z0 s) :
    Keeps z0 (tick s) := by
  unfold tick
  dsimp only
  iterate 2
    all_goals repeat' first
      | with_reducible assumption
      | with_reducible apply tickHolds_keeps
      | with_reducible apply tickDerated_keeps
      | with_reducible apply keepsIte
    all_goals try with_reducible apply keeps_mk
    all_goals try first
      | with_reducible exact id
      | with_reducible exact Nat.le_refl _

end Sys2Proof.Machine
end

