-- ==== Sys2Proof/Laws/KeepsRecords.lean ====
section
/-! SUPPORT. What the operations of Machine/Records.lean keep. -/

namespace Sys2Proof.Machine

theorem moduleWrite_keeps {z0 : State} {s : State} (a : Nat) (bs : List Byte) (h_s : Keeps z0 s) :
    Keeps z0 (moduleWrite s a bs) := by
  unfold moduleWrite
  repeat' first
    | with_reducible assumption
    | with_reducible apply hostWrite_keeps
    | with_reducible apply cohWrite_keeps
    | split

theorem sendMsix_keeps {z0 : State} {s : State} (fn entry : Nat) (h_s : Keeps z0 s) :
    Keeps z0 (sendMsix s fn entry) := by
  unfold sendMsix
  dsimp only
  repeat' first
    | with_reducible assumption
    | with_reducible apply modFunc_keeps
    | with_reducible apply sendHost_keeps
    | with_reducible apply keepsIte
    | split

theorem sendMsi_keeps {z0 : State} {s : State} (hart file ident : Nat) (h_s : Keeps z0 s) :
    Keeps z0 (sendMsi s hart file ident) := by
  unfold sendMsi
  dsimp only
  iterate 2
    all_goals repeat' first
      | with_reducible assumption
      | with_reducible apply keepsIte
    all_goals try with_reducible apply keeps_mk
    all_goals try first
      | with_reducible exact id
      | with_reducible exact Nat.le_refl _

theorem raiseAplic_keeps {z0 : State} {s : State} (src : Nat) (h_s : Keeps z0 s) :
    Keeps z0 (raiseAplic s src) := by
  unfold raiseAplic
  iterate 2
    all_goals repeat' first
      | with_reducible assumption
    all_goals try with_reducible apply keeps_mk
    all_goals try first
      | with_reducible exact id
      | with_reducible exact Nat.le_refl _

theorem raiseAlert_keeps {z0 : State} {s : State} (cause : Nat) (h_s : Keeps z0 s) :
    Keeps z0 (raiseAlert s cause) := by
  unfold raiseAlert
  dsimp only
  iterate 2
    all_goals repeat' first
      | with_reducible assumption
      | with_reducible apply keepsIte
    all_goals try with_reducible apply keeps_mk
    all_goals try first
      | with_reducible exact id
      | with_reducible exact Nat.le_refl _

theorem clearAlert_keeps {z0 : State} {s : State} (cause : Nat) (h_s : Keeps z0 s) :
    Keeps z0 (clearAlert s cause) := by
  unfold clearAlert
  dsimp only
  iterate 2
    all_goals repeat' first
      | with_reducible assumption
    all_goals try with_reducible apply keeps_mk
    all_goals try first
      | with_reducible exact id
      | with_reducible exact Nat.le_refl _

theorem logError_keeps {z0 : State} {s : State} (cls die code part queue status addr detail : Nat) (h_s : Keeps z0 s) :
    Keeps z0 (logError s cls die code part queue status addr detail) := by
  unfold logError
  dsimp only
  iterate 2
    all_goals repeat' first
      | with_reducible assumption
    all_goals try with_reducible apply keeps_mk
    all_goals try first
      | with_reducible exact id
      | with_reducible exact Nat.le_refl _

theorem ringWrite_keeps {z0 : State} {s : State} (r : Ring) (ty : Nat) (body : List Byte) (h_s : Keeps z0 s) :
    Keeps z0 (ringWrite s r ty body).1 := by
  unfold ringWrite
  dsimp only
  repeat' first
    | with_reducible assumption
    | with_reducible apply moduleWrite_keeps
    | split

theorem telemetryPf0_keeps {z0 : State} {s : State} (ty : Nat) (body : List Byte) (h_s : Keeps z0 s) :
    Keeps z0 (telemetryPf0 s ty body) := by
  unfold telemetryPf0
  dsimp only
  iterate 2
    all_goals repeat' first
      | with_reducible assumption
      | with_reducible apply ringWrite_keeps
      | split
    all_goals try with_reducible apply keeps_mk
    all_goals try first
      | with_reducible exact id
      | with_reducible exact Nat.le_refl _

theorem telemetryQueue_keeps {z0 : State} {s : State} (q ty : Nat) (body : List Byte) (h_s : Keeps z0 s) :
    Keeps z0 (telemetryQueue s q ty body) := by
  unfold telemetryQueue
  dsimp only
  repeat' first
    | with_reducible assumption
    | with_reducible apply modQueue_keeps
    | with_reducible apply ringWrite_keeps
    | split

theorem journalWrite_keeps {z0 : State} {s : State} (p ty : Nat) (body : List Byte) (h_s : Keeps z0 s) :
    Keeps z0 (journalWrite s p ty body) := by
  unfold journalWrite
  dsimp only
  repeat' first
    | with_reducible assumption
    | with_reducible apply modPart_keeps
    | with_reducible apply moduleWrite_keeps
    | with_reducible apply keepsIte
    | split

theorem journalOutcome_keeps {z0 : State} {s : State} (p sub : Nat) (fields : List Byte) (h_s : Keeps z0 s) :
    Keeps z0 (journalOutcome s p sub fields) := by
  unfold journalOutcome
  repeat' first
    | with_reducible assumption
    | with_reducible apply journalWrite_keeps

theorem markExternal_keeps {z0 : State} {s : State} (p a n : Nat) (h_s : Keeps z0 s) :
    Keeps z0 (markExternal s p a n) := by
  unfold markExternal
  dsimp only
  repeat' first
    | with_reducible assumption
    | with_reducible apply modPart_keeps
    | with_reducible apply keepsIte

theorem inputRecord_keeps {z0 : State} {t : State} (p b m : Nat) (h_t : Keeps z0 t) :
    Keeps z0 (inputRecord t p b m) := by
  unfold inputRecord
  dsimp only
  repeat' first
    | with_reducible assumption
    | with_reducible apply modPart_keeps
    | with_reducible apply journalWrite_keeps

theorem journalInput_keeps {z0 : State} {s : State} (p a n : Nat) (h_s : Keeps z0 s) :
    Keeps z0 (journalInput s p a n) := by
  unfold journalInput
  dsimp only
  repeat' first
    | with_reducible assumption
    | intro _
    | with_reducible apply modPart_keeps
    | with_reducible apply inputRecord_keeps
    | with_reducible apply keeps_foldl
    | with_reducible apply keepsIte
    | split

theorem writeCompletion_keeps {z0 : State} {s : State} (q pos status result flags seq rccModule rccIndex rccTarget : Nat) (h_s : Keeps z0 s) :
    Keeps z0 (writeCompletion s q pos status result flags seq rccModule rccIndex rccTarget) := by
  unfold writeCompletion
  dsimp only
  repeat' first
    | with_reducible assumption
    | with_reducible apply modQueue_keeps
    | with_reducible apply moduleWrite_keeps
    | with_reducible apply sendMsix_keeps
    | with_reducible apply sendMsi_keeps
    | with_reducible apply keepsIte
    | split

theorem modCmd_keeps {z0 : State} {s : State} (q pos : Nat) (f : Cmd → Cmd) (h_s : Keeps z0 s) :
    Keeps z0 (modCmd s q pos f) := by
  unfold modCmd
  repeat' first
    | with_reducible assumption
    | with_reducible apply modQueue_keeps

theorem killCore_keeps {z0 : State} {s : State} (k : Nat) (h_s : Keeps z0 s) :
    Keeps z0 (killCore s k) := by
  unfold killCore
  dsimp only
  repeat' first
    | with_reducible assumption
    | with_reducible apply modCore_keeps

theorem dropHolds_keeps {z0 : State} {s : State} (q pos : Nat) (h_s : Keeps z0 s) :
    Keeps z0 (dropHolds s q pos) := by
  unfold dropHolds
  iterate 2
    all_goals repeat' first
      | with_reducible assumption
    all_goals try with_reducible apply keeps_mk
    all_goals try first
      | with_reducible exact id
      | with_reducible exact Nat.le_refl _

theorem account_keeps {z0 : State} {s0 : State} (q : Nat) (c : Cmd) (committed : Bool) (h_s0 : Keeps z0 s0) :
    Keeps z0 (account s0 q c committed) := by
  unfold account
  dsimp only
  repeat' first
    | with_reducible assumption
    | with_reducible apply modQueue_keeps
    | with_reducible apply drawFree_keeps

theorem removeCmd_keeps {z0 : State} {s : State} (q pos : Nat) (h_s : Keeps z0 s) :
    Keeps z0 (removeCmd s q pos) := by
  unfold removeCmd
  repeat' first
    | with_reducible assumption
    | with_reducible apply modQueue_keeps

theorem dropCommitRun_keeps {z0 : State} {s : State} (p q pos : Nat) (h_s : Keeps z0 s) :
    Keeps z0 (dropCommitRun s p q pos) := by
  unfold dropCommitRun
  repeat' first
    | with_reducible assumption
    | with_reducible apply modJob_keeps

theorem endCmdWith_keeps {z0 : State} {s : State} (q pos status result : Nat) (h_s : Keeps z0 s) :
    Keeps z0 (endCmdWith s q pos status result) := by
  unfold endCmdWith
  dsimp only
  repeat' first
    | with_reducible assumption
    | intro _
    | with_reducible apply writeCompletion_keeps
    | with_reducible apply killCore_keeps
    | with_reducible apply dropHolds_keeps
    | with_reducible apply account_keeps
    | with_reducible apply removeCmd_keeps
    | with_reducible apply dropCommitRun_keeps
    | with_reducible apply keeps_foldl
    | split

theorem endCmd_keeps {z0 : State} {s : State} (q pos status : Nat) (h_s : Keeps z0 s) :
    Keeps z0 (endCmd s q pos status) := by
  unfold endCmd
  repeat' first
    | with_reducible assumption
    | with_reducible apply endCmdWith_keeps

theorem finishCmd_keeps {z0 : State} {s : State} (q pos status result : Nat) (h_s : Keeps z0 s) :
    Keeps z0 (finishCmd s q pos status result) := by
  unfold finishCmd
  repeat' first
    | with_reducible assumption
    | with_reducible apply modCmd_keeps

theorem endCmds_keeps {z0 : State} {s : State} (l : List (Nat × Nat)) (status : Nat) (h_s : Keeps z0 s) :
    Keeps z0 (endCmds s l status) := by
  unfold endCmds
  repeat' first
    | with_reducible assumption
    | intro _
    | with_reducible apply endCmd_keeps
    | with_reducible apply keeps_foldl

theorem writePieces_keeps {s0 s : State} (l : List (Nat × Nat)) (bs : List Byte) (h : Keeps s0 s) : Keeps s0 (writePieces s l bs) := by
  induction l generalizing s bs with
  | nil => exact h
  | cons e l ih => exact ih _ (moduleWrite_keeps _ _ h)

theorem msiSomewhere_keeps {z0 : State} {s : State} (p : Nat) (h_s : Keeps z0 s) :
    Keeps z0 (msiSomewhere s p) := by
  unfold msiSomewhere
  dsimp only
  repeat' first
    | with_reducible assumption
    | with_reducible apply drawFree_keeps
    | with_reducible apply sendMsi_keeps
    | split

theorem iommuFault_keeps {z0 : State} {s : State} (p q a : Nat) (h_s : Keeps z0 s) :
    Keeps z0 (iommuFault s p q a) := by
  unfold iommuFault
  dsimp only
  repeat' first
    | with_reducible assumption
    | with_reducible apply logError_keeps
    | with_reducible apply msiSomewhere_keeps

end Sys2Proof.Machine
end

