-- ==== Sys2Proof/Laws/KeepsCoreOps.lean ====
section
/-! SUPPORT. What the operations of Machine/CoreOps.lean keep. -/

namespace Sys2Proof.Machine

theorem windowWrite_keeps {z0 : State} {s : State} (k off n v : Nat) (h_s : Keeps z0 s) :
    Keeps z0 (windowWrite s k off n v) := by
  unfold windowWrite
  iterate 2
    all_goals repeat' first
      | with_reducible assumption
    all_goals try with_reducible apply keeps_mk
    all_goals try first
      | with_reducible exact id
      | with_reducible exact Nat.le_refl _
      | with_reducible exact memPutBytes_wf _ _

theorem stopCore_keeps {z0 : State} {s : State} (k cause : Nat) (insn : Word32) (addr : Nat) (h_s : Keeps z0 s) :
    Keeps z0 (stopCore s k cause insn addr) := by
  unfold stopCore
  dsimp only
  repeat' first
    | with_reducible assumption
    | with_reducible apply modCore_keeps
    | with_reducible apply endCmd_keeps

theorem retire_keeps {z0 : State} {s : State} (k : Nat) (pc : Word32) (h_s : Keeps z0 s) :
    Keeps z0 (retire s k pc) := by
  unfold retire
  dsimp only
  repeat' first
    | with_reducible assumption
    | with_reducible apply modCore_keeps

theorem settle_keeps {z0 s : State} (k : Nat) (word : Word32) {i : Issue} (h_s : Keeps z0 s) (h : Issue.Keeps z0 i) :
    Keeps z0 (settle s k word i) := by
  cases h with
  | retire h => exact retire_keeps _ _ h
  | stop => exact stopCore_keeps _ _ _ _ h_s
  | hold => exact h_s

theorem issue_keeps {z0 : State} {s : State} (k : Nat) (word : Word32) (eff : Core → Word32 → Issue) (h_eff : ∀ y0 y1, Issue.Keeps z0 (eff y0 y1)) (h_s : Keeps z0 s) :
    Keeps z0 (issue s k word eff) := by
  unfold issue
  repeat' first
    | with_reducible assumption
    | with_reducible apply stopCore_keeps
    | with_reducible apply settle_keeps
    | with_reducible apply h_eff
    | with_reducible apply keepsIte
    | split

theorem onCore_keeps {z0 : State} {s : State} (k : Nat) (f : Core → Core) (pc : Word32) (h_s : Keeps z0 s) :
    Issue.Keeps z0 (onCore s k f pc) := by
  unfold onCore
  repeat' first
    | with_reducible assumption
    | with_reducible apply issueRetire
    | with_reducible apply modCore_keeps

end Sys2Proof.Machine
end

