-- ==== Sys2Proof/Laws/KeepsTiers.lean ====
section
/-! SUPPORT. What the operations of Machine/Tiers.lean keep. -/

namespace Sys2Proof.Machine

theorem countHold_keeps {z0 : State} {s : State} (p : Nat) (c : StallCause) (h_s : Keeps z0 s) :
    Keeps z0 (countHold s p c) := by
  unfold countHold
  dsimp only
  repeat' first
    | with_reducible assumption
    | with_reducible apply modPart_keeps

theorem endTierError_keeps {z0 : State} {s : State} (p : Nat) (c : CmdRef) (h_s : Keeps z0 s) :
    Keeps z0 (endTierError s p c) := by
  unfold endTierError
  repeat' first
    | with_reducible assumption
    | with_reducible apply journalOutcome_keeps
    | with_reducible apply endCmd_keeps

theorem holdRequest_keeps {z0 : State} {s : State} (p : Nat) (cause : StallCause) (cmd : Option CmdRef) (a obj page : Nat) (rd : Option Nat) (h_s : Keeps z0 s) :
    Keeps z0 (holdRequest s p cause cmd a obj page rd) := by
  unfold holdRequest
  dsimp only
  iterate 2
    all_goals repeat' first
      | with_reducible assumption
      | with_reducible apply modCmd_keeps
      | with_reducible apply countHold_keeps
      | with_reducible apply endTierError_keeps
      | with_reducible apply keepsIte
      | split
    all_goals try with_reducible apply keeps_mk
    all_goals try first
      | with_reducible exact id
      | with_reducible exact Nat.le_refl _

theorem endHolds_keeps {z0 : State} {s : State} (t : Hold → Bool) (h_s : Keeps z0 s) :
    Keeps z0 (endHolds s t) := by
  unfold endHolds
  iterate 2
    all_goals repeat' first
      | with_reducible assumption
    all_goals try with_reducible apply keeps_mk
    all_goals try first
      | with_reducible exact id
      | with_reducible exact Nat.le_refl _

theorem releasePage_keeps {z0 : State} {s : State} (p obj page : Nat) (h_s : Keeps z0 s) :
    Keeps z0 (releasePage s p obj page) := by
  unfold releasePage
  repeat' first
    | with_reducible assumption
    | with_reducible apply endHolds_keeps

theorem issueRead_keeps {z0 : State} {s : State} (p bus n : Nat) (why : HostReadFor) (a : Nat) (cmd : Option CmdRef) (h_s : Keeps z0 s) :
    Keeps z0 (issueRead s p bus n why a cmd) := by
  unfold issueRead
  dsimp only
  iterate 2
    all_goals repeat' first
      | with_reducible assumption
    all_goals try with_reducible apply keeps_mk
    all_goals try first
      | with_reducible exact id
      | with_reducible exact Nat.le_refl _

theorem modObject_keeps {z0 : State} {s : State} (p obj : Nat) (f : TieredObject → TieredObject) (h_s : Keeps z0 s) :
    Keeps z0 (modObject s p obj f) := by
  unfold modObject
  repeat' first
    | with_reducible assumption
    | with_reducible apply modPart_keeps

theorem modMig_keeps {z0 : State} {s : State} (p obj page : Nat) (f : Migration → Migration) (h_s : Keeps z0 s) :
    Keeps z0 (modMig s p obj page f) := by
  unfold modMig
  repeat' first
    | with_reducible assumption
    | with_reducible apply modPart_keeps

theorem freeMig_keeps {z0 : State} {s : State} (p obj page : Nat) (h_s : Keeps z0 s) :
    Keeps z0 (freeMig s p obj page) := by
  unfold freeMig
  repeat' first
    | with_reducible assumption
    | with_reducible apply modPart_keeps

theorem recallPage_keeps {z0 : State} {s : State} (o : TieredObject) (page : Nat) (place : Nat → Place) (h_s : Keeps z0 s) :
    Keeps z0 (recallPage s o page place) := by
  unfold recallPage
  dsimp only
  repeat' first
    | with_reducible assumption
    | intro _
    | with_reducible apply placePut_keeps
    | with_reducible apply dropCopies_keeps
    | with_reducible apply keeps_foldl
    | with_reducible apply keepsIte
    | split

theorem promoteInto_keeps {z0 : State} {s : State} (p obj page frame : Nat) (h_s : Keeps z0 s) :
    Keeps z0 (promoteInto s p obj page frame) := by
  unfold promoteInto
  dsimp only
  repeat' first
    | with_reducible assumption
    | with_reducible apply putMapEntry_keeps
    | with_reducible apply modObject_keeps
    | with_reducible apply modMig_keeps
    | split

theorem beginDemotion_keeps {z0 : State} {s : State} (p obj page : Nat) (src : MigSource) (h_s : Keeps z0 s) :
    Keeps z0 (beginDemotion s p obj page src) := by
  unfold beginDemotion
  dsimp only
  repeat' first
    | with_reducible assumption
    | with_reducible apply modPart_keeps
    | with_reducible apply putMapEntry_keeps
    | split

theorem queueMig_keeps {z0 : State} {s : State} (p : Nat) (r : MigRequest) (h_s : Keeps z0 s) :
    Keeps z0 (queueMig s p r) := by
  unfold queueMig
  repeat' first
    | with_reducible assumption
    | with_reducible apply modPart_keeps

theorem startMigration_keeps {z0 : State} {s : State} (p obj page : Nat) (dir : MigDir) (src : MigSource) (h_s : Keeps z0 s) :
    Keeps z0 (startMigration s p obj page dir src).2 := by
  unfold startMigration
  dsimp only
  repeat' first
    | with_reducible assumption
    | with_reducible apply modPart_keeps
    | with_reducible apply promoteInto_keeps
    | with_reducible apply beginDemotion_keeps
    | with_reducible apply queueMig_keeps
    | split

theorem giveFrames_keeps {z0 : State} {s : State} (p obj : Nat) (h_s : Keeps z0 s) :
    Keeps z0 (giveFrames s p obj) := by
  unfold giveFrames
  repeat' first
    | with_reducible assumption
    | intro _
    | with_reducible apply promoteInto_keeps
    | with_reducible apply keeps_foldl
    | split

theorem startQueued_keeps {z0 : State} {s : State} (p : Nat) (h_s : Keeps z0 s) :
    Keeps z0 (startQueued s p) := by
  unfold startQueued
  repeat' first
    | with_reducible assumption
    | intro _
    | with_reducible apply modPart_keeps
    | with_reducible apply queueMig_keeps
    | with_reducible apply startMigration_keeps
    | with_reducible apply keeps_foldl
    | split
    | refine keeps_snd (by with_reducible assumption) ?_

theorem dropRequests_keeps {z0 : State} {s : State} (p n : Nat) (h_s : Keeps z0 s) :
    Keeps z0 (dropRequests s p n) := by
  unfold dropRequests
  dsimp only
  repeat' first
    | with_reducible assumption
    | with_reducible apply modPart_keeps

theorem explicitRequest_keeps {z0 : State} {s : State} (p obj first count : Nat) (dir : MigDir) (h_s : Keeps z0 s) :
    Keeps z0 (explicitRequest s p obj first count dir) := by
  unfold explicitRequest
  repeat' first
    | with_reducible assumption
    | intro _
    | with_reducible apply startMigration_keeps
    | with_reducible apply dropRequests_keeps
    | with_reducible apply keeps_foldl
    | split
    | refine keeps_snd (by with_reducible assumption) ?_

theorem demandAccess_keeps {z0 : State} {s : State} (p obj page : Nat) (h_s : Keeps z0 s) :
    Keeps z0 (demandAccess s p obj page) := by
  unfold demandAccess
  dsimp only
  repeat' first
    | with_reducible assumption
    | with_reducible apply modObject_keeps
    | with_reducible apply startMigration_keeps
    | with_reducible apply keepsIte
    | split

theorem tierPiece_keeps {z0 : State} {s : State} (p : Nat) (cmd : Option CmdRef) (reachesT2 read : Bool) (a n : Nat) (h_s : Keeps z0 s) :
    TierAnswer.Keeps z0 (tierPiece s p cmd reachesT2 read a n) := by
  unfold tierPiece
  dsimp only
  iterate 2
    all_goals repeat' first
      | with_reducible assumption
      | with_reducible apply tierBadOf
      | with_reducible apply tierHeldOf
      | with_reducible apply tierReadyOf
      | with_reducible apply logError_keeps
      | with_reducible apply holdRequest_keeps
      | with_reducible apply issueRead_keeps
      | with_reducible apply startMigration_keeps
      | with_reducible apply demandAccess_keeps
      | with_reducible apply tierIte
      | split
      | refine keeps_snd (by with_reducible assumption) ?_
    all_goals try with_reducible apply keeps_mk
    all_goals try first
      | with_reducible exact id
      | with_reducible exact Nat.le_refl _

theorem tierPieces_keeps {s0 s : State} (p : Nat) (cmd : Option CmdRef) (r w ok : Bool) (l : List (Nat × Nat)) (h : Keeps s0 s) :
    TierAnswer.Keeps s0 (tierPieces p cmd r w s ok l) := by
  induction l generalizing s ok with
  | nil => unfold tierPieces; split; exacts [.ready h, .held h]
  | cons e l ih =>
    have k := tierPiece_keeps p cmd r w e.1 e.2 h
    unfold tierPieces
    split
    · exact ih _ (keeps_ready (by assumption) k)
    · exact ih _ (keeps_held (by assumption) k)
    · exact .bad (keeps_bad (by assumption) k)

theorem tierReady_keeps {z0 : State} {s : State} (p : Nat) (cmd : Option CmdRef) (reachesT2 read : Bool) (l : List (Nat × Nat)) (h_s : Keeps z0 s) :
    TierAnswer.Keeps z0 (tierReady s p cmd reachesT2 read l) := by
  unfold tierReady
  repeat' first
    | with_reducible assumption
    | with_reducible apply tierReadyOf
    | with_reducible apply endHolds_keeps
    | with_reducible apply tierPieces_keeps
    | split
    | refine keeps_ready (by with_reducible assumption) ?_

theorem logPoison_keeps {z0 : State} {s : State} (p q a : Nat) (h_s : Keeps z0 s) :
    Keeps z0 (logPoison s p q a) := by
  unfold logPoison
  repeat' first
    | with_reducible assumption
    | with_reducible apply logError_keeps
    | split

theorem revertMigrations_keeps {z0 : State} {s : State} (p : Nat) (h_s : Keeps z0 s) :
    Keeps z0 (revertMigrations s p) := by
  unfold revertMigrations
  dsimp only
  repeat' first
    | with_reducible assumption
    | intro _
    | with_reducible apply modPart_keeps
    | with_reducible apply putMapEntry_keeps
    | with_reducible apply modObject_keeps
    | with_reducible apply keeps_foldl
    | split

theorem execHostTierReadComplete_keeps {z0 : State} (req : Nat) (result : BitVec 3) (bytes : List Byte) {s : State} (h_s : Keeps z0 s) :
    OutKeeps z0 (execHostTierReadComplete req result bytes s) := by
  unfold execHostTierReadComplete
  dsimp only
  iterate 3
    all_goals repeat' first
      | with_reducible assumption
      | with_reducible apply outNext
      | intro _
      | with_reducible apply putMapEntry_keeps
      | with_reducible apply countHold_keeps
      | with_reducible apply holdRequest_keeps
      | with_reducible apply endHolds_keeps
      | with_reducible apply modObject_keeps
      | with_reducible apply modMig_keeps
      | with_reducible apply keeps_foldl
      | with_reducible apply keepsIte
      | with_reducible apply outIte
      | split
    all_goals try with_reducible apply keeps_mk
    all_goals try first
      | with_reducible exact id
      | with_reducible exact Nat.le_refl _
      | with_reducible exact hostPutBytes_wf _ _

theorem execHostReadReissue_keeps {z0 : State} (req : Nat) {s : State} (h_s : Keeps z0 s) :
    OutKeeps z0 (execHostReadReissue req s) := by
  unfold execHostReadReissue
  iterate 2
    all_goals repeat' first
      | with_reducible assumption
      | with_reducible apply outNext
      | with_reducible apply outIte
      | split
    all_goals try with_reducible apply keeps_mk
    all_goals try first
      | with_reducible exact id
      | with_reducible exact Nat.le_refl _

theorem execHostLateThreshold_keeps {z0 : State} (req : Nat) {s : State} (h_s : Keeps z0 s) :
    OutKeeps z0 (execHostLateThreshold req s) := by
  unfold execHostLateThreshold
  dsimp only
  iterate 2
    all_goals repeat' first
      | with_reducible assumption
      | with_reducible apply outNext
      | with_reducible apply holdRequest_keeps
      | with_reducible apply outIte
      | split
    all_goals try with_reducible apply keeps_mk
    all_goals try first
      | with_reducible exact id
      | with_reducible exact Nat.le_refl _

theorem execTierStallNotify_keeps {z0 : State} (hold : Nat) {s : State} (h_s : Keeps z0 s) :
    OutKeeps z0 (execTierStallNotify hold s) := by
  unfold execTierStallNotify
  dsimp only
  iterate 2
    all_goals repeat' first
      | with_reducible assumption
      | with_reducible apply outNext
      | with_reducible apply telemetryPf0_keeps
      | with_reducible apply telemetryQueue_keeps
      | with_reducible apply outIte
      | split
    all_goals try with_reducible apply keeps_mk
    all_goals try first
      | with_reducible exact id
      | with_reducible exact Nat.le_refl _

theorem execEskorDeadlineExpire_keeps {z0 : State} (hold : Nat) {s : State} (h_s : Keeps z0 s) :
    OutKeeps z0 (execEskorDeadlineExpire hold s) := by
  unfold execEskorDeadlineExpire
  dsimp only
  repeat' first
    | with_reducible assumption
    | with_reducible apply outNext
    | with_reducible apply endTierError_keeps
    | with_reducible apply endHolds_keeps
    | with_reducible apply outIte
    | split

theorem execTierReqPromote_keeps {z0 : State} (p : BitVec 4) (object : BitVec 10) (first : BitVec 28) (count : BitVec 16) {s : State} (h_s : Keeps z0 s) :
    OutKeeps z0 (execTierReqPromote p object first count s) := by
  unfold execTierReqPromote
  repeat' first
    | with_reducible assumption
    | with_reducible apply outNext
    | with_reducible apply explicitRequest_keeps

theorem execTierReqDemote_keeps {z0 : State} (p : BitVec 4) (object : BitVec 10) (first : BitVec 28) (count : BitVec 16) {s : State} (h_s : Keeps z0 s) :
    OutKeeps z0 (execTierReqDemote p object first count s) := by
  unfold execTierReqDemote
  repeat' first
    | with_reducible assumption
    | with_reducible apply outNext
    | with_reducible apply explicitRequest_keeps

theorem execTierReqDropped_keeps {z0 : State} (p : BitVec 4) (dir : BitVec 2) (object : BitVec 10) (first : BitVec 28) (count : BitVec 16) {s : State} (h_s : Keeps z0 s) :
    OutKeeps z0 (execTierReqDropped p dir object first count s) := by
  unfold execTierReqDropped
  repeat' first
    | with_reducible assumption
    | with_reducible apply outNext
    | with_reducible apply dropRequests_keeps
    | with_reducible apply outIte

theorem execPromotionStart_keeps {z0 : State} (p : BitVec 4) (object : BitVec 10) (page : BitVec 28) (source : BitVec 2) {s : State} (h_s : Keeps z0 s) :
    OutKeeps z0 (execPromotionStart p object page source s) := by
  unfold execPromotionStart
  dsimp only
  repeat' first
    | with_reducible assumption
    | with_reducible apply outNext
    | intro _
    | with_reducible apply modPart_keeps
    | with_reducible apply holdRequest_keeps
    | with_reducible apply endHolds_keeps
    | with_reducible apply queueMig_keeps
    | with_reducible apply startMigration_keeps
    | with_reducible apply keeps_foldl
    | with_reducible apply outIte
    | split
    | refine keeps_snd (by with_reducible assumption) ?_

theorem execPromotionStepDone_keeps {z0 : State} (p : BitVec 4) (object : BitVec 10) (page : BitVec 28) {s : State} (h_s : Keeps z0 s) :
    OutKeeps z0 (execPromotionStepDone p object page s) := by
  unfold execPromotionStepDone
  dsimp only
  iterate 2
    all_goals repeat' first
      | with_reducible assumption
      | with_reducible apply outNext
      | with_reducible apply modPart_keeps
      | with_reducible apply putMapEntry_keeps
      | with_reducible apply clearPoison_keeps
      | with_reducible apply releasePage_keeps
      | with_reducible apply issueRead_keeps
      | with_reducible apply modObject_keeps
      | with_reducible apply modMig_keeps
      | with_reducible apply freeMig_keeps
      | with_reducible apply recallPage_keeps
      | with_reducible apply startQueued_keeps
      | with_reducible apply outIte
      | split
    all_goals try with_reducible apply keeps_mk
    all_goals try first
      | with_reducible exact id
      | with_reducible exact Nat.le_refl _
      | with_reducible exact memPutBytes_wf _ _

theorem execDemotionStepDone_keeps {z0 : State} (p : BitVec 4) (object : BitVec 10) (page : BitVec 28) {s : State} (h_s : Keeps z0 s) :
    OutKeeps z0 (execDemotionStepDone p object page s) := by
  unfold execDemotionStepDone
  dsimp only
  iterate 2
    all_goals repeat' first
      | with_reducible assumption
      | with_reducible apply outNext
      | with_reducible apply hostWrite_keeps
      | with_reducible apply modPart_keeps
      | with_reducible apply putMapEntry_keeps
      | with_reducible apply releasePage_keeps
      | with_reducible apply issueRead_keeps
      | with_reducible apply modObject_keeps
      | with_reducible apply modMig_keeps
      | with_reducible apply freeMig_keeps
      | with_reducible apply recallPage_keeps
      | with_reducible apply giveFrames_keeps
      | with_reducible apply startQueued_keeps
      | with_reducible apply outIte
      | split
    all_goals try with_reducible apply keeps_mk
    all_goals try first
      | with_reducible exact id
      | with_reducible exact Nat.le_refl _

theorem execMigrationRetryTimer_keeps {z0 : State} (p : BitVec 4) (object : BitVec 10) (page : BitVec 28) {s : State} (h_s : Keeps z0 s) :
    OutKeeps z0 (execMigrationRetryTimer p object page s) := by
  unfold execMigrationRetryTimer
  dsimp only
  repeat' first
    | with_reducible assumption
    | with_reducible apply outNext
    | with_reducible apply freeMig_keeps
    | with_reducible apply startMigration_keeps
    | with_reducible apply startQueued_keeps
    | with_reducible apply outIte
    | split

theorem execPatrolScrub_keeps {z0 : State} (addr : BitVec 56) (outcome : BitVec 2) {s : State} (h_s : Keeps z0 s) :
    OutKeeps z0 (execPatrolScrub addr outcome s) := by
  unfold execPatrolScrub
  dsimp only
  repeat' first
    | with_reducible assumption
    | with_reducible apply outNext
    | with_reducible apply modChannel_keeps
    | with_reducible apply poisonLine_keeps
    | with_reducible apply logError_keeps
    | with_reducible apply keepsIte
    | with_reducible apply outIte

end Sys2Proof.Machine
end

