-- ==== Sys2Proof/Laws/KeepsCoreMove.lean ====
section
/-! SUPPORT. What the operations of Machine/CoreMove.lean keep. -/

namespace Sys2Proof.Machine

theorem chargeRange_keeps {z0 : State} {s : State} (q pos a n : Nat) (write : Bool) (h_s : Keeps z0 s) :
    Keeps z0 (chargeRange s q pos a n write) := by
  unfold chargeRange
  repeat' first
    | with_reducible assumption
    | intro _
    | with_reducible apply countChannel_keeps
    | with_reducible apply modCmd_keeps
    | with_reducible apply keeps_foldl
    | split

theorem chargePieces_keeps {z0 : State} {s : State} (q pos : Nat) (l : List (Nat × Nat)) (write : Bool) (h_s : Keeps z0 s) :
    Keeps z0 (chargePieces s q pos l write) := by
  unfold chargePieces
  repeat' first
    | with_reducible assumption
    | intro _
    | with_reducible apply chargeRange_keeps
    | with_reducible apply keeps_foldl

theorem execLxDma_keeps {z0 : State} (core : CoreId) (rd rs1 : BitVec 5) {s : State} (h_s : Keeps z0 s) :
    OutKeeps z0 (execLxDma core rd rs1 s) := by
  unfold execLxDma
  dsimp only
  repeat' first
    | with_reducible assumption
    | with_reducible apply issueHold
    | with_reducible apply issueStop
    | with_reducible apply outNext
    | intro _
    | with_reducible apply issue_keeps
    | with_reducible apply onCore_keeps
    | with_reducible apply issueIte

theorem execLxDwait_keeps {z0 : State} (core : CoreId) (rs1 : BitVec 5) {s : State} (h_s : Keeps z0 s) :
    OutKeeps z0 (execLxDwait core rs1 s) := by
  unfold execLxDwait
  repeat' first
    | with_reducible assumption
    | with_reducible apply outNext
    | intro _
    | with_reducible apply issue_keeps
    | with_reducible apply onCore_keeps

theorem execLxDfence_keeps {z0 : State} (core : CoreId) {s : State} (h_s : Keeps z0 s) :
    OutKeeps z0 (execLxDfence core s) := by
  unfold execLxDfence
  repeat' first
    | with_reducible assumption
    | with_reducible apply outNext
    | intro _
    | with_reducible apply issue_keeps
    | with_reducible apply onCore_keeps

theorem execLxBarC_keeps {z0 : State} (core : CoreId) (id : BitVec 3) {s : State} (h_s : Keeps z0 s) :
    OutKeeps z0 (execLxBarC core id s) := by
  unfold execLxBarC
  dsimp only
  repeat' first
    | with_reducible assumption
    | with_reducible apply outNext
    | intro _
    | with_reducible apply issue_keeps
    | with_reducible apply onCore_keeps

theorem execLxBarD_keeps {z0 : State} (core : CoreId) (id : BitVec 3) {s : State} (h_s : Keeps z0 s) :
    OutKeeps z0 (execLxBarD core id s) := by
  unfold execLxBarD
  dsimp only
  repeat' first
    | with_reducible assumption
    | with_reducible apply outNext
    | intro _
    | with_reducible apply issue_keeps
    | with_reducible apply onCore_keeps

theorem execLxEnd_keeps {z0 : State} (core : CoreId) (rs1 : BitVec 5) {s : State} (h_s : Keeps z0 s) :
    OutKeeps z0 (execLxEnd core rs1 s) := by
  unfold execLxEnd
  repeat' first
    | with_reducible assumption
    | with_reducible apply outNext
    | intro _
    | with_reducible apply issue_keeps
    | with_reducible apply onCore_keeps

theorem execBarrierRelease_keeps {z0 : State} (die : Bool) (core : CoreId) (id : BitVec 3) {s : State} (h_s : Keeps z0 s) :
    OutKeeps z0 (execBarrierRelease die core id s) := by
  unfold execBarrierRelease
  dsimp only
  repeat' first
    | with_reducible assumption
    | with_reducible apply outNext
    | intro _
    | with_reducible apply modCore_keeps
    | with_reducible apply keeps_foldl
    | with_reducible apply outIte

theorem moveDma_keeps {z0 : State} {s : State} (k : Nat) (d : Dma) (h_s : Keeps z0 s) :
    DmaAnswer.Keeps z0 (moveDma s k d) := by
  unfold moveDma
  dsimp only
  repeat' first
    | with_reducible assumption
    | with_reducible apply dmaFaults
    | with_reducible apply dmaWaits
    | with_reducible apply dmaMoved
    | intro _
    | with_reducible apply failAccess_keeps
    | with_reducible apply writePieces_keeps
    | with_reducible apply iommuFault_keeps
    | with_reducible apply tierReady_keeps
    | with_reducible apply logPoison_keeps
    | with_reducible apply chargePieces_keeps
    | with_reducible apply keeps_foldl
    | split
    | refine keeps_ready (by with_reducible assumption) ?_
    | refine keeps_held (by with_reducible assumption) ?_
    | refine keeps_bad (by with_reducible assumption) ?_

theorem execDmaComplete_keeps {z0 : State} (core : CoreId) (tag : Word32) {s : State} (h_s : Keeps z0 s) :
    OutKeeps z0 (execDmaComplete core tag s) := by
  unfold execDmaComplete
  dsimp only
  repeat' first
    | with_reducible assumption
    | with_reducible apply outNext
    | with_reducible apply modCore_keeps
    | with_reducible apply stopCore_keeps
    | with_reducible apply moveDma_keeps
    | with_reducible apply outIte
    | split
    | refine keeps_moved (by with_reducible assumption) ?_
    | refine keeps_waits (by with_reducible assumption) ?_
    | refine keeps_faults (by with_reducible assumption) ?_

theorem addBusy_keeps {z0 : State} {s : State} (p : Nat) (c : Cmd) (core cycles : Nat) (h_s : Keeps z0 s) :
    Keeps z0 (addBusy s p c core cycles) := by
  unfold addBusy
  dsimp only
  repeat' first
    | with_reducible assumption
    | with_reducible apply modJob_keeps

theorem execCoreProgramEnded_keeps {z0 : State} (core : CoreId) {s : State} (h_s : Keeps z0 s) :
    OutKeeps z0 (execCoreProgramEnded core s) := by
  unfold execCoreProgramEnded
  dsimp only
  repeat' first
    | with_reducible assumption
    | with_reducible apply outNext
    | with_reducible apply setCore_keeps
    | with_reducible apply modCmd_keeps
    | with_reducible apply finishCmd_keeps
    | with_reducible apply addBusy_keeps
    | with_reducible apply outIte
    | split

end Sys2Proof.Machine
end

