-- ==== Sys2Proof/Laws/KeepsTables.lean ====
section
/-! SUPPORT. What the operations of Machine/Tables.lean keep. -/

namespace Sys2Proof.Machine

theorem modTable_keeps {z0 : State} {s : State} (p id : Nat) (f : EmbTable → EmbTable) (h_s : Keeps z0 s) :
    Keeps z0 (modTable s p id f) := by
  unfold modTable
  repeat' first
    | with_reducible assumption
    | with_reducible apply modJob_keeps

theorem putRelayout_keeps {z0 : State} {s : State} (r : Relayout) (h_s : Keeps z0 s) :
    Keeps z0 (putRelayout s r) := by
  unfold putRelayout
  dsimp only
  repeat' first
    | with_reducible assumption
    | with_reducible apply cohWrite_keeps

theorem putRegion_keeps {z0 : State} {s : State} (r : Relayout) (j : Nat) (h_s : Keeps z0 s) :
    Keeps z0 (putRegion s r j) := by
  unfold putRegion
  repeat' first
    | with_reducible assumption
    | with_reducible apply cohWrite_keeps
    | split

theorem setRelayout_keeps {z0 : State} {s : State} (p id : Nat) (r : Relayout) (h_s : Keeps z0 s) :
    Keeps z0 (setRelayout s p id r) := by
  unfold setRelayout
  repeat' first
    | with_reducible assumption
    | with_reducible apply modTable_keeps
    | with_reducible apply putRelayout_keeps

theorem modRegionEntry_keeps {z0 : State} {s : State} (p id j : Nat) (f : Region → Region) (h_s : Keeps z0 s) :
    Keeps z0 (modRegionEntry s p id j f) := by
  unfold modRegionEntry
  dsimp only
  repeat' first
    | with_reducible assumption
    | with_reducible apply modTable_keeps
    | with_reducible apply putRegion_keeps
    | split

theorem restartRegion_keeps {z0 : State} {s : State} (p id j : Nat) (h_s : Keeps z0 s) :
    Keeps z0 (restartRegion s p id j) := by
  unfold restartRegion
  dsimp only
  repeat' first
    | with_reducible assumption
    | with_reducible apply modChannel_keeps
    | with_reducible apply modRegionEntry_keeps
    | with_reducible apply keepsIte
    | split

theorem restartTouched_keeps {z0 : State} {s : State} (p a n : Nat) (h_s : Keeps z0 s) :
    Keeps z0 (restartTouched s p a n) := by
  unfold restartTouched
  repeat' first
    | with_reducible assumption
    | intro _
    | with_reducible apply restartRegion_keeps
    | with_reducible apply keeps_foldl
    | with_reducible apply keepsIte
    | split

theorem switchRegions_keeps {z0 : State} {s : State} (p id : Nat) (h_s : Keeps z0 s) :
    Keeps z0 (switchRegions s p id) := by
  unfold switchRegions
  dsimp only
  repeat' first
    | with_reducible assumption
    | intro _
    | with_reducible apply cohWrite_keeps
    | with_reducible apply journalOutcome_keeps
    | with_reducible apply modTable_keeps
    | with_reducible apply putRelayout_keeps
    | with_reducible apply setRelayout_keeps
    | with_reducible apply keeps_foldl
    | with_reducible apply keepsIte
    | split

theorem switchPoint_keeps {z0 : State} {s : State} (p id : Nat) (h_s : Keeps z0 s) :
    Keeps z0 (switchPoint s p id) := by
  unfold switchPoint
  repeat' first
    | with_reducible assumption
    | with_reducible apply switchRegions_keeps
    | with_reducible apply keepsIte

theorem switchTables_keeps {z0 : State} {s : State} (p : Nat) (h_s : Keeps z0 s) :
    Keeps z0 (switchTables s p) := by
  unfold switchTables
  repeat' first
    | with_reducible assumption
    | intro _
    | with_reducible apply switchPoint_keeps
    | with_reducible apply keeps_foldl
    | split

theorem repairRelayout_keeps {z0 : State} {s : State} (p id : Nat) (h_s : Keeps z0 s) :
    Keeps z0 (repairRelayout s p id) := by
  unfold repairRelayout
  dsimp only
  repeat' first
    | with_reducible assumption
    | with_reducible apply setRelayout_keeps
    | split

end Sys2Proof.Machine
end

