-- ==== Sys2Proof/Laws/KeepsCommands.lean ====
section
/-! SUPPORT. What the operations of Machine/Commands.lean keep. -/

namespace Sys2Proof.Machine

theorem runCmd_keeps {z0 : State} {s : State} (q pos op : Nat) (f : Queue → Cmd → State) (h_f : ∀ y0 y1, Keeps z0 (f y0 y1)) (h_s : Keeps z0 s) :
    Keeps z0 (runCmd s q pos op f) := by
  unfold runCmd
  repeat' first
    | with_reducible assumption
    | with_reducible apply h_f
    | with_reducible apply keepsIte
    | split

theorem cmdRead_keeps {z0 : State} {s : State} (q pos a n : Nat) (h_s : Keeps z0 s) :
    CmdIo.Keeps z0 (cmdRead s q pos a n) := by
  unfold cmdRead
  dsimp only
  repeat' first
    | with_reducible assumption
    | with_reducible apply ioEnded
    | with_reducible apply ioHeld
    | with_reducible apply ioOk
    | with_reducible apply failAccess_keeps
    | with_reducible apply endCmd_keeps
    | with_reducible apply iommuFault_keeps
    | with_reducible apply tierReady_keeps
    | with_reducible apply logPoison_keeps
    | with_reducible apply chargePieces_keeps
    | split
    | refine keeps_ready (by with_reducible assumption) ?_
    | refine keeps_held (by with_reducible assumption) ?_
    | refine keeps_bad (by with_reducible assumption) ?_

theorem cmdWrite_keeps {z0 : State} {s : State} (q pos a : Nat) (bs : List Byte) (h_s : Keeps z0 s) :
    CmdIo.Keeps z0 (cmdWrite s q pos a bs) := by
  unfold cmdWrite
  dsimp only
  repeat' first
    | with_reducible assumption
    | with_reducible apply ioEnded
    | with_reducible apply ioHeld
    | with_reducible apply ioOk
    | with_reducible apply failAccess_keeps
    | with_reducible apply endCmd_keeps
    | with_reducible apply writePieces_keeps
    | with_reducible apply iommuFault_keeps
    | with_reducible apply tierReady_keeps
    | with_reducible apply chargePieces_keeps
    | split
    | refine keeps_ready (by with_reducible assumption) ?_
    | refine keeps_held (by with_reducible assumption) ?_
    | refine keeps_bad (by with_reducible assumption) ?_

theorem CmdIo_bind_keeps {s0 : State} (x : CmdIo) (f : State → List Byte → State)
    (hf : ∀ t b, Keeps s0 t → Keeps s0 (f t b)) (h : CmdIo.Keeps s0 x) : Keeps s0 (x.bind f) := by
  cases h with
  | ok h => exact hf _ _ h
  | held h => exact h
  | ended h => exact h

theorem CmdIo_andThen_keeps {s0 : State} (x : CmdIo) (f : State → List Byte → CmdIo)
    (hf : ∀ t b, Keeps s0 t → CmdIo.Keeps s0 (f t b)) (h : CmdIo.Keeps s0 x) : CmdIo.Keeps s0 (x.andThen f) := by
  cases h with
  | ok h => exact hf _ _ h
  | held h => exact .held h
  | ended h => exact .ended h

theorem ioFold_keeps {a : Type} {s0 : State} {f : State → a → CmdIo} (hf : ∀ t x, Keeps s0 t → CmdIo.Keeps s0 (f t x)) {s : State}
    (l : List a) (h : Keeps s0 s) : CmdIo.Keeps s0 (ioFold f s l) := by
  induction l generalizing s with
  | nil => exact .ok h
  | cons x l ih => exact CmdIo_andThen_keeps _ _ (fun t _ ht => ih ht) (hf s x h)

theorem cmdReads_keeps {s0 s : State} (q pos : Nat) (l : List (Nat × Nat)) (acc : List (List Byte)) (h : Keeps s0 s) :
    CmdIo.Keeps s0 (cmdReads q pos s l acc).1 := by
  induction l generalizing s acc with
  | nil => exact .ok h
  | cons e l ih =>
    have k := cmdRead_keeps q pos e.1 e.2 h
    unfold cmdReads
    split
    · exact ih _ (keeps_ok (by assumption) k)
    · exact k

theorem cmdWrites_keeps {s0 s : State} (q pos : Nat) (l : List (Nat × List Byte)) (h : Keeps s0 s) :
    CmdIo.Keeps s0 (cmdWrites q pos s l) := by
  induction l generalizing s with
  | nil => exact .ok h
  | cons e l ih =>
    have k := cmdWrite_keeps q pos e.1 e.2 h
    unfold cmdWrites
    split
    · exact ih (keeps_ok (by assumption) k)
    · exact k

theorem execCopy_keeps {z0 : State} (q : BitVec 12) (pos : BitVec 32) {s : State} (h_s : Keeps z0 s) :
    OutKeeps z0 (execCopy q pos s) := by
  unfold execCopy
  repeat' first
    | with_reducible assumption
    | with_reducible apply outNext
    | intro _
    | with_reducible apply finishCmd_keeps
    | with_reducible apply restartTouched_keeps
    | with_reducible apply runCmd_keeps
    | with_reducible apply cmdRead_keeps
    | with_reducible apply cmdWrite_keeps
    | with_reducible apply keepsIte
    | split
    | refine keeps_ok (by with_reducible assumption) ?_
    | refine keeps_heldIo (by with_reducible assumption) ?_
    | refine keeps_ended (by with_reducible assumption) ?_

theorem execFill_keeps {z0 : State} (q : BitVec 12) (pos : BitVec 32) {s : State} (h_s : Keeps z0 s) :
    OutKeeps z0 (execFill q pos s) := by
  unfold execFill
  repeat' first
    | with_reducible assumption
    | with_reducible apply outNext
    | intro _
    | with_reducible apply finishCmd_keeps
    | with_reducible apply restartTouched_keeps
    | with_reducible apply runCmd_keeps
    | with_reducible apply cmdWrite_keeps
    | with_reducible apply keepsIte
    | split
    | refine keeps_ok (by with_reducible assumption) ?_
    | refine keeps_heldIo (by with_reducible assumption) ?_
    | refine keeps_ended (by with_reducible assumption) ?_

theorem applySignal_keeps {z0 : State} {s : State} (p : Nat) (q : Nat) (c : Cmd) (h_s : Keeps z0 s) :
    Keeps z0 (applySignal s p q c) := by
  unfold applySignal
  dsimp only
  repeat' first
    | with_reducible assumption
    | with_reducible apply modPart_keeps
    | with_reducible apply writePieces_keeps
    | with_reducible apply keepsIte
    | split

theorem execSignalAdd_keeps {z0 : State} (q : BitVec 12) (pos : BitVec 32) {s : State} (h_s : Keeps z0 s) :
    OutKeeps z0 (execSignalAdd q pos s) := by
  unfold execSignalAdd
  repeat' first
    | with_reducible assumption
    | with_reducible apply outNext
    | intro _
    | with_reducible apply finishCmd_keeps
    | with_reducible apply runCmd_keeps
    | with_reducible apply keepsIte

theorem execSignalSet_keeps {z0 : State} (q : BitVec 12) (pos : BitVec 32) {s : State} (h_s : Keeps z0 s) :
    OutKeeps z0 (execSignalSet q pos s) := by
  unfold execSignalSet
  repeat' first
    | with_reducible assumption
    | with_reducible apply outNext
    | intro _
    | with_reducible apply finishCmd_keeps
    | with_reducible apply runCmd_keeps
    | with_reducible apply keepsIte

theorem execWait_keeps {z0 : State} (q : BitVec 12) (pos : BitVec 32) {s : State} (h_s : Keeps z0 s) :
    OutKeeps z0 (execWait q pos s) := by
  unfold execWait
  repeat' first
    | with_reducible assumption
    | with_reducible apply outNext
    | intro _
    | with_reducible apply finishCmd_keeps
    | with_reducible apply runCmd_keeps
    | with_reducible apply keepsIte

theorem execWaitDeadline_keeps {z0 : State} (q : BitVec 12) (pos : BitVec 32) {s : State} (h_s : Keeps z0 s) :
    OutKeeps z0 (execWaitDeadline q pos s) := by
  unfold execWaitDeadline
  dsimp only
  repeat' first
    | with_reducible assumption
    | with_reducible apply outNext
    | intro _
    | with_reducible apply endCmd_keeps
    | with_reducible apply runCmd_keeps
    | with_reducible apply keepsIte

theorem execFence_keeps {z0 : State} (q : BitVec 12) (pos : BitVec 32) {s : State} (h_s : Keeps z0 s) :
    OutKeeps z0 (execFence q pos s) := by
  unfold execFence
  repeat' first
    | with_reducible assumption
    | with_reducible apply outNext
    | intro _
    | with_reducible apply finishCmd_keeps
    | with_reducible apply runCmd_keeps
    | with_reducible apply keepsIte

theorem discardRange_keeps {z0 : State} {s : State} (a n : Nat) (h_s : Keeps z0 s) :
    Keeps z0 (discardRange s a n) := by
  unfold discardRange
  repeat' first
    | with_reducible assumption
    | intro _
    | with_reducible apply dropCopies_keeps
    | with_reducible apply refreshFlights_keeps
    | with_reducible apply keeps_foldl
    | with_reducible apply keepsIte

theorem modRegion_keeps {z0 : State} {s : State} (fn i : Nat) (f : Placement → Placement) (h_s : Keeps z0 s) :
    Keeps z0 (modRegion s fn i f) := by
  unfold modRegion
  repeat' first
    | with_reducible assumption
    | with_reducible apply modFunc_keeps

theorem acceptPlaced_keeps {z0 : State} {s : State} (p : Nat) (r : Placement) (c : Cmd) (h_s : Keeps z0 s) :
    Keeps z0 (acceptPlaced s p r c) := by
  unfold acceptPlaced
  dsimp only
  repeat' first
    | with_reducible assumption
    | with_reducible apply journalWrite_keeps
    | with_reducible apply discardRange_keeps

theorem execAcceptPlaced_keeps {z0 : State} (q : BitVec 12) (pos : BitVec 32) {s : State} (h_s : Keeps z0 s) :
    OutKeeps z0 (execAcceptPlaced q pos s) := by
  unfold execAcceptPlaced
  dsimp only
  repeat' first
    | with_reducible assumption
    | with_reducible apply outNext
    | intro _
    | with_reducible apply endCmd_keeps
    | with_reducible apply finishCmd_keeps
    | with_reducible apply runCmd_keeps
    | with_reducible apply modRegion_keeps
    | with_reducible apply acceptPlaced_keeps
    | with_reducible apply keepsIte
    | split

theorem execAcceptPlacedDeadline_keeps {z0 : State} (q : BitVec 12) (pos : BitVec 32) {s : State} (h_s : Keeps z0 s) :
    OutKeeps z0 (execAcceptPlacedDeadline q pos s) := by
  unfold execAcceptPlacedDeadline
  dsimp only
  repeat' first
    | with_reducible assumption
    | with_reducible apply outNext
    | intro _
    | with_reducible apply endCmd_keeps
    | with_reducible apply runCmd_keeps
    | with_reducible apply keepsIte
    | split

end Sys2Proof.Machine
end

