-- ==== Sys2Proof/Laws/KeepsTransport.lean ====
section
/-! SUPPORT. What the operations of Machine/Transport.lean keep. -/

namespace Sys2Proof.Machine

theorem modFlow_keeps {z0 : State} {s : State} (fid : Nat) (f : Flow → Flow) (h_s : Keeps z0 s) :
    Keeps z0 (modFlow s fid f) := by
  unfold modFlow
  iterate 2
    all_goals repeat' first
      | with_reducible assumption
    all_goals try with_reducible apply keeps_mk
    all_goals try first
      | with_reducible exact id
      | with_reducible exact Nat.le_refl _

theorem emitFrame_keeps {z0 : State} {s : State} (port : Nat) (f : TFrame) (h_s : Keeps z0 s) :
    Keeps z0 (emitFrame s port f) := by
  unfold emitFrame
  dsimp only
  iterate 2
    all_goals repeat' first
      | with_reducible assumption
      | with_reducible apply modPort_keeps
      | with_reducible apply modColl_keeps
      | split
    all_goals try with_reducible apply keeps_mk
    all_goals try first
      | with_reducible exact id
      | with_reducible exact Nat.le_refl _

theorem sendControl_keeps {z0 : State} {s : State} (fid type : Nat) (h_s : Keeps z0 s) :
    Keeps z0 (sendControl s fid type) := by
  unfold sendControl
  repeat' first
    | with_reducible assumption
    | with_reducible apply emitFrame_keeps
    | split

theorem sendControlAll_keeps {z0 : State} {s : State} (fid type : Nat) (h_s : Keeps z0 s) :
    Keeps z0 (sendControlAll s fid type) := by
  unfold sendControlAll
  repeat' first
    | with_reducible assumption
    | intro _
    | with_reducible apply emitFrame_keeps
    | with_reducible apply keeps_foldl
    | split

theorem sendAck_keeps {z0 : State} {s : State} (fid : Nat) (h_s : Keeps z0 s) :
    Keeps z0 (sendAck s fid) := by
  unfold sendAck
  repeat' first
    | with_reducible assumption
    | with_reducible apply modFlow_keeps
    | with_reducible apply sendControl_keeps

theorem pumpFlow_keeps {z0 : State}  (a0 : Nat) {a1 : State} (a2 : Nat) (h_s : Keeps z0 a1) :
    Keeps z0 (pumpFlow a0 a1 a2) := by
  induction a0 generalizing a1 a2 with
  | zero =>
    unfold pumpFlow
    repeat' with_reducible assumption
  | succ n ih =>
    unfold pumpFlow
    dsimp only
    repeat' first
      | with_reducible assumption
      | with_reducible apply ih
      | with_reducible apply modFlow_keeps
      | with_reducible apply emitFrame_keeps
      | with_reducible apply keepsIte
      | split

theorem pump_keeps {z0 : State} {s : State} (fid : Nat) (h_s : Keeps z0 s) :
    Keeps z0 (pump s fid) := by
  unfold pump
  repeat' first
    | with_reducible assumption
    | with_reducible apply pumpFlow_keeps

theorem resendPsn_keeps {z0 : State} {s : State} (fid psn : Nat) (h_s : Keeps z0 s) :
    Keeps z0 (resendPsn s fid psn) := by
  unfold resendPsn
  dsimp only
  repeat' first
    | with_reducible assumption
    | with_reducible apply modPort_keeps
    | with_reducible apply modFlow_keeps
    | with_reducible apply emitFrame_keeps
    | split

theorem flowRoom_keeps {z0 : State} {s : State} (p : Nat) (h_s : Keeps z0 s) :
    OptKeeps z0 (flowRoom s p) := by
  unfold flowRoom
  dsimp only
  iterate 2
    all_goals repeat' first
      | with_reducible assumption
      | with_reducible apply optNone
      | with_reducible apply optSome
      | with_reducible apply sendControl_keeps
      | with_reducible apply optIte
      | split
    all_goals try with_reducible apply keeps_mk
    all_goals try first
      | with_reducible exact id
      | with_reducible exact Nat.le_refl _

theorem openFlow_keeps {z0 : State} {s : State} (p m : Nat) (h_s : Keeps z0 s) :
    FlowKeeps z0 (openFlow s p m) := by
  unfold openFlow
  dsimp only
  iterate 2
    all_goals repeat' first
      | with_reducible assumption
      | with_reducible apply flowNone
      | with_reducible apply flowSome
      | with_reducible apply sendControl_keeps
      | with_reducible apply flowRoom_keeps
      | split
      | refine keeps_some (by with_reducible assumption) ?_
    all_goals try with_reducible apply keeps_mk
    all_goals try first
      | with_reducible exact id
      | with_reducible exact Nat.le_refl _

theorem sendMessage_keeps {z0 : State} {s : State} (p m cls tag op seq round : Nat) (body : List Byte) (h_s : Keeps z0 s) :
    SendKeeps z0 (sendMessage s p m cls tag op seq round body) := by
  unfold sendMessage
  dsimp only
  repeat' first
    | with_reducible assumption
    | with_reducible apply sentError
    | with_reducible apply sentOk
    | with_reducible apply modFlow_keeps
    | with_reducible apply pump_keeps
    | with_reducible apply openFlow_keeps
    | split
    | refine keeps_flow (by with_reducible assumption) ?_

theorem sendOr_keeps {z0 : State} {s : State} (p m cls tag op seq round : Nat) (body : List Byte) (h_s : Keeps z0 s) :
    Keeps z0 (sendOr s p m cls tag op seq round body) := by
  unfold sendOr
  repeat' first
    | with_reducible assumption
    | with_reducible apply sendMessage_keeps
    | split
    | refine keeps_sent (by with_reducible assumption) ?_

theorem takeAck_keeps {z0 : State} {s : State} (fid : Nat) (x : TFrame) (h_s : Keeps z0 s) :
    Keeps z0 (takeAck s fid x) := by
  unfold takeAck
  dsimp only
  repeat' first
    | with_reducible assumption
    | intro _
    | with_reducible apply modFlow_keeps
    | with_reducible apply pump_keeps
    | with_reducible apply resendPsn_keeps
    | with_reducible apply keeps_foldl
    | split

theorem laggard_keeps {z0 : State} {s : State} (p q tag peer cause plane lagPm n seq wait total : Nat) (h_s : Keeps z0 s) :
    Keeps z0 (laggard s p q tag peer cause plane lagPm n seq wait total) := by
  unfold laggard
  dsimp only
  repeat' first
    | with_reducible assumption
    | with_reducible apply modJob_keeps
    | with_reducible apply modColl_keeps
    | with_reducible apply telemetryPf0_keeps
    | with_reducible apply telemetryQueue_keeps
    | with_reducible apply keepsIte

end Sys2Proof.Machine
end

