-- ==== Sys2Proof/Laws/KeepsScalar.lean ====
section
/-! SUPPORT. What the operations of Machine/Scalar.lean keep. -/

namespace Sys2Proof.Machine

theorem execWord_keeps {z0 : State} {s : State} (k : Nat) (w : Nat) (next : Word32) (h_s : Keeps z0 s) :
    Issue.Keeps z0 (execWord s k w next) := by
  unfold execWord
  dsimp only
  repeat' first
    | with_reducible assumption
    | with_reducible apply issueHold
    | with_reducible apply issueStop
    | with_reducible apply issueRetire
    | with_reducible apply windowWrite_keeps
    | with_reducible apply onCore_keeps
    | with_reducible apply issueIte
    | split

theorem rv32imc_keeps {z0 : State} {s : State} (k : Nat) (word : Word32) (h_s : Keeps z0 s) :
    Keeps z0 (rv32imc s k word) := by
  unfold rv32imc
  dsimp only
  repeat' first
    | with_reducible assumption
    | with_reducible apply issueHold
    | with_reducible apply issueStop
    | intro _
    | with_reducible apply issue_keeps
    | with_reducible apply execWord_keeps
    | with_reducible apply issueIte
    | split

theorem execRv32imcInstruction_keeps {z0 : State} (core : CoreId) (word : Word32) {s : State} (h_s : Keeps z0 s) :
    OutKeeps z0 (execRv32imcInstruction core word s) := by
  unfold execRv32imcInstruction
  repeat' first
    | with_reducible assumption
    | with_reducible apply outNext
    | with_reducible apply rv32imc_keeps

theorem zicsr_keeps {z0 : State} {s : State} (k f3 csr : Nat) (rs1 rd : BitVec 5) (h_s : Keeps z0 s) :
    Keeps z0 (zicsr s k f3 csr rs1 rd) := by
  unfold zicsr
  dsimp only
  repeat' first
    | with_reducible assumption
    | with_reducible apply issueHold
    | with_reducible apply issueStop
    | intro _
    | with_reducible apply issue_keeps
    | with_reducible apply onCore_keeps
    | with_reducible apply issueIte
    | split

theorem execZicsrAccess_keeps {z0 : State} (core : CoreId) (funct3 : BitVec 3) (csr : BitVec 12) (rs1 rd : BitVec 5) {s : State} (h_s : Keeps z0 s) :
    OutKeeps z0 (execZicsrAccess core funct3 csr rs1 rd s) := by
  unfold execZicsrAccess
  repeat' first
    | with_reducible assumption
    | with_reducible apply outNext
    | with_reducible apply zicsr_keeps

theorem execEcall_keeps {z0 : State} (core : CoreId) {s : State} (h_s : Keeps z0 s) :
    OutKeeps z0 (execEcall core s) := by
  unfold execEcall
  repeat' first
    | with_reducible assumption
    | with_reducible apply issueStop
    | with_reducible apply outNext
    | intro _
    | with_reducible apply issue_keeps

theorem execEbreak_keeps {z0 : State} (core : CoreId) (compressed : Bool) {s : State} (h_s : Keeps z0 s) :
    OutKeeps z0 (execEbreak core compressed s) := by
  unfold execEbreak
  repeat' first
    | with_reducible assumption
    | with_reducible apply issueStop
    | with_reducible apply outNext
    | intro _
    | with_reducible apply issue_keeps

end Sys2Proof.Machine
end

