-- ==== Sys2Proof/Laws/KeepsVector.lean ====
section
/-! SUPPORT. What the operations of Machine/Vector.lean keep. -/

namespace Sys2Proof.Machine

theorem vecIssue_keeps {z0 : State} {s : State} (k : Nat) (word : Word32) (ok : Core → Bool) (f : Core → Core) (h_s : Keeps z0 s) :
    Keeps z0 (vecIssue s k word ok f) := by
  unfold vecIssue
  repeat' first
    | with_reducible assumption
    | with_reducible apply issueStop
    | intro _
    | with_reducible apply issue_keeps
    | with_reducible apply onCore_keeps
    | with_reducible apply issueIte

theorem vecArith_keeps {z0 : State} {s : State} (k op ety md : Nat) (kind : Bool) (vd vs1 vs2 : BitVec 5) (h_s : Keeps z0 s) :
    Keeps z0 (vecArith s k op ety md kind vd vs1 vs2) := by
  unfold vecArith
  repeat' first
    | with_reducible assumption
    | with_reducible apply vecIssue_keeps
    | with_reducible apply keepsIte

theorem execLxVadd_keeps {z0 : State} (core : CoreId) (ety : BitVec 3) (md : BitVec 2) (vd vs1 vs2 : BitVec 5) {s : State} (h_s : Keeps z0 s) :
    OutKeeps z0 (execLxVadd core ety md vd vs1 vs2 s) := by
  unfold execLxVadd
  repeat' first
    | with_reducible assumption
    | with_reducible apply outNext
    | with_reducible apply vecArith_keeps

theorem execLxVsub_keeps {z0 : State} (core : CoreId) (ety : BitVec 3) (md : BitVec 2) (vd vs1 vs2 : BitVec 5) {s : State} (h_s : Keeps z0 s) :
    OutKeeps z0 (execLxVsub core ety md vd vs1 vs2 s) := by
  unfold execLxVsub
  repeat' first
    | with_reducible assumption
    | with_reducible apply outNext
    | with_reducible apply vecArith_keeps

theorem execLxVmul_keeps {z0 : State} (core : CoreId) (ety : BitVec 3) (md : BitVec 2) (vd vs1 vs2 : BitVec 5) {s : State} (h_s : Keeps z0 s) :
    OutKeeps z0 (execLxVmul core ety md vd vs1 vs2 s) := by
  unfold execLxVmul
  repeat' first
    | with_reducible assumption
    | with_reducible apply outNext
    | with_reducible apply vecArith_keeps

theorem execLxVfma_keeps {z0 : State} (core : CoreId) (ety : BitVec 3) (md : BitVec 2) (vd vs1 vs2 : BitVec 5) {s : State} (h_s : Keeps z0 s) :
    OutKeeps z0 (execLxVfma core ety md vd vs1 vs2 s) := by
  unfold execLxVfma
  repeat' first
    | with_reducible assumption
    | with_reducible apply outNext
    | with_reducible apply vecArith_keeps

theorem execLxVfms_keeps {z0 : State} (core : CoreId) (ety : BitVec 3) (md : BitVec 2) (vd vs1 vs2 : BitVec 5) {s : State} (h_s : Keeps z0 s) :
    OutKeeps z0 (execLxVfms core ety md vd vs1 vs2 s) := by
  unfold execLxVfms
  repeat' first
    | with_reducible assumption
    | with_reducible apply outNext
    | with_reducible apply vecArith_keeps

theorem execLxVmin_keeps {z0 : State} (core : CoreId) (ety : BitVec 3) (md : BitVec 2) (vd vs1 vs2 : BitVec 5) {s : State} (h_s : Keeps z0 s) :
    OutKeeps z0 (execLxVmin core ety md vd vs1 vs2 s) := by
  unfold execLxVmin
  repeat' first
    | with_reducible assumption
    | with_reducible apply outNext
    | with_reducible apply vecArith_keeps

theorem execLxVmax_keeps {z0 : State} (core : CoreId) (ety : BitVec 3) (md : BitVec 2) (vd vs1 vs2 : BitVec 5) {s : State} (h_s : Keeps z0 s) :
    OutKeeps z0 (execLxVmax core ety md vd vs1 vs2 s) := by
  unfold execLxVmax
  repeat' first
    | with_reducible assumption
    | with_reducible apply outNext
    | with_reducible apply vecArith_keeps

theorem execLxVdiv_keeps {z0 : State} (core : CoreId) (ety : BitVec 3) (md : BitVec 2) (vd vs1 vs2 : BitVec 5) {s : State} (h_s : Keeps z0 s) :
    OutKeeps z0 (execLxVdiv core ety md vd vs1 vs2 s) := by
  unfold execLxVdiv
  repeat' first
    | with_reducible assumption
    | with_reducible apply outNext
    | with_reducible apply vecArith_keeps

theorem execLxVsqrt_keeps {z0 : State} (core : CoreId) (ety : BitVec 3) (vd vs1 vs2 : BitVec 5) {s : State} (h_s : Keeps z0 s) :
    OutKeeps z0 (execLxVsqrt core ety vd vs1 vs2 s) := by
  unfold execLxVsqrt
  repeat' first
    | with_reducible assumption
    | with_reducible apply outNext
    | with_reducible apply vecArith_keeps

theorem execLxVrem_keeps {z0 : State} (core : CoreId) (ety : BitVec 3) (md : BitVec 2) (vd vs1 vs2 : BitVec 5) {s : State} (h_s : Keeps z0 s) :
    OutKeeps z0 (execLxVrem core ety md vd vs1 vs2 s) := by
  unfold execLxVrem
  repeat' first
    | with_reducible assumption
    | with_reducible apply outNext
    | with_reducible apply vecArith_keeps

theorem execLxVrecip_keeps {z0 : State} (core : CoreId) (ety : BitVec 3) (vd vs1 vs2 : BitVec 5) {s : State} (h_s : Keeps z0 s) :
    OutKeeps z0 (execLxVrecip core ety vd vs1 vs2 s) := by
  unfold execLxVrecip
  repeat' first
    | with_reducible assumption
    | with_reducible apply outNext
    | with_reducible apply vecArith_keeps

theorem execLxVrsqrt_keeps {z0 : State} (core : CoreId) (ety : BitVec 3) (vd vs1 vs2 : BitVec 5) {s : State} (h_s : Keeps z0 s) :
    OutKeeps z0 (execLxVrsqrt core ety vd vs1 vs2 s) := by
  unfold execLxVrsqrt
  repeat' first
    | with_reducible assumption
    | with_reducible apply outNext
    | with_reducible apply vecArith_keeps

theorem execLxVexp_keeps {z0 : State} (core : CoreId) (ety : BitVec 3) (vd vs1 vs2 : BitVec 5) {s : State} (h_s : Keeps z0 s) :
    OutKeeps z0 (execLxVexp core ety vd vs1 vs2 s) := by
  unfold execLxVexp
  repeat' first
    | with_reducible assumption
    | with_reducible apply outNext
    | with_reducible apply vecArith_keeps

theorem execLxVexp2_keeps {z0 : State} (core : CoreId) (ety : BitVec 3) (vd vs1 vs2 : BitVec 5) {s : State} (h_s : Keeps z0 s) :
    OutKeeps z0 (execLxVexp2 core ety vd vs1 vs2 s) := by
  unfold execLxVexp2
  repeat' first
    | with_reducible assumption
    | with_reducible apply outNext
    | with_reducible apply vecArith_keeps

theorem execLxVlog_keeps {z0 : State} (core : CoreId) (ety : BitVec 3) (vd vs1 vs2 : BitVec 5) {s : State} (h_s : Keeps z0 s) :
    OutKeeps z0 (execLxVlog core ety vd vs1 vs2 s) := by
  unfold execLxVlog
  repeat' first
    | with_reducible assumption
    | with_reducible apply outNext
    | with_reducible apply vecArith_keeps

theorem execLxVlog2_keeps {z0 : State} (core : CoreId) (ety : BitVec 3) (vd vs1 vs2 : BitVec 5) {s : State} (h_s : Keeps z0 s) :
    OutKeeps z0 (execLxVlog2 core ety vd vs1 vs2 s) := by
  unfold execLxVlog2
  repeat' first
    | with_reducible assumption
    | with_reducible apply outNext
    | with_reducible apply vecArith_keeps

theorem execLxVand_keeps {z0 : State} (core : CoreId) (ety : BitVec 3) (vd vs1 vs2 : BitVec 5) {s : State} (h_s : Keeps z0 s) :
    OutKeeps z0 (execLxVand core ety vd vs1 vs2 s) := by
  unfold execLxVand
  repeat' first
    | with_reducible assumption
    | with_reducible apply outNext
    | with_reducible apply vecArith_keeps

theorem execLxVor_keeps {z0 : State} (core : CoreId) (ety : BitVec 3) (vd vs1 vs2 : BitVec 5) {s : State} (h_s : Keeps z0 s) :
    OutKeeps z0 (execLxVor core ety vd vs1 vs2 s) := by
  unfold execLxVor
  repeat' first
    | with_reducible assumption
    | with_reducible apply outNext
    | with_reducible apply vecArith_keeps

theorem execLxVxor_keeps {z0 : State} (core : CoreId) (ety : BitVec 3) (vd vs1 vs2 : BitVec 5) {s : State} (h_s : Keeps z0 s) :
    OutKeeps z0 (execLxVxor core ety vd vs1 vs2 s) := by
  unfold execLxVxor
  repeat' first
    | with_reducible assumption
    | with_reducible apply outNext
    | with_reducible apply vecArith_keeps

theorem execLxVsll_keeps {z0 : State} (core : CoreId) (ety : BitVec 3) (vd vs1 vs2 : BitVec 5) {s : State} (h_s : Keeps z0 s) :
    OutKeeps z0 (execLxVsll core ety vd vs1 vs2 s) := by
  unfold execLxVsll
  repeat' first
    | with_reducible assumption
    | with_reducible apply outNext
    | with_reducible apply vecArith_keeps

theorem execLxVsrl_keeps {z0 : State} (core : CoreId) (ety : BitVec 3) (vd vs1 vs2 : BitVec 5) {s : State} (h_s : Keeps z0 s) :
    OutKeeps z0 (execLxVsrl core ety vd vs1 vs2 s) := by
  unfold execLxVsrl
  repeat' first
    | with_reducible assumption
    | with_reducible apply outNext
    | with_reducible apply vecArith_keeps

theorem execLxVsra_keeps {z0 : State} (core : CoreId) (ety : BitVec 3) (vd vs1 vs2 : BitVec 5) {s : State} (h_s : Keeps z0 s) :
    OutKeeps z0 (execLxVsra core ety vd vs1 vs2 s) := by
  unfold execLxVsra
  repeat' first
    | with_reducible assumption
    | with_reducible apply outNext
    | with_reducible apply vecArith_keeps

theorem execLxVtanh_keeps {z0 : State} (core : CoreId) (ety : BitVec 3) (vd vs1 vs2 : BitVec 5) {s : State} (h_s : Keeps z0 s) :
    OutKeeps z0 (execLxVtanh core ety vd vs1 vs2 s) := by
  unfold execLxVtanh
  repeat' first
    | with_reducible assumption
    | with_reducible apply outNext
    | with_reducible apply vecArith_keeps

theorem execLxVsigmoid_keeps {z0 : State} (core : CoreId) (ety : BitVec 3) (vd vs1 vs2 : BitVec 5) {s : State} (h_s : Keeps z0 s) :
    OutKeeps z0 (execLxVsigmoid core ety vd vs1 vs2 s) := by
  unfold execLxVsigmoid
  repeat' first
    | with_reducible assumption
    | with_reducible apply outNext
    | with_reducible apply vecArith_keeps

theorem execLxVerf_keeps {z0 : State} (core : CoreId) (ety : BitVec 3) (vd vs1 vs2 : BitVec 5) {s : State} (h_s : Keeps z0 s) :
    OutKeeps z0 (execLxVerf core ety vd vs1 vs2 s) := by
  unfold execLxVerf
  repeat' first
    | with_reducible assumption
    | with_reducible apply outNext
    | with_reducible apply vecArith_keeps

theorem execLxVsin_keeps {z0 : State} (core : CoreId) (ety : BitVec 3) (vd vs1 vs2 : BitVec 5) {s : State} (h_s : Keeps z0 s) :
    OutKeeps z0 (execLxVsin core ety vd vs1 vs2 s) := by
  unfold execLxVsin
  repeat' first
    | with_reducible assumption
    | with_reducible apply outNext
    | with_reducible apply vecArith_keeps

theorem execLxVcos_keeps {z0 : State} (core : CoreId) (ety : BitVec 3) (vd vs1 vs2 : BitVec 5) {s : State} (h_s : Keeps z0 s) :
    OutKeeps z0 (execLxVcos core ety vd vs1 vs2 s) := by
  unfold execLxVcos
  repeat' first
    | with_reducible assumption
    | with_reducible apply outNext
    | with_reducible apply vecArith_keeps

theorem execLxVabs_keeps {z0 : State} (core : CoreId) (ety : BitVec 3) (md : BitVec 2) (vd vs1 vs2 : BitVec 5) {s : State} (h_s : Keeps z0 s) :
    OutKeeps z0 (execLxVabs core ety md vd vs1 vs2 s) := by
  unfold execLxVabs
  repeat' first
    | with_reducible assumption
    | with_reducible apply outNext
    | with_reducible apply vecArith_keeps

theorem execLxVneg_keeps {z0 : State} (core : CoreId) (ety : BitVec 3) (md : BitVec 2) (vd vs1 vs2 : BitVec 5) {s : State} (h_s : Keeps z0 s) :
    OutKeeps z0 (execLxVneg core ety md vd vs1 vs2 s) := by
  unfold execLxVneg
  repeat' first
    | with_reducible assumption
    | with_reducible apply outNext
    | with_reducible apply vecArith_keeps

theorem vecReduce_keeps {z0 : State} {s : State} (k op ety md : Nat) (kind : Bool) (vd vs1 vs2 : BitVec 5) (h_s : Keeps z0 s) :
    Keeps z0 (vecReduce s k op ety md kind vd vs1 vs2) := by
  unfold vecReduce
  repeat' first
    | with_reducible assumption
    | with_reducible apply vecIssue_keeps
    | with_reducible apply keepsIte

theorem execLxVredsum_keeps {z0 : State} (core : CoreId) (ety : BitVec 3) (md : BitVec 2) (vd vs1 vs2 : BitVec 5) {s : State} (h_s : Keeps z0 s) :
    OutKeeps z0 (execLxVredsum core ety md vd vs1 vs2 s) := by
  unfold execLxVredsum
  repeat' first
    | with_reducible assumption
    | with_reducible apply outNext
    | with_reducible apply vecReduce_keeps

theorem execLxVredmax_keeps {z0 : State} (core : CoreId) (ety : BitVec 3) (md : BitVec 2) (vd vs1 vs2 : BitVec 5) {s : State} (h_s : Keeps z0 s) :
    OutKeeps z0 (execLxVredmax core ety md vd vs1 vs2 s) := by
  unfold execLxVredmax
  repeat' first
    | with_reducible assumption
    | with_reducible apply outNext
    | with_reducible apply vecReduce_keeps

theorem execLxVredmin_keeps {z0 : State} (core : CoreId) (ety : BitVec 3) (md : BitVec 2) (vd vs1 vs2 : BitVec 5) {s : State} (h_s : Keeps z0 s) :
    OutKeeps z0 (execLxVredmin core ety md vd vs1 vs2 s) := by
  unfold execLxVredmin
  repeat' first
    | with_reducible assumption
    | with_reducible apply outNext
    | with_reducible apply vecReduce_keeps

theorem execLxVcntnf_keeps {z0 : State} (core : CoreId) (ety : BitVec 3) (rd vs1 vs2 : BitVec 5) {s : State} (h_s : Keeps z0 s) :
    OutKeeps z0 (execLxVcntnf core ety rd vs1 vs2 s) := by
  unfold execLxVcntnf
  repeat' first
    | with_reducible assumption
    | with_reducible apply outNext
    | with_reducible apply vecIssue_keeps
    | with_reducible apply keepsIte

theorem execLxVcmp_keeps {z0 : State} (core : CoreId) (ety : BitVec 3) (md cd : BitVec 2) (vs1 vs2 : BitVec 5) {s : State} (h_s : Keeps z0 s) :
    OutKeeps z0 (execLxVcmp core ety md cd vs1 vs2 s) := by
  unfold execLxVcmp
  dsimp only
  repeat' first
    | with_reducible assumption
    | with_reducible apply outNext
    | with_reducible apply vecIssue_keeps
    | with_reducible apply keepsIte

theorem execLxVmerge_keeps {z0 : State} (core : CoreId) (ety : BitVec 3) (cr : BitVec 2) (vd vs1 vs2 : BitVec 5) {s : State} (h_s : Keeps z0 s) :
    OutKeeps z0 (execLxVmerge core ety cr vd vs1 vs2 s) := by
  unfold execLxVmerge
  dsimp only
  repeat' first
    | with_reducible assumption
    | with_reducible apply outNext
    | with_reducible apply vecIssue_keeps
    | with_reducible apply keepsIte

theorem execLxVcompress_keeps {z0 : State} (core : CoreId) (ety : BitVec 3) (cr : BitVec 2) (vd vs1 : BitVec 5) {s : State} (h_s : Keeps z0 s) :
    OutKeeps z0 (execLxVcompress core ety cr vd vs1 s) := by
  unfold execLxVcompress
  dsimp only
  repeat' first
    | with_reducible assumption
    | with_reducible apply outNext
    | with_reducible apply vecIssue_keeps
    | with_reducible apply keepsIte

theorem execLxVexpand_keeps {z0 : State} (core : CoreId) (ety : BitVec 3) (cr : BitVec 2) (vd vs1 : BitVec 5) {s : State} (h_s : Keeps z0 s) :
    OutKeeps z0 (execLxVexpand core ety cr vd vs1 s) := by
  unfold execLxVexpand
  dsimp only
  repeat' first
    | with_reducible assumption
    | with_reducible apply outNext
    | with_reducible apply vecIssue_keeps
    | with_reducible apply keepsIte

theorem execLxVsplat_keeps {z0 : State} (core : CoreId) (ety : BitVec 3) (vd rs1 vs2 : BitVec 5) {s : State} (h_s : Keeps z0 s) :
    OutKeeps z0 (execLxVsplat core ety vd rs1 vs2 s) := by
  unfold execLxVsplat
  dsimp only
  repeat' first
    | with_reducible assumption
    | with_reducible apply outNext
    | with_reducible apply vecIssue_keeps
    | with_reducible apply keepsIte

theorem execLxVmove_keeps {z0 : State} (core : CoreId) (ety : BitVec 3) (vd vs1 vs2 : BitVec 5) {s : State} (h_s : Keeps z0 s) :
    OutKeeps z0 (execLxVmove core ety vd vs1 vs2 s) := by
  unfold execLxVmove
  dsimp only
  repeat' first
    | with_reducible assumption
    | with_reducible apply outNext
    | with_reducible apply vecIssue_keeps
    | with_reducible apply keepsIte

theorem execLxVcvt_keeps {z0 : State} (core : CoreId) (sr nan : Bool) (dst src : BitVec 4) (vd vs1 : BitVec 5) {s : State} (h_s : Keeps z0 s) :
    OutKeeps z0 (execLxVcvt core sr nan dst src vd vs1 s) := by
  unfold execLxVcvt
  repeat' first
    | with_reducible assumption
    | with_reducible apply outNext
    | with_reducible apply vecIssue_keeps

theorem execLxVld_keeps {z0 : State} (core : CoreId) (md : BitVec 2) (vd rs1 rs2 : BitVec 5) {s : State} (h_s : Keeps z0 s) :
    OutKeeps z0 (execLxVld core md vd rs1 rs2 s) := by
  unfold execLxVld
  dsimp only
  repeat' first
    | with_reducible assumption
    | with_reducible apply issueHold
    | with_reducible apply issueStop
    | with_reducible apply outNext
    | intro _
    | with_reducible apply issue_keeps
    | with_reducible apply onCore_keeps
    | with_reducible apply issueIte
    | split

theorem execLxVst_keeps {z0 : State} (core : CoreId) (md : BitVec 2) (vs rs1 rs2 : BitVec 5) {s : State} (h_s : Keeps z0 s) :
    OutKeeps z0 (execLxVst core md vs rs1 rs2 s) := by
  unfold execLxVst
  dsimp only
  repeat' first
    | with_reducible assumption
    | with_reducible apply issueHold
    | with_reducible apply issueStop
    | with_reducible apply issueRetire
    | with_reducible apply outNext
    | intro _
    | with_reducible apply windowWrite_keeps
    | with_reducible apply issue_keeps
    | with_reducible apply keeps_foldl
    | with_reducible apply issueIte
    | split

theorem execLxVsetvl_keeps {z0 : State} (core : CoreId) (md : BitVec 2) (rd rs1 : BitVec 5) {s : State} (h_s : Keeps z0 s) :
    OutKeeps z0 (execLxVsetvl core md rd rs1 s) := by
  unfold execLxVsetvl
  dsimp only
  repeat' first
    | with_reducible assumption
    | with_reducible apply outNext
    | with_reducible apply vecIssue_keeps

theorem execLxVmvx_keeps {z0 : State} (core : CoreId) (md : BitVec 2) (rd vs1 rs2 : BitVec 5) {s : State} (h_s : Keeps z0 s) :
    OutKeeps z0 (execLxVmvx core md rd vs1 rs2 s) := by
  unfold execLxVmvx
  dsimp only
  repeat' first
    | with_reducible assumption
    | with_reducible apply outNext
    | with_reducible apply vecIssue_keeps

theorem execLxVins_keeps {z0 : State} (core : CoreId) (md : BitVec 2) (vd rs1 rs2 : BitVec 5) {s : State} (h_s : Keeps z0 s) :
    OutKeeps z0 (execLxVins core md vd rs1 rs2 s) := by
  unfold execLxVins
  dsimp only
  repeat' first
    | with_reducible assumption
    | with_reducible apply outNext
    | with_reducible apply vecIssue_keeps

theorem condIssue_keeps {z0 : State} {s : State} (k f7 rd rs1 rs2 : Nat) (f : Core → Core) (h_s : Keeps z0 s) :
    Keeps z0 (condIssue s k f7 rd rs1 rs2 f) := by
  unfold condIssue
  repeat' first
    | with_reducible assumption
    | with_reducible apply vecIssue_keeps

theorem execLxCand_keeps {z0 : State} (core : CoreId) (cd cs1 cs2 : BitVec 2) {s : State} (h_s : Keeps z0 s) :
    OutKeeps z0 (execLxCand core cd cs1 cs2 s) := by
  unfold execLxCand
  repeat' first
    | with_reducible assumption
    | with_reducible apply outNext
    | with_reducible apply condIssue_keeps

theorem execLxCor_keeps {z0 : State} (core : CoreId) (cd cs1 cs2 : BitVec 2) {s : State} (h_s : Keeps z0 s) :
    OutKeeps z0 (execLxCor core cd cs1 cs2 s) := by
  unfold execLxCor
  repeat' first
    | with_reducible assumption
    | with_reducible apply outNext
    | with_reducible apply condIssue_keeps

theorem execLxCxor_keeps {z0 : State} (core : CoreId) (cd cs1 cs2 : BitVec 2) {s : State} (h_s : Keeps z0 s) :
    OutKeeps z0 (execLxCxor core cd cs1 cs2 s) := by
  unfold execLxCxor
  repeat' first
    | with_reducible assumption
    | with_reducible apply outNext
    | with_reducible apply condIssue_keeps

theorem execLxCandn_keeps {z0 : State} (core : CoreId) (cd cs1 cs2 : BitVec 2) {s : State} (h_s : Keeps z0 s) :
    OutKeeps z0 (execLxCandn core cd cs1 cs2 s) := by
  unfold execLxCandn
  repeat' first
    | with_reducible assumption
    | with_reducible apply outNext
    | with_reducible apply condIssue_keeps

theorem execLxCnot_keeps {z0 : State} (core : CoreId) (cd cs1 : BitVec 2) {s : State} (h_s : Keeps z0 s) :
    OutKeeps z0 (execLxCnot core cd cs1 s) := by
  unfold execLxCnot
  repeat' first
    | with_reducible assumption
    | with_reducible apply outNext
    | with_reducible apply condIssue_keeps

theorem execLxCpop_keeps {z0 : State} (core : CoreId) (rd : BitVec 5) (cs1 : BitVec 2) {s : State} (h_s : Keeps z0 s) :
    OutKeeps z0 (execLxCpop core rd cs1 s) := by
  unfold execLxCpop
  repeat' first
    | with_reducible assumption
    | with_reducible apply outNext
    | with_reducible apply condIssue_keeps

theorem execLxCrdLo_keeps {z0 : State} (core : CoreId) (rd : BitVec 5) (cs1 : BitVec 2) {s : State} (h_s : Keeps z0 s) :
    OutKeeps z0 (execLxCrdLo core rd cs1 s) := by
  unfold execLxCrdLo
  repeat' first
    | with_reducible assumption
    | with_reducible apply outNext
    | with_reducible apply condIssue_keeps

theorem execLxCrdHi_keeps {z0 : State} (core : CoreId) (rd : BitVec 5) (cs1 : BitVec 2) {s : State} (h_s : Keeps z0 s) :
    OutKeeps z0 (execLxCrdHi core rd cs1 s) := by
  unfold execLxCrdHi
  repeat' first
    | with_reducible assumption
    | with_reducible apply outNext
    | with_reducible apply condIssue_keeps

theorem execLxCwrLo_keeps {z0 : State} (core : CoreId) (cd : BitVec 2) (rs1 : BitVec 5) {s : State} (h_s : Keeps z0 s) :
    OutKeeps z0 (execLxCwrLo core cd rs1 s) := by
  unfold execLxCwrLo
  repeat' first
    | with_reducible assumption
    | with_reducible apply outNext
    | with_reducible apply condIssue_keeps

theorem execLxCwrHi_keeps {z0 : State} (core : CoreId) (cd : BitVec 2) (rs1 : BitVec 5) {s : State} (h_s : Keeps z0 s) :
    OutKeeps z0 (execLxCwrHi core cd rs1 s) := by
  unfold execLxCwrHi
  repeat' first
    | with_reducible assumption
    | with_reducible apply outNext
    | with_reducible apply condIssue_keeps

theorem execLxCfirst_keeps {z0 : State} (core : CoreId) (rd : BitVec 5) (cs1 : BitVec 2) {s : State} (h_s : Keeps z0 s) :
    OutKeeps z0 (execLxCfirst core rd cs1 s) := by
  unfold execLxCfirst
  repeat' first
    | with_reducible assumption
    | with_reducible apply outNext
    | with_reducible apply condIssue_keeps

theorem execLxRngw_keeps {z0 : State} (core : CoreId) (rd rs1 : BitVec 5) {s : State} (h_s : Keeps z0 s) :
    OutKeeps z0 (execLxRngw core rd rs1 s) := by
  unfold execLxRngw
  dsimp only
  repeat' first
    | with_reducible assumption
    | with_reducible apply outNext
    | with_reducible apply vecIssue_keeps

theorem execLxVrng_keeps {z0 : State} (core : CoreId) (vd : BitVec 5) {s : State} (h_s : Keeps z0 s) :
    OutKeeps z0 (execLxVrng core vd s) := by
  unfold execLxVrng
  dsimp only
  repeat' first
    | with_reducible assumption
    | with_reducible apply outNext
    | with_reducible apply vecIssue_keeps

end Sys2Proof.Machine
end

