-- ==== Sys2Proof/Laws/KeepsMatrix.lean ====
section
/-! SUPPORT. What the operations of Machine/Matrix.lean keep. -/

namespace Sys2Proof.Machine

theorem execLxMm_keeps {z0 : State} (core : CoreId) (shape : BitVec 3) (t : Bool) (ws rd rs1 rs2 : BitVec 5) {s : State} (h_s : Keeps z0 s) :
    OutKeeps z0 (execLxMm core shape t ws rd rs1 rs2 s) := by
  unfold execLxMm
  dsimp only
  repeat' first
    | with_reducible assumption
    | with_reducible apply issueHold
    | with_reducible apply issueStop
    | with_reducible apply outNext
    | intro _
    | with_reducible apply issue_keeps
    | with_reducible apply onCore_keeps
    | with_reducible apply issueIte
    | split

theorem putRow_keeps {z0 : State} {s : State} (k off w : Nat) (xs : List Nat) (h_s : Keeps z0 s) :
    Keeps z0 (putRow s k off w xs) := by
  unfold putRow
  repeat' first
    | with_reducible assumption
    | with_reducible apply windowWrite_keeps

theorem writeRow_keeps {z0 : State} {s : State} (k : Nat) (e : EngInst) (i : Nat) (h_s : Keeps z0 s) :
    Keeps z0 (writeRow s k e i) := by
  unfold writeRow
  dsimp only
  repeat' first
    | with_reducible assumption
    | with_reducible apply putRow_keeps
    | with_reducible apply keepsIte

theorem modEngine_keeps {z0 : State} {s : State} (k : Nat) (f : Engine → Engine) (h_s : Keeps z0 s) :
    Keeps z0 (modEngine s k f) := by
  unfold modEngine
  repeat' first
    | with_reducible assumption
    | with_reducible apply modCore_keeps

theorem execStationaryLoadComplete_keeps {z0 : State} (core : CoreId) {s : State} (h_s : Keeps z0 s) :
    OutKeeps z0 (execStationaryLoadComplete core s) := by
  unfold execStationaryLoadComplete
  dsimp only
  repeat' first
    | with_reducible assumption
    | with_reducible apply outNext
    | with_reducible apply modEngine_keeps
    | with_reducible apply keepsIte
    | split

theorem execEngineStreamStart_keeps {z0 : State} (core : CoreId) (loadWait feed : BitVec 32) {s : State} (h_s : Keeps z0 s) :
    OutKeeps z0 (execEngineStreamStart core loadWait feed s) := by
  unfold execEngineStreamStart
  dsimp only
  repeat' first
    | with_reducible assumption
    | with_reducible apply outNext
    | with_reducible apply modEngine_keeps
    | with_reducible apply keepsIte
    | split

theorem execEngineRowDrained_keeps {z0 : State} (core : CoreId) (feed drain budget : BitVec 32) {s : State} (h_s : Keeps z0 s) :
    OutKeeps z0 (execEngineRowDrained core feed drain budget s) := by
  unfold execEngineRowDrained
  dsimp only
  repeat' first
    | with_reducible assumption
    | with_reducible apply outNext
    | with_reducible apply modCore_keeps
    | with_reducible apply writeRow_keeps
    | with_reducible apply modEngine_keeps
    | with_reducible apply keepsIte
    | split

theorem execEngineInstructionComplete_keeps {z0 : State} (core : CoreId) {s : State} (h_s : Keeps z0 s) :
    OutKeeps z0 (execEngineInstructionComplete core s) := by
  unfold execEngineInstructionComplete
  dsimp only
  repeat' first
    | with_reducible assumption
    | with_reducible apply outNext
    | with_reducible apply modCore_keeps
    | with_reducible apply keepsIte
    | split

theorem execRampDownRequest_keeps {z0 : State} (core : CoreId) {s : State} (h_s : Keeps z0 s) :
    OutKeeps z0 (execRampDownRequest core s) := by
  unfold execRampDownRequest
  repeat' first
    | with_reducible assumption
    | with_reducible apply outNext
    | with_reducible apply modEngine_keeps

theorem execStartArbiterGrant_keeps {z0 : State} (die : BitVec 3) {s : State} (h_s : Keeps z0 s) :
    OutKeeps z0 (execStartArbiterGrant die s) := by
  unfold execStartArbiterGrant
  dsimp only
  iterate 2
    all_goals repeat' first
      | with_reducible assumption
      | with_reducible apply outNext
      | with_reducible apply modEngine_keeps
      | with_reducible apply keepsIte
      | split
    all_goals try with_reducible apply keeps_mk
    all_goals try first
      | with_reducible exact id
      | with_reducible exact Nat.le_refl _

theorem execRampDownComplete_keeps {z0 : State} (core : CoreId) {s : State} (h_s : Keeps z0 s) :
    OutKeeps z0 (execRampDownComplete core s) := by
  unfold execRampDownComplete
  repeat' first
    | with_reducible assumption
    | with_reducible apply outNext
    | with_reducible apply modEngine_keeps

theorem execRampUpComplete_keeps {z0 : State} (core : CoreId) {s : State} (h_s : Keeps z0 s) :
    OutKeeps z0 (execRampUpComplete core s) := by
  unfold execRampUpComplete
  repeat' first
    | with_reducible assumption
    | with_reducible apply outNext
    | with_reducible apply modEngine_keeps

theorem execLxEwait_keeps {z0 : State} (core : CoreId) (rs1 : BitVec 5) {s : State} (h_s : Keeps z0 s) :
    OutKeeps z0 (execLxEwait core rs1 s) := by
  unfold execLxEwait
  repeat' first
    | with_reducible assumption
    | with_reducible apply outNext
    | intro _
    | with_reducible apply issue_keeps
    | with_reducible apply onCore_keeps

theorem execLxEquiesce_keeps {z0 : State} (core : CoreId) {s : State} (h_s : Keeps z0 s) :
    OutKeeps z0 (execLxEquiesce core s) := by
  unfold execLxEquiesce
  repeat' first
    | with_reducible assumption
    | with_reducible apply outNext
    | intro _
    | with_reducible apply issue_keeps
    | with_reducible apply onCore_keeps

theorem wgbIssue_keeps {z0 : State} {s : State} (k : Nat) (word : Word32) (tile src desc : Core → Option Nat) (flush : Bool) (op : Core → WgbDesc → WgbOp) (h_s : Keeps z0 s) :
    Keeps z0 (wgbIssue s k word tile src desc flush op) := by
  unfold wgbIssue
  dsimp only
  repeat' first
    | with_reducible assumption
    | with_reducible apply issueHold
    | with_reducible apply issueStop
    | intro _
    | with_reducible apply issue_keeps
    | with_reducible apply onCore_keeps
    | with_reducible apply issueIte
    | split

theorem execLxWgbZero_keeps {z0 : State} (core : CoreId) (rs1 : BitVec 5) {s : State} (h_s : Keeps z0 s) :
    OutKeeps z0 (execLxWgbZero core rs1 s) := by
  unfold execLxWgbZero
  repeat' first
    | with_reducible assumption
    | with_reducible apply outNext
    | with_reducible apply wgbIssue_keeps

theorem execLxWgbFold_keeps {z0 : State} (core : CoreId) (rs1 rs2 : BitVec 5) {s : State} (h_s : Keeps z0 s) :
    OutKeeps z0 (execLxWgbFold core rs1 rs2 s) := by
  unfold execLxWgbFold
  repeat' first
    | with_reducible assumption
    | with_reducible apply outNext
    | with_reducible apply wgbIssue_keeps

theorem execLxWgbSpill_keeps {z0 : State} (core : CoreId) (rs1 rs2 : BitVec 5) {s : State} (h_s : Keeps z0 s) :
    OutKeeps z0 (execLxWgbSpill core rs1 rs2 s) := by
  unfold execLxWgbSpill
  repeat' first
    | with_reducible assumption
    | with_reducible apply outNext
    | with_reducible apply wgbIssue_keeps

theorem execLxWgbFlush_keeps {z0 : State} (core : CoreId) (rs1 rs2 : BitVec 5) {s : State} (h_s : Keeps z0 s) :
    OutKeeps z0 (execLxWgbFlush core rs1 rs2 s) := by
  unfold execLxWgbFlush
  repeat' first
    | with_reducible assumption
    | with_reducible apply outNext
    | with_reducible apply wgbIssue_keeps

theorem applyWgb_keeps {z0 : State} {s : State} (k : Nat) (op : WgbOp) (h_s : Keeps z0 s) :
    Keeps z0 (applyWgb s k op) := by
  unfold applyWgb
  dsimp only
  iterate 2
    all_goals repeat' first
      | with_reducible assumption
      | with_reducible apply modCore_keeps
      | with_reducible apply cohWrite_keeps
      | split
    all_goals try with_reducible apply keeps_mk
    all_goals try first
      | with_reducible exact id
      | with_reducible exact Nat.le_refl _
      | with_reducible exact memPutBytes_wf _ _
      | with_reducible exact memClear_wf _ _

theorem applyWgbOps_keeps {z0 : State} {s : State} (k : Nat) (h_s : Keeps z0 s) :
    Keeps z0 (applyWgbOps s k) := by
  unfold applyWgbOps
  dsimp only
  repeat' first
    | with_reducible assumption
    | intro _
    | with_reducible apply modCore_keeps
    | with_reducible apply applyWgb_keeps
    | with_reducible apply keeps_foldl

theorem applySpillLine_keeps {z0 : State} {s : State} (d : WgbDesc) (data : List Byte) (i : Nat) (h_s : Keeps z0 s) :
    Keeps z0 (applySpillLine s d data i) := by
  unfold applySpillLine
  dsimp only
  repeat' first
    | with_reducible assumption
    | with_reducible apply cohWrite_keeps
    | with_reducible apply logError_keeps
    | with_reducible apply keepsIte

theorem addLanes_keeps {z0 : State} {s : State} (p : Nat) (flag : Bool) (nfc src layer : Nat) (h_s : Keeps z0 s) :
    Keeps z0 (addLanes s p flag nfc src layer) := by
  unfold addLanes
  repeat' first
    | with_reducible assumption
    | with_reducible apply modJob_keeps

theorem addRecordLanes_keeps {z0 : State} {s : State} (p core a : Nat) (h_s : Keeps z0 s) :
    Keeps z0 (addRecordLanes s p core a) := by
  unfold addRecordLanes
  dsimp only
  repeat' first
    | with_reducible assumption
    | with_reducible apply addLanes_keeps

theorem applySpill_keeps {z0 : State} {s : State} (core : Nat) (h_s : Keeps z0 s) :
    Keeps z0 (applySpill s core) := by
  unfold applySpill
  dsimp only
  iterate 2
    all_goals repeat' first
      | with_reducible assumption
      | intro _
      | with_reducible apply cohWrite_keeps
      | with_reducible apply applySpillLine_keeps
      | with_reducible apply addRecordLanes_keeps
      | with_reducible apply keeps_foldl
      | with_reducible apply keepsIte
      | split
    all_goals try with_reducible apply keeps_mk
    all_goals try first
      | with_reducible exact id
      | with_reducible exact Nat.le_refl _

theorem execSpillRecordApply_keeps {z0 : State} (core : CoreId) {s : State} (h_s : Keeps z0 s) :
    OutKeeps z0 (execSpillRecordApply core s) := by
  unfold execSpillRecordApply
  repeat' first
    | with_reducible assumption
    | with_reducible apply outNext
    | with_reducible apply applySpill_keeps

theorem tearWgb_keeps {z0 : State} {s : State} (k n : Nat) (h_s : Keeps z0 s) :
    Keeps z0 (tearWgb s k n) := by
  unfold tearWgb
  dsimp only
  iterate 2
    all_goals repeat' first
      | with_reducible assumption
      | intro _
      | with_reducible apply modCore_keeps
      | with_reducible apply drawBytes_keeps
      | with_reducible apply applyWgb_keeps
      | with_reducible apply keeps_foldl
      | split
    all_goals try with_reducible apply keeps_mk
    all_goals try first
      | with_reducible exact id
      | with_reducible exact Nat.le_refl _
      | with_reducible exact memPutBytes_wf _ _

end Sys2Proof.Machine
end

