-- ==== Sys2Proof/Laws/KeepsTableCmds.lean ====
section
/-! SUPPORT. What the operations of Machine/TableCmds.lean keep. -/

namespace Sys2Proof.Machine

theorem rowsReady_keeps {z0 : State} {s : State} (q pos p : Nat) (rows : List (Nat × Nat)) (h_s : Keeps z0 s) :
    CmdIo.Keeps z0 (rowsReady s q pos p rows) := by
  unfold rowsReady
  repeat' first
    | with_reducible assumption
    | with_reducible apply ioEnded
    | with_reducible apply ioHeld
    | with_reducible apply ioOk
    | with_reducible apply endCmd_keeps
    | with_reducible apply tierReady_keeps
    | with_reducible apply logPoison_keeps
    | split
    | refine keeps_ready (by with_reducible assumption) ?_
    | refine keeps_held (by with_reducible assumption) ?_
    | refine keeps_bad (by with_reducible assumption) ?_

theorem rejectIndex_keeps {z0 : State} {s : State} (q pos p i j : Nat) (h_s : Keeps z0 s) :
    CmdIo.Keeps z0 (rejectIndex s q pos p i j) := by
  unfold rejectIndex
  repeat' first
    | with_reducible assumption
    | with_reducible apply ioEnded
    | with_reducible apply logError_keeps
    | with_reducible apply endCmd_keeps

theorem readEntry_keeps {z0 : State} {s : State} (q pos p : Nat) (i : Nat) (e : PlanEntry) (f : State → EmbTable → List Nat → List Nat → List Nat → CmdIo) (h_f : ∀ y0 y1 y2 y3 y4, Keeps z0 y0 → CmdIo.Keeps z0 (f y0 y1 y2 y3 y4)) (h_s : Keeps z0 s) :
    CmdIo.Keeps z0 (readEntry s q pos p i e f) := by
  unfold readEntry
  dsimp only
  repeat' first
    | with_reducible assumption
    | with_reducible apply ioEnded
    | intro _
    | with_reducible apply endCmd_keeps
    | with_reducible apply cmdRead_keeps
    | with_reducible apply CmdIo_andThen_keeps
    | with_reducible apply rejectIndex_keeps
    | with_reducible apply h_f
    | with_reducible apply ioIte
    | split

theorem lookupEntry_keeps {z0 : State} {s : State} (q pos p i : Nat) (e : PlanEntry) (h_s : Keeps z0 s) :
    CmdIo.Keeps z0 (lookupEntry s q pos p i e) := by
  unfold lookupEntry
  dsimp only
  repeat' first
    | with_reducible assumption
    | with_reducible apply ioEnded
    | intro _
    | with_reducible apply modChannel_keeps
    | with_reducible apply failAccess_keeps
    | with_reducible apply modCmd_keeps
    | with_reducible apply endCmd_keeps
    | with_reducible apply cmdWrite_keeps
    | with_reducible apply CmdIo_andThen_keeps
    | with_reducible apply ioFold_keeps
    | with_reducible apply rowsReady_keeps
    | with_reducible apply readEntry_keeps
    | with_reducible apply keeps_foldl
    | with_reducible apply ioIte

theorem execEmbLookup_keeps {z0 : State} (q : BitVec 12) (pos : BitVec 32) {s : State} (h_s : Keeps z0 s) :
    OutKeeps z0 (execEmbLookup q pos s) := by
  unfold execEmbLookup
  dsimp only
  repeat' first
    | with_reducible assumption
    | with_reducible apply outNext
    | intro _
    | with_reducible apply endCmd_keeps
    | with_reducible apply finishCmd_keeps
    | with_reducible apply runCmd_keeps
    | with_reducible apply cmdRead_keeps
    | with_reducible apply CmdIo_bind_keeps
    | with_reducible apply ioFold_keeps
    | with_reducible apply lookupEntry_keeps
    | with_reducible apply keepsIte

theorem reduceEntry_keeps {z0 : State} {s : State} (q pos p step i : Nat) (e : PlanEntry) (h_s : Keeps z0 s) :
    CmdIo.Keeps z0 (reduceEntry s q pos p step i e) := by
  unfold reduceEntry
  dsimp only
  repeat' first
    | with_reducible assumption
    | with_reducible apply ioEnded
    | with_reducible apply ioHeld
    | with_reducible apply ioOk
    | intro _
    | with_reducible apply modChannel_keeps
    | with_reducible apply cohWrite_keeps
    | with_reducible apply endCmd_keeps
    | with_reducible apply modObject_keeps
    | with_reducible apply chargeRange_keeps
    | with_reducible apply chargePieces_keeps
    | with_reducible apply modTable_keeps
    | with_reducible apply cmdWrite_keeps
    | with_reducible apply CmdIo_andThen_keeps
    | with_reducible apply cmdReads_keeps
    | with_reducible apply addLanes_keeps
    | with_reducible apply rowsReady_keeps
    | with_reducible apply readEntry_keeps
    | with_reducible apply keeps_foldl
    | with_reducible apply keepsIte
    | with_reducible apply ioIte
    | split
    | refine keeps_okFst (by with_reducible assumption) ?_
    | refine keeps_heldFst (by with_reducible assumption) ?_
    | refine keeps_endedFst (by with_reducible assumption) ?_

theorem dropReduce_keeps {z0 : State} {s : State} (p : Nat) (ts : List Nat) (o : OpenStep) (h_s : Keeps z0 s) :
    Keeps z0 (dropReduce s p ts o) := by
  unfold dropReduce
  repeat' first
    | with_reducible assumption
    | intro _
    | with_reducible apply modJob_keeps
    | with_reducible apply modTable_keeps
    | with_reducible apply keeps_foldl

theorem execEmbUpdate_keeps {z0 : State} (q : BitVec 12) (pos : BitVec 32) {s : State} (h_s : Keeps z0 s) :
    OutKeeps z0 (execEmbUpdate q pos s) := by
  unfold execEmbUpdate
  dsimp only
  repeat' first
    | with_reducible assumption
    | with_reducible apply outNext
    | intro _
    | with_reducible apply modJob_keeps
    | with_reducible apply modCmd_keeps
    | with_reducible apply endCmd_keeps
    | with_reducible apply runCmd_keeps
    | with_reducible apply cmdRead_keeps
    | with_reducible apply CmdIo_bind_keeps
    | with_reducible apply ioFold_keeps
    | with_reducible apply reduceEntry_keeps
    | with_reducible apply dropReduce_keeps
    | with_reducible apply keepsIte
    | split
    | refine keeps_ok (by with_reducible assumption) ?_
    | refine keeps_heldIo (by with_reducible assumption) ?_
    | refine keeps_ended (by with_reducible assumption) ?_

theorem execRelayoutRegionStart_keeps {z0 : State} (p : BitVec 4) (table : BitVec 16) (region : Nat) {s : State} (h_s : Keeps z0 s) :
    OutKeeps z0 (execRelayoutRegionStart p table region s) := by
  unfold execRelayoutRegionStart
  dsimp only
  repeat' first
    | with_reducible assumption
    | with_reducible apply outNext
    | with_reducible apply modRegionEntry_keeps
    | with_reducible apply outIte
    | split

theorem copyRow_keeps {z0 : State} {s : State} (p : Nat) (src dst : TableDesc) (row : Nat) (h_s : Keeps z0 s) :
    Keeps z0 (copyRow s p src dst row) := by
  unfold copyRow
  dsimp only
  repeat' first
    | with_reducible assumption
    | with_reducible apply modChannel_keeps
    | with_reducible apply cohWrite_keeps

theorem execRelayoutRegionCopied_keeps {z0 : State} (p : BitVec 4) (table : BitVec 16) (region : Nat) {s : State} (h_s : Keeps z0 s) :
    OutKeeps z0 (execRelayoutRegionCopied p table region s) := by
  unfold execRelayoutRegionCopied
  dsimp only
  repeat' first
    | with_reducible assumption
    | with_reducible apply outNext
    | intro _
    | with_reducible apply tierReady_keeps
    | with_reducible apply modRegionEntry_keeps
    | with_reducible apply copyRow_keeps
    | with_reducible apply keeps_foldl
    | with_reducible apply outIte
    | split
    | refine keeps_ready (by with_reducible assumption) ?_
    | refine keeps_held (by with_reducible assumption) ?_
    | refine keeps_bad (by with_reducible assumption) ?_

theorem execRelayoutRegionRestart_keeps {z0 : State} (p : BitVec 4) (table : BitVec 16) (region : Nat) {s : State} (h_s : Keeps z0 s) :
    OutKeeps z0 (execRelayoutRegionRestart p table region s) := by
  unfold execRelayoutRegionRestart
  repeat' first
    | with_reducible assumption
    | with_reducible apply outNext
    | with_reducible apply restartRegion_keeps

theorem execRelayoutSwitchPoint_keeps {z0 : State} (p : BitVec 4) (table : BitVec 16) {s : State} (h_s : Keeps z0 s) :
    OutKeeps z0 (execRelayoutSwitchPoint p table s) := by
  unfold execRelayoutSwitchPoint
  repeat' first
    | with_reducible assumption
    | with_reducible apply outNext
    | with_reducible apply switchPoint_keeps
    | with_reducible apply outIte

end Sys2Proof.Machine
end

