-- ==== Sys2Proof/Laws/KeepsUpdate.lean ====
section
/-! SUPPORT. What the operations of Machine/Update.lean keep. -/

namespace Sys2Proof.Machine

theorem writeSet_keeps {z0 : State} {s : State} (rule : Nat) (d : BlockDesc) (i : Nat) (x : BlockSet) (h_s : Keeps z0 s) :
    Keeps z0 (writeSet s rule d i x) := by
  unfold writeSet
  repeat' first
    | with_reducible assumption
    | with_reducible apply cohWrite_keeps

theorem putStampSel_keeps {z0 : State} {s : State} (d : BlockDesc) (stamp active : Nat) (quarantined : Bool) (h_s : Keeps z0 s) :
    Keeps z0 (putStampSel s d stamp active quarantined) := by
  unfold putStampSel
  repeat' first
    | with_reducible assumption
    | with_reducible apply cohWrite_keeps

theorem stageBlock_keeps {z0 : State} {s : State} (p step dirIdx b : Nat) (e : DirEnt) (d : BlockDesc) (old new : List Word32) (h_s : Keeps z0 s) :
    Keeps z0 (stageBlock s p step dirIdx b e d old new) := by
  unfold stageBlock
  dsimp only
  repeat' first
    | with_reducible assumption
    | with_reducible apply modJob_keeps
    | with_reducible apply modChannel_keeps
    | with_reducible apply cohWrite_keeps
    | with_reducible apply keepsIte
    | split

theorem putLaneSlot_keeps {z0 : State} {s : State} (j : Job) (ch dirIdx b : Nat) (spare : Nat × Nat) (h_s : Keeps z0 s) :
    Keeps z0 (putLaneSlot s j ch dirIdx b spare) := by
  unfold putLaneSlot
  dsimp only
  repeat' first
    | with_reducible assumption
    | with_reducible apply cohWrite_keeps
    | with_reducible apply keepsIte

theorem chargeCommit_keeps {z0 : State} {s : State} (p : Nat) (l : List (Nat × Nat)) (write : Bool) (h_s : Keeps z0 s) :
    Keeps z0 (chargeCommit s p l write) := by
  unfold chargeCommit
  repeat' first
    | with_reducible assumption
    | with_reducible apply chargePieces_keeps
    | split

theorem logLanePoison_keeps {z0 : State} {s : State} (p : Nat) (e : DirEnt) (d : BlockDesc) (x : BlockSet) (h_s : Keeps z0 s) :
    Keeps z0 (logLanePoison s p e d x) := by
  unfold logLanePoison
  dsimp only
  repeat' first
    | with_reducible assumption
    | with_reducible apply logError_keeps
    | split

theorem switchBlock_keeps {z0 : State} {s : State} (p step dirIdx b : Nat) (e : DirEnt) (w m ra ca : List Word32) (uss : Word32) (h_s : Keeps z0 s) :
    Keeps z0 (switchBlock s p step dirIdx b e w m ra ca uss) := by
  unfold switchBlock
  dsimp only
  repeat' first
    | with_reducible assumption
    | with_reducible apply modJob_keeps
    | with_reducible apply modChannel_keeps
    | with_reducible apply cohWrite_keeps
    | with_reducible apply writeSet_keeps
    | with_reducible apply putStampSel_keeps
    | with_reducible apply putLaneSlot_keeps
    | with_reducible apply chargeCommit_keeps
    | with_reducible apply keepsIte
    | split

theorem updateBlock_keeps {z0 : State} {s : State} (p step dirIdx b hyper : Nat) (clip : Option Word32) (h_s : Keeps z0 s) :
    Keeps z0 (updateBlock s p step dirIdx b hyper clip).2 := by
  unfold updateBlock
  dsimp only
  repeat' first
    | with_reducible assumption
    | with_reducible apply modChannel_keeps
    | with_reducible apply stageBlock_keeps
    | with_reducible apply chargeCommit_keeps
    | with_reducible apply logLanePoison_keeps
    | with_reducible apply switchBlock_keeps
    | split

theorem applyTable_keeps {z0 : State} {s : State} (p id step hyper : Nat) (clip : Option Word32) (h_s : Keeps z0 s) :
    Keeps z0 (applyTable s p id step hyper clip) := by
  unfold applyTable
  dsimp only
  repeat' first
    | with_reducible assumption
    | intro _
    | with_reducible apply modChannel_keeps
    | with_reducible apply cohWrite_keeps
    | with_reducible apply modObject_keeps
    | with_reducible apply modTable_keeps
    | with_reducible apply restartRegion_keeps
    | with_reducible apply chargeCommit_keeps
    | with_reducible apply keeps_foldl
    | with_reducible apply keepsIte
    | split

theorem skipTable_keeps {z0 : State} {s : State} (p id : Nat) (h_s : Keeps z0 s) :
    Keeps z0 (skipTable s p id) := by
  unfold skipTable
  dsimp only
  repeat' first
    | with_reducible assumption
    | with_reducible apply modObject_keeps
    | with_reducible apply modTable_keeps
    | with_reducible apply keepsIte
    | split

end Sys2Proof.Machine
end

