-- ==== Sys2Proof/Laws/KeepsDrip.lean ====
section
/-! SUPPORT. What the operations of Machine/Drip.lean keep. -/

namespace Sys2Proof.Machine

theorem modDrip_keeps {z0 : State} {s : State} (p : Nat) (f : Drip → Drip) (h_s : Keeps z0 s) :
    Keeps z0 (modDrip s p f) := by
  unfold modDrip
  repeat' first
    | with_reducible assumption
    | with_reducible apply modJob_keeps

theorem dripPut_keeps {z0 : State} {s : State} (p : Nat) (r : List Byte) (h_s : Keeps z0 s) :
    OptKeeps z0 (dripPut s p r) := by
  unfold dripPut
  dsimp only
  repeat' first
    | with_reducible assumption
    | with_reducible apply optNone
    | with_reducible apply optSome
    | with_reducible apply moduleWrite_keeps
    | with_reducible apply modDrip_keeps
    | with_reducible apply keepsIte
    | with_reducible apply optIte
    | split

theorem drainReady_keeps {z0 : State}  (a0 : Nat) {a1 : State} (a2 : Nat) (h_s : Keeps z0 a1) :
    Keeps z0 (drainReady a0 a1 a2) := by
  induction a0 generalizing a1 a2 with
  | zero =>
    unfold drainReady
    repeat' with_reducible assumption
  | succ n ih =>
    unfold drainReady
    repeat' first
      | with_reducible assumption
      | with_reducible apply ih
      | with_reducible apply modDrip_keeps
      | with_reducible apply dripPut_keeps
      | split
      | refine keeps_some (by with_reducible assumption) ?_

theorem drainDrip_keeps {z0 : State} {s : State} (p : Nat) (h_s : Keeps z0 s) :
    Keeps z0 (drainDrip s p) := by
  unfold drainDrip
  repeat' first
    | with_reducible assumption
    | with_reducible apply drainReady_keeps

theorem dripEmit_keeps {z0 : State} {s : State} (p : Nat) (r : List Byte) (h_s : Keeps z0 s) :
    Keeps z0 (dripEmit s p r) := by
  unfold dripEmit
  repeat' first
    | with_reducible assumption
    | with_reducible apply modDrip_keeps

theorem dripTable_keeps {z0 : State} {s : State} (p step id : Nat) (h_s : Keeps z0 s) :
    Keeps z0 (dripTable s p step id) := by
  unfold dripTable
  dsimp only
  repeat' first
    | with_reducible assumption
    | intro _
    | with_reducible apply modDrip_keeps
    | with_reducible apply dripEmit_keeps
    | with_reducible apply keeps_foldl
    | with_reducible apply keepsIte
    | split

theorem dripRelease_keeps {z0 : State} {s : State} (p q step decision : Nat) (tables : List Nat) (scale : List Byte) (h_s : Keeps z0 s) :
    Keeps z0 (dripRelease s p q step decision tables scale) := by
  unfold dripRelease
  dsimp only
  repeat' first
    | with_reducible assumption
    | intro _
    | with_reducible apply modPart_keeps
    | with_reducible apply telemetryPf0_keeps
    | with_reducible apply telemetryQueue_keeps
    | with_reducible apply modDrip_keeps
    | with_reducible apply drainDrip_keeps
    | with_reducible apply dripTable_keeps
    | with_reducible apply keeps_foldl
    | with_reducible apply keepsIte
    | split

theorem dripInvalidate_keeps {z0 : State} {s : State} (p g : Nat) (h_s : Keeps z0 s) :
    Keeps z0 (dripInvalidate s p g) := by
  unfold dripInvalidate
  dsimp only
  repeat' first
    | with_reducible assumption
    | intro _
    | with_reducible apply cohWrite_keeps
    | with_reducible apply keeps_foldl
    | with_reducible apply keepsIte
    | split

theorem execDripBehindEmit_keeps {z0 : State} (p : BitVec 4) {s : State} (h_s : Keeps z0 s) :
    OutKeeps z0 (execDripBehindEmit p s) := by
  unfold execDripBehindEmit
  dsimp only
  repeat' first
    | with_reducible assumption
    | with_reducible apply outNext
    | with_reducible apply cohWrite_keeps
    | with_reducible apply modDrip_keeps
    | with_reducible apply dripPut_keeps
    | with_reducible apply outIte
    | split
    | refine keeps_some (by with_reducible assumption) ?_

theorem execDripRingRoom_keeps {z0 : State} (p : BitVec 4) (head : BitVec 64) {s : State} (h_s : Keeps z0 s) :
    OutKeeps z0 (execDripRingRoom p head s) := by
  unfold execDripRingRoom
  dsimp only
  repeat' first
    | with_reducible assumption
    | with_reducible apply outNext
    | with_reducible apply moduleWrite_keeps
    | with_reducible apply drainDrip_keeps
    | split

end Sys2Proof.Machine
end

