-- ==== Sys2Proof/Laws/KeepsImages.lean ====
section
/-! SUPPORT. What the operations of Machine/Images.lean keep. -/

namespace Sys2Proof.Machine

theorem modComponent_keeps {z0 : State} {s : State} (c : Nat) (f : Component → Component) (h_s : Keeps z0 s) :
    Keeps z0 (modComponent s c f) := by
  unfold modComponent
  dsimp only
  iterate 2
    all_goals repeat' first
      | with_reducible assumption
      | split
    all_goals try with_reducible apply keeps_mk
    all_goals try first
      | with_reducible exact id
      | with_reducible exact Nat.le_refl _

theorem failTrial_keeps {z0 : State} {s : State} (c : Nat) (h_s : Keeps z0 s) :
    Keeps z0 (failTrial s c) := by
  unfold failTrial
  dsimp only
  repeat' first
    | with_reducible assumption
    | with_reducible apply logError_keeps
    | with_reducible apply modComponent_keeps

theorem startTrial_keeps {z0 : State} {s : State} (c : Nat) (h_s : Keeps z0 s) :
    Keeps z0 (startTrial s c) := by
  unfold startTrial
  dsimp only
  repeat' first
    | with_reducible assumption
    | with_reducible apply modComponent_keeps
    | with_reducible apply failTrial_keeps
    | with_reducible apply keepsIte
    | split

theorem loadComponent_keeps {z0 : State} {s : State} (c : Nat) (h_s : Keeps z0 s) :
    Keeps z0 (loadComponent s c).1 := by
  unfold loadComponent
  dsimp only
  repeat' first
    | with_reducible assumption
    | with_reducible apply modComponent_keeps
    | with_reducible apply startTrial_keeps
    | split

theorem passTrial_keeps {z0 : State} {s : State} (c : Nat) (h_s : Keeps z0 s) :
    Keeps z0 (passTrial s c) := by
  unfold passTrial
  dsimp only
  iterate 2
    all_goals repeat' first
      | with_reducible assumption
      | with_reducible apply logError_keeps
      | with_reducible apply modComponent_keeps
    all_goals try with_reducible apply keeps_mk
    all_goals try first
      | with_reducible exact id
      | with_reducible exact Nat.le_max_left _ _

end Sys2Proof.Machine
end

