-- ==== Sys2Proof/Laws/KeepsCommit.lean ====
section
/-! SUPPORT. What the operations of Machine/Commit.lean keep. -/

namespace Sys2Proof.Machine

theorem writeIntent_keeps {z0 : State} {s : State} (j : Job) (step decision clip hyper : Nat) (h_s : Keeps z0 s) :
    Keeps z0 (writeIntent s j step decision clip hyper) := by
  unfold writeIntent
  dsimp only
  repeat' first
    | with_reducible assumption
    | with_reducible apply cohWrite_keeps

theorem haltJob_keeps {z0 : State} {s : State} (p code : Nat) (h_s : Keeps z0 s) :
    Keeps z0 (haltJob s p code) := by
  unfold haltJob
  repeat' first
    | with_reducible assumption
    | with_reducible apply modJob_keeps
    | with_reducible apply cohWrite_keeps
    | split

theorem targetOf_keeps {z0 : State} {s : State} (skipNonfinite reseeded : Bool) (sl : Int) (n : Word32) (nf : Nat) (h_s : Keeps z0 s) :
    Keeps z0 (targetOf s skipNonfinite reseeded sl n nf).2 := by
  unfold targetOf
  dsimp only
  repeat' first
    | with_reducible assumption
    | with_reducible apply drawFree_keeps
    | split

theorem writeNormTable_keeps {z0 : State} {s : State} (p : Nat) (r : CommitRun) (flag : Bool) (src : Nat) (h_s : Keeps z0 s) :
    Keeps z0 (writeNormTable s p r flag src) := by
  unfold writeNormTable
  dsimp only
  repeat' first
    | with_reducible assumption
    | intro _
    | with_reducible apply cohWrite_keeps
    | with_reducible apply journalWrite_keeps
    | with_reducible apply targetOf_keeps
    | with_reducible apply keeps_foldl
    | with_reducible apply keepsIte
    | split

theorem writeScale_keeps {z0 : State} {s : State} (p step l : Nat) (h_s : Keeps z0 s) :
    Keeps z0 (writeScale s p step l) := by
  unfold writeScale
  dsimp only
  repeat' first
    | with_reducible assumption
    | intro _
    | with_reducible apply modJob_keeps
    | with_reducible apply cohWrite_keeps
    | with_reducible apply keeps_foldl
    | with_reducible apply keepsIte
    | split

theorem sendExchange_keeps {z0 : State} {s : State} (p m step kind : Nat) (body : List Byte) (h_s : Keeps z0 s) :
    Keeps z0 (sendExchange s p m step kind body) := by
  unfold sendExchange
  repeat' first
    | with_reducible assumption
    | with_reducible apply sendOr_keeps

theorem sendDigests_keeps {z0 : State} {s : State} (p step : Nat) (h_s : Keeps z0 s) :
    Keeps z0 (sendDigests s p step) := by
  unfold sendDigests
  dsimp only
  repeat' first
    | with_reducible assumption
    | intro _
    | with_reducible apply sendExchange_keeps
    | with_reducible apply keeps_foldl
    | split

theorem modRun_keeps {z0 : State} {s : State} (p : Nat) (f : CommitRun → CommitRun) (h_s : Keeps z0 s) :
    Keeps z0 (modRun s p f) := by
  unfold modRun
  repeat' first
    | with_reducible assumption
    | with_reducible apply modJob_keeps

theorem journalCommit_keeps {z0 : State} {s : State} (p : Nat) (j : Job) (decision status : Nat) (clip : Word32) (h_s : Keeps z0 s) :
    Keeps z0 (journalCommit s p j decision status clip) := by
  unfold journalCommit
  dsimp only
  repeat' first
    | with_reducible assumption
    | with_reducible apply modPart_keeps
    | with_reducible apply journalWrite_keeps

theorem endHalted_keeps {z0 : State} {s : State} (p : Nat) (r : CommitRun) (status result : Nat) (h_s : Keeps z0 s) :
    Keeps z0 (endHalted s p r status result) := by
  unfold endHalted
  dsimp only
  repeat' first
    | with_reducible assumption
    | with_reducible apply endCmdWith_keeps
    | with_reducible apply modDrip_keeps
    | with_reducible apply haltJob_keeps
    | with_reducible apply journalCommit_keeps
    | split

theorem finishUpdates_keeps {z0 : State} {s : State} (p : Nat) (h_s : Keeps z0 s) :
    Keeps z0 (finishUpdates s p) := by
  unfold finishUpdates
  repeat' first
    | with_reducible assumption
    | intro _
    | with_reducible apply modCmd_keeps
    | with_reducible apply keeps_foldl

theorem finishRun_keeps {z0 : State} {s : State} (p : Nat) (h_s : Keeps z0 s) :
    Keeps z0 (finishRun s p) := by
  unfold finishRun
  dsimp only
  repeat' first
    | with_reducible assumption
    | intro _
    | with_reducible apply modJob_keeps
    | with_reducible apply logError_keeps
    | with_reducible apply finishCmd_keeps
    | with_reducible apply modDrip_keeps
    | with_reducible apply dripInvalidate_keeps
    | with_reducible apply keeps_foldl
    | with_reducible apply keepsIte
    | split

theorem quarantine_keeps {z0 : State} {s : State} (j : Job) (i b : Nat) (h_s : Keeps z0 s) :
    Keeps z0 (quarantine s j i b) := by
  unfold quarantine
  dsimp only
  repeat' first
    | with_reducible assumption
    | with_reducible apply putStampSel_keeps

theorem requestBlock_keeps {z0 : State} {s : State} (p step : Nat) (f : Refetch) (h_s : Keeps z0 s) :
    Keeps z0 (requestBlock s p step f) := by
  unfold requestBlock
  repeat' first
    | with_reducible assumption
    | with_reducible apply sendOr_keeps
    | split

theorem beginRefetch_keeps {z0 : State} {s : State} (p : Nat) (fs : List Refetch) (h_s : Keeps z0 s) :
    Keeps z0 (beginRefetch s p fs) := by
  unfold beginRefetch
  dsimp only
  repeat' first
    | with_reducible assumption
    | intro _
    | with_reducible apply modRun_keeps
    | with_reducible apply quarantine_keeps
    | with_reducible apply requestBlock_keeps
    | with_reducible apply keeps_foldl
    | split

theorem compareDigests_keeps {z0 : State} {s : State} (p : Nat) (h_s : Keeps z0 s) :
    Keeps z0 (compareDigests s p) := by
  unfold compareDigests
  dsimp only
  repeat' first
    | with_reducible assumption
    | intro _
    | with_reducible apply cohWrite_keeps
    | with_reducible apply logError_keeps
    | with_reducible apply modDrip_keeps
    | with_reducible apply endHalted_keeps
    | with_reducible apply finishRun_keeps
    | with_reducible apply beginRefetch_keeps
    | with_reducible apply keeps_foldl
    | with_reducible apply keepsIte
    | split

theorem beginDigests_keeps {z0 : State} {s : State} (p : Nat) (h_s : Keeps z0 s) :
    Keeps z0 (beginDigests s p) := by
  unfold beginDigests
  dsimp only
  repeat' first
    | with_reducible assumption
    | with_reducible apply sendDigests_keeps
    | with_reducible apply modRun_keeps
    | with_reducible apply compareDigests_keeps
    | with_reducible apply keepsIte
    | split

theorem applyStep_keeps {z0 : State} {s : State} (p : Nat) (h_s : Keeps z0 s) :
    Keeps z0 (applyStep s p) := by
  unfold applyStep
  dsimp only
  repeat' first
    | with_reducible assumption
    | intro _
    | with_reducible apply modChannel_keeps
    | with_reducible apply updateBlock_keeps
    | with_reducible apply applyTable_keeps
    | with_reducible apply skipTable_keeps
    | with_reducible apply modRun_keeps
    | with_reducible apply finishUpdates_keeps
    | with_reducible apply beginRefetch_keeps
    | with_reducible apply beginDigests_keeps
    | with_reducible apply keeps_foldl
    | with_reducible apply keeps_foldl_fst
    | with_reducible apply keepsIte
    | split
    | refine keeps_snd (by with_reducible assumption) ?_

theorem nextSource_keeps {z0 : State} {s : State} (p i b : Nat) (h_s : Keeps z0 s) :
    Keeps z0 (nextSource s p i b) := by
  unfold nextSource
  dsimp only
  repeat' first
    | with_reducible assumption
    | with_reducible apply logError_keeps
    | with_reducible apply modRun_keeps
    | with_reducible apply endHalted_keeps
    | with_reducible apply requestBlock_keeps
    | split

theorem settleRefetch_keeps {z0 : State} {s : State} (p : Nat) (h_s : Keeps z0 s) :
    Keeps z0 (settleRefetch s p) := by
  unfold settleRefetch
  repeat' first
    | with_reducible assumption
    | with_reducible apply nextSource_keeps
    | with_reducible apply keepsIte
    | split

theorem journalChecks_keeps {z0 : State} {s : State} (p : Nat) (r : CommitRun) (h_s : Keeps z0 s) :
    Keeps z0 (journalChecks s p r) := by
  unfold journalChecks
  repeat' first
    | with_reducible assumption
    | intro _
    | with_reducible apply journalWrite_keeps
    | with_reducible apply keeps_foldl
    | with_reducible apply keepsIte

theorem decideStep_keeps {z0 : State} {s0 : State} (p : Nat) (h_s0 : Keeps z0 s0) :
    Keeps z0 (decideStep s0 p) := by
  unfold decideStep
  dsimp only
  repeat' first
    | with_reducible assumption
    | with_reducible apply writeIntent_keeps
    | with_reducible apply writeNormTable_keeps
    | with_reducible apply modRun_keeps
    | with_reducible apply endHalted_keeps
    | with_reducible apply applyStep_keeps
    | with_reducible apply settleRefetch_keeps
    | with_reducible apply journalChecks_keeps
    | with_reducible apply keepsIte
    | split

theorem progressCommit_keeps {z0 : State} {s : State} (p : Nat) (h_s : Keeps z0 s) :
    Keeps z0 (progressCommit s p) := by
  unfold progressCommit
  repeat' first
    | with_reducible assumption
    | with_reducible apply compareDigests_keeps
    | with_reducible apply decideStep_keeps
    | with_reducible apply keepsIte
    | split

theorem abandonStep_keeps {z0 : State} {s : State} (p : Nat) (r : CommitRun) (h_s : Keeps z0 s) :
    Keeps z0 (abandonStep s p r) := by
  unfold abandonStep
  dsimp only
  repeat' first
    | with_reducible assumption
    | intro _
    | with_reducible apply modJob_keeps
    | with_reducible apply endCmd_keeps
    | with_reducible apply modTable_keeps
    | with_reducible apply skipTable_keeps
    | with_reducible apply keeps_foldl
    | split

theorem rebuildSpares_keeps {z0 : State} {s : State} (p : Nat) (h_s : Keeps z0 s) :
    Keeps z0 (rebuildSpares s p) := by
  unfold rebuildSpares
  dsimp only
  repeat' first
    | with_reducible assumption
    | intro _
    | with_reducible apply modJob_keeps
    | with_reducible apply keeps_foldl
    | with_reducible apply keepsIte
    | split

theorem recoverWith_keeps {z0 : State} {s : State} (p decision : Nat) (clip : Nat) (hyper : Nat) (h_s : Keeps z0 s) :
    Keeps z0 (recoverWith s p decision clip hyper) := by
  unfold recoverWith
  dsimp only
  repeat' first
    | with_reducible assumption
    | with_reducible apply modRun_keeps
    | with_reducible apply endHalted_keeps
    | with_reducible apply applyStep_keeps
    | with_reducible apply settleRefetch_keeps
    | with_reducible apply rebuildSpares_keeps
    | with_reducible apply keepsIte
    | split

theorem commitExchange_keeps {z0 : State} {s : State} (p member kind step : Nat) (b : List Byte) (h_s : Keeps z0 s) :
    Keeps z0 (commitExchange s p member kind step b) := by
  unfold commitExchange
  dsimp only
  repeat' first
    | with_reducible assumption
    | with_reducible apply modJob_keeps
    | with_reducible apply writeIntent_keeps
    | with_reducible apply sendExchange_keeps
    | with_reducible apply modRun_keeps
    | with_reducible apply progressCommit_keeps
    | with_reducible apply abandonStep_keeps
    | with_reducible apply recoverWith_keeps
    | with_reducible apply keepsIte
    | split

theorem replayEarly_keeps {z0 : State} {s : State} (p step : Nat) (h_s : Keeps z0 s) :
    Keeps z0 (replayEarly s p step) := by
  unfold replayEarly
  dsimp only
  repeat' first
    | with_reducible assumption
    | intro _
    | with_reducible apply modJob_keeps
    | with_reducible apply commitExchange_keeps
    | with_reducible apply keeps_foldl
    | split

theorem execStepCommit_keeps {z0 : State} (q : BitVec 12) (pos : BitVec 32) {s : State} (h_s : Keeps z0 s) :
    OutKeeps z0 (execStepCommit q pos s) := by
  unfold execStepCommit
  dsimp only
  repeat' first
    | with_reducible assumption
    | with_reducible apply outNext
    | intro _
    | with_reducible apply modJob_keeps
    | with_reducible apply failAccess_keeps
    | with_reducible apply endCmd_keeps
    | with_reducible apply logPoison_keeps
    | with_reducible apply runCmd_keeps
    | with_reducible apply sendExchange_keeps
    | with_reducible apply progressCommit_keeps
    | with_reducible apply replayEarly_keeps
    | with_reducible apply keeps_foldl
    | with_reducible apply keepsIte
    | split

theorem execStepRecover_keeps {z0 : State} (q : BitVec 12) (pos : BitVec 32) {s : State} (h_s : Keeps z0 s) :
    OutKeeps z0 (execStepRecover q pos s) := by
  unfold execStepRecover
  dsimp only
  repeat' first
    | with_reducible assumption
    | with_reducible apply outNext
    | intro _
    | with_reducible apply modJob_keeps
    | with_reducible apply endCmd_keeps
    | with_reducible apply finishCmd_keeps
    | with_reducible apply runCmd_keeps
    | with_reducible apply sendExchange_keeps
    | with_reducible apply sendDigests_keeps
    | with_reducible apply modRun_keeps
    | with_reducible apply progressCommit_keeps
    | with_reducible apply abandonStep_keeps
    | with_reducible apply recoverWith_keeps
    | with_reducible apply replayEarly_keeps
    | with_reducible apply keeps_foldl
    | with_reducible apply keepsIte
    | split

theorem execCommitExchange_keeps {z0 : State} (p : BitVec 4) (member : BitVec 16) (kind : BitVec 2) (bytes : List Byte) {s : State} (h_s : Keeps z0 s) :
    OutKeeps z0 (execCommitExchange p member kind bytes s) := by
  unfold execCommitExchange
  dsimp only
  repeat' first
    | with_reducible assumption
    | with_reducible apply outNext
    | with_reducible apply commitExchange_keeps
    | split

theorem execCommitTimeout_keeps {z0 : State} (p : BitVec 4) {s : State} (h_s : Keeps z0 s) :
    OutKeeps z0 (execCommitTimeout p s) := by
  unfold execCommitTimeout
  dsimp only
  repeat' first
    | with_reducible assumption
    | with_reducible apply outNext
    | intro _
    | with_reducible apply modJob_keeps
    | with_reducible apply endCmd_keeps
    | with_reducible apply modRun_keeps
    | with_reducible apply compareDigests_keeps
    | with_reducible apply nextSource_keeps
    | with_reducible apply decideStep_keeps
    | with_reducible apply abandonStep_keeps
    | with_reducible apply keeps_foldl
    | with_reducible apply outIte
    | split

theorem serveFetch_keeps {z0 : State} {s : State} (p member i b step : Nat) (h_s : Keeps z0 s) :
    Keeps z0 (serveFetch s p member i b step) := by
  unfold serveFetch
  repeat' first
    | with_reducible assumption
    | with_reducible apply sendOr_keeps
    | with_reducible apply keepsIte
    | split

theorem takeFetched_keeps {z0 : State} {s : State} (p member i b : Nat) (bytes : List Byte) (h_s : Keeps z0 s) :
    Keeps z0 (takeFetched s p member i b bytes) := by
  unfold takeFetched
  dsimp only
  repeat' first
    | with_reducible assumption
    | with_reducible apply modChannel_keeps
    | with_reducible apply drawFree_keeps
    | with_reducible apply journalWrite_keeps
    | with_reducible apply switchBlock_keeps
    | with_reducible apply modRun_keeps
    | with_reducible apply finishRun_keeps
    | with_reducible apply beginDigests_keeps
    | with_reducible apply nextSource_keeps
    | with_reducible apply keepsIte
    | split

theorem execBlockFetchRequest_keeps {z0 : State} (p : BitVec 4) (member : BitVec 16) (dirIdx block : BitVec 32) {s : State} (h_s : Keeps z0 s) :
    OutKeeps z0 (execBlockFetchRequest p member dirIdx block s) := by
  unfold execBlockFetchRequest
  repeat' first
    | with_reducible assumption
    | with_reducible apply outNext
    | with_reducible apply serveFetch_keeps

theorem execBlockFetchResponse_keeps {z0 : State} (p : BitVec 4) (member : BitVec 16) (dirIdx block : BitVec 32) (bytes : List Byte) {s : State} (h_s : Keeps z0 s) :
    OutKeeps z0 (execBlockFetchResponse p member dirIdx block bytes s) := by
  unfold execBlockFetchResponse
  repeat' first
    | with_reducible assumption
    | with_reducible apply outNext
    | with_reducible apply takeFetched_keeps

theorem commitWrites_keeps {z0 : State} {s : State} (p : Nat) (h_s : Keeps z0 s) :
    Keeps z0 (commitWrites s p) := by
  unfold commitWrites
  dsimp only
  repeat' first
    | with_reducible assumption
    | intro _
    | with_reducible apply cohWrite_keeps
    | with_reducible apply writeScale_keeps
    | with_reducible apply keeps_foldl
    | split

theorem normTelemetry_keeps {z0 : State} {s : State} (j : Job) (r : CommitRun) (o : OpenStep) (status : Nat) (h_s : Keeps z0 s) :
    Keeps z0 (normTelemetry s j r o status) := by
  unfold normTelemetry
  dsimp only
  repeat' first
    | with_reducible assumption
    | intro _
    | with_reducible apply telemetryQueue_keeps
    | with_reducible apply keeps_foldl

theorem phaseRecord_keeps {z0 : State} {s : State} (p : Nat) (j : Job) (r : CommitRun) (o : OpenStep) (status : Nat) (h_s : Keeps z0 s) :
    Keeps z0 (phaseRecord s p j r o status) := by
  unfold phaseRecord
  dsimp only
  repeat' first
    | with_reducible assumption
    | intro _
    | with_reducible apply modJob_keeps
    | with_reducible apply drawBytes_keeps
    | with_reducible apply telemetryPf0_keeps
    | with_reducible apply keeps_foldl_snd

theorem commitAfter_keeps {z0 : State} {s : State} (p status : Nat) (h_s : Keeps z0 s) :
    Keeps z0 (commitAfter s p status) := by
  unfold commitAfter
  dsimp only
  repeat' first
    | with_reducible assumption
    | with_reducible apply modJob_keeps
    | with_reducible apply dripRelease_keeps
    | with_reducible apply haltJob_keeps
    | with_reducible apply journalCommit_keeps
    | with_reducible apply normTelemetry_keeps
    | with_reducible apply phaseRecord_keeps
    | with_reducible apply keepsIte
    | split

end Sys2Proof.Machine
end

