-- ==== Sys2Proof/Laws/KeepsCollective.lean ====
section
/-! SUPPORT. What the operations of Machine/Collective.lean keep. -/

namespace Sys2Proof.Machine

theorem readGroup_keeps {z0 : State} {s : State} (q pos a : Nat) (f : State → List Nat → Nat → State) (h_f : ∀ y0 y1 y2, Keeps z0 y0 → Keeps z0 (f y0 y1 y2)) (h_s : Keeps z0 s) :
    Keeps z0 (readGroup s q pos a f) := by
  unfold readGroup
  dsimp only
  repeat' first
    | with_reducible assumption
    | intro _
    | with_reducible apply endCmd_keeps
    | with_reducible apply cmdRead_keeps
    | with_reducible apply CmdIo_bind_keeps
    | with_reducible apply h_f
    | with_reducible apply keepsIte
    | split

theorem takeSeq_keeps {z0 : State} {s : State} (p tag : Nat) (h_s : Keeps z0 s) :
    Keeps z0 (takeSeq s p tag).2 := by
  unfold takeSeq
  dsimp only
  repeat' first
    | with_reducible assumption
    | with_reducible apply modJob_keeps

theorem sendEach_keeps {z0 : State} (q pos p : Nat) (f : Nat → Nat × Nat × Nat × Nat × List Byte) {a0 : State} (a1 : List Nat) (h_s : Keeps z0 a0) :
    Keeps z0 (sendEach q pos p f a0 a1) := by
  induction a1 generalizing a0 with
  | nil =>
    unfold sendEach
    repeat' with_reducible assumption
  | cons e l ih =>
    unfold sendEach
    dsimp only
    repeat' first
      | with_reducible assumption
      | with_reducible apply ih
      | with_reducible apply modCmd_keeps
      | with_reducible apply endCmd_keeps
      | with_reducible apply sendMessage_keeps
      | split
      | refine keeps_sent (by with_reducible assumption) ?_

theorem sendContribution_keeps {z0 : State} {s : State} (q pos p : Nat) (c : Cmd) (input : List Byte) (h_s : Keeps z0 s) :
    Keeps z0 (sendContribution s q pos p c input) := by
  unfold sendContribution
  dsimp only
  repeat' first
    | with_reducible assumption
    | with_reducible apply sendEach_keeps

theorem stampGrads_keeps {z0 : State} {s : State} (p a n : Nat) (h_s : Keeps z0 s) :
    Keeps z0 (stampGrads s p a n) := by
  unfold stampGrads
  dsimp only
  repeat' first
    | with_reducible assumption
    | intro _
    | with_reducible apply cohWrite_keeps
    | with_reducible apply keeps_foldl
    | with_reducible apply keepsIte
    | split

theorem collLaggard_keeps {z0 : State} {s : State} (p q : Nat) (c : Cmd) (h_s : Keeps z0 s) :
    Keeps z0 (collLaggard s p q c) := by
  unfold collLaggard
  dsimp only
  repeat' first
    | with_reducible assumption
    | with_reducible apply laggard_keeps
    | with_reducible apply keepsIte

theorem completeColl_keeps {z0 : State} {s : State} (q pos p : Nat) (c : Cmd) (out : List Byte) (h_s : Keeps z0 s) :
    Keeps z0 (completeColl s q pos p c out) := by
  unfold completeColl
  dsimp only
  repeat' first
    | with_reducible assumption
    | intro _
    | with_reducible apply modColl_keeps
    | with_reducible apply journalWrite_keeps
    | with_reducible apply finishCmd_keeps
    | with_reducible apply cmdWrite_keeps
    | with_reducible apply CmdIo_bind_keeps
    | with_reducible apply stampGrads_keeps
    | with_reducible apply collLaggard_keeps
    | with_reducible apply keepsIte

theorem mismatchColl_keeps {z0 : State} {s : State} (q pos p : Nat) (c : Cmd) (tell : Bool) (h_s : Keeps z0 s) :
    Keeps z0 (mismatchColl s q pos p c tell) := by
  unfold mismatchColl
  dsimp only
  repeat' first
    | with_reducible assumption
    | intro _
    | with_reducible apply endCmd_keeps
    | with_reducible apply sendOr_keeps
    | with_reducible apply keeps_foldl
    | with_reducible apply keepsIte

theorem progressColl_keeps {z0 : State} {s : State} (q pos : Nat) (h_s : Keeps z0 s) :
    Keeps z0 (progressColl s q pos) := by
  unfold progressColl
  dsimp only
  repeat' first
    | with_reducible assumption
    | intro _
    | with_reducible apply modCmd_keeps
    | with_reducible apply cmdRead_keeps
    | with_reducible apply CmdIo_bind_keeps
    | with_reducible apply sendOr_keeps
    | with_reducible apply completeColl_keeps
    | with_reducible apply mismatchColl_keeps
    | with_reducible apply keeps_foldl
    | with_reducible apply keepsIte
    | split

theorem beginColl_keeps {z0 : State} {s : State} (q pos p : Nat) (c : Cmd) (h_s : Keeps z0 s) :
    Keeps z0 (beginColl s q pos p c) := by
  unfold beginColl
  dsimp only
  repeat' first
    | with_reducible assumption
    | intro _
    | with_reducible apply modCmd_keeps
    | with_reducible apply endCmd_keeps
    | with_reducible apply cmdRead_keeps
    | with_reducible apply CmdIo_bind_keeps
    | with_reducible apply readGroup_keeps
    | with_reducible apply takeSeq_keeps
    | with_reducible apply sendContribution_keeps
    | with_reducible apply completeColl_keeps
    | with_reducible apply keepsIte

theorem takeData_keeps {z0 : State} {s : State} (q pos : Nat) (m : RxMsg) (h_s : Keeps z0 s) :
    Keeps z0 (takeData s q pos m) := by
  unfold takeData
  dsimp only
  repeat' first
    | with_reducible assumption
    | with_reducible apply modCmd_keeps
    | split

theorem restartColl_keeps {z0 : State} {s : State} (q pos : Nat) (tell : Bool) (h_s : Keeps z0 s) :
    Keeps z0 (restartColl s q pos tell) := by
  unfold restartColl
  dsimp only
  repeat' first
    | with_reducible assumption
    | intro _
    | with_reducible apply modColl_keeps
    | with_reducible apply modCmd_keeps
    | with_reducible apply cmdRead_keeps
    | with_reducible apply CmdIo_bind_keeps
    | with_reducible apply sendOr_keeps
    | with_reducible apply sendContribution_keeps
    | with_reducible apply keeps_foldl
    | with_reducible apply keepsIte
    | split

theorem takeDone_keeps {z0 : State} {s : State} (q pos member : Nat) (h_s : Keeps z0 s) :
    Keeps z0 (takeDone s q pos member) := by
  unfold takeDone
  repeat' first
    | with_reducible assumption
    | with_reducible apply modCmd_keeps
    | with_reducible apply progressColl_keeps
    | with_reducible apply keepsIte
    | split

theorem progressRing_keeps {z0 : State} {s : State} (q pos : Nat) (h_s : Keeps z0 s) :
    Keeps z0 (progressRing s q pos) := by
  unfold progressRing
  dsimp only
  repeat' first
    | with_reducible assumption
    | intro _
    | with_reducible apply modFunc_keeps
    | with_reducible apply journalWrite_keeps
    | with_reducible apply modCmd_keeps
    | with_reducible apply finishCmd_keeps
    | with_reducible apply cmdRead_keeps
    | with_reducible apply cmdWrite_keeps
    | with_reducible apply CmdIo_bind_keeps
    | with_reducible apply sendEach_keeps
    | with_reducible apply keepsIte
    | split

theorem progressLocalRing_keeps {z0 : State} {s : State} (q pos p : Nat) (c : Cmd) (h_s : Keeps z0 s) :
    Keeps z0 (progressLocalRing s q pos p c) := by
  unfold progressLocalRing
  dsimp only
  repeat' first
    | with_reducible assumption
    | intro _
    | with_reducible apply modCmd_keeps
    | with_reducible apply finishCmd_keeps
    | with_reducible apply cmdRead_keeps
    | with_reducible apply cmdWrite_keeps
    | with_reducible apply CmdIo_bind_keeps
    | with_reducible apply keepsIte
    | split

theorem deliver_keeps {z0 : State} {s : State} (p : Nat) (m : RxMsg) (h_s : Keeps z0 s) :
    Keeps z0 (deliver s p m) := by
  unfold deliver
  dsimp only
  repeat' first
    | with_reducible assumption
    | with_reducible apply modJob_keeps
    | with_reducible apply modCmd_keeps
    | with_reducible apply commitExchange_keeps
    | with_reducible apply serveFetch_keeps
    | with_reducible apply takeFetched_keeps
    | with_reducible apply mismatchColl_keeps
    | with_reducible apply progressColl_keeps
    | with_reducible apply takeData_keeps
    | with_reducible apply restartColl_keeps
    | with_reducible apply takeDone_keeps
    | with_reducible apply progressRing_keeps
    | with_reducible apply keepsIte
    | split

theorem deliverEarly_keeps {z0 : State} {s : State} (p tag seq : Nat) (h_s : Keeps z0 s) :
    Keeps z0 (deliverEarly s p tag seq) := by
  unfold deliverEarly
  dsimp only
  repeat' first
    | with_reducible assumption
    | intro _
    | with_reducible apply modJob_keeps
    | with_reducible apply deliver_keeps
    | with_reducible apply keeps_foldl
    | split

theorem execCollective_keeps {z0 : State} (q : BitVec 12) (pos : BitVec 32) {s : State} (h_s : Keeps z0 s) :
    OutKeeps z0 (execCollective q pos s) := by
  unfold execCollective
  dsimp only
  repeat' first
    | with_reducible assumption
    | with_reducible apply outNext
    | intro _
    | with_reducible apply runCmd_keeps
    | with_reducible apply progressColl_keeps
    | with_reducible apply beginColl_keeps
    | with_reducible apply deliverEarly_keeps
    | with_reducible apply keepsIte
    | split

theorem execCollectiveDone_keeps {z0 : State} (q : BitVec 12) (pos : BitVec 32) (member : BitVec 16) {s : State} (h_s : Keeps z0 s) :
    OutKeeps z0 (execCollectiveDone q pos member s) := by
  unfold execCollectiveDone
  repeat' first
    | with_reducible assumption
    | with_reducible apply outNext
    | intro _
    | with_reducible apply runCmd_keeps
    | with_reducible apply takeDone_keeps

theorem execCollectiveRestart_keeps {z0 : State} (q : BitVec 12) (pos : BitVec 32) {s : State} (h_s : Keeps z0 s) :
    OutKeeps z0 (execCollectiveRestart q pos s) := by
  unfold execCollectiveRestart
  repeat' first
    | with_reducible assumption
    | with_reducible apply outNext
    | intro _
    | with_reducible apply runCmd_keeps
    | with_reducible apply restartColl_keeps

theorem execRingPass_keeps {z0 : State} (q : BitVec 12) (pos : BitVec 32) {s : State} (h_s : Keeps z0 s) :
    OutKeeps z0 (execRingPass q pos s) := by
  unfold execRingPass
  dsimp only
  repeat' first
    | with_reducible assumption
    | with_reducible apply outNext
    | intro _
    | with_reducible apply modCmd_keeps
    | with_reducible apply endCmd_keeps
    | with_reducible apply runCmd_keeps
    | with_reducible apply readGroup_keeps
    | with_reducible apply takeSeq_keeps
    | with_reducible apply sendEach_keeps
    | with_reducible apply progressRing_keeps
    | with_reducible apply progressLocalRing_keeps
    | with_reducible apply deliverEarly_keeps
    | with_reducible apply keepsIte

theorem execRingPassGrant_keeps {z0 : State} (q : BitVec 12) (pos : BitVec 32) {s : State} (h_s : Keeps z0 s) :
    OutKeeps z0 (execRingPassGrant q pos s) := by
  unfold execRingPassGrant
  repeat' first
    | with_reducible assumption
    | with_reducible apply outNext
    | intro _
    | with_reducible apply modCmd_keeps
    | with_reducible apply runCmd_keeps
    | with_reducible apply progressRing_keeps

end Sys2Proof.Machine
end

