-- ==== Sys2Proof/Laws/KeepsTraining.lean ====
section
/-! SUPPORT. What the operations of Machine/Training.lean keep. -/

namespace Sys2Proof.Machine

theorem moveSlivers_keeps {z0 : State} {t : State} (p idx role : Nat) (r : Role) (k slow fast : Nat) (h_t : Keeps z0 t) :
    Keeps z0 (moveSlivers t p idx role r k slow fast) := by
  unfold moveSlivers
  dsimp only
  repeat' first
    | with_reducible assumption
    | with_reducible apply modJob_keeps
    | with_reducible apply journalOutcome_keeps

theorem switchMapping_keeps {z0 : State} {s : State} (p idx : Nat) (rebalance : Bool) (pm : Nat) (h_s : Keeps z0 s) :
    Keeps z0 (switchMapping s p idx rebalance pm) := by
  unfold switchMapping
  dsimp only
  repeat' first
    | with_reducible assumption
    | intro _
    | with_reducible apply modJob_keeps
    | with_reducible apply moveSlivers_keeps
    | with_reducible apply keeps_foldl
    | with_reducible apply keepsIte
    | split

theorem closeWindow_keeps {z0 : State} {s : State} (p : Nat) (h_s : Keeps z0 s) :
    Keeps z0 (closeWindow s p) := by
  unfold closeWindow
  dsimp only
  repeat' first
    | with_reducible assumption
    | with_reducible apply modJob_keeps
    | with_reducible apply switchMapping_keeps
    | with_reducible apply keepsIte
    | split

theorem offloadPages_keeps {z0 : State} {s : State} (p : Nat) (o : OpenStep) (x : Chunk) (dir : MigDir) (h_s : Keeps z0 s) :
    Keeps z0 (offloadPages s p o x dir) := by
  unfold offloadPages
  dsimp only
  repeat' first
    | with_reducible assumption
    | intro _
    | with_reducible apply queueMig_keeps
    | with_reducible apply startMigration_keeps
    | with_reducible apply keeps_foldl
    | split
    | refine keeps_snd (by with_reducible assumption) ?_

theorem chunkDone_keeps {z0 : State} {s : State} (p : Nat) (c : Cmd) (h_s : Keeps z0 s) :
    Keeps z0 (chunkDone s p c) := by
  unfold chunkDone
  dsimp only
  repeat' first
    | with_reducible assumption
    | intro _
    | with_reducible apply modJob_keeps
    | with_reducible apply closeWindow_keeps
    | with_reducible apply offloadPages_keeps
    | with_reducible apply keeps_foldl
    | with_reducible apply keepsIte
    | split

theorem clearRange_keeps {z0 : State} {s : State} (a n : Nat) (h_s : Keeps z0 s) :
    Keeps z0 (clearRange s a n) := by
  unfold clearRange
  dsimp only
  iterate 2
    all_goals repeat' first
      | with_reducible assumption
      | with_reducible apply recallRange_keeps
      | with_reducible apply clearPoison_keeps
    all_goals try with_reducible apply keeps_mk
    all_goals try first
      | with_reducible exact id
      | with_reducible exact Nat.le_refl _
      | with_reducible exact memClear_wf _ _

theorem writeSnapshot_keeps {z0 : State} {s : State} (p : Nat) (h_s : Keeps z0 s) :
    Keeps z0 (writeSnapshot s p) := by
  unfold writeSnapshot
  dsimp only
  repeat' first
    | with_reducible assumption
    | intro _
    | with_reducible apply modPart_keeps
    | with_reducible apply journalWrite_keeps
    | with_reducible apply inputRecord_keeps
    | with_reducible apply keeps_foldl
    | with_reducible apply keepsIte
    | split

theorem openStep_keeps {z0 : State} {s : State} (p q : Nat) (j : Job) (x : StepPlan) (h_s : Keeps z0 s) :
    Keeps z0 (openStep s p q j x) := by
  unfold openStep
  dsimp only
  repeat' first
    | with_reducible assumption
    | intro _
    | with_reducible apply modJob_keeps
    | with_reducible apply cohWrite_keeps
    | with_reducible apply switchTables_keeps
    | with_reducible apply switchMapping_keeps
    | with_reducible apply clearRange_keeps
    | with_reducible apply keeps_foldl

theorem execStepBegin_keeps {z0 : State} (q : BitVec 12) (pos : BitVec 32) {s : State} (h_s : Keeps z0 s) :
    OutKeeps z0 (execStepBegin q pos s) := by
  unfold execStepBegin
  dsimp only
  repeat' first
    | with_reducible assumption
    | with_reducible apply outNext
    | intro _
    | with_reducible apply failAccess_keeps
    | with_reducible apply endCmd_keeps
    | with_reducible apply finishCmd_keeps
    | with_reducible apply runCmd_keeps
    | with_reducible apply cmdRead_keeps
    | with_reducible apply CmdIo_bind_keeps
    | with_reducible apply openStep_keeps
    | with_reducible apply keepsIte
    | split

theorem execEvalBegin_keeps {z0 : State} (q : BitVec 12) (pos : BitVec 32) {s : State} (h_s : Keeps z0 s) :
    OutKeeps z0 (execEvalBegin q pos s) := by
  unfold execEvalBegin
  dsimp only
  repeat' first
    | with_reducible assumption
    | with_reducible apply outNext
    | intro _
    | with_reducible apply modJob_keeps
    | with_reducible apply endCmd_keeps
    | with_reducible apply finishCmd_keeps
    | with_reducible apply switchTables_keeps
    | with_reducible apply runCmd_keeps
    | with_reducible apply switchMapping_keeps
    | with_reducible apply keepsIte
    | split

theorem execEvalEnd_keeps {z0 : State} (q : BitVec 12) (pos : BitVec 32) {s : State} (h_s : Keeps z0 s) :
    OutKeeps z0 (execEvalEnd q pos s) := by
  unfold execEvalEnd
  dsimp only
  repeat' first
    | with_reducible assumption
    | with_reducible apply outNext
    | intro _
    | with_reducible apply modJob_keeps
    | with_reducible apply endCmd_keeps
    | with_reducible apply finishCmd_keeps
    | with_reducible apply runCmd_keeps
    | with_reducible apply keepsIte
    | split

theorem inPlaceCopies_keeps {z0 : State} (q pos : Nat) (back : Bool) {s : State} (bufs : List Buf) (h_s : Keeps z0 s) :
    CmdIo.Keeps z0 (inPlaceCopies q pos back s bufs) := by
  unfold inPlaceCopies
  repeat' first
    | with_reducible assumption
    | intro _
    | with_reducible apply cmdRead_keeps
    | with_reducible apply cmdWrite_keeps
    | with_reducible apply CmdIo_andThen_keeps
    | with_reducible apply ioFold_keeps

theorem startCore_keeps {z0 : State} {s : State} (q p : Nat) (x : Queue) (c : Cmd) (text : List Byte) (role : Option Role) (r k : Nat) (h_s : Keeps z0 s) :
    Keeps z0 (startCore s q p x c text role r k) := by
  unfold startCore
  dsimp only
  iterate 2
    all_goals repeat' first
      | with_reducible assumption
      | with_reducible apply modCore_keeps
      | with_reducible apply keepsIte
    all_goals try with_reducible apply keeps_mk
    all_goals try first
      | with_reducible exact id
      | with_reducible exact Nat.le_refl _
      | with_reducible exact memPutBytes_wf _ _

theorem execProgramRun_keeps {z0 : State} (q : BitVec 12) (pos : BitVec 32) {s : State} (h_s : Keeps z0 s) :
    OutKeeps z0 (execProgramRun q pos s) := by
  unfold execProgramRun
  dsimp only
  repeat' first
    | with_reducible assumption
    | with_reducible apply outNext
    | intro _
    | with_reducible apply modCmd_keeps
    | with_reducible apply endCmd_keeps
    | with_reducible apply runCmd_keeps
    | with_reducible apply cmdRead_keeps
    | with_reducible apply CmdIo_bind_keeps
    | with_reducible apply inPlaceCopies_keeps
    | with_reducible apply startCore_keeps
    | with_reducible apply keeps_foldl
    | with_reducible apply keepsIte

theorem gatherFails_keeps {z0 : State} {s : State} (q pos p : Nat) (tensor shard want found : Nat) (h_s : Keeps z0 s) :
    Keeps z0 (gatherFails s q pos p tensor shard want found) := by
  unfold gatherFails
  dsimp only
  repeat' first
    | with_reducible assumption
    | with_reducible apply modJob_keeps
    | with_reducible apply logError_keeps
    | with_reducible apply endCmd_keeps

theorem logStamp_keeps {z0 : State} {s : State} (j : Job) (c : Cmd) (tensor stamp : Nat) (h_s : Keeps z0 s) :
    Keeps z0 (logStamp s j c tensor stamp) := by
  unfold logStamp
  repeat' first
    | with_reducible assumption
    | with_reducible apply cohWrite_keeps
    | with_reducible apply keepsIte
    | split

theorem scatterShard_keeps {z0 : State} {s : State} (x : Queue) (c : Cmd) (tensor shard stamp : Nat) (data : List Byte) (h_s : Keeps z0 s) :
    Keeps z0 (scatterShard s x c tensor shard stamp data) := by
  unfold scatterShard
  dsimp only
  iterate 2
    all_goals repeat' first
      | with_reducible assumption
      | intro _
      | with_reducible apply keeps_foldl
    all_goals try with_reducible apply keeps_mk
    all_goals try first
      | with_reducible exact id
      | with_reducible exact Nat.le_refl _
      | with_reducible exact memPutBytes_wf _ _

theorem finishGather_keeps {z0 : State} {s : State} (q pos : Nat) (x : Queue) (c : Cmd) (stamp : Option Nat) (data : List Byte) (h_s : Keeps z0 s) :
    Keeps z0 (finishGather s q pos x c stamp data) := by
  unfold finishGather
  dsimp only
  repeat' first
    | with_reducible assumption
    | with_reducible apply journalOutcome_keeps
    | with_reducible apply modCmd_keeps
    | with_reducible apply endCmd_keeps
    | with_reducible apply finishCmd_keeps
    | with_reducible apply gatherFails_keeps
    | with_reducible apply logStamp_keeps
    | with_reducible apply scatterShard_keeps
    | with_reducible apply keepsIte
    | split

theorem execGatherShard_keeps {z0 : State} (q : BitVec 12) (pos : BitVec 32) {s : State} (h_s : Keeps z0 s) :
    OutKeeps z0 (execGatherShard q pos s) := by
  unfold execGatherShard
  dsimp only
  repeat' first
    | with_reducible assumption
    | with_reducible apply outNext
    | intro _
    | with_reducible apply endCmd_keeps
    | with_reducible apply runCmd_keeps
    | with_reducible apply cmdRead_keeps
    | with_reducible apply CmdIo_bind_keeps
    | with_reducible apply cmdReads_keeps
    | with_reducible apply finishGather_keeps
    | with_reducible apply keepsIte
    | split
    | refine keeps_okFst (by with_reducible assumption) ?_
    | refine keeps_heldFst (by with_reducible assumption) ?_
    | refine keeps_endedFst (by with_reducible assumption) ?_

end Sys2Proof.Machine
end

