-- ==== Sys2Proof/Laws/KeepsQueues.lean ====
section
/-! SUPPORT. What the operations of Machine/Queues.lean keep. -/

namespace Sys2Proof.Machine

theorem hartFault_keeps {z0 : State} {s : State} (h cause addr : Nat) (h_s : Keeps z0 s) :
    Keeps z0 (hartFault s h cause addr) := by
  unfold hartFault
  repeat' first
    | with_reducible assumption
    | with_reducible apply modHart_keeps

theorem rejectDoorbell_keeps {z0 : State} {s : State} (fn : Nat) (h_s : Keeps z0 s) :
    Keeps z0 (rejectDoorbell s fn) := by
  unfold rejectDoorbell
  repeat' first
    | with_reducible assumption
    | with_reducible apply modFunc_keeps

theorem acceptTail_keeps {z0 : State} {s : State} (q p : Nat) (t : Word32) (h_s : Keeps z0 s) :
    Keeps z0 (acceptTail s q p t) := by
  unfold acceptTail
  dsimp only
  repeat' first
    | with_reducible assumption
    | with_reducible apply modQueue_keeps
    | with_reducible apply journalWrite_keeps

theorem execDoorbell_keeps {z0 : State} (fn : BitVec 4) (q : BitVec 12) (off : BitVec 12) (size : BitVec 4) (value : BitVec 64) {s : State} (h_s : Keeps z0 s) :
    OutKeeps z0 (execDoorbell fn q off size value s) := by
  unfold execDoorbell
  dsimp only
  repeat' first
    | with_reducible assumption
    | with_reducible apply outNext
    | with_reducible apply rejectDoorbell_keeps
    | with_reducible apply acceptTail_keeps
    | with_reducible apply outIte
    | split

theorem localDoorbell_keeps {z0 : State} {s : State} (h q size : Nat) (value : Word64) (h_s : Keeps z0 s) :
    Keeps z0 (localDoorbell s h q size value) := by
  unfold localDoorbell
  dsimp only
  repeat' first
    | with_reducible assumption
    | with_reducible apply isoViolation_keeps
    | with_reducible apply hartFault_keeps
    | with_reducible apply rejectDoorbell_keeps
    | with_reducible apply acceptTail_keeps
    | with_reducible apply keepsIte
    | split

theorem execLocalDoorbell_keeps {z0 : State} (hart : BitVec 6) (q : BitVec 12) (size : BitVec 4) (value : BitVec 64) {s : State} (h_s : Keeps z0 s) :
    OutKeeps z0 (execLocalDoorbell hart q size value s) := by
  unfold execLocalDoorbell
  repeat' first
    | with_reducible assumption
    | with_reducible apply outNext
    | with_reducible apply localDoorbell_keeps

theorem rejectDescriptor_keeps {z0 : State} {s : State} (q n : Nat) (h_s : Keeps z0 s) :
    Keeps z0 (rejectDescriptor s q n) := by
  unfold rejectDescriptor
  dsimp only
  repeat' first
    | with_reducible assumption
    | with_reducible apply modQueue_keeps
    | with_reducible apply writeCompletion_keeps

theorem takeDescriptors_keeps {z0 : State}  (a0 : Nat) {a1 : State} (a2 : Nat) (a3 : List Byte) (h_s : Keeps z0 a1) :
    Keeps z0 (takeDescriptors a0 a1 a2 a3) := by
  induction a0 generalizing a1 a2 a3 with
  | zero =>
    unfold takeDescriptors
    repeat' with_reducible assumption
  | succ n ih =>
    unfold takeDescriptors
    dsimp only
    repeat' first
      | with_reducible assumption
      | with_reducible apply ih
      | with_reducible apply modQueue_keeps
      | with_reducible apply rejectDescriptor_keeps
      | with_reducible apply keepsIte
      | split

theorem holdDescriptor_keeps {z0 : State} {s : State} (q : Nat) (x : Queue) (result : Nat) (h_s : Keeps z0 s) :
    Keeps z0 (holdDescriptor s q x result) := by
  unfold holdDescriptor
  dsimp only
  iterate 2
    all_goals repeat' first
      | with_reducible assumption
      | with_reducible apply holdRequest_keeps
      | with_reducible apply issueRead_keeps
      | split
    all_goals try with_reducible apply keeps_mk
    all_goals try first
      | with_reducible exact id
      | with_reducible exact Nat.le_refl _

theorem descReadDone_keeps {z0 : State} {s : State} (q : Nat) (h_s : Keeps z0 s) :
    Keeps z0 (descReadDone s q) := by
  unfold descReadDone
  iterate 2
    all_goals repeat' first
      | with_reducible assumption
      | with_reducible apply endHolds_keeps
      | split
    all_goals try with_reducible apply keeps_mk
    all_goals try first
      | with_reducible exact id
      | with_reducible exact Nat.le_refl _

theorem execDescriptorFetchComplete_keeps {z0 : State} (q : BitVec 12) (result : BitVec 3) (bytes : List Byte) {s : State} (h_s : Keeps z0 s) :
    OutKeeps z0 (execDescriptorFetchComplete q result bytes s) := by
  unfold execDescriptorFetchComplete
  dsimp only
  repeat' first
    | with_reducible assumption
    | with_reducible apply outNext
    | with_reducible apply takeDescriptors_keeps
    | with_reducible apply holdDescriptor_keeps
    | with_reducible apply descReadDone_keeps
    | with_reducible apply outIte
    | split

theorem parkQueue_keeps {z0 : State} {s : State} (q : Nat) (x : Queue) (h_s : Keeps z0 s) :
    Keeps z0 (parkQueue s q x) := by
  unfold parkQueue
  dsimp only
  repeat' first
    | with_reducible assumption
    | with_reducible apply modFunc_keeps
    | with_reducible apply modQueue_keeps
    | with_reducible apply writeCompletion_keeps

theorem execDescriptorReread_keeps {z0 : State} (q : BitVec 12) (bytes : List Byte) {s : State} (h_s : Keeps z0 s) :
    OutKeeps z0 (execDescriptorReread q bytes s) := by
  unfold execDescriptorReread
  dsimp only
  repeat' first
    | with_reducible assumption
    | with_reducible apply outNext
    | with_reducible apply modQueue_keeps
    | with_reducible apply takeDescriptors_keeps
    | with_reducible apply parkQueue_keeps
    | with_reducible apply outIte
    | split

theorem releaseSlots_keeps {z0 : State} {s : State} (fn : Nat) (bufs : List Buf) (h_s : Keeps z0 s) :
    Keeps z0 (releaseSlots s fn bufs) := by
  unfold releaseSlots
  repeat' first
    | with_reducible assumption
    | intro _
    | with_reducible apply cohWrite_keeps
    | with_reducible apply keeps_foldl
    | with_reducible apply keepsIte
    | split

theorem journalAdmission_keeps {z0 : State} {s : State} (p q : Nat) (c : Cmd) (order : Nat) (bufs : List Buf) (h_s : Keeps z0 s) :
    Keeps z0 (journalAdmission s p q c order bufs).1 := by
  unfold journalAdmission
  dsimp only
  repeat' first
    | with_reducible assumption
    | intro _
    | with_reducible apply journalWrite_keeps
    | with_reducible apply journalInput_keeps
    | with_reducible apply keeps_foldl

theorem admitCmd_keeps {z0 : State} {s : State} (p q : Nat) (c : Cmd) (bufs : List Buf) (cores : List Nat) (h_s : Keeps z0 s) :
    Keeps z0 (admitCmd s p q c bufs cores) := by
  unfold admitCmd
  dsimp only
  repeat' first
    | with_reducible assumption
    | with_reducible apply modPart_keeps
    | with_reducible apply modJob_keeps
    | with_reducible apply modCmd_keeps
    | with_reducible apply writeSnapshot_keeps
    | with_reducible apply journalAdmission_keeps
    | with_reducible apply keepsIte

theorem admitWith_keeps {z0 : State} {s : State} (q p : Nat) (x : Queue) (c : Cmd) (explicit : List Buf) (h_s : Keeps z0 s) :
    Keeps z0 (admitWith s q p x c explicit) := by
  unfold admitWith
  dsimp only
  repeat' first
    | with_reducible assumption
    | intro _
    | with_reducible apply failAccess_keeps
    | with_reducible apply wakeCore_keeps
    | with_reducible apply endCmd_keeps
    | with_reducible apply iommuFault_keeps
    | with_reducible apply admitCmd_keeps
    | with_reducible apply keeps_foldl
    | with_reducible apply keepsIte
    | split

theorem execCommandAdmission_keeps {z0 : State} (q : BitVec 12) {s : State} (h_s : Keeps z0 s) :
    OutKeeps z0 (execCommandAdmission q s) := by
  unfold execCommandAdmission
  dsimp only
  repeat' first
    | with_reducible assumption
    | with_reducible apply outNext
    | intro _
    | with_reducible apply modPart_keeps
    | with_reducible apply modJob_keeps
    | with_reducible apply endCmd_keeps
    | with_reducible apply cmdRead_keeps
    | with_reducible apply CmdIo_bind_keeps
    | with_reducible apply admitWith_keeps
    | with_reducible apply keepsIte
    | with_reducible apply outIte
    | split

theorem chargeWgb_keeps {z0 : State} {s : State} (q pos : Nat) (op : WgbOp) (h_s : Keeps z0 s) :
    Keeps z0 (chargeWgb s q pos op) := by
  unfold chargeWgb
  repeat' first
    | with_reducible assumption
    | with_reducible apply chargePieces_keeps
    | split

theorem commitWgb_keeps {z0 : State} {s : State} (p q pos k : Nat) (h_s : Keeps z0 s) :
    Keeps z0 (commitWgb s p q pos k) := by
  unfold commitWgb
  dsimp only
  repeat' first
    | with_reducible assumption
    | intro _
    | with_reducible apply modCore_keeps
    | with_reducible apply applyWgb_keeps
    | with_reducible apply addRecordLanes_keeps
    | with_reducible apply chargeWgb_keeps
    | with_reducible apply keeps_foldl
    | split

theorem patchJournal_keeps {z0 : State} {s : State} (c : Cmd) (seq : Nat) (h_s : Keeps z0 s) :
    Keeps z0 (patchJournal s c seq) := by
  unfold patchJournal
  dsimp only
  repeat' first
    | with_reducible assumption
    | with_reducible apply moduleWrite_keeps
    | with_reducible apply keepsIte

theorem countRemote_keeps {z0 : State} {s : State} (p : Nat) (c : Cmd) (r : Option (Nat × Nat)) (h_s : Keeps z0 s) :
    Keeps z0 (countRemote s p c r) := by
  unfold countRemote
  repeat' first
    | with_reducible assumption
    | with_reducible apply modFunc_keeps
    | split

theorem commitRest_keeps {z0 : State} {s : State} (q p : Nat) (c : Cmd) (h_s : Keeps z0 s) :
    Keeps z0 (commitRest s q p c) := by
  unfold commitRest
  dsimp only
  repeat' first
    | with_reducible assumption
    | with_reducible apply modPart_keeps
    | with_reducible apply modFunc_keeps
    | with_reducible apply writeCompletion_keeps
    | with_reducible apply account_keeps
    | with_reducible apply removeCmd_keeps
    | with_reducible apply applySignal_keeps
    | with_reducible apply commitWrites_keeps
    | with_reducible apply commitAfter_keeps
    | with_reducible apply chunkDone_keeps
    | with_reducible apply releaseSlots_keeps
    | with_reducible apply patchJournal_keeps
    | with_reducible apply countRemote_keeps
    | with_reducible apply keepsIte
    | split

theorem execCommandCommit_keeps {z0 : State} (q : BitVec 12) (pos : BitVec 32) {s : State} (h_s : Keeps z0 s) :
    OutKeeps z0 (execCommandCommit q pos s) := by
  unfold execCommandCommit
  dsimp only
  repeat' first
    | with_reducible assumption
    | with_reducible apply outNext
    | intro _
    | with_reducible apply modCore_keeps
    | with_reducible apply endCmd_keeps
    | with_reducible apply commitWgb_keeps
    | with_reducible apply commitRest_keeps
    | with_reducible apply keeps_foldl
    | with_reducible apply keepsIte
    | with_reducible apply outIte
    | split

theorem execSlicePreemption_keeps {z0 : State} (q : BitVec 12) (pos : BitVec 32) {s : State} (h_s : Keeps z0 s) :
    OutKeeps z0 (execSlicePreemption q pos s) := by
  unfold execSlicePreemption
  dsimp only
  repeat' first
    | with_reducible assumption
    | with_reducible apply outNext
    | intro _
    | with_reducible apply journalOutcome_keeps
    | with_reducible apply modCmd_keeps
    | with_reducible apply killCore_keeps
    | with_reducible apply dropHolds_keeps
    | with_reducible apply keeps_foldl
    | with_reducible apply outIte
    | split

end Sys2Proof.Machine
end

