-- ==== Sys2Proof/Laws/KeepsCoherence.lean ====
section
/-! SUPPORT. What the operations of Machine/Coherence.lean keep. -/

namespace Sys2Proof.Machine

theorem setTxn_keeps {z0 : State} {s : State} (m : Nat) (t : CohTxn) (h_s : Keeps z0 s) :
    Keeps z0 (setTxn s m t) := by
  unfold setTxn
  repeat' first
    | with_reducible assumption
    | with_reducible apply modHome_keeps

theorem atomicApply_keeps {z0 : State} {s : State} (agent p addr size : Nat) (op : AtomicOp) (x cmp : Nat) (far : Bool) (h_s : Keeps z0 s) :
    Keeps z0 (atomicApply s agent p addr size op x cmp far).2 := by
  unfold atomicApply
  dsimp only
  repeat' first
    | with_reducible assumption
    | with_reducible apply modPart_keeps
    | with_reducible apply modHome_keeps
    | with_reducible apply cohWrite_keeps
    | with_reducible apply journalWrite_keeps
    | with_reducible apply keepsIte

theorem writeMasked_keeps {z0 : State} {s : State} (lid : Nat) (d : BitVec 512) (mask : BitVec 64) (h_s : Keeps z0 s) :
    Keeps z0 (writeMasked s lid d mask) := by
  unfold writeMasked
  dsimp only
  repeat' first
    | with_reducible assumption
    | with_reducible apply putLine_keeps
    | with_reducible apply clearPoison_keeps
    | with_reducible apply dropReservations_keeps
    | with_reducible apply keepsIte

theorem finishSnoops_keeps {z0 : State} {s : State} (m : Nat) (t : CohTxn) (h_s : Keeps z0 s) :
    Keeps z0 (finishSnoops s m t) := by
  unfold finishSnoops
  dsimp only
  repeat' first
    | with_reducible assumption
    | with_reducible apply modHome_keeps
    | with_reducible apply setTxn_keeps
    | with_reducible apply atomicApply_keeps
    | with_reducible apply writeMasked_keeps
    | split

theorem startTxn_keeps {z0 : State} {s : State} (m : Nat) (t : CohTxn) (h_s : Keeps z0 s) :
    OptKeeps z0 (startTxn s m t) := by
  unfold startTxn
  dsimp only
  repeat' first
    | with_reducible assumption
    | with_reducible apply optNone
    | with_reducible apply optSome
    | with_reducible apply modHome_keeps
    | with_reducible apply putLine_keeps
    | with_reducible apply finishSnoops_keeps
    | with_reducible apply keepsIte
    | with_reducible apply optIte
    | split

theorem kickHome_keeps {z0 : State}  (a0 : Nat) {a1 : State} (a2 : Nat) (h_s : Keeps z0 a1) :
    Keeps z0 (kickHome a0 a1 a2) := by
  induction a0 generalizing a1 a2 with
  | zero =>
    unfold kickHome
    repeat' with_reducible assumption
  | succ n ih =>
    unfold kickHome
    dsimp only
    repeat' first
      | with_reducible assumption
      | with_reducible apply ih
      | intro _
      | with_reducible apply startTxn_keeps
      | with_reducible apply keeps_findSome
      | split
      | refine keeps_some (by with_reducible assumption) ?_

theorem settleHome_keeps {z0 : State} {s : State} (m : Nat) (h_s : Keeps z0 s) :
    Keeps z0 (settleHome s m) := by
  unfold settleHome
  repeat' first
    | with_reducible assumption
    | with_reducible apply kickHome_keeps

theorem acceptTxn_keeps {z0 : State} {s : State} (m : Nat) (t : CohTxn) (h_s : Keeps z0 s) :
    Keeps z0 (acceptTxn s m t) := by
  unfold acceptTxn
  repeat' first
    | with_reducible assumption
    | with_reducible apply modHome_keeps
    | with_reducible apply settleHome_keeps

theorem arriveTxn_keeps {z0 : State} {s : State} (t : CohTxn) (h_s : Keeps z0 s) :
    Keeps z0 (arriveTxn s t) := by
  unfold arriveTxn
  dsimp only
  repeat' first
    | with_reducible assumption
    | with_reducible apply modHome_keeps
    | with_reducible apply acceptTxn_keeps
    | with_reducible apply keepsIte
    | split

theorem cacheRequest_keeps {z0 : State} {s : State} (agent addr : Nat) (req : CohReq) (test : Option LineState → Bool) (h_s : Keeps z0 s) :
    Keeps z0 (cacheRequest s agent addr req test) := by
  unfold cacheRequest
  dsimp only
  repeat' first
    | with_reducible assumption
    | with_reducible apply arriveTxn_keeps
    | with_reducible apply keepsIte

theorem plainRequest_keeps {z0 : State} {s : State} (agent addr : Nat) (t : CohTxn) (h_s : Keeps z0 s) :
    Keeps z0 (plainRequest s agent addr t) := by
  unfold plainRequest
  repeat' first
    | with_reducible assumption
    | with_reducible apply arriveTxn_keeps
    | with_reducible apply keepsIte

theorem answerSnoop_keeps {z0 : State} {s : State} (m : Nat) (t : CohTxn) (x : Snoop) (afterHold : Bool) (h_s : Keeps z0 s) :
    Keeps z0 (answerSnoop s m t x afterHold) := by
  unfold answerSnoop
  dsimp only
  repeat' first
    | with_reducible assumption
    | with_reducible apply setLine_keeps
    | with_reducible apply dropLine_keeps
    | with_reducible apply setTxn_keeps
    | with_reducible apply keepsIte
    | split

theorem snoopArrives_keeps {z0 : State} {s : State} (agent addr : Nat) (kind : SnoopKind) (h_s : Keeps z0 s) :
    Keeps z0 (snoopArrives s agent addr kind) := by
  unfold snoopArrives
  dsimp only
  repeat' first
    | with_reducible assumption
    | with_reducible apply wakeDomain_keeps
    | with_reducible apply setTxn_keeps
    | with_reducible apply answerSnoop_keeps
    | with_reducible apply keepsIte
    | split

theorem releaseHold_keeps {z0 : State} {s : State} (agent lid : Nat) (h_s : Keeps z0 s) :
    Keeps z0 (releaseHold s agent lid) := by
  unfold releaseHold
  dsimp only
  repeat' first
    | with_reducible assumption
    | with_reducible apply setLine_keeps
    | with_reducible apply answerSnoop_keeps
    | split

theorem giveUp_keeps {z0 : State} {s : State} (agent addr : Nat) (req : CohReq) (test : LineState → Bool) (h_s : Keeps z0 s) :
    Keeps z0 (giveUp s agent addr req test) := by
  unfold giveUp
  dsimp only
  repeat' first
    | with_reducible assumption
    | with_reducible apply setLine_keeps
    | with_reducible apply arriveTxn_keeps
    | with_reducible apply releaseHold_keeps
    | with_reducible apply keepsIte
    | split

theorem execRds_keeps {z0 : State} (agent : BitVec 5) (addr : BitVec 56) {s : State} (h_s : Keeps z0 s) :
    OutKeeps z0 (execRds agent addr s) := by
  unfold execRds
  repeat' first
    | with_reducible assumption
    | with_reducible apply outNext
    | with_reducible apply cacheRequest_keeps

theorem execRdu_keeps {z0 : State} (agent : BitVec 5) (addr : BitVec 56) {s : State} (h_s : Keeps z0 s) :
    OutKeeps z0 (execRdu agent addr s) := by
  unfold execRdu
  repeat' first
    | with_reducible assumption
    | with_reducible apply outNext
    | with_reducible apply cacheRequest_keeps

theorem execClnu_keeps {z0 : State} (agent : BitVec 5) (addr : BitVec 56) {s : State} (h_s : Keeps z0 s) :
    OutKeeps z0 (execClnu agent addr s) := by
  unfold execClnu
  repeat' first
    | with_reducible assumption
    | with_reducible apply outNext
    | with_reducible apply cacheRequest_keeps

theorem execWbd_keeps {z0 : State} (agent : BitVec 5) (addr : BitVec 56) {s : State} (h_s : Keeps z0 s) :
    OutKeeps z0 (execWbd agent addr s) := by
  unfold execWbd
  repeat' first
    | with_reducible assumption
    | with_reducible apply outNext
    | with_reducible apply giveUp_keeps

theorem execEvict_keeps {z0 : State} (agent : BitVec 5) (addr : BitVec 56) {s : State} (h_s : Keeps z0 s) :
    OutKeeps z0 (execEvict agent addr s) := by
  unfold execEvict
  repeat' first
    | with_reducible assumption
    | with_reducible apply outNext
    | with_reducible apply giveUp_keeps

theorem execRdonce_keeps {z0 : State} (agent : BitVec 5) (addr : BitVec 56) {s : State} (h_s : Keeps z0 s) :
    OutKeeps z0 (execRdonce agent addr s) := by
  unfold execRdonce
  repeat' first
    | with_reducible assumption
    | with_reducible apply outNext
    | with_reducible apply plainRequest_keeps

theorem execWru_keeps {z0 : State} (agent : BitVec 5) (addr : BitVec 56) (mask : BitVec 64) (data : BitVec 512) {s : State} (h_s : Keeps z0 s) :
    OutKeeps z0 (execWru agent addr mask data s) := by
  unfold execWru
  dsimp only
  repeat' first
    | with_reducible assumption
    | with_reducible apply outNext
    | with_reducible apply plainRequest_keeps

theorem atomicRequest_keeps {z0 : State} {s : State} (agent addr op : Nat) (wide : Bool) (operand cmp : Nat) (req : CohReq) (h_s : Keeps z0 s) :
    Keeps z0 (atomicRequest s agent addr op wide operand cmp req) := by
  unfold atomicRequest
  dsimp only
  repeat' first
    | with_reducible assumption
    | with_reducible apply plainRequest_keeps
    | with_reducible apply keepsIte
    | split

theorem execAtmh_keeps {z0 : State} (agent : BitVec 5) (addr : BitVec 56) (op : BitVec 4) (wide : Bool) (operand cmp : BitVec 64) {s : State} (h_s : Keeps z0 s) :
    OutKeeps z0 (execAtmh agent addr op wide operand cmp s) := by
  unfold execAtmh
  repeat' first
    | with_reducible assumption
    | with_reducible apply outNext
    | with_reducible apply atomicRequest_keeps

theorem execAtmf_keeps {z0 : State} (agent : BitVec 5) (addr : BitVec 56) (op : BitVec 4) (wide : Bool) (operand cmp : BitVec 64) {s : State} (h_s : Keeps z0 s) :
    OutKeeps z0 (execAtmf agent addr op wide operand cmp s) := by
  unfold execAtmf
  repeat' first
    | with_reducible assumption
    | with_reducible apply outNext
    | with_reducible apply atomicRequest_keeps

theorem execSnps_keeps {z0 : State} (agent : BitVec 5) (addr : BitVec 56) {s : State} (h_s : Keeps z0 s) :
    OutKeeps z0 (execSnps agent addr s) := by
  unfold execSnps
  repeat' first
    | with_reducible assumption
    | with_reducible apply outNext
    | with_reducible apply snoopArrives_keeps

theorem execSnpu_keeps {z0 : State} (agent : BitVec 5) (addr : BitVec 56) {s : State} (h_s : Keeps z0 s) :
    OutKeeps z0 (execSnpu agent addr s) := by
  unfold execSnpu
  repeat' first
    | with_reducible assumption
    | with_reducible apply outNext
    | with_reducible apply snoopArrives_keeps

theorem execSnpinv_keeps {z0 : State} (agent : BitVec 5) (addr : BitVec 56) {s : State} (h_s : Keeps z0 s) :
    OutKeeps z0 (execSnpinv agent addr s) := by
  unfold execSnpinv
  repeat' first
    | with_reducible assumption
    | with_reducible apply outNext
    | with_reducible apply snoopArrives_keeps

theorem execSnponce_keeps {z0 : State} (agent : BitVec 5) (addr : BitVec 56) {s : State} (h_s : Keeps z0 s) :
    OutKeeps z0 (execSnponce agent addr s) := by
  unfold execSnponce
  repeat' first
    | with_reducible assumption
    | with_reducible apply outNext
    | with_reducible apply snoopArrives_keeps

theorem execHoldEnd_keeps {z0 : State} (agent : BitVec 5) (addr : BitVec 56) {s : State} (h_s : Keeps z0 s) :
    OutKeeps z0 (execHoldEnd agent addr s) := by
  unfold execHoldEnd
  dsimp only
  repeat' first
    | with_reducible assumption
    | with_reducible apply outNext
    | with_reducible apply releaseHold_keeps
    | with_reducible apply keepsIte
    | split

theorem execSnpresp_keeps {z0 : State} (agent : BitVec 5) (addr : BitVec 56) {s : State} (h_s : Keeps z0 s) :
    OutKeeps z0 (execSnpresp agent addr s) := by
  unfold execSnpresp
  dsimp only
  repeat' first
    | with_reducible assumption
    | with_reducible apply outNext
    | with_reducible apply modHome_keeps
    | with_reducible apply putLine_keeps
    | with_reducible apply setTxn_keeps
    | with_reducible apply finishSnoops_keeps
    | with_reducible apply settleHome_keeps
    | with_reducible apply keepsIte
    | split

theorem execData_keeps {z0 : State} (agent : BitVec 5) (addr : BitVec 56) {s : State} (h_s : Keeps z0 s) :
    OutKeeps z0 (execData agent addr s) := by
  unfold execData
  dsimp only
  repeat' first
    | with_reducible assumption
    | with_reducible apply outNext
    | with_reducible apply setLine_keeps
    | with_reducible apply setTxn_keeps
    | with_reducible apply keepsIte
    | split

theorem execRetry_keeps {z0 : State} (agent : BitVec 5) (addr : BitVec 56) {s : State} (h_s : Keeps z0 s) :
    OutKeeps z0 (execRetry agent addr s) := by
  unfold execRetry
  dsimp only
  repeat' first
    | with_reducible assumption
    | with_reducible apply outNext
    | with_reducible apply modHome_keeps
    | with_reducible apply acceptTxn_keeps
    | split

theorem execComp_keeps {z0 : State} (agent : BitVec 5) (addr : BitVec 56) {s : State} (h_s : Keeps z0 s) :
    OutKeeps z0 (execComp agent addr s) := by
  unfold execComp
  dsimp only
  repeat' first
    | with_reducible assumption
    | with_reducible apply outNext
    | with_reducible apply setLine_keeps
    | with_reducible apply dropLine_keeps
    | with_reducible apply setTxn_keeps
    | with_reducible apply keepsIte
    | split

theorem execCompack_keeps {z0 : State} (agent : BitVec 5) (addr : BitVec 56) {s : State} (h_s : Keeps z0 s) :
    OutKeeps z0 (execCompack agent addr s) := by
  unfold execCompack
  dsimp only
  repeat' first
    | with_reducible assumption
    | with_reducible apply outNext
    | with_reducible apply modHome_keeps
    | with_reducible apply settleHome_keeps
    | with_reducible apply keepsIte
    | split

theorem execReservationLapse_keeps {z0 : State} (home : BitVec 2) (agent : BitVec 5) {s : State} (h_s : Keeps z0 s) :
    OutKeeps z0 (execReservationLapse home agent s) := by
  unfold execReservationLapse
  dsimp only
  repeat' first
    | with_reducible assumption
    | with_reducible apply outNext
    | with_reducible apply modHome_keeps
    | with_reducible apply arriveTxn_keeps
    | with_reducible apply keepsIte
    | split

theorem setXReg_keeps {z0 : State} {s : State} (hart i : Nat) (v : Word64) (h_s : Keeps z0 s) :
    Keeps z0 (setXReg s hart i v) := by
  unfold setXReg
  repeat' first
    | with_reducible assumption
    | with_reducible apply modHart_keeps

theorem amofadd_keeps {z0 : State} {s : State} (hart attr rd rs1 rs2 : Nat) (op : AtomicOp) (h_s : Keeps z0 s) :
    Keeps z0 (amofadd s hart attr rd rs1 rs2 op) := by
  unfold amofadd
  dsimp only
  repeat' first
    | with_reducible assumption
    | with_reducible apply failAccess_keeps
    | with_reducible apply markExternal_keeps
    | with_reducible apply tierReady_keeps
    | with_reducible apply logPoison_keeps
    | with_reducible apply restartTouched_keeps
    | with_reducible apply hartFault_keeps
    | with_reducible apply atomicApply_keeps
    | with_reducible apply setXReg_keeps
    | with_reducible apply keepsIte
    | split
    | refine keeps_ready (by with_reducible assumption) ?_
    | refine keeps_held (by with_reducible assumption) ?_
    | refine keeps_bad (by with_reducible assumption) ?_

theorem execLxsAmofaddS_keeps {z0 : State} (hart : BitVec 6) (attr : BitVec 2) (rd rs1 rs2 : BitVec 5) {s : State} (h_s : Keeps z0 s) :
    OutKeeps z0 (execLxsAmofaddS hart attr rd rs1 rs2 s) := by
  unfold execLxsAmofaddS
  repeat' first
    | with_reducible assumption
    | with_reducible apply outNext
    | with_reducible apply amofadd_keeps

theorem execLxsAmofaddBf16x2_keeps {z0 : State} (hart : BitVec 6) (attr : BitVec 2) (rd rs1 rs2 : BitVec 5) {s : State} (h_s : Keeps z0 s) :
    OutKeeps z0 (execLxsAmofaddBf16x2 hart attr rd rs1 rs2 s) := by
  unfold execLxsAmofaddBf16x2
  repeat' first
    | with_reducible assumption
    | with_reducible apply outNext
    | with_reducible apply amofadd_keeps

end Sys2Proof.Machine
end

