-- ==== Sys2Proof/Laws/KeepsMailbox.lean ====
section
/-! SUPPORT. What the operations of Machine/Mailbox.lean keep. -/

namespace Sys2Proof.Machine

theorem modMbox_keeps {z0 : State} {s : State} (fn : Nat) (isLocal : Bool) (g : Mailbox → Mailbox) (h_s : Keeps z0 s) :
    Keeps z0 (modMbox s fn isLocal g) := by
  unfold modMbox
  repeat' first
    | with_reducible assumption
    | with_reducible apply modFunc_keeps

theorem rspMessage_keeps {z0 : State} {s : State} (fn : Nat) (isLocal : Bool) (h_s : Keeps z0 s) :
    Keeps z0 (rspMessage s fn isLocal) := by
  unfold rspMessage
  repeat' first
    | with_reducible assumption
    | with_reducible apply sendMsix_keeps
    | with_reducible apply msiSomewhere_keeps
    | with_reducible apply keepsIte

theorem writeResponse_keeps {z0 : State} {s : State} (fn : Nat) (isLocal : Bool) (pos cmd tag status : Nat) (payload : List Byte) (h_s : Keeps z0 s) :
    Keeps z0 (writeResponse s fn isLocal pos cmd tag status payload) := by
  unfold writeResponse
  dsimp only
  repeat' first
    | with_reducible assumption
    | with_reducible apply modFunc_keeps
    | with_reducible apply cohWrite_keeps
    | with_reducible apply modMbox_keeps
    | with_reducible apply rspMessage_keeps
    | with_reducible apply keepsIte
    | split

theorem journalMbx_keeps {z0 : State} {s : State} (fn : Nat) (f : Func) (r : MbxReq) (status : Nat) (h_s : Keeps z0 s) :
    Keeps z0 (journalMbx s fn f r status) := by
  unfold journalMbx
  dsimp only
  repeat' first
    | with_reducible assumption
    | with_reducible apply modPart_keeps
    | with_reducible apply journalWrite_keeps
    | with_reducible apply keepsIte

theorem answer_keeps {z0 : State} {s : State} (fn : Nat) (r : MbxReq) (status : Nat) (payload : List Byte) (h_s : Keeps z0 s) :
    Keeps z0 (answer s fn r status payload) := by
  unfold answer
  dsimp only
  repeat' first
    | with_reducible assumption
    | with_reducible apply modPart_keeps
    | with_reducible apply modFunc_keeps
    | with_reducible apply writeResponse_keeps
    | with_reducible apply journalMbx_keeps
    | with_reducible apply keepsIte
    | split

theorem mbxInvalid_keeps {z0 : State} {s : State} (h_s : Keeps z0 s) :
    MbxAnswer.Keeps z0 (mbxInvalid s) := by
  unfold mbxInvalid
  repeat' first
    | with_reducible assumption
    | with_reducible apply mbxDoneOf

theorem runMbx_keeps {z0 : State} {s : State} (fn cmd : Nat) (form : List Byte → Bool) (f : Func → MbxReq → MbxAnswer) (h_f : ∀ y0 y1, MbxAnswer.Keeps z0 (f y0 y1)) (h_s : Keeps z0 s) :
    Keeps z0 (runMbx s fn cmd form f) := by
  unfold runMbx
  dsimp only
  repeat' first
    | with_reducible assumption
    | with_reducible apply modFunc_keeps
    | with_reducible apply journalMbx_keeps
    | with_reducible apply answer_keeps
    | with_reducible apply h_f
    | with_reducible apply keepsIte
    | split
    | refine keeps_done (by with_reducible assumption) ?_
    | refine keeps_long (by with_reducible assumption) ?_
    | refine keeps_wait (by with_reducible assumption) ?_

theorem mpRead_keeps {z0 : State} {s : State} (p a n : Nat) (f : State → List Byte → MbxAnswer) (h_f : ∀ y0 y1, Keeps z0 y0 → MbxAnswer.Keeps z0 (f y0 y1)) (h_s : Keeps z0 s) :
    MbxAnswer.Keeps z0 (mpRead s p a n f) := by
  unfold mpRead
  repeat' first
    | with_reducible assumption
    | with_reducible apply mbxWaitOf
    | with_reducible apply mbxDoneOf
    | with_reducible apply failAccess_keeps
    | with_reducible apply journalInput_keeps
    | with_reducible apply tierReady_keeps
    | with_reducible apply logPoison_keeps
    | with_reducible apply h_f
    | with_reducible apply mbxIte
    | split
    | refine keeps_ready (by with_reducible assumption) ?_
    | refine keeps_held (by with_reducible assumption) ?_
    | refine keeps_bad (by with_reducible assumption) ?_

theorem mpWrite_keeps {z0 : State} {s : State} (p a : Nat) (bs : List Byte) (f : State → MbxAnswer) (h_f : ∀ y0, Keeps z0 y0 → MbxAnswer.Keeps z0 (f y0)) (h_s : Keeps z0 s) :
    MbxAnswer.Keeps z0 (mpWrite s p a bs f) := by
  unfold mpWrite
  repeat' first
    | with_reducible assumption
    | with_reducible apply mbxWaitOf
    | with_reducible apply mbxDoneOf
    | with_reducible apply failAccess_keeps
    | with_reducible apply moduleWrite_keeps
    | with_reducible apply markExternal_keeps
    | with_reducible apply tierReady_keeps
    | with_reducible apply h_f
    | with_reducible apply mbxIte
    | split
    | refine keeps_ready (by with_reducible assumption) ?_
    | refine keeps_held (by with_reducible assumption) ?_
    | refine keeps_bad (by with_reducible assumption) ?_

theorem writeMbxTail_keeps {z0 : State} {s : State} (fn : Nat) (isLocal : Bool) (value : Word64) (h_s : Keeps z0 s) :
    Keeps z0 (writeMbxTail s fn isLocal value) := by
  unfold writeMbxTail
  repeat' first
    | with_reducible assumption
    | with_reducible apply rejectDoorbell_keeps
    | with_reducible apply modMbox_keeps
    | with_reducible apply keepsIte
    | split

theorem execMbxReqTailWrite_keeps {z0 : State} (fn : BitVec 4) (value : BitVec 64) {s : State} (h_s : Keeps z0 s) :
    OutKeeps z0 (execMbxReqTailWrite fn value s) := by
  unfold execMbxReqTailWrite
  repeat' first
    | with_reducible assumption
    | with_reducible apply outNext
    | with_reducible apply writeMbxTail_keeps
    | with_reducible apply keepsIte

theorem execLmbDoorbell_keeps {z0 : State} (hart : BitVec 6) (value : BitVec 64) {s : State} (h_s : Keeps z0 s) :
    OutKeeps z0 (execLmbDoorbell hart value s) := by
  unfold execLmbDoorbell
  dsimp only
  repeat' first
    | with_reducible assumption
    | with_reducible apply outNext
    | with_reducible apply writeMbxTail_keeps
    | with_reducible apply keepsIte

theorem writeMbxHead_keeps {z0 : State} {s : State} (fn : Nat) (value : Word64) (h_s : Keeps z0 s) :
    Keeps z0 (writeMbxHead s fn value) := by
  unfold writeMbxHead
  repeat' first
    | with_reducible assumption
    | with_reducible apply rejectDoorbell_keeps
    | with_reducible apply modMbox_keeps
    | with_reducible apply keepsIte
    | split

theorem execMbxRspHeadWrite_keeps {z0 : State} (fn : BitVec 4) (value : BitVec 64) {s : State} (h_s : Keeps z0 s) :
    OutKeeps z0 (execMbxRspHeadWrite fn value s) := by
  unfold execMbxRspHeadWrite
  repeat' first
    | with_reducible assumption
    | with_reducible apply outNext
    | with_reducible apply writeMbxHead_keeps
    | with_reducible apply keepsIte

theorem takeRequest_keeps {z0 : State} {s : State} (fn : Nat) (f : Func) (isLocal : Bool) (e : List Byte) (clean : Bool) (h_s : Keeps z0 s) :
    Keeps z0 (takeRequest s fn f isLocal e clean) := by
  unfold takeRequest
  dsimp only
  repeat' first
    | with_reducible assumption
    | with_reducible apply modFunc_keeps
    | with_reducible apply modMbox_keeps
    | with_reducible apply answer_keeps
    | with_reducible apply keepsIte

theorem readRequest_keeps {z0 : State} {s : State} (fn : Nat) (f : Func) (isLocal : Bool) (h_s : Keeps z0 s) :
    Keeps z0 (readRequest s fn f isLocal) := by
  unfold readRequest
  dsimp only
  repeat' first
    | with_reducible assumption
    | with_reducible apply modMbox_keeps
    | with_reducible apply takeRequest_keeps
    | with_reducible apply keepsIte
    | split

theorem execMailboxRequestServe_keeps {z0 : State} (fn : BitVec 4) {s : State} (h_s : Keeps z0 s) :
    OutKeeps z0 (execMailboxRequestServe fn s) := by
  unfold execMailboxRequestServe
  dsimp only
  repeat' first
    | with_reducible assumption
    | with_reducible apply outNext
    | with_reducible apply readRequest_keeps
    | with_reducible apply keepsIte
    | split

theorem execMailboxReread_keeps {z0 : State} (fn : BitVec 4) {s : State} (h_s : Keeps z0 s) :
    OutKeeps z0 (execMailboxReread fn s) := by
  unfold execMailboxReread
  dsimp only
  repeat' first
    | with_reducible assumption
    | with_reducible apply outNext
    | with_reducible apply modMbox_keeps
    | with_reducible apply writeResponse_keeps
    | with_reducible apply readRequest_keeps
    | with_reducible apply keepsIte
    | split

theorem execGetInfo_keeps {z0 : State} (fn : BitVec 4) {s : State} (h_s : Keeps z0 s) :
    OutKeeps z0 (execGetInfo fn s) := by
  unfold execGetInfo
  dsimp only
  repeat' first
    | with_reducible assumption
    | with_reducible apply mbxDoneOf
    | with_reducible apply outNext
    | intro _
    | with_reducible apply mbxInvalid_keeps
    | with_reducible apply runMbx_keeps
    | with_reducible apply mbxIte
    | split

theorem execGetCaps_keeps {z0 : State} (fn : BitVec 4) {s : State} (h_s : Keeps z0 s) :
    OutKeeps z0 (execGetCaps fn s) := by
  unfold execGetCaps
  repeat' first
    | with_reducible assumption
    | with_reducible apply mbxDoneOf
    | with_reducible apply outNext
    | intro _
    | with_reducible apply mbxInvalid_keeps
    | with_reducible apply runMbx_keeps
    | with_reducible apply mbxIte

theorem execGetCapsSwitchV1_keeps {z0 : State} (fn : BitVec 4) {s : State} (h_s : Keeps z0 s) :
    OutKeeps z0 (execGetCapsSwitchV1 fn s) := by
  unfold execGetCapsSwitchV1
  dsimp only
  repeat' first
    | with_reducible assumption
    | with_reducible apply mbxDoneOf
    | with_reducible apply outNext
    | intro _
    | with_reducible apply modFunc_keeps
    | with_reducible apply runMbx_keeps
    | with_reducible apply mbxIte

theorem execGetCapsSwitchV2_keeps {z0 : State} (fn : BitVec 4) {s : State} (h_s : Keeps z0 s) :
    OutKeeps z0 (execGetCapsSwitchV2 fn s) := by
  unfold execGetCapsSwitchV2
  dsimp only
  repeat' first
    | with_reducible assumption
    | with_reducible apply mbxDoneOf
    | with_reducible apply outNext
    | intro _
    | with_reducible apply modFunc_keeps
    | with_reducible apply runMbx_keeps

theorem doStepPolicy_keeps {z0 : State} {s : State} (n : Nat) (r : MbxReq) (h_s : Keeps z0 s) :
    MbxAnswer.Keeps z0 (doStepPolicy s n r) := by
  unfold doStepPolicy
  dsimp only
  repeat' first
    | with_reducible assumption
    | with_reducible apply mbxDoneOf
    | with_reducible apply modJob_keeps
    | with_reducible apply mbxInvalid_keeps
    | with_reducible apply mbxIte

theorem execStepPolicy_keeps {z0 : State} (fn : BitVec 4) {s : State} (h_s : Keeps z0 s) :
    OutKeeps z0 (execStepPolicy fn s) := by
  unfold execStepPolicy
  repeat' first
    | with_reducible assumption
    | with_reducible apply outNext
    | intro _
    | with_reducible apply runMbx_keeps
    | with_reducible apply doStepPolicy_keeps

theorem doTelemetryConfig_keeps {z0 : State} {s : State} (n : Nat) (r : MbxReq) (h_s : Keeps z0 s) :
    MbxAnswer.Keeps z0 (doTelemetryConfig s n r) := by
  unfold doTelemetryConfig
  dsimp only
  iterate 2
    all_goals repeat' first
      | with_reducible assumption
      | with_reducible apply mbxDoneOf
      | with_reducible apply modQueue_keeps
      | with_reducible apply mbxInvalid_keeps
      | with_reducible apply mbxIte
      | split
    all_goals try with_reducible apply keeps_mk
    all_goals try first
      | with_reducible exact id
      | with_reducible exact Nat.le_refl _

theorem execTelemetryConfig_keeps {z0 : State} (fn : BitVec 4) {s : State} (h_s : Keeps z0 s) :
    OutKeeps z0 (execTelemetryConfig fn s) := by
  unfold execTelemetryConfig
  repeat' first
    | with_reducible assumption
    | with_reducible apply outNext
    | intro _
    | with_reducible apply runMbx_keeps
    | with_reducible apply doTelemetryConfig_keeps

end Sys2Proof.Machine
end

