-- ==== Sys2Proof/Laws/KeepsVideo.lean ====
section
/-! SUPPORT. What the operations of Machine/Video.lean keep. -/

namespace Sys2Proof.Machine

theorem modSession_keeps {z0 : State} {s : State} (p i : Nat) (f : VideoSession → VideoSession) (h_s : Keeps z0 s) :
    Keeps z0 (modSession s p i f) := by
  unfold modSession
  repeat' first
    | with_reducible assumption
    | with_reducible apply modPart_keeps

theorem videoSlot_keeps {s0 : State} (x : VideoSession) (fmt : List Byte) (room : Nat) (r : VideoRun) (h : Keeps s0 r.state) :
    Keeps s0 (videoSlot x fmt room r).state := by
  unfold videoSlot
  dsimp only
  repeat' first
    | with_reducible assumption
    | with_reducible apply drawFree_keeps
    | with_reducible apply drawBytes_keeps
    | split

theorem videoSlots_keeps {s0 : State} (x : VideoSession) (fmt : List Byte) (room n : Nat) (r : VideoRun) (h : Keeps s0 r.state) :
    Keeps s0 (videoSlots x fmt room n r).state := by
  induction n generalizing r with
  | zero => exact h
  | succ n ih => exact ih _ (videoSlot_keeps x fmt room r h)

theorem runVideo_keeps {z0 : State} {s : State} (q pos p i : Nat) (x : VideoSession) (c : Cmd) (fmt : List Byte) (h_s : Keeps z0 s) :
    Keeps z0 (runVideo s q pos p i x c fmt) := by
  unfold runVideo
  dsimp only
  repeat' first
    | with_reducible assumption
    | intro _
    | with_reducible apply modPart_keeps
    | with_reducible apply modVideo_keeps
    | with_reducible apply drawFree_keeps
    | with_reducible apply drawBytes_keeps
    | with_reducible apply cohWrite_keeps
    | with_reducible apply finishCmd_keeps
    | with_reducible apply cmdWrite_keeps
    | with_reducible apply CmdIo_bind_keeps
    | with_reducible apply modSession_keeps
    | with_reducible apply videoSlots_keeps
    | with_reducible apply keepsIte

theorem withFormatter_keeps {z0 : State} {s : State} (q pos : Nat) (x : VideoSession) (f : State → List Byte → State) (h_f : ∀ y0 y1, Keeps z0 y0 → Keeps z0 (f y0 y1)) (h_s : Keeps z0 s) :
    Keeps z0 (withFormatter s q pos x f) := by
  unfold withFormatter
  repeat' first
    | with_reducible assumption
    | intro _
    | with_reducible apply endCmd_keeps
    | with_reducible apply cmdRead_keeps
    | with_reducible apply CmdIo_bind_keeps
    | with_reducible apply h_f
    | with_reducible apply keepsIte

theorem videoCommand_keeps {z0 : State} {s : State} (q pos : Nat) (encode : Bool) (x : Queue) (c : Cmd) (h_s : Keeps z0 s) :
    Keeps z0 (videoCommand s q pos encode x c) := by
  unfold videoCommand
  dsimp only
  repeat' first
    | with_reducible assumption
    | intro _
    | with_reducible apply modPart_keeps
    | with_reducible apply endCmd_keeps
    | with_reducible apply cmdRead_keeps
    | with_reducible apply CmdIo_bind_keeps
    | with_reducible apply runVideo_keeps
    | with_reducible apply withFormatter_keeps
    | with_reducible apply keepsIte
    | split

theorem execVideoDecode_keeps {z0 : State} (q : BitVec 12) (pos : BitVec 32) {s : State} (h_s : Keeps z0 s) :
    OutKeeps z0 (execVideoDecode q pos s) := by
  unfold execVideoDecode
  repeat' first
    | with_reducible assumption
    | with_reducible apply outNext
    | intro _
    | with_reducible apply runCmd_keeps
    | with_reducible apply videoCommand_keeps

theorem execVideoEncode_keeps {z0 : State} (q : BitVec 12) (pos : BitVec 32) {s : State} (h_s : Keeps z0 s) :
    OutKeeps z0 (execVideoEncode q pos s) := by
  unfold execVideoEncode
  repeat' first
    | with_reducible assumption
    | with_reducible apply outNext
    | intro _
    | with_reducible apply runCmd_keeps
    | with_reducible apply videoCommand_keeps

theorem execVideoBudgetOverrun_keeps {z0 : State} (p : BitVec 4) (session : BitVec 16) {s : State} (h_s : Keeps z0 s) :
    OutKeeps z0 (execVideoBudgetOverrun p session s) := by
  unfold execVideoBudgetOverrun
  repeat' first
    | with_reducible assumption
    | with_reducible apply outNext
    | with_reducible apply modVideo_keeps
    | with_reducible apply modSession_keeps
    | with_reducible apply outIte
    | split

theorem endSessions_keeps {z0 : State} {s : State} (status : Nat) (t : Nat → VideoSession → Bool) (h_s : Keeps z0 s) :
    Keeps z0 (endSessions s status t) := by
  unfold endSessions
  dsimp only
  iterate 2
    all_goals repeat' first
      | with_reducible assumption
      | with_reducible apply endCmds_keeps
    all_goals try with_reducible apply keeps_mk
    all_goals try first
      | with_reducible exact id
      | with_reducible exact Nat.le_refl _

theorem execVideoUnitInternalError_keeps {z0 : State} (unit : BitVec 2) {s : State} (h_s : Keeps z0 s) :
    OutKeeps z0 (execVideoUnitInternalError unit s) := by
  unfold execVideoUnitInternalError
  dsimp only
  repeat' first
    | with_reducible assumption
    | with_reducible apply outNext
    | with_reducible apply modVideo_keeps
    | with_reducible apply logError_keeps
    | with_reducible apply endSessions_keeps

theorem execVideoUnitRestart_keeps {z0 : State} (unit : BitVec 2) {s : State} (h_s : Keeps z0 s) :
    OutKeeps z0 (execVideoUnitRestart unit s) := by
  unfold execVideoUnitRestart
  repeat' first
    | with_reducible assumption
    | with_reducible apply outNext
    | with_reducible apply modVideo_keeps

end Sys2Proof.Machine
end

