-- ==== Sys2Proof/Laws/KeepsResets.lean ====
section
/-! SUPPORT. What the operations of Machine/Resets.lean keep. -/

namespace Sys2Proof.Machine

theorem finishCommit_keeps {z0 : State} {s : State} (q pos : Nat) (h_s : Keeps z0 s) :
    Keeps z0 (finishCommit s q pos) := by
  unfold finishCommit
  dsimp only
  repeat' first
    | with_reducible assumption
    | intro _
    | with_reducible apply modCore_keeps
    | with_reducible apply applySpill_keeps
    | with_reducible apply commitRest_keeps
    | with_reducible apply keeps_foldl
    | with_reducible apply keepsIte
    | split

theorem finishCommits_keeps {z0 : State} {s : State} (t : Nat → Queue → Cmd → Bool) (h_s : Keeps z0 s) :
    Keeps z0 (finishCommits s t) := by
  unfold finishCommits
  repeat' first
    | with_reducible assumption
    | intro _
    | with_reducible apply finishCommit_keeps
    | with_reducible apply keeps_foldl

theorem freeQueue_keeps {z0 : State} {s : State} (q status : Nat) (h_s : Keeps z0 s) :
    Keeps z0 (freeQueue s q status) := by
  unfold freeQueue
  dsimp only
  iterate 2
    all_goals repeat' first
      | with_reducible assumption
      | with_reducible apply descReadDone_keeps
      | with_reducible apply endSessions_keeps
    all_goals try with_reducible apply keeps_mk
    all_goals try first
      | with_reducible exact id
      | with_reducible exact Nat.le_refl _

theorem destroyQueues_keeps {z0 : State} {s : State} (t : Nat → Queue → Bool) (status : Nat) (h_s : Keeps z0 s) :
    Keeps z0 (destroyQueues s t status) := by
  unfold destroyQueues
  dsimp only
  repeat' first
    | with_reducible assumption
    | intro _
    | with_reducible apply endCmds_keeps
    | with_reducible apply freeQueue_keeps
    | with_reducible apply keeps_foldl

theorem spoilStaging_keeps {z0 : State} {s : State} (fn : Nat) (h_s : Keeps z0 s) :
    Keeps z0 (spoilStaging s fn) := by
  unfold spoilStaging
  repeat' first
    | with_reducible assumption
    | intro _
    | with_reducible apply modComponent_keeps
    | with_reducible apply keeps_foldl
    | split

theorem dropReplay_keeps {z0 : State} {s : State} (p : Nat) (h_s : Keeps z0 s) :
    Keeps z0 (dropReplay s p) := by
  unfold dropReplay
  repeat' first
    | with_reducible assumption
    | with_reducible apply modPart_keeps

theorem abortLong_keeps {z0 : State} {s : State} (fn status : Nat) (h_s : Keeps z0 s) :
    Keeps z0 (abortLong s fn status) := by
  unfold abortLong
  repeat' first
    | with_reducible assumption
    | intro _
    | with_reducible apply answer_keeps
    | with_reducible apply spoilStaging_keeps
    | with_reducible apply dropReplay_keeps
    | with_reducible apply keeps_foldl
    | with_reducible apply keepsIte
    | split

theorem retireSet_keeps {z0 : State} {s : State} (y : SlotSet) (h_s : Keeps z0 s) :
    Keeps z0 (retireSet s y) := by
  unfold retireSet
  dsimp only
  repeat' first
    | with_reducible assumption
    | intro _
    | with_reducible apply cohWrite_keeps
    | with_reducible apply keeps_foldl
    | with_reducible apply keepsIte
    | split

theorem retireSlots_keeps {z0 : State} {s : State} (fn : Nat) (h_s : Keeps z0 s) :
    Keeps z0 (retireSlots s fn) := by
  unfold retireSlots
  repeat' first
    | with_reducible assumption
    | intro _
    | with_reducible apply retireSet_keeps
    | with_reducible apply keeps_foldl
    | with_reducible apply keepsIte
    | split

theorem scrubRange_keeps {z0 : State} {s : State} (a n : Nat) (h_s : Keeps z0 s) :
    Keeps z0 (scrubRange s a n) := by
  unfold scrubRange
  dsimp only
  iterate 2
    all_goals repeat' first
      | with_reducible assumption
      | with_reducible apply clearPoison_keeps
      | with_reducible apply discardRange_keeps
    all_goals try with_reducible apply keeps_mk
    all_goals try first
      | with_reducible exact id
      | with_reducible exact Nat.le_refl _
      | with_reducible exact memClear_wf _ _

theorem freeRegion_keeps {z0 : State} {s : State} (fn i : Nat) (h_s : Keeps z0 s) :
    Keeps z0 (freeRegion s fn i) := by
  unfold freeRegion
  dsimp only
  repeat' first
    | with_reducible assumption
    | with_reducible apply modFunc_keeps
    | with_reducible apply scrubRange_keeps
    | with_reducible apply keepsIte
    | split

theorem closeRegion_keeps {z0 : State} {s : State} (fn i : Nat) (h_s : Keeps z0 s) :
    Keeps z0 (closeRegion s fn i) := by
  unfold closeRegion
  dsimp only
  repeat' first
    | with_reducible assumption
    | with_reducible apply sendMsix_keeps
    | with_reducible apply modRegion_keeps
    | with_reducible apply freeRegion_keeps
    | with_reducible apply keepsIte
    | split

theorem withdrawRegion_keeps {z0 : State} {s : State} (fn i : Nat) (cause : PlaceCause) (h_s : Keeps z0 s) :
    Keeps z0 (withdrawRegion s fn i cause) := by
  unfold withdrawRegion
  dsimp only
  repeat' first
    | with_reducible assumption
    | with_reducible apply sendMsix_keeps
    | with_reducible apply logError_keeps
    | with_reducible apply modRegion_keeps
    | with_reducible apply freeRegion_keeps
    | with_reducible apply keepsIte
    | split

theorem withdrawRegions_keeps {z0 : State} {s : State} (fn : Nat) (cause : PlaceCause) (h_s : Keeps z0 s) :
    Keeps z0 (withdrawRegions s fn cause) := by
  unfold withdrawRegions
  repeat' first
    | with_reducible assumption
    | intro _
    | with_reducible apply withdrawRegion_keeps
    | with_reducible apply keeps_foldl
    | split

theorem closeStep_keeps {z0 : State} {s : State} (p : Nat) (h_s : Keeps z0 s) :
    Keeps z0 (closeStep s p) := by
  unfold closeStep
  repeat' first
    | with_reducible assumption
    | with_reducible apply modJob_keeps

theorem clearFlows_keeps {z0 : State} {s : State} (p : Nat) (h_s : Keeps z0 s) :
    Keeps z0 (clearFlows s p) := by
  unfold clearFlows
  dsimp only
  iterate 2
    all_goals repeat' first
      | with_reducible assumption
    all_goals try with_reducible apply keeps_mk
    all_goals try first
      | with_reducible exact id
      | with_reducible exact Nat.le_refl _

theorem repairPartition_keeps {z0 : State} {s : State} (p : Nat) (h_s : Keeps z0 s) :
    Keeps z0 (repairPartition s p) := by
  unfold repairPartition
  dsimp only
  repeat' first
    | with_reducible assumption
    | intro _
    | with_reducible apply modPart_keeps
    | with_reducible apply revertMigrations_keeps
    | with_reducible apply repairRelayout_keeps
    | with_reducible apply rebuildSpares_keeps
    | with_reducible apply keeps_foldl
    | split

theorem dropTierWork_keeps {z0 : State} {s : State} (p : Nat) (h_s : Keeps z0 s) :
    Keeps z0 (dropTierWork s p) := by
  unfold dropTierWork
  iterate 2
    all_goals repeat' first
      | with_reducible assumption
    all_goals try with_reducible apply keeps_mk
    all_goals try first
      | with_reducible exact id
      | with_reducible exact Nat.le_refl _

theorem holdHarts_keeps {z0 : State} {s : State} (p : Nat) (h_s : Keeps z0 s) :
    Keeps z0 (holdHarts s p) := by
  unfold holdHarts
  dsimp only
  iterate 2
    all_goals repeat' first
      | with_reducible assumption
    all_goals try with_reducible apply keeps_mk
    all_goals try first
      | with_reducible exact id
      | with_reducible exact Nat.le_refl _

theorem putOwned_keeps {z0 : State} {s : State} (p a : Nat) (bs : List Byte) (h_s : Keeps z0 s) :
    Keeps z0 (putOwned s p a bs) := by
  unfold putOwned
  repeat' first
    | with_reducible assumption
    | intro _
    | with_reducible apply cohWrite_keeps
    | with_reducible apply keeps_foldl
    | with_reducible apply keepsIte

theorem setBoot_keeps {z0 : State} {s : State} (p step status : Nat) (h_s : Keeps z0 s) :
    Keeps z0 (setBoot s p step status) := by
  unfold setBoot
  dsimp only
  repeat' first
    | with_reducible assumption
    | with_reducible apply modPart_keeps

theorem bootServers_keeps {z0 : State} {s : State} (p : Nat) (h_s : Keeps z0 s) :
    Keeps z0 (bootServers s p) := by
  unfold bootServers
  dsimp only
  iterate 2
    all_goals repeat' first
      | with_reducible assumption
      | intro _
      | with_reducible apply modDomain_keeps
      | with_reducible apply drawFree_keeps
      | with_reducible apply drawBytes_keeps
      | with_reducible apply logError_keeps
      | with_reducible apply loadComponent_keeps
      | with_reducible apply holdHarts_keeps
      | with_reducible apply putOwned_keeps
      | with_reducible apply setBoot_keeps
      | with_reducible apply keeps_foldl
      | with_reducible apply keepsIte
      | split
      | refine keeps_fst (by with_reducible assumption) ?_
    all_goals try with_reducible apply keeps_mk
    all_goals try first
      | with_reducible exact id
      | with_reducible exact Nat.le_refl _

theorem restartServers_keeps {z0 : State} {s : State} (p : Nat) (h_s : Keeps z0 s) :
    Keeps z0 (restartServers s p) := by
  unfold restartServers
  dsimp only
  repeat' first
    | with_reducible assumption
    | with_reducible apply finishCommits_keeps
    | with_reducible apply destroyQueues_keeps
    | with_reducible apply bootServers_keeps

theorem functionReset_keeps {z0 : State} {s : State} (fn : Nat) (h_s : Keeps z0 s) :
    Keeps z0 (functionReset s fn) := by
  unfold functionReset
  dsimp only
  repeat' first
    | with_reducible assumption
    | with_reducible apply modFunc_keeps
    | with_reducible apply finishCommits_keeps
    | with_reducible apply destroyQueues_keeps
    | with_reducible apply abortLong_keeps
    | with_reducible apply retireSlots_keeps
    | with_reducible apply withdrawRegions_keeps
    | with_reducible apply closeStep_keeps
    | with_reducible apply clearFlows_keeps
    | with_reducible apply repairPartition_keeps

theorem partitionStop_keeps {z0 : State} {s : State} (p : Nat) (h_s : Keeps z0 s) :
    Keeps z0 (partitionStop s p) := by
  unfold partitionStop
  dsimp only
  repeat' first
    | with_reducible assumption
    | with_reducible apply modPart_keeps
    | with_reducible apply modFunc_keeps
    | with_reducible apply finishCommits_keeps
    | with_reducible apply destroyQueues_keeps
    | with_reducible apply retireSlots_keeps
    | with_reducible apply withdrawRegions_keeps
    | with_reducible apply closeStep_keeps
    | with_reducible apply clearFlows_keeps
    | with_reducible apply dropTierWork_keeps
    | with_reducible apply holdHarts_keeps

theorem partitionReset_keeps {z0 : State} {s : State} (p : Nat) (h_s : Keeps z0 s) :
    Keeps z0 (partitionReset s p) := by
  unfold partitionReset
  dsimp only
  repeat' first
    | with_reducible assumption
    | with_reducible apply abortLong_keeps
    | with_reducible apply repairPartition_keeps
    | with_reducible apply bootServers_keeps
    | with_reducible apply partitionStop_keeps

theorem writeStateRecords_keeps {z0 : State} {s : State} (cause : Nat) (h_s : Keeps z0 s) :
    Keeps z0 (writeStateRecords s cause) := by
  unfold writeStateRecords
  dsimp only
  iterate 2
    all_goals repeat' first
      | with_reducible assumption
    all_goals try with_reducible apply keeps_mk
    all_goals try first
      | with_reducible exact id
      | with_reducible exact Nat.le_refl _

theorem loseWindows_keeps {z0 : State} {s : State} (h_s : Keeps z0 s) :
    Keeps z0 (loseWindows s) := by
  unfold loseWindows
  iterate 2
    all_goals repeat' first
      | with_reducible assumption
    all_goals try with_reducible apply keeps_mk
    all_goals try first
      | with_reducible exact id
      | with_reducible exact Nat.le_refl _
      | with_reducible exact filter_wf _

theorem recallAll_keeps {z0 : State} {s : State} (h_s : Keeps z0 s) :
    Keeps z0 (recallAll s) := by
  unfold recallAll
  repeat' first
    | with_reducible assumption
    | intro _
    | with_reducible apply recallLine_keeps
    | with_reducible apply keeps_foldl

theorem setDomains_keeps {z0 : State} {s : State} (codes : List Nat) (ph : DomPhase) (h_s : Keeps z0 s) :
    Keeps z0 (setDomains s codes ph) := by
  unfold setDomains
  repeat' first
    | with_reducible assumption
    | intro _
    | with_reducible apply modDomain_keeps
    | with_reducible apply keeps_foldl

theorem stopUnits_keeps {z0 : State} {s : State} (h_s : Keeps z0 s) :
    Keeps z0 (stopUnits s) := by
  unfold stopUnits
  dsimp only
  iterate 2
    all_goals repeat' first
      | with_reducible assumption
      | with_reducible apply loseWindows_keeps
      | with_reducible apply recallAll_keeps
      | with_reducible apply setDomains_keeps
    all_goals try with_reducible apply keeps_mk
    all_goals try first
      | with_reducible exact id
      | with_reducible exact Nat.le_refl _

theorem decafNotice_keeps {z0 : State} {s : State} (code : Nat) (h_s : Keeps z0 s) :
    Keeps z0 (decafNotice s code) := by
  unfold decafNotice
  repeat' first
    | with_reducible assumption
    | with_reducible apply telemetryPf0_keeps

theorem enterDecaf_keeps {z0 : State} {s : State} (die code addr detail : Nat) (h_s : Keeps z0 s) :
    Keeps z0 (enterDecaf s die code addr detail) := by
  unfold enterDecaf
  dsimp only
  iterate 3
    all_goals repeat' first
      | with_reducible assumption
      | intro _
      | with_reducible apply raiseAplic_keeps
      | with_reducible apply raiseAlert_keeps
      | with_reducible apply logError_keeps
      | with_reducible apply journalOutcome_keeps
      | with_reducible apply endCmds_keeps
      | with_reducible apply endSessions_keeps
      | with_reducible apply finishCommits_keeps
      | with_reducible apply abortLong_keeps
      | with_reducible apply writeStateRecords_keeps
      | with_reducible apply stopUnits_keeps
      | with_reducible apply decafNotice_keeps
      | with_reducible apply keeps_foldl
      | with_reducible apply keepsIte
    all_goals try with_reducible apply keeps_mk
    all_goals try first
      | with_reducible exact id
      | with_reducible exact Nat.le_refl _

theorem restoreObject_keeps {z0 : State} {s : State} (o : TieredObject) (h_s : Keeps z0 s) :
    Keeps z0 (restoreObject s o).1 := by
  unfold restoreObject
  dsimp only
  iterate 2
    all_goals repeat' first
      | with_reducible assumption
    all_goals try with_reducible apply keeps_mk
    all_goals try first
      | with_reducible exact id
      | with_reducible exact Nat.le_refl _
      | exact foldl_memPutBytes_wf _ _ _

theorem powerOff_keeps {z0 : State} {s0 : State} (h_s0 : Keeps z0 s0) :
    Keeps z0 (powerOff s0) := by
  unfold powerOff
  dsimp only
  iterate 2
    all_goals repeat' first
      | with_reducible assumption
      | with_reducible apply spoilStaging_keeps
    all_goals try with_reducible apply keeps_mk
    all_goals try first
      | with_reducible exact id
      | with_reducible exact Nat.le_refl _
      | exact fun _ => reset_memWf

theorem failTrials_keeps {z0 : State} {s : State} (h_s : Keeps z0 s) :
    Keeps z0 (failTrials s) := by
  unfold failTrials
  repeat' first
    | with_reducible assumption
    | intro _
    | with_reducible apply failTrial_keeps
    | with_reducible apply keeps_foldl
    | with_reducible apply keepsIte

theorem tearSpill_keeps {z0 : State} {s : State} (r : SpillRecord) (h_s : Keeps z0 s) :
    Keeps z0 (tearSpill s r) := by
  unfold tearSpill
  dsimp only
  repeat' first
    | with_reducible assumption
    | with_reducible apply drawBytes_keeps
    | with_reducible apply cohWrite_keeps
    | with_reducible apply keepsIte

theorem tearCommits_keeps {z0 : State} {s : State} (h_s : Keeps z0 s) :
    Keeps z0 (tearCommits s) := by
  unfold tearCommits
  repeat' first
    | with_reducible assumption
    | intro _
    | with_reducible apply tearSpill_keeps
    | with_reducible apply keeps_foldl
    | split

theorem moduleReset_keeps {z0 : State} {s : State} (h_s : Keeps z0 s) :
    Keeps z0 (moduleReset s) := by
  unfold moduleReset
  dsimp only
  iterate 3
    all_goals repeat' first
      | with_reducible assumption
      | with_reducible apply endCmds_keeps
      | with_reducible apply spoilStaging_keeps
      | with_reducible apply loseWindows_keeps
      | with_reducible apply failTrials_keeps
      | with_reducible apply tearCommits_keeps
    all_goals try with_reducible apply keeps_mk
    all_goals try first
      | with_reducible exact id
      | with_reducible exact Nat.le_refl _

end Sys2Proof.Machine
end

