-- ==== Sys2Proof/Laws/KeepsHost.lean ====
section
/-! SUPPORT. What the operations of Machine/Host.lean keep. -/

namespace Sys2Proof.Machine

theorem complete_keeps {z0 : State} {s : State} (status : Nat) (bytes : List Byte) (h_s : Keeps z0 s) :
    Keeps z0 (complete s status bytes) := by
  unfold complete
  repeat' first
    | with_reducible assumption
    | with_reducible apply sendHost_keeps

theorem sendPending_keeps {z0 : State} {s : State} (fn : Nat) (h_s : Keeps z0 s) :
    Keeps z0 (sendPending s fn) := by
  unfold sendPending
  dsimp only
  repeat' first
    | with_reducible assumption
    | intro _
    | with_reducible apply modFunc_keeps
    | with_reducible apply sendMsix_keeps
    | with_reducible apply keeps_foldl
    | with_reducible apply keepsIte
    | split

theorem execMsixEntryUnmask_keeps {z0 : State} (fn : BitVec 4) (entry : BitVec 11) {s : State} (h_s : Keeps z0 s) :
    OutKeeps z0 (execMsixEntryUnmask fn entry s) := by
  unfold execMsixEntryUnmask
  dsimp only
  repeat' first
    | with_reducible assumption
    | with_reducible apply outNext
    | with_reducible apply modFunc_keeps
    | with_reducible apply sendPending_keeps

theorem execConfigurationRequest_keeps {z0 : State} (fn : BitVec 4) (off : BitVec 12) (write : Bool) (value : BitVec 32) {s : State} (h_s : Keeps z0 s) :
    OutKeeps z0 (execConfigurationRequest fn off write value s) := by
  unfold execConfigurationRequest
  dsimp only
  iterate 2
    all_goals repeat' first
      | with_reducible assumption
      | with_reducible apply outNext
      | with_reducible apply modFunc_keeps
      | with_reducible apply drawFree_keeps
      | with_reducible apply complete_keeps
      | with_reducible apply sendPending_keeps
      | with_reducible apply keepsIte
      | split
    all_goals try with_reducible apply keeps_mk
    all_goals try first
      | with_reducible exact id
      | with_reducible exact Nat.le_refl _

theorem countUnmapped_keeps {z0 : State} {s : State} (fn : Nat) (h_s : Keeps z0 s) :
    Keeps z0 (countUnmapped s fn) := by
  unfold countUnmapped
  repeat' first
    | with_reducible assumption
    | with_reducible apply modFunc_keeps

theorem dropPlacement_keeps {z0 : State} {s : State} (fn i : Nat) (isWrite : Bool) (h_s : Keeps z0 s) :
    Keeps z0 (dropPlacement s fn i isWrite) := by
  unfold dropPlacement
  repeat' first
    | with_reducible assumption
    | with_reducible apply modFunc_keeps
    | with_reducible apply modRegion_keeps

theorem execBar2Read_keeps {z0 : State} (fn : BitVec 4) (requester : BitVec 16) (off : BitVec 36) (len : BitVec 13) {s : State} (h_s : Keeps z0 s) :
    OutKeeps z0 (execBar2Read fn requester off len s) := by
  unfold execBar2Read
  dsimp only
  repeat' first
    | with_reducible assumption
    | with_reducible apply outNext
    | with_reducible apply wakeCore_keeps
    | with_reducible apply complete_keeps
    | with_reducible apply countUnmapped_keeps
    | with_reducible apply dropPlacement_keeps
    | with_reducible apply keepsIte
    | split

theorem hostWords_keeps {z0 : State} (fn : Nat) (a0 : Nat) {a1 : State} (a2 : Func) (a3 : Nat) (a4 : List Byte) (h_s : Keeps z0 a1) :
    Keeps z0 (hostWords fn a0 a1 a2 a3 a4) := by
  induction a0 generalizing a1 a2 a3 a4 with
  | zero =>
    unfold hostWords
    repeat' with_reducible assumption
  | succ n ih =>
    unfold hostWords
    dsimp only
    repeat' first
      | with_reducible assumption
      | with_reducible apply ih
      | with_reducible apply modFunc_keeps
      | with_reducible apply cohWrite_keeps
      | with_reducible apply keepsIte
      | split

theorem hostMemWrite_keeps {z0 : State} {s : State} (fn : Nat) (f : Func) (a : Nat) (bs : List Byte) (h_s : Keeps z0 s) :
    Keeps z0 (hostMemWrite s fn f a bs) := by
  unfold hostMemWrite
  dsimp only
  repeat' first
    | with_reducible assumption
    | with_reducible apply cohWrite_keeps
    | with_reducible apply markExternal_keeps
    | with_reducible apply restartTouched_keeps
    | with_reducible apply hostWords_keeps
    | with_reducible apply keepsIte

theorem directWrite_keeps {z0 : State} {s : State} (a : Nat) (bs : List Byte) (h_s : Keeps z0 s) :
    Keeps z0 (directWrite s a bs) := by
  unfold directWrite
  iterate 2
    all_goals repeat' first
      | with_reducible assumption
      | with_reducible apply clearPoison_keeps
    all_goals try with_reducible apply keeps_mk
    all_goals try first
      | with_reducible exact id
      | with_reducible exact Nat.le_refl _
      | with_reducible exact memPutBytes_wf _ _

theorem logPlacement_keeps {z0 : State} {s : State} (fn i off : Nat) (bs : List Byte) (h_s : Keeps z0 s) :
    Keeps z0 (logPlacement s fn i off bs) := by
  unfold logPlacement
  dsimp only
  repeat' first
    | with_reducible assumption
    | with_reducible apply modRegion_keeps
    | with_reducible apply closeRegion_keeps
    | with_reducible apply dropPlacement_keeps
    | with_reducible apply directWrite_keeps
    | with_reducible apply keepsIte
    | split

theorem placeWrite_keeps {z0 : State} {s : State} (fn i off requester : Nat) (stream : Option Nat) (bs : List Byte) (h_s : Keeps z0 s) :
    Keeps z0 (placeWrite s fn i off requester stream bs) := by
  unfold placeWrite
  dsimp only
  repeat' first
    | with_reducible assumption
    | with_reducible apply modRegion_keeps
    | with_reducible apply withdrawRegion_keeps
    | with_reducible apply dropPlacement_keeps
    | with_reducible apply directWrite_keeps
    | with_reducible apply logPlacement_keeps
    | with_reducible apply keepsIte
    | split

theorem execPlacementWrite_keeps {z0 : State} (fn : BitVec 4) (off : BitVec 36) (requester : BitVec 16) (stream : BitVec 3) (kind : BitVec 2) (bytes : List Byte) {s : State} (h_s : Keeps z0 s) :
    OutKeeps z0 (execPlacementWrite fn off requester stream kind bytes s) := by
  unfold execPlacementWrite
  dsimp only
  repeat' first
    | with_reducible assumption
    | with_reducible apply outNext
    | with_reducible apply complete_keeps
    | with_reducible apply dropPlacement_keeps
    | with_reducible apply placeWrite_keeps
    | with_reducible apply keepsIte
    | split

theorem execRunoutCloseTimer_keeps {z0 : State} (fn : BitVec 4) (region : BitVec 6) {s : State} (h_s : Keeps z0 s) :
    OutKeeps z0 (execRunoutCloseTimer fn region s) := by
  unfold execRunoutCloseTimer
  dsimp only
  repeat' first
    | with_reducible assumption
    | with_reducible apply outNext
    | with_reducible apply closeRegion_keeps
    | with_reducible apply keepsIte
    | split

theorem reopenRegion_keeps {z0 : State} {s : State} (fn i : Nat) (h_s : Keeps z0 s) :
    Keeps z0 (reopenRegion s fn i) := by
  unfold reopenRegion
  repeat' first
    | with_reducible assumption
    | with_reducible apply modRegion_keeps

theorem execPrCtlReopen_keeps {z0 : State} (fn : BitVec 4) (region : BitVec 6) {s : State} (h_s : Keeps z0 s) :
    OutKeeps z0 (execPrCtlReopen fn region s) := by
  unfold execPrCtlReopen
  repeat' first
    | with_reducible assumption
    | with_reducible apply outNext
    | with_reducible apply reopenRegion_keeps

theorem execBar2Write_keeps {z0 : State} (fn : BitVec 4) (requester : BitVec 16) (off : BitVec 36) (bytes : List Byte) {s : State} (h_s : Keeps z0 s) :
    OutKeeps z0 (execBar2Write fn requester off bytes s) := by
  unfold execBar2Write
  dsimp only
  iterate 2
    all_goals repeat' first
      | with_reducible assumption
      | with_reducible apply outNext
      | with_reducible apply wakeCore_keeps
      | with_reducible apply countUnmapped_keeps
      | with_reducible apply hostMemWrite_keeps
      | with_reducible apply placeWrite_keeps
      | with_reducible apply keepsIte
      | split
    all_goals try with_reducible apply keeps_mk
    all_goals try first
      | with_reducible exact id
      | with_reducible exact Nat.le_refl _
      | with_reducible exact memPutBytes_wf _ _

theorem execFnFlushRead_keeps {z0 : State} (fn : BitVec 4) {s : State} (h_s : Keeps z0 s) :
    OutKeeps z0 (execFnFlushRead fn s) := by
  unfold execFnFlushRead
  repeat' first
    | with_reducible assumption
    | with_reducible apply outNext
    | with_reducible apply complete_keeps
    | with_reducible apply keepsIte
    | split

theorem execHostAtomicop_keeps {z0 : State} (fn : BitVec 4) (off : BitVec 36) (op : BitVec 2) (size : BitVec 5) (operand cmp : BitVec 128) {s : State} (h_s : Keeps z0 s) :
    OutKeeps z0 (execHostAtomicop fn off op size operand cmp s) := by
  unfold execHostAtomicop
  dsimp only
  repeat' first
    | with_reducible assumption
    | with_reducible apply outNext
    | with_reducible apply modFunc_keeps
    | with_reducible apply markExternal_keeps
    | with_reducible apply restartTouched_keeps
    | with_reducible apply atomicApply_keeps
    | with_reducible apply complete_keeps
    | with_reducible apply countUnmapped_keeps
    | with_reducible apply dropPlacement_keeps
    | with_reducible apply keepsIte
    | split

end Sys2Proof.Machine
end

