-- ==== Sys2Proof/Laws/KeepsServer.lean ====
section
/-! SUPPORT. What the operations of Machine/Server.lean keep. -/

namespace Sys2Proof.Machine

theorem modServer_keeps {z0 : State} {s : State} (p : Nat) (f : ServerRegs → ServerRegs) (h_s : Keeps z0 s) :
    Keeps z0 (modServer s p f) := by
  unfold modServer
  repeat' first
    | with_reducible assumption
    | with_reducible apply modPart_keeps

theorem modTier_keeps {z0 : State} {s : State} (p : Nat) (f : TierRegs → TierRegs) (h_s : Keeps z0 s) :
    Keeps z0 (modTier s p f) := by
  unfold modTier
  repeat' first
    | with_reducible assumption
    | with_reducible apply modPart_keeps

theorem tierRequest_keeps {z0 : State} {s : State} (p : Nat) (v : Word64) (h_s : Keeps z0 s) :
    Keeps z0 (tierRequest s p v) := by
  unfold tierRequest
  dsimp only
  repeat' first
    | with_reducible assumption
    | with_reducible apply dropRequests_keeps
    | with_reducible apply explicitRequest_keeps
    | split

theorem writeTier_keeps {z0 : State} {s : State} (p off : Nat) (v : Word64) (h_s : Keeps z0 s) :
    Keeps z0 (writeTier s p off v) := by
  unfold writeTier
  repeat' first
    | with_reducible assumption
    | with_reducible apply modTier_keeps
    | with_reducible apply tierRequest_keeps
    | with_reducible apply keepsIte
    | split

theorem invalidate_keeps {z0 : State} {s : State} (p : Nat) (v : Word64) (h_s : Keeps z0 s) :
    Keeps z0 (invalidate s p v) := by
  unfold invalidate
  repeat' first
    | with_reducible assumption
    | with_reducible apply modServer_keeps

theorem syncIommu_keeps {z0 : State} {s : State} (p : Nat) (h_s : Keeps z0 s) :
    Keeps z0 (syncIommu s p) := by
  unfold syncIommu
  repeat' first
    | with_reducible assumption
    | with_reducible apply modServer_keeps

theorem writeServer_keeps {z0 : State} {s : State} (p off : Nat) (v : Word64) (h_s : Keeps z0 s) :
    Keeps z0 (writeServer s p off v) := by
  unfold writeServer
  repeat' first
    | with_reducible assumption
    | with_reducible apply modFunc_keeps
    | with_reducible apply writeMbxTail_keeps
    | with_reducible apply modServer_keeps
    | with_reducible apply invalidate_keeps
    | with_reducible apply keepsIte
    | split

theorem hartStoreReg_keeps {z0 : State} {s : State} (h p a die off size : Nat) (v : Word64) (h_s : Keeps z0 s) :
    Keeps z0 (hartStoreReg s h p a die off size v) := by
  unfold hartStoreReg
  repeat' first
    | with_reducible assumption
    | with_reducible apply isoViolation_keeps
    | with_reducible apply sendMsi_keeps
    | with_reducible apply hartFault_keeps
    | with_reducible apply localDoorbell_keeps
    | with_reducible apply writeTier_keeps
    | with_reducible apply writeServer_keeps
    | with_reducible apply keepsIte
    | split

theorem hartLoadReg_keeps {z0 : State} {s : State} (p die off size : Nat) (h_s : Keeps z0 s) :
    Keeps z0 (hartLoadReg s p die off size).2 := by
  unfold hartLoadReg
  dsimp only
  repeat' first
    | with_reducible assumption
    | with_reducible apply isoViolation_keeps
    | with_reducible apply syncIommu_keeps
    | with_reducible apply keepsIte
    | split

theorem hartWrite_keeps {z0 : State} {s : State} (p a : Nat) (bs : List Byte) (h_s : Keeps z0 s) :
    Keeps z0 (hartWrite s p a bs) := by
  unfold hartWrite
  dsimp only
  repeat' first
    | with_reducible assumption
    | with_reducible apply setLine_keeps
    | with_reducible apply dropReservations_keeps
    | with_reducible apply cohWrite_keeps
    | with_reducible apply markExternal_keeps
    | with_reducible apply restartTouched_keeps
    | with_reducible apply keepsIte
    | split

theorem hartAccess_keeps {z0 : State} {s : State} (h p kind attr op size a : Nat) (v : Word64) (rd : Nat) (h_s : Keeps z0 s) :
    Keeps z0 (hartAccess s h p kind attr op size a v rd) := by
  unfold hartAccess
  dsimp only
  repeat' first
    | with_reducible assumption
    | with_reducible apply modHart_keeps
    | with_reducible apply markExternal_keeps
    | with_reducible apply restartTouched_keeps
    | with_reducible apply atomicApply_keeps
    | with_reducible apply setXReg_keeps
    | with_reducible apply hartWrite_keeps
    | with_reducible apply keepsIte
    | split

theorem hartWindow_keeps {z0 : State} {s : State} (h p kind op size a core off : Nat) (v : Word64) (rd : Nat) (h_s : Keeps z0 s) :
    Keeps z0 (hartWindow s h p kind op size a core off v rd) := by
  unfold hartWindow
  dsimp only
  iterate 2
    all_goals repeat' first
      | with_reducible assumption
      | with_reducible apply isoViolation_keeps
      | with_reducible apply wakeCore_keeps
      | with_reducible apply hartFault_keeps
      | with_reducible apply setXReg_keeps
      | with_reducible apply keepsIte
    all_goals try with_reducible apply keeps_mk
    all_goals try first
      | with_reducible exact id
      | with_reducible exact Nat.le_refl _
      | with_reducible exact memPutBytes_wf _ _

theorem hartRegister_keeps {z0 : State} {s : State} (h p kind op size a die off : Nat) (v : Word64) (rd : Nat) (h_s : Keeps z0 s) :
    Keeps z0 (hartRegister s h p kind op size a die off v rd) := by
  unfold hartRegister
  dsimp only
  repeat' first
    | with_reducible assumption
    | with_reducible apply wakeDomain_keeps
    | with_reducible apply hartFault_keeps
    | with_reducible apply setXReg_keeps
    | with_reducible apply hartStoreReg_keeps
    | with_reducible apply hartLoadReg_keeps
    | with_reducible apply keepsIte
    | split
    | refine keeps_snd (by with_reducible assumption) ?_

theorem hartMemory_keeps {z0 : State} {s : State} (h p kind attr op size a : Nat) (v : Word64) (rd : Nat) (h_s : Keeps z0 s) :
    Keeps z0 (hartMemory s h p kind attr op size a v rd) := by
  unfold hartMemory
  dsimp only
  repeat' first
    | with_reducible assumption
    | with_reducible apply failAccess_keeps
    | with_reducible apply tierReady_keeps
    | with_reducible apply logPoison_keeps
    | with_reducible apply hartFault_keeps
    | with_reducible apply hartAccess_keeps
    | with_reducible apply keepsIte
    | split
    | refine keeps_ready (by with_reducible assumption) ?_
    | refine keeps_held (by with_reducible assumption) ?_
    | refine keeps_bad (by with_reducible assumption) ?_

theorem execServerCoreAccess_keeps {z0 : State} (hart : BitVec 6) (kind attr : BitVec 2) (op size : BitVec 4) (addr : BitVec 56) (value : BitVec 64) (rd : BitVec 5) {s : State} (h_s : Keeps z0 s) :
    OutKeeps z0 (execServerCoreAccess hart kind attr op size addr value rd s) := by
  unfold execServerCoreAccess
  dsimp only
  repeat' first
    | with_reducible assumption
    | with_reducible apply outNext
    | with_reducible apply hartFault_keeps
    | with_reducible apply hartWindow_keeps
    | with_reducible apply hartRegister_keeps
    | with_reducible apply hartMemory_keeps
    | with_reducible apply keepsIte
    | split

theorem setClusters_keeps {z0 : State} {s : State} (h_s : Keeps z0 s) :
    Keeps z0 (setClusters s) := by
  unfold setClusters
  repeat' first
    | with_reducible assumption
    | intro _
    | with_reducible apply modDomain_keeps
    | with_reducible apply keeps_foldl
    | split

theorem execCppcRequest_keeps {z0 : State} (hart : BitVec 6) (mhz : BitVec 16) {s : State} (h_s : Keeps z0 s) :
    OutKeeps z0 (execCppcRequest hart mhz s) := by
  unfold execCppcRequest
  dsimp only
  repeat' first
    | with_reducible assumption
    | with_reducible apply outNext
    | with_reducible apply modHart_keeps
    | with_reducible apply setClusters_keeps
    | with_reducible apply keepsIte

theorem execIommuInvalWrite_keeps {z0 : State} (hart : BitVec 6) (value : BitVec 64) {s : State} (h_s : Keeps z0 s) :
    OutKeeps z0 (execIommuInvalWrite hart value s) := by
  unfold execIommuInvalWrite
  repeat' first
    | with_reducible assumption
    | with_reducible apply outNext
    | with_reducible apply invalidate_keeps

theorem execIommuSyncRead_keeps {z0 : State} (hart : BitVec 6) {s : State} (h_s : Keeps z0 s) :
    OutKeeps z0 (execIommuSyncRead hart s) := by
  unfold execIommuSyncRead
  repeat' first
    | with_reducible assumption
    | with_reducible apply outNext
    | with_reducible apply syncIommu_keeps

theorem execBootStatusMirror_keeps {z0 : State} (p : BitVec 4) (value : BitVec 64) {s : State} (h_s : Keeps z0 s) :
    OutKeeps z0 (execBootStatusMirror p value s) := by
  unfold execBootStatusMirror
  dsimp only
  repeat' first
    | with_reducible assumption
    | with_reducible apply outNext
    | with_reducible apply modServer_keeps
    | with_reducible apply keepsIte

theorem execServerBootTimeout_keeps {z0 : State} (p : BitVec 4) {s : State} (h_s : Keeps z0 s) :
    OutKeeps z0 (execServerBootTimeout p s) := by
  unfold execServerBootTimeout
  dsimp only
  repeat' first
    | with_reducible assumption
    | with_reducible apply outNext
    | with_reducible apply logError_keeps
    | with_reducible apply failTrial_keeps
    | with_reducible apply holdHarts_keeps
    | with_reducible apply setBoot_keeps
    | with_reducible apply keepsIte
    | split

theorem execSbiSrstReboot_keeps {z0 : State} (hart : BitVec 6) {s : State} (h_s : Keeps z0 s) :
    OutKeeps z0 (execSbiSrstReboot hart s) := by
  unfold execSbiSrstReboot
  repeat' first
    | with_reducible assumption
    | with_reducible apply outNext
    | with_reducible apply restartServers_keeps
    | with_reducible apply keepsIte

theorem execServerCoreInternalError_keeps {z0 : State} (hart : BitVec 6) {s : State} (h_s : Keeps z0 s) :
    OutKeeps z0 (execServerCoreInternalError hart s) := by
  unfold execServerCoreInternalError
  dsimp only
  repeat' first
    | with_reducible assumption
    | with_reducible apply outNext
    | with_reducible apply raiseAplic_keeps
    | with_reducible apply logError_keeps
    | with_reducible apply restartServers_keeps
    | with_reducible apply keepsIte

theorem writePlacementReg_keeps {z0 : State} {s : State} (fn i off : Nat) (v : Word64) (h_s : Keeps z0 s) :
    Keeps z0 (writePlacementReg s fn i off v) := by
  unfold writePlacementReg
  repeat' first
    | with_reducible assumption
    | with_reducible apply modRegion_keeps
    | with_reducible apply reopenRegion_keeps
    | with_reducible apply keepsIte
    | split

theorem writeMsix_keeps {z0 : State} {s : State} (fn off size : Nat) (v : Word64) (h_s : Keeps z0 s) :
    Keeps z0 (writeMsix s fn off size v) := by
  unfold writeMsix
  dsimp only
  repeat' first
    | with_reducible assumption
    | with_reducible apply modFunc_keeps
    | with_reducible apply sendPending_keeps

theorem writeBar0_keeps {z0 : State} {s : State} (fn off size : Nat) (v : Word64) (h_s : Keeps z0 s) :
    Keeps z0 (writeBar0 s fn off size v) := by
  unfold writeBar0
  dsimp only
  repeat' first
    | with_reducible assumption
    | with_reducible apply modFunc_keeps
    | with_reducible apply writeMbxTail_keeps
    | with_reducible apply writeMbxHead_keeps
    | with_reducible apply writePlacementReg_keeps
    | with_reducible apply writeMsix_keeps
    | with_reducible apply keepsIte

theorem mpWriteReg_keeps {z0 : State} {s : State} (die off size : Nat) (v : Word64) (h_s : Keeps z0 s) :
    Keeps z0 (mpWriteReg s die off size v) := by
  unfold mpWriteReg
  repeat' first
    | with_reducible assumption
    | with_reducible apply writeTier_keeps
    | with_reducible apply writeServer_keeps
    | with_reducible apply keepsIte

theorem execRegisterWrite_keeps {z0 : State} (space : BitVec 2) (who : BitVec 6) (off : BitVec 56) (size : BitVec 4) (value : BitVec 64) {s : State} (h_s : Keeps z0 s) :
    OutKeeps z0 (execRegisterWrite space who off size value s) := by
  unfold execRegisterWrite
  dsimp only
  repeat' first
    | with_reducible assumption
    | with_reducible apply outNext
    | with_reducible apply hartFault_keeps
    | with_reducible apply hartRegister_keeps
    | with_reducible apply writeBar0_keeps
    | with_reducible apply mpWriteReg_keeps
    | with_reducible apply keepsIte
    | split

end Sys2Proof.Machine
end

