-- ==== Sys2Proof/Laws/KeepsLife.lean ====
section
/-! SUPPORT. What the operations of Machine/Life.lean keep. -/

namespace Sys2Proof.Machine

theorem noteCap_keeps {z0 : State} {s : State} (old : Nat) (h_s : Keeps z0 s) :
    Keeps z0 (noteCap s old) := by
  unfold noteCap
  dsimp only
  repeat' first
    | with_reducible assumption
    | with_reducible apply raiseAplic_keeps
    | with_reducible apply logError_keeps
    | with_reducible apply keepsIte

theorem sampleStraps_keeps {z0 : State} {s : State} (mode slot : Nat) (h_s : Keeps z0 s) :
    Keeps z0 (sampleStraps s mode slot) := by
  unfold sampleStraps
  dsimp only
  iterate 2
    all_goals repeat' first
      | with_reducible assumption
      | with_reducible apply logError_keeps
      | with_reducible apply keepsIte
      | split
    all_goals try with_reducible apply keeps_mk
    all_goals try first
      | with_reducible exact id
      | with_reducible exact Nat.le_refl _

theorem execPowerOn_keeps {z0 : State} (coolMode : BitVec 2) (slot : BitVec 6) {s : State} (h_s : Keeps z0 s) :
    OutKeeps z0 (execPowerOn coolMode slot s) := by
  unfold execPowerOn
  dsimp only
  iterate 2
    all_goals repeat' first
      | with_reducible assumption
      | with_reducible apply outNext
      | with_reducible apply drawFree_keeps
      | with_reducible apply powerOff_keeps
      | with_reducible apply sampleStraps_keeps
      | with_reducible apply keepsIte
    all_goals try with_reducible apply keeps_mk
    all_goals try first
      | with_reducible exact id
      | with_reducible exact Nat.le_refl _

theorem restoreMaps_keeps {z0 : State} {s : State} (h_s : Keeps z0 s) :
    Keeps z0 (restoreMaps s) := by
  unfold restoreMaps
  dsimp only
  repeat' first
    | with_reducible assumption
    | intro _
    | with_reducible apply modObject_keeps
    | with_reducible apply restoreObject_keeps
    | with_reducible apply keeps_foldl
    | split

theorem bootAll_keeps {z0 : State} {s : State} (h_s : Keeps z0 s) :
    Keeps z0 (bootAll s) := by
  unfold bootAll
  repeat' first
    | with_reducible assumption
    | intro _
    | with_reducible apply bootServers_keeps
    | with_reducible apply keeps_foldl

theorem execLpddr5xInitComplete_keeps {z0 : State} {s : State} (h_s : Keeps z0 s) :
    OutKeeps z0 (execLpddr5xInitComplete s) := by
  unfold execLpddr5xInitComplete
  dsimp only
  iterate 2
    all_goals repeat' first
      | with_reducible assumption
      | with_reducible apply outNext
      | with_reducible apply restoreMaps_keeps
      | with_reducible apply bootAll_keeps
      | with_reducible apply keepsIte
    all_goals try with_reducible apply keeps_mk
    all_goals try first
      | with_reducible exact id
      | with_reducible exact Nat.le_refl _
      | exact fun _ => reset_memWf

theorem execPerstNAssert_keeps {z0 : State} {s : State} (h_s : Keeps z0 s) :
    OutKeeps z0 (execPerstNAssert s) := by
  unfold execPerstNAssert
  dsimp only
  iterate 2
    all_goals repeat' first
      | with_reducible assumption
      | with_reducible apply outNext
      | with_reducible apply writeStateRecords_keeps
      | with_reducible apply moduleReset_keeps
      | with_reducible apply keepsIte
    all_goals try with_reducible apply keeps_mk
    all_goals try first
      | with_reducible exact id
      | with_reducible exact Nat.le_refl _

theorem loadUnits_keeps {z0 : State} {s : State} (h_s : Keeps z0 s) :
    Keeps z0 (loadUnits s) := by
  unfold loadUnits
  repeat' first
    | with_reducible assumption
    | intro _
    | with_reducible apply logError_keeps
    | with_reducible apply modComponent_keeps
    | with_reducible apply keeps_foldl
    | split

theorem findDecafRecord_keeps {z0 : State} {s : State} (h_s : Keeps z0 s) :
    Keeps z0 (findDecafRecord s) := by
  unfold findDecafRecord
  dsimp only
  iterate 2
    all_goals repeat' first
      | with_reducible assumption
      | with_reducible apply logError_keeps
      | with_reducible apply keepsIte
      | split
    all_goals try with_reducible apply keeps_mk
    all_goals try first
      | with_reducible exact id
      | with_reducible exact Nat.le_refl _

theorem startMp_keeps {z0 : State} {s : State} (h_s : Keeps z0 s) :
    Keeps z0 (startMp s) := by
  unfold startMp
  dsimp only
  iterate 2
    all_goals repeat' first
      | with_reducible assumption
      | intro _
      | with_reducible apply raiseAlert_keeps
      | with_reducible apply loadComponent_keeps
      | with_reducible apply repairPartition_keeps
      | with_reducible apply enterDecaf_keeps
      | with_reducible apply bootAll_keeps
      | with_reducible apply loadUnits_keeps
      | with_reducible apply findDecafRecord_keeps
      | with_reducible apply keeps_foldl
      | with_reducible apply keepsIte
      | split
      | refine keeps_fst (by with_reducible assumption) ?_
    all_goals try with_reducible apply keeps_mk
    all_goals try first
      | with_reducible exact id
      | with_reducible exact Nat.le_refl _

theorem execPerstNDeassert_keeps {z0 : State} (coolMode : BitVec 2) (slot : BitVec 6) {s : State} (h_s : Keeps z0 s) :
    OutKeeps z0 (execPerstNDeassert coolMode slot s) := by
  unfold execPerstNDeassert
  dsimp only
  iterate 3
    all_goals repeat' first
      | with_reducible assumption
      | with_reducible apply outNext
      | with_reducible apply noteCap_keeps
      | with_reducible apply sampleStraps_keeps
      | with_reducible apply startMp_keeps
      | with_reducible apply keepsIte
    all_goals try with_reducible apply keeps_mk
    all_goals try first
      | with_reducible exact id
      | with_reducible exact Nat.le_refl _

theorem execFunctionLevelReset_keeps {z0 : State} (fn : BitVec 4) {s : State} (h_s : Keeps z0 s) :
    OutKeeps z0 (execFunctionLevelReset fn s) := by
  unfold execFunctionLevelReset
  repeat' first
    | with_reducible assumption
    | with_reducible apply outNext
    | with_reducible apply functionReset_keeps
    | with_reducible apply keepsIte

theorem execPoolUnitInternalFault_keeps {z0 : State} (channel : BitVec 7) {s : State} (h_s : Keeps z0 s) :
    OutKeeps z0 (execPoolUnitInternalFault channel s) := by
  unfold execPoolUnitInternalFault
  dsimp only
  repeat' first
    | with_reducible assumption
    | with_reducible apply outNext
    | with_reducible apply logError_keeps
    | with_reducible apply partitionReset_keeps
    | with_reducible apply keepsIte

theorem closeForRemoval_keeps {z0 : State} {s : State} (h_s : Keeps z0 s) :
    Keeps z0 (closeForRemoval s) := by
  unfold closeForRemoval
  iterate 2
    all_goals repeat' first
      | with_reducible assumption
    all_goals try with_reducible apply keeps_mk
    all_goals try first
      | with_reducible exact id
      | with_reducible exact Nat.le_refl _

theorem removeModule_keeps {z0 : State} {s : State} (h_s : Keeps z0 s) :
    Keeps z0 (removeModule s) := by
  unfold removeModule
  dsimp only
  iterate 3
    all_goals repeat' first
      | with_reducible assumption
      | with_reducible apply logError_keeps
      | with_reducible apply endCmds_keeps
      | with_reducible apply finishCommits_keeps
      | with_reducible apply setDomains_keeps
      | with_reducible apply stopUnits_keeps
      | with_reducible apply closeForRemoval_keeps
    all_goals try with_reducible apply keeps_mk
    all_goals try first
      | with_reducible exact id
      | with_reducible exact Nat.le_refl _

theorem execSurpriseRemoval_keeps {z0 : State} {s : State} (h_s : Keeps z0 s) :
    OutKeeps z0 (execSurpriseRemoval s) := by
  unfold execSurpriseRemoval
  repeat' first
    | with_reducible assumption
    | with_reducible apply outNext
    | with_reducible apply removeModule_keeps
    | with_reducible apply keepsIte

theorem execLinkStateChange_keeps {z0 : State} (link : BitVec 2) {s : State} (h_s : Keeps z0 s) :
    OutKeeps z0 (execLinkStateChange link s) := by
  unfold execLinkStateChange
  iterate 2
    all_goals repeat' first
      | with_reducible assumption
      | with_reducible apply outNext
      | with_reducible apply setDomains_keeps
      | with_reducible apply removeModule_keeps
      | with_reducible apply keepsIte
      | split
    all_goals try with_reducible apply keeps_mk
    all_goals try first
      | with_reducible exact id
      | with_reducible exact Nat.le_refl _

theorem execPwrEnAssert_keeps {z0 : State} {s : State} (h_s : Keeps z0 s) :
    OutKeeps z0 (execPwrEnAssert s) := by
  unfold execPwrEnAssert
  dsimp only
  iterate 2
    all_goals repeat' first
      | with_reducible assumption
      | with_reducible apply outNext
      | with_reducible apply keepsIte
      | split
    all_goals try with_reducible apply keeps_mk
    all_goals try first
      | with_reducible exact id
      | with_reducible exact Nat.le_refl _

theorem execPwrEnDeassert_keeps {z0 : State} {s : State} (h_s : Keeps z0 s) :
    OutKeeps z0 (execPwrEnDeassert s) := by
  unfold execPwrEnDeassert
  dsimp only
  iterate 2
    all_goals repeat' first
      | with_reducible assumption
      | with_reducible apply outNext
      | with_reducible apply writeStateRecords_keeps
      | with_reducible apply keepsIte
    all_goals try with_reducible apply keeps_mk
    all_goals try first
      | with_reducible exact id
      | with_reducible exact Nat.le_refl _

theorem execHotswapOpenTimer_keeps {z0 : State} {s : State} (h_s : Keeps z0 s) :
    OutKeeps z0 (execHotswapOpenTimer s) := by
  unfold execHotswapOpenTimer
  repeat' first
    | with_reducible assumption
    | with_reducible apply outNext
    | with_reducible apply powerOff_keeps
    | with_reducible apply keepsIte

theorem execRegulatorsStop_keeps {z0 : State} {s : State} (h_s : Keeps z0 s) :
    OutKeeps z0 (execRegulatorsStop s) := by
  unfold execRegulatorsStop
  repeat' first
    | with_reducible assumption
    | with_reducible apply outNext
    | with_reducible apply powerOff_keeps
    | with_reducible apply keepsIte

theorem execCoolModeChange_keeps {z0 : State} (mode : BitVec 2) {s : State} (h_s : Keeps z0 s) :
    OutKeeps z0 (execCoolModeChange mode s) := by
  unfold execCoolModeChange
  dsimp only
  iterate 2
    all_goals repeat' first
      | with_reducible assumption
      | with_reducible apply outNext
      | with_reducible apply logError_keeps
      | with_reducible apply keepsIte
    all_goals try with_reducible apply keeps_mk
    all_goals try first
      | with_reducible exact id
      | with_reducible exact Nat.le_refl _

theorem execMctpBaseboardNumber_keeps {z0 : State} (number : BitVec 16) {s : State} (h_s : Keeps z0 s) :
    OutKeeps z0 (execMctpBaseboardNumber number s) := by
  unfold execMctpBaseboardNumber
  dsimp only
  iterate 2
    all_goals repeat' first
      | with_reducible assumption
      | with_reducible apply outNext
      | with_reducible apply sendHost_keeps
      | with_reducible apply keepsIte
    all_goals try with_reducible apply keeps_mk
    all_goals try first
      | with_reducible exact id
      | with_reducible exact Nat.le_refl _

theorem execMctpPhaseRecordRead_keeps {z0 : State} (p : BitVec 8) {s : State} (h_s : Keeps z0 s) :
    OutKeeps z0 (execMctpPhaseRecordRead p s) := by
  unfold execMctpPhaseRecordRead
  repeat' first
    | with_reducible assumption
    | with_reducible apply outNext
    | with_reducible apply sendHost_keeps
    | with_reducible apply keepsIte
    | split

theorem execI3cEntdaa_keeps {z0 : State} (addr : BitVec 7) {s : State} (h_s : Keeps z0 s) :
    OutKeeps z0 (execI3cEntdaa addr s) := by
  unfold execI3cEntdaa
  dsimp only
  iterate 2
    all_goals repeat' first
      | with_reducible assumption
      | with_reducible apply outNext
      | with_reducible apply keepsIte
    all_goals try with_reducible apply keeps_mk
    all_goals try first
      | with_reducible exact id
      | with_reducible exact Nat.le_refl _

end Sys2Proof.Machine
end

