-- ==== Sys2Proof/Laws/KeepsMbxPart.lean ====
section
/-! SUPPORT. What the operations of Machine/MbxPart.lean keep. -/

namespace Sys2Proof.Machine

theorem doPartitionCreate_keeps {z0 : State} {s : State} (f : Func) (r : MbxReq) (h_s : Keeps z0 s) :
    MbxAnswer.Keeps z0 (doPartitionCreate s f r) := by
  unfold doPartitionCreate
  dsimp only
  iterate 2
    all_goals repeat' first
      | with_reducible assumption
      | with_reducible apply mbxDoneOf
      | with_reducible apply setPart_keeps
      | with_reducible apply mbxInvalid_keeps
      | with_reducible apply bootServers_keeps
      | with_reducible apply mbxIte
      | split
    all_goals try with_reducible apply keeps_mk
    all_goals try first
      | with_reducible exact id
      | with_reducible exact Nat.le_refl _

theorem execPartitionCreate_keeps {z0 : State} (fn : BitVec 4) {s : State} (h_s : Keeps z0 s) :
    OutKeeps z0 (execPartitionCreate fn s) := by
  unfold execPartitionCreate
  repeat' first
    | with_reducible assumption
    | with_reducible apply outNext
    | intro _
    | with_reducible apply runMbx_keeps
    | with_reducible apply doPartitionCreate_keeps

theorem markScrub_keeps {z0 : State} {s : State} (p : Nat) (h_s : Keeps z0 s) :
    Keeps z0 (markScrub s p) := by
  unfold markScrub
  repeat' first
    | with_reducible assumption
    | with_reducible apply modFunc_keeps

theorem doPartitionDestroy_keeps {z0 : State} {s : State} (r : MbxReq) (h_s : Keeps z0 s) :
    MbxAnswer.Keeps z0 (doPartitionDestroy s r) := by
  unfold doPartitionDestroy
  dsimp only
  iterate 2
    all_goals repeat' first
      | with_reducible assumption
      | with_reducible apply mbxLongOf
      | with_reducible apply modFunc_keeps
      | with_reducible apply mbxInvalid_keeps
      | with_reducible apply abortLong_keeps
      | with_reducible apply partitionStop_keeps
      | with_reducible apply markScrub_keeps
      | with_reducible apply mbxIte
    all_goals try with_reducible apply keeps_mk
    all_goals try first
      | with_reducible exact id
      | with_reducible exact Nat.le_refl _

theorem execPartitionDestroy_keeps {z0 : State} (fn : BitVec 4) {s : State} (h_s : Keeps z0 s) :
    OutKeeps z0 (execPartitionDestroy fn s) := by
  unfold execPartitionDestroy
  repeat' first
    | with_reducible assumption
    | with_reducible apply outNext
    | intro _
    | with_reducible apply runMbx_keeps
    | with_reducible apply doPartitionDestroy_keeps

theorem scrubPartition_keeps {z0 : State} {s : State} (p : Nat) (h_s : Keeps z0 s) :
    Keeps z0 (scrubPartition s p) := by
  unfold scrubPartition
  iterate 2
    all_goals repeat' first
      | with_reducible assumption
    all_goals try with_reducible apply keeps_mk
    all_goals try first
      | with_reducible exact id
      | with_reducible exact Nat.le_refl _
      | with_reducible exact filter_wf _

theorem finishDestroy_keeps {z0 : State} {s : State} (p : Nat) (h_s : Keeps z0 s) :
    Keeps z0 (finishDestroy s p) := by
  unfold finishDestroy
  dsimp only
  iterate 2
    all_goals repeat' first
      | with_reducible assumption
      | with_reducible apply scrubPartition_keeps
      | split
    all_goals try with_reducible apply keeps_mk
    all_goals try first
      | with_reducible exact id
      | with_reducible exact Nat.le_refl _

theorem doQueueCreate_keeps {z0 : State} {s : State} (p : Nat) (r : MbxReq) (h_s : Keeps z0 s) :
    MbxAnswer.Keeps z0 (doQueueCreate s p r) := by
  unfold doQueueCreate
  dsimp only
  iterate 2
    all_goals repeat' first
      | with_reducible assumption
      | with_reducible apply mbxDoneOf
      | with_reducible apply mbxInvalid_keeps
      | with_reducible apply mbxIte
      | split
    all_goals try with_reducible apply keeps_mk
    all_goals try first
      | with_reducible exact id
      | with_reducible exact Nat.le_refl _

theorem execQueueCreate_keeps {z0 : State} (fn : BitVec 4) {s : State} (h_s : Keeps z0 s) :
    OutKeeps z0 (execQueueCreate fn s) := by
  unfold execQueueCreate
  repeat' first
    | with_reducible assumption
    | with_reducible apply outNext
    | intro _
    | with_reducible apply runMbx_keeps
    | with_reducible apply doQueueCreate_keeps

theorem doQueueDestroy_keeps {z0 : State} {s : State} (p : Nat) (r : MbxReq) (h_s : Keeps z0 s) :
    MbxAnswer.Keeps z0 (doQueueDestroy s p r) := by
  unfold doQueueDestroy
  dsimp only
  repeat' first
    | with_reducible assumption
    | with_reducible apply mbxDoneOf
    | with_reducible apply endCmds_keeps
    | with_reducible apply mbxInvalid_keeps
    | with_reducible apply finishCommits_keeps
    | with_reducible apply freeQueue_keeps
    | with_reducible apply mbxIte
    | split

theorem execQueueDestroy_keeps {z0 : State} (fn : BitVec 4) {s : State} (h_s : Keeps z0 s) :
    OutKeeps z0 (execQueueDestroy fn s) := by
  unfold execQueueDestroy
  repeat' first
    | with_reducible assumption
    | with_reducible apply outNext
    | intro _
    | with_reducible apply runMbx_keeps
    | with_reducible apply doQueueDestroy_keeps

end Sys2Proof.Machine
end

