-- ==== Sys2Proof/Laws/KeepsMbxRegion.lean ====
section
/-! SUPPORT. What the operations of Machine/MbxRegion.lean keep. -/

namespace Sys2Proof.Machine

theorem registerHost_keeps {z0 : State} {s : State} (p : Nat) (b : List Byte) (h_s : Keeps z0 s) :
    MbxAnswer.Keeps z0 (registerHost s p b) := by
  unfold registerHost
  dsimp only
  repeat' first
    | with_reducible assumption
    | with_reducible apply mbxDoneOf
    | with_reducible apply modPart_keeps
    | with_reducible apply mbxInvalid_keeps
    | with_reducible apply mbxIte
    | split

theorem recallCached_keeps {z0 : State} {s : State} (a n : Nat) (h_s : Keeps z0 s) :
    Keeps z0 (recallCached s a n) := by
  unfold recallCached
  repeat' first
    | with_reducible assumption
    | intro _
    | with_reducible apply recallLine_keeps
    | with_reducible apply keeps_foldl

theorem dropCached_keeps {z0 : State} {s : State} (a n : Nat) (h_s : Keeps z0 s) :
    Keeps z0 (dropCached s a n) := by
  unfold dropCached
  repeat' first
    | with_reducible assumption
    | intro _
    | with_reducible apply dropCopies_keeps
    | with_reducible apply keeps_foldl

theorem endHostReg_keeps {z0 : State} {s : State} (p i : Nat) (h_s : Keeps z0 s) :
    Keeps z0 (endHostReg s p i) := by
  unfold endHostReg
  repeat' first
    | with_reducible assumption
    | with_reducible apply modPart_keeps
    | with_reducible apply recallCached_keeps
    | split

theorem fillObject_keeps {z0 : State} {s : State} (p i : Nat) (o : TieredObject) (h_s : Keeps z0 s) :
    Keeps z0 (fillObject s p i o) := by
  unfold fillObject
  repeat' first
    | with_reducible assumption
    | intro _
    | with_reducible apply queueMig_keeps
    | with_reducible apply startMigration_keeps
    | with_reducible apply keeps_foldl
    | split
    | refine keeps_snd (by with_reducible assumption) ?_

theorem registerObject_keeps {z0 : State} {s : State} (p : Nat) (b : List Byte) (h_s : Keeps z0 s) :
    MbxAnswer.Keeps z0 (registerObject s p b) := by
  unfold registerObject
  dsimp only
  repeat' first
    | with_reducible assumption
    | with_reducible apply mbxDoneOf
    | intro _
    | with_reducible apply modPart_keeps
    | with_reducible apply failAccess_keeps
    | with_reducible apply mbxInvalid_keeps
    | with_reducible apply mpRead_keeps
    | with_reducible apply restoreObject_keeps
    | with_reducible apply fillObject_keeps
    | with_reducible apply keepsIte
    | with_reducible apply mbxIte
    | split

theorem endObject_keeps {z0 : State} {s : State} (p i : Nat) (h_s : Keeps z0 s) :
    Keeps z0 (endObject s p i) := by
  unfold endObject
  repeat' first
    | with_reducible assumption
    | with_reducible apply modPart_keeps
    | with_reducible apply dropCached_keeps
    | split

theorem bindGranules_keeps {z0 : State} {s : State} (fn first n : Nat) (g : Nat → Granule) (h_s : Keeps z0 s) :
    Keeps z0 (bindGranules s fn first n g) := by
  unfold bindGranules
  repeat' first
    | with_reducible assumption
    | with_reducible apply modFunc_keeps

theorem registerPlacement_keeps {z0 : State} {s : State} (p : Nat) (f : Func) (b : List Byte) (h_s : Keeps z0 s) :
    MbxAnswer.Keeps z0 (registerPlacement s p f b) := by
  unfold registerPlacement
  dsimp only
  repeat' first
    | with_reducible assumption
    | with_reducible apply mbxDoneOf
    | with_reducible apply modFunc_keeps
    | with_reducible apply mbxInvalid_keeps
    | with_reducible apply bindGranules_keeps
    | with_reducible apply mbxIte
    | split

theorem registerReadout_keeps {z0 : State} {s : State} (p : Nat) (f : Func) (b : List Byte) (h_s : Keeps z0 s) :
    MbxAnswer.Keeps z0 (registerReadout s p f b) := by
  unfold registerReadout
  dsimp only
  repeat' first
    | with_reducible assumption
    | with_reducible apply mbxDoneOf
    | with_reducible apply modFunc_keeps
    | with_reducible apply mbxInvalid_keeps
    | with_reducible apply bindGranules_keeps
    | with_reducible apply mbxIte
    | split

theorem doRegionRegister_keeps {z0 : State} {s : State} (p : Nat) (f : Func) (r : MbxReq) (h_s : Keeps z0 s) :
    MbxAnswer.Keeps z0 (doRegionRegister s p f r) := by
  unfold doRegionRegister
  repeat' first
    | with_reducible assumption
    | with_reducible apply mbxInvalid_keeps
    | with_reducible apply registerHost_keeps
    | with_reducible apply registerObject_keeps
    | with_reducible apply registerPlacement_keeps
    | with_reducible apply registerReadout_keeps
    | split

theorem execRegionRegister_keeps {z0 : State} (fn : BitVec 4) {s : State} (h_s : Keeps z0 s) :
    OutKeeps z0 (execRegionRegister fn s) := by
  unfold execRegionRegister
  repeat' first
    | with_reducible assumption
    | with_reducible apply outNext
    | intro _
    | with_reducible apply runMbx_keeps
    | with_reducible apply doRegionRegister_keeps

theorem doRegionUnregister_keeps {z0 : State} {s : State} (p : Nat) (f : Func) (r : MbxReq) (h_s : Keeps z0 s) :
    MbxAnswer.Keeps z0 (doRegionUnregister s p f r) := by
  unfold doRegionUnregister
  dsimp only
  repeat' first
    | with_reducible assumption
    | with_reducible apply mbxLongOf
    | with_reducible apply mbxDoneOf
    | with_reducible apply modObject_keeps
    | with_reducible apply mbxInvalid_keeps
    | with_reducible apply withdrawRegion_keeps
    | with_reducible apply keepsIte
    | with_reducible apply mbxIte
    | split

theorem execRegionUnregister_keeps {z0 : State} (fn : BitVec 4) {s : State} (h_s : Keeps z0 s) :
    OutKeeps z0 (execRegionUnregister fn s) := by
  unfold execRegionUnregister
  repeat' first
    | with_reducible assumption
    | with_reducible apply outNext
    | intro _
    | with_reducible apply runMbx_keeps
    | with_reducible apply doRegionUnregister_keeps

theorem unregisterDone_keeps {z0 : State} {s : State} (p : Nat) (r : MbxReq) (h_s : Keeps z0 s) :
    OptKeeps z0 (unregisterDone s p r) := by
  unfold unregisterDone
  dsimp only
  repeat' first
    | with_reducible assumption
    | with_reducible apply optNone
    | with_reducible apply optSome
    | with_reducible apply modFunc_keeps
    | with_reducible apply endHostReg_keeps
    | with_reducible apply endObject_keeps
    | with_reducible apply optIte
    | split

theorem doWindowMap_keeps {z0 : State} {s : State} (p : Nat) (f : Func) (r : MbxReq) (h_s : Keeps z0 s) :
    MbxAnswer.Keeps z0 (doWindowMap s p f r) := by
  unfold doWindowMap
  dsimp only
  repeat' first
    | with_reducible assumption
    | with_reducible apply mbxDoneOf
    | with_reducible apply modFunc_keeps
    | with_reducible apply drawFree_keeps
    | with_reducible apply cohWrite_keeps
    | with_reducible apply failAccess_keeps
    | with_reducible apply markExternal_keeps
    | with_reducible apply mbxInvalid_keeps
    | with_reducible apply bindGranules_keeps
    | with_reducible apply mbxIte
    | split

theorem execWindowMapMap_keeps {z0 : State} (fn : BitVec 4) {s : State} (h_s : Keeps z0 s) :
    OutKeeps z0 (execWindowMapMap fn s) := by
  unfold execWindowMapMap
  repeat' first
    | with_reducible assumption
    | with_reducible apply outNext
    | intro _
    | with_reducible apply runMbx_keeps
    | with_reducible apply doWindowMap_keeps

theorem doWindowUnmap_keeps {z0 : State} {s : State} (p : Nat) (f : Func) (r : MbxReq) (h_s : Keeps z0 s) :
    MbxAnswer.Keeps z0 (doWindowUnmap s p f r) := by
  unfold doWindowUnmap
  dsimp only
  repeat' first
    | with_reducible assumption
    | with_reducible apply mbxDoneOf
    | with_reducible apply modFunc_keeps
    | with_reducible apply drawFree_keeps
    | with_reducible apply mbxInvalid_keeps
    | with_reducible apply mbxIte

theorem execWindowMapUnmap_keeps {z0 : State} (fn : BitVec 4) {s : State} (h_s : Keeps z0 s) :
    OutKeeps z0 (execWindowMapUnmap fn s) := by
  unfold execWindowMapUnmap
  repeat' first
    | with_reducible assumption
    | with_reducible apply outNext
    | intro _
    | with_reducible apply runMbx_keeps
    | with_reducible apply doWindowUnmap_keeps

theorem doRemoveSet_keeps {z0 : State} {s : State} (p : Nat) (f : Func) (r : MbxReq) (h_s : Keeps z0 s) :
    MbxAnswer.Keeps z0 (doRemoveSet s p f r) := by
  unfold doRemoveSet
  dsimp only
  repeat' first
    | with_reducible assumption
    | with_reducible apply mbxDoneOf
    | with_reducible apply modFunc_keeps
    | with_reducible apply mbxInvalid_keeps
    | with_reducible apply retireSet_keeps
    | split

theorem execWindowMapRemoveSet_keeps {z0 : State} (fn : BitVec 4) {s : State} (h_s : Keeps z0 s) :
    OutKeeps z0 (execWindowMapRemoveSet fn s) := by
  unfold execWindowMapRemoveSet
  repeat' first
    | with_reducible assumption
    | with_reducible apply outNext
    | intro _
    | with_reducible apply runMbx_keeps
    | with_reducible apply doRemoveSet_keeps

theorem reviveSet_keeps {z0 : State} {s : State} (y : SlotSet) (h_s : Keeps z0 s) :
    Keeps z0 (reviveSet s y) := by
  unfold reviveSet
  dsimp only
  repeat' first
    | with_reducible assumption
    | intro _
    | with_reducible apply cohWrite_keeps
    | with_reducible apply keeps_foldl
    | with_reducible apply keepsIte
    | split

theorem doReactivateSet_keeps {z0 : State} {s : State} (p : Nat) (f : Func) (r : MbxReq) (h_s : Keeps z0 s) :
    MbxAnswer.Keeps z0 (doReactivateSet s p f r) := by
  unfold doReactivateSet
  dsimp only
  repeat' first
    | with_reducible assumption
    | with_reducible apply mbxDoneOf
    | with_reducible apply modFunc_keeps
    | with_reducible apply mbxInvalid_keeps
    | with_reducible apply reviveSet_keeps
    | split

theorem execWindowMapReactivateSet_keeps {z0 : State} (fn : BitVec 4) {s : State} (h_s : Keeps z0 s) :
    OutKeeps z0 (execWindowMapReactivateSet fn s) := by
  unfold execWindowMapReactivateSet
  repeat' first
    | with_reducible assumption
    | with_reducible apply outNext
    | intro _
    | with_reducible apply runMbx_keeps
    | with_reducible apply doReactivateSet_keeps

end Sys2Proof.Machine
end

