-- ==== Sys2Proof/Laws/KeepsMbxJob.lean ====
section
/-! SUPPORT. What the operations of Machine/MbxJob.lean keep. -/

namespace Sys2Proof.Machine

theorem mpReads_keeps {s0 s : State} (p : Nat) (f : State → List (List Byte) → MbxAnswer)
    (hf : ∀ t b, Keeps s0 t → MbxAnswer.Keeps s0 (f t b)) (l : List (Nat × Nat)) (acc : List (List Byte)) (h : Keeps s0 s) :
    MbxAnswer.Keeps s0 (mpReads p f s l acc) := by
  induction l generalizing s acc with
  | nil => exact hf _ _ h
  | cons e l ih => exact mpRead_keeps _ _ _ _ (fun t b ht => ih _ ht) h

theorem mpWrites_keeps {z0 : State} {s : State} (p : Nat) (ws : List (Nat × List Byte)) (f : State → MbxAnswer) (h_f : ∀ y0, Keeps z0 y0 → MbxAnswer.Keeps z0 (f y0)) (h_s : Keeps z0 s) :
    MbxAnswer.Keeps z0 (mpWrites s p ws f) := by
  unfold mpWrites
  repeat' first
    | with_reducible assumption
    | with_reducible apply mbxWaitOf
    | with_reducible apply mbxDoneOf
    | intro _
    | with_reducible apply failAccess_keeps
    | with_reducible apply moduleWrite_keeps
    | with_reducible apply markExternal_keeps
    | with_reducible apply tierReady_keeps
    | with_reducible apply h_f
    | with_reducible apply keeps_foldl
    | split
    | refine keeps_ready (by with_reducible assumption) ?_
    | refine keeps_held (by with_reducible assumption) ?_
    | refine keeps_bad (by with_reducible assumption) ?_

theorem mpReadT1_keeps {z0 : State} {s : State} (p a n : Nat) (f : State → List Byte → MbxAnswer) (h_f : ∀ y0 y1, Keeps z0 y0 → MbxAnswer.Keeps z0 (f y0 y1)) (h_s : Keeps z0 s) :
    MbxAnswer.Keeps z0 (mpReadT1 s p a n f) := by
  unfold mpReadT1
  repeat' first
    | with_reducible assumption
    | with_reducible apply mbxDoneOf
    | with_reducible apply failAccess_keeps
    | with_reducible apply mpRead_keeps
    | with_reducible apply mbxIte

theorem endRelayouts_keeps {z0 : State} {s : State} (fn : Nat) (t : Nat → Bool) (h_s : Keeps z0 s) :
    Keeps z0 (endRelayouts s fn t) := by
  unfold endRelayouts
  repeat' first
    | with_reducible assumption
    | intro _
    | with_reducible apply answer_keeps
    | with_reducible apply keeps_foldl
    | split

theorem putJob_keeps {z0 : State} {s : State} (p : Nat) (j : Job) (h_s : Keeps z0 s) :
    Keeps z0 (putJob s p j) := by
  unfold putJob
  repeat' first
    | with_reducible assumption
    | with_reducible apply modPart_keeps
    | with_reducible apply endRelayouts_keeps

theorem startJob_keeps {z0 : State} {s : State} (p : Nat) (j : Job) (record : List Byte) (h_s : Keeps z0 s) :
    MbxAnswer.Keeps z0 (startJob s p j record) := by
  unfold startJob
  dsimp only
  repeat' first
    | with_reducible assumption
    | with_reducible apply mbxDoneOf
    | intro _
    | with_reducible apply mpWrites_keeps
    | with_reducible apply putJob_keeps
    | with_reducible apply mbxIte
    | split

theorem doJobConfig_keeps {z0 : State} {s : State} (p : Nat) (r : MbxReq) (h_s : Keeps z0 s) :
    MbxAnswer.Keeps z0 (doJobConfig s p r) := by
  unfold doJobConfig
  dsimp only
  repeat' first
    | with_reducible assumption
    | with_reducible apply mbxDoneOf
    | intro _
    | with_reducible apply failAccess_keeps
    | with_reducible apply mbxInvalid_keeps
    | with_reducible apply mpReads_keeps
    | with_reducible apply startJob_keeps
    | with_reducible apply mbxIte
    | split

theorem execJobConfig_keeps {z0 : State} (fn : BitVec 4) {s : State} (h_s : Keeps z0 s) :
    OutKeeps z0 (execJobConfig fn s) := by
  unfold execJobConfig
  repeat' first
    | with_reducible assumption
    | with_reducible apply outNext
    | intro _
    | with_reducible apply runMbx_keeps
    | with_reducible apply doJobConfig_keeps

theorem doMappingLoad_keeps {z0 : State} {s : State} (p : Nat) (r : MbxReq) (h_s : Keeps z0 s) :
    MbxAnswer.Keeps z0 (doMappingLoad s p r) := by
  unfold doMappingLoad
  dsimp only
  repeat' first
    | with_reducible assumption
    | with_reducible apply mbxDoneOf
    | intro _
    | with_reducible apply modJob_keeps
    | with_reducible apply mbxInvalid_keeps
    | with_reducible apply mpReadT1_keeps
    | with_reducible apply mbxIte
    | split

theorem execMappingLoad_keeps {z0 : State} (fn : BitVec 4) {s : State} (h_s : Keeps z0 s) :
    OutKeeps z0 (execMappingLoad fn s) := by
  unfold execMappingLoad
  repeat' first
    | with_reducible assumption
    | with_reducible apply outNext
    | intro _
    | with_reducible apply runMbx_keeps
    | with_reducible apply doMappingLoad_keeps

theorem readTable_keeps {z0 : State} {s : State} (p a : Nat) (f : State → TableDesc → MbxAnswer) (h_f : ∀ y0 y1, Keeps z0 y0 → MbxAnswer.Keeps z0 (f y0 y1)) (h_s : Keeps z0 s) :
    MbxAnswer.Keeps z0 (readTable s p a f) := by
  unfold readTable
  dsimp only
  repeat' first
    | with_reducible assumption
    | intro _
    | with_reducible apply mbxInvalid_keeps
    | with_reducible apply mpReads_keeps
    | with_reducible apply mpReadT1_keeps
    | with_reducible apply h_f
    | with_reducible apply mbxIte

theorem doTableCreate_keeps {z0 : State} {s : State} (p : Nat) (r : MbxReq) (h_s : Keeps z0 s) :
    MbxAnswer.Keeps z0 (doTableCreate s p r) := by
  unfold doTableCreate
  dsimp only
  repeat' first
    | with_reducible assumption
    | with_reducible apply mbxDoneOf
    | intro _
    | with_reducible apply modJob_keeps
    | with_reducible apply mbxInvalid_keeps
    | with_reducible apply mpWrites_keeps
    | with_reducible apply readTable_keeps
    | with_reducible apply mbxIte
    | split

theorem execTableCreate_keeps {z0 : State} (fn : BitVec 4) {s : State} (h_s : Keeps z0 s) :
    OutKeeps z0 (execTableCreate fn s) := by
  unfold execTableCreate
  repeat' first
    | with_reducible assumption
    | with_reducible apply outNext
    | intro _
    | with_reducible apply runMbx_keeps
    | with_reducible apply doTableCreate_keeps

theorem doRelayoutStart_keeps {z0 : State} {s : State} (p : Nat) (r : MbxReq) (h_s : Keeps z0 s) :
    MbxAnswer.Keeps z0 (doRelayoutStart s p r) := by
  unfold doRelayoutStart
  dsimp only
  repeat' first
    | with_reducible assumption
    | with_reducible apply mbxLongOf
    | with_reducible apply mbxDoneOf
    | intro _
    | with_reducible apply failAccess_keeps
    | with_reducible apply setRelayout_keeps
    | with_reducible apply mbxInvalid_keeps
    | with_reducible apply readTable_keeps
    | with_reducible apply mbxIte
    | split

theorem execRelayoutStart_keeps {z0 : State} (fn : BitVec 4) {s : State} (h_s : Keeps z0 s) :
    OutKeeps z0 (execRelayoutStart fn s) := by
  unfold execRelayoutStart
  repeat' first
    | with_reducible assumption
    | with_reducible apply outNext
    | intro _
    | with_reducible apply runMbx_keeps
    | with_reducible apply doRelayoutStart_keeps

theorem doRelayoutResume_keeps {z0 : State} {s : State} (p : Nat) (r : MbxReq) (h_s : Keeps z0 s) :
    MbxAnswer.Keeps z0 (doRelayoutResume s p r) := by
  unfold doRelayoutResume
  dsimp only
  repeat' first
    | with_reducible assumption
    | with_reducible apply mbxLongOf
    | with_reducible apply setRelayout_keeps
    | with_reducible apply mbxInvalid_keeps
    | with_reducible apply mbxIte
    | split

theorem execRelayoutResume_keeps {z0 : State} (fn : BitVec 4) {s : State} (h_s : Keeps z0 s) :
    OutKeeps z0 (execRelayoutResume fn s) := by
  unfold execRelayoutResume
  repeat' first
    | with_reducible assumption
    | with_reducible apply outNext
    | intro _
    | with_reducible apply runMbx_keeps
    | with_reducible apply doRelayoutResume_keeps

theorem doRelayoutAbort_keeps {z0 : State} {s : State} (p : Nat) (revert : Bool) (r : MbxReq) (h_s : Keeps z0 s) :
    MbxAnswer.Keeps z0 (doRelayoutAbort s p revert r) := by
  unfold doRelayoutAbort
  dsimp only
  repeat' first
    | with_reducible assumption
    | with_reducible apply mbxDoneOf
    | with_reducible apply setRelayout_keeps
    | with_reducible apply mbxInvalid_keeps
    | with_reducible apply endRelayouts_keeps
    | split

theorem execRelayoutAbortStop_keeps {z0 : State} (fn : BitVec 4) {s : State} (h_s : Keeps z0 s) :
    OutKeeps z0 (execRelayoutAbortStop fn s) := by
  unfold execRelayoutAbortStop
  repeat' first
    | with_reducible assumption
    | with_reducible apply outNext
    | intro _
    | with_reducible apply mbxInvalid_keeps
    | with_reducible apply runMbx_keeps
    | with_reducible apply doRelayoutAbort_keeps
    | with_reducible apply mbxIte

theorem execRelayoutAbortRevert_keeps {z0 : State} (fn : BitVec 4) {s : State} (h_s : Keeps z0 s) :
    OutKeeps z0 (execRelayoutAbortRevert fn s) := by
  unfold execRelayoutAbortRevert
  repeat' first
    | with_reducible assumption
    | with_reducible apply outNext
    | intro _
    | with_reducible apply runMbx_keeps
    | with_reducible apply doRelayoutAbort_keeps

theorem doDripConfig_keeps {z0 : State} {s : State} (p : Nat) (r : MbxReq) (h_s : Keeps z0 s) :
    MbxAnswer.Keeps z0 (doDripConfig s p r) := by
  unfold doDripConfig
  dsimp only
  repeat' first
    | with_reducible assumption
    | with_reducible apply mbxDoneOf
    | intro _
    | with_reducible apply modJob_keeps
    | with_reducible apply failAccess_keeps
    | with_reducible apply moduleWrite_keeps
    | with_reducible apply dripInvalidate_keeps
    | with_reducible apply mbxInvalid_keeps
    | with_reducible apply mpRead_keeps
    | with_reducible apply keeps_foldl
    | with_reducible apply mbxIte
    | split

theorem execDripConfig_keeps {z0 : State} (fn : BitVec 4) {s : State} (h_s : Keeps z0 s) :
    OutKeeps z0 (execDripConfig fn s) := by
  unfold execDripConfig
  repeat' first
    | with_reducible assumption
    | with_reducible apply outNext
    | intro _
    | with_reducible apply runMbx_keeps
    | with_reducible apply doDripConfig_keeps

theorem doReplayConfig_keeps {z0 : State} {s : State} (p : Nat) (r : MbxReq) (h_s : Keeps z0 s) :
    MbxAnswer.Keeps z0 (doReplayConfig s p r) := by
  unfold doReplayConfig
  dsimp only
  repeat' first
    | with_reducible assumption
    | with_reducible apply mbxDoneOf
    | with_reducible apply modPart_keeps
    | with_reducible apply failAccess_keeps
    | with_reducible apply moduleWrite_keeps
    | with_reducible apply mbxInvalid_keeps
    | with_reducible apply mbxIte

theorem execReplayConfig_keeps {z0 : State} (fn : BitVec 4) {s : State} (h_s : Keeps z0 s) :
    OutKeeps z0 (execReplayConfig fn s) := by
  unfold execReplayConfig
  repeat' first
    | with_reducible assumption
    | with_reducible apply outNext
    | intro _
    | with_reducible apply runMbx_keeps
    | with_reducible apply doReplayConfig_keeps

theorem doPeerTableLoad_keeps {z0 : State} {s : State} (p : Nat) (r : MbxReq) (h_s : Keeps z0 s) :
    MbxAnswer.Keeps z0 (doPeerTableLoad s p r) := by
  unfold doPeerTableLoad
  dsimp only
  repeat' first
    | with_reducible assumption
    | with_reducible apply mbxDoneOf
    | intro _
    | with_reducible apply modPart_keeps
    | with_reducible apply mbxInvalid_keeps
    | with_reducible apply mpReadT1_keeps
    | with_reducible apply mbxIte

theorem execPeerTableLoad_keeps {z0 : State} (fn : BitVec 4) {s : State} (h_s : Keeps z0 s) :
    OutKeeps z0 (execPeerTableLoad fn s) := by
  unfold execPeerTableLoad
  repeat' first
    | with_reducible assumption
    | with_reducible apply outNext
    | intro _
    | with_reducible apply runMbx_keeps
    | with_reducible apply doPeerTableLoad_keeps

end Sys2Proof.Machine
end

