-- ==== Sys2Proof/Laws/KeepsPorts.lean ====
section
/-! SUPPORT. What the operations of Machine/Ports.lean keep. -/

namespace Sys2Proof.Machine

theorem dropFrame_keeps {z0 : State} {s : State} (port : Nat) (h_s : Keeps z0 s) :
    Keeps z0 (dropFrame s port) := by
  unfold dropFrame
  repeat' first
    | with_reducible assumption
    | with_reducible apply modPort_keeps

theorem countRx_keeps {z0 : State} {s : State} (port bytes : Nat) (h_s : Keeps z0 s) :
    Keeps z0 (countRx s port bytes) := by
  unfold countRx
  repeat' first
    | with_reducible assumption
    | with_reducible apply modPort_keeps

theorem admitFrame_keeps {z0 : State} {s : State} (port : Nat) (dst etherType : Nat) (fcsOk icvOk : Bool) (n : Nat) (f : State → State) (h_f : ∀ y0, Keeps z0 y0 → Keeps z0 (f y0)) (h_s : Keeps z0 s) :
    Keeps z0 (admitFrame s port dst etherType fcsOk icvOk n f) := by
  unfold admitFrame
  dsimp only
  repeat' first
    | with_reducible assumption
    | with_reducible apply modPort_keeps
    | with_reducible apply dropFrame_keeps
    | with_reducible apply countRx_keeps
    | with_reducible apply h_f
    | with_reducible apply keepsIte
    | split

theorem replyFrame_keeps {z0 : State} {s : State} (port type srcFlow : Nat) (x : TFrame) (h_s : Keeps z0 s) :
    Keeps z0 (replyFrame s port type srcFlow x) := by
  unfold replyFrame
  repeat' first
    | with_reducible assumption
    | with_reducible apply emitFrame_keeps

theorem checkFrame_keeps {z0 : State} {s : State} (port type : Nat) (header payload : List Byte) (f : State → Nat → TFrame → State) (h_f : ∀ y0 y1 y2, Keeps z0 y0 → Keeps z0 (f y0 y1 y2)) (h_s : Keeps z0 s) :
    Keeps z0 (checkFrame s port type header payload f) := by
  unfold checkFrame
  dsimp only
  repeat' first
    | with_reducible assumption
    | with_reducible apply dropFrame_keeps
    | with_reducible apply h_f
    | with_reducible apply keepsIte
    | split

theorem flowFrame_keeps {z0 : State} {s : State} (port type : Nat) (header payload : List Byte) (f : State → Nat → Nat → Flow → TFrame → State) (h_f : ∀ y0 y1 y2 y3 y4, Keeps z0 y0 → Keeps z0 (f y0 y1 y2 y3 y4)) (h_s : Keeps z0 s) :
    Keeps z0 (flowFrame s port type header payload f) := by
  unfold flowFrame
  dsimp only
  repeat' first
    | with_reducible assumption
    | intro _
    | with_reducible apply modFlow_keeps
    | with_reducible apply dropFrame_keeps
    | with_reducible apply replyFrame_keeps
    | with_reducible apply checkFrame_keeps
    | with_reducible apply h_f
    | with_reducible apply keepsIte
    | split

theorem progressGang_keeps {z0 : State} {s : State} (p : Nat) (h_s : Keeps z0 s) :
    Keeps z0 (progressGang s p) := by
  unfold progressGang
  repeat' first
    | with_reducible assumption
    | intro _
    | with_reducible apply progressColl_keeps
    | with_reducible apply progressRing_keeps
    | with_reducible apply keeps_foldl

theorem deliverFlow_keeps {z0 : State} {s : State} (fid : Nat) (h_s : Keeps z0 s) :
    Keeps z0 (deliverFlow s fid) := by
  unfold deliverFlow
  dsimp only
  repeat' first
    | with_reducible assumption
    | intro _
    | with_reducible apply modFlow_keeps
    | with_reducible apply deliver_keeps
    | with_reducible apply keeps_foldl
    | split

theorem execDataFrame_keeps {z0 : State} (port : BitVec 4) (dst : BitVec 48) (etherType : BitVec 16) (fcsOk icvOk : Bool) (header payload : List Byte) {s : State} (h_s : Keeps z0 s) :
    OutKeeps z0 (execDataFrame port dst etherType fcsOk icvOk header payload s) := by
  unfold execDataFrame
  dsimp only
  repeat' first
    | with_reducible assumption
    | with_reducible apply outNext
    | intro _
    | with_reducible apply modPort_keeps
    | with_reducible apply modColl_keeps
    | with_reducible apply modFlow_keeps
    | with_reducible apply sendAck_keeps
    | with_reducible apply takeAck_keeps
    | with_reducible apply admitFrame_keeps
    | with_reducible apply flowFrame_keeps
    | with_reducible apply progressGang_keeps
    | with_reducible apply deliverFlow_keeps
    | with_reducible apply keepsIte

theorem execAckFrame_keeps {z0 : State} (port : BitVec 4) (dst : BitVec 48) (etherType : BitVec 16) (fcsOk icvOk : Bool) (header payload : List Byte) {s : State} (h_s : Keeps z0 s) :
    OutKeeps z0 (execAckFrame port dst etherType fcsOk icvOk header payload s) := by
  unfold execAckFrame
  repeat' first
    | with_reducible assumption
    | with_reducible apply outNext
    | intro _
    | with_reducible apply takeAck_keeps
    | with_reducible apply admitFrame_keeps
    | with_reducible apply flowFrame_keeps
    | with_reducible apply progressGang_keeps

theorem setPlanes_keeps {z0 : State} {s : State} (fid : Nat) (h_s : Keeps z0 s) :
    Keeps z0 (setPlanes s fid) := by
  unfold setPlanes
  repeat' first
    | with_reducible assumption
    | with_reducible apply modFlow_keeps
    | split

theorem execConnectFrame_keeps {z0 : State} (port : BitVec 4) (dst : BitVec 48) (etherType : BitVec 16) (fcsOk icvOk : Bool) (header payload : List Byte) {s : State} (h_s : Keeps z0 s) :
    OutKeeps z0 (execConnectFrame port dst etherType fcsOk icvOk header payload s) := by
  unfold execConnectFrame
  dsimp only
  iterate 2
    all_goals repeat' first
      | with_reducible assumption
      | with_reducible apply outNext
      | intro _
      | with_reducible apply modFlow_keeps
      | with_reducible apply pump_keeps
      | with_reducible apply flowRoom_keeps
      | with_reducible apply admitFrame_keeps
      | with_reducible apply replyFrame_keeps
      | with_reducible apply checkFrame_keeps
      | with_reducible apply setPlanes_keeps
      | split
      | refine keeps_some (by with_reducible assumption) ?_
    all_goals try with_reducible apply keeps_mk
    all_goals try first
      | with_reducible exact id
      | with_reducible exact Nat.le_refl _

theorem execAcceptFrame_keeps {z0 : State} (port : BitVec 4) (dst : BitVec 48) (etherType : BitVec 16) (fcsOk icvOk : Bool) (header payload : List Byte) {s : State} (h_s : Keeps z0 s) :
    OutKeeps z0 (execAcceptFrame port dst etherType fcsOk icvOk header payload s) := by
  unfold execAcceptFrame
  repeat' first
    | with_reducible assumption
    | with_reducible apply outNext
    | intro _
    | with_reducible apply modFlow_keeps
    | with_reducible apply pump_keeps
    | with_reducible apply admitFrame_keeps
    | with_reducible apply flowFrame_keeps
    | with_reducible apply setPlanes_keeps
    | with_reducible apply keepsIte

theorem reopenFlow_keeps {z0 : State} {s : State} (fid : Nat) (h_s : Keeps z0 s) :
    Keeps z0 (reopenFlow s fid) := by
  unfold reopenFlow
  dsimp only
  repeat' first
    | with_reducible assumption
    | intro _
    | with_reducible apply modCmd_keeps
    | with_reducible apply modFlow_keeps
    | with_reducible apply sendControl_keeps
    | with_reducible apply restartColl_keeps
    | with_reducible apply keeps_foldl
    | split

theorem execRejectFrame_keeps {z0 : State} (port : BitVec 4) (dst : BitVec 48) (etherType : BitVec 16) (fcsOk icvOk : Bool) (header payload : List Byte) {s : State} (h_s : Keeps z0 s) :
    OutKeeps z0 (execRejectFrame port dst etherType fcsOk icvOk header payload s) := by
  unfold execRejectFrame
  repeat' first
    | with_reducible assumption
    | with_reducible apply outNext
    | intro _
    | with_reducible apply admitFrame_keeps
    | with_reducible apply flowFrame_keeps
    | with_reducible apply progressGang_keeps
    | with_reducible apply reopenFlow_keeps

theorem execKeepaliveFrame_keeps {z0 : State} (port : BitVec 4) (dst : BitVec 48) (etherType : BitVec 16) (fcsOk icvOk : Bool) (header payload : List Byte) {s : State} (h_s : Keeps z0 s) :
    OutKeeps z0 (execKeepaliveFrame port dst etherType fcsOk icvOk header payload s) := by
  unfold execKeepaliveFrame
  repeat' first
    | with_reducible assumption
    | with_reducible apply outNext
    | intro _
    | with_reducible apply sendAck_keeps
    | with_reducible apply admitFrame_keeps
    | with_reducible apply flowFrame_keeps

theorem execCloseFrame_keeps {z0 : State} (port : BitVec 4) (dst : BitVec 48) (etherType : BitVec 16) (fcsOk icvOk : Bool) (header payload : List Byte) {s : State} (h_s : Keeps z0 s) :
    OutKeeps z0 (execCloseFrame port dst etherType fcsOk icvOk header payload s) := by
  unfold execCloseFrame
  iterate 2
    all_goals repeat' first
      | with_reducible assumption
      | with_reducible apply outNext
      | intro _
      | with_reducible apply admitFrame_keeps
      | with_reducible apply flowFrame_keeps
    all_goals try with_reducible apply keeps_mk
    all_goals try first
      | with_reducible exact id
      | with_reducible exact Nat.le_refl _

theorem execNonTransportFrame_keeps {z0 : State} (port : BitVec 4) (dst : BitVec 48) (etherType : BitVec 16) (fcsOk icvOk : Bool) (header payload : List Byte) {s : State} (h_s : Keeps z0 s) :
    OutKeeps z0 (execNonTransportFrame port dst etherType fcsOk icvOk header payload s) := by
  unfold execNonTransportFrame
  dsimp only
  repeat' first
    | with_reducible assumption
    | with_reducible apply outNext
    | with_reducible apply modPort_keeps
    | with_reducible apply dropFrame_keeps
    | with_reducible apply countRx_keeps
    | with_reducible apply outIte
    | split

theorem execMkaFrame_keeps {z0 : State} (port : BitVec 4) (_dst : BitVec 48) (fcsOk installRx installTx : Bool) (sak : BitVec 128) {s : State} (h_s : Keeps z0 s) :
    OutKeeps z0 (execMkaFrame port _dst fcsOk installRx installTx sak s) := by
  unfold execMkaFrame
  dsimp only
  iterate 2
    all_goals repeat' first
      | with_reducible assumption
      | with_reducible apply outNext
      | intro _
      | with_reducible apply modPort_keeps
      | with_reducible apply pump_keeps
      | with_reducible apply dropFrame_keeps
      | with_reducible apply keeps_foldl
      | with_reducible apply keepsIte
      | with_reducible apply outIte
      | split
    all_goals try with_reducible apply keeps_mk
    all_goals try first
      | with_reducible exact id
      | with_reducible exact Nat.le_refl _

theorem execPauseFrame_keeps {z0 : State} (port : BitVec 4) (pfc : Bool) (prio : BitVec 3) (time : BitVec 16) {s : State} (h_s : Keeps z0 s) :
    OutKeeps z0 (execPauseFrame port pfc prio time s) := by
  unfold execPauseFrame
  dsimp only
  repeat' first
    | with_reducible assumption
    | with_reducible apply outNext
    | intro _
    | with_reducible apply modPort_keeps
    | with_reducible apply pump_keeps
    | with_reducible apply keeps_foldl
    | with_reducible apply outIte
    | split

theorem execPfcPauseExpiry_keeps {z0 : State} (port : BitVec 4) {s : State} (h_s : Keeps z0 s) :
    OutKeeps z0 (execPfcPauseExpiry port s) := by
  unfold execPfcPauseExpiry
  dsimp only
  repeat' first
    | with_reducible assumption
    | with_reducible apply outNext
    | intro _
    | with_reducible apply modPort_keeps
    | with_reducible apply pump_keeps
    | with_reducible apply keeps_foldl

theorem execAckTimer_keeps {z0 : State} (flow : BitVec 16) {s : State} (h_s : Keeps z0 s) :
    OutKeeps z0 (execAckTimer flow s) := by
  unfold execAckTimer
  repeat' first
    | with_reducible assumption
    | with_reducible apply outNext
    | with_reducible apply sendAck_keeps
    | with_reducible apply keepsIte
    | split

theorem execRetransmitTimeout_keeps {z0 : State} (flow : BitVec 16) {s : State} (h_s : Keeps z0 s) :
    OutKeeps z0 (execRetransmitTimeout flow s) := by
  unfold execRetransmitTimeout
  dsimp only
  repeat' first
    | with_reducible assumption
    | with_reducible apply outNext
    | with_reducible apply modFlow_keeps
    | with_reducible apply resendPsn_keeps
    | with_reducible apply outIte
    | split

theorem execConnectRetryTimer_keeps {z0 : State} (flow : BitVec 16) {s : State} (h_s : Keeps z0 s) :
    OutKeeps z0 (execConnectRetryTimer flow s) := by
  unfold execConnectRetryTimer
  repeat' first
    | with_reducible assumption
    | with_reducible apply outNext
    | with_reducible apply sendControl_keeps
    | with_reducible apply keepsIte
    | split

theorem execKeepaliveTimer_keeps {z0 : State} (flow : BitVec 16) {s : State} (h_s : Keeps z0 s) :
    OutKeeps z0 (execKeepaliveTimer flow s) := by
  unfold execKeepaliveTimer
  repeat' first
    | with_reducible assumption
    | with_reducible apply outNext
    | with_reducible apply sendControlAll_keeps
    | with_reducible apply keepsIte
    | split

theorem execPeerUnreachable_keeps {z0 : State} (flow : BitVec 16) {s : State} (h_s : Keeps z0 s) :
    OutKeeps z0 (execPeerUnreachable flow s) := by
  unfold execPeerUnreachable
  dsimp only
  repeat' first
    | with_reducible assumption
    | with_reducible apply outNext
    | with_reducible apply modColl_keeps
    | with_reducible apply modFlow_keeps
    | with_reducible apply laggard_keeps
    | with_reducible apply outIte
    | split

theorem execPortLinkUp_keeps {z0 : State} (port : BitVec 4) {s : State} (h_s : Keeps z0 s) :
    OutKeeps z0 (execPortLinkUp port s) := by
  unfold execPortLinkUp
  dsimp only
  repeat' first
    | with_reducible assumption
    | with_reducible apply outNext
    | intro _
    | with_reducible apply modPort_keeps
    | with_reducible apply pump_keeps
    | with_reducible apply setPlanes_keeps
    | with_reducible apply keeps_foldl
    | with_reducible apply outIte
    | split

theorem execPortLinkDown_keeps {z0 : State} (port : BitVec 4) (cause : BitVec 2) {s : State} (h_s : Keeps z0 s) :
    OutKeeps z0 (execPortLinkDown port cause s) := by
  unfold execPortLinkDown
  dsimp only
  repeat' first
    | with_reducible assumption
    | with_reducible apply outNext
    | intro _
    | with_reducible apply modPort_keeps
    | with_reducible apply setPlanes_keeps
    | with_reducible apply keeps_foldl
    | with_reducible apply outIte
    | split

theorem execTrainingTimeout_keeps {z0 : State} (port : BitVec 4) {s : State} (h_s : Keeps z0 s) :
    OutKeeps z0 (execTrainingTimeout port s) := by
  unfold execTrainingTimeout
  repeat' first
    | with_reducible assumption
    | with_reducible apply outNext
    | with_reducible apply modPort_keeps
    | with_reducible apply keepsIte
    | split

theorem execPortRetrainTimer_keeps {z0 : State} (port : BitVec 4) {s : State} (h_s : Keeps z0 s) :
    OutKeeps z0 (execPortRetrainTimer port s) := by
  unfold execPortRetrainTimer
  repeat' first
    | with_reducible assumption
    | with_reducible apply outNext
    | with_reducible apply modPort_keeps
    | with_reducible apply keepsIte
    | split

end Sys2Proof.Machine
end

