-- ==== Sys2Proof/Laws/KeepsMbxAdmin.lean ====
section
/-! SUPPORT. What the operations of Machine/MbxAdmin.lean keep. -/

namespace Sys2Proof.Machine

theorem doLinkConfig_keeps {z0 : State} {s : State} (r : MbxReq) (h_s : Keeps z0 s) :
    MbxAnswer.Keeps z0 (doLinkConfig s r) := by
  unfold doLinkConfig
  dsimp only
  iterate 2
    all_goals repeat' first
      | with_reducible assumption
      | with_reducible apply mbxDoneOf
      | intro _
      | with_reducible apply modPort_keeps
      | with_reducible apply sendControl_keeps
      | with_reducible apply mbxInvalid_keeps
      | with_reducible apply setPlanes_keeps
      | with_reducible apply keeps_foldl
      | with_reducible apply keepsIte
      | with_reducible apply mbxIte
    all_goals try with_reducible apply keeps_mk
    all_goals try first
      | with_reducible exact id
      | with_reducible exact Nat.le_refl _

theorem execLinkConfig_keeps {z0 : State} (fn : BitVec 4) {s : State} (h_s : Keeps z0 s) :
    OutKeeps z0 (execLinkConfig fn s) := by
  unfold execLinkConfig
  repeat' first
    | with_reducible assumption
    | with_reducible apply outNext
    | intro _
    | with_reducible apply runMbx_keeps
    | with_reducible apply doLinkConfig_keeps

theorem disableNow_keeps {z0 : State} {s : State} (kind i : Nat) (h_s : Keeps z0 s) :
    Keeps z0 (disableNow s kind i) := by
  unfold disableNow
  dsimp only
  iterate 2
    all_goals repeat' first
      | with_reducible assumption
      | intro _
      | with_reducible apply modFunc_keeps
      | with_reducible apply modPort_keeps
      | with_reducible apply modVideo_keeps
      | with_reducible apply endCmds_keeps
      | with_reducible apply endSessions_keeps
      | with_reducible apply retireSlots_keeps
      | with_reducible apply withdrawRegions_keeps
      | with_reducible apply setPlanes_keeps
      | with_reducible apply keeps_foldl
      | split
    all_goals try with_reducible apply keeps_mk
    all_goals try first
      | with_reducible exact id
      | with_reducible exact Nat.le_refl _

theorem enableNow_keeps {z0 : State} {s : State} (kind i : Nat) (h_s : Keeps z0 s) :
    Keeps z0 (enableNow s kind i) := by
  unfold enableNow
  dsimp only
  iterate 2
    all_goals repeat' first
      | with_reducible assumption
      | with_reducible apply modFunc_keeps
      | with_reducible apply modPort_keeps
      | with_reducible apply modVideo_keeps
      | split
    all_goals try with_reducible apply keeps_mk
    all_goals try first
      | with_reducible exact id
      | with_reducible exact Nat.le_refl _

theorem doFunctionDisable_keeps {z0 : State} {s : State} (fn : Nat) (r : MbxReq) (h_s : Keeps z0 s) :
    MbxAnswer.Keeps z0 (doFunctionDisable s fn r) := by
  unfold doFunctionDisable
  dsimp only
  repeat' first
    | with_reducible assumption
    | with_reducible apply mbxLongOf
    | with_reducible apply mbxDoneOf
    | with_reducible apply mbxInvalid_keeps
    | with_reducible apply disableNow_keeps
    | with_reducible apply mbxIte

theorem execFunctionDisable_keeps {z0 : State} (fn : BitVec 4) {s : State} (h_s : Keeps z0 s) :
    OutKeeps z0 (execFunctionDisable fn s) := by
  unfold execFunctionDisable
  repeat' first
    | with_reducible assumption
    | with_reducible apply outNext
    | intro _
    | with_reducible apply runMbx_keeps
    | with_reducible apply doFunctionDisable_keeps

theorem doFunctionEnable_keeps {z0 : State} {s : State} (fn : Nat) (r : MbxReq) (h_s : Keeps z0 s) :
    MbxAnswer.Keeps z0 (doFunctionEnable s fn r) := by
  unfold doFunctionEnable
  dsimp only
  repeat' first
    | with_reducible assumption
    | with_reducible apply mbxDoneOf
    | with_reducible apply mbxInvalid_keeps
    | with_reducible apply enableNow_keeps
    | with_reducible apply mbxIte

theorem execFunctionEnable_keeps {z0 : State} (fn : BitVec 4) {s : State} (h_s : Keeps z0 s) :
    OutKeeps z0 (execFunctionEnable fn s) := by
  unfold execFunctionEnable
  repeat' first
    | with_reducible assumption
    | with_reducible apply outNext
    | intro _
    | with_reducible apply runMbx_keeps
    | with_reducible apply doFunctionEnable_keeps

theorem execPowerProfile_keeps {z0 : State} (fn : BitVec 4) {s : State} (h_s : Keeps z0 s) :
    OutKeeps z0 (execPowerProfile fn s) := by
  unfold execPowerProfile
  dsimp only
  iterate 2
    all_goals repeat' first
      | with_reducible assumption
      | with_reducible apply mbxDoneOf
      | with_reducible apply outNext
      | intro _
      | with_reducible apply runMbx_keeps
      | with_reducible apply noteCap_keeps
    all_goals try with_reducible apply keeps_mk
    all_goals try first
      | with_reducible exact id
      | with_reducible exact Nat.le_refl _

theorem execAgeingCheck_keeps {z0 : State} (fn : BitVec 4) {s : State} (h_s : Keeps z0 s) :
    OutKeeps z0 (execAgeingCheck fn s) := by
  unfold execAgeingCheck
  repeat' first
    | with_reducible assumption
    | with_reducible apply mbxLongOf
    | with_reducible apply outNext
    | intro _
    | with_reducible apply modDie_keeps
    | with_reducible apply mbxInvalid_keeps
    | with_reducible apply runMbx_keeps
    | with_reducible apply keeps_foldl
    | with_reducible apply mbxIte

theorem execAgeingReport_keeps {z0 : State} (fn : BitVec 4) {s : State} (h_s : Keeps z0 s) :
    OutKeeps z0 (execAgeingReport fn s) := by
  unfold execAgeingReport
  dsimp only
  repeat' first
    | with_reducible assumption
    | with_reducible apply mbxDoneOf
    | with_reducible apply outNext
    | intro _
    | with_reducible apply mbxInvalid_keeps
    | with_reducible apply runMbx_keeps
    | with_reducible apply mpWrite_keeps
    | with_reducible apply mbxIte

theorem execDecafEnter_keeps {z0 : State} (fn : BitVec 4) {s : State} (h_s : Keeps z0 s) :
    OutKeeps z0 (execDecafEnter fn s) := by
  unfold execDecafEnter
  repeat' first
    | with_reducible assumption
    | with_reducible apply mbxDoneOf
    | with_reducible apply outNext
    | intro _
    | with_reducible apply runMbx_keeps
    | with_reducible apply enterDecaf_keeps

theorem storeImage_keeps {z0 : State} {s : State} (c : Nat) (i : Image) (h_s : Keeps z0 s) :
    Keeps z0 (storeImage s c i) := by
  unfold storeImage
  repeat' first
    | with_reducible assumption
    | with_reducible apply modComponent_keeps

theorem stageImage_keeps {z0 : State} {s : State} (c n : Nat) (bytes : List Byte) (h_s : Keeps z0 s) :
    Keeps z0 (stageImage s c n bytes).1 := by
  unfold stageImage
  dsimp only
  repeat' first
    | with_reducible assumption
    | with_reducible apply storeImage_keeps
    | split

theorem execFwStage_keeps {z0 : State} (fn : BitVec 4) {s : State} (h_s : Keeps z0 s) :
    OutKeeps z0 (execFwStage fn s) := by
  unfold execFwStage
  dsimp only
  repeat' first
    | with_reducible assumption
    | with_reducible apply mbxLongOf
    | with_reducible apply mbxDoneOf
    | with_reducible apply outNext
    | intro _
    | with_reducible apply mbxInvalid_keeps
    | with_reducible apply runMbx_keeps
    | with_reducible apply mbxIte

theorem execFwActivate_keeps {z0 : State} (fn : BitVec 4) {s : State} (h_s : Keeps z0 s) :
    OutKeeps z0 (execFwActivate fn s) := by
  unfold execFwActivate
  dsimp only
  repeat' first
    | with_reducible assumption
    | with_reducible apply mbxLongOf
    | with_reducible apply mbxDoneOf
    | with_reducible apply outNext
    | intro _
    | with_reducible apply modComponent_keeps
    | with_reducible apply mbxInvalid_keeps
    | with_reducible apply runMbx_keeps
    | with_reducible apply mbxIte

theorem execFwTrialStart_keeps {z0 : State} (comp : BitVec 3) {s : State} (h_s : Keeps z0 s) :
    OutKeeps z0 (execFwTrialStart comp s) := by
  unfold execFwTrialStart
  dsimp only
  repeat' first
    | with_reducible assumption
    | with_reducible apply outNext
    | with_reducible apply startTrial_keeps
    | with_reducible apply keepsIte

theorem execFwTrialOutcome_keeps {z0 : State} (comp : BitVec 3) (success : Bool) {s : State} (h_s : Keeps z0 s) :
    OutKeeps z0 (execFwTrialOutcome comp success s) := by
  unfold execFwTrialOutcome
  dsimp only
  repeat' first
    | with_reducible assumption
    | with_reducible apply outNext
    | with_reducible apply modComponent_keeps
    | with_reducible apply failTrial_keeps
    | with_reducible apply passTrial_keeps
    | with_reducible apply keepsIte
    | split

theorem execAttestGet_keeps {z0 : State} (fn : BitVec 4) {s : State} (h_s : Keeps z0 s) :
    OutKeeps z0 (execAttestGet fn s) := by
  unfold execAttestGet
  dsimp only
  repeat' first
    | with_reducible assumption
    | with_reducible apply mbxDoneOf
    | with_reducible apply outNext
    | intro _
    | with_reducible apply mbxInvalid_keeps
    | with_reducible apply runMbx_keeps
    | with_reducible apply mpWrite_keeps
    | with_reducible apply mbxIte

theorem execErrorLogRead_keeps {z0 : State} (fn : BitVec 4) {s : State} (h_s : Keeps z0 s) :
    OutKeeps z0 (execErrorLogRead fn s) := by
  unfold execErrorLogRead
  dsimp only
  repeat' first
    | with_reducible assumption
    | with_reducible apply mbxDoneOf
    | with_reducible apply outNext
    | intro _
    | with_reducible apply runMbx_keeps
    | with_reducible apply mpWrite_keeps

end Sys2Proof.Machine
end

