-- ==== Sys2Proof/Laws/KeepsPower.lean ====
section
/-! SUPPORT. What the operations of Machine/Power.lean keep. -/

namespace Sys2Proof.Machine

theorem alertInput_keeps {z0 : State} {s : State} (h_s : Keeps z0 s) :
    Keeps z0 (alertInput s) := by
  unfold alertInput
  dsimp only
  repeat' first
    | with_reducible assumption
    | with_reducible apply raiseAlert_keeps
    | with_reducible apply clearAlert_keeps
    | with_reducible apply keepsIte

theorem execPwrSample_keeps {z0 : State} (mv ma : BitVec 20) (reverse : Bool) {s : State} (h_s : Keeps z0 s) :
    OutKeeps z0 (execPwrSample mv ma reverse s) := by
  unfold execPwrSample
  dsimp only
  iterate 3
    all_goals repeat' first
      | with_reducible assumption
      | with_reducible apply outNext
      | with_reducible apply writeStateRecords_keeps
      | with_reducible apply enterDecaf_keeps
      | with_reducible apply alertInput_keeps
      | with_reducible apply keepsIte
    all_goals try with_reducible apply keeps_mk
    all_goals try first
      | with_reducible exact id
      | with_reducible exact Nat.le_refl _

theorem execUndervoltageTimer_keeps {z0 : State} {s : State} (h_s : Keeps z0 s) :
    OutKeeps z0 (execUndervoltageTimer s) := by
  unfold execUndervoltageTimer
  repeat' first
    | with_reducible assumption
    | with_reducible apply outNext
    | with_reducible apply enterDecaf_keeps
    | with_reducible apply keepsIte

theorem execOvervoltageTripTimer_keeps {z0 : State} {s : State} (h_s : Keeps z0 s) :
    OutKeeps z0 (execOvervoltageTripTimer s) := by
  unfold execOvervoltageTripTimer
  repeat' first
    | with_reducible assumption
    | with_reducible apply outNext
    | with_reducible apply powerOff_keeps
    | with_reducible apply keepsIte

theorem execPldmPowerLimit_keeps {z0 : State} (watts : BitVec 16) {s : State} (h_s : Keeps z0 s) :
    OutKeeps z0 (execPldmPowerLimit watts s) := by
  unfold execPldmPowerLimit
  dsimp only
  iterate 2
    all_goals repeat' first
      | with_reducible assumption
      | with_reducible apply outNext
      | with_reducible apply noteCap_keeps
      | with_reducible apply keepsIte
    all_goals try with_reducible apply keeps_mk
    all_goals try first
      | with_reducible exact id
      | with_reducible exact Nat.le_refl _

theorem writeBudget_keeps {z0 : State} (profile : Nat) (first : Bool) {s : State} (d : Nat) (h_s : Keeps z0 s) :
    Keeps z0 (writeBudget profile first s d) := by
  unfold writeBudget
  dsimp only
  repeat' first
    | with_reducible assumption
    | intro _
    | with_reducible apply modDie_keeps
    | with_reducible apply journalWrite_keeps
    | with_reducible apply keeps_foldl
    | with_reducible apply keepsIte
    | split

theorem noteExcursion_keeps {z0 : State} {s : State} (above : Bool) (h_s : Keeps z0 s) :
    Keeps z0 (noteExcursion s above) := by
  unfold noteExcursion
  dsimp only
  iterate 2
    all_goals repeat' first
      | with_reducible assumption
      | with_reducible apply raiseAlert_keeps
      | with_reducible apply clearAlert_keeps
      | with_reducible apply keepsIte
    all_goals try with_reducible apply keeps_mk
    all_goals try first
      | with_reducible exact id
      | with_reducible exact Nat.le_refl _

theorem execBudgetLoopStep_keeps {z0 : State} (avg proj : BitVec 16) {s : State} (h_s : Keeps z0 s) :
    OutKeeps z0 (execBudgetLoopStep avg proj s) := by
  unfold execBudgetLoopStep
  dsimp only
  iterate 3
    all_goals repeat' first
      | with_reducible assumption
      | with_reducible apply outNext
      | intro _
      | with_reducible apply setClusters_keeps
      | with_reducible apply writeBudget_keeps
      | with_reducible apply noteExcursion_keeps
      | with_reducible apply keeps_foldl
      | with_reducible apply keepsIte
    all_goals try with_reducible apply keeps_mk
    all_goals try first
      | with_reducible exact id
      | with_reducible exact Nat.le_refl _

theorem execThermalSample_keeps {z0 : State} (die : BitVec 4) (tenths : BitVec 16) {s : State} (h_s : Keeps z0 s) :
    OutKeeps z0 (execThermalSample die tenths s) := by
  unfold execThermalSample
  dsimp only
  iterate 2
    all_goals repeat' first
      | with_reducible assumption
      | with_reducible apply outNext
      | with_reducible apply modDie_keeps
      | with_reducible apply powerOff_keeps
      | with_reducible apply keepsIte
    all_goals try with_reducible apply keeps_mk
    all_goals try first
      | with_reducible exact id
      | with_reducible exact Nat.le_refl _

theorem execCoolingLost_keeps {z0 : State} (die : BitVec 4) {s : State} (h_s : Keeps z0 s) :
    OutKeeps z0 (execCoolingLost die s) := by
  unfold execCoolingLost
  repeat' first
    | with_reducible assumption
    | with_reducible apply outNext
    | with_reducible apply enterDecaf_keeps
    | with_reducible apply keepsIte
    | split

theorem writeAgeing_keeps {z0 : State} {s : State} (h_s : Keeps z0 s) :
    Keeps z0 (writeAgeing s) := by
  unfold writeAgeing
  dsimp only
  iterate 2
    all_goals repeat' first
      | with_reducible assumption
    all_goals try with_reducible apply keeps_mk
    all_goals try first
      | with_reducible exact id
      | with_reducible exact Nat.le_refl _

theorem ageingDecaf_keeps {z0 : State} {s : State} (die : Nat) (h_s : Keeps z0 s) :
    Keeps z0 (ageingDecaf s die) := by
  unfold ageingDecaf
  repeat' first
    | with_reducible assumption
    | with_reducible apply enterDecaf_keeps
    | with_reducible apply keepsIte

theorem execAgeingCheckpointDue_keeps {z0 : State} (die : BitVec 4) (slack : BitVec 16) (roPpm : BitVec 32) {s : State} (h_s : Keeps z0 s) :
    OutKeeps z0 (execAgeingCheckpointDue die slack roPpm s) := by
  unfold execAgeingCheckpointDue
  dsimp only
  repeat' first
    | with_reducible assumption
    | with_reducible apply outNext
    | with_reducible apply modDie_keeps
    | with_reducible apply raiseAplic_keeps
    | with_reducible apply logError_keeps
    | with_reducible apply writeAgeing_keeps
    | with_reducible apply ageingDecaf_keeps
    | with_reducible apply keepsIte
    | split

theorem execSlackAlarm_keeps {z0 : State} (die : BitVec 4) (slack : BitVec 16) {s : State} (h_s : Keeps z0 s) :
    OutKeeps z0 (execSlackAlarm die slack s) := by
  unfold execSlackAlarm
  dsimp only
  repeat' first
    | with_reducible assumption
    | with_reducible apply outNext
    | with_reducible apply modDie_keeps
    | with_reducible apply logError_keeps
    | with_reducible apply ageingDecaf_keeps
    | with_reducible apply keepsIte

theorem execAgeingRecordHourly_keeps {z0 : State} {s : State} (h_s : Keeps z0 s) :
    OutKeeps z0 (execAgeingRecordHourly s) := by
  unfold execAgeingRecordHourly
  repeat' first
    | with_reducible assumption
    | with_reducible apply outNext
    | with_reducible apply writeAgeing_keeps
    | with_reducible apply keepsIte

theorem execErrorLogFlashCopy_keeps {z0 : State} {s : State} (h_s : Keeps z0 s) :
    OutKeeps z0 (execErrorLogFlashCopy s) := by
  unfold execErrorLogFlashCopy
  dsimp only
  iterate 2
    all_goals repeat' first
      | with_reducible assumption
      | with_reducible apply outNext
      | with_reducible apply keepsIte
    all_goals try with_reducible apply keeps_mk
    all_goals try first
      | with_reducible exact id
      | with_reducible exact Nat.le_refl _

theorem loseDie_keeps {z0 : State} {s : State} (n : Nat) (h_s : Keeps z0 s) :
    Keeps z0 (loseDie s n) := by
  unfold loseDie
  iterate 2
    all_goals repeat' first
      | with_reducible assumption
    all_goals try with_reducible apply keeps_mk
    all_goals try first
      | with_reducible exact id
      | with_reducible exact Nat.le_refl _
      | with_reducible exact filter_wf _

theorem emptyCache_keeps {z0 : State} {s : State} (agent : Nat) (h_s : Keeps z0 s) :
    Keeps z0 (emptyCache s agent) := by
  unfold emptyCache
  repeat' first
    | with_reducible assumption
    | intro _
    | with_reducible apply recallLine_keeps
    | with_reducible apply keeps_foldl

theorem execDomainIdleTimer_keeps {z0 : State} (dom : BitVec 6) (dest : BitVec 2) {s : State} (h_s : Keeps z0 s) :
    OutKeeps z0 (execDomainIdleTimer dom dest s) := by
  unfold execDomainIdleTimer
  dsimp only
  repeat' first
    | with_reducible assumption
    | with_reducible apply outNext
    | with_reducible apply modDomain_keeps
    | with_reducible apply loseDie_keeps
    | with_reducible apply emptyCache_keeps
    | with_reducible apply keepsIte
    | split

theorem rampedDown_keeps {z0 : State} {s : State} (n : Nat) (h_s : Keeps z0 s) :
    Keeps z0 (rampedDown s n) := by
  unfold rampedDown
  dsimp only
  iterate 2
    all_goals repeat' first
      | with_reducible assumption
    all_goals try with_reducible apply keeps_mk
    all_goals try first
      | with_reducible exact id
      | with_reducible exact Nat.le_refl _

theorem execDomainStartComplete_keeps {z0 : State} (dom : BitVec 6) {s : State} (h_s : Keeps z0 s) :
    OutKeeps z0 (execDomainStartComplete dom s) := by
  unfold execDomainStartComplete
  dsimp only
  repeat' first
    | with_reducible assumption
    | with_reducible apply outNext
    | with_reducible apply modDomain_keeps
    | with_reducible apply rampedDown_keeps
    | with_reducible apply keepsIte
    | split

theorem execDeviceTemperature85c_keeps {z0 : State} (device : BitVec 5) (hot : Bool) {s : State} (h_s : Keeps z0 s) :
    OutKeeps z0 (execDeviceTemperature85c device hot s) := by
  unfold execDeviceTemperature85c
  dsimp only
  iterate 2
    all_goals repeat' first
      | with_reducible assumption
      | with_reducible apply outNext
      | with_reducible apply keepsIte
      | split
    all_goals try with_reducible apply keeps_mk
    all_goals try first
      | with_reducible exact id
      | with_reducible exact Nat.le_refl _

end Sys2Proof.Machine
end

