-- ==== Sys2Proof/Laws/KeepsFaults.lean ====
section
/-! SUPPORT. What the operations of Machine/Faults.lean keep. -/

namespace Sys2Proof.Machine

theorem moduleFault_keeps {z0 : State} {s : State} (die code detail : Nat) (h_s : Keeps z0 s) :
    Keeps z0 (moduleFault s die code detail) := by
  unfold moduleFault
  repeat' first
    | with_reducible assumption
    | with_reducible apply enterDecaf_keeps
    | with_reducible apply keepsIte

theorem execLinkCrcReplay_keeps {z0 : State} (link : BitVec 6) (run : BitVec 5) {s : State} (h_s : Keeps z0 s) :
    OutKeeps z0 (execLinkCrcReplay link run s) := by
  unfold execLinkCrcReplay
  dsimp only
  iterate 2
    all_goals repeat' first
      | with_reducible assumption
      | with_reducible apply outNext
      | with_reducible apply moduleFault_keeps
      | with_reducible apply keepsIte
      | split
    all_goals try with_reducible apply keeps_mk
    all_goals try first
      | with_reducible exact id
      | with_reducible exact Nat.le_refl _

theorem execLinkRetrainTimeout_keeps {z0 : State} (link : BitVec 6) {s : State} (h_s : Keeps z0 s) :
    OutKeeps z0 (execLinkRetrainTimeout link s) := by
  unfold execLinkRetrainTimeout
  repeat' first
    | with_reducible assumption
    | with_reducible apply outNext
    | with_reducible apply moduleFault_keeps
    | with_reducible apply keepsIte

theorem execMpWatchdog_keeps {z0 : State} {s : State} (h_s : Keeps z0 s) :
    OutKeeps z0 (execMpWatchdog s) := by
  unfold execMpWatchdog
  repeat' first
    | with_reducible assumption
    | with_reducible apply outNext
    | with_reducible apply moduleFault_keeps

theorem execRegulatorFault_keeps {z0 : State} {s : State} (h_s : Keeps z0 s) :
    OutKeeps z0 (execRegulatorFault s) := by
  unfold execRegulatorFault
  repeat' first
    | with_reducible assumption
    | with_reducible apply outNext
    | with_reducible apply moduleFault_keeps

theorem execEntropyHealthFailure_keeps {z0 : State} {s : State} (h_s : Keeps z0 s) :
    OutKeeps z0 (execEntropyHealthFailure s) := by
  unfold execEntropyHealthFailure
  dsimp only
  iterate 2
    all_goals repeat' first
      | with_reducible assumption
      | with_reducible apply outNext
      | with_reducible apply moduleFault_keeps
      | with_reducible apply keepsIte
    all_goals try with_reducible apply keeps_mk
    all_goals try first
      | with_reducible exact id
      | with_reducible exact Nat.le_refl _

theorem execDecafEntry_keeps {z0 : State} (cause : BitVec 16) {s : State} (h_s : Keeps z0 s) :
    OutKeeps z0 (execDecafEntry cause s) := by
  unfold execDecafEntry
  repeat' first
    | with_reducible assumption
    | with_reducible apply outNext
    | with_reducible apply moduleFault_keeps
    | with_reducible apply keepsIte

theorem flushDrip_keeps {z0 : State} {s : State} (p : Nat) (h_s : Keeps z0 s) :
    Keeps z0 (flushDrip s p) := by
  unfold flushDrip
  dsimp only
  repeat' first
    | with_reducible assumption
    | with_reducible apply modDrip_keeps
    | with_reducible apply drainDrip_keeps
    | with_reducible apply keepsIte
    | split

theorem setFlush_keeps {z0 : State} {s : State} (running done : Bool) (h_s : Keeps z0 s) :
    Keeps z0 (setFlush s running done) := by
  unfold setFlush
  dsimp only
  iterate 2
    all_goals repeat' first
      | with_reducible assumption
    all_goals try with_reducible apply keeps_mk
    all_goals try first
      | with_reducible exact id
      | with_reducible exact Nat.le_refl _

theorem execDecafDripFlush_keeps {z0 : State} {s : State} (h_s : Keeps z0 s) :
    OutKeeps z0 (execDecafDripFlush s) := by
  unfold execDecafDripFlush
  dsimp only
  repeat' first
    | with_reducible assumption
    | with_reducible apply outNext
    | intro _
    | with_reducible apply drainDrip_keeps
    | with_reducible apply flushDrip_keeps
    | with_reducible apply setFlush_keeps
    | with_reducible apply keeps_foldl
    | with_reducible apply keepsIte
    | split

theorem execJournalSpace_keeps {z0 : State} (p : BitVec 4) (head : BitVec 64) {s : State} (h_s : Keeps z0 s) :
    OutKeeps z0 (execJournalSpace p head s) := by
  unfold execJournalSpace
  dsimp only
  repeat' first
    | with_reducible assumption
    | with_reducible apply outNext
    | with_reducible apply modPart_keeps
    | with_reducible apply moduleWrite_keeps
    | with_reducible apply keepsIte
    | split

end Sys2Proof.Machine
end

