-- ==== Sys2Proof/Laws/KeepsReplay.lean ====
section
/-! SUPPORT. What the operations of Machine/Replay.lean keep. -/

namespace Sys2Proof.Machine

theorem modReplay_keeps {z0 : State} {s : State} (p : Nat) (f : Replay → Replay) (h_s : Keeps z0 s) :
    Keeps z0 (modReplay s p f) := by
  unfold modReplay
  repeat' first
    | with_reducible assumption
    | with_reducible apply modPart_keeps

theorem endReplay_keeps {z0 : State} {s : State} (p status : Nat) (h_s : Keeps z0 s) :
    Keeps z0 (endReplay s p status) := by
  unfold endReplay
  repeat' first
    | with_reducible assumption
    | with_reducible apply modReplay_keeps

theorem passRecord_keeps {z0 : State} {s : State} (p : Nat) (x : JournalRecord) (h_s : Keeps z0 s) :
    Keeps z0 (passRecord s p x) := by
  unfold passRecord
  repeat' first
    | with_reducible assumption
    | with_reducible apply modReplay_keeps

theorem replayRequest_keeps {z0 : State} {s : State} (p : Nat) (f : Func) (r : MbxReq) (h_s : Keeps z0 s) :
    MbxAnswer.Keeps z0 (replayRequest s p f r) := by
  unfold replayRequest
  repeat' first
    | with_reducible assumption
    | with_reducible apply mbxDoneOf
    | with_reducible apply doStepPolicy_keeps
    | with_reducible apply doTelemetryConfig_keeps
    | with_reducible apply doQueueCreate_keeps
    | with_reducible apply doQueueDestroy_keeps
    | with_reducible apply doRegionRegister_keeps
    | with_reducible apply doRegionUnregister_keeps
    | with_reducible apply doWindowMap_keeps
    | with_reducible apply doWindowUnmap_keeps
    | with_reducible apply doRemoveSet_keeps
    | with_reducible apply doReactivateSet_keeps
    | with_reducible apply doJobConfig_keeps
    | with_reducible apply doMappingLoad_keeps
    | with_reducible apply doTableCreate_keeps
    | with_reducible apply doRelayoutStart_keeps
    | with_reducible apply doRelayoutResume_keeps
    | with_reducible apply doRelayoutAbort_keeps
    | with_reducible apply doDripConfig_keeps
    | with_reducible apply doPeerTableLoad_keeps
    | split

theorem replayEnd_keeps {s0 t : State} (p : Nat) (r : MbxReq) (h : Keeps s0 t) : Keeps s0 (replayEnd t p r) := by
  unfold replayEnd
  split
  · exact keeps_getD (unregisterDone_keeps _ _ h) h
  · exact h

theorem keepMemory_keeps {s0 s t : State} (hs : Keeps s0 s) (ht : Keeps s0 t) : Keeps s0 (keepMemory s t) :=
  ⟨ht.1, ht.2, ht.3, hs.4, hs.5⟩

theorem settleTable_keeps {z0 : State} {s : State} (p : Nat) (r : MbxReq) (status : Nat) (h_s : Keeps z0 s) :
    Keeps z0 (settleTable s p r status) := by
  unfold settleTable
  repeat' first
    | with_reducible assumption
    | with_reducible apply modTable_keeps
    | with_reducible apply keepsIte

theorem replayMailbox_keeps {z0 : State} {s : State} (p : Nat) (x : JournalRecord) (left : Nat) (h_s : Keeps z0 s) :
    Keeps z0 (replayMailbox s p x left) := by
  unfold replayMailbox
  dsimp only
  repeat' first
    | with_reducible assumption
    | with_reducible apply modReplay_keeps
    | with_reducible apply passRecord_keeps
    | with_reducible apply replayRequest_keeps
    | with_reducible apply replayEnd_keeps
    | with_reducible apply keepMemory_keeps
    | with_reducible apply settleTable_keeps
    | with_reducible apply keepsIte
    | split
    | refine keeps_done (by with_reducible assumption) ?_
    | refine keeps_long (by with_reducible assumption) ?_
    | refine keeps_wait (by with_reducible assumption) ?_

theorem replayDescriptor_keeps {z0 : State} {s : State} (p : Nat) (x : JournalRecord) (reseeds : List Nat) (h_s : Keeps z0 s) :
    Keeps z0 (replayDescriptor s p x reseeds) := by
  unfold replayDescriptor
  dsimp only
  repeat' first
    | with_reducible assumption
    | with_reducible apply modQueue_keeps
    | with_reducible apply modJob_keeps
    | with_reducible apply modReplay_keeps
    | with_reducible apply passRecord_keeps
    | with_reducible apply keepsIte

theorem replayInput_keeps {z0 : State} {s : State} (p : Nat) (x : JournalRecord) (h_s : Keeps z0 s) :
    Keeps z0 (replayInput s p x) := by
  unfold replayInput
  dsimp only
  repeat' first
    | with_reducible assumption
    | with_reducible apply moduleWrite_keeps
    | with_reducible apply modReplay_keeps
    | with_reducible apply endReplay_keeps
    | with_reducible apply passRecord_keeps
    | with_reducible apply keepsIte

theorem replayPlaced_keeps {z0 : State} {s : State} (p : Nat) (x : JournalRecord) (h_s : Keeps z0 s) :
    Keeps z0 (replayPlaced s p x) := by
  unfold replayPlaced
  dsimp only
  repeat' first
    | with_reducible assumption
    | with_reducible apply cohWrite_keeps
    | with_reducible apply finishCmd_keeps
    | with_reducible apply modRegion_keeps
    | with_reducible apply endReplay_keeps
    | with_reducible apply passRecord_keeps
    | with_reducible apply keepsIte
    | split

theorem replaySlivers_keeps {z0 : State} {s : State} (p idx role slow fast : Nat) (h_s : Keeps z0 s) :
    Keeps z0 (replaySlivers s p idx role slow fast) := by
  unfold replaySlivers
  dsimp only
  repeat' first
    | with_reducible assumption
    | with_reducible apply moveSlivers_keeps
    | with_reducible apply keepsIte
    | split

theorem replaySwitch_keeps {z0 : State} {s : State} (p id : Nat) (js : List Nat) (h_s : Keeps z0 s) :
    Keeps z0 (replaySwitch s p id js) := by
  unfold replaySwitch
  dsimp only
  repeat' first
    | with_reducible assumption
    | intro _
    | with_reducible apply setRelayout_keeps
    | with_reducible apply switchRegions_keeps
    | with_reducible apply copyRow_keeps
    | with_reducible apply keeps_foldl
    | split

theorem replayOutcome_keeps {z0 : State} {s : State} (p : Nat) (x : JournalRecord) (h_s : Keeps z0 s) :
    Keeps z0 (replayOutcome s p x) := by
  unfold replayOutcome
  dsimp only
  repeat' first
    | with_reducible assumption
    | with_reducible apply cohWrite_keeps
    | with_reducible apply endCmd_keeps
    | with_reducible apply passRecord_keeps
    | with_reducible apply replaySlivers_keeps
    | with_reducible apply replaySwitch_keeps
    | with_reducible apply keepsIte
    | split

theorem replayTransfer_keeps {z0 : State} {s : State} (p : Nat) (x : JournalRecord) (h_s : Keeps z0 s) :
    Keeps z0 (replayTransfer s p x) := by
  unfold replayTransfer
  dsimp only
  repeat' first
    | with_reducible assumption
    | intro _
    | with_reducible apply finishCmd_keeps
    | with_reducible apply cmdWrite_keeps
    | with_reducible apply CmdIo_bind_keeps
    | with_reducible apply commitExchange_keeps
    | with_reducible apply completeColl_keeps
    | with_reducible apply passRecord_keeps
    | with_reducible apply keepsIte
    | split

theorem replayAtomic_keeps {z0 : State} {s : State} (p : Nat) (x : JournalRecord) (h_s : Keeps z0 s) :
    Keeps z0 (replayAtomic s p x) := by
  unfold replayAtomic
  dsimp only
  repeat' first
    | with_reducible assumption
    | with_reducible apply cohWrite_keeps
    | with_reducible apply endReplay_keeps
    | with_reducible apply passRecord_keeps
    | with_reducible apply keepsIte
    | split

theorem replayCommit_keeps {z0 : State} {s : State} (p : Nat) (r : Replay) (x : JournalRecord) (h_s : Keeps z0 s) :
    Keeps z0 (replayCommit s p r x) := by
  unfold replayCommit
  dsimp only
  repeat' first
    | with_reducible assumption
    | with_reducible apply decideStep_keeps
    | with_reducible apply modReplay_keeps
    | with_reducible apply endReplay_keeps
    | with_reducible apply passRecord_keeps
    | with_reducible apply keepsIte
    | split

theorem replayRecord_keeps {z0 : State} {s : State} (p : Nat) (r : Replay) (x : JournalRecord) (h_s : Keeps z0 s) :
    Keeps z0 (replayRecord s p r x) := by
  unfold replayRecord
  repeat' first
    | with_reducible assumption
    | with_reducible apply modQueue_keeps
    | with_reducible apply modReplay_keeps
    | with_reducible apply passRecord_keeps
    | with_reducible apply replayMailbox_keeps
    | with_reducible apply replayDescriptor_keeps
    | with_reducible apply replayInput_keeps
    | with_reducible apply replayPlaced_keeps
    | with_reducible apply replayOutcome_keeps
    | with_reducible apply replayTransfer_keeps
    | with_reducible apply replayAtomic_keeps
    | with_reducible apply replayCommit_keeps
    | with_reducible apply keepsIte
    | split

theorem replayStep_keeps {z0 : State} {s : State} (p : Nat) (h_s : Keeps z0 s) :
    Keeps z0 (replayStep s p) := by
  unfold replayStep
  repeat' first
    | with_reducible assumption
    | with_reducible apply modReplay_keeps
    | with_reducible apply endReplay_keeps
    | with_reducible apply passRecord_keeps
    | with_reducible apply replayRecord_keeps
    | with_reducible apply keepsIte
    | split

theorem startReplay_keeps {z0 : State} {s : State} (p base first last : Nat) (h_s : Keeps z0 s) :
    Keeps z0 (startReplay s p base first last) := by
  unfold startReplay
  dsimp only
  repeat' first
    | with_reducible assumption
    | with_reducible apply modPart_keeps

theorem doReplayRun_keeps {z0 : State} {s : State} (p : Nat) (r : MbxReq) (h_s : Keeps z0 s) :
    MbxAnswer.Keeps z0 (doReplayRun s p r) := by
  unfold doReplayRun
  dsimp only
  repeat' first
    | with_reducible assumption
    | with_reducible apply mbxLongOf
    | with_reducible apply mbxDoneOf
    | with_reducible apply failAccess_keeps
    | with_reducible apply mbxInvalid_keeps
    | with_reducible apply startReplay_keeps
    | with_reducible apply mbxIte

theorem execReplayRun_keeps {z0 : State} (fn : BitVec 4) {s : State} (h_s : Keeps z0 s) :
    OutKeeps z0 (execReplayRun fn s) := by
  unfold execReplayRun
  dsimp only
  repeat' first
    | with_reducible assumption
    | with_reducible apply outNext
    | intro _
    | with_reducible apply runMbx_keeps
    | with_reducible apply replayStep_keeps
    | with_reducible apply doReplayRun_keeps
    | with_reducible apply keepsIte

end Sys2Proof.Machine
end

