-- ==== Sys2Proof/Laws/KeepsMbxLong.lean ====
section
/-! SUPPORT. What the operations of Machine/MbxLong.lean keep. -/

namespace Sys2Proof.Machine

theorem trialAnswer_keeps {z0 : State} {s : State} (c : Nat) (h_s : Keeps z0 s) :
    MbxAnswer.Keeps z0 (trialAnswer s c) := by
  unfold trialAnswer
  dsimp only
  repeat' first
    | with_reducible assumption
    | with_reducible apply mbxWaitOf
    | with_reducible apply mbxDoneOf
    | with_reducible apply drawFree_keeps
    | with_reducible apply mbxIte

theorem longDone_keeps {z0 : State} {s : State} (fn : Nat) (r : MbxReq) (h_s : Keeps z0 s) :
    MbxAnswer.Keeps z0 (longDone s fn r) := by
  unfold longDone
  dsimp only
  repeat' first
    | with_reducible assumption
    | with_reducible apply mbxWaitOf
    | with_reducible apply mbxDoneOf
    | intro _
    | with_reducible apply mpRead_keeps
    | with_reducible apply dropReplay_keeps
    | with_reducible apply finishDestroy_keeps
    | with_reducible apply unregisterDone_keeps
    | with_reducible apply stageImage_keeps
    | with_reducible apply trialAnswer_keeps
    | with_reducible apply mbxIte
    | split
    | refine keeps_some (by with_reducible assumption) ?_

theorem execMailboxLComplete_keeps {z0 : State} (fn : BitVec 4) (pos : BitVec 32) {s : State} (h_s : Keeps z0 s) :
    OutKeeps z0 (execMailboxLComplete fn pos s) := by
  unfold execMailboxLComplete
  dsimp only
  repeat' first
    | with_reducible assumption
    | with_reducible apply outNext
    | with_reducible apply answer_keeps
    | with_reducible apply longDone_keeps
    | with_reducible apply keepsIte
    | split
    | refine keeps_done (by with_reducible assumption) ?_
    | refine keeps_long (by with_reducible assumption) ?_
    | refine keeps_wait (by with_reducible assumption) ?_

end Sys2Proof.Machine
end

