-- ==== Sys2Proof/Laws/KeepsSecure.lean ====
section
/-! SUPPORT. What the operations of Machine/Secure.lean keep. -/

namespace Sys2Proof.Machine

theorem spdmReply_keeps {z0 : State} {s : State} (code : Nat) (bytes : List Byte) (h_s : Keeps z0 s) :
    Keeps z0 (spdmReply s code bytes) := by
  unfold spdmReply
  repeat' first
    | with_reducible assumption
    | with_reducible apply sendHost_keeps

theorem execSpdmRequest_keeps {z0 : State} (transport : Bool) (session : BitVec 16) (code : BitVec 8) (bytes : List Byte) {s : State} (h_s : Keeps z0 s) :
    OutKeeps z0 (execSpdmRequest transport session code bytes s) := by
  unfold execSpdmRequest
  dsimp only
  iterate 2
    all_goals repeat' first
      | with_reducible assumption
      | with_reducible apply outNext
      | with_reducible apply spdmReply_keeps
      | with_reducible apply keepsIte
    all_goals try with_reducible apply keeps_mk
    all_goals try first
      | with_reducible exact id
      | with_reducible exact Nat.le_refl _

theorem modIde_keeps {z0 : State} {s : State} (i : Nat) (f : IdeStream → IdeStream) (h_s : Keeps z0 s) :
    Keeps z0 (modIde s i f) := by
  unfold modIde
  dsimp only
  iterate 2
    all_goals repeat' first
      | with_reducible assumption
      | split
    all_goals try with_reducible apply keeps_mk
    all_goals try first
      | with_reducible exact id
      | with_reducible exact Nat.le_refl _

theorem execIdeKmKeyProg_keeps {z0 : State} (session : BitVec 16) (stream : BitVec 3) (keySet : BitVec 1) (key : BitVec 256) {s : State} (h_s : Keeps z0 s) :
    OutKeeps z0 (execIdeKmKeyProg session stream keySet key s) := by
  unfold execIdeKmKeyProg
  repeat' first
    | with_reducible assumption
    | with_reducible apply outNext
    | with_reducible apply modIde_keeps
    | with_reducible apply keepsIte

theorem execKSetGo_keeps {z0 : State} (stream : BitVec 3) (keySet : BitVec 1) {s : State} (h_s : Keeps z0 s) :
    OutKeeps z0 (execKSetGo stream keySet s) := by
  unfold execKSetGo
  repeat' first
    | with_reducible assumption
    | with_reducible apply outNext
    | with_reducible apply modIde_keeps
    | with_reducible apply keepsIte

theorem execKSetStop_keeps {z0 : State} (stream : BitVec 3) (keySet : BitVec 1) {s : State} (h_s : Keeps z0 s) :
    OutKeeps z0 (execKSetStop stream keySet s) := by
  unfold execKSetStop
  repeat' first
    | with_reducible assumption
    | with_reducible apply outNext
    | with_reducible apply modIde_keeps
    | with_reducible apply keepsIte

theorem execIdeCheckFailure_keeps {z0 : State} (stream : BitVec 3) {s : State} (h_s : Keeps z0 s) :
    OutKeeps z0 (execIdeCheckFailure stream s) := by
  unfold execIdeCheckFailure
  repeat' first
    | with_reducible assumption
    | with_reducible apply outNext
    | with_reducible apply modFunc_keeps
    | with_reducible apply modIde_keeps
    | with_reducible apply keepsIte

theorem execMacsecCakSet_keeps {z0 : State} (session : BitVec 16) (transport : Bool) (ports : BitVec 16) (cak : BitVec 256) (ckn : List Byte) {s : State} (h_s : Keeps z0 s) :
    OutKeeps z0 (execMacsecCakSet session transport ports cak ckn s) := by
  unfold execMacsecCakSet
  dsimp only
  iterate 2
    all_goals repeat' first
      | with_reducible assumption
      | with_reducible apply outNext
      | with_reducible apply keepsIte
    all_goals try with_reducible apply keeps_mk
    all_goals try first
      | with_reducible exact id
      | with_reducible exact Nat.le_refl _

theorem execDebugChallenge_keeps {z0 : State} {s : State} (h_s : Keeps z0 s) :
    OutKeeps z0 (execDebugChallenge s) := by
  unfold execDebugChallenge
  dsimp only
  iterate 2
    all_goals repeat' first
      | with_reducible assumption
      | with_reducible apply outNext
      | with_reducible apply drawFree_keeps
      | with_reducible apply sendHost_keeps
      | with_reducible apply keepsIte
    all_goals try with_reducible apply keeps_mk
    all_goals try first
      | with_reducible exact id
      | with_reducible exact Nat.le_refl _

theorem eraseKeys_keeps {z0 : State} {s : State} (h_s : Keeps z0 s) :
    Keeps z0 (eraseKeys s) := by
  unfold eraseKeys
  dsimp only
  iterate 2
    all_goals repeat' first
      | with_reducible assumption
    all_goals try with_reducible apply keeps_mk
    all_goals try first
      | with_reducible exact id
      | with_reducible exact Nat.le_refl _

theorem openDebug_keeps {z0 : State} {s : State} (st : Nat) (h_s : Keeps z0 s) :
    Keeps z0 (openDebug s st) := by
  unfold openDebug
  dsimp only
  iterate 2
    all_goals repeat' first
      | with_reducible assumption
      | with_reducible apply moduleFault_keeps
      | with_reducible apply eraseKeys_keeps
      | with_reducible apply keepsIte
    all_goals try with_reducible apply keeps_mk
    all_goals try first
      | with_reducible exact id
      | with_reducible exact Nat.le_refl _

theorem execDebugUnlockToken_keeps {z0 : State} (bytes : List Byte) {s : State} (h_s : Keeps z0 s) :
    OutKeeps z0 (execDebugUnlockToken bytes s) := by
  unfold execDebugUnlockToken
  dsimp only
  iterate 2
    all_goals repeat' first
      | with_reducible assumption
      | with_reducible apply outNext
      | with_reducible apply openDebug_keeps
      | with_reducible apply keepsIte
      | split
    all_goals try with_reducible apply keeps_mk
    all_goals try first
      | with_reducible exact id
      | with_reducible exact Nat.le_refl _

theorem debugWrite_keeps {z0 : State} {s : State} (a : Nat) (v : Word64) (h_s : Keeps z0 s) :
    Keeps z0 (debugWrite s a v) := by
  unfold debugWrite
  repeat' first
    | with_reducible assumption
    | with_reducible apply moduleWrite_keeps
    | with_reducible apply mpWriteReg_keeps
    | split

theorem execDebugPortAccess_keeps {z0 : State} (write : Bool) (addr : BitVec 56) (value : BitVec 64) {s : State} (h_s : Keeps z0 s) :
    OutKeeps z0 (execDebugPortAccess write addr value s) := by
  unfold execDebugPortAccess
  dsimp only
  repeat' first
    | with_reducible assumption
    | with_reducible apply outNext
    | with_reducible apply sendHost_keeps
    | with_reducible apply debugWrite_keeps
    | with_reducible apply keepsIte
    | split

end Sys2Proof.Machine
end

