-- ==== Sys2Proof/Laws/Scalar.lean ====
section
/-! SUPPORT. The scalar rows: what an RV32IMC word of a core that issues it comes to, and the fields of the words. -/

namespace Sys2Proof.Machine

/-- A 32-bit word that is no other row's does what its encoding says. -/
theorem rv32imc_eq {s : State} {k : Nat} {w : Word32} (h : Issues s k w 4) (e : w.toNat % 4 = 3) (ho : otherRow w.toNat 4 = false) :
    rv32imc s k w = settle s k w (execWord s k w.toNat (pcAfter s k 4)) := by
  unfold rv32imc
  rw [issue_eq h]
  simp only [e, if_true, ho, Bool.false_eq_true, if_false]

/-- An opcode of a 32-bit word ends in 11. -/
theorem opcode_mod4 {w c : Nat} (h : natField w 0 7 = c) (hc : c % 4 = 3) : w % 4 = 3 := by
  simp only [natField, Nat.shiftRight_zero] at h; omega

/-- A word outside SYSTEM and the custom opcodes is no other row's. -/
theorem opcode_otherRow {w c : Nat} (h : natField w 0 7 = c) (h1 : c ≠ 0x73) (h2 : c ≠ 0x0B) (h3 : c ≠ 0x2B) (h4 : c ≠ 0x5B) :
    otherRow w 4 = false := by
  have h' : w % 128 = c := by simp only [natField, Nat.shiftRight_zero] at h; omega
  have a : (w == 0x73) = false := by simp; omega
  have b : (w == 0x100073) = false := by simp; omega
  have c' : lxListed w = false := by simp [lxListed, h, h2, h3, h4]
  simp [otherRow, a, b, c', h, h1]

/-- The fields of a word of the I format. -/
theorem iWord_fields (i12 : BitVec 12) (rs1 rd : BitVec 5) (f3 opc : Nat) (h3 : f3 < 8) (ho : opc < 128) (w : Word32)
    (hw : w = (i12 ++ rs1 ++ BitVec.ofNat 3 f3 ++ rd ++ BitVec.ofNat 7 opc : BitVec 32)) :
    natField w.toNat 0 7 = opc ∧ natField w.toNat 7 5 = rd.toNat ∧ natField w.toNat 12 3 = f3 ∧ natField w.toNat 15 5 = rs1.toNat
    ∧ natField w.toNat 20 12 = i12.toNat := by
  subst hw
  refine ⟨?_, ?_, ?_, ?_, ?_⟩
  · rw [natField_append_low _ _ (by decide), natField_all]; simp; omega
  · rw [natField_append_high _ _ (by decide), natField_append_low _ _ (by decide), natField_all]
  · rw [natField_append_high _ _ (by decide), natField_append_high _ _ (by decide), natField_append_low _ _ (by decide), natField_all]
    simp; omega
  · rw [natField_append_high _ _ (by decide), natField_append_high _ _ (by decide), natField_append_high _ _ (by decide),
      natField_append_low _ _ (by decide), natField_all]
  · rw [natField_append_high _ _ (by decide), natField_append_high _ _ (by decide), natField_append_high _ _ (by decide),
      natField_append_high _ _ (by decide), natField_all]

/-- The register-register rows of RV32IM (opcode 0x33). -/
theorem rv32im_op {s : State} {k f7 rs2 rs1 f3 rd : Nat} (h7 : f7 < 128) (h2 : rs2 < 32) (h1 : rs1 < 32) (h3 : f3 < 8) (hd : rd < 32)
    (h : Issues s k (rWord f7 rs2 rs1 f3 rd 0x33) 4) :
    let a := getX (coreAt s k) (BitVec.ofNat 5 rs1)
    let b := getX (coreAt s k) (BitVec.ofNat 5 rs2)
    let puts (v : Word32) : Issue := onCore s k (fun x => setX x (BitVec.ofNat 5 rd) v) (pcAfter s k 4)
    rv32imc s k (rWord f7 rs2 rs1 f3 rd 0x33) = settle s k (rWord f7 rs2 rs1 f3 rd 0x33) (
      if f7 = 1 then puts (mulOp f3 a b)
      else if f7 = 0 then puts (aluOp f3 false a b)
      else if f7 = 0x20 ∧ (f3 = 0 ∨ f3 = 5) then puts (aluOp f3 true a b)
      else .stop 1 0) := by
  obtain ⟨w0, w7, w12, w15, w20, w25⟩ := rWord_fields (f7 := f7) (opc := 0x33) h7 h2 h1 h3 hd (by decide)
  intro a b puts
  rw [rv32imc_eq h (opcode_mod4 w0 (by decide)) (opcode_otherRow w0 (by decide) (by decide) (by decide) (by decide))]
  generalize rWord f7 rs2 rs1 f3 rd 0x33 = w at *
  simp only [execWord, w0, w7, w12, w15, w20, w25]
  rfl

end Sys2Proof.Machine
end

