-- ==== Sys2Proof/Laws/Vector.lean ====
section
/-! SUPPORT. The vector rows: what an element-wise instruction of a core that issues it comes to. -/

namespace Sys2Proof.Machine

/-- Steps of a core by two functions that agree on it are equal. -/
theorem coreStep_congr (s : State) (k : Nat) (pc : Word32) {f g : Core → Core} (h : f (coreAt s k) = g (coreAt s k)) :
    coreStep s k f pc = coreStep s k g pc := by
  simp [coreStep, h]

/-- Vector writes whose elements agree on the core are equal. -/
theorem lanesWritten_congr (s : State) (k w : Nat) (vd : BitVec 5) {f g : Core → Nat → Nat}
    (h : ∀ j, f (coreAt s k) j = g (coreAt s k) j) : lanesWritten s k vd w f = lanesWritten s k vd w g := by
  unfold lanesWritten
  apply coreStep_congr
  rw [funext h]

/-- A listed element-wise instruction writes its lanes. -/
theorem vecArith_eq (s : State) (k op ety md : Nat) (vd vs1 vs2 : BitVec 5)
    (h : VecIssues s k (vecWord ety md op vd.toNat vs1.toNat vs2.toNat) (etyBits ety)) :
    vecArith s k op ety md true vd vs1 vs2 = lanesWritten s k vd (etyBits ety) (fun c j =>
      lane (coreEskor s c) op ety md (elem (getV c vs1) (etyBits ety) j) (elem (getV c vs2) (etyBits ety) j)
        (elem (getV c vd) (etyBits ety) j)) := by
  have hv : vlOk (etyBits ety) (coreAt s k) = true := by simp [vlOk, h.vl]
  simp only [vecArith, Bool.not_true, Bool.false_eq_true, if_false]
  rw [vecIssue_eq h.toIssues h.listed hv]
  rfl

end Sys2Proof.Machine
end

