-- ==== Sys2Proof/WellFormed.lean ====
section
/-! DEFINITION. What makes a command one that the outside can send: operands within the numbers the spec gives. -/

namespace Sys2Proof

/-- Is a command well-formed: a line-holding agent 0 to 8 or a requester 0 to 21 (Table 6-1), clock domain 0 to 39 (Table 15-1), die link 0 to 43 (R25),
firmware component 0 to 4, die 0 to 12, a 64-byte transport header and at most 8 KiB of payload (R336), an access size
that is a power of two, a 64-byte descriptor, a partition 0 to 15? -/
def wellFormed (i : Instr) : Bool :=
  match i with
  | .powerOn _ _ => true
  | .perstNAssert => true
  | .perstNDeassert _ _ => true
  | .pwrEnAssert => true
  | .pwrEnDeassert => true
  | .hotswapOpenTimer => true
  | .functionLevelReset _ => true
  | .poolUnitInternalFault _ => true
  | .surpriseRemoval => true
  | .linkStateChange _ => true
  | .hostTierReadComplete _ _ _ => true
  | .hostReadReissue _ => true
  | .hostLateThreshold _ => true
  | .tierStallNotify _ => true
  | .eskorDeadlineExpire _ => true
  | .tierReqPromote _ _ _ _ => true
  | .tierReqDemote _ _ _ _ => true
  | .tierReqDropped _ _ _ _ _ => true
  | .promotionStart _ _ _ _ => true
  | .promotionStepDone _ _ _ => true
  | .demotionStepDone _ _ _ => true
  | .migrationRetryTimer _ _ _ => true
  | .patrolScrub _ _ => true
  | .rv32imcInstruction _ _ => true
  | .zicsrAccess _ _ _ _ _ => true
  | .ecall _ => true
  | .ebreak _ _ => true
  | .lxMm _ _ _ _ _ _ _ => true
  | .lxWgbZero _ _ => true
  | .lxWgbFold _ _ _ => true
  | .lxWgbSpill _ _ _ => true
  | .lxWgbFlush _ _ _ => true
  | .lxEwait _ _ => true
  | .lxEquiesce _ => true
  | .lxVadd _ _ _ _ _ _ => true
  | .lxVsub _ _ _ _ _ _ => true
  | .lxVmul _ _ _ _ _ _ => true
  | .lxVfma _ _ _ _ _ _ => true
  | .lxVfms _ _ _ _ _ _ => true
  | .lxVmin _ _ _ _ _ _ => true
  | .lxVmax _ _ _ _ _ _ => true
  | .lxVdiv _ _ _ _ _ _ => true
  | .lxVsqrt _ _ _ _ _ => true
  | .lxVrem _ _ _ _ _ _ => true
  | .lxVrecip _ _ _ _ _ => true
  | .lxVrsqrt _ _ _ _ _ => true
  | .lxVexp _ _ _ _ _ => true
  | .lxVexp2 _ _ _ _ _ => true
  | .lxVlog _ _ _ _ _ => true
  | .lxVlog2 _ _ _ _ _ => true
  | .lxVand _ _ _ _ _ => true
  | .lxVor _ _ _ _ _ => true
  | .lxVxor _ _ _ _ _ => true
  | .lxVsll _ _ _ _ _ => true
  | .lxVsrl _ _ _ _ _ => true
  | .lxVsra _ _ _ _ _ => true
  | .lxVtanh _ _ _ _ _ => true
  | .lxVsigmoid _ _ _ _ _ => true
  | .lxVerf _ _ _ _ _ => true
  | .lxVsin _ _ _ _ _ => true
  | .lxVcos _ _ _ _ _ => true
  | .lxVabs _ _ _ _ _ _ => true
  | .lxVneg _ _ _ _ _ _ => true
  | .lxVredsum _ _ _ _ _ _ => true
  | .lxVredmax _ _ _ _ _ _ => true
  | .lxVredmin _ _ _ _ _ _ => true
  | .lxVcntnf _ _ _ _ _ => true
  | .lxVcmp _ _ _ _ _ _ => true
  | .lxVmerge _ _ _ _ _ _ => true
  | .lxVcompress _ _ _ _ _ => true
  | .lxVexpand _ _ _ _ _ => true
  | .lxVsplat _ _ _ _ _ => true
  | .lxVmove _ _ _ _ _ => true
  | .lxVcvt _ _ _ _ _ _ _ => true
  | .lxVld _ _ _ _ _ => true
  | .lxVst _ _ _ _ _ => true
  | .lxVsetvl _ _ _ _ => true
  | .lxVmvx _ _ _ _ _ => true
  | .lxVins _ _ _ _ _ => true
  | .lxCand _ _ _ _ => true
  | .lxCor _ _ _ _ => true
  | .lxCxor _ _ _ _ => true
  | .lxCandn _ _ _ _ => true
  | .lxCnot _ _ _ => true
  | .lxCpop _ _ _ => true
  | .lxCrdLo _ _ _ => true
  | .lxCrdHi _ _ _ => true
  | .lxCwrLo _ _ _ => true
  | .lxCwrHi _ _ _ => true
  | .lxCfirst _ _ _ => true
  | .lxRngw _ _ _ => true
  | .lxVrng _ _ => true
  | .lxDma _ _ _ => true
  | .lxDwait _ _ => true
  | .lxDfence _ => true
  | .lxBarC _ _ => true
  | .lxBarD _ _ => true
  | .lxEnd _ _ => true
  | .barrierRelease _ _ _ => true
  | .dmaComplete _ _ => true
  | .coreProgramEnded _ => true
  | .stationaryLoadComplete _ => true
  | .engineStreamStart _ _ _ => true
  | .engineRowDrained _ _ _ _ => true
  | .engineInstructionComplete _ => true
  | .rampDownRequest _ => true
  | .startArbiterGrant _ => true
  | .rampDownComplete _ => true
  | .rampUpComplete _ => true
  | .commandAdmission _ => true
  | .commandCommit _ _ => true
  | .spillRecordApply _ => true
  | .slicePreemption _ _ => true
  | .rds agent _ => decide (agent.toNat < 9)
  | .rdu agent _ => decide (agent.toNat < 9)
  | .clnu agent _ => decide (agent.toNat < 9)
  | .wbd agent _ => decide (agent.toNat < 9)
  | .evict agent _ => decide (agent.toNat < 9)
  | .rdonce agent _ => decide (agent.toNat < 22)
  | .wru agent _ _ _ => decide (agent.toNat < 22)
  | .atmh agent _ _ _ _ _ => decide (agent.toNat < 22)
  | .atmf agent _ _ _ _ _ => decide (agent.toNat < 22)
  | .snps agent _ => decide (agent.toNat < 9)
  | .snpu agent _ => decide (agent.toNat < 9)
  | .snpinv agent _ => decide (agent.toNat < 9)
  | .snponce agent _ => decide (agent.toNat < 9)
  | .holdEnd agent _ => decide (agent.toNat < 9)
  | .data agent _ => decide (agent.toNat < 22)
  | .snpresp agent _ => decide (agent.toNat < 9)
  | .retry agent _ => decide (agent.toNat < 22)
  | .comp agent _ => decide (agent.toNat < 22)
  | .compack agent _ => decide (agent.toNat < 22)
  | .reservationLapse _ agent => decide (agent.toNat < 22)
  | .lxsAmofaddS _ _ _ _ _ => true
  | .lxsAmofaddBf16x2 _ _ _ _ _ => true
  | .serverCoreAccess _ _ _ _ size _ _ _ => (size == 1 || size == 2 || size == 4 || size == 8)
  | .hostAtomicop _ _ _ size _ _ => (size == 4 || size == 8 || size == 16)
  | .cppcRequest _ _ => true
  | .iommuInvalWrite _ _ => true
  | .iommuSyncRead _ => true
  | .localDoorbell _ _ size _ => (size == 1 || size == 2 || size == 4 || size == 8)
  | .lmbDoorbell _ _ => true
  | .bootStatusMirror _ _ => true
  | .serverBootTimeout _ => true
  | .sbiSrstReboot _ => true
  | .embLookup _ _ => true
  | .embUpdate _ _ => true
  | .relayoutRegionStart _ _ _ => true
  | .relayoutRegionCopied _ _ _ => true
  | .relayoutRegionRestart _ _ _ => true
  | .relayoutSwitchPoint _ _ => true
  | .commitTimeout _ => true
  | .dripBehindEmit _ => true
  | .dripRingRoom _ _ => true
  | .programRun _ _ => true
  | .copy _ _ => true
  | .fill _ _ => true
  | .gatherShard _ _ => true
  | .ringPass _ _ => true
  | .collective _ _ => true
  | .stepBegin _ _ => true
  | .stepCommit _ _ => true
  | .stepRecover _ _ => true
  | .evalBegin _ _ => true
  | .evalEnd _ _ => true
  | .videoDecode _ _ => true
  | .videoEncode _ _ => true
  | .videoBudgetOverrun _ _ => true
  | .fence _ _ => true
  | .signalAdd _ _ => true
  | .signalSet _ _ => true
  | .wait _ _ => true
  | .waitDeadline _ _ => true
  | .acceptPlaced _ _ => true
  | .acceptPlacedDeadline _ _ => true
  | .doorbell _ _ _ size _ => (size == 1 || size == 2 || size == 4 || size == 8)
  | .descriptorFetchComplete _ _ _ => true
  | .descriptorReread _ bytes => decide (bytes.length = 64)
  | .mbxReqTailWrite _ _ => true
  | .mbxRspHeadWrite _ _ => true
  | .mailboxRequestServe _ => true
  | .mailboxReread _ => true
  | .mailboxLComplete _ _ => true
  | .fnFlushRead _ => true
  | .bar2Read _ _ _ _ => true
  | .bar2Write _ _ _ bytes => decide (bytes.length ≤ 4096)
  | .placementWrite _ _ _ _ _ bytes => decide (bytes.length ≤ 4096)
  | .runoutCloseTimer _ _ => true
  | .prCtlReopen _ _ => true
  | .getInfo _ => true
  | .getCaps _ => true
  | .getCapsSwitchV1 _ => true
  | .getCapsSwitchV2 _ => true
  | .partitionCreate _ => true
  | .partitionDestroy _ => true
  | .queueCreate _ => true
  | .queueDestroy _ => true
  | .regionRegister _ => true
  | .regionUnregister _ => true
  | .windowMapMap _ => true
  | .windowMapUnmap _ => true
  | .windowMapRemoveSet _ => true
  | .windowMapReactivateSet _ => true
  | .jobConfig _ => true
  | .mappingLoad _ => true
  | .stepPolicy _ => true
  | .tableCreate _ => true
  | .relayoutStart _ => true
  | .relayoutResume _ => true
  | .relayoutAbortStop _ => true
  | .relayoutAbortRevert _ => true
  | .dripConfig _ => true
  | .telemetryConfig _ => true
  | .replayConfig _ => true
  | .replayRun _ => true
  | .linkConfig _ => true
  | .peerTableLoad _ => true
  | .functionDisable _ => true
  | .functionEnable _ => true
  | .powerProfile _ => true
  | .ageingCheck _ => true
  | .ageingReport _ => true
  | .decafEnter _ => true
  | .fwStage _ => true
  | .fwActivate _ => true
  | .fwTrialStart comp => decide (comp.toNat < 5)
  | .fwTrialOutcome comp _ => decide (comp.toNat < 5)
  | .attestGet _ => true
  | .errorLogRead _ => true
  | .dataFrame _ _ _ _ _ header payload => decide (header.length = 64) && decide (payload.length ≤ 8192)
  | .ackFrame _ _ _ _ _ header payload => decide (header.length = 64) && decide (payload.length ≤ 8192)
  | .connectFrame _ _ _ _ _ header payload => decide (header.length = 64) && decide (payload.length ≤ 8192)
  | .acceptFrame _ _ _ _ _ header payload => decide (header.length = 64) && decide (payload.length ≤ 8192)
  | .rejectFrame _ _ _ _ _ header payload => decide (header.length = 64) && decide (payload.length ≤ 8192)
  | .keepaliveFrame _ _ _ _ _ header payload => decide (header.length = 64) && decide (payload.length ≤ 8192)
  | .closeFrame _ _ _ _ _ header payload => decide (header.length = 64) && decide (payload.length ≤ 8192)
  | .mkaFrame _ _ _ _ _ _ => true
  | .pauseFrame _ _ _ _ => true
  | .nonTransportFrame _ _ _ _ _ header payload => decide (header.length = 64) && decide (payload.length ≤ 8192)
  | .ackTimer _ => true
  | .retransmitTimeout _ => true
  | .connectRetryTimer _ => true
  | .keepaliveTimer _ => true
  | .peerUnreachable _ => true
  | .collectiveDone _ _ _ => true
  | .collectiveRestart _ _ => true
  | .ringPassGrant _ _ => true
  | .commitExchange _ _ _ _ => true
  | .blockFetchRequest _ _ _ _ => true
  | .blockFetchResponse _ _ _ _ _ => true
  | .portLinkUp _ => true
  | .portLinkDown _ _ => true
  | .trainingTimeout _ => true
  | .portRetrainTimer _ => true
  | .linkCrcReplay link _ => decide (link.toNat < 44)
  | .linkRetrainTimeout link => decide (link.toNat < 44)
  | .mctpPhaseRecordRead p => decide (p.toNat < 16)
  | .mctpBaseboardNumber _ => true
  | .pldmPowerLimit _ => true
  | .i3cEntdaa _ => true
  | .spdmRequest _ _ _ _ => true
  | .ideKmKeyProg _ _ _ _ => true
  | .kSetGo _ _ => true
  | .kSetStop _ _ => true
  | .ideCheckFailure _ => true
  | .macsecCakSet _ _ _ _ _ => true
  | .debugChallenge => true
  | .debugUnlockToken _ => true
  | .pwrSample _ _ _ => true
  | .undervoltageTimer => true
  | .overvoltageTripTimer => true
  | .budgetLoopStep _ _ => true
  | .thermalSample die _ => decide (die.toNat < 13)
  | .coolingLost die => decide (die.toNat < 13)
  | .ageingCheckpointDue die _ _ => decide (die.toNat < 13)
  | .slackAlarm die _ => decide (die.toNat < 13)
  | .ageingRecordHourly => true
  | .errorLogFlashCopy => true
  | .domainIdleTimer dom _ => decide (dom.toNat < 40)
  | .domainStartComplete dom => decide (dom.toNat < 40)
  | .mpWatchdog => true
  | .decafEntry _ => true
  | .decafDripFlush => true
  | .journalSpace _ _ => true
  | .registerWrite _ _ _ size _ => (size == 1 || size == 2 || size == 4 || size == 8)
  | .coolModeChange _ => true
  | .deviceTemperature85c _ _ => true
  | .serverCoreInternalError _ => true
  | .videoUnitInternalError _ => true
  | .videoUnitRestart _ => true
  | .regulatorFault => true
  | .entropyHealthFailure => true
  | .regulatorsStop => true
  | .configurationRequest _ _ _ _ => true
  | .msixEntryUnmask _ _ => true
  | .lpddr5xInitComplete => true
  | .pfcPauseExpiry _ => true
  | .debugPortAccess _ _ _ => true

end Sys2Proof
end

section
/-! Every step goes on to a next state (no command faults and none is refused), takes one command of the queue and keeps what
no operation may break. -/

namespace Sys2Proof.Machine

/-- A choice goes on where both of its branches do. -/
theorem next_ite {c : Prop} [Decidable c] {a b : Out} (ha : ∃ t, a = .next t) (hb : ∃ t, b = .next t) :
    ∃ t, (if c then a else b) = .next t := by
  split <;> assumption

/-- No command stops the block: most answer `.next` outright, and those that first look at what the state holds answer it on
each of their paths. -/
theorem exec_next (i : Instr) (s : State) : ∃ t, exec i s = .next t := by
  cases i
  case'
    hostTierReadComplete | hostReadReissue | hostLateThreshold | tierStallNotify | eskorDeadlineExpire | tierReqDropped |
    promotionStart | promotionStepDone | demotionStepDone | migrationRetryTimer | patrolScrub | barrierRelease |
    dmaComplete | coreProgramEnded | commandAdmission | commandCommit | slicePreemption | relayoutRegionStart |
    relayoutRegionCopied | relayoutSwitchPoint | commitTimeout | dripBehindEmit | dripRingRoom | videoBudgetOverrun | doorbell |
    descriptorFetchComplete | descriptorReread | mkaFrame | pauseFrame | nonTransportFrame | ackTimer | retransmitTimeout |
    connectRetryTimer | keepaliveTimer | peerUnreachable | commitExchange | portLinkUp | portLinkDown | trainingTimeout |
    portRetrainTimer =>
    dsimp only [exec, execHostTierReadComplete, execHostReadReissue, execHostLateThreshold, execTierStallNotify, execEskorDeadlineExpire,
      execTierReqDropped, execPromotionStart, execPromotionStepDone, execDemotionStepDone, execMigrationRetryTimer,
      execPatrolScrub, execBarrierRelease, execDmaComplete, execCoreProgramEnded, execCommandAdmission,
      execCommandCommit, execSlicePreemption, execRelayoutRegionStart, execRelayoutRegionCopied, execRelayoutSwitchPoint,
      execCommitTimeout, execDripBehindEmit, execDripRingRoom, execVideoBudgetOverrun, execDoorbell, execDescriptorFetchComplete,
      execDescriptorReread, execMkaFrame, execPauseFrame, execNonTransportFrame, execAckTimer, execRetransmitTimeout,
      execConnectRetryTimer, execKeepaliveTimer, execPeerUnreachable, execCommitExchange, execPortLinkUp, execPortLinkDown,
      execTrainingTimeout, execPortRetrainTimer]
    repeat' first
      | with_reducible apply next_ite
      | split
  all_goals exact ⟨_, rfl⟩

/-- Every command keeps what no operation may break. -/
theorem exec_keeps {z0 s : State} (i : Instr) (h : Keeps z0 s) : OutKeeps z0 (exec i s) :=
  match i with
  | .powerOn _ _ => execPowerOn_keeps _ _ h
  | .perstNAssert => execPerstNAssert_keeps h
  | .perstNDeassert _ _ => execPerstNDeassert_keeps _ _ h
  | .pwrEnAssert => execPwrEnAssert_keeps h
  | .pwrEnDeassert => execPwrEnDeassert_keeps h
  | .hotswapOpenTimer => execHotswapOpenTimer_keeps h
  | .functionLevelReset _ => execFunctionLevelReset_keeps _ h
  | .poolUnitInternalFault _ => execPoolUnitInternalFault_keeps _ h
  | .surpriseRemoval => execSurpriseRemoval_keeps h
  | .linkStateChange _ => execLinkStateChange_keeps _ h
  | .hostTierReadComplete _ _ _ => execHostTierReadComplete_keeps _ _ _ h
  | .hostReadReissue _ => execHostReadReissue_keeps _ h
  | .hostLateThreshold _ => execHostLateThreshold_keeps _ h
  | .tierStallNotify _ => execTierStallNotify_keeps _ h
  | .eskorDeadlineExpire _ => execEskorDeadlineExpire_keeps _ h
  | .tierReqPromote _ _ _ _ => execTierReqPromote_keeps _ _ _ _ h
  | .tierReqDemote _ _ _ _ => execTierReqDemote_keeps _ _ _ _ h
  | .tierReqDropped _ _ _ _ _ => execTierReqDropped_keeps _ _ _ _ _ h
  | .promotionStart _ _ _ _ => execPromotionStart_keeps _ _ _ _ h
  | .promotionStepDone _ _ _ => execPromotionStepDone_keeps _ _ _ h
  | .demotionStepDone _ _ _ => execDemotionStepDone_keeps _ _ _ h
  | .migrationRetryTimer _ _ _ => execMigrationRetryTimer_keeps _ _ _ h
  | .patrolScrub _ _ => execPatrolScrub_keeps _ _ h
  | .rv32imcInstruction _ _ => execRv32imcInstruction_keeps _ _ h
  | .zicsrAccess _ _ _ _ _ => execZicsrAccess_keeps _ _ _ _ _ h
  | .ecall _ => execEcall_keeps _ h
  | .ebreak _ _ => execEbreak_keeps _ _ h
  | .lxMm _ _ _ _ _ _ _ => execLxMm_keeps _ _ _ _ _ _ _ h
  | .lxWgbZero _ _ => execLxWgbZero_keeps _ _ h
  | .lxWgbFold _ _ _ => execLxWgbFold_keeps _ _ _ h
  | .lxWgbSpill _ _ _ => execLxWgbSpill_keeps _ _ _ h
  | .lxWgbFlush _ _ _ => execLxWgbFlush_keeps _ _ _ h
  | .lxEwait _ _ => execLxEwait_keeps _ _ h
  | .lxEquiesce _ => execLxEquiesce_keeps _ h
  | .lxVadd _ _ _ _ _ _ => execLxVadd_keeps _ _ _ _ _ _ h
  | .lxVsub _ _ _ _ _ _ => execLxVsub_keeps _ _ _ _ _ _ h
  | .lxVmul _ _ _ _ _ _ => execLxVmul_keeps _ _ _ _ _ _ h
  | .lxVfma _ _ _ _ _ _ => execLxVfma_keeps _ _ _ _ _ _ h
  | .lxVfms _ _ _ _ _ _ => execLxVfms_keeps _ _ _ _ _ _ h
  | .lxVmin _ _ _ _ _ _ => execLxVmin_keeps _ _ _ _ _ _ h
  | .lxVmax _ _ _ _ _ _ => execLxVmax_keeps _ _ _ _ _ _ h
  | .lxVdiv _ _ _ _ _ _ => execLxVdiv_keeps _ _ _ _ _ _ h
  | .lxVsqrt _ _ _ _ _ => execLxVsqrt_keeps _ _ _ _ _ h
  | .lxVrem _ _ _ _ _ _ => execLxVrem_keeps _ _ _ _ _ _ h
  | .lxVrecip _ _ _ _ _ => execLxVrecip_keeps _ _ _ _ _ h
  | .lxVrsqrt _ _ _ _ _ => execLxVrsqrt_keeps _ _ _ _ _ h
  | .lxVexp _ _ _ _ _ => execLxVexp_keeps _ _ _ _ _ h
  | .lxVexp2 _ _ _ _ _ => execLxVexp2_keeps _ _ _ _ _ h
  | .lxVlog _ _ _ _ _ => execLxVlog_keeps _ _ _ _ _ h
  | .lxVlog2 _ _ _ _ _ => execLxVlog2_keeps _ _ _ _ _ h
  | .lxVand _ _ _ _ _ => execLxVand_keeps _ _ _ _ _ h
  | .lxVor _ _ _ _ _ => execLxVor_keeps _ _ _ _ _ h
  | .lxVxor _ _ _ _ _ => execLxVxor_keeps _ _ _ _ _ h
  | .lxVsll _ _ _ _ _ => execLxVsll_keeps _ _ _ _ _ h
  | .lxVsrl _ _ _ _ _ => execLxVsrl_keeps _ _ _ _ _ h
  | .lxVsra _ _ _ _ _ => execLxVsra_keeps _ _ _ _ _ h
  | .lxVtanh _ _ _ _ _ => execLxVtanh_keeps _ _ _ _ _ h
  | .lxVsigmoid _ _ _ _ _ => execLxVsigmoid_keeps _ _ _ _ _ h
  | .lxVerf _ _ _ _ _ => execLxVerf_keeps _ _ _ _ _ h
  | .lxVsin _ _ _ _ _ => execLxVsin_keeps _ _ _ _ _ h
  | .lxVcos _ _ _ _ _ => execLxVcos_keeps _ _ _ _ _ h
  | .lxVabs _ _ _ _ _ _ => execLxVabs_keeps _ _ _ _ _ _ h
  | .lxVneg _ _ _ _ _ _ => execLxVneg_keeps _ _ _ _ _ _ h
  | .lxVredsum _ _ _ _ _ _ => execLxVredsum_keeps _ _ _ _ _ _ h
  | .lxVredmax _ _ _ _ _ _ => execLxVredmax_keeps _ _ _ _ _ _ h
  | .lxVredmin _ _ _ _ _ _ => execLxVredmin_keeps _ _ _ _ _ _ h
  | .lxVcntnf _ _ _ _ _ => execLxVcntnf_keeps _ _ _ _ _ h
  | .lxVcmp _ _ _ _ _ _ => execLxVcmp_keeps _ _ _ _ _ _ h
  | .lxVmerge _ _ _ _ _ _ => execLxVmerge_keeps _ _ _ _ _ _ h
  | .lxVcompress _ _ _ _ _ => execLxVcompress_keeps _ _ _ _ _ h
  | .lxVexpand _ _ _ _ _ => execLxVexpand_keeps _ _ _ _ _ h
  | .lxVsplat _ _ _ _ _ => execLxVsplat_keeps _ _ _ _ _ h
  | .lxVmove _ _ _ _ _ => execLxVmove_keeps _ _ _ _ _ h
  | .lxVcvt _ _ _ _ _ _ _ => execLxVcvt_keeps _ _ _ _ _ _ _ h
  | .lxVld _ _ _ _ _ => execLxVld_keeps _ _ _ _ _ h
  | .lxVst _ _ _ _ _ => execLxVst_keeps _ _ _ _ _ h
  | .lxVsetvl _ _ _ _ => execLxVsetvl_keeps _ _ _ _ h
  | .lxVmvx _ _ _ _ _ => execLxVmvx_keeps _ _ _ _ _ h
  | .lxVins _ _ _ _ _ => execLxVins_keeps _ _ _ _ _ h
  | .lxCand _ _ _ _ => execLxCand_keeps _ _ _ _ h
  | .lxCor _ _ _ _ => execLxCor_keeps _ _ _ _ h
  | .lxCxor _ _ _ _ => execLxCxor_keeps _ _ _ _ h
  | .lxCandn _ _ _ _ => execLxCandn_keeps _ _ _ _ h
  | .lxCnot _ _ _ => execLxCnot_keeps _ _ _ h
  | .lxCpop _ _ _ => execLxCpop_keeps _ _ _ h
  | .lxCrdLo _ _ _ => execLxCrdLo_keeps _ _ _ h
  | .lxCrdHi _ _ _ => execLxCrdHi_keeps _ _ _ h
  | .lxCwrLo _ _ _ => execLxCwrLo_keeps _ _ _ h
  | .lxCwrHi _ _ _ => execLxCwrHi_keeps _ _ _ h
  | .lxCfirst _ _ _ => execLxCfirst_keeps _ _ _ h
  | .lxRngw _ _ _ => execLxRngw_keeps _ _ _ h
  | .lxVrng _ _ => execLxVrng_keeps _ _ h
  | .lxDma _ _ _ => execLxDma_keeps _ _ _ h
  | .lxDwait _ _ => execLxDwait_keeps _ _ h
  | .lxDfence _ => execLxDfence_keeps _ h
  | .lxBarC _ _ => execLxBarC_keeps _ _ h
  | .lxBarD _ _ => execLxBarD_keeps _ _ h
  | .lxEnd _ _ => execLxEnd_keeps _ _ h
  | .barrierRelease _ _ _ => execBarrierRelease_keeps _ _ _ h
  | .dmaComplete _ _ => execDmaComplete_keeps _ _ h
  | .coreProgramEnded _ => execCoreProgramEnded_keeps _ h
  | .stationaryLoadComplete _ => execStationaryLoadComplete_keeps _ h
  | .engineStreamStart _ _ _ => execEngineStreamStart_keeps _ _ _ h
  | .engineRowDrained _ _ _ _ => execEngineRowDrained_keeps _ _ _ _ h
  | .engineInstructionComplete _ => execEngineInstructionComplete_keeps _ h
  | .rampDownRequest _ => execRampDownRequest_keeps _ h
  | .startArbiterGrant _ => execStartArbiterGrant_keeps _ h
  | .rampDownComplete _ => execRampDownComplete_keeps _ h
  | .rampUpComplete _ => execRampUpComplete_keeps _ h
  | .commandAdmission _ => execCommandAdmission_keeps _ h
  | .commandCommit _ _ => execCommandCommit_keeps _ _ h
  | .spillRecordApply _ => execSpillRecordApply_keeps _ h
  | .slicePreemption _ _ => execSlicePreemption_keeps _ _ h
  | .rds _ _ => execRds_keeps _ _ h
  | .rdu _ _ => execRdu_keeps _ _ h
  | .clnu _ _ => execClnu_keeps _ _ h
  | .wbd _ _ => execWbd_keeps _ _ h
  | .evict _ _ => execEvict_keeps _ _ h
  | .rdonce _ _ => execRdonce_keeps _ _ h
  | .wru _ _ _ _ => execWru_keeps _ _ _ _ h
  | .atmh _ _ _ _ _ _ => execAtmh_keeps _ _ _ _ _ _ h
  | .atmf _ _ _ _ _ _ => execAtmf_keeps _ _ _ _ _ _ h
  | .snps _ _ => execSnps_keeps _ _ h
  | .snpu _ _ => execSnpu_keeps _ _ h
  | .snpinv _ _ => execSnpinv_keeps _ _ h
  | .snponce _ _ => execSnponce_keeps _ _ h
  | .holdEnd _ _ => execHoldEnd_keeps _ _ h
  | .data _ _ => execData_keeps _ _ h
  | .snpresp _ _ => execSnpresp_keeps _ _ h
  | .retry _ _ => execRetry_keeps _ _ h
  | .comp _ _ => execComp_keeps _ _ h
  | .compack _ _ => execCompack_keeps _ _ h
  | .reservationLapse _ _ => execReservationLapse_keeps _ _ h
  | .lxsAmofaddS _ _ _ _ _ => execLxsAmofaddS_keeps _ _ _ _ _ h
  | .lxsAmofaddBf16x2 _ _ _ _ _ => execLxsAmofaddBf16x2_keeps _ _ _ _ _ h
  | .serverCoreAccess _ _ _ _ _ _ _ _ => execServerCoreAccess_keeps _ _ _ _ _ _ _ _ h
  | .hostAtomicop _ _ _ _ _ _ => execHostAtomicop_keeps _ _ _ _ _ _ h
  | .cppcRequest _ _ => execCppcRequest_keeps _ _ h
  | .iommuInvalWrite _ _ => execIommuInvalWrite_keeps _ _ h
  | .iommuSyncRead _ => execIommuSyncRead_keeps _ h
  | .localDoorbell _ _ _ _ => execLocalDoorbell_keeps _ _ _ _ h
  | .lmbDoorbell _ _ => execLmbDoorbell_keeps _ _ h
  | .bootStatusMirror _ _ => execBootStatusMirror_keeps _ _ h
  | .serverBootTimeout _ => execServerBootTimeout_keeps _ h
  | .sbiSrstReboot _ => execSbiSrstReboot_keeps _ h
  | .embLookup _ _ => execEmbLookup_keeps _ _ h
  | .embUpdate _ _ => execEmbUpdate_keeps _ _ h
  | .relayoutRegionStart _ _ _ => execRelayoutRegionStart_keeps _ _ _ h
  | .relayoutRegionCopied _ _ _ => execRelayoutRegionCopied_keeps _ _ _ h
  | .relayoutRegionRestart _ _ _ => execRelayoutRegionRestart_keeps _ _ _ h
  | .relayoutSwitchPoint _ _ => execRelayoutSwitchPoint_keeps _ _ h
  | .commitTimeout _ => execCommitTimeout_keeps _ h
  | .dripBehindEmit _ => execDripBehindEmit_keeps _ h
  | .dripRingRoom _ _ => execDripRingRoom_keeps _ _ h
  | .programRun _ _ => execProgramRun_keeps _ _ h
  | .copy _ _ => execCopy_keeps _ _ h
  | .fill _ _ => execFill_keeps _ _ h
  | .gatherShard _ _ => execGatherShard_keeps _ _ h
  | .ringPass _ _ => execRingPass_keeps _ _ h
  | .collective _ _ => execCollective_keeps _ _ h
  | .stepBegin _ _ => execStepBegin_keeps _ _ h
  | .stepCommit _ _ => execStepCommit_keeps _ _ h
  | .stepRecover _ _ => execStepRecover_keeps _ _ h
  | .evalBegin _ _ => execEvalBegin_keeps _ _ h
  | .evalEnd _ _ => execEvalEnd_keeps _ _ h
  | .videoDecode _ _ => execVideoDecode_keeps _ _ h
  | .videoEncode _ _ => execVideoEncode_keeps _ _ h
  | .videoBudgetOverrun _ _ => execVideoBudgetOverrun_keeps _ _ h
  | .fence _ _ => execFence_keeps _ _ h
  | .signalAdd _ _ => execSignalAdd_keeps _ _ h
  | .signalSet _ _ => execSignalSet_keeps _ _ h
  | .wait _ _ => execWait_keeps _ _ h
  | .waitDeadline _ _ => execWaitDeadline_keeps _ _ h
  | .acceptPlaced _ _ => execAcceptPlaced_keeps _ _ h
  | .acceptPlacedDeadline _ _ => execAcceptPlacedDeadline_keeps _ _ h
  | .doorbell _ _ _ _ _ => execDoorbell_keeps _ _ _ _ _ h
  | .descriptorFetchComplete _ _ _ => execDescriptorFetchComplete_keeps _ _ _ h
  | .descriptorReread _ _ => execDescriptorReread_keeps _ _ h
  | .mbxReqTailWrite _ _ => execMbxReqTailWrite_keeps _ _ h
  | .mbxRspHeadWrite _ _ => execMbxRspHeadWrite_keeps _ _ h
  | .mailboxRequestServe _ => execMailboxRequestServe_keeps _ h
  | .mailboxReread _ => execMailboxReread_keeps _ h
  | .mailboxLComplete _ _ => execMailboxLComplete_keeps _ _ h
  | .fnFlushRead _ => execFnFlushRead_keeps _ h
  | .bar2Read _ _ _ _ => execBar2Read_keeps _ _ _ _ h
  | .bar2Write _ _ _ _ => execBar2Write_keeps _ _ _ _ h
  | .placementWrite _ _ _ _ _ _ => execPlacementWrite_keeps _ _ _ _ _ _ h
  | .runoutCloseTimer _ _ => execRunoutCloseTimer_keeps _ _ h
  | .prCtlReopen _ _ => execPrCtlReopen_keeps _ _ h
  | .getInfo _ => execGetInfo_keeps _ h
  | .getCaps _ => execGetCaps_keeps _ h
  | .getCapsSwitchV1 _ => execGetCapsSwitchV1_keeps _ h
  | .getCapsSwitchV2 _ => execGetCapsSwitchV2_keeps _ h
  | .partitionCreate _ => execPartitionCreate_keeps _ h
  | .partitionDestroy _ => execPartitionDestroy_keeps _ h
  | .queueCreate _ => execQueueCreate_keeps _ h
  | .queueDestroy _ => execQueueDestroy_keeps _ h
  | .regionRegister _ => execRegionRegister_keeps _ h
  | .regionUnregister _ => execRegionUnregister_keeps _ h
  | .windowMapMap _ => execWindowMapMap_keeps _ h
  | .windowMapUnmap _ => execWindowMapUnmap_keeps _ h
  | .windowMapRemoveSet _ => execWindowMapRemoveSet_keeps _ h
  | .windowMapReactivateSet _ => execWindowMapReactivateSet_keeps _ h
  | .jobConfig _ => execJobConfig_keeps _ h
  | .mappingLoad _ => execMappingLoad_keeps _ h
  | .stepPolicy _ => execStepPolicy_keeps _ h
  | .tableCreate _ => execTableCreate_keeps _ h
  | .relayoutStart _ => execRelayoutStart_keeps _ h
  | .relayoutResume _ => execRelayoutResume_keeps _ h
  | .relayoutAbortStop _ => execRelayoutAbortStop_keeps _ h
  | .relayoutAbortRevert _ => execRelayoutAbortRevert_keeps _ h
  | .dripConfig _ => execDripConfig_keeps _ h
  | .telemetryConfig _ => execTelemetryConfig_keeps _ h
  | .replayConfig _ => execReplayConfig_keeps _ h
  | .replayRun _ => execReplayRun_keeps _ h
  | .linkConfig _ => execLinkConfig_keeps _ h
  | .peerTableLoad _ => execPeerTableLoad_keeps _ h
  | .functionDisable _ => execFunctionDisable_keeps _ h
  | .functionEnable _ => execFunctionEnable_keeps _ h
  | .powerProfile _ => execPowerProfile_keeps _ h
  | .ageingCheck _ => execAgeingCheck_keeps _ h
  | .ageingReport _ => execAgeingReport_keeps _ h
  | .decafEnter _ => execDecafEnter_keeps _ h
  | .fwStage _ => execFwStage_keeps _ h
  | .fwActivate _ => execFwActivate_keeps _ h
  | .fwTrialStart _ => execFwTrialStart_keeps _ h
  | .fwTrialOutcome _ _ => execFwTrialOutcome_keeps _ _ h
  | .attestGet _ => execAttestGet_keeps _ h
  | .errorLogRead _ => execErrorLogRead_keeps _ h
  | .dataFrame _ _ _ _ _ _ _ => execDataFrame_keeps _ _ _ _ _ _ _ h
  | .ackFrame _ _ _ _ _ _ _ => execAckFrame_keeps _ _ _ _ _ _ _ h
  | .connectFrame _ _ _ _ _ _ _ => execConnectFrame_keeps _ _ _ _ _ _ _ h
  | .acceptFrame _ _ _ _ _ _ _ => execAcceptFrame_keeps _ _ _ _ _ _ _ h
  | .rejectFrame _ _ _ _ _ _ _ => execRejectFrame_keeps _ _ _ _ _ _ _ h
  | .keepaliveFrame _ _ _ _ _ _ _ => execKeepaliveFrame_keeps _ _ _ _ _ _ _ h
  | .closeFrame _ _ _ _ _ _ _ => execCloseFrame_keeps _ _ _ _ _ _ _ h
  | .mkaFrame _ dst _ _ _ _ => execMkaFrame_keeps _ dst _ _ _ _ h
  | .pauseFrame _ _ _ _ => execPauseFrame_keeps _ _ _ _ h
  | .nonTransportFrame _ _ _ _ _ _ _ => execNonTransportFrame_keeps _ _ _ _ _ _ _ h
  | .ackTimer _ => execAckTimer_keeps _ h
  | .retransmitTimeout _ => execRetransmitTimeout_keeps _ h
  | .connectRetryTimer _ => execConnectRetryTimer_keeps _ h
  | .keepaliveTimer _ => execKeepaliveTimer_keeps _ h
  | .peerUnreachable _ => execPeerUnreachable_keeps _ h
  | .collectiveDone _ _ _ => execCollectiveDone_keeps _ _ _ h
  | .collectiveRestart _ _ => execCollectiveRestart_keeps _ _ h
  | .ringPassGrant _ _ => execRingPassGrant_keeps _ _ h
  | .commitExchange _ _ _ _ => execCommitExchange_keeps _ _ _ _ h
  | .blockFetchRequest _ _ _ _ => execBlockFetchRequest_keeps _ _ _ _ h
  | .blockFetchResponse _ _ _ _ _ => execBlockFetchResponse_keeps _ _ _ _ _ h
  | .portLinkUp _ => execPortLinkUp_keeps _ h
  | .portLinkDown _ _ => execPortLinkDown_keeps _ _ h
  | .trainingTimeout _ => execTrainingTimeout_keeps _ h
  | .portRetrainTimer _ => execPortRetrainTimer_keeps _ h
  | .linkCrcReplay _ _ => execLinkCrcReplay_keeps _ _ h
  | .linkRetrainTimeout _ => execLinkRetrainTimeout_keeps _ h
  | .mctpPhaseRecordRead _ => execMctpPhaseRecordRead_keeps _ h
  | .mctpBaseboardNumber _ => execMctpBaseboardNumber_keeps _ h
  | .pldmPowerLimit _ => execPldmPowerLimit_keeps _ h
  | .i3cEntdaa _ => execI3cEntdaa_keeps _ h
  | .spdmRequest _ _ _ _ => execSpdmRequest_keeps _ _ _ _ h
  | .ideKmKeyProg _ _ _ _ => execIdeKmKeyProg_keeps _ _ _ _ h
  | .kSetGo _ _ => execKSetGo_keeps _ _ h
  | .kSetStop _ _ => execKSetStop_keeps _ _ h
  | .ideCheckFailure _ => execIdeCheckFailure_keeps _ h
  | .macsecCakSet _ _ _ _ _ => execMacsecCakSet_keeps _ _ _ _ _ h
  | .debugChallenge => execDebugChallenge_keeps h
  | .debugUnlockToken _ => execDebugUnlockToken_keeps _ h
  | .pwrSample _ _ _ => execPwrSample_keeps _ _ _ h
  | .undervoltageTimer => execUndervoltageTimer_keeps h
  | .overvoltageTripTimer => execOvervoltageTripTimer_keeps h
  | .budgetLoopStep _ _ => execBudgetLoopStep_keeps _ _ h
  | .thermalSample _ _ => execThermalSample_keeps _ _ h
  | .coolingLost _ => execCoolingLost_keeps _ h
  | .ageingCheckpointDue _ _ _ => execAgeingCheckpointDue_keeps _ _ _ h
  | .slackAlarm _ _ => execSlackAlarm_keeps _ _ h
  | .ageingRecordHourly => execAgeingRecordHourly_keeps h
  | .errorLogFlashCopy => execErrorLogFlashCopy_keeps h
  | .domainIdleTimer _ _ => execDomainIdleTimer_keeps _ _ h
  | .domainStartComplete _ => execDomainStartComplete_keeps _ h
  | .mpWatchdog => execMpWatchdog_keeps h
  | .decafEntry _ => execDecafEntry_keeps _ h
  | .decafDripFlush => execDecafDripFlush_keeps h
  | .journalSpace _ _ => execJournalSpace_keeps _ _ h
  | .registerWrite _ _ _ _ _ => execRegisterWrite_keeps _ _ _ _ _ h
  | .coolModeChange _ => execCoolModeChange_keeps _ h
  | .deviceTemperature85c _ _ => execDeviceTemperature85c_keeps _ _ h
  | .serverCoreInternalError _ => execServerCoreInternalError_keeps _ h
  | .videoUnitInternalError _ => execVideoUnitInternalError_keeps _ h
  | .videoUnitRestart _ => execVideoUnitRestart_keeps _ h
  | .regulatorFault => execRegulatorFault_keeps h
  | .entropyHealthFailure => execEntropyHealthFailure_keeps h
  | .regulatorsStop => execRegulatorsStop_keeps h
  | .configurationRequest _ _ _ _ => execConfigurationRequest_keeps _ _ _ _ h
  | .msixEntryUnmask _ _ => execMsixEntryUnmask_keeps _ _ h
  | .lpddr5xInitComplete => execLpddr5xInitComplete_keeps h
  | .pfcPauseExpiry _ => execPfcPauseExpiry_keeps _ h
  | .debugPortAccess _ _ _ => execDebugPortAccess_keeps _ _ _ h

/-- The next state of a step keeps what no operation may break, next to the state whose front command has been taken. -/
theorem step_next_keeps (s : State) : ∃ t, step s = .next t ∧ Keeps { s with pending := s.pending.tail } t := by
  cases hp : s.pending with
  | nil =>
    have hs : { s with pending := [] } = s := by rw [← hp]
    exact ⟨tick s, by simp [step, hp], by rw [List.tail_nil, hs]; exact tick_keeps (.refl s)⟩
  | cons c rest =>
    obtain ⟨t, ht⟩ := exec_next c { s with pending := rest }
    have hk := exec_keeps c (Keeps.refl { s with pending := rest })
    rw [ht] at hk
    cases hk with
    | next hk => exact ⟨t, by simp only [step, hp, ht], hk⟩

/-- Settles O3: a step's next state has the queue of the state whose front command was taken, which every command keeps. -/
theorem everyStepTakesOneCommand : Obligations.EveryStepTakesOneCommand := by
  intro s
  obtain ⟨t, ht, hk⟩ := step_next_keeps s
  exact ⟨t, ht, hk.pending⟩

/-- Settles O4: taking a command leaves both memories alone, and every command keeps their canonical forms. -/
theorem everyStepKeepsMemoryCanonical : Obligations.EveryStepKeepsMemoryCanonical := by
  intro s t hs ht
  obtain ⟨u, hu, hk⟩ := step_next_keeps s
  obtain rfl : u = t := Host.Outcome.next.inj (hu.symm.trans ht)
  simp only [State.memOk, Bool.and_eq_true] at hs ⊢
  exact ⟨hk.mem hs.1, hk.host hs.2⟩

end Sys2Proof.Machine
end

section
/-! ### Ports, flows and frames: what each operation of the transport reads and changes -/

namespace Sys2Proof.Machine

/-! #### Ports -/

theorem portAt_of_lt (s : State) {i : Nat} (h : i < 16) : portAt s i = some s.ports[i] := by simp [portAt, h]

theorem portAt_modPort_same (s : State) (i : Nat) (f : Port → Port) : portAt (modPort s i f) i = (portAt s i).map f := by
  unfold modPort
  split
  · simp [portAt, *]
  · simp [portAt, *]

theorem portAt_modPort_other (s : State) {i j : Nat} (f : Port → Port) (h : j ≠ i) : portAt (modPort s i f) j = portAt s j := by
  unfold modPort
  split
  · simp [portAt, Ne.symm h]
  · rfl

@[simp] theorem portAt_modColl (s : State) (c : Nat) (f : CollEngine → CollEngine) (i : Nat) : portAt (modColl s c f) i = portAt s i := by
  simp [portAt]

theorem modColl_flows (s : State) (c : Nat) (f : CollEngine → CollEngine) : (modColl s c f).flows = s.flows := by simp

theorem collAt_modColl_same (s : State) {c : Nat} (f : CollEngine → CollEngine) : (modColl s c f).colls[c]? = (s.colls[c]?).map f := by
  unfold modColl
  split
  · simp [*]
  · simp [*]

theorem collAt_modColl_other (s : State) {c i : Nat} (f : CollEngine → CollEngine) (h : i ≠ c) :
    (modColl s c f).colls[i]? = s.colls[i]? := by
  unfold modColl
  split
  · simp [Ne.symm h]
  · rfl

/-- A change of an engine that a reading of it does not see. -/
theorem collAt_modColl_map {α : Type} (s : State) (c i : Nat) {f : CollEngine → CollEngine} {g : CollEngine → α}
    (h : ∀ x, g (f x) = g x) : ((modColl s c f).colls[i]?).map g = (s.colls[i]?).map g := by
  rcases eq_or_ne i c with rfl | hi
  · rw [collAt_modColl_same, Option.map_map]
    exact congrArg (fun k => (s.colls[i]?).map k) (funext h)
  · rw [collAt_modColl_other s f hi]

/-- An available plane is a port of this module that is usable (R332, R334). -/
theorem portAt_of_mem_flowPlanes {s : State} {f : Flow} {pl : Nat} (h : pl ∈ flowPlanes s f) :
    ∃ x, portAt s pl = some x ∧ portUsable x = true := by
  unfold flowPlanes at h
  split at h
  · cases h
  · obtain ⟨hp, -⟩ := List.mem_filter.mp h
    obtain ⟨-, hu⟩ := List.mem_filter.mp hp
    cases hx : portAt s pl with
    | none => simp [hx] at hu
    | some x => exact ⟨x, rfl, by simpa [hx] using hu⟩

theorem mem_of_nextPlane {planes : List Nat} {last pl : Nat} (h : nextPlane planes last = some pl) : pl ∈ planes := by
  unfold nextPlane at h
  split at h
  · rename_i i hi
    cases h
    exact List.mem_of_find?_eq_some hi
  · exact List.mem_of_head? h

/-! #### Flows -/

theorem flowAt_modFlow_same (s : State) (fid : Nat) (f : Flow → Flow) : flowAt (modFlow s fid f) fid = (flowAt s fid).map f :=
  mapGet_mapModify_same _ _ _

theorem flowAt_modFlow_other (s : State) {fid n : Nat} (f : Flow → Flow) (h : n ≠ fid) : flowAt (modFlow s fid f) n = flowAt s n :=
  mapGet_mapModify_other _ _ h

/-! #### Frames sent -/

@[simp] theorem emitFrame_flows (s : State) (port : Nat) (f : TFrame) : (emitFrame s port f).flows = s.flows := by
  unfold emitFrame
  split
  · rfl
  · dsimp only
    split <;> simp

theorem emitFrame_portOut {s : State} {port : Nat} {x : Port} (h : portAt s port = some x) (f : TFrame) :
    (emitFrame s port f).portOut = s.portOut ++ [{ port := port, frame := f }] := by
  simp only [emitFrame, h]
  split <;> simp

theorem sendControl_eq {s : State} {fid pl : Nat} {f : Flow} (hf : flowAt s fid = some f) (hp : (flowPlanes s f).head? = some pl)
    (type : Nat) : sendControl s fid type = emitFrame s pl (controlFrame s fid f type) := by
  simp [sendControl, hf, hp]

/-- A control frame is made of what sending a frame leaves alone. -/
theorem controlFrame_emitFrame (s : State) (port : Nat) (x : TFrame) (fid : Nat) (f : Flow) (type : Nat) :
    controlFrame (emitFrame s port x) fid f type = controlFrame s fid f type := by
  simp [controlFrame, flowLnk, domCycles]

/-- One control frame goes out on each of a list of this module's ports. -/
theorem foldl_emitFrame_controlFrame (fid : Nat) (f : Flow) (type : Nat) (planes : List Nat) (s : State) (h : ∀ pl ∈ planes, pl < 16) :
    (planes.foldl (fun t pl => emitFrame t pl (controlFrame t fid f type)) s).flows = s.flows
    ∧ (planes.foldl (fun t pl => emitFrame t pl (controlFrame t fid f type)) s).portOut
        = s.portOut ++ planes.map (fun pl => { port := pl, frame := controlFrame s fid f type }) := by
  induction planes generalizing s with
  | nil => simp
  | cons pl planes ih =>
    obtain ⟨hflows, hout⟩ := ih (emitFrame s pl (controlFrame s fid f type)) (fun p hp => h p (List.mem_cons_of_mem _ hp))
    refine ⟨by rw [List.foldl_cons, hflows, emitFrame_flows], ?_⟩
    rw [List.foldl_cons, hout, emitFrame_portOut (portAt_of_lt s (h pl (List.mem_cons_self ..)))]
    simp only [controlFrame_emitFrame, List.map_cons, List.append_assoc, List.cons_append, List.nil_append]

theorem lt_of_mem_flowPlanes {s : State} {f : Flow} {pl : Nat} (h : pl ∈ flowPlanes s f) : pl < 16 := by
  obtain ⟨x, hx, -⟩ := portAt_of_mem_flowPlanes h
  by_contra hlt
  simp [portAt, hlt] at hx

/-- A control frame sent on every plane (R348). -/
theorem sendControlAll_sends {s : State} {fid : Nat} {f : Flow} (hf : flowAt s fid = some f) (type : Nat) :
    (sendControlAll s fid type).flows = s.flows
    ∧ (sendControlAll s fid type).portOut
        = s.portOut ++ (flowPlanes s f).map (fun pl => { port := pl, frame := controlFrame s fid f type }) := by
  simp only [sendControlAll, hf]
  exact foldl_emitFrame_controlFrame fid f type _ s (fun _ => lt_of_mem_flowPlanes)

/-! #### Retransmission -/

/-- A retransmission changes only its flow's counts of frames and its list of frames sent. -/
theorem flowAt_resendPsn {s : State} {fid : Nat} {f : Flow} (hf : flowAt s fid = some f) (psn : Nat) :
    ∃ n m l, flowAt (resendPsn s fid psn) fid = some { f with txFrames := n, retxFrames := m, sent := l } := by
  simp only [resendPsn, hf]
  split
  · exact ⟨_, _, _, hf⟩
  · split
    · exact ⟨_, _, _, hf⟩
    · rw [flowAt_modFlow_same]
      simp only [flowAt, modPort_frame, emitFrame_flows]
      exact ⟨_, _, _, congrArg (Option.map _) hf⟩

/-- The frame that a retransmission sends: the stored one with flags[1] set and today's acknowledgement (R346). -/
theorem resendPsn_sends {s : State} {fid psn pl : Nat} {f : Flow} {x : SentFrame} (hf : flowAt s fid = some f)
    (hx : f.sent.find? (fun x => x.frame.psn == psn && !x.acked) = some x) (hp : nextPlane (flowPlanes s f) x.plane = some pl) :
    (resendPsn s fid psn).portOut
        = s.portOut ++ [{ port := pl, frame := stampFrame s fid f { x.frame with flags := x.frame.flags ||| 2 } }]
    ∧ (flowAt (resendPsn s fid psn) fid).map (·.retxFrames) = some (f.retxFrames + 1) := by
  obtain ⟨y, hy, -⟩ := portAt_of_mem_flowPlanes (mem_of_nextPlane hp)
  simp only [resendPsn, hf, hx, hp]
  constructor
  · simp only [modFlow_frame, modPort_frame]
    exact emitFrame_portOut hy _
  · rw [flowAt_modFlow_same]
    simp only [flowAt, modPort_frame, emitFrame_flows]
    rw [show mapGet s.flows fid = some f from hf]
    rfl

/-! #### What sending leaves of a port -/

/-- A port with its counts of sent frames left out. -/
def Port.untallied (x : Port) : Port := { x with txFrames := 0, txBytes := 0 }

/-- The ports of t are those of s but for their counts of sent frames. -/
def SamePorts (s t : State) : Prop := ∀ i, (portAt t i).map Port.untallied = (portAt s i).map Port.untallied

theorem SamePorts.refl (s : State) : SamePorts s s := fun _ => rfl

theorem SamePorts.trans {s t u : State} (a : SamePorts s t) (b : SamePorts t u) : SamePorts s u := fun i => (b i).trans (a i)

theorem SamePorts.foldl {α : Type} {f : State → α → State} (h : ∀ t x, SamePorts t (f t x)) (l : List α) (s : State) :
    SamePorts s (l.foldl f s) := by
  induction l generalizing s with
  | nil => exact .refl s
  | cons x l ih => exact (h s x).trans (ih _)

/-- What can be read of a port without its counts of sent frames is the same in both states. -/
theorem SamePorts.read {α : Type} {s t : State} (h : SamePorts s t) {g : Port → α} (hg : ∀ x, g x.untallied = g x) (i : Nat) :
    (portAt t i).map g = (portAt s i).map g := by
  have hcomp : g = g ∘ Port.untallied := funext fun x => (hg x).symm
  rw [hcomp, ← Option.map_map, ← Option.map_map, h i]

theorem emitFrame_samePorts (s : State) (port : Nat) (f : TFrame) : SamePorts s (emitFrame s port f) := by
  intro i
  unfold emitFrame
  split
  · rfl
  · have hmod (x : Port) : (portAt (modPort s port (fun y => { y with
        txFrames := y.txFrames + 1, txBytes := bump y.txBytes (wireBytes x f.payload.length) })) i).map Port.untallied
        = (portAt s i).map Port.untallied := by
      rcases eq_or_ne i port with rfl | hi
      · rw [portAt_modPort_same, Option.map_map]
        rfl
      · rw [portAt_modPort_other s _ hi]
    dsimp only
    split
    · exact (congrArg _ (portAt_modColl ..)).trans (hmod _)
    · exact hmod _

theorem pumpFlow_samePorts (n : Nat) (s : State) (fid : Nat) : SamePorts s (pumpFlow n s fid) := by
  induction n generalizing s with
  | zero => exact .refl s
  | succ n ih =>
    unfold pumpFlow
    split
    · exact .refl s
    split
    · split
      · exact .refl s
      split
      · exact .refl s
      · exact (emitFrame_samePorts s _ _).trans (ih _)
    · exact .refl s

theorem pump_samePorts (s : State) (fid : Nat) : SamePorts s (pump s fid) := pumpFlow_samePorts 256 s fid

theorem setPlanes_ports (s : State) (fid : Nat) : (setPlanes s fid).ports = s.ports := by simp

theorem setPlanes_samePorts (s : State) (fid : Nat) : SamePorts s (setPlanes s fid) := fun i => by simp [portAt]

/-- Refreshing the planes of a list of flows leaves the ports alone. -/
theorem foldl_setPlanes_ports (l : SMap Flow) (s : State) : (l.foldl (fun t e => setPlanes t e.1) s).ports = s.ports := by
  induction l generalizing s with
  | nil => rfl
  | cons e l ih => rw [List.foldl_cons, ih, setPlanes_ports]

end Sys2Proof.Machine
end

section
/-! ### Timers of flows and states of ports and die links (R25, R334, R341, R345 to R348) -/

namespace Sys2Proof.Machine

/-- A laggard record leaves the flows alone, and of a collective engine it counts only records (R358, R359). -/
theorem laggard_flows (s : State) (p q tag peer cause plane lagPm n seq wait total : Nat) :
    (laggard s p q tag peer cause plane lagPm n seq wait total).flows = s.flows := by
  unfold laggard
  dsimp only
  split <;> simp

theorem laggard_unreachable (s : State) (p q tag peer cause plane lagPm n seq wait total i : Nat) :
    ((laggard s p q tag peer cause plane lagPm n seq wait total).colls[i]?).map (·.unreachable)
      = (s.colls[i]?).map (·.unreachable) := by
  unfold laggard
  dsimp only
  split
  · exact collAt_modColl_map s _ _ (fun _ => rfl)
  · have hcount (u : State) (e : Nat) : ((modColl u e (fun c => { c with lagRecords := c.lagRecords + 1 })).colls[i]?).map
        (·.unreachable) = (u.colls[i]?).map (·.unreachable) := collAt_modColl_map u e i (fun _ => rfl)
    rw [hcount]
    simp

theorem natBit_or_two (n : Nat) : natBit (n ||| 2) 1 = true := by
  rw [natBit, Nat.testBit_or, show Nat.testBit 2 1 = true from rfl, Bool.or_true]

/-- CONNECT_RETRY_TIMER sends CONNECT again on the lowest plane (R341). -/
theorem execConnectRetryTimer_sends {s : State} {flow : BitVec 16} {f : Flow} {pl : Nat} (hf : flowAt s flow.toNat = some f)
    (hc : f.phase = .connecting) (hp : (flowPlanes s f).head? = some pl) :
    ∃ t, execConnectRetryTimer flow s = .next t ∧ t.flows = s.flows
      ∧ t.portOut = s.portOut ++ [{ port := pl, frame := controlFrame s flow.toNat f 3 }] := by
  obtain ⟨x, hx, -⟩ := portAt_of_mem_flowPlanes (List.mem_of_head? hp)
  refine ⟨sendControl s flow.toNat 3, by simp [execConnectRetryTimer, hf, hc], ?_, ?_⟩
  · rw [sendControl_eq hf hp, emitFrame_flows]
  · rw [sendControl_eq hf hp, emitFrame_portOut hx]

/-- RETRANSMIT_TIMEOUT sends tx_una again, doubles rto up to 8 ms and sets the window to 8 (R346, R347). -/
theorem execRetransmitTimeout_resends {s : State} {flow : BitVec 16} {f : Flow} (hf : flowAt s flow.toNat = some f)
    (ho : f.phase = FlowPhase.open) (hs : f.sent.any (fun x => x.frame.psn == f.txUna && !x.acked) = true) :
    ∃ t, execRetransmitTimeout flow s = .next t
      ∧ (∃ h, flowAt t flow.toNat = some h ∧ h.rto = min (2 * f.rto) 12000000 ∧ h.window = 8 ∧ h.retxRun = f.retxRun + 1
          ∧ h.txUna = f.txUna ∧ h.txNext = f.txNext)
      ∧ ∀ x pl, f.sent.find? (fun x => x.frame.psn == f.txUna && !x.acked) = some x → nextPlane (flowPlanes s f) x.plane = some pl →
        ∃ y, t.portOut = s.portOut ++ [{ port := pl, frame := y }] ∧ y.psn = f.txUna ∧ y.payload = x.frame.payload
          ∧ natBit y.flags 1 = true ∧ y.ackPsn = f.rxNext ∧ ∃ h, flowAt t flow.toNat = some h ∧ h.retxFrames = f.retxFrames + 1 := by
  obtain ⟨n, m, l, hg⟩ := flowAt_resendPsn hf f.txUna
  have ht (g : Flow → Flow) := flowAt_modFlow_same (resendPsn s flow.toNat f.txUna) flow.toNat g
  simp only [hg, Option.map_some] at ht
  refine ⟨_, by simp only [execRetransmitTimeout, hf]; rw [if_pos ⟨ho, hs⟩], ⟨_, ht _, rfl, rfl, rfl, rfl, rfl⟩, fun x pl hx hp => ?_⟩
  obtain ⟨hout, hcount⟩ := resendPsn_sends hf hx hp
  have hpsn : x.frame.psn = f.txUna := by
    have := List.find?_some hx
    simp only [Bool.and_eq_true, beq_iff_eq] at this
    exact this.1
  rw [hg] at hcount
  exact ⟨_, hout, hpsn, rfl, natBit_or_two _, rfl, _, ht _, Option.some.inj hcount⟩

/-- KEEPALIVE_TIMER sends a KEEPALIVE on every plane (R348). -/
theorem execKeepaliveTimer_sends {s : State} {flow : BitVec 16} {f : Flow} (hf : flowAt s flow.toNat = some f)
    (hp : f.phase = FlowPhase.open ∨ f.phase = .unreachable) (hw : flowWaits s f = true) (hl : 25000 ≤ aonSince s f.lastHeard) :
    ∃ t, execKeepaliveTimer flow s = .next t ∧ t.flows = s.flows
      ∧ t.portOut = s.portOut ++ (flowPlanes s f).map (fun pl => { port := pl, frame := controlFrame s flow.toNat f 6 }) :=
  ⟨_, by simp [execKeepaliveTimer, hf, hp, hw, hl], sendControlAll_sends hf 6⟩

/-- PEER_UNREACHABLE marks the flow, counts it at its engine and leaves the other flows alone (R348). -/
theorem execPeerUnreachable_marks {s : State} {flow : BitVec 16} {f : Flow} (hf : flowAt s flow.toNat = some f)
    (ho : f.phase = FlowPhase.open) (hl : 25 * flowSetting s f (·.peerTimeout) ≤ aonSince s f.lastHeard) :
    ∃ t, execPeerUnreachable flow s = .next t
      ∧ (∃ h, flowAt t flow.toNat = some h ∧ h.phase = .unreachable)
      ∧ (t.colls[flow.toNat / 10240 % 4]?).map (·.unreachable) = (s.colls[flow.toNat / 10240 % 4]?).map (·.unreachable + 1)
      ∧ ∀ n, n ≠ flow.toNat → flowAt t n = flowAt s n := by
  have hmarked (t : State) (hflows : t.flows = (modFlow s flow.toNat (fun g => { g with phase := .unreachable })).flows) :
      (∃ h, flowAt t flow.toNat = some h ∧ h.phase = .unreachable) ∧ ∀ n, n ≠ flow.toNat → flowAt t n = flowAt s n := by
    constructor
    · refine ⟨{ f with phase := .unreachable }, ?_, rfl⟩
      rw [flowAt, hflows]
      exact (flowAt_modFlow_same ..).trans (by rw [hf]; rfl)
    · intro n hn
      rw [flowAt, hflows]
      exact flowAt_modFlow_other s _ hn
  have hcount : ((modColl (modFlow s flow.toNat (fun g => { g with phase := .unreachable })) (flow.toNat / 10240 % 4)
      (fun c => { c with unreachable := c.unreachable + 1 })).colls[flow.toNat / 10240 % 4]?).map (·.unreachable)
      = (s.colls[flow.toNat / 10240 % 4]?).map (·.unreachable + 1) := by
    rw [collAt_modColl_same, Option.map_map]
    rfl
  simp only [execPeerUnreachable, hf]
  rw [if_pos ⟨ho, hl⟩]
  split
  all_goals
    obtain ⟨hm, ho⟩ := hmarked _ ((laggard_flows ..).trans (modColl_flows ..))
    exact ⟨_, rfl, hm, (laggard_unreachable ..).trans hcount, ho⟩

/-- PORT_LINK_UP opens a port that trains; the flows whose planes come back send, which leaves every port in its phase (R334). -/
theorem execPortLinkUp_opens {s : State} {port : BitVec 4} {x : Port} (hx : portAt s port.toNat = some x) (ht : x.phase = .training) :
    ∃ t, execPortLinkUp port s = .next t
      ∧ (portAt t port.toNat).map (fun y => (y.phase, y.localFault, y.remoteFault)) = some (.up, false, false)
      ∧ ∀ i, i ≠ port.toNat → (portAt t i).map (·.phase) = (portAt s i).map (·.phase) := by
  have hsend (u : State) : SamePorts u (u.flows.foldl (fun t e => pump (setPlanes t e.1) e.1) u) :=
    SamePorts.foldl (fun t _ => (setPlanes_samePorts t _).trans (pump_samePorts _ _)) _ u
  refine ⟨_, by simp only [execPortLinkUp, hx]; rw [if_pos ht], ?_, fun i hi => ?_⟩
  · rw [(hsend _).read (fun _ => rfl), portAt_modPort_same, hx]
    rfl
  · rw [(hsend _).read (fun _ => rfl), portAt_modPort_other s _ hi]

/-- PORT_LINK_DOWN closes a port that is UP: it counts the event, no flow keeps it among its planes, and no other port changes (R334). -/
theorem execPortLinkDown_closes {s : State} {port : BitVec 4} (cause : BitVec 2) {x : Port} (hx : portAt s port.toNat = some x)
    (hu : x.phase = .up) :
    ∃ t, execPortLinkDown port cause s = .next t
      ∧ (portAt t port.toNat).map (fun y => (y.phase, y.downEvents, y.localFault, y.remoteFault))
          = some (.down, x.downEvents + 1, decide (cause = 1), decide (cause = 2))
      ∧ (∀ n f, flowAt t n = some f → port.toNat ∉ flowPlanes t f)
      ∧ ∀ i, i ≠ port.toNat → portAt t i = portAt s i := by
  have hports (u : State) (i : Nat) : portAt (u.flows.foldl (fun t e => setPlanes t e.1) u) i = portAt u i := by
    rw [portAt, foldl_setPlanes_ports, portAt]
  refine ⟨_, by simp only [execPortLinkDown, hx]; rw [if_pos hu], ?_, fun n f _ hmem => ?_, fun i hi => ?_⟩
  · rw [hports, portAt_modPort_same, hx]
    rfl
  · obtain ⟨y, hy, husable⟩ := portAt_of_mem_flowPlanes hmem
    rw [hports, portAt_modPort_same, hx] at hy
    cases hy
    simp [portUsable] at husable
  · rw [hports, portAt_modPort_other s _ hi]

/-- PAUSE_FRAME is counted; it touches no flow where PFC is not obeyed, and an obeyed one of a positive time pauses the port (R334). -/
theorem execPauseFrame_counts {s : State} {port : BitVec 4} (pfc : Bool) (prio : BitVec 3) (time : BitVec 16) {x : Port}
    (hx : portAt s port.toNat = some x) (hu : x.phase = .up) :
    ∃ t, execPauseFrame port pfc prio time s = .next t
      ∧ (portAt t port.toNat).map (·.pauseFrames) = some (x.pauseFrames + 1)
      ∧ (pfc = false ∨ x.obeyPfc = false ∨ x.vlan = none → t.flows = s.flows ∧ (portAt t port.toNat).map (·.paused) = some x.paused)
      ∧ (∀ v, pfc = true → x.obeyPfc = true → x.vlan = some v → natField v 13 3 = prio.toNat → 0 < time.toNat →
          (portAt t port.toNat).map portUsable = some false) := by
  have hsend (l : SMap Flow) (u : State) : SamePorts u (l.foldl (fun t e => pump t e.1) u) :=
    SamePorts.foldl (fun t _ => pump_samePorts t _) l u
  by_cases hobey : pfc = true ∧ x.obeyPfc = true ∧ ∃ v, x.vlan = some v ∧ natField v 13 3 = prio.toNat
  · obtain ⟨rfl, ho, v, hv, hprio⟩ := hobey
    by_cases hzero : time.toNat = 0
    · refine ⟨_, by simp only [execPauseFrame, hx, hu, ho, hv, hprio, hzero, beq_self_eq_true]; rfl, ?_, fun h => ?_,
        fun v _ _ _ _ hpos => absurd hzero hpos.ne'⟩
      · rw [(hsend _ _).read (fun _ => rfl), portAt_modPort_same, portAt_modPort_same, hx]
        rfl
      · simp [ho, hv] at h
    · refine ⟨_, by simp only [execPauseFrame, hx, hu, ho, hv, hprio, hzero, beq_self_eq_true]; rfl, ?_, fun h => ?_,
        fun _ _ _ _ _ _ => ?_⟩
      · rw [portAt_modPort_same, portAt_modPort_same, hx]
        rfl
      · simp [ho, hv] at h
      · rw [portAt_modPort_same, portAt_modPort_same, hx]
        simp [portUsable]
  · have hplain : execPauseFrame port pfc prio time s =
        .next (modPort s port.toNat (fun y => { y with pauseFrames := y.pauseFrames + 1, rxFrames := y.rxFrames + 1 })) := by
      simp only [execPauseFrame, hx, hu, ne_eq, not_true_eq_false, if_false]
      cases hv : x.vlan with
      | none => simp
      | some v => exact if_neg (fun h => hobey ⟨h.1, h.2.1, v, hv, by simpa using h.2.2⟩)
    refine ⟨_, hplain, ?_, fun _ => ⟨by simp, ?_⟩, fun v hp ho hv hprio _ => absurd ⟨hp, ho, v, hv, hprio⟩ hobey⟩
    all_goals
      rw [portAt_modPort_same, hx]
      rfl

/-- PFC_PAUSE_EXPIRY ends the pause; the flows that send then leave it so (R334). -/
theorem execPfcPauseExpiry_ends {s : State} {port : BitVec 4} {x : Port} (hx : portAt s port.toNat = some x) :
    ∃ t, execPfcPauseExpiry port s = .next t ∧ (portAt t port.toNat).map (·.paused) = some none := by
  refine ⟨_, rfl, ?_⟩
  rw [(SamePorts.foldl (fun t e => pump_samePorts t _) _ _).read (fun _ => rfl), portAt_modPort_same, hx]
  rfl

/-- LINK_CRC_REPLAY counts each replay; the sixteenth of one flit is a fault of the link (R25). -/
theorem execLinkCrcReplay_eq (s : State) {link : BitVec 6} (run : BitVec 5) (h : link.toNat < 44) :
    execLinkCrcReplay link run s =
      .next (if run.toNat < 16 then { s with linkReplays := s.linkReplays.set link.toNat (s.linkReplays[link.toNat] + 1) }
        else moduleFault { s with linkReplays := s.linkReplays.set link.toNat (s.linkReplays[link.toNat] + 1) } 0xFF 0x0401 link.toNat) := by
  rcases Nat.lt_or_ge run.toNat 16 with hr | hr
  · simp [execLinkCrcReplay, h, hr]
  · simp [execLinkCrcReplay, h, hr, Nat.not_lt.mpr hr]

/-- Settles O55: each timer, each port state and each link event by the lemma about its command. -/
theorem flowTimersAndPorts : Obligations.FlowTimersAndPorts := by
  intro s flow port cause link run pfc prio time
  refine ⟨fun f hf => ⟨?ack, fun pl hc hp => execConnectRetryTimer_sends hf hc hp, fun hc => ?connected, execRetransmitTimeout_resends hf,
      fun hs => ?nothingSent, execKeepaliveTimer_sends hf, fun hl => ?heardLately, execPeerUnreachable_marks hf, fun hl => ?notSilent⟩,
    fun x hx => ⟨execPortLinkUp_opens hx, execPortLinkDown_closes cause hx, fun ht => ?attempt, fun hd => ?retrain, fun ht => ?notTraining,
      fun hu => ?notUp, fun hd => ?notDown, execPauseFrame_counts pfc prio time hx, execPfcPauseExpiry_ends hx⟩,
    fun h => ⟨execLinkCrcReplay_eq s run h, congrArg _ (if_pos h)⟩⟩
  case ack =>
    show execAckTimer flow s = _
    simp [execAckTimer, hf]
  case connected =>
    show execConnectRetryTimer flow s = _
    simp [execConnectRetryTimer, hf, hc]
  case nothingSent =>
    show execRetransmitTimeout flow s = _
    simp [execRetransmitTimeout, hf, hs]
  case heardLately =>
    show execKeepaliveTimer flow s = _
    simp [execKeepaliveTimer, hf, Nat.not_le.mpr hl]
  case notSilent =>
    show execPeerUnreachable flow s = _
    simp only [execPeerUnreachable, hf]
    rw [if_neg (fun hd => Nat.not_le.mpr hl hd.2)]
  case attempt =>
    show execTrainingTimeout port s = _
    simp [execTrainingTimeout, hx, ht]
  case retrain =>
    show execPortRetrainTimer port s = _
    simp [execPortRetrainTimer, hx, hd]
  case notTraining =>
    show execPortLinkUp port s = _ ∧ execTrainingTimeout port s = _
    simp [execPortLinkUp, execTrainingTimeout, hx, ht]
  case notUp =>
    show execPortLinkDown port cause s = _
    simp [execPortLinkDown, hx, hu]
  case notDown =>
    show execPortRetrainTimer port s = _
    simp [execPortRetrainTimer, hx, hd]

end Sys2Proof.Machine
end

section
/-! ### Writes of T1 ranges that no cache holds -/

namespace Sys2Proof.Machine

theorem usableBytes_le (s : State) : usableBytes s ≤ 0x20000000000 := by
  unfold usableBytes
  split <;> decide

/-- An address of usable T1 is its own place (R33). -/
theorem placeOf_t1 {s : State} {a : Nat} (h : a < usableBytes s) : placeOf s a = .t1 a := by
  have hd : decodeAddr s a = .lpddr a := by
    rw [decodeAddr, if_pos (Nat.lt_of_lt_of_le h (usableBytes_le s)), if_pos h]
  simp only [placeOf, hd]

/-- Bytes written to usable T1 go to memory. -/
theorem putAt_t1 {s : State} {a : Nat} {bs : List Byte} (h : a + bs.length ≤ usableBytes s) :
    putAt s a bs = { s with mem := memPutBytes s.mem a bs } := by
  induction bs generalizing s a with
  | nil => rfl
  | cons b bs ih =>
    simp only [List.length_cons] at h
    rw [putAt, placeOf_t1 (by omega)]
    exact ih (s := placePut s (.t1 a) b) (by simp only [placePut]; exact (by omega : a + 1 + bs.length ≤ usableBytes s))

/-- Nothing to recall where no line of the range is held. -/
theorem recallRange_eq_self {s : State} {a n : Nat} (h : ∀ lid ∈ lidsOf a n, lineHeld s lid = false) : recallRange s a n = s := by
  unfold recallRange
  split
  · generalize lidsOf a n = l at h
    induction l with
    | nil => rfl
    | cons lid l ih =>
      rw [List.foldl_cons, h lid (List.mem_cons_self ..)]
      exact ih (fun x hx => h x (List.mem_cons_of_mem _ hx))
  · rfl

/-- The transaction test of `flightLine`, which refreshing a transaction's data does not change. -/
theorem flightLine_refreshFlights {s : State} {lid : Nat} (a n : Nat) (h : flightLine s lid = none) :
    flightLine (refreshFlights s a n) lid = none := by
  unfold refreshFlights
  split
  · exact h
  · unfold flightLine at h ⊢
    rw [Option.bind_eq_none_iff] at h ⊢
    intro t ht
    exfalso
    have hmem := List.mem_of_find?_eq_some ht
    have hhit := List.find?_some ht
    simp only [Vector.toList_map, List.flatMap_map, List.mem_flatMap, List.mem_map] at hmem
    obtain ⟨x, hx, u, hu, rfl⟩ := hmem
    have hhit' : (u.lid == lid && u.dirty && !u.acking && u.data.isSome) = true := by
      split at hhit
      · rename_i hc
        simp only [Bool.and_eq_true] at hhit ⊢
        exact ⟨hhit.1, hc.1⟩
      · exact hhit
    cases hf : (s.homes.toList.flatMap (fun y => y.txns)).find? (fun t => t.lid == lid && t.dirty && !t.acking && t.data.isSome) with
    | none =>
      exact absurd hhit' (by simpa using List.find?_eq_none.mp hf u (List.mem_flatMap.mpr ⟨x, hx, hu⟩))
    | some w =>
      have hw := List.find?_some hf
      have hnone := h w hf
      simp only [Option.map_eq_none_iff] at hnone
      simp [hnone] at hw

/-- What a line no cache holds comes to: no cached copy, no data on its way. -/
theorem lineHeld_eq_false {s : State} {lid : Nat} :
    lineHeld s lid = false ↔ (∀ a < 9, cachedLine s a lid = none) ∧ flightLine s lid = none := by
  simp [lineHeld, Option.isSome_eq_false_iff]

theorem dirtyOwner_of_not_held {s : State} {lid : Nat} (hc : ∀ a < 9, cachedLine s a lid = none) (hf : flightLine s lid = none) :
    dirtyOwner s lid = none := by
  have hnil : (List.range 9).filterMap (fun a => cachedLine s a lid) = [] :=
    List.filterMap_eq_nil_iff.mpr (fun a ha => hc a (List.mem_range.mp ha))
  simp [dirtyOwner, hnil, hf]

/-- A line of the range that an address lies in. -/
theorem lidOf_mem_lidsOf {a n i : Nat} (ha : a + n ≤ 0x20000000000) (hi : i < n) : lidOf (a + i) ∈ lidsOf a n := by
  have hlow (x : Nat) (hx : x < 0x20000000000) : lidOf x = x / 64 := by
    rw [lidOf, if_pos (Nat.lt_of_lt_of_le hx (by decide))]
  rw [lidsOf, if_neg (by omega), hlow a (by omega), hlow (a + n - 1) (by omega), hlow (a + i) (by omega)]
  exact List.mem_map.mpr ⟨(a + i) / 64 - a / 64, List.mem_range.mpr (by omega), by omega⟩

/-- A write of the module to a quiet T1 range changes its bytes in memory and no cached copy (R42, R378). -/
theorem moduleWrite_quiet {s : State} {p a : Nat} {bs : List Byte} (q : Quiet s p a bs.length) :
    (moduleWrite s a bs).mem = memPutBytes s.mem a bs ∧ (moduleWrite s a bs).caches = s.caches
    ∧ ∀ lid, flightLine s lid = none → flightLine (moduleWrite s a bs) lid = none := by
  have hu : a + bs.length ≤ usableBytes s := by
    have := q.owned
    simp only [ownsT1, Bool.and_eq_true, decide_eq_true_eq] at this
    exact this.1
  have hw : moduleWrite s a bs = cohWrite s a bs := by
    have hlt : a < usableBytes s := by have := q.nonempty; omega
    simp only [moduleWrite, placeOf_t1 hlt]
  have hclear (t : State) : (clearPoison t a bs.length).mem = t.mem ∧ (clearPoison t a bs.length).caches = t.caches
      ∧ (clearPoison t a bs.length).homes = t.homes := by
    unfold clearPoison
    split <;> exact ⟨rfl, rfl, rfl⟩
  have hdrop (t : State) : (dropReservations t a bs.length).mem = t.mem ∧ (dropReservations t a bs.length).caches = t.caches
      ∧ (dropReservations t a bs.length).homes = t.homes := by
    unfold dropReservations
    split <;> exact ⟨rfl, rfl, rfl⟩
  have hrefresh (t : State) : (refreshFlights t a bs.length).mem = t.mem ∧ (refreshFlights t a bs.length).caches = t.caches := by
    unfold refreshFlights
    split <;> exact ⟨rfl, rfl⟩
  rw [hw]
  simp only [cohWrite, recallRange_eq_self q.uncached, putAt_t1 hu]
  refine ⟨?_, ?_, fun lid hf => ?_⟩
  · rw [(hclear _).1, (hdrop _).1, (hrefresh _).1]
  · rw [(hclear _).2.1, (hdrop _).2.1, (hrefresh _).2]
  · unfold flightLine
    rw [(hclear _).2.2, (hdrop _).2.2]
    exact flightLine_refreshFlights a bs.length (s := { s with mem := memPutBytes s.mem a bs }) hf

/-- What the module has written to a quiet T1 range reads back, in every state of the same memory and caches. -/
theorem cohRead_moduleWrite_quiet {s t : State} {p a : Nat} {bs : List Byte} (q : Quiet s p a bs.length) (hs : s.memOk = true)
    (hbig : t.big = s.big) (hmem : t.mem = (moduleWrite s a bs).mem) (hcaches : t.caches = (moduleWrite s a bs).caches)
    (hhomes : t.homes = (moduleWrite s a bs).homes) : cohRead t a bs.length = bs := by
  obtain ⟨hm, hc, hf⟩ := moduleWrite_quiet q
  have hwf : memWf s.mem = true := by
    simp only [State.memOk, Bool.and_eq_true] at hs
    exact hs.1
  have hu : a + bs.length ≤ usableBytes s := by
    have := q.owned
    simp only [ownsT1, Bool.and_eq_true, decide_eq_true_eq] at this
    exact this.1
  have husable : usableBytes t = usableBytes s := by simp only [usableBytes, hbig]
  have hbyte (i : Nat) (hi : i < bs.length) : latestByte t (a + i) = memByte t.mem (a + i) := by
    have hle := usableBytes_le s
    obtain ⟨hcached, hflight⟩ := lineHeld_eq_false.mp (q.uncached _ (lidOf_mem_lidsOf (by omega) hi))
    have howner : dirtyOwner t (lidOf (a + i)) = none := by
      refine dirtyOwner_of_not_held (fun g hg => ?_) ?_
      · simp only [cachedLine, hcaches, hc]
        exact hcached g hg
      · have := hf _ hflight
        simp only [flightLine, hhomes] at this ⊢
        exact this
    have hplace : placeOf t (a + i) = .t1 (a + i) := placeOf_t1 (by omega)
    simp only [latestByte, howner, hplace, placeByte, ite_self]
  rw [← memBytes_memPutBytes (a := a) (m := s.mem) bs hwf, ← hm, ← hmem]
  simp only [cohRead, memBytes, List.length_map, List.length_range]
  exact List.map_congr_left (fun i hi => hbyte i (List.mem_range.mp hi))

/-- The crema pair of a value reads back from its bytes (R12, R13). -/
theorem cp32At_cp32Bytes (v : Nat) : cp32At (cp32Bytes v) 0 = some (v % 2 ^ 32) := by
  have hslice : sliceBytes (cp32Bytes v) 0 8 = cp32Bytes v := by
    apply List.ext_getElem
    · simp [sliceBytes, cp32Bytes]
    · intro i h1 h2
      simp [sliceBytes, List.getElem?_eq_getElem h2]
  have hval : BitVec.ofNat 64 (fieldAt (cp32Bytes v) 0 8) = cp32 (BitVec.ofNat 32 v) := by
    rw [fieldAt, hslice, cp32Bytes, bytesToNat_natToBytes]
    exact BitVec.eq_of_toNat_eq (by simpa using BitVec.isLt (cp32 (BitVec.ofNat 32 v)))
  rw [cp32At, hval, cp32Value_cp32]
  rfl

end Sys2Proof.Machine
end

section
/-! ### Decaf mode (R460, R466, R468): what its entry and its drip flush leave -/

namespace Sys2Proof.Machine

/-- What no turn of a loop changes, the loop does not change. -/
theorem foldl_read {α β : Type} {f : State → α → State} (g : State → β) (h : ∀ t x, g (f t x) = g t) (l : List α) (s : State) :
    g (l.foldl f s) = g s := by
  induction l generalizing s with
  | nil => rfl
  | cons x l ih => rw [List.foldl_cons, ih, h]

/-! #### Server cores across writes of memory -/

/-- No server core is released. -/
def NoneReleased (s : State) : Prop := ∀ h ∈ s.harts.toList, h.released = false

theorem NoneReleased.of_harts {s t : State} (h : NoneReleased s) (ht : t.harts = s.harts) : NoneReleased t := by
  rw [NoneReleased, ht]
  exact h

theorem placePut_harts (s : State) (pl : Place) (b : Byte) : (placePut s pl b).harts = s.harts := by
  unfold placePut
  split <;> rfl

theorem putAt_harts (s : State) (a : Nat) (bs : List Byte) : (putAt s a bs).harts = s.harts := by
  induction bs generalizing s a with
  | nil => rfl
  | cons b bs ih => rw [putAt, ih, placePut_harts]

theorem dropCopies_harts (s : State) (lid : Nat) : (dropCopies s lid).harts = s.harts := by
  simp only [dropCopies, modHome_frame]
  exact foldl_read (·.harts) (fun t a => (rfl : (dropLine t a lid).harts = t.harts)) _ s

theorem recallLine_harts (s : State) (lid : Nat) : (recallLine s lid).harts = s.harts := by
  unfold recallLine
  rw [dropCopies_harts]
  split
  · rfl
  · exact putAt_harts ..

theorem recallRange_harts (s : State) (a n : Nat) : (recallRange s a n).harts = s.harts := by
  unfold recallRange
  split
  · refine foldl_read (·.harts) (fun t lid => ?_) _ s
    split
    · exact recallLine_harts t lid
    · rfl
  · rfl

/-- A write of memory takes reservations of the harts, and nothing else of theirs. -/
theorem cohWrite_noneReleased {s : State} (a : Nat) (bs : List Byte) (h : NoneReleased s) : NoneReleased (cohWrite s a bs) := by
  have hclear (t : State) (n : Nat) : (clearPoison t a n).harts = t.harts := by
    unfold clearPoison
    split <;> rfl
  have hrefresh (t : State) (n : Nat) : (refreshFlights t a n).harts = t.harts := by
    unfold refreshFlights
    split <;> rfl
  have hdrop (t : State) (n : Nat) (ht : NoneReleased t) : NoneReleased (dropReservations t a n) := by
    unfold dropReservations
    split
    · exact ht
    · intro x hx
      rw [Vector.toList_map, List.mem_map] at hx
      obtain ⟨y, hy, rfl⟩ := hx
      split
      · split
        · exact ht y hy
        · exact ht y hy
      · exact ht y hy
  refine NoneReleased.of_harts (hdrop _ bs.length (h.of_harts ?_)) (hclear _ _)
  rw [hrefresh, putAt_harts, recallRange_harts]

theorem moduleWrite_noneReleased {s : State} (a : Nat) (bs : List Byte) (h : NoneReleased s) : NoneReleased (moduleWrite s a bs) := by
  unfold moduleWrite
  split
  · exact h
  · exact cohWrite_noneReleased a bs h

theorem ringWrite_noneReleased {s : State} (r : Ring) (ty : Nat) (body : List Byte) (h : NoneReleased s) :
    NoneReleased (ringWrite s r ty body).1 := by
  by_cases hr : r.off + (pad64 (zeros 16 ++ body)).length ≤ r.size <;> simp only [ringWrite, hr, if_true, if_false]
  · exact moduleWrite_noneReleased _ _ h
  · exact moduleWrite_noneReleased _ _ (moduleWrite_noneReleased _ _ h)

theorem telemetryPf0_noneReleased {s : State} (ty : Nat) (body : List Byte) (h : NoneReleased s) :
    NoneReleased (telemetryPf0 s ty body) := by
  unfold telemetryPf0
  split
  · exact h
  · exact (ringWrite_noneReleased _ ty body h).of_harts rfl

theorem telemetryPf0_cores (s : State) (ty : Nat) (body : List Byte) : (telemetryPf0 s ty body).cores = s.cores := by
  unfold telemetryPf0
  split
  · rfl
  · exact (ringWrite_memOnly s _ ty body).cores

/-! #### Entry -/

theorem countFault_decaf (f : FaultBlock) (cls code : Nat) : (countFault f cls code).decaf = f.decaf := by
  unfold countFault
  split
  all_goals first | rfl | (split <;> rfl)

theorem logError_decaf (s : State) (cls die code part queue status addr detail : Nat) :
    (logError s cls die code part queue status addr detail).fault.decaf = s.fault.decaf := by
  simp only [logError, countFault_decaf]

theorem setDomains_lost (s : State) (codes : List Nat) (ph : DomPhase) :
    (setDomains s codes ph).cores = s.cores ∧ (setDomains s codes ph).spills = s.spills ∧ (setDomains s codes ph).ports = s.ports
    ∧ (setDomains s codes ph).harts = s.harts ∧ (setDomains s codes ph).fault = s.fault := by
  unfold setDomains
  exact ⟨foldl_read (·.cores) (fun _ _ => by simp) _ s, foldl_read (·.spills) (fun _ _ => by simp) _ s,
    foldl_read (·.ports) (fun _ _ => by simp) _ s, foldl_read (·.harts) (fun _ _ => by simp) _ s,
    foldl_read (·.fault) (fun _ _ => by simp) _ s⟩

theorem recallAll_fault (s : State) : (recallAll s).fault = s.fault :=
  foldl_read (·.fault) (fun t lid => (recallLine_memOnly t lid).fault) _ s

/-- The cores, their windows' spills, the ports and the server cores of a state in which every unit has stopped. -/
structure UnitsStopped (s : State) : Prop where
  cores : s.cores = []
  spills : s.spills = []
  ports : ∀ x ∈ s.ports.toList, x.phase = .disabled
  harts : NoneReleased s

theorem stopUnits_stopped (s : State) : UnitsStopped (stopUnits s) := by
  unfold stopUnits
  obtain ⟨hcores, hspills, hports, hharts, -⟩ := setDomains_lost { loseWindows (recallAll s) with
    harts := Vector.replicate 64 Hart.reset,
    ports := (loseWindows (recallAll s)).ports.map (fun x => { x with phase := .disabled, secured := false }) }
    ((List.range 4).map (7 + ·) ++ (List.range 20).map (12 + ·) ++ (List.range 4).map (36 + ·)) .off
  refine ⟨hcores, hspills, fun x hx => ?_, fun h hh => ?_⟩
  · rw [hports, Vector.toList_map, List.mem_map] at hx
    obtain ⟨y, -, rfl⟩ := hx
    rfl
  · rw [hharts, Vector.toList_replicate] at hh
    rw [List.eq_of_mem_replicate hh]
    rfl

theorem stopUnits_fault (s : State) : (stopUnits s).fault = s.fault :=
  (setDomains_lost ..).2.2.2.2.trans (recallAll_fault s)

/-- The notice and the state records of Decaf entry come after the units have stopped and start none again (R463, R468). -/
theorem decafNotice_stopped {s : State} (code : Nat) (h : UnitsStopped s) :
    UnitsStopped (decafNotice (writeStateRecords s code) code) where
  cores := (telemetryPf0_cores ..).trans h.cores
  spills := by simpa [decafNotice, writeStateRecords] using h.spills
  ports := by simpa [decafNotice, writeStateRecords] using h.ports
  harts := telemetryPf0_noneReleased _ _ (h.harts.of_harts rfl)

theorem endSessions_fault (s : State) (status : Nat) (t : Nat → VideoSession → Bool) :
    (endSessions s status t).fault = s.fault := by
  simp [endSessions]

/-- A fault of module class in Decaf mode is only logged (R466). -/
theorem enterDecaf_again {s : State} (h : s.fault.decaf.isSome = true) (die cd a0 dt : Nat) :
    enterDecaf s die cd a0 dt = logError s 6 die cd 0xFF 0xFFFF 0 a0 dt := by
  rw [enterDecaf, if_pos (by rw [logError_decaf]; exact h)]

/-- Decaf entry stops every unit and keeps the code as the cause (R466). -/
theorem enterDecaf_first {s : State} (h : s.fault.decaf = none) (die cd a0 dt : Nat) :
    UnitsStopped (enterDecaf s die cd a0 dt)
    ∧ (enterDecaf s die cd a0 dt).fault.decaf.map (·.cause) = some cd ∧ (enterDecaf s die cd a0 dt).fault.causeCode = cd
    ∧ (enterDecaf s die cd a0 dt).flash.decaf.map (·.cause) = some cd := by
  have hnone : ¬ (logError s 6 die cd 0xFF 0xFFFF 0 a0 dt).fault.decaf.isSome = true := by simp [logError_decaf, h]
  rw [enterDecaf, if_neg hnone]
  refine ⟨decafNotice_stopped cd (stopUnits_stopped _), ?_, ?_, ?_⟩
  · simp [decafNotice, writeStateRecords, stopUnits_fault, endSessions_fault]
  · simp [decafNotice, writeStateRecords, stopUnits_fault, endSessions_fault]
  · simp [decafNotice, writeStateRecords]

theorem moduleFault_eq_enterDecaf {s : State} (h : powered s = true ∧ s.life.running = true) (die code detail : Nat) :
    moduleFault s die code detail = enterDecaf s die code 0 detail := if_pos h

theorem moduleFault_eq_self {s : State} (h : ¬ (powered s = true ∧ s.life.running = true)) (die code detail : Nat) :
    moduleFault s die code detail = s := if_neg h

/-- DECAF_ENTRY is a fault of module class where its code is one of class 6 (R466). -/
theorem execDecafEntry_module {code : BitVec 16} (h : code.toNat ∈ moduleCodes) (s : State) :
    execDecafEntry code s = .next (moduleFault s 0xFF code.toNat 0) :=
  congrArg _ (if_pos (List.contains_iff_mem.mpr h))

theorem execDecafEntry_other {code : BitVec 16} (h : code.toNat ∉ moduleCodes) (s : State) : execDecafEntry code s = .next s :=
  congrArg _ (if_neg (fun hc => h (List.contains_iff_mem.mp hc)))

theorem execDecafEntry_not_running {s : State} (code : BitVec 16) (h : ¬ (powered s = true ∧ s.life.running = true)) :
    execDecafEntry code s = .next s := by
  by_cases hc : code.toNat ∈ moduleCodes
  · rw [execDecafEntry_module hc, moduleFault_eq_self h]
  · exact execDecafEntry_other hc s

/-! #### The drip flush -/

theorem dripPut_fault {s t : State} {p : Nat} {r : List Byte} (h : dripPut s p r = some t) : t.fault = s.fault := by
  unfold dripPut at h
  split at h
  · cases h
  · rw [Option.ite_none_right_eq_some] at h
    obtain ⟨-, h⟩ := h
    cases h
    simp only [modDrip_frame, moduleWrite_frame, apply_ite State.fault, ite_self]

theorem drainReady_fault (n : Nat) (s : State) (p : Nat) : (drainReady n s p).fault = s.fault := by
  induction n generalizing s with
  | zero => rfl
  | succ n ih =>
    unfold drainReady
    split
    · rfl
    · split
      · rfl
      · split
        · rfl
        · rename_i t ht
          rw [ih, (modDrip_frame ..).2.2.2.2.2.2.2.2.2.2.1]
          exact dripPut_fault ht

theorem drainDrip_fault (s : State) (p : Nat) : (drainDrip s p).fault = s.fault := drainReady_fault _ s p

theorem flushDrip_fault (s : State) (p : Nat) : (flushDrip s p).fault = s.fault := by
  unfold flushDrip
  split
  · rfl
  · split
    · rfl
    · split
      · rfl
      · rw [drainDrip_fault]
        simp

theorem execDecafDripFlush_outside {s : State} (h : s.fault.decaf = none) : execDecafDripFlush s = .next s := by
  simp only [execDecafDripFlush, h]

theorem execDecafDripFlush_done {s : State} {d : Decaf} (hd : s.fault.decaf = some d) (hf : d.flushDone = true) :
    execDecafDripFlush s = .next s := by
  simp only [execDecafDripFlush, hd, hf, if_true]

/-- DECAF_DRIP_FLUSH runs until no stream's records wait for room (R468). -/
theorem execDecafDripFlush_runs {s : State} {d : Decaf} (hd : s.fault.decaf = some d) (hf : d.flushDone = false) :
    ∃ t, execDecafDripFlush s = .next t
      ∧ t.fault.decaf = some { d with flushRunning := dripWaits t, flushDone := !dripWaits t } := by
  have hset (u : State) (r f : Bool) (hu : u.fault = s.fault) :
      (setFlush u r f).fault.decaf = some { d with flushRunning := r, flushDone := f } ∧ dripWaits (setFlush u r f) = dripWaits u := by
    refine ⟨?_, rfl⟩
    simp only [setFlush, hu, hd, Option.map_some]
  have hkept : (if d.flushRunning = true then (mapKeys s.partitions).foldl drainDrip s else (mapKeys s.partitions).foldl flushDrip s).fault
      = s.fault := by
    split
    · exact foldl_read (·.fault) drainDrip_fault _ s
    · exact foldl_read (·.fault) flushDrip_fault _ s
  simp only [execDecafDripFlush, hd, hf, Bool.false_eq_true, if_false]
  generalize (if d.flushRunning = true then (mapKeys s.partitions).foldl drainDrip s else (mapKeys s.partitions).foldl flushDrip s) = u
    at hkept
  cases hw : dripWaits u with
  | false =>
    obtain ⟨hdecaf, hwaits⟩ := hset u false true hkept
    exact ⟨_, rfl, by rw [if_neg Bool.false_ne_true, hwaits, hw]; exact hdecaf⟩
  | true =>
    obtain ⟨hdecaf, hwaits⟩ := hset u true false hkept
    exact ⟨_, rfl, by rw [if_pos rfl, hwaits, hw]; exact hdecaf⟩

end Sys2Proof.Machine
end

section
/-! ### Scrubbing, clock domains, video units, journal space and register writes
(R38, R162, R163, R387, R395, R435, R439 to R441, R461, R473) -/

namespace Sys2Proof.Machine

/-! #### Scrubbing -/

theorem t1Channel_lt (a : Nat) : t1Channel a < 128 := by
  have hf (x lo w : Nat) (hw : w ≤ 7) : natField x lo w < 2 ^ 7 :=
    Nat.lt_of_lt_of_le (natField_lt x lo w) (Nat.pow_le_pow_right (by decide) hw)
  exact Nat.xor_lt_two_pow (Nat.xor_lt_two_pow (Nat.xor_lt_two_pow (hf _ 0 7 (by decide)) (hf _ 7 7 (by decide)))
    (hf _ 14 7 (by decide))) (hf _ 21 4 (by decide))

theorem channelAt_modChannel_same (s : State) (c : Nat) (f : Channel → Channel) :
    (modChannel s c f).channels[c]? = (s.channels[c]?).map f := by
  unfold modChannel
  split
  · simp [*]
  · simp [*]

theorem logError_nextEntry (s : State) (cls die code part queue status addr detail : Nat) :
    (logError s cls die code part queue status addr detail).fault.nextEntry = (s.fault.nextEntry + 1) % 2 ^ 32 := by
  simp only [logError]

/-- The channel count that a scrub outcome advances. -/
theorem count_modChannel {α : Type} (s : State) (c : Nat) {f : Channel → Channel} {g h : Channel → α} (hg : ∀ x, g (f x) = h x) :
    ((modChannel s c f).channels[c]?).map g = (s.channels[c]?).map h := by
  rw [channelAt_modChannel_same, Option.map_map]
  exact congrArg (fun k => (s.channels[c]?).map k) (funext hg)

/-- A corrected error is counted, and logged at each 65,536th of its channel (R162, R460). -/
theorem execPatrolScrub_corrected {s : State} {addr : BitVec 56} {out : BitVec 2} (h : addr.toNat < usableBytes s) (ho : out = 1) :
    ∃ t, execPatrolScrub addr out s = .next t
      ∧ (t.channels[t1Channel addr.toNat]?).map (·.eccCorr) = (s.channels[t1Channel addr.toNat]?).map (fun x => x.eccCorr + 1)
      ∧ t.mem = s.mem ∧ t.poison = s.poison
      ∧ ((t.channels[t1Channel addr.toNat]?).map (fun x => x.eccCorr.toNat % 65536) ≠ some 0 → t.fault = s.fault) := by
  subst ho
  have hcount := count_modChannel s (t1Channel addr.toNat) (f := fun c => { c with eccCorr := c.eccCorr + 1 }) (g := (·.eccCorr))
    (h := fun x => x.eccCorr + 1) (fun _ => rfl)
  simp only [execPatrolScrub, Nat.not_le.mpr h, if_false, if_true]
  split
  · rename_i hlog
    refine ⟨_, rfl, by simpa using hcount, by simp, by simp, fun hne => absurd ?_ hne⟩
    simp only [logError_frame]
    rw [channelAt_modChannel_same, Vector.getElem?_eq_getElem (t1Channel_lt _)] at hlog ⊢
    simpa using hlog
  · exact ⟨_, rfl, hcount, by simp, by simp, fun _ => by simp⟩

/-- An uncorrectable error is counted and logged, and poisons its line (R162, R461). -/
theorem execPatrolScrub_uncorrectable {s : State} {addr : BitVec 56} {out : BitVec 2} (h : addr.toNat < usableBytes s)
    (ho : out = 2) :
    ∃ t, execPatrolScrub addr out s = .next t
      ∧ (t.channels[t1Channel addr.toNat]?).map (·.eccUncorr) = (s.channels[t1Channel addr.toNat]?).map (fun x => x.eccUncorr + 1)
      ∧ addr.toNat / 64 * 64 ∈ t.poison ∧ t.fault.nextEntry = (s.fault.nextEntry + 1) % 2 ^ 32 := by
  subst ho
  have hpoison (u : State) : addr.toNat / 64 * 64 ∈ (poisonLine u addr.toNat).poison := by
    by_cases hin : addr.toNat / 64 * 64 ∈ u.poison
    · simp [poisonLine, drawBytes, hin]
    · simp [poisonLine, drawBytes, hin]
  simp only [execPatrolScrub, Nat.not_le.mpr h, if_false]
  refine ⟨_, rfl, ?_, ?_, ?_⟩
  · simp only [logError_frame, poisonLine_frame]
    exact count_modChannel s _ (fun _ => rfl)
  · simp only [logError_frame]
    exact hpoison _
  · rw [logError_nextEntry]
    simp

theorem execPatrolScrub_outside {s : State} {addr : BitVec 56} (out : BitVec 2) (h : usableBytes s ≤ addr.toNat) :
    execPatrolScrub addr out s = .next s := if_pos h

theorem execPatrolScrub_clean {s : State} {addr : BitVec 56} {out : BitVec 2} (h : addr.toNat < usableBytes s) (ho : out = 0) :
    execPatrolScrub addr out s = .next s := by
  subst ho
  exact if_neg (Nat.not_le.mpr h)

/-- The end of a scrubbing pass is counted (R162). -/
theorem execPatrolScrub_pass {s : State} {addr : BitVec 56} {out : BitVec 2} (h : addr.toNat < usableBytes s) (ho : out = 3) :
    ∃ t, execPatrolScrub addr out s = .next t
      ∧ (t.channels[t1Channel addr.toNat]?).map (·.scrubPasses) = (s.channels[t1Channel addr.toNat]?).map (fun x => x.scrubPasses + 1)
      ∧ t.mem = s.mem ∧ t.fault = s.fault := by
  subst ho
  exact ⟨modChannel s (t1Channel addr.toNat) (fun c => { c with scrubPasses := c.scrubPasses + 1 }), if_neg (Nat.not_le.mpr h),
    count_modChannel s _ (fun _ => rfl), by simp, by simp⟩

/-- DEVICE_TEMPERATURE_85C sets its device's bit and no other (R163). -/
theorem execDeviceTemperature85c_derates {s : State} (dev : BitVec 5) (hot : Bool) (hp : powered s = true) :
    ∃ t, execDeviceTemperature85c dev hot s = .next t ∧ ∀ i, i < 32 →
      t.derated.getLsbD i = (if i = dev.toNat then hot else s.derated.getLsbD i) := by
  refine ⟨_, rfl, fun i hi => ?_⟩
  have hbit : (BitVec.ofNat 32 (2 ^ dev.toNat)).getLsbD i = decide (i = dev.toNat) := by
    rw [BitVec.getLsbD_ofNat, Nat.testBit_two_pow]
    simp [hi, eq_comm]
  simp only [hp, if_true]
  cases hot with
  | true =>
    simp only [if_true, BitVec.getLsbD_or, hbit]
    by_cases he : i = dev.toNat <;> simp [he]
  | false =>
    simp only [Bool.false_eq_true, if_false, BitVec.getLsbD_and, BitVec.getLsbD_not, hbit, hi]
    by_cases he : i = dev.toNat <;> simp [he]

/-! #### Clock domains -/

theorem domainAt_modDomain_same (s : State) (c : Nat) (f : Domain → Domain) :
    (modDomain s c f).domains[c]? = (s.domains[c]?).map f := by
  unfold modDomain
  split
  · simp [*]
  · simp [*]

/-- A core-window address holds its core in bits [32:20] (R32). -/
theorem natField_coreAddr {core o : Nat} (hc : core < 8192) (ho : o < 2 ^ 20) : natField (coreAddr core o) 20 13 = core := by
  simp only [natField, coreAddr, coreWindowBase, Nat.shiftRight_eq_div_pow]
  omega

theorem memByte_of_not_mem {m : List Host.Cell} {a : Nat} (h : ∀ c ∈ m, c.1 ≠ a) : memByte m a = 0 := by
  induction m with
  | nil => rfl
  | cons c m ih =>
    obtain ⟨k, v⟩ := c
    rw [memByte, if_neg (h (k, v) (List.mem_cons_self ..)), ih (fun c hc => h c (List.mem_cons_of_mem _ hc)), ite_self]

theorem mapGet_mapFilter_none {α : Type} (m : SMap α) {p : Nat → α → Bool} {k : Nat} (h : ∀ v, p k v = false) :
    mapGet (mapFilter m p) k = none := by
  induction m with
  | nil => rfl
  | cons e m ih =>
    obtain ⟨j, v⟩ := e
    rw [mapFilter, List.filter_cons]
    split
    · rename_i hp
      rw [mapGet, if_neg (fun hj => by subst hj; simp [h v] at hp)]
      exact ih
    · exact ih

/-- A die whose array goes off loses its cores and what their windows hold (R38). -/
theorem loseDie_loses (s : State) {n core o : Nat} (hd : coreDie core = n) (hc : core < 8192) (ho : o < 2 ^ 20) :
    mapGet (loseDie s n).cores core = none ∧ memByte (loseDie s n).mem (coreAddr core o) = 0 := by
  constructor
  · exact mapGet_mapFilter_none (p := fun k _ => coreDie k != n) s.cores (fun _ => by simp [hd])
  · refine memByte_of_not_mem (fun c hc' heq => ?_)
    obtain ⟨-, hkeep⟩ := List.mem_filter.mp hc'
    rw [heq, natField_coreAddr hc ho, hd] at hkeep
    have hhigh : ¬ coreAddr core o < coreWindowBase := by simp only [coreAddr]; omega
    simp [hhigh] at hkeep

/-- DOMAIN_IDLE_TIMER outside MGMT: a domain that may leave goes down to the phase asked for (R439, R440). -/
theorem execDomainIdleTimer_leaves {s : State} {dom : BitVec 6} (dest : BitVec 2) {d : Domain} (hp : powered s = true)
    (hc : dom.toNat ≠ 3) (hd : s.domains[dom.toNat]? = some d) (goal : DomPhase)
    (hg : goal = if dest = 1 then .gated else if dest = 2 then .ret else if dest = 3 then .off else .run) :
    execDomainIdleTimer dom dest s = .next (if d.phase.depth < goal.depth ∧ d.moving = none ∧ mayLeave s dom.toNat goal = true
      then modDomain (if goal = .off ∧ 16 ≤ dom.toNat ∧ dom.toNat ≤ 23 then loseDie s (dom.toNat - 16)
          else if goal = .off ∧ 24 ≤ dom.toNat ∧ dom.toNat ≤ 31 then emptyCache s (dom.toNat - 24) else s) dom.toNat
        (fun y => { y with phase := goal })
      else s) := by
  have hdest : dest = 0 ∨ dest = 1 ∨ dest = 2 ∨ dest = 3 := by
    clear hg
    revert dest
    decide
  subst hg
  simp only [execDomainIdleTimer, hp, hc, hd, Bool.not_true, Bool.false_eq_true, if_false, Option.isNone_iff_eq_none]
  rcases hdest with rfl | rfl | rfl | rfl
  all_goals rfl

/-- DOMAIN_START_COMPLETE outside MGMT: a domain that starts is in RUN (R38, R441). -/
theorem execDomainStartComplete_runs {s : State} {dom : BitVec 6} {d : Domain} (hc : dom.toNat ≠ 3)
    (hd : s.domains[dom.toNat]? = some d) (hm : d.moving = some .run) :
    ∃ t, execDomainStartComplete dom s = .next t
      ∧ t.domains[dom.toNat]? = some { d with phase := .run, moving := none, starts := d.starts + 1 } := by
  have hrun := domainAt_modDomain_same s dom.toNat (fun y => { y with phase := .run, moving := none, starts := y.starts + 1 })
  rw [hd] at hrun
  refine ⟨_, rfl, ?_⟩
  simp only [hd, hc, hm, if_false, if_true]
  split
  · exact hrun
  · exact hrun

theorem execDomainStartComplete_stays {s : State} {dom : BitVec 6} {d : Domain} (hc : dom.toNat ≠ 3)
    (hd : s.domains[dom.toNat]? = some d) (hm : d.moving ≠ some .run) : execDomainStartComplete dom s = .next s := by
  simp [execDomainStartComplete, hd, hc, hm]

/-- The functions that have no request at work are those of which none is busy. -/
theorem all_idle_iff (m : SMap Func) :
    m.all (fun e => e.2.inService.isNone && e.2.long.isEmpty) = !m.any (fun e => e.2.inService.isSome || !e.2.long.isEmpty) := by
  rw [List.not_any_eq_all_not]
  congr 1
  funext e
  cases e.2.inService <;> simp

/-- MGMT drops to 25 MHz where no request is at work (R439). -/
theorem execDomainIdleTimer_mgmt {s : State} {dom : BitVec 6} (dest : BitVec 2) (hc : dom.toNat = 3) (hp : powered s = true) :
    execDomainIdleTimer dom dest s = .next (if s.funcs.any (fun e => e.2.inService.isSome || !e.2.long.isEmpty) then s
      else modDomain s 3 (fun d => { d with mhz := 25 })) := by
  simp only [execDomainIdleTimer, hp, hc, all_idle_iff, Bool.not_true, Bool.false_eq_true, if_false, if_true, Bool.not_eq_true',
    ← Bool.not_eq_true, ite_not]

/-- MGMT runs at 400 MHz while a request is at work (R38). -/
theorem execDomainStartComplete_mgmt {s : State} {dom : BitVec 6} (hc : dom.toNat = 3) :
    execDomainStartComplete dom s = .next (if s.funcs.any (fun e => e.2.inService.isSome || !e.2.long.isEmpty)
      then modDomain s 3 (fun d => { d with mhz := 400 }) else s) := by
  have hd : s.domains[3]? = some s.domains[3] := Vector.getElem?_eq_getElem (by decide)
  simp only [execDomainStartComplete, hc, hd, if_true]

/-! #### Video units -/

/-- An entry of a table changed throughout is the change of one of its entries. -/
theorem mapGet_mapAll {α : Type} (m : SMap α) (f : Nat → α → α) (k : Nat) : mapGet (mapAll m f) k = (mapGet m k).map (f k) := by
  induction m with
  | nil => rfl
  | cons e m ih =>
    obtain ⟨j, v⟩ := e
    rw [mapAll, List.map_cons, mapGet, mapGet]
    split
    · rename_i hj
      subst hj
      rfl
    · exact ih

/-- No session that satisfies the test is left (R435). -/
theorem endSessions_ends {s : State} {status : Nat} {t : Nat → VideoSession → Bool} {p : Nat} {x : Partition}
    (h : partAt (endSessions s status t) p = some x) : ∀ e ∈ x.sessions, t p e.2 = false := by
  simp only [endSessions, partAt, mapGet_mapAll] at h
  obtain ⟨y, -, rfl⟩ := Option.map_eq_some_iff.mp h
  intro e he
  obtain ⟨-, hkeep⟩ := List.mem_filter.mp he
  simpa using hkeep

theorem videoAt_modVideo_same (s : State) (c : Nat) (f : VideoUnit → VideoUnit) :
    (modVideo s c f).videos[c]? = (s.videos[c]?).map f := by
  unfold modVideo
  split
  · simp [*]
  · simp [*]

/-- VIDEO_UNIT_INTERNAL_ERROR: the unit restarts, and no session of it is left (R435). -/
theorem execVideoUnitInternalError_ends (unit : BitVec 2) (s : State) :
    ∃ t, execVideoUnitInternalError unit s = .next t ∧ (t.videos[unit.toNat]?).map (·.restarting) = some true
      ∧ ∀ p x, partAt t p = some x → ∀ e ∈ x.sessions, e.2.unit ≠ unit.toNat := by
  refine ⟨_, rfl, ?_, fun p x hx e he => ?_⟩
  · rw [videoAt_modVideo_same, Option.map_map, Vector.getElem?_eq_getElem unit.isLt]
    rfl
  · simp only [partAt, modVideo_frame] at hx
    simpa using endSessions_ends hx e he

/-! #### Journal space -/

theorem partAt_modPart_same (s : State) (p : Nat) (f : Partition → Partition) : partAt (modPart s p f) p = (partAt s p).map f :=
  mapGet_mapModify_same _ _ _

theorem execJournalSpace_off {s : State} {pp : BitVec 4} (head : BitVec 64) {x : Partition} (hx : partAt s pp.toNat = some x)
    (he : x.journal.enable = 0) : execJournalSpace pp head s = .next s := by
  simp only [execJournalSpace, hx, he, if_true]

/-- JOURNAL_SPACE writes the consumer's head, and admission waits on while less than 64 KiB are free (R473). -/
theorem execJournalSpace_writes {s : State} {pp : BitVec 4} (head : BitVec 64) {x : Partition} (hx : partAt s pp.toNat = some x)
    (he : x.journal.enable ≠ 0) (hs : s.memOk = true) (hq : Quiet s pp.toNat (x.journal.base + 8) 8) :
    ∃ t, execJournalSpace pp head s = .next t ∧ journalHead t x.journal = head.toNat % 2 ^ 32
      ∧ (partAt t pp.toNat).map (·.journal.waiting) = some (x.journal.waiting
          && decide (x.journal.size - ((x.journal.tail + 2 ^ 32 - head.toNat % 2 ^ 32) % 2 ^ 32) * 64 < 65536)) := by
  have hlen : (cp32Bytes (head.toNat % 2 ^ 32)).length = 8 := natToBytes_length ..
  have hq' : Quiet s pp.toNat (x.journal.base + 8) (cp32Bytes (head.toNat % 2 ^ 32)).length := by rw [hlen]; exact hq
  have hhead (t : State) (hbig : t.big = s.big)
      (hm : t.mem = (moduleWrite s (x.journal.base + 8) (cp32Bytes (head.toNat % 2 ^ 32))).mem)
      (hc : t.caches = (moduleWrite s (x.journal.base + 8) (cp32Bytes (head.toNat % 2 ^ 32))).caches)
      (hh : t.homes = (moduleWrite s (x.journal.base + 8) (cp32Bytes (head.toNat % 2 ^ 32))).homes) :
      journalHead t x.journal = head.toNat % 2 ^ 32 := by
    have hread := cohRead_moduleWrite_quiet hq' hs hbig hm hc hh
    rw [hlen] at hread
    rw [journalHead, hread, cp32At_cp32Bytes, Option.getD_some, Nat.mod_mod]
  refine ⟨_, by simp only [execJournalSpace, hx]; rw [if_neg he], hhead _ (by simp) (by simp) (by simp) (by simp), ?_⟩
  have hfree : journalFree (moduleWrite s (x.journal.base + 8) (cp32Bytes (head.toNat % 2 ^ 32))) x.journal
      = x.journal.size - ((x.journal.tail + 2 ^ 32 - head.toNat % 2 ^ 32) % 2 ^ 32) * 64 := by
    rw [journalFree, hhead _ (by simp) rfl rfl rfl]
  have hpart : partAt (moduleWrite s (x.journal.base + 8) (cp32Bytes (head.toNat % 2 ^ 32))) pp.toNat = some x := by
    simpa [partAt] using hx
  rw [partAt_modPart_same, hpart]
  simp only [Option.map_some, hfree, Option.some.injEq]
  split
  · rename_i hroom
    rw [decide_eq_false (Nat.not_lt.mpr hroom), Bool.and_false]
  · rename_i hroom
    rw [decide_eq_true (Nat.not_le.mp hroom), Bool.and_true]

end Sys2Proof.Machine
end

section
/-! #### Register writes (R8, R186, R366, R387, R395) -/

namespace Sys2Proof.Machine

/-- The value that an 8-byte register write carries is the whole of it. -/
theorem registerValue_eight (value : BitVec 64) :
    BitVec.ofNat 64 (natField value.toNat 0 (8 * max 1 (8 : BitVec 4).toNat)) = value := by
  rw [show 8 * max 1 (8 : BitVec 4).toNat = 64 from rfl, natField_all, BitVec.ofNat_toNat, BitVec.setWidth_eq]

/-- An 8-byte write to BAR0 of a function carries the whole value. -/
theorem execRegisterWrite_bar0 {s : State} {who : BitVec 6} (off : BitVec 56) (value : BitVec 64) (hl : linkServes s = true)
    (hf : (funcAt s who.toNat).isSome = true) :
    execRegisterWrite 0 who off 8 value s = .next (writeBar0 s who.toNat off.toNat 8 value) := by
  simp only [execRegisterWrite, registerValue_eight]
  rw [if_pos ⟨hl, hf⟩]
  rfl

/-- A 4-byte write below the request ring of BAR0 names no register of that size. -/
theorem execRegisterWrite_bar0_small {s : State} {who : BitVec 6} {off : BitVec 56} (value : BitVec 64) (ho : off.toNat < 0x10000) :
    execRegisterWrite 0 who off 4 value s = .next s := by
  have hbar (v : Word64) : writeBar0 s who.toNat off.toNat 4 v = s := by
    rw [writeBar0, if_neg (by omega), if_neg (by omega), if_pos (Or.inl (by decide))]
  simp only [execRegisterWrite]
  rw [show max 1 (4 : BitVec 4).toNat = 4 from rfl, hbar]
  exact congrArg _ (ite_self s)

/-- The request ring of a function in BAR0. -/
theorem writeBar0_ring (s : State) (fn : Nat) {off : Nat} (v : Word64) (h1 : 0x10000 ≤ off) (h2 : off < 0x14000) (h8 : off % 8 = 0) :
    writeBar0 s fn off 8 v = modFunc s fn (fun f => { f with reqRing := ringPut f.reqRing (off - 0x10000) (natToBytes 8 v.toNat) }) := by
  rw [writeBar0, if_pos ⟨h1, h2⟩, if_pos ⟨h8, Or.inr rfl⟩]

/-- The request tail of a function in BAR0 (R395). -/
theorem writeBar0_tail {s : State} (fn : Nat) (v : Word64) (hs : inService s = true) :
    writeBar0 s fn 0x018 8 v = writeMbxTail s fn false v := by
  simp [writeBar0, hs]

/-- PR_LIMIT of a placement region: a multiple of 64 within the region, and ignored otherwise (R387). -/
theorem writeBar0_limit (s : State) (fn : Nat) {i : Nat} (v : Word64) (hi : i < 64) :
    writeBar0 s fn (0x40008 + i * 0x40) 8 v = modRegion s fn i (fun r =>
      if v.toNat % 64 = 0 ∧ v.toNat ≤ r.bytes then { r with limit := v.toNat } else r) := by
  have hidx : (0x40008 + i * 0x40 - 0x40000) / 0x40 = i := by omega
  have hreg : (0x40008 + i * 0x40) % 0x40 = 0x08 := by omega
  have hal : ¬ ((8 : Nat) ≠ 8 ∨ (!decide ((0x40008 + i * 0x40) % 8 = 0)) = true) := by
    rw [decide_eq_true (by omega : (0x40008 + i * 0x40) % 8 = 0)]
    decide
  rw [writeBar0, if_neg (by omega), if_neg (by omega), if_neg hal, if_neg (by omega), if_neg (by omega), if_pos (by omega), hidx, hreg]
  rfl

/-- An address of register space decodes to its die and offset (R33). -/
theorem decodeAddr_register (s : State) {off : Nat} (h : off < 0xD000000) :
    decodeAddr s (registerBase + off) = .register (off / 2 ^ 24) (off % 2 ^ 24) := by
  have hdie : natField (registerBase + off) 24 4 = off / 2 ^ 24 := by
    simp only [natField, registerBase, Nat.shiftRight_eq_div_pow]
    omega
  have hoff : natField (registerBase + off) 0 24 = off % 2 ^ 24 := by
    simp only [natField, registerBase, Nat.shiftRight_eq_div_pow]
    omega
  rw [decodeAddr, if_neg (by simp only [registerBase]; omega), if_neg (by simp only [registerBase, apertureBase]; omega),
    if_neg (by simp only [registerBase, coreWindowBase]; omega), if_pos (by omega), hdie, hoff]

/-- The MP's write of a partition's late threshold; a write of 0 is ignored (R186). -/
theorem execRegisterWrite_late {s : State} (who : BitVec 6) {off : BitVec 56} (value : BitVec 64) {p : Nat} (hp : p < 16)
    (ho : off.toNat = 0xC400008 + p * 0x1000) :
    execRegisterWrite 2 who off 8 value s =
      .next (if natField value.toNat 0 24 = 0 then s else modTier s p (fun t => { t with late := natField value.toNat 0 24 })) := by
  have hdie : off.toNat / 2 ^ 24 = 12 := by omega
  have hoff : off.toNat % 2 ^ 24 = 0x400008 + p * 0x1000 := by omega
  have hpart : (0x400008 + p * 0x1000 - 0x400000) / 0x1000 = p := by omega
  have hreg : (0x400008 + p * 0x1000) % 0x1000 = 0x008 := by omega
  have hmp (v : Word64) : mpWriteReg s 12 (0x400008 + p * 0x1000) 8 v = writeTier s p 0x008 v := by
    rw [mpWriteReg, if_neg (by omega), if_pos (by omega), hpart, hreg]
  simp only [execRegisterWrite, registerValue_eight]
  rw [show (2 : BitVec 2).toNat = 2 from rfl]
  simp only [decodeAddr_register s (by omega : off.toNat < 0xD000000), hdie, hoff]
  exact congrArg _ (hmp value)

theorem execRegisterWrite_not_released {s : State} {who : BitVec 6} {space : BitVec 2} (hs : space = 1) (off : BitVec 56)
    (size : BitVec 4) (value : BitVec 64) (h : s.harts[who.toFin].released = false) :
    execRegisterWrite space who off size value s = .next s := by
  subst hs
  exact congrArg _ (if_neg (by rw [h]; exact Bool.false_ne_true))

/-- A register outside the hub's block ignores the MP's writes. -/
theorem execRegisterWrite_outsideHub {s : State} (who : BitVec 6) {off : BitVec 56} (size : BitVec 4) (value : BitVec 64)
    (ho : off.toNat < 0xC000000) : execRegisterWrite 2 who off size value s = .next s := by
  simp only [execRegisterWrite]
  rw [show (2 : BitVec 2).toNat = 2 from rfl]
  simp only [decodeAddr_register s (by omega : off.toNat < 0xD000000)]
  rw [mpWriteReg, if_pos (Or.inl (by omega))]

end Sys2Proof.Machine
end

section
namespace Sys2Proof.Machine

/-- Settles O59: each event by the lemma about its command. -/
theorem faultsAndDomains : Obligations.FaultsAndDomains := by
  intro s code addr off out dest space dom who dev hot unit pp size head value die cd a0 dt
  refine ⟨fun hf => ⟨?watchdog, ?regulator, ?entry⟩, fun hf => ⟨?noWatchdog, ?noRegulator, execDecafEntry_not_running code hf⟩,
    fun hc => execDecafEntry_other hc s, fun h => enterDecaf_again h die cd a0 dt, ?decaf, execDecafDripFlush_outside,
    fun d hd => ⟨execDecafDripFlush_done hd, execDecafDripFlush_runs hd⟩,
    execPatrolScrub_outside out, fun h => ⟨execPatrolScrub_clean h, execPatrolScrub_corrected h, execPatrolScrub_uncorrectable h,
      execPatrolScrub_pass h⟩, execDeviceTemperature85c_derates dev hot,
    fun d hp hc hd => execDomainIdleTimer_leaves dest hp hc hd _ rfl, fun n core o => loseDie_loses s,
    fun d hc hd => ⟨execDomainStartComplete_runs hc hd, execDomainStartComplete_stays hc hd⟩,
    fun hc hp => ⟨execDomainIdleTimer_mgmt dest hc hp, execDomainStartComplete_mgmt hc⟩, execVideoUnitInternalError_ends unit s, rfl,
    fun x hx => ⟨execJournalSpace_off head hx, execJournalSpace_writes head hx⟩, ?bar0, ?late,
    fun hs ho => ?hub, fun hs => execRegisterWrite_not_released hs off size value⟩
  case watchdog => exact congrArg _ (moduleFault_eq_enterDecaf hf ..)
  case regulator => exact congrArg _ (moduleFault_eq_enterDecaf hf ..)
  case entry => exact fun hc => (execDecafEntry_module hc s).trans (congrArg _ (moduleFault_eq_enterDecaf hf ..))
  case noWatchdog => exact congrArg _ (moduleFault_eq_self hf ..)
  case noRegulator => exact congrArg _ (moduleFault_eq_self hf ..)
  case decaf =>
    intro h
    obtain ⟨hstop, hcause, hcode, hflash⟩ := enterDecaf_first h die cd a0 dt
    exact ⟨hcause, hcode, hstop.cores, hstop.spills, hstop.ports, hstop.harts, hflash⟩
  case bar0 =>
    intro hs hl hfn
    subst hs
    have hwrite := execRegisterWrite_bar0 (who := who) off value hl hfn
    refine ⟨fun ho hz hin => ?_, fun h1 h2 h8 hz => ?_, fun i ho hi hz => ?_, fun ho hz => ?_⟩
    all_goals subst hz
    · rw [ho] at hwrite
      exact ho ▸ hwrite.trans (congrArg _ (writeBar0_tail who.toNat value hin))
    · exact hwrite.trans (congrArg _ (writeBar0_ring s who.toNat value h1 h2 h8))
    · rw [ho, writeBar0_limit s who.toNat value hi] at hwrite
      exact hwrite
    · exact execRegisterWrite_bar0_small value ho
  case late =>
    intro hs p hp hz ho
    subst hs hz
    exact execRegisterWrite_late who value hp ho
  case hub =>
    subst hs
    exact execRegisterWrite_outsideHub who size value ho

end Sys2Proof.Machine
end

section
/-! ### Conversions between plain formats: the element list of R133, and the one register that it writes -/

namespace Sys2Proof.Machine

/-! #### Vector registers -/

@[simp] theorem getV_setV_same (c : Core) (r : BitVec 5) (v : BitVec 2048) : getV (setV c r v) r = v :=
  Vector.getElem_set_self r.isLt

theorem getV_setV_other (c : Core) {r q : BitVec 5} (v : BitVec 2048) (h : q ≠ r) : getV (setV c r v) q = getV c q :=
  Vector.getElem_set_ne r.isLt q.isLt fun hn => h (BitVec.eq_of_toNat_eq hn.symm)

/-! #### The elements of a conversion -/

/-- A function of the elements and their positions, over a list that is itself given by position. -/
theorem zipIdx_map_range {α β : Type} (n : Nat) (g : Nat → α) (f : α × Nat → β) :
    ((List.range n).map g).zipIdx.map f = (List.range n).map (fun p => f (g p, p)) := by
  apply List.ext_getElem
  · simp
  · simp

/-- A source in a plain format has no scales: each element is decoded by itself. -/
theorem cvtSource_plain {src : Nat} (h : codeIsMx src = false) (vl : Nat) (v scales : BitVec 2048) :
    cvtSource src vl v scales =
      (List.range vl).map (fun p => (codeKind src).decode (packedElem v.toNat (codeKind src).bits p)) := by
  simp [cvtSource, h]

/-- A conversion between plain formats outside Eskor-exact mode, where no flush is made (Table 2-9), writes vd once, each element
decoded and rounded once; beside vd only the count of drawn blocks moves. -/
theorem cvtCore_plain {s : State} {c : Core} {dst src : Nat} (hd : codeIsMx dst = false) (hs : codeIsMx src = false)
    (he : coreEskor s c = false) (sr nan : Bool) (vd vs1 : BitVec 5) :
    cvtCore s sr nan dst src vd vs1 c =
      setV { c with rngBlocks := bump c.rngBlocks (if sr then (c.regs.vl + 7) / 8 else 0) } vd
        (putElems (getV c vd) (codeBits dst) ((List.range c.regs.vl).map (fun p =>
          (codeKind dst).encode (cvtRound s c sr p) (if nan then .nan else .sat)
            ((codeKind src).decode (packedElem (getV c vs1).toNat (codeKind src).bits p))))) := by
  simp only [cvtCore, he, hd, cvtSource_plain hs, List.map_map, zipIdx_map_range]
  cases codeKind src with
  | flt f => rfl
  | int w => rfl

/-- Settles O17: the conversion is one write of vd, whose elements are those the rule gives. -/
theorem plainConversions : Obligations.PlainConversions := by
  intro s sr nan dst src vd vs1 c hd hs he
  dsimp only
  rw [cvtCore_plain hd hs he]
  exact ⟨getV_setV_same .., fun r hr => getV_setV_other _ _ hr, rfl, rfl, rfl⟩

end Sys2Proof.Machine
end

section
/-! ### WGB instructions: the operation that each records (R105, R127) -/

namespace Sys2Proof.Machine

theorem exec_lxWgbZero (core : CoreId) (rs1 : BitVec 5) (s : State) : exec (.lxWgbZero core rs1) s = execLxWgbZero core rs1 s := rfl
theorem exec_lxWgbFold (core : CoreId) (rs1 rs2 : BitVec 5) (s : State) :
    exec (.lxWgbFold core rs1 rs2) s = execLxWgbFold core rs1 rs2 s := rfl
theorem exec_lxWgbSpill (core : CoreId) (rs1 rs2 : BitVec 5) (s : State) :
    exec (.lxWgbSpill core rs1 rs2) s = execLxWgbSpill core rs1 rs2 s := rfl
theorem exec_lxWgbFlush (core : CoreId) (rs1 rs2 : BitVec 5) (s : State) :
    exec (.lxWgbFlush core rs1 rs2) s = execLxWgbFlush core rs1 rs2 s := rfl

/-- A core whose operation `op` joins those recorded for its commit. -/
def recordWgb (op : WgbOp) (c : Core) : Core := { c with wgbOps := c.wgbOps ++ [op] }

theorem recordWgb_eq (op : WgbOp) : recordWgb op = fun c => { c with wgbOps := c.wgbOps ++ [op] } := rfl

/-- The source block at scratch offset `o` of core k is one that an operation may name now: placed as R127 asks, in the share,
awaited from no DMA and no engine instruction. -/
structure WgbBlock (s : State) (k o : Nat) : Prop where
  placed : blockOk o = true
  shared : inShare (coreAt s k) o 0x4000 = true
  settled : loadHeld s k [(o, 0x4000)] = false

/-- The WGB descriptor at scratch offset `o` of core k is one that an operation may name now, and a valid one. -/
structure WgbDescriptor (s : State) (k : Nat) (flush : Bool) (o : Nat) : Prop where
  aligned : o % 32 = 0
  inside : o + 32 ≤ 0x30000
  shared : inShare (coreAt s k) o 32 = true
  settled : loadHeld s k [(o, 32)] = false
  valid : wgbDescOk s (coreAt s k).job.partition flush (memBytes s.mem (coreAddr k o) 32) = true

section
variable {s : State} {core : CoreId} {rs1 rs2 : BitVec 5}

theorem execLxWgbZero_records (h : Issues s core.toNat (c0Word 0 0 rs1.toNat 6 0) 4)
    (hroom : (coreAt s core.toNat).wgbOps.length < 16)
    (htile : tileOk s (coreAt s core.toNat) (getX (coreAt s core.toNat) rs1).toNat = true) :
    execLxWgbZero core rs1 s = .next (coreStep s core.toNat
      (recordWgb (.zero (getX (coreAt s core.toNat) rs1).toNat)) (pcAfter s core.toNat 4)) := by
  simp [execLxWgbZero, wgbIssue, issue_eq h, htile, Nat.not_le.mpr hroom, recordWgb_eq]

theorem execLxWgbFold_records (h : Issues s core.toNat (c0Word 1 rs2.toNat rs1.toNat 6 0) 4)
    (hroom : (coreAt s core.toNat).wgbOps.length < 16)
    (htile : tileOk s (coreAt s core.toNat) (getX (coreAt s core.toNat) rs2).toNat = true)
    (hblock : WgbBlock s core.toNat (getX (coreAt s core.toNat) rs1).toNat) :
    execLxWgbFold core rs1 rs2 s = .next (coreStep s core.toNat
      (recordWgb (.fold (getX (coreAt s core.toNat) rs1).toNat (getX (coreAt s core.toNat) rs2).toNat)) (pcAfter s core.toNat 4)) := by
  obtain ⟨hplaced, hshared, hsettled⟩ := hblock
  simp [execLxWgbFold, wgbIssue, issue_eq h, htile, hplaced, hshared, hsettled, Nat.not_le.mpr hroom, recordWgb_eq]

theorem execLxWgbSpill_records (h : Issues s core.toNat (c0Word 2 rs2.toNat rs1.toNat 6 0) 4)
    (hroom : (coreAt s core.toNat).wgbOps.length < 16)
    (hblock : WgbBlock s core.toNat (getX (coreAt s core.toNat) rs1).toNat)
    (hdesc : WgbDescriptor s core.toNat false (getX (coreAt s core.toNat) rs2).toNat) :
    execLxWgbSpill core rs1 rs2 s = .next (coreStep s core.toNat
      (recordWgb (.spill (getX (coreAt s core.toNat) rs1).toNat
        (wgbDescOfBytes (memBytes s.mem (coreAddr core.toNat (getX (coreAt s core.toNat) rs2).toNat) 32)))) (pcAfter s core.toNat 4)) := by
  obtain ⟨hplaced, hshared, hsettled⟩ := hblock
  obtain ⟨haligned, hinside, hdshared, hdsettled, hvalid⟩ := hdesc
  simp [execLxWgbSpill, wgbIssue, issue_eq h, hplaced, hshared, hsettled, haligned, Nat.not_lt.mpr hinside, hdshared, hdsettled, hvalid,
    Nat.not_le.mpr hroom, recordWgb_eq]

theorem execLxWgbFlush_records (h : Issues s core.toNat (c0Word 3 rs2.toNat rs1.toNat 6 0) 4)
    (hroom : (coreAt s core.toNat).wgbOps.length < 16)
    (htile : tileOk s (coreAt s core.toNat) (getX (coreAt s core.toNat) rs1).toNat = true)
    (hdesc : WgbDescriptor s core.toNat true (getX (coreAt s core.toNat) rs2).toNat) :
    execLxWgbFlush core rs1 rs2 s = .next (coreStep s core.toNat
      (recordWgb (.flush (getX (coreAt s core.toNat) rs1).toNat
        (wgbDescOfBytes (memBytes s.mem (coreAddr core.toNat (getX (coreAt s core.toNat) rs2).toNat) 32)))) (pcAfter s core.toNat 4)) := by
  obtain ⟨haligned, hinside, hshared, hsettled, hvalid⟩ := hdesc
  simp [execLxWgbFlush, wgbIssue, issue_eq h, htile, haligned, Nat.not_lt.mpr hinside, hshared, hsettled, hvalid, Nat.not_le.mpr hroom, recordWgb_eq]

end

/-- Settles O21: the statement's operands pass the checks of R115, so each instruction records its operation. -/
theorem wgbInstructionsRecord : Obligations.WgbInstructionsRecord := by
  intro s core rs1 rs2 k c a b tile block bytes desc gives
  have htile {t : Nat} (h : tile t) : tileOk s c t = true := by
    obtain ⟨hlt, hown⟩ := h
    simp [tileOk, hlt, hown]
  have hblock {o : Nat} (h : block o) : WgbBlock s k o := by
    obtain ⟨haligned, hinside, hshared, hsettled⟩ := h
    exact ⟨by simp [blockOk, haligned, hinside], hshared, hsettled⟩
  have hdesc {o : Nat} {flush : Bool} (h : desc o flush) : WgbDescriptor s k flush o := by
    obtain ⟨haligned, hinside, hshared, hsettled, hvalid⟩ := h
    exact ⟨haligned, hinside, hshared, hsettled, hvalid⟩
  refine ⟨fun ht hi hroom => ?_, fun ht hb hi hroom => ?_, fun hb hd hi hroom => ?_, fun ht hd hi hroom => ?_⟩
  · exact (exec_lxWgbZero ..).trans (execLxWgbZero_records hi hroom (htile ht))
  · exact (exec_lxWgbFold ..).trans (execLxWgbFold_records hi hroom (htile ht) (hblock hb))
  · exact (exec_lxWgbSpill ..).trans (execLxWgbSpill_records hi hroom (hblock hb) (hdesc hd))
  · exact (exec_lxWgbFlush ..).trans (execLxWgbFlush_records hi hroom (htile ht) (hdesc hd))

end Sys2Proof.Machine
end

section
/-! ### Byte strings: slices, words, and the bytes of a range of memory after a write -/

namespace Sys2Proof.Machine

@[simp] theorem memBytes_length (m : List Host.Cell) (a n : Nat) : (memBytes m a n).length = n := by simp [memBytes]

@[simp] theorem sliceBytes_length (bs : List Byte) (off n : Nat) : (sliceBytes bs off n).length = n := by simp [sliceBytes]

@[simp] theorem fillBytes_length (pattern n : Nat) : (fillBytes pattern n).length = n := by simp [fillBytes]

theorem sliceBytes_self (bs : List Byte) : sliceBytes bs 0 bs.length = bs := by
  apply List.ext_getElem
  · simp
  · intro i _ hi
    simp [sliceBytes, List.getElem?_eq_getElem hi]

/-- A slice is its first part and the slice that follows. -/
theorem sliceBytes_add (bs : List Byte) (off m n : Nat) :
    sliceBytes bs off (m + n) = sliceBytes bs off m ++ sliceBytes bs (off + m) n := by
  simp [sliceBytes, List.range_add, Nat.add_assoc]

theorem sliceBytes_append_right (xs ys : List Byte) (off n : Nat) :
    sliceBytes (xs ++ ys) (xs.length + off) n = sliceBytes ys off n := by
  apply List.map_congr_left
  intro i _
  rw [List.getD_eq_getElem?_getD, List.getD_eq_getElem?_getD, List.getElem?_append_right (by omega), Nat.add_assoc,
    Nat.add_sub_cancel_left]

theorem sliceBytes_append_left (xs ys : List Byte) : sliceBytes (xs ++ ys) 0 xs.length = xs := by
  apply List.ext_getElem
  · simp
  · intro i _ hi
    simp [sliceBytes, List.getElem?_append_left hi, List.getElem?_eq_getElem hi]

theorem bytesToNat_lt (bs : List Byte) : bytesToNat bs < 2 ^ (8 * bs.length) := by
  induction bs with
  | nil => simp [bytesToNat]
  | cons b bs ih =>
    have hb := b.isLt
    rw [bytesToNat, List.length_cons, Nat.mul_succ, Nat.pow_add]
    omega

/-- The bytes of the number that bytes spell are those bytes (R6). -/
theorem natToBytes_bytesToNat (bs : List Byte) : natToBytes bs.length (bytesToNat bs) = bs := by
  induction bs with
  | nil => rfl
  | cons b bs ih =>
    have hb := b.isLt
    have hdiv : (b.toNat + 256 * bytesToNat bs) / 256 = bytesToNat bs := by omega
    have hlow : BitVec.ofNat 8 (b.toNat + 256 * bytesToNat bs) = b := by
      apply BitVec.eq_of_toNat_eq
      rw [BitVec.toNat_ofNat]
      omega
    rw [List.length_cons, bytesToNat, natToBytes, hdiv, hlow, ih]

@[simp] theorem wordsOf_length (b : List Byte) (n : Nat) : (wordsOf b n).length = n := by simp [wordsOf]

theorem wordBytes_cons (w : Word32) (ws : List Word32) : wordBytes (w :: ws) = natToBytes 4 w.toNat ++ wordBytes ws := rfl

theorem wordBytes_length (ws : List Word32) : (wordBytes ws).length = 4 * ws.length := by
  induction ws with
  | nil => rfl
  | cons w ws ih => rw [wordBytes_cons, List.length_append, natToBytes_length, ih, List.length_cons]; omega

/-- Word e of the bytes of FP32 words. -/
theorem fieldAt_wordBytes {ws : List Word32} {e : Nat} (h : e < ws.length) : fieldAt (wordBytes ws) (4 * e) 4 = ws[e].toNat := by
  induction ws generalizing e with
  | nil => simp at h
  | cons w ws ih =>
    have hlen : (natToBytes 4 w.toNat).length = 4 := natToBytes_length ..
    rw [wordBytes_cons, fieldAt]
    cases e with
    | zero =>
      have hhead := sliceBytes_append_left (natToBytes 4 w.toNat) (wordBytes ws)
      rw [hlen] at hhead
      rw [Nat.mul_zero, hhead, bytesToNat_natToBytes]
      exact Nat.mod_eq_of_lt w.isLt
    | succ e =>
      have htail := sliceBytes_append_right (natToBytes 4 w.toNat) (wordBytes ws) (4 * e) 4
      rw [hlen] at htail
      rw [show 4 * (e + 1) = 4 + 4 * e by omega, htail]
      exact ih (by simpa using h)

/-- Bytes read as FP32 words and written again stay as they were. -/
theorem wordBytes_wordsOf (b : List Byte) (n : Nat) : wordBytes (wordsOf b n) = sliceBytes b 0 (4 * n) := by
  induction n with
  | zero => rfl
  | succ n ih =>
    have hword : natToBytes 4 (BitVec.ofNat 32 (fieldAt b (4 * n) 4)).toNat = sliceBytes b (4 * n) 4 := by
      have hlt : fieldAt b (4 * n) 4 < 2 ^ 32 := by simpa [fieldAt] using bytesToNat_lt (sliceBytes b (4 * n) 4)
      rw [BitVec.toNat_ofNat, Nat.mod_eq_of_lt hlt]
      simpa [fieldAt] using natToBytes_bytesToNat (sliceBytes b (4 * n) 4)
    have hsplit : wordBytes (wordsOf b (n + 1))
        = wordBytes (wordsOf b n) ++ natToBytes 4 (BitVec.ofNat 32 (fieldAt b (4 * n) 4)).toNat := by
      simp [wordBytes, wordsOf, List.range_succ]
    rw [hsplit, ih, hword, Nat.mul_succ, sliceBytes_add, Nat.zero_add]

/-- Bytes written in two parts are the bytes written at once. -/
theorem memPutBytes_append (m : List Host.Cell) (a : Nat) (xs ys : List Byte) :
    memPutBytes m a (xs ++ ys) = memPutBytes (memPutBytes m a xs) (a + xs.length) ys := by
  induction xs generalizing m a with
  | nil => rfl
  | cons x xs ih =>
    rw [List.cons_append, memPutBytes, ih, memPutBytes, List.length_cons, Nat.add_assoc, Nat.add_comm 1]

/-- What a write of `n` bytes leaves: its bytes in the range, every other byte as it was. -/
theorem memPutBytes_range {m : List Host.Cell} {a n : Nat} {bs : List Byte} (w : memWf m = true) (hn : bs.length = n) :
    memBytes (memPutBytes m a bs) a n = bs ∧ ∀ x, x < a ∨ a + n ≤ x → memByte (memPutBytes m a bs) x = memByte m x := by
  subst hn
  exact ⟨memBytes_memPutBytes bs w, fun x hx => memByte_memPutBytes_other bs w hx⟩

theorem memByte_memClear {lo : Nat} {m : List Host.Cell} (w : memWfFrom lo m = true) (a n x : Nat) :
    memByte (memClear m a n) x = if a ≤ x ∧ x < a + n then 0 else memByte m x := by
  induction m generalizing lo with
  | nil => simp [memClear, memByte]
  | cons cell m ih =>
    obtain ⟨k, v⟩ := cell
    simp only [memWfFrom, Bool.and_eq_true, decide_eq_true_eq] at w
    obtain ⟨⟨_, _⟩, wm⟩ := w
    have hrest := ih wm
    have hbelow : x ≤ k → memByte m x = 0 := fun h => memByte_below wm (by omega)
    rw [memClear] at hrest ⊢
    rw [List.filter_cons]
    split
    case isTrue hkeep =>
      simp only [decide_eq_true_eq] at hkeep
      simp only [memByte, hrest]
      split
      · rw [if_neg (by omega)]
      · split <;> simp
    case isFalse hcut =>
      simp only [decide_eq_true_eq] at hcut
      simp only [memByte, hrest]
      split
      · rfl
      · split
        · omega
        · split
          · exact hbelow (by omega)
          · rfl

theorem memWf_of_memOk {s : State} (h : s.memOk = true) : memWf s.mem = true := by
  simp only [State.memOk, Bool.and_eq_true] at h
  exact h.1

end Sys2Proof.Machine
end

section
/-! ### T1 ranges that no cache holds: their reads and writes are those of memory -/

namespace Sys2Proof.Machine

/-- A range of usable T1 none of whose lines a cache holds or awaits. -/
structure Unheld (s : State) (a n : Nat) : Prop where
  usable : a + n ≤ usableBytes s
  free : ∀ lid ∈ lidsOf a n, lineHeld s lid = false

theorem Quiet.usable {s : State} {p a n : Nat} (q : Quiet s p a n) : a + n ≤ usableBytes s := by
  have := q.owned
  simp only [ownsT1, Bool.and_eq_true, decide_eq_true_eq] at this
  exact this.1

theorem Quiet.unheld {s : State} {p a n : Nat} (q : Quiet s p a n) : Unheld s a n := ⟨q.usable, q.uncached⟩

/-- The lines of a part of a T1 range are lines of the range. -/
theorem lidsOf_sub {a n b m : Nat} (ha : a + n ≤ 0x20000000000) (hb : a ≤ b) (hm : b + m ≤ a + n) {lid : Nat} (h : lid ∈ lidsOf b m) :
    lid ∈ lidsOf a n := by
  have hlow (x : Nat) (hx : x < 0x20000000000) : lidOf x = x / 64 := by
    rw [lidOf, if_pos (Nat.lt_of_lt_of_le hx (by decide))]
  unfold lidsOf at h
  split at h
  · exact absurd h (List.not_mem_nil)
  · obtain ⟨i, hi, rfl⟩ := List.mem_map.mp h
    rw [List.mem_range, hlow b (by omega), hlow (b + m - 1) (by omega)] at hi
    have hline : lidOf b + i = lidOf (a + (max b (64 * (b / 64 + i)) - a)) := by
      rw [hlow b (by omega), hlow _ (by omega)]
      omega
    rw [hline]
    exact lidOf_mem_lidsOf ha (by omega)

theorem Unheld.sub {s : State} {a n b m : Nat} (h : Unheld s a n) (hb : a ≤ b) (hm : b + m ≤ a + n) : Unheld s b m :=
  ⟨hm.trans h.usable, fun _ hl => h.free _ (lidsOf_sub (h.usable.trans (usableBytes_le s)) hb hm hl)⟩

theorem cohRead_unheld {s : State} {a n : Nat} (h : Unheld s a n) : cohRead s a n = memBytes s.mem a n := by
  refine List.map_congr_left fun i hi => ?_
  have hi' : i < n := List.mem_range.mp hi
  have husable := h.usable
  obtain ⟨hcached, hflight⟩ := lineHeld_eq_false.mp (h.free _ (lidOf_mem_lidsOf (husable.trans (usableBytes_le s)) hi'))
  have hplace : placeOf s (a + i) = .t1 (a + i) := placeOf_t1 (by omega)
  simp only [latestByte, dirtyOwner_of_not_held hcached hflight, hplace, placeByte, ite_self]

/-- A write of an unheld T1 range is one of memory: no cached copy changes, and no data is newly on its way. -/
theorem cohWrite_unheld {s : State} {a : Nat} {bs : List Byte} (h : Unheld s a bs.length) :
    (cohWrite s a bs).mem = memPutBytes s.mem a bs ∧ (cohWrite s a bs).caches = s.caches
    ∧ ∀ lid, flightLine s lid = none → flightLine (cohWrite s a bs) lid = none := by
  simp only [cohWrite, recallRange_eq_self h.free, putAt_t1 h.usable]
  generalize hu : refreshFlights { s with mem := memPutBytes s.mem a bs } a bs.length = u
  have hmem : u.mem = memPutBytes s.mem a bs ∧ u.caches = s.caches := by
    subst hu
    unfold refreshFlights
    split <;> exact ⟨rfl, rfl⟩
  have hkept : (clearPoison (dropReservations u a bs.length) a bs.length).mem = u.mem
      ∧ (clearPoison (dropReservations u a bs.length) a bs.length).caches = u.caches
      ∧ (clearPoison (dropReservations u a bs.length) a bs.length).homes = u.homes := by
    unfold clearPoison dropReservations
    split <;> split <;> exact ⟨rfl, rfl, rfl⟩
  obtain ⟨hm, hc, hh⟩ := hkept
  refine ⟨hm.trans hmem.1, hc.trans hmem.2, fun lid hf => ?_⟩
  have hflight : flightLine u lid = none := by
    subst hu
    exact flightLine_refreshFlights a bs.length (s := { s with mem := memPutBytes s.mem a bs }) hf
  simpa only [flightLine, hh] using hflight

/-- Ranges that no cache holds stay so across a write of one of them. -/
theorem Unheld.cohWrite {s : State} {a b n : Nat} {bs : List Byte} (h : Unheld s b n) (hw : Unheld s a bs.length) :
    Unheld (cohWrite s a bs) b n := by
  obtain ⟨-, hcaches, hflight⟩ := cohWrite_unheld hw
  refine ⟨?_, fun lid hl => ?_⟩
  · simpa [usableBytes] using h.usable
  · obtain ⟨hc, hf⟩ := lineHeld_eq_false.mp (h.free lid hl)
    exact lineHeld_eq_false.mpr ⟨by simpa only [cachedLine, hcaches] using hc, hflight lid hf⟩

end Sys2Proof.Machine
end

section
/-! ### WGB operations of a commit and spill records (R105, R107) -/

namespace Sys2Proof.Machine

/-! #### WGB_ZERO and WGB_FOLD -/

theorem applyWgb_zero_mem (s : State) (k i : Nat) :
    (applyWgb s k (.zero i)).mem = memClear s.mem (coreAddr k (0x30000 + i * 0x4000)) 0x4000 := by
  simp [applyWgb]

/-- WGB_ZERO clears the torn bit of its tile alone. -/
theorem applyWgb_zero_torn (s : State) (k : Nat) {i : Nat} (hi : i < 4) (j : Nat) :
    (coreAt (applyWgb s k (.zero i)) k).torn.getLsbD j = if j = i then false else (coreAt s k).torn.getLsbD j := by
  have hcore : (coreAt (applyWgb s k (.zero i)) k).torn = (coreAt s k).torn &&& ~~~(BitVec.ofNat 4 (2 ^ i)) := by
    simp only [applyWgb, coreAt_modCore_same]
    rfl
  rw [hcore, BitVec.getLsbD_and, BitVec.getLsbD_not, BitVec.getLsbD_ofNat, Nat.testBit_two_pow]
  by_cases hji : j = i
  · simp [hji, hi]
  · by_cases hj : j < 4
    · simp [hji, Ne.symm hji, hj]
    · simp [hji, BitVec.getLsbD_of_ge _ _ (Nat.not_lt.mp hj)]

/-- The words that WGB_FOLD leaves in its tile: the tile's and the source block's, added element by element. -/
def foldedWords (s : State) (k src i : Nat) : List Word32 :=
  ((wordsOf (tileBytesOf s k i) 4096).zip (wordsOf (memBytes s.mem (coreAddr k src) 0x4000) 4096)).map (fun p => addF32 p.1 p.2)

theorem foldedWords_length (s : State) (k src i : Nat) : (foldedWords s k src i).length = 4096 := by simp [foldedWords]

theorem foldedWords_getElem (s : State) (k src i : Nat) {e : Nat} (h : e < (foldedWords s k src i).length) :
    (foldedWords s k src i)[e] = addF32 (BitVec.ofNat 32 (fieldAt (tileBytesOf s k i) (4 * e) 4))
      (BitVec.ofNat 32 (fieldAt (memBytes s.mem (coreAddr k src) 0x4000) (4 * e) 4)) := by
  simp [foldedWords, wordsOf]

theorem applyWgb_fold_mem (s : State) (k src i : Nat) : (applyWgb s k (.fold src i)).mem =
    memPutBytes s.mem (coreAddr k (0x30000 + i * 0x4000)) (wordBytes (foldedWords s k src i)) := by
  simp only [applyWgb, foldedWords]

/-! #### Spill records -/

/-- A line of a record that does not add is written as it stands. -/
theorem applySpillLine_plain (s : State) {d : WgbDesc} (hadd : d.add = false) (data : List Byte) (i : Nat) :
    applySpillLine s d data i = cohWrite s (d.addr + 64 * i) (sliceBytes data (64 * i) 64) := by
  have hline : wordBytes (wordsOf (sliceBytes data (64 * i) 64) 16) = sliceBytes data (64 * i) 64 := by
    have := sliceBytes_self (sliceBytes data (64 * i) 64)
    rw [sliceBytes_length] at this
    rw [wordBytes_wordsOf, this]
  simp only [applySpillLine, hadd, hline]
  rfl

/-- The state after the first `n` lines of a spill record. -/
def spillLines (s : State) (d : WgbDesc) (data : List Byte) (n : Nat) : State :=
  (List.range n).foldl (fun t i => applySpillLine t d data i) s

/-- The first `n` lines of a record that does not add put that much of its block into memory, and the block stays unheld. -/
theorem spillLines_plain {s : State} {d : WgbDesc} (hadd : d.add = false) (data : List Byte) (h : Unheld s d.addr 0x4000) {n : Nat}
    (hn : n ≤ 256) :
    (spillLines s d data n).mem = memPutBytes s.mem d.addr (sliceBytes data 0 (64 * n))
    ∧ (spillLines s d data n).spills = s.spills ∧ Unheld (spillLines s d data n) d.addr 0x4000 := by
  induction n with
  | zero => exact ⟨rfl, rfl, h⟩
  | succ n ih =>
    obtain ⟨hmem, hspills, hunheld⟩ := ih (by omega)
    have hstep : spillLines s d data (n + 1)
        = cohWrite (spillLines s d data n) (d.addr + 64 * n) (sliceBytes data (64 * n) 64) := by
      rw [← applySpillLine_plain _ hadd]
      simp only [spillLines, List.range_succ, List.foldl_append, List.foldl_cons, List.foldl_nil]
    have hline : Unheld (spillLines s d data n) (d.addr + 64 * n) (sliceBytes data (64 * n) 64).length := by
      rw [sliceBytes_length]
      exact hunheld.sub (by omega) (by omega)
    rw [hstep]
    refine ⟨?_, by simpa using hspills, hunheld.cohWrite hline⟩
    rw [(cohWrite_unheld hline).1, hmem, Nat.mul_succ, sliceBytes_add, memPutBytes_append, sliceBytes_length, Nat.zero_add]

/-- A record that neither adds nor is final leaves the list and writes its block (R107). -/
theorem applySpill_plain {s : State} {k : Nat} {r : SpillRecord} (hr : s.spills.find? (fun y => y.core == k) = some r)
    (hadd : r.desc.add = false) (hfinal : r.desc.final = false) (hlen : r.data.length = 0x4000) (h : Unheld s r.desc.addr 0x4000) :
    (applySpill s k).spills = s.spills.erase r ∧ (applySpill s k).mem = memPutBytes s.mem r.desc.addr r.data := by
  have happly : applySpill s k = spillLines { s with spills := s.spills.erase r } r.desc r.data 256 := by
    simp only [applySpill, hr, hfinal]
    rfl
  have hself : sliceBytes r.data 0 (64 * 256) = r.data := by
    rw [show 64 * 256 = r.data.length by rw [hlen], sliceBytes_self]
  obtain ⟨hmem, hspills, -⟩ :=
    spillLines_plain (s := { s with spills := s.spills.erase r }) hadd r.data ⟨h.usable, h.free⟩ (Nat.le_refl 256)
  rw [happly]
  exact ⟨hspills, by rw [hmem, hself]⟩

end Sys2Proof.Machine
end

section
/-! ### Accesses of commands to quiet T1 ranges, and the copy lane (R405) -/

namespace Sys2Proof.Machine

theorem exec_copy (q : BitVec 12) (pos : BitVec 32) (s : State) : exec (.copy q pos) s = execCopy q pos s := rfl
theorem exec_fill (q : BitVec 12) (pos : BitVec 32) (s : State) : exec (.fill q pos) s = execFill q pos s := rfl
theorem exec_spillRecordApply (core : CoreId) (s : State) : exec (.spillRecordApply core) s = .next (applySpill s core.toNat) := rfl

/-! #### Commands changed -/

theorem runCmd_working {s : State} {q pos op : Nat} {x : Queue} {c : Cmd} (h : Working s q pos op x c) (f : Queue → Cmd → State) :
    runCmd s q pos op f = f x c := by
  obtain ⟨hqueue, hcmd, hphase, hop⟩ := h
  simp [runCmd, hqueue, hcmd, hphase, hop]

theorem queueAt_modCmd_same (s : State) (q pos : Nat) (f : Cmd → Cmd) : queueAt (modCmd s q pos f) q
    = (queueAt s q).map (fun x => { x with cmds := x.cmds.map (fun c => if c.pos == pos then f c else c) }) :=
  mapGet_mapModify_same _ _ _

/-- A command changed in place is found at its position. -/
theorem cmdAt_modCmd_same (s : State) (q pos : Nat) {f : Cmd → Cmd} (hf : ∀ c, (f c).pos = c.pos) :
    cmdAt (modCmd s q pos f) q pos = (cmdAt s q pos).map f := by
  have hpos (c : Cmd) : (if c.pos == pos then f c else c).pos = c.pos := by split <;> simp [hf]
  have hfind (l : List Cmd) : (l.map (fun c => if c.pos == pos then f c else c)).find? (fun c => c.pos == pos)
      = (l.find? (fun c => c.pos == pos)).map f := by
    rw [List.find?_map]
    simp only [Function.comp_def, hpos]
    cases h : l.find? (fun c => c.pos == pos) with
    | none => rfl
    | some c => simp only [Option.map_some, if_pos (List.find?_some h)]
  rw [cmdAt, queueAt_modCmd_same, cmdAt]
  cases queueAt s q with
  | none => rfl
  | some x => exact hfind x.cmds

theorem finishCmd_mem (s : State) (q pos status result : Nat) : (finishCmd s q pos status result).mem = s.mem := by simp [finishCmd]

theorem finishCmd_done {s : State} {q pos : Nat} (status result : Nat) (h : (cmdAt s q pos).isSome = true) :
    (cmdAt (finishCmd s q pos status result) q pos).map (fun d => (d.phase, d.status)) = some (.finished, status) := by
  obtain ⟨c, hc⟩ := Option.isSome_iff_exists.mp h
  rw [finishCmd, cmdAt_modCmd_same s q pos (by exact fun _ => rfl), hc]
  rfl

/-! #### What the charge of an access leaves -/

/-- From `s` to `t` only counters of queues and channels and holds of requests have moved: each queue keeps its partition and
its PASID, and the command stays. -/
structure Charged (q pos : Nat) (s t : State) : Prop where
  frame : t = { s with queues := t.queues, channels := t.channels, holds := t.holds }
  queue : ∀ x, queueAt s q = some x → ∃ y, queueAt t q = some y ∧ y.partition = x.partition ∧ y.pasid = x.pasid
  cmd : (cmdAt s q pos).isSome = true → (cmdAt t q pos).isSome = true

theorem Charged.refl (q pos : Nat) (s : State) : Charged q pos s s := ⟨rfl, fun x hx => ⟨x, hx, rfl, rfl⟩, id⟩

theorem Charged.trans {q pos : Nat} {s t u : State} (h : Charged q pos s t) (g : Charged q pos t u) : Charged q pos s u where
  frame := g.frame.trans (by rw [h.frame])
  queue x hx := by
    obtain ⟨y, hy, hp, hi⟩ := h.queue x hx
    obtain ⟨z, hz, hp', hi'⟩ := g.queue y hy
    exact ⟨z, hz, hp'.trans hp, hi'.trans hi⟩
  cmd := g.cmd ∘ h.cmd

theorem Charged.foldl {α : Type} {q pos : Nat} {f : State → α → State} (hf : ∀ s e, Charged q pos s (f s e)) (l : List α) (s : State) :
    Charged q pos s (l.foldl f s) := by
  induction l generalizing s with
  | nil => exact .refl q pos s
  | cons e l ih => exact (hf s e).trans (ih _)

theorem modCmd_charged (s : State) (q pos : Nat) {f : Cmd → Cmd} (hf : ∀ c, (f c).pos = c.pos) : Charged q pos s (modCmd s q pos f) where
  frame := rfl
  queue x hx := ⟨_, (queueAt_modCmd_same ..).trans (congrArg _ hx), rfl, rfl⟩
  cmd h := by rw [cmdAt_modCmd_same s q pos hf, Option.isSome_map]; exact h

theorem countChannel_charged (q pos : Nat) (s : State) (a n : Nat) (write : Bool) : Charged q pos s (countChannel s a n write) where
  frame := by
    unfold countChannel modChannel
    split
    · split <;> rfl
    · rfl
  queue x hx := ⟨x, by simpa [queueAt] using hx, rfl, rfl⟩
  cmd h := by simpa [cmdAt, queueAt] using h

theorem endHolds_charged (q pos : Nat) (s : State) (f : Hold → Bool) : Charged q pos s (endHolds s f) :=
  ⟨rfl, fun x hx => ⟨x, hx, rfl, rfl⟩, id⟩

theorem chargeRange_charged (s : State) (q pos a n : Nat) (write : Bool) : Charged q pos s (chargeRange s q pos a n write) := by
  refine Charged.foldl (fun t e => ?_) _ _
  split
  · exact (countChannel_charged ..).trans (modCmd_charged _ _ _ fun _ => rfl)
  · exact modCmd_charged _ _ _ fun _ => rfl
  · exact .refl ..

theorem chargePieces_charged (s : State) (q pos : Nat) (l : List (Nat × Nat)) (write : Bool) :
    Charged q pos s (chargePieces s q pos l write) :=
  Charged.foldl (fun _ _ => chargeRange_charged ..) _ _

theorem Charged.mem {q pos : Nat} {s t : State} (h : Charged q pos s t) : t.mem = s.mem := by rw [h.frame]

theorem Charged.partitions {q pos : Nat} {s t : State} (h : Charged q pos s t) : t.partitions = s.partitions := by rw [h.frame]

theorem Charged.quiet {q pos p a n : Nat} {s t : State} (h : Charged q pos s t) (g : Quiet s p a n) : Quiet t p a n := by
  rw [h.frame]
  exact ⟨g.owned, g.nonempty, g.sound, g.uncached⟩

/-! #### Checks that T1 ranges pass -/

theorem decodeAddr_t1 {s : State} {a : Nat} (h : a < usableBytes s) : decodeAddr s a = .lpddr a := by
  rw [decodeAddr, if_pos (Nat.lt_of_lt_of_le h (usableBytes_le s)), if_pos h]

/-- A range of a queue without a PASID is one piece, its own. -/
theorem rangePieces_noPasid (s : State) (p : Nat) (write : Bool) (a : Nat) {n : Nat} (h : 0 < n) :
    rangePieces s p none write a n = some [(a, n)] := by
  rw [rangePieces, pieces, if_neg (by omega)]

/-- The piece of a range in one page starts inside the range. -/
theorem pagePieces_start_lt {a n : Nat} {e : Nat × Nat} (h : e ∈ pagePieces a n) : e.1 < a + n := by
  unfold pagePieces at h
  split at h
  · exact absurd h (List.not_mem_nil)
  · obtain ⟨i, hi, rfl⟩ := List.mem_map.mp h
    have := List.mem_range.mp hi
    dsimp only
    omega

theorem tierPieces_t1 {s : State} (p : Nat) (cmd : Option CmdRef) (reachesT2 read : Bool) {l : List (Nat × Nat)}
    (h : ∀ e ∈ l, e.1 < usableBytes s) : tierPieces p cmd reachesT2 read s true l = .ready s := by
  induction l with
  | nil => rfl
  | cons e l ih =>
    rw [tierPieces]
    simp only [tierPiece, decodeAddr_t1 (h e (List.mem_cons_self ..))]
    exact ih fun x hx => h x (List.mem_cons_of_mem _ hx)

/-- T1 makes no request wait (Table 5-6). -/
theorem tierReady_t1 {s : State} (p : Nat) (cmd : Option CmdRef) (reachesT2 read : Bool) {a n : Nat} (h : a + n ≤ usableBytes s) :
    ∃ f, tierReady s p cmd reachesT2 read [(a, n)] = .ready (endHolds s f) := by
  have hready := tierPieces_t1 (s := s) p cmd reachesT2 read (l := [(a, n)].flatMap (fun e => pagePieces e.1 e.2)) (by
    intro e he
    rw [List.flatMap_cons, List.flatMap_nil, List.append_nil] at he
    exact Nat.lt_of_lt_of_le (pagePieces_start_lt he) h)
  exact ⟨_, by rw [tierReady, hready]⟩

theorem Quiet.reachable {s : State} {p a n : Nat} (h : Quiet s p a n) : reachCoherent s p a n = true := by
  have hlow : a < 0x20000000000 := by
    have := h.usable
    have := h.nonempty
    have := usableBytes_le s
    omega
  rw [reachCoherent, if_pos hlow, h.owned]

/-! #### Reads and writes of commands -/

/-- A command of a queue without a PASID reads a quiet range from memory. -/
theorem cmdRead_quiet {s : State} {q a n : Nat} {x : Queue} (pos : Nat) (hx : queueAt s q = some x) (hp : x.pasid = none)
    (h : Quiet s x.partition a n) : ∃ t, cmdRead s q pos a n = .ok t (memBytes s.mem a n) ∧ Charged q pos s t := by
  obtain ⟨f, hready⟩ := tierReady_t1 x.partition (some { queue := q, pos := pos }) true true h.usable
  have hcharged := endHolds_charged q pos s f
  have hquiet := hcharged.quiet h
  refine ⟨chargePieces (endHolds s f) q pos [(a, n)] false, ?_, hcharged.trans (chargePieces_charged ..)⟩
  simp [cmdRead, hx, hp, rangePieces_noPasid _ _ _ _ h.nonempty, unitMayRead, h.reachable, hready, hquiet.sound, readPieces,
    cohRead_unheld hquiet.unheld]

/-- A command of a queue without a PASID writes a quiet range to memory. -/
theorem cmdWrite_quiet {s : State} {q a : Nat} {bs : List Byte} {x : Queue} (pos : Nat) (hx : queueAt s q = some x)
    (hp : x.pasid = none) (h : Quiet s x.partition a bs.length) :
    ∃ t, cmdWrite s q pos a bs = .ok t [] ∧ t.mem = memPutBytes s.mem a bs ∧ t.partitions = s.partitions
      ∧ ((cmdAt s q pos).isSome = true → (cmdAt t q pos).isSome = true) := by
  obtain ⟨f, hready⟩ := tierReady_t1 x.partition (some { queue := q, pos := pos }) true false h.usable
  have hcharged := endHolds_charged q pos s f
  generalize endHolds s f = u at hready hcharged
  have hcost := chargePieces_charged (moduleWrite u a bs) q pos [(a, bs.length)] true
  refine ⟨chargePieces (moduleWrite u a bs) q pos [(a, bs.length)] true, ?_, ?_, ?_, fun hc => hcost.cmd ?_⟩
  · simp [cmdWrite, hx, hp, rangePieces_noPasid _ _ _ _ h.nonempty, unitMayWrite, h.reachable, hready, writePieces]
  · rw [hcost.mem, (moduleWrite_quiet (hcharged.quiet h)).1, hcharged.mem]
  · rw [hcost.partitions, (moduleWrite_memOnly ..).partitions, hcharged.partitions]
  · simpa [cmdAt, queueAt] using hcharged.cmd hc

theorem NoRelayout.congr {s t : State} {p : Nat} (h : NoRelayout s p) (hpart : t.partitions = s.partitions) : NoRelayout t p := by
  simpa only [NoRelayout, jobAt, partAt, hpart] using h

/-- Where no table is being re-laid out, a write restarts nothing (R255). -/
theorem restartTouched_noRelayout {s : State} {p : Nat} (h : NoRelayout s p) (a n : Nat) : restartTouched s p a n = s := by
  unfold restartTouched
  cases hj : jobAt s p with
  | none => rfl
  | some j =>
    have hnone := h j hj
    dsimp only
    generalize j.tables = l at hnone
    induction l with
    | nil => rfl
    | cons e l ih =>
      rw [List.foldl_cons, hnone e (List.mem_cons_self ..)]
      exact ih fun x hx => hnone x (List.mem_cons_of_mem _ hx)

/-! #### COPY and FILL -/

/-- A COPY between quiet ranges puts the source's bytes at the destination and is over (R405). -/
theorem execCopy_quiet {s : State} {q : BitVec 12} {pos : BitVec 32} {x : Queue} {c : Cmd} (h : Working s q.toNat pos.toNat 0x02 x c)
    (hp : x.pasid = none) (hturn : copyTurn s x.partition c = true) (hr : NoRelayout s x.partition)
    (hsrc : Quiet s x.partition (c.field 0x20 8) (c.field 0x30 8)) (hdst : Quiet s x.partition (c.field 0x28 8) (c.field 0x30 8)) :
    ∃ t, execCopy q pos s = .next t
      ∧ (cmdAt t q.toNat pos.toNat).map (fun d => (d.phase, d.status)) = some (.finished, stOk)
      ∧ t.mem = memPutBytes s.mem (c.field 0x28 8) (memBytes s.mem (c.field 0x20 8) (c.field 0x30 8)) := by
  obtain ⟨t, hread, hcharged⟩ := cmdRead_quiet pos.toNat h.queue hp hsrc
  obtain ⟨y, hy, hpart, hpasid⟩ := hcharged.queue x h.queue
  have hdst' : Quiet t y.partition (c.field 0x28 8) (memBytes s.mem (c.field 0x20 8) (c.field 0x30 8)).length := by
    rw [hpart, memBytes_length]
    exact hcharged.quiet hdst
  obtain ⟨u, hwrite, hmem, hparts, hcmd⟩ := cmdWrite_quiet pos.toNat hy (hpasid.trans hp) hdst'
  have hru : NoRelayout u x.partition := hr.congr (hparts.trans hcharged.partitions)
  refine ⟨finishCmd u q.toNat pos.toNat stOk 0, ?_, finishCmd_done _ _ (hcmd (hcharged.cmd (by rw [h.cmd]; rfl))), ?_⟩
  · simp only [execCopy, runCmd_working h, hturn, hread, hwrite, restartTouched_noRelayout hru]
    rfl
  · rw [finishCmd_mem, hmem, hcharged.mem]

/-- A FILL of a quiet range puts its pattern there and is over (R405). -/
theorem execFill_quiet {s : State} {q : BitVec 12} {pos : BitVec 32} {x : Queue} {c : Cmd} (h : Working s q.toNat pos.toNat 0x03 x c)
    (hp : x.pasid = none) (hturn : copyTurn s x.partition c = true) (hr : NoRelayout s x.partition)
    (hdst : Quiet s x.partition (c.field 0x20 8) (c.field 0x28 8)) :
    ∃ t, execFill q pos s = .next t
      ∧ (cmdAt t q.toNat pos.toNat).map (fun d => (d.phase, d.status)) = some (.finished, stOk)
      ∧ t.mem = memPutBytes s.mem (c.field 0x20 8) (fillBytes (c.field 0x30 8) (c.field 0x28 8)) := by
  have hdst' : Quiet s x.partition (c.field 0x20 8) (fillBytes (c.field 0x30 8) (c.field 0x28 8)).length := by
    rw [fillBytes_length]
    exact hdst
  obtain ⟨u, hwrite, hmem, hparts, hcmd⟩ := cmdWrite_quiet pos.toNat h.queue hp hdst'
  refine ⟨finishCmd u q.toNat pos.toNat stOk 0, ?_, finishCmd_done _ _ (hcmd (by rw [h.cmd]; rfl)), ?_⟩
  · simp only [execFill, runCmd_working h, hturn, hwrite, restartTouched_noRelayout (hr.congr hparts)]
    rfl
  · rw [finishCmd_mem, hmem]

theorem memByte_fill {m : List Host.Cell} (w : memWf m = true) (a pattern : Nat) {n i : Nat} (hi : i < n) :
    memByte (memPutBytes m a (fillBytes pattern n)) (a + i) = BitVec.ofNat 8 (natField pattern (8 * (i % 8)) 8) := by
  rw [memByte_memPutBytes_same _ w (by rw [fillBytes_length]; exact hi)]
  simp [fillBytes]

/-- Settles O39: each command and operation is one write of memory, whose bytes and frame are those of `memPutBytes`. -/
theorem copyFillAndWgbCommit : Obligations.CopyFillAndWgbCommit := by
  intro s q pos x c core qn n p k done tile hok
  have hwf : memWf s.mem = true := memWf_of_memOk hok
  refine ⟨fun hpasid hturn hr => ⟨fun hw hsrc hdst => ?copy, fun hw hdst => ?fill⟩,
    fun i hi => ⟨?zero, fun src => ?fold⟩, fun r hfind hadd hfinal hlen hquiet => ?spill⟩
  case copy =>
    obtain ⟨t, ht, hdone, hmem⟩ := execCopy_quiet hw hpasid hturn hr hsrc hdst
    obtain ⟨hdata, hframe⟩ := memPutBytes_range (a := c.field 0x28 8) hwf
      (memBytes_length s.mem (c.field 0x20 8) (c.field 0x30 8))
    rw [← hmem] at hdata hframe
    exact ⟨t, (exec_copy ..).trans ht, hdone, hdata, hframe⟩
  case fill =>
    obtain ⟨t, ht, hdone, hmem⟩ := execFill_quiet hw hpasid hturn hr hdst
    obtain ⟨-, hframe⟩ := memPutBytes_range (a := c.field 0x20 8) hwf (fillBytes_length (c.field 0x30 8) (c.field 0x28 8))
    rw [← hmem] at hframe
    refine ⟨t, (exec_fill ..).trans ht, hdone, fun i hi => ?_, hframe⟩
    rw [hmem]
    exact memByte_fill hwf _ _ hi
  case zero =>
    refine ⟨fun a => ?_, ?_, fun j hj => ?_⟩
    · rw [applyWgb_zero_mem]
      exact memByte_memClear hwf _ _ _
    · rw [applyWgb_zero_torn s k hi, if_pos rfl]
    · rw [applyWgb_zero_torn s k hi, if_neg hj]
  case fold =>
    have hlen : (wordBytes (foldedWords s k src i)).length = 0x4000 := by rw [wordBytes_length, foldedWords_length]
    obtain ⟨hdata, hframe⟩ := memPutBytes_range (a := tile i) hwf hlen
    rw [← applyWgb_fold_mem] at hdata hframe
    refine ⟨fun e he => ?_, hframe⟩
    have he' : e < (foldedWords s k src i).length := by rw [foldedWords_length]; exact he
    rw [hdata, fieldAt_wordBytes he', foldedWords_getElem]
    rfl
  case spill =>
    obtain ⟨hspills, hmem⟩ := applySpill_plain hfind hadd hfinal hlen hquiet.unheld
    obtain ⟨hdata, hframe⟩ := memPutBytes_range (a := r.desc.addr) hwf hlen
    rw [← hmem] at hdata hframe
    exact ⟨applySpill s k, exec_spillRecordApply core s, hspills, hdata, hframe⟩

end Sys2Proof.Machine
end

section
/-! ### Registers of a core: what a read finds after a write, and the elements of a vector register (R116, R128, R129) -/

namespace Sys2Proof.Machine

/-! #### Scalar, vector and condition registers -/

@[simp] theorem getX_zero (c : Core) : getX c 0 = 0 := rfl

@[simp] theorem setX_zero (c : Core) (x : Word32) : setX c 0 x = c := rfl

theorem setX_of_ne {r : BitVec 5} (h : r ≠ 0) (c : Core) (x : Word32) :
    setX c r x = { c with regs := { c.regs with x := c.regs.x.set r.toNat x r.isLt } } := if_neg h

theorem getX_setX_same {r : BitVec 5} (h : r ≠ 0) (c : Core) (x : Word32) : getX (setX c r x) r = x := by
  rw [setX_of_ne h, getX, if_neg h]
  exact Vector.getElem_set_self r.isLt

theorem getX_setX_other (c : Core) {r q : BitVec 5} (x : Word32) (h : q ≠ r) : getX (setX c r x) q = getX c q := by
  by_cases hr : r = 0
  · rw [hr, setX_zero]
  · have hget : (setX c r x).regs.x.get q.toFin = c.regs.x.get q.toFin := by
      rw [setX_of_ne hr]
      exact Vector.getElem_set_ne r.isLt q.isLt fun hn => h (BitVec.eq_of_toNat_eq hn.symm)
    simp only [getX, hget]

/-- A write of an x register leaves the vector and the condition registers. -/
theorem setX_regs (c : Core) (r : BitVec 5) (x : Word32) : (setX c r x).regs.v = c.regs.v ∧ (setX c r x).regs.c = c.regs.c := by
  unfold setX
  split <;> exact ⟨rfl, rfl⟩

@[simp] theorem getV_setX (c : Core) (r q : BitVec 5) (x : Word32) : getV (setX c r x) q = getV c q := by
  rw [getV, (setX_regs c r x).1, getV]

@[simp] theorem getC_setX (c : Core) (r : BitVec 5) (a : BitVec 2) (x : Word32) : getC (setX c r x) a = getC c a := by
  rw [getC, (setX_regs c r x).2, getC]

@[simp] theorem getX_setV (c : Core) (r q : BitVec 5) (v : BitVec 2048) : getX (setV c r v) q = getX c q := rfl
@[simp] theorem getC_setV (c : Core) (r : BitVec 5) (a : BitVec 2) (v : BitVec 2048) : getC (setV c r v) a = getC c a := rfl
@[simp] theorem getX_setC (c : Core) (a : BitVec 2) (q : BitVec 5) (y : Word64) : getX (setC c a y) q = getX c q := rfl
@[simp] theorem getV_setC (c : Core) (a : BitVec 2) (q : BitVec 5) (y : Word64) : getV (setC c a y) q = getV c q := rfl

@[simp] theorem getC_setC_same (c : Core) (a : BitVec 2) (y : Word64) : getC (setC c a y) a = y :=
  Vector.getElem_set_self a.isLt

theorem getC_setC_other (c : Core) {a b : BitVec 2} (y : Word64) (h : b ≠ a) : getC (setC c a y) b = getC c b :=
  Vector.getElem_set_ne a.isLt b.isLt fun hn => h (BitVec.eq_of_toNat_eq hn.symm)

/-! #### Elements of a vector register -/

/-- A field below the place where two numbers are put together. -/
theorem natField_mul_add_low (x y : Nat) {n lo w : Nat} (h : lo + w ≤ n) : natField (x * 2 ^ n + y) lo w = natField y lo w := by
  obtain ⟨d, rfl⟩ := Nat.exists_eq_add_of_le h
  simp only [natField, Nat.shiftRight_eq_div_pow]
  rw [show x * 2 ^ (lo + w + d) + y = y + 2 ^ lo * (2 ^ w * (2 ^ d * x)) by rw [pow_add, pow_add]; ring,
    Nat.add_mul_div_left _ _ (by positivity), Nat.add_mul_mod_self_left]

/-- A field above the place where two numbers are put together. -/
theorem natField_mul_add_high {x y n : Nat} (hy : y < 2 ^ n) (d w : Nat) : natField (x * 2 ^ n + y) (n + d) w = natField x d w := by
  simp only [natField, Nat.shiftRight_eq_div_pow]
  rw [Nat.pow_add, ← Nat.div_div_eq_div_mul, Nat.mul_comm x, Nat.mul_add_div (by positivity), Nat.div_eq_of_lt hy, Nat.add_zero]

theorem packElems_lt (w : Nat) (xs : List Nat) : packElems w xs < 2 ^ (w * xs.length) := by
  induction xs with
  | nil => simp [packElems]
  | cons x xs ih =>
    have hx : x % 2 ^ w < 2 ^ w := Nat.mod_lt _ (by positivity)
    rw [packElems, List.length_cons, Nat.mul_succ, Nat.add_comm (w * xs.length) w, pow_add]
    calc x % 2 ^ w + 2 ^ w * packElems w xs < 2 ^ w * (packElems w xs + 1) := by rw [Nat.mul_succ]; omega
      _ ≤ 2 ^ w * 2 ^ (w * xs.length) := Nat.mul_le_mul_left _ ih

theorem natField_packElems (w : Nat) {xs : List Nat} {i : Nat} (h : i < xs.length) :
    natField (packElems w xs) (w * i) w = xs[i] % 2 ^ w := by
  induction xs generalizing i with
  | nil => cases h
  | cons x xs ih =>
    have hx : x % 2 ^ w < 2 ^ w := Nat.mod_lt _ (by positivity)
    rw [packElems, Nat.add_comm, Nat.mul_comm (2 ^ w)]
    cases i with
    | zero => rw [Nat.mul_zero, natField_mul_add_low _ _ (by omega)]; simp [natField]
    | succ i =>
      rw [Nat.mul_succ, Nat.add_comm (w * i), natField_mul_add_high hx, ih (by simpa using h), List.getElem_cons_succ]

/-- A bit vector with its low `m` bits replaced. -/
theorem toNat_ofNat_replaceLow {n m y : Nat} (v : BitVec n) (hm : m ≤ n) (hy : y < 2 ^ m) :
    (BitVec.ofNat n (v.toNat / 2 ^ m * 2 ^ m + y)).toNat = v.toNat / 2 ^ m * 2 ^ m + y := by
  obtain ⟨d, rfl⟩ := Nat.exists_eq_add_of_le hm
  have hv : v.toNat / 2 ^ m < 2 ^ d := by
    rw [Nat.div_lt_iff_lt_mul (by positivity), ← pow_add, Nat.add_comm d]
    exact v.isLt
  rw [BitVec.toNat_ofNat, Nat.mod_eq_of_lt]
  calc v.toNat / 2 ^ m * 2 ^ m + y < (v.toNat / 2 ^ m + 1) * 2 ^ m := by rw [Nat.succ_mul]; exact Nat.add_lt_add_left hy _
    _ ≤ 2 ^ d * 2 ^ m := Nat.mul_le_mul_right _ hv
    _ = 2 ^ (m + d) := by rw [pow_add, Nat.mul_comm]

/-- The image that `putElems` writes: what it keeps of the old one above the new elements. -/
theorem putElems_toNat (v : BitVec 2048) {w : Nat} {xs : List Nat} (h : w * xs.length ≤ 2048) :
    (putElems v w xs).toNat = v.toNat / 2 ^ (w * xs.length) * 2 ^ (w * xs.length) + packElems w xs :=
  toNat_ofNat_replaceLow v h (packElems_lt w xs)

/-- An element that `putElems` wrote. -/
theorem elem_putElems_written (v : BitVec 2048) {w i : Nat} {xs : List Nat} (h : w * xs.length ≤ 2048) (hi : i < xs.length) :
    elem (putElems v w xs) w i = xs[i] % 2 ^ w := by
  have hin : w * i + w ≤ w * xs.length := by rw [← Nat.mul_succ]; exact Nat.mul_le_mul_left w hi
  rw [elem, putElems_toNat v h, natField_mul_add_low _ _ hin, natField_packElems w hi]

/-- An element above those that `putElems` wrote. -/
theorem elem_putElems_kept (v : BitVec 2048) {w i : Nat} {xs : List Nat} (h : w * xs.length ≤ 2048) (hi : xs.length ≤ i) :
    elem (putElems v w xs) w i = elem v w i := by
  obtain ⟨d, rfl⟩ := Nat.exists_eq_add_of_le hi
  rw [elem, putElems_toNat v h, Nat.mul_add, natField_mul_add_high (packElems_lt w xs), elem, Nat.mul_add]
  simp only [natField, Nat.shiftRight_eq_div_pow, Nat.div_div_eq_div_mul, pow_add]

/-! #### The step of one core -/

theorem coreAt_coreStep_other (s : State) {k i : Nat} (f : Core → Core) (pc : Word32) (h : i ≠ k) :
    coreAt (coreStep s k f pc) i = coreAt s i := coreAt_setCore_other s _ h

theorem regs_coreStep (s : State) (k : Nat) (f : Core → Core) (pc : Word32) :
    (coreAt (coreStep s k f pc) k).regs = { (f (coreAt s k)).regs with pc := pc } := by
  rw [coreStep, coreAt_setCore_same]

/-- Settles O25: a step replaces one core, a register write one register, and the elements of a vector write lie below the others. -/
theorem registerInstructionFrame : Obligations.RegisterInstructionFrame := by
  intro s k f pc
  refine ⟨rfl, fun i hi => coreAt_coreStep_other s f pc hi, regs_coreStep s k f pc, ?registers, ?elements⟩
  case registers =>
    intro c r q x v a b y
    exact ⟨by rw [setX_zero], getX_zero c, fun hr => getX_setX_same hr c x, fun hq => getX_setX_other c x hq, getV_setX c r q x,
      getC_setX c r a x, getV_setV_same c r v, fun hq => getV_setV_other c v hq, getX_setV c r q v, getC_setV c r a v,
      getC_setC_same c a y, fun hb => getC_setC_other c y hb, getX_setC c a q y, getV_setC c a q y⟩
  case elements =>
    intro v w i xs _ hlen _
    by_cases hi : i < xs.length
    · rw [List.getElem?_eq_getElem hi]
      exact elem_putElems_written v hlen hi
    · rw [List.getElem?_eq_none (Nat.le_of_not_lt hi)]
      exact elem_putElems_kept v hlen (Nat.le_of_not_lt hi)

end Sys2Proof.Machine
end

section
/-! ### Scalar words: what each opcode of RV32IM does, and where its format keeps each field (R116) -/

namespace Sys2Proof.Machine

/-! #### Numbers and words -/

theorem toNat_ofNat_of_lt {w x : Nat} (h : x < 2 ^ w) : (BitVec.ofNat w x).toNat = x :=
  (BitVec.toNat_ofNat x w).trans (Nat.mod_eq_of_lt h)

theorem toInt_ofNat_eq_natToInt (w x : Nat) : (BitVec.ofNat w x).toInt = natToInt w x := by
  simp [BitVec.toInt, natToInt]

theorem ofNat_intToNat (w : Nat) (z : Int) : BitVec.ofNat w (intToNat w z) = BitVec.ofInt w z := by
  apply BitVec.eq_of_toNat_eq
  rw [BitVec.toNat_ofNat, BitVec.toNat_ofInt, intToNat, Nat.mod_eq_of_lt]
  have := Int.emod_lt_of_pos z (b := (2 ^ w : Nat)) (by positivity)
  have := Int.emod_nonneg z (b := (2 ^ w : Nat)) (by positivity)
  omega

/-- The word of a sign-extended field. -/
theorem ofNat_sext32 (w x : Nat) : BitVec.ofNat 32 (sext32 w x) = (BitVec.ofNat w x).signExtend 32 := by
  rw [sext32, ofNat_intToNat, BitVec.signExtend, toInt_ofNat_eq_natToInt]

/-- The sign-extended value of a bit vector's number. -/
theorem ofNat_sext32_toNat {w : Nat} (x : BitVec w) : BitVec.ofNat 32 (sext32 w x.toNat) = x.signExtend 32 := by
  rw [ofNat_sext32, BitVec.ofNat_toNat, BitVec.setWidth_eq]

/-- An immediate sign-extended in two stages. -/
theorem signExtend_ofNat_sext32 {w v : Nat} (hw : 0 < w) (hv : w ≤ v) (hv32 : v ≤ 32) (x : BitVec w) :
    (BitVec.ofNat v (sext32 w x.toNat)).signExtend 32 = x.signExtend 32 := by
  have hmid : BitVec.ofNat v (sext32 w x.toNat) = x.signExtend v := by
    rw [← BitVec.setWidth_ofNat_of_le hv32, ofNat_sext32_toNat]
    apply BitVec.eq_of_getLsbD_eq
    intro i hi
    simp only [BitVec.getLsbD_setWidth, BitVec.getLsbD_signExtend, hi, decide_true, Bool.true_and, show i < 32 by omega]
  rw [hmid]
  apply BitVec.eq_of_toInt_eq
  rw [BitVec.toInt_signExtend_of_le hv32, BitVec.toInt_signExtend_of_le hv, BitVec.toInt_signExtend_of_le (by omega)]

/-! #### The opcodes -/

section
variable {s : State} {k w : Nat} {next : Word32}

theorem execWord_lui (h : natField w 0 7 = 0x37) : execWord s k w next =
    onCore s k (fun x => setX x (BitVec.ofNat 5 (natField w 7 5)) (BitVec.ofNat 32 (natField w 12 20 * 4096))) next := by
  simp only [execWord, h]

theorem execWord_auipc (h : natField w 0 7 = 0x17) : execWord s k w next =
    onCore s k (fun x => setX x (BitVec.ofNat 5 (natField w 7 5))
      ((coreAt s k).regs.pc + BitVec.ofNat 32 (natField w 12 20 * 4096))) next := by
  simp only [execWord, h]

theorem execWord_jal (h : natField w 0 7 = 0x6F) : execWord s k w next =
    onCore s k (fun x => setX x (BitVec.ofNat 5 (natField w 7 5)) next)
      ((coreAt s k).regs.pc + BitVec.ofNat 32 (sext32 21
        (natField w 31 1 * 2 ^ 20 + natField w 12 8 * 2 ^ 12 + natField w 20 1 * 2 ^ 11 + natField w 21 10 * 2))) := by
  simp only [execWord, h]

theorem execWord_jalr (h : natField w 0 7 = 0x67) (h3 : natField w 12 3 = 0) : execWord s k w next =
    onCore s k (fun x => setX x (BitVec.ofNat 5 (natField w 7 5)) next)
      ((getX (coreAt s k) (BitVec.ofNat 5 (natField w 15 5)) + BitVec.ofNat 32 (sext32 12 (natField w 20 12))) &&& 0xFFFFFFFE) := by
  simp only [execWord, h, h3, if_true]

theorem execWord_branch (h : natField w 0 7 = 0x63) (h2 : natField w 12 3 ≠ 2) (h3 : natField w 12 3 ≠ 3) : execWord s k w next =
    onCore s k id (if branchTaken (natField w 12 3) (getX (coreAt s k) (BitVec.ofNat 5 (natField w 15 5)))
        (getX (coreAt s k) (BitVec.ofNat 5 (natField w 20 5)))
      then (coreAt s k).regs.pc + BitVec.ofNat 32 (sext32 13
        (natField w 31 1 * 2 ^ 12 + natField w 7 1 * 2 ^ 11 + natField w 25 6 * 2 ^ 5 + natField w 8 4 * 2))
      else next) := by
  simp only [execWord, h, h2, h3, or_self, if_false]

theorem execWord_opImm (h : natField w 0 7 = 0x13) (h1 : natField w 12 3 ≠ 1) (h5 : natField w 12 3 ≠ 5) : execWord s k w next =
    onCore s k (fun x => setX x (BitVec.ofNat 5 (natField w 7 5)) (aluOp (natField w 12 3) false
      (getX (coreAt s k) (BitVec.ofNat 5 (natField w 15 5))) (BitVec.ofNat 32 (sext32 12 (natField w 20 12))))) next := by
  have hsub : (natField w 12 3 == 5) = false := beq_eq_false_iff_ne.mpr h5
  simp [execWord, h, h1, h5, hsub]

/-- The shifts by an immediate: SLLI, SRLI and, with the alternate funct7, SRAI. -/
theorem execWord_shiftImm (h : natField w 0 7 = 0x13)
    (h3 : natField w 12 3 = 1 ∧ natField w 25 7 = 0 ∨ natField w 12 3 = 5 ∧ (natField w 25 7 = 0 ∨ natField w 25 7 = 0x20)) :
    execWord s k w next =
      onCore s k (fun x => setX x (BitVec.ofNat 5 (natField w 7 5)) (aluOp (natField w 12 3) (natField w 25 7 == 0x20)
        (getX (coreAt s k) (BitVec.ofNat 5 (natField w 15 5))) (BitVec.ofNat 32 (natField w 20 5)))) next := by
  obtain ⟨h1, h7⟩ | ⟨h5, h7 | h7⟩ := h3
  · simp [execWord, h, h1, h7]
  · simp [execWord, h, h5, h7]
  · simp [execWord, h, h5, h7]

theorem execWord_add (h : natField w 0 7 = 0x33) (h3 : natField w 12 3 = 0) (h7 : natField w 25 7 = 0) : execWord s k w next =
    onCore s k (fun x => setX x (BitVec.ofNat 5 (natField w 7 5)) (getX (coreAt s k) (BitVec.ofNat 5 (natField w 15 5))
      + getX (coreAt s k) (BitVec.ofNat 5 (natField w 20 5)))) next := by
  simp only [execWord, h, h3, h7]
  rfl

/-- The bytes that a load of a funct3 reads. -/
def loadBytes (f3 : Nat) : Nat := if f3 % 4 = 0 then 1 else if f3 % 4 = 1 then 2 else 4

/-- A load that no check stops: held, or the value extended as funct3 says. -/
theorem execWord_load {off : Nat} (h : natField w 0 7 = 0x03) (h3 : natField w 12 3 ≠ 3) (h6 : natField w 12 3 < 6)
    (hoff : (getX (coreAt s k) (BitVec.ofNat 5 (natField w 15 5)) + BitVec.ofNat 32 (sext32 12 (natField w 20 12))).toNat = off)
    (hf : loadFault (coreAt s k) off (loadBytes (natField w 12 3)) = none) : execWord s k w next =
      if loadHeld s k [(off, loadBytes (natField w 12 3))] then .hold
      else onCore s k (fun x => setX x (BitVec.ofNat 5 (natField w 7 5)) (BitVec.ofNat 32
        (if natField w 12 3 < 3 then
            sext32 (8 * loadBytes (natField w 12 3)) (windowRead s k off (loadBytes (natField w 12 3)))
          else windowRead s k off (loadBytes (natField w 12 3))))) next := by
  have hlisted : ¬ (natField w 12 3 = 3 ∨ natField w 12 3 ≥ 6) := by omega
  simp only [execWord, h, hoff, ← loadBytes.eq_def, hf, if_neg hlisted]

/-- A store that no check stops: held, or the low bytes written. -/
theorem execWord_store {off : Nat} (h : natField w 0 7 = 0x23) (h3 : natField w 12 3 < 3)
    (hoff : (getX (coreAt s k) (BitVec.ofNat 5 (natField w 15 5))
      + BitVec.ofNat 32 (sext32 12 (natField w 25 7 * 32 + natField w 7 5))).toNat = off)
    (hf : storeFault (coreAt s k) off (2 ^ natField w 12 3) = none) : execWord s k w next =
      if storeHeld s k [(off, 2 ^ natField w 12 3)] then .hold
      else .retire (windowWrite s k off (2 ^ natField w 12 3)
        (getX (coreAt s k) (BitVec.ofNat 5 (natField w 20 5))).toNat) next := by
  simp only [execWord, h, hoff, hf, if_neg (Nat.not_le.mpr h3)]

end

/-! #### The formats -/

/-- A word of the I format. -/
def iFormat (i12 : BitVec 12) (rs1 : BitVec 5) (f3 : Nat) (rd : BitVec 5) (opc : Nat) : Word32 :=
  i12 ++ rs1 ++ BitVec.ofNat 3 f3 ++ rd ++ BitVec.ofNat 7 opc

/-- A word of the U format. -/
def uFormat (i20 : BitVec 20) (rd : BitVec 5) (opc : Nat) : Word32 := i20 ++ rd ++ BitVec.ofNat 7 opc

/-- A word of the J format, its offset in units of 2 bytes. -/
def jFormat (i20 : BitVec 20) (rd : BitVec 5) : Word32 :=
  i20.extractLsb' 19 1 ++ i20.extractLsb' 0 10 ++ i20.extractLsb' 10 1 ++ i20.extractLsb' 11 8 ++ rd ++ 0x6F#7

/-- A word of the B format, its offset in units of 2 bytes. -/
def bFormat (i12 : BitVec 12) (rs2 rs1 : BitVec 5) (f3 : Nat) : Word32 :=
  i12.extractLsb' 11 1 ++ i12.extractLsb' 4 6 ++ rs2 ++ rs1 ++ BitVec.ofNat 3 f3 ++ i12.extractLsb' 0 4 ++ i12.extractLsb' 10 1 ++ 0x63#7

/-- A word of the S format. -/
def sFormat (i12 : BitVec 12) (rs2 rs1 : BitVec 5) (f3 : Nat) : Word32 :=
  i12.extractLsb' 5 7 ++ rs2 ++ rs1 ++ BitVec.ofNat 3 f3 ++ i12.extractLsb' 0 5 ++ 0x23#7

/-- A shift by an immediate. -/
def shiftFormat (f7 : Nat) (sh rs1 : BitVec 5) (f3 : Nat) (rd : BitVec 5) : Word32 :=
  BitVec.ofNat 7 f7 ++ sh ++ rs1 ++ BitVec.ofNat 3 f3 ++ rd ++ 0x13#7

/-- The value of an upper immediate. -/
theorem upper_eq (i20 : BitVec 20) : BitVec.ofNat 32 (i20.toNat * 4096) = i20 ++ 0#12 := by
  apply BitVec.eq_of_toNat_eq
  rw [append_toNat, toNat_ofNat_of_lt (by have := i20.isLt; omega)]
  simp

theorem uFormat_fields (i20 : BitVec 20) (rd : BitVec 5) {opc : Nat} (ho : opc < 128) :
    natField (uFormat i20 rd opc).toNat 0 7 = opc ∧ natField (uFormat i20 rd opc).toNat 7 5 = rd.toNat
    ∧ natField (uFormat i20 rd opc).toNat 12 20 = i20.toNat := by
  simp (disch := decide) only [uFormat, natField_append_low, natField_append_high, natField_all, Nat.reduceSub, and_true]
  exact toNat_ofNat_of_lt ho

theorem jFormat_fields (i20 : BitVec 20) (rd : BitVec 5) :
    natField (jFormat i20 rd).toNat 0 7 = 0x6F ∧ natField (jFormat i20 rd).toNat 7 5 = rd.toNat
    ∧ natField (jFormat i20 rd).toNat 31 1 * 2 ^ 20 + natField (jFormat i20 rd).toNat 12 8 * 2 ^ 12
        + natField (jFormat i20 rd).toNat 20 1 * 2 ^ 11 + natField (jFormat i20 rd).toNat 21 10 * 2 = (i20 ++ 0#1).toNat := by
  simp (disch := decide) only [jFormat, natField_append_low, natField_append_high, natField_all, Nat.reduceSub, true_and]
  refine ⟨rfl, ?_⟩
  have := i20.isLt
  simp only [BitVec.extractLsb'_toNat, Nat.shiftRight_eq_div_pow, append_toNat, BitVec.toNat_ofNat]
  omega

theorem bFormat_fields (i12 : BitVec 12) (rs2 rs1 : BitVec 5) {f3 : Nat} (h3 : f3 < 8) :
    natField (bFormat i12 rs2 rs1 f3).toNat 0 7 = 0x63 ∧ natField (bFormat i12 rs2 rs1 f3).toNat 12 3 = f3
    ∧ natField (bFormat i12 rs2 rs1 f3).toNat 15 5 = rs1.toNat ∧ natField (bFormat i12 rs2 rs1 f3).toNat 20 5 = rs2.toNat
    ∧ natField (bFormat i12 rs2 rs1 f3).toNat 31 1 * 2 ^ 12 + natField (bFormat i12 rs2 rs1 f3).toNat 7 1 * 2 ^ 11
        + natField (bFormat i12 rs2 rs1 f3).toNat 25 6 * 2 ^ 5 + natField (bFormat i12 rs2 rs1 f3).toNat 8 4 * 2 = (i12 ++ 0#1).toNat := by
  simp (disch := decide) only [bFormat, natField_append_low, natField_append_high, natField_all, Nat.reduceSub, true_and]
  refine ⟨rfl, toNat_ofNat_of_lt h3, ?_⟩
  have := i12.isLt
  simp only [BitVec.extractLsb'_toNat, Nat.shiftRight_eq_div_pow, append_toNat, BitVec.toNat_ofNat]
  omega

theorem sFormat_fields (i12 : BitVec 12) (rs2 rs1 : BitVec 5) {f3 : Nat} (h3 : f3 < 8) :
    natField (sFormat i12 rs2 rs1 f3).toNat 0 7 = 0x23 ∧ natField (sFormat i12 rs2 rs1 f3).toNat 12 3 = f3
    ∧ natField (sFormat i12 rs2 rs1 f3).toNat 15 5 = rs1.toNat ∧ natField (sFormat i12 rs2 rs1 f3).toNat 20 5 = rs2.toNat
    ∧ natField (sFormat i12 rs2 rs1 f3).toNat 25 7 * 32 + natField (sFormat i12 rs2 rs1 f3).toNat 7 5 = i12.toNat := by
  simp (disch := decide) only [sFormat, natField_append_low, natField_append_high, natField_all, Nat.reduceSub, true_and]
  refine ⟨rfl, toNat_ofNat_of_lt h3, ?_⟩
  have := i12.isLt
  simp only [BitVec.extractLsb'_toNat, Nat.shiftRight_eq_div_pow]
  omega

theorem shiftFormat_fields {f7 f3 : Nat} (h7 : f7 < 128) (h3 : f3 < 8) (sh rs1 rd : BitVec 5) :
    natField (shiftFormat f7 sh rs1 f3 rd).toNat 0 7 = 0x13 ∧ natField (shiftFormat f7 sh rs1 f3 rd).toNat 7 5 = rd.toNat
    ∧ natField (shiftFormat f7 sh rs1 f3 rd).toNat 12 3 = f3 ∧ natField (shiftFormat f7 sh rs1 f3 rd).toNat 15 5 = rs1.toNat
    ∧ natField (shiftFormat f7 sh rs1 f3 rd).toNat 20 5 = sh.toNat ∧ natField (shiftFormat f7 sh rs1 f3 rd).toNat 25 7 = f7 := by
  simp (disch := decide) only [shiftFormat, natField_append_low, natField_append_high, natField_all, Nat.reduceSub, true_and]
  exact ⟨rfl, toNat_ofNat_of_lt h3, toNat_ofNat_of_lt h7⟩

/-! #### What each format's word does -/

section
variable {s : State} {k : Nat} {next : Word32}

/-- OP-IMM on a register and the sign-extended immediate. -/
theorem execWord_iFormat_opImm (i12 : BitVec 12) (rs1 rd : BitVec 5) {f3 : Nat} (h3 : f3 < 8 ∧ f3 ≠ 1 ∧ f3 ≠ 5) :
    execWord s k (iFormat i12 rs1 f3 rd 0x13).toNat next =
      onCore s k (fun x => setX x rd (aluOp f3 false (getX (coreAt s k) rs1) (i12.signExtend 32))) next := by
  obtain ⟨hlt, h1, h5⟩ := h3
  obtain ⟨hop, hrd, hf3, hrs1, himm⟩ := iWord_fields i12 rs1 rd f3 0x13 hlt (by decide) (iFormat i12 rs1 f3 rd 0x13) rfl
  rw [execWord_opImm hop (hf3.trans_ne h1) (hf3.trans_ne h5), hrd, hf3, hrs1, himm, ofNat_sext32_toNat, BitVec.ofNat_toNat, BitVec.ofNat_toNat,
    BitVec.setWidth_eq, BitVec.setWidth_eq]

/-- JALR: the target's bit 0 is cleared (R117). -/
theorem execWord_iFormat_jalr (i12 : BitVec 12) (rs1 rd : BitVec 5) :
    execWord s k (iFormat i12 rs1 0 rd 0x67).toNat next =
      onCore s k (fun x => setX x rd next) ((getX (coreAt s k) rs1 + i12.signExtend 32) &&& 0xFFFFFFFE) := by
  obtain ⟨hop, hrd, hf3, hrs1, himm⟩ := iWord_fields i12 rs1 rd 0 0x67 (by decide) (by decide) (iFormat i12 rs1 0 rd 0x67) rfl
  rw [execWord_jalr hop hf3, hrd, hrs1, himm, ofNat_sext32_toNat, BitVec.ofNat_toNat, BitVec.ofNat_toNat, BitVec.setWidth_eq,
    BitVec.setWidth_eq]

theorem execWord_shiftFormat {f7 f3 : Nat} (h : f3 = 1 ∧ f7 = 0 ∨ f3 = 5 ∧ (f7 = 0 ∨ f7 = 0x20)) (sh rs1 rd : BitVec 5) :
    execWord s k (shiftFormat f7 sh rs1 f3 rd).toNat next =
      onCore s k (fun x => setX x rd (aluOp f3 (f7 == 0x20) (getX (coreAt s k) rs1) (sh.setWidth 32))) next := by
  obtain ⟨hop, hrd, hf3, hrs1, hsh, hf7⟩ := shiftFormat_fields (f7 := f7) (f3 := f3) (by omega) (by omega) sh rs1 rd
  rw [execWord_shiftImm hop (by rw [hf3, hf7]; exact h), hrd, hf3, hrs1, hsh, hf7]
  simp only [BitVec.ofNat_toNat, BitVec.setWidth_eq]

theorem execWord_uFormat_lui (i20 : BitVec 20) (rd : BitVec 5) :
    execWord s k (uFormat i20 rd 0x37).toNat next = onCore s k (fun x => setX x rd (i20 ++ 0#12)) next := by
  obtain ⟨hop, hrd, himm⟩ := uFormat_fields i20 rd (opc := 0x37) (by decide)
  rw [execWord_lui hop, hrd, himm, upper_eq, BitVec.ofNat_toNat, BitVec.setWidth_eq]

theorem execWord_uFormat_auipc (i20 : BitVec 20) (rd : BitVec 5) :
    execWord s k (uFormat i20 rd 0x17).toNat next =
      onCore s k (fun x => setX x rd ((coreAt s k).regs.pc + (i20 ++ 0#12))) next := by
  obtain ⟨hop, hrd, himm⟩ := uFormat_fields i20 rd (opc := 0x17) (by decide)
  rw [execWord_auipc hop, hrd, himm, upper_eq, BitVec.ofNat_toNat, BitVec.setWidth_eq]

theorem execWord_jFormat (i20 : BitVec 20) (rd : BitVec 5) :
    execWord s k (jFormat i20 rd).toNat next =
      onCore s k (fun x => setX x rd next) ((coreAt s k).regs.pc + (i20 ++ 0#1).signExtend 32) := by
  obtain ⟨hop, hrd, himm⟩ := jFormat_fields i20 rd
  rw [execWord_jal hop, hrd, himm, ofNat_sext32_toNat, BitVec.ofNat_toNat, BitVec.setWidth_eq]

theorem execWord_bFormat (i12 : BitVec 12) (rs2 rs1 : BitVec 5) {f3 : Nat} (h3 : f3 < 8 ∧ f3 ≠ 2 ∧ f3 ≠ 3) :
    execWord s k (bFormat i12 rs2 rs1 f3).toNat next =
      onCore s k id (if branchTaken f3 (getX (coreAt s k) rs1) (getX (coreAt s k) rs2)
        then (coreAt s k).regs.pc + (i12 ++ 0#1).signExtend 32 else next) := by
  obtain ⟨hlt, h2, h3⟩ := h3
  obtain ⟨hop, hf3, hrs1, hrs2, himm⟩ := bFormat_fields i12 rs2 rs1 hlt
  rw [execWord_branch hop (hf3.trans_ne h2) (hf3.trans_ne h3), hf3, hrs1, hrs2, himm, ofNat_sext32_toNat]
  simp only [BitVec.ofNat_toNat, BitVec.setWidth_eq]

end

/-! #### What a core that issues the word does -/

section
variable {s : State} {core : CoreId} {w : Word32} {f : Core → Core} {pc : Word32}

theorem exec_rv32imc (core : CoreId) (w : Word32) (s : State) : exec (.rv32imcInstruction core w) s = .next (rv32imc s core.toNat w) := rfl

/-- A word of a base opcode does what its encoding says. -/
theorem exec_rv32imc_base {c : Nat} (h : Issues s core.toNat w 4) (hop : natField w.toNat 0 7 = c)
    (hc : c % 4 = 3 ∧ c ≠ 0x73 ∧ c ≠ 0x0B ∧ c ≠ 0x2B ∧ c ≠ 0x5B) :
    exec (.rv32imcInstruction core w) s =
      .next (settle s core.toNat w (execWord s core.toNat w.toNat (pcAfter s core.toNat 4))) := by
  obtain ⟨hc3, hsys, h0, h1, h2⟩ := hc
  rw [exec_rv32imc, rv32imc_eq h (opcode_mod4 hop hc3) (opcode_otherRow hop hsys h0 h1 h2)]

/-- A base word that only changes its core's registers and pc. -/
theorem exec_rv32imc_onCore {c : Nat} (h : Issues s core.toNat w 4) (hop : natField w.toNat 0 7 = c)
    (hc : c % 4 = 3 ∧ c ≠ 0x73 ∧ c ≠ 0x0B ∧ c ≠ 0x2B ∧ c ≠ 0x5B)
    (he : execWord s core.toNat w.toNat (pcAfter s core.toNat 4) = onCore s core.toNat f pc) :
    exec (.rv32imcInstruction core w) s = .next (coreStep s core.toNat f pc) := by
  rw [exec_rv32imc_base h hop hc, he, settle_onCore]

end

end Sys2Proof.Machine
end

section
/-! ### Register arithmetic of the sequencer (R116) -/

namespace Sys2Proof.Machine

section
variable {s : State} {core : CoreId} {rd rs1 rs2 : BitVec 5}

/-- The result of the OP row that funct7 and funct3 name: the M extension's, or RV32I's in its plain or its alternate form. -/
def opResult (f7 f3 : Nat) (a b : Word32) : Word32 := if f7 = 1 then mulOp f3 a b else aluOp f3 (f7 == 0x20) a b

/-- The rows of OP: RV32I, the M extension, and SUB and SRA as alternate forms. -/
theorem exec_op {f7 f3 : Nat} (hrow : f7 = 0 ∨ f7 = 1 ∨ f7 = 0x20 ∧ (f3 = 0 ∨ f3 = 5)) (h3 : f3 < 8)
    (h : Issues s core.toNat (rWord f7 rs2.toNat rs1.toNat f3 rd.toNat 0x33) 4) :
    exec (.rv32imcInstruction core (rWord f7 rs2.toNat rs1.toNat f3 rd.toNat 0x33)) s = .next (coreStep s core.toNat
      (fun c => setX c rd (opResult f7 f3 (getX (coreAt s core.toNat) rs1) (getX (coreAt s core.toNat) rs2)))
      (pcAfter s core.toNat 4)) := by
  have hrun := rv32im_op (by omega) rs2.isLt rs1.isLt h3 rd.isLt h
  simp only [BitVec.ofNat_toNat, BitVec.setWidth_eq] at hrun
  rw [exec_rv32imc, hrun]
  obtain rfl | rfl | ⟨rfl, hf3⟩ := hrow
  · simp [opResult]
  · simp [opResult]
  · simp [opResult, hf3]

end

/-- Settles O6: each word is a row of OP. -/
theorem rvRegisterArithmetic : Obligations.RvRegisterArithmetic := by
  intro s core rd rs1 rs2
  exact ⟨exec_op (by decide) (by decide), exec_op (by decide) (by decide), exec_op (by decide) (by decide),
    exec_op (by decide) (by decide), exec_op (by decide) (by decide), exec_op (by decide) (by decide),
    exec_op (by decide) (by decide), exec_op (by decide) (by decide), exec_op (by decide) (by decide),
    exec_op (by decide) (by decide), exec_op (by decide) (by decide), exec_op (by decide) (by decide),
    exec_op (by decide) (by decide), exec_op (by decide) (by decide), exec_op (by decide) (by decide),
    exec_op (by decide) (by decide), exec_op (by decide) (by decide), exec_op (by decide) (by decide)⟩

end Sys2Proof.Machine
end

section
/-! ### Immediates, jumps and branches of the sequencer, and the compressed forms (R116, R117) -/

namespace Sys2Proof.Machine

/-! #### Compressed parcels -/

theorem natField_two (c : Nat) : natField c 0 2 = c % 4 := by simp [natField]

theorem natBit_eq (x i : Nat) : natBit x i = decide (natField x i 1 = 1) := by
  simp [natBit, natField, Nat.testBit, Nat.and_comm, Nat.and_one_is_mod]

theorem expandC_li {c : Nat} (h0 : c % 4 = 1) (h3 : natField c 13 3 = 2) :
    expandC c = some (iWord (sext32 6 (natField c 12 1 * 32 + natField c 2 5)) 0 0 (natField c 7 5) 0x13) := by
  simp only [expandC, h0, h3]

theorem expandC_addi {c : Nat} (h0 : c % 4 = 1) (h3 : natField c 13 3 = 0) :
    expandC c = some (iWord (sext32 6 (natField c 12 1 * 32 + natField c 2 5)) (natField c 7 5) 0 (natField c 7 5) 0x13) := by
  simp only [expandC, h0, h3]

theorem expandC_mv {c : Nat} (h0 : c % 4 = 2) (h3 : natField c 13 3 = 4) (h12 : natField c 12 1 = 0) (h2 : natField c 2 5 ≠ 0) :
    expandC c = some (opWord 0 (natField c 2 5) 0 0 (natField c 7 5)) := by
  simp [expandC, h0, h3, natBit_eq, h12, h2]

theorem expandC_add {c : Nat} (h0 : c % 4 = 2) (h3 : natField c 13 3 = 4) (h12 : natField c 12 1 = 1) (h2 : natField c 2 5 ≠ 0) :
    expandC c = some (opWord 0 (natField c 2 5) (natField c 7 5) 0 (natField c 7 5)) := by
  simp [expandC, h0, h3, natBit_eq, h12, h2]

theorem expandC_jr {c : Nat} (h0 : c % 4 = 2) (h3 : natField c 13 3 = 4) (h12 : natField c 12 1 = 0) (h2 : natField c 2 5 = 0)
    (h7 : natField c 7 5 ≠ 0) : expandC c = some (iWord 0 (natField c 7 5) 0 0 0x67) := by
  simp [expandC, h0, h3, natBit_eq, h12, h2, h7]

/-- The word that `iWord` spells is one of the I format. -/
theorem iWord_eq (imm : Nat) (rs1 : BitVec 5) {f3 : Nat} (rd : BitVec 5) {opc : Nat} (h3 : f3 < 8) (ho : opc < 128) :
    iWord imm rs1.toNat f3 rd.toNat opc = (iFormat (BitVec.ofNat 12 imm) rs1 f3 rd opc).toNat := by
  have hf3 : (BitVec.ofNat 3 f3).toNat = f3 := toNat_ofNat_of_lt h3
  have hopc : (BitVec.ofNat 7 opc).toNat = opc := toNat_ofNat_of_lt ho
  simp only [iFormat, append_toNat, hf3, hopc, BitVec.toNat_ofNat, iWord]
  ring

theorem opWord_eq (rs2 rs1 rd : BitVec 5) : opWord 0 rs2.toNat rs1.toNat 0 rd.toNat = (rWord 0 rs2.toNat rs1.toNat 0 rd.toNat 0x33).toNat := by
  rw [rWord, toNat_ofNat_of_lt (wordFields_lt (by decide) rs2.isLt rs1.isLt (by decide) rd.isLt (by decide)), opWord]

/-- A parcel of the CI format: 6 bits of immediate in two fields. -/
def ciParcel (f3 : BitVec 3) (i12 : BitVec 12) (rd : BitVec 5) : Word32 :=
  0#16 ++ f3 ++ i12.extractLsb' 5 1 ++ rd ++ i12.extractLsb' 0 5 ++ 1#2

/-- A parcel of the CR format. -/
def crParcel (f4 : BitVec 4) (rd rs2 : BitVec 5) : Word32 := 0#16 ++ f4 ++ rd ++ rs2 ++ 2#2

theorem ciParcel_fields (f3 : BitVec 3) (i12 : BitVec 12) (rd : BitVec 5) :
    (ciParcel f3 i12 rd).toNat % 4 = 1 ∧ natField (ciParcel f3 i12 rd).toNat 13 3 = f3.toNat
    ∧ natField (ciParcel f3 i12 rd).toNat 7 5 = rd.toNat
    ∧ natField (ciParcel f3 i12 rd).toNat 12 1 * 32 + natField (ciParcel f3 i12 rd).toNat 2 5 = (i12.setWidth 6).toNat := by
  rw [← natField_two]
  simp (disch := decide) only [ciParcel, natField_append_low, natField_append_high, natField_all, Nat.reduceSub, true_and]
  refine ⟨rfl, ?_⟩
  simp only [BitVec.extractLsb'_toNat, Nat.shiftRight_eq_div_pow, BitVec.toNat_setWidth]
  omega

theorem crParcel_fields (f4 : BitVec 4) (rd rs2 : BitVec 5) :
    (crParcel f4 rd rs2).toNat % 4 = 2 ∧ natField (crParcel f4 rd rs2).toNat 13 3 = natField f4.toNat 1 3
    ∧ natField (crParcel f4 rd rs2).toNat 12 1 = natField f4.toNat 0 1 ∧ natField (crParcel f4 rd rs2).toNat 7 5 = rd.toNat
    ∧ natField (crParcel f4 rd rs2).toNat 2 5 = rs2.toNat := by
  rw [← natField_two]
  simp (disch := decide) only [crParcel, natField_append_low, natField_append_high, natField_all, Nat.reduceSub, and_true]
  rfl

/-- A parcel of the CR format with a register in either field is not C.EBREAK. -/
theorem crParcel_ne_ebreak (f4 : BitVec 4) {rd rs2 : BitVec 5} (h : rd ≠ 0 ∨ rs2 ≠ 0) : (crParcel f4 rd rs2).toNat ≠ 0x9002 := by
  obtain ⟨-, -, -, h7, h2⟩ := crParcel_fields f4 rd rs2
  intro hw
  rw [hw] at h7 h2
  obtain h | h := h
  · exact h (BitVec.eq_of_toNat_eq h7.symm)
  · exact h (BitVec.eq_of_toNat_eq h2.symm)

theorem toNat_ne_zero {w : Nat} {r : BitVec w} (h : r ≠ 0) : r.toNat ≠ 0 := fun hz => h (BitVec.eq_of_toNat_eq (by simpa using hz))

section
variable {s : State} {core : CoreId} {w : Word32} {f : Core → Core} {pc : Word32}

/-- A 16-bit parcel does what the word that it stands for does, and is 2 bytes long. -/
theorem exec_rv32imc_short {e : Nat} (h : Issues s core.toNat w 2) (hq : w.toNat % 4 ≠ 3) (hrow : w.toNat ≠ 0x9002)
    (hx : expandC w.toNat = some e) (he : execWord s core.toNat e (pcAfter s core.toNat 2) = onCore s core.toNat f pc) :
    exec (.rv32imcInstruction core w) s = .next (coreStep s core.toNat f pc) := by
  have ho : otherRow w.toNat 2 = false := by simp [otherRow, hrow]
  rw [exec_rv32imc, rv32imc, issue_eq h]
  simp only [if_neg hq, ho, hx, he, Bool.false_eq_true, if_false]
  exact congrArg _ (settle_onCore ..)

theorem exec_cLi (i12 : BitVec 12) (rd : BitVec 5) (h : Issues s core.toNat (ciParcel 2#3 i12 rd) 2) :
    exec (.rv32imcInstruction core (ciParcel 2#3 i12 rd)) s =
      .next (coreStep s core.toNat (fun c => setX c rd ((i12.setWidth 6).signExtend 32)) (pcAfter s core.toNat 2)) := by
  obtain ⟨hq, h3, h7, himm⟩ := ciParcel_fields 2#3 i12 rd
  refine exec_rv32imc_short h (by omega) (by omega) (expandC_li hq h3) ?_
  rw [himm, h7, show (0 : Nat) = (0 : BitVec 5).toNat from rfl, iWord_eq _ _ _ (by decide) (by decide)]
  rw [execWord_iFormat_opImm _ _ _ (by decide), signExtend_ofNat_sext32 (by decide) (by decide) (by decide), getX_zero]
  exact congrArg (fun v => onCore s core.toNat (fun x => setX x rd v) _) (BitVec.zero_add _)

theorem exec_cAddi (i12 : BitVec 12) (rd : BitVec 5) (h : Issues s core.toNat (ciParcel 0#3 i12 rd) 2) :
    exec (.rv32imcInstruction core (ciParcel 0#3 i12 rd)) s = .next (coreStep s core.toNat
      (fun c => setX c rd (getX (coreAt s core.toNat) rd + (i12.setWidth 6).signExtend 32)) (pcAfter s core.toNat 2)) := by
  obtain ⟨hq, h3, h7, himm⟩ := ciParcel_fields 0#3 i12 rd
  refine exec_rv32imc_short h (by omega) (by omega) (expandC_addi hq h3) ?_
  rw [himm, h7, iWord_eq _ _ _ (by decide) (by decide), execWord_iFormat_opImm _ _ _ (by decide),
    signExtend_ofNat_sext32 (by decide) (by decide) (by decide)]
  rfl

/-- The addition that C.MV and C.ADD stand for. -/
theorem execWord_opWord {k : Nat} {next : Word32} (rs2 rs1 rd : BitVec 5) :
    execWord s k (opWord 0 rs2.toNat rs1.toNat 0 rd.toNat) next =
      onCore s k (fun x => setX x rd (getX (coreAt s k) rs1 + getX (coreAt s k) rs2)) next := by
  obtain ⟨hop, hrd, hf3, hrs1, hrs2, hf7⟩ := rWord_fields (f7 := 0) (f3 := 0) (opc := 0x33) (by decide) rs2.isLt rs1.isLt (by decide)
    rd.isLt (by decide)
  rw [opWord_eq, execWord_add hop hf3 hf7, hrd, hrs1, hrs2]
  simp only [BitVec.ofNat_toNat, BitVec.setWidth_eq]

theorem exec_cMv (rd : BitVec 5) {rs2 : BitVec 5} (h2 : rs2 ≠ 0) (h : Issues s core.toNat (crParcel 8#4 rd rs2) 2) :
    exec (.rv32imcInstruction core (crParcel 8#4 rd rs2)) s =
      .next (coreStep s core.toNat (fun c => setX c rd (getX (coreAt s core.toNat) rs2)) (pcAfter s core.toNat 2)) := by
  obtain ⟨hq, hf3, hf12, h7, hrs2⟩ := crParcel_fields 8#4 rd rs2
  refine exec_rv32imc_short h (by omega) (crParcel_ne_ebreak _ (.inr h2))
    (expandC_mv hq hf3 hf12 (hrs2.trans_ne (toNat_ne_zero h2))) ?_
  have hword := execWord_opWord (s := s) (k := core.toNat) (next := pcAfter s core.toNat 2) rs2 0 rd
  rw [getX_zero, show (0 : Word32) + getX (coreAt s core.toNat) rs2 = getX (coreAt s core.toNat) rs2 from BitVec.zero_add _] at hword
  rw [hrs2, h7]
  exact hword

theorem exec_cAdd (rd : BitVec 5) {rs2 : BitVec 5} (h2 : rs2 ≠ 0) (h : Issues s core.toNat (crParcel 9#4 rd rs2) 2) :
    exec (.rv32imcInstruction core (crParcel 9#4 rd rs2)) s = .next (coreStep s core.toNat
      (fun c => setX c rd (getX (coreAt s core.toNat) rd + getX (coreAt s core.toNat) rs2)) (pcAfter s core.toNat 2)) := by
  obtain ⟨hq, hf3, hf12, h7, hrs2⟩ := crParcel_fields 9#4 rd rs2
  refine exec_rv32imc_short h (by omega) (crParcel_ne_ebreak _ (.inr h2))
    (expandC_add hq hf3 hf12 (hrs2.trans_ne (toNat_ne_zero h2))) ?_
  rw [hrs2, h7, execWord_opWord]

theorem exec_cJr {rs1 : BitVec 5} (h1 : rs1 ≠ 0) (h : Issues s core.toNat (crParcel 8#4 rs1 0) 2) :
    exec (.rv32imcInstruction core (crParcel 8#4 rs1 0)) s =
      .next (coreStep s core.toNat (fun c => setX c 0 0) (getX (coreAt s core.toNat) rs1 &&& 0xFFFFFFFE)) := by
  obtain ⟨hq, hf3, hf12, h7, hrs2⟩ := crParcel_fields 8#4 rs1 0
  refine exec_rv32imc_short h (by omega) (crParcel_ne_ebreak _ (.inl h1))
    (expandC_jr hq hf3 hf12 hrs2 (h7.trans_ne (toNat_ne_zero h1))) ?_
  have hword : iWord 0 (natField (crParcel 8#4 rs1 0).toNat 7 5) 0 0 0x67 = (iFormat 0 rs1 0 0 0x67).toNat := by
    rw [h7]
    exact iWord_eq 0 rs1 0 (by decide) (by decide)
  rw [hword, execWord_iFormat_jalr, show (0 : BitVec 12).signExtend 32 = 0#32 from rfl, BitVec.add_zero]
  rfl

end

/-! #### The words of the statement -/

section
variable {s : State} {core : CoreId}

theorem exec_opImm (i12 : BitVec 12) (rs1 rd : BitVec 5) {f3 : Nat} (h3 : f3 < 8 ∧ f3 ≠ 1 ∧ f3 ≠ 5)
    (h : Issues s core.toNat (iFormat i12 rs1 f3 rd 0x13) 4) :
    exec (.rv32imcInstruction core (iFormat i12 rs1 f3 rd 0x13)) s = .next (coreStep s core.toNat
      (fun c => setX c rd (aluOp f3 false (getX (coreAt s core.toNat) rs1) (i12.signExtend 32))) (pcAfter s core.toNat 4)) :=
  exec_rv32imc_onCore h (iWord_fields i12 rs1 rd f3 0x13 h3.1 (by decide) _ rfl).1 (by decide) (execWord_iFormat_opImm i12 rs1 rd h3)

theorem exec_jalr (i12 : BitVec 12) (rs1 rd : BitVec 5) (h : Issues s core.toNat (iFormat i12 rs1 0 rd 0x67) 4) :
    exec (.rv32imcInstruction core (iFormat i12 rs1 0 rd 0x67)) s = .next (coreStep s core.toNat
      (fun c => setX c rd (pcAfter s core.toNat 4)) ((getX (coreAt s core.toNat) rs1 + i12.signExtend 32) &&& 0xFFFFFFFE)) :=
  exec_rv32imc_onCore h (iWord_fields i12 rs1 rd 0 0x67 (by decide) (by decide) _ rfl).1 (by decide) (execWord_iFormat_jalr i12 rs1 rd)

theorem exec_shiftImm {f7 f3 : Nat} (hrow : f3 = 1 ∧ f7 = 0 ∨ f3 = 5 ∧ (f7 = 0 ∨ f7 = 0x20)) (sh rs1 rd : BitVec 5) {v : Word32}
    (hv : aluOp f3 (f7 == 0x20) (getX (coreAt s core.toNat) rs1) (sh.setWidth 32) = v)
    (h : Issues s core.toNat (shiftFormat f7 sh rs1 f3 rd) 4) :
    exec (.rv32imcInstruction core (shiftFormat f7 sh rs1 f3 rd)) s =
      .next (coreStep s core.toNat (fun c => setX c rd v) (pcAfter s core.toNat 4)) :=
  exec_rv32imc_onCore h (shiftFormat_fields (by omega) (by omega) sh rs1 rd).1 (by decide) (hv ▸ execWord_shiftFormat hrow sh rs1 rd)

theorem exec_lui (i20 : BitVec 20) (rd : BitVec 5) (h : Issues s core.toNat (uFormat i20 rd 0x37) 4) :
    exec (.rv32imcInstruction core (uFormat i20 rd 0x37)) s =
      .next (coreStep s core.toNat (fun c => setX c rd (i20 ++ 0#12)) (pcAfter s core.toNat 4)) :=
  exec_rv32imc_onCore h (uFormat_fields i20 rd (by decide)).1 (by decide) (execWord_uFormat_lui i20 rd)

theorem exec_auipc (i20 : BitVec 20) (rd : BitVec 5) (h : Issues s core.toNat (uFormat i20 rd 0x17) 4) :
    exec (.rv32imcInstruction core (uFormat i20 rd 0x17)) s = .next (coreStep s core.toNat
      (fun c => setX c rd ((coreAt s core.toNat).regs.pc + (i20 ++ 0#12))) (pcAfter s core.toNat 4)) :=
  exec_rv32imc_onCore h (uFormat_fields i20 rd (by decide)).1 (by decide) (execWord_uFormat_auipc i20 rd)

theorem exec_jal (i20 : BitVec 20) (rd : BitVec 5) (h : Issues s core.toNat (jFormat i20 rd) 4) :
    exec (.rv32imcInstruction core (jFormat i20 rd)) s = .next (coreStep s core.toNat (fun c => setX c rd (pcAfter s core.toNat 4))
      ((coreAt s core.toNat).regs.pc + (i20 ++ 0#1).signExtend 32)) :=
  exec_rv32imc_onCore h (jFormat_fields i20 rd).1 (by decide) (execWord_jFormat i20 rd)

theorem exec_branch (i12 : BitVec 12) (rs2 rs1 : BitVec 5) {f3 : Nat} (h3 : f3 < 8 ∧ f3 ≠ 2 ∧ f3 ≠ 3) {taken : Bool}
    (ht : branchTaken f3 (getX (coreAt s core.toNat) rs1) (getX (coreAt s core.toNat) rs2) = taken)
    (h : Issues s core.toNat (bFormat i12 rs2 rs1 f3) 4) :
    exec (.rv32imcInstruction core (bFormat i12 rs2 rs1 f3)) s = .next (coreStep s core.toNat id
      (if taken then (coreAt s core.toNat).regs.pc + (i12 ++ 0#1).signExtend 32 else pcAfter s core.toNat 4)) :=
  exec_rv32imc_onCore h (bFormat_fields i12 rs2 rs1 h3.1).1 (by decide) (ht ▸ execWord_bFormat i12 rs2 rs1 h3)

end

theorem not_slt_eq (a b : Word32) : decide (b.toInt ≤ a.toInt) = !a.slt b := by
  rw [BitVec.slt, ← decide_not, decide_eq_decide, not_lt]

theorem not_ult_eq (a b : Word32) : decide (b.toNat ≤ a.toNat) = !a.ult b := by
  rw [BitVec.ult, ← decide_not, decide_eq_decide, not_lt]

/-- Settles O7: each word is one of a format, whose lemma says what the word does. -/
theorem rvImmediatesAndControl : Obligations.RvImmediatesAndControl := by
  intro s core rd rs1 rs2 i12 i20
  have hsh : (rs2.setWidth 32).toNat % 32 = rs2.toNat := by
    have := rs2.isLt
    rw [BitVec.toNat_setWidth]
    omega
  have hslli := exec_shiftImm (s := s) (core := core) (f7 := 0) (f3 := 1) (by decide) rs2 rs1 rd
    (congrArg (getX (coreAt s core.toNat) rs1 <<< ·) hsh)
  have hsrli := exec_shiftImm (s := s) (core := core) (f7 := 0) (f3 := 5) (by decide) rs2 rs1 rd
    (congrArg (getX (coreAt s core.toNat) rs1 >>> ·) hsh)
  have hsrai := exec_shiftImm (s := s) (core := core) (f7 := 0x20) (f3 := 5) (by decide) rs2 rs1 rd
    (congrArg (getX (coreAt s core.toNat) rs1).sshiftRight hsh)
  exact ⟨exec_opImm i12 rs1 rd (by decide), exec_opImm i12 rs1 rd (by decide), exec_opImm i12 rs1 rd (by decide),
    exec_opImm i12 rs1 rd (by decide), exec_opImm i12 rs1 rd (by decide), exec_opImm i12 rs1 rd (by decide), hslli, hsrli, hsrai,
    exec_lui i20 rd, exec_auipc i20 rd, exec_jal i20 rd, exec_jalr i12 rs1 rd, exec_cLi i12 rd, exec_cAddi i12 rd,
    fun h2 => ⟨exec_cMv rd h2, exec_cAdd rd h2⟩, fun h1 => exec_cJr h1, exec_branch i12 rs2 rs1 (by decide) rfl,
    exec_branch i12 rs2 rs1 (by decide) rfl, exec_branch i12 rs2 rs1 (by decide) rfl,
    exec_branch i12 rs2 rs1 (by decide) (not_slt_eq ..), exec_branch i12 rs2 rs1 (by decide) rfl,
    exec_branch i12 rs2 rs1 (by decide) (not_ult_eq ..)⟩

end Sys2Proof.Machine
end

section
/-! ### Scalar loads and stores (R116, R118, R148) -/

namespace Sys2Proof.Machine

section
variable {s : State} {core : CoreId}

/-- A load that no check stops leaves the state as it is while an interlock holds it, and else writes x[rd]. -/
theorem exec_load (i12 : BitVec 12) (rs1 rd : BitVec 5) {f3 n off : Nat} {v : Word32} (h3 : f3 < 6 ∧ f3 ≠ 3) (hn : loadBytes f3 = n)
    (hoff : (getX (coreAt s core.toNat) rs1 + i12.signExtend 32).toNat = off)
    (hv : BitVec.ofNat 32 (if f3 < 3 then sext32 (8 * n) (windowRead s core.toNat off n) else windowRead s core.toNat off n) = v)
    (h : Issues s core.toNat (iFormat i12 rs1 f3 rd 0x03) 4) (hf : loadFault (coreAt s core.toNat) off n = none) :
    exec (.rv32imcInstruction core (iFormat i12 rs1 f3 rd 0x03)) s = .next (if loadHeld s core.toNat [(off, n)] then s
      else coreStep s core.toNat (fun c => setX c rd v) (pcAfter s core.toNat 4)) := by
  obtain ⟨hlt, hne⟩ := h3
  obtain ⟨hop, hrd, hf3, hrs1, himm⟩ := iWord_fields i12 rs1 rd f3 0x03 (by omega) (by decide) (iFormat i12 rs1 f3 rd 0x03) rfl
  have hrun := execWord_load (s := s) (k := core.toNat) (next := pcAfter s core.toNat 4) (off := off) hop (hf3.trans_ne hne) (hf3.trans_lt hlt)
    (by rw [hrs1, himm, ofNat_sext32_toNat, BitVec.ofNat_toNat, BitVec.setWidth_eq, hoff]) (by rw [hf3, hn, hf])
  rw [hf3, hn, hv, hrd, BitVec.ofNat_toNat, BitVec.setWidth_eq] at hrun
  rw [exec_rv32imc_base h hop (by decide), hrun]
  split
  · rw [settle_hold]
  · rw [settle_onCore]

/-- A store that no check stops leaves the state as it is while an interlock holds it, and else writes the share. -/
theorem exec_store (i12 : BitVec 12) (rs1 rs2 : BitVec 5) {f3 n off : Nat} (h3 : f3 < 3) (hn : 2 ^ f3 = n)
    (hoff : (getX (coreAt s core.toNat) rs1 + i12.signExtend 32).toNat = off)
    (h : Issues s core.toNat (sFormat i12 rs2 rs1 f3) 4) (hf : storeFault (coreAt s core.toNat) off n = none) :
    exec (.rv32imcInstruction core (sFormat i12 rs2 rs1 f3)) s = .next (if storeHeld s core.toNat [(off, n)] then s
      else storeStep s core.toNat off n (getX (coreAt s core.toNat) rs2)) := by
  obtain ⟨hop, hf3, hrs1, hrs2, himm⟩ := sFormat_fields i12 rs2 rs1 (f3 := f3) (by omega)
  have hrun := execWord_store (s := s) (k := core.toNat) (next := pcAfter s core.toNat 4) (off := off) hop (hf3.trans_lt h3)
    (by rw [hrs1, himm, ofNat_sext32_toNat, BitVec.ofNat_toNat, BitVec.setWidth_eq, hoff]) (by rw [hf3, hn, hf])
  rw [hf3, hn, hrs2, BitVec.ofNat_toNat, BitVec.setWidth_eq] at hrun
  rw [exec_rv32imc_base h hop (by decide), hrun]
  split
  · rw [settle_hold]
  · rfl

end

/-- Settles O8: a load or store that no check stops is held or done; its value is extended as funct3 says. -/
theorem rvLoadsAndStores : Obligations.RvLoadsAndStores := by
  intro s core rd rs1 rs2 i12
  exact ⟨exec_load i12 rs1 rd (by decide) rfl rfl (ofNat_sext32 8 _), exec_load i12 rs1 rd (by decide) rfl rfl (ofNat_sext32 16 _),
    exec_load i12 rs1 rd (by decide) rfl rfl ((ofNat_sext32 32 _).trans (BitVec.signExtend_eq _)),
    exec_load i12 rs1 rd (by decide) rfl rfl rfl, exec_load i12 rs1 rd (by decide) rfl rfl rfl,
    exec_store i12 rs1 rs2 (by decide) rfl rfl, exec_store i12 rs1 rs2 (by decide) rfl rfl, exec_store i12 rs1 rs2 (by decide) rfl rfl⟩

end Sys2Proof.Machine
end

section
/-! ### Element-wise vector arithmetic (R129 to R131, Tables 4-7 and 4-8) -/

namespace Sys2Proof.Machine

/-- A row of Table 4-7 whose lane computes `g` writes `g` of the elements of its operands. -/
theorem exec_vecArith {s : State} {k op ety md : Nat} {kind : Bool} {vd vs1 vs2 : BitVec 5} {i : Instr}
    (hi : exec i s = .next (vecArith s k op ety md kind vd vs1 vs2)) (hkind : kind = true) {g : Nat → Nat → Nat → Nat}
    (hg : ∀ a b d, lane (coreEskor s (coreAt s k)) op ety md a b d = g a b d)
    (h : VecIssues s k (vecWord ety md op vd.toNat vs1.toNat vs2.toNat) (etyBits ety)) :
    exec i s = .next (lanesWritten s k vd (etyBits ety) (fun c j => g (elem (getV c vs1) (etyBits ety) j)
      (elem (getV c vs2) (etyBits ety) j) (elem (getV c vd) (etyBits ety) j))) := by
  rw [hi, hkind, vecArith_eq s k op ety md vd vs1 vs2 h]
  exact congrArg _ (lanesWritten_congr s k _ vd fun j => hg ..)

theorem lane_int {ety : Nat} (h : 3 ≤ ety) (ek : Bool) (op md a b d : Nat) :
    lane ek op ety md a b d = intElem op (etyBits ety) (natBit md 0) (natBit md 1) a b d := if_neg (Nat.not_lt.mpr h)

theorem lane_float {ety : Nat} (h : ety < 3) (ek : Bool) (op md a b d : Nat) :
    lane ek op ety md a b d = fltElem ek op (etyFmt ety) a b d := if_pos h

/-- An integer result is wrapped to the width, or with .sat clamped to the range of its signedness. -/
theorem intResult_eq (w : Nat) (sat u : Bool) (x : Int) : intResult w sat u x =
    if u then (if sat then intToNat w (clampInt 0 ((2 ^ w : Nat) - 1) x) else intToNat w x)
    else (if sat then intToNat w (clampInt (-(2 ^ (w - 1) : Nat)) ((2 ^ (w - 1) : Nat) - 1) x) else intToNat w x) := by
  cases sat <;> cases u <;> rfl

/-- Settles O11: each row's lane is the row's integer operation, its result wrapped or clamped. -/
theorem integerVectorArithmetic : Obligations.IntegerVectorArithmetic := by
  intro s core ety md vd vs1 vs2 h3 h6 k w u sat sg val fits fit fitS gives
  have hety : isEty ety = true := decide_eq_true h6
  have hint : isInt ety = true := decide_eq_true ⟨h3, h6⟩
  have hfit (x : Int) : intResult w sat u x = fit x := intResult_eq w sat u x
  have hfitS (x : Int) : intResult w sat false x = fitS x := intResult_eq w sat false x
  have row {i : Instr} {op m : Nat} {kind : Bool} {g : Nat → Nat → Nat → Nat} (hkind : kind = true)
      (hi : exec i s = .next (vecArith s k op ety.toNat m kind vd vs1 vs2))
      (hg : ∀ a b d, intElem op w (natBit m 0) (natBit m 1) a b d = g a b d) : gives i op m g :=
    exec_vecArith hi hkind (g := g) fun a b d => (lane_int h3 ..).trans (hg a b d)
  clear_value gives
  exact ⟨row hety rfl fun _ _ _ => hfit _, row hety rfl fun _ _ _ => hfit _, row hety rfl fun _ _ _ => hfit _,
    row hety rfl fun _ _ _ => hfit _, row hety rfl fun _ _ _ => hfit _, row hety rfl fun _ _ _ => rfl, row hety rfl fun _ _ _ => rfl,
    row hety rfl fun _ b _ => congrArg (ite (b = 0) _) (hfit _), row hint rfl fun _ _ _ => rfl, row hint rfl fun _ _ _ => rfl,
    row hint rfl fun _ _ _ => rfl, row hint rfl fun _ _ _ => rfl, row hint rfl fun _ _ _ => rfl, row hint rfl fun _ _ _ => rfl,
    row hint rfl fun _ _ _ => rfl, row hety rfl fun _ _ _ => hfitS _, row hety rfl fun _ _ _ => hfitS _⟩

/-- Settles O12: each row's lane is the row's exact operation on the operands' values, rounded once and flushed where the mode asks. -/
theorem floatVectorArithmetic : Obligations.FloatVectorArithmetic := by
  intro s core ety vd vs1 vs2 h3 k w f ek val rnd gives
  have hety : isEty ety = true := decide_eq_true (by omega)
  have hflt : isFlt ety = true := decide_eq_true h3
  have row {i : Instr} {op : Nat} {kind : Bool} {g : FVal → FVal → FVal → FVal} (hkind : kind = true)
      (hi : exec i s = .next (vecArith s k op ety.toNat 0 kind vd vs1 vs2))
      (hg : ∀ a b d, fltElem ek op f a b d = rnd (g (val a) (val b) (val d))) : gives i op g :=
    exec_vecArith hi hkind (g := fun a b d => rnd (g (val a) (val b) (val d))) fun a b d =>
      (lane_float h3 ..).trans (hg a b d)
  clear_value gives
  exact ⟨row hety rfl fun _ _ _ => rfl, row hety rfl fun _ _ _ => rfl, row hety rfl fun _ _ _ => rfl, row hety rfl fun _ _ _ => rfl,
    row hety rfl fun _ _ _ => rfl, row hety rfl fun _ _ _ => rfl, row hety rfl fun _ _ _ => rfl, row hety rfl fun _ _ _ => rfl,
    row hflt rfl fun _ _ _ => rfl, row hety rfl fun _ _ _ => rfl, row hety rfl fun _ _ _ => rfl⟩

end Sys2Proof.Machine
end

section
/-! ### Reductions (R132) -/

namespace Sys2Proof.Machine

/-! #### The tree -/

theorem pairUp_length (f : Word32 → Word32 → Word32) (l : List Word32) : (pairUp f l).length = (l.length + 1) / 2 := by
  induction l using pairUp.induct with
  | case1 a b rest ih => simp only [pairUp, List.length_cons, ih]; omega
  | case2 l h => match l with
    | [] => rfl
    | [_] => simp [pairUp]
    | a :: b :: rest => exact absurd rfl (h a b rest)

/-- One more level leaves the result of a list that the levels already reduce to one element. -/
theorem treeReduce_succ (f : Word32 → Word32 → Word32) {n : Nat} {l : List Word32} (h : l.length ≤ 2 ^ n) :
    treeReduce f (n + 1) l = treeReduce f n l := by
  induction n generalizing l with
  | zero => match l with
    | [] => rfl
    | [_] => rfl
    | a :: b :: rest => simp at h
  | succ n ih => match l with
    | [] => rfl
    | [_] => rfl
    | a :: b :: rest =>
      have hlen : (pairUp f (a :: b :: rest)).length ≤ 2 ^ n := by rw [pairUp_length]; omega
      exact ih hlen

/-- A level of the tree: element 2j combined with element 2j + 1, an odd last element carried over. -/
theorem pairUp_eq (f : Word32 → Word32 → Word32) (l : List Word32) : pairUp f l =
    (List.range (l.length / 2)).map (fun j => f (l.getD (2 * j) 0) (l.getD (2 * j + 1) 0))
      ++ (if l.length % 2 = 1 then [l.getD (l.length - 1) 0] else []) := by
  induction l using pairUp.induct with
  | case1 a b rest ih =>
    have hhalf : (a :: b :: rest).length / 2 = rest.length / 2 + 1 := by simp only [List.length_cons]; omega
    have hodd : (a :: b :: rest).length % 2 = rest.length % 2 := by simp only [List.length_cons]; omega
    rw [pairUp, ih, hhalf, hodd, List.range_succ_eq_map, List.map_cons, List.map_map, List.cons_append]
    congr 2
    by_cases h : rest.length % 2 = 1
    · obtain ⟨m, hm⟩ : ∃ m, rest.length = m + 1 := ⟨rest.length - 1, by omega⟩
      simp only [List.length_cons, hm, Nat.add_sub_cancel, List.getD_cons_succ]
    · simp only [if_neg h]
  | case2 l h => match l with
    | [] => rfl
    | [_] => simp [pairUp]
    | a :: b :: rest => exact absurd rfl (h a b rest)

theorem treeReduce_level (f : Word32 → Word32 → Word32) {l : List Word32} (h2 : 2 ≤ l.length) (h : l.length ≤ 256) :
    treeReduce f 9 l = treeReduce f 9 (pairUp f l) := by
  match l with
  | a :: b :: rest =>
    have hlen : (pairUp f (a :: b :: rest)).length ≤ 2 ^ 8 := by rw [pairUp_length]; omega
    exact (treeReduce_succ f hlen).symm

/-! #### The instruction -/

/-- A listed reduction writes its image to vd. -/
theorem exec_vecReduce {s : State} {k op ety md : Nat} {kind : Bool} {vd vs1 vs2 : BitVec 5} {i : Instr}
    (hi : exec i s = .next (vecReduce s k op ety md kind vd vs1 vs2)) (hkind : kind = true)
    (h : VecIssues s k (vecWord ety md op vd.toNat vs1.toNat vs2.toNat) (etyBits ety)) :
    exec i s = .next (coreStep s k (fun c => setV c vd (reduceImage (coreEskor s c) op ety md c.regs.vl (getV c vs1) (getV c vd)))
      (pcAfter s k 4)) := by
  simp only [hi, hkind, vecReduce, Bool.not_true, Bool.false_eq_true, if_false]
  rw [vecIssue_eq h.toIssues h.listed (decide_eq_true h.vl)]

/-- The words of the image: the tree's result, and for floating-point types the count (R132). -/
theorem reduceImage_eq (ek : Bool) (op ety md vl : Nat) (v d : BitVec 2048) : reduceImage ek op ety md vl v d =
    putElems d 32 (if ety < 3 then
        [(treeReduce (redNode ek op ety md) 9 ((elems v (etyBits ety) vl).map (widen ek ety md))).toNat, countNonfinite ety vl v]
      else [(treeReduce (redNode ek op ety md) 9 ((elems v (etyBits ety) vl).map (widen ek ety md))).toNat]) := by
  rw [apply_ite (putElems d 32)]
  rfl

/-- Settles O14: a reduction writes its image, and a level of the tree pairs neighbours. -/
theorem vectorReductions : Obligations.VectorReductions := by
  intro s core ety md vd vs1 vs2 h6 k w ek gives
  have hety : isEty ety = true := decide_eq_true h6
  have reduces {i : Instr} {op : Nat} (hi : exec i s = .next (vecReduce s k op ety.toNat md.toNat (isEty ety) vd vs1 vs2)) :
      gives i op := by
    intro h
    rw [exec_vecReduce hi hety h]
    exact congrArg _ (coreStep_congr s k _ (congrArg (setV _ vd) (reduceImage_eq ..)))
  clear_value gives
  exact ⟨reduces rfl, reduces rfl, reduces rfl, fun f => ⟨rfl, fun x => rfl, fun l h2 h => by
    rw [treeReduce_level f h2 h, pairUp_eq]⟩⟩

end Sys2Proof.Machine
end

section
/-! ### Counts, compares and selections of elements (R130, R135, R136) -/

namespace Sys2Proof.Machine

/-! #### Compress and expand -/

theorem filter_eq_take_cons_drop {α : Type} {p : α → Bool} {l : List α} {j : Nat} (hj : j < l.length) (hp : p l[j] = true) :
    l.filter p = (l.take j).filter p ++ l[j] :: (l.drop (j + 1)).filter p := by
  rw [← List.filter_cons_of_pos hp, ← List.drop_eq_getElem_cons hj, ← List.filter_append, List.take_append_drop]

/-- The active elements of a list in their order. -/
def activeElems (c : Word64) (xs : List Nat) : List Nat := (xs.zipIdx.filter (fun e => c.getLsbD e.2)).map Prod.fst

theorem compressElems_eq (c : Word64) (xs : List Nat) :
    compressElems c xs = activeElems c xs ++ List.replicate (xs.length - (activeElems c xs).length) 0 := rfl

theorem activeElems_length_le (c : Word64) (xs : List Nat) : (activeElems c xs).length ≤ xs.length := by
  rw [activeElems, List.length_map]
  exact (List.length_filter_le ..).trans List.length_zipIdx.le

theorem compressElems_length (c : Word64) (xs : List Nat) : (compressElems c xs).length = xs.length := by
  have := activeElems_length_le c xs
  rw [compressElems_eq, List.length_append, List.length_replicate]
  omega

/-- The count of active positions below j is the count of active elements before element j. -/
theorem active_below (c : Word64) {xs : List Nat} {j : Nat} (hj : j ≤ xs.length) :
    ((List.range j).filter (fun i => c.getLsbD i)).length = ((xs.zipIdx.take j).filter (fun e => c.getLsbD e.2)).length := by
  have hrange : List.range j = (xs.zipIdx.take j).map Prod.snd := by
    rw [List.map_take, List.zipIdx_map_snd, ← List.range_eq_range', List.take_range, Nat.min_eq_left hj]
  rw [hrange, List.filter_map, List.length_map]
  rfl

/-- An active element stands among the active ones at the count of those before it. -/
theorem activeElems_getElem? (c : Word64) {xs : List Nat} {j : Nat} (hj : j < xs.length) (hc : c.getLsbD j = true) :
    (activeElems c xs)[((List.range j).filter (fun i => c.getLsbD i)).length]? = some xs[j] := by
  have hj' : j < xs.zipIdx.length := by rwa [List.length_zipIdx]
  have hp : (fun e : Nat × Nat => c.getLsbD e.2) xs.zipIdx[j] = true := by simpa using hc
  rw [active_below c hj.le, activeElems, filter_eq_take_cons_drop hj' hp, List.map_append, List.map_cons,
    List.getElem?_append_right (by simp), List.length_map, Nat.sub_self, List.getElem?_cons_zero, List.getElem_zipIdx]

/-- Expanding what compressing packed brings each active element back to its position. -/
theorem expandElems_compressElems (c : Word64) (xs : List Nat) :
    expandElems c xs.length (compressElems c xs) = xs.zipIdx.map (fun e => if c.getLsbD e.2 then e.1 else 0) := by
  apply List.ext_getElem
  · simp [expandElems]
  · intro j h _
    have hj : j < xs.length := by simpa [expandElems] using h
    simp only [expandElems, List.getElem_map, List.getElem_range, List.getElem_zipIdx, Nat.zero_add]
    by_cases hc : c.getLsbD j = true
    · have hat := activeElems_getElem? c hj hc
      rw [if_pos hc, if_pos hc, compressElems_eq, List.getD_eq_getElem?_getD,
        List.getElem?_append_left (List.getElem?_eq_some_iff.mp hat).1, hat, Option.getD_some]
    · rw [if_neg hc, if_neg hc]

/-! #### The instructions -/

/-- A listed vector instruction of an element type whose condition holds changes its core. -/
theorem exec_vecIssue {s : State} {k bits : Nat} {kind : Bool} {word : Word32} {ok : Core → Bool} {f : Core → Core} {i : Instr}
    (hi : exec i s = .next (if kind then vecIssue s k word ok f else s)) (hkind : kind = true) (h : VecIssues s k word bits)
    (hok : ok (coreAt s k) = true) : exec i s = .next (coreStep s k f (pcAfter s k 4)) := by
  rw [hi, hkind, if_pos rfl, vecIssue_eq h.toIssues h.listed hok]

theorem VecIssues.vlOk {s : State} {k bits : Nat} {word : Word32} (h : VecIssues s k word bits) : vlOk bits (coreAt s k) = true :=
  decide_eq_true h.vl

theorem VecIssues.condOk {s : State} {k bits : Nat} {word : Word32} (h : VecIssues s k word bits) (hs : (coreAt s k).regs.vl ≤ 64) :
    condOk bits (coreAt s k) = true := by
  rw [Machine.condOk, h.vlOk, decide_eq_true hs, Bool.and_self]

/-- Settles O15: each instruction by its condition; expanding what compressing packed by the places of the active elements. -/
theorem countCompareAndSelect : Obligations.CountCompareAndSelect := by
  intro s core ety md cr rd rs1 vd vs1 vs2 h6 k w ek ready goesOn short
  have hety : isEty ety = true := decide_eq_true h6
  refine ⟨fun h3 h => ?count, fun h hs => ?compare, fun h hs => ?merge, fun h hs => ?compress, fun h hs => ?expand, fun h => ?splat,
    fun h => ?move, fun c xs _ => ⟨compressElems_length c xs, expandElems_compressElems c xs⟩⟩
  case count => exact exec_vecIssue rfl (decide_eq_true h3) h h.vlOk
  case compare =>
    rw [exec_vecIssue rfl hety h (h.condOk hs)]
    exact congrArg _ (coreStep_congr s k _ rfl)
  case merge => exact exec_vecIssue rfl hety h (h.condOk hs)
  case compress => exact exec_vecIssue rfl hety h (h.condOk hs)
  case expand => exact exec_vecIssue rfl hety h (h.condOk hs)
  case splat =>
    rw [exec_vecIssue rfl hety h h.vlOk]
    refine congrArg _ (coreStep_congr s k _ ?_)
    rw [List.map_const', List.length_range]
  case move => exact exec_vecIssue rfl hety h h.vlOk

end Sys2Proof.Machine
end

section
/-! ### Condition operations and random numbers (R135, R137, R140) -/

namespace Sys2Proof.Machine

theorem extractLsb'_low (x : Word64) : x.setWidth 32 = x.extractLsb' 0 32 := by
  apply BitVec.eq_of_getLsbD_eq
  intro i hi
  simp [hi]

theorem extractLsb'_high (x : Word64) : (x >>> 32).setWidth 32 = x.extractLsb' 32 32 := by
  apply BitVec.eq_of_getLsbD_eq
  intro i hi
  simp [hi]

/-- A listed vector instruction whose condition fails stops the program with cause 3. -/
theorem vecIssue_stops {s : State} {k : Nat} {word : Word32} (h : Issues s k word 4) (hl : lxListed word.toNat = true)
    {ok : Core → Bool} (hk : ok (coreAt s k) = false) (f : Core → Core) : vecIssue s k word ok f = stopCore s k 3 word 0 := by
  simp [vecIssue, issue_eq h, hl, hk]

/-- A condition operation runs with VL at most 64 and stops the program with cause 3 beyond that (R135). -/
theorem exec_condIssue {s : State} {k f7 d r1 r2 : Nat} {f : Core → Core} {i : Instr}
    (hi : exec i s = .next (condIssue s k f7 d r1 r2 f)) (h : Issues s k (c2Word f7 r2 r1 2 d) 4)
    (hl : lxListed (c2Word f7 r2 r1 2 d).toNat = true) :
    ((coreAt s k).regs.vl ≤ 64 → exec i s = .next (coreStep s k f (pcAfter s k 4)))
    ∧ (64 < (coreAt s k).regs.vl → exec i s = .next (stopCore s k 3 (c2Word f7 r2 r1 2 d) 0)) := by
  rw [hi, condIssue]
  exact ⟨fun hs => by rw [vecIssue_eq h hl (decide_eq_true hs)],
    fun hs => by rw [vecIssue_stops h hl (decide_eq_false (Nat.not_le.mpr hs))]⟩

/-- Which words of custom-2 funct3 2 are listed, by the numbers of their fields (R137). -/
theorem lxListed_c2Word {f7 d r1 r2 : Nat} (h7 : f7 < 128) (hd : d < 32) (h1 : r1 < 32) (h2 : r2 < 32) :
    lxListed (c2Word f7 r2 r1 2 d).toNat =
      if f7 ≤ 3 then decide (d < 4 ∧ r1 < 4 ∧ r2 < 4)
      else if f7 = 4 then decide (d < 4 ∧ r1 < 4 ∧ r2 = 0)
      else if f7 ≤ 7 ∨ f7 = 0x0A then decide (r1 < 4 ∧ r2 = 0)
      else if f7 ≤ 9 then decide (d < 4 ∧ r2 = 0)
      else false := by
  obtain ⟨hop, hrd, hf3, hrs1, hrs2, hf7⟩ := rWord_fields (f3 := 2) (opc := 0x5B) h7 h2 h1 (by decide) hd (by decide)
  simp only [c2Word, lxListed, hop, hrd, hf3, hrs1, hrs2, hf7]

/-- Settles O18: each row by its condition, and the listed words by their fields. -/
theorem conditionOperations : Obligations.ConditionOperations := by
  intro s core cd cs1 cs2 rd rs1 k gives
  have row {i : Instr} {f7 d r1 r2 : Nat} {f g : Core → Core} (hi : exec i s = .next (condIssue s k f7 d r1 r2 f)) (hf : f = g) :
      gives i f7 d r1 r2 g := hf ▸ exec_condIssue hi
  clear_value gives
  refine ⟨row rfl rfl, row rfl rfl, row rfl rfl, row rfl rfl, row rfl rfl, row rfl rfl,
    row rfl (funext fun c => congrArg (setX c rd) (extractLsb'_low _)), row rfl (funext fun c => congrArg (setX c rd) (extractLsb'_high _)),
    row rfl (funext fun c => congrArg (fun h => setC c cd (h ++ getX c rs1)) (extractLsb'_high _)),
    row rfl (funext fun c => congrArg (fun l => setC c cd (getX c rs1 ++ l)) (extractLsb'_low _)), row rfl rfl, fun f7 d r1 r2 => ?_⟩
  rw [lxListed_c2Word f7.isLt d.isLt r1.isLt r2.isLt]
  simp only [BitVec.le_def, BitVec.lt_def, ← BitVec.toNat_inj]
  split_ifs <;> simp <;> omega

/-- Settles O19: lx.rngw by its condition on x[rs1], lx.vrng without one. -/
theorem randomNumbers : Obligations.RandomNumbers := by
  intro s core rd rs1 vd k block
  refine ⟨fun h hl => ⟨fun hx => ?word, fun hx => ?outside⟩, fun h hl => ?fill⟩
  case word => exact congrArg _ (vecIssue_eq h hl (decide_eq_true hx) _)
  case outside => exact congrArg _ (vecIssue_stops h hl (decide_eq_false (Nat.not_lt.mpr hx)) _)
  case fill => exact congrArg _ (vecIssue_eq h hl (ok := fun _ => true) rfl _)

end Sys2Proof.Machine
end

section
/-! ### Vector memory, vsetvl, vmvx, vins and conversions at issue (R128, R133, R134) -/

namespace Sys2Proof.Machine

/-- VLMAX of the three element widths. -/
theorem vlmax_mdBits (md : BitVec 2) : vlmax (mdBits md.toNat) = if md = 0 then 256 else if md = 1 then 128 else 64 := by
  revert md
  decide

theorem exec_lxVld (core : CoreId) (md : BitVec 2) (vd rs1 rs2 : BitVec 5) (s : State) :
    exec (.lxVld core md vd rs1 rs2) s = execLxVld core md vd rs1 rs2 s := rfl
theorem exec_lxVst (core : CoreId) (md : BitVec 2) (vs rs1 rs2 : BitVec 5) (s : State) :
    exec (.lxVst core md vs rs1 rs2) s = execLxVst core md vs rs1 rs2 s := rfl

section
variable {s : State} {core : CoreId} {md : BitVec 2} {vd rs1 rs2 : BitVec 5}

/-- A vector load none of whose elements a check stops leaves the state as it is while an interlock holds it, and else writes vd. -/
theorem execLxVld_moves (h : VecIssues s core.toNat (vmWord md.toNat 0 vd.toNat rs1.toNat rs2.toNat) (mdBits md.toNat)) {addrs : List Nat}
    (ha : elemAddrs (coreAt s core.toNat) rs1 rs2 = addrs)
    (hf : firstFault (fun a => loadFault (coreAt s core.toNat) a (mdBits md.toNat / 8)) addrs = none) :
    execLxVld core md vd rs1 rs2 s = .next (if loadHeld s core.toNat (addrs.map (fun a => (a, mdBits md.toNat / 8))) then s
      else coreStep s core.toNat (fun c => setV c vd (putElems (getV c vd) (mdBits md.toNat)
        (addrs.map (fun a => windowRead s core.toNat a (mdBits md.toNat / 8))))) (pcAfter s core.toNat 4)) := by
  simp only [execLxVld, issue_eq h.toIssues, h.listed, h.vlOk, ha, hf, Bool.not_true, Bool.false_eq_true, if_false]
  split
  · rw [settle_hold]
  · rw [settle_onCore]

/-- The first element that a check stops stops the program. -/
theorem execLxVld_stops (h : VecIssues s core.toNat (vmWord md.toNat 0 vd.toNat rs1.toNat rs2.toNat) (mdBits md.toNat)) {cause a : Nat}
    (hf : firstFault (fun a => loadFault (coreAt s core.toNat) a (mdBits md.toNat / 8)) (elemAddrs (coreAt s core.toNat) rs1 rs2)
      = some (cause, a)) :
    execLxVld core md vd rs1 rs2 s = .next (stopCore s core.toNat cause (vmWord md.toNat 0 vd.toNat rs1.toNat rs2.toNat) a) := by
  simp only [execLxVld, issue_eq h.toIssues, h.listed, h.vlOk, hf, Bool.not_true, Bool.false_eq_true, if_false, settle_stop]

/-- A vector store none of whose elements a check stops leaves the state as it is while an interlock holds it, and else writes its
elements in ascending order. -/
theorem execLxVst_moves (h : VecIssues s core.toNat (vmWord md.toNat 1 vd.toNat rs1.toNat rs2.toNat) (mdBits md.toNat)) {addrs : List Nat}
    (ha : elemAddrs (coreAt s core.toNat) rs1 rs2 = addrs)
    (hf : firstFault (fun a => storeFault (coreAt s core.toNat) a (mdBits md.toNat / 8)) addrs = none) :
    execLxVst core md vd rs1 rs2 s = .next (if storeHeld s core.toNat (addrs.map (fun a => (a, mdBits md.toNat / 8))) then s
      else coreStep (addrs.zipIdx.foldl (fun t e => windowWrite t core.toNat e.1 (mdBits md.toNat / 8)
        (elem (getV (coreAt s core.toNat) vd) (mdBits md.toNat) e.2)) s) core.toNat id (pcAfter s core.toNat 4)) := by
  simp only [execLxVst, issue_eq h.toIssues, h.listed, h.vlOk, ha, hf, Bool.not_true, Bool.false_eq_true, if_false]
  split
  · rw [settle_hold]
  · rfl

theorem execLxVst_stops (h : VecIssues s core.toNat (vmWord md.toNat 1 vd.toNat rs1.toNat rs2.toNat) (mdBits md.toNat)) {cause a : Nat}
    (hf : firstFault (fun a => storeFault (coreAt s core.toNat) a (mdBits md.toNat / 8)) (elemAddrs (coreAt s core.toNat) rs1 rs2)
      = some (cause, a)) :
    execLxVst core md vd rs1 rs2 s = .next (stopCore s core.toNat cause (vmWord md.toNat 1 vd.toNat rs1.toNat rs2.toNat) a) := by
  simp only [execLxVst, issue_eq h.toIssues, h.listed, h.vlOk, hf, Bool.not_true, Bool.false_eq_true, if_false, settle_stop]

end

/-- Settles O16: loads and stores by the checks of their elements, the others by their condition. -/
theorem vectorMemoryAndControl : Obligations.VectorMemoryAndControl := by
  intro s core md rd vd rs1 rs2 k w n addrs held
  refine ⟨fun h => ⟨fun hf => (exec_lxVld ..).trans (execLxVld_moves h rfl hf), fun cause a hf => (exec_lxVld ..).trans (execLxVld_stops h hf)⟩,
    fun h => ⟨fun hf => (exec_lxVst ..).trans (execLxVst_moves h rfl hf), fun cause a hf => (exec_lxVst ..).trans (execLxVst_stops h hf)⟩,
    fun h hl => ?setvl, fun h hl => ?mvx, fun h hl => ?ins,
    fun sr nan dst src h hl => ⟨fun hok => ?converts, fun hbad => ?stops⟩⟩
  case setvl =>
    refine congrArg _ ((vecIssue_eq h hl (ok := fun _ => true) rfl _).trans (coreStep_congr s k _ ?_))
    rw [vlmax_mdBits]
  case mvx => exact congrArg _ (vecIssue_eq h hl (ok := fun _ => true) rfl _)
  case ins => exact congrArg _ (vecIssue_eq h hl (ok := fun _ => true) rfl _)
  case converts => exact congrArg _ (vecIssue_eq h hl hok _)
  case stops => exact congrArg _ (vecIssue_stops h hl hbad _)

end Sys2Proof.Machine
end

section
/-! ### Issue of matrix instructions, and waits for the engine (R123, R125, R126) -/

namespace Sys2Proof.Machine

theorem exec_lxMm (core : CoreId) (shape : BitVec 3) (t : Bool) (ws rd rs1 rs2 : BitVec 5) (s : State) :
    exec (.lxMm core shape t ws rd rs1 rs2) s = execLxMm core shape t ws rd rs1 rs2 s := rfl

/-- An instruction that changes its core whatever the state is goes on. -/
theorem issue_onCore {s : State} {k : Nat} {word : Word32} (h : Issues s k word 4) {f g : Core → Core}
    (hfg : f (coreAt s k) = g (coreAt s k)) :
    issue s k word (fun _ next => onCore s k f next) = coreStep s k g (pcAfter s k 4) := by
  rw [issue_eq h, settle_onCore, coreStep_congr s k _ hfg]

/-! #### Waits that end at once where nothing is awaited -/

theorem releaseWait_engineEmpty (c : Core) : releaseWait { c with wait := .engineEmpty } =
    { c with wait := if c.engine.insts.isEmpty then .none else .engineEmpty } :=
  (apply_ite (fun w => ({ c with wait := w } : Core)) (c.engine.insts.isEmpty = true) .none .engineEmpty).symm

theorem releaseWait_dmaTag (c : Core) (t : Word32) : releaseWait { c with wait := .dmaTag t } =
    { c with wait := if c.dmas.any (fun d => ticketCovers t d.tag) then .dmaTag t else .none } :=
  (apply_ite (fun w => ({ c with wait := w } : Core)) (c.dmas.any (fun d => ticketCovers t d.tag) = true) (.dmaTag t) .none).symm

theorem releaseWait_dmaAll (c : Core) : releaseWait { c with wait := .dmaAll } =
    { c with wait := if c.dmas.isEmpty then .none else .dmaAll } :=
  (apply_ite (fun w => ({ c with wait := w } : Core)) (c.dmas.isEmpty = true) .none .dmaAll).symm

/-! #### Matrix instructions -/

/-- The word of a matrix instruction. -/
abbrev mmWord (shape : BitVec 3) (t : Bool) (ws rd rs1 rs2 : BitVec 5) : Word32 :=
  c0Word (bitOf t * 64 + ws.toNat * 2) rs2.toNat rs1.toNat shape.toNat rd.toNat

/-- Core k issues `lx.mm` next, its MOD at scratch offset `off` one that can be read now, and `rows` is x[rs2]. -/
structure MmIssues (s : State) (k : Nat) (shape : BitVec 3) (t : Bool) (ws rd rs1 rs2 : BitVec 5) (off rows : Nat) : Prop extends
    Issues s k (mmWord shape t ws rd rs1 rs2) 4 where
  shapeOk : shape.toNat ≤ 5
  offIs : (getX (coreAt s k) rs1).toNat = off
  rowsAre : (getX (coreAt s k) rs2).toNat = rows
  aligned : off % 64 = 0
  inside : off + 128 ≤ 0x30000
  shared : inShare (coreAt s k) off 128 = true
  settled : loadHeld s k [(off, 128)] = false

section
variable {s : State} {core : CoreId} {shape : BitVec 3} {t : Bool} {ws rd rs1 rs2 : BitVec 5} {off rows : Nat}

/-- An instruction that R125 calls invalid stops the program with cause 2. -/
theorem execLxMm_invalid (h : MmIssues s core.toNat shape t ws rd rs1 rs2 off rows)
    (hbad : ¬ (rows < 32768 ∧ engValid (coreEskor s (coreAt s core.toNat)) shape.toNat ws.toNat rows
      (memBytes s.mem (coreAddr core.toNat off) 128) = true)) :
    execLxMm core shape t ws rd rs1 rs2 s = .next (stopCore s core.toNat 2 (mmWord shape t ws rd rs1 rs2) 0) := by
  obtain ⟨hissue, hshape, hoff, hrows, haligned, hinside, hshared, hsettled⟩ := h
  have hinvalid : 32768 ≤ rows ∨ (!engValid (coreEskor s (coreAt s core.toNat)) shape.toNat ws.toNat (rows % 32768)
      (memBytes s.mem (coreAddr core.toNat off) 128)) = true := by
    by_cases hlt : rows < 32768
    · refine .inr ?_
      rw [Nat.mod_eq_of_lt hlt]
      simpa [hlt] using hbad
    · exact .inl (Nat.le_of_not_lt hlt)
  have hplaced : ¬ (off % 64 ≠ 0 ∨ 0x30000 < off + 128) := by omega
  simp only [execLxMm, issue_eq hissue, hoff, hrows, if_neg (Nat.not_lt.mpr hshape), if_neg hplaced, hshared, hsettled,
    Bool.not_true, Bool.false_eq_true, if_false, if_pos hinvalid, settle_stop]

/-- A valid instruction whose operands lie in the share and that nothing holds joins the engine with the next ticket. -/
theorem execLxMm_joins (h : MmIssues s core.toNat shape t ws rd rs1 rs2 off rows) (hlt : rows < 32768)
    (hvalid : engValid (coreEskor s (coreAt s core.toNat)) shape.toNat ws.toNat rows
      (memBytes s.mem (coreAddr core.toNat off) 128) = true) {e : EngInst}
    (he : mmInst s core.toNat shape.toNat t ws.toNat off (rows % 32768) = e)
    (hranges : ∀ r ∈ e.ranges, r.1 + r.2 ≤ 0x30000 ∧ inShare (coreAt s core.toNat) r.1 r.2 = true
      ∧ (dmaDstRanges s core.toNat).any (overlap r) = false)
    (hwrites : ∀ r ∈ e.writeRanges, (dmaSrcRanges s core.toNat).any (overlap r) = false)
    (hroom : unstreamed (coreAt s core.toNat) < 2) :
    execLxMm core shape t ws rd rs1 rs2 s = .next (coreStep s core.toNat (fun x =>
      setX { x with engine := { workArrives (arrNow s (coreDie core.toNat)) x.engine with
        insts := x.engine.insts ++ [e], lastTicket := x.engine.lastTicket + 1 } } rd (x.engine.lastTicket + 1))
      (pcAfter s core.toNat 4)) := by
  obtain ⟨hissue, hshape, hoff, hrows, haligned, hinside, hshared, hsettled⟩ := h
  have hplaced : ¬ (off % 64 ≠ 0 ∨ 0x30000 < off + 128) := by omega
  have hok : ¬ (32768 ≤ rows ∨ (!engValid (coreEskor s (coreAt s core.toNat)) shape.toNat ws.toNat (rows % 32768)
      (memBytes s.mem (coreAddr core.toNat off) 128)) = true) := by
    rw [Nat.mod_eq_of_lt hlt, hvalid]
    simpa using hlt
  have hfits : e.ranges.any (fun r => decide (0x30000 < r.1 + r.2)) = false :=
    List.any_eq_false.mpr fun r hr => by simpa using (hranges r hr).1
  have hinShare : e.ranges.find? (fun r => !inShare (coreAt s core.toNat) r.1 r.2) = none :=
    List.find?_eq_none.mpr fun r hr => by simp [(hranges r hr).2.1]
  have hfree : (e.ranges.any (fun r => (dmaDstRanges s core.toNat).any (overlap r))
      || e.writeRanges.any (fun r => (dmaSrcRanges s core.toNat).any (overlap r))) = false :=
    Bool.or_eq_false_iff.mpr ⟨List.any_eq_false.mpr fun r hr => by simp [(hranges r hr).2.2],
      List.any_eq_false.mpr fun r hr => by simp [hwrites r hr]⟩
  clear hranges hwrites
  subst he
  simp only [mmInst] at hfits hinShare hfree ⊢
  simp only [execLxMm, issue_eq hissue, hoff, hrows, if_neg (Nat.not_lt.mpr hshape), if_neg hplaced, hshared, hsettled,
    Bool.not_true, Bool.false_eq_true, if_false, if_neg hok, hfits, hinShare, hfree, if_neg (Nat.not_le.mpr hroom), settle_onCore]
  exact congrArg _ (coreStep_congr s core.toNat _ rfl)

end

/-- Settles O20: lx.mm by the validity of its instruction; the waits end at once where nothing is awaited. -/
theorem matrixIssueAndWaits : Obligations.MatrixIssueAndWaits := by
  intro s core shape t ws rd rs1 rs2 k c word off rows e b mod valid
  have hissues (h : mod) : MmIssues s k shape t ws rd rs1 rs2 off rows := by
    obtain ⟨hissue, hshape, haligned, hinside, hshared, hsettled⟩ := h
    exact ⟨hissue, hshape, rfl, rfl, haligned, hinside, hshared, hsettled⟩
  refine ⟨fun hm hv hr hw hu => ?joins, fun hm hv => ?invalid, fun h => ?ewait, fun h => ?equiesce⟩
  case joins => exact (exec_lxMm ..).trans (execLxMm_joins (hissues hm) hv.1 hv.2 rfl hr hw hu)
  case invalid => exact (exec_lxMm ..).trans (execLxMm_invalid (hissues hm) hv)
  case ewait => exact congrArg _ (issue_onCore h rfl)
  case equiesce => exact congrArg _ (issue_onCore h (releaseWait_engineEmpty _))

end Sys2Proof.Machine
end

section
/-! ### Issue of data movement, barriers and the end (R119, R141, R143, R144) -/

namespace Sys2Proof.Machine

theorem exec_lxDma (core : CoreId) (rd rs1 : BitVec 5) (s : State) : exec (.lxDma core rd rs1) s = execLxDma core rd rs1 s := rfl

section
variable {s : State} {core : CoreId} {rd rs1 : BitVec 5} {a : Nat}

/-- A valid DMA that nothing holds takes the next tag and joins the core's DMAs. -/
theorem execLxDma_joins (h : Issues s core.toNat (c2Word 0 0 rs1.toNat 0 rd.toNat) 4) (ha : (getX (coreAt s core.toNat) rs1).toNat = a)
    (haligned : a % 64 = 0) (hshared : inShare (coreAt s core.toNat) a 64 = true) (hroom : (coreAt s core.toNat).dmas.length < 16)
    (hsettled : loadHeld s core.toNat [(a, 64)] = false) {d : Dma}
    (hd : dmaOfBytes ((coreAt s core.toNat).dmaTag + 1) (c2Word 0 0 rs1.toNat 0 rd.toNat) (memBytes s.mem (coreAddr core.toNat a) 64) = d)
    (hvalid : dmaValid (memBytes s.mem (coreAddr core.toNat a) 64) d = true) (hheld : dmaHeld s core.toNat d = false) :
    execLxDma core rd rs1 s = .next (coreStep s core.toNat (fun x => { setX x rd ((coreAt s core.toNat).dmaTag + 1) with
      dmaTag := (coreAt s core.toNat).dmaTag + 1, dmas := x.dmas ++ [d] }) (pcAfter s core.toNat 4)) := by
  have hfree : ¬ (16 ≤ (coreAt s core.toNat).dmas.length ∨ loadHeld s core.toNat [(a, 64)] = true) := by simp [hsettled, hroom]
  simp only [execLxDma, issue_eq h, ha, if_neg (not_not.mpr haligned), hshared, if_neg hfree, hd, hvalid, hheld, Bool.not_true,
    Bool.false_eq_true, if_false, settle_onCore]

theorem execLxDma_misaligned (h : Issues s core.toNat (c2Word 0 0 rs1.toNat 0 rd.toNat) 4)
    (ha : (getX (coreAt s core.toNat) rs1).toNat = a) (hmis : a % 64 ≠ 0) :
    execLxDma core rd rs1 s = .next (stopCore s core.toNat 7 (c2Word 0 0 rs1.toNat 0 rd.toNat) a) := by
  simp only [execLxDma, issue_eq h, ha, if_pos hmis, settle_stop]

theorem execLxDma_outside (h : Issues s core.toNat (c2Word 0 0 rs1.toNat 0 rd.toNat) 4)
    (ha : (getX (coreAt s core.toNat) rs1).toNat = a) (haligned : a % 64 = 0) (hout : inShare (coreAt s core.toNat) a 64 = false) :
    execLxDma core rd rs1 s = .next (stopCore s core.toNat 5 (c2Word 0 0 rs1.toNat 0 rd.toNat) a) := by
  simp only [execLxDma, issue_eq h, ha, if_neg (not_not.mpr haligned), hout, Bool.not_false, if_true, settle_stop]

end

/-- Settles O22: lx.dma by the checks of its descriptor; waits end at once where nothing is awaited, arrivals and the end wait. -/
theorem dataMovementIssue : Obligations.DataMovementIssue := by
  intro s core rd rs1 id k c a word b d goesOn
  exact ⟨fun h hal hsh hroom hset hv hh => (exec_lxDma ..).trans (execLxDma_joins h rfl hal hsh hroom hset rfl hv hh),
    fun h hmis => (exec_lxDma ..).trans (execLxDma_misaligned h rfl hmis),
    fun h hal hout => (exec_lxDma ..).trans (execLxDma_outside h rfl hal hout),
    fun h => congrArg _ (issue_onCore h (releaseWait_dmaTag _ _)), fun h => congrArg _ (issue_onCore h (releaseWait_dmaAll _)),
    fun h => congrArg _ (issue_onCore h rfl), fun h => congrArg _ (issue_onCore h rfl), fun h => congrArg _ (issue_onCore h rfl)⟩

end Sys2Proof.Machine
end

section
/-! ### Barrier release, DMA completion and the end of a program (R119, R143, R144) -/

namespace Sys2Proof.Machine

theorem exec_barrierRelease (die : Bool) (core : CoreId) (id : BitVec 3) (s : State) :
    exec (.barrierRelease die core id) s = execBarrierRelease die core id s := rfl
theorem exec_dmaComplete (core : CoreId) (tag : Word32) (s : State) : exec (.dmaComplete core tag) s = execDmaComplete core tag s := rfl
theorem exec_coreProgramEnded (core : CoreId) (s : State) : exec (.coreProgramEnded core) s = execCoreProgramEnded core s := rfl

/-! #### Barriers -/

/-- The cores of a list leave their barrier, each at the time of its die. -/
def leaveAll (l : List Nat) (now : Nat → Word64) (s : State) : State := l.foldl (fun t i => modCore t i (leaveBarrier (now i))) s

theorem leaveBarrier_wait_none {now : Word64} {c : Core} (h : c.wait = .none) : leaveBarrier now c = c := by
  rw [leaveBarrier, h]

theorem wait_of_atBarrier {die : Bool} {id : Nat} {c : Core} (h : atBarrier c die id = true) : ∃ d i since, c.wait = .barrier d i since := by
  unfold atBarrier at h
  split at h
  · exact ⟨_, _, _, ‹_›⟩
  · cases h

/-- A core that waits at a barrier waits for nothing once it has left. -/
theorem leaveBarrier_releases {die : Bool} {id : Nat} (now : Word64) {c : Core} (h : atBarrier c die id = true) :
    (leaveBarrier now c).wait = .none := by
  obtain ⟨d, i, since, hw⟩ := wait_of_atBarrier h
  rw [leaveBarrier, hw]

theorem leaveAll_mem (l : List Nat) (now : Nat → Word64) (s : State) : (leaveAll l now s).mem = s.mem := by
  induction l generalizing s with
  | nil => rfl
  | cons x l ih => exact (ih _).trans rfl

theorem leaveAll_other {l : List Nat} {i : Nat} (h : i ∉ l) (now : Nat → Word64) (s : State) : coreAt (leaveAll l now s) i = coreAt s i := by
  induction l generalizing s with
  | nil => rfl
  | cons x l ih =>
    exact (ih (List.not_mem_of_not_mem_cons h) _).trans (coreAt_modCore_other s _ (List.ne_of_not_mem_cons h))

/-- A core that waits for nothing stays so, however often it is listed. -/
theorem leaveAll_waiting_none (l : List Nat) {i : Nat} (now : Nat → Word64) {s : State} (h : (coreAt s i).wait = .none) :
    (coreAt (leaveAll l now s) i).wait = .none := by
  induction l generalizing s with
  | nil => exact h
  | cons x l ih =>
    refine ih ?_
    by_cases hx : i = x
    · rw [← hx, coreAt_modCore_same, leaveBarrier_wait_none h, h]
    · rw [coreAt_modCore_other s _ hx, h]

theorem leaveAll_releases {l : List Nat} {i : Nat} (hi : i ∈ l) (now : Nat → Word64) {s : State} {die : Bool} {id : Nat}
    (h : atBarrier (coreAt s i) die id = true) : (coreAt (leaveAll l now s) i).wait = .none := by
  induction l generalizing s with
  | nil => cases hi
  | cons x l ih =>
    by_cases hx : i = x
    · refine leaveAll_waiting_none l now ?_
      rw [← hx, coreAt_modCore_same]
      exact leaveBarrier_releases _ h
    · refine ih ((List.mem_cons.mp hi).resolve_left hx) ?_
      rwa [coreAt_modCore_other s _ hx]

/-- The participants that wait at a barrier leave it once each of them waits there or has ended. -/
theorem execBarrierRelease_releases {s : State} {core : CoreId} {die : Bool} {id : BitVec 3}
    (hk : atBarrier (coreAt s core.toNat) die id.toNat = true)
    (hall : ∀ i ∈ participants s core.toNat die, atBarrier (coreAt s i) die id.toNat = true ∨ (coreAt s i).exitWord.isSome = true) :
    execBarrierRelease die core id s =
      .next (leaveAll ((participants s core.toNat die).filter (fun c => atBarrier (coreAt s c) die id.toNat))
        (fun i => arrNow s (coreDie i)) s) := by
  have hall' : (participants s core.toNat die).all (fun c => atBarrier (coreAt s c) die id.toNat || coreEnded (coreAt s c)) = true :=
    List.all_eq_true.mpr fun i hi => Bool.or_eq_true_iff.mpr (hall i hi)
  simp only [execBarrierRelease, hk, hall', Bool.and_self, if_true]
  rfl

/-! #### DMA completion -/

/-- A core goes on waiting, or its wait is over. -/
theorem releaseWait_cases (c : Core) : releaseWait c = c ∨ releaseWait c = { c with wait := .none } := by
  unfold releaseWait
  cases c.wait with
  | none => exact .inl rfl
  | tickets t => exact ite_eq_or_eq ..
  | engineEmpty => exact (ite_eq_or_eq ..).symm
  | dmaTag t => exact ite_eq_or_eq ..
  | dmaAll => exact (ite_eq_or_eq ..).symm
  | barrier die id since => exact .inl rfl
  | ending exit => exact .inl rfl

/-- The end of a wait leaves the core's DMAs and their counts. -/
theorem releaseWait_dma (c : Core) : (releaseWait c).dmas = c.dmas ∧ (releaseWait c).dmaDone = c.dmaDone
    ∧ (releaseWait c).dmaBytesWr = c.dmaBytesWr := by
  obtain h | h := releaseWait_cases c
  · rw [h]; exact ⟨rfl, rfl, rfl⟩
  · rw [h]; exact ⟨rfl, rfl, rfl⟩

theorem completeTags_dmaBytesWr (c : Core) : (completeTags c).dmaBytesWr = c.dmaBytesWr := (releaseWait_dma _).2.2

/-- A core's only DMA, once it has moved its data, completes. -/
theorem completeTags_single {c : Core} {e : Dma} (h : c.dmas = [e]) (hm : e.moved = true) :
    (completeTags c).dmas = [] ∧ (completeTags c).dmaDone = e.tag := by
  simp [completeTags, releaseWait_dma, h, hm]

/-- A core after the transfer of the DMA of a tag: the DMA is marked, its bytes are counted, and tags complete in order. -/
def afterTransfer (tag : Word32) (d : Dma) (c : Core) : Core :=
  completeTags { c with
    dmas := c.dmas.map (fun e => if e.tag == tag then { e with moved := true } else e),
    dmaBytesRd := bump c.dmaBytesRd (if d.fill then 0 else d.rows * d.rowBytes),
    dmaBytesWr := bump c.dmaBytesWr (d.rows * d.rowBytes) }

theorem afterTransfer_dmaBytesWr (tag : Word32) (d : Dma) (c : Core) :
    (afterTransfer tag d c).dmaBytesWr = bump c.dmaBytesWr (d.rows * d.rowBytes) := completeTags_dmaBytesWr _

theorem afterTransfer_single {tag : Word32} (d : Dma) {c : Core} {e : Dma} (h : c.dmas = [e]) (ht : e.tag = tag) :
    (afterTransfer tag d c).dmas = [] ∧ (afterTransfer tag d c).dmaDone = tag := by
  obtain ⟨hdmas, hdone⟩ := completeTags_single (c := { c with
    dmas := c.dmas.map (fun e => if e.tag == tag then { e with moved := true } else e),
    dmaBytesRd := bump c.dmaBytesRd (if d.fill then 0 else d.rows * d.rowBytes),
    dmaBytesWr := bump c.dmaBytesWr (d.rows * d.rowBytes) }) (e := { e with moved := true }) (by simp [h, ht]) rfl
  exact ⟨hdmas, hdone.trans ht⟩

/-- A DMA that may move and moves its data. -/
theorem execDmaComplete_moves {s u : State} {core : CoreId} {tag : Word32} {d : Dma}
    (hd : (coreAt s core.toNat).dmas.find? (fun e => e.tag == tag) = some d) (hm : d.moved = false)
    (hr : (coreAt s core.toNat).run = .running) (hb : behindEarlier (coreAt s core.toNat) d = false)
    (hmove : moveDma s core.toNat d = .moved u) :
    execDmaComplete core tag s = .next (modCore u core.toNat (afterTransfer tag d)) := by
  simp only [execDmaComplete, hd, hm, hr, hb, hmove, beq_self_eq_true, Bool.not_true, Bool.or_self, Bool.false_eq_true, if_false]
  rfl

/-! #### The end of a program -/

/-- The core whose program has ended, with its exit word. -/
def endedCore (exit : Word32) (c : Core) : Core := { c with run := .idle, wait := .none, exitWord := some exit }

/-- The state once a core's program has ended and the cycles of its run are counted for its command. -/
def coreEnds (s : State) (k : Nat) (exit : Word32) : State :=
  let c := coreAt s k
  let t := setCore s k (endedCore exit c)
  let ran := arrNow s (coreDie k) - c.startCycle
  modCmd (match cmdAt t c.job.queue c.job.pos with
    | some x => addBusy t c.job.partition x k ran.toNat
    | none => t) c.job.queue c.job.pos (fun x => { x with engine := x.engine + ran })

/-- The state once a command's work is over, if every one of its cores has ended: its result is the exit word of rank 0. -/
def commandEnds (s : State) (q pos : Nat) : State :=
  match cmdAt s q pos with
  | none => s
  | some x =>
    if x.cores.all (fun i => coreEnded (coreAt s i)) then
      finishCmd s q pos stOk (match x.cores.head? with
        | some i => (((coreAt s i).exitWord).map (·.toNat)).getD 0
        | none => 0)
    else s

/-- The end of a core whose engine and DMAs are empty, and then of its command. -/
theorem execCoreProgramEnded_eq {s : State} {core : CoreId} {exit : Word32} (hw : (coreAt s core.toNat).wait = .ending exit)
    (hr : (coreAt s core.toNat).run = .running) (he : (coreAt s core.toNat).engine.insts = []) (hd : (coreAt s core.toNat).dmas = []) :
    execCoreProgramEnded core s = .next (commandEnds (coreEnds s core.toNat exit) (coreAt s core.toNat).job.queue
      (coreAt s core.toNat).job.pos) := by
  have hquiet : ((coreAt s core.toNat).run == .running && (coreAt s core.toNat).engine.insts.isEmpty
      && (coreAt s core.toNat).dmas.isEmpty) = true := by rw [hr, he, hd]; rfl
  rw [commandEnds]
  simp only [execCoreProgramEnded, hw, hquiet, if_true]
  change (match cmdAt (coreEnds s core.toNat exit) (coreAt s core.toNat).job.queue (coreAt s core.toNat).job.pos with
    | none => _
    | some x => _) = _
  cases cmdAt (coreEnds s core.toNat exit) (coreAt s core.toNat).job.queue (coreAt s core.toNat).job.pos with
  | none => rfl
  | some x => exact (apply_ite Host.Outcome.next ..).symm

theorem coreAt_coreEnds (s : State) (k : Nat) (exit : Word32) : coreAt (coreEnds s k exit) k = endedCore exit (coreAt s k) := by
  refine Eq.trans (b := coreAt (setCore s k (endedCore exit (coreAt s k))) k) ?_ (coreAt_setCore_same ..)
  dsimp only [coreEnds]
  split <;> rfl

/-- The command of the core that ends keeps all but the cycles counted for it. -/
theorem cmdAt_coreEnds (s : State) (k : Nat) (exit : Word32) :
    cmdAt (coreEnds s k exit) (coreAt s k).job.queue (coreAt s k).job.pos =
      (cmdAt s (coreAt s k).job.queue (coreAt s k).job.pos).map
        (fun x => { x with engine := x.engine + (arrNow s (coreDie k) - (coreAt s k).startCycle) }) := by
  rw [coreEnds, cmdAt_modCmd_same _ _ _ (by exact fun _ => rfl)]
  split <;> rfl

theorem coreAt_commandEnds (s : State) (q pos i : Nat) : coreAt (commandEnds s q pos) i = coreAt s i := by
  unfold commandEnds
  split
  · rfl
  · split <;> rfl

/-- A command of one core that has ended is finished with that core's exit word. -/
theorem commandEnds_single {s : State} {q pos k : Nat} {x : Cmd} {exit : Word32} (hx : cmdAt s q pos = some x) (hc : x.cores = [k])
    (he : (coreAt s k).exitWord = some exit) :
    (cmdAt (commandEnds s q pos) q pos).map (fun y => (y.phase, y.status, y.result)) = some (.finished, 0, exit.toNat) := by
  have hall : x.cores.all (fun i => coreEnded (coreAt s i)) = true := by simp [hc, coreEnded, he]
  simp only [commandEnds, hx, hall, if_true, finishCmd]
  rw [cmdAt_modCmd_same s q pos (by exact fun _ => rfl), hx]
  simp [hc, he, stOk]

/-- Settles O23: the participants leave their barrier, a DMA that moved completes, a core that ended ends its command with it. -/
theorem barrierDmaAndProgramEnd : Obligations.BarrierDmaAndProgramEnd := by
  intro s core k c
  refine ⟨fun die id hk hall => ?barrier, fun tag d u hd hm hr hb hmove => ?dma, fun exit hw hr he hd => ?ends⟩
  case barrier =>
    refine ⟨_, (exec_barrierRelease ..).trans (execBarrierRelease_releases hk hall), fun i hi hat => ?_, fun i hi => ?_, leaveAll_mem ..⟩
    · exact leaveAll_releases (List.mem_filter.mpr ⟨hi, hat⟩) _ hat
    · exact leaveAll_other (fun h => hi (List.mem_of_mem_filter h)) _ s
  case dma =>
    refine ⟨_, (exec_dmaComplete ..).trans (execDmaComplete_moves hd hm hr hb hmove), rfl, ?_, fun e hone ht => ?_⟩
    · rw [coreAt_modCore_same, afterTransfer_dmaBytesWr]
    · rw [coreAt_modCore_same]
      exact afterTransfer_single d hone ht
  case ends =>
    refine ⟨_, (exec_coreProgramEnded ..).trans (execCoreProgramEnded_eq hw hr he hd), ?_, ?_, fun x hx hc => ?_⟩
    · rw [coreAt_commandEnds, coreAt_coreEnds]; rfl
    · rw [coreAt_commandEnds, coreAt_coreEnds]; rfl
    · refine commandEnds_single ((cmdAt_coreEnds s k exit).trans (congrArg _ hx)) hc ?_
      rw [coreAt_coreEnds]; rfl

end Sys2Proof.Machine
end

section
/-! The module before power-on (R183, R457): what its registers read. -/

namespace Sys2Proof.Machine

theorem bytesToNat_zeros (n : Nat) : bytesToNat (zeros n) = 0 := by
  induction n with
  | zero => rfl
  | succ n ih =>
    change 0 + 256 * bytesToNat (zeros n) = 0
    rw [ih]

theorem fieldAt_zeros (n off k : Nat) : fieldAt (zeros n) off k = 0 := by
  have hs : sliceBytes (zeros n) off k = zeros k := by simp [sliceBytes, zeros]
  rw [fieldAt, hs, bytesToNat_zeros]

/-- Every register of a core's control block after core reset (Tables 3-10, 4-15). -/
theorem coreReg_reset (k off : Nat) : coreReg State.reset k off = 0 := by
  have hc : coreAt State.reset k = Core.reset := rfl
  simp only [coreReg, hc]
  split <;> rfl

theorem regRead_reset_core {k off : Nat} (hk : k < 8192) (ho : off < 0x2000) :
    regRead State.reset (k / 1024) (k % 1024 * 0x2000 + off) = some 0 := by
  have hd : k / 1024 < 8 := by omega
  have hb : k % 1024 * 0x2000 + off < 0x800000 := by omega
  change liveReg State.reset _ _ = _
  simp [liveReg, hd, hb, coreReg_reset]

/-- A flow context that no flow uses reads zero (Table 11-7). -/
theorem regRead_reset_flow {f i : Nat} (hf : f < 40960) (hi : i < 16) :
    regRead State.reset (8 + f / 10240) (0x400000 + f % 10240 * 0x80 + 8 * i) = some 0 := by
  have hd : f / 10240 < 4 := by omega
  have h8 : (0x400000 + f % 10240 * 0x80 + 8 * i) / 8 * 8 = 0x400000 + f % 10240 * 0x80 + 8 * i := by omega
  have hb : f % 10240 * 0x80 + 8 * i < 0x140000 := by omega
  have hz (k : Nat) : flowBytes State.reset k = zeros 128 := rfl
  change liveReg State.reset _ _ = _
  simp only [liveReg, h8, show ¬ 8 + f / 10240 < 8 by omega, show 8 + f / 10240 < 12 by omega, if_true, if_false]
  unfold baseReg
  rw [if_neg (by omega), if_neg (by omega), if_neg (by omega), if_neg (by omega), if_neg (by omega), if_neg (by omega),
    if_pos (by omega), hz, fieldAt_zeros]

/-- Settles O60: the hub's registers are read one by one, those of cores and of flow contexts all at once. -/
theorem resetValues : Obligations.ResetValues := by
  refine ⟨rfl, rfl, rfl, rfl, rfl, rfl, rfl, rfl, fun p hp => ⟨if_neg hp.symm, if_neg hp.symm⟩, fun a => rfl, rfl, rfl, rfl, rfl,
    ?tier, rfl, ?power, ?dies, ?fault, ?journal, fun k off hk ho => regRead_reset_core hk ho, fun f i hf hi => regRead_reset_flow hf hi, ?ports, rfl, rfl, rfl, rfl⟩
  case tier => decide
  case power => decide
  case dies => decide
  case fault => decide
  case journal => decide
  case ports => simp [State.reset, Port.reset]

end Sys2Proof.Machine
end

section
/-! ### The host tier: tier map entries, migrations in flight and host reads (R170 to R175, R178) -/

namespace Sys2Proof.Machine

theorem partAt_congr {s t : State} (h : t.partitions = s.partitions) (p : Nat) : partAt t p = partAt s p := by rw [partAt, h, partAt]

theorem partAt_modPart_some {s : State} {p : Nat} {x : Partition} (h : partAt s p = some x) (f : Partition → Partition) :
    partAt (modPart s p f) p = some (f x) := by rw [partAt_modPart_same, h, Option.map_some]

theorem partAt_releasePage (s : State) (p obj page q : Nat) : partAt (releasePage s p obj page) q = partAt s q := rfl

theorem partAt_putMapEntry (s : State) (o : TieredObject) (page frame : Nat) (st : PageState) (gen q : Nat) :
    partAt (putMapEntry s o page frame st gen) q = partAt s q := rfl

theorem tierObject_of_partAt {s : State} {p : Nat} {x : Partition} (h : partAt s p = some x) (obj : Nat) :
    tierObject s p obj = mapGet x.objects obj := by simp [tierObject, h]

theorem migAt_of_partAt {s : State} {p : Nat} {x : Partition} (h : partAt s p = some x) (obj page : Nat) :
    migAt s p obj page = x.migs.find? (fun m => m.object == obj && m.page == page) := by simp [migAt, h]

theorem migAt_modPart {s : State} {p : Nat} {f : Partition → Partition} (hf : ∀ x, (f x).migs = x.migs) (obj page : Nat) :
    migAt (modPart s p f) p obj page = migAt s p obj page := by
  simp only [migAt, partAt_modPart_same]
  cases partAt s p <;> simp [hf]

theorem tierObject_modPart {s : State} {p : Nat} {f : Partition → Partition} (hf : ∀ x, (f x).objects = x.objects) (obj : Nat) :
    tierObject (modPart s p f) p obj = tierObject s p obj := by
  simp only [tierObject, partAt_modPart_same]
  cases partAt s p <;> simp [hf]

theorem tierObject_modObject (s : State) (p obj : Nat) (f : TieredObject → TieredObject) :
    tierObject (modObject s p obj f) p obj = (tierObject s p obj).map f := by
  simp only [tierObject, modObject, partAt_modPart_same]
  cases partAt s p <;> simp [mapGet_mapModify_same]

/-- A change of a page's migration that keeps its page is what the page's entry then holds. -/
theorem migAt_modMig (s : State) (p obj page : Nat) {f : Migration → Migration}
    (hf : ∀ m, (f m).object = m.object ∧ (f m).page = m.page) :
    migAt (modMig s p obj page f) p obj page = (migAt s p obj page).map f := by
  simp only [migAt, modMig, partAt_modPart_same]
  cases partAt s p with
  | none => rfl
  | some x =>
    simp only [Option.map_some, Option.bind_some]
    induction x.migs with
    | nil => rfl
    | cons m l ih =>
      rw [List.map_cons, List.find?_cons, List.find?_cons]
      cases hm : m.object == obj && m.page == page with
      | false => simpa only [hm, Bool.false_eq_true, if_false] using ih
      | true => simp [hf, hm]

theorem migAt_congr {s t : State} (h : t.partitions = s.partitions) (p obj page : Nat) : migAt t p obj page = migAt s p obj page := by
  rw [migAt, partAt_congr h, migAt]

theorem migAt_putMapEntry (s : State) (o : TieredObject) (page frame : Nat) (st : PageState) (gen p obj pg : Nat) :
    migAt (putMapEntry s o page frame st gen) p obj pg = migAt s p obj pg := rfl

/-- The step that a page's migration is moved to. -/
theorem migAt_modMig_step {s : State} {p obj page : Nat} {m : Migration} (h : migAt s p obj page = some m) (n : Nat) :
    (migAt (modMig s p obj page (fun y => { y with step := n })) p obj page).map (·.step) = some n := by
  rw [migAt_modMig s p obj page (f := fun y => { y with step := n }) fun _ => ⟨rfl, rfl⟩, h]
  rfl

theorem migAt_freeMig (s : State) (p obj page : Nat) : migAt (freeMig s p obj page) p obj page = none := by
  simp only [migAt, freeMig, partAt_modPart_same]
  cases partAt s p with
  | none => rfl
  | some x =>
    refine List.find?_eq_none.mpr fun m hm => ?_
    simpa only [Bool.not_eq_true', Bool.not_eq_true] using (List.mem_filter.mp hm).2

theorem mem_mapSet_same {α : Type} (m : SMap α) (k : Nat) (v : α) : (k, v) ∈ mapSet m k v := by
  induction m with
  | nil => exact List.mem_cons_self ..
  | cons e m ih =>
    obtain ⟨j, w⟩ := e
    simp only [mapSet]
    split
    · exact List.mem_cons_self ..
    · split
      · exact List.mem_cons_self ..
      · exact List.mem_cons_of_mem _ ih

/-- A read just issued is outstanding. -/
theorem readFor_issueRead (s : State) (p bus n : Nat) (why : HostReadFor) (a : Nat) (cmd : Option CmdRef) :
    (readFor (issueRead s p bus n why a cmd) p why cmd a n).isSome = true :=
  List.find?_isSome.mpr ⟨_, mem_mapSet_same .., by simp⟩

theorem readFor_modMig (s : State) (p obj page : Nat) (f : Migration → Migration) (q : Nat) (why : HostReadFor) (cmd : Option CmdRef)
    (a n : Nat) : readFor (modMig s p obj page f) q why cmd a n = readFor s q why cmd a n := rfl

/-- No request waits, so none starts. -/
theorem startQueued_nil {s : State} {p : Nat} {x : Partition} (h : partAt s p = some x) (hq : x.migQueue = []) :
    startQueued s p = modPart s p (fun y => { y with migQueue := [] }) := by
  simp [startQueued, h, hq]

theorem clearPoison_mem (s : State) (a n : Nat) : (clearPoison s a n).mem = s.mem := by
  unfold clearPoison
  split <;> rfl

/-- Where no line of a page is cached, its recall changes nothing. -/
theorem recallPage_unheld {s : State} {o : TieredObject} {page : Nat} (place : Nat → Place)
    (h : ∀ lid ∈ lidsOf (pageAddr o page) 65536, lineHeld s lid = false) : recallPage s o page place = s := by
  unfold recallPage
  generalize lidsOf (pageAddr o page) 65536 = l at h ⊢
  induction l with
  | nil => rfl
  | cons lid l ih =>
    have hl := h lid (List.mem_cons_self ..)
    simp only [List.foldl_cons, hl]
    exact ih (fun i hi => h i (List.mem_cons_of_mem _ hi))

/-! ### Tier map entries (R170, Table 5-5) -/

theorem mapEntry_congr {s t : State} (h : t.mem = s.mem) (o : TieredObject) (page : Nat) : mapEntry t o page = mapEntry s o page := by
  rw [mapEntry, h, mapEntry]

theorem cp32Bytes_length (v : Nat) : (cp32Bytes v).length = 8 := natToBytes_length ..

theorem mapEntry_gen_lt {s : State} {o : TieredObject} {page f g : Nat} {st : PageState} (h : mapEntry s o page = some (f, st, g)) :
    g < 32 := by
  simp only [mapEntry, Option.map_eq_some_iff, Prod.mk.injEq] at h
  obtain ⟨v, -, -, -, rfl⟩ := h
  exact natField_lt ..

/-- The fields of a tier map entry's value. -/
theorem mapValue_fields {frame : Nat} (hf : frame < 2 ^ 25) (st : PageState) (gen : Nat) :
    mapValue frame st gen < 2 ^ 32 ∧ natField (mapValue frame st gen) 0 25 = frame
    ∧ natField (mapValue frame st gen) 25 2 = (match st with | .t2 => 0 | .t1 => 1 | .promoting => 2 | .demoting => 3)
    ∧ natField (mapValue frame st gen) 27 5 = gen % 32 := by
  simp only [mapValue, natField, Nat.shiftRight_eq_div_pow]
  cases st <;> (simp only []; omega)

/-- A tier map entry reads back as it was written. -/
theorem mapEntry_of_written {s : State} {m : List Host.Cell} {o : TieredObject} {page frame : Nat} (hw : memWf m = true)
    (hf : frame < 2 ^ 25) (st : PageState) (gen : Nat)
    (hm : s.mem = memPutBytes m (o.mapAddr + 8 * page) (cp32Bytes (mapValue frame st gen))) :
    mapEntry s o page = some (frame, st, gen % 32) := by
  obtain ⟨hlt, hframe, hst, hgen⟩ := mapValue_fields hf st gen
  have hb : memBytes s.mem (o.mapAddr + 8 * page) 8 = cp32Bytes (mapValue frame st gen) := by
    rw [hm]; exact (memPutBytes_range hw (cp32Bytes_length _)).1
  rw [mapEntry, hb, cp32At_cp32Bytes, Nat.mod_eq_of_lt hlt, Option.map_some, hframe, hst, hgen]
  cases st <;> rfl

/-! ### Host memory -/

theorem hostCell_hostPutBytes_other {m : List Host.Cell} {a x : Nat} {bs : List Byte} (h : x < a ∨ a + bs.length ≤ x) :
    hostCell (hostPutBytes m a bs) x = hostCell m x := by
  induction bs generalizing m a with
  | nil => rfl
  | cons b bs ih =>
    simp only [List.length_cons] at h
    rw [hostPutBytes, ih (by omega), hostCell_hostPut_other _ _ (by omega)]

theorem hostCell_hostPutBytes_same {m : List Host.Cell} {a i : Nat} {bs : List Byte} (h : i < bs.length) :
    hostCell (hostPutBytes m a bs) (a + i) = some bs[i] := by
  induction bs generalizing m a i with
  | nil => simp at h
  | cons b bs ih =>
    rw [hostPutBytes]
    cases i with
    | zero => rw [hostCell_hostPutBytes_other (by omega)]; exact hostCell_hostPut_same ..
    | succ i =>
      rw [show a + (i + 1) = a + 1 + i by omega, ih (by simpa using h)]
      rfl

theorem hostWrite_mem (s : State) (p bus : Nat) (bs : List Byte) : (hostWrite s p bus bs).mem = s.mem := by
  simp [hostWrite]

theorem hostWrite_hostMem (s : State) (p bus : Nat) (bs : List Byte) :
    (hostWrite s p bus bs).hostMem = hostPutBytes s.hostMem (hostKey p bus) bs := by simp [hostWrite]

/-- What is written to host memory is what the host then holds there. -/
theorem hostBytes_of_written {s : State} {m : List Host.Cell} {p bus n : Nat} {bs : List Byte} (hn : bs.length = n)
    (hm : s.hostMem = hostPutBytes m (hostKey p bus) bs) : hostBytes s p bus n = bs := by
  subst hn
  refine List.ext_getElem (by simp [hostBytes]) fun i h1 h2 => ?_
  have hk : hostKey p (bus + i) = hostKey p bus + i := by simp only [hostKey]; omega
  simp [hostBytes, hm, hk, hostCell_hostPutBytes_same h2]

end Sys2Proof.Machine
end

section
/-! ### Promotions and demotions step by step (R173, Tables 5-7 and 5-8) -/

namespace Sys2Proof.Machine

theorem exec_promotionStepDone (p : BitVec 4) (object : BitVec 10) (page : BitVec 28) (s : State) :
    exec (.promotionStepDone p object page) s = execPromotionStepDone p object page s := rfl
theorem exec_demotionStepDone (p : BitVec 4) (object : BitVec 10) (page : BitVec 28) (s : State) :
    exec (.demotionStepDone p object page) s = execDemotionStepDone p object page s := rfl

/-- A page is in T1: it is resident, and its count starts anew. -/
def promotedObject (page : Nat) (y : TieredObject) : TieredObject :=
  { y with resident := y.resident ++ [page], counts := mapErase y.counts page }

/-- A page is back in T2: its frame is free. -/
def demotedObject (page frame : Nat) (y : TieredObject) : TieredObject :=
  { y with resident := y.resident.filter (· != page), free := y.free ++ [frame] }

/-- One more page promoted (Table 5-10). -/
def countPromoted (x : Partition) : Partition := { x with tier := { x.tier with promoted := x.tier.promoted + 1 } }

/-- One more page demoted (Table 5-10). -/
def countDemoted (x : Partition) : Partition := { x with tier := { x.tier with demoted := x.tier.demoted + 1 } }

/-- The data of host read k in a page's frame. -/
def pageCopied (s : State) (k frame : Nat) (data : List Byte) : State :=
  clearPoison { s with hostReads := mapErase s.hostReads k, mem := memPutBytes s.mem (frame * 65536) data } (frame * 65536) 65536

theorem partAt_pageCopied (s : State) (k frame : Nat) (data : List Byte) (p : Nat) : partAt (pageCopied s k frame data) p = partAt s p := by
  simp [partAt, pageCopied, (clearPoison_memOnly _ _ _).partitions]

theorem pageCopied_mem (s : State) (k frame : Nat) (data : List Byte) :
    (pageCopied s k frame data).mem = memPutBytes s.mem (frame * 65536) data := clearPoison_mem ..

/-- The partition once a page's in-flight entry is free. -/
def freedPart (x : Partition) (obj page : Nat) : Partition :=
  { x with migs := x.migs.filter (fun m => !(m.object == obj && m.page == page)) }

/-- The end of a migration leaves its object as `f` says, the partition as `g` says, and the page's in-flight entry free. -/
theorem partAt_migrationEnd {s : State} {p : Nat} {x : Partition} (h : partAt s p = some x) (obj page : Nat)
    (f : TieredObject → TieredObject) (g : Partition → Partition) :
    partAt (freeMig (releasePage (modPart (modObject s p obj f) p g) p obj page) p obj page) p =
      some (freedPart (g { x with objects := mapModify x.objects obj f }) obj page) :=
  partAt_modPart_some ((partAt_releasePage ..).trans (partAt_modPart_some (partAt_modPart_some h _) g)) _

theorem migrationEnd_mem (s : State) (p obj page : Nat) (f : TieredObject → TieredObject) (g : Partition → Partition) :
    (freeMig (releasePage (modPart (modObject s p obj f) p g) p obj page) p obj page).mem = s.mem := by
  simp [freeMig, releasePage]

/-- A page whose in-flight entry is free has no migration. -/
theorem migAt_of_freed {s : State} {p obj page : Nat} {x y : Partition} (h : partAt s p = some y)
    (hy : y.migs = (freedPart x obj page).migs) : migAt s p obj page = none := by
  rw [migAt_of_partAt h, hy]
  refine List.find?_eq_none.mpr fun m hm => ?_
  simpa only [Bool.not_eq_true', Bool.not_eq_true] using (List.mem_filter.mp hm).2

theorem startQueued_quiet {s : State} {p : Nat} {x : Partition} (h : partAt s p = some x) (hq : x.migQueue = []) :
    (startQueued s p).mem = s.mem ∧ partAt (startQueued s p) p = some { x with migQueue := [] } := by
  rw [startQueued_nil h hq]
  exact ⟨rfl, partAt_modPart_some h _⟩

/-- Where no promotion is in flight, none waits for a frame. -/
theorem giveFrames_none {s : State} {p : Nat} {x : Partition} (h : partAt s p = some x) (hn : x.migs.filter (fun y => y.dir == .promote) = [])
    (obj : Nat) : giveFrames s p obj = s := by
  have hw : x.migs.filter (fun m => m.object == obj && m.dir == .promote && m.step == 1 && !m.retryWait) = [] := by
    rw [List.filter_eq_nil_iff] at hn ⊢
    intro m hm
    simp [hn m hm]
  simp [giveFrames, h, hw]

/-- The end of a demotion gives no frame away where no promotion is in flight. -/
theorem startQueued_giveFrames_quiet {s : State} {p : Nat} {x : Partition} (h : partAt s p = some x) (hq : x.migQueue = [])
    (hn : x.migs.filter (fun y => y.dir == .promote) = []) (obj : Nat) :
    (startQueued (giveFrames s p obj) p).mem = s.mem ∧ partAt (startQueued (giveFrames s p obj) p) p = some { x with migQueue := [] } := by
  rw [giveFrames_none h hn]
  exact startQueued_quiet h hq

section
variable {s : State} {p : BitVec 4} {object : BitVec 10} {page : BitVec 28} {x : Partition} {o : TieredObject} {m : Migration}
  (hx : partAt s p.toNat = some x) (ho : mapGet x.objects object.toNat = some o)
  (hm : migAt s p.toNat object.toNat page.toNat = some m) (hr : m.retryWait = false) (hl : linkUp s = true)
include hx ho hm hr hl

/-- Step 3 of Table 5-7 over lines that no cache holds: the page is asked for. -/
theorem execPromotionStepDone_asks (hd : m.dir = .promote) (h3 : m.step = 3)
    (hc : ∀ lid ∈ lidsOf (pageAddr o page.toNat) 65536, lineHeld s lid = false) :
    execPromotionStepDone p object page s = .next (modMig (issueRead s p.toNat (pageBus s p.toNat o page.toNat) 65536 .migration
      (pageAddr o page.toNat) none) p.toNat object.toNat page.toNat (fun y => { y with step := 4 })) := by
  have hto : tierObject s p.toNat object.toNat = some o := (tierObject_of_partAt hx _).trans ho
  simp [execPromotionStepDone, hto, hm, hd, hr, hl, h3, recallPage_unheld _ hc]

/-- Step 4 of Table 5-7 with its data: the frame takes the page, and the entry the frame. -/
theorem execPromotionStepDone_installs (hd : m.dir = .promote) (h4 : m.step = 4) (hq : x.migQueue = []) {f g k : Nat} {st : PageState}
    {r : HostRead} (he : mapEntry s o page.toNat = some (f, st, g))
    (hrd : readFor s p.toNat .migration none (pageAddr o page.toNat) 65536 = some (k, r)) (hdone : r.done = true) :
    ∃ t, execPromotionStepDone p object page s = .next t
      ∧ partAt t p.toNat = some { freedPart (countPromoted { x with
          objects := mapModify x.objects object.toNat (promotedObject page.toNat) }) object.toNat page.toNat with migQueue := [] }
      ∧ t.mem = memPutBytes (memPutBytes s.mem (m.frame * 65536) (hostBytes s p.toNat (pageBus s p.toNat o page.toNat) 65536))
          (o.mapAddr + 8 * page.toNat) (cp32Bytes (mapValue m.frame .t1 (g + 1))) := by
  have hto : tierObject s p.toNat object.toNat = some o := (tierObject_of_partAt hx _).trans ho
  simp only [execPromotionStepDone, hto, hm, hd, hr, hl, h4, hrd, hdone, he]
  have hend := partAt_migrationEnd (s := putMapEntry (pageCopied s k m.frame (hostBytes s p.toNat (pageBus s p.toNat o page.toNat) 65536))
    o page.toNat m.frame .t1 (g + 1)) ((partAt_putMapEntry ..).trans ((partAt_pageCopied ..).trans hx)) object.toNat page.toNat
    (promotedObject page.toNat) countPromoted
  obtain ⟨hmem, hpart⟩ := startQueued_quiet hend hq
  refine ⟨_, rfl, hpart, hmem.trans ?_⟩
  rw [migrationEnd_mem, putMapEntry, pageCopied_mem]

/-- Step 3 of Table 5-8 over lines that no cache holds: the frame is as it is written. -/
theorem execDemotionStepDone_recalls (hd : m.dir = .demote) (h3 : m.step = 3)
    (hc : ∀ lid ∈ lidsOf (pageAddr o page.toNat) 65536, lineHeld s lid = false) :
    execDemotionStepDone p object page s = .next (modMig s p.toNat object.toNat page.toNat (fun y => { y with step := 4 })) := by
  have hto : tierObject s p.toNat object.toNat = some o := (tierObject_of_partAt hx _).trans ho
  simp [execDemotionStepDone, hto, hm, hd, hr, hl, h3, recallPage_unheld _ hc]

/-- Step 4 of Table 5-8: the page is written to the host and its last line asked for. -/
theorem execDemotionStepDone_writes (hd : m.dir = .demote) (h4 : m.step = 4) :
    ∃ t, execDemotionStepDone p object page s = .next t ∧ t.mem = s.mem
      ∧ t.hostMem = hostPutBytes s.hostMem (hostKey p.toNat (pageBus s p.toNat o page.toNat)) (memBytes s.mem (m.frame * 65536) 65536)
      ∧ (migAt t p.toNat object.toNat page.toNat).map (·.step) = some 5
      ∧ (readFor t p.toNat .migration none (pageAddr o page.toNat + 65472) 64).isSome = true := by
  have hto : tierObject s p.toNat object.toNat = some o := (tierObject_of_partAt hx _).trans ho
  generalize hdata : memBytes s.mem (m.frame * 65536) 65536 = data
  have hexec : execDemotionStepDone p object page s = .next (modMig (issueRead (hostWrite s p.toNat (pageBus s p.toNat o page.toNat) data)
      p.toNat (pageBus s p.toNat o page.toNat + 65472) 64 .migration (pageAddr o page.toNat + 65472) none) p.toNat object.toNat page.toNat
      (fun y => { y with step := 5 })) := by
    simp [execDemotionStepDone, hto, hm, hd, hr, hl, h4, hdata]
  refine ⟨_, hexec, by simp [issueRead, hostWrite_mem], by simp [issueRead, hostWrite_hostMem],
    migAt_modMig_step ((migAt_congr (by simp [issueRead]) ..).trans hm) 5, ?_⟩
  rw [readFor_modMig]
  exact readFor_issueRead ..

/-- Step 5 of Table 5-8 with the line read back: the entry says T2, and the frame is free. -/
theorem execDemotionStepDone_frees (hd : m.dir = .demote) (h5 : m.step = 5) (hq : x.migQueue = [])
    (hn : x.migs.filter (fun y => y.dir == .promote) = []) {f g k : Nat} {st : PageState} {r : HostRead}
    (he : mapEntry s o page.toNat = some (f, st, g))
    (hrd : readFor s p.toNat .migration none (pageAddr o page.toNat + 65472) 64 = some (k, r)) (hdone : r.done = true) :
    ∃ t, execDemotionStepDone p object page s = .next t
      ∧ partAt t p.toNat = some { freedPart (countDemoted { x with
          objects := mapModify x.objects object.toNat (demotedObject page.toNat m.frame) }) object.toNat page.toNat with migQueue := [] }
      ∧ t.mem = memPutBytes s.mem (o.mapAddr + 8 * page.toNat) (cp32Bytes (mapValue 0 .t2 (g + 1))) := by
  have hto : tierObject s p.toNat object.toNat = some o := (tierObject_of_partAt hx _).trans ho
  simp only [execDemotionStepDone, hto, hm, hd, hr, hl, h5, hrd, hdone, he]
  have hend := partAt_migrationEnd (s := putMapEntry { s with hostReads := mapErase s.hostReads k } o page.toNat 0 .t2 (g + 1))
    (p := p.toNat) hx object.toNat page.toNat (demotedObject page.toNat m.frame) countDemoted
  have hnone : (x.migs.filter (fun m => !(m.object == object.toNat && m.page == page.toNat))).filter (fun y => y.dir == .promote) = [] := by
    rw [List.filter_eq_nil_iff] at hn ⊢
    exact fun y hy => hn y (List.mem_of_mem_filter hy)
  obtain ⟨hmem, hpart⟩ := startQueued_giveFrames_quiet hend hq hnone object.toNat
  exact ⟨_, rfl, hpart, hmem⟩
end

/-- The frame holds the page and the entry names the frame, where the entry lies outside the frame. -/
theorem installed_reads {s t : State} {o : TieredObject} {page frame g : Nat} {data : List Byte} (hs : memWf s.mem = true)
    (hf : frame < 2 ^ 25) (hn : data.length = 65536)
    (haway : o.mapAddr + 8 * page + 8 ≤ frame * 65536 ∨ (frame + 1) * 65536 ≤ o.mapAddr + 8 * page)
    (hm : t.mem = memPutBytes (memPutBytes s.mem (frame * 65536) data) (o.mapAddr + 8 * page) (cp32Bytes (mapValue frame .t1 (g + 1)))) :
    mapEntry t o page = some (frame, .t1, (g + 1) % 32) ∧ memBytes t.mem (frame * 65536) 65536 = data
    ∧ ∀ a, (a < frame * 65536 ∨ (frame + 1) * 65536 ≤ a) → (a < o.mapAddr + 8 * page ∨ o.mapAddr + 8 * page + 8 ≤ a) →
        memByte t.mem a = memByte s.mem a := by
  have hw := memPutBytes_wf (frame * 65536) data hs
  obtain ⟨-, hentry⟩ := memPutBytes_range hw (cp32Bytes_length (mapValue frame .t1 (g + 1))) (a := o.mapAddr + 8 * page)
  obtain ⟨hpage, hother⟩ := memPutBytes_range hs hn (a := frame * 65536)
  refine ⟨mapEntry_of_written hw hf .t1 (g + 1) hm, ?_, fun a h1 h2 => ?_⟩
  · rw [← hpage, hm]
    refine List.map_congr_left fun i hi => hentry _ ?_
    have := List.mem_range.mp hi
    omega
  · rw [hm, hentry a h2, hother a (by omega)]

/-- Settles O33: each step of Tables 5-7 and 5-8 by what it leaves of the partition, of memory and of host memory. -/
theorem migrationsMovePages : Obligations.MigrationsMovePages := by
  intro s p object page x o m f g st pn obj pg bus away hok hx ho hm hr hl he hq hf
  have hw := memWf_of_memOk hok
  refine ⟨fun hd h3 hc => ?asks, fun k r hd h4 haway hrd hdone => ?installs, fun hd h3 hc => ?recalls, fun hd h4 => ?writes,
    fun k r hd h5 hrd hdone hn => ?frees⟩
  case asks =>
    refine ⟨_, (exec_promotionStepDone ..).trans (execPromotionStepDone_asks hx ho hm hr hl hd h3 hc), rfl,
      migAt_modMig_step ((migAt_congr rfl ..).trans hm) 4, by
        rw [readFor_modMig]; exact readFor_issueRead ..⟩
  case installs =>
    obtain ⟨t, ht, hpart, hmem⟩ := execPromotionStepDone_installs hx ho hm hr hl hd h4 hq he hrd hdone
    obtain ⟨hentry, hpage, hother⟩ := installed_reads hw hf (by simp [hostBytes]) haway hmem
    exact ⟨t, (exec_promotionStepDone ..).trans ht, hentry, hpage, migAt_of_freed hpart rfl, hother, by rw [hpart]; rfl⟩
  case recalls => exact (exec_demotionStepDone ..).trans (execDemotionStepDone_recalls hx ho hm hr hl hd h3 hc)
  case writes =>
    obtain ⟨t, ht, hmem, hhost, hstep, hread⟩ := execDemotionStepDone_writes hx ho hm hr hl hd h4
    exact ⟨t, (exec_demotionStepDone ..).trans ht, hmem, hostBytes_of_written (memBytes_length ..) hhost, hstep, hread⟩
  case frees =>
    obtain ⟨t, ht, hpart, hmem⟩ := execDemotionStepDone_frees hx ho hm hr hl hd h5 hq hn he hrd hdone
    refine ⟨t, (exec_demotionStepDone ..).trans ht, mapEntry_of_written hw (by norm_num) .t2 (g + 1) hmem, migAt_of_freed hpart rfl, ?_,
      by rw [hpart]; rfl⟩
    rw [tierObject_of_partAt hpart]
    exact (congrArg (Option.map _) ((mapGet_mapModify_same ..).trans (congrArg _ ho))).trans rfl

end Sys2Proof.Machine
end

section
/-! ### What starts a migration, and what is dropped and counted (R172, R174, R175, R186) -/

namespace Sys2Proof.Machine

theorem exec_tierReqPromote (p : BitVec 4) (object : BitVec 10) (first : BitVec 28) (count : BitVec 16) (s : State) :
    exec (.tierReqPromote p object first count) s = .next (explicitRequest s p.toNat object.toNat first.toNat count.toNat .promote) := rfl
theorem exec_tierReqDemote (p : BitVec 4) (object : BitVec 10) (first : BitVec 28) (count : BitVec 16) (s : State) :
    exec (.tierReqDemote p object first count) s = .next (explicitRequest s p.toNat object.toNat first.toNat count.toNat .demote) := rfl
theorem exec_tierReqDropped (p : BitVec 4) (dir : BitVec 2) (object : BitVec 10) (first : BitVec 28) (count : BitVec 16) (s : State) :
    exec (.tierReqDropped p dir object first count) s = execTierReqDropped p dir object first count s := rfl
theorem exec_promotionStart (p : BitVec 4) (object : BitVec 10) (page : BitVec 28) (source : BitVec 2) (s : State) :
    exec (.promotionStart p object page source) s = execPromotionStart p object page source s := rfl
theorem exec_migrationRetryTimer (p : BitVec 4) (object : BitVec 10) (page : BitVec 28) (s : State) :
    exec (.migrationRetryTimer p object page) s = execMigrationRetryTimer p object page s := rfl

theorem requestPages_of_object {s : State} {p obj : Nat} {o : TieredObject} (ho : tierObject s p obj = some o) (first count : Nat) :
    requestPages s p obj first count = (List.range (min count (o.pages - first))).map (fun i => first + i) := by
  simp [requestPages, ho]

/-- An explicit request is a request for each of its pages, in order (R186). -/
theorem explicitRequest_eq {s : State} {p obj : Nat} {o : TieredObject} (ho : tierObject s p obj = some o) (first count : Nat)
    (dir : MigDir) : explicitRequest s p obj first count dir =
      ((List.range (min count (o.pages - first))).map (fun i => first + i)).foldl (pageRequest p obj dir) s := by
  rw [explicitRequest, requestPages_of_object ho]
  rfl

theorem pageRequest_taken {s t : State} {p obj page : Nat} {dir : MigDir} (h : startMigration s p obj page dir .explicit = (.taken, t)) :
    pageRequest p obj dir s page = t := by simp only [pageRequest, h]

/-- The in-flight entry of a promotion from its frame on (Table 5-7). -/
def promotionInto (obj page frame : Nat) (src : MigSource) : Migration :=
  { object := obj, page := page, dir := .promote, source := src, step := 3, frame := frame, retryWait := false }

/-- The in-flight entry of a demotion (Table 5-8). -/
def demotionFrom (obj page frame : Nat) (src : MigSource) : Migration :=
  { object := obj, page := page, dir := .demote, source := src, step := 3, frame := frame, retryWait := false }

/-- A migration put into flight for a page that has none is the page's. -/
theorem migAt_append {s : State} {p obj page : Nat} {x : Partition} {m : Migration} (hx : partAt s p = some x)
    (hnone : migAt s p obj page = none) (hm : m.object = obj ∧ m.page = page) :
    migAt (modPart s p (fun y => { y with migs := y.migs ++ [m] })) p obj page = some m := by
  rw [migAt_of_partAt hx] at hnone
  rw [migAt_of_partAt (partAt_modPart_some hx _)]
  simp [List.find?_append, hnone, hm]

section
variable {s : State} {p obj page f g : Nat} {x : Partition} {o : TieredObject} (hx : partAt s p = some x)
  (ho : tierObject s p obj = some o) (hc : o.closing = false) (hm : migAt s p obj page = none)
include hx ho hc hm

/-- A page of T2 with a suitable free frame and room in the quota is PROMOTING into that frame (Table 5-7, steps 1 and 2). -/
theorem startMigration_promotes (hw : memWf s.mem = true) (he : mapEntry s o page = some (f, .t2, g)) (hq : x.migs.length < x.migQuota)
    {frame : Nat} (hf : frame < 2 ^ 25) (hfree : o.free.find? (frameSuits o page) = some frame) (src : MigSource) :
    ∃ t, startMigration s p obj page .promote src = (.taken, t) ∧ mapEntry t o page = some (frame, .promoting, g)
      ∧ migAt t p obj page = some (promotionInto obj page frame src)
      ∧ (tierObject t p obj).map (·.free) = some (o.free.filter (· != frame)) := by
  generalize hstart : ({ object := obj, page := page, dir := .promote, source := src, step := 1, frame := 0, retryWait := false } : Migration) = m
  have hto : tierObject (modPart s p (fun y => { y with migs := y.migs ++ [m] })) p obj = some o :=
    (tierObject_modPart (by exact fun _ => rfl) obj).trans ho
  have he' : mapEntry (modPart s p (fun y => { y with migs := y.migs ++ [m] })) o page = some (f, .t2, g) :=
    (mapEntry_congr rfl ..).trans he
  have hmig := migAt_append hx hm (m := m) (by subst hstart; exact ⟨rfl, rfl⟩)
  refine ⟨_, by simp only [startMigration, hx, ho, hm, hc, he, hfree, hstart, promoteInto, hto, he', Nat.not_le.mpr hq]; rfl, ?_, ?_, ?_⟩
  · exact (mapEntry_of_written hw hf .promoting g rfl).trans (by rw [Nat.mod_eq_of_lt (mapEntry_gen_lt he)])
  · rw [migAt_modMig (hf := by exact fun _ => ⟨rfl, rfl⟩), migAt_putMapEntry, modObject, migAt_modPart (by exact fun _ => rfl), hmig, ← hstart]
    rfl
  · rw [modMig, tierObject_modPart (by exact fun _ => rfl)]
    exact congrArg (Option.map _) ((tierObject_modObject ..).trans (congrArg _ hto))

/-- A page of T1 that nothing holds, with room in the quota, is DEMOTING (Table 5-8, steps 1 and 2). -/
theorem startMigration_demotes (hw : memWf s.mem = true) (he : mapEntry s o page = some (f, .t1, g)) (hq : x.migs.length < x.migQuota)
    (hf : f < 2 ^ 25) (hp : o.pinned.contains page = false) (src : MigSource) :
    ∃ t, startMigration s p obj page .demote src = (.taken, t) ∧ mapEntry t o page = some (f, .demoting, g)
      ∧ migAt t p obj page = some (demotionFrom obj page f src) := by
  refine ⟨_, by simp only [startMigration, hx, ho, hm, hc, he, hp, Nat.not_le.mpr hq, beginDemotion]; rfl, ?_, ?_⟩
  · exact (mapEntry_of_written hw hf .demoting g rfl).trans (by rw [Nat.mod_eq_of_lt (mapEntry_gen_lt he)])
  · exact migAt_append ((partAt_putMapEntry ..).trans hx) ((migAt_putMapEntry ..).trans hm) ⟨rfl, rfl⟩

/-- With the quota full no promotion starts (R174). -/
theorem startMigration_full (he : mapEntry s o page = some (f, .t2, g)) (hq : x.migQuota ≤ x.migs.length) (src : MigSource) :
    startMigration s p obj page .promote src = (.full, s) := by
  simp [startMigration, hx, ho, hm, hc, he, hq]
end

/-- A failed promotion that no access waits for gives its entry back (R175). -/
theorem execMigrationRetryTimer_gives {s : State} {p : BitVec 4} {object : BitVec 10} {page : BitVec 28} {x : Partition} {m : Migration}
    (hx : partAt s p.toNat = some x) (hm : migAt s p.toNat object.toNat page.toNat = some m) (hr : m.retryWait = true)
    (hd : m.dir = .promote) (hw : pageWaited s p.toNat object.toNat page.toNat = false) (hq : x.migQueue = []) :
    ∃ t, execMigrationRetryTimer p object page s = .next t ∧ migAt t p.toNat object.toNat page.toNat = none ∧ t.mem = s.mem := by
  refine ⟨startQueued (freeMig s p.toNat object.toNat page.toNat) p.toNat, ?_, ?_⟩
  · simp [execMigrationRetryTimer, hm, hr, hd, hw]
  · have he : startQueued (freeMig s p.toNat object.toNat page.toNat) p.toNat = _ := startQueued_nil (partAt_modPart_some hx _) hq
    rw [he]
    exact ⟨(migAt_modPart (by exact fun _ => rfl) ..).trans (migAt_freeMig ..), rfl⟩

/-- Settles O32: what an explicit or a demand request starts, page by page. -/
theorem migrationsStart : Obligations.MigrationsStart := by
  intro s p object first count x o pn obj pg pages hok hx hobj
  have hw := memWf_of_memOk hok
  have ho : tierObject s pn obj = some o := (tierObject_of_partAt hx obj).trans hobj
  refine ⟨?promote, ?demote, fun dir hdir => ?dropped, fun f g hc hm he hq frame hf hfree => ?promotes, fun f g hc hm he hp hf hq => ?demotes,
    fun f g hc hm he hq => ?full, fun m hm hr hd hwait hq => ?retry⟩
  case promote => exact (exec_tierReqPromote ..).trans (congrArg _ (explicitRequest_eq ho ..))
  case demote => exact (exec_tierReqDemote ..).trans (congrArg _ (explicitRequest_eq ho ..))
  case dropped =>
    have hlen : (requestPages s pn obj pg count.toNat).length = min count.toNat (o.pages - pg) := by
      simp [requestPages_of_object ho]
    exact (exec_tierReqDropped ..).trans ((if_pos hdir).trans (by rw [hlen]; rfl))
  case promotes =>
    refine ⟨?_, fun n hth hcount hn => ?_⟩
    · obtain ⟨t, ht, hentry, hmig, hpool⟩ := startMigration_promotes hx ho hc hm hw he hq hf hfree .explicit
      rw [pageRequest_taken ht, hmig]
      exact ⟨hentry, rfl, hpool⟩
    · obtain ⟨t, ht, hentry, hmig, hpool⟩ := startMigration_promotes hx ho hc hm hw he hq hf hfree .demand
      have hdue : o.threshold ≠ 0 ∧ o.threshold ≤ mapGetD o.counts pg 0 := ⟨hth, by simpa [mapGetD, hcount] using hn⟩
      refine ⟨t, (exec_promotionStart ..).trans ?_, hentry, by rw [hmig]; rfl, hpool⟩
      simp only [execPromotionStart]
      rw [hx, ho]
      exact (if_pos hdue).trans (by rw [ht])
  case demotes =>
    obtain ⟨t, ht, hentry, hmig⟩ := startMigration_demotes hx ho hc hm hw he hq hf hp .explicit
    rw [pageRequest_taken ht, hmig]
    exact ⟨hentry, rfl⟩
  case full => simp only [pageRequest, startMigration_full hx ho hc hm he hq]
  case retry =>
    obtain ⟨t, ht, hnone, hmem⟩ := execMigrationRetryTimer_gives hx hm hr hd hwait hq
    exact ⟨t, (exec_migrationRetryTimer ..).trans ht, hnone, hmem⟩

end Sys2Proof.Machine
end

section
/-! ### Host-tier reads and holds (R178 to R182, R298, Table 5-9) -/

namespace Sys2Proof.Machine

theorem exec_hostTierReadComplete (req : Nat) (result : BitVec 3) (bytes : List Byte) (s : State) :
    exec (.hostTierReadComplete req result bytes) s = execHostTierReadComplete req result bytes s := rfl
theorem exec_hostReadReissue (req : Nat) (s : State) : exec (.hostReadReissue req) s = execHostReadReissue req s := rfl
theorem exec_hostLateThreshold (req : Nat) (s : State) : exec (.hostLateThreshold req) s = execHostLateThreshold req s := rfl
theorem exec_tierStallNotify (hold : Nat) (s : State) : exec (.tierStallNotify hold) s = execTierStallNotify hold s := rfl
theorem exec_eskorDeadlineExpire (hold : Nat) (s : State) : exec (.eskorDeadlineExpire hold) s = execEskorDeadlineExpire hold s := rfl

/-! #### A held request -/

/-- A request is held for a cause. -/
def HeldFor (t : State) (p : Nat) (cause : StallCause) (cmd : Option CmdRef) (a : Nat) : Prop :=
  ∃ e ∈ t.holds, e.2.partition = p ∧ e.2.cause = cause ∧ e.2.cmd = cmd ∧ e.2.addr = a

/-- A request that does not end at once is held, whether or not it was before; memory and the host reads stay as they are. -/
theorem holdRequest_holds {s : State} {p : Nat} {cause : StallCause} {cmd : Option CmdRef}
    (h : (if eskorMode s p && endsAtOnce cause then cmd else none) = none) (a obj page : Nat) (rd : Option Nat) :
    HeldFor (holdRequest s p cause cmd a obj page rd) p cause cmd a
    ∧ (holdRequest s p cause cmd a obj page rd).hostReads = s.hostReads
    ∧ (holdRequest s p cause cmd a obj page rd).mem = s.mem ∧ (holdRequest s p cause cmd a obj page rd).hostMem = s.hostMem := by
  by_cases hany : s.holds.any (fun e => decide (e.2.partition = p ∧ e.2.cause = cause ∧ e.2.cmd = cmd ∧ e.2.addr = a)) = true
  · rw [holdRequest, if_pos hany]
    obtain ⟨e, he, hx⟩ := List.any_eq_true.mp hany
    exact ⟨⟨e, he, of_decide_eq_true hx⟩, rfl, rfl, rfl⟩
  · rw [holdRequest, if_neg hany, h]
    cases cmd with
    | none => exact ⟨⟨_, mem_mapSet_same .., rfl, rfl, rfl, rfl⟩, rfl, rfl, rfl⟩
    | some c => exact ⟨⟨_, mem_mapSet_same .., rfl, rfl, rfl, rfl⟩, rfl, rfl, rfl⟩

/-! #### Reads -/

section
variable {s : State} {req : Nat} {r : HostRead} (hreq : mapGet s.hostReads req = some r)
include hreq

/-- Data that arrives is in host memory, and nothing waits for the read. -/
theorem execHostTierReadComplete_data (hp : ∀ q n, r.purpose ≠ .descriptor q n) (hd : r.done = false) (hf : r.failed = false)
    {bytes : List Byte} (hb : bytes.length = r.bytes) :
    execHostTierReadComplete req 0 bytes s = .next (endHolds { s with
      hostMem := hostPutBytes s.hostMem (hostKey r.partition r.bus) bytes,
      hostReads := mapSet s.hostReads req { r with done := true } } (fun h => decide (h.read = some req))) := by
  unfold execHostTierReadComplete
  rw [hreq]
  refine (if_neg ?_).trans ((if_pos rfl).trans (if_neg (not_not_intro hb)))
  rintro (h | h | h | h)
  · exact absurd h (by simp [hd])
  · exact absurd h (by simp [hf])
  · exact absurd h (by decide)
  · split at h
    · exact hp _ _ ‹_›
    · exact Bool.false_ne_true h

/-- A timeout or an error makes a request's read failed, and the request is held for it. -/
theorem execHostTierReadComplete_fails (hp : r.purpose = .request) (hd : r.done = false) (hf : r.failed = false)
    (he : eskorMode s r.partition = false ∨ r.cmd = none) {result : BitVec 3} (bytes : List Byte) (h1 : 1 ≤ result.toNat)
    (h4 : result.toNat ≤ 4) :
    ∃ t, execHostTierReadComplete req result bytes s = .next t ∧ mapGet t.hostReads req = some { r with failed := true }
      ∧ t.mem = s.mem ∧ t.hostMem = s.hostMem
      ∧ HeldFor t r.partition (if result = 1 then .hostTimeout else .hostError) r.cmd r.addr := by
  have h0 : result ≠ 0 := by rintro rfl; exact absurd h1 (by decide)
  have hn (t : State) (ht : t.partitions = s.partitions) (c : StallCause) :
      (if eskorMode t r.partition && endsAtOnce c then r.cmd else none) = none := by
    rw [eskorMode, partAt_congr ht]
    obtain he | he := he
    · rw [eskorMode] at he; simp [he]
    · simp [he]
  obtain ⟨hheld, hreads, hmem, hhost⟩ := holdRequest_holds (hn (endHolds { s with
    hostReads := mapSet s.hostReads req { r with failed := true } } (fun h => decide (h.read = some req ∧ h.cause = .hostLate))) rfl
    (if result = 1 then .hostTimeout else .hostError)) r.addr 0 0 (some req)
  refine ⟨_, ?_, by rw [hreads]; exact mapGet_mapSet_same .., hmem, hhost, hheld⟩
  unfold execHostTierReadComplete
  rw [hreq]
  refine (if_neg ?_).trans ((if_neg h0).trans ?_)
  · rintro (h | h | h | h)
    · exact absurd h (by simp [hd])
    · exact absurd h (by simp [hf])
    · omega
    · rw [hp] at h
      exact Bool.false_ne_true h
  · rw [hp]

/-- A read outstanding for too long is late, and its request is held. -/
theorem execHostLateThreshold_holds {x : Partition} (hx : partAt s r.partition = some x) (hl : r.late = false) (hd : r.done = false)
    (hf : r.failed = false) (hlate : x.tier.late < aonSince s r.since) :
    ∃ t, execHostLateThreshold req s = .next t ∧ mapGet t.hostReads req = some { r with late := true } ∧ t.mem = s.mem
      ∧ HeldFor t r.partition .hostLate r.cmd r.addr := by
  have hn : (if eskorMode { s with hostReads := mapSet s.hostReads req { r with late := true } } r.partition && endsAtOnce .hostLate
    then r.cmd else none) = none := by simp [endsAtOnce]
  obtain ⟨hheld, hreads, hmem, -⟩ := holdRequest_holds hn r.addr 0 0 (some req)
  refine ⟨_, ?_, by rw [hreads]; exact mapGet_mapSet_same .., hmem, hheld⟩
  simp [execHostLateThreshold, hreq, hx, hl, hd, hf, hlate]

end

/-! #### Stall notices -/

theorem ringWrite_ring (s : State) (r : Ring) (ty : Nat) (body : List Byte) :
    (ringWrite s r ty body).2.base = r.base ∧ (ringWrite s r ty body).2.seq ≠ r.seq := by
  unfold ringWrite
  dsimp only
  split
  · exact ⟨rfl, by bv_omega⟩
  · exact ⟨rfl, by bv_omega⟩

theorem telemetryPf0_none {s : State} (h : s.telemetry = none) (ty : Nat) (body : List Byte) : telemetryPf0 s ty body = s := by
  simp [telemetryPf0, h]

theorem telemetryPf0_ring {s : State} {r : Ring} (h : s.telemetry = some r) (ty : Nat) (body : List Byte) :
    ∃ r1, (telemetryPf0 s ty body).telemetry = some r1 ∧ r1.base = r.base ∧ r1.seq ≠ r.seq :=
  ⟨(ringWrite s r ty body).2, by simp [telemetryPf0, h], ringWrite_ring ..⟩

theorem telemetryPf0_holds (s : State) (ty : Nat) (body : List Byte) : (telemetryPf0 s ty body).holds = s.holds := by
  unfold telemetryPf0
  split
  · rfl
  · exact (ringWrite_memOnly ..).holds

theorem telemetryQueue_holds (s : State) (q ty : Nat) (body : List Byte) : (telemetryQueue s q ty body).holds = s.holds := by
  unfold telemetryQueue
  split
  · rfl
  · exact (ringWrite_memOnly ..).holds

theorem telemetryQueue_telemetry (s : State) (q ty : Nat) (body : List Byte) : (telemetryQueue s q ty body).telemetry = s.telemetry := by
  unfold telemetryQueue
  split
  · rfl
  · exact (ringWrite_memOnly ..).telemetry

/-- A stall notice in the ring of PF0 and in that of the command's queue. -/
def sendNotice (s : State) (cmd : Option CmdRef) (body : List Byte) : State :=
  match cmd with
  | none => telemetryPf0 s 0x03 body
  | some c => telemetryQueue (telemetryPf0 s 0x03 body) c.queue 0x03 body

theorem sendNotice_holds (s : State) (cmd : Option CmdRef) (body : List Byte) : (sendNotice s cmd body).holds = s.holds := by
  cases cmd with
  | none => exact telemetryPf0_holds ..
  | some c => exact (telemetryQueue_holds ..).trans (telemetryPf0_holds ..)

theorem sendNotice_ring {s : State} {r : Ring} (h : s.telemetry = some r) (cmd : Option CmdRef) (body : List Byte) :
    ∃ r1, (sendNotice s cmd body).telemetry = some r1 ∧ r1.base = r.base ∧ r1.seq ≠ r.seq := by
  obtain ⟨r1, h1, hr⟩ := telemetryPf0_ring h 0x03 body
  cases cmd with
  | none => exact ⟨r1, h1, hr⟩
  | some c => exact ⟨r1, (telemetryQueue_telemetry ..).trans h1, hr⟩

section
variable {s : State} {hold : Nat} {h : Hold} (hh : mapGet s.holds hold = some h)
include hh

/-- A hold longer than the limit is notified in the rings that are set (R179, R298). -/
theorem execTierStallNotify_notifies {x : Partition} (hx : partAt s h.partition = some x) (hn : h.notified = false)
    (hlimit : x.tier.limit < aonSince s h.since) :
    ∃ t, execTierStallNotify hold s = .next t ∧ mapGet t.holds hold = some { h with notified := true }
      ∧ (∀ r, s.telemetry = some r → ∃ r1, t.telemetry = some r1 ∧ r1.base = r.base ∧ r1.seq ≠ r.seq)
      ∧ (s.telemetry = none → h.cmd = none → t = { s with holds := t.holds }) := by
  refine ⟨sendNotice { s with holds := mapSet s.holds hold { h with notified := true } } h.cmd (stallNotice s h x.tier.limit),
    ?_, ?_, fun r hr => sendNotice_ring (by exact hr) .., fun hr hc => ?_⟩
  · simp only [execTierStallNotify, hh, hx, hn, Option.map_some, Option.getD_some, hlimit]
    rfl
  · rw [sendNotice_holds]
    exact mapGet_mapSet_same ..
  · rw [hc, sendNotice, telemetryPf0_none (by exact hr)]

theorem execTierStallNotify_again (hn : h.notified = true) : execTierStallNotify hold s = .next s := by
  simp [execTierStallNotify, hh, hn]

end

/-! #### The end of a command in Eskor compatibility mode -/

theorem cmdAt_congr {s t : State} (h : t.queues = s.queues) (q pos : Nat) : cmdAt t q pos = cmdAt s q pos := by
  rw [cmdAt, queueAt, h, cmdAt, queueAt]

theorem cmdAt_modQueue (s : State) (i : Nat) {f : Queue → Queue} (hf : ∀ x, (f x).cmds = x.cmds) (q pos : Nat) :
    cmdAt (modQueue s i f) q pos = cmdAt s q pos := by
  by_cases hq : q = i
  · subst hq
    simp only [cmdAt, queueAt, modQueue, mapGet_mapModify_same]
    cases mapGet s.queues q <;> simp [hf]
  · simp only [cmdAt, queueAt, modQueue, mapGet_mapModify_other _ _ hq]

theorem cmdAt_removeCmd (s : State) (q pos : Nat) : cmdAt (removeCmd s q pos) q pos = none := by
  simp only [cmdAt, queueAt, removeCmd, modQueue, mapGet_mapModify_same]
  cases mapGet s.queues q with
  | none => rfl
  | some x =>
    refine List.find?_eq_none.mpr fun c hc => ?_
    simpa using (List.mem_filter.mp hc).2

theorem sendMsi_queues (s : State) (hart file ident : Nat) : (sendMsi s hart file ident).queues = s.queues := by simp

theorem sendMsix_queues (s : State) (fn entry : Nat) : (sendMsix s fn entry).queues = s.queues := by simp

/-- A completion record leaves the commands and the holds as they are. -/
theorem writeCompletion_leaves (s : State) (q pos status result flags seq rccModule rccIndex rccTarget : Nat) :
    (writeCompletion s q pos status result flags seq rccModule rccIndex rccTarget).holds = s.holds
    ∧ ∀ i j, cmdAt (writeCompletion s q pos status result flags seq rccModule rccIndex rccTarget) i j = cmdAt s i j := by
  unfold writeCompletion
  split
  · exact ⟨rfl, fun _ _ => rfl⟩
  split
  · exact ⟨rfl, fun _ _ => rfl⟩
  dsimp only
  have hcmds (a : Nat) (bs : List Byte) (i j : Nat) :
      cmdAt (modQueue (moduleWrite s a bs) q (fun y => { y with records := y.records + 1 })) i j = cmdAt s i j :=
    (cmdAt_modQueue _ q (by exact fun _ => rfl) i j).trans (cmdAt_congr (moduleWrite_memOnly ..).queues i j)
  split
  · exact ⟨by simp, fun i j => (cmdAt_congr (sendMsi_queues ..) i j).trans (hcmds _ _ i j)⟩
  split
  · exact ⟨by simp, hcmds _ _⟩
  · exact ⟨by simp, fun i j => (cmdAt_congr (sendMsix_queues ..) i j).trans (hcmds _ _ i j)⟩

/-- A journal record reaches memory and its partition only. -/
theorem journalWrite_reaches (s : State) (p ty : Nat) (body : List Byte) :
    ∃ u f, MemOnly s u ∧ (journalWrite s p ty body = u ∨ journalWrite s p ty body = modPart u p f) := by
  unfold journalWrite
  split
  · exact ⟨s, id, .refl s, .inl rfl⟩
  dsimp only
  split
  · exact ⟨s, id, .refl s, .inl rfl⟩
  refine ⟨_, _, ?_, .inr rfl⟩
  refine .trans ?_ (moduleWrite_memOnly ..)
  split
  · exact moduleWrite_memOnly ..
  · exact .trans (moduleWrite_memOnly ..) (moduleWrite_memOnly ..)

theorem journalWrite_queues_holds (s : State) (p ty : Nat) (body : List Byte) :
    (journalWrite s p ty body).queues = s.queues ∧ (journalWrite s p ty body).holds = s.holds := by
  obtain ⟨u, f, hu, h | h⟩ := journalWrite_reaches s p ty body
  · rw [h]; exact ⟨hu.queues, hu.holds⟩
  · rw [h]; exact ⟨hu.queues, hu.holds⟩

/-- A command that ends is gone from its queue, and no hold of it remains. -/
theorem endCmdWith_ends {s : State} {q pos : Nat} {c : Cmd} (hc : cmdAt s q pos = some c) (status result : Nat) :
    cmdAt (endCmdWith s q pos status result) q pos = none
    ∧ ∀ e ∈ (endCmdWith s q pos status result).holds, e.2.cmd ≠ some { queue := q, pos := pos } := by
  obtain ⟨x, hx, -⟩ := Option.bind_eq_some_iff.mp hc
  unfold endCmdWith
  rw [hx, hc]
  dsimp only
  obtain ⟨hholds, hcmds⟩ := writeCompletion_leaves (removeCmd (account (dropCommitRun (dropHolds (c.cores.foldl killCore s) q pos) x.partition
    q pos) q { c with engine := c.engine + runUsage s c } false) q pos) q pos status result c.recordFlags 0 0 0 0
  refine ⟨(hcmds q pos).trans (cmdAt_removeCmd ..), fun e he => ?_⟩
  rw [hholds] at he
  simpa using (List.mem_filter.mp he).2

/-- Held for longer than the deadline in Eskor compatibility mode, a command ends (R181). -/
theorem execEskorDeadlineExpire_ends {s : State} {hold : Nat} {h : Hold} {x : Partition} {c : CmdRef} {y : Cmd}
    (hh : mapGet s.holds hold = some h) (hx : partAt s h.partition = some x) (he : x.tier.eskor = true) (hc : h.cmd = some c)
    (hy : cmdAt s c.queue c.pos = some y) (hdead : x.tier.deadline < aonSince s h.since) :
    ∃ t, execEskorDeadlineExpire hold s = .next t ∧ cmdAt t c.queue c.pos = none ∧ ∀ e ∈ t.holds, e.2.cmd ≠ some c := by
  obtain ⟨hgone, hfree⟩ := endCmdWith_ends hy stTierError 0
  refine ⟨endTierError s h.partition c, by simp [execEskorDeadlineExpire, hh, hx, he, hc, hdead, eskorMode], ?_, fun e hm => ?_⟩
  · exact (cmdAt_congr (journalWrite_queues_holds ..).1 ..).trans hgone
  · exact hfree e ((journalWrite_queues_holds ..).2 ▸ hm)

/-- Settles O31: what comes of a host read, and of a hold that lasts. -/
theorem hostReadsAndHolds : Obligations.HostReadsAndHolds := by
  intro s req r hreq held
  refine ⟨fun hp hd hf bytes hb => ?data, fun hp hd hf he result bytes h1 h4 => ?fails, fun hf hl => ?reissue,
    fun x hx hl hd hf hlate => ?late, fun hold h x hh hx => ⟨fun hn hlimit => ?notify, fun hn => ?again,
      fun c y he hc hy hdead => ?eskor⟩⟩
  case data =>
    refine ⟨_, (exec_hostTierReadComplete ..).trans (execHostTierReadComplete_data hreq hp hd hf hb), mapGet_mapSet_same ..,
      hostBytes_of_written (m := s.hostMem) hb rfl, rfl, fun e he => ?_⟩
    simpa using (List.mem_filter.mp he).2
  case fails =>
    obtain ⟨t, ht, hread, hmem, hhost, hheld⟩ := execHostTierReadComplete_fails hreq hp hd hf he bytes h1 h4
    exact ⟨t, (exec_hostTierReadComplete ..).trans ht, hread, hmem, hhost, hheld⟩
  case reissue => exact (exec_hostReadReissue ..).trans (by simp [execHostReadReissue, hreq, hf, hl])
  case late =>
    obtain ⟨t, ht, hread, hmem, hheld⟩ := execHostLateThreshold_holds hreq hx hl hd hf hlate
    exact ⟨t, (exec_hostLateThreshold ..).trans ht, hread, hmem, hheld⟩
  case notify =>
    obtain ⟨t, ht, hset, hring, hnone⟩ := execTierStallNotify_notifies hh hx hn hlimit
    exact ⟨t, (exec_tierStallNotify ..).trans ht, hset, hring, hnone⟩
  case again => exact (exec_tierStallNotify ..).trans (execTierStallNotify_again hh hn)
  case eskor =>
    obtain ⟨t, ht, hgone, hfree⟩ := execEskorDeadlineExpire_ends hh hx he hc hy hdead
    exact ⟨t, (exec_eskorDeadlineExpire ..).trans ht, hgone, hfree⟩

end Sys2Proof.Machine
end

section
/-! ### Mailbox requests in service, free indices and granules (R397, R401, R370) -/

namespace Sys2Proof.Machine

/-! #### A request in service -/

/-- What becomes of a request whose checks all pass. -/
def MbxAnswer.finish (s : State) (fn : Nat) (r : MbxReq) : MbxAnswer → State
  | .done t st p => answer t fn r st p
  | .wait t => t
  | .long t =>
    let t1 := if mbxAtStart r.cmd then
        (match funcAt s fn with | none => t | some g => journalMbx t fn g r 0xFFFF) else t
    modFunc t1 fn (fun y => { y with inService := none, long := y.long ++ [r] })

section
variable {s : State} {fn : Nat} {f : Func} {r : MbxReq} {cmd : Nat}

/-- A request that nothing turns away is carried out. -/
theorem runMbx_serving (hs : Serving s fn f r cmd) {form : List Byte → Bool} (hf : form r.payload = true) (F : Func → MbxReq → MbxAnswer) :
    runMbx s fn cmd form F = (F f r).finish s fn r := by
  obtain ⟨hfunc, hin, hcmd, hroom, hrom, hdecaf, hen, hown, hfree⟩ := hs
  have hrom' : ¬(s.sec.romRecovery = true ∧ (!mbxRecovery r) = true) := by
    rintro ⟨h1, h2⟩; rcases hrom with h | h <;> simp [h] at h1 h2
  have hdecaf' : ¬(s.fault.decaf.isSome = true ∧ (!mbxDecaf cmd) = true) := by
    rintro ⟨h1, h2⟩; rcases hdecaf with h | h <;> simp [h] at h1 h2
  have hen' : ¬(f.disabled = true ∧ (!mbxDisabled cmd) = true) := by
    rintro ⟨h1, h2⟩; rcases hen with h | h <;> simp [h] at h1 h2
  unfold runMbx
  simp only [hfunc, hin]
  rw [if_neg (by simp [hcmd, hf, hroom]), if_neg hrom', if_neg hdecaf', if_neg hen', if_neg (by rintro ⟨h1, h2⟩; exact h2 (hown h1)),
    if_neg (by simp [hfree])]
  cases F f r <;> simp [MbxAnswer.finish, hcmd, hfunc]

/-- A long request with no record of its start is accepted. -/
theorem finish_long (hs : Serving s fn f r cmd) (hl : mbxAtStart cmd = false) (t : State) : (MbxAnswer.long t).finish s fn r = accepted t fn r := by
  rw [MbxAnswer.finish, hs.cmdIs, hl]
  rfl

end

/-! #### Free indices -/

section
variable {α : Type}

theorem mapGet_mapFree {m : SMap α} {k n : Nat} (h : mapFree m k n < k + n) : mapGet m (mapFree m k n) = none := by
  induction n generalizing k with
  | zero => exact absurd h (Nat.lt_irrefl k)
  | succ n ih =>
    rw [mapFree] at h ⊢
    split
    · rename_i hk
      rw [if_pos hk] at h
      exact ih (by omega)
    · rename_i hk
      simpa [mapHas] using hk

/-- A filter on the keys alone leaves the kept keys' entries as they are. -/
theorem mapGet_mapFilter_key (m : SMap α) {p : Nat → Bool} {k : Nat} (h : p k = true) :
    mapGet (mapFilter m (fun k _ => p k)) k = mapGet m k := by
  induction m with
  | nil => rfl
  | cons e m ih =>
    obtain ⟨j, v⟩ := e
    unfold mapFilter at ih ⊢
    by_cases hj : j = k
    · subst hj; simp [h, mapGet]
    · cases hp : p j <;> simp [hp, mapGet, hj, ih]

/-- Entries set at one index after the other. -/
theorem mapGet_foldl_mapSet (first : Nat) (g : Nat → α) (n : Nat) (w : SMap α) (j : Nat) :
    mapGet ((List.range n).foldl (fun w i => mapSet w (first + i) (g i)) w) j
      = if first ≤ j ∧ j < first + n then some (g (j - first)) else mapGet w j := by
  induction n with
  | zero => rw [if_neg (by omega)]; rfl
  | succ n ih =>
    rw [List.range_succ, List.foldl_append, List.foldl_cons, List.foldl_nil]
    by_cases h : j = first + n
    · subst h
      rw [mapGet_mapSet_same, if_pos (by omega), Nat.add_sub_cancel_left]
    · rw [mapGet_mapSet_other _ _ h, ih]
      exact if_congr (by omega) rfl rfl

end

/-! #### Functions and their granules -/

theorem funcAt_modFunc {s : State} {fn : Nat} {f : Func} (h : funcAt s fn = some f) (g : Func → Func) :
    funcAt (modFunc s fn g) fn = some (g f) := by
  rw [funcAt] at h
  rw [funcAt, modFunc, mapGet_mapModify_same, h, Option.map_some]

theorem funcAt_congr {s t : State} (h : t.funcs = s.funcs) (fn : Nat) : funcAt t fn = funcAt s fn := by rw [funcAt, h, funcAt]

theorem funcAt_bindGranules {s : State} {fn : Nat} {f : Func} (h : funcAt s fn = some f) (first n : Nat) (g : Nat → Granule) :
    funcAt (bindGranules s fn first n g) fn
      = some { f with windows := (List.range n).foldl (fun w i => mapSet w (first + i) (g i)) f.windows } := funcAt_modFunc h _

end Sys2Proof.Machine
end

section
/-! ### Regions and windows (R166 to R169, R177, R367 to R370, R383, Table 13-4) -/

namespace Sys2Proof.Machine

theorem exec_regionRegister (fn : BitVec 4) (s : State) : exec (.regionRegister fn) s = execRegionRegister fn s := rfl
theorem exec_regionUnregister (fn : BitVec 4) (s : State) : exec (.regionUnregister fn) s = execRegionUnregister fn s := rfl
theorem exec_windowMapMap (fn : BitVec 4) (s : State) : exec (.windowMapMap fn) s = execWindowMapMap fn s := rfl
theorem exec_windowMapUnmap (fn : BitVec 4) (s : State) : exec (.windowMapUnmap fn) s = execWindowMapUnmap fn s := rfl
theorem exec_windowMapRemoveSet (fn : BitVec 4) (s : State) : exec (.windowMapRemoveSet fn) s = execWindowMapRemoveSet fn s := rfl
theorem exec_windowMapReactivateSet (fn : BitVec 4) (s : State) :
    exec (.windowMapReactivateSet fn) s = execWindowMapReactivateSet fn s := rfl

/-! #### A read of the MP that meets nothing -/

theorem endHolds_none {s : State} (h : s.holds = []) (t : Hold → Bool) : endHolds s t = s := by
  have hf : mapFilter s.holds (fun _ x => !t x) = s.holds := by rw [h]; rfl
  rw [endHolds, hf]

theorem journalInput_off {s : State} {p : Nat} (h : ∀ x, partAt s p = some x → x.journal.enable = 0) (a n : Nat) :
    journalInput s p a n = s := by
  unfold journalInput
  split
  · rfl
  · rename_i x hx
    exact if_pos (.inl (h x hx))

/-- A request reads a quiet range as memory has it, and nothing changes. -/
theorem mpRead_quiet {s : State} {p a n : Nat} (hq : Quiet s p a n) (hu : Undisturbed s p) (f : State → List Byte → MbxAnswer) :
    mpRead s p a n f = f s (memBytes s.mem a n) := by
  obtain ⟨t, ht⟩ := tierReady_t1 p none true true hq.usable
  rw [endHolds_none hu.noHolds] at ht
  have hn : n ≠ 0 := Nat.pos_iff_ne_zero.mp hq.nonempty
  rw [mpRead, if_neg hn, if_neg (by simp [hq.reachable]), ht]
  simp only [hq.sound, journalInput_off hu.noJournal, cohRead_unheld hq.unheld]
  rfl

/-! #### Registrations -/

section
variable {s : State} {p : Nat} {x : Partition}

theorem registerHost_done (hx : partAt s p = some x) {b : List Byte} (h1 : fieldAt b 8 8 % 65536 = 0) (h2 : fieldAt b 0x10 8 % 65536 = 0)
    (h3 : 0 < fieldAt b 0x10 8) (h4 : fieldAt b 0x10 8 ≤ 2 ^ 44) (h5 : inSlice p (fieldAt b 8 8) (fieldAt b 0x10 8) = true)
    (h6 : fieldAt b 0x18 8 + fieldAt b 0x10 8 ≤ 2 ^ 64)
    (h7 : x.hostRegs.any (fun e => rangesCross (fieldAt b 8 8) (fieldAt b 0x10 8) e.2.base e.2.bytes
      || rangesCross (fieldAt b 0x18 8) (fieldAt b 0x10 8) e.2.bus e.2.bytes) = false)
    (hi : mapFree x.hostRegs 0 1024 < 1024) (hsum : (s.partitions.map (fun e => e.2.hostRegs.length)).sum < 4096) :
    registerHost s p b = .done (modPart s p (fun y => { y with
      hostRegs := mapSet y.hostRegs (mapFree x.hostRegs 0 1024) { base := fieldAt b 8 8, bytes := fieldAt b 0x10 8, bus := fieldAt b 0x18 8 } }))
      stOk (natToBytes 2 (mapFree x.hostRegs 0 1024)) := by
  rw [registerHost, hx]
  dsimp only
  rw [if_neg, if_neg (by omega)]
  rw [h5, h7]
  rintro (h | h | h | h | h | h | h)
  · exact h h1
  · exact h h2
  · omega
  · omega
  · exact absurd h (by decide)
  · omega
  · exact absurd h (by decide)

theorem registerHost_invalid (hx : partAt s p = some x) {b : List Byte}
    (h : fieldAt b 8 8 % 65536 ≠ 0 ∨ fieldAt b 0x10 8 % 65536 ≠ 0 ∨ fieldAt b 0x10 8 = 0
      ∨ inSlice p (fieldAt b 8 8) (fieldAt b 0x10 8) = false) :
    registerHost s p b = .done s stInvalid [] := by
  rw [registerHost, hx]
  refine if_pos ?_
  rcases h with h | h | h | h
  · exact .inl h
  · exact .inr (.inl h)
  · exact .inr (.inr (.inl h))
  · exact .inr (.inr (.inr (.inr (.inl (by rw [h]; rfl)))))

/-- The object that a registration describes whose pool is in the frames of a list. -/
def describedObject (b : List Byte) (frames : List Nat) : TieredObject :=
  { base := fieldAt b 8 8, pages := fieldAt b 0x10 4, backing := fieldAt b 0x14 2, mapAddr := fieldAt b 0x18 8, pool := frames, free := frames,
    fixed := false, chans := [], threshold := fieldAt b 0x17 1, resident := [], counts := [], pinned := [], closing := false }

/-- A tiered object whose frames are in a quiet list gets the lowest free index and its map. -/
theorem registerObject_done (hx : partAt s p = some x) (hu : Undisturbed s p) {b : List Byte} {entries : Nat} (he : fieldAt b 0x28 4 = entries)
    {o : TieredObject}
    (ho : o = describedObject b ((List.range entries).map (fun i => fieldAt (memBytes s.mem (fieldAt b 0x20 8) (4 * entries)) (4 * i) 4)))
    (h1 : 1 ≤ entries) (h2 : entries ≤ 2 ^ 24) (hplace : fieldAt b 0x16 1 = 0) (hinit : fieldAt b 0x2D 1 = 0) (hn : fieldAt b 0x2C 1 ≤ 128)
    (hq : Quiet s p (fieldAt b 0x20 8) (4 * entries)) (hok : objectOk s p x o o.backing (fieldAt b 0x2C 1) = true)
    (hmap : fieldAt b 0x18 8 < 0x20000000000) (hown : ownsT1 s p (fieldAt b 0x18 8) (8 * o.pages) = true) (hi : mapFree x.objects 0 1024 < 1024) :
    registerObject s p b = .done (restoreObject (modPart s p (fun y => { y with objects := mapSet y.objects (mapFree x.objects 0 1024) o })) o).1
      stOk (natToBytes 2 (mapFree x.objects 0 1024)) := by
  subst he
  rw [registerObject]
  dsimp only
  rw [if_neg (by omega), mpRead_quiet hq hu, hplace, hinit, if_neg (by decide), mpRead, if_pos rfl]
  rw [hx]
  subst ho
  have hok' := Bool.eq_false_iff.mp (show (!objectOk s p x _ _ _) = false by rw [hok]; rfl)
  have hown' := Bool.eq_false_iff.mp (show (!ownsT1 s p _ _) = false by rw [hown]; rfl)
  refine (if_neg hok').trans ((if_neg ?_).trans ((if_neg (Nat.not_le.mpr hi)).trans ?_))
  · rintro (h | h)
    · exact Nat.not_le.mpr hmap h
    · exact hown' h
  · rfl

end

/-! #### Regions behind BAR2 -/

/-- The placement region that a registration describes: open and empty. -/
def describedPlacement (s : State) (b : List Byte) : Placement :=
  { state := .open, cause := .none, first := fieldAt b 8 4, granules := fieldAt b 0x0C 4, base := fieldAt b 0x10 8,
    log := fieldAt b 0x18 8, logBytes := fieldAt b 0x20 4, vector := fieldAt b 0x24 2, stream := fieldAt b 0x26 1,
    requesters := requestersOf b, limit := fieldAt b 0x0C 4 * 2 ^ 20, placed := 0, logUsed := 0, seq := 0, dropped := 0,
    droppedSince := false, since := aonNow s, scrub := false }

/-- The state with the placement region that a registration describes at index i, its granules bound in order. -/
def withPlacement (s : State) (p : Nat) (b : List Byte) (i : Nat) : State :=
  bindGranules (modFunc s p (fun g => { g with regions := mapSet g.regions i (describedPlacement s b) })) p (fieldAt b 8 4) (fieldAt b 0x0C 4)
    (fun k => .placement i (k * 2 ^ 20))

/-- The read-out region that a registration describes. -/
def describedReadout (b : List Byte) : Readout :=
  { first := fieldAt b 8 4, granules := fieldAt b 0x0C 4, base := fieldAt b 0x10 8, requesters := requestersOf b }

/-- The state with the read-out region that a registration describes at index i, its granules bound in order. -/
def withReadout (s : State) (p : Nat) (b : List Byte) (i : Nat) : State :=
  bindGranules (modFunc s p (fun g => { g with readouts := mapSet g.readouts i (describedReadout b) })) p (fieldAt b 8 4) (fieldAt b 0x0C 4)
    (fun k => .readout i (fieldAt b 0x10 8 + k * 2 ^ 20))

section
variable {s : State} {p : Nat} {f : Func}

theorem registerPlacement_done {b : List Byte} (hfree : granulesFree f (fieldAt b 8 4) (fieldAt b 0x0C 4) = true)
    (hreq : (requestersOf b).isEmpty = false) (hmem : lpddrStatus s p (fieldAt b 0x10 8) (fieldAt b 0x0C 4 * 2 ^ 20) = none)
    (h1 : fieldAt b 0x18 8 % 64 = 0) (h2 : fieldAt b 0x20 4 % 65536 = 0) (h3 : 65536 ≤ fieldAt b 0x20 4) (h4 : fieldAt b 0x20 4 ≤ 2 ^ 26)
    (hvec : fieldAt b 0x24 2 < msixAlloc s p) (hstream : fieldAt b 0x26 1 ≤ 7 ∨ fieldAt b 0x26 1 = 0xFF)
    (hlog : fieldAt b 0x18 8 + fieldAt b 0x20 4 ≤ usableBytes s) (hown : ownsT1 s p (fieldAt b 0x18 8) (fieldAt b 0x20 4) = true)
    (hi : mapFree f.regions 0 64 < 64) :
    registerPlacement s p f b = .done (withPlacement s p b (mapFree f.regions 0 64)) stOk (natToBytes 2 (mapFree f.regions 0 64)) := by
  rw [registerPlacement]
  dsimp only
  rw [if_neg, hmem]
  · exact (if_neg (by simp [hown])).trans (if_neg (by omega))
  · rw [hfree, hreq]
    rintro (h | h | h | h | h | h | ⟨h, h'⟩ | h | h)
    · exact absurd h (by decide)
    · exact h h1
    · exact h h2
    · omega
    · omega
    · omega
    · omega
    · exact absurd h (by decide)
    · omega

theorem registerReadout_done {b : List Byte} (hfree : granulesFree f (fieldAt b 8 4) (fieldAt b 0x0C 4) = true)
    (hreq : (requestersOf b).isEmpty = false) (hmem : lpddrStatus s p (fieldAt b 0x10 8) (fieldAt b 0x0C 4 * 2 ^ 20) = none) :
    registerReadout s p f b
      = .done (withReadout s p b (mapFree f.readouts 0 65536)) stOk (natToBytes 2 (mapFree f.readouts 0 65536)) := by
  rw [registerReadout]
  dsimp only
  rw [if_neg (by simp [hfree, hreq]), hmem]
  rfl

variable (hf : funcAt s p = some f)
include hf

theorem regionAt_withPlacement (b : List Byte) (i : Nat) : regionAt (withPlacement s p b i) p i = some (describedPlacement s b) := by
  rw [regionAt, withPlacement, funcAt_bindGranules (funcAt_modFunc hf _)]
  exact mapGet_mapSet_same ..

theorem windows_withPlacement (b : List Byte) (i : Nat) {j : Nat} (hj : j < fieldAt b 0x0C 4) {h : Func}
    (hh : funcAt (withPlacement s p b i) p = some h) : mapGet h.windows (fieldAt b 8 4 + j) = some (.placement i (j * 2 ^ 20)) := by
  rw [withPlacement, funcAt_bindGranules (funcAt_modFunc hf _)] at hh
  obtain rfl := Option.some.inj hh
  rw [mapGet_foldl_mapSet, if_pos (by omega), Nat.add_sub_cancel_left]

theorem func_withReadout (b : List Byte) (i : Nat) {h : Func} (hh : funcAt (withReadout s p b i) p = some h) :
    mapGet h.readouts i = some (describedReadout b) ∧ ∀ j, j < fieldAt b 0x0C 4 →
      mapGet h.windows (fieldAt b 8 4 + j) = some (.readout i (fieldAt b 0x10 8 + j * 2 ^ 20)) := by
  rw [withReadout, funcAt_bindGranules (funcAt_modFunc hf _)] at hh
  obtain rfl := Option.some.inj hh
  refine ⟨mapGet_mapSet_same .., fun j hj => ?_⟩
  rw [mapGet_foldl_mapSet, if_pos (by omega), Nat.add_sub_cancel_left]

end

/-! #### Windows -/

section
variable {s : State} {p : Nat} {f : Func} {r : MbxReq}

/-- Without slots the granules are bound, and the answer carries no set. -/
theorem doWindowMap_plain (h0 : fieldAt r.payload 0 1 = 0) (hfree : granulesFree f (fieldAt r.payload 4 4) (fieldAt r.payload 8 4) = true)
    {g : Nat → Granule} (hg : mapTarget s p f (fieldAt r.payload 0x0C 1) (fieldAt r.payload 0x10 8) (fieldAt r.payload 8 4) = .ok g)
    (hs : fieldAt r.payload 0x18 4 = 0) :
    doWindowMap s p f r = .done (bindGranules (drawFree s 65536).2 p (fieldAt r.payload 4 4) (fieldAt r.payload 8 4) g) stOk
      (natToBytes 2 (drawFree s 65536).1) := by
  rw [doWindowMap]
  dsimp only
  rw [if_neg (by simp [h0, hfree]), hg]
  exact if_pos hs

/-- A set of slots that a request describes. -/
def describedSlots (f : Func) (b : List Byte) : SlotSet :=
  { first := fieldAt b 4 4, granules := fieldAt b 8 4, slots := fieldAt b 0x18 4, slotBytes := fieldAt b 0x1C 4 * 4096, array := fieldAt b 0x20 8,
    base := targetBase f (fieldAt b 0x0C 1) (fieldAt b 0x10 8), removed := false }

/-- The functions after the granules are bound and the slot set stands at an index. -/
def withSlots (s : State) (p : Nat) (f : Func) (b : List Byte) (g : Nat → Granule) (i : Nat) : State :=
  modFunc (bindGranules s p (fieldAt b 4 4) (fieldAt b 8 4) g) p (fun h => { h with slotSets := mapSet h.slotSets i (describedSlots f b) })

/-- The first words of a set: HOST, generation 0. -/
def freshWords (slots : Nat) : List Byte := (List.range slots).flatMap (fun _ => cp32Bytes (ownerWord 1 0))

theorem doWindowMap_slots (h0 : fieldAt r.payload 0 1 = 0) (hfree : granulesFree f (fieldAt r.payload 4 4) (fieldAt r.payload 8 4) = true)
    {g : Nat → Granule} (hg : mapTarget s p f (fieldAt r.payload 0x0C 1) (fieldAt r.payload 0x10 8) (fieldAt r.payload 8 4) = .ok g)
    (h1 : 1 ≤ fieldAt r.payload 0x18 4) (h2 : fieldAt r.payload 0x18 4 ≤ 65536) (hsize : 0 < fieldAt r.payload 0x1C 4)
    (hfit : fieldAt r.payload 0x18 4 * (fieldAt r.payload 0x1C 4 * 4096) ≤ fieldAt r.payload 8 4 * 2 ^ 20)
    (ha : fieldAt r.payload 0x20 8 % 8 = 0) (hlow : fieldAt r.payload 0x20 8 < 0x20000000000)
    (hown : ownsT1 s p (fieldAt r.payload 0x20 8) (8 * fieldAt r.payload 0x18 4) = true) :
    doWindowMap s p f r = .done (markExternal (cohWrite (withSlots s p f r.payload g (mapFree f.slotSets 0 65536)) (fieldAt r.payload 0x20 8)
      (freshWords (fieldAt r.payload 0x18 4))) p (fieldAt r.payload 0x20 8) (8 * fieldAt r.payload 0x18 4)) stOk
      (natToBytes 2 (mapFree f.slotSets 0 65536)) := by
  rw [doWindowMap]
  dsimp only
  rw [if_neg (by simp [h0, hfree]), hg]
  refine (if_neg (by omega)).trans ((if_neg (by omega)).trans ((if_neg ?_).trans rfl))
  simp [hown]

theorem freshWords_length (slots : Nat) : (freshWords slots).length = 8 * slots := by
  simp [freshWords, cp32Bytes_length, Nat.mul_comm]

/-- Each word of a fresh set reads as written. -/
theorem memBytes_freshWords {m : List Host.Cell} (w : memWf m = true) (a : Nat) {slots k : Nat} (hk : k < slots) :
    memBytes (memPutBytes m a (freshWords slots)) (a + 8 * k) 8 = cp32Bytes (ownerWord 1 0) := by
  induction slots with
  | zero => exact absurd hk (Nat.not_lt_zero k)
  | succ n ih =>
    have hsplit : freshWords (n + 1) = freshWords n ++ cp32Bytes (ownerWord 1 0) := by
      simp [freshWords, List.range_succ]
    rw [hsplit, memPutBytes_append, freshWords_length]
    have hw := memPutBytes_wf a (freshWords n) w
    obtain ⟨hin, hout⟩ := memPutBytes_range (a := a + 8 * n) hw (cp32Bytes_length (ownerWord 1 0))
    by_cases h : k = n
    · rw [h, hin]
    · refine Eq.trans (List.map_congr_left fun i hi => hout _ ?_) (ih (by omega))
      have := List.mem_range.mp hi
      omega

theorem markExternal_leaves (s : State) (p a n : Nat) : (markExternal s p a n).mem = s.mem ∧ (markExternal s p a n).funcs = s.funcs := by
  unfold markExternal
  split <;> exact ⟨rfl, rfl⟩

/-- A new set of slots: its granules, its entry, and its words, all HOST of generation 0. -/
theorem withSlots_written (hm : s.memOk = true) (hq : Quiet s p (fieldAt r.payload 0x20 8) (8 * fieldAt r.payload 0x18 4))
    (g : Nat → Granule) (i : Nat) {t : State}
    (ht : t = markExternal (cohWrite (withSlots s p f r.payload g i) (fieldAt r.payload 0x20 8) (freshWords (fieldAt r.payload 0x18 4))) p
      (fieldAt r.payload 0x20 8) (8 * fieldAt r.payload 0x18 4)) :
    funcAt t p = funcAt (withSlots s p f r.payload g i) p
    ∧ ∀ k, k < fieldAt r.payload 0x18 4 → memBytes t.mem (fieldAt r.payload 0x20 8 + 8 * k) 8 = cp32Bytes (ownerWord 1 0) := by
  obtain ⟨hmem, hfuncs⟩ := markExternal_leaves (cohWrite (withSlots s p f r.payload g i) (fieldAt r.payload 0x20 8)
    (freshWords (fieldAt r.payload 0x18 4))) p (fieldAt r.payload 0x20 8) (8 * fieldAt r.payload 0x18 4)
  rw [← ht] at hmem hfuncs
  refine ⟨funcAt_congr (hfuncs.trans (cohWrite_memOnly ..).funcs) p, fun k hk => ?_⟩
  have hun : Unheld (withSlots s p f r.payload g i) (fieldAt r.payload 0x20 8) (freshWords (fieldAt r.payload 0x18 4)).length := by
    rw [freshWords_length]
    exact ⟨hq.usable, hq.uncached⟩
  rw [hmem, (cohWrite_unheld hun).1]
  exact memBytes_freshWords (memWf_of_memOk hm) _ hk

variable (hf : funcAt s p = some f)
include hf

theorem windows_bindGranules {h : Func} {first n : Nat} {g : Nat → Granule} (hh : funcAt (bindGranules s p first n g) p = some h) (j : Nat) :
    mapGet h.windows j = if first ≤ j ∧ j < first + n then some (g (j - first)) else mapGet f.windows j := by
  rw [funcAt_bindGranules hf] at hh
  obtain rfl := Option.some.inj hh
  exact mapGet_foldl_mapSet ..

theorem func_withSlots {b : List Byte} {g : Nat → Granule} {i : Nat} {h : Func} (hh : funcAt (withSlots s p f b g i) p = some h) :
    mapGet h.slotSets i = some (describedSlots f b) ∧ ∀ j, mapGet h.windows j =
      if fieldAt b 4 4 ≤ j ∧ j < fieldAt b 4 4 + fieldAt b 8 4 then some (g (j - fieldAt b 4 4)) else mapGet f.windows j := by
  rw [withSlots, funcAt_modFunc (funcAt_bindGranules hf ..)] at hh
  obtain rfl := Option.some.inj hh
  exact ⟨mapGet_mapSet_same .., mapGet_foldl_mapSet _ _ _ _⟩

/-- Granules unmapped: none of the range is bound, and the others stay. -/
theorem windows_unmapped {h : Func} {first n : Nat}
    (hh : funcAt (modFunc s p (fun g => { g with windows := mapFilter g.windows (fun k _ => decide (k < first ∨ first + n ≤ k)) })) p = some h)
    (j : Nat) : (first ≤ j → j < first + n → mapGet h.windows j = none)
      ∧ (j < first ∨ first + n ≤ j → mapGet h.windows j = mapGet f.windows j) := by
  rw [funcAt_modFunc hf] at hh
  obtain rfl := Option.some.inj hh
  constructor
  · intro h1 h2
    exact mapGet_mapFilter_none f.windows (p := fun k _ => decide (k < first ∨ first + n ≤ k)) fun _ => decide_eq_false (by omega)
  intro h1
  exact mapGet_mapFilter_key f.windows (p := fun k => decide (k < first ∨ first + n ≤ k)) (decide_eq_true h1)

end

/-! #### The requests -/

section
variable {s : State} {p : Nat} {f : Func} {r : MbxReq}

theorem doRegionRegister_host (h : fieldAt r.payload 0 1 = 0) : doRegionRegister s p f r = registerHost s p r.payload := by
  rw [doRegionRegister, h]
  rfl

theorem doRegionRegister_object (h : fieldAt r.payload 0 1 = 1) : doRegionRegister s p f r = registerObject s p r.payload := by
  rw [doRegionRegister, h]
  rfl

theorem doRegionRegister_placement (h : fieldAt r.payload 0 1 = 2) : doRegionRegister s p f r = registerPlacement s p f r.payload := by
  rw [doRegionRegister, h]
  rfl

theorem doRegionRegister_readout (h : fieldAt r.payload 0 1 = 3) : doRegionRegister s p f r = registerReadout s p f r.payload := by
  rw [doRegionRegister, h]
  rfl

theorem doRegionRegister_other (h : 4 ≤ fieldAt r.payload 0 1) : doRegionRegister s p f r = .done s stInvalid [] := by
  obtain ⟨k, hk⟩ : ∃ k, fieldAt r.payload 0 1 = k + 4 := ⟨_, (Nat.sub_add_cancel h).symm⟩
  rw [doRegionRegister, hk]
  rfl

variable {x : Partition} (hx : partAt s p = some x)
include hx

theorem doRegionUnregister_host (h : fieldAt r.payload 0 1 = 0) {g : HostReg} (hg : mapGet x.hostRegs (fieldAt r.payload 2 2) = some g) :
    doRegionUnregister s p f r = if hostRegBusy s p (fieldAt r.payload 2 2) x g then .done s stBusy [] else .long s := by
  simp only [doRegionUnregister, hx, h, hg]

theorem doRegionUnregister_noHost (h : fieldAt r.payload 0 1 = 0) (hg : mapGet x.hostRegs (fieldAt r.payload 2 2) = none) :
    doRegionUnregister s p f r = .done s stInvalid [] := by
  simp only [doRegionUnregister, hx, h, hg, mbxInvalid]

theorem doRegionUnregister_object (h : fieldAt r.payload 0 1 = 1) {o : TieredObject}
    (ho : mapGet x.objects (fieldAt r.payload 2 2) = some o) :
    doRegionUnregister s p f r = .long (modObject s p (fieldAt r.payload 2 2) (fun o => { o with closing := true })) := by
  simp only [doRegionUnregister, hx, h, ho]

theorem doRegionUnregister_placement (h : fieldAt r.payload 0 1 = 2) {g : Placement} (hg : mapGet f.regions (fieldAt r.payload 2 2) = some g) :
    doRegionUnregister s p f r = .long (if g.cause.frees then s else withdrawRegion s p (fieldAt r.payload 2 2) .unregister) := by
  simp only [doRegionUnregister, hx, h, hg]

theorem doRegionUnregister_readout (h : fieldAt r.payload 0 1 = 3) (hg : mapHas f.readouts (fieldAt r.payload 2 2) = true) :
    doRegionUnregister s p f r = .long s := by
  rw [doRegionUnregister, hx, h]
  exact if_pos hg

theorem doRegionUnregister_other (h : 4 ≤ fieldAt r.payload 0 1) : doRegionUnregister s p f r = .done s stInvalid [] := by
  obtain ⟨k, hk⟩ : ∃ k, fieldAt r.payload 0 1 = k + 4 := ⟨_, (Nat.sub_add_cancel h).symm⟩
  rw [doRegionUnregister, hx, hk]
  rfl

end

section
variable {s : State} {fn : BitVec 4} {f : Func} {r : MbxReq}

theorem regionRegister_done (hs : Serving s fn.toNat f r 0x07) {t : State} {st : Nat} {p : List Byte}
    (h : doRegionRegister s fn.toNat f r = .done t st p) : exec (.regionRegister fn) s = .next (answer t fn.toNat r st p) := by
  rw [exec_regionRegister, execRegionRegister, runMbx_serving hs rfl, h]
  rfl

theorem regionUnregister_done (hs : Serving s fn.toNat f r 0x08) {t : State} {st : Nat} {p : List Byte}
    (h : doRegionUnregister s fn.toNat f r = .done t st p) : exec (.regionUnregister fn) s = .next (answer t fn.toNat r st p) := by
  rw [exec_regionUnregister, execRegionUnregister, runMbx_serving hs rfl, h]
  rfl

theorem regionUnregister_long (hs : Serving s fn.toNat f r 0x08) {t : State} (h : doRegionUnregister s fn.toNat f r = .long t) :
    exec (.regionUnregister fn) s = .next (accepted t fn.toNat r) := by
  rw [exec_regionUnregister, execRegionUnregister, runMbx_serving hs rfl, h, finish_long hs rfl]

theorem windowMapMap_done (hs : Serving s fn.toNat f r 0x09) (h0 : fieldAt r.payload 0 1 = 0) {t : State} {st : Nat} {p : List Byte}
    (h : doWindowMap s fn.toNat f r = .done t st p) : exec (.windowMapMap fn) s = .next (answer t fn.toNat r st p) := by
  rw [exec_windowMapMap, execWindowMapMap, runMbx_serving hs (by simp [h0]), h]
  rfl

theorem windowMapUnmap_done (hs : Serving s fn.toNat f r 0x09) (h1 : fieldAt r.payload 0 1 = 1) (hn : 0 < fieldAt r.payload 8 4)
    (hfit : (fieldAt r.payload 4 4 + fieldAt r.payload 8 4) * 2 ^ 20 ≤ f.bar2Size) :
    exec (.windowMapUnmap fn) s = .next (answer (modFunc (drawFree s 65536).2 fn.toNat (fun g => { g with
      windows := mapFilter g.windows (fun k _ => decide (k < fieldAt r.payload 4 4 ∨ fieldAt r.payload 4 4 + fieldAt r.payload 8 4 ≤ k)) }))
      fn.toNat r stOk (natToBytes 2 (drawFree s 65536).1)) := by
  rw [exec_windowMapUnmap, execWindowMapUnmap, runMbx_serving hs (by simp [h1]), doWindowUnmap]
  dsimp only
  rw [if_neg (by omega)]
  rfl

section
variable {y : SlotSet} (hy : mapGet f.slotSets (fieldAt r.payload 0x28 2) = some y)
include hy

theorem windowMapRemoveSet_done (hs : Serving s fn.toNat f r 0x09) (h2 : fieldAt r.payload 0 1 = 2) :
    exec (.windowMapRemoveSet fn) s = .next (answer (modFunc (retireSet s y) fn.toNat (fun g => { g with
      slotSets := mapModify g.slotSets (fieldAt r.payload 0x28 2) (fun z => { z with removed := true }) }))
      fn.toNat r stOk (natToBytes 2 (fieldAt r.payload 0x28 2))) := by
  rw [exec_windowMapRemoveSet, execWindowMapRemoveSet, runMbx_serving hs (by simp [h2]), doRemoveSet, hy]
  rfl

theorem windowMapReactivateSet_done (hs : Serving s fn.toNat f r 0x09) (h3 : fieldAt r.payload 0 1 = 3) :
    exec (.windowMapReactivateSet fn) s = .next (answer (modFunc (reviveSet s y) fn.toNat (fun g => { g with
      slotSets := mapModify g.slotSets (fieldAt r.payload 0x28 2) (fun z => { z with removed := false }) }))
      fn.toNat r stOk (natToBytes 2 (fieldAt r.payload 0x28 2))) := by
  rw [exec_windowMapReactivateSet, execWindowMapReactivateSet, runMbx_serving hs (by simp [h3]), doReactivateSet, hy]
  rfl

end

end

/-- Settles O51: each request in service is carried out, so its answer is that of its own function of the state. -/
theorem regionAndWindowRequests : Obligations.RegionAndWindowRequests := by
  unfold Obligations.RegionAndWindowRequests
  intro s fn f r x n b ans first cnt hx
  refine ⟨?register, ?unregister, ?window⟩
  case register =>
    intro hs
    have reg {t : State} {st : Nat} {p : List Byte} (h : doRegionRegister s n f r = .done t st p) := regionRegister_done hs h
    refine ⟨?_, ?_, ?_, ?_, ?_⟩
    · intro hk h1 h2 h3 h4 h5 h6 h7 hi hsum
      exact reg ((doRegionRegister_host hk).trans (registerHost_done hx h1 h2 h3 h4 h5 h6 h7 hi hsum))
    · intro hk h
      exact reg ((doRegionRegister_host hk).trans (registerHost_invalid hx h))
    · intro hk
      exact reg (doRegionRegister_other hk)
    · intro entries frames o hk h1 h2 hplace hinit hn hu hq hok hmap hown hi
      exact reg ((doRegionRegister_object hk).trans (registerObject_done hx hu rfl rfl h1 h2 hplace hinit hn hq hok hmap hown hi))
    intro g hfree hreq hmem
    constructor
    · intro hk h1 h2 h3 h4 h5 h6 h7 h8 hi
      exact ⟨_, _, _, reg ((doRegionRegister_placement hk).trans (registerPlacement_done hfree hreq hmem h1 h2 h3 h4 h5 h6 h7 h8 hi)),
        by rw [regionAt, hs.func]; exact mapGet_mapFree (by omega), regionAt_withPlacement hs.func b _, rfl, rfl, rfl, rfl, rfl, rfl, rfl,
        fun j hj h hh => windows_withPlacement hs.func b _ hj hh⟩
    · intro hk _
      refine ⟨_, _, reg ((doRegionRegister_readout hk).trans (registerReadout_done hfree hreq hmem)), fun h hh => ?_⟩
      obtain ⟨hread, hwin⟩ := func_withReadout hs.func b _ hh
      exact ⟨by rw [hread]; rfl, hwin⟩
  case unregister =>
    intro hs un i
    refine ⟨?_, ?_, ?_, ?_, ?_, ?_⟩
    · intro g hk hg
      have hdo := doRegionUnregister_host (f := f) hx hk hg
      exact ⟨fun hb => regionUnregister_done hs (hdo.trans (if_pos hb)),
        fun hb => regionUnregister_long hs (hdo.trans (if_neg (Bool.eq_false_iff.mp hb)))⟩
    · intro o hk ho
      exact regionUnregister_long hs (doRegionUnregister_object hx hk ho)
    · intro g hk hg
      exact regionUnregister_long hs (doRegionUnregister_placement hx hk hg)
    · intro hk hg
      exact regionUnregister_long hs (doRegionUnregister_readout hx hk hg)
    · intro hk hg
      exact regionUnregister_done hs (doRegionUnregister_noHost hx hk hg)
    · intro hk
      exact regionUnregister_done hs (doRegionUnregister_other hx hk)
  case window =>
    intro hs arg bound array slots
    refine ⟨?_, ?_, ?_, ?_, ?_⟩
    · intro g hk hfree hg
      constructor
      · intro h0
        exact ⟨_, _, windowMapMap_done hs hk (doWindowMap_plain hk hfree hg h0),
          fun h hh => windows_bindGranules (s := (drawFree s 65536).2) hs.func hh, rfl⟩
      · intro hm h1 h2 hsize hfit ha hq
        have hlow : array < 0x20000000000 := by
          have := hq.usable
          have := usableBytes_le s
          omega
        refine ⟨_, _, windowMapMap_done hs hk (doWindowMap_slots hk hfree hg h1 h2 hsize hfit ha hlow hq.owned), ?_⟩
        obtain ⟨hfn, hwords⟩ := withSlots_written (f := f) hm hq g (mapFree f.slotSets 0 65536) rfl
        refine ⟨fun h hh => ?_, fun h hh => ?_, hwords⟩
        · exact (func_withSlots hs.func (hfn.symm.trans hh)).2
        · rw [(func_withSlots hs.func (hfn.symm.trans hh)).1]
          rfl
    · intro st hk hfree hg
      refine windowMapMap_done hs hk ?_
      rw [doWindowMap]
      dsimp only
      rw [if_neg (by rintro (h | h); exact h hk; simp [hfree, first, cnt, b] at h), hg]
    · intro hk hfree
      refine windowMapMap_done hs hk (if_pos (.inr ?_))
      rw [hfree]
      rfl
    · intro hk hcnt hfit
      exact ⟨_, _, windowMapUnmap_done hs hk hcnt hfit, fun h hh => windows_unmapped (s := (drawFree s 65536).2) hs.func hh⟩
    · intro i y hy
      exact ⟨windowMapRemoveSet_done hy hs, windowMapReactivateSet_done hy hs⟩

end Sys2Proof.Machine
end

section
/-! ### Functions and queue contexts stay: no commit, record, answer or withdrawal adds or drops one -/

namespace Sys2Proof.Machine

theorem mapSet_wf {α : Type} {m : SMap α} (k : Nat) (v : α) (h : mapWf m = true) : mapWf (mapSet m k v) = true := by
  have key : ∀ (m : SMap α) (lo : Nat), lo ≤ k → keysFrom lo m = true → keysFrom lo (mapSet m k v) = true := by
    intro m
    induction m with
    | nil => intro lo hl _; simp [mapSet, keysFrom, hl]
    | cons e m ih =>
      obtain ⟨j, w⟩ := e
      intro lo hl hm
      simp only [keysFrom, Bool.and_eq_true, decide_eq_true_eq] at hm
      obtain ⟨hj, hm⟩ := hm
      simp only [mapSet]
      split
      · simp [keysFrom, hl, hm]; omega
      · split
        · subst_vars; simp [keysFrom, hj, hm]
        · simp [keysFrom, hj, ih (j + 1) (by omega) hm]
  exact (mapWf_iff_keysFrom _).mpr (key m 0 (Nat.zero_le k) ((mapWf_iff_keysFrom m).mp h))

theorem mapModify_wf {α : Type} {m : SMap α} (k : Nat) (f : α → α) (h : mapWf m = true) : mapWf (mapModify m k f) = true := by
  unfold mapModify
  split
  · exact h
  · exact mapSet_wf k _ h

/-- The functions of t are those of s, and the queue contexts are still in order. -/
structure TablesKept (s t : State) : Prop where
  funcs : ∀ n, (funcAt t n).isSome = (funcAt s n).isSome
  queues : mapWf s.queues = true → mapWf t.queues = true

namespace TablesKept

theorem refl (s : State) : TablesKept s s := ⟨fun _ => rfl, id⟩

theorem trans {s t u : State} (a : TablesKept s t) (b : TablesKept t u) : TablesKept s u :=
  ⟨fun n => (b.funcs n).trans (a.funcs n), fun h => b.queues (a.queues h)⟩

theorem of_eq {s t : State} (hf : t.funcs = s.funcs) (hq : t.queues = s.queues) : TablesKept s t :=
  ⟨fun n => by rw [funcAt, hf, funcAt], fun h => by rw [hq]; exact h⟩

theorem ite {s t u : State} {c : Prop} [Decidable c] (ht : TablesKept s t) (hu : TablesKept s u) : TablesKept s (if c then t else u) := by
  split
  · exact ht
  · exact hu

theorem foldl {α : Type} {f : State → α → State} (h : ∀ t x, TablesKept t (f t x)) (l : List α) (s : State) : TablesKept s (l.foldl f s) := by
  induction l generalizing s with
  | nil => exact refl s
  | cons x l ih => exact (h s x).trans (ih (f s x))

end TablesKept

theorem MemOnly.tablesKept {s t : State} (h : MemOnly s t) : TablesKept s t := .of_eq h.funcs h.queues

/-! #### State operations -/

theorem modFunc_tablesKept (s : State) (fn : Nat) (f : Func → Func) : TablesKept s (modFunc s fn f) := by
  refine ⟨fun n => ?_, id⟩
  by_cases h : n = fn
  · subst h
    simp [funcAt, modFunc, mapGet_mapModify_same]
  · simp [funcAt, modFunc, mapGet_mapModify_other _ _ h]

theorem modQueue_tablesKept (s : State) (q : Nat) (f : Queue → Queue) : TablesKept s (modQueue s q f) :=
  ⟨fun _ => rfl, fun h => mapModify_wf q f h⟩

theorem modPart_tablesKept (s : State) (p : Nat) (f : Partition → Partition) : TablesKept s (modPart s p f) := .of_eq rfl rfl
theorem modJob_tablesKept (s : State) (p : Nat) (f : Job → Job) : TablesKept s (modJob s p f) := .of_eq rfl rfl
theorem modDrip_tablesKept (s : State) (p : Nat) (f : Drip → Drip) : TablesKept s (modDrip s p f) := .of_eq rfl rfl
theorem modObject_tablesKept (s : State) (p obj : Nat) (f : TieredObject → TieredObject) : TablesKept s (modObject s p obj f) := .of_eq rfl rfl
theorem modMig_tablesKept (s : State) (p obj page : Nat) (f : Migration → Migration) : TablesKept s (modMig s p obj page f) := .of_eq rfl rfl
theorem modCore_tablesKept (s : State) (k : Nat) (f : Core → Core) : TablesKept s (modCore s k f) := .of_eq rfl rfl
theorem putMapEntry_tablesKept (s : State) (o : TieredObject) (page frame : Nat) (st : PageState) (gen : Nat) :
    TablesKept s (putMapEntry s o page frame st gen) := .of_eq rfl rfl
theorem logError_tablesKept (s : State) (cls die code part queue status addr detail : Nat) :
    TablesKept s (logError s cls die code part queue status addr detail) := by
  unfold logError
  exact .of_eq rfl rfl
theorem drawBytes_tablesKept (s : State) (n : Nat) : TablesKept s (drawBytes s n).2 := .of_eq rfl rfl
theorem sendMsi_tablesKept (s : State) (hart file ident : Nat) : TablesKept s (sendMsi s hart file ident) := .of_eq (by simp) (by simp)
theorem cohWrite_tablesKept (s : State) (a : Nat) (bs : List Byte) : TablesKept s (cohWrite s a bs) := (cohWrite_memOnly ..).tablesKept
theorem moduleWrite_tablesKept (s : State) (a : Nat) (bs : List Byte) : TablesKept s (moduleWrite s a bs) := (moduleWrite_memOnly ..).tablesKept

theorem modComponent_tablesKept (s : State) (c : Nat) (f : Component → Component) : TablesKept s (modComponent s c f) :=
  .of_eq (by simp) (by simp)

theorem sendMsix_tablesKept (s : State) (fn entry : Nat) : TablesKept s (sendMsix s fn entry) := by
  unfold sendMsix
  split
  · exact .refl s
  split
  · dsimp only
    split
    · exact modFunc_tablesKept ..
    · exact .of_eq rfl rfl
  · exact .refl s

/-! #### Records -/

theorem journalWrite_tablesKept (s : State) (p ty : Nat) (body : List Byte) : TablesKept s (journalWrite s p ty body) := by
  obtain ⟨u, f, hu, h | h⟩ := journalWrite_reaches s p ty body
  · rw [h]; exact hu.tablesKept
  · rw [h]; exact hu.tablesKept.trans (modPart_tablesKept ..)

theorem telemetryPf0_tablesKept (s : State) (ty : Nat) (body : List Byte) : TablesKept s (telemetryPf0 s ty body) := by
  unfold telemetryPf0
  split
  · exact .refl s
  · exact (ringWrite_memOnly ..).tablesKept.trans (.of_eq rfl rfl)

theorem telemetryQueue_tablesKept (s : State) (q ty : Nat) (body : List Byte) : TablesKept s (telemetryQueue s q ty body) := by
  unfold telemetryQueue
  split
  · exact .refl s
  · exact (ringWrite_memOnly ..).tablesKept.trans (modQueue_tablesKept ..)

theorem account_tablesKept (s : State) (q : Nat) (c : Cmd) (committed : Bool) : TablesKept s (account s q c committed) :=
  TablesKept.trans (t := { s with free := s.free + 1 }) (.of_eq rfl rfl) (modQueue_tablesKept ..)

theorem writeCompletion_tablesKept (s : State) (q pos status result flags seq rccModule rccIndex rccTarget : Nat) :
    TablesKept s (writeCompletion s q pos status result flags seq rccModule rccIndex rccTarget) := by
  unfold writeCompletion
  split
  · exact .refl s
  split
  · exact .refl s
  dsimp only
  have hrec (a : Nat) (bs : List Byte) : TablesKept s (modQueue (moduleWrite s a bs) q (fun y => { y with records := y.records + 1 })) :=
    (moduleWrite_tablesKept ..).trans (modQueue_tablesKept ..)
  split
  · exact (hrec ..).trans (sendMsi_tablesKept ..)
  split
  · exact hrec ..
  · exact (hrec ..).trans (sendMsix_tablesKept ..)

end Sys2Proof.Machine
end

section
/-! ### Functions and queue contexts stay: commits -/

namespace Sys2Proof.Machine

/-! #### Spills and signals -/

theorem addRecordLanes_tablesKept (s : State) (p core a : Nat) : TablesKept s (addRecordLanes s p core a) := modJob_tablesKept ..

theorem applySpillLine_tablesKept (s : State) (d : WgbDesc) (data : List Byte) (i : Nat) : TablesKept s (applySpillLine s d data i) := by
  unfold applySpillLine
  dsimp only
  split
  · split
    · exact logError_tablesKept ..
    · exact cohWrite_tablesKept ..
  · exact cohWrite_tablesKept ..

theorem applySpill_tablesKept (s : State) (core : Nat) : TablesKept s (applySpill s core) := by
  unfold applySpill
  split
  · exact .refl s
  rename_i r _
  have hlines : TablesKept s ((List.range 256).foldl (fun t i => applySpillLine t r.desc r.data i) { s with spills := s.spills.erase r }) :=
    TablesKept.trans (t := { s with spills := s.spills.erase r }) (.of_eq rfl rfl)
      (.foldl (fun t i => applySpillLine_tablesKept t r.desc r.data i) _ _)
  dsimp only
  split
  · exact (hlines.trans (cohWrite_tablesKept ..)).trans (addRecordLanes_tablesKept ..)
  · exact hlines

theorem writePieces_tablesKept (s : State) (l : List (Nat × Nat)) (bs : List Byte) : TablesKept s (writePieces s l bs) := by
  induction l generalizing s bs with
  | nil => exact .refl s
  | cons e l ih => exact (moduleWrite_tablesKept ..).trans (ih _ _)

theorem applySignal_tablesKept (s : State) (p q : Nat) (c : Cmd) : TablesKept s (applySignal s p q c) := by
  unfold applySignal
  dsimp only
  split
  · exact modPart_tablesKept ..
  split
  · exact (modPart_tablesKept ..).trans (writePieces_tablesKept ..)
  · exact modPart_tablesKept ..

/-! #### Windows, chunks and migrations -/

theorem moveSlivers_tablesKept (t : State) (p idx role : Nat) (r : Role) (k slow fast : Nat) :
    TablesKept t (moveSlivers t p idx role r k slow fast) := (modJob_tablesKept ..).trans (journalWrite_tablesKept ..)

theorem switchMapping_tablesKept (s : State) (p idx : Nat) (rebalance : Bool) (pm : Nat) :
    TablesKept s (switchMapping s p idx rebalance pm) := by
  unfold switchMapping
  split
  · exact .refl s
  refine TablesKept.trans ?_ (modJob_tablesKept ..)
  split
  · exact .refl s
  split
  · exact .refl s
  refine .foldl (fun t x => ?_) _ s
  dsimp only
  split
  · exact .refl t
  · exact moveSlivers_tablesKept ..

theorem closeWindow_tablesKept (s : State) (p : Nat) : TablesKept s (closeWindow s p) := by
  unfold closeWindow
  split
  · exact .refl s
  split
  · exact .refl s
  dsimp only
  split
  · exact .refl s
  · exact (modJob_tablesKept ..).trans (switchMapping_tablesKept ..)

theorem queueMig_tablesKept (s : State) (p : Nat) (r : MigRequest) : TablesKept s (queueMig s p r) := modPart_tablesKept ..

theorem beginDemotion_tablesKept (s : State) (p obj page : Nat) (src : MigSource) : TablesKept s (beginDemotion s p obj page src) := by
  unfold beginDemotion
  split
  · exact .refl s
  split
  · exact (putMapEntry_tablesKept ..).trans (modPart_tablesKept ..)
  · exact .refl s

theorem promoteInto_tablesKept (s : State) (p obj page frame : Nat) : TablesKept s (promoteInto s p obj page frame) := by
  unfold promoteInto
  split
  · exact .refl s
  · exact ((modObject_tablesKept ..).trans (putMapEntry_tablesKept ..)).trans (modMig_tablesKept ..)

theorem startMigration_tablesKept (s : State) (p obj page : Nat) (dir : MigDir) (src : MigSource) :
    TablesKept s (startMigration s p obj page dir src).2 := by
  unfold startMigration
  split
  case h_2 => exact .refl s
  split
  · split
    · exact .refl s
    · exact queueMig_tablesKept ..
  split
  · exact .refl s
  split
  · exact .refl s
  split
  · split
    · exact .refl s
    split
    · exact .refl s
    dsimp only
    split
    · exact (modPart_tablesKept ..).trans (promoteInto_tablesKept ..)
    split
    · exact .refl s
    split
    · exact .refl s
    · exact (modPart_tablesKept ..).trans (beginDemotion_tablesKept ..)
  · split
    · exact .refl s
    split
    · exact queueMig_tablesKept ..
    split
    · exact .refl s
    · exact beginDemotion_tablesKept ..

theorem offloadPages_tablesKept (s : State) (p : Nat) (o : OpenStep) (x : Chunk) (dir : MigDir) : TablesKept s (offloadPages s p o x dir) := by
  refine .foldl (fun t e => ?_) _ s
  split
  · exact .refl t
  refine .foldl (fun u k => ?_) _ t
  have h := startMigration_tablesKept u p e.2.2 ((e.1 + x.i * e.2.1 - TieredObject.base ‹_›) / 65536 + k) dir .offload
  split
  · rename_i heq
    rw [heq] at h
    exact h.trans (queueMig_tablesKept ..)
  · rename_i heq
    rw [heq] at h
    exact h

theorem chunkDone_tablesKept (s : State) (p : Nat) (c : Cmd) : TablesKept s (chunkDone s p c) := by
  unfold chunkDone
  split
  · exact .refl s
  split
  · exact .refl s
  split
  · exact .refl s
  refine TablesKept.trans ?_ (closeWindow_tablesKept ..)
  refine .ite (modJob_tablesKept ..) ?_
  refine TablesKept.trans (.ite ?_ ?_) (.foldl (fun t y => offloadPages_tablesKept ..) _ _)
  · exact (modJob_tablesKept ..).trans (offloadPages_tablesKept ..)
  · exact modJob_tablesKept ..

/-! #### The drip stream -/

theorem dripPut_tablesKept {s t : State} {p : Nat} {r : List Byte} (h : dripPut s p r = some t) : TablesKept s t := by
  unfold dripPut at h
  split at h
  · exact absurd h (by simp)
  simp only [Option.ite_none_right_eq_some, Option.some.injEq] at h
  obtain ⟨_, rfl⟩ := h
  refine TablesKept.trans ?_ (modDrip_tablesKept ..)
  refine TablesKept.trans (TablesKept.trans ?_ (moduleWrite_tablesKept ..)) (moduleWrite_tablesKept ..)
  exact .ite (.refl s) (moduleWrite_tablesKept ..)

theorem drainReady_tablesKept (fuel : Nat) (s : State) (p : Nat) : TablesKept s (drainReady fuel s p) := by
  induction fuel generalizing s with
  | zero => exact .refl s
  | succ fuel ih =>
    unfold drainReady
    split
    · exact .refl s
    split
    · exact .refl s
    split
    · exact .refl s
    · rename_i hput
      exact ((dripPut_tablesKept hput).trans (modDrip_tablesKept ..)).trans (ih _)

theorem dripTable_tablesKept (s : State) (p step id : Nat) : TablesKept s (dripTable s p step id) := by
  unfold dripTable
  split
  case h_2 => exact .refl s
  exact .ite (.foldl (fun u r => modDrip_tablesKept ..) _ s) (modDrip_tablesKept ..)

theorem dripRelease_tablesKept (s : State) (p q step decision : Nat) (tables : List Nat) (scale : List Byte) :
    TablesKept s (dripRelease s p q step decision tables scale) := by
  unfold dripRelease
  split
  · exact .refl s
  split
  · exact .refl s
  refine .ite (.refl s) ?_
  have released (u : State) : TablesKept s u → TablesKept s (drainDrip u p) := fun h => h.trans (drainReady_tablesKept ..)
  have behind (u : State) (h : TablesKept s u) :
      TablesKept s (if decision = 1 ∨ decision = 2 then tables.foldl (fun t id => dripTable t p step id) u else u) :=
    .ite (h.trans (.foldl (fun t id => dripTable_tablesKept ..) _ u)) h
  refine .ite (((?_ : TablesKept s _).trans (telemetryPf0_tablesKept ..)).trans (telemetryQueue_tablesKept ..)) ?_
  all_goals
    refine .ite ((?_ : TablesKept s _).trans (modPart_tablesKept ..)) ?_
    all_goals exact released _ ((behind _ (modDrip_tablesKept ..)).trans (modDrip_tablesKept ..))

/-! #### Commits of steps -/

theorem haltJob_tablesKept (s : State) (p code : Nat) : TablesKept s (haltJob s p code) := by
  unfold haltJob
  split
  · exact .refl s
  · exact (cohWrite_tablesKept ..).trans (modJob_tablesKept ..)

theorem journalCommit_tablesKept (s : State) (p : Nat) (j : Job) (decision status : Nat) (clip : Word32) :
    TablesKept s (journalCommit s p j decision status clip) := (journalWrite_tablesKept ..).trans (modPart_tablesKept ..)

theorem normTelemetry_tablesKept (s : State) (j : Job) (r : CommitRun) (o : OpenStep) (status : Nat) :
    TablesKept s (normTelemetry s j r o status) := .foldl (fun _ _ => telemetryQueue_tablesKept ..) _ s

/-- Drawing more free values beside a list that is built up. -/
theorem foldl_drawn_tablesKept {α β : Type} {f : α × State → β → α × State} (h : ∀ acc x, TablesKept acc.2 (f acc x).2) (l : List β)
    (acc : α × State) : TablesKept acc.2 (l.foldl f acc).2 := by
  induction l generalizing acc with
  | nil => exact .refl _
  | cons x l ih => exact (h acc x).trans (ih _)

theorem phaseRecord_tablesKept (s : State) (p : Nat) (j : Job) (r : CommitRun) (o : OpenStep) (status : Nat) :
    TablesKept s (phaseRecord s p j r o status) := by
  unfold phaseRecord
  extract_lets m
  split
  rename_i cd s1 hdrawn
  have hs1 : TablesKept s s1 := by
    rw [show s1 = _ from (congrArg Prod.snd hdrawn).symm]
    refine foldl_drawn_tablesKept (acc := ([], s)) (fun acc d => ?_) _
    exact drawBytes_tablesKept acc.2 64
  exact ((hs1.trans (drawBytes_tablesKept _ 128)).trans (telemetryPf0_tablesKept ..)).trans (modJob_tablesKept ..)

theorem commitAfter_tablesKept (s : State) (p status : Nat) : TablesKept s (commitAfter s p status) := by
  unfold commitAfter
  split
  case h_2 => exact .refl s
  rename_i j r _ _
  have closed (decided : State) (h : TablesKept s decided) (status : Nat) (halt : Bool) (f : Job → Job) :
      TablesKept s (if halt then haltJob (modJob decided p f) p status else modJob decided p f) :=
    .ite ((h.trans (modJob_tablesKept ..)).trans (haltJob_tablesKept ..)) (h.trans (modJob_tablesKept ..))
  cases j.step with
  | none => exact closed _ ((journalCommit_tablesKept ..).trans (dripRelease_tablesKept ..)) _ _ _
  | some o =>
    refine closed _ ?_ _ _ _
    refine TablesKept.trans (TablesKept.trans ?_ (normTelemetry_tablesKept ..)) (phaseRecord_tablesKept ..)
    exact (journalCommit_tablesKept ..).trans (dripRelease_tablesKept ..)

theorem writeScale_tablesKept (s : State) (p step l : Nat) : TablesKept s (writeScale s p step l) := by
  unfold writeScale
  split
  · exact .refl s
  refine .ite (TablesKept.trans ?_ (modJob_tablesKept ..)) (TablesKept.trans ?_ (modJob_tablesKept ..))
  · exact .foldl (fun t k => cohWrite_tablesKept ..) _ s
  · exact cohWrite_tablesKept ..

theorem commitWrites_tablesKept (s : State) (p : Nat) : TablesKept s (commitWrites s p) := by
  unfold commitWrites
  split
  case h_2 => exact .refl s
  exact TablesKept.trans (.foldl (fun t l => writeScale_tablesKept ..) _ s) (cohWrite_tablesKept ..)

end Sys2Proof.Machine
end

section
/-! ### Functions and queue contexts stay: ended commands, answers and what a partition's stop takes back -/

namespace Sys2Proof.Machine

/-! #### A table without a key -/

theorem keysFrom_mono {α : Type} {m : SMap α} {lo k : Nat} (h : keysFrom k m = true) (hk : lo ≤ k) : keysFrom lo m = true := by
  cases m with
  | nil => rfl
  | cons e m =>
    simp only [keysFrom, Bool.and_eq_true, decide_eq_true_eq] at h ⊢
    exact ⟨hk.trans h.1, h.2⟩

theorem mapGet_below {α : Type} {m : SMap α} {lo k : Nat} (h : keysFrom lo m = true) (hk : k < lo) : mapGet m k = none := by
  induction m generalizing lo with
  | nil => rfl
  | cons e m ih =>
    obtain ⟨j, w⟩ := e
    simp only [keysFrom, Bool.and_eq_true, decide_eq_true_eq] at h
    rw [mapGet, if_neg (by omega)]
    exact ih h.2 (by omega)

theorem mapErase_keysFrom {α : Type} {m : SMap α} {lo : Nat} (k : Nat) (h : keysFrom lo m = true) :
    keysFrom lo (mapErase m k) = true ∧ mapGet (mapErase m k) k = none := by
  induction m generalizing lo with
  | nil => exact ⟨rfl, rfl⟩
  | cons e m ih =>
    obtain ⟨j, w⟩ := e
    simp only [keysFrom, Bool.and_eq_true, decide_eq_true_eq] at h
    obtain ⟨hj, hm⟩ := h
    by_cases hk : k = j
    · rw [mapErase, if_pos hk]
      exact ⟨keysFrom_mono hm (by omega), mapGet_below hm (by omega)⟩
    · rw [mapErase, if_neg hk, mapGet, if_neg (by omega)]
      simp [keysFrom, hj, ih hm]

theorem mapErase_wf {α : Type} {m : SMap α} (k : Nat) (h : mapWf m = true) : mapWf (mapErase m k) = true :=
  (mapWf_iff_keysFrom _).mpr (mapErase_keysFrom k ((mapWf_iff_keysFrom m).mp h)).1

theorem mapGet_mapErase_same {α : Type} {m : SMap α} (k : Nat) (h : mapWf m = true) : mapGet (mapErase m k) k = none :=
  (mapErase_keysFrom k ((mapWf_iff_keysFrom m).mp h)).2

/-! #### Commits of commands -/

theorem releaseSlots_tablesKept (s : State) (fn : Nat) (bufs : List Buf) : TablesKept s (releaseSlots s fn bufs) := by
  refine .foldl (fun t b => ?_) bufs s
  split
  · split
    · exact .ite (cohWrite_tablesKept ..) (.refl t)
    · exact .refl t
  · exact .refl t

theorem removeCmd_tablesKept (s : State) (q pos : Nat) : TablesKept s (removeCmd s q pos) := modQueue_tablesKept ..

theorem countRemote_tablesKept (s : State) (p : Nat) (c : Cmd) (r : Option (Nat × Nat)) : TablesKept s (countRemote s p c r) := by
  unfold countRemote
  split
  · exact .refl s
  · exact modFunc_tablesKept ..

theorem patchJournal_tablesKept (s : State) (c : Cmd) (seq : Nat) : TablesKept s (patchJournal s c seq) :=
  .ite (.refl s) (moduleWrite_tablesKept ..)

theorem signalled_tablesKept (s : State) (q p result : Nat) (c : Cmd) :
    TablesKept s (if c.opcode = 0x11 then (applySignal s p q c, result) else (s, c.result)).1 := by
  split
  · dsimp only
    exact applySignal_tablesKept ..
  · dsimp only
    exact .refl s

theorem commitRest_tablesKept (s : State) (q p : Nat) (c : Cmd) : TablesKept s (commitRest s q p c) := by
  unfold commitRest
  extract_lets s1 _
  split
  rename_i s2 result hsignal
  extract_lets s3 s4 _ s5 s6 _ _ s7 _ s9
  have h1 : TablesKept s s1 := releaseSlots_tablesKept ..
  have h2 : TablesKept s1 s2 := by
    rw [show s2 = _ from (congrArg Prod.fst hsignal).symm]
    exact signalled_tablesKept ..
  have h4 : TablesKept s3 s4 := .ite (commitWrites_tablesKept ..) (.refl s3)
  have h6 : TablesKept s5 s6 := (patchJournal_tablesKept ..).trans (modFunc_tablesKept ..)
  have h7 : TablesKept s6 s7 := (removeCmd_tablesKept ..).trans (countRemote_tablesKept ..)
  have h9 : TablesKept s7 s9 := (writeCompletion_tablesKept ..).trans (chunkDone_tablesKept ..)
  have hall : TablesKept s s9 :=
    ((((h1.trans h2).trans (account_tablesKept ..)).trans h4).trans (modPart_tablesKept ..)).trans ((h6.trans h7).trans h9)
  exact .ite (hall.trans (commitAfter_tablesKept ..)) hall

theorem finishCommit_tablesKept (s : State) (q pos : Nat) : TablesKept s (finishCommit s q pos) := by
  unfold finishCommit
  split
  case h_2 => exact .refl s
  refine .ite (TablesKept.trans (TablesKept.trans ?_ (.foldl (fun _ _ => modCore_tablesKept ..) _ _)) (commitRest_tablesKept ..)) (.refl s)
  exact .foldl (fun t k => .foldl (fun u _ => applySpill_tablesKept u k) _ t) _ s

theorem finishCommits_tablesKept (s : State) (t : Nat → Queue → Cmd → Bool) : TablesKept s (finishCommits s t) :=
  .foldl (fun _ _ => finishCommit_tablesKept ..) _ s

/-! #### Commands, sessions and queues that end -/

theorem descReadDone_tablesKept (s : State) (q : Nat) : TablesKept s (descReadDone s q) := by
  unfold descReadDone
  split
  · exact .refl s
  · exact .of_eq rfl rfl

theorem endCmdWith_tablesKept (s : State) (q pos status result : Nat) : TablesKept s (endCmdWith s q pos status result) := by
  unfold endCmdWith
  split
  case h_2 => exact .refl s
  rename_i x c _ _
  refine TablesKept.trans (TablesKept.trans (TablesKept.trans ?_ (account_tablesKept ..)) (removeCmd_tablesKept ..)) (writeCompletion_tablesKept ..)
  have hcores : TablesKept s (c.cores.foldl killCore s) := .foldl (fun _ _ => modCore_tablesKept ..) _ s
  have hholds (u : State) : TablesKept u (dropHolds u q pos) := .of_eq rfl rfl
  exact (hcores.trans (hholds _)).trans (modJob_tablesKept ..)

theorem endCmds_tablesKept (s : State) (l : List (Nat × Nat)) (status : Nat) : TablesKept s (endCmds s l status) :=
  .foldl (fun _ _ => endCmdWith_tablesKept ..) _ s

theorem endSessions_tablesKept (s : State) (status : Nat) (t : Nat → VideoSession → Bool) : TablesKept s (endSessions s status t) :=
  (endCmds_tablesKept s _ status).trans (.of_eq rfl rfl)

theorem freeQueue_tablesKept (s : State) (q status : Nat) : TablesKept s (freeQueue s q status) :=
  ((endSessions_tablesKept ..).trans (descReadDone_tablesKept ..)).trans ⟨fun _ => rfl, mapErase_wf q⟩

theorem destroyQueues_tablesKept (s : State) (t : Nat → Queue → Bool) (status : Nat) : TablesKept s (destroyQueues s t status) :=
  (endCmds_tablesKept ..).trans (.foldl (fun _ _ => freeQueue_tablesKept ..) _ _)

/-! #### Regions and slots -/

theorem discardRange_memOnly (s : State) (a n : Nat) : MemOnly s (discardRange s a n) := by
  refine MemOnly.trans ?_ (refreshFlights_memOnly ..)
  refine MemOnly.foldl (fun t lid => ?_) _ s
  split
  · exact dropCopies_memOnly ..
  · exact .refl t

theorem scrubRange_tablesKept (s : State) (a n : Nat) : TablesKept s (scrubRange s a n) := by
  have cleared (u : State) : TablesKept u { u with mem := memClear u.mem a n } := .of_eq rfl rfl
  exact ((discardRange_memOnly s a n).tablesKept.trans (cleared _)).trans (clearPoison_memOnly ..).tablesKept

theorem freeRegion_tablesKept (s : State) (fn i : Nat) : TablesKept s (freeRegion s fn i) := by
  unfold freeRegion
  split
  · exact .refl s
  · refine TablesKept.trans (.ite ?_ (.refl s)) (modFunc_tablesKept ..)
    exact (scrubRange_tablesKept ..).trans (scrubRange_tablesKept ..)

theorem withdrawRegion_tablesKept (s : State) (fn i : Nat) (cause : PlaceCause) : TablesKept s (withdrawRegion s fn i cause) := by
  unfold withdrawRegion
  split
  · exact .refl s
  have noted (u : State) (n : Nat) (h : TablesKept s u) (base detail : Nat) :
      TablesKept s (logError (sendMsix u fn n) 0 0xFF 0x0808 fn 0xFFFF 0 base detail) :=
    (h.trans (sendMsix_tablesKept ..)).trans (logError_tablesKept ..)
  refine .ite (TablesKept.trans ?_ (freeRegion_tablesKept ..)) ?_
  · exact noted _ _ (modFunc_tablesKept ..) _ _
  · exact noted _ _ (modFunc_tablesKept ..) _ _

theorem withdrawRegions_tablesKept (s : State) (fn : Nat) (cause : PlaceCause) : TablesKept s (withdrawRegions s fn cause) := by
  unfold withdrawRegions
  split
  · exact .refl s
  · exact .foldl (fun _ _ => withdrawRegion_tablesKept ..) _ s

theorem retireSet_tablesKept (s : State) (y : SlotSet) : TablesKept s (retireSet s y) := by
  refine .foldl (fun t i => ?_) _ s
  dsimp only
  split
  · exact .ite (cohWrite_tablesKept ..) (.refl t)
  · exact .refl t

theorem retireSlots_tablesKept (s : State) (fn : Nat) : TablesKept s (retireSlots s fn) := by
  unfold retireSlots
  split
  · exact .refl s
  · exact .foldl (fun t _ => .ite (.refl t) (retireSet_tablesKept ..)) _ s

/-! #### Answers -/

theorem journalMbx_tablesKept (s : State) (fn : Nat) (f : Func) (r : MbxReq) (status : Nat) : TablesKept s (journalMbx s fn f r status) :=
  .ite ((journalWrite_tablesKept ..).trans (modPart_tablesKept ..)) (journalWrite_tablesKept ..)

theorem rspMessage_tablesKept (s : State) (fn : Nat) (isLocal : Bool) : TablesKept s (rspMessage s fn isLocal) := by
  refine .ite (sendMsix_tablesKept ..) ?_
  unfold msiSomewhere
  have drawn : TablesKept s (drawFree (drawFree s 64).2 511).2 := .of_eq rfl rfl
  change TablesKept s (match _ with | none => (drawFree (drawFree s 64).2 511).2 | some k => sendMsi (drawFree (drawFree s 64).2 511).2 k 1 _)
  split
  · exact drawn
  · exact drawn.trans (sendMsi_tablesKept ..)

theorem writeResponse_tablesKept (s : State) (fn : Nat) (isLocal : Bool) (pos cmd tag status : Nat) (payload : List Byte) :
    TablesKept s (writeResponse s fn isLocal pos cmd tag status payload) := by
  unfold writeResponse
  split
  · exact .refl s
  refine TablesKept.trans (TablesKept.trans (.ite ?_ ?_) (modFunc_tablesKept ..)) (rspMessage_tablesKept ..)
  · exact (cohWrite_tablesKept ..).trans (cohWrite_tablesKept ..)
  · exact modFunc_tablesKept ..

theorem answer_tablesKept (s : State) (fn : Nat) (r : MbxReq) (status : Nat) (payload : List Byte) :
    TablesKept s (answer s fn r status payload) := by
  unfold answer
  split
  · exact .refl s
  refine TablesKept.trans (TablesKept.trans (.ite ?_ ?_) (writeResponse_tablesKept ..)) (modFunc_tablesKept ..)
  · exact modPart_tablesKept ..
  · exact journalMbx_tablesKept ..

theorem spoilStaging_tablesKept (s : State) (fn : Nat) : TablesKept s (spoilStaging s fn) := by
  unfold spoilStaging
  split
  · exact .refl s
  · exact .foldl (fun _ _ => modComponent_tablesKept ..) _ s

theorem abortLong_tablesKept (s : State) (fn status : Nat) : TablesKept s (abortLong s fn status) := by
  unfold abortLong
  split
  · exact .refl s
  refine TablesKept.trans (TablesKept.trans (.ite ?_ (.refl s)) (modPart_tablesKept ..)) (.foldl (fun _ _ => answer_tablesKept ..) _ _)
  exact spoilStaging_tablesKept ..

/-! #### A partition's stop -/

theorem holdHarts_tablesKept (s : State) (p : Nat) : TablesKept s (holdHarts s p) := by
  unfold holdHarts
  exact .of_eq rfl rfl
theorem clearFlows_tablesKept (s : State) (p : Nat) : TablesKept s (clearFlows s p) := .of_eq rfl rfl
theorem dropTierWork_tablesKept (s : State) (p : Nat) : TablesKept s (dropTierWork s p) := .of_eq rfl rfl

theorem partitionStop_tablesKept (s : State) (p : Nat) : TablesKept s (partitionStop s p) := by
  unfold partitionStop
  extract_lets mine s1 s2 s3 s4 s5
  have h2 : TablesKept s s2 := (finishCommits_tablesKept ..).trans (destroyQueues_tablesKept ..)
  have h3 : TablesKept s2 s3 := (withdrawRegions_tablesKept ..).trans (retireSlots_tablesKept ..)
  have h5 : TablesKept s3 s5 := (modPart_tablesKept ..).trans (modFunc_tablesKept ..)
  have hend : TablesKept s5 (dropTierWork (clearFlows (closeStep (holdHarts s5 p) p) p) p) :=
    (((holdHarts_tablesKept ..).trans (modJob_tablesKept ..)).trans (clearFlows_tablesKept ..)).trans (dropTierWork_tablesKept ..)
  exact ((h2.trans h3).trans h5).trans hend

end Sys2Proof.Machine
end

section
/-! ### Information requests and the life of a partition (R183, R399, R400, R403, Tables 13-3 and 13-6) -/

namespace Sys2Proof.Machine

theorem exec_getInfo (fn : BitVec 4) (s : State) : exec (.getInfo fn) s = execGetInfo fn s := rfl
theorem exec_getCaps (fn : BitVec 4) (s : State) : exec (.getCaps fn) s = execGetCaps fn s := rfl
theorem exec_getCapsSwitchV1 (fn : BitVec 4) (s : State) : exec (.getCapsSwitchV1 fn) s = execGetCapsSwitchV1 fn s := rfl
theorem exec_getCapsSwitchV2 (fn : BitVec 4) (s : State) : exec (.getCapsSwitchV2 fn) s = execGetCapsSwitchV2 fn s := rfl
theorem exec_partitionCreate (fn : BitVec 4) (s : State) : exec (.partitionCreate fn) s = execPartitionCreate fn s := rfl
theorem exec_partitionDestroy (fn : BitVec 4) (s : State) : exec (.partitionDestroy fn) s = execPartitionDestroy fn s := rfl

/-! #### GET_INFO and GET_CAPS -/

section
variable {s : State} {fn : BitVec 4} {f : Func} {r : MbxReq}

theorem getInfo_module (hs : Serving s fn.toNat f r 0x01) (h : fieldAt r.payload 0 2 = 0) :
    exec (.getInfo fn) s = .next (answer s fn.toNat r stOk (moduleInfo s f)) := by
  rw [exec_getInfo, execGetInfo]
  dsimp only
  rw [runMbx_serving hs rfl, h]
  rfl

theorem getInfo_partition (hs : Serving s fn.toNat f r 0x01) (h : fieldAt r.payload 0 2 = 1) {p : Nat}
    (hp : (if fn.toNat = 0 then fieldAt r.payload 2 2 else fn.toNat) = p) {x : Partition} (hx : partAt s p = some x) :
    exec (.getInfo fn) s = .next (answer s fn.toNat r stOk (partitionBytes p x)) := by
  rw [exec_getInfo, execGetInfo]
  dsimp only
  rw [runMbx_serving hs rfl, h, hp]
  simp only [hx]
  rfl

theorem getInfo_boot (hs : Serving s fn.toNat f r 0x01) (h : fieldAt r.payload 0 2 = 3) {p : Nat}
    (hp : (if fn.toNat = 0 then fieldAt r.payload 2 2 else fn.toNat) = p) {x : Partition} (hx : partAt s p = some x) :
    exec (.getInfo fn) s = .next (answer s fn.toNat r stOk (natToBytes 8 x.server.boot.status.toNat)) := by
  rw [exec_getInfo, execGetInfo]
  dsimp only
  rw [runMbx_serving hs rfl, h, hp]
  simp only [hx]
  rfl

theorem getInfo_queue (hs : Serving s fn.toNat f r 0x01) (h : fieldAt r.payload 0 2 = 2) {x : Queue}
    (hx : queueAt s (fieldAt r.payload 2 2) = some x) :
    exec (.getInfo fn) s = .next (answer s fn.toNat r (if x.partition = fn.toNat then stOk else stNotPermitted)
      (if x.partition = fn.toNat then accountingBytes x else [])) := by
  rw [exec_getInfo, execGetInfo]
  dsimp only
  rw [runMbx_serving hs rfl, h]
  simp only [hx]
  by_cases hp : x.partition = fn.toNat
  · rw [if_pos hp, if_pos hp, if_pos hp]
    rfl
  · rw [if_neg hp, if_neg hp, if_neg hp]
    rfl

theorem getInfo_other (hs : Serving s fn.toNat f r 0x01) (h : 4 ≤ fieldAt r.payload 0 2) :
    exec (.getInfo fn) s = .next (answer s fn.toNat r stInvalid []) := by
  obtain ⟨k, hk⟩ : ∃ k, fieldAt r.payload 0 2 = k + 4 := ⟨_, (Nat.sub_add_cancel h).symm⟩
  rw [exec_getInfo, execGetInfo]
  dsimp only
  rw [runMbx_serving hs rfl, hk]
  rfl

theorem getCaps_done (hs : Serving s fn.toNat f r 0x02) (h : fieldAt r.payload 0 1 = 0) :
    exec (.getCaps fn) s = .next (answer s fn.toNat r stOk (capsBytes f.version)) := by
  rw [exec_getCaps, execGetCaps, runMbx_serving hs (by simp [h]), if_pos h]
  rfl

theorem getCapsSwitchV1_done (hs : Serving s fn.toNat f r 0x02) (h : fieldAt r.payload 0 1 = 1) {x : Partition}
    (hx : partAt s fn.toNat = some x) (hm : natBit x.modes 0 = true) :
    exec (.getCapsSwitchV1 fn) s
      = .next (answer (modFunc s fn.toNat (fun g => { g with nextVersion := 1 })) fn.toNat r stOk (capsBytes 1)) := by
  rw [exec_getCapsSwitchV1, execGetCapsSwitchV1, runMbx_serving hs (by simp [h]), if_pos (by simp [hx, hm])]
  rfl

theorem getCapsSwitchV1_refused (hs : Serving s fn.toNat f r 0x02) (h : fieldAt r.payload 0 1 = 1) {x : Partition}
    (hx : partAt s fn.toNat = some x) (hm : natBit x.modes 0 = false) :
    exec (.getCapsSwitchV1 fn) s = .next (answer s fn.toNat r stNotPermitted (capsBytes 2)) := by
  rw [exec_getCapsSwitchV1, execGetCapsSwitchV1, runMbx_serving hs (by simp [h]), if_neg (by simp [hx, hm])]
  rfl

theorem getCapsSwitchV2_done (hs : Serving s fn.toNat f r 0x02) (h : fieldAt r.payload 0 1 = 2) :
    exec (.getCapsSwitchV2 fn) s
      = .next (answer (modFunc s fn.toNat (fun g => { g with nextVersion := 2 })) fn.toNat r stOk (capsBytes 2)) := by
  rw [exec_getCapsSwitchV2, execGetCapsSwitchV2, runMbx_serving hs (by simp [h])]
  rfl

end

/-! #### Starting the harts of a new partition -/

/-- Starting partition p's harts changes no partition but its own server registers, and no function. -/
structure Booted (p : Nat) (s t : State) : Prop where
  funcs : t.funcs = s.funcs
  other : ∀ q, q ≠ p → partAt t q = partAt s q
  own : ∀ y, partAt s p = some y → ∃ v, partAt t p = some { y with server := v }

namespace Booted

theorem of_eq {p : Nat} {s t : State} (hf : t.funcs = s.funcs) (hp : t.partitions = s.partitions) : Booted p s t :=
  ⟨hf, fun q _ => partAt_congr hp q, fun y hy => ⟨y.server, by rw [partAt_congr hp, hy]⟩⟩

theorem refl (p : Nat) (s : State) : Booted p s s := of_eq rfl rfl

theorem trans {p : Nat} {s t u : State} (a : Booted p s t) (b : Booted p t u) : Booted p s u := by
  refine ⟨b.funcs.trans a.funcs, fun q hq => (b.other q hq).trans (a.other q hq), fun y hy => ?_⟩
  obtain ⟨v, hv⟩ := a.own y hy
  obtain ⟨w, hw⟩ := b.own _ hv
  exact ⟨w, hw⟩

theorem foldl {α : Type} {p : Nat} {f : State → α → State} (h : ∀ t x, Booted p t (f t x)) (l : List α) (s : State) :
    Booted p s (l.foldl f s) := by
  induction l generalizing s with
  | nil => exact refl p s
  | cons x l ih => exact (h s x).trans (ih (f s x))

end Booted

theorem setBoot_booted (s : State) (p step status : Nat) : Booted p s (setBoot s p step status) := by
  refine ⟨rfl, fun q hq => mapGet_mapModify_other _ _ hq, fun y hy => ?_⟩
  exact ⟨_, partAt_modPart_some hy _⟩

theorem putOwned_booted (q : Nat) (s : State) (p a : Nat) (bs : List Byte) : Booted q s (putOwned s p a bs) := by
  refine Booted.foldl (fun t i => ?_) _ s
  split
  · exact .of_eq (cohWrite_memOnly ..).funcs (cohWrite_memOnly ..).partitions
  · exact .refl q t

theorem modComponent_booted (p : Nat) (s : State) (c : Nat) (f : Component → Component) : Booted p s (modComponent s c f) :=
  .of_eq (by simp) (by simp)

theorem logError_booted (p : Nat) (s : State) (cls die code part queue status addr detail : Nat) :
    Booted p s (logError s cls die code part queue status addr detail) := by
  unfold logError
  exact .of_eq rfl rfl

theorem startTrial_booted (p : Nat) (s : State) (c : Nat) : Booted p s (startTrial s c) := by
  unfold startTrial
  dsimp only
  split
  · split
    · exact modComponent_booted ..
    · exact (modComponent_booted ..).trans (logError_booted ..)
  · exact .refl p s

theorem loadComponent_booted (p : Nat) (s : State) (c : Nat) : Booted p s (loadComponent s c).1 := by
  unfold loadComponent
  dsimp only
  split
  · refine Booted.trans (startTrial_booted p s c) ?_
    dsimp only
    exact modComponent_booted ..
  · exact startTrial_booted ..

theorem holdHarts_booted (s : State) (p : Nat) : Booted p s (holdHarts s p) := by
  unfold holdHarts
  exact .of_eq rfl rfl

theorem drawFree_booted {p bound n : Nat} {s t : State} (h : drawFree s bound = (n, t)) : Booted p s t := by
  obtain ⟨-, rfl⟩ := Prod.mk.inj h
  exact .of_eq rfl rfl

theorem drawBytes_booted {p n : Nat} {bs : List Byte} {s t : State} (h : drawBytes s n = (bs, t)) : Booted p s t := by
  obtain ⟨-, rfl⟩ := Prod.mk.inj h
  exact .of_eq rfl rfl

theorem bootServers_booted (s : State) (p : Nat) : Booted p s (bootServers s p) := by
  unfold bootServers
  extract_lets s0
  have h0 : Booted p s s0 := holdHarts_booted s p
  have h1 := loadComponent_booted p s0 2
  split
  · exact h0
  split
  · rename_i s1 hload
    rw [hload] at h1
    exact ((h0.trans h1).trans (logError_booted ..)).trans (setBoot_booted ..)
  · rename_i s1 img hload
    rw [hload] at h1
    split
    rename_i hpage
    split
    rename_i hn
    split
    rename_i s4 hblob
    extract_lets base dt s5 own s6
    have h4 : Booted p s s4 :=
      ((h0.trans h1).trans (drawFree_booted hpage)).trans ((drawFree_booted hn).trans (drawBytes_booted hblob))
    have h5 : Booted p s4 s5 := ((putOwned_booted ..).trans (putOwned_booted ..)).trans (setBoot_booted ..)
    have h6 : Booted p s5 s6 := .of_eq rfl rfl
    refine ((h4.trans h5).trans h6).trans (.foldl (fun t k => ?_) _ s6)
    split
    · exact .of_eq (by simp) (by simp)
    · exact .refl p t

/-! #### PARTITION_CREATE -/

/-- The state with a new partition, which takes its resources from partition 0. -/
def withPartition (s : State) (z : Partition) (c : CreateReq) : State :=
  let s1 := setPart (setPart s 0 (takeFromZero z c (msixHeld s + c.msix))) c.p (newPartition c)
  { s1 with funcs := mapSet s1.funcs c.p Func.reset }

section
variable {s : State} {z : Partition} {c : CreateReq}

theorem createRanges_pos (h : createRanges c = true) : c.p ≠ 0 := by
  simp only [createRanges, decide_eq_true_eq] at h
  omega

theorem partAt_withPartition_own (s : State) (z : Partition) (c : CreateReq) : partAt (withPartition s z c) c.p = some (newPartition c) :=
  mapGet_mapSet_same ..

theorem partAt_withPartition_zero (h : c.p ≠ 0) : partAt (withPartition s z c) 0 = some (takeFromZero z c (msixHeld s + c.msix)) :=
  (mapGet_mapSet_other _ _ (Ne.symm h)).trans (mapGet_mapSet_same ..)

theorem funcAt_withPartition (s : State) (z : Partition) (c : CreateReq) : funcAt (withPartition s z c) c.p = some Func.reset :=
  mapGet_mapSet_same ..

end

section
variable {s : State} {fn : BitVec 4} {f : Func} {r : MbxReq} {z : Partition} {c : CreateReq} (hc : createReqOf f.version r.payload = c)
include hc

theorem doPartitionCreate_done (hz : partAt s 0 = some z) (h1 : createRanges c = true) (h2 : partAt s c.p = none)
    (h3 : createHeld s z c = true) (h4 : createBusy s z c = false) :
    doPartitionCreate s f r = .done (bootServers (withPartition s z c) c.p) stOk (natToBytes 1 c.p) := by
  rw [doPartitionCreate]
  simp only [hc, hz]
  rw [if_neg (by simp [h1, h2, h3]), if_neg (by simp [h4])]
  rfl

theorem doPartitionCreate_invalid (hz : partAt s 0 = some z)
    (h : createRanges c = false ∨ (partAt s c.p).isSome = true ∨ createHeld s z c = false) :
    doPartitionCreate s f r = .done s stInvalid [] := by
  rw [doPartitionCreate]
  simp only [hc, hz]
  refine if_pos ?_
  rcases h with h | h | h
  · exact .inl (by rw [h]; rfl)
  · exact .inr (.inl h)
  · exact .inr (.inr (by rw [h]; rfl))

end

theorem partitionCreate_done {s : State} {fn : BitVec 4} {f : Func} {r : MbxReq} (hs : Serving s fn.toNat f r 0x03) {t : State} {st : Nat}
    {p : List Byte} (h : doPartitionCreate s f r = .done t st p) : exec (.partitionCreate fn) s = .next (answer t fn.toNat r st p) := by
  rw [exec_partitionCreate, execPartitionCreate, runMbx_serving hs rfl, h]
  rfl

/-! #### PARTITION_DESTROY -/

/-- The state without the queues of a partition. -/
def withoutQueues (s : State) (p : Nat) : State := { s with queues := mapFilter s.queues (fun _ x => x.partition != p) }

theorem funcAt_withoutQueues (s : State) (p n : Nat) : funcAt (withoutQueues s p) n = funcAt s n := rfl

theorem queueAt_withoutQueues (s : State) (p q : Nat) :
    queueAt (withoutQueues s p) q = mapGet (mapFilter s.queues (fun _ x => x.partition != p)) q := rfl

/-- A partition stopped, its long requests answered. -/
def haltedPartition (s : State) (p : Nat) : State := abortLong (partitionStop (markScrub s p) p) p stAbortedReset

/-- A partition stopped: its function disabled, its queues gone. -/
def stoppedPartition (s : State) (p : Nat) : State :=
  withoutQueues (modFunc (haltedPartition s p) p (fun f => { f with disabled := true, inService := none })) p

theorem mapGet_mapFilter_some {α : Type} {m : SMap α} {q : Nat → α → Bool} {k : Nat} {v : α} (h : mapGet (mapFilter m q) k = some v) :
    q k v = true := by
  induction m with
  | nil => exact absurd h (by simp [mapFilter, mapGet])
  | cons e m ih =>
    obtain ⟨j, w⟩ := e
    unfold mapFilter at ih h
    cases hq : q j w with
    | false => exact ih (by simpa [hq] using h)
    | true =>
      simp only [List.filter_cons, hq, if_true, mapGet] at h
      split at h
      · subst_vars
        obtain rfl := Option.some.inj h
        exact hq
      · exact ih h

theorem haltedPartition_tablesKept (s : State) (p : Nat) : TablesKept s (haltedPartition s p) :=
  ((modFunc_tablesKept ..).trans (partitionStop_tablesKept ..)).trans (abortLong_tablesKept ..)

theorem isSome_funcAt_stoppedPartition (s : State) (p n : Nat) : (funcAt (stoppedPartition s p) n).isSome = (funcAt s n).isSome := by
  rw [stoppedPartition, funcAt_withoutQueues]
  exact ((haltedPartition_tablesKept s p).trans (modFunc_tablesKept ..)).funcs n

theorem stoppedPartition_queues {s : State} {p q : Nat} {x : Queue} (h : queueAt (stoppedPartition s p) q = some x) : x.partition ≠ p := by
  rw [stoppedPartition, queueAt_withoutQueues] at h
  simpa using mapGet_mapFilter_some h

theorem stoppedPartition_disabled {s : State} {p : Nat} {h : Func} (hh : funcAt (stoppedPartition s p) p = some h) : h.disabled = true := by
  rw [stoppedPartition, funcAt_withoutQueues, funcAt, modFunc, mapGet_mapModify_same] at hh
  obtain ⟨g, -, rfl⟩ := Option.map_eq_some_iff.mp hh
  rfl

section
variable {s : State} {fn : BitVec 4} {f : Func} {r : MbxReq}

theorem partitionDestroy_invalid (hs : Serving s fn.toNat f r 0x04)
    (h : fieldAt r.payload 0 1 = 0 ∨ 15 < fieldAt r.payload 0 1 ∨ partAt s (fieldAt r.payload 0 1) = none) :
    exec (.partitionDestroy fn) s = .next (answer s fn.toNat r stInvalid []) := by
  rw [exec_partitionDestroy, execPartitionDestroy, runMbx_serving hs rfl, doPartitionDestroy]
  dsimp only
  rw [if_pos (by rwa [Option.isNone_iff_eq_none])]
  rfl

theorem partitionDestroy_accepted (hs : Serving s fn.toNat f r 0x04) (h0 : 0 < fieldAt r.payload 0 1) (h15 : fieldAt r.payload 0 1 ≤ 15)
    (hx : (partAt s (fieldAt r.payload 0 1)).isSome = true) :
    exec (.partitionDestroy fn) s = .next (accepted (stoppedPartition s (fieldAt r.payload 0 1)) fn.toNat r) := by
  rw [exec_partitionDestroy, execPartitionDestroy, runMbx_serving hs rfl, doPartitionDestroy]
  dsimp only
  rw [if_neg, finish_long hs rfl]
  · rfl
  · rw [Option.isNone_iff_eq_none]
    rintro (h | h | h)
    · omega
    · omega
    · rw [h] at hx
      exact absurd hx (by decide)

end

/-- A request accepted leaves the queues, disables no function again, and is among its function's long requests. -/
theorem accepted_leaves {t : State} {n p : Nat} (r : MbxReq) (hq : ∀ q x, queueAt t q = some x → x.partition ≠ p)
    (hd : ∀ h, funcAt t p = some h → h.disabled = true) (hn : (funcAt t n).isSome = true) :
    ∃ g, (∀ q x, queueAt (accepted t n r) q = some x → x.partition ≠ p) ∧ (∀ h, funcAt (accepted t n r) p = some h → h.disabled = true)
      ∧ funcAt (accepted t n r) n = some g ∧ g.inService = none ∧ r ∈ g.long := by
  obtain ⟨f, hf⟩ := Option.isSome_iff_exists.mp hn
  refine ⟨_, hq, fun h hh => ?_, funcAt_modFunc hf _, rfl, List.mem_append_right _ (List.mem_singleton_self r)⟩
  by_cases hp : p = n
  · subst hp
    rw [accepted, funcAt_modFunc hf] at hh
    obtain rfl := Option.some.inj hh
    exact hd f hf
  · rw [accepted, funcAt, modFunc, mapGet_mapModify_other _ _ hp] at hh
    exact hd h hh

/-! #### The end of a destruction -/

theorem memByte_filter {lo : Nat} {m : List Host.Cell} (w : memWfFrom lo m = true) (q : Nat → Bool) (a : Nat) :
    memByte (m.filter (fun c => q c.1)) a = if q a then memByte m a else 0 := by
  induction m generalizing lo with
  | nil => simp [memByte]
  | cons cell m ih =>
    obtain ⟨k, v⟩ := cell
    simp only [memWfFrom, Bool.and_eq_true, decide_eq_true_eq] at w
    obtain ⟨⟨_, _⟩, wm⟩ := w
    have hrest := ih wm
    have hbelow : a ≤ k → memByte m a = 0 := fun h => memByte_below wm (by omega)
    rw [List.filter_cons]
    split
    case isTrue hkeep =>
      simp only [memByte, hrest]
      by_cases hk : k = a
      · subst hk; simp_all
      · simp only [hk, if_false]
        split <;> simp
    case isFalse hcut =>
      simp only [memByte, hrest]
      by_cases hk : k = a
      · subst hk; simp_all
      · simp only [hk, if_false]
        by_cases hlt : a < k
        · simp [hlt, hbelow (by omega)]
        · simp [hlt]

section
variable {s : State} {p : Nat} {x z : Partition}

theorem finishDestroy_eq (hx : partAt s p = some x) (hz : partAt s 0 = some z) : finishDestroy s p = { scrubPartition s p with
    partitions := mapErase (mapSet s.partitions 0 (returnToZero z x (msixHeld s - x.msixQuota))) p, funcs := mapErase s.funcs p } := by
  rw [finishDestroy, hx, hz]
  rfl

theorem partAt_finishDestroy_same (hx : partAt s p = some x) (hz : partAt s 0 = some z) (hw : mapWf s.partitions = true) :
    partAt (finishDestroy s p) p = none := by
  rw [finishDestroy_eq hx hz]
  exact mapGet_mapErase_same p (mapSet_wf 0 _ hw)

theorem funcAt_finishDestroy_same (hx : partAt s p = some x) (hz : partAt s 0 = some z) (hw : mapWf s.funcs = true) :
    funcAt (finishDestroy s p) p = none := by
  rw [finishDestroy_eq hx hz]
  exact mapGet_mapErase_same p hw

theorem partAt_finishDestroy_zero (hp : p ≠ 0) (hx : partAt s p = some x) (hz : partAt s 0 = some z) :
    partAt (finishDestroy s p) 0 = some (returnToZero z x (msixHeld s - x.msixQuota)) := by
  rw [finishDestroy_eq hx hz]
  exact (mapGet_mapErase_other _ (Ne.symm hp)).trans (mapGet_mapSet_same ..)

theorem memByte_finishDestroy (hx : partAt s p = some x) (hz : partAt s 0 = some z) (hm : s.memOk = true) (a : Nat) :
    memByte (finishDestroy s p).mem a = if memOwned s p a then 0 else memByte s.mem a := by
  rw [finishDestroy_eq hx hz]
  refine (memByte_filter (memWf_of_memOk hm) (fun a => !memOwned s p a) a).trans ?_
  cases memOwned s p a <;> rfl

end

end Sys2Proof.Machine
end

section
/-! ### Queue contexts, and the requests of partitions and queues together (R400, R403, Table 13-6) -/

namespace Sys2Proof.Machine

theorem exec_queueCreate (fn : BitVec 4) (s : State) : exec (.queueCreate fn) s = execQueueCreate fn s := rfl
theorem exec_queueDestroy (fn : BitVec 4) (s : State) : exec (.queueDestroy fn) s = execQueueDestroy fn s := rfl

/-! #### Shares of scratch and tiles -/

/-- A free share is aligned, in range, and no other context of the partition has any of it. -/
theorem freeShare_spec {s : State} {p n base : Nat} (h : freeShare s p n = some base) : base % 16384 = 0 ∧ base + n ≤ 0x30000
    ∧ ∀ e ∈ s.queues, e.2.partition = p → e.2.scratchSize ≠ 0 → base + n ≤ e.2.scratchBase ∨ e.2.scratchBase + e.2.scratchSize ≤ base := by
  have hmem := List.mem_of_head? h
  simp only [List.mem_filter, List.mem_map, Bool.and_eq_true, decide_eq_true_eq, List.all_eq_true] at hmem
  obtain ⟨⟨i, _, rfl⟩, hfit, hused⟩ := hmem
  refine ⟨Nat.mul_mod_left i 16384, hfit, fun e he hp hs => ?_⟩
  exact hused (e.2.scratchBase, e.2.scratchSize) ⟨e, ⟨he, by simp [hp, hs]⟩, rfl⟩

/-- A bit that a union of masks lacks is in none of them. -/
theorem testBit_foldl_or {α : Type} {g : α → Nat} {i : Nat} (l : List α) (a : Nat)
    (h : (l.foldl (fun a e => a ||| g e) a).testBit i = false) : a.testBit i = false ∧ ∀ e ∈ l, (g e).testBit i = false := by
  induction l generalizing a with
  | nil => exact ⟨h, fun e he => absurd he (List.not_mem_nil)⟩
  | cons x l ih =>
    obtain ⟨ha, hl⟩ := ih _ h
    rw [Nat.testBit_or, Bool.or_eq_false_iff] at ha
    refine ⟨ha.1, fun e he => ?_⟩
    rcases List.mem_cons.mp he with rfl | he
    · exact ha.2
    · exact hl e he

/-- The mask of some of the four tiles has the bits of these tiles. -/
theorem tileMask_bits : ∀ l ∈ (List.range 4).sublists,
    l.foldl (fun a t => a + 2 ^ t) 0 < 16 ∧ ∀ i < 4, (l.foldl (fun a t => a + 2 ^ t) 0).testBit i = l.contains i := by
  decide

/-- Free tiles are tiles that no other context of the partition has. -/
theorem freeTiles_spec {s : State} {p n m : Nat} (h : freeTiles s p n = some m) :
    m < 16 ∧ ∀ e ∈ s.queues, e.2.partition = p → m &&& e.2.tiles % 16 = 0 := by
  unfold freeTiles at h
  extract_lets used l at h
  simp only [Option.ite_none_right_eq_some, Option.some.injEq] at h
  obtain ⟨-, rfl⟩ := h
  have hsub : l ∈ (List.range 4).sublists :=
    List.mem_sublists.mpr ((List.take_sublist ..).trans List.filter_sublist)
  obtain ⟨hlt, hbits⟩ := tileMask_bits l hsub
  refine ⟨hlt, fun e he hp => Nat.eq_of_testBit_eq fun i => ?_⟩
  rw [Nat.testBit_and, Nat.zero_testBit, show (16 : Nat) = 2 ^ 4 from rfl, Nat.testBit_mod_two_pow]
  by_cases hi : i < 4
  · rw [hbits i hi]
    cases hc : l.contains i with
    | false => rfl
    | true =>
      have hfree : used.testBit i = false := by
        have hmem := List.mem_of_mem_take (List.contains_iff_mem.mp hc)
        simpa [natBit] using (List.mem_filter.mp hmem).2
      simp [(testBit_foldl_or _ _ hfree).2 e (List.mem_filter.mpr ⟨he, by simp [hp]⟩)]
  · simp [hi]

/-! #### QUEUE_CREATE -/

/-- The context that a request without a PASID describes, with its share of scratch and its tiles. -/
def describedQueue (p : Nat) (b : List Byte) (base mask : Nat) : Queue :=
  { partition := p, isLocal := decide (fieldAt b 0 1 = 1), log2 := fieldAt b 1 1, tiles := mask, weight := fieldAt b 3 1, scratchBase := base,
    scratchSize := fieldAt b 4 4, descRing := fieldAt b 8 8, cmplRing := fieldAt b 0x10 8, pasid := none, vector := fieldAt b 0x1C 2,
    state := .running, parkPos := 0, tail := 0, head := 0, records := 0, badReads := 0, telemetry := none, cmds := [], accEngine := 0,
    accT1 := 0, accHost := 0, accPort := 0, accEnergy := 0, accKilled := 0, accCommits := 0, accEnded := 0 }

section
variable {s : State} {p : Nat} {r : MbxReq}

theorem doQueueCreate_invalid (h : 1 < fieldAt r.payload 0 1 ∨ fieldAt r.payload 1 1 < 6 ∨ 16 < fieldAt r.payload 1 1
      ∨ 4 < fieldAt r.payload 2 1 ∨ fieldAt r.payload 3 1 < 1 ∨ 16 < fieldAt r.payload 3 1 ∨ fieldAt r.payload 4 4 % 16384 ≠ 0) :
    doQueueCreate s p r = .done s stInvalid [] := by
  rw [doQueueCreate]
  exact if_pos (by tauto)

theorem doQueueCreate_done (h1 : fieldAt r.payload 0 1 ≤ 1) (h2 : 6 ≤ fieldAt r.payload 1 1) (h3 : fieldAt r.payload 1 1 ≤ 16)
    (h4 : fieldAt r.payload 2 1 ≤ 4) (h5 : 1 ≤ fieldAt r.payload 3 1) (h6 : fieldAt r.payload 3 1 ≤ 16)
    (h7 : fieldAt r.payload 4 4 % 16384 = 0) (h8 : fieldAt r.payload 4 4 ≤ 0x30000) (hpasid : fieldAt r.payload 0x18 4 = 0)
    (hvec : vectorOk s p (decide (fieldAt r.payload 0 1 = 1)) (fieldAt r.payload 0x1C 2) = true)
    (hdesc : ringStatus s p (decide (fieldAt r.payload 0 1 = 1)) (fieldAt r.payload 8 8) (64 * 2 ^ fieldAt r.payload 1 1) = none)
    (hcmpl : ringStatus s p (decide (fieldAt r.payload 0 1 = 1)) (fieldAt r.payload 0x10 8) (32 * 2 ^ fieldAt r.payload 1 1) = none)
    {base mask : Nat} (hbase : (if fieldAt r.payload 4 4 = 0 then some 0 else freeShare s p (fieldAt r.payload 4 4)) = some base)
    (hmask : freeTiles s p (fieldAt r.payload 2 1) = some mask) (hq : mapFree s.queues 0 4096 < 4096) :
    doQueueCreate s p r = .done { s with queues := mapSet s.queues (mapFree s.queues 0 4096) (describedQueue p r.payload base mask) } stOk
      (natToBytes 2 (mapFree s.queues 0 4096) ++ zeros 2 ++ natToBytes 4 base ++ natToBytes 1 mask) := by
  rw [doQueueCreate]
  simp only [hpasid, hvec, hdesc, hcmpl, hbase, hmask]
  rw [if_neg]
  · rw [if_neg (by omega)]
    rfl
  · simp only [natBit, Nat.zero_testBit]
    simp
    omega

end

/-! #### QUEUE_DESTROY -/

section
variable {s : State} {p : Nat} {r : MbxReq} {x : Queue}

theorem doQueueDestroy_none (h : queueAt s (fieldAt r.payload 0 2) = none) : doQueueDestroy s p r = .done s stInvalid [] := by
  rw [doQueueDestroy]
  simp only [h, mbxInvalid]

theorem doQueueDestroy_other (h : queueAt s (fieldAt r.payload 0 2) = some x) (hp : x.partition ≠ p) :
    doQueueDestroy s p r = .done s stNotPermitted [] := by
  rw [doQueueDestroy]
  simp only [h]
  exact if_pos hp

theorem queueAt_freeQueue {s : State} (h : mapWf s.queues = true) (q status : Nat) : queueAt (freeQueue s q status) q = none :=
  mapGet_mapErase_same q (((endSessions_tablesKept ..).trans (descReadDone_tablesKept ..)).queues h)

/-- The state once a queue's commands have committed or ended. -/
def drainedQueue (s : State) (q : Nat) : State :=
  let s1 := finishCommits s (fun k _ _ => k == q)
  endCmds s1 (cmdsWhere s1 (fun k _ _ => k == q)) stAbortedReset

theorem drainedQueue_tablesKept (s : State) (q : Nat) : TablesKept s (drainedQueue s q) :=
  (finishCommits_tablesKept ..).trans (endCmds_tablesKept ..)

theorem doQueueDestroy_done {q : Nat} (hq : fieldAt r.payload 0 2 = q) (h : queueAt s q = some x) (hp : x.partition = p) :
    doQueueDestroy s p r = .done (freeQueue (drainedQueue s q) q stAbortedReset) stOk
      (((queueAt (drainedQueue s q) q).map accountingBytes).getD []) := by
  rw [doQueueDestroy]
  simp only [hq, h]
  exact if_neg (not_not_intro hp)

end

section
variable {s : State} {fn : BitVec 4} {f : Func} {r : MbxReq}

theorem queueCreate_done (hs : Serving s fn.toNat f r 0x05) {t : State} {st : Nat} {p : List Byte}
    (h : doQueueCreate s fn.toNat r = .done t st p) : exec (.queueCreate fn) s = .next (answer t fn.toNat r st p) := by
  rw [exec_queueCreate, execQueueCreate, runMbx_serving hs rfl, h]
  rfl

theorem queueDestroy_done (hs : Serving s fn.toNat f r 0x06) {t : State} {st : Nat} {p : List Byte}
    (h : doQueueDestroy s fn.toNat r = .done t st p) : exec (.queueDestroy fn) s = .next (answer t fn.toNat r st p) := by
  rw [exec_queueDestroy, execQueueDestroy, runMbx_serving hs rfl, h]
  rfl

end

/-- Settles O50: each request in service is carried out; what the stop of a partition runs keeps every function, and the end of a queue's
commands keeps the other contexts in order. -/
theorem partitionAndQueueRequests : Obligations.PartitionAndQueueRequests := by
  unfold Obligations.PartitionAndQueueRequests
  intro s fn f r n b item index who ans
  refine ⟨?info, ?caps, ?create, ?destroy, ?finish, ?queue, ?share, ?tiles, ?gone⟩
  case info =>
    intro hs
    refine ⟨getInfo_module hs, fun x hx => ⟨fun h => getInfo_partition hs h rfl hx, fun h => getInfo_boot hs h rfl hx⟩,
      fun x h hx => getInfo_queue hs h hx, getInfo_other hs⟩
  case caps =>
    intro hs
    exact ⟨getCaps_done hs, fun x hx h => ⟨getCapsSwitchV1_done hs h hx, getCapsSwitchV1_refused hs h hx⟩, getCapsSwitchV2_done hs⟩
  case create =>
    intro z hs hz c
    refine ⟨fun h => partitionCreate_done hs (doPartitionCreate_invalid rfl hz h), fun h1 h2 h3 h4 => ?_⟩
    have hboot := bootServers_booted (withPartition s z c) c.p
    obtain ⟨v, hv⟩ := hboot.own _ (partAt_withPartition_own s z c)
    have hzero := (hboot.other 0 (Ne.symm (createRanges_pos h1))).trans (partAt_withPartition_zero (createRanges_pos h1))
    exact ⟨_, _, _, partitionCreate_done hs (doPartitionCreate_done rfl hz h1 h2 h3 h4), hv, rfl, rfl, rfl, rfl, rfl, rfl, rfl, rfl, rfl,
      hzero, rfl, rfl, rfl, rfl, rfl, (funcAt_congr hboot.funcs _).trans (funcAt_withPartition s z c)⟩
  case destroy =>
    intro p hs
    refine ⟨partitionDestroy_invalid hs, fun h0 h15 hx => ?_⟩
    have hsome : (funcAt (stoppedPartition s p) n).isSome = true := by
      rw [isSome_funcAt_stoppedPartition, hs.func]
      rfl
    obtain ⟨g, hleaves⟩ := accepted_leaves r (fun q x => stoppedPartition_queues (s := s) (p := p)) (fun h => stoppedPartition_disabled) hsome
    exact ⟨_, g, partitionDestroy_accepted hs h0 h15 hx, hleaves⟩
  case finish =>
    intro p x z hp hm hwp hwf hx hz
    refine ⟨partAt_finishDestroy_same hx hz hwp, funcAt_finishDestroy_same hx hz hwf, ?_, memByte_finishDestroy hx hz hm⟩
    rw [partAt_finishDestroy_zero hp hx hz]
    rfl
  case queue =>
    intro scratch log2 desc cmpl pasid isLocal hs
    refine ⟨fun h => queueCreate_done hs (doQueueCreate_invalid h), ?_⟩
    intro h1 h2 h3 h4 h5 h6 h7 h8 hpasid hvec hdesc hcmpl hshare htiles hq
    obtain ⟨mask, hmask⟩ := Option.isSome_iff_exists.mp htiles
    obtain ⟨base, hbase⟩ : ∃ base, (if scratch = 0 then some 0 else freeShare s n scratch) = some base := by
      split
      · exact ⟨0, rfl⟩
      · rename_i h0
        exact Option.isSome_iff_exists.mp (hshare.resolve_left h0)
    refine ⟨_, describedQueue n b base mask,
      queueCreate_done hs (doQueueCreate_done h1 h2 h3 h4 h5 h6 h7 h8 hpasid hvec hdesc hcmpl hbase hmask hq),
      hq, mapGet_mapFree (by omega), rfl, rfl, rfl, rfl, rfl, rfl, rfl, rfl, rfl, rfl, rfl, rfl, rfl, rfl, fun h0 => ?_, hmask⟩
    rwa [if_neg h0] at hbase
  case share => exact fun k base h => freeShare_spec h
  case tiles => exact fun k m h => freeTiles_spec h
  case gone =>
    intro q hs
    refine ⟨fun h => queueDestroy_done hs (doQueueDestroy_none h), fun x h hp => queueDestroy_done hs (doQueueDestroy_other h hp), ?_⟩
    intro x h hp hw
    exact ⟨_, _, queueDestroy_done hs (doQueueDestroy_done rfl h hp), queueAt_freeQueue ((drainedQueue_tablesKept s q).queues hw) q _⟩

end Sys2Proof.Machine
end

section
/-! ### The integer operations of Table 6-7 (R206) -/

namespace Sys2Proof.Machine

/-- The smaller of two words as signed numbers. -/
theorem natToInt_atomicResult_minS (bits old x cmp : Nat) :
    natToInt bits (atomicResult .minS bits old x cmp) = min (natToInt bits old) (natToInt bits x) := by
  simp only [atomicResult, decide_eq_true_eq]
  split <;> omega

theorem natToInt_atomicResult_maxS (bits old x cmp : Nat) :
    natToInt bits (atomicResult .maxS bits old x cmp) = max (natToInt bits old) (natToInt bits x) := by
  simp only [atomicResult, decide_eq_true_eq]
  split <;> omega

/-- Settles O28: the unsigned rows are those of Table 6-7 as written; the signed ones keep the word that is the smaller or the larger
as a signed number. -/
theorem atomicOperations : Obligations.AtomicOperations := by
  unfold Obligations.AtomicOperations
  intro bits old x cmp _ _ _ _
  exact ⟨rfl, rfl, rfl, rfl, rfl, rfl, rfl, rfl, natToInt_atomicResult_minS .., natToInt_atomicResult_maxS ..⟩

end Sys2Proof.Machine
end

section
/-! ### Coherence requests at their home node (R189, R191, R196, R198, R202, R205) -/

namespace Sys2Proof.Machine

section
variable {s : State} {t : CohTxn} {m : Nat} {h : HomeNode}

theorem arriveTxn_accepted (ht : homeOf (lidAddr t.lid) = m) (hm : s.homes[m]? = some h) (hu : trackerUsed h < 488) :
    arriveTxn s t = acceptTxn s m t := by
  rw [arriveTxn]
  simp only [ht, hm, if_pos hu]

/-- A full tracker answers Retry and sets an entry aside, where the requester has none there yet (R202). -/
theorem arriveTxn_retried (ht : homeOf (lidAddr t.lid) = m) (hm : s.homes[m]? = some h) (hu : 488 ≤ trackerUsed h)
    (hr : ∀ r ∈ h.reservations, r.txn.agent ≠ t.agent) :
    arriveTxn s t = modHome s m (fun g => { g with
      retries := g.retries + 1, reservations := g.reservations ++ [{ txn := t, since := domCycles s (32 + m) }] }) := by
  have hnone : ¬ h.reservations.any (fun r => r.txn.agent == t.agent) = true := by simpa using hr
  rw [arriveTxn]
  simp only [ht, hm, if_neg (Nat.not_lt.mpr hu), if_neg hnone]

end

section
variable {s : State} {agent addr : Nat}

theorem cacheRequest_arrives {req : CohReq} {test : Option LineState → Bool} (ha : agent ≤ 8) (hn : lineNamed s addr = true)
    (ho : outstanding s agent (lidOf addr) = false) (ht : test ((cachedLine s agent (lidOf addr)).map (·.state)) = true) :
    cacheRequest s agent addr req test = arriveTxn s (newTxn s agent (lidOf addr) req) := by
  rw [cacheRequest]
  exact if_pos ⟨ha, hn, by rw [ho]; rfl, ht⟩

theorem plainRequest_arrives {t : CohTxn} (ha : agent ≤ 21) (hn : lineNamed s addr = true) (ho : outstanding s agent t.lid = false) :
    plainRequest s agent addr t = arriveTxn s t := by
  rw [plainRequest]
  exact if_pos ⟨ha, hn, by rw [ho]; rfl⟩

theorem atomicRequest_arrives {op : Nat} {o : AtomicOp} {wide : Bool} (operand cmp : Nat) (req : CohReq) (ha : agent ≤ 21)
    (hn : lineNamed s addr = true) (ho : outstanding s agent (lidOf addr) = false) (hop : atomicOfCode op = some o)
    (hal : addr % (if wide then 8 else 4) = 0) (hw : o.isFp = true → wide = false) :
    atomicRequest s agent addr op wide operand cmp req =
      arriveTxn s { newTxn s agent (lidOf addr) req with
        op := o, operand := operand, cmp := cmp, offset := addr % 64, size := if wide then 8 else 4 } := by
  have hok : ¬ (addr % (if wide then 8 else 4) ≠ 0 ∨ (o.isFp = true ∧ wide = true)) := by
    rintro (h | ⟨hf, hwide⟩)
    · exact h hal
    · rw [hw hf] at hwide
      cases hwide
  rw [atomicRequest]
  simp only [hop]
  exact (if_neg hok).trans (plainRequest_arrives ha hn ho)

/-- A holder that gives up its line marks it, sends the request, and ends its hold (R191, R199). -/
theorem giveUp_marks {req : CohReq} {test : LineState → Bool} {l : CacheLine} (ha : agent ≤ 8)
    (ho : outstanding s agent (lidOf addr) = false) (hl : cachedLine s agent (lidOf addr) = some l) (ht : test l.state = true)
    (hw : l.writeBack = false) :
    giveUp s agent addr req test =
      releaseHold (arriveTxn (setLine s agent (lidOf addr) { l with writeBack := true }) (newTxn s agent (lidOf addr) req)) agent
        (lidOf addr) := by
  rw [giveUp]
  simp only [hl]
  exact if_pos ⟨ha, ht, by rw [hw]; rfl, by rw [ho]; rfl⟩

end

/-- Settles O26: each request that its agent may send arrives at the home of its line, where it is accepted or answered with Retry. -/
theorem requestsReachTheirHome : Obligations.RequestsReachTheirHome := by
  unfold Obligations.RequestsReachTheirHome
  intro s agent addr h a lid m line hm hn ho arrives
  have hreach (i : Instr) (t : CohTxn) (hi : exec i s = .next (arriveTxn s t)) (hlid : t.lid = lid) (hagent : t.agent = a) :
      arrives i t := by
    have ht : homeOf (lidAddr t.lid) = m := by rw [hlid]
    exact ⟨fun hu => hi.trans (congrArg _ (arriveTxn_accepted ht hm hu)),
      fun hu hr => hi.trans (congrArg _ (arriveTxn_retried ht hm hu (hagent ▸ hr)))⟩
  refine ⟨fun ha hl => ⟨?rds, ?rdu⟩, fun ha hl => ?clnu, fun ha => ⟨?rdonce, fun mask data => ?wru, ?atomics⟩,
    fun l ha hl hw => ⟨fun hst => ?wbd, fun hst => ?evict⟩⟩
  case rds => exact hreach _ _ (congrArg _ (cacheRequest_arrives ha hn ho (Option.isNone_iff_eq_none.mpr hl))) rfl rfl
  case rdu => exact hreach _ _ (congrArg _ (cacheRequest_arrives ha hn ho (Option.isNone_iff_eq_none.mpr hl))) rfl rfl
  case clnu => exact hreach _ _ (congrArg _ (cacheRequest_arrives ha hn ho (decide_eq_true hl))) rfl rfl
  case rdonce => exact hreach _ _ (congrArg _ (plainRequest_arrives ha hn ho)) rfl rfl
  case wru => exact hreach _ _ (congrArg _ (plainRequest_arrives ha hn ho)) rfl rfl
  case atomics =>
    intro op o wide operand cmp hop hal hfp
    exact ⟨hreach _ _ (congrArg _ (atomicRequest_arrives _ _ _ ha hn ho hop hal hfp)) rfl rfl,
      hreach _ _ (congrArg _ (atomicRequest_arrives _ _ _ ha hn ho hop hal hfp)) rfl rfl⟩
  case wbd =>
    refine congrArg _ (giveUp_marks ha ho hl ?_ hw)
    rcases hst with hst | hst <;> rw [hst] <;> rfl
  case evict =>
    refine congrArg _ (giveUp_marks ha ho hl ?_ hw)
    rcases hst with hst | hst <;> rw [hst] <;> rfl

end Sys2Proof.Machine
end

section
/-! ### Responses, data, completions, acknowledgements, retries and reservations (R196, R197, R199, R201, R202) -/

namespace Sys2Proof.Machine

/-! #### Home nodes -/

/-- A home node changed holds what it was changed to. -/
theorem homes_modHome_same {s : State} {m : Nat} {h : HomeNode} (hm : s.homes[m]? = some h) (f : HomeNode → HomeNode) :
    (modHome s m f).homes[m]? = some (f h) := by
  obtain ⟨hlt, rfl⟩ := Vector.getElem?_eq_some_iff.mp hm
  simp [modHome, hlt]

/-- A home node that holds no request back starts none. -/
theorem settleHome_idle {s : State} {m : Nat} {h : HomeNode} (hm : s.homes[m]? = some h) (hw : h.waiting = []) : settleHome s m = s := by
  rw [settleHome, kickHome]
  simp [hm, hw]

/-! #### The commands -/

/-- A line with the dirty data that a response returns, if it returns any, written back. -/
def takeBack (s : State) (lid : Nat) : Option (BitVec 512) → State
  | some d => putLine s lid d
  | none => s

section
variable {s : State} {agent : BitVec 5} {addr : BitVec 56} {t : CohTxn}

/-- A snoop response is taken off its transaction; the last one lets the transaction go on (R197, R201). -/
theorem exec_snpresp_answered {x : Snoop}
    (hx : snoopAt s agent.toNat (lidOf addr.toNat) (fun y => y.stage == .answered) = some (t, x)) :
    exec (.snpresp agent addr) s = .next (
      let m := homeOf (lidAddr (lidOf addr.toNat))
      let s1 := takeBack s (lidOf addr.toNat) x.back
      let u := { t with snoops := t.snoops.filter (fun y => y.agent != agent.toNat) }
      let s2 := modHome (setTxn s1 m u) m (fun g => { g with snoopHeld := if x.afterHold then g.snoopHeld + 1 else g.snoopHeld })
      if u.snoops.isEmpty then settleHome (finishSnoops s2 m u) m else s2) := by
  change execSnpresp agent addr s = _
  rw [execSnpresp]
  simp only [hx]
  rfl

variable (ht : txnOf s agent.toNat (lidOf addr.toNat) = some t)
include ht

/-- Data of a cache agent's read installs the line; E and M hold it for 64 cycles (R201). -/
theorem exec_data_installs {d : BitVec 512} {g : LineState} (hack : t.acking = false) (hd : t.data = some d) (hg : t.grant = some g)
    (hreq : t.req = .rds ∨ t.req = .rdu ∨ t.req = .clnu) :
    exec (.data agent addr) s = .next (setTxn (setLine s agent.toNat (lidOf addr.toNat)
      { state := g, data := d, held := decide (g = .exclusive ∨ g = .modified), since := domCycles s (holdDomain agent.toNat),
        writeBack := false }) (homeOf (lidAddr (lidOf addr.toNat))) { t with acking := true }) := by
  change execData agent addr s = _
  rw [execData]
  rcases hreq with hreq | hreq | hreq <;> simp [ht, hack, hd, hg, hreq]

/-- Data of an uncached request only waits for its acknowledgement. -/
theorem exec_data_uncached {d : BitVec 512} (hack : t.acking = false) (hd : t.data = some d)
    (hreq : t.req = .rdonce ∨ t.req = .atmh ∨ t.req = .atmf) :
    exec (.data agent addr) s = .next (setTxn s (homeOf (lidAddr (lidOf addr.toNat))) { t with acking := true }) := by
  change execData agent addr s = _
  rw [execData]
  rcases hreq with hreq | hreq | hreq <;> simp [ht, hack, hd, hreq]

theorem exec_comp_upgrades {l : CacheLine} (hack : t.acking = false) (hready : t.ready = true) (hd : t.data = none)
    (hreq : t.req = .clnu) (hl : cachedLine s agent.toNat (lidOf addr.toNat) = some l) :
    exec (.comp agent addr) s = .next (setTxn (setLine s agent.toNat (lidOf addr.toNat)
      { l with state := t.grant.getD .exclusive, held := true, since := domCycles s (holdDomain agent.toNat) })
      (homeOf (lidAddr (lidOf addr.toNat))) { t with acking := true }) := by
  change execComp agent addr s = _
  rw [execComp]
  simp [ht, hack, hready, hd, hreq, hl]

/-- Comp frees the buffer of a line given up (R199). -/
theorem exec_comp_drops {l : CacheLine} (hack : t.acking = false) (hready : t.ready = true) (hd : t.data = none)
    (hreq : t.req = .wbd ∨ t.req = .evict) (hl : cachedLine s agent.toNat (lidOf addr.toNat) = some l) :
    exec (.comp agent addr) s = .next (setTxn (dropLine s agent.toNat (lidOf addr.toNat)) (homeOf (lidAddr (lidOf addr.toNat)))
      { t with acking := true }) := by
  change execComp agent addr s = _
  rw [execComp]
  rcases hreq with hreq | hreq <;> simp [ht, hack, hready, hd, hreq, hl]

theorem exec_comp_written (hack : t.acking = false) (hready : t.ready = true) (hd : t.data = none) (hreq : t.req = .wru) :
    exec (.comp agent addr) s = .next (setTxn s (homeOf (lidAddr (lidOf addr.toNat))) { t with acking := true }) := by
  change execComp agent addr s = _
  rw [execComp]
  simp [ht, hack, hready, hd, hreq]

/-- The acknowledgement of a write or of a line given up takes the transaction off its home node and writes the directory entry that the
transaction planned (R197). -/
theorem exec_compack_ends {h : HomeNode} (hm : s.homes[homeOf (lidAddr (lidOf addr.toNat))]? = some h) (hack : t.acking = true)
    (hs : t.snoops = []) (hw : h.waiting = []) (hreq : t.req = .wru ∨ t.req = .wbd ∨ t.req = .evict) :
    ∃ u g, exec (.compack agent addr) s = .next u ∧ u.homes[homeOf (lidAddr (lidOf addr.toNat))]? = some g
      ∧ g.txns = h.txns.filter (fun x => !(x.agent == agent.toNat && x.lid == lidOf addr.toNat))
      ∧ (t.afterState = none → g.dir = mapErase h.dir (lidOf addr.toNat))
      ∧ (∀ st, t.afterState = some st →
          (mapGet g.dir (lidOf addr.toNat)).map (fun e => (e.state, e.sharers, e.busy)) = some (st, t.afterSharers, false)) := by
  have hkept : ((t.req == .rds || t.req == .rdu || t.req == .clnu)
      && (cachedLine s agent.toNat (lidOf addr.toNat)).isNone) = false := by
    rcases hreq with hreq | hreq | hreq <;> rw [hreq] <;> rfl
  change ∃ u g, execCompack agent addr s = .next u ∧ _
  rw [execCompack]
  simp only [ht, hack, hs, hkept, Bool.not_true, List.isEmpty_nil, Bool.false_eq_true, or_self, if_false]
  generalize hf : (fun g : HomeNode => _) = f
  have hhome := homes_modHome_same hm f
  have hwait : (f h).waiting = [] := by rw [← hf]; exact hw
  refine ⟨_, f h, congrArg _ (settleHome_idle hhome hwait), hhome, ?_, fun hnone => ?_, fun st hst => ?_⟩
  · rw [← hf]
  · rw [← hf]
    simp [hnone]
  · rw [← hf]
    simp [hst]

omit ht

/-- Retry resends the request, which takes the entry set aside for it (R202). -/
theorem exec_retry_accepted {h : HomeNode} {r : Reservation} (hm : s.homes[homeOf (lidAddr (lidOf addr.toNat))]? = some h)
    (hr : h.reservations.find? (fun y => y.txn.agent == agent.toNat && y.txn.lid == lidOf addr.toNat) = some r) :
    exec (.retry agent addr) s = .next (acceptTxn (modHome s (homeOf (lidAddr (lidOf addr.toNat))) (fun g => { g with
      reservations := g.reservations.filter (fun y => y.txn.agent != agent.toNat) })) (homeOf (lidAddr (lidOf addr.toNat)))
      { r.txn with credit := true }) := by
  change execRetry agent addr s = _
  rw [execRetry]
  simp only [hm, Option.bind_some, hr]

theorem exec_reservationLapse_lapsed {home : BitVec 2} {h : HomeNode} {r : Reservation} (hm : s.homes[home.toNat]? = some h)
    (hr : h.reservations.find? (fun y => y.txn.agent == agent.toNat) = some r)
    (hold : 4096 ≤ (domCycles s (32 + home.toNat) - r.since).toNat) :
    exec (.reservationLapse home agent) s = .next (arriveTxn (modHome s home.toNat (fun g => { g with
      reservations := g.reservations.filter (fun y => y.txn.agent != agent.toNat), resvLapsed := g.resvLapsed + 1 })) r.txn) := by
  change execReservationLapse home agent s = _
  rw [execReservationLapse]
  simp only [hm, Option.bind_some, hr, if_pos hold]

end

/-- Settles O30: each event by what its command does with the transaction, the line and the home node. -/
theorem transactionsEnd : Obligations.TransactionsEnd := by
  unfold Obligations.TransactionsEnd
  intro s agent addr t h a lid m now hm
  refine ⟨fun x hx => exec_snpresp_answered hx, fun ht hack => ⟨fun d g hd hg hreq => exec_data_installs ht hack hd hg hreq,
      fun d hd hreq => exec_data_uncached ht hack hd hreq, fun hready hd => ⟨fun l hreq hl => exec_comp_upgrades ht hack hready hd hreq hl,
        fun l hreq hl => exec_comp_drops ht hack hready hd hreq hl, fun hreq => exec_comp_written ht hack hready hd hreq⟩⟩,
    fun ht hack hs hw hreq => exec_compack_ends ht hm hack hs hw hreq, fun r hr => exec_retry_accepted hm hr,
    fun home r hhome hr hold => ?_⟩
  rw [← hhome] at hm hold ⊢
  exact exec_reservationLapse_lapsed hm hr hold

end Sys2Proof.Machine
end

section
/-! ### Snoops at a cache agent (R197, R199, R201, R203) -/

namespace Sys2Proof.Machine

/-- A shared line of zeros that no hold keeps. -/
def twiceLine : CacheLine := { state := .shared, data := 0, held := false, since := 0, writeBack := false }

/-- A SnpInv on its way to the hub's cache agent. -/
def snoopToHub : Snoop := { agent := 8, kind := .invalidate, stage := .sent, afterHold := false, back := none }

/-- A write of line 0 whose home node snoops the hub's cache agent. -/
def snoopingTxn : CohTxn := { newTxn State.reset 0 0 .wru with snoops := [snoopToHub] }

/-- The module at reset with the hub's domain in RUN, the write's transaction at HN0, and the hub's table of lines naming line 0 twice. -/
def twiceCached : State :=
  { State.reset with
    domains := State.reset.domains.set 6 { State.reset.domains[6] with phase := .run },
    homes := State.reset.homes.set 0 { HomeNode.reset with txns := [snoopingTxn] },
    caches := [(8, [(0, twiceLine), (0, twiceLine)])] }

/-- Refutes O29: the statement admits a table of lines whose keys do not rise strictly. Where it names a line twice, SnpInv takes the first entry
away and the second one remains. -/
theorem not_snoopsAreAnswered : ¬ Obligations.SnoopsAreAnswered := by
  unfold Obligations.SnoopsAreAnswered
  intro h
  have hcached : cachedLine twiceCached 8 0 = some twiceLine := rfl
  have hdue : snoopAt twiceCached 8 0 (fun y => y.kind == .invalidate && y.stage == .sent) = some (snoopingTxn, snoopToHub) := rfl
  have hruns : domainRuns twiceCached 6 = true := by decide
  obtain ⟨-, -, hinvalidate, -⟩ := h twiceCached 8 0 snoopingTxn snoopToHub twiceLine hcached
  obtain ⟨u, hu, -, hgone⟩ := hinvalidate ⟨hdue, rfl, rfl, rfl⟩ hruns rfl
  have hleft : cachedLine u 8 0 = some twiceLine := by
    cases hu
    rfl
  cases hgone.symm.trans hleft

end Sys2Proof.Machine
end

section
/-! ### Operations of commits that reach no queue context -/

namespace Sys2Proof.Machine

@[simp] theorem telemetryPf0_queues (s : State) (ty : Nat) (body : List Byte) : (telemetryPf0 s ty body).queues = s.queues := by
  unfold telemetryPf0
  split
  · rfl
  · exact (ringWrite_memOnly ..).queues

@[simp] theorem journalWrite_queues (s : State) (p ty : Nat) (body : List Byte) : (journalWrite s p ty body).queues = s.queues :=
  (journalWrite_queues_holds ..).1

/-! #### Spills, signals and slots -/

@[simp] theorem applySpill_queues (s : State) (core : Nat) : (applySpill s core).queues = s.queues := by
  have hline (d : WgbDesc) (data : List Byte) (t : State) (i : Nat) : (applySpillLine t d data i).queues = t.queues := by
    simp [applySpillLine, apply_ite State.queues]
  unfold applySpill
  split
  · rfl
  · simp [apply_ite State.queues, addRecordLanes, addLanes, foldl_read (·.queues) (hline _ _)]

@[simp] theorem writePieces_queues (s : State) (l : List (Nat × Nat)) (bs : List Byte) : (writePieces s l bs).queues = s.queues := by
  induction l generalizing s bs with
  | nil => rfl
  | cons e l ih => simp [writePieces, ih]

@[simp] theorem applySignal_queues (s : State) (p q : Nat) (c : Cmd) : (applySignal s p q c).queues = s.queues := by
  unfold applySignal
  dsimp only
  split
  · rfl
  · split <;> simp

@[simp] theorem releaseSlots_queues (s : State) (fn : Nat) (bufs : List Buf) : (releaseSlots s fn bufs).queues = s.queues := by
  refine foldl_read (·.queues) (fun t b => ?_) bufs s
  split
  · split
    · simp [apply_ite State.queues]
    · rfl
  · rfl

@[simp] theorem countRemote_queues (s : State) (p : Nat) (c : Cmd) (r : Option (Nat × Nat)) :
    (countRemote s p c r).queues = s.queues := by
  cases r <;> simp [countRemote]

@[simp] theorem patchJournal_queues (s : State) (c : Cmd) (seq : Nat) : (patchJournal s c seq).queues = s.queues := by
  simp [patchJournal, apply_ite State.queues]

/-! #### Windows, chunks and migrations -/

@[simp] theorem switchMapping_queues (s : State) (p idx : Nat) (rebalance : Bool) (pm : Nat) :
    (switchMapping s p idx rebalance pm).queues = s.queues := by
  unfold switchMapping
  split
  · rfl
  · simp only [modJob_frame]
    split
    · rfl
    · split
      · rfl
      · refine foldl_read (·.queues) (fun t x => ?_) _ s
        simp [apply_ite State.queues, moveSlivers, journalOutcome]

@[simp] theorem closeWindow_queues (s : State) (p : Nat) : (closeWindow s p).queues = s.queues := by
  unfold closeWindow
  split
  · rfl
  · split
    · rfl
    · simp [apply_ite State.queues]

@[simp] theorem beginDemotion_queues (s : State) (p obj page : Nat) (src : MigSource) :
    (beginDemotion s p obj page src).queues = s.queues := by
  unfold beginDemotion
  split
  · rfl
  · split <;> rfl

@[simp] theorem promoteInto_queues (s : State) (p obj page frame : Nat) : (promoteInto s p obj page frame).queues = s.queues := by
  unfold promoteInto
  split <;> rfl

@[simp] theorem startMigration_queues (s : State) (p obj page : Nat) (dir : MigDir) (src : MigSource) :
    (startMigration s p obj page dir src).2.queues = s.queues := by
  unfold startMigration
  split
  case h_2 => rfl
  split
  · split <;> rfl
  · split
    · rfl
    · split
      · rfl
      · cases dir with
        | promote =>
          dsimp only
          split
          · rfl
          · split
            · rfl
            · split
              · simp
              · split
                · rfl
                · split <;> simp
        | demote =>
          dsimp only
          split
          · rfl
          · split
            · rfl
            · split <;> simp

@[simp] theorem offloadPages_queues (s : State) (p : Nat) (o : OpenStep) (x : Chunk) (dir : MigDir) :
    (offloadPages s p o x dir).queues = s.queues := by
  refine foldl_read (·.queues) (fun t e => ?_) _ s
  split
  · rfl
  · refine foldl_read (·.queues) (fun u k => ?_) _ t
    have h := startMigration_queues u p e.2.2 ((e.1 + x.i * e.2.1 - TieredObject.base ‹_›) / 65536 + k) dir .offload
    split
    all_goals
      rename_i heq
      rw [heq] at h
      exact h

@[simp] theorem chunkDone_queues (s : State) (p : Nat) (c : Cmd) : (chunkDone s p c).queues = s.queues := by
  have hnear (o : OpenStep) (l : List Chunk) (t : State) :
      (l.foldl (fun u y => offloadPages u p o y .promote) t).queues = t.queues :=
    foldl_read (·.queues) (fun u y => offloadPages_queues u p o y .promote) l t
  unfold chunkDone
  split
  · rfl
  · split
    · rfl
    · simp [apply_ite State.queues, hnear]

/-! #### The drip stream -/

theorem dripPut_queues {s t : State} {p : Nat} {r : List Byte} (h : dripPut s p r = some t) : t.queues = s.queues := by
  unfold dripPut at h
  split at h
  · cases h
  · rw [Option.ite_none_right_eq_some] at h
    obtain ⟨-, h⟩ := h
    cases h
    simp [apply_ite State.queues]

@[simp] theorem drainDrip_queues (s : State) (p : Nat) : (drainDrip s p).queues = s.queues := by
  have hready (n : Nat) (t : State) : (drainReady n t p).queues = t.queues := by
    induction n generalizing t with
    | zero => rfl
    | succ n ih =>
      rw [drainReady]
      split
      · rfl
      · split
        · rfl
        · split
          · rfl
          · rename_i hput
            have hkept := dripPut_queues hput
            rwa [ih]
  exact hready _ s

@[simp] theorem dripTable_queues (s : State) (p step id : Nat) : (dripTable s p step id).queues = s.queues := by
  unfold dripTable
  split
  · dsimp only
    split
    · refine foldl_read (·.queues) (fun u r => ?_) _ s
      rfl
    · rfl
  · rfl

/-! #### Commits of steps -/

@[simp] theorem haltJob_queues (s : State) (p code : Nat) : (haltJob s p code).queues = s.queues := by
  unfold haltJob
  split <;> simp

@[simp] theorem journalCommit_queues (s : State) (p : Nat) (j : Job) (decision status : Nat) (clip : Word32) :
    (journalCommit s p j decision status clip).queues = s.queues := journalWrite_queues ..

@[simp] theorem phaseRecord_queues (s : State) (p : Nat) (j : Job) (r : CommitRun) (o : OpenStep) (status : Nat) :
    (phaseRecord s p j r o status).queues = s.queues := by
  have hdrawn {f : List Byte × State → Nat → List Byte × State} (hf : ∀ acc d, (f acc d).2.queues = acc.2.queues) (l : List Nat)
      (acc : List Byte × State) : (l.foldl f acc).2.queues = acc.2.queues := by
    induction l generalizing acc with
    | nil => rfl
    | cons d l ih => exact (ih _).trans (hf acc d)
  unfold phaseRecord
  simp only [modJob_frame, telemetryPf0_queues]
  refine hdrawn (fun acc d => ?_) (List.range 8) ([], s)
  rfl

theorem writeScale_queues (s : State) (p step l : Nat) : (writeScale s p step l).queues = s.queues := by
  have hite {c : Prop} [Decidable c] {a b : State} (ha : a.queues = s.queues) (hb : b.queues = s.queues) :
      (if c then a else b).queues = s.queues := by
    split
    · exact ha
    · exact hb
  have hjob (t : State) (f : Job → Job) : (modJob t p f).queues = t.queues := rfl
  unfold writeScale
  split
  · rfl
  · refine hite ((hjob _ _).trans ?_) ((hjob _ _).trans ?_)
    · exact foldl_read (·.queues) (fun u k => (cohWrite_memOnly ..).queues) _ s
    · exact (cohWrite_memOnly ..).queues

@[simp] theorem commitWrites_queues (s : State) (p : Nat) : (commitWrites s p).queues = s.queues := by
  unfold commitWrites
  split
  · simp only [cohWrite_frame]
    exact foldl_read (·.queues) (fun t l => writeScale_queues ..) _ s
  · rfl

end Sys2Proof.Machine
end

section
/-! ### Owners of queue contexts: commits and ended commands leave each context with its partition and its kind -/

namespace Sys2Proof.Machine

/-- The partition of a queue context, and whether it is local. -/
def Queue.owner (x : Queue) : Nat × Bool := (x.partition, x.isLocal)

/-- The queue contexts of t are those of s, each of the same owner. -/
structure OwnersKept (s t : State) : Prop where
  owners : ∀ q, (queueAt t q).map Queue.owner = (queueAt s q).map Queue.owner

namespace OwnersKept

theorem of_eq {s t : State} (h : t.queues = s.queues) : OwnersKept s t := ⟨fun q => by rw [queueAt, h, queueAt]⟩

theorem refl (s : State) : OwnersKept s s := of_eq rfl

theorem trans {s t u : State} (a : OwnersKept s t) (b : OwnersKept t u) : OwnersKept s u :=
  ⟨fun q => (b.owners q).trans (a.owners q)⟩

theorem foldl {α : Type} {f : State → α → State} (h : ∀ t x, OwnersKept t (f t x)) (l : List α) (s : State) :
    OwnersKept s (l.foldl f s) := by
  induction l generalizing s with
  | nil => exact refl s
  | cons x l ih => exact (h s x).trans (ih (f s x))

end OwnersKept

theorem modQueue_ownersKept (s : State) (q : Nat) {f : Queue → Queue} (hf : ∀ x, (f x).owner = x.owner) :
    OwnersKept s (modQueue s q f) := by
  refine ⟨fun i => ?_⟩
  by_cases hi : i = q
  · subst hi
    simp only [queueAt, modQueue, mapGet_mapModify_same]
    cases mapGet s.queues i <;> simp [hf]
  · simp only [queueAt, modQueue, mapGet_mapModify_other _ _ hi]

/-! #### Records and accounts -/

theorem telemetryQueue_ownersKept (s : State) (q ty : Nat) (body : List Byte) : OwnersKept s (telemetryQueue s q ty body) := by
  unfold telemetryQueue
  split
  · exact .refl s
  · exact (OwnersKept.of_eq (ringWrite_memOnly ..).queues).trans (modQueue_ownersKept _ _ fun _ => rfl)

theorem account_ownersKept (s : State) (q : Nat) (c : Cmd) (committed : Bool) : OwnersKept s (account s q c committed) :=
  OwnersKept.trans (t := { s with free := s.free + 1 }) (.of_eq rfl) (modQueue_ownersKept _ _ fun _ => rfl)

theorem removeCmd_ownersKept (s : State) (q pos : Nat) : OwnersKept s (removeCmd s q pos) := modQueue_ownersKept _ _ fun _ => rfl

theorem writeCompletion_ownersKept (s : State) (q pos status result flags seq rccModule rccIndex rccTarget : Nat) :
    OwnersKept s (writeCompletion s q pos status result flags seq rccModule rccIndex rccTarget) := by
  unfold writeCompletion
  split
  · exact .refl s
  split
  · exact .refl s
  dsimp only
  have hrec (a : Nat) (bs : List Byte) : OwnersKept s (modQueue (moduleWrite s a bs) q (fun y => { y with records := y.records + 1 })) :=
    (OwnersKept.of_eq (moduleWrite_memOnly ..).queues).trans (modQueue_ownersKept _ _ fun _ => rfl)
  split
  · exact (hrec ..).trans (.of_eq (sendMsi_queues ..))
  split
  · exact hrec ..
  · exact (hrec ..).trans (.of_eq (sendMsix_queues ..))

/-! #### Commits -/

theorem dripRelease_ownersKept (s : State) (p q step decision : Nat) (tables : List Nat) (scale : List Byte) :
    OwnersKept s (dripRelease s p q step decision tables scale) := by
  have htables (l : List Nat) (t : State) : (l.foldl (fun u id => dripTable u p step id) t).queues = t.queues :=
    foldl_read (·.queues) (fun u id => dripTable_queues u p step id) l t
  unfold dripRelease
  split
  · exact .refl s
  split
  · exact .refl s
  split
  · exact .refl s
  extract_lets s1 s2 d2 mark complete s3 s4 s5 d5 body
  have h2 : s2.queues = s.queues := by simp [s2, s1, apply_ite State.queues, htables]
  have h5 : s5.queues = s.queues := by simp [s5, s4, s3, apply_ite State.queues, h2]
  split
  · exact (OwnersKept.of_eq ((telemetryPf0_queues ..).trans h5)).trans (telemetryQueue_ownersKept ..)
  · exact .of_eq h5

theorem commitAfter_ownersKept (s : State) (p status : Nat) : OwnersKept s (commitAfter s p status) := by
  unfold commitAfter
  split
  case h_2 => exact .refl s
  rename_i j r _ _
  have closed (decided : State) (h : OwnersKept s decided) (halt : Bool) (f : Job → Job) :
      OwnersKept s (if halt then haltJob (modJob decided p f) p 0x0A01 else modJob decided p f) :=
    h.trans (.of_eq (by simp [apply_ite State.queues]))
  cases j.step with
  | none => exact closed _ ((OwnersKept.of_eq (journalCommit_queues ..)).trans (dripRelease_ownersKept ..)) _ _
  | some o =>
    refine closed _ ?_ _ _
    refine OwnersKept.trans (OwnersKept.trans ?_ (.foldl (fun _ _ => telemetryQueue_ownersKept ..) _ _)) (.of_eq (phaseRecord_queues ..))
    exact (OwnersKept.of_eq (journalCommit_queues ..)).trans (dripRelease_ownersKept ..)

theorem signalled_queues (s : State) (q p result : Nat) (c : Cmd) :
    (if c.opcode = 0x11 then (applySignal s p q c, result) else (s, c.result)).1.queues = s.queues := by
  split
  · dsimp only
    exact applySignal_queues ..
  · rfl

theorem commitRest_ownersKept (s : State) (q p : Nat) (c : Cmd) : OwnersKept s (commitRest s q p c) := by
  unfold commitRest
  extract_lets s1 _
  split
  rename_i s2 result hsignal
  extract_lets s3 s4 _ s5 s6 _ _ s7 _ s9
  have h1 : s1.queues = s.queues := releaseSlots_queues ..
  have h2 : s2.queues = s1.queues := by
    rw [show s2 = _ from (congrArg Prod.fst hsignal).symm]
    exact signalled_queues ..
  have h4 : OwnersKept s3 s4 := .of_eq (by simp only [s4, apply_ite State.queues, commitWrites_queues, ite_self])
  have h6 : OwnersKept s4 s6 := .of_eq (by simp [s6, s5])
  have h7 : OwnersKept s6 s7 := (removeCmd_ownersKept ..).trans (.of_eq (countRemote_queues ..))
  have h9 : OwnersKept s7 s9 := (writeCompletion_ownersKept ..).trans (.of_eq (chunkDone_queues ..))
  have hall : OwnersKept s s9 := ((OwnersKept.of_eq (h2.trans h1)).trans (account_ownersKept ..)).trans ((h4.trans h6).trans (h7.trans h9))
  split
  · exact hall.trans (commitAfter_ownersKept ..)
  · exact hall

theorem finishCommits_ownersKept (s : State) (t : Nat → Queue → Cmd → Bool) : OwnersKept s (finishCommits s t) := by
  refine .foldl (fun u e => ?_) _ s
  unfold finishCommit
  split
  case h_2 => exact .refl u
  split
  · rename_i x c _ _ _
    have hspilled : (c.cores.foldl (fun v k => (List.range (v.spills.filter (fun r => r.core == k)).length).foldl
        (fun w _ => applySpill w k) v) u).queues = u.queues :=
      foldl_read (·.queues) (fun v k => foldl_read (·.queues) (fun w _ => applySpill_queues w k) _ v) _ u
    refine OwnersKept.trans (.of_eq ?_) (commitRest_ownersKept ..)
    refine (foldl_read (·.queues) (fun v k => ?_) _ _).trans hspilled
    rfl
  · exact .refl u

/-! #### Ended commands -/

theorem endCmds_ownersKept (s : State) (l : List (Nat × Nat)) (status : Nat) : OwnersKept s (endCmds s l status) := by
  refine .foldl (fun t e => ?_) l s
  unfold endCmd endCmdWith
  split
  case h_2 => exact .refl t
  rename_i x c _ _
  have hkilled : (c.cores.foldl killCore t).queues = t.queues := by
    refine foldl_read (·.queues) (fun v k => ?_) _ t
    rfl
  refine OwnersKept.trans (OwnersKept.trans (OwnersKept.trans (.of_eq hkilled) ?_) (removeCmd_ownersKept ..)) (writeCompletion_ownersKept ..)
  exact OwnersKept.trans (t := dropCommitRun (dropHolds (c.cores.foldl killCore t) e.1 e.2) x.partition e.1 e.2) (.of_eq rfl)
    (account_ownersKept ..)

/-- Freeing a queue context takes it away and leaves the others with their owners. -/
theorem freeQueue_owners {s : State} (h : mapWf s.queues = true) (q status : Nat) (i : Nat) :
    (queueAt (freeQueue s q status) i).map Queue.owner = if i = q then none else (queueAt s i).map Queue.owner := by
  split
  · rename_i hi
    rw [hi, queueAt_freeQueue h, Option.map_none]
  · rename_i hi
    have hread (t : State) : (descReadDone t q).queues = t.queues := by
      unfold descReadDone
      split <;> rfl
    refine (congrArg _ (mapGet_mapErase_other _ hi)).trans ?_
    rw [hread]
    exact (endCmds_ownersKept ..).owners i

/-- Queue contexts freed one after another are gone, and the others keep their owners. -/
theorem freeQueues_owners {s : State} (h : mapWf s.queues = true) (l : List Nat) (status i : Nat) :
    (queueAt (l.foldl (fun u q => freeQueue u q status) s) i).map Queue.owner
      = if i ∈ l then none else (queueAt s i).map Queue.owner := by
  induction l generalizing s with
  | nil => rfl
  | cons q l ih =>
    rw [List.foldl_cons, ih ((freeQueue_tablesKept s q status).queues h), freeQueue_owners h]
    by_cases hq : i = q <;> simp [hq]

end Sys2Proof.Machine
end

section
/-! ### Restarts of server cores (R231 to R233): the local queue contexts of their partition go, the others stay -/

namespace Sys2Proof.Machine

theorem putOwned_ownersKept (s : State) (p a : Nat) (bs : List Byte) : OwnersKept s (putOwned s p a bs) := by
  refine .foldl (fun t i => ?_) _ s
  split
  · exact .of_eq (cohWrite_memOnly ..).queues
  · exact .refl t

theorem loadComponent_queues (s : State) (c : Nat) : (loadComponent s c).1.queues = s.queues := by
  have htrial : (startTrial s c).queues = s.queues := by
    unfold startTrial
    dsimp only
    split
    · split
      · simp
      · simp [failTrial]
    · rfl
  unfold loadComponent
  dsimp only
  split <;> simp [htrial]

theorem holdHarts_ownersKept (s : State) (p : Nat) : OwnersKept s (holdHarts s p) := by
  unfold holdHarts
  exact .of_eq rfl

theorem drawFree_ownersKept {s t : State} {bound n : Nat} (h : drawFree s bound = (n, t)) : OwnersKept s t := by
  obtain ⟨-, rfl⟩ := Prod.mk.inj h
  exact .of_eq rfl

theorem drawBytes_ownersKept {s t : State} {n : Nat} {bs : List Byte} (h : drawBytes s n = (bs, t)) : OwnersKept s t := by
  obtain ⟨-, rfl⟩ := Prod.mk.inj h
  exact .of_eq rfl

theorem setBoot_ownersKept (s : State) (p step status : Nat) : OwnersKept s (setBoot s p step status) := .of_eq rfl

/-- The start of a partition's harts reaches no queue context. -/
theorem bootServers_ownersKept (s : State) (p : Nat) : OwnersKept s (bootServers s p) := by
  unfold bootServers
  extract_lets s0
  have h0 : OwnersKept s s0 := holdHarts_ownersKept s p
  have h1 : OwnersKept s0 (loadComponent s0 2).1 := .of_eq (loadComponent_queues s0 2)
  split
  · exact h0
  split
  · rename_i s1 hload
    rw [hload] at h1
    exact ((h0.trans h1).trans (.of_eq (by simp))).trans (setBoot_ownersKept ..)
  · rename_i s1 img hload
    rw [hload] at h1
    split
    rename_i hpage
    split
    rename_i hn
    split
    rename_i s4 hblob
    extract_lets base dt s5 own s6
    have h4 : OwnersKept s s4 :=
      ((h0.trans h1).trans (drawFree_ownersKept hpage)).trans ((drawFree_ownersKept hn).trans (drawBytes_ownersKept hblob))
    have h5 : OwnersKept s4 s5 := ((putOwned_ownersKept ..).trans (putOwned_ownersKept ..)).trans (setBoot_ownersKept ..)
    have h6 : OwnersKept s5 s6 := .of_eq rfl
    refine ((h4.trans h5).trans h6).trans (.foldl (fun t k => ?_) _ s6)
    split
    · exact .of_eq (by simp)
    · exact .refl t

/-- In a table in order, an entry listed at a key is the one read there. -/
theorem mem_iff_mapGet {α : Type} {m : SMap α} (h : mapWf m = true) (k : Nat) (v : α) : (k, v) ∈ m ↔ mapGet m k = some v := by
  have key : ∀ (m : SMap α) (lo : Nat), keysFrom lo m = true → ((k, v) ∈ m ↔ mapGet m k = some v) := by
    intro m
    induction m with
    | nil => simp [mapGet]
    | cons e m ih =>
      obtain ⟨j, w⟩ := e
      intro lo hm
      simp only [keysFrom, Bool.and_eq_true, decide_eq_true_eq] at hm
      obtain ⟨-, hm⟩ := hm
      by_cases hj : j = k
      · subst hj
        have hrest : (j, v) ∉ m := by
          rw [ih _ hm, mapGet_below hm (Nat.lt_succ_self j)]
          simp
        simp [mapGet, hrest, eq_comm]
      · simp [mapGet, hj, Ne.symm hj, ih _ hm]
  exact key m 0 ((mapWf_iff_keysFrom m).mp h)

/-- Destroying the queue contexts that pass a test takes them away, and the others keep their owners. -/
theorem destroyQueues_owners {s : State} (h : mapWf s.queues = true) (t : Nat → Queue → Bool) (status q : Nat) :
    (queueAt (destroyQueues s t status) q).map Queue.owner
      = if (queueAt s q).any (t q) = true then none else (queueAt s q).map Queue.owner := by
  have hlisted : q ∈ (s.queues.filter (fun e => t e.1 e.2)).map (·.1) ↔ (queueAt s q).any (t q) = true := by
    simp only [List.mem_map, List.mem_filter, Option.any_eq_true]
    constructor
    · rintro ⟨⟨k, x⟩, ⟨hx, ht⟩, rfl⟩
      exact ⟨x, (mem_iff_mapGet h k x).mp hx, ht⟩
    · rintro ⟨x, hx, ht⟩
      exact ⟨(q, x), ⟨(mem_iff_mapGet h q x).mpr hx, ht⟩, rfl⟩
  rw [destroyQueues, freeQueues_owners ((endCmds_tablesKept ..).queues h), (endCmds_ownersKept ..).owners]
  exact if_congr hlisted rfl rfl

/-- A restart takes the partition's local queue contexts away; every other context keeps its owner. -/
theorem restartServers_owners {s : State} (h : mapWf s.queues = true) (p q : Nat) :
    (queueAt (restartServers s p) q).map Queue.owner
      = if (queueAt s q).map Queue.owner = some (p, true) then none else (queueAt s q).map Queue.owner := by
  have hmine (o : Option Queue) : o.any (fun x => x.partition == p && x.isLocal) = true ↔ o.map Queue.owner = some (p, true) := by
    cases o <;> simp [Queue.owner]
  refine ((bootServers_ownersKept ..).owners q).trans ?_
  refine (destroyQueues_owners ((finishCommits_tablesKept ..).queues h) _ _ q).trans ?_
  rw [if_congr (hmine _) rfl rfl, (finishCommits_ownersKept ..).owners]

end Sys2Proof.Machine
end

section
/-! ### Registers and reservations of server cores (R215, R219) -/

namespace Sys2Proof.Machine

/-- Register i of a hart as an instruction reads it. -/
def hartX (s : State) (h i : Nat) : Word64 := ((s.harts[h]?).map (fun y => xReg y i)).getD 0

/-- The line that a hart has reserved. -/
def hartReservation (s : State) (h : Nat) : Option Nat := (s.harts[h]?).bind (·.reservation)

theorem harts_modHart_same {s : State} {h : Nat} (hh : h < 64) (f : Hart → Hart) :
    (modHart s h f).harts[h]? = (s.harts[h]?).map f := by
  simp [modHart, hh]

theorem hartX_modHart {s : State} {h : Nat} (hh : h < 64) (f : Hart → Hart) (i : Nat) :
    hartX (modHart s h f) h i = xReg (f s.harts[h]) i := by
  rw [hartX, harts_modHart_same hh, Vector.getElem?_eq_getElem hh]
  rfl

theorem hartX_eq {s : State} {h : Nat} (hh : h < 64) (i : Nat) : hartX s h i = xReg s.harts[h] i := by
  rw [hartX, Vector.getElem?_eq_getElem hh]
  rfl

theorem hartX_setXReg_same {s : State} {h i : Nat} (hh : h < 64) (hi : i < 32) (h0 : i ≠ 0) (v : Word64) :
    hartX (setXReg s h i v) h i = v := by
  rw [setXReg, hartX_modHart hh, if_neg h0, xReg, if_neg h0]
  simp [Vector.set!_eq_setIfInBounds, hi]

/-- A write of one register leaves the others, and x0, as they were. -/
theorem hartX_setXReg_other {s : State} {h i r : Nat} (hh : h < 64) (hr : r ≠ i ∨ r = 0) (v : Word64) :
    hartX (setXReg s h i v) h r = hartX s h r := by
  rw [setXReg, hartX_modHart hh, hartX_eq hh]
  split
  · rfl
  · rcases hr with hr | hr
    · simp [xReg, Vector.set!_eq_setIfInBounds, Vector.getElem?_setIfInBounds_ne (Ne.symm hr)]
    · rw [hr]
      rfl

theorem hartX_reserve {s : State} {h : Nat} (hh : h < 64) (l : Option Nat) (i : Nat) :
    hartX (modHart s h (fun y => { y with reservation := l })) h i = hartX s h i := by
  rw [hartX_modHart hh, hartX_eq hh]
  rfl

theorem hartReservation_reserve {s : State} {h : Nat} (hh : h < 64) (l : Option Nat) :
    hartReservation (modHart s h (fun y => { y with reservation := l })) h = l := by
  rw [hartReservation, harts_modHart_same hh, Vector.getElem?_eq_getElem hh]
  rfl

theorem setXReg_mem (s : State) (h i : Nat) (v : Word64) : (setXReg s h i v).mem = s.mem := by simp [setXReg]

/-! #### What a write of memory leaves -/

/-- A write of memory takes reservations of the harts and leaves their registers. -/
theorem hartX_cohWrite (s : State) (a : Nat) (bs : List Byte) (h i : Nat) : hartX (cohWrite s a bs) h i = hartX s h i := by
  have hclear (t : State) (n : Nat) : (clearPoison t a n).harts = t.harts := by
    unfold clearPoison
    split <;> rfl
  have hrefresh (t : State) (n : Nat) : (refreshFlights t a n).harts = t.harts := by
    unfold refreshFlights
    split <;> rfl
  have hdrop (t : State) (n : Nat) : hartX (dropReservations t a n) h i = hartX t h i := by
    unfold dropReservations
    split
    · rfl
    · simp only [hartX, Vector.getElem?_map, Option.map_map]
      congr 2
      funext y
      dsimp only [Function.comp]
      split
      · split <;> rfl
      · rfl
  unfold cohWrite
  rw [hartX, hclear]
  refine (hdrop _ _).trans ?_
  rw [hartX, hrefresh, putAt_harts, recallRange_harts, hartX]

/-- A write of an unheld range sends nothing to the host. -/
theorem cohWrite_unheld_hostOut {s : State} {a : Nat} {bs : List Byte} (h : Unheld s a bs.length) :
    (cohWrite s a bs).hostOut = s.hostOut := by
  have hclear (t : State) : (clearPoison t a bs.length).hostOut = t.hostOut := by
    unfold clearPoison
    split <;> rfl
  have hdrop (t : State) : (dropReservations t a bs.length).hostOut = t.hostOut := by
    unfold dropReservations
    split <;> rfl
  have hrefresh (t : State) : (refreshFlights t a bs.length).hostOut = t.hostOut := by
    unfold refreshFlights
    split <;> rfl
  simp only [cohWrite, recallRange_eq_self h.free, putAt_t1 h.usable, hclear, hdrop, hrefresh]

end Sys2Proof.Machine
end

section
/-! ### Writes and atomics of a partition on T1 memory that nothing disturbs (R42, R205 to R208) -/

namespace Sys2Proof.Machine

/-- A quiet range of partition p in sound memory, whose writes are not journaled and restart no copy. -/
structure Settled (s : State) (p a n : Nat) : Prop where
  ok : s.memOk = true
  quiet : Quiet s p a n
  still : NoRelayout s p
  silent : ∀ y, partAt s p = some y → y.journal.enable = 0

/-- The state t holds the n bytes of v at a, and every other byte of s. -/
def WroteAt (s t : State) (a n v : Nat) : Prop :=
  memBytes t.mem a n = natToBytes n v ∧ ∀ i, i < a ∨ a + n ≤ i → memByte t.mem i = memByte s.mem i

theorem wroteAt_of_mem {s t : State} {a n v : Nat} (ok : s.memOk = true) (h : t.mem = memPutBytes s.mem a (natToBytes n v)) :
    WroteAt s t a n v := by
  rw [WroteAt, h]
  exact memPutBytes_range (memWf_of_memOk ok) (natToBytes_length ..)

theorem Settled.endHolds {s : State} {p a n : Nat} (h : Settled s p a n) (f : Hold → Bool) : Settled (endHolds s f) p a n :=
  ⟨h.ok, (endHolds_charged 0 0 s f).quiet h.quiet, h.still, h.silent⟩

/-- An aligned or unaligned range in T1 is read as the number its bytes spell. -/
theorem bytesToNat_cohRead {s : State} {p a n : Nat} (h : Quiet s p a n) :
    bytesToNat (cohRead s a n) = fieldAt (memBytes s.mem a n) 0 n := by
  have hself := sliceBytes_self (memBytes s.mem a n)
  rw [memBytes_length] at hself
  rw [cohRead_unheld h.unheld, fieldAt, hself]

/-! #### What follows a write -/

theorem jobAt_modPart_kept (s : State) (p : Nat) {f : Partition → Partition} (hf : ∀ y, (f y).job = y.job) :
    jobAt (modPart s p f) p = jobAt s p := by
  simp only [jobAt, partAt_modPart_same]
  cases partAt s p with
  | none => rfl
  | some y => exact hf y

theorem markExternal_job (s : State) (p a n : Nat) : jobAt (markExternal s p a n) p = jobAt s p := by
  unfold markExternal
  split
  · exact jobAt_modPart_kept s p fun y => by split <;> rfl
  · rfl

theorem markExternal_frame (s : State) (p a n : Nat) :
    (markExternal s p a n).mem = s.mem ∧ (markExternal s p a n).harts = s.harts ∧ (markExternal s p a n).hostOut = s.hostOut := by
  unfold markExternal
  split <;> exact ⟨rfl, rfl, rfl⟩

/-- The marks that follow a write change neither memory nor a hart, and send nothing. -/
theorem touched_leaves {s : State} {p : Nat} (h : NoRelayout s p) (a n : Nat) :
    (restartTouched (markExternal s p a n) p a n).mem = s.mem ∧ (restartTouched (markExternal s p a n) p a n).harts = s.harts
    ∧ (restartTouched (markExternal s p a n) p a n).hostOut = s.hostOut := by
  have hstill : NoRelayout (markExternal s p a n) p := by rwa [NoRelayout, markExternal_job]
  rw [restartTouched_noRelayout hstill]
  exact markExternal_frame s p a n

/-! #### Atomics -/

theorem journalWrite_silent {s : State} {p : Nat} (h : ∀ y, partAt s p = some y → y.journal.enable = 0) (ty : Nat) (body : List Byte) :
    journalWrite s p ty body = s := by
  unfold journalWrite
  split
  · rfl
  · rename_i y hy
    exact if_pos (h y hy)

/-- An atomic whose partition journals nothing: the write, the counters of its home node, and for one that rounds its partition's journal
block (R207, R208). -/
theorem atomicApply_silent {s : State} {p : Nat} (h : ∀ y, partAt s p = some y → y.journal.enable = 0) (agent a n : Nat) (op : AtomicOp)
    (x cmp : Nat) (far : Bool) :
    let old := bytesToNat (cohRead s a n)
    let bs := natToBytes n (atomicResult op (8 * n) old (x % 2 ^ (8 * n)) (cmp % 2 ^ (8 * n)))
    ∃ f g, (∀ y, (g y).job = y.job)
      ∧ atomicApply s agent p a n op x cmp far
        = (old, if op.isFp then modPart (modHome (cohWrite s a bs) (homeOf a) f) p g else modHome (cohWrite s a bs) (homeOf a) f) := by
  intro old bs
  have hsilent (f : HomeNode → HomeNode) : ∀ y, partAt (modHome (cohWrite s a bs) (homeOf a) f) p = some y → y.journal.enable = 0 := by
    rw [partAt_congr (s := s) (by simp)]
    exact h
  unfold atomicApply
  extract_lets m s1 serial s2 body s3
  have hs3 : s3 = s2 := journalWrite_silent (hsilent _) _ _
  rw [hs3]
  refine ⟨_, _, fun y => ?_, rfl⟩
  split <;> rfl

/-- An atomic on a settled range reads the old word and writes the new one (R207); it touches no register of a hart and sends nothing. -/
theorem atomicApply_settled {s : State} {p a n : Nat} (h : Settled s p a n) (agent : Nat) (op : AtomicOp) (x cmp : Nat) (far : Bool) :
    let old := fieldAt (memBytes s.mem a n) 0 n
    let r := atomicApply s agent p a n op x cmp far
    r.1 = old
    ∧ r.2.mem = memPutBytes s.mem a (natToBytes n (atomicResult op (8 * n) old (x % 2 ^ (8 * n)) (cmp % 2 ^ (8 * n))))
    ∧ (∀ k i, hartX r.2 k i = hartX s k i) ∧ r.2.hostOut = s.hostOut ∧ NoRelayout r.2 p := by
  intro old r
  obtain ⟨f, g, hg, hr⟩ := atomicApply_silent h.silent agent a n op x cmp far
  rw [bytesToNat_cohRead h.quiet] at hr
  generalize hbs : natToBytes n (atomicResult op (8 * n) old (x % 2 ^ (8 * n)) (cmp % 2 ^ (8 * n))) = bs at hr
  have hunheld : Unheld s a bs.length := by
    rw [← hbs, natToBytes_length]
    exact h.quiet.unheld
  generalize hu : modHome (cohWrite s a bs) (homeOf a) f = u at hr
  have hmem : u.mem = memPutBytes s.mem a bs := by simp [← hu, (cohWrite_unheld hunheld).1]
  have hx (k i : Nat) : hartX u k i = hartX s k i := by
    rw [← hartX_cohWrite s a bs]
    simp [hartX, ← hu]
  have hout : u.hostOut = s.hostOut := by simpa [← hu] using cohWrite_unheld_hostOut hunheld
  have hstill : NoRelayout u p := h.still.congr (by simp [← hu])
  rw [show r = _ from hr]
  refine ⟨rfl, ?_⟩
  dsimp only
  split
  · exact ⟨hmem, hx, hout, by rwa [NoRelayout, jobAt_modPart_kept _ _ hg]⟩
  · exact ⟨hmem, hx, hout, hstill⟩

end Sys2Proof.Machine
end

section
/-! ### Accesses of server cores to memory (R205, R206, R215 to R219) -/

namespace Sys2Proof.Machine

/-! #### Stores -/

/-- A store to a settled range that the hub does not cache is a write of memory (R42). -/
theorem hartWrite_settled {s : State} {p a : Nat} {bs : List Byte} (h : Settled s p a bs.length) :
    (hartWrite s p a bs).mem = memPutBytes s.mem a bs ∧ ∀ k i, hartX (hartWrite s p a bs) k i = hartX s k i := by
  have hnone : cachedLine s 8 (lidOf a) = none := by
    have hle := h.quiet.usable.trans (usableBytes_le s)
    have hline : lidOf a ∈ lidsOf a bs.length := lidOf_mem_lidsOf (i := 0) hle h.quiet.nonempty
    exact (lineHeld_eq_false.mp (h.quiet.uncached _ hline)).1 8 (by decide)
  have hstill : NoRelayout (cohWrite s a bs) p := h.still.congr (cohWrite_memOnly ..).partitions
  obtain ⟨hmem, hharts, -⟩ := touched_leaves hstill a bs.length
  rw [hartWrite]
  simp only [hnone]
  refine ⟨hmem.trans (cohWrite_unheld h.quiet.unheld).1, fun k i => ?_⟩
  rw [hartX, hharts]
  exact hartX_cohWrite s a bs k i

/-! #### Which accesses reach memory -/

theorem lineReady_t1 {s : State} {a : Nat} (h : a < usableBytes s) : lineReady s (lidOf a) = true := by
  have hle := usableBytes_le s
  have hlid : lidOf a = a / 64 := by rw [lidOf, if_pos (Nat.lt_of_lt_of_le h (hle.trans (by decide)))]
  have haddr : lidAddr (lidOf a) = a / 64 * 64 := by
    rw [hlid, lidAddr, if_pos (by omega)]
  have hplace : placeOf s (lidAddr (lidOf a)) = .t1 (a / 64 * 64) := by
    rw [haddr]
    exact placeOf_t1 (by omega)
  simp only [lineReady, hplace]

/-- An access to a quiet range that has no fault of its own ends the holds that waited there and is done (R219). -/
theorem hartMemory_quiet {s : State} {p a n : Nat} (q : Quiet s p a n) {kind attr op : Nat} (hf : attrFault kind attr op n a = false)
    (h : Nat) (v : Word64) (rd : Nat) :
    ∃ f, hartMemory s h p kind attr op n a v rd = hartAccess (endHolds s f) h p kind attr op n a v rd := by
  have husable := q.usable
  have hlow : a < usableBytes s := by have := q.nonempty; omega
  obtain ⟨f, hready⟩ := tierReady_t1 p none true (kind != 1) q.usable
  refine ⟨f, ?_⟩
  have hsound : rangePoisoned (endHolds s f) a n = false := q.sound
  simp [hartMemory, hf, q.reachable, lineReady_t1 hlow, hready, hsound]

section
variable {s : State} {hart : BitVec 6} {a : BitVec 56} {size : BitVec 4} (hrel : s.harts[hart.toFin].released = true)
include hrel

/-- An access of a released hart to LPDDR5X addresses is one of memory (R33). -/
theorem exec_serverCoreAccess_lpddr (hn : 0 < size.toNat) (ha : a.toNat < usableBytes s) (kind attr : BitVec 2) (op : BitVec 4) (value : BitVec 64)
    (rd : BitVec 5) :
    exec (.serverCoreAccess hart kind attr op size a value rd) s
      = .next (hartMemory s hart.toNat (hartOwner s hart.toNat) kind.toNat attr.toNat op.toNat size.toNat a.toNat value rd.toNat) := by
  change execServerCoreAccess hart kind attr op size a value rd s = _
  have hsize : max 1 size.toNat = size.toNat := by omega
  simp only [execServerCoreAccess, hrel, decodeAddr_t1 ha, hsize, Bool.not_true, Bool.false_eq_true, if_false]

theorem exec_serverCoreAccess_unmapped (ha : decodeAddr s a.toNat = .unmapped) (kind attr : BitVec 2) (op : BitVec 4) (value : BitVec 64)
    (rd : BitVec 5) :
    exec (.serverCoreAccess hart kind attr op size a value rd) s
      = .next (hartFault s hart.toNat (if kind.toNat = 0 ∨ (kind.toNat = 3 ∧ op = 0) then 5 else 7) a.toNat) := by
  change execServerCoreAccess hart kind attr op size a value rd s = _
  simp only [execServerCoreAccess, hrel, ha, Bool.not_true, Bool.false_eq_true, if_false]

end

/-- A hart in reset makes no access. -/
theorem exec_serverCoreAccess_reset {s : State} {hart : BitVec 6} (hrel : s.harts[hart.toFin].released = false) (kind attr : BitVec 2)
    (op size : BitVec 4) (a : BitVec 56) (value : BitVec 64) (rd : BitVec 5) :
    exec (.serverCoreAccess hart kind attr op size a value rd) s = .next s := by
  change execServerCoreAccess hart kind attr op size a value rd s = _
  simp only [execServerCoreAccess, hrel, Bool.not_false, if_true]

/-! #### What each access does -/

section
variable {s : State} {h p a n : Nat} (hs : Settled s p a n) (hh : h < 64)
include hs hh

/-- A load reads its bytes and writes rd. -/
theorem hartAccess_load (attr op : Nat) (v : Word64) {rd : Nat} (hrd : rd < 32) :
    let t := hartAccess s h p 0 attr op n a v rd
    t.mem = s.mem ∧ (rd ≠ 0 → hartX t h rd = loadValue n (op == 0) (fieldAt (memBytes s.mem a n) 0 n))
    ∧ ∀ r, r ≠ rd ∨ r = 0 → hartX t h r = hartX s h r := by
  intro t
  have ht : t = setXReg s h rd (loadValue n (op == 0) (fieldAt (memBytes s.mem a n) 0 n)) := by
    rw [← bytesToNat_cohRead hs.quiet]
    rfl
  rw [ht]
  exact ⟨setXReg_mem .., fun h0 => hartX_setXReg_same hh hrd h0 _, fun r hr => hartX_setXReg_other hh hr _⟩

omit hh in
/-- A store writes its bytes and no register. -/
theorem hartAccess_store (attr op : Nat) (v : Word64) (rd : Nat) :
    let t := hartAccess s h p 1 attr op n a v rd
    WroteAt s t a n v.toNat ∧ ∀ r, hartX t h r = hartX s h r := by
  have hlen : (natToBytes n v.toNat).length = n := natToBytes_length ..
  obtain ⟨hmem, hx⟩ := hartWrite_settled (bs := natToBytes n v.toNat) (p := p) (a := a) (s := s) (by rwa [hlen])
  exact ⟨wroteAt_of_mem hs.ok hmem, fun r => hx h r⟩

omit hs in
/-- A word written to memory and a value written to rd after it. -/
theorem wroteAt_setXReg (ok : s.memOk = true) {u : State} {w rd : Nat} (hu : u.mem = memPutBytes s.mem a (natToBytes n w)) (hrd : rd < 32)
    (v : Word64) : WroteAt s (setXReg u h rd v) a n w ∧ (rd ≠ 0 → hartX (setXReg u h rd v) h rd = v) :=
  ⟨wroteAt_of_mem ok ((setXReg_mem ..).trans hu), fun h0 => hartX_setXReg_same hh hrd h0 v⟩

/-- An AMO of an integer operation writes the new word and returns the old one, in the cache or at its home node (R205, R206). -/
theorem hartAccess_amo {op : Nat} {o : AtomicOp} (ho : atomicOfCode op = some o) (attr : Nat) (v : Word64) {rd : Nat} (hrd : rd < 32) :
    let t := hartAccess s h p 2 attr op n a v rd
    let old := fieldAt (memBytes s.mem a n) 0 n
    WroteAt s t a n (atomicResult o (8 * n) old (v.toNat % 2 ^ (8 * n)) ((hartX s h rd).toNat % 2 ^ (8 * n)))
    ∧ (rd ≠ 0 → hartX t h rd = loadValue n true old) := by
  intro t old
  have hold : bytesToNat (cohRead s a n) = old := bytesToNat_cohRead hs.quiet
  have hcmp : ((s.harts[h]?).map (fun y => (xReg y rd).toNat)).getD 0 = (hartX s h rd).toNat := by
    rw [hartX, Vector.getElem?_eq_getElem hh]
    rfl
  by_cases hattr : attr = 0
  · generalize hw : atomicResult o (8 * n) old (v.toNat % 2 ^ (8 * n)) ((hartX s h rd).toNat % 2 ^ (8 * n)) = w
    have ht : t = setXReg (hartWrite s p a (natToBytes n w)) h rd (loadValue n true old) := by
      simp only [t, hartAccess, ho, hattr, hold, hcmp, hw, if_true]
    rw [ht]
    refine wroteAt_setXReg hh hs.ok (hartWrite_settled ?_).1 hrd _
    rwa [natToBytes_length]
  · generalize hr : atomicApply s (64 + h) p a n o (v.toNat % 2 ^ (8 * n)) ((hartX s h rd).toNat % 2 ^ (8 * n))
      (decide (attr = 2 ∧ a < 0x20000000000)) = r
    have hatomic := atomicApply_settled hs (64 + h) o (v.toNat % 2 ^ (8 * n)) ((hartX s h rd).toNat % 2 ^ (8 * n))
      (decide (attr = 2 ∧ a < 0x20000000000))
    rw [hr] at hatomic
    obtain ⟨hwas, hmem, -, -, hstill⟩ := hatomic
    rw [Nat.mod_mod, Nat.mod_mod] at hmem
    have ht : t = setXReg (restartTouched (markExternal r.2 p a n) p a n) h rd (loadValue n true r.1) := by
      simp only [t, hartAccess, ho, hattr, hcmp, hr, if_false]
    rw [ht, hwas]
    exact wroteAt_setXReg hh hs.ok ((touched_leaves hstill a n).1.trans hmem) hrd _

/-- LR reads its word and reserves its line. -/
theorem hartAccess_lr (attr : Nat) (v : Word64) {rd : Nat} (hrd : rd < 32) :
    let t := hartAccess s h p 3 attr 0 n a v rd
    t.mem = s.mem ∧ (rd ≠ 0 → hartX t h rd = loadValue n true (fieldAt (memBytes s.mem a n) 0 n))
    ∧ hartReservation t h = some (lidOf a) := by
  intro t
  have ht : t = modHart (setXReg s h rd (loadValue n true (fieldAt (memBytes s.mem a n) 0 n))) h
      (fun y => { y with reservation := some (lidOf a) }) := by
    rw [← bytesToNat_cohRead hs.quiet]
    rfl
  rw [ht]
  refine ⟨?_, fun h0 => ?_, hartReservation_reserve hh _⟩
  · simp [setXReg_mem]
  · rw [hartX_reserve hh, hartX_setXReg_same hh hrd h0]

/-- SC writes its word where its line is still reserved, and its hart reserves nothing after it. -/
theorem hartAccess_sc {op : Nat} (hop : op ≠ 0) (attr : Nat) (v : Word64) {rd : Nat} (hrd : rd < 32) :
    let t := hartAccess s h p 3 attr op n a v rd
    hartReservation t h = none
    ∧ (if hartReservation s h = some (lidOf a) then WroteAt s t a n v.toNat ∧ (rd ≠ 0 → hartX t h rd = 0)
        else t.mem = s.mem ∧ (rd ≠ 0 → hartX t h rd = 1)) := by
  intro t
  have hres : (s.harts[h]?).bind (·.reservation) = hartReservation s h := rfl
  have hkept (u : State) (i : Nat) (w : Word64) :
      (modHart (setXReg u h i w) h (fun y => { y with reservation := none })).mem = u.mem := by simp [setXReg_mem]
  by_cases hwon : hartReservation s h = some (lidOf a)
  · have ht : t = modHart (setXReg (hartWrite s p a (natToBytes n v.toNat)) h rd 0) h (fun y => { y with reservation := none }) := by
      simp only [t, hartAccess, hop, hres, hwon, if_true, if_false]
    rw [ht, if_pos hwon]
    have hlen : (natToBytes n v.toNat).length = n := natToBytes_length ..
    refine ⟨hartReservation_reserve hh _, wroteAt_of_mem hs.ok ((hkept ..).trans (hartWrite_settled (by rwa [hlen])).1), fun h0 => ?_⟩
    rw [hartX_reserve hh, hartX_setXReg_same hh hrd h0]
  · have ht : t = modHart (setXReg s h rd 1) h (fun y => { y with reservation := none }) := by
      simp only [t, hartAccess, hop, hres, hwon, if_false]
    rw [ht, if_neg hwon]
    refine ⟨hartReservation_reserve hh _, hkept .., fun h0 => ?_⟩
    rw [hartX_reserve hh, hartX_setXReg_same hh hrd h0]

end

end Sys2Proof.Machine
end

section
/-! ### Commands of server cores on memory: what each does, and which fault (R36, R206, R215, R218) -/

namespace Sys2Proof.Machine

/-! #### Faults -/

section
variable {s : State} {hart : BitVec 6} {a : BitVec 56} {size : BitVec 4} (hrel : s.harts[hart.toFin].released = true)
  (hn : 0 < size.toNat) (hu : a.toNat + size.toNat ≤ usableBytes s)
include hrel hn hu

/-- A misaligned AMO is an access fault of a store (R206). -/
theorem exec_amo_misaligned (ha : a.toNat % size.toNat ≠ 0) (attr : BitVec 2) (op : BitVec 4) (value : BitVec 64) (rd : BitVec 5) :
    exec (.serverCoreAccess hart 2 attr op size a value rd) s = .next (hartFault s hart.toNat 7 a.toNat) := by
  have hf : attrFault 2 attr.toNat op.toNat size.toNat a.toNat = true := by simp [attrFault, ha]
  rw [exec_serverCoreAccess_lpddr hrel hn (by omega)]
  exact congrArg _ (if_pos hf)

/-- A load or store of another partition's memory is counted there and is an access fault (R35, R36). -/
theorem exec_access_foreign {kind : BitVec 2} (hk : kind.toNat < 2)
    (hforeign : ownsT1 s (hartOwner s hart.toNat) a.toNat size.toNat = false) (attr : BitVec 2) (op : BitVec 4) (value : BitVec 64)
    (rd : BitVec 5) :
    exec (.serverCoreAccess hart kind attr op size a value rd) s
      = .next (hartFault (isoViolation s (hartOwner s hart.toNat)) hart.toNat (if kind.toNat = 0 then 5 else 7) a.toNat) := by
  have hlow : a.toNat < usableBytes s := by omega
  have hf : attrFault kind.toNat attr.toNat op.toNat size.toNat a.toNat = false := by
    have h2 : ¬ 2 ≤ kind.toNat := by omega
    have hne : kind.toNat ≠ 2 := by omega
    simp [attrFault, h2, hne]
  have hreach : reachCoherent s (hartOwner s hart.toNat) a.toNat size.toNat = false := by
    rw [reachCoherent, if_pos (Nat.lt_of_lt_of_le hlow (usableBytes_le s)), hforeign]
  have hfail : failAccess s (hartOwner s hart.toNat) a.toNat = isoViolation s (hartOwner s hart.toNat) := by
    simp only [failAccess, decodeAddr_t1 hlow]
  have hne : kind.toNat ≠ 3 := by omega
  rw [exec_serverCoreAccess_lpddr hrel hn hlow]
  simp [hartMemory, hf, hreach, hfail, hne]

end

/-! #### Accesses -/

section
variable {s : State} {hart : BitVec 6} {a : BitVec 56} {size : BitVec 4} (hrel : s.harts[hart.toFin].released = true)
  (hs : Settled s (hartOwner s hart.toNat) a.toNat size.toNat)
include hrel hs

theorem exec_serverCoreAccess_settled {kind attr : BitVec 2} {op : BitVec 4}
    (hf : attrFault kind.toNat attr.toNat op.toNat size.toNat a.toNat = false) (value : BitVec 64) (rd : BitVec 5) :
    ∃ f, exec (.serverCoreAccess hart kind attr op size a value rd) s = .next (hartAccess (endHolds s f) hart.toNat
      (hartOwner s hart.toNat) kind.toNat attr.toNat op.toNat size.toNat a.toNat value rd.toNat) := by
  have hpos := hs.quiet.nonempty
  have husable := hs.quiet.usable
  obtain ⟨f, hmem⟩ := hartMemory_quiet hs.quiet hf hart.toNat value rd.toNat
  exact ⟨f, (exec_serverCoreAccess_lpddr hrel hpos (by omega) ..).trans (congrArg _ hmem)⟩

theorem exec_load_settled (attr : BitVec 2) (op : BitVec 4) (value : BitVec 64) (rd : BitVec 5) :
    ∃ t, exec (.serverCoreAccess hart 0 attr op size a value rd) s = .next t ∧ t.mem = s.mem
      ∧ (rd ≠ 0 → hartX t hart.toNat rd.toNat
          = loadValue size.toNat (op == 0) (fieldAt (memBytes s.mem a.toNat size.toNat) 0 size.toNat))
      ∧ ∀ r : BitVec 5, r ≠ rd ∨ r = 0 → hartX t hart.toNat r.toNat = hartX s hart.toNat r.toNat := by
  obtain ⟨f, ht⟩ := exec_serverCoreAccess_settled hrel hs (kind := 0) (attr := attr) (op := op) rfl value rd
  obtain ⟨hmem, hrd, hother⟩ := hartAccess_load (hs.endHolds f) hart.isLt attr.toNat op.toNat value rd.isLt
  have hop : (op.toNat == 0) = (op == 0) := by
    rw [Bool.eq_iff_iff]
    simp [BitVec.toNat_eq]
  refine ⟨_, ht, hmem, fun h0 => ?_, fun r hr => hother _ ?_⟩
  · rw [← hop]
    exact hrd (by simpa [BitVec.toNat_eq] using h0)
  · simpa [BitVec.toNat_eq] using hr

theorem exec_store_settled (attr : BitVec 2) (op : BitVec 4) (value : BitVec 64) (rd : BitVec 5) :
    ∃ t, exec (.serverCoreAccess hart 1 attr op size a value rd) s = .next t ∧ WroteAt s t a.toNat size.toNat value.toNat
      ∧ ∀ r : BitVec 5, hartX t hart.toNat r.toNat = hartX s hart.toNat r.toNat := by
  obtain ⟨f, ht⟩ := exec_serverCoreAccess_settled hrel hs (kind := 1) (attr := attr) (op := op) rfl value rd
  obtain ⟨hw, hx⟩ := hartAccess_store (h := hart.toNat) (hs.endHolds f) attr.toNat op.toNat value rd.toNat
  exact ⟨_, ht, hw, fun r => hx r.toNat⟩

variable (hal : a.toNat % size.toNat = 0)
include hal

theorem exec_amo_settled {attr : BitVec 2} {op : BitVec 4} {o : AtomicOp} (ho : atomicOfCode op.toNat = some o) (hint : o.isFp = false)
    (hattr : attr = 0 ∨ 4 ≤ size.toNat) (value : BitVec 64) (rd : BitVec 5) :
    ∃ t, exec (.serverCoreAccess hart 2 attr op size a value rd) s = .next t
      ∧ WroteAt s t a.toNat size.toNat (atomicResult o (8 * size.toNat) (fieldAt (memBytes s.mem a.toNat size.toNat) 0 size.toNat)
          (value.toNat % 2 ^ (8 * size.toNat)) ((hartX s hart.toNat rd.toNat).toNat % 2 ^ (8 * size.toNat)))
      ∧ (rd ≠ 0 → hartX t hart.toNat rd.toNat
          = loadValue size.toNat true (fieldAt (memBytes s.mem a.toNat size.toNat) 0 size.toNat)) := by
  have hf : attrFault 2 attr.toNat op.toNat size.toNat a.toNat = false := by
    have hcached : ¬ (attr.toNat ≠ 0 ∧ size.toNat < 4) := by
      rintro ⟨hne, hsmall⟩
      rcases hattr with rfl | hlarge
      · exact hne rfl
      · omega
    simpa [attrFault, hal, ho, hint] using hcached
  obtain ⟨f, ht⟩ := exec_serverCoreAccess_settled hrel hs (kind := 2) hf value rd
  obtain ⟨hw, hrd⟩ := hartAccess_amo (hs.endHolds f) hart.isLt ho attr.toNat value rd.isLt
  exact ⟨_, ht, hw, fun h0 => hrd (by simpa [BitVec.toNat_eq] using h0)⟩

theorem exec_lr_settled (value : BitVec 64) (rd : BitVec 5) :
    ∃ t, exec (.serverCoreAccess hart 3 0 0 size a value rd) s = .next t ∧ t.mem = s.mem
      ∧ (rd ≠ 0 → hartX t hart.toNat rd.toNat
          = loadValue size.toNat true (fieldAt (memBytes s.mem a.toNat size.toNat) 0 size.toNat))
      ∧ hartReservation t hart.toNat = some (lidOf a.toNat) := by
  obtain ⟨f, ht⟩ := exec_serverCoreAccess_settled hrel hs (kind := 3) (attr := 0) (op := 0) (by simp [attrFault, hal]) value rd
  obtain ⟨hmem, hrd, hres⟩ := hartAccess_lr (hs.endHolds f) hart.isLt 0 value rd.isLt
  exact ⟨_, ht, hmem, fun h0 => hrd (by simpa [BitVec.toNat_eq] using h0), hres⟩

theorem exec_sc_settled {op : BitVec 4} (hop : op ≠ 0) (value : BitVec 64) (rd : BitVec 5) :
    ∃ t, exec (.serverCoreAccess hart 3 0 op size a value rd) s = .next t ∧ hartReservation t hart.toNat = none
      ∧ (if hartReservation s hart.toNat = some (lidOf a.toNat)
          then WroteAt s t a.toNat size.toNat value.toNat ∧ (rd ≠ 0 → hartX t hart.toNat rd.toNat = 0)
          else t.mem = s.mem ∧ (rd ≠ 0 → hartX t hart.toNat rd.toNat = 1)) := by
  obtain ⟨f, ht⟩ := exec_serverCoreAccess_settled hrel hs (kind := 3) (attr := 0) (op := op) (by simp [attrFault, hal]) value rd
  obtain ⟨hres, hdone⟩ := hartAccess_sc (hs.endHolds f) hart.isLt (op := op.toNat) (by simpa [BitVec.toNat_eq] using hop) 0 value rd.isLt
  have hkept : hartReservation (endHolds s f) hart.toNat = hartReservation s hart.toNat := rfl
  have hrd : rd ≠ 0 → rd.toNat ≠ 0 := fun h0 => by simpa [BitVec.toNat_eq] using h0
  rw [hkept] at hdone
  refine ⟨_, ht, hres, ?_⟩
  split at hdone
  · rename_i hwon
    rw [if_pos hwon]
    exact ⟨hdone.1, hdone.2 ∘ hrd⟩
  · rename_i hlost
    rw [if_neg hlost]
    exact ⟨hdone.1, hdone.2 ∘ hrd⟩

end

/-! #### Floating-point atomics -/

section
variable {s : State} {h rs1 : Nat} {a : Nat} (hh : h < 64) (hrel : s.harts[h].released = true) (ha : (hartX s h rs1).toNat % 2 ^ 56 = a)
include hh hrel ha

theorem amofadd_misaligned (hal : a % 4 ≠ 0) (attr rd rs2 : Nat) (op : AtomicOp) : amofadd s h attr rd rs1 rs2 op = hartFault s h 7 a := by
  rw [hartX_eq hh] at ha
  simp only [amofadd, Vector.getElem?_eq_getElem hh, hrel, ha]
  simp [hal]

/-- lxs.amofadd on a settled word writes the sum and returns the old word (R218). -/
theorem amofadd_settled (hal : a % 4 = 0) (hs : Settled s (hartOwner s h) a 4) (attr rs2 : Nat) {rd : Nat} (hrd : rd < 32) (op : AtomicOp) :
    let old := fieldAt (memBytes s.mem a 4) 0 4
    let t := amofadd s h attr rd rs1 rs2 op
    WroteAt s t a 4 (atomicResult op 32 old ((hartX s h rs2).toNat % 2 ^ 32) 0) ∧ (rd ≠ 0 → hartX t h rd = sextWord old) := by
  intro old t
  have husable := hs.quiet.usable
  have hle := usableBytes_le s
  have hcoh : isCoherent a = true := decide_eq_true (.inl (by omega))
  obtain ⟨f, hready⟩ := tierReady_t1 (hartOwner s h) none true true husable
  have hsound : rangePoisoned (endHolds s f) a 4 = false := hs.quiet.sound
  generalize hr : atomicApply (endHolds s f) (64 + h) (hartOwner s h) a 4 op ((hartX s h rs2).toNat % 2 ^ 32) 0
    (decide (attr = 2 ∧ a < 0x20000000000)) = r
  have hatomic := atomicApply_settled (hs.endHolds f) (64 + h) op ((hartX s h rs2).toNat % 2 ^ 32) 0
    (decide (attr = 2 ∧ a < 0x20000000000))
  rw [hr] at hatomic
  obtain ⟨hwas, hmem, -, -, hstill⟩ := hatomic
  rw [Nat.mod_mod, Nat.zero_mod] at hmem
  have ht : t = setXReg (restartTouched (markExternal r.2 (hartOwner s h) a 4) (hartOwner s h) a 4) h rd (sextWord r.1) := by
    have ha' : (xReg s.harts[h] rs1).toNat % 2 ^ 56 = a := by rwa [hartX_eq hh] at ha
    rw [hartX_eq hh] at hr
    simp only [t, amofadd, Vector.getElem?_eq_getElem hh, hrel, ha', hal, hcoh, hs.quiet.reachable, lineReady_t1 (s := s) (a := a) (by omega),
      hready, hsound, hr]
    rfl
  rw [ht, hwas]
  exact wroteAt_setXReg hh hs.ok ((touched_leaves hstill a 4).1.trans hmem) hrd _

end

section
variable {s : State} {hart : BitVec 6} {rs1 : BitVec 5} {a n : Nat} (hrel : s.harts[hart.toFin].released = true)
  (ha : (hartX s hart.toNat rs1.toNat).toNat % 2 ^ 56 = a) (hal : a % 4 = 0) (hn : n = 4) (hs : Settled s (hartOwner s hart.toNat) a n)
include hrel ha hal hn hs

theorem exec_lxsAmofaddS_settled (attr : BitVec 2) (rd rs2 : BitVec 5) :
    ∃ t, exec (.lxsAmofaddS hart attr rd rs1 rs2) s = .next t
      ∧ WroteAt s t a n (addF32 (BitVec.ofNat 32 (fieldAt (memBytes s.mem a n) 0 n)) ((hartX s hart.toNat rs2.toNat).setWidth 32)).toNat
      ∧ (rd ≠ 0 → hartX t hart.toNat rd.toNat = sextWord (fieldAt (memBytes s.mem a n) 0 n)) := by
  subst hn
  obtain ⟨hw, hrd⟩ := amofadd_settled hart.isLt hrel ha hal hs attr.toNat rs2.toNat rd.isLt .faddFp32
  have hx (x : Word64) : BitVec.ofNat 32 (x.toNat % 2 ^ 32) = x.setWidth 32 := by simp [BitVec.toNat_eq]
  rw [atomicResult, hx] at hw
  exact ⟨_, rfl, hw, fun h0 => hrd (by simpa [BitVec.toNat_eq] using h0)⟩

theorem exec_lxsAmofaddBf16x2_settled (attr : BitVec 2) (rd rs2 : BitVec 5) :
    let old := fieldAt (memBytes s.mem a n) 0 n
    let x := hartX s hart.toNat rs2.toNat
    ∃ t, exec (.lxsAmofaddBf16x2 hart attr rd rs1 rs2) s = .next t
      ∧ WroteAt s t a n (addBf16 (old % 65536) (x.toNat % 65536) + addBf16 (old / 65536) (x.toNat / 65536 % 65536) * 65536)
      ∧ (rd ≠ 0 → hartX t hart.toNat rd.toNat = sextWord old) := by
  intro old x
  subst hn
  obtain ⟨hw, hrd⟩ := amofadd_settled hart.isLt hrel ha hal hs attr.toNat rs2.toNat rd.isLt .faddBf16x2
  have hlow : x.toNat % 2 ^ 32 % 65536 = x.toNat % 65536 := by omega
  have hhigh : x.toNat % 2 ^ 32 / 65536 = x.toNat / 65536 % 65536 := by omega
  rw [atomicResult, hlow, hhigh] at hw
  exact ⟨_, rfl, hw, fun h0 => hrd (by simpa [BitVec.toNat_eq] using h0)⟩

end

end Sys2Proof.Machine
end

section
/-! ### Performance requests, the IOMMU interface and boot of server cores (R216, R228, R231 to R233) -/

namespace Sys2Proof.Machine

/-! #### Performance requests -/

/-- One cluster at the frequency that its harts ask for (R216). -/
def setCluster (s : State) (k : Nat) : State :=
  match clusterMhz s k with
  | none => s
  | some m => modDomain s (7 + k) (fun d => { d with mhz := m })

theorem setCluster_frame (s : State) (k : Nat) : (setCluster s k).harts = s.harts ∧ (setCluster s k).power = s.power := by
  unfold setCluster
  split <;> simp

theorem clusterMhz_setCluster (s : State) (k j : Nat) : clusterMhz (setCluster s k) j = clusterMhz s j := by
  obtain ⟨hharts, hpower⟩ := setCluster_frame s k
  rw [clusterMhz, hharts, hpower, clusterMhz]

theorem setClusters_harts (s : State) : (setClusters s).harts = s.harts :=
  foldl_read (·.harts) (fun t k => (setCluster_frame t k).1) _ s

theorem clusterMhz_setClusters (s : State) (j : Nat) : clusterMhz (setClusters s) j = clusterMhz s j :=
  foldl_read (clusterMhz · j) (fun t k => clusterMhz_setCluster t k j) _ s

/-- A cluster that is set, or was already set, to what its harts ask for stays so. -/
theorem domains_setCluster {s : State} {k j m : Nat} (hm : clusterMhz s j = some m) (hj : j < 4)
    (h : j = k ∨ (s.domains[7 + j]?).map (·.mhz) = some m) : ((setCluster s k).domains[7 + j]?).map (·.mhz) = some m := by
  by_cases hk : j = k
  · subst hk
    simp only [setCluster, hm, domainAt_modDomain_same]
    rw [Vector.getElem?_eq_getElem (by omega)]
    rfl
  · have hkept : (setCluster s k).domains[7 + j]? = s.domains[7 + j]? := by
      unfold setCluster
      split
      · rfl
      · unfold modDomain
        split
        · rename_i hlt
          exact Vector.getElem?_set_ne hlt (by omega)
        · rfl
    rw [hkept]
    exact h.resolve_left hk

/-- Each cluster with a running hart has the frequency that its harts ask for (R216). -/
theorem setClusters_mhz {s : State} {k m : Nat} (hk : k < 4) (hm : clusterMhz s k = some m) :
    ((setClusters s).domains[7 + k]?).map (·.mhz) = some m := by
  have key : ∀ (l : List Nat) (t : State), clusterMhz t k = some m → k ∈ l ∨ (t.domains[7 + k]?).map (·.mhz) = some m →
      ((l.foldl setCluster t).domains[7 + k]?).map (·.mhz) = some m := by
    intro l
    induction l with
    | nil => exact fun t _ h => h.resolve_left List.not_mem_nil
    | cons e l ih =>
      intro t ht h
      refine ih _ ((clusterMhz_setCluster t e k).trans ht) ?_
      rcases h with h | h
      · rcases List.mem_cons.mp h with rfl | h
        · exact .inr (domains_setCluster ht hk (.inl rfl))
        · exact .inl h
      · exact .inr (domains_setCluster ht hk (.inr h))
  exact key _ s hm (.inl (List.mem_range.mpr hk))

theorem clusterMhz_ge {s : State} {k m : Nat} (h : clusterMhz s k = some m) : 800 ≤ m := by
  unfold clusterMhz at h
  dsimp only at h
  split at h
  · cases h
  · cases h
    exact Nat.le_max_left ..

/-- A hart's request is kept within 0.8 to 3.2 GHz, and its cluster follows the highest (R216). -/
theorem exec_cppcRequest_kept {s : State} {hart : BitVec 6} (hrel : s.harts[hart.toFin].released = true) (mhz : BitVec 16) :
    ∃ t, exec (.cppcRequest hart mhz) s = .next t
      ∧ (t.harts[hart.toNat]?).map (·.desiredMhz) = some (max 800 (min 3200 (mhz.toNat / 100 * 100)))
      ∧ ∀ k, k < 4 → ∀ m, clusterMhz t k = some m → (t.domains[7 + k]?).map (·.mhz) = some m ∧ 800 ≤ m := by
  refine ⟨setClusters (modHart s hart.toNat (fun y => { y with desiredMhz := max 800 (min 3200 (mhz.toNat / 100 * 100)) })),
    ?_, ?_, fun k hk m hm => ?_⟩
  · change execCppcRequest hart mhz s = _
    simp only [execCppcRequest, hrel, if_true]
  · rw [setClusters_harts, harts_modHart_same hart.isLt, Vector.getElem?_eq_getElem hart.isLt]
    rfl
  · rw [clusterMhz_setClusters] at hm
    exact ⟨setClusters_mhz hk hm, clusterMhz_ge hm⟩

/-! #### The IOMMU interface -/

/-- The fields of an invalidation request lie in its value as Table 7-4 gives them. -/
theorem invalOf_eq (v : Word64) :
    invalOf v = { pasid := v.toNat % 2 ^ 20, all := v.getLsbD 20, region := v.getLsbD 21, va := v.toNat / 2 ^ 22 } := by
  have hlt := v.isLt
  rw [invalOf]
  simp only [IommuInval.mk.injEq]
  refine ⟨?_, ?_, ?_, ?_⟩
  · simp [natField]
  · rfl
  · rfl
  · rw [natField, Nat.shiftRight_eq_div_pow]
    exact Nat.mod_eq_of_lt (by omega)

theorem partAt_modServer (s : State) (p : Nat) (f : ServerRegs → ServerRegs) :
    partAt (modServer s p f) p = (partAt s p).map (fun x => { x with server := f x.server }) := partAt_modPart_same ..

theorem exec_iommuSyncRead_done {s : State} {hart : BitVec 6} {y : Partition} (hy : partAt s (hartOwner s hart.toNat) = some y) :
    ∃ t, exec (.iommuSyncRead hart) s = .next t
      ∧ (partAt t (hartOwner s hart.toNat)).map (fun z => (z.server.invals, z.server.pdtpActive)) = some ([], y.server.pdtp) := by
  refine ⟨syncIommu s (hartOwner s hart.toNat), rfl, ?_⟩
  rw [syncIommu, partAt_modServer, hy]
  rfl

/-! #### Boot -/

theorem mem_hartsOf {s : State} {p k : Nat} : k ∈ hartsOf s p ↔ k < 64 ∧ hartOwner s k = p := by
  simp [hartsOf]

/-- A partition's BOOT_STATUS is mirrored while one of its harts runs (R232). -/
theorem exec_bootStatusMirror_runs {s : State} {p : BitVec 4} {k : Nat} (hk : hartOwner s k = p.toNat)
    (hrel : (s.harts[k]?).map (·.released) = some true) (value : BitVec 64) :
    exec (.bootStatusMirror p value) s = .next (modServer s p.toNat (fun r => { r with boot := { r.boot with status := value } })) := by
  have hlt : k < 64 := by
    obtain ⟨y, hy, -⟩ := Option.map_eq_some_iff.mp hrel
    exact (Vector.getElem?_eq_some_iff.mp hy).1
  have hany : (hartsOf s p.toNat).any (fun h => ((s.harts[h]?).map (·.released)).getD false) = true :=
    List.any_eq_true.mpr ⟨k, mem_hartsOf.mpr ⟨hlt, hk⟩, by rw [hrel]; rfl⟩
  exact congrArg _ (if_pos hany)

theorem holdHarts_partitions (s : State) (p : Nat) : (holdHarts s p).partitions = s.partitions := by
  unfold holdHarts
  rfl

/-- Harts held in reset are not released. -/
theorem holdHarts_held {s : State} {p k : Nat} (hk : hartOwner s k = p) {z : Hart} (hz : (holdHarts s p).harts[k]? = some z) :
    z.released = false := by
  obtain ⟨hlt, rfl⟩ := Vector.getElem?_eq_some_iff.mp hz
  have hown : (hartsOf s p).contains k = true := List.contains_iff_mem.mpr (mem_hartsOf.mpr ⟨hlt, hk⟩)
  simp only [holdHarts, Vector.getElem_ofFn, hown, if_true]
  rfl

/-- Ten seconds after step 5 without an answer, the boot has failed and the partition's harts are held (R232). -/
theorem exec_serverBootTimeout_fails {s : State} {p : BitVec 4} {y : Partition} (hy : partAt s p.toNat = some y)
    (hstep : y.server.boot.step = 5) (hstatus : y.server.boot.status ≠ cp32 2) (hlate : 250000000 ≤ aonSince s y.server.boot.since)
    (htrial : (componentAt s 2).trying = false) :
    ∃ t, exec (.serverBootTimeout p) s = .next t ∧ (partAt t p.toNat).map (·.server.boot.status) = some (cp32 0xFFFF)
      ∧ ∀ k, hartOwner s k = p.toNat → ∀ z, t.harts[k]? = some z → z.released = false := by
  have hcomp : (componentAt (logError (setBoot (holdHarts s p.toNat) p.toNat 0 0xFFFF) 4 12 0x0504 p.toNat 0xFFFF 0 0 0) 2).trying = false := by
    simpa [componentAt, setBoot, holdHarts] using htrial
  refine ⟨logError (setBoot (holdHarts s p.toNat) p.toNat 0 0xFFFF) 4 12 0x0504 p.toNat 0xFFFF 0 0 0, ?_, ?_, fun k hk z hz => ?_⟩
  · change execServerBootTimeout p s = _
    simp only [execServerBootTimeout, hy]
    rw [if_pos ⟨hstep, hstatus, hlate⟩, hcomp]
    rfl
  · have hheld : partAt (holdHarts s p.toNat) p.toNat = some y := (partAt_congr (holdHarts_partitions ..) _).trans hy
    rw [partAt_congr (s := setBoot (holdHarts s p.toNat) p.toNat 0 0xFFFF) (by simp), setBoot, partAt_modPart_some hheld]
    rfl
  · exact holdHarts_held hk (by simpa [setBoot] using hz)

theorem exec_serverBootTimeout_booted {s : State} {p : BitVec 4} {y : Partition} (hy : partAt s p.toNat = some y)
    (hstatus : y.server.boot.status = cp32 2) : exec (.serverBootTimeout p) s = .next s := by
  change execServerBootTimeout p s = _
  simp only [execServerBootTimeout, hy]
  rw [if_neg (fun h => h.2.1 hstatus)]

/-! #### Restarts -/

/-- In t the local queue contexts of partition p in s are gone, and every other context of s is still there. -/
def Restarted (s t : State) (p : Nat) : Prop :=
  ∀ q x, queueAt s q = some x →
    (x.partition = p → x.isLocal = true → queueAt t q = none) ∧ (x.partition ≠ p ∨ x.isLocal = false → (queueAt t q).isSome = true)

theorem restartServers_restarted {s : State} (h : mapWf s.queues = true) (p : Nat) : Restarted s (restartServers s p) p := by
  intro q x hx
  have howner := restartServers_owners h p q
  rw [hx, Option.map_some] at howner
  refine ⟨fun hp hl => ?_, fun hne => ?_⟩
  · rw [if_pos (by rw [Queue.owner, hp, hl])] at howner
    exact Option.map_eq_none_iff.mp howner
  · have hnot : ¬ some x.owner = some (p, true) := by
      simp only [Queue.owner, Option.some.injEq, Prod.mk.injEq, not_and, Bool.not_eq_true]
      exact fun hp => hne.resolve_left (not_not_intro hp)
    rw [if_neg hnot] at howner
    rw [← Option.isSome_map (f := Queue.owner), howner]
    rfl

section
variable {s : State} {hart : BitVec 6} (hrel : s.harts[hart.toFin].released = true) (h : mapWf s.queues = true)
include hrel h

/-- A reboot of a hart restarts its partition's server cores (R233). -/
theorem exec_sbiSrstReboot_restarted :
    ∃ t, exec (.sbiSrstReboot hart) s = .next t ∧ Restarted s t (hartOwner s hart.toNat) :=
  ⟨restartServers s (hartOwner s hart.toNat), congrArg _ (if_pos hrel), restartServers_restarted h _⟩

/-- So does an internal error, once it is logged and signalled (R460). -/
theorem exec_serverCoreInternalError_restarted :
    ∃ t, exec (.serverCoreInternalError hart) s = .next t ∧ Restarted s t (hartOwner s hart.toNat) := by
  refine ⟨restartServers (raiseAplic (logError s 4 12 0x0501 (hartOwner s hart.toNat) 0xFFFF 0 0 hart.toNat) 3) (hartOwner s hart.toNat),
    congrArg _ (if_pos hrel), ?_⟩
  generalize hu : raiseAplic (logError s 4 12 0x0501 (hartOwner s hart.toNat) 0xFFFF 0 0 hart.toNat) 3 = u
  have hqueues : u.queues = s.queues := by simp [← hu]
  intro q x hx
  exact restartServers_restarted (by rwa [hqueues]) _ q x (by rwa [queueAt, hqueues])

end

end Sys2Proof.Machine
end

section
/-! ### AtomicOps of the host (R204 to R206, R361) -/

namespace Sys2Proof.Machine

theorem hostOp_eq {hop : BitVec 2} {o : AtomicOp} (h : hop = 0 ∧ o = .add ∨ hop = 1 ∧ o = .swap ∨ hop = 2 ∧ o = .cas) :
    hostOp hop.toNat = some o := by
  rcases h with ⟨rfl, rfl⟩ | ⟨rfl, rfl⟩ | ⟨rfl, rfl⟩ <;> rfl

section
variable {s : State} {fn : BitVec 4} {off : BitVec 36} {hop : BitVec 2} {k : BitVec 5} {f : Func} {m : Nat} {o : AtomicOp}
  (hl : linkServes s = true) (hf : funcAt s fn.toNat = some f) (hw : windowHit s f off.toNat = .memory m) (ho : hostOp hop.toNat = some o)
include hl hf hw ho

/-- An AtomicOp of another size or out of its alignment is unsupported. -/
theorem exec_hostAtomicop_unsupported (hk : k.toNat ≠ 4 ∧ k.toNat ≠ 8 ∨ m % k.toNat ≠ 0) (x cmp : BitVec 128) :
    exec (.hostAtomicop fn off hop k x cmp) s = .next (complete s 1 []) := by
  change execHostAtomicop fn off hop k x cmp s = _
  simp only [execHostAtomicop, hl, hf, hw, ho, Bool.not_true, Bool.false_eq_true, if_false, if_pos hk]

/-- An AtomicOp on a settled word that is no ownership word writes the new word and completes with the old one. -/
theorem exec_hostAtomicop_settled (hk : k.toNat = 4 ∨ k.toNat = 8) (hal : m % k.toNat = 0) (hslot : slotArrayAt f m = none)
    (hs : Settled s fn.toNat m k.toNat) (x cmp : BitVec 128) :
    let old := fieldAt (memBytes s.mem m k.toNat) 0 k.toNat
    ∃ t, exec (.hostAtomicop fn off hop k x cmp) s = .next t
      ∧ WroteAt s t m k.toNat (atomicResult o (8 * k.toNat) old (x.toNat % 2 ^ (8 * k.toNat)) (cmp.toNat % 2 ^ (8 * k.toNat)))
      ∧ t.hostOut = s.hostOut ++ [.completion 0 (natToBytes k.toNat old)] := by
  intro old
  have hok : ¬ (k.toNat ≠ 4 ∧ k.toNat ≠ 8 ∨ m % k.toNat ≠ 0) := by omega
  have hfree : ¬ ((slotArrayAt f m).isSome = true ∧ (!(decide (k.toNat = 8) && ownerWriteOk s m (natToBytes 8
      (atomicResult o (8 * k.toNat) (bytesToNat (cohRead s m k.toNat)) (x.toNat % 2 ^ (8 * k.toNat))
        (cmp.toNat % 2 ^ (8 * k.toNat)))))) = true) := by
    rw [hslot]
    exact fun h => absurd h.1 (by decide)
  generalize hr : atomicApply s 128 fn.toNat m k.toNat o x.toNat cmp.toNat false = r
  have hatomic := atomicApply_settled hs 128 o x.toNat cmp.toNat false
  rw [hr] at hatomic
  obtain ⟨hwas, hmem, -, hout, hstill⟩ := hatomic
  obtain ⟨htmem, -, htout⟩ := touched_leaves hstill m k.toNat
  refine ⟨complete (restartTouched (markExternal r.2 fn.toNat m k.toNat) fn.toNat m k.toNat) 0 (natToBytes k.toNat r.1), ?_, ?_, ?_⟩
  · change execHostAtomicop fn off hop k x cmp s = _
    simp only [execHostAtomicop, hl, hf, hw, ho, hr, hs.quiet.sound, Bool.not_true, Bool.false_eq_true, if_false, if_neg hok, if_neg hfree]
  · exact wroteAt_of_mem hs.ok (Eq.trans (by simp) (htmem.trans hmem))
  · rw [← hout, ← htout, hwas]
    rfl

end

end Sys2Proof.Machine
end

section
namespace Sys2Proof.Machine

/-- Settles O46: each access, request and boot event by the lemma about its command; a settled range is one that the statement calls quiet. -/
theorem serverCoresAndAtomics : Obligations.ServerCoresAndAtomics := by
  unfold Obligations.ServerCoresAndAtomics
  intro s hart a size op attr value rd rs1 rs2 h p n xAt old access keeps writes quiet
  have hsettled (hq : quiet) : Settled s p a.toNat n := ⟨hq.1, hq.2.1, hq.2.2.1, hq.2.2.2⟩
  refine ⟨fun hrel hn => ⟨fun hq => ⟨?load, ?store, fun hal => ⟨fun o ho hint hat => ?amo, fun hat hop => ?lr, fun hat hop => ?sc⟩⟩,
      fun hu => ⟨fun hal => ?misaligned, fun hforeign => ?foreign⟩, fun hun => ?unmapped, fun ha => ⟨fun hal => ?misalignedFp, fun hal hn4 hq => ?fp⟩⟩,
    fun hrel => ?reset, fun mhz hrel => ?cppc, ?inval, fun y hy => ?sync, ?restart, fun pp y hy => ⟨?mirror, ?timeout, ?booted⟩,
    fun fn off hop k x cmp f m o hl hf hw ho => ⟨fun hk => ?unsupported, fun hk hal hok hslot hq hr hj => ?hostAtomic⟩⟩
  case load => exact exec_load_settled hrel (hsettled hq) attr op value rd
  case store => exact exec_store_settled hrel (hsettled hq) attr op value rd
  case amo => exact exec_amo_settled hrel (hsettled hq) hal ho hint hat value rd
  case lr =>
    subst hat hop
    exact exec_lr_settled hrel (hsettled hq) hal value rd
  case sc =>
    subst hat
    exact exec_sc_settled hrel (hsettled hq) hal hop value rd
  case misaligned => exact exec_amo_misaligned hrel hn hu hal attr op value rd
  case foreign =>
    exact ⟨exec_access_foreign (kind := 0) hrel hn hu (by decide) hforeign attr op value rd,
      exec_access_foreign (kind := 1) hrel hn hu (by decide) hforeign attr op value rd⟩
  case unmapped =>
    exact ⟨exec_serverCoreAccess_unmapped (size := size) hrel hun 0 attr op value rd,
      exec_serverCoreAccess_unmapped (size := size) hrel hun 1 attr op value rd⟩
  case misalignedFp =>
    exact ⟨congrArg _ (amofadd_misaligned hart.isLt hrel ha hal ..), congrArg _ (amofadd_misaligned hart.isLt hrel ha hal ..)⟩
  case fp =>
    exact ⟨exec_lxsAmofaddS_settled hrel ha hal hn4 (hsettled hq) attr rd rs2,
      exec_lxsAmofaddBf16x2_settled hrel ha hal hn4 (hsettled hq) attr rd rs2⟩
  case reset =>
    exact ⟨exec_serverCoreAccess_reset hrel .., exec_serverCoreAccess_reset hrel .., exec_serverCoreAccess_reset hrel ..,
      exec_serverCoreAccess_reset hrel ..⟩
  case cppc => exact exec_cppcRequest_kept hrel mhz
  case inval =>
    rw [← invalOf_eq]
    rfl
  case sync => exact exec_iommuSyncRead_done hy
  case restart =>
    intro restarted hwf hrel
    exact ⟨exec_sbiSrstReboot_restarted hrel hwf, exec_serverCoreInternalError_restarted hrel hwf⟩
  case mirror =>
    rintro ⟨k, hk, hrel⟩
    exact exec_bootStatusMirror_runs hk hrel value
  case timeout => exact exec_serverBootTimeout_fails hy
  case booted => exact exec_serverBootTimeout_booted hy
  case unsupported => exact exec_hostAtomicop_unsupported hl hf hw (hostOp_eq ho) hk x cmp
  case hostAtomic =>
    obtain ⟨t, ht, ⟨hnew, hkept⟩, hout⟩ := exec_hostAtomicop_settled hl hf hw (hostOp_eq ho) hk hal hslot ⟨hok, hq, hr, hj⟩ x cmp
    exact ⟨t, ht, hnew, hout, hkept⟩

end Sys2Proof.Machine
end

section
/-! ### Mailboxes: framing, parking and answers (R235, R396 to R398) -/

namespace Sys2Proof.Machine

theorem exec_mailboxRequestServe (fn : BitVec 4) (s : State) : exec (.mailboxRequestServe fn) s = execMailboxRequestServe fn s := rfl
theorem exec_mailboxReread (fn : BitVec 4) (s : State) : exec (.mailboxReread fn) s = execMailboxReread fn s := rfl
theorem exec_mailboxLComplete (fn : BitVec 4) (pos : BitVec 32) (s : State) :
    exec (.mailboxLComplete fn pos) s = execMailboxLComplete fn pos s := rfl

/-! #### What records and messages leave of a function -/

theorem journalWrite_funcs (s : State) (p ty : Nat) (body : List Byte) : (journalWrite s p ty body).funcs = s.funcs := by
  obtain ⟨u, f, hu, h | h⟩ := journalWrite_reaches s p ty body
  · rw [h, hu.funcs]
  · rw [h, ← hu.funcs]
    rfl

theorem journalMbx_funcs (s : State) (fn : Nat) (f : Func) (r : MbxReq) (status : Nat) : (journalMbx s fn f r status).funcs = s.funcs := by
  unfold journalMbx
  dsimp only
  split
  · exact journalWrite_funcs ..
  · exact journalWrite_funcs ..

theorem msiSomewhere_funcs (s : State) (p : Nat) : (msiSomewhere s p).funcs = s.funcs := by
  unfold msiSomewhere
  dsimp only
  split
  · rfl
  · simp [drawFree]

section
variable {s : State} {fn : Nat} {f : Func}

/-- An MSI-X message touches the pending bits of its function alone. -/
theorem funcAt_sendMsix (hf : funcAt s fn = some f) (entry : Nat) : ∃ pba, funcAt (sendMsix s fn entry) fn = some { f with pba := pba } := by
  unfold sendMsix
  simp only [hf]
  split
  · split
    · refine ⟨if f.pba.contains entry then f.pba else f.pba ++ [entry], ?_⟩
      rw [funcAt_modFunc hf]
      split <;> rfl
    · exact ⟨f.pba, hf⟩
  · exact ⟨f.pba, hf⟩

theorem funcAt_modMbox_host (hf : funcAt s fn = some f) (g : Mailbox → Mailbox) :
    funcAt (modMbox s fn false g) fn = some { f with host := g f.host } := funcAt_modFunc hf _

theorem funcAt_modMbox_local (hf : funcAt s fn = some f) (g : Mailbox → Mailbox) :
    funcAt (modMbox s fn true g) fn = some { f with loc := g f.loc } := funcAt_modFunc hf _

/-! #### Responses and answers (R398) -/

/-- A function after a response of its host mailbox: the entry stands at the response tail, which has moved on. -/
def Func.responded (f : Func) (entry : List Byte) : Func :=
  { f with host := { f.host with rspTail := f.host.rspTail + 1 }, rspRing := mapSet f.rspRing (f.host.rspTail.toNat % 64) entry }

/-- A function after its request r has been answered. -/
def Func.without (f : Func) (r : MbxReq) : Func :=
  { f with inService := if f.inService = some r then none else f.inService, long := f.long.filter (· != r) }

theorem Func.without_idle (f : Func) (h : f.inService = none) (r : MbxReq) : (f.without r).inService = none := by simp [Func.without, h]

theorem Func.not_mem_without (f : Func) (r : MbxReq) : r ∉ (f.without r).long := by simp [Func.without]

theorem Func.without_long (f : Func) {r : MbxReq} (h : r ∉ f.long) : (f.without r).long = f.long :=
  List.filter_eq_self.mpr fun x hx => by simpa using ne_of_mem_of_not_mem hx h

theorem rspMessage_local (s : State) (fn : Nat) : rspMessage s fn true = msiSomewhere s fn := rfl

theorem writeResponse_host (hf : funcAt s fn = some f) (pos cmd tag status : Nat) (payload : List Byte) :
    ∃ pba, funcAt (writeResponse s fn false pos cmd tag status payload) fn
      = some { f.responded (mbxEntry (pos % 65536 + status * 65536) cmd tag payload) with pba := pba } := by
  unfold writeResponse
  simp only [hf]
  exact funcAt_sendMsix (funcAt_modMbox_host (funcAt_modFunc hf _) _) 0

theorem writeResponse_local (hf : funcAt s fn = some f) (pos cmd tag status : Nat) (payload : List Byte) :
    ∃ m, funcAt (writeResponse s fn true pos cmd tag status payload) fn = some { f with loc := m } := by
  unfold writeResponse
  simp only [hf, if_true]
  rw [rspMessage_local, funcAt_congr (msiSomewhere_funcs ..)]
  refine ⟨_, funcAt_modMbox_local ?_ _⟩
  rw [funcAt_congr (cohWrite_memOnly ..).funcs, funcAt_congr (cohWrite_memOnly ..).funcs, hf]

/-- An answer is a record, which no function sees, then the response, then the request's end. -/
theorem answer_eq (hf : funcAt s fn = some f) (r : MbxReq) (status : Nat) (payload : List Byte) :
    ∃ t, funcAt t fn = some f
      ∧ answer s fn r status payload
        = modFunc (writeResponse t fn r.isLocal r.pos r.cmd r.tag status payload) fn (fun g => g.without r) := by
  unfold answer
  simp only [hf]
  refine ⟨_, ?_, rfl⟩
  split
  · exact hf
  · exact (funcAt_congr (journalMbx_funcs ..) fn).trans hf

theorem answer_host (hf : funcAt s fn = some f) {r : MbxReq} (hl : r.isLocal = false) (status : Nat) (payload : List Byte) :
    ∃ pba, funcAt (answer s fn r status payload) fn
      = some { (f.without r).responded (mbxEntry (r.pos % 65536 + status * 65536) r.cmd r.tag payload) with pba := pba } := by
  obtain ⟨t, ht, heq⟩ := answer_eq hf r status payload
  obtain ⟨pba, hw⟩ := writeResponse_host ht r.pos r.cmd r.tag status payload
  rw [heq, hl]
  exact ⟨pba, funcAt_modFunc hw _⟩

theorem answer_local (hf : funcAt s fn = some f) {r : MbxReq} (hl : r.isLocal = true) (status : Nat) (payload : List Byte) :
    ∃ m, funcAt (answer s fn r status payload) fn = some { f.without r with loc := m } := by
  obtain ⟨t, ht, heq⟩ := answer_eq hf r status payload
  obtain ⟨m, hw⟩ := writeResponse_local ht r.pos r.cmd r.tag status payload
  rw [heq, hl]
  exact ⟨m, funcAt_modFunc hw _⟩

/-- An answered request is out of its function; one of the host ring has its entry at the response tail. -/
theorem answer_leaves (hf : funcAt s fn = some f) (hidle : f.inService = none) (r : MbxReq) (status : Nat) (payload : List Byte) :
    ∃ g, funcAt (answer s fn r status payload) fn = some g
      ∧ (r ∉ f.long → g.long = f.long) ∧ r ∉ g.long ∧ g.inService = none
      ∧ (r.isLocal = false → g.host = { f.host with rspTail := f.host.rspTail + 1 }
        ∧ mapGet g.rspRing (f.host.rspTail.toNat % 64) = some (mbxEntry (r.pos % 65536 + status * 65536) r.cmd r.tag payload)) := by
  cases hl : r.isLocal with
  | false =>
    obtain ⟨pba, hg⟩ := answer_host hf hl status payload
    exact ⟨_, hg, f.without_long, f.not_mem_without r, f.without_idle hidle r, fun _ => ⟨rfl, mapGet_mapSet_same ..⟩⟩
  | true =>
    obtain ⟨m, hg⟩ := answer_local hf hl status payload
    exact ⟨_, hg, f.without_long, f.not_mem_without r, f.without_idle hidle r, nofun⟩

/-! #### The header at the next position (R396, R397) -/

/-- The request that the entry at the host mailbox's next position spells. -/
def hostRequest (s : State) (fn : Nat) (f : Func) : MbxReq :=
  let e := reqEntry s fn f false f.host.next.toNat
  { isLocal := false, pos := f.host.next.toNat, cmd := fieldAt e 8 2, tag := fieldAt e 0x0C 4,
    payload := sliceBytes e 0x10 (min (fieldAt e 0x0A 2) 240) }

/-- What the header at the host mailbox's next position shows. -/
def hostVerdict (s : State) (fn : Nat) (f : Func) : Option (Nat × Bool) :=
  mbxVerdict f.host.next.toNat (reqEntry s fn f false f.host.next.toNat)

/-- The entry at the host mailbox's next position is a request that its function may make. -/
def HostRequestOk (s : State) (fn : Nat) (f : Func) : Prop :=
  let e := reqEntry s fn f false f.host.next.toNat
  hostVerdict s fn f = some (f.nextVersion, true) ∧ 1 ≤ fieldAt e 8 2 ∧ fieldAt e 8 2 ≤ 0x1F ∧ fieldAt e 0x0A 2 ≤ 240
    ∧ (f.nextVersion = 1 → mbxVersion1 (fieldAt e 8 2) = true)

/-- A function whose host mailbox has moved on to the next request. -/
def Func.advanced (f : Func) : Func :=
  { f with host := { f.host with next := f.host.next + 1, badReads := 0 }, lastLocal := false, version := f.nextVersion }

/-- In t function fn has turned away the request that s had next: it is answered INVALID and nothing is in service. -/
def Refused (s t : State) (fn : Nat) (f : Func) : Prop :=
  ∃ g, funcAt t fn = some g ∧ g.inService = none ∧ g.host.next = f.host.next + 1 ∧ g.host.rspTail = f.host.rspTail + 1
    ∧ mapGet g.rspRing (f.host.rspTail.toNat % 64)
      = some (mbxEntry ((hostRequest s fn f).pos % 65536 + stInvalid * 65536) (hostRequest s fn f).cmd (hostRequest s fn f).tag [])

/-- The state in which the host mailbox of function fn has moved on to the next request. -/
def advanceHost (s : State) (fn : Nat) : State :=
  modFunc (modMbox s fn false (fun y => { y with next := y.next + 1, badReads := 0 })) fn
    (fun g => { g with lastLocal := false, version := g.nextVersion })

theorem funcAt_advanceHost (hf : funcAt s fn = some f) : funcAt (advanceHost s fn) fn = some f.advanced :=
  funcAt_modFunc (funcAt_modMbox_host hf _) _

/-- A header that is written is taken; it is clean where it has the version in force and no reserved bit. -/
theorem readRequest_shown {v : Nat × Bool} (hv : hostVerdict s fn f = some v) :
    readRequest s fn f false
      = takeRequest s fn f false (reqEntry s fn f false f.host.next.toNat) (decide (hostVerdict s fn f = some (f.nextVersion, true))) := by
  obtain ⟨version, clean⟩ := v
  have hv' : mbxVerdict (mboxOf f false).next.toNat (reqEntry s fn f false (mboxOf f false).next.toNat) = some (version, clean) := hv
  unfold readRequest
  simp only [hv', hv, Option.some.injEq, Prod.mk.injEq]
  by_cases h : version = f.nextVersion
  · simp [h, mboxOf]
  · simp [h, mboxOf]

theorem takeRequest_ok (hok : HostRequestOk s fn f) :
    takeRequest s fn f false (reqEntry s fn f false f.host.next.toNat) (decide (hostVerdict s fn f = some (f.nextVersion, true)))
      = modFunc (advanceHost s fn) fn (fun g => { g with inService := some (hostRequest s fn f) }) := by
  obtain ⟨hv, hlow, hhigh, hlen, hver⟩ := hok
  exact if_pos ⟨decide_eq_true hv, hlow, hhigh, hlen, imp_iff_not_or.mp hver⟩

theorem takeRequest_bad (hbad : ¬ HostRequestOk s fn f) :
    takeRequest s fn f false (reqEntry s fn f false f.host.next.toNat) (decide (hostVerdict s fn f = some (f.nextVersion, true)))
      = answer (advanceHost s fn) fn (hostRequest s fn f) stInvalid [] :=
  if_neg fun ⟨hv, hlow, hhigh, hlen, hver⟩ => hbad ⟨of_decide_eq_true hv, hlow, hhigh, hlen, imp_iff_not_or.mpr hver⟩

/-- In t the request that function fn had next in s is in service, and memory is as it was. -/
def Served (s t : State) (fn : Nat) (f : Func) : Prop :=
  t.mem = s.mem ∧ funcAt t fn = some { f.advanced with inService := some (hostRequest s fn f) }

theorem readRequest_served (hf : funcAt s fn = some f) (hok : HostRequestOk s fn f) : Served s (readRequest s fn f false) fn f := by
  rw [readRequest_shown hok.1, takeRequest_ok hok]
  exact ⟨rfl, funcAt_modFunc (funcAt_advanceHost hf) _⟩

theorem readRequest_refused (hf : funcAt s fn = some f) (hidle : f.inService = none) {v : Nat × Bool} (hv : hostVerdict s fn f = some v)
    (hbad : ¬ HostRequestOk s fn f) : Refused s (readRequest s fn f false) fn f := by
  rw [readRequest_shown hv, takeRequest_bad hbad]
  obtain ⟨pba, hg⟩ := answer_host (funcAt_advanceHost hf) (r := hostRequest s fn f) rfl stInvalid []
  exact ⟨_, hg, Func.without_idle _ hidle _, rfl, rfl, mapGet_mapSet_same ..⟩

/-- A header that is not written yet is counted as one more failed read. -/
theorem readRequest_unwritten (hf : funcAt s fn = some f) (hv : hostVerdict s fn f = none) :
    (readRequest s fn f false).mem = s.mem
      ∧ funcAt (readRequest s fn f false) fn = some { f with host := { f.host with badReads := f.host.badReads + 1 } } := by
  have hv' : mbxVerdict (mboxOf f false).next.toNat (reqEntry s fn f false (mboxOf f false).next.toNat) = none := hv
  unfold readRequest
  simp only [hv']
  exact ⟨rfl, funcAt_modMbox_host hf _⟩

end

/-! #### Serving and rereading -/

/-- Function fn may be served, and a request waits in its host mailbox with room for the response. -/
structure HostWaiting (s : State) (fn : Nat) (f : Func) : Prop where
  func : funcAt s fn = some f
  running : inService s = true
  present : f.removal = false
  idle : f.inService = none
  waits : f.host.next ≠ f.host.tail
  unparked : f.host.parked = false
  room : rspRoom s fn f false = true

section
variable {s : State} {fn : BitVec 4} {f : Func} (hw : HostWaiting s fn.toNat f)
include hw

theorem HostWaiting.mayServe : mayServe s f = true := by simp [Machine.mayServe, hw.running, hw.idle, hw.present]

theorem HostWaiting.ready : mbxReady s fn.toNat f false = true := by simp [mbxReady, mboxOf, hw.waits, hw.unparked]

/-- After a request of the local ring it is the host ring's turn. -/
theorem exec_mailboxRequestServe_host (hb : f.host.badReads = 0) (hl : f.lastLocal = true) :
    exec (.mailboxRequestServe fn) s = .next (readRequest s fn.toNat f false) := by
  rw [exec_mailboxRequestServe, execMailboxRequestServe]
  simp [hw.func, hw.mayServe, hw.ready, hw.room, hl, hb, mboxOf]

theorem exec_mailboxReread_shown (hb : f.host.badReads ≠ 0) {v : Nat × Bool} (hv : hostVerdict s fn.toNat f = some v) :
    exec (.mailboxReread fn) s = .next (readRequest s fn.toNat f false) := by
  rw [hostVerdict] at hv
  rw [exec_mailboxReread, execMailboxReread]
  simp [hw.func, hw.mayServe, hw.ready, hw.room, hb, mboxOf, hv]

/-- A reread that fails again is counted; the ninth parks the mailbox at its position and answers DOORBELL_AHEAD. -/
theorem exec_mailboxReread_unwritten (hb : f.host.badReads ≠ 0) (hv : hostVerdict s fn.toNat f = none) :
    exec (.mailboxReread fn) s = .next (if f.host.badReads = 8 then
        writeResponse (modMbox s fn.toNat false (fun y => { y with parked := true, badReads := 0 })) fn.toNat false f.host.next.toNat
          (hostRequest s fn.toNat f).cmd (hostRequest s fn.toNat f).tag stDoorbellAhead []
      else modMbox s fn.toNat false (fun y => { y with badReads := y.badReads + 1 })) := by
  rw [hostVerdict] at hv
  rw [exec_mailboxReread, execMailboxReread]
  simp [hw.func, hw.mayServe, hw.ready, hw.room, hb, mboxOf, hv, hostRequest]

theorem exec_mailboxReread_waits (hb : f.host.badReads ≠ 0) (h8 : f.host.badReads ≠ 8) (hv : hostVerdict s fn.toNat f = none) :
    ∃ t, exec (.mailboxReread fn) s = .next t ∧ t.mem = s.mem
      ∧ funcAt t fn.toNat = some { f with host := { f.host with badReads := f.host.badReads + 1 } } := by
  rw [exec_mailboxReread_unwritten hw hb hv, if_neg h8]
  exact ⟨_, rfl, rfl, funcAt_modMbox_host hw.func _⟩

theorem exec_mailboxReread_parks (hb : f.host.badReads ≠ 0) (h8 : f.host.badReads = 8) (hv : hostVerdict s fn.toNat f = none) :
    ∃ t g, exec (.mailboxReread fn) s = .next t ∧ funcAt t fn.toNat = some g ∧ g.host.parked = true ∧ g.host.badReads = 0
      ∧ g.host.next = f.host.next ∧ g.host.rspTail = f.host.rspTail + 1
      ∧ mapGet g.rspRing (f.host.rspTail.toNat % 64)
        = some (mbxEntry (f.host.next.toNat % 65536 + stDoorbellAhead * 65536) (hostRequest s fn.toNat f).cmd
            (hostRequest s fn.toNat f).tag []) := by
  rw [exec_mailboxReread_unwritten hw hb hv, if_pos h8]
  obtain ⟨pba, hg⟩ := writeResponse_host (funcAt_modMbox_host hw.func (fun y => { y with parked := true, badReads := 0 }))
    f.host.next.toNat (hostRequest s fn.toNat f).cmd (hostRequest s fn.toNat f).tag stDoorbellAhead []
  exact ⟨_, _, rfl, hg, rfl, rfl, rfl, rfl, mapGet_mapSet_same ..⟩

end

/-! #### Long requests (R397) -/

section
variable {s : State} {fn : BitVec 4} {f : Func} {pos : BitVec 32} {l : MbxReq}

theorem exec_mailboxLComplete_found (hf : funcAt s fn.toNat = some f) (hrun : inService s = true)
    (hl : f.long.find? (fun y => y.pos == pos.toNat) = some l) (hroom : rspRoom s fn.toNat f l.isLocal = true) :
    (∀ t st b, longDone s fn.toNat l = .done t st b → exec (.mailboxLComplete fn pos) s = .next (answer t fn.toNat l st b))
      ∧ ∀ t, longDone s fn.toNat l = .wait t → exec (.mailboxLComplete fn pos) s = .next t := by
  rw [exec_mailboxLComplete, execMailboxLComplete]
  simp only [hf, hl]
  rw [if_neg (by simp [hrun, hroom])]
  exact ⟨fun t st b h => by rw [h], fun t h => by rw [h]⟩

end

/-! #### The statement -/

/-- Settles O48: the alternation, the reread and the long requests by the lemma about their command, and what an answer leaves by
the two kinds of response. -/
theorem mailboxFraming : Obligations.MailboxFraming := by
  unfold Obligations.MailboxFraming
  intro s fn f n m e cmd len r hf hrun hpresent hidle hwaits hunparked hroom good served refused
  have hw : HostWaiting s fn.toNat f := ⟨hf, hrun, hpresent, hidle, hwaits, hunparked, hroom⟩
  refine ⟨fun hb hl => ?serve, fun hb => ⟨?served, ?refused, ?unwritten, ?parked⟩, fun pos l hl hlroom => ?long, fun q st b => ?answer⟩
  case serve =>
    rw [exec_mailboxRequestServe_host hw hb hl]
    refine ⟨fun hok => ⟨_, rfl, readRequest_served hf hok⟩, fun v hv hbad => ?_, fun hv => ⟨_, rfl, ?_⟩⟩
    · obtain ⟨g, hg⟩ := readRequest_refused hf hidle hv hbad
      exact ⟨_, g, rfl, hg⟩
    · have hread := readRequest_unwritten hf hv
      rwa [show f.host.badReads = 0 from hb] at hread
  case served => exact fun hok => ⟨_, exec_mailboxReread_shown hw hb hok.1, readRequest_served hf hok⟩
  case refused =>
    intro v hv hbad
    obtain ⟨g, hg⟩ := readRequest_refused hf hidle hv hbad
    exact ⟨_, g, exec_mailboxReread_shown hw hb hv, hg⟩
  case unwritten => exact fun hv h8 => exec_mailboxReread_waits hw hb h8 hv
  case parked => exact fun hv h8 => exec_mailboxReread_parks hw hb h8 hv
  case long => exact exec_mailboxLComplete_found hf hrun hl hlroom
  case answer => exact answer_leaves hf hidle q st b

end Sys2Proof.Machine
end

section
/-! ### Re-layouts: their regions, one after another (R254 to R256) -/

namespace Sys2Proof.Machine

theorem exec_relayoutRegionStart (p : BitVec 4) (table : BitVec 16) (region : Nat) (s : State) :
    exec (.relayoutRegionStart p table region) s = execRelayoutRegionStart p table region s := rfl
theorem exec_relayoutRegionCopied (p : BitVec 4) (table : BitVec 16) (region : Nat) (s : State) :
    exec (.relayoutRegionCopied p table region) s = execRelayoutRegionCopied p table region s := rfl
theorem exec_relayoutRegionRestart (p : BitVec 4) (table : BitVec 16) (region : Nat) (s : State) :
    exec (.relayoutRegionRestart p table region) s = .next (restartRegion s p.toNat table.toNat region) := rfl
theorem exec_relayoutSwitchPoint (p : BitVec 4) (table : BitVec 16) (s : State) :
    exec (.relayoutSwitchPoint p table) s = if tableInUse s p.toNat table.toNat then .next s else .next (switchPoint s p.toNat table.toNat) :=
  rfl

/-! #### A partition's job and its tables -/

theorem jobAt_congr {s t : State} (h : t.partitions = s.partitions) (p : Nat) : jobAt t p = jobAt s p := by
  rw [jobAt, partAt_congr h, jobAt]

theorem tableAt_congr {s t : State} (h : t.partitions = s.partitions) (p id : Nat) : tableAt t p id = tableAt s p id := by
  rw [tableAt, jobAt_congr h, tableAt]

theorem jobAt_modJob (s : State) (p : Nat) (f : Job → Job) : jobAt (modJob s p f) p = (jobAt s p).map f := by
  rw [jobAt, modJob, partAt_modPart_same, jobAt]
  cases partAt s p <;> rfl

theorem tableAt_modTable (s : State) (p id : Nat) (f : EmbTable → EmbTable) : tableAt (modTable s p id f) p id = (tableAt s p id).map f := by
  rw [tableAt, modTable, jobAt_modJob, tableAt]
  cases jobAt s p with
  | none => rfl
  | some j => exact mapGet_mapModify_same ..

theorem putRelayout_memOnly (s : State) (r : Relayout) : MemOnly s (putRelayout s r) := (cohWrite_memOnly ..).trans (cohWrite_memOnly ..)

theorem putRegion_memOnly (s : State) (r : Relayout) (j : Nat) : MemOnly s (putRegion s r j) := by
  unfold putRegion
  split
  · exact .refl s
  · exact cohWrite_memOnly ..

/-- The region of a table's re-layout. -/
def relayoutRegion (s : State) (p id j : Nat) : Option Region := ((tableAt s p id).bind (·.relayout)).bind (fun r => r.regions[j]?)

theorem relayoutRegion_congr {s t : State} (h : t.partitions = s.partitions) (p id j : Nat) :
    relayoutRegion t p id j = relayoutRegion s p id j := by
  rw [relayoutRegion, tableAt_congr h, relayoutRegion]

theorem relayoutRegion_modChannel (s : State) (c : Nat) (f : Channel → Channel) (p id j : Nat) :
    relayoutRegion (modChannel s c f) p id j = relayoutRegion s p id j := relayoutRegion_congr (by simp) ..

/-! #### Regions that move -/

/-- No region but a copied one moves: no channel is busy. -/
theorem movingRegions_nil {r : Relayout} (h : ∀ (i : Nat) g, r.regions[i]? = some g → g.state = .moving → g.copied = true) :
    (r.regions.zipIdx).filter (fun g => g.1.state == .moving && !g.1.copied) = [] := by
  refine List.filter_eq_nil_iff.mpr fun ⟨g, i⟩ hg => ?_
  have hcopied := h i g (List.mem_zipIdx_iff_getElem?.mp hg)
  simpa using hcopied

section
variable {s : State} {p : Nat} {id region : Nat} {t : EmbTable} {r : Relayout} {g : Region}
variable (ht : tableAt s p id = some t) (hr : t.relayout = some r) (hg : r.regions[region]? = some g)
include ht hr hg

theorem relayoutRegion_modRegionEntry (f : Region → Region) : relayoutRegion (modRegionEntry s p id region f) p id region = some (f g) := by
  simp only [modRegionEntry, ht, Option.bind_some, hr]
  rw [relayoutRegion_congr (putRegion_memOnly ..).partitions, relayoutRegion, tableAt_modTable, ht]
  simp [hg]

/-- A write to a MOVING region restarts its copy, which is the fourth attempt at most (R255). -/
theorem restartRegion_restarts (hrun : r.status = .running) (hm : g.state = .moving) (hn : g.restarts < 3) :
    relayoutRegion (restartRegion s p id region) p id region = some { g with copied := false, restarts := g.restarts + 1 } := by
  simp only [restartRegion, ht, hr, hg]
  rw [if_pos ⟨hrun, hm, hn⟩, relayoutRegion_modChannel]
  exact relayoutRegion_modRegionEntry ht hr hg _

/-- The fourth attempt is not restarted: its writes are paused (R255). -/
theorem restartRegion_paused (hn : 3 ≤ g.restarts) : restartRegion s p id region = s := by
  simp only [restartRegion, ht, hr, hg]
  exact if_neg fun h => Nat.not_le.mpr h.2.2 hn

end

section
variable {s : State} {p : BitVec 4} {table : BitVec 16} {region : Nat} {t : EmbTable} {r : Relayout} {g : Region}
variable (ht : tableAt s p.toNat table.toNat = some t) (hr : t.relayout = some r) (hg : r.regions[region]? = some g)
variable (hrun : r.status = .running)

include ht hr hg hrun

/-- The next region in order starts to move where no other is being copied (R254). -/
theorem exec_relayoutRegionStart_next (hhome : g.state = if r.revert then .new else .old)
    (hfirst : ∀ (i : Nat) h, i < region → r.regions[i]? = some h → h.state ≠ if r.revert then .new else .old)
    (hcopied : ∀ (i : Nat) h, r.regions[i]? = some h → h.state = .moving → h.copied = true) :
    exec (.relayoutRegionStart p table region) s
      = .next (modRegionEntry s p.toNat table.toNat region (fun _ => { state := .moving, copied := false, restarts := 0 })) := by
  obtain ⟨hlt, hget⟩ := List.getElem?_eq_some_iff.mp hg
  have hnext : r.regions.findIdx? (fun g => g.state == if r.revert then .new else .old) = some region := by
    refine List.findIdx?_eq_some_iff_getElem.mpr ⟨hlt, by simp [hget, hhome], fun i hi => ?_⟩
    simpa using hfirst i _ hi (List.getElem?_eq_getElem (hi.trans hlt))
  rw [exec_relayoutRegionStart, execRelayoutRegionStart]
  simp only [ht, hr]
  exact if_pos ⟨hrun, hnext, by simp [movingRegions_nil hcopied]⟩

/-- A MOVING region whose rows are at hand is copied row by row and marked (R254). -/
theorem exec_relayoutRegionCopied_ready (hm : g.state = .moving) (hc : g.copied = false) {src dst : TableDesc}
    (hsrc : src = if r.revert then r.newDesc else t.desc) (hdst : dst = if r.revert then t.desc else r.newDesc) {u : State}
    (hready : tierReady s p.toNat none false true ((regionRows t region).map (fun w => (slotAddr s p.toNat src w, src.slot))
      ++ (regionRows t region).map (fun w => (slotAddr s p.toNat dst w, dst.slot))) = .ready u) :
    exec (.relayoutRegionCopied p table region) s
      = .next (modRegionEntry ((regionRows t region).foldl (fun w row => copyRow w p.toNat src dst row) u) p.toNat table.toNat region
          (fun x => { x with copied := true })) := by
  subst hsrc hdst
  rw [exec_relayoutRegionCopied, execRelayoutRegionCopied]
  simp only [ht, hr, hg]
  rw [if_neg (by simp [hrun, hm, hc]), hready]

end

/-! #### The statement -/

/-- Settles O42: each event of a region by what its command does with the region's entry. -/
theorem relayoutRegions : Obligations.RelayoutRegions := by
  unfold Obligations.RelayoutRegions
  intro s p table region t r g pn id entry home ht hr hrun hg
  refine ⟨?start, ?copied, ?restarts, ?paused, ?used, ?unused⟩
  case start =>
    intro hhome hfirst hcopied
    exact ⟨_, exec_relayoutRegionStart_next ht hr hg hrun hhome hfirst hcopied, relayoutRegion_modRegionEntry ht hr hg _⟩
  case copied =>
    intro src dst rows hm hc u hready
    exact exec_relayoutRegionCopied_ready ht hr hg hrun hm hc rfl rfl hready
  case restarts =>
    intro hm hn
    exact ⟨_, exec_relayoutRegionRestart .., restartRegion_restarts ht hr hg hrun hm hn⟩
  case paused =>
    intro _ hn
    rw [exec_relayoutRegionRestart, restartRegion_paused ht hr hg hn]
  case used =>
    intro h
    rw [exec_relayoutSwitchPoint, if_pos h]
  case unused =>
    intro h
    rw [exec_relayoutSwitchPoint, if_neg (Bool.eq_false_iff.mp h)]

end Sys2Proof.Machine
end

section
/-! ### Jobs stay: what reads, records and answers of the MP leave of the partitions' jobs (R174, R397, R401, R472) -/

namespace Sys2Proof.Machine

/-- The partitions of t are those of s, each with its job. -/
structure JobsKept (s t : State) : Prop where
  jobs : ∀ q, (partAt t q).map (·.job) = (partAt s q).map (·.job)

namespace JobsKept

theorem of_eq {s t : State} (h : t.partitions = s.partitions) : JobsKept s t := ⟨fun q => by rw [partAt_congr h]⟩

theorem refl (s : State) : JobsKept s s := of_eq rfl

theorem trans {s t u : State} (a : JobsKept s t) (b : JobsKept t u) : JobsKept s u := ⟨fun q => (b.jobs q).trans (a.jobs q)⟩

theorem ite {s t u : State} {c : Prop} [Decidable c] (ht : JobsKept s t) (hu : JobsKept s u) : JobsKept s (if c then t else u) := by
  split
  · exact ht
  · exact hu

theorem foldl {α : Type} {f : State → α → State} (h : ∀ t x, JobsKept t (f t x)) (l : List α) (s : State) : JobsKept s (l.foldl f s) := by
  induction l generalizing s with
  | nil => exact refl s
  | cons x l ih => exact (h s x).trans (ih (f s x))

theorem part {s t : State} (h : JobsKept s t) (q : Nat) : (partAt t q).isSome = (partAt s q).isSome := by
  simpa using congrArg Option.isSome (h.jobs q)

theorem job {s t : State} (h : JobsKept s t) (q : Nat) : jobAt t q = jobAt s q := by
  simpa [Option.join, Option.bind_map, Function.comp_def, jobAt] using congrArg Option.join (h.jobs q)

theorem table {s t : State} (h : JobsKept s t) (q id : Nat) : tableAt t q id = tableAt s q id := by rw [tableAt, h.job, tableAt]

end JobsKept

theorem MemOnly.jobsKept {s t : State} (h : MemOnly s t) : JobsKept s t := .of_eq h.partitions

theorem modPart_jobsKept (s : State) (p : Nat) {f : Partition → Partition} (hf : ∀ x, (f x).job = x.job) : JobsKept s (modPart s p f) := by
  refine ⟨fun q => ?_⟩
  by_cases hq : q = p
  · subst hq
    rw [partAt_modPart_same, Option.map_map]
    exact congrArg (Option.map · _) (funext hf)
  · simp only [partAt, modPart, mapGet_mapModify_other _ _ hq]

theorem modFunc_jobsKept (s : State) (fn : Nat) (f : Func → Func) : JobsKept s (modFunc s fn f) := .of_eq rfl

theorem modObject_jobsKept (s : State) (p obj : Nat) (f : TieredObject → TieredObject) : JobsKept s (modObject s p obj f) :=
  modPart_jobsKept _ _ fun _ => rfl

theorem modMig_jobsKept (s : State) (p obj page : Nat) (f : Migration → Migration) : JobsKept s (modMig s p obj page f) :=
  modPart_jobsKept _ _ fun _ => rfl

theorem putMapEntry_jobsKept (s : State) (o : TieredObject) (page frame : Nat) (st : PageState) (gen : Nat) :
    JobsKept s (putMapEntry s o page frame st gen) := .of_eq rfl

/-! #### Records and answers -/

theorem journalWrite_jobsKept (s : State) (p ty : Nat) (body : List Byte) : JobsKept s (journalWrite s p ty body) := by
  unfold journalWrite
  split
  · exact .refl s
  dsimp only
  split
  · exact .refl s
  refine JobsKept.trans (JobsKept.trans ?_ (moduleWrite_memOnly ..).jobsKept) (modPart_jobsKept _ _ fun _ => rfl)
  split
  · exact (moduleWrite_memOnly ..).jobsKept
  · exact ((moduleWrite_memOnly ..).trans (moduleWrite_memOnly ..)).jobsKept

theorem inputRecord_jobsKept (s : State) (p b m : Nat) : JobsKept s (inputRecord s p b m) :=
  (journalWrite_jobsKept ..).trans (modPart_jobsKept _ _ fun _ => rfl)

theorem journalInput_jobsKept (s : State) (p a n : Nat) : JobsKept s (journalInput s p a n) := by
  unfold journalInput
  split
  · exact .refl s
  refine .ite (.refl s) (.ite ?_ (.ite (inputRecord_jobsKept ..) (.refl s)))
  exact (JobsKept.foldl (fun t g => inputRecord_jobsKept ..) _ s).trans (modPart_jobsKept _ _ fun _ => rfl)

theorem markExternal_jobsKept (s : State) (p a n : Nat) : JobsKept s (markExternal s p a n) :=
  .ite (modPart_jobsKept _ _ fun _ => by split <;> rfl) (.refl s)

theorem msiSomewhere_jobsKept (s : State) (p : Nat) : JobsKept s (msiSomewhere s p) := by
  unfold msiSomewhere
  dsimp only
  split
  · exact .of_eq rfl
  · exact .of_eq (by simp [drawFree])

theorem rspMessage_jobsKept (s : State) (fn : Nat) (isLocal : Bool) : JobsKept s (rspMessage s fn isLocal) :=
  .ite (.of_eq (by simp)) (msiSomewhere_jobsKept ..)

theorem writeResponse_jobsKept (s : State) (fn : Nat) (isLocal : Bool) (pos cmd tag status : Nat) (payload : List Byte) :
    JobsKept s (writeResponse s fn isLocal pos cmd tag status payload) := by
  unfold writeResponse
  split
  · exact .refl s
  refine JobsKept.trans (JobsKept.trans (.ite ?_ (modFunc_jobsKept ..)) (modFunc_jobsKept ..)) (rspMessage_jobsKept ..)
  exact ((cohWrite_memOnly ..).trans (cohWrite_memOnly ..)).jobsKept

theorem journalMbx_jobsKept (s : State) (fn : Nat) (f : Func) (r : MbxReq) (status : Nat) : JobsKept s (journalMbx s fn f r status) :=
  .ite ((journalWrite_jobsKept ..).trans (modPart_jobsKept _ _ fun _ => rfl)) (journalWrite_jobsKept ..)

theorem answer_jobsKept (s : State) (fn : Nat) (r : MbxReq) (status : Nat) (payload : List Byte) :
    JobsKept s (answer s fn r status payload) := by
  unfold answer
  split
  · exact .refl s
  refine JobsKept.trans (JobsKept.trans (.ite ?_ (journalMbx_jobsKept ..)) (writeResponse_jobsKept ..)) (modFunc_jobsKept ..)
  exact modPart_jobsKept _ _ fun _ => rfl

theorem endRelayouts_jobsKept (s : State) (fn : Nat) (t : Nat → Bool) : JobsKept s (endRelayouts s fn t) := by
  unfold endRelayouts
  split
  · exact .refl s
  · exact .foldl (fun u r => answer_jobsKept ..) _ s

/-! #### Migrations -/

theorem queueMig_jobsKept (s : State) (p : Nat) (r : MigRequest) : JobsKept s (queueMig s p r) := modPart_jobsKept _ _ fun _ => rfl

theorem beginDemotion_jobsKept (s : State) (p obj page : Nat) (src : MigSource) : JobsKept s (beginDemotion s p obj page src) := by
  unfold beginDemotion
  split
  · exact .refl s
  split
  · exact (putMapEntry_jobsKept ..).trans (modPart_jobsKept _ _ (by intro; rfl))
  · exact .refl s

theorem promoteInto_jobsKept (s : State) (p obj page frame : Nat) : JobsKept s (promoteInto s p obj page frame) := by
  unfold promoteInto
  split
  · exact .refl s
  · exact ((modObject_jobsKept ..).trans (putMapEntry_jobsKept ..)).trans (modMig_jobsKept ..)

theorem startMigration_jobsKept (s : State) (p obj page : Nat) (dir : MigDir) (src : MigSource) :
    JobsKept s (startMigration s p obj page dir src).2 := by
  have queued (r : MigRequest) : JobsKept s (queueMig s p r) := queueMig_jobsKept ..
  have entered (m : Migration) : JobsKept s (modPart s p (fun y => { y with migs := y.migs ++ [m] })) := modPart_jobsKept _ _ fun _ => rfl
  unfold startMigration
  split
  case h_2 => exact .refl s
  split
  case h_1 =>
    split
    · exact .refl s
    · exact queued _
  split
  · exact .refl s
  split
  · exact .refl s
  cases dir with
  | promote =>
    dsimp only
    split
    · exact .refl s
    split
    · exact .refl s
    split
    · exact (entered _).trans (promoteInto_jobsKept ..)
    split
    · exact .refl s
    split
    · exact .refl s
    · exact (entered _).trans (beginDemotion_jobsKept ..)
  | demote =>
    dsimp only
    split
    · exact .refl s
    split
    · exact queued _
    split
    · exact .refl s
    · exact beginDemotion_jobsKept ..

theorem demandAccess_jobsKept (s : State) (p obj page : Nat) : JobsKept s (demandAccess s p obj page) := by
  have counted (f : TieredObject → TieredObject) : JobsKept s (modObject s p obj f) := modObject_jobsKept ..
  unfold demandAccess
  split
  · exact .refl s
  · exact .ite (.refl s) (.ite ((counted _).trans (startMigration_jobsKept ..)) (counted _))

/-! #### Requests in the tiers -/

/-- A request that can proceed has kept the jobs of s. -/
def TierAnswer.ReadyKeepsJobs (s : State) : TierAnswer → Prop
  | .ready t => JobsKept s t
  | .held _ => True
  | .bad _ => True

theorem tierPiece_readyKeepsJobs (s : State) (p : Nat) (cmd : Option CmdRef) (reachesT2 read : Bool) (a n : Nat) :
    (tierPiece s p cmd reachesT2 read a n).ReadyKeepsJobs s := by
  unfold tierPiece
  split
  case h_2 => exact .refl s
  split
  · trivial
  split
  · trivial
  extract_lets viaHost
  have hvia (t : State) (obj page : Nat) (h : JobsKept s t) : (viaHost t obj page).ReadyKeepsJobs s := by
    simp only [viaHost]
    split
    · trivial
    split
    · exact h
    split
    · split
      · trivial
      · split
        · exact h.trans (.of_eq rfl)
        · trivial
    · exact h
  split
  · exact hvia _ _ _ (.refl s)
  extract_lets page
  split
  · trivial
  · exact .refl s
  · trivial
  · trivial
  · split
    · exact hvia _ _ _ (demandAccess_jobsKept ..)
    · split <;> trivial

/-- A request is ready only if no piece of it has been held. -/
theorem tierPieces_readyKeepsJobs {s0 s : State} {ok : Bool} (h : ok = true → JobsKept s0 s) (p : Nat) (cmd : Option CmdRef)
    (reachesT2 read : Bool) (l : List (Nat × Nat)) : (tierPieces p cmd reachesT2 read s ok l).ReadyKeepsJobs s0 := by
  induction l generalizing s ok with
  | nil =>
    cases ok with
    | true => exact h rfl
    | false => trivial
  | cons e l ih =>
    have hpiece := tierPiece_readyKeepsJobs s p cmd reachesT2 read e.1 e.2
    rw [tierPieces]
    cases ht : tierPiece s p cmd reachesT2 read e.1 e.2 with
    | ready t =>
      rw [ht] at hpiece
      exact ih fun hok => (h hok).trans hpiece
    | held t => exact ih fun hok => absurd hok Bool.false_ne_true
    | bad t => trivial

theorem tierReady_readyKeepsJobs (s : State) (p : Nat) (cmd : Option CmdRef) (reachesT2 read : Bool) (l : List (Nat × Nat)) :
    (tierReady s p cmd reachesT2 read l).ReadyKeepsJobs s := by
  have hpieces := tierPieces_readyKeepsJobs (ok := true) (fun _ => .refl s) p cmd reachesT2 read (l.flatMap (fun e => pagePieces e.1 e.2))
  unfold tierReady
  cases ht : tierPieces p cmd reachesT2 read s true (l.flatMap (fun e => pagePieces e.1 e.2)) with
  | ready t =>
    rw [ht] at hpieces
    exact JobsKept.trans hpieces (.of_eq rfl)
  | held t => trivial
  | bad t => trivial

/-! #### Memory that a request names (R401) -/

/-- The state in which a request that is carried out leaves the module has the property P. -/
structure MbxAnswer.Leaves (P : State → Prop) (x : MbxAnswer) : Prop where
  done : ∀ t b, x = .done t stOk b → P t
  long : ∀ t, x = .long t → P t

theorem leaves_done {P : State → Prop} {t : State} {b : List Byte} (h : P t) : (MbxAnswer.done t stOk b).Leaves P :=
  ⟨fun _ _ hx => (MbxAnswer.done.inj hx).1 ▸ h, fun _ hx => nomatch hx⟩

theorem leaves_long {P : State → Prop} {t : State} (h : P t) : (MbxAnswer.long t).Leaves P :=
  ⟨fun _ _ hx => (nomatch hx), fun _ hx => MbxAnswer.long.inj hx ▸ h⟩

theorem leaves_wait {P : State → Prop} {t : State} : (MbxAnswer.wait t).Leaves P := ⟨fun _ _ hx => (nomatch hx), fun _ hx => nomatch hx⟩

theorem leaves_refused {P : State → Prop} {t : State} {st : Nat} {b : List Byte} (h : st ≠ stOk) : (MbxAnswer.done t st b).Leaves P :=
  ⟨fun _ _ hx => absurd (MbxAnswer.done.inj hx).2.1 h, fun _ hx => nomatch hx⟩

theorem invalid_leaves {P : State → Prop} {s : State} : (mbxInvalid s).Leaves P := leaves_refused (by decide)

theorem leaves_ite {P : State → Prop} {c : Prop} [Decidable c] {a b : MbxAnswer} (ha : c → a.Leaves P) (hb : ¬c → b.Leaves P) :
    (if c then a else b).Leaves P := by
  split
  · exact ha ‹_›
  · exact hb ‹_›

section
variable {P : State → Prop} {s : State} {p : Nat}

theorem mpRead_leaves (a n : Nat) {f : State → List Byte → MbxAnswer} (h : ∀ t b, JobsKept s t → (f t b).Leaves P) :
    (mpRead s p a n f).Leaves P := by
  have hready := tierReady_readyKeepsJobs s p none true true [(a, n)]
  unfold mpRead
  split
  · exact h s [] (.refl s)
  split
  · exact leaves_refused (by decide)
  cases ht : tierReady s p none true true [(a, n)] with
  | ready t =>
    rw [ht] at hready
    dsimp only
    split
    · exact leaves_refused (by decide)
    · exact h _ _ (JobsKept.trans hready (journalInput_jobsKept ..))
  | held t => exact leaves_wait
  | bad t => exact leaves_refused (by decide)

theorem mpReadT1_leaves (a n : Nat) {f : State → List Byte → MbxAnswer} (h : ∀ t b, JobsKept s t → (f t b).Leaves P) :
    (mpReadT1 s p a n f).Leaves P := by
  unfold mpReadT1
  split
  · exact leaves_refused (by decide)
  · exact mpRead_leaves a n h

theorem mpReads_leaves (l : List (Nat × Nat)) (acc : List (List Byte)) {f : State → List (List Byte) → MbxAnswer}
    (h : ∀ t b, JobsKept s t → (f t b).Leaves P) : (mpReads p f s l acc).Leaves P := by
  induction l generalizing s acc with
  | nil => exact h s acc (.refl s)
  | cons e l ih => exact mpRead_leaves e.1 e.2 fun t b ht => ih _ fun u c hu => h u c (ht.trans hu)

theorem mpWrites_leaves (ws : List (Nat × List Byte)) {f : State → MbxAnswer} (h : ∀ t, JobsKept s t → (f t).Leaves P) :
    (mpWrites s p ws f).Leaves P := by
  have hready := tierReady_readyKeepsJobs s p none true false (ws.map (fun w => (w.1, w.2.length)))
  unfold mpWrites
  split
  · exact leaves_refused (by decide)
  cases ht : tierReady s p none true false (ws.map (fun w => (w.1, w.2.length))) with
  | ready t =>
    rw [ht] at hready
    refine h _ (JobsKept.trans hready (.foldl (fun u w => ?_) ws t))
    exact (moduleWrite_memOnly ..).jobsKept.trans (markExternal_jobsKept ..)
  | held t => exact leaves_wait
  | bad t => exact leaves_refused (by decide)

theorem readTable_leaves (a : Nat) {f : State → TableDesc → MbxAnswer} (h : ∀ t d, JobsKept s t → (f t d).Leaves P) :
    (readTable s p a f).Leaves P := by
  unfold readTable
  refine mpReadT1_leaves a 64 fun s1 b h1 => leaves_ite (fun _ => invalid_leaves) fun _ => ?_
  exact mpReads_leaves _ _ fun s2 rd h2 => leaves_ite (fun _ => h s2 _ (h1.trans h2)) fun _ => invalid_leaves

/-- A read in T1 of a quiet range takes it from memory, and nothing changes. -/
theorem mpReadT1_quiet {a n : Nat} (hq : Quiet s p a n) (hu : Undisturbed s p) (f : State → List Byte → MbxAnswer) :
    mpReadT1 s p a n f = f s (memBytes s.mem a n) := by
  have hlow : a < 0x20000000000 := by
    have := hq.usable
    have := hq.nonempty
    have := usableBytes_le s
    omega
  rw [mpReadT1, if_neg (by simp [hq.owned, Nat.not_le.mpr hlow]), mpRead_quiet hq hu]

end

end Sys2Proof.Machine
end

section
/-! ### The requests of a job (R237, R258, R266, R292, R299, R325, R342, R401, R471, R474) -/

namespace Sys2Proof.Machine

theorem exec_jobConfig (fn : BitVec 4) (s : State) :
    exec (.jobConfig fn) s = .next (runMbx s fn.toNat 0x0A anyForm (fun _ r => doJobConfig s fn.toNat r)) := rfl
theorem exec_mappingLoad (fn : BitVec 4) (s : State) :
    exec (.mappingLoad fn) s = .next (runMbx s fn.toNat 0x0B anyForm (fun _ r => doMappingLoad s fn.toNat r)) := rfl
theorem exec_stepPolicy (fn : BitVec 4) (s : State) :
    exec (.stepPolicy fn) s = .next (runMbx s fn.toNat 0x0C anyForm (fun _ r => doStepPolicy s fn.toNat r)) := rfl
theorem exec_tableCreate (fn : BitVec 4) (s : State) :
    exec (.tableCreate fn) s = .next (runMbx s fn.toNat 0x0D anyForm (fun _ r => doTableCreate s fn.toNat r)) := rfl
theorem exec_relayoutStart (fn : BitVec 4) (s : State) :
    exec (.relayoutStart fn) s = .next (runMbx s fn.toNat 0x0E anyForm (fun _ r => doRelayoutStart s fn.toNat r)) := rfl
theorem exec_relayoutResume (fn : BitVec 4) (s : State) :
    exec (.relayoutResume fn) s = .next (runMbx s fn.toNat 0x0F anyForm (fun _ r => doRelayoutResume s fn.toNat r)) := rfl
theorem exec_relayoutAbortStop (fn : BitVec 4) (s : State) :
    exec (.relayoutAbortStop fn) s = .next (runMbx s fn.toNat 0x10 (fun b => fieldAt b 2 1 != 1) (fun _ r =>
      if fieldAt r.payload 2 1 = 0 then doRelayoutAbort s fn.toNat false r else mbxInvalid s)) := rfl
theorem exec_relayoutAbortRevert (fn : BitVec 4) (s : State) :
    exec (.relayoutAbortRevert fn) s
      = .next (runMbx s fn.toNat 0x10 (fun b => fieldAt b 2 1 == 1) (fun _ r => doRelayoutAbort s fn.toNat true r)) := rfl
theorem exec_dripConfig (fn : BitVec 4) (s : State) :
    exec (.dripConfig fn) s = .next (runMbx s fn.toNat 0x11 anyForm (fun _ r => doDripConfig s fn.toNat r)) := rfl
theorem exec_telemetryConfig (fn : BitVec 4) (s : State) :
    exec (.telemetryConfig fn) s = .next (runMbx s fn.toNat 0x12 anyForm (fun _ r => doTelemetryConfig s fn.toNat r)) := rfl
theorem exec_replayConfig (fn : BitVec 4) (s : State) :
    exec (.replayConfig fn) s = .next (runMbx s fn.toNat 0x13 anyForm (fun _ r => doReplayConfig s fn.toNat r)) := rfl
theorem exec_replayRun (fn : BitVec 4) (s : State) : exec (.replayRun fn) s = .next (if replayAsked s fn.toNat then
    runMbx s fn.toNat 0x14 anyForm (fun _ r => doReplayRun s fn.toNat r) else replayStep s fn.toNat) := rfl
theorem exec_peerTableLoad (fn : BitVec 4) (s : State) :
    exec (.peerTableLoad fn) s = .next (runMbx s fn.toNat 0x16 anyForm (fun _ r => doPeerTableLoad s fn.toNat r)) := rfl

/-! #### Requests in service -/

section
variable {s : State} {n : Nat} {f : Func} {r : MbxReq} {cmd : Nat}

/-- A request in service whose row answers it is answered. -/
theorem exec_done (hs : Serving s n f r cmd) {i : Instr} {form : List Byte → Bool} {F : Func → MbxReq → MbxAnswer}
    (hi : exec i s = .next (runMbx s n cmd form F)) (hf : form r.payload = true) {t : State} {st : Nat} {b : List Byte}
    (h : F f r = .done t st b) : exec i s = .next (answer t n r st b) := by
  rw [hi, runMbx_serving hs hf, h]
  rfl

/-- A request in service whose row accepts it as a long one, with no record of its start. -/
theorem exec_long (hs : Serving s n f r cmd) {i : Instr} {form : List Byte → Bool} {F : Func → MbxReq → MbxAnswer}
    (hi : exec i s = .next (runMbx s n cmd form F)) (hf : form r.payload = true) (hl : mbxAtStart cmd = false) {t : State}
    (h : F f r = .long t) : exec i s = .next (accepted t n r) := by
  rw [hi, runMbx_serving hs hf, h, finish_long hs hl]

/-- A request in service whose row accepts it as a long one, journaled at its start. -/
theorem exec_started (hs : Serving s n f r cmd) {i : Instr} {form : List Byte → Bool} {F : Func → MbxReq → MbxAnswer}
    (hi : exec i s = .next (runMbx s n cmd form F)) (hf : form r.payload = true) (hl : mbxAtStart cmd = true) {t : State}
    (h : F f r = .long t) : exec i s = .next (accepted (journalMbx t n f r 0xFFFF) n r) := by
  rw [hi, runMbx_serving hs hf, h, MbxAnswer.finish, hs.cmdIs, hl, hs.func]
  rfl

/-- A REPLAY_RUN in service is what its command runs. -/
theorem exec_replayRun_asked {fn : BitVec 4} (hs : Serving s fn.toNat f r 0x14) :
    exec (.replayRun fn) s = .next (runMbx s fn.toNat 0x14 anyForm (fun _ r => doReplayRun s fn.toNat r)) := by
  rw [exec_replayRun, if_pos (by simp [replayAsked, hs.func, hs.inService, hs.cmdIs])]

end

/-! #### JOB_CONFIG (R299, R401) -/

/-- A job of a request's fields, without step, mappings or tables. -/
structure FreshJob (b : List Byte) (j : Job) : Prop where
  seed : j.seed = BitVec.ofNat 64 (fieldAt b 0 8)
  firstStep : j.firstStep = fieldAt b 8 8
  layers : j.layers = fieldAt b 0x1C 2
  netId : j.netId = fieldAt b 0x1E 2
  commitRecord : j.commitRecord = fieldAt b 0x40 8
  step : j.step = none
  eval : j.eval = none
  halted : j.halted = 0
  tables : j.tables = []
  mappings : j.mappings = []
  policy : j.policy = Policy.default
  collSeq : j.collSeq = []
  drip : j.drip = none

theorem newJob_fresh (b dir layerMap lanes : List Byte) (init : List Int) (groups : List ReplicaGroup) (check : List Nat)
    (spares : SMap (List (Nat × Nat))) : FreshJob b (newJob b dir layerMap lanes init groups check spares) := by
  constructor <;> rfl

/-- What its commit record adds leaves a job fresh. -/
theorem FreshJob.committed {b : List Byte} {j : Job} (h : FreshJob b j) (c : Nat) (l : List Int) :
    FreshJob b { j with committed := c, scale := l } := { h with }

section
variable {s : State} {p : Nat}

theorem jobAt_putJob (h : (partAt s p).isSome = true) (j : Job) : jobAt (putJob s p j) p = some j := by
  obtain ⟨x, hx⟩ := Option.isSome_iff_exists.mp (((endRelayouts_jobsKept s p (fun _ => true)).part p).trans h)
  rw [jobAt, putJob, partAt_modPart_some hx]
  rfl

/-- The partition's job is one that the request b describes. -/
def JobStarted (b : List Byte) (p : Nat) (t : State) : Prop := ∃ j, jobAt t p = some j ∧ FreshJob b j

theorem startJob_leaves {b : List Byte} {j : Job} (hj : FreshJob b j) (hp : (partAt s p).isSome = true) (record : List Byte) :
    (startJob s p j record).Leaves (JobStarted b p) := by
  have started (t : State) (ht : JobsKept s t) (c : Nat) (l : List Int) : JobStarted b p (putJob t p { j with committed := c, scale := l }) :=
    ⟨_, jobAt_putJob ((ht.part p).trans hp) _, hj.committed c l⟩
  unfold startJob
  split
  · refine leaves_ite (fun _ => leaves_done (started s (.refl s) ..)) fun _ => mpWrites_leaves _ fun t ht => ?_
    exact leaves_done (started t ht ..)
  · exact mpWrites_leaves _ fun t ht => leaves_done (started t ht _ j.scale)

theorem doJobConfig_leaves (hp : (partAt s p).isSome = true) (r : MbxReq) : (doJobConfig s p r).Leaves (JobStarted r.payload p) := by
  unfold doJobConfig
  refine leaves_ite (fun _ => leaves_refused (by decide)) fun _ => leaves_ite (fun _ => invalid_leaves) fun _ => ?_
  split
  · exact leaves_refused (by decide)
  refine mpReads_leaves _ _ fun s1 rd h1 => leaves_ite (fun _ => invalid_leaves) fun _ => mpReads_leaves _ _ fun s2 descs h2 => ?_
  split
  · exact invalid_leaves
  · exact startJob_leaves (newJob_fresh ..) (((h1.trans h2).part p).trans hp) _

theorem doJobConfig_busy {j : Job} (hj : jobAt s p = some j) (hb : jobBusy j = true) (r : MbxReq) :
    doJobConfig s p r = .done s stBusy [] := if_pos (by simp [hj, hb])

/-! #### MAPPING_LOAD, STEP_POLICY (R266, R401) -/

section
variable {j : Job} (hj : jobAt s p = some j) {r : MbxReq}
include hj

theorem doMappingLoad_beyond (hi : 7 < fieldAt r.payload 0 1) : doMappingLoad s p r = .done s stInvalid [] := by
  simp only [doMappingLoad, hj]
  exact if_pos hi

theorem doMappingLoad_bound (hi : fieldAt r.payload 0 1 ≤ 7) (hb : mappingBound j (fieldAt r.payload 0 1) = true) :
    doMappingLoad s p r = .done s stBusy [] := by
  simp only [doMappingLoad, hj]
  rw [if_neg (Nat.not_lt.mpr hi), if_pos hb]

/-- A mapping table in a quiet range is taken if it keeps R267. -/
theorem doMappingLoad_quiet (hu : Undisturbed s p) (hi : fieldAt r.payload 0 1 ≤ 7) (hb : mappingBound j (fieldAt r.payload 0 1) = false)
    (hq : Quiet s p (fieldAt r.payload 8 8) 64) {len : Nat} (hlen : fieldAt (memBytes s.mem (fieldAt r.payload 8 8) 64) 0 4 = len)
    (h64 : 64 ≤ len) (hmax : len ≤ 1048576) (h4 : len % 4 = 0) (hql : Quiet s p (fieldAt r.payload 8 8) len) :
    doMappingLoad s p r = (mappingOfBytes s p (memBytes s.mem (fieldAt r.payload 8 8) len)).elim (mbxInvalid s)
      (fun m => .done (modJob s p (fun y => { y with mappings := mapSet y.mappings (fieldAt r.payload 0 1) m })) stOk []) := by
  simp only [doMappingLoad, hj]
  rw [if_neg (Nat.not_lt.mpr hi), if_neg (Bool.eq_false_iff.mp hb), mpReadT1_quiet hq hu]
  simp only [hlen]
  rw [if_neg (by omega), mpReadT1_quiet hql hu]
  cases mappingOfBytes s p (memBytes s.mem (fieldAt r.payload 8 8) len) <;> rfl

/-- The policy that STEP_POLICY's fields describe. -/
def policyOfBytes (b : List Byte) : Policy :=
  { abortOnNonfinite := decide (fieldAt b 0 1 = 1), mismatch := fieldAt b 1 1, absurd := BitVec.ofNat 32 (fieldAt b 4 4),
    clip := BitVec.ofNat 32 (fieldAt b 8 4), timeout := fieldAt b 0x0C 4,
    removed := (List.range (fieldAt b 0x10 1)).map (fun i => fieldAt b (0x12 + 2 * i) 2) }

theorem doStepPolicy_done (h0 : fieldAt r.payload 0 1 ≤ 1) (h1 : fieldAt r.payload 1 1 ≤ 2) (hmin : 25000 ≤ fieldAt r.payload 0x0C 4)
    (hmax : fieldAt r.payload 0x0C 4 ≤ 250000000) (hk : fieldAt r.payload 0x10 1 ≤ 16) :
    doStepPolicy s p r = .done (modJob s p (fun y => removeMembers { y with policy := policyOfBytes r.payload } (policyOfBytes r.payload).removed))
      stOk [] := by
  have hsome : (jobAt s p).isNone = false := by rw [hj]; rfl
  exact if_neg (by simp only [hsome, Bool.false_eq_true, false_or]; omega)

end

theorem doStepPolicy_invalid {r : MbxReq} (h : 1 < fieldAt r.payload 0 1 ∨ 2 < fieldAt r.payload 1 1 ∨ fieldAt r.payload 0x0C 4 < 25000
    ∨ 250000000 < fieldAt r.payload 0x0C 4 ∨ 16 < fieldAt r.payload 0x10 1) : doStepPolicy s p r = .done s stInvalid [] :=
  if_pos (.inr h)

/-! #### TABLE_CREATE (R237) -/

/-- The partition has gained a table as TABLE_CREATE leaves it. -/
def TableCreated (s : State) (p : Nat) (t : State) : Prop :=
  ∃ id y, tableAt s p id = none ∧ tableAt t p id = some y ∧ y.desc.tableId = id ∧ y.relayout = none ∧ y.pendingStep = none
    ∧ y.shadow = [] ∧ y.lastStamp = y.desc.stamp0

theorem doTableCreate_leaves (r : MbxReq) : (doTableCreate s p r).Leaves (TableCreated s p) := by
  unfold doTableCreate
  split
  · exact invalid_leaves
  rename_i j hj
  refine readTable_leaves _ fun s1 d h1 => leaves_ite (fun _ => invalid_leaves) fun hnew => mpWrites_leaves _ fun s2 h2 => ?_
  have hj2 : jobAt s2 p = some j := ((h1.trans h2).job p).trans hj
  have hnone : mapGet j.tables d.tableId = none := by simpa [mapHas] using hnew
  refine leaves_done ⟨d.tableId, { desc := d, relayout := none, pendingStep := none, shadow := [], lastStamp := d.stamp0 }, ?_, ?_,
    rfl, rfl, rfl, rfl, rfl⟩
  · rw [tableAt, hj]
    exact hnone
  · rw [tableAt, jobAt_modJob, hj2]
    exact mapGet_mapSet_same ..

/-! #### Re-layouts (R258) -/

/-- A table whose re-layout runs forward, all its regions OLD. -/
def RelayoutStarted (p id : Nat) (t : State) : Prop :=
  ∃ y, (tableAt t p id).bind (·.relayout) = some y ∧ y.status = .running ∧ y.revert = false
    ∧ ∀ g ∈ y.regions, g = { state := .old, copied := false, restarts := 0 }

theorem relayout_setRelayout {t : EmbTable} {id : Nat} (h : tableAt s p id = some t) (y : Relayout) :
    (tableAt (setRelayout s p id y) p id).bind (·.relayout) = some y := by
  rw [setRelayout, tableAt_congr (putRelayout_memOnly ..).partitions, tableAt_modTable, h]
  rfl

theorem doRelayoutStart_leaves (r : MbxReq) : (doRelayoutStart s p r).Leaves (RelayoutStarted p (fieldAt r.payload 0 2)) := by
  unfold doRelayoutStart
  dsimp only
  split
  case h_2 => exact invalid_leaves
  rename_i j t _ ht
  refine leaves_ite (fun _ => invalid_leaves) fun _ => readTable_leaves _ fun s1 d h1 => ?_
  split
  · exact leaves_refused (by decide)
  refine leaves_ite (fun _ => invalid_leaves) fun _ => leaves_long ?_
  exact ⟨_, relayout_setRelayout ((h1.table ..).trans ht) _, rfl, rfl, fun g hg => List.eq_of_mem_replicate hg⟩

section
variable {r : MbxReq} {t : EmbTable} (ht : tableAt s p (fieldAt r.payload 0 2) = some t)
include ht

theorem doRelayoutStart_again {j : Job} (hj : jobAt s p = some j) (hy : t.relayout.isSome = true) :
    doRelayoutStart s p r = .done s stInvalid [] := by
  simp only [doRelayoutStart, hj, ht]
  exact if_pos (.inl hy)

section
variable {y : Relayout} (hy : t.relayout = some y)
include hy

theorem doRelayoutResume_some : doRelayoutResume s p r
    = if y.status = .stopped then .long (setRelayout s p (fieldAt r.payload 0 2) { y with status := .running }) else mbxInvalid s := by
  simp only [doRelayoutResume, ht, Option.bind_some, hy]

theorem doRelayoutAbort_stop : doRelayoutAbort s p false r = .done (setRelayout (endRelayouts s p (· == fieldAt r.payload 0 2)) p
    (fieldAt r.payload 0 2) { y with status := .stopped, regions := settleRegions y }) stOk [] := by
  simp only [doRelayoutAbort, ht, Option.bind_some, hy]
  rfl

theorem doRelayoutAbort_revert (hf : y.revert = false) : doRelayoutAbort s p true r = .done (setRelayout
    (endRelayouts s p (· == fieldAt r.payload 0 2)) p (fieldAt r.payload 0 2)
    { y with status := .running, revert := true, regions := settleRegions y }) stOk [] := by
  simp only [doRelayoutAbort, ht, Option.bind_some, hy, hf]
  rfl

end

section
variable (hy : t.relayout = none)
include hy

theorem doRelayoutResume_none : doRelayoutResume s p r = .done s stInvalid [] := by
  simp only [doRelayoutResume, ht, Option.bind_some, hy, mbxInvalid]

theorem doRelayoutAbort_none (revert : Bool) : doRelayoutAbort s p revert r = .done s stInvalid [] := by
  simp only [doRelayoutAbort, ht, Option.bind_some, hy, mbxInvalid]

end

end

/-! #### DRIP_CONFIG (R325) -/

theorem dripInvalidate_memOnly (s : State) (p g : Nat) : MemOnly s (dripInvalidate s p g) := by
  unfold dripInvalidate
  split
  · exact .refl s
  refine .foldl (fun t x => ?_) _ s
  dsimp only
  split
  · exact cohWrite_memOnly ..
  · exact .refl t

section
variable {r : MbxReq} {j : Job} (hj : jobAt s p = some j)
include hj

theorem doDripConfig_busy (h : j.step.isSome = true) : doDripConfig s p r = .done s stBusy [] := by
  simp only [doDripConfig, hj]
  exact if_pos h

variable (hstep : j.step = none)
include hstep

theorem doDripConfig_off (h : fieldAt r.payload 0 1 = 0) : doDripConfig s p r = .done (modJob s p (fun y => { y with drip := none })) stOk [] := by
  simp only [doDripConfig, hj]
  rw [if_neg (by simp [hstep]), if_pos h]

/-- The partition's job has the drip stream of a request's fields. -/
def DripStarted (b : List Byte) (p : Nat) (t : State) : Prop :=
  ((jobAt t p).bind (·.drip)).map (fun d => (d.dest, d.ring, d.size, d.lag, d.tail))
    = some (fieldAt b 0 1, fieldAt b 8 8, fieldAt b 4 4 * 65536, (if fieldAt b 0x10 2 = 0 then 64 else fieldAt b 0x10 2), 0)

theorem doDripConfig_done (hu : Undisturbed s p) (hdest : fieldAt r.payload 0 1 = 1 ∨ fieldAt r.payload 0 1 = 2) {k : Nat} (hk4 : 4 ≤ k)
    (hk20 : k ≤ 20) (hunits : fieldAt r.payload 4 4 = 2 ^ k) (halign : fieldAt r.payload 8 8 % 64 = 0)
    (hring : ringIn s p (fieldAt r.payload 0 1 == 2) (fieldAt r.payload 8 8) (fieldAt r.payload 4 4 * 65536) = true)
    (hmap : reachCoherent s p (fieldAt r.payload 0x20 8) 1 = true) (hq : Quiet s p (fieldAt r.payload 0x18 8) 1024) :
    ∃ t, doDripConfig s p r = .done t stOk [] ∧ DripStarted r.payload p t := by
  have hlow : 16 ≤ 2 ^ k := Nat.pow_le_pow_right (by decide : 0 < 2) hk4
  have hhigh : 2 ^ k ≤ 2 ^ 20 := Nat.pow_le_pow_right (by decide) hk20
  simp only [doDripConfig, hj]
  rw [if_neg (by simp [hstep]), if_neg (by omega), if_neg (by rw [hunits, Nat.log2_two_pow]; omega), if_neg (by simp [hring]),
    if_neg (by simp [hmap]), mpRead_quiet hq hu]
  refine ⟨_, rfl, ?_⟩
  rw [DripStarted, jobAt_congr ((MemOnly.foldl (fun t g => dripInvalidate_memOnly t p g) _ _).partitions),
    jobAt_congr (moduleWrite_memOnly ..).partitions, jobAt_modJob, hj]
  rfl

end

end

/-! #### TELEMETRY_CONFIG (R292) -/

/-- The ring that a request describes; none for log2 size 0. -/
def describedRing (b : List Byte) : Option Ring :=
  if fieldAt b 2 1 = 0 then none else some { base := fieldAt b 8 8, size := 2 ^ fieldAt b 2 1, off := 0, seq := 0 }

section
variable {s : State} {n : Nat} {r : MbxReq}
variable (hring : fieldAt r.payload 2 1 = 0
  ∨ (16 ≤ fieldAt r.payload 2 1 ∧ fieldAt r.payload 2 1 ≤ 26 ∧ ringPlace s n (fieldAt r.payload 8 8) (2 ^ fieldAt r.payload 2 1) = true))
include hring

theorem ring_accepted : ¬(fieldAt r.payload 2 1 ≠ 0 ∧ (fieldAt r.payload 2 1 < 16 ∨ 26 < fieldAt r.payload 2 1))
    ∧ ¬(fieldAt r.payload 2 1 ≠ 0 ∧ (!ringPlace s n (fieldAt r.payload 8 8) (2 ^ fieldAt r.payload 2 1)) = true) := by
  rcases hring with h | ⟨hmin, hmax, hplace⟩
  · exact ⟨fun h' => h'.1 h, fun h' => h'.1 h⟩
  · exact ⟨by omega, by simp [hplace]⟩

/-- The module's own ring is function 0's to place. -/
theorem doTelemetryConfig_module (ht : fieldAt r.payload 0 2 = 0xFFFF) : doTelemetryConfig s n r =
    if n ≠ 0 then .done s stNotPermitted [] else .done { s with telemetry := describedRing r.payload } stOk [] := by
  obtain ⟨hsize, hplace⟩ := ring_accepted hring
  simp only [doTelemetryConfig]
  rw [if_neg hsize, if_pos ht, if_neg hplace, describedRing]

/-- A queue's ring is its partition's to place. -/
theorem doTelemetryConfig_queue (ht : fieldAt r.payload 0 2 ≠ 0xFFFF) {y : Queue} (hy : queueAt s (fieldAt r.payload 0 2) = some y) :
    doTelemetryConfig s n r = if y.partition ≠ n then .done s stNotPermitted []
      else .done (modQueue s (fieldAt r.payload 0 2) (fun z => { z with telemetry := describedRing r.payload })) stOk [] := by
  obtain ⟨hsize, hplace⟩ := ring_accepted hring
  simp only [doTelemetryConfig, hy]
  rw [if_neg hsize, if_neg ht, if_neg hplace, describedRing]

end

/-! #### REPLAY_CONFIG, REPLAY_RUN (R471, R474) -/

section
variable {s : State} {p : Nat} {x : Partition} {r : MbxReq}

theorem doReplayConfig_invalid (h : 2 < fieldAt r.payload 0 1) : doReplayConfig s p r = .done s stInvalid [] := if_pos h

theorem doReplayConfig_off (hx : partAt s p = some x) (h : fieldAt r.payload 0 1 = 0) : ∃ t, doReplayConfig s p r = .done t stOk []
    ∧ t.mem = s.mem ∧ (partAt t p).map (·.journal) = some { Journal.off with config := x.journal.config } := by
  refine ⟨_, (if_neg (by omega)).trans (if_pos h), rfl, ?_⟩
  rw [partAt_modPart_some hx]
  rfl

/-- The size of a journal ring as a request gives it: 0 is the largest. -/
def replaySize (b : List Byte) : Nat := if fieldAt b 0x10 8 = 0 then 2 ^ 32 else fieldAt b 0x10 8

theorem doReplayConfig_on (hx : partAt s p = some x) (hen : fieldAt r.payload 0 1 = 1 ∨ fieldAt r.payload 0 1 = 2)
    (hdest : fieldAt r.payload 1 1 = 1 ∨ fieldAt r.payload 1 1 = 2) (halign : fieldAt r.payload 8 8 % 64 = 0)
    (hsize : replaySize r.payload % 64 = 0) (hmin : 128 ≤ replaySize r.payload)
    (hring : ringIn s p (fieldAt r.payload 1 1 == 1) (fieldAt r.payload 8 8) (replaySize r.payload) = true) :
    ∃ t, doReplayConfig s p r = .done t stOk [] ∧ (partAt t p).map (·.journal) = some { Journal.off with
      config := x.journal.config, enable := fieldAt r.payload 0 1, base := fieldAt r.payload 8 8, size := replaySize r.payload } := by
  have hvalid : ¬(fieldAt r.payload 1 1 < 1 ∨ 2 < fieldAt r.payload 1 1 ∨ fieldAt r.payload 8 8 % 64 ≠ 0 ∨ replaySize r.payload % 64 ≠ 0
      ∨ replaySize r.payload < 128) := by omega
  have hplace : ¬(!ringIn s p (fieldAt r.payload 1 1 == 1) (fieldAt r.payload 8 8) (replaySize r.payload)) = true := by simp [hring]
  refine ⟨_, (if_neg (by omega)).trans ((if_neg (by omega)).trans ((if_neg hvalid).trans (if_neg hplace))), ?_⟩
  rw [partAt_congr (moduleWrite_memOnly ..).partitions, partAt_modPart_some hx]
  rfl

theorem doReplayRun_invalid (h : fieldAt r.payload 0x10 8 ≤ fieldAt r.payload 0 8 ∨ fieldAt r.payload 8 8 % 64 ≠ 0) :
    doReplayRun s p r = .done s stInvalid [] := by
  simp only [doReplayRun]
  exact if_pos h

section
variable (hx : partAt s p = some x) (hlast : fieldAt r.payload 0 8 < fieldAt r.payload 0x10 8) (halign : fieldAt r.payload 8 8 % 64 = 0)
variable (hreach : reachCoherent s p (fieldAt r.payload 8 8) 64 = true)
include hx hlast halign hreach

theorem doReplayRun_valid : doReplayRun s p r = if x.replay.isSome then .done s stBusy []
    else .long (startReplay s p (fieldAt r.payload 8 8) (fieldAt r.payload 0 8) (fieldAt r.payload 0x10 8)) := by
  simp only [doReplayRun]
  rw [if_neg (by omega), if_neg (by simp [hreach]), hx]
  rfl

end

theorem replay_startReplay (hx : partAt s p = some x) (base first last : Nat) :
    ((partAt (startReplay s p base first last) p).bind (·.replay)).map (fun y => (y.base, y.first, y.last, y.running))
      = some (base, first, last, false) := by
  rw [startReplay, partAt_modPart_some hx]
  rfl

/-! #### PEER_TABLE_LOAD (R342) -/

theorem doPeerTableLoad_busy (h : gangRuns s p = true) : doPeerTableLoad s p r = .done s stBusy [] := if_pos h

section
variable (hg : gangRuns s p = false)
include hg

theorem doPeerTableLoad_count (h : fieldAt r.payload 8 4 < 1 ∨ 65536 < fieldAt r.payload 8 4) :
    doPeerTableLoad s p r = .done s stInvalid [] := by
  rw [doPeerTableLoad, if_neg (Bool.eq_false_iff.mp hg)]
  exact if_pos h

/-- The entries of a peer table in memory. -/
def peerEntries (s : State) (a n : Nat) : List (List Byte) := (List.range n).map (fun i => sliceBytes (memBytes s.mem a (128 * n)) (128 * i) 128)

/-- A peer table in a quiet range is taken if its entries are valid and rise. -/
theorem doPeerTableLoad_quiet (hu : Undisturbed s p) {n : Nat} (hn : fieldAt r.payload 8 4 = n) (h1 : 1 ≤ n) (hmax : n ≤ 65536)
    (hq : Quiet s p (fieldAt r.payload 0 8) (128 * n)) {es : List (List Byte)} (hes : es = peerEntries s (fieldAt r.payload 0 8) n)
    {ps : List Peer} (hps : ps = es.map peerOfBytes) :
    doPeerTableLoad s p r = if (!es.all (fun e => zeroAt e 4 4 && zeroAt e 0x68 24)) = true ∨ (!risingIds (ps.map (·.module))) = true
      then mbxInvalid s else .done (modPart s p (fun y => { y with peers := ps })) stOk [] := by
  subst hes hps
  simp only [doPeerTableLoad, hn]
  rw [if_neg (Bool.eq_false_iff.mp hg), if_neg (by omega), mpReadT1_quiet hq hu]
  rfl

end

end

/-! #### The statement -/

/-- Settles O52: each request in service is carried out, so its answer is that of its own function of the state; what the MP reads and writes
for it leaves the partition's job. -/
theorem jobRequests : Obligations.JobRequests := by
  unfold Obligations.JobRequests
  intro s fn f r x n b a0 ans t1 hx
  refine ⟨fun hs => ?config, fun j hj hu => ⟨?mapping, ?policy, ?table, ?relayout, ?drip⟩, ?telemetry, ?replayConfig, fun hs => ?replayRun,
    ?peers⟩
  case config =>
    have hdone {t : State} {st : Nat} {p : List Byte} (h : doJobConfig s n r = .done t st p) := exec_done hs (exec_jobConfig fn s) rfl h
    refine ⟨fun j hj hb => hdone (doJobConfig_busy hj hb r), fun t ht => ⟨hdone ht, ?_⟩, fun t st p h => hdone h⟩
    obtain ⟨j, hj, h⟩ := (doJobConfig_leaves (by rw [hx]; rfl) r).done t [] ht
    exact ⟨j, hj, h.seed, h.firstStep, h.layers, h.netId, h.commitRecord, h.step, h.eval, h.halted, h.tables, h.mappings, h.policy, h.collSeq,
      h.drip⟩
  case mapping =>
    intro i a len hs
    have hdone {t : State} {st : Nat} {p : List Byte} (h : doMappingLoad s n r = .done t st p) := exec_done hs (exec_mappingLoad fn s) rfl h
    refine ⟨fun hi => hdone (doMappingLoad_beyond hj hi), fun hi hb => hdone (doMappingLoad_bound hj hi hb), ?_⟩
    intro hi hb hq h64 hmax h4 hql
    have hdo := doMappingLoad_quiet hj hu hi hb hq rfl h64 hmax h4 hql
    exact ⟨fun m hm => hdone (hdo.trans (by rw [hm]; rfl)), fun hm => hdone (hdo.trans (by rw [hm]; rfl))⟩
  case policy =>
    intro k wait hs
    refine ⟨fun h0 h1 hmin hmax hk => ⟨_, exec_done hs (exec_stepPolicy fn s) rfl (doStepPolicy_done hj h0 h1 hmin hmax hk), ?_⟩,
      fun h => exec_done hs (exec_stepPolicy fn s) rfl (doStepPolicy_invalid h)⟩
    rw [jobAt_modJob, hj]
    rfl
  case table =>
    intro t hs ht
    exact ⟨exec_done hs (exec_tableCreate fn s) rfl ht, (doTableCreate_leaves r).done t [] ht⟩
  case relayout =>
    intro id
    refine ⟨fun t hs ht => ⟨exec_started hs (exec_relayoutStart fn s) rfl rfl ht, (doRelayoutStart_leaves r).long t ht⟩, fun t y ht hy => ?some,
      fun t ht hy => ?none⟩
    case some =>
      refine ⟨fun hs => ?_, fun hs => ⟨fun hstop => ?_, fun hrun => ?_⟩, fun hs => ⟨fun hmode => ?_, fun hmode hf => ?_⟩⟩
      · exact exec_done hs (exec_relayoutStart fn s) rfl (doRelayoutStart_again ht hj (by rw [hy]; rfl))
      · exact exec_started hs (exec_relayoutResume fn s) rfl rfl ((doRelayoutResume_some ht hy).trans (if_pos hstop))
      · exact exec_done hs (exec_relayoutResume fn s) rfl ((doRelayoutResume_some ht hy).trans (if_neg (by simp [hrun])))
      · exact exec_done hs (exec_relayoutAbortStop fn s) (by simp [show fieldAt r.payload 2 1 = 0 from hmode])
          ((if_pos hmode).trans (doRelayoutAbort_stop ht hy))
      · exact exec_done hs (exec_relayoutAbortRevert fn s) (by simp [show fieldAt r.payload 2 1 = 1 from hmode]) (doRelayoutAbort_revert ht hy hf)
    case none =>
      refine ⟨fun hs => ?_, fun hs hmode => ?_, fun hs hmode => ?_⟩
      · exact exec_done hs (exec_relayoutResume fn s) rfl (doRelayoutResume_none ht hy)
      · exact exec_done hs (exec_relayoutAbortStop fn s) (by simp [show fieldAt r.payload 2 1 = 0 from hmode])
          ((if_pos hmode).trans (doRelayoutAbort_none ht hy _))
      · exact exec_done hs (exec_relayoutAbortRevert fn s) (by simp [show fieldAt r.payload 2 1 = 1 from hmode]) (doRelayoutAbort_none ht hy _)
  case drip =>
    intro dest units ring hs
    have hdone {t : State} {st : Nat} {p : List Byte} (h : doDripConfig s n r = .done t st p) := exec_done hs (exec_dripConfig fn s) rfl h
    refine ⟨fun h => hdone (doDripConfig_busy hj h), fun hstep h0 => hdone (doDripConfig_off hj hstep h0), ?_⟩
    rintro hstep hdest ⟨k, hk4, hk20, hunits⟩ halign hring hmap hq
    obtain ⟨t, ht, hstream⟩ := doDripConfig_done hj hstep hu hdest hk4 hk20 hunits halign hring hmap hq
    exact ⟨t, hdone ht, hstream⟩
  case telemetry =>
    intro target l a ring hs hring
    have hdone {t : State} {st : Nat} {p : List Byte} (h : doTelemetryConfig s n r = .done t st p) := exec_done hs (exec_telemetryConfig fn s) rfl h
    refine ⟨fun ht hn => ?_, fun ht hn => ?_, fun y ht hy => ⟨fun hn => ?_, fun hn => ?_⟩⟩
    · exact hdone ((doTelemetryConfig_module hring ht).trans (if_neg (not_not.mpr hn)))
    · exact hdone ((doTelemetryConfig_module hring ht).trans (if_pos hn))
    · exact hdone ((doTelemetryConfig_queue hring ht hy).trans (if_neg (not_not.mpr hn)))
    · exact hdone ((doTelemetryConfig_queue hring ht hy).trans (if_pos hn))
  case replayConfig =>
    intro en dest ring size hs
    have hdone {t : State} {st : Nat} {p : List Byte} (h : doReplayConfig s n r = .done t st p) := exec_done hs (exec_replayConfig fn s) rfl h
    refine ⟨fun h => hdone (doReplayConfig_invalid h), fun h0 => ?_, fun hen hdest halign hsize hmin hring => ?_⟩
    · obtain ⟨t, ht, hleft⟩ := doReplayConfig_off hx h0
      exact ⟨t, hdone ht, hleft⟩
    · obtain ⟨t, ht, hjournal⟩ := doReplayConfig_on hx hen hdest halign hsize hmin hring
      exact ⟨t, hdone ht, hjournal⟩
  case replayRun =>
    have hasked := exec_replayRun_asked hs
    refine ⟨fun h => exec_done hs hasked rfl (doReplayRun_invalid h), fun hlast halign hreach => ?_⟩
    have hdo := doReplayRun_valid hx hlast halign hreach
    exact ⟨fun hbusy => exec_done hs hasked rfl (hdo.trans (if_pos hbusy)),
      fun hfree => ⟨exec_long hs hasked rfl rfl (hdo.trans (if_neg (by simp [hfree]))), replay_startReplay hx ..⟩⟩
  case peers =>
    intro cnt bytes es ps hs
    have hdone {t : State} {st : Nat} {p : List Byte} (h : doPeerTableLoad s n r = .done t st p) := exec_done hs (exec_peerTableLoad fn s) rfl h
    refine ⟨fun h => hdone (doPeerTableLoad_busy h), fun hg h => hdone (doPeerTableLoad_count hg h), fun hg h1 hmax _ hu hq => ?_⟩
    have hdo := doPeerTableLoad_quiet hg hu rfl h1 hmax hq (es := es) rfl (ps := ps) rfl
    exact ⟨fun hzero hrise => hdone (hdo.trans (if_neg (by rw [hzero, hrise]; decide))),
      fun hrise => hdone (hdo.trans (if_pos (.inr (by rw [hrise]; rfl))))⟩

end Sys2Proof.Machine
end

section
/-! ### Gang-lane commands: what their accesses and their messages leave of them (R178, R331, R351 to R357) -/

namespace Sys2Proof.Machine

/-- What an access or a message of a gang-lane command leaves of it: its place in the exchange and what it has received. Its usage and its
phase may change, and what it has sent stays sent. -/
structure Cmd.Exchanges (c d : Cmd) : Prop where
  pos : d.pos = c.pos
  begun : d.begun = c.begun
  granted : d.granted = c.granted
  group : d.group = c.group
  tag : d.tag = c.tag
  collSeq : d.collSeq = c.collSeq
  collData : d.collData = c.collData
  collDone : d.collDone = c.collDone
  doneSent : c.doneSent = true → d.doneSent = true

theorem Cmd.Exchanges.refl (c : Cmd) : c.Exchanges c := ⟨rfl, rfl, rfl, rfl, rfl, rfl, rfl, rfl, id⟩

theorem Cmd.Exchanges.trans {c d e : Cmd} (h : c.Exchanges d) (g : d.Exchanges e) : c.Exchanges e :=
  ⟨g.pos.trans h.pos, g.begun.trans h.begun, g.granted.trans h.granted, g.group.trans h.group, g.tag.trans h.tag, g.collSeq.trans h.collSeq,
    g.collData.trans h.collData, g.collDone.trans h.collDone, g.doneSent ∘ h.doneSent⟩

/-- The restarts that collective engine i has counted (Table 11-16). -/
def restartsOf (s : State) (i : Nat) : Option Word64 := (s.colls[i]?).map (·.restarts)

theorem restartsOf_congr {s t : State} (h : t.colls = s.colls) (i : Nat) : restartsOf t i = restartsOf s i := by
  rw [restartsOf, h, restartsOf]

/-- From s to t the command of queue q at pos has gone on with its exchange, if it has not ended, and no collective engine has counted a
restart. -/
structure Carried (q pos : Nat) (s t : State) : Prop where
  cmd : ∀ d, cmdAt t q pos = some d → ∃ c, cmdAt s q pos = some c ∧ c.Exchanges d
  restarts : ∀ i, restartsOf t i = restartsOf s i

namespace Carried

variable {q pos : Nat} {s t u : State}

theorem of_cmdAt (hcmd : cmdAt t q pos = cmdAt s q pos) (hcolls : t.colls = s.colls) : Carried q pos s t :=
  ⟨fun d hd => ⟨d, hcmd ▸ hd, .refl d⟩, restartsOf_congr hcolls⟩

theorem of_eq (hqueues : t.queues = s.queues) (hcolls : t.colls = s.colls) : Carried q pos s t := of_cmdAt (cmdAt_congr hqueues q pos) hcolls

theorem refl (q pos : Nat) (s : State) : Carried q pos s s := of_eq rfl rfl

theorem trans (h : Carried q pos s t) (g : Carried q pos t u) : Carried q pos s u where
  cmd d hd := by
    obtain ⟨c, hc, hcd⟩ := g.cmd d hd
    obtain ⟨b, hb, hbc⟩ := h.cmd c hc
    exact ⟨b, hb, hbc.trans hcd⟩
  restarts i := (g.restarts i).trans (h.restarts i)

theorem ite {c : Prop} [Decidable c] (ht : Carried q pos s t) (hu : Carried q pos s u) : Carried q pos s (if c then t else u) := by
  split
  · exact ht
  · exact hu

theorem foldl {α : Type} {f : State → α → State} (h : ∀ t x, Carried q pos t (f t x)) (l : List α) (s : State) :
    Carried q pos s (l.foldl f s) := by
  induction l generalizing s with
  | nil => exact refl q pos s
  | cons x l ih => exact (h s x).trans (ih (f s x))

end Carried

section
variable {q pos : Nat}

theorem MemOnly.carried {s t : State} (h : MemOnly s t) : Carried q pos s t := .of_eq h.queues h.colls

theorem EndOnly.carried {s t : State} (h : EndOnly s t) (hqueues : t.queues = s.queues) : Carried q pos s t := .of_eq hqueues h.colls

theorem modCmd_carried (s : State) {f : Cmd → Cmd} (hf : ∀ c : Cmd, c.Exchanges (f c)) : Carried q pos s (modCmd s q pos f) where
  cmd d hd := by
    rw [cmdAt_modCmd_same s q pos fun c => (hf c).pos] at hd
    obtain ⟨c, hc, rfl⟩ := Option.map_eq_some_iff.mp hd
    exact ⟨c, hc, hf c⟩
  restarts _ := rfl

theorem finishCmd_carried (s : State) (status result : Nat) : Carried q pos s (finishCmd s q pos status result) :=
  modCmd_carried s fun _ => ⟨rfl, rfl, rfl, rfl, rfl, rfl, rfl, rfl, id⟩

theorem restartsOf_modColl (s : State) (i : Nat) {f : CollEngine → CollEngine} (hf : ∀ e, (f e).restarts = e.restarts) (j : Nat) :
    restartsOf (modColl s i f) j = restartsOf s j := by
  unfold restartsOf modColl
  split
  · rename_i hi
    by_cases hj : i = j
    · subst hj
      simp [hf, hi]
    · simp [Vector.getElem?_set_ne, hj]
  · rfl

theorem modJob_carried (s : State) (p : Nat) (f : Job → Job) : Carried q pos s (modJob s p f) := .of_eq rfl rfl

theorem modColl_carried (s : State) (i : Nat) {f : CollEngine → CollEngine} (hf : ∀ e, (f e).restarts = e.restarts) :
    Carried q pos s (modColl s i f) :=
  ⟨(Carried.of_cmdAt (q := q) (pos := pos) (cmdAt_congr (by simp) q pos) rfl : Carried q pos s { modColl s i f with colls := s.colls }).cmd,
    restartsOf_modColl s i hf⟩

theorem journalWrite_carried (s : State) (p ty : Nat) (body : List Byte) : Carried q pos s (journalWrite s p ty body) :=
  (journalWrite_endOnly ..).carried (journalWrite_queues ..)

theorem telemetryPf0_carried (s : State) (ty : Nat) (body : List Byte) : Carried q pos s (telemetryPf0 s ty body) :=
  (telemetryPf0_endOnly ..).carried (telemetryPf0_queues ..)

theorem telemetryQueue_carried (s : State) (i ty : Nat) (body : List Byte) : Carried q pos s (telemetryQueue s i ty body) := by
  refine .of_cmdAt ?_ (telemetryQueue_endOnly ..).colls
  unfold telemetryQueue
  split
  · rfl
  · exact (cmdAt_modQueue _ i (by exact fun _ => rfl) q pos).trans (cmdAt_congr (ringWrite_memOnly ..).queues q pos)

/-! #### The end of the command -/

theorem cmdAt_endCmd (s : State) (q pos status : Nat) : cmdAt (endCmd s q pos status) q pos = none := by
  cases hc : cmdAt s q pos with
  | some c => exact (endCmdWith_ends hc status 0).1
  | none =>
    rw [endCmd, endCmdWith, hc]
    split
    · contradiction
    · exact hc

theorem endCmd_carried (s : State) (status : Nat) : Carried q pos s (endCmd s q pos status) where
  cmd d hd := by rw [cmdAt_endCmd] at hd; exact nomatch hd
  restarts := restartsOf_congr (endCmd_endOnly ..).colls

end

/-! #### Migrations that an access starts -/

theorem putMapEntry_endOnly (s : State) (o : TieredObject) (page frame : Nat) (st : PageState) (gen : Nat) :
    EndOnly s (putMapEntry s o page frame st gen) := by constructor <;> rfl

theorem promoteInto_endOnly (s : State) (p obj page frame : Nat) : EndOnly s (promoteInto s p obj page frame) := by
  unfold promoteInto
  split
  · exact .refl s
  · exact ((modPart_endOnly ..).trans (putMapEntry_endOnly ..)).trans (modPart_endOnly ..)

theorem beginDemotion_endOnly (s : State) (p obj page : Nat) (src : MigSource) : EndOnly s (beginDemotion s p obj page src) := by
  unfold beginDemotion
  split
  · exact .refl s
  split
  · exact (putMapEntry_endOnly ..).trans (modPart_endOnly ..)
  · exact .refl s

theorem startMigration_endOnly (s : State) (p obj page : Nat) (dir : MigDir) (src : MigSource) :
    EndOnly s (startMigration s p obj page dir src).2 := by
  have queued (r : MigRequest) : EndOnly s (queueMig s p r) := modPart_endOnly ..
  unfold startMigration
  split
  case h_2 => exact .refl s
  split
  case h_1 =>
    split
    · exact .refl s
    · exact queued _
  split
  · exact .refl s
  split
  · exact .refl s
  cases dir with
  | promote =>
    dsimp only
    split
    · exact .refl s
    split
    · exact .refl s
    split
    · exact (modPart_endOnly ..).trans (promoteInto_endOnly ..)
    split
    · exact .refl s
    split
    · exact .refl s
    · exact (modPart_endOnly ..).trans (beginDemotion_endOnly ..)
  | demote =>
    dsimp only
    split
    · exact .refl s
    split
    · exact queued _
    split
    · exact .refl s
    · exact beginDemotion_endOnly ..

section
variable {q pos : Nat}

theorem startMigration_carried (s : State) (p obj page : Nat) (dir : MigDir) (src : MigSource) :
    Carried q pos s (startMigration s p obj page dir src).2 := (startMigration_endOnly ..).carried (startMigration_queues ..)

theorem demandAccess_carried (s : State) (p obj page : Nat) : Carried q pos s (demandAccess s p obj page) := by
  have counted (f : TieredObject → TieredObject) : Carried q pos s (modObject s p obj f) := .of_eq rfl rfl
  unfold demandAccess
  split
  · exact .refl q pos s
  · exact .ite (.refl q pos s) (.ite ((counted _).trans (startMigration_carried ..)) (counted _))

/-! #### Accesses in the tiers (Table 5-6) -/

theorem holds_carried (s : State) (m : SMap Hold) : Carried q pos s { s with holds := m } := .of_eq rfl rfl

theorem hostReads_carried (s : State) (m : SMap HostRead) : Carried q pos s { s with hostReads := m } := .of_eq rfl rfl

theorem logError_carried (s : State) (cls die code part queue status addr detail : Nat) :
    Carried q pos s (logError s cls die code part queue status addr detail) := .of_eq (by simp) (by simp)

theorem holdRequest_carried (s : State) (p : Nat) (cause : StallCause) (a obj page : Nat) (rd : Option Nat) :
    Carried q pos s (holdRequest s p cause (some { queue := q, pos := pos }) a obj page rd) := by
  have counted : Carried q pos s (countHold s p cause) := .of_eq rfl rfl
  unfold holdRequest
  refine .ite (.refl q pos s) ?_
  split
  case h_1 c hc =>
    obtain rfl : { queue := q, pos := pos } = c := by
      split at hc
      · exact Option.some.inj hc
      · cases hc
    exact (counted.trans (endCmd_carried ..)).trans (journalWrite_carried ..)
  case h_2 =>
    refine (counted.trans (holds_carried ..)).trans (modCmd_carried _ ?_)
    exact fun _ => ⟨rfl, rfl, rfl, rfl, rfl, rfl, rfl, rfl, id⟩

/-- A request in the tiers, whatever it comes to, has carried the command on. -/
def TierAnswer.Carried (q pos : Nat) (s : State) : TierAnswer → Prop
  | .ready t => Machine.Carried q pos s t
  | .held t => Machine.Carried q pos s t
  | .bad t => Machine.Carried q pos s t

theorem tierPiece_carried (s : State) (p : Nat) (reachesT2 read : Bool) (a n : Nat) :
    (tierPiece s p (some { queue := q, pos := pos }) reachesT2 read a n).Carried q pos s := by
  unfold tierPiece
  split
  case h_2 => exact .refl q pos s
  split
  · exact .refl q pos s
  split
  · exact .refl q pos s
  extract_lets viaHost
  have hvia (t : State) (obj page : Nat) (h : Carried q pos s t) : (viaHost t obj page).Carried q pos s := by
    simp only [viaHost]
    split
    · exact h.trans (holdRequest_carried ..)
    split
    · exact h
    split
    · split
      · exact h.trans (hostReads_carried ..)
      · split
        · exact h.trans (hostReads_carried ..)
        · exact h
    · exact h
  split
  · exact hvia _ _ _ (.refl q pos s)
  extract_lets page
  split
  · exact logError_carried ..
  · exact .refl q pos s
  · exact holdRequest_carried ..
  · exact holdRequest_carried ..
  · split
    · exact hvia _ _ _ (demandAccess_carried ..)
    · rename_i obj _ _ _ _ _ _ _
      have hstart := startMigration_carried (q := q) (pos := pos) s p obj page .promote .cold
      split
      all_goals
        rename_i heq
        rw [heq] at hstart
        exact Carried.trans hstart (holdRequest_carried ..)

theorem tierPieces_carried {s0 s : State} (h : Carried q pos s0 s) (p : Nat) (reachesT2 read ok : Bool) (l : List (Nat × Nat)) :
    (tierPieces p (some { queue := q, pos := pos }) reachesT2 read s ok l).Carried q pos s0 := by
  induction l generalizing s ok with
  | nil => cases ok <;> exact h
  | cons e l ih =>
    have hpiece := tierPiece_carried (q := q) (pos := pos) s p reachesT2 read e.1 e.2
    rw [tierPieces]
    cases ht : tierPiece s p (some { queue := q, pos := pos }) reachesT2 read e.1 e.2 with
    | ready t | held t =>
      rw [ht] at hpiece
      exact ih (h.trans hpiece) _
    | bad t =>
      rw [ht] at hpiece
      exact h.trans hpiece

theorem tierReady_carried (s : State) (p : Nat) (reachesT2 read : Bool) (l : List (Nat × Nat)) :
    (tierReady s p (some { queue := q, pos := pos }) reachesT2 read l).Carried q pos s := by
  have hpieces := tierPieces_carried (.refl q pos s) p reachesT2 read true (l.flatMap (fun e => pagePieces e.1 e.2))
  unfold tierReady
  cases ht : tierPieces p (some { queue := q, pos := pos }) reachesT2 read s true (l.flatMap (fun e => pagePieces e.1 e.2)) with
  | ready t =>
    rw [ht] at hpieces
    exact Carried.trans hpieces (holds_carried ..)
  | held t | bad t =>
    rw [ht] at hpieces
    exact hpieces

/-! #### Reads and writes of the command -/

theorem chargePieces_carried (s : State) (l : List (Nat × Nat)) (write : Bool) : Carried q pos s (chargePieces s q pos l write) := by
  refine .foldl (fun t e => .foldl (fun u piece => ?_) _ t) l s
  split
  · refine (Carried.of_eq (t := countChannel u _ piece.2 write) (by simp) (by simp)).trans (modCmd_carried _ ?_)
    exact fun _ => ⟨rfl, rfl, rfl, rfl, rfl, rfl, rfl, rfl, id⟩
  · refine modCmd_carried _ ?_
    exact fun _ => ⟨rfl, rfl, rfl, rfl, rfl, rfl, rfl, rfl, id⟩
  · exact .refl q pos u

theorem iommuFault_carried (s : State) (p i a : Nat) : Carried q pos s (iommuFault s p i a) := by
  unfold iommuFault msiSomewhere
  dsimp only
  split
  · exact .of_eq (by simp [drawFree]) (by simp [drawFree])
  · exact .of_eq (by simp [drawFree]) (by simp [drawFree])

theorem failAccess_carried (s : State) (p a : Nat) : Carried q pos s (failAccess s p a) := by
  unfold failAccess
  split
  · exact .refl q pos s
  · exact .ite (.refl q pos s) (.of_eq (by simp) (by simp))
  · exact .of_eq (by simp) (by simp)

theorem logPoison_carried (s : State) (p i a : Nat) : Carried q pos s (logPoison s p i a) := by
  unfold logPoison
  split <;> exact logError_carried ..

theorem writePieces_memOnly (s : State) (l : List (Nat × Nat)) (bs : List Byte) : MemOnly s (writePieces s l bs) := by
  induction l generalizing s bs with
  | nil => exact .refl s
  | cons e l ih => exact (moduleWrite_memOnly ..).trans (ih _ _)

/-- An access of a command, whatever it comes to, has carried the command on. -/
def CmdIo.Carried (q pos : Nat) (s : State) : CmdIo → Prop
  | .ok t _ => Machine.Carried q pos s t
  | .held t => Machine.Carried q pos s t
  | .ended t => Machine.Carried q pos s t

theorem cmdRead_carried (s : State) (a n : Nat) : (cmdRead s q pos a n).Carried q pos s := by
  unfold cmdRead
  split
  · exact .refl q pos s
  dsimp only
  split
  · exact (iommuFault_carried ..).trans (endCmd_carried ..)
  rename_i l _
  split
  · exact (failAccess_carried ..).trans (endCmd_carried ..)
  have htier := tierReady_carried (q := q) (pos := pos) s (Queue.partition ‹_›) true true l
  split
  all_goals
    rename_i ht
    rw [ht] at htier
  · exact htier
  · exact Carried.trans htier (endCmd_carried ..)
  · split
    · exact (Carried.trans htier (logPoison_carried ..)).trans (endCmd_carried ..)
    · exact Carried.trans htier (chargePieces_carried ..)

theorem cmdWrite_carried (s : State) (a : Nat) (bs : List Byte) : (cmdWrite s q pos a bs).Carried q pos s := by
  unfold cmdWrite
  split
  · exact .refl q pos s
  dsimp only
  split
  · exact (iommuFault_carried ..).trans (endCmd_carried ..)
  rename_i l _
  split
  · exact (failAccess_carried ..).trans (endCmd_carried ..)
  have htier := tierReady_carried (q := q) (pos := pos) s (Queue.partition ‹_›) true false l
  split
  all_goals
    rename_i ht
    rw [ht] at htier
  · exact htier
  · exact Carried.trans htier (endCmd_carried ..)
  · exact (Carried.trans htier (writePieces_memOnly ..).carried).trans (chargePieces_carried ..)

@[simp] theorem CmdIo.bind_ok (s : State) (b : List Byte) (f : State → List Byte → State) : (CmdIo.ok s b).bind f = f s b := rfl

/-- What follows an access carries the command on if it does so after the access. -/
theorem CmdIo.Carried.bind {s : State} {x : CmdIo} (h : x.Carried q pos s) {f : State → List Byte → State}
    (hf : ∀ t b, Machine.Carried q pos t (f t b)) : Machine.Carried q pos s (x.bind f) := by
  cases x with
  | ok t b => exact Machine.Carried.trans h (hf t b)
  | held t | ended t => exact h

end

/-! #### Messages to peers -/

/-- From s to t messages may have been sent: ports, flows and the counters of the collective engines, but for restarts, may have moved. -/
structure Sends (s t : State) : Prop extends PortOnly s t where
  restarts : ∀ i, restartsOf t i = restartsOf s i

namespace Sends

theorem of_colls {s t : State} (h : PortOnly s t) (hcolls : t.colls = s.colls) : Sends s t := ⟨h, restartsOf_congr hcolls⟩

theorem refl (s : State) : Sends s s := of_colls (.refl s) rfl

theorem trans {s t u : State} (h : Sends s t) (g : Sends t u) : Sends s u :=
  ⟨h.toPortOnly.trans g.toPortOnly, fun i => (g.restarts i).trans (h.restarts i)⟩

theorem foldl {α : Type} {f : State → α → State} (h : ∀ t x, Sends t (f t x)) (l : List α) (s : State) : Sends s (l.foldl f s) := by
  induction l generalizing s with
  | nil => exact refl s
  | cons x l ih => exact (h s x).trans (ih (f s x))

theorem carried {q pos : Nat} {s t : State} (h : Sends s t) : Carried q pos s t :=
  ⟨fun d hd => ⟨d, by rwa [cmdAt_congr h.queues] at hd, .refl d⟩, h.restarts⟩

end Sends

theorem emitFrame_sends (s : State) (port : Nat) (f : TFrame) : Sends s (emitFrame s port f) := by
  refine ⟨emitFrame_portOnly .., fun i => ?_⟩
  unfold emitFrame
  split
  · rfl
  dsimp only
  split
  · exact (restartsOf_modColl _ _ (by exact fun _ => rfl) i).trans (restartsOf_congr (by simp) i)
  · exact restartsOf_congr (by simp) i

theorem sendControl_sends (s : State) (fid type : Nat) : Sends s (sendControl s fid type) := by
  unfold sendControl
  split
  · exact .refl s
  split
  · exact .refl s
  · exact emitFrame_sends ..

theorem modFlow_sends (s : State) (fid : Nat) (f : Flow → Flow) : Sends s (modFlow s fid f) := .of_colls (modFlow_portOnly ..) rfl

theorem pumpFlow_sends (fuel : Nat) (s : State) (fid : Nat) : Sends s (pumpFlow fuel s fid) := by
  induction fuel generalizing s with
  | zero => exact .refl s
  | succ fuel ih =>
    unfold pumpFlow
    split
    · exact .refl s
    split
    · split
      · exact .refl s
      split
      · exact .refl s
      · exact ((emitFrame_sends ..).trans (modFlow_sends ..)).trans (ih _)
    · exact .refl s

theorem flows_sends (s : State) (m : SMap Flow) : Sends s { s with flows := m } := .of_colls (by constructor <;> rfl) rfl

theorem flowRoom_sends {s t : State} {p : Nat} (h : flowRoom s p = some t) : Sends s t := by
  unfold flowRoom at h
  dsimp only at h
  split at h
  · cases h
    exact .refl s
  · split at h
    · cases h
    · cases h
      exact (sendControl_sends ..).trans (flows_sends ..)

theorem openFlow_sends {s t : State} {p m fid : Nat} (h : openFlow s p m = some (fid, t)) : Sends s t := by
  unfold openFlow at h
  split at h
  · cases h
    exact .refl s
  · split at h
    · cases h
    · rename_i hroom
      cases h
      exact ((flowRoom_sends hroom).trans (flows_sends ..)).trans (sendControl_sends ..)

theorem sendMessage_sends {s t : State} {p m cls tag op seq round : Nat} {body : List Byte}
    (h : sendMessage s p m cls tag op seq round body = .ok t) : Sends s t := by
  unfold sendMessage at h
  split at h
  · cases h
    exact .refl s
  · cases h
  · split at h
    · cases h
    · rename_i hopen
      cases h
      exact ((openFlow_sends hopen).trans (modFlow_sends ..)).trans (pumpFlow_sends ..)

theorem sendOr_sends (s : State) (p m cls tag op seq round : Nat) (body : List Byte) : Sends s (sendOr s p m cls tag op seq round body) := by
  unfold sendOr
  split
  · exact sendMessage_sends ‹_›
  · exact .refl s

/-- A message to each of several members: the command goes on, or a member that cannot be reached ends it. -/
theorem sendEach_carried {q pos : Nat} (p : Nat) (f : Nat → Nat × Nat × Nat × Nat × List Byte) (l : List Nat) (s : State) :
    Carried q pos s (sendEach q pos p f s l) := by
  induction l generalizing s with
  | nil => exact .refl q pos s
  | cons m l ih =>
    rw [sendEach]
    generalize f m = e
    obtain ⟨cls, tag, op, seq, body⟩ := e
    dsimp only
    split
    · exact endCmd_carried ..
    · exact endCmd_carried ..
    · rename_i hsent
      refine ((sendMessage_sends hsent).carried.trans (modCmd_carried _ ?_)).trans (ih _)
      exact fun _ => ⟨rfl, rfl, rfl, rfl, rfl, rfl, rfl, rfl, id⟩

/-- Where the messages do not end the command, they leave the partitions as they are. -/
theorem sendEach_partitions {q pos : Nat} (p : Nat) (f : Nat → Nat × Nat × Nat × Nat × List Byte) (l : List Nat) (s : State) :
    cmdAt (sendEach q pos p f s l) q pos = none ∨ (sendEach q pos p f s l).partitions = s.partitions := by
  induction l generalizing s with
  | nil => exact .inr rfl
  | cons m l ih =>
    rw [sendEach]
    generalize f m = e
    obtain ⟨cls, tag, op, seq, body⟩ := e
    dsimp only
    split
    · exact .inl (cmdAt_endCmd ..)
    · exact .inl (cmdAt_endCmd ..)
    · rename_i hsent
      exact (ih _).imp_right fun h => h.trans (sendMessage_sends hsent).partitions

end Sys2Proof.Machine
end

section
/-! ### Steps and evaluation windows (R256, R262, R263, R269, R271, R290, R314, R315, R323) -/

namespace Sys2Proof.Machine

theorem exec_stepBegin (q : BitVec 12) (pos : BitVec 32) (s : State) : exec (.stepBegin q pos) s = execStepBegin q pos s := rfl

/-! #### Switch points leave the open step and the window as they are (R256, R258) -/

/-- The step and the evaluation window that a partition's job has open. -/
def openWork (s : State) (p : Nat) : Option (Option OpenStep × Option EvalWindow) := (jobAt s p).map (fun j => (j.step, j.eval))

/-- From s to t partition p's open step and window, and every queue context, stay. -/
structure KeepsWork (p : Nat) (s t : State) : Prop where
  work : openWork t p = openWork s p
  queues : t.queues = s.queues

namespace KeepsWork

variable {p : Nat}

theorem refl (p : Nat) (s : State) : KeepsWork p s s := ⟨rfl, rfl⟩

theorem trans {s t u : State} (h : KeepsWork p s t) (g : KeepsWork p t u) : KeepsWork p s u := ⟨g.work.trans h.work, g.queues.trans h.queues⟩

theorem ite {s t u : State} {c : Prop} [Decidable c] (ht : KeepsWork p s t) (hu : KeepsWork p s u) : KeepsWork p s (if c then t else u) := by
  split
  · exact ht
  · exact hu

theorem foldl {α : Type} {f : State → α → State} (h : ∀ t x, KeepsWork p t (f t x)) (l : List α) (s : State) : KeepsWork p s (l.foldl f s) :=
  ⟨foldl_read (openWork · p) (fun t x => (h t x).work) l s, foldl_read (·.queues) (fun t x => (h t x).queues) l s⟩

end KeepsWork

section
variable {p : Nat}

theorem JobsKept.keepsWork {s t : State} (h : JobsKept s t) (hqueues : t.queues = s.queues) : KeepsWork p s t :=
  ⟨by rw [openWork, h.job, openWork], hqueues⟩

theorem MemOnly.keepsWork {s t : State} (h : MemOnly s t) : KeepsWork p s t := h.jobsKept.keepsWork h.queues

theorem modTable_keepsWork (s : State) (id : Nat) (f : EmbTable → EmbTable) : KeepsWork p s (modTable s p id f) := by
  refine ⟨?_, rfl⟩
  rw [openWork, modTable, jobAt_modJob, Option.map_map, openWork]
  rfl

theorem switchRegions_keepsWork (s : State) (id : Nat) : KeepsWork p s (switchRegions s p id) := by
  unfold switchRegions
  split
  · exact .refl p s
  split
  · exact .refl p s
  refine .ite (.refl p s) ?_
  extract_lets goal js s0 r1 s1 d r2
  have hjournal : KeepsWork p s s0 := (journalWrite_jobsKept ..).keepsWork (journalWrite_queues ..)
  refine hjournal.trans (.ite ?_ ?_)
  · exact (putRelayout_memOnly ..).keepsWork.trans (modTable_keepsWork ..)
  · refine KeepsWork.trans ?_ (.foldl (fun u g => (cohWrite_memOnly ..).keepsWork) _ _)
    exact (modTable_keepsWork ..).trans (putRelayout_memOnly ..).keepsWork

theorem switchTables_keepsWork (s : State) : KeepsWork p s (switchTables s p) := by
  unfold switchTables
  split
  · exact .refl p s
  · exact .foldl (fun t id => .ite (.refl p t) (switchRegions_keepsWork ..)) _ s

end

/-! #### A switch event installs a mapping table (R269, R271) -/

/-- The job once `n` slivers have moved and its mapping tables are `m`. -/
def Job.withSlivers (j : Job) (m : SMap Mapping) (n : Nat) : Job :=
  { j with mappings := m, step := j.step.map (fun o => { o with sliversMoved := o.sliversMoved + n }) }

theorem Job.withSlivers_zero (j : Job) : j.withSlivers j.mappings 0 = j := by
  obtain ⟨⟩ := j
  simp [withSlivers]

theorem jobAt_moveSlivers {s : State} {p : Nat} {j : Job} {m : SMap Mapping} {n : Nat} (h : jobAt s p = some (j.withSlivers m n))
    (idx role : Nat) (r : Role) (k slow fast : Nat) :
    ∃ m n, jobAt (moveSlivers s p idx role r k slow fast) p = some (j.withSlivers m n) := by
  refine ⟨mapModify m idx (fun z => { z with roles := z.roles.set role r }), n + k, ((journalWrite_jobsKept ..).job p).trans ?_⟩
  rw [jobAt_modJob, h]
  simp [Job.withSlivers, Function.comp_def, Nat.add_assoc]

/-- The job once mapping table `idx` is installed: the busy counts start anew (R269). -/
def Job.install (j : Job) (idx : Nat) : Job :=
  { j with busy := [], step := j.step.map (fun o => { o with installed := idx }), eval := j.eval.map (fun w => { w with installed := idx }) }

theorem jobAt_install {s : State} {p : Nat} {j : Job} (h : ∃ m n, jobAt s p = some (j.withSlivers m n)) (idx : Nat) :
    ∃ m n, jobAt (modJob s p (·.install idx)) p = some ((j.withSlivers m n).install idx) := by
  obtain ⟨m, n, h⟩ := h
  exact ⟨m, n, by rw [jobAt_modJob, h]; rfl⟩

/-- After a switch event the mapping table is installed; slivers may have moved. -/
theorem jobAt_switchMapping {s : State} {p : Nat} {j : Job} (h : jobAt s p = some j) (idx : Nat) (rebalance : Bool) (pm : Nat) :
    ∃ m n, jobAt (switchMapping s p idx rebalance pm) p = some ((j.withSlivers m n).install idx) := by
  have hstays : ∃ m n, jobAt s p = some (j.withSlivers m n) := ⟨j.mappings, 0, by rw [h, j.withSlivers_zero]⟩
  simp only [switchMapping, h]
  refine jobAt_install ?_ idx
  split
  · exact hstays
  split
  · exact hstays
  refine List.foldlRecOn (motive := fun t => ∃ m n, jobAt t p = some (j.withSlivers m n)) _ _ hstays fun t ht x _ => ?_
  split
  · exact ht
  · obtain ⟨m, n, ht⟩ := ht
    exact jobAt_moveSlivers ht ..

/-- What is open after a switch event and a switch point is what was, under the mapping table installed; slivers may have moved. -/
theorem switched_work {s : State} {p : Nat} {j : Job} (h : jobAt s p = some j) (idx : Nat) (rebalance : Bool) (pm : Nat) :
    ∃ n, (jobAt (switchTables (switchMapping s p idx rebalance pm) p) p).bind (·.step)
        = j.step.map (fun o => { o with sliversMoved := o.sliversMoved + n, installed := idx })
      ∧ (jobAt (switchTables (switchMapping s p idx rebalance pm) p) p).bind (·.eval) = j.eval.map (fun w => { w with installed := idx }) := by
  obtain ⟨m, n, hjob⟩ := jobAt_switchMapping h idx rebalance pm
  have hwork : openWork (switchTables (switchMapping s p idx rebalance pm) p) p = _ :=
    (switchTables_keepsWork ..).work.trans (congrArg (Option.map _) hjob)
  obtain ⟨t, ht, heq⟩ := Option.map_eq_some_iff.mp hwork
  refine ⟨n, ?_, ?_⟩
  · have hstep : t.step = _ := congrArg Prod.fst heq
    rw [ht, Option.bind_some, hstep]
    simp [Job.install, Job.withSlivers, Function.comp_def]
  · rw [ht]
    exact congrArg Prod.snd heq

/-! #### STEP_BEGIN (R262, R263) -/

theorem clearRange_memOnly (s : State) (a n : Nat) : MemOnly s (clearRange s a n) := by
  refine MemOnly.trans ?_ (clearPoison_memOnly ..)
  exact (recallRange_memOnly ..).trans (by constructor <;> rfl)

/-- The step that STEP_BEGIN opens under the plan `x` (R262). -/
structure OpenStep.Opens (o : OpenStep) (q : Nat) (x : StepPlan) : Prop where
  step : o.step = x.step
  plan : o.plan = x
  queue : o.queue = q
  ended : o.ended = []
  started : o.started = []
  flag : o.flag = false
  nfc : o.nfc = 0
  cutoff : o.cutoff = none
  installed : o.installed = x.mapFb

/-- The stamp log and the norm area as STEP_BEGIN leaves them are memory only. -/
theorem clearedAreas_memOnly (s : State) (x : StepPlan) : MemOnly s ((List.range x.normSlots).foldl (fun t i =>
    cohWrite t (x.normArea + 16 * i) (zeros 8 ++ natToBytes 2 0xFFFF ++ zeros 6)) (clearRange s x.stampLog 524288)) :=
  (clearRange_memOnly ..).trans (.foldl (fun _ _ => cohWrite_memOnly ..) _ _)

theorem openStep_opens {s : State} {p : Nat} {j : Job} (h : jobAt s p = some j) (q : Nat) (x : StepPlan) :
    ∃ o, (jobAt (openStep s p q j x) p).bind (·.step) = some o ∧ o.Opens q x := by
  unfold openStep
  extract_lets re s1 s2 o s3
  have hcleared : jobAt s2 p = some j := ((clearedAreas_memOnly s x).jobsKept.job p).trans h
  have hopened : jobAt s3 p = _ := (jobAt_modJob ..).trans (congrArg _ hcleared)
  obtain ⟨n, hstep, -⟩ := switched_work hopened x.mapFb x.rebalance x.rebalPm
  exact ⟨{ o with sliversMoved := o.sliversMoved + n, installed := x.mapFb }, hstep, rfl, rfl, rfl, rfl, rfl, rfl, rfl, rfl, rfl⟩

theorem openStep_queues (s : State) (p q : Nat) (j : Job) (x : StepPlan) : (openStep s p q j x).queues = s.queues :=
  ((switchTables_keepsWork ..).queues.trans (switchMapping_queues ..)).trans (clearedAreas_memOnly s x).queues

theorem jobAt_finishCmd (s : State) (q pos status result p : Nat) : jobAt (finishCmd s q pos status result) p = jobAt s p := jobAt_congr rfl p

/-- STEP_BEGIN whose plan has been read is judged by the plan (R262). -/
theorem execStepBegin_read {s s1 : State} {q : BitVec 12} {pos : BitVec 32} {x : Queue} {c : Cmd} {j : Job} {b : List Byte}
    (h : Working s q.toNat pos.toNat 0x09 x c) (hj : jobAt s x.partition = some j) (hstep : j.step = none) (heval : j.eval = none)
    (hrun : j.halted = 0) (halign : c.field 0x20 8 % 64 = 0) (hown : ownsT1 s x.partition (c.field 0x20 8) 64 = true)
    (hread : cmdRead s q.toNat pos.toNat (c.field 0x20 8) 64 = .ok s1 b) :
    execStepBegin q pos s = .next (if (planOf b).step ≠ j.committed + 1 ∨ !planOk s1 x.partition j b then endCmd s1 q.toNat pos.toNat stInvalid
      else finishCmd (openStep s1 x.partition q.toNat j (planOf b)) q.toNat pos.toNat stOk 0) := by
  simp only [execStepBegin, runCmd_working h, hj]
  rw [if_neg (by simp [hstep, heval]), if_neg (by simp [hrun]), if_neg (by simp [halign]), if_neg (by simp [hown]), hread, CmdIo.bind_ok]

/-! #### STEP_COMMIT (R314, R320) -/

theorem sendExchange_sends (s : State) (p m step kind : Nat) (body : List Byte) : Sends s (sendExchange s p m step kind body) :=
  sendOr_sends ..

/-- No message is staged, so none is taken in. -/
theorem replayEarly_nil {s : State} {p : Nat} {j : Job} (h : jobAt s p = some j) (he : j.early = []) (step : Nat) : ∃ f : Job → Job,
    replayEarly s p step = modJob s p f ∧ f j = j := by
  refine ⟨_, by simp only [replayEarly, h, he]; rfl, ?_⟩
  obtain ⟨⟩ := j
  simp_all

/-- While a member's contribution is missing, CHECK waits (R314). -/
theorem progressCommit_waits {s : State} {p : Nat} {j : Job} {r : CommitRun} (hj : jobAt s p = some j) (hr : j.commit = some r)
    (hphase : r.phase = .check) (hin : checksIn s j r = false) : progressCommit s p = s := by
  simp only [progressCommit, runOf, hj, Option.bind_some, hr, hphase, hin]
  rfl

/-- Another member of the check group has given nothing yet where this one's contribution is the only one. -/
theorem checksIn_own {s : State} {j : Job} {r : CommitRun} {m : CheckMsg} (hr : r.checks = [m]) (hm : m.member = s.life.moduleId)
    (hpeers : (checkPeers s j).any (· != s.life.moduleId) = true) : checksIn s j r = false := by
  obtain ⟨peer, hpeer, hne⟩ := List.any_eq_true.mp hpeers
  refine List.all_eq_false.mpr ⟨peer, hpeer, ?_⟩
  have hother : m.member ≠ peer := by
    rw [hm]
    exact fun he => bne_iff_ne.mp hne he.symm
  simp [checkOf, hr, hother]

/-- The run of a STEP_COMMIT that has given this member's contribution. -/
def ownRun (q pos step hyper : Nat) (own : CheckMsg) : CommitRun := { newRun q pos step hyper false with checks := [own] }

/-- STEP_COMMIT whose checks pass contributes, and waits for the other members of the check group (R314). -/
theorem execStepCommit_waits {s : State} {q : BitVec 12} {pos : BitVec 32} {x : Queue} {c : Cmd} {j : Job} {o : OpenStep}
    (h : Working s q.toNat pos.toNat 0x0A x c) (hj : jobAt s x.partition = some j) (hreplay : replayHolds s x.partition = false)
    (hcommit : j.commit = none) (hstep : j.step = some o) (hlow : c.field 0x20 8 < usableBytes s)
    (hown : ownsT1 s x.partition (c.field 0x20 8) (32 * j.layers) = true) (hsound : rangePoisoned s (c.field 0x20 8) (32 * j.layers) = false)
    (hhyper : hyperTableOk s x.partition j (c.field 0x20 8) = true) (hearly : j.early = [])
    (hpeers : (checkPeers s j).any (· != s.life.moduleId) = true) :
    ∃ t, execStepCommit q pos s = .next t ∧ (jobAt t x.partition).bind (·.commit)
      = some (ownRun q.toNat pos.toNat o.step (c.field 0x20 8) (ownCheck s x.partition j o)) ∧ t.mem = s.mem := by
  let p := x.partition
  let r := ownRun q.toNat pos.toNat o.step (c.field 0x20 8) (ownCheck s p j o)
  let contributed := modJob s p (fun y => { y with commit := some r })
  let told := (checkPeers contributed j).foldl (fun t m => sendExchange t p m o.step 0 (checkBytes (ownCheck s p j o))) contributed
  have hsends : Sends contributed told := .foldl (fun _ _ => sendExchange_sends ..) _ _
  have htold : jobAt told p = some { j with commit := some r } := by
    rw [jobAt_congr hsends.partitions, jobAt_modJob, hj]
    rfl
  obtain ⟨f, hreplayed, hf⟩ := replayEarly_nil htold hearly o.step
  have hjob : jobAt (modJob told p f) p = some { j with commit := some r } := by rw [jobAt_modJob, htold, Option.map_some, hf]
  have hlife : (modJob told p f).life = s.life := hsends.life
  have hin : checksIn (modJob told p f) { j with commit := some r } r = false :=
    checksIn_own (m := ownCheck s p j o) rfl (congrArg (·.moduleId) hlife.symm) (by simpa only [checkPeers, hlife] using hpeers)
  have hwaits : progressCommit (replayEarly told p o.step) p = modJob told p f := by
    rw [hreplayed, progressCommit_waits hjob rfl rfl hin]
  refine ⟨modJob told p f, ?_, by rw [hjob]; rfl, hsends.mem⟩
  simp only [execStepCommit, runCmd_working h, hj]
  rw [if_neg (by simp [hreplay]), if_neg (by simp [hcommit]), hstep]
  dsimp only
  rw [if_neg (by simp [hlow, hown]), if_neg (by simp [hsound]), if_neg (by simp [hhyper])]
  exact congrArg _ hwaits

/-! #### STEP_RECOVER, EVAL_BEGIN and EVAL_END (R290, R323) -/

section
variable {s : State} {q : BitVec 12} {pos : BitVec 32} {x : Queue} {c : Cmd} {j : Job} (hj : jobAt s x.partition = some j)
include hj

/-- STEP_RECOVER of a step that has committed sends its digests, which confirm it (R323). -/
theorem execStepRecover_committed {k : CommitRec} (h : Working s q.toNat pos.toNat 0x0B x c) (hcommit : j.commit = none) (hstep : j.step = none)
    (hrun : j.halted = 0) (hk : readCommitRec s j = some k) (hle : c.field 0x20 8 ≤ k.committed) :
    execStepRecover q pos s = .next (finishCmd (sendDigests s x.partition (c.field 0x20 8)) q.toNat pos.toNat stOk 0) := by
  simp only [execStepRecover, runCmd_working h, hj]
  rw [if_neg (by simp [hcommit]), if_neg (by simp [hstep, hrun]), hk]
  dsimp only
  rw [if_pos hle]

/-- EVAL_BEGIN opens the window of the last committed step under the evaluation mapping of its plan (R290). -/
theorem execEvalBegin_opens {plan : StepPlan} (h : Working s q.toNat pos.toNat 0x0C x c) (hplan : j.lastPlan = some plan) (hstep : j.step = none)
    (heval : j.eval = none) (hlast : plan.step = j.committed) : ∃ t, execEvalBegin q pos s = .next t
      ∧ (cmdAt t q.toNat pos.toNat).map (fun d => (d.phase, d.status)) = some (.finished, stOk)
      ∧ (jobAt t x.partition).bind (·.eval) = some { step := j.committed, installed := plan.mapEval } := by
  let opened := modJob s x.partition (fun y => { y with eval := some { step := j.committed, installed := plan.mapEval } })
  let switched := switchTables (switchMapping opened x.partition plan.mapEval plan.rebalance plan.rebalPm) x.partition
  have hqueues : switched.queues = s.queues := (switchTables_keepsWork ..).queues.trans (switchMapping_queues ..)
  have hopened : jobAt opened x.partition = _ := (jobAt_modJob ..).trans (congrArg _ hj)
  obtain ⟨n, -, hwindow⟩ := switched_work hopened plan.mapEval plan.rebalance plan.rebalPm
  refine ⟨finishCmd switched q.toNat pos.toNat stOk 0, ?_, finishCmd_done _ _ (by rw [cmdAt_congr hqueues, h.cmd]; rfl), by rw [jobAt_finishCmd, hwindow]; rfl⟩
  simp only [execEvalBegin, runCmd_working h, hj, hplan]
  rw [if_neg (by simp [hstep, heval, hlast])]

/-- EVAL_END closes the window once no EVAL command is under way (R290). -/
theorem execEvalEnd_closes {e : EvalWindow} (h : Working s q.toNat pos.toNat 0x0D x c) (heval : j.eval = some e)
    (hnone : cmdsWhere s (fun _ y d => y.partition == x.partition && d.phase != .waiting && d.phaseTag == 4) = []) :
    execEvalEnd q pos s = .next (finishCmd (modJob s x.partition (fun y => { y with eval := none })) q.toNat pos.toNat stOk 0) := by
  simp only [execEvalEnd, runCmd_working h, hj, Option.bind_some, heval, hnone]
  rfl

end

/-! #### The decision (R315) -/

theorem decide315_mismatch (pol : Policy) (m flag : Bool) (g : Word32) : decide315 pol (some m) flag g = (3, 0x3F800000, false) := rfl

theorem decide315_nonfinite (pol : Policy) (g : Word32) :
    decide315 pol none true g = (if pol.abortOnNonfinite then 4 else 3, 0x3F800000, false) := rfl

section
variable (pol : Policy) {g : Word32}

theorem decide315_absurd (h : g = 0x7F800000 ∨ ltF32 pol.absurd g = true) : (decide315 pol none false g).1 = 3 := by
  rw [decide315, if_neg (by simp), if_neg (by simp), if_pos h]

variable (hinf : g ≠ 0x7F800000) (habsurd : ltF32 pol.absurd g = false)
include hinf habsurd

theorem decide315_finite : decide315 pol none false g
    = if ltF32 pol.clip g then (2, divF32 pol.clip g, false) else (1, 0x3F800000, false) := by
  rw [decide315, if_neg (by simp), if_neg (by simp), if_neg (not_or.mpr ⟨hinf, by simp [habsurd]⟩)]
  rfl

end

/-! #### The statement -/

/-- Settles O43: a command whose checks pass does what its own lemma says; opening and closing a step or a window changes the job only. -/
theorem stepAndEvaluation : Obligations.StepAndEvaluation := by
  unfold Obligations.StepAndEvaluation
  intro s q pos x c j qn n p ended hj
  refine ⟨?begins, ?commits, ?recovers, ?evalBegins, ?evalEnds, ?decides⟩
  case begins =>
    intro h hstep heval hrun halign hown s1 b hread hj1 hcmd
    have hexec := (exec_stepBegin q pos s).trans (execStepBegin_read h hj hstep heval hrun halign hown hread)
    refine ⟨fun hnext hplan => ?_, fun hother => hexec.trans (by rw [if_pos (.inl hother)])⟩
    obtain ⟨o, ho, hopens⟩ := openStep_opens hj1 qn (planOf b)
    refine ⟨_, o, hexec.trans (by rw [if_neg (by simp [hnext, hplan, p])]), finishCmd_done _ _ ?_, by rw [jobAt_finishCmd, ho],
      hopens.step.trans hnext, hopens.plan, hopens.queue, hopens.ended, hopens.started, hopens.flag, hopens.nfc, hopens.cutoff,
      hopens.installed⟩
    rw [cmdAt_congr (openStep_queues ..)]
    exact hcmd
  case commits =>
    intro o h hreplay hcommit hstep hlow hown hsound hhyper hearly hpeers
    obtain ⟨t, ht, hrun, hmem⟩ := execStepCommit_waits h hj hreplay hcommit hstep hlow hown hsound hhyper hearly hpeers
    exact ⟨t, _, ht, hrun, rfl, rfl, rfl, rfl, rfl, rfl, hmem⟩
  case recovers =>
    intro k h hcommit hstep hrun hk hle
    exact execStepRecover_committed hj h hcommit hstep hrun hk hle
  case evalBegins =>
    intro plan h hplan hstep heval hlast
    obtain ⟨t, ht, hdone, hwindow⟩ := execEvalBegin_opens hj h hplan hstep heval hlast
    exact ⟨t, ht, hdone, by rw [hwindow]; rfl⟩
  case evalEnds =>
    intro e h heval hnone
    exact execEvalEnd_closes hj h heval hnone
  case decides =>
    intro pol g
    refine ⟨fun m => decide315_mismatch .., decide315_nonfinite .., decide315_absurd _ (.inl rfl), fun h => decide315_absurd _ (.inr h),
      fun hinf habsurd hclip => ?_, fun hinf habsurd hclip => ?_⟩
    · rw [decide315_finite _ hinf habsurd, if_pos hclip]
    · rw [decide315_finite _ hinf habsurd, if_neg (by simp [hclip])]

end Sys2Proof.Machine
end

section
/-! ### Collectives and ring passes (R284, R285, R351 to R357) -/

namespace Sys2Proof.Machine

theorem exec_collectiveDone (q : BitVec 12) (pos : BitVec 32) (member : BitVec 16) (s : State) :
    exec (.collectiveDone q pos member) s = execCollectiveDone q pos member s := rfl
theorem exec_collectiveRestart (q : BitVec 12) (pos : BitVec 32) (s : State) :
    exec (.collectiveRestart q pos) s = execCollectiveRestart q pos s := rfl
theorem exec_ringPass (q : BitVec 12) (pos : BitVec 32) (s : State) : exec (.ringPass q pos) s = execRingPass q pos s := rfl
theorem exec_ringPassGrant (q : BitVec 12) (pos : BitVec 32) (s : State) : exec (.ringPassGrant q pos) s = execRingPassGrant q pos s := rfl

/-! #### Slices of a buffer (R351) -/

/-- The bytes of a full slice of a buffer of `total` bytes over n ranks. -/
def sliceWidth (total n : Nat) : Nat := 64 * ((total + 64 * n - 1) / (64 * n))

theorem sliceRange_eq (total n k : Nat) : sliceRange total n k
    = (min total (sliceWidth total n * k), min (sliceWidth total n) (total - min total (sliceWidth total n * k))) := rfl

/-- n full slices cover the buffer. -/
theorem total_le_slices (total : Nat) {n : Nat} (hn : 0 < n) : total ≤ sliceWidth total n * n := by
  have hdiv := Nat.div_add_mod (total + 64 * n - 1) (64 * n)
  have hmod := Nat.mod_lt (total + 64 * n - 1) (show 0 < 64 * n by omega)
  rw [sliceWidth, show 64 * ((total + 64 * n - 1) / (64 * n)) * n = 64 * n * ((total + 64 * n - 1) / (64 * n)) by ring]
  omega

theorem sliceRange_succ (total n k : Nat) : (sliceRange total n k).1 + (sliceRange total n k).2 = (sliceRange total n (k + 1)).1 := by
  simp only [sliceRange_eq, Nat.mul_succ]
  omega

theorem sliceRange_aligned {total n k : Nat} (h : (sliceRange total n k).2 ≠ 0) : (sliceRange total n k).1 % 64 = 0 := by
  rw [sliceRange_eq] at h ⊢
  have hlt : sliceWidth total n * k < total := by
    dsimp only at h
    omega
  rw [min_eq_right hlt.le, sliceWidth, Nat.mul_assoc]
  exact Nat.mul_mod_right ..

/-! #### Commands changed in place -/

/-- A command at work stays at work where its descriptor and its phase stay. -/
theorem Working.modCmd {s : State} {q pos op : Nat} {x : Queue} {c : Cmd} (h : Working s q pos op x c) {f : Cmd → Cmd}
    (hpos : ∀ d, (f d).pos = d.pos) (hphase : (f c).phase = c.phase) (hdesc : (f c).desc = c.desc) :
    ∃ y, y.partition = x.partition ∧ Working (modCmd s q pos f) q pos op y (f c) := by
  refine ⟨_, ?_, (queueAt_modCmd_same ..).trans (congrArg _ h.queue), (cmdAt_modCmd_same s q pos hpos).trans (congrArg _ h.cmd),
    hphase.trans h.admitted, (congrArg (fieldAt · 0x08 1) hdesc).trans h.opcode⟩
  rfl

/-- A command changed in place leaves every other command as it is. -/
theorem cmdAt_modCmd_other (s : State) {q1 pos1 q pos : Nat} (hne : (q1, pos1) ≠ (q, pos)) {f : Cmd → Cmd} (hf : ∀ c, (f c).pos = c.pos) :
    cmdAt (modCmd s q1 pos1 f) q pos = cmdAt s q pos := by
  by_cases hq : q = q1
  · subst hq
    have hpos : pos ≠ pos1 := fun he => hne (by rw [he])
    have hkept (c : Cmd) : (if c.pos == pos1 then f c else c).pos = c.pos := by split <;> simp [hf]
    rw [cmdAt, queueAt_modCmd_same, cmdAt]
    cases queueAt s q with
    | none => rfl
    | some x =>
      simp only [Option.map_some, Option.bind_some, List.find?_map, Function.comp_def, hkept]
      cases hc : x.cmds.find? (fun c => c.pos == pos) with
      | none => rfl
      | some c =>
        have hat : c.pos = pos := by simpa using List.find?_some hc
        simp [hat, hpos]
  · simp only [cmdAt, queueAt, Machine.modCmd, modQueue, mapGet_mapModify_other _ _ hq]

theorem colls_modColl_same (s : State) (i : Nat) (f : CollEngine → CollEngine) : (modColl s i f).colls[i]? = (s.colls[i]?).map f := by
  unfold modColl
  split
  · rename_i hi
    simp [hi]
  · rename_i hi
    simp [hi]

/-! #### What ends a collective carries it on -/

section
variable {q pos : Nat}

theorem stampGrads_memOnly (s : State) (p a n : Nat) : MemOnly s (stampGrads s p a n) := by
  unfold stampGrads
  split
  · exact .refl s
  split
  · exact .refl s
  · refine .foldl (fun t x => ?_) _ s
    dsimp only
    split
    · exact cohWrite_memOnly ..
    · exact .refl t

theorem laggard_carried (s : State) (p i tag peer cause plane lagPm n seq wait total : Nat) :
    Carried q pos s (laggard s p i tag peer cause plane lagPm n seq wait total) := by
  unfold laggard
  refine .ite (modColl_carried _ _ (by exact fun _ => rfl)) ?_
  refine Carried.trans ?_ (modColl_carried _ _ (by exact fun _ => rfl))
  exact ((telemetryPf0_carried ..).trans (telemetryQueue_carried ..)).trans (modJob_carried ..)

theorem collLaggard_carried (s : State) (p i : Nat) (c : Cmd) : Carried q pos s (collLaggard s p i c) :=
  .ite (laggard_carried ..) (.refl q pos s)

theorem completeColl_carried (s : State) (p : Nat) (c : Cmd) (out : List Byte) : Carried q pos s (completeColl s q pos p c out) := by
  refine (cmdWrite_carried ..).bind fun t _ => ?_
  refine Carried.trans (Carried.trans ?_ (modColl_carried _ _ (by exact fun _ => rfl))) (finishCmd_carried ..)
  refine Carried.trans (Carried.trans ?_ (.ite (journalWrite_carried ..) (.refl ..))) (collLaggard_carried ..)
  exact .ite (stampGrads_memOnly ..).carried (.refl ..)

theorem mismatchColl_carried (s : State) (p : Nat) (c : Cmd) (tell : Bool) : Carried q pos s (mismatchColl s q pos p c tell) :=
  Carried.trans (.ite (Sends.foldl (fun _ _ => sendOr_sends ..) _ s).carried (.refl q pos s)) (endCmd_carried ..)

theorem progressColl_carried (s : State) : Carried q pos s (progressColl s q pos) := by
  unfold progressColl
  split
  case h_2 => exact .refl q pos s
  refine .ite (.refl q pos s) ?_
  extract_lets p a peers datas s1 n k
  refine .ite (mismatchColl_carried ..) (.ite (.refl q pos s) ?_)
  have hdone : Carried q pos s s1 := by
    refine .ite (.refl q pos s) (Carried.trans (modCmd_carried _ ?_) (Sends.foldl (fun _ _ => sendOr_sends ..) _ _).carried)
    exact fun _ => ⟨rfl, rfl, rfl, rfl, rfl, rfl, rfl, rfl, fun _ => rfl⟩
  exact hdone.trans (.ite (.refl q pos s1) ((cmdRead_carried ..).bind fun t input => completeColl_carried ..))

/-- Where no message is staged, none is delivered. -/
theorem deliverEarly_carried {s : State} {p : Nat} {j : Job} (hj : jobAt s p = some j) (he : j.early = []) (tag seq : Nat) :
    Carried q pos s (deliverEarly s p tag seq) := by
  simp only [deliverEarly, hj, he]
  exact .of_eq rfl rfl

end

/-! #### A collective begins (R350, R351, R353) -/

/-- The group descriptor of a command, where it can be read and names a group of this module (R350). -/
theorem readGroup_read {s s1 s2 : State} {q pos a : Nat} {x : Queue} {h b : List Byte} {ms : List Nat} {tag : Nat} (hx : queueAt s q = some x)
    (halign : a % 64 = 0) (hlow : a < usableBytes s) (hhead : cmdRead s q pos a 16 = .ok s1 h) (hmin : 1 ≤ fieldAt h 0 4)
    (hmax : fieldAt h 0 4 ≤ 65536) (hbody : cmdRead s1 q pos a (16 + 2 * fieldAt h 0 4) = .ok s2 b)
    (hgroup : groupOf s2 x.partition b = some (ms, tag)) (f : State → List Nat → Nat → State) : readGroup s q pos a f = f s2 ms tag := by
  simp only [readGroup, hx]
  rw [if_neg (by omega), hhead, CmdIo.bind_ok, if_neg (by omega), hbody, CmdIo.bind_ok, hgroup]

/-- A collective that has begun: its group and tag, its number, and the cycle count of its start (R353, R358). -/
def Cmd.started (ms : List Nat) (tag seq : Nat) (now : Word64) (d : Cmd) : Cmd :=
  { d with begun := true, group := ms, tag := tag, collSeq := seq, lnkStart := now, lnkLast := now }

section
variable {s : State} {q pos p : Nat} {c : Cmd} {s2 s3 : State} {ms : List Nat} {tag : Nat} {input : List Byte}
variable (hgroup : ∀ f, readGroup s q pos (c.field 0x20 8) f = f s2 ms tag) (hargs : collArgsOk (collArgs c) ms.length c = true)
variable (hinput : cmdRead s2 q pos (c.field 0x28 8) (collInput (collArgs c) ms.length (rankOf ms s2.life.moduleId)) = .ok s3 input)
include hgroup hargs hinput

/-- A group of one copies its input to its output. -/
theorem beginColl_alone (h1 : ms.length = 1) :
    beginColl s q pos p c = completeColl s3 q pos p { c with group := ms, tag := tag } input := by
  rw [beginColl, hgroup]
  dsimp only
  rw [if_neg (by simp [hargs]), hinput, CmdIo.bind_ok, if_pos h1]

/-- A member of a larger group takes the next number of the tag and sends its data. -/
theorem beginColl_shared (h1 : 1 < ms.length) : beginColl s q pos p c = sendContribution
    (modCmd (takeSeq s3 p tag).2 q pos (Cmd.started ms tag (takeSeq s3 p tag).1 (collNow (takeSeq s3 p tag).2 tag))) q pos p
    (c.started ms tag (takeSeq s3 p tag).1 (collNow (takeSeq s3 p tag).2 tag)) input := by
  rw [beginColl, hgroup]
  dsimp only
  rw [if_neg (by simp [hargs]), hinput, CmdIo.bind_ok, if_neg (by omega)]
  rfl

/-- A begun collective waits with its group, its tag and the number that was next; nothing is staged for it, as nothing was. -/
theorem beginColl_begun (h1 : 1 < ms.length) {j : Job} (hj : jobAt s3 p = some j) (he : j.early = []) {d : Cmd}
    (hd : cmdAt (beginColl s q pos p c) q pos = some d) :
    (d.begun = true ∧ d.group = ms ∧ d.tag = tag ∧ d.collSeq = mapGetD j.collSeq tag 0)
      ∧ ∃ k, jobAt (beginColl s q pos p c) p = some k ∧ k.early = [] := by
  have hnext : (takeSeq s3 p tag).1 = mapGetD j.collSeq tag 0 := by simp [takeSeq, hj]
  have htaken : jobAt (takeSeq s3 p tag).2 p = some { j with collSeq := mapSet j.collSeq tag ((mapGetD j.collSeq tag 0 + 1) % 2 ^ 32) } := by
    rw [takeSeq, jobAt_modJob, hj]
    rfl
  rw [beginColl_shared hgroup hargs hinput h1] at hd ⊢
  refine ⟨?_, ?_⟩
  · obtain ⟨e, he, hkept⟩ := (sendEach_carried ..).cmd d hd
    rw [cmdAt_modCmd_same _ _ _ (by exact fun _ => rfl)] at he
    obtain ⟨b, -, rfl⟩ := Option.map_eq_some_iff.mp he
    exact ⟨hkept.begun, hkept.group, hkept.tag, hkept.collSeq.trans hnext⟩
  · rcases sendEach_partitions (q := q) (pos := pos) p _ _ _ with hnone | hparts
    · exact absurd (hd.symm.trans hnone) (Option.some_ne_none d)
    · exact ⟨_, (jobAt_congr hparts p).trans htaken, he⟩

end

section
variable {s : State} {q : BitVec 12} {pos : BitVec 32} {x : Queue} {c : Cmd} (h : Working s q.toNat pos.toNat 0x06 x c)
variable (hturn : gangTurn s x.partition c = true) (hbegun : c.begun = false)
include h hturn hbegun

/-- A collective that ends or completes at once, or that is held, goes no further in this step. -/
theorem execCollective_stays (hd : ∀ d, cmdAt (beginColl s q.toNat pos.toNat x.partition c) q.toNat pos.toNat = some d → d.begun = false) :
    execCollective q pos s = .next (beginColl s q.toNat pos.toNat x.partition c) := by
  simp only [execCollective, runCmd_working h, hturn, hbegun]
  cases hcmd : cmdAt (beginColl s q.toNat pos.toNat x.partition c) q.toNat pos.toNat with
  | none => rfl
  | some d => simp [hd d hcmd]

/-- A collective that has begun takes in what is staged for it and goes on. -/
theorem execCollective_goesOn {d : Cmd} (hd : cmdAt (beginColl s q.toNat pos.toNat x.partition c) q.toNat pos.toNat = some d)
    (hdb : d.begun = true) : execCollective q pos s
      = .next (progressColl (deliverEarly (beginColl s q.toNat pos.toNat x.partition c) x.partition d.tag d.collSeq) q.toNat pos.toNat) := by
  simp only [execCollective, runCmd_working h, hturn, hbegun, hd, hdb]
  rfl

/-- A collective of several members takes the next number of its tag. -/
theorem execCollective_numbered {s2 s3 : State} {ms : List Nat} {tag : Nat} {input : List Byte}
    (hgroup : ∀ f, readGroup s q.toNat pos.toNat (c.field 0x20 8) f = f s2 ms tag) (hargs : collArgsOk (collArgs c) ms.length c = true)
    (hinput : cmdRead s2 q.toNat pos.toNat (c.field 0x28 8) (collInput (collArgs c) ms.length (rankOf ms s2.life.moduleId)) = .ok s3 input)
    (h1 : 1 < ms.length) {j : Job} (hj : jobAt s3 x.partition = some j) (he : j.early = []) : ∃ t, execCollective q pos s = .next t
      ∧ ∀ d, cmdAt t q.toNat pos.toNat = some d → d.begun = true ∧ d.group = ms ∧ d.tag = tag ∧ d.collSeq = mapGetD j.collSeq tag 0 := by
  have hbegins {d : Cmd} := beginColl_begun (p := x.partition) (d := d) hgroup hargs hinput h1 hj he
  cases hcmd : cmdAt (beginColl s q.toNat pos.toNat x.partition c) q.toNat pos.toNat with
  | none =>
    refine ⟨_, execCollective_stays h hturn hbegun fun d hd => ?_, fun d hd => ?_⟩ <;> exact absurd (hd.symm.trans hcmd) (Option.some_ne_none d)
  | some e =>
    obtain ⟨⟨hb, hms, htag, hseq⟩, k, hk, hearly⟩ := hbegins hcmd
    refine ⟨_, execCollective_goesOn h hturn hbegun hcmd hb, fun d hd => ?_⟩
    obtain ⟨b, hbcmd, hkept⟩ := ((deliverEarly_carried hk hearly ..).trans (progressColl_carried ..)).cmd d hd
    obtain rfl := Option.some.inj (hcmd.symm.trans hbcmd)
    exact ⟨hkept.begun.trans hb, hkept.group.trans hms, hkept.tag.trans htag, hkept.collSeq.trans hseq⟩

end

/-! #### DONE and RESTART (R356) -/

/-- The data chunks that a collective has received. -/
abbrev Cmd.datas (c : Cmd) : List RxMsg := c.collData.filter (fun m => m.cls == 0)

/-- No received chunk differs from the leading bytes that every one has (R353). -/
theorem datas_match {c : Cmd} (hprefix : c.datas.all (fun m => m.body.take 16 == collPrefix (collArgs c)) = true) :
    c.datas.any (fun m => m.body.take 16 != collPrefix (collArgs c)) = false :=
  List.any_eq_false.mpr fun m hm => by simpa using List.all_eq_true.mp hprefix m hm

/-- A command that notes the DONE of a member. -/
def Cmd.noteDone (member : Nat) (d : Cmd) : Cmd :=
  { d with collDone := if d.collDone.contains member then d.collDone else d.collDone ++ [member] }

/-- The parts of all members in rank order, this member's own from its input (R352). -/
def Cmd.parts (c : Cmd) (rank : Nat) (input : List Byte) : List (List Byte) :=
  c.group.zipIdx.map (fun m => if m.2 = rank then collPayload (collArgs c) c.group.length rank rank input
    else ((c.datas.find? (fun d => d.src == m.1)).map (fun d => d.body.drop 16)).getD [])

/-- After its own DONE a collective is not restarted (R356). -/
theorem restartColl_sent {s : State} {q pos : Nat} {x : Queue} {c : Cmd} (h : Working s q pos 0x06 x c) (hsent : c.doneSent = true) (tell : Bool) : restartColl s q pos tell = s := by
  simp only [restartColl, h.queue, h.cmd]
  rw [if_pos (by simp [hsent])]

section
variable {s : State} {q pos : Nat} {x : Queue} {c : Cmd} (h : Working s q pos 0x06 x c) (hbegun : c.begun = true)
include h hbegun

theorem takeDone_member {member : Nat} (hm : member ∈ c.group) :
    takeDone s q pos member = progressColl (modCmd s q pos (Cmd.noteDone member)) q pos := by
  simp only [takeDone, h.cmd]
  exact if_pos ⟨hbegun, by simpa using hm⟩

section
variable (hprefix : c.datas.all (fun m => m.body.take 16 == collPrefix (collArgs c)) = true)
include hprefix

/-- While the data of a member is missing, the collective waits. -/
theorem progressColl_waits (hmiss : ∃ m ∈ c.group, m ≠ s.life.moduleId ∧ ∀ d ∈ c.datas, d.src ≠ m) : progressColl s q pos = s := by
  obtain ⟨m, hm, hne, hnone⟩ := hmiss
  have hpeer : m ∈ others s c := List.mem_filter.mpr ⟨hm, by simpa using hne⟩
  have hmatch := datas_match hprefix
  have hmissing : (others s c).all (fun m => c.datas.any (fun d => d.src == m)) = false :=
    List.all_eq_false.mpr ⟨m, hpeer, by simpa using hnone⟩
  simp only [progressColl, h.queue, h.cmd]
  rw [if_neg (by simp [h.admitted, hbegun, h.opcode]), if_neg (Bool.eq_false_iff.mp hmatch), if_pos (by rw [hmissing]; rfl)]

/-- Once every member has sent its data and its DONE, the result is written (R352, R356). -/
theorem progressColl_completes (hsent : c.doneSent = true)
    (hall : ∀ m ∈ c.group, m ≠ s.life.moduleId → (∃ d ∈ c.datas, d.src = m) ∧ m ∈ c.collDone) {t : State} {input : List Byte}
    (hread : cmdRead s q pos (c.field 0x28 8) (collInput (collArgs c) c.group.length (rankOf c.group s.life.moduleId)) = .ok t input) :
    progressColl s q pos = completeColl t q pos x.partition c
      ((collResult (collArgs c) (rankOf c.group s.life.moduleId) (c.parts (rankOf c.group s.life.moduleId) input)).take
        (collOutput (collArgs c) c.group.length (rankOf c.group s.life.moduleId))) := by
  have hmatch := datas_match hprefix
  have hpeers {m : Nat} (hm : m ∈ others s c) : (∃ d ∈ c.datas, d.src = m) ∧ m ∈ c.collDone := by
    obtain ⟨hin, hne⟩ := List.mem_filter.mp hm
    exact hall m hin (by simpa using hne)
  have hdata : (others s c).all (fun m => c.datas.any (fun d => d.src == m)) = true :=
    List.all_eq_true.mpr fun m hm => by
      obtain ⟨⟨d, hd, hsrc⟩, -⟩ := hpeers hm
      exact List.any_eq_true.mpr ⟨d, hd, by simp [hsrc]⟩
  have hdone : (others s c).all (fun m => c.collDone.contains m) = true := List.all_eq_true.mpr fun m hm => by simpa using (hpeers hm).2
  simp only [progressColl, h.queue, h.cmd]
  rw [if_neg (by simp [h.admitted, hbegun, h.opcode]), if_neg (Bool.eq_false_iff.mp hmatch), if_neg (by rw [hdata]; decide), if_pos hsent,
    if_neg (by rw [hdone]; decide), hread, CmdIo.bind_ok]
  rfl

end

/-- A restart is counted, and what the collective has received is gone (R356). -/
theorem restartColl_abandons (hsent : c.doneSent = false) {e : CollEngine} (he : s.colls[c.tag % 4]? = some e) :
    restartsOf (restartColl s q pos false) (c.tag % 4) = some (e.restarts + 1)
      ∧ ∀ d, cmdAt (restartColl s q pos false) q pos = some d → d.collData = [] ∧ d.collDone = [] := by
  let restarted := modColl (modCmd s q pos (fun d => { d with collData := [], collDone := [] })) (c.tag % 4)
    (fun e => { e with restarts := e.restarts + 1 })
  have hcarried : Carried q pos restarted (restartColl s q pos false) := by
    simp only [restartColl, h.queue, h.cmd]
    rw [if_neg (by simp [h.admitted, hbegun, hsent, h.opcode])]
    exact (cmdRead_carried ..).bind fun t input => sendEach_carried ..
  refine ⟨(hcarried.restarts _).trans ?_, fun d hd => ?_⟩
  · rw [restartsOf, colls_modColl_same]
    exact congrArg _ (congrArg _ he)
  · obtain ⟨b, hb, hkept⟩ := hcarried.cmd d hd
    rw [cmdAt_congr (s := modCmd s q pos (fun d => { d with collData := [], collDone := [] })) (by simp [restarted]),
      cmdAt_modCmd_same _ _ _ (by exact fun _ => rfl)] at hb
    obtain ⟨a, -, rfl⟩ := Option.map_eq_some_iff.mp hb
    exact ⟨hkept.collData, hkept.collDone⟩

end

/-! #### Passes (R284, R285) -/

section
variable {s : State} {q pos : Nat} {x : Queue} {c : Cmd} (h : Working s q pos 0x05 x c)
include h

/-- A pass that has not begun does not send. -/
theorem progressRing_waits (hbegun : c.begun = false) : progressRing s q pos = s := by
  simp only [progressRing, h.queue, h.cmd]
  rw [if_pos (by simp [hbegun])]

/-- A granted pass sends its block; with nothing received it is not over (R285). -/
theorem progressRing_sends (hbegun : c.begun = true) (hgranted : c.granted = true) (hsent : c.doneSent = false) (hdata : c.collData = [])
    {t : State} {b : List Byte} (hread : cmdRead s q pos (ringBuf c 0) c.aux = .ok t b) :
    ∀ d, cmdAt (progressRing s q pos) q pos = some d → d.granted = true ∧ d.doneSent = true := by
  let marked := modCmd t q pos (fun d => { d with doneSent := true })
  let succ := c.group.getD ((rankOf c.group s.life.moduleId + 1) % c.group.length) 0
  let sent := sendEach q pos x.partition (fun _ => (2, c.tag, 6, c.collSeq, b)) marked [succ]
  have hreadKept := cmdRead_carried (q := q) (pos := pos) s (ringBuf c 0) c.aux
  rw [hread] at hreadKept
  have hleft {d : Cmd} (hd : cmdAt sent q pos = some d) : d.granted = true ∧ d.doneSent = true ∧ d.collData = [] := by
    obtain ⟨a, ha, hkept⟩ := (sendEach_carried x.partition (fun _ => (2, c.tag, 6, c.collSeq, b)) [succ] marked).cmd d hd
    rw [cmdAt_modCmd_same _ _ _ (by exact fun _ => rfl)] at ha
    obtain ⟨e, he, rfl⟩ := Option.map_eq_some_iff.mp ha
    obtain ⟨c0, hc0, hstart⟩ := hreadKept.cmd e he
    obtain rfl := Option.some.inj (h.cmd.symm.trans hc0)
    exact ⟨(hkept.granted.trans hstart.granted).trans hgranted, hkept.doneSent rfl, (hkept.collData.trans hstart.collData).trans hdata⟩
  have hprogress : progressRing s q pos = sent := by
    simp only [progressRing, h.queue, h.cmd]
    rw [if_neg (by simp [h.admitted, hbegun, h.opcode]), if_pos ⟨hgranted, by simp [hsent]⟩, hread, CmdIo.bind_ok]
    split
    · rfl
    · rename_i hcmd
      obtain ⟨-, -, hnone⟩ := hleft hcmd
      rw [hnone]
      rfl
  rw [hprogress]
  exact fun d hd => (hleft hd).imp_right And.left

end

/-! #### Passes of a local ring -/

theorem execRingPass_local {s : State} {q : BitVec 12} {pos : BitVec 32} {x : Queue} {c : Cmd} (h : Working s q.toNat pos.toNat 0x05 x c)
    (hturn : gangTurn s x.partition c = true) (hlocal : isLocalRing c = true) (hok : ringOk c (c.field 0x3A 1) = true) :
    execRingPass q pos s = .next (progressLocalRing (modCmd s q.toNat pos.toNat (fun d => { d with begun := true })) q.toNat pos.toNat
      x.partition { c with begun := true }) := by
  simp only [execRingPass, runCmd_working h]
  rw [if_neg (by simp [hturn]), if_pos hlocal, if_neg (by simp [hok])]

section
variable {s : State} {q pos p : Nat} {c : Cmd}

/-- The block waits until the successor's pass is under way. -/
theorem progressLocalRing_waits (hc : cmdAt s q pos = some c) (hsent : c.doneSent = false)
    (hnext : localPass s p c ((c.role + 1) % c.field 0x3A 1) = none) : progressLocalRing s q pos p c = s := by
  simp [progressLocalRing, hsent, hnext, hc]

/-- The block goes to the successor's pass. -/
theorem progressLocalRing_sends (hsent : c.doneSent = false) {q2 pos2 : Nat}
    (hnext : localPass s p c ((c.role + 1) % c.field 0x3A 1) = some (q2, pos2)) (hne : (q2, pos2) ≠ (q, pos)) {t : State} {b : List Byte}
    (hread : cmdRead s q pos (ringBuf c 0) c.aux = .ok t b) {d : Cmd} (hd : cmdAt t q pos = some d) (hdata : d.collData = []) :
    progressLocalRing s q pos p c = modCmd (modCmd t q2 pos2 (fun y => { y with
      collData := [{ src := c.role, cls := 2, tag := 0, op := 6, cause := 0, seq := 0, round := 0, body := b }] }))
      q pos (fun y => { y with doneSent := true }) := by
  have hleft : cmdAt (modCmd (modCmd t q2 pos2 (fun y => { y with
      collData := [{ src := c.role, cls := 2, tag := 0, op := 6, cause := 0, seq := 0, round := 0, body := b }] }))
      q pos (fun y => { y with doneSent := true })) q pos = some { d with doneSent := true } := by
    rw [cmdAt_modCmd_same _ _ _ (by exact fun _ => rfl), cmdAt_modCmd_other _ hne (by exact fun _ => rfl), hd]
    rfl
  simp only [progressLocalRing, hsent, hnext, hread, CmdIo.bind_ok, Bool.false_eq_true, if_false, hleft, hdata]
  rfl

/-- A pass that has sent and received writes its block and is over. -/
theorem progressLocalRing_receives (hc : cmdAt s q pos = some c) (hsent : c.doneSent = true) {m : RxMsg} {rest : List RxMsg}
    (hdata : c.collData = m :: rest) {t : State} {y : List Byte} (hwrite : cmdWrite s q pos (ringBuf c 1) m.body = .ok t y) :
    progressLocalRing s q pos p c = finishCmd t q pos stOk 0 := by
  simp only [progressLocalRing, hsent, hc, hdata, if_true, List.head?_cons, hwrite, CmdIo.bind_ok]

end

/-! #### The statement -/

/-- Settles O44: the slices by their width; each command and message by what it makes of the exchange it belongs to, which its accesses and
its own messages carry on. -/
theorem ringsAndCollectives : Obligations.RingsAndCollectives := by
  unfold Obligations.RingsAndCollectives
  refine ⟨fun total n k hn => ⟨by simp [sliceRange], sliceRange_succ total n k, ?covers, sliceRange_aligned⟩, ?_⟩
  case covers => exact min_eq_left (total_le_slices total hn)
  intro s q pos x c qn n p a me datas rank
  refine ⟨?begins, ?done, ?restart, ?grant, ?pass⟩
  case begins =>
    intro h hturn hbegun halign hlow s1 hd s2 b ms tag s3 input hhead hmin hmax hbody hgroup hargs hinput alone
    have hread := readGroup_read h.queue halign hlow hhead hmin hmax hbody hgroup
    refine ⟨fun h1 hend => ?_, fun j h1 hj he => execCollective_numbered h hturn hbegun hread hargs hinput h1 hj he⟩
    have halone : beginColl s qn n p c = alone := beginColl_alone hread hargs hinput h1
    rw [← halone] at hend ⊢
    exact execCollective_stays h hturn hbegun hend
  case done =>
    intro h hbegun member hm all noted hprefix
    obtain ⟨y, hy, hw⟩ := h.modCmd (f := Cmd.noteDone member.toNat) (by exact fun _ => rfl) rfl rfl
    have hexec : exec (.collectiveDone q pos member) s = .next (progressColl noted qn n) := by
      rw [exec_collectiveDone, execCollectiveDone, runCmd_working h, takeDone_member h hbegun hm]
      rfl
    refine ⟨fun hmiss => hexec.trans (congrArg _ (progressColl_waits hw hbegun hprefix hmiss)), fun t input hsent hall hread => ?_⟩
    rw [hexec, show p = y.partition from hy.symm]
    exact congrArg _ (progressColl_completes hw hbegun hprefix hsent hall hread)
  case restart =>
    intro h hbegun
    have hexec : exec (.collectiveRestart q pos) s = .next (restartColl s qn n false) := by
      rw [exec_collectiveRestart, execCollectiveRestart, runCmd_working h]
    exact ⟨fun hsent => by rw [hexec, restartColl_sent h hsent],
      fun hsent e he => ⟨_, hexec, restartColl_abandons h hbegun hsent he⟩⟩
  case grant =>
    intro granted h
    obtain ⟨y, -, hw⟩ := h.modCmd (f := fun d => { d with granted := true }) (by exact fun _ => rfl) rfl rfl
    have hexec : exec (.ringPassGrant q pos) s = .next (progressRing granted qn n) := by
      rw [exec_ringPassGrant, execRingPassGrant, runCmd_working h]
    exact ⟨fun hbegun => by rw [hexec, progressRing_waits hw hbegun],
      fun t b hbegun hsent hdata hread => ⟨_, hexec, progressRing_sends hw hbegun rfl hsent hdata hread⟩⟩
  case pass =>
    intro begun next h hturn hlocal hok
    obtain ⟨_, -, hw⟩ := h.modCmd (f := fun d => { d with begun := true }) (by exact fun _ => rfl) rfl rfl
    have hexec := (exec_ringPass q pos s).trans (execRingPass_local h hturn hlocal hok)
    exact ⟨fun hsent hnext => hexec.trans (congrArg _ (progressLocalRing_waits hw.cmd hsent hnext)),
      fun q2 p2 t b d hsent hnext hne hread hd hdata _ =>
        hexec.trans (congrArg _ (progressLocalRing_sends hsent hnext hne hread hd hdata)),
      fun t y m rest hsent hdata hwrite => hexec.trans (congrArg _ (progressLocalRing_receives hw.cmd hsent hdata hwrite))⟩

end Sys2Proof.Machine
end

section
/-! ### Commit exchanges, block fetches and the drip stream (R314, R318, R321, R323, R325, R328) -/

namespace Sys2Proof.Machine

theorem exec_commitExchange (p : BitVec 4) (member : BitVec 16) (kind : BitVec 2) (bytes : List Byte) (s : State) :
    exec (.commitExchange p member kind bytes) s = execCommitExchange p member kind bytes s := rfl

theorem exec_commitTimeout (p : BitVec 4) (s : State) : exec (.commitTimeout p) s = execCommitTimeout p s := rfl

theorem exec_blockFetchRequest (p : BitVec 4) (member : BitVec 16) (i b : BitVec 32) (s : State) :
    exec (.blockFetchRequest p member i b) s
      = .next (serveFetch s p.toNat member.toNat i.toNat b.toNat (logStep s p.toNat % 2 ^ 32)) := rfl

theorem exec_blockFetchResponse (p : BitVec 4) (member : BitVec 16) (i b : BitVec 32) (bytes : List Byte) (s : State) :
    exec (.blockFetchResponse p member i b bytes) s = .next (takeFetched s p.toNat member.toNat i.toNat b.toNat bytes) := rfl

theorem exec_dripRingRoom (p : BitVec 4) (head : BitVec 64) (s : State) :
    exec (.dripRingRoom p head) s = execDripRingRoom p head s := rfl

theorem exec_dripBehindEmit (p : BitVec 4) (s : State) : exec (.dripBehindEmit p) s = execDripBehindEmit p s := rfl

/-! #### A job's run and drip stream -/

/-- What a change makes of other jobs than the partition's does not matter. -/
theorem modJob_eq_of_job {s : State} {p : Nat} {j : Job} (hj : jobAt s p = some j) {f g : Job → Job} (h : f j = g j) :
    modJob s p f = modJob s p g := by
  obtain ⟨x, hx, hxj⟩ := Option.bind_eq_some_iff.mp hj
  have hmap : x.job.map f = x.job.map g := by rw [hxj, Option.map_some, Option.map_some, h]
  rw [partAt] at hx
  simp only [modJob, modPart, mapModify, hx, hmap]

theorem runOf_modRun (s : State) (p : Nat) (f : CommitRun → CommitRun) : runOf (modRun s p f) p = (runOf s p).map f := by
  rw [runOf, modRun, jobAt_modJob, runOf]
  cases jobAt s p <;> rfl

section
variable {s : State} {p : Nat} {j : Job} (hj : jobAt s p = some j)
include hj

theorem runOf_of_job : runOf s p = j.commit := by rw [runOf, hj, Option.bind_some]

theorem jobAt_modRun {r : CommitRun} (hr : j.commit = some r) (f : CommitRun → CommitRun) :
    jobAt (modRun s p f) p = some { j with commit := some (f r) } := by
  rw [modRun, jobAt_modJob, hj, Option.map_some, hr, Option.map_some]

/-- The drip stream after writes of memory and a change of the stream. -/
theorem drip_modDrip {t : State} (ht : MemOnly s t) (f : Drip → Drip) : (jobAt (modDrip t p f) p).bind (·.drip) = j.drip.map f := by
  rw [modDrip, jobAt_modJob, jobAt_congr ht.partitions, hj, Option.map_some, Option.bind_some]

end

/-! #### Commit exchanges (R314, R318, R323) -/

/-- A confirmation of the step whose gradients are retained ends the wait for its sender; the last one ends the retention (R318). -/
theorem confirmRetained_retention {j : Job} {r : Retention} {step : Nat} (m : Nat) (hr : j.retention = some r)
    (hstep : r.step % 2 ^ 32 = step % 2 ^ 32) : (confirmRetained j step m).retention
      = if r.waiting.filter (· != m) = [] then none else some { r with waiting := r.waiting.filter (· != m) } := by
  simp only [confirmRetained, hr, if_pos hstep, List.isEmpty_iff]

section
variable {s : State} {p : BitVec 4} {j : Job} (hj : jobAt s p.toNat = some j) (m : BitVec 16) (kind : BitVec 2) (bytes : List Byte)
include hj

theorem exec_commitExchange_closed (hc : j.commit = none) (ho : j.step = none) : exec (.commitExchange p m kind bytes) s
    = .next (commitExchange s p.toNat m.toNat kind.toNat (j.committed % 2 ^ 32) bytes) := by
  simp only [exec_commitExchange, execCommitExchange, hj, hc, ho]

theorem exec_commitExchange_open (hc : j.commit = none) {o : OpenStep} (ho : j.step = some o) : exec (.commitExchange p m kind bytes) s
    = .next (commitExchange s p.toNat m.toNat kind.toNat (o.step % 2 ^ 32) bytes) := by
  simp only [exec_commitExchange, execCommitExchange, hj, hc, ho]

theorem exec_commitExchange_running {r : CommitRun} (hr : j.commit = some r) : exec (.commitExchange p m kind bytes) s
    = .next (commitExchange s p.toNat m.toNat kind.toNat (r.step % 2 ^ 32) bytes) := by
  simp only [exec_commitExchange, execCommitExchange, hj, hr]

end

section
variable {s : State} {p : Nat} {j : Job} (hj : jobAt s p = some j) (m step : Nat) (b : List Byte)
include hj

/-- Digests of the step that is committed confirm it (R318). -/
theorem commitExchange_confirms (hc : j.commit = none) (hstep : j.committed % 2 ^ 32 = step) :
    commitExchange s p m 1 step b = modJob s p (fun y => confirmRetained y step m) := by
  simp only [commitExchange, hj, hc]
  rw [if_pos hstep]

/-- The first CHECK of a member that the step has not reached is kept (R314). -/
theorem commitExchange_stages (hc : j.commit = none) (hfirst : j.early.all (fun e => e.cls != 4 || e.src != m) = true) :
    commitExchange s p m 0 step b = modJob s p (fun y => { y with early := y.early ++
      [{ src := m, cls := 4, tag := 0, op := 0, cause := 0, seq := step, round := 0, body := 0 :: b }] }) := by
  have hnew : j.early.any (fun e => e.src == m && e.cls == 4 && e.seq == step && e.body.headD 0 == BitVec.ofNat 8 0 && 0 != 1) = false := by
    rw [List.any_eq_false]
    intro e he
    have hother := List.all_eq_true.mp hfirst e he
    grind
  simp only [commitExchange, hj, hc]
  rw [if_neg (by rw [hnew]; exact Bool.false_ne_true)]
  rfl

/-- While another member's contribution is missing, CHECK counts this one and waits (R314). -/
theorem commitExchange_counts {r : CommitRun} (hr : j.commit = some r) (hstep : r.step % 2 ^ 32 = step) (hphase : r.phase = .check)
    (hfirst : checkOf r m = none) (hmissing : ∃ i ∈ checkPeers s j, i ≠ m ∧ checkOf r i = none) :
    commitExchange s p m 0 step b = modRun s p (fun y => { y with checks := y.checks ++ [checkOfBytes m b] }) := by
  let counted := { r with checks := r.checks ++ [checkOfBytes m b] }
  have hmod : modRun s p (fun x => if (checkOf x m).isSome then x else { x with checks := x.checks ++ [checkOfBytes m b] })
      = modRun s p (fun y => { y with checks := y.checks ++ [checkOfBytes m b] }) :=
    modJob_eq_of_job hj (by simp [hr, hfirst])
  have hin : checksIn (modRun s p (fun y => { y with checks := y.checks ++ [checkOfBytes m b] })) { j with commit := some counted } counted
      = false := by
    obtain ⟨i, hi, hne, hnone⟩ := hmissing
    refine List.all_eq_false.mpr ⟨i, hi, ?_⟩
    have hother : (checkOfBytes m b).member ≠ i := hne.symm
    have hstill : checkOf counted i = none := by
      rw [checkOf, List.find?_append, show List.find? _ r.checks = none from hnone]
      simp [hother]
    simp [hstill]
  simp only [commitExchange, hj, hr]
  rw [if_pos ⟨hstep, hphase⟩, hmod]
  exact progressCommit_waits (jobAt_modRun hj hr _) rfl hphase hin

/-- A query for the intent of a step is answered (R323). -/
theorem commitExchange_answers : commitExchange s p m 2 step b = sendExchange s p m step 3 (intentAnswer s j step) := by
  simp only [commitExchange, hj]

end

/-! #### Commit timeouts (R314, R323) -/

section
variable {s : State} {p : BitVec 4} {j : Job} {r : CommitRun} {c : Cmd} (hj : jobAt s p.toNat = some j) (hr : j.commit = some r)
  (hc : cmdAt s r.queue r.pos = some c) (hadmitted : c.phase = .admitted)
include hj hr hc hadmitted

/-- CHECK is decided with the members present, where every replica group has one; otherwise the command fails. -/
theorem exec_commitTimeout_check (hphase : r.phase = .check) : exec (.commitTimeout p) s =
    if checkDecidable j r then .next (decideStep s p.toNat)
    else .next (endCmd (modJob s p.toNat (fun y => { y with commit := none })) r.queue r.pos 0x0A04) := by
  simp only [exec_commitTimeout, execCommitTimeout, hj, runOf_of_job hj, hr, hc, hphase]
  exact if_neg (not_not_intro hadmitted)

/-- A query that nobody answers abandons the step. -/
theorem exec_commitTimeout_intentQuery (hphase : r.phase = .intentQuery) :
    exec (.commitTimeout p) s = .next (abandonStep s p.toNat r) := by
  simp only [exec_commitTimeout, execCommitTimeout, hj, runOf_of_job hj, hr, hc, hphase]
  exact if_neg (not_not_intro hadmitted)

end

/-! #### A block switched in leaves the run and the journal (R321) -/

/-- From s to t partition p's commit run and the mode of its journal stay. -/
structure KeepsRun (p : Nat) (s t : State) : Prop where
  run : runOf t p = runOf s p
  journal : (partAt t p).map (·.journal.enable) = (partAt s p).map (·.journal.enable)

namespace KeepsRun

variable {p : Nat}

theorem of_eq {s t : State} (h : t.partitions = s.partitions) : KeepsRun p s t :=
  ⟨by rw [runOf, jobAt_congr h, runOf], by rw [partAt_congr h]⟩

theorem refl (s : State) : KeepsRun p s s := of_eq rfl

theorem trans {s t u : State} (h : KeepsRun p s t) (g : KeepsRun p t u) : KeepsRun p s u := ⟨g.run.trans h.run, g.journal.trans h.journal⟩

end KeepsRun

theorem MemOnly.ite {s t u : State} {c : Prop} [Decidable c] (ht : MemOnly s t) (hu : MemOnly s u) : MemOnly s (if c then t else u) := by
  split
  · exact ht
  · exact hu

theorem modJob_keepsRun (s : State) (p : Nat) {f : Job → Job} (hf : ∀ j, (f j).commit = j.commit) : KeepsRun p s (modJob s p f) := by
  refine ⟨?_, ?_⟩
  · rw [runOf, jobAt_modJob, Option.bind_map, runOf]
    exact congrArg _ (funext hf)
  · rw [modJob, partAt_modPart_same, Option.map_map]
    rfl

theorem modChannel_keepsRun {p : Nat} (s : State) (c : Nat) (f : Channel → Channel) : KeepsRun p s (modChannel s c f) := .of_eq (by simp)

theorem putLaneSlot_memOnly (s : State) (j : Job) (ch i b : Nat) (spare : Nat × Nat) : MemOnly s (putLaneSlot s j ch i b spare) := by
  unfold putLaneSlot
  extract_lets a
  with_reducible exact .ite (.refl s) (cohWrite_memOnly ..)

theorem chargeCommit_partitions (s : State) (p : Nat) (l : List (Nat × Nat)) (write : Bool) :
    (chargeCommit s p l write).partitions = s.partitions := by
  unfold chargeCommit
  split
  · rfl
  · exact (chargePieces_charged ..).partitions

theorem switchBlock_keepsRun (s : State) (p step i b : Nat) (e : DirEnt) (w m ra ca : List Word32) (uss : Word32) :
    KeepsRun p s (switchBlock s p step i b e w m ra ca uss) := by
  unfold switchBlock
  split
  · exact .refl s
  extract_lets d ch a old spares spare key s1 bytes s2 s3 wss s4 s5 s6 s7 s8
  have hmasters : MemOnly s s2 := (putLaneSlot_memOnly ..).trans (cohWrite_memOnly ..)
  have hframes : MemOnly s s3 := .ite (hmasters.trans (cohWrite_memOnly ..)) hmasters
  have hwritten : MemOnly s s6 := ((hframes.trans (cohWrite_memOnly ..)).trans (cohWrite_memOnly ..)).trans (cohWrite_memOnly ..)
  have hspares : KeepsRun p s6 s7 := modJob_keepsRun _ _ fun _ => rfl
  have hcharged : KeepsRun p s7 s8 := .of_eq (chargeCommit_partitions ..)
  exact ((KeepsRun.of_eq hwritten.partitions).trans (hspares.trans hcharged)).trans (modChannel_keepsRun ..)

/-! #### Block fetches (R321) -/

theorem serveFetch_answers {s : State} {p : Nat} {j : Job} (hj : jobAt s p = some j) (m step : Nat) {i b : Nat} (hi : i < j.paramEntries)
    (hb : b < (dirEnt s j i).blocks) :
    serveFetch s p m i b step = sendOr s p m 6 0 0 step 0 (natToBytes 4 i ++ natToBytes 4 b ++ blockAnswer s j i b) := by
  simp only [serveFetch, hj]
  exact if_pos ⟨hi, hb⟩

/-- Bytes of the moments of n elements that a response carries. -/
def momentBytes (e : DirEnt) (n : Nat) : Nat := if ruleMoment e.rule then 4 * n else 0

/-- A response is right: its length is the block's, its stamp the run's step, its digest that of its masters and the one wanted (R321). -/
def FetchedRight (r : CommitRun) (f : Refetch) (e : DirEnt) (n : Nat) (bytes : List Byte) : Prop :=
  bytes.length = 16 + 4 * n + momentBytes e n + (if ruleFactored e.rule then 1024 else 0) ∧ fieldAt bytes 0 8 = r.step % 2 ^ 32
    ∧ crc64 (sliceBytes bytes 16 (4 * n)) = fieldAt bytes 8 8 ∧ ∀ w, f.want = some w → w = crc64 (sliceBytes bytes 16 (4 * n))

/-- The state in which the block that a response carries is switched in and counted on its channel (R321). -/
def fetchedState (s : State) (p step i b : Nat) (e : DirEnt) (bytes : List Byte) : State :=
  let d := blockDesc s e b
  let n := d.elems
  let mo := momentBytes e n
  let k := 16 + 4 * n + mo
  modChannel (switchBlock (drawFree s (2 ^ 32)).2 p step i b e (wordsOf (sliceBytes bytes 16 (4 * n)) n)
    (wordsOf (sliceBytes bytes (16 + 4 * n) mo) (mo / 4)) (wordsOf (sliceBytes bytes k 512) 128)
    (wordsOf (sliceBytes bytes (k + 512) 512) 128) (BitVec.ofNat 32 (drawFree s (2 ^ 32)).1))
    (homeChannel d) (fun h => { h with ulFetched := h.ulFetched + 1 })

theorem fetchedState_keepsRun (s : State) (p step i b : Nat) (e : DirEnt) (bytes : List Byte) :
    KeepsRun p s (fetchedState s p step i b e bytes) := by
  unfold fetchedState
  have hdrawn : KeepsRun p s (drawFree s (2 ^ 32)).2 := .of_eq rfl
  exact (hdrawn.trans (switchBlock_keepsRun ..)).trans (modChannel_keepsRun ..)

/-- The run with one more block fetched, which it no longer awaits (R321). -/
def CommitRun.withFetched (r : CommitRun) (i b : Nat) : CommitRun :=
  { r with fetched := r.fetched + 1, refetch := r.refetch.filter (fun z => !(z.dirIdx == i && z.block == b)) }

section
variable {s : State} {p : Nat} {j : Job} {r : CommitRun} (hj : jobAt s p = some j) (hr : j.commit = some r) {i b : Nat}
include hj hr

/-- The refetch goes on with the next source. -/
theorem nextSource_asks {f : Refetch} {m m2 : Nat} {rest : List Nat} (hsources : f.sources = m :: m2 :: rest)
    (hf : r.refetch.find? (fun y => y.dirIdx == i && y.block == b) = some f) :
    nextSource s p i b = requestBlock (modRun s p (fun y => { y with refetch := y.refetch.map (fun z =>
      if z.dirIdx = i ∧ z.block = b then { f with sources := m2 :: rest } else z) })) p r.step { f with sources := m2 :: rest } := by
  simp only [nextSource, hj, runOf_of_job hj, hr, hf, hsources]

variable {m : Nat} {bytes : List Byte} {f : Refetch}
  (hf : r.refetch.find? (fun y => y.dirIdx == i && y.block == b && y.sources.head? == some m) = some f)
include hf

theorem takeFetched_wrong (hwrong : ¬ FetchedRight r f (dirEnt s j i) (blockDesc s (dirEnt s j i) b).elems bytes) :
    takeFetched s p m i b bytes = nextSource s p i b := by
  simp only [takeFetched, hj, runOf_of_job hj, hr, hf]
  refine if_pos (by_contra fun hright => hwrong ?_)
  rcases hw : f.want with _ | w <;> simpa [FetchedRight, momentBytes, hw, and_assoc] using hright

/-- The block is switched in and counted; other blocks are still awaited. -/
theorem takeFetched_right (hright : FetchedRight r f (dirEnt s j i) (blockDesc s (dirEnt s j i) b).elems bytes)
    (hsilent : ∀ y, partAt s p = some y → y.journal.enable ≠ 2) (hmore : ∃ z ∈ r.refetch, z.dirIdx ≠ i ∨ z.block ≠ b) :
    takeFetched s p m i b bytes = modRun (fetchedState s p r.step i b (dirEnt s j i) bytes) p (·.withFetched i b) := by
  have hkeeps : KeepsRun p s (fetchedState s p r.step i b (dirEnt s j i) bytes) := fetchedState_keepsRun ..
  have hoff : ((partAt (fetchedState s p r.step i b (dirEnt s j i) bytes) p).map (·.journal.enable)).getD 0 ≠ 2 := by
    rw [hkeeps.journal]
    cases hx : partAt s p with
    | none => simp
    | some y => exact hsilent y hx
  have hleft : (r.withFetched i b).refetch.isEmpty = false := by
    obtain ⟨z, hz, hother⟩ := hmore
    rw [List.isEmpty_eq_false_iff_exists_mem]
    exact ⟨z, List.mem_filter.mpr ⟨hz, by simpa [imp_iff_not_or] using hother⟩⟩
  unfold takeFetched
  simp -zeta only [hj, runOf_of_job hj, hr, hf]
  extract_lets e d n masters mo total dg good s1 s2 s3 s4
  refine (if_neg ?_).trans ?_
  · rcases hw : f.want with _ | w <;> simpa [good, FetchedRight, momentBytes, hw, and_assoc] using hright
  have hcounted : s4 = modRun (fetchedState s p r.step i b (dirEnt s j i) bytes) p (·.withFetched i b) :=
    congrArg (modRun · p _) (if_neg hoff)
  have hrun : runOf s4 p = some (r.withFetched i b) := by
    rw [hcounted, runOf_modRun, hkeeps.run, runOf_of_job hj, hr, Option.map_some]
  rw [hrun]
  exact (if_neg (by rw [hleft]; exact Bool.false_ne_true)).trans hcounted

end

/-! #### The drip stream (R325, R328) -/

/-- Of two blocks behind the one emitted first. -/
def earlierBehind (y x : Nat × Nat × Nat) : Nat × Nat × Nat :=
  if x.2.2 < y.2.2 ∨ (x.2.2 = y.2.2 ∧ (x.1 < y.1 ∨ (x.1 = y.1 ∧ x.2.1 < y.2.1))) then x else y

theorem earlierBehind_or (y x : Nat × Nat × Nat) : earlierBehind y x = x ∨ earlierBehind y x = y := ite_eq_or_eq ..

theorem earlierBehind_le (y x : Nat × Nat × Nat) : (earlierBehind y x).2.2 ≤ y.2.2 ∧ (earlierBehind y x).2.2 ≤ x.2.2 := by
  unfold earlierBehind
  split <;> omega

theorem oldestBehind_cons (y : Nat × Nat × Nat) (l : List (Nat × Nat × Nat)) : oldestBehind (y :: l) = some (l.foldl earlierBehind y) :=
  List.foldl_hom some fun y x => (apply_ite some _ x y).symm

theorem foldl_earlierBehind_mem (l : List (Nat × Nat × Nat)) (y : Nat × Nat × Nat) : l.foldl earlierBehind y ∈ y :: l := by
  induction l generalizing y with
  | nil => exact List.mem_singleton_self y
  | cons x l ih =>
    have hmem := ih (earlierBehind y x)
    rw [List.foldl_cons]
    rcases earlierBehind_or y x with h | h <;> rw [h] at hmem ⊢
    · exact List.mem_cons_of_mem y hmem
    · exact List.cons_subset_cons y (List.subset_cons_self x l) hmem

theorem foldl_earlierBehind_le (l : List (Nat × Nat × Nat)) (y : Nat × Nat × Nat) :
    ∀ z ∈ y :: l, (l.foldl earlierBehind y).2.2 ≤ z.2.2 := by
  induction l generalizing y with
  | nil => simp
  | cons x l ih =>
    have hfirst := ih _ _ (List.mem_cons_self (a := earlierBehind y x))
    have hle := earlierBehind_le y x
    intro z hz
    rcases List.mem_cons.mp hz with rfl | hz
    · exact hfirst.trans hle.1
    rcases List.mem_cons.mp hz with rfl | hz
    · exact hfirst.trans hle.2
    · exact ih _ z (List.mem_cons_of_mem _ hz)

theorem oldestBehind_least {l : List (Nat × Nat × Nat)} {y : Nat × Nat × Nat} (h : oldestBehind l = some y) :
    y ∈ l ∧ ∀ z ∈ l, y.2.2 ≤ z.2.2 := by
  cases l with
  | nil => cases h
  | cons x l =>
    rw [oldestBehind_cons] at h
    obtain rfl := Option.some.inj h
    exact ⟨foldl_earlierBehind_mem l x, foldl_earlierBehind_le l x⟩

section
variable {s : State} {p : Nat} {j : Job} {d : Drip} (hj : jobAt s p = some j) (hd : j.drip = some d) {r : List Byte}
include hj hd

/-- A record that exceeds the ring's room stays out. -/
theorem dripPut_full (h : dripFree s d < r.length / 64) : dripPut s p r = none := by
  simp only [dripPut, hj, Option.bind_some, hd]
  exact if_neg (Nat.not_le.mpr (h.trans_le (Nat.div_le_div_right (Nat.le_add_left ..))))

/-- A record in the ring moves the tail by its units and those of the padding before it. -/
theorem dripPut_tail {t : State} (h : dripPut s p r = some t) : ∃ pad,
    ((jobAt t p).bind (·.drip)).map (·.tail) = some ((d.tail + (pad + r.length) / 64) % 2 ^ 32)
    ∧ (d.tail * 64 % (d.size - 64) + r.length ≤ d.size - 64 → pad = 0) := by
  simp only [dripPut, hj, Option.bind_some, hd, Option.ite_none_right_eq_some, Option.some.injEq] at h
  obtain ⟨-, rfl⟩ := h
  refine ⟨if d.tail * 64 % (d.size - 64) + r.length ≤ d.size - 64 then 0 else d.size - 64 - d.tail * 64 % (d.size - 64), ?_,
    fun h => if_pos h⟩
  rw [drip_modDrip hj (((MemOnly.ite (.refl s) (moduleWrite_memOnly ..)).trans (moduleWrite_memOnly ..)).trans
    (moduleWrite_memOnly ..)), hd]
  rfl

/-- No record waits, so none is written. -/
theorem drainDrip_idle (hready : d.ready = []) {t : State} (ht : MemOnly s t) : drainDrip t p = t := by
  simp only [drainDrip, jobAt_congr ht.partitions, hj, Option.bind_some, hd, Option.map_some, hready]
  rfl

end

section
variable {s : State} {p : BitVec 4} {j : Job} {d : Drip} (hj : jobAt s p.toNat = some j) (hd : j.drip = some d)
include hj hd

theorem exec_dripRingRoom_idle (hready : d.ready = []) (head : BitVec 64) :
    exec (.dripRingRoom p head) s = .next (moduleWrite s (d.ring + 8) (cp32Bytes (head.toNat % 2 ^ 32))) := by
  simp only [exec_dripRingRoom, execDripRingRoom, hj, Option.bind_some, hd]
  rw [drainDrip_idle hj hd hready (moduleWrite_memOnly ..)]

variable {i b st : Nat} (holdest : oldestBehind d.behind = some (i, b, st))
include holdest

theorem exec_dripBehindEmit_full (h : dripPut s p.toNat (blockFull s (dirEnt s j i) b) = none) : exec (.dripBehindEmit p) s = .next s := by
  simp only [exec_dripBehindEmit, execDripBehindEmit, hj, hd, holdest, h]
  exact ite_self _

theorem exec_dripBehindEmit_emits (hready : d.ready = []) (hdest : d.dest ≠ 0) {t : State}
    (h : dripPut s p.toNat (blockFull s (dirEnt s j i) b) = some t) :
    let de := blockDesc t (dirEnt s j i) b
    exec (.dripBehindEmit p) s = .next (modDrip
      (cohWrite t (de.record + 0x18) (cp32Bytes (((blockStamp t de).getD 0) % 2 ^ 31 + 2 ^ 31))) p.toNat
      (fun y => { y with behind := y.behind.filter (fun z => !(z.1 == i && z.2.1 == b)), recordsInStep := y.recordsInStep + 1 })) := by
  simp only [exec_dripBehindEmit, execDripBehindEmit, hj, hd, holdest, h]
  exact if_neg (by simp [hready, hdest])

end

/-! #### The statement -/

/-- Settles O45: each message, timeout, block and record by the lemma about what its command does with the run or the drip stream. -/
theorem commitExchangesAndDrip : Obligations.CommitExchangesAndDrip := by
  unfold Obligations.CommitExchangesAndDrip
  intro s p member bytes j pn m hj
  refine ⟨?confirms, ?retention, ?stages, ?counts, ?answers, ?timeout, ?fetch, ?drip⟩
  case confirms =>
    intro hc ho
    rw [exec_commitExchange_closed hj member 1 bytes hc ho]
    exact congrArg _ (commitExchange_confirms hj m _ bytes hc rfl)
  case retention => exact fun r hr hstep => confirmRetained_retention m hr (by rw [hstep, Nat.mod_mod])
  case stages =>
    intro o hc ho hfirst
    rw [exec_commitExchange_open hj member 0 bytes hc ho]
    exact congrArg _ (commitExchange_stages hj m _ bytes hc hfirst)
  case counts =>
    intro r hr hphase hfirst hmissing
    rw [exec_commitExchange_running hj member 0 bytes hr]
    exact congrArg _ (commitExchange_counts hj m _ bytes hr rfl hphase hfirst hmissing)
  case answers =>
    intro hc ho
    rw [exec_commitExchange_closed hj member 2 bytes hc ho]
    exact congrArg _ (commitExchange_answers hj m _ bytes)
  case timeout =>
    intro r c hr hc hadmitted
    refine ⟨fun hphase hno => ?_, fun hphase hyes => ?_, exec_commitTimeout_intentQuery hj hr hc hadmitted⟩
    · rw [exec_commitTimeout_check hj hr hc hadmitted hphase, hno]
      rfl
    · rw [exec_commitTimeout_check hj hr hc hadmitted hphase, hyes]
      rfl
  case fetch =>
    intro i b
    refine ⟨fun hi hb => congrArg _ (serveFetch_answers hj m _ hi hb), fun r f m2 rest hr hsources hfrom hf => ⟨fun hwrong => ?_, ?_⟩⟩
    · exact congrArg _ ((takeFetched_wrong hj hr hfrom hwrong).trans (nextSource_asks hj hr hsources hf))
    · exact fun hright hsilent hmore => ⟨_, congrArg _ (takeFetched_right hj hr hfrom hright hsilent hmore)⟩
  case drip =>
    intro d hd
    refine ⟨fun head hready => exec_dripRingRoom_idle hj hd hready head, fun r => ⟨dripPut_full hj hd, fun t => dripPut_tail hj hd⟩,
      fun y => oldestBehind_least, fun i b st hready hdest holdest => ?_⟩
    exact ⟨exec_dripBehindEmit_full hj hd holdest, fun t => exec_dripBehindEmit_emits hj hd holdest hready hdest⟩

end Sys2Proof.Machine
end

section
/-! ### Received frames (R335, R337, R339, R341, R342, R344, R345, R348) -/

namespace Sys2Proof.Machine

/-! #### What sending leaves of a flow -/

/-- A flow with what sending on it changes left out: its chunks, its counts of sent frames and when it was last used. -/
def Flow.unsent (f : Flow) : Flow :=
  { f with txNext := 0, txFrames := 0, retxFrames := 0, sent := [], queue := [], lastPlane := 0, unacked := 0, lastUsed := 0 }

/-- The flows of t are those of s but for what sending changes. -/
def SameFlows (s t : State) : Prop := ∀ n, (flowAt t n).map Flow.unsent = (flowAt s n).map Flow.unsent

namespace SameFlows

theorem refl (s : State) : SameFlows s s := fun _ => rfl

theorem trans {s t u : State} (a : SameFlows s t) (b : SameFlows t u) : SameFlows s u := fun n => (b n).trans (a n)

theorem foldl {α : Type} {f : State → α → State} (h : ∀ t x, SameFlows t (f t x)) (l : List α) (s : State) :
    SameFlows s (l.foldl f s) := by
  induction l generalizing s with
  | nil => exact .refl s
  | cons x l ih => exact (h s x).trans (ih _)

theorem of_flows {s t : State} (h : t.flows = s.flows) : SameFlows s t := fun n => by rw [flowAt, h, flowAt]

theorem exists_flow {s t : State} (h : SameFlows s t) {n : Nat} {f : Flow} (hf : flowAt s n = some f) :
    ∃ g, flowAt t n = some g ∧ g.unsent = f.unsent := by
  have hn := h n
  rw [hf] at hn
  exact Option.map_eq_some_iff.mp hn

end SameFlows

theorem modFlow_sameFlows (s : State) (fid : Nat) {f : Flow → Flow} (h : ∀ g, (f g).unsent = g.unsent) :
    SameFlows s (modFlow s fid f) := by
  intro n
  rcases eq_or_ne n fid with rfl | hn
  · rw [flowAt_modFlow_same, Option.map_map]
    exact congrArg (fun k => (flowAt s n).map k) (funext h)
  · rw [flowAt_modFlow_other s f hn]

theorem pumpFlow_sameFlows (n : Nat) (s : State) (fid : Nat) : SameFlows s (pumpFlow n s fid) := by
  induction n generalizing s with
  | zero => exact .refl s
  | succ n ih =>
    unfold pumpFlow
    split
    · exact .refl s
    split
    · split
      · exact .refl s
      split
      · exact .refl s
      · refine (SameFlows.of_flows (emitFrame_flows ..)).trans (.trans (modFlow_sameFlows _ _ ?_) (ih _))
        exact fun _ => rfl
    · exact .refl s

theorem pump_sameFlows (s : State) (fid : Nat) : SameFlows s (pump s fid) := pumpFlow_sameFlows 256 s fid

theorem resendPsn_sameFlows (s : State) (fid psn : Nat) : SameFlows s (resendPsn s fid psn) := by
  unfold resendPsn
  split
  · exact .refl s
  split
  · exact .refl s
  split
  · exact .refl s
  · exact (SameFlows.of_flows (by simp)).trans (modFlow_sameFlows _ _ (fun _ => rfl))

theorem sendControl_flows (s : State) (fid type : Nat) : (sendControl s fid type).flows = s.flows := by
  unfold sendControl
  split
  · rfl
  split
  · rfl
  · exact emitFrame_flows ..

theorem sendAck_sameFlows (s : State) (fid : Nat) : SameFlows s (sendAck s fid) :=
  (SameFlows.of_flows (sendControl_flows ..)).trans (modFlow_sameFlows _ _ (fun _ => rfl))

/-- An ACK goes out on the lowest plane, and nothing is left to acknowledge (R345). -/
theorem sendAck_sends {t : State} {fid pl : Nat} {f : Flow} (hf : flowAt t fid = some f) (hp : (flowPlanes t f).head? = some pl) :
    (sendAck t fid).portOut = t.portOut ++ [{ port := pl, frame := controlFrame t fid f 2 }]
    ∧ flowAt (sendAck t fid) fid = some { f with unacked := 0 } := by
  obtain ⟨y, hy, -⟩ := portAt_of_mem_flowPlanes (List.mem_of_head? hp)
  constructor
  · simp only [sendAck, modFlow_frame, sendControl_eq hf hp]
    exact emitFrame_portOut hy _
  · rw [sendAck, flowAt_modFlow_same, flowAt, sendControl_flows]
    exact congrArg _ hf

/-! #### Acknowledgements -/

/-- What a flow has received, and whose it is: the part that no acknowledgement changes. -/
def Flow.received (f : Flow) : (FlowPhase × Nat × Nat) × (Nat × BitVec 256) × Word64 × Nat × List TFrame :=
  ((f.phase, f.partition, f.peer), (f.rxNext, f.rxSack), f.rxFrames, f.tsEcho, f.inbox)

/-- A sample changes the round-trip time, the timeout and the window alone (R346, R347). -/
theorem takeSample_leaves (s : State) (fid : Nat) (f : Flow) (sample n : Nat) :
    (takeSample s fid f sample n).received = f.received ∧ (takeSample s fid f sample n).txUna = f.txUna
    ∧ (takeSample s fid f sample n).lastAck = f.lastAck := by
  unfold takeSample
  dsimp only
  split
  · split <;> exact ⟨rfl, rfl, rfl⟩
  · split <;> exact ⟨rfl, rfl, rfl⟩

theorem ite_takeSample_leaves (c : Prop) [Decidable c] (s : State) (fid : Nat) (f : Flow) (sample n : Nat) :
    (if c then f else takeSample s fid f sample n).received = f.received
    ∧ (if c then f else takeSample s fid f sample n).txUna = f.txUna
    ∧ (if c then f else takeSample s fid f sample n).lastAck = f.lastAck := by
  split
  · exact ⟨rfl, rfl, rfl⟩
  · exact takeSample_leaves ..

/-- The frames that an acknowledgement shows lost go out again (R346). -/
def resendLost (s : State) (fid : Nat) (now : Word64) (lost : List SentFrame) : State :=
  lost.foldl (fun t y =>
    modFlow (resendPsn t fid y.frame.psn) fid (fun g => { g with
      sent := g.sent.map (fun z => if z.frame.psn == y.frame.psn then { z with fastAt := some now } else z) })) s

theorem resendLost_sameFlows (s : State) (fid : Nat) (now : Word64) (lost : List SentFrame) :
    SameFlows s (resendLost s fid now lost) := by
  refine SameFlows.foldl (fun t y => ?_) _ _
  exact (resendPsn_sameFlows t fid y.frame.psn).trans (modFlow_sameFlows _ _ (fun _ => rfl))

/-- A flow replaced, its lost frames sent again and its window filled: what is left of it is what replaced it. -/
theorem flowAt_pump_resendLost {s : State} {fid : Nat} {f : Flow} (hf : flowAt s fid = some f) (now : Word64) (lost : List SentFrame)
    (f2 : Flow) : ∃ h, flowAt (pump (resendLost (modFlow s fid (fun _ => f2)) fid now lost) fid) fid = some h
      ∧ h.received = f2.received ∧ h.txUna = f2.txUna ∧ h.lastAck = f2.lastAck := by
  have hsame := (resendLost_sameFlows (modFlow s fid (fun _ => f2)) fid now lost).trans (pump_sameFlows _ fid)
  obtain ⟨h, hh, heq⟩ := hsame.exists_flow (n := fid) (f := f2) (by rw [flowAt_modFlow_same, hf]; rfl)
  exact ⟨h, hh, (congrArg Flow.received heq :), (congrArg Flow.txUna heq :), (congrArg Flow.lastAck heq :)⟩

theorem received_acknowledged (f : Flow) (sent : List SentFrame) (txUna : Nat) (lastAck : Word64) (retxRun rto : Nat) :
    ({ f with sent := sent, txUna := txUna, lastAck := lastAck, retxRun := retxRun, rto := rto } : Flow).received = f.received := rfl

/-- An acknowledgement moves tx_una forward and leaves what the flow has received; what it sends then leaves both (R345 to R347). -/
theorem takeAck_acks {s : State} {fid : Nat} {f : Flow} (hf : flowAt s fid = some f) (x : TFrame) :
    ∃ h, flowAt (takeAck s fid x) fid = some h ∧ h.received = f.received
      ∧ h.txUna = (if psnBefore f.txUna x.ackPsn then x.ackPsn else f.txUna) ∧ h.lastAck = aonNow s := by
  unfold takeAck
  split
  · rename_i hnone
    cases hnone.symm.trans hf
  · rename_i f' hf'
    obtain rfl : f' = f := Option.some.inj (hf'.symm.trans hf)
    extract_lets covered fresh advanced sent1 f1 f2 s1 lost s2
    obtain ⟨hrec, huna, hack⟩ : f2.received = f1.received ∧ f2.txUna = f1.txUna ∧ f2.lastAck = f1.lastAck :=
      ite_takeSample_leaves ..
    obtain ⟨h, hh, hrec', huna', hack'⟩ := flowAt_pump_resendLost hf (flowLnk s fid) lost f2
    have hf1 : f1.received = f'.received := received_acknowledged ..
    exact ⟨h, hh, (hrec'.trans hrec).trans hf1, huna'.trans huna, hack'.trans hack⟩

/-! #### Frames that arrive, and frames that do not -/

section
variable {s : State} {pt : Nat} {x : Port} {dst et : Nat} {fcsOk icvOk : Bool} {header payload : List Byte} {type p : Nat}

/-- A transport frame that arrives is counted and reaches its partition. -/
theorem admit_check_eq (h : Arrives s pt x dst et fcsOk icvOk header payload type p) (k : State → Nat → TFrame → State) :
    admitFrame s pt dst et fcsOk icvOk payload.length (fun u => checkFrame u pt type header payload k)
      = k (countRx s pt (wireBytes x payload.length)) p (frameOfBytes header payload) := by
  have hnet : partOfNet (countRx s pt (wireBytes x payload.length)) (frameOfBytes header payload).netId = some p := by
    simpa [partOfNet] using h.net
  have hsealed : ¬(x.macsec = true ∧ ((!icvOk) = true ∨ (s.sec.macsec[pt]?.map (·.rxSas)).getD [] = [])) := by
    rintro ⟨hm, hbad⟩
    obtain ⟨hicv, hsas⟩ := h.sealed hm
    simp [hicv, hsas] at hbad
  have hchecks : ¬(header.length ≠ 64 ∨ (frameOfBytes header payload).ver ≠ 1 ∨ (frameOfBytes header payload).type ≠ type
      ∨ (type = 1 ∧ 6 < (frameOfBytes header payload).cls) ∨ (!icrcOk header payload) = true
      ∨ fieldAt header 0x0E 2 ≠ payload.length ∨ 8192 < payload.length ∨ (type ≠ 1 ∧ payload ≠ [])) := by
    have hcls := h.cls
    have hbare := h.bare
    simp only [h.length, h.version, h.typed, h.icrc, h.len, ne_eq, not_true_eq_false, Bool.not_true, Bool.false_eq_true, false_or,
      not_or, not_and, not_not, not_lt]
    exact ⟨hcls, h.room, hbare⟩
  simp only [admitFrame, h.port, h.up, h.fcs, h.mac, h.ether]
  rw [if_neg (by simp), if_neg (by simp), if_neg (by simp), if_neg hsealed, if_neg (by simp)]
  simp only [checkFrame]
  rw [if_neg hchecks, hnet]

/-- A transport frame that arrives on a flow is counted and heard there. -/
theorem admit_flow_eq {g : Flow} (h : ArrivesOn s pt x dst et fcsOk icvOk header payload type p g)
    (k : State → Nat → Nat → Flow → TFrame → State) :
    admitFrame s pt dst et fcsOk icvOk payload.length (fun u => flowFrame u pt type header payload k)
      = k (heard s pt x payload.length (frameOfBytes header payload).dstFlow) p (frameOfBytes header payload).dstFlow g
          (frameOfBytes header payload) := by
  refine (admit_check_eq h.toArrives _).trans ?_
  have hflow : flowAt (countRx s pt (wireBytes x payload.length)) (frameOfBytes header payload).dstFlow = some g := by
    simpa [flowAt] using h.flow
  have hgen : ¬((frameOfBytes header payload).dstGen ≠ (countRx s pt (wireBytes x payload.length)).sec.generation.toNat ∧ type ≠ 5) :=
    fun hbad => hbad.1 (by simpa using h.gen hbad.2)
  simp only [hflow]
  rw [if_neg (by simp [h.part, h.peer]), if_neg hgen]
  simp only [heard, aonNow, countRx_frame]

/-- The flow that an arriving frame is heard on: its receive state is that of the context. -/
theorem flowAt_heard {g : Flow} {fid n : Nat} (h : flowAt s fid = some g) :
    flowAt (heard s pt x n fid) fid
      = some { g with lastHeard := aonNow s, phase := if g.phase = .unreachable then .open else g.phase } := by
  have hcounted : flowAt (countRx s pt (wireBytes x n)) fid = some g := by simpa [flowAt] using h
  rw [heard, flowAt_modFlow_same, hcounted, Option.map_some]

end

section
variable {s : State} {pt : Nat} {x : Port} (hx : portAt s pt = some x) (dst et : Nat) (fcsOk icvOk : Bool) (n : Nat)
include hx

/-- A port that is not up hears nothing, a bad FCS is counted alone, and a frame to another MAC is dropped (R335, R337). -/
theorem admitFrame_unheard (k : State → State) :
    (x.phase ≠ .up → admitFrame s pt dst et fcsOk icvOk n k = s)
    ∧ (x.phase = .up → fcsOk = false →
        admitFrame s pt dst et fcsOk icvOk n k = modPort s pt (fun y => { y with fcsErrors := y.fcsErrors + 1 }))
    ∧ (x.phase = .up → fcsOk = true → dst ≠ x.mac →
        admitFrame s pt dst et fcsOk icvOk n k = dropFrame (countRx s pt (wireBytes x n)) pt)
    ∧ (x.phase = .up → fcsOk = true → dst = x.mac → x.macsec = true → icvOk = false →
        admitFrame s pt dst et fcsOk icvOk n k
          = modPort (countRx s pt (wireBytes x n)) pt (fun y => { y with macsecDrops := y.macsecDrops + 1 })) := by
  simp only [admitFrame, hx]
  refine ⟨fun h => ?_, fun hu hf => ?_, fun hu hf hd => ?_, fun hu hf hd hm hi => ?_⟩
  · rw [if_pos h]
  · simp [hu, hf]
  · simp [hu, hf, hd]
  · simp [hu, hf, hd, hm, hi]

/-- A frame of another EtherType, version, type, icrc or net_id is dropped and counted (R337, R342). -/
theorem admit_check_drops {type : Nat} (hty : type ≤ 7) {header payload : List Byte} (k : State → Nat → TFrame → State)
    (hu : x.phase = .up) (hf : fcsOk = true) (hd : dst = x.mac) (hm : x.macsec = false)
    (hbad : et ≠ s.etherType ∨ (frameOfBytes header payload).ver ≠ 1 ∨ 7 < (frameOfBytes header payload).type
      ∨ icrcOk header payload = false ∨ partOfNet s (frameOfBytes header payload).netId = none) :
    admitFrame s pt dst et fcsOk icvOk n (fun u => checkFrame u pt type header payload k) = dropFrame (countRx s pt (wireBytes x n)) pt := by
  have hnet : partOfNet (countRx s pt (wireBytes x n)) (frameOfBytes header payload).netId = partOfNet s (frameOfBytes header payload).netId := by
    simp [partOfNet]
  by_cases het : et = s.etherType
  · have hcheck : checkFrame (countRx s pt (wireBytes x n)) pt type header payload k = dropFrame (countRx s pt (wireBytes x n)) pt := by
      simp only [checkFrame, hnet]
      rcases hbad with h | h | h | h | h
      · exact absurd het h
      · exact if_pos (.inr (.inl h))
      · exact if_pos (.inr (.inr (.inl (by omega))))
      · exact if_pos (by simp [h])
      · rw [h]
        exact ite_self _
    simpa [admitFrame, hx, hu, hf, hd, hm, het] using hcheck
  · simp [admitFrame, hx, hu, hf, hd, hm, het]

end

/-- Every other frame that the port hears, and whose ICV does not fail, is dropped and counted (R335). -/
theorem execNonTransportFrame_drops {s : State} {port : BitVec 4} {x : Port} (hx : portAt s port.toNat = some x) (hu : x.phase = .up)
    {dst : BitVec 48} {icvOk : Bool} (h : dst.toNat ≠ x.mac ∨ x.macsec = false ∨ icvOk = true) (et : BitVec 16) (header payload : List Byte) :
    execNonTransportFrame port dst et true icvOk header payload s
      = .next (dropFrame (countRx s port.toNat (14 + header.length + payload.length + 4)) port.toNat) := by
  have hicv : ¬(dst.toNat = x.mac ∧ et.toNat ≠ 0x888E ∧ x.macsec = true ∧ (!icvOk) = true) := by
    rintro ⟨hd, -, hm, hi⟩
    rcases h with h | h | h
    · exact h hd
    · simp [h] at hm
    · simp [h] at hi
  simp only [execNonTransportFrame, hx, hu, Bool.not_true, Bool.false_eq_true, if_false, ne_eq, not_true_eq_false]
  exact if_neg hicv

/-! #### MKA -/

theorem foldl_pump_sec (l : SMap Flow) (s : State) : (l.foldl (fun t e => pump t e.1) s).sec = s.sec := by
  induction l generalizing s with
  | nil => rfl
  | cons e l ih => rw [List.foldl_cons, ih, (pump_portOnly s e.1).sec]

/-- The receive keys of a port once an MKA frame has installed its key, or not. -/
def rxSasAfter (k : MacsecKeys) (rx : Bool) (sak : Nat) : List Nat := if rx then k.rxSas.filter (· != sak) ++ [sak] else k.rxSas

/-- An MKA frame installs its receive key first; its transmit key is taken only where the receive key is there (R339, R488). -/
theorem execMkaFrame_installs {s : State} {port : BitVec 4} {x : Port} {k : MacsecKeys} (hx : portAt s port.toNat = some x)
    (hu : x.phase = .up) (hm : x.macsec = true) (hk : s.sec.macsec[port.toNat]? = some k) (hc : k.cak.isSome = true)
    (dst : BitVec 48) (rx tx : Bool) (sak : BitVec 128) :
    ∃ t, execMkaFrame port dst true rx tx sak s = .next t
      ∧ t.sec.macsec[port.toNat]?.map (fun y => (y.txSa, y.rxSas))
          = some (if tx ∧ sak.toNat ∈ rxSasAfter k rx sak.toNat then (some sak.toNat, [sak.toNat]) else (k.txSa, rxSasAfter k rx sak.toNat)) := by
  have hlive : ¬(k.cak.isNone = true ∧ k.nextCak.isNone = true) := by
    intro h
    simp [Option.isNone_iff_eq_none.mp h.1] at hc
  have hport : port.toNat < 16 := port.isLt
  simp only [execMkaFrame, hx, hu, hm, modPort_frame, hk, Bool.not_true, Bool.false_eq_true, if_false, ne_eq, not_true_eq_false]
  rw [if_neg hlive]
  refine ⟨_, rfl, ?_⟩
  have hk1 : (if rx = true then { k with rxSas := k.rxSas.filter (· != sak.toNat) ++ [sak.toNat] } else k).rxSas
      = rxSasAfter k rx sak.toNat := by cases rx <;> rfl
  have htx1 : (if rx = true then { k with rxSas := k.rxSas.filter (· != sak.toNat) ++ [sak.toNat] } else k).txSa = k.txSa := by
    cases rx <;> rfl
  rw [hk1]
  by_cases htx : tx = true ∧ sak.toNat ∈ rxSasAfter k rx sak.toNat
  · have hcond : (tx && (rxSasAfter k rx sak.toNat).contains sak.toNat) = true := by simpa using htx
    rw [if_pos hcond, if_pos hcond, if_pos htx, foldl_pump_sec]
    simp [hport]
  · have hcond : ¬(tx && (rxSasAfter k rx sak.toNat).contains sak.toNat) = true := by simpa using htx
    rw [if_neg hcond, if_neg hcond, if_neg htx]
    simp [hport, hk1, htx1]

/-! #### Flows that open, and gang-lane commands where no queue context is -/

theorem progressGang_of_queues_nil {s : State} (h : s.queues = []) (p : Nat) : progressGang s p = s := by simp [progressGang, cmdsWhere, h]

theorem reopenFlow_of_queues_nil {s : State} {fid : Nat} {f : Flow} (hf : flowAt s fid = some f) (h : s.queues = []) :
    reopenFlow s fid = sendControl (modFlow s fid (fun g => { newFlow s f.partition g.peer .connecting with
      rto := g.rto, txFrames := g.txFrames, rxFrames := g.rxFrames, retxFrames := g.retxFrames })) fid 3 := by
  simp [reopenFlow, hf, cmdsWhere, h]

theorem flowAt_setPlanes {s : State} {fid : Nat} {f : Flow} (hf : flowAt s fid = some f) :
    ∃ n, flowAt (setPlanes s fid) fid = some { f with planes := n } := by
  simp only [setPlanes, hf]
  exact ⟨_, by rw [flowAt_modFlow_same, hf]; rfl⟩

/-! #### DATA -/

theorem markPsn_zero {f : Flow} (h : f.rxSack = 0) : markPsn f 0 = { f with rxNext := (f.rxNext + 1) % 2 ^ 32, rxSack := 0 } := by
  simp [markPsn, h, shiftBitmap]

theorem markPsn_pos (f : Flow) {d : Nat} (h : 0 < d) : markPsn f d = { f with rxSack := f.rxSack ||| BitVec.ofNat 256 (2 ^ (d - 1)) } :=
  if_neg h.ne'

/-- A chunk that is not before rx_next waits (R344). -/
theorem deliverFlow_waits {s : State} {fid : Nat} {f : Flow} {x : TFrame} (hf : flowAt s fid = some f) (hi : f.inbox = [x])
    (hx : psnBefore x.psn f.rxNext = false) : deliverFlow s fid = s := by
  simp [deliverFlow, hf, hi, hx]

/-- A message of one chunk that is in order is delivered, and its chunk is taken out (R344). -/
theorem deliverFlow_delivers {s : State} {fid : Nat} {f : Flow} {x : TFrame} (hf : flowAt s fid = some f) (hi : f.inbox = [x])
    (hx : psnBefore x.psn f.rxNext = true) (hlast : natBit x.flags 0 = true) :
    deliverFlow s fid = deliver (modFlow s fid (fun g => { g with inbox := [] })) f.partition
      { src := x.srcModule, cls := x.cls, tag := x.tag, op := x.op, cause := x.cause, seq := x.seq, round := x.chunk / 2 ^ 24,
        body := x.payload } := by
  simp [deliverFlow, hf, hi, hx, takeInOrder, splitMessages, hlast, messageOf]

/-- A flow of a state once an arriving frame has been heard on it (R348). -/
def Flow.heardAt (f : Flow) (now : Word64) : Flow :=
  { f with lastHeard := now, phase := if f.phase = .unreachable then .open else f.phase }

/-- A flow once its chunk x, d above rx_next, has been taken in (R344, R345). -/
def Flow.taken (f : Flow) (d : Nat) (x : TFrame) (now : Word64) : Flow :=
  { markPsn f d with rxFrames := f.rxFrames + 1, tsEcho := x.ts, unacked := f.unacked + 1, inbox := f.inbox ++ [x], lastUsed := now }

/-- A chunk taken in on a flow: its engine counts its bytes, and its acknowledgement fields are taken in (R344 to R346). -/
def takeChunk (u : State) (pt fid d n : Nat) (x : TFrame) : State :=
  takeAck (modColl (modFlow u fid (fun f => f.taken d x (aonNow u))) (pt / 4)
    (fun c => { c with bytesReceived := bump c.bytesReceived n })) fid x

/-- An ACK at once after the sixteenth chunk, or where flags[2] asks for one (R345). -/
def ackChunk (t : State) (fid : Nat) (x : TFrame) : State :=
  if 16 ≤ ((flowAt t fid).map (·.unacked)).getD 0 ∨ natBit x.flags 2 then sendAck t fid else t

theorem takeChunk_queues (u : State) (pt fid d n : Nat) (x : TFrame) : (takeChunk u pt fid d n x).queues = u.queues := by
  simp [takeChunk, modFlow]

theorem flowAt_takeChunk {u : State} {fid : Nat} {f : Flow} (hf : flowAt u fid = some f) (pt d n : Nat) (x : TFrame) :
    ∃ h, flowAt (takeChunk u pt fid d n x) fid = some h ∧ h.received = (f.taken d x (aonNow u)).received := by
  have htaken (c : CollEngine → CollEngine) : flowAt (modColl (modFlow u fid (fun f => f.taken d x (aonNow u))) (pt / 4) c) fid
      = some (f.taken d x (aonNow u)) := by
    rw [flowAt, modColl_flows, ← flowAt, flowAt_modFlow_same, hf, Option.map_some]
  obtain ⟨h, hh, hrec, -⟩ := takeAck_acks (htaken _) x
  exact ⟨h, hh, hrec⟩

theorem ackChunk_sameFlows (t : State) (fid : Nat) (x : TFrame) : SameFlows t (ackChunk t fid x) := by
  unfold ackChunk
  split
  · exact sendAck_sameFlows t fid
  · exact .refl t

theorem ackChunk_queues (t : State) (fid : Nat) (x : TFrame) : (ackChunk t fid x).queues = t.queues := by
  unfold ackChunk
  split
  · simp
  · rfl

section
variable {s : State} {port : BitVec 4} {x : Port} {dst : BitVec 48} {et : BitVec 16} {fcsOk icvOk : Bool} {header payload : List Byte} {p : Nat}
  {g : Flow}

/-- A chunk outside the window, or one whose PSN is set, is counted as a duplicate and answered with an ACK (R345). -/
theorem execDataFrame_duplicate (h : ArrivesOn s port.toNat x dst.toNat et.toNat fcsOk icvOk header payload 1 p g) {d : Nat}
    (hd : ((frameOfBytes header payload).psn + 2 ^ 32 - g.rxNext) % 2 ^ 32 = d)
    (hdup : 256 ≤ d ∨ (0 < d ∧ g.rxSack.getLsbD (d - 1) = true)) :
    execDataFrame port dst et fcsOk icvOk header payload s
      = .next (takeAck (sendAck (modPort (heard s port.toNat x payload.length (frameOfBytes header payload).dstFlow) port.toNat
          (fun y => { y with duplicates := y.duplicates + 1 })) (frameOfBytes header payload).dstFlow)
          (frameOfBytes header payload).dstFlow (frameOfBytes header payload)) := by
  refine congrArg _ ((admit_flow_eq h _).trans ?_)
  simp only [hd]
  refine if_pos ?_
  rcases hdup with hge | ⟨hpos, hset⟩
  · simp [Nat.not_lt.mpr hge]
  · simp [hpos, hset]

/-- A new chunk in the window is taken in; then what is complete in order is delivered (R344, R345). -/
theorem execDataFrame_fresh (h : ArrivesOn s port.toNat x dst.toNat et.toNat fcsOk icvOk header payload 1 p g) {d : Nat}
    (hd : ((frameOfBytes header payload).psn + 2 ^ 32 - g.rxNext) % 2 ^ 32 = d) (hlt : d < 256)
    (hnew : 0 < d → g.rxSack.getLsbD (d - 1) = false) :
    ∃ t f, execDataFrame port dst et fcsOk icvOk header payload s
        = .next (progressGang (deliverFlow t (frameOfBytes header payload).dstFlow) p)
      ∧ t.queues = s.queues ∧ flowAt t (frameOfBytes header payload).dstFlow = some f
      ∧ f.received = ((g.heardAt (aonNow s)).taken d (frameOfBytes header payload) (aonNow s)).received := by
  generalize hfr : frameOfBytes header payload = fr at hd ⊢
  have hu : flowAt (heard s port.toNat x payload.length fr.dstFlow) fr.dstFlow = some (g.heardAt (aonNow s)) :=
    flowAt_heard (hfr ▸ h.flow)
  have hnow : aonNow (heard s port.toNat x payload.length fr.dstFlow) = aonNow s := by simp [heard, aonNow]
  have hqueues : (heard s port.toNat x payload.length fr.dstFlow).queues = s.queues := by simp [heard]
  obtain ⟨f5, hf5, hrec5⟩ := flowAt_takeChunk hu port.toNat d payload.length fr
  obtain ⟨f6, hf6, hsame⟩ := (ackChunk_sameFlows _ fr.dstFlow fr).exists_flow hf5
  have hrec6 : f6.received = f5.received := (congrArg Flow.received hsame :)
  refine ⟨_, f6, congrArg _ ((admit_flow_eq h _).trans ?_), ?_, hf6, by rw [hrec6, hrec5, hnow]⟩
  · simp only [hfr, hd]
    have hfresh : ¬(!decide (d < 256 ∧ (!(decide (0 < d) && g.rxSack.getLsbD (d - 1))) = true)) = true := by
      simpa [hlt, Nat.pos_iff_ne_zero] using hnew
    rw [if_neg hfresh]
    rfl
  · rw [ackChunk_queues, takeChunk_queues, hqueues]

theorem frameOfBytes_psn_lt (header payload : List Byte) : (frameOfBytes header payload).psn < 2 ^ 32 := by
  simpa [frameOfBytes, fieldAt, sliceBytes] using bytesToNat_lt (sliceBytes header 0x14 4)

/-- A new chunk ahead of rx_next is marked received and waits (R344). -/
theorem execDataFrame_ahead (h : ArrivesOn s port.toNat x dst.toNat et.toNat fcsOk icvOk header payload 1 p g) {d : Nat}
    (hd : ((frameOfBytes header payload).psn + 2 ^ 32 - g.rxNext) % 2 ^ 32 = d) (hpos : 0 < d) (hlt : d < 256)
    (hnew : g.rxSack.getLsbD (d - 1) = false) (hi : g.inbox = []) (hq : s.queues = []) :
    ∃ t, execDataFrame port dst et fcsOk icvOk header payload s = .next t
      ∧ ∃ f, flowAt t (frameOfBytes header payload).dstFlow = some f ∧ f.rxNext = g.rxNext
        ∧ f.rxSack = (g.rxSack ||| BitVec.ofNat 256 (2 ^ (d - 1))) ∧ f.inbox = [frameOfBytes header payload]
        ∧ f.rxFrames = g.rxFrames + 1 ∧ f.tsEcho = (frameOfBytes header payload).ts := by
  obtain ⟨t, f, ht, htq, hf, hrec⟩ := execDataFrame_fresh h hd hlt (fun _ => hnew)
  rw [Flow.taken, markPsn_pos _ hpos] at hrec
  simp only [Flow.received, Flow.heardAt, Prod.mk.injEq, hi, List.nil_append] at hrec
  obtain ⟨-, ⟨hnext, hsack⟩, hframes, hecho, hinbox⟩ := hrec
  have hpsn := frameOfBytes_psn_lt header payload
  have hbefore : psnBefore (frameOfBytes header payload).psn f.rxNext = false := by
    simp only [psnBefore, hnext, decide_eq_false_iff_not]
    omega
  rw [deliverFlow_waits hf hinbox hbefore, progressGang_of_queues_nil (htq.trans hq)] at ht
  exact ⟨t, ht, f, hf, hnext, hsack, hinbox, hframes, hecho⟩

/-- A message of one chunk that is the next in order is delivered (R344). -/
theorem execDataFrame_inOrder (h : ArrivesOn s port.toNat x dst.toNat et.toNat fcsOk icvOk header payload 1 p g)
    (hd : ((frameOfBytes header payload).psn + 2 ^ 32 - g.rxNext) % 2 ^ 32 = 0) (hlt : g.rxNext < 2 ^ 32) (hs : g.rxSack = 0)
    (hi : g.inbox = []) (hlast : natBit (frameOfBytes header payload).flags 0 = true) :
    ∃ w, execDataFrame port dst et fcsOk icvOk header payload s = .next (progressGang (deliver w p
        { src := (frameOfBytes header payload).srcModule, cls := (frameOfBytes header payload).cls, tag := (frameOfBytes header payload).tag,
          op := (frameOfBytes header payload).op, cause := (frameOfBytes header payload).cause, seq := (frameOfBytes header payload).seq,
          round := (frameOfBytes header payload).chunk / 2 ^ 24, body := payload }) p)
      ∧ ∃ f, flowAt w (frameOfBytes header payload).dstFlow = some f ∧ f.rxNext = (g.rxNext + 1) % 2 ^ 32 ∧ f.rxSack = 0 ∧ f.inbox = []
        ∧ f.rxFrames = g.rxFrames + 1 := by
  obtain ⟨t, f, ht, -, hf, hrec⟩ := execDataFrame_fresh h hd (by decide) (fun hpos => absurd hpos (lt_irrefl 0))
  rw [Flow.taken, markPsn_zero (by exact hs)] at hrec
  simp only [Flow.received, Flow.heardAt, Prod.mk.injEq, hi, List.nil_append] at hrec
  obtain ⟨⟨-, hpart, -⟩, ⟨hnext, hsack⟩, hframes, -, hinbox⟩ := hrec
  have hpsn := frameOfBytes_psn_lt header payload
  have hbefore : psnBefore (frameOfBytes header payload).psn f.rxNext = true := by
    simp only [psnBefore, hnext, decide_eq_true_eq]
    omega
  rw [deliverFlow_delivers hf hinbox hbefore hlast, hpart.trans h.part] at ht
  refine ⟨_, ht, { f with inbox := [] }, ?_, hnext, hsack, rfl, hframes⟩
  rw [flowAt_modFlow_same, hf, Option.map_some]

/-! #### CONNECT, ACCEPT and REJECT -/

/-- An ACCEPT opens a flow that connects (R341). -/
theorem execAcceptFrame_opens (h : ArrivesOn s port.toNat x dst.toNat et.toNat fcsOk icvOk header payload 4 p g)
    (hc : g.phase = .connecting) :
    ∃ t, execAcceptFrame port dst et fcsOk icvOk header payload s = .next t
      ∧ ∃ f, flowAt t (frameOfBytes header payload).dstFlow = some f ∧ f.phase = FlowPhase.open
        ∧ f.peerFlow = (frameOfBytes header payload).srcFlow ∧ f.peerGen = (frameOfBytes header payload).gen := by
  refine ⟨_, congrArg Host.Outcome.next ((admit_flow_eq h _).trans (if_pos hc)), ?_⟩
  have hopened := flowAt_modFlow_same (heard s port.toNat x payload.length (frameOfBytes header payload).dstFlow)
    (frameOfBytes header payload).dstFlow (fun f => { f with
      phase := .open, peerFlow := (frameOfBytes header payload).srcFlow, peerGen := (frameOfBytes header payload).gen })
  rw [flowAt_heard h.flow] at hopened
  obtain ⟨n, hplanes⟩ := flowAt_setPlanes hopened
  obtain ⟨f, hf, hsame⟩ := (pump_sameFlows _ _).exists_flow hplanes
  exact ⟨f, hf, (congrArg Flow.phase hsame :), (congrArg Flow.peerFlow hsame :), (congrArg Flow.peerGen hsame :)⟩

/-- A REJECT opens a flow anew (R342). -/
theorem execRejectFrame_reopens (h : ArrivesOn s port.toNat x dst.toNat et.toNat fcsOk icvOk header payload 5 p g) (hq : s.queues = []) :
    ∃ t, execRejectFrame port dst et fcsOk icvOk header payload s = .next t
      ∧ ∃ f, flowAt t (frameOfBytes header payload).dstFlow = some f ∧ f.phase = .connecting ∧ f.sent = [] ∧ f.queue = []
        ∧ f.txNext = 0 ∧ f.rxNext = 0 := by
  have hqueues : (heard s port.toNat x payload.length (frameOfBytes header payload).dstFlow).queues = [] := by
    simpa [heard] using hq
  have hreopen := reopenFlow_of_queues_nil (flowAt_heard (x := x) (pt := port.toNat) (n := payload.length) h.flow) hqueues
  have hgang := progressGang_of_queues_nil (s := reopenFlow (heard s port.toNat x payload.length (frameOfBytes header payload).dstFlow)
    (frameOfBytes header payload).dstFlow) (by rw [hreopen]; simpa using hqueues) p
  refine ⟨_, congrArg Host.Outcome.next ((admit_flow_eq h _).trans (hgang.trans hreopen)), ?_⟩
  rw [flowAt, sendControl_flows, ← flowAt, flowAt_modFlow_same, flowAt_heard h.flow]
  exact ⟨_, rfl, rfl, rfl, rfl, rfl, rfl⟩

theorem setPlanes_portOut (s : State) (fid : Nat) : (setPlanes s fid).portOut = s.portOut := by simp

/-- The answer to a sender without a flow context here (R341, R342). -/
def replyOf (s : State) (type srcFlow : Nat) (x : TFrame) : TFrame :=
  { ver := 1, type := type, cls := 0, flags := 0, netId := x.netId, srcModule := s.life.moduleId, dstModule := x.srcModule,
    srcFlow := srcFlow, dstFlow := x.srcFlow, gen := s.sec.generation.toNat, psn := 0, ackPsn := 0, ts := 0, sack := 0,
    tsEcho := 0, tag := 0, op := 0, cause := 0, seq := 0, chunk := 0, dstGen := x.gen, payload := [] }

theorem replyFrame_sends {s : State} {port : Nat} {x : Port} (hx : portAt s port = some x) (type srcFlow : Nat) (f : TFrame) :
    (replyFrame s port type srcFlow f).flows = s.flows
    ∧ (replyFrame s port type srcFlow f).portOut = s.portOut ++ [{ port := port, frame := replyOf s type srcFlow f }] :=
  ⟨emitFrame_flows .., emitFrame_portOut hx _⟩

theorem portAt_countRx {s : State} {pt : Nat} {x : Port} (hx : portAt s pt = some x) (n : Nat) :
    portAt (countRx s pt n) pt = some { x with rxFrames := x.rxFrames + 1, rxBytes := bump x.rxBytes n } := by
  rw [countRx, portAt_modPort_same, hx, Option.map_some]

/-- A CONNECT of a module that is not in the peer table is answered with REJECT (R342). -/
theorem execConnectFrame_rejects (h : Arrives s port.toNat x dst.toNat et.toNat fcsOk icvOk header payload 3 p)
    (hpeer : peerOf s p (frameOfBytes header payload).srcModule = none) :
    ∃ t, execConnectFrame port dst et fcsOk icvOk header payload s = .next t ∧ t.flows = s.flows
      ∧ ∃ f, t.portOut = s.portOut ++ [{ port := port.toNat, frame := f }] ∧ f.type = 5 ∧ f.srcFlow = 0xFFFF
        ∧ f.dstFlow = (frameOfBytes header payload).srcFlow ∧ f.dstModule = (frameOfBytes header payload).srcModule
        ∧ f.dstGen = (frameOfBytes header payload).gen := by
  set u := countRx s port.toNat (wireBytes x payload.length)
  obtain ⟨hflows, hout⟩ := replyFrame_sends (portAt_countRx h.port (wireBytes x payload.length)) 5 0xFFFF (frameOfBytes header payload)
  have hpeer' : peerOf u p (frameOfBytes header payload).srcModule = none := by simpa [peerOf, partAt, u] using hpeer
  refine ⟨_, congrArg Host.Outcome.next ((admit_check_eq h _).trans (by simp only [u, hpeer']; rfl)), ?_,
    replyOf u 5 0xFFFF (frameOfBytes header payload), ?_, rfl, rfl, rfl, rfl, rfl⟩
  · exact hflows.trans (by simp)
  · rw [hout]
    simp only [countRx_frame, u]

/-- A CONNECT of a known module that has no flow here opens one where a context is free, and is answered with ACCEPT (R341). -/
theorem execConnectFrame_opens (h : Arrives s port.toNat x dst.toNat et.toNat fcsOk icvOk header payload 3 p) {e : Peer} {y : Partition}
    (hpeer : peerOf s p (frameOfBytes header payload).srcModule = some e) (hto : flowTo s p (frameOfBytes header payload).srcModule = none)
    (hy : partAt s p = some y) (hquota : (s.flows.filter (fun z => z.2.partition == p)).length < y.flowQuota)
    (hroom : s.flows.length < 40960) :
    ∃ t n, execConnectFrame port dst et fcsOk icvOk header payload s = .next t ∧ n = mapFree s.flows 0 40960
      ∧ (flowAt t n).map (fun f => (f.phase, f.partition, f.peer, f.peerFlow, f.peerGen))
          = some (FlowPhase.open, p, (frameOfBytes header payload).srcModule, (frameOfBytes header payload).srcFlow, (frameOfBytes header payload).gen)
      ∧ ∃ f, t.portOut = s.portOut ++ [{ port := port.toNat, frame := f }] ∧ f.type = 4 ∧ f.srcFlow = n
        ∧ f.dstFlow = (frameOfBytes header payload).srcFlow ∧ f.gen = s.sec.generation.toNat := by
  set fr := frameOfBytes header payload with hfr
  set u := countRx s port.toNat (wireBytes x payload.length) with hu
  have hparts : u.partitions = s.partitions := by simp [hu]
  have hflows : u.flows = s.flows := by simp [hu]
  have hpeer' : peerOf u p fr.srcModule = some e := by simpa [peerOf, partAt, hparts] using hpeer
  have hto' : flowTo u p fr.srcModule = none := by simpa [flowTo, hflows] using hto
  have hroom' : flowRoom u p = some u := by
    have hquota' : (u.flows.filter (fun z => z.2.partition == p)).length < ((partAt u p).map (·.flowQuota)).getD 0
        ∧ u.flows.length < 40960 := by
      rw [partAt, hparts, ← partAt, hy, hflows]
      exact ⟨hquota, hroom⟩
    exact if_pos hquota'
  obtain ⟨n, hn⟩ : ∃ n, mapFree u.flows 0 40960 = n := ⟨_, rfl⟩
  obtain ⟨f, hexec, hf⟩ : ∃ f : Flow, execConnectFrame port dst et fcsOk icvOk header payload s
        = .next (setPlanes (replyFrame { u with flows := mapSet u.flows n f } port.toNat 4 n fr) n)
      ∧ (f.phase, f.partition, f.peer, f.peerFlow, f.peerGen) = (FlowPhase.open, p, fr.srcModule, fr.srcFlow, fr.gen) :=
    ⟨_, congrArg Host.Outcome.next ((admit_check_eq h _).trans (by simp only [← hu, ← hfr, hpeer', hto', hroom', hn]; rfl)), rfl⟩
  obtain ⟨hrflows, hout⟩ := replyFrame_sends (s := { u with flows := mapSet u.flows n f })
    (portAt_countRx h.port (wireBytes x payload.length)) 4 n fr
  have hset : flowAt (replyFrame { u with flows := mapSet u.flows n f } port.toNat 4 n fr) n = some f := by
    rw [flowAt, hrflows, mapGet_mapSet_same]
  obtain ⟨planes, hplanes⟩ := flowAt_setPlanes hset
  refine ⟨_, n, hexec, by rw [← hn, hflows], by rw [hplanes]; exact congrArg some hf, replyOf u 4 n fr, ?_, rfl, rfl, rfl, ?_⟩
  · rw [(setPlanes_portOut ..), hout]
    exact congrArg (· ++ _) (by simp [hu])
  · simp only [replyOf, hu, countRx_frame]

end

/-! #### The statement -/

/-- Settles O54: what no port hears by the checks of the frame, and what it hears by the lemma about the frame's type. -/
theorem transportFrames : Obligations.TransportFrames := by
  intro s port dst et fcsOk icvOk rx tx header payload x p g sak
  refine ⟨fun hx => ⟨fun c hc => ?unheard, fun hu hf h => ?other, fun hu hm k hk hc => execMkaFrame_installs hx hu hm hk hc dst rx tx sak⟩,
    fun t f pl hf hp => sendAck_sends hf hp, fun h => congrArg Host.Outcome.next (admit_flow_eq h _),
    fun h => congrArg Host.Outcome.next (admit_flow_eq h _),
    fun h => ⟨congrArg Host.Outcome.next (admit_flow_eq h _), ?acked⟩, fun h hc => execAcceptFrame_opens h hc,
    fun h hq => execRejectFrame_reopens h hq,
    fun h => ⟨execDataFrame_duplicate h rfl, fun hpos hlt hnew hi hq => execDataFrame_ahead h rfl hpos hlt hnew hi hq,
      fun hd hlt hs hi hlast => execDataFrame_inOrder h hd hlt hs hi hlast⟩,
    fun h => ⟨execConnectFrame_rejects h, fun e y hpeer hto hy hquota hroom => execConnectFrame_opens h hpeer hto hy hquota hroom⟩⟩
  case unheard =>
    obtain ⟨type, k, hty, hexec⟩ : ∃ type k, type ≤ 7 ∧ exec c s = .next (admitFrame s port.toNat dst.toNat et.toNat fcsOk icvOk
        payload.length (fun u => checkFrame u port.toNat type header payload k)) := by
      simp only [List.mem_cons, List.not_mem_nil, or_false] at hc
      rcases hc with rfl | rfl | rfl | rfl | rfl | rfl | rfl
      · exact ⟨1, _, by decide, rfl⟩
      · exact ⟨2, _, by decide, rfl⟩
      · exact ⟨3, _, by decide, rfl⟩
      · exact ⟨4, _, by decide, rfl⟩
      · exact ⟨5, _, by decide, rfl⟩
      · exact ⟨6, _, by decide, rfl⟩
      · exact ⟨7, _, by decide, rfl⟩
    rw [hexec]
    obtain ⟨hdown, hfcs, hmac, hicv⟩ := admitFrame_unheard hx dst.toNat et.toNat fcsOk icvOk payload.length
      (fun u => checkFrame u port.toNat type header payload k)
    exact ⟨fun hu => congrArg _ (hdown hu), fun hu hf => congrArg _ (hfcs hu hf), fun hu hf hd => congrArg _ (hmac hu hf hd),
      fun hu hf hd hm hi => congrArg _ (hicv hu hf hd hm hi),
      fun hu hf hd hm hbad => congrArg _ (admit_check_drops hx _ _ _ _ _ hty k hu hf hd hm hbad)⟩
  case other =>
    subst hf
    exact execNonTransportFrame_drops hx hu h et header payload
  case acked =>
    obtain ⟨f, hf, -, huna, hack⟩ := takeAck_acks (flowAt_heard (x := x) (pt := port.toNat) (n := payload.length) h.flow)
      (frameOfBytes header payload)
    exact ⟨f, hf, huna, hack.trans (by simp [heard, aonNow])⟩

end Sys2Proof.Machine
end

section
/-! ### LINK_CONFIG where the table of flows names a context out of order (R333) -/

namespace Sys2Proof.Machine

/-! #### Answers leave the flows -/

theorem msiSomewhere_endOnly (s : State) (p : Nat) : EndOnly s (msiSomewhere s p) := by
  have hdrawn : EndOnly s (drawFree (drawFree s 64).2 511).2 := by constructor <;> rfl
  unfold msiSomewhere
  dsimp only
  split
  · exact hdrawn
  · exact hdrawn.trans (sendMsi_endOnly ..)

theorem rspMessage_endOnly (s : State) (fn : Nat) (isLocal : Bool) : EndOnly s (rspMessage s fn isLocal) := by
  unfold rspMessage
  split
  · exact sendMsix_endOnly ..
  · exact msiSomewhere_endOnly ..

theorem modMbox_endOnly (s : State) (fn : Nat) (isLocal : Bool) (g : Mailbox → Mailbox) : EndOnly s (modMbox s fn isLocal g) :=
  modFunc_endOnly ..

theorem writeResponse_endOnly (s : State) (fn : Nat) (isLocal : Bool) (pos cmd tag status : Nat) (payload : List Byte) :
    EndOnly s (writeResponse s fn isLocal pos cmd tag status payload) := by
  unfold writeResponse
  split
  · exact .refl s
  · refine EndOnly.trans (EndOnly.trans ?_ (modMbox_endOnly ..)) (rspMessage_endOnly ..)
    dsimp only
    split
    · exact (cohWrite_memOnly ..).end.trans (cohWrite_memOnly ..).end
    · exact modFunc_endOnly ..

theorem journalMbx_endOnly (s : State) (fn : Nat) (f : Func) (r : MbxReq) (status : Nat) : EndOnly s (journalMbx s fn f r status) := by
  unfold journalMbx
  dsimp only
  split
  · exact (journalWrite_endOnly ..).trans (modPart_endOnly ..)
  · exact journalWrite_endOnly ..

/-- An answer reaches memory, its function, its partition's journal and messages alone. -/
theorem answer_endOnly (s : State) (fn : Nat) (r : MbxReq) (status : Nat) (payload : List Byte) : EndOnly s (answer s fn r status payload) := by
  unfold answer
  split
  · exact .refl s
  · refine EndOnly.trans (EndOnly.trans ?_ (writeResponse_endOnly ..)) (modFunc_endOnly ..)
    split
    · exact modPart_endOnly ..
    · exact journalMbx_endOnly ..

/-! #### The counterexample -/

/-- LINK_CONFIG of port 0, disabled, with the settings that it has at reset: rto 50 µs, target RTT 20 µs, peer timeout 10 ms. -/
def linkRequest : MbxReq :=
  { isLocal := false, pos := 0, cmd := 0x15, tag := 0,
    payload := zeros 0x14 ++ natToBytes 4 50000 ++ natToBytes 4 20000 ++ natToBytes 4 10000 ++ natToBytes 2 1 }

/-- The module at reset with that request in service at PF0, and a table of flows whose keys do not rise. -/
def unsortedFlows : State :=
  { State.reset with
    funcs := [(0, { Func.reset with inService := some linkRequest })]
    flows := [(1, newFlow State.reset 0 1 .open), (0, newFlow State.reset 0 0 .open)] }

theorem unsortedFlows_serving : Serving unsortedFlows 0 { Func.reset with inService := some linkRequest } linkRequest 0x15 where
  func := rfl
  inService := rfl
  cmdIs := rfl
  room := by decide
  rom := .inl rfl
  decaf := .inl rfl
  enabled := .inl rfl
  own := fun _ => rfl
  free := by decide

/-- Refutes O53: the statement admits a table of flows whose keys do not rise. LINK_CONFIG refreshes each flow's planes, and writing the second
flow back puts it at its place by its key, before the first: the table's keys are then 0, 1, 0, no longer 1, 0. -/
theorem not_administrativeRequests : ¬ Obligations.AdministrativeRequests := by
  unfold Obligations.AdministrativeRequests
  intro h
  obtain ⟨hlink, -⟩ := h unsortedFlows 0 { Func.reset with inService := some linkRequest } linkRequest
  obtain ⟨-, hplain, -⟩ := hlink unsortedFlows_serving
  obtain ⟨t, ht, -, -, -, hkeys⟩ := hplain (by decide) (.inl (by decide))
  obtain ⟨u, hdo, hu⟩ : ∃ u, doLinkConfig unsortedFlows linkRequest = .done u stOk [] ∧ mapKeys u.flows = [0, 1, 0] :=
    ⟨_, rfl, rfl⟩
  have hexec : exec (.linkConfig 0) unsortedFlows = .next (answer u 0 linkRequest stOk []) :=
    exec_done unsortedFlows_serving (form := anyForm) (F := fun _ r => doLinkConfig unsortedFlows r) rfl rfl hdo
  have hsame : answer t 0 linkRequest stOk [] = answer u 0 linkRequest stOk [] := Host.Outcome.next.inj (ht.symm.trans hexec)
  have hflows : t.flows = u.flows := by
    rw [← (answer_endOnly t 0 linkRequest stOk []).flows, hsame, (answer_endOnly u 0 linkRequest stOk []).flows]
  rw [hflows, hu] at hkeys
  exact absurd hkeys (by decide)

end Sys2Proof.Machine
end

section
/-! ### Resets of functions and partitions: what they leave of keys, flows and queue contexts (R342, R457, R459) -/

namespace Sys2Proof.Machine

/-- The keys and the generation, the flows and the queue contexts: what a reset changes in two places alone. -/
def State.linked (s : State) : Security × SMap Flow × SMap Queue := (s.sec, s.flows, s.queues)

theorem linked_congr {s t : State} (hsec : t.sec = s.sec) (hflows : t.flows = s.flows) (hqueues : t.queues = s.queues) : t.linked = s.linked := by
  simp only [State.linked, hsec, hflows, hqueues]

theorem MemOnly.linked {s t : State} (h : MemOnly s t) : t.linked = s.linked := linked_congr h.sec h.flows h.queues

section
variable {s t : State} (h : t.linked = s.linked)
include h

theorem sec_of_linked : t.sec = s.sec := congrArg (·.1) h
theorem flows_of_linked : t.flows = s.flows := congrArg (·.2.1) h
theorem queues_of_linked : t.queues = s.queues := congrArg (·.2.2) h

end

theorem modFunc_linked (s : State) (fn : Nat) (f : Func → Func) : (modFunc s fn f).linked = s.linked := rfl
theorem modPart_linked (s : State) (p : Nat) (f : Partition → Partition) : (modPart s p f).linked = s.linked := rfl
theorem modJob_linked (s : State) (p : Nat) (f : Job → Job) : (modJob s p f).linked = s.linked := rfl

theorem logError_linked (s : State) (cls die code part queue status addr detail : Nat) :
    (logError s cls die code part queue status addr detail).linked = s.linked := by simp [State.linked]

theorem sendMsix_linked (s : State) (fn entry : Nat) : (sendMsix s fn entry).linked = s.linked := by simp [State.linked]

theorem modComponent_linked (s : State) (c : Nat) (f : Component → Component) : (modComponent s c f).linked = s.linked := by
  simp [State.linked]

/-! #### Answers of long requests -/

theorem journalWrite_linked (s : State) (p ty : Nat) (body : List Byte) : (journalWrite s p ty body).linked = s.linked := by
  obtain ⟨u, f, hu, h | h⟩ := journalWrite_reaches s p ty body
  · rw [h, hu.linked]
  · rw [h, modPart_linked, hu.linked]

theorem journalMbx_linked (s : State) (fn : Nat) (f : Func) (r : MbxReq) (status : Nat) : (journalMbx s fn f r status).linked = s.linked := by
  unfold journalMbx
  dsimp only
  split
  · rw [modPart_linked, journalWrite_linked]
  · rw [journalWrite_linked]

theorem msiSomewhere_linked (s : State) (p : Nat) : (msiSomewhere s p).linked = s.linked := by
  unfold msiSomewhere
  dsimp only
  split
  · rfl
  · simp [State.linked, drawFree]

theorem rspMessage_linked (s : State) (fn : Nat) (isLocal : Bool) : (rspMessage s fn isLocal).linked = s.linked := by
  unfold rspMessage
  split
  · exact sendMsix_linked ..
  · exact msiSomewhere_linked ..

theorem modMbox_linked (s : State) (fn : Nat) (isLocal : Bool) (g : Mailbox → Mailbox) : (modMbox s fn isLocal g).linked = s.linked := rfl

theorem writeResponse_linked (s : State) (fn : Nat) (isLocal : Bool) (pos cmd tag status : Nat) (payload : List Byte) :
    (writeResponse s fn isLocal pos cmd tag status payload).linked = s.linked := by
  unfold writeResponse
  split
  · rfl
  extract_lets m e k a s1 s2
  have h1 : s1.linked = s.linked := by
    unfold s1
    split
    · exact ((cohWrite_memOnly ..).trans (cohWrite_memOnly ..)).linked
    · exact modFunc_linked ..
  have h2 : s2.linked = s1.linked := modMbox_linked ..
  rw [rspMessage_linked, h2, h1]

theorem answer_linked (s : State) (fn : Nat) (r : MbxReq) (status : Nat) (payload : List Byte) :
    (answer s fn r status payload).linked = s.linked := by
  unfold answer
  split
  · rfl
  refine (modFunc_linked ..).trans ((writeResponse_linked ..).trans ?_)
  split
  · exact modPart_linked ..
  · exact journalMbx_linked ..

theorem spoilStaging_linked (s : State) (fn : Nat) : (spoilStaging s fn).linked = s.linked := by
  unfold spoilStaging
  split
  · rfl
  · exact foldl_read State.linked (fun _ _ => modComponent_linked ..) _ s

theorem abortLong_linked (s : State) (fn status : Nat) : (abortLong s fn status).linked = s.linked := by
  unfold abortLong
  split
  · rfl
  refine (foldl_read State.linked (fun _ _ => answer_linked ..) _ _).trans ((modPart_linked ..).trans ?_)
  split
  · exact spoilStaging_linked s fn
  · rfl

/-! #### Regions and slots -/

theorem scrubRange_linked (s : State) (a n : Nat) : (scrubRange s a n).linked = s.linked :=
  (clearPoison_memOnly ..).linked.trans (discardRange_memOnly s a n).linked

theorem freeRegion_linked (s : State) (fn i : Nat) : (freeRegion s fn i).linked = s.linked := by
  unfold freeRegion
  split
  · rfl
  refine (modFunc_linked ..).trans ?_
  split
  · rw [scrubRange_linked, scrubRange_linked]
  · rfl

theorem withdrawRegion_linked (s : State) (fn i : Nat) (cause : PlaceCause) : (withdrawRegion s fn i cause).linked = s.linked := by
  unfold withdrawRegion
  split
  · rfl
  dsimp only
  split
  · rw [freeRegion_linked, logError_linked, sendMsix_linked]
    rfl
  · rw [logError_linked, sendMsix_linked]
    rfl

theorem withdrawRegions_linked (s : State) (fn : Nat) (cause : PlaceCause) : (withdrawRegions s fn cause).linked = s.linked := by
  unfold withdrawRegions
  split
  · rfl
  · exact foldl_read State.linked (fun _ _ => withdrawRegion_linked ..) _ s

theorem retireSet_memOnly (s : State) (y : SlotSet) : MemOnly s (retireSet s y) := by
  refine MemOnly.foldl (fun t i => ?_) _ s
  dsimp only
  split
  · split
    · exact cohWrite_memOnly ..
    · exact .refl t
  · exact .refl t

theorem retireSlots_memOnly (s : State) (fn : Nat) : MemOnly s (retireSlots s fn) := by
  unfold retireSlots
  split
  · exact .refl s
  refine MemOnly.foldl (fun t e => ?_) _ s
  split
  · exact .refl t
  · exact retireSet_memOnly ..

/-! #### Repairs, which also leave the functions -/

/-- What a repair leaves: what a reset changes in two places alone, and the functions. -/
def State.mended (s : State) : (Security × SMap Flow × SMap Queue) × SMap Func := (s.linked, s.funcs)

theorem linked_of_mended {s t : State} (h : t.mended = s.mended) : t.linked = s.linked := congrArg (·.1) h
theorem funcs_of_mended {s t : State} (h : t.mended = s.mended) : t.funcs = s.funcs := congrArg (·.2) h

theorem MemOnly.mended {s t : State} (h : MemOnly s t) : t.mended = s.mended := by simp only [State.mended, h.linked, h.funcs]

theorem modPart_mended (s : State) (p : Nat) (f : Partition → Partition) : (modPart s p f).mended = s.mended := rfl
theorem modJob_mended (s : State) (p : Nat) (f : Job → Job) : (modJob s p f).mended = s.mended := rfl
theorem putMapEntry_mended (s : State) (o : TieredObject) (page frame : Nat) (st : PageState) (gen : Nat) :
    (putMapEntry s o page frame st gen).mended = s.mended := rfl

theorem revertMigrations_mended (s : State) (p : Nat) : (revertMigrations s p).mended = s.mended := by
  unfold revertMigrations
  split
  · rfl
  refine (modPart_mended ..).trans (foldl_read State.mended (fun t m => ?_) _ s)
  split
  · rfl
  split
  · exact (modPart_mended ..).trans (putMapEntry_mended ..)
  · exact putMapEntry_mended ..
  · rfl

theorem rebuildSpares_mended (s : State) (p : Nat) : (rebuildSpares s p).mended = s.mended := by
  unfold rebuildSpares
  split
  · rfl
  refine foldl_read State.mended (fun t ch => ?_) _ s
  dsimp only
  split
  · rfl
  split
  · split
    · rfl
    · exact modJob_mended ..
  · rfl

theorem repairRelayout_mended (s : State) (p id : Nat) : (repairRelayout s p id).mended = s.mended := by
  unfold repairRelayout
  split
  · rfl
  · exact (putRelayout_memOnly ..).mended.trans (modJob_mended ..)

theorem repairPartition_mended (s : State) (p : Nat) : (repairPartition s p).mended = s.mended := by
  unfold repairPartition
  extract_lets s1
  have h1 : s1.mended = s.mended := by
    rw [show s1.mended = (rebuildSpares (revertMigrations s p) p).mended from modPart_mended .., rebuildSpares_mended, revertMigrations_mended]
  split
  · exact h1
  · exact (foldl_read State.mended (fun _ _ => repairRelayout_mended ..) _ s1).trans h1

/-! #### The start of server cores -/

theorem startTrial_linked (s : State) (c : Nat) : (startTrial s c).linked = s.linked := by
  unfold startTrial
  dsimp only
  split
  · split
    · exact modComponent_linked ..
    · exact (logError_linked ..).trans (modComponent_linked ..)
  · rfl

theorem loadComponent_linked (s : State) (c : Nat) : (loadComponent s c).1.linked = s.linked := by
  unfold loadComponent
  dsimp only
  split
  · exact (modComponent_linked ..).trans (startTrial_linked s c)
  · exact startTrial_linked s c

theorem holdHarts_linked (s : State) (p : Nat) : (holdHarts s p).linked = s.linked := by
  unfold holdHarts
  exact linked_congr rfl rfl rfl

theorem putOwned_memOnly (s : State) (p a : Nat) (bs : List Byte) : MemOnly s (putOwned s p a bs) := by
  refine MemOnly.foldl (fun t i => ?_) _ s
  split
  · exact cohWrite_memOnly ..
  · exact .refl t

theorem setBoot_linked (s : State) (p step status : Nat) : (setBoot s p step status).linked = s.linked := rfl

theorem bootServers_linked (s : State) (p : Nat) : (bootServers s p).linked = s.linked := by
  unfold bootServers
  extract_lets s0
  have h0 : s0.linked = s.linked := holdHarts_linked s p
  have h1 : (loadComponent s0 2).1.linked = s0.linked := loadComponent_linked s0 2
  split
  · exact h0
  split
  · rename_i s1 hload
    rw [hload] at h1
    rw [setBoot_linked, logError_linked, h1, h0]
  · rename_i s1 img hload
    rw [hload] at h1
    split
    rename_i hpage
    split
    rename_i hn
    split
    rename_i s4 hblob
    extract_lets base dt s5 own s6
    have h4 : s4.linked = s1.linked := by
      obtain ⟨-, rfl⟩ := Prod.mk.inj hpage
      obtain ⟨-, rfl⟩ := Prod.mk.inj hn
      obtain ⟨-, rfl⟩ := Prod.mk.inj hblob
      exact linked_congr rfl rfl rfl
    have h5 : s5.linked = s4.linked := (setBoot_linked ..).trans ((putOwned_memOnly ..).trans (putOwned_memOnly ..)).linked
    have h6 : s6.linked = s5.linked := linked_congr rfl rfl rfl
    refine (foldl_read State.linked (fun t k => ?_) _ s6).trans (h6.trans (h5.trans (h4.trans (h1.trans h0))))
    split
    · simp [State.linked]
    · rfl

end Sys2Proof.Machine
end

section
/-! ### Resets of functions and partitions: contexts, flows, generation and registers after them (R342, R457) -/

namespace Sys2Proof.Machine

/-- No command lives in any queue context, and the contexts are in order. -/
def State.Idle (s : State) : Prop := mapWf s.queues = true ∧ ∀ e ∈ s.queues, e.2.cmds = []

theorem State.Idle.of_queues {s t : State} (h : s.Idle) (ht : t.queues = s.queues) : t.Idle := by
  unfold State.Idle
  rw [ht]
  exact h

/-- Without commands no test picks one. -/
theorem cmdsWhere_idle {s : State} (h : s.Idle) (t : Nat → Queue → Cmd → Bool) : cmdsWhere s t = [] := by
  obtain ⟨-, hnone⟩ := h
  unfold cmdsWhere
  rw [List.flatMap_eq_nil_iff]
  intro e he
  rw [hnone e he]
  rfl

/-- Without commands no commit is in progress. -/
theorem finishCommits_idle {s : State} (h : s.Idle) (t : Nat → Queue → Cmd → Bool) : finishCommits s t = s := by
  rw [finishCommits, cmdsWhere_idle h]
  rfl

/-! #### Queue contexts destroyed -/

theorem endSessions_endOnly (s : State) (status : Nat) (t : Nat → VideoSession → Bool) : EndOnly s (endSessions s status t) := by
  unfold endSessions
  extract_lets hit cmds s1
  exact (endCmds_endOnly s cmds status).trans (by constructor <;> rfl)

theorem descReadDone_endOnly (s : State) (q : Nat) : EndOnly s (descReadDone s q) := by
  unfold descReadDone
  split
  · exact .refl s
  · constructor <;> rfl

theorem freeQueue_endOnly (s : State) (q status : Nat) : EndOnly s (freeQueue s q status) := by
  unfold freeQueue
  extract_lets s1 s2
  exact ((endSessions_endOnly ..).trans (descReadDone_endOnly ..)).trans (by constructor <;> rfl)

theorem destroyQueues_endOnly (s : State) (t : Nat → Queue → Bool) (status : Nat) : EndOnly s (destroyQueues s t status) :=
  (endCmds_endOnly ..).trans (.foldl (fun _ _ => freeQueue_endOnly ..) _ _)

/-- In a module without commands the destruction of queue contexts leaves no context that passes the test. -/
theorem destroyQueues_gone {s : State} (h : s.Idle) {mine : Nat × Bool → Bool} {q : Nat} {x : Queue}
    (hx : queueAt (destroyQueues s (fun _ y => mine y.owner) stAbortedReset) q = some x) : mine x.owner = false := by
  have howner := destroyQueues_owners h.1 (fun _ y => mine y.owner) stAbortedReset q
  rw [hx] at howner
  cases hq : queueAt s q with
  | none => simp [hq] at howner
  | some y =>
    cases hy : mine y.owner with
    | true => simp [hq, hy] at howner
    | false =>
      have : x.owner = y.owner := by simpa [hq, hy] using howner
      rw [this, hy]

/-! #### Flows cleared -/

theorem clearFlows_flows {s : State} {p : Nat} {e : Nat × Flow} (he : e ∈ (clearFlows s p).flows) : e.2.partition ≠ p := by
  simpa using (List.mem_filter.mp he).2

theorem clearFlows_sec (s : State) (p : Nat) : (clearFlows s p).sec = { s.sec with generation := s.sec.generation + 1 } := rfl
theorem clearFlows_funcs (s : State) (p : Nat) : (clearFlows s p).funcs = s.funcs := rfl
theorem clearFlows_queues (s : State) (p : Nat) : (clearFlows s p).queues = s.queues := rfl
theorem closeStep_funcs (s : State) (p : Nat) : (closeStep s p).funcs = s.funcs := rfl
theorem closeStep_linked (s : State) (p : Nat) : (closeStep s p).linked = s.linked := modJob_linked ..

/-- What a reset of a partition's flows makes of the state before it: the flows of the partition are gone, and where no command lived
there is a new generation. -/
structure FlowsCleared (s t : State) (p : Nat) : Prop where
  flows : ∀ e ∈ t.flows, e.2.partition ≠ p
  generation : s.Idle → t.sec.generation = s.sec.generation + 1

/-- Flows are cleared by `clearFlows`, whatever comes after it that leaves keys and flows. -/
theorem FlowsCleared.of_clearFlows {s u t : State} {p : Nat} (hu : s.Idle → u.sec = s.sec) (ht : t.linked = (clearFlows u p).linked) :
    FlowsCleared s t p := by
  refine ⟨fun e he => clearFlows_flows (flows_of_linked ht ▸ he), fun h => ?_⟩
  rw [sec_of_linked ht, clearFlows_sec, hu h]

/-! #### Function-level reset -/

/-- The queue contexts that a function-level reset destroys. -/
def hostQueueOf (fn : Nat) (o : Nat × Bool) : Bool := o.1 == fn && !o.2

/-- A function-level reset up to the function's own registers. -/
def functionResetBegun (s : State) (fn : Nat) : State :=
  let s2 := destroyQueues (finishCommits s (fun _ x _ => hostQueueOf fn x.owner)) (fun _ x => hostQueueOf fn x.owner) stAbortedReset
  retireSlots (withdrawRegions (abortLong s2 fn stAbortedReset) fn .reset) fn

theorem functionReset_eq (s : State) (fn : Nat) : functionReset s fn
    = repairPartition (clearFlows (closeStep (modFunc (functionResetBegun s fn) fn Func.afterReset) fn) fn) fn := rfl

theorem functionResetBegun_tablesKept (s : State) (fn : Nat) : TablesKept s (functionResetBegun s fn) :=
  (((finishCommits_tablesKept ..).trans (destroyQueues_tablesKept ..)).trans (abortLong_tablesKept ..)).trans
    ((withdrawRegions_tablesKept ..).trans (retireSlots_tablesKept ..))

theorem functionResetBegun_linked {s : State} (h : s.Idle) (fn : Nat) :
    (functionResetBegun s fn).linked = (destroyQueues s (fun _ x => hostQueueOf fn x.owner) stAbortedReset).linked := by
  unfold functionResetBegun
  rw [finishCommits_idle h]
  exact (retireSlots_memOnly ..).linked.trans ((withdrawRegions_linked ..).trans (abortLong_linked ..))

theorem functionResetBegun_sec {s : State} (h : s.Idle) (fn : Nat) : (functionResetBegun s fn).sec = s.sec :=
  (sec_of_linked (functionResetBegun_linked h fn)).trans (destroyQueues_endOnly ..).sec

theorem functionReset_mended (s : State) (fn : Nat) : (functionReset s fn).mended
    = (clearFlows (closeStep (modFunc (functionResetBegun s fn) fn Func.afterReset) fn) fn).mended := by
  rw [functionReset_eq, repairPartition_mended]

/-- A function-level reset leaves the functions and the queue contexts as they are once the function's own registers are reset. -/
theorem functionReset_tables (s : State) (fn : Nat) : (functionReset s fn).funcs = (modFunc (functionResetBegun s fn) fn Func.afterReset).funcs
    ∧ (functionReset s fn).queues = (functionResetBegun s fn).queues := by
  have h := functionReset_mended s fn
  refine ⟨?_, ?_⟩
  · rw [funcs_of_mended h, clearFlows_funcs, closeStep_funcs]
  · rw [queues_of_linked (linked_of_mended h), clearFlows_queues, queues_of_linked (closeStep_linked ..),
      queues_of_linked (modFunc_linked ..)]

theorem functionReset_flows (s : State) (fn : Nat) : FlowsCleared s (functionReset s fn) fn :=
by
  refine .of_clearFlows (fun h => ?_) (linked_of_mended (functionReset_mended s fn))
  rw [sec_of_linked (closeStep_linked ..), sec_of_linked (modFunc_linked ..), functionResetBegun_sec h]

theorem functionReset_queues {s : State} (h : s.Idle) {fn q : Nat} {x : Queue} (hx : queueAt (functionReset s fn) q = some x)
    (hp : x.partition = fn) : x.isLocal = true := by
  have hq : (functionReset s fn).queues = (destroyQueues s (fun _ x => hostQueueOf fn x.owner) stAbortedReset).queues :=
    (functionReset_tables s fn).2.trans (queues_of_linked (functionResetBegun_linked h fn))
  rw [queueAt, hq] at hx
  have hgone : hostQueueOf fn x.owner = false := destroyQueues_gone h hx
  simpa [hostQueueOf, Queue.owner, hp] using hgone

theorem functionReset_func {s : State} {fn : Nat} {g : Func} (hg : funcAt s fn = some g) :
    (funcAt (functionReset s fn) fn).map (fun h => (h.host, h.disabled, h.long)) = some (Mailbox.reset, false, []) := by
  have hsome : (funcAt (functionResetBegun s fn) fn).isSome = true := by rw [(functionResetBegun_tablesKept s fn).funcs, hg]; rfl
  obtain ⟨f, hf⟩ := Option.isSome_iff_exists.mp hsome
  rw [funcAt_congr (functionReset_tables s fn).1, funcAt_modFunc hf]
  rfl

/-! #### Partition reset -/

/-- A partition's stop up to its server registers. -/
def partitionStopBegun (s : State) (p : Nat) : State :=
  retireSlots (withdrawRegions
    (destroyQueues (finishCommits s (fun _ x _ => x.owner.1 == p)) (fun _ x => x.owner.1 == p) stAbortedReset) p .reset) p

theorem partitionStopBegun_linked {s : State} (h : s.Idle) (p : Nat) :
    (partitionStopBegun s p).linked = (destroyQueues s (fun _ x => x.owner.1 == p) stAbortedReset).linked := by
  unfold partitionStopBegun
  rw [finishCommits_idle h]
  exact (retireSlots_memOnly ..).linked.trans (withdrawRegions_linked ..)

/-- Between the queue contexts and the flows, a partition's stop changes registers alone. -/
theorem partitionStop_linked (s : State) (p : Nat) : ∃ u, u.linked = (partitionStopBegun s p).linked
    ∧ (partitionStop s p).linked = (clearFlows u p).linked := by
  unfold partitionStop
  extract_lets mine s1 s2 s3 s4 s5
  refine ⟨closeStep (holdHarts s5 p) p, ?_, linked_congr rfl rfl rfl⟩
  have h5 : s5.linked = s3.linked := (modFunc_linked ..).trans (modPart_linked ..)
  exact (closeStep_linked ..).trans ((holdHarts_linked ..).trans h5)

theorem partitionReset_linked (s : State) (p : Nat) : (partitionReset s p).linked = (partitionStop s p).linked := by
  unfold partitionReset
  extract_lets s1
  have hrepair : (repairPartition (abortLong s1 p stAbortedReset) p).linked = (abortLong s1 p stAbortedReset).linked :=
    linked_of_mended (repairPartition_mended ..)
  rw [bootServers_linked, hrepair, abortLong_linked]

theorem partitionReset_flows (s : State) (p : Nat) : FlowsCleared s (partitionReset s p) p := by
  obtain ⟨u, hu, hstop⟩ := partitionStop_linked s p
  refine .of_clearFlows (u := u) (fun h => ?_) ((partitionReset_linked s p).trans hstop)
  exact (sec_of_linked (hu.trans (partitionStopBegun_linked h p))).trans (destroyQueues_endOnly ..).sec

theorem partitionReset_queues {s : State} (h : s.Idle) {p q : Nat} {x : Queue} (hx : queueAt (partitionReset s p) q = some x) :
    x.partition ≠ p := by
  obtain ⟨u, hu, hstop⟩ := partitionStop_linked s p
  have hq : (partitionReset s p).queues = (destroyQueues s (fun _ x => x.owner.1 == p) stAbortedReset).queues := by
    rw [queues_of_linked ((partitionReset_linked s p).trans hstop), clearFlows_queues, queues_of_linked (hu.trans (partitionStopBegun_linked h p))]
  rw [queueAt, hq] at hx
  have hgone : (x.owner.1 == p) = false := destroyQueues_gone (mine := fun o => o.1 == p) h hx
  simpa [Queue.owner] using hgone

end Sys2Proof.Machine
end

section
/-! ### Power, module reset, the MP's start and removal (R362, R391, R392, R447, R458, R459, R480, R481, R497, R500) -/

namespace Sys2Proof.Machine

/-! #### Loss of power and power-on -/

/-- What an aborted staging leaves of a state that loses power: host memory, keys, pins and the error log in flash. -/
def State.retained (s : State) : List Host.Cell × Security × Pins × List LogEntry × Nat :=
  (s.hostMem, s.sec, s.pins, s.flash.log, s.flash.logNext)

theorem modComponent_retained (s : State) (c : Nat) (f : Component → Component) : (modComponent s c f).retained = s.retained := by
  unfold modComponent
  split <;> rfl

theorem spoilStaging_retained (s : State) (fn : Nat) : (spoilStaging s fn).retained = s.retained := by
  unfold spoilStaging
  split
  · rfl
  · exact foldl_read State.retained (fun _ _ => modComponent_retained ..) _ s

theorem powerOff_kept (s : State) : (powerOff s).hostMem = s.hostMem ∧ (powerOff s).flash.log = s.flash.log
    ∧ (powerOff s).flash.logNext = s.flash.logNext ∧ (powerOff s).sec.otpVersion = s.sec.otpVersion := by
  have h := spoilStaging_retained s 0
  unfold State.retained at h
  simp only [Prod.mk.injEq] at h
  obtain ⟨hmem, hsec, -, hlog, hnext⟩ := h
  unfold powerOff
  exact ⟨hmem, hlog, hnext, congrArg (·.otpVersion) hsec⟩

theorem powerOff_lost (s : State) : (powerOff s).life.powered = false ∧ (powerOff s).life.stopped = true ∧ (powerOff s).mem = []
    ∧ (powerOff s).queues = [] ∧ (powerOff s).flows = [] ∧ (powerOff s).cores = [] := by
  unfold powerOff
  exact ⟨rfl, rfl, rfl, rfl, rfl, rfl⟩

theorem sampleStraps_pins (s : State) (m slot : Nat) : (sampleStraps s m slot).pins = { s.pins with coolMode := m, moduleIdPins := slot } := by
  unfold sampleStraps
  split
  dsimp only
  split <;> simp

theorem sampleStraps_strapCap (s : State) (m slot : Nat) : (sampleStraps s m slot).power.strapCap = (coolProfile m).1 := by
  unfold sampleStraps
  split
  rename_i h
  dsimp only
  split <;> simp [h]

theorem sampleStraps_kept (s : State) (m slot : Nat) : (sampleStraps s m slot).life = s.life ∧ (sampleStraps s m slot).mem = s.mem
    ∧ (sampleStraps s m slot).queues = s.queues ∧ (sampleStraps s m slot).hostMem = s.hostMem := by
  unfold sampleStraps
  split
  dsimp only
  split <;> simp

theorem sampleStraps_fault (s : State) {m : Nat} (h : m ≠ 3) (slot : Nat) : (sampleStraps s m slot).fault = s.fault := by
  unfold sampleStraps
  split
  dsimp only
  rw [if_neg h]

theorem powerOn_starts {s : State} (h : s.life.powered = false) (mode : BitVec 2) (slot : BitVec 6) :
    ∃ t, exec (.powerOn mode slot) s = .next t ∧ t.life.powered = true ∧ t.life.zeroing = true ∧ t.life.running = false
      ∧ t.pins.coolMode = mode.toNat ∧ t.pins.moduleIdPins = slot.toNat ∧ t.power.strapCap = (coolProfile mode.toNat).1 ∧ t.mem = []
      ∧ t.queues = [] ∧ t.hostMem = s.hostMem ∧ (mode.toNat ≠ 3 → t.fault.log = s.flash.log ∧ t.fault.nextEntry = s.flash.logNext) := by
  refine ⟨_, congrArg Host.Outcome.next (if_neg (by simp [h])), ?_⟩
  extract_lets s0
  split
  rename_i g s1 hdraw
  extract_lets rec' pins sec power fault s2
  obtain ⟨-, rfl⟩ := Prod.mk.inj hdraw
  obtain ⟨hlife, hmem, hqueues, hhost⟩ := sampleStraps_kept s2 mode.toNat slot.toNat
  obtain ⟨hkept, hlog, hnext, -⟩ := powerOff_kept s
  obtain ⟨-, -, hnomem, hnoqueues, -, -⟩ := powerOff_lost s
  have hpins := sampleStraps_pins s2 mode.toNat slot.toNat
  refine ⟨congrArg (·.powered) hlife, congrArg (·.zeroing) hlife, congrArg (·.running) hlife, congrArg (·.coolMode) hpins,
    congrArg (·.moduleIdPins) hpins, sampleStraps_strapCap .., hmem.trans hnomem, hqueues.trans hnoqueues, hhost.trans hkept, fun hm => ?_⟩
  rw [sampleStraps_fault s2 hm]
  exact ⟨hlog, hnext⟩

/-- Zeroing over, with no partition in the configuration store to restore (R458). -/
theorem lpddr5xInitComplete_empty {s : State} (hp : s.life.powered = true) (hz : s.life.zeroing = true) (hn : s.partitions = []) :
    exec .lpddr5xInitComplete s = .next { s with life := { s.life with zeroing := false }, mem := [], poison := [] } := by
  refine congrArg Host.Outcome.next ((if_pos ⟨hp, hz⟩).trans ?_)
  have hmaps (t : State) (ht : t.partitions = []) : restoreMaps t = t := by simp [restoreMaps, ht, mapKeys]
  have hboot (t : State) (ht : t.partitions = []) : bootAll t = t := by simp [bootAll, ht, mapKeys]
  extract_lets life s1
  have h1 : s1 = { s with life := { s.life with zeroing := false }, mem := [], poison := [] } := hmaps _ hn
  split
  · rw [hboot s1 (by rw [h1]; exact hn), h1]
  · exact h1

/-! #### Module reset -/

theorem tearSpill_memOnly (s : State) (r : SpillRecord) : MemOnly s (tearSpill s r) := by
  have hdraw (t : State) (n : Nat) : MemOnly t (drawBytes t n).2 := by constructor <;> rfl
  unfold tearSpill
  split
  rename_i b s1 h1
  have hs1 : MemOnly s s1 := by
    have := hdraw s 0x4000
    rwa [h1] at this
  have hs2 : MemOnly s (cohWrite s1 r.desc.addr b) := hs1.trans (cohWrite_memOnly ..)
  dsimp only
  split
  · exact (hs2.trans (hdraw ..)).trans (cohWrite_memOnly ..)
  · exact hs2

theorem tearCommits_memOnly (s : State) : MemOnly s (tearCommits s) := by
  refine .foldl (fun t k => ?_) _ s
  split
  · exact tearSpill_memOnly ..
  · exact .refl t

/-- Keys and pins, which a module reset reaches in its last step alone. -/
def State.secured (s : State) : Security × Pins := (s.sec, s.pins)

theorem sec_of_secured {s t : State} (h : t.secured = s.secured) : t.sec = s.sec := congrArg (·.1) h
theorem pins_of_secured {s t : State} (h : t.secured = s.secured) : t.pins = s.pins := congrArg (·.2) h
theorem MemOnly.secured {s t : State} (h : MemOnly s t) : t.secured = s.secured := by rw [State.secured, h.sec, h.pins, State.secured]
theorem EndOnly.secured {s t : State} (h : EndOnly s t) : t.secured = s.secured := by rw [State.secured, h.sec, h.pins, State.secured]
theorem loseWindows_secured (s : State) : (loseWindows s).secured = s.secured := rfl

theorem spoilStaging_secured (s : State) (fn : Nat) : (spoilStaging s fn).secured = s.secured := by
  have h := spoilStaging_retained s fn
  unfold State.retained at h
  simp only [Prod.mk.injEq] at h
  obtain ⟨-, hsec, hpins, -, -⟩ := h
  rw [State.secured, hsec, hpins, State.secured]

theorem failTrials_secured (s : State) : (failTrials s).secured = s.secured := by
  refine foldl_read State.secured (fun t c => ?_) _ s
  split
  · simp [State.secured, failTrial]
  · rfl

/-- What a module reset does before its last step leaves keys and pins. -/
theorem moduleResetBegun_secured (s : State) (l : List (Nat × Nat)) (status : Nat) :
    (loseWindows (failTrials (endCmds (tearCommits (spoilStaging s 0)) l status))).secured = s.secured := by
  rw [loseWindows_secured, failTrials_secured, (endCmds_endOnly ..).secured, (tearCommits_memOnly _).secured, spoilStaging_secured]

/-- What a module reset leaves of keys and pins, and the tables that it empties (R457, R459). -/
structure ModuleReset (s t : State) : Prop where
  pins : t.pins = s.pins
  running : t.life.running = false
  attested : t.life.attested = false
  link : t.link = .down
  queues : t.queues = []
  flows : t.flows = []
  cores : t.cores = []
  caches : t.caches = []
  holds : t.holds = []
  sessions : t.sec.sessions = []
  generation : t.sec.generation = s.sec.generation + 1
  decaf : t.fault.decaf = none

theorem moduleReset_spec (s : State) : ModuleReset s (moduleReset s) := by
  unfold moduleReset
  extract_lets life s1 s2 s3 alerts fns aon fresh
  have h3 : s3.secured = State.secured { s with life := { s.life with quiesce := true } } := moduleResetBegun_secured ..
  have hpins : s3.pins = s.pins := Eq.trans (pins_of_secured h3) rfl
  have hsec : s3.sec = s.sec := Eq.trans (sec_of_secured h3) rfl
  have hcores : s3.cores = [] := rfl
  clear_value s3 alerts fns aon
  have hgen : s3.sec.generation + 1 = s.sec.generation + 1 := congrArg (fun k : Security => k.generation + 1) hsec
  exact ⟨hpins, rfl, rfl, rfl, rfl, rfl, hcores, rfl, rfl, rfl, hgen, rfl⟩

theorem ModuleReset.writeStateRecords {s t : State} (h : ModuleReset s t) (cause : Nat) : ModuleReset s (writeStateRecords t cause) :=
  ⟨h.pins, h.running, h.attested, h.link, h.queues, h.flows, h.cores, h.caches, h.holds, h.sessions, h.generation, h.decaf⟩

/-- The assertion of PERST_N is a module reset; what is written in flash for a hot-swap opening changes nothing of it (R459, R497). -/
theorem perstNAssert_resets {s : State} (hp : s.life.powered = true) (hn : s.pins.perstN = true) :
    ∃ t, exec .perstNAssert s = .next t ∧ ModuleReset { s with pins := { s.pins with perstN := false } } t := by
  refine ⟨_, congrArg Host.Outcome.next (if_pos ⟨hp, hn⟩), ?_⟩
  extract_lets pins s1
  have h1 : ModuleReset { s with pins := { s.pins with perstN := false } } s1 := moduleReset_spec _
  split
  · exact h1.writeStateRecords 0
  · exact h1

/-! #### The MP's start -/

theorem mem_raiseAlert (s : State) (cause : Nat) : cause ∈ (raiseAlert s cause).power.alerts := by
  unfold raiseAlert
  split
  · rename_i h
    exact List.contains_iff_mem.mp h
  · simp

/-- A component 0 that does not verify: ROM recovery (R481). -/
theorem startMp_romRecovery {s u : State} (h : loadComponent s 0 = (u, none)) : startMp s
    = raiseAlert { u with life := { u.life with running := true, attested := true }, sec := { u.sec with romRecovery := true } } 5 := by
  unfold startMp
  rw [h]

/-! #### Removal and the link -/

theorem setDomains_kept (s : State) (codes : List Nat) (ph : DomPhase) : (setDomains s codes ph).holds = s.holds
    ∧ (setDomains s codes ph).link = s.link ∧ (setDomains s codes ph).life = s.life := by
  unfold setDomains
  exact ⟨foldl_read (·.holds) (fun _ _ => by simp) _ s, foldl_read (·.link) (fun _ _ => by simp) _ s,
    foldl_read (·.life) (fun _ _ => by simp) _ s⟩

theorem recallAll_memOnly (s : State) : MemOnly s (recallAll s) := .foldl (fun t lid => recallLine_memOnly t lid) _ s

theorem stopUnits_kept (s : State) : (stopUnits s).holds = s.holds ∧ (stopUnits s).link = s.link ∧ (stopUnits s).life = s.life := by
  have hmem := recallAll_memOnly s
  unfold stopUnits
  extract_lets s1 s2
  obtain ⟨hholds, hlink, hlife⟩ := setDomains_kept s2 ((List.range 4).map (7 + ·) ++ (List.range 20).map (12 + ·) ++ (List.range 4).map (36 + ·)) .off
  exact ⟨hholds.trans hmem.holds, hlink.trans hmem.link, hlife.trans hmem.life⟩

/-- The state of a module that has been removed: cores and ports stopped, nothing held, and, where no command lived, the link down in quiesce. -/
structure Quiesced (s t : State) : Prop where
  cores : t.cores = []
  holds : t.holds = []
  ports : ∀ x ∈ t.ports.toList, x.phase = .disabled
  link : s.Idle → t.link = .down
  quiesce : s.Idle → t.life.quiesce = true

theorem removeModule_quiesced (s : State) : Quiesced s (removeModule s) := by
  unfold removeModule
  extract_lets life s1 s2 s3 s4
  obtain ⟨hcores, -, hports, -, -⟩ := setDomains_lost (stopUnits s4) (6 :: (List.range 4).map (32 + ·)) .ret
  obtain ⟨hholds, hlink, hlife⟩ := setDomains_kept (stopUnits s4) (6 :: (List.range 4).map (32 + ·)) .ret
  obtain ⟨hsholds, hslink, hslife⟩ := stopUnits_kept s4
  have hstopped := stopUnits_stopped s4
  have hend : EndOnly s2 s3 := endCmds_endOnly ..
  have h4 : s4.holds = [] ∧ s4.link = s3.link ∧ s4.life = s3.life := by simp [s4]
  have h2 (h : s.Idle) : s2 = s1 := finishCommits_idle (s := s1) (h.of_queues rfl) _
  refine ⟨hcores.trans hstopped.cores, hholds.trans (hsholds.trans h4.1), fun x hx => hstopped.ports x (hports ▸ hx), fun h => ?_, fun h => ?_⟩
  · rw [hlink, hslink, h4.2.1, hend.link, h2 h]
    rfl
  · rw [hlife, hslife, h4.2.2, hend.life, h2 h]
    rfl

theorem setDomains_io (s : State) (ph : DomPhase) : (setDomains s [11] ph).domains[11].phase = ph := by
  have h := domainAt_modDomain_same s 11 (fun d => { d with phase := ph, moving := none })
  rw [Vector.getElem?_eq_getElem (by decide), Vector.getElem?_eq_getElem (by decide)] at h
  exact congrArg (·.phase) (Option.some.inj h)

end Sys2Proof.Machine
end

section
/-! ### MSI-X, configuration space, pins and sideband (R295, R365, R391, R447, R495 to R498) -/

namespace Sys2Proof.Machine

/-! #### Pending messages -/

/-- Is an MSI-X entry unmasked? -/
def Func.msixOpen (f : Func) (i : Nat) : Bool := !(mapGetD f.msix i { addr := 0, data := 0, masked := true }).masked

/-- The message of an unmasked entry goes to the host and leaves the functions as they are. -/
theorem sendMsix_open_funcs {s : State} {fn i : Nat} {f : Func} (hf : funcAt s fn = some f) (hmask : f.functionMask = false)
    (hi : f.msixOpen i = true) : (sendMsix s fn i).funcs = s.funcs := by
  have hentry : (mapGetD f.msix i { addr := 0, data := 0, masked := true }).masked = false := by simpa [Func.msixOpen] using hi
  unfold sendMsix
  simp only [hf]
  split
  · rw [hentry, hmask]
    rfl
  · rfl

theorem sendMsix_open_foldl_funcs {fn : Nat} {f : Func} (hmask : f.functionMask = false) (l : List Nat) (hl : ∀ i ∈ l, f.msixOpen i = true) {s : State}
    (hf : funcAt s fn = some f) : (l.foldl (fun t i => sendMsix t fn i) s).funcs = s.funcs := by
  induction l generalizing s with
  | nil => rfl
  | cons i l ih =>
    have hsent := sendMsix_open_funcs hf hmask (hl i List.mem_cons_self)
    exact (ih (fun j hj => hl j (List.mem_cons_of_mem _ hj)) ((funcAt_congr hsent fn).trans hf)).trans hsent

/-- A function once its pending messages have gone out: the pending bits of unmasked entries are clear. -/
def Func.sent (f : Func) : Func :=
  if f.msixEnabled = false ∨ f.functionMask = true then f else { f with pba := f.pba.filter (fun i => !f.msixOpen i) }

theorem funcAt_sendPending {s : State} {fn : Nat} {f : Func} (hf : funcAt s fn = some f) : funcAt (sendPending s fn) fn = some f.sent := by
  unfold sendPending Func.sent
  simp only [hf]
  by_cases h : f.msixEnabled = false ∨ f.functionMask = true
  · rw [if_pos (by simpa using h), if_pos h, hf]
  · have hmask : f.functionMask = false := by simpa using fun hm => h (.inr hm)
    rw [if_neg (by simpa using h), if_neg h]
    have hg := funcAt_modFunc hf (fun g => { g with pba := g.pba.filter (fun i => !f.msixOpen i) })
    refine (funcAt_congr ?_ fn).trans hg
    exact sendMsix_open_foldl_funcs (f := { f with pba := f.pba.filter (fun i => !f.msixOpen i) }) hmask _ (fun i hi => (List.mem_filter.mp hi).2) hg

/-- An entry whose mask is cleared: the function as the step leaves it before its pending messages. -/
def Func.unmasked (f : Func) (i : Nat) : Func :=
  { f with msix := mapSet f.msix i { mapGetD f.msix i { addr := 0, data := 0, masked := true } with masked := false } }

theorem unmasked_msixOpen (f : Func) (i : Nat) : (f.unmasked i).msixOpen i = true := by simp [Func.msixOpen, Func.unmasked]

theorem sent_msix (f : Func) : f.sent.msix = f.msix := by
  unfold Func.sent
  split <;> rfl

theorem sent_pba_open {f : Func} (he : f.msixEnabled = true) (hm : f.functionMask = false) {i : Nat} (hi : f.msixOpen i = true) :
    i ∉ f.sent.pba := by
  rw [Func.sent, if_neg (by simp [he, hm])]
  simp [hi]

theorem sent_disabled {f : Func} (he : f.msixEnabled = false) : f.sent = f := if_pos (.inl he)

theorem msixEntryUnmask_funcAt {s : State} {fn : BitVec 4} {g : Func} (hg : funcAt s fn.toNat = some g) (entry : BitVec 11) :
    ∃ t, exec (.msixEntryUnmask fn entry) s = .next t ∧ funcAt t fn.toNat = some (g.unmasked entry.toNat).sent :=
  ⟨_, rfl, funcAt_sendPending (funcAt_modFunc hg (fun f => f.unmasked entry.toNat))⟩

/-- An unmasked entry of an enabled function keeps no pending message (R365). -/
theorem msixEntryUnmask_spec {s : State} {fn : BitVec 4} {g : Func} (hg : funcAt s fn.toNat = some g) (entry : BitVec 11) :
    ∃ t, exec (.msixEntryUnmask fn entry) s = .next t ∧ ∃ h, funcAt t fn.toNat = some h
      ∧ (mapGet h.msix entry.toNat).map (·.masked) = some false
      ∧ (g.msixEnabled = true → g.functionMask = false → entry.toNat ∉ h.pba) ∧ (g.msixEnabled = false → h.pba = g.pba) := by
  obtain ⟨t, ht, hf⟩ := msixEntryUnmask_funcAt hg entry
  refine ⟨t, ht, _, hf, ?_, fun he hm => sent_pba_open (f := g.unmasked entry.toNat) he hm (unmasked_msixOpen ..), fun he => ?_⟩
  · simp [sent_msix, Func.unmasked]
  · rw [sent_disabled (f := g.unmasked entry.toNat) he]
    rfl

/-! #### Configuration space -/

section
variable {s : State} (hpow : s.life.powered = true) (hstop : s.life.stopped = false) (hq : s.life.quiesce = false) (fn : BitVec 4)
  (off : BitVec 12) (wr : Bool) (value : BitVec 32)
include hpow hstop hq

theorem configurationRequest_retry (ha : s.life.attested = false) : exec (.configurationRequest fn off wr value) s = .next (complete s 2 []) := by
  change execConfigurationRequest fn off wr value s = _
  simp [execConfigurationRequest, hpow, hstop, hq, ha]

theorem configurationRequest_hidden (ha : s.life.attested = true) (hv : functionVisible s fn.toNat = false) :
    exec (.configurationRequest fn off wr value) s = .next (complete s 1 []) := by
  change execConfigurationRequest fn off wr value s = _
  simp [execConfigurationRequest, hpow, hstop, hq, ha, hv]

variable (ha : s.life.attested = true) (hv : functionVisible s fn.toNat = true) {g : Func} (hg : funcAt s fn.toNat = some g)
include ha hv hg

theorem configurationRequest_msixControl_write (ho : off.toNat = Config.msixControl) :
    exec (.configurationRequest fn off true value) s = .next (complete (sendPending (modFunc s fn.toNat
      (fun g => { g with msixEnabled := value.getLsbD 31, functionMask := value.getLsbD 30 })) fn.toNat) 0 []) := by
  change execConfigurationRequest fn off true value s = _
  simp [execConfigurationRequest, hpow, hstop, hq, ha, hv, hg, ho]

/-- A write of the MSI-X control word sets the function's enable and mask (R365). -/
theorem configurationRequest_msixControl_sets (ho : off.toNat = Config.msixControl) :
    ∃ t, exec (.configurationRequest fn off true value) s = .next t
      ∧ (funcAt t fn.toNat).map (fun h => (h.msixEnabled, h.functionMask)) = some (value.getLsbD 31, value.getLsbD 30) := by
  refine ⟨_, configurationRequest_msixControl_write hpow hstop hq fn off value ha hv hg ho, ?_⟩
  have hset := funcAt_modFunc hg (fun g => { g with msixEnabled := value.getLsbD 31, functionMask := value.getLsbD 30 })
  have hsent := funcAt_sendPending hset
  have hkept (f : Func) : (f.sent.msixEnabled, f.sent.functionMask) = (f.msixEnabled, f.functionMask) := by
    unfold Func.sent
    split <;> rfl
  refine (congrArg (Option.map _) hsent).trans ?_
  rw [Option.map_some, hkept]

theorem configurationRequest_sriovControl_write (ho : off.toNat ≠ Config.msixControl) (hz : fn.toNat = 0) (hs : off.toNat = Config.sriovControl) :
    exec (.configurationRequest fn off true value) s
      = .next (complete { s with life := { s.life with vfEnable := value.getLsbD 0 } } 0 []) := by
  change execConfigurationRequest fn off true value s = _
  rw [hz] at hv hg
  rw [hs] at ho
  simp [execConfigurationRequest, hpow, hstop, hq, ha, hv, hg, ho, hz, hs]

theorem configurationRequest_msixControl_read (ho : off.toNat = Config.msixControl) :
    ∃ t v, exec (.configurationRequest fn off false value) s = .next t ∧ t.funcs = s.funcs
      ∧ t.hostOut = s.hostOut ++ [.completion 0 (natToBytes 4 (msixControlWord g v))] := by
  refine ⟨complete (drawFree s (2 ^ 32)).2 0 (natToBytes 4 (msixControlWord g (drawFree s (2 ^ 32)).1)), (drawFree s (2 ^ 32)).1, ?_, rfl, rfl⟩
  change execConfigurationRequest fn off false value s = _
  simp only [execConfigurationRequest, hpow, hstop, hq, ha, hv, hg, ho, Bool.not_true, Bool.false_eq_true, or_self, if_false, if_true]

end

/-! #### Pins and records -/

theorem pwrEnAssert_eq (s : State) : exec .pwrEnAssert s = .next (if s.life.opening then s else
    { s with pins := { s.pins with pwrEn := true }, power := { s.power with thermtrip := s.pins.pwrEn && s.power.thermtrip } }) := by
  have htrip : (if s.pins.pwrEn = true then s.power.thermtrip else false) = (s.pins.pwrEn && s.power.thermtrip) := by
    cases s.pins.pwrEn <;> rfl
  rw [← htrip]
  rfl

/-- The state records that the MP writes when PWR_EN is deasserted (R454, R463, R497). -/
theorem pwrEnDeassert_writes {s : State} (hp : s.life.powered = true) (ho : s.life.opening = false) :
    ∃ t, exec .pwrEnDeassert s = .next t ∧ t.pins.pwrEn = false ∧ t.life.opening = true
      ∧ t.life.openSince = aonNow s ∧ t.flash.log = s.fault.log ∧ t.flash.logNext = s.fault.nextEntry
      ∧ t.flash.ageing = some (ageingRecord s) ∧ t.flash.decaf.map (·.reported) = some false ∧ t.mem = s.mem ∧ t.queues = s.queues :=
  ⟨_, congrArg Host.Outcome.next ((if_neg (by simp [hp])).trans (if_neg (by simp [ho]))), rfl, rfl, rfl, rfl, rfl, rfl, rfl, rfl, rfl⟩

theorem perstNDeassert_eq {s : State} (hp : s.life.powered = true) (hs : s.life.stopped = false) (hn : s.pins.perstN = false)
    (mode : BitVec 2) (slot : BitVec 6) : exec (.perstNDeassert mode slot) s = .next (
      let u := noteCap (sampleStraps { s with pins := { s.pins with perstN := true } } mode.toNat slot.toNat) (appliedCap s.power)
      startMp { u with life := { u.life with moduleId := u.life.baseboard * 64 + slot.toNat } }) :=
  congrArg Host.Outcome.next (if_pos (by simp [hp, hs, hn]))

theorem coolModeChange_eq (s : State) (mode : BitVec 2) : exec (.coolModeChange mode) s = .next (
    let u := { s with pins := { s.pins with coolMode := mode.toNat } }
    if s.life.powered = true ∧ mode.toNat ≠ s.power.coolStrap ∧ s.power.strapLogged = false
      then logError { u with power := { u.power with strapLogged := true } } 0 0xFF 0x0801 0xFF 0xFFFF 0 0 mode.toNat else u) :=
  congrArg Host.Outcome.next (if_congr (by simp) rfl rfl)

/-! #### The link -/

section
variable {s : State} (hr : s.life.running = true) (hn : s.pins.perstN = true) (hq : s.life.quiesce = false)
include hr hn hq

theorem surpriseRemoval_removes : exec .surpriseRemoval s = .next (removeModule s) :=
  congrArg Host.Outcome.next (if_pos ⟨hr, hn, by simp [hq]⟩)

theorem linkStateChange_removes (hp : s.life.powered = true) : exec (.linkStateChange 0) s = .next (removeModule s) :=
  congrArg Host.Outcome.next ((if_neg (by simp [hp, hq])).trans (if_pos ⟨hr, hn⟩))

end

theorem linkStateChange_trains {s : State} (hp : s.life.powered = true) (hq : s.life.quiesce = false) {link : BitVec 2} (hl : link ≠ 0) :
    ∃ t, exec (.linkStateChange link) s = .next t ∧ t.link = (if link = 1 then .l0 else if link = 2 then .recovery else .l1)
      ∧ t.domains[11].phase = (if link = 3 then .gated else .run) := by
  have hserved : ¬ ((!s.life.powered) = true ∨ s.life.quiesce = true) := by simp [hp, hq]
  obtain rfl | rfl | rfl : link = 1 ∨ link = 2 ∨ link = 3 := by
    revert link
    decide
  · exact ⟨_, congrArg Host.Outcome.next (if_neg hserved), (setDomains_kept ..).2.1, setDomains_io ..⟩
  · exact ⟨_, congrArg Host.Outcome.next (if_neg hserved), (setDomains_kept ..).2.1, setDomains_io ..⟩
  · exact ⟨_, congrArg Host.Outcome.next (if_neg hserved), (setDomains_kept ..).2.1, setDomains_io ..⟩

theorem linkStateChange_quiesced {s : State} (hq : s.life.quiesce = true) (link : BitVec 2) :
    exec (.linkStateChange link) s = .next s ∧ exec .surpriseRemoval s = .next s :=
  ⟨congrArg Host.Outcome.next (if_pos (.inr hq)), congrArg Host.Outcome.next (if_neg (by simp [hq]))⟩

/-! #### Sideband -/

theorem mctpPhaseRecordRead_eq {s : State} (hr : s.life.running = true) (p : BitVec 8) :
    exec (.mctpPhaseRecordRead p) s = .next (sendHost s (.mctp (
      match partAt s p.toNat with
      | none => [2]
      | some x => match x.job.bind (·.phaseRecord) with
        | none => [1]
        | some r => 0 :: r))) := by
  refine congrArg Host.Outcome.next ((if_neg (by simp [hr])).trans ?_)
  cases partAt s p.toNat with
  | none => rfl
  | some x =>
    dsimp only
    cases x.job.bind (·.phaseRecord) <;> rfl

theorem mctpBaseboardNumber_eq {s : State} (hp : s.life.powered = true) (ht : 500000 ≤ (aonNow s).toNat) (number : BitVec 16) :
    exec (.mctpBaseboardNumber number) s = .next (if number.toNat < 1024
      then sendHost { s with life := { s.life with baseboard := number.toNat } } (.mctp [0]) else sendHost s (.mctp [1])) :=
  congrArg Host.Outcome.next (if_neg (by simp [hp, ht]))

/-! #### Resets as commands -/

theorem functionLevelReset_eq {s : State} (hl : linkServes s = true) {fn : BitVec 4} {g : Func} (hg : funcAt s fn.toNat = some g) :
    exec (.functionLevelReset fn) s = .next (functionReset s fn.toNat) :=
  congrArg Host.Outcome.next (if_pos ⟨hl, by rw [hg]; rfl⟩)

/-- The state that a fault inside a pool unit resets the partition in (R460, code 0x0404). -/
def poolFaultLogged (s : State) (c : Nat) : State := logError s 5 (8 + c / 32) 0x0404 (channelOwner s c) 0xFFFF 0 0 c

theorem poolUnitInternalFault_eq {s : State} (hr : s.life.running = true) (ch : BitVec 7) :
    exec (.poolUnitInternalFault ch) s = .next (partitionReset (poolFaultLogged s ch.toNat) (channelOwner s ch.toNat)) :=
  congrArg Host.Outcome.next (if_pos hr)

theorem State.Idle.poolFaultLogged {s : State} (h : s.Idle) (c : Nat) : (poolFaultLogged s c).Idle :=
  h.of_queues (by simp [Machine.poolFaultLogged])

theorem poolFaultLogged_sec (s : State) (c : Nat) : (poolFaultLogged s c).sec = s.sec := by simp [poolFaultLogged]

theorem poolFault_flows (s : State) (c p : Nat) : FlowsCleared s (partitionReset (poolFaultLogged s c) p) p :=
  have h := partitionReset_flows (poolFaultLogged s c) p
  ⟨h.flows, fun hidle => by rw [h.generation (hidle.poolFaultLogged c), poolFaultLogged_sec]⟩

end Sys2Proof.Machine
end

section
/-! ### Power-on, resets, link, removal, pins and sideband: the obligation -/

namespace Sys2Proof.Machine

/-- Settles O56: a module reset, a function-level or partition reset, a removal and a loss of power each by the lemma that says what it leaves
(`moduleReset_spec`, `functionReset_flows`, `partitionReset_flows`, `removeModule_quiesced`, `powerOff_lost`), the rest by the step's own equation. -/
theorem lifeAndSideband : Obligations.LifeAndSideband := by
  unfold Obligations.LifeAndSideband
  intro s mode link slot fn entry ch off wr value pp number addr f m lost still cleared quiesced io
  have hquiesced (t : State) (h : Quiesced s t) : quiesced t := ⟨h.cores, h.holds, h.ports, fun hs => ⟨h.link hs, h.quiesce hs⟩⟩
  have hcleared (t : State) (p : Nat) (h : FlowsCleared s t p) : cleared t p := ⟨h.flows, h.generation⟩
  have hlost : lost (powerOff s) := by
    obtain ⟨hhost, hlog, -, hotp⟩ := powerOff_kept s
    obtain ⟨hpow, hstop, hmem, hqueues, hflows, hcores⟩ := powerOff_lost s
    exact ⟨hpow, hstop, hmem, hqueues, hflows, hcores, hhost, hlog, hotp⟩
  refine ⟨fun h => powerOn_starts h mode slot, fun h => congrArg Host.Outcome.next (if_pos h), lpddr5xInitComplete_empty, fun hp hn => ?perstN,
    fun h => congrArg Host.Outcome.next (if_neg ?noPerstN), fun hp hs hn => perstNDeassert_eq hp hs hn mode slot, fun u hu => ?startMp, pwrEnAssert_eq s,
    fun h => congrArg Host.Outcome.next (if_pos (by simp [h])), pwrEnDeassert_writes,
    fun ho ht => ⟨_, congrArg Host.Outcome.next (if_pos ⟨ho, ht⟩), hlost⟩, fun h => congrArg Host.Outcome.next (if_neg ?noOpen),
    fun hp => ⟨_, congrArg Host.Outcome.next (if_pos hp), hlost⟩, fun g hl hg => ?flr,
    ⟨fun hr => ?pool, fun hr => congrArg Host.Outcome.next (if_neg (by simp [hr]))⟩,
    fun hr hn hq => ⟨?removal, fun hp hl => ?linkDown⟩, fun hp hq hl => linkStateChange_trains hp hq hl, fun hq => linkStateChange_quiesced hq link,
    coolModeChange_eq s mode, fun hp hs hq => ⟨configurationRequest_retry hp hs hq fn off wr value, configurationRequest_hidden hp hs hq fn off wr value,
      fun g ha hv hg => ⟨fun hw ho => ?msix, fun hw ho hz hsr => ?sriov, fun hw ho => ?read⟩⟩,
    fun g hg => msixEntryUnmask_spec hg entry, fun hr => ⟨_, mctpPhaseRecordRead_eq hr pp, rfl⟩,
    fun hp ht => mctpBaseboardNumber_eq hp ht number, fun hp => congrArg Host.Outcome.next (if_pos hp)⟩
  case perstN =>
    obtain ⟨t, ht, h⟩ := perstNAssert_resets hp hn
    exact ⟨t, ht, congrArg (·.perstN) h.pins, h.running, h.attested, h.link, h.queues, h.flows, h.cores, h.caches, h.holds,
      h.sessions, h.generation, h.decaf⟩
  case noPerstN =>
    rintro ⟨hp, hn⟩
    simp [hp, hn] at h
  case startMp =>
    rw [startMp_romRecovery hu]
    exact ⟨by simp, by simp, by simp, mem_raiseAlert ..⟩
  case noOpen =>
    rintro ⟨ho, ht⟩
    simp only [ho, Bool.true_eq_false, false_or] at h
    omega
  case flr =>
    exact ⟨functionReset s f, functionLevelReset_eq hl hg, hcleared _ f (functionReset_flows s f), fun hs q x hx => functionReset_queues hs hx, fun _ => functionReset_func hg⟩
  case pool =>
    exact ⟨_, poolUnitInternalFault_eq hr ch, hcleared _ _ (poolFault_flows s ch.toNat (channelOwner s ch.toNat)),
      fun hs q x hx => partitionReset_queues (State.Idle.poolFaultLogged hs ch.toNat) hx⟩
  case removal => exact ⟨_, surpriseRemoval_removes hr hn hq, hquiesced _ (removeModule_quiesced s)⟩
  case linkDown =>
    subst hl
    exact ⟨_, linkStateChange_removes hr hn hq hp, hquiesced _ (removeModule_quiesced s)⟩
  case msix =>
    subst hw
    exact configurationRequest_msixControl_sets hp hs hq fn off value ha hv hg ho
  case sriov =>
    subst hw
    exact configurationRequest_sriovControl_write hp hs hq fn off value ha hv hg ho hz hsr
  case read =>
    subst hw
    exact configurationRequest_msixControl_read hp hs hq fn off value ha hv hg ho

end Sys2Proof.Machine
end

section
/-! ### What a step leaves and runs -/

namespace Sys2Proof.Machine

/-- Settles O5: taking a command changes neither, and every command keeps the variant and lowers no security version. -/
theorem securityVersionNeverFalls : Obligations.SecurityVersionNeverFalls := by
  intro s t ht
  obtain ⟨u, hu, hk⟩ := step_next_keeps s
  obtain rfl : u = t := Host.Outcome.next.inj (hu.symm.trans ht)
  exact ⟨hk.otp, hk.big⟩

/-- Settles O1: the front command is taken before its meaning runs. -/
theorem stepRunsTheFrontCommand : Obligations.StepRunsTheFrontCommand := fun _ _ _ => rfl

end Sys2Proof.Machine
end

section
/-! ### Requests that are turned away (R397, R401, R416, R468, R481) -/

namespace Sys2Proof.Machine

/-- The status of the first check of `runMbx` that turns a request of function fn away, if one does. -/
def turnedAway (s : State) (fn : Nat) (f : Func) (r : MbxReq) : Option Nat :=
  if s.sec.romRecovery ∧ !mbxRecovery r then some stAbortedDecaf
  else if s.fault.decaf.isSome ∧ !mbxDecaf r.cmd then some stAbortedDecaf
  else if f.disabled ∧ !mbxDisabled r.cmd then some stAbortedDisabled
  else if mbxPf0Only r.cmd ∧ fn ≠ 0 then some stNotPermitted
  else if mbxBusy f r then some stBusy
  else none

section
variable {s : State} {fn : Nat} {f : Func} {r : MbxReq}

/-- A request that is turned away is answered, and its own row does not run. -/
theorem runMbx_turnedAway (hf : funcAt s fn = some f) (hr : f.inService = some r) (hroom : rspRoom s fn f r.isLocal = true)
    {st : Nat} (h : turnedAway s fn f r = some st) (F : Func → MbxReq → MbxAnswer) :
    runMbx s fn r.cmd anyForm F = answer s fn r st [] := by
  unfold runMbx
  simp only [hf, hr]
  rw [if_neg (by simp [anyForm, hroom])]
  unfold turnedAway at h
  split at h
  · obtain rfl := Option.some.inj h
    rw [if_pos ‹_›]
  rw [if_neg ‹_›]
  split at h
  · obtain rfl := Option.some.inj h
    rw [if_pos ‹_›]
  rw [if_neg ‹_›]
  split at h
  · obtain rfl := Option.some.inj h
    rw [if_pos ‹_›]
  rw [if_neg ‹_›]
  split at h
  · obtain rfl := Option.some.inj h
    rw [if_pos ‹_›]
  rw [if_neg ‹_›]
  split at h
  · obtain rfl := Option.some.inj h
    rw [if_pos ‹_›]
  · exact absurd h (by simp)

/-- One of two long requests names an object of a request of another kind than those that R397 exempts: BUSY. -/
theorem mbxBusy_of_object (h1 : r.cmd ≠ 0x01) (h2 : r.cmd ≠ 0x10) (h : ∃ l ∈ f.long, ∃ o ∈ mbxObjects l, o ∈ mbxObjects r) :
    mbxBusy f r = true := by
  simpa [mbxBusy, h1, h2] using Or.inr h

end

/-- The requests that the statement names: each runs its row through `runMbx`, and neither Decaf mode nor a disabled function serves it. -/
theorem exec_mbx_gated {s : State} {fn : BitVec 4} {r : MbxReq} {i : Instr}
    (hi : i = .partitionCreate fn ∧ r.cmd = 0x03 ∨ i = .partitionDestroy fn ∧ r.cmd = 0x04 ∨ i = .queueCreate fn ∧ r.cmd = 0x05
      ∨ i = .regionRegister fn ∧ r.cmd = 0x07 ∨ i = .jobConfig fn ∧ r.cmd = 0x0A ∨ i = .linkConfig fn ∧ r.cmd = 0x15
      ∨ i = .relayoutStart fn ∧ r.cmd = 0x0E ∨ i = .powerProfile fn ∧ r.cmd = 0x18 ∨ i = .fwStage fn ∧ r.cmd = 0x1C) :
    (∃ F, exec i s = .next (runMbx s fn.toNat r.cmd anyForm F))
      ∧ mbxDecaf r.cmd = false ∧ mbxDisabled r.cmd = false ∧ r.cmd ≠ 0x01 ∧ r.cmd ≠ 0x10 := by
  rcases hi with ⟨rfl, h⟩ | ⟨rfl, h⟩ | ⟨rfl, h⟩ | ⟨rfl, h⟩ | ⟨rfl, h⟩ | ⟨rfl, h⟩ | ⟨rfl, h⟩ | ⟨rfl, h⟩ | ⟨rfl, h⟩
  all_goals
    rw [h]
    exact ⟨⟨_, rfl⟩, rfl, rfl, by decide, by decide⟩

/-- Settles O49: a request is answered with the status of the first check that turns it away, and none of its row's effect happens. -/
theorem mailboxTurnsAway : Obligations.MailboxTurnsAway := by
  intro s fn f r n hf hr hroom i hi turned plain
  obtain ⟨⟨F, hF⟩, hdecaf, hdisabled, h1, h10⟩ := exec_mbx_gated (s := s) hi
  have away {st : Nat} (h : turnedAway s n f r = some st) : turned st :=
    hF.trans (congrArg _ (runMbx_turnedAway hf hr hroom h F))
  refine ⟨fun hrom hrec => away ?_, fun hrom hd => away ?_, fun ⟨hrom, hd⟩ hoff => away ?_, fun ⟨hrom, hd⟩ hon hpf hn => away ?_,
    fun ⟨hrom, hd⟩ hon hpf hlong hfull => away ?_, fun ⟨hrom, hd⟩ hon hpf hobj => away ?_⟩
  · simp [turnedAway, hrom, hrec]
  · simp [turnedAway, hrom, hd, hdecaf]
  · simp [turnedAway, hrom, hd, hoff, hdisabled]
  · rw [turnedAway, if_neg (by simp [hrom]), if_neg (by simp [hd]), if_neg (by simp [hon]), if_pos ⟨hpf, hn⟩]
  all_goals
    rw [turnedAway, if_neg (by simp [hrom]), if_neg (by simp [hd]), if_neg (by simp [hon]), if_neg fun h => h.2 (hpf h.1), if_pos]
  · simp [mbxBusy, hlong, hfull]
  · exact mbxBusy_of_object h1 h10 hobj

end Sys2Proof.Machine
end

section
/-! ### The security engine (R390, R485, R487 to R490) -/

namespace Sys2Proof.Machine

/-- A step whose condition holds, and one whose condition fails. -/
theorem next_if {c : Prop} [Decidable c] {a b : State} (h : c) : (Host.Outcome.next (if c then a else b) : Out) = .next a :=
  congrArg _ (if_pos h)

theorem next_else {c : Prop} [Decidable c] {a b : State} (h : ¬c) : (Host.Outcome.next (if c then a else b) : Out) = .next b :=
  congrArg _ (if_neg h)

/-! #### Sessions -/

/-- What a request that is answered makes of the security engine: KEY_EXCHANGE opens its session, END_SESSION closes it, every other
request leaves it as it is. -/
def spdmAfter (x : Security) (t session code : Nat) : Security :=
  if code = spdmKeyExchange then { x with sessions := x.sessions ++ [(t, session)] }
  else if code = spdmEndSession then { x with sessions := x.sessions.filter (fun e => e != (t, session)) }
  else x

/-- A request reaches the session that it names alone. -/
theorem spdmAfter_sessions {s u : State} {t session code : Nat} (h : u.sec = spdmAfter s.sec t session code) :
    (code = spdmKeyExchange → sessionOpen u t session = true) ∧ (code = spdmEndSession → sessionOpen u t session = false)
    ∧ (code ≠ spdmKeyExchange → code ≠ spdmEndSession → u.sec = s.sec)
    ∧ ∀ a b, (a, b) ≠ (t, session) → sessionOpen u a b = sessionOpen s a b := by
  unfold spdmAfter at h
  split at h
  case isTrue hk =>
    refine ⟨fun _ => by simp [sessionOpen, h], fun he => absurd (hk.symm.trans he) (by decide), fun hn => absurd hk hn, fun a b hab => ?_⟩
    rw [sessionOpen, h, sessionOpen, Bool.eq_iff_iff]
    simp [hab]
  split at h
  case isTrue hk he =>
    refine ⟨fun hn => absurd hn hk, fun _ => by simp [sessionOpen, h], fun _ hn => absurd he hn, fun a b hab => ?_⟩
    rw [sessionOpen, h, sessionOpen, Bool.eq_iff_iff]
    simp [hab]
  case isFalse hk he =>
    exact ⟨fun hn => absurd hn hk, fun hn => absurd hn he, fun _ _ => h, fun a b _ => by rw [sessionOpen, h, sessionOpen]⟩

section
variable {s : State} {mctp : Bool}

theorem execSpdmRequest_unserved (h : spdmServes s mctp = false) (session : BitVec 16) (code : BitVec 8) (bytes : List Byte) :
    execSpdmRequest mctp session code bytes s = .next s := congrArg _ (if_pos (by simp [h]))

theorem execSpdmRequest_fails (h : spdmServes s mctp = true) {session : BitVec 16} {code : BitVec 8}
    (hf : spdmFails s (transportOf mctp) session.toNat code.toNat = true) (bytes : List Byte) :
    execSpdmRequest mctp session code bytes s = .next (spdmReply s spdmError bytes) :=
  congrArg _ ((if_neg (by simp [h])).trans (if_pos hf))

theorem execSpdmRequest_answered (h : spdmServes s mctp = true) {session : BitVec 16} {code : BitVec 8}
    (hf : spdmFails s (transportOf mctp) session.toNat code.toNat = false) (bytes : List Byte) :
    execSpdmRequest mctp session code bytes s = .next
      { spdmReply s code.toNat bytes with sec := spdmAfter s.sec (transportOf mctp) session.toNat code.toNat } := by
  refine congrArg _ ((if_neg (by simp [h])).trans ((if_neg (by simp [hf])).trans ?_))
  dsimp only [spdmAfter]
  split
  · rfl
  split <;> rfl

end

/-! #### IDE streams -/

/-- A change of an IDE stream changes that stream alone. -/
theorem modIde_streams (s : State) (i : BitVec 3) (f : IdeStream → IdeStream) :
    (modIde s i.toNat f).sec.ide[i.toFin] = f s.sec.ide[i.toFin]
    ∧ ∀ j : Fin 8, j ≠ i.toFin → (modIde s i.toNat f).sec.ide[j] = s.sec.ide[j] := by
  have hset : (modIde s i.toNat f).sec.ide = s.sec.ide.set i.toNat (f s.sec.ide[i.toNat]) := by
    rw [modIde, dif_pos i.isLt]
  rw [hset]
  exact ⟨Vector.getElem_set_self i.isLt, fun j hj => Vector.getElem_set_ne i.isLt j.isLt fun h => hj (Fin.ext h.symm)⟩

/-- K_SET_GO on a stream: a key set that is programmed becomes the active one (R487). -/
def IdeStream.go (set : Nat) (x : IdeStream) : IdeStream :=
  if mapHas x.keys set then
    { x with previous := if x.secure ∧ x.active ≠ set then some x.active else x.previous, active := set, secure := true }
  else x

/-- K_SET_STOP on a stream: the previous key set is no longer accepted (R487). -/
def IdeStream.stop (set : Nat) (x : IdeStream) : IdeStream := if x.previous = some set then { x with previous := none } else x

/-- A stream whose integrity check has failed: insecure until it is keyed again (R390). -/
def IdeStream.failed (x : IdeStream) : IdeStream := { x with secure := false, keys := [], previous := none }

section
variable {s : State} (stream : BitVec 3) (set : BitVec 1)

theorem execIdeKmKeyProg_programs {session : BitVec 16} (h : spdmServes s false = true) (ho : sessionOpen s 0 session.toNat = true)
    (hd : s.sec.debug ≠ .full) (key : BitVec 256) : execIdeKmKeyProg session stream set key s
      = .next (modIde s stream.toNat (fun x => { x with keys := mapSet x.keys set.toNat key.toNat })) := next_if ⟨h, ho, hd⟩

theorem execIdeKmKeyProg_refused {session : BitVec 16}
    (h : spdmServes s false = false ∨ sessionOpen s 0 session.toNat = false ∨ s.sec.debug = .full) (key : BitVec 256) :
    execIdeKmKeyProg session stream set key s = .next s := by
  refine next_else ?_
  rintro ⟨hserves, hopen, hdebug⟩
  rcases h with h | h | h
  · simp [h] at hserves
  · simp [h] at hopen
  · exact hdebug h

theorem execKSetGo_eq (h : spdmServes s false = true) :
    execKSetGo stream set s = .next (modIde s stream.toNat (IdeStream.go set.toNat)) := next_if h

theorem execKSetStop_eq (h : spdmServes s false = true) :
    execKSetStop stream set s = .next (modIde s stream.toNat (IdeStream.stop set.toNat)) := next_if h

theorem execIdeCheckFailure_eq (h : linkServes s = true) : execIdeCheckFailure stream s
      = .next (modFunc (modIde s stream.toNat IdeStream.failed) 0 (fun f => { f with ideDrops := f.ideDrops + 1 })) := next_if h

end

/-! #### The debug port -/

section
variable {s : State} {addr : BitVec 56} {value : BitVec 64}

/-- In state 0 the port reads the IDCODE alone. -/
theorem execDebugPortAccess_locked (hp : powered s = true) (hd : s.sec.debug = .locked) (wr : Bool) :
    execDebugPortAccess wr addr value s = if wr then .next s else .next (sendHost s (.jtag (natToBytes 4 Config.idcode))) := by
  simp only [execDebugPortAccess, hp, hd, Bool.not_true, Bool.false_eq_true, if_false]
  split <;> rfl

/-- Once it is open the port reads registers. -/
theorem execDebugPortAccess_register (hp : powered s = true) (hd : s.sec.debug ≠ .locked) {d o : Nat}
    (ha : decodeAddr s addr.toNat = .register d o) :
    execDebugPortAccess false addr value s = .next (sendHost s (.jtag (natToBytes 8 ((regRead s d o).getD 0)))) := by
  cases h : s.sec.debug with
  | locked => exact absurd h hd
  | observe => simp [execDebugPortAccess, hp, h, ha]
  | full => simp [execDebugPortAccess, hp, h, debugRead, ha]

/-- In state 1 the port neither writes nor reads memory. -/
theorem execDebugPortAccess_observe (hp : powered s = true) (hd : s.sec.debug = .observe) {wr : Bool}
    (h : wr = true ∨ addr.toNat < usableBytes s) : execDebugPortAccess wr addr value s = .next s := by
  rcases h with rfl | h
  · cases ha : decodeAddr s addr.toNat <;> simp [execDebugPortAccess, hp, hd, ha]
  · simp [execDebugPortAccess, hp, hd, decodeAddr_t1 h]

/-- In state 2 the port reads memory that no cache holds. -/
theorem execDebugPortAccess_read (hp : powered s = true) (hd : s.sec.debug = .full) (h : Unheld s addr.toNat 8) :
    execDebugPortAccess false addr value s = .next (sendHost s (.jtag (memBytes s.mem addr.toNat 8))) := by
  have hlt : addr.toNat < usableBytes s := by have := h.usable; omega
  simp [execDebugPortAccess, hp, hd, debugRead, decodeAddr_t1 hlt, cohRead_unheld h]

/-- In state 2 the port writes memory that no cache holds. -/
theorem execDebugPortAccess_write (hp : powered s = true) (hd : s.sec.debug = .full) (h : Unheld s addr.toNat 8) (hok : s.memOk = true) :
    ∃ t, execDebugPortAccess true addr value s = .next t ∧ memBytes t.mem addr.toNat 8 = natToBytes 8 value.toNat := by
  have hlt : addr.toNat < usableBytes s := by have := h.usable; omega
  have hlen : (natToBytes 8 value.toNat).length = 8 := natToBytes_length ..
  refine ⟨cohWrite s addr.toNat (natToBytes 8 value.toNat), ?_, ?_⟩
  · simp [execDebugPortAccess, hp, hd, debugWrite, decodeAddr_t1 hlt, moduleWrite, placeOf_t1 hlt]
  · rw [(cohWrite_unheld (by rwa [hlen])).1]
    exact (memPutBytes_range (memWf_of_memOk hok) hlen).1

end

/-- Full access erases every IDE key, MACsec key and job seed key (R490). -/
theorem eraseKeys_erased (u : State) : (eraseKeys u).sec.ide.toList.all (fun y => !y.secure && y.keys.isEmpty) = true
    ∧ (eraseKeys u).sec.macsec.toList.all (fun y => y.cak.isNone && y.txSa.isNone) = true
    ∧ ∀ p y, partAt (eraseKeys u) p = some y → y.rngKey = 0 := by
  refine ⟨by simp [eraseKeys, Vector.toList_replicate], by simp [eraseKeys, Vector.toList_replicate, MacsecKeys.none], fun p y h => ?_⟩
  have hpart : partAt (eraseKeys u) p = (partAt u p).map (fun x => { x with rngKey := 0 }) :=
    mapGet_mapAll u.partitions (fun _ x => { x with rngKey := 0 }) p
  rw [hpart, Option.map_eq_some_iff] at h
  obtain ⟨x, -, rfl⟩ := h
  rfl

/-- A challenge is used once: a token that comes too late, is wrong, or finds the OTP bit blown opens nothing (R490). -/
theorem execDebugUnlockToken_used {s : State} (hp : powered s = true) {v : Nat} {at0 : Word64} (hc : s.sec.challenge = some (v, at0))
    (bytes : List Byte) :
    execDebugUnlockToken bytes s = .next (
      if s.sec.otpDebugLock = false ∧ aonSince s at0 ≤ 15000000000 ∧ tokenGood s v bytes = true then
        openDebug { s with sec := { s.sec with challenge := none } } (bytesToNat (Config.tokenField 2 bytes))
      else { s with sec := { s.sec with challenge := none } }) := by
  refine congrArg _ ((if_neg (by simp [hp])).trans ?_)
  simp only [hc]
  by_cases hgood : s.sec.otpDebugLock = false ∧ aonSince s at0 ≤ 15000000000 ∧ tokenGood s v bytes = true
  · obtain ⟨hlock, htime, htoken⟩ := hgood
    rw [if_neg (by simp [hlock, htoken, htime]), if_pos ⟨hlock, htime, htoken⟩]
  · rw [if_neg hgood, if_pos]
    by_contra hbad
    simp only [not_or, Bool.not_eq_true, Nat.not_lt, Bool.not_eq_false'] at hbad
    exact hgood hbad

/-- Settles O57: sessions and streams by what each command makes of the engine, the port by its state. -/
theorem securityCommands : Obligations.SecurityCommands := by
  intro s mctp wr session ports code bytes ckn stream set key addr value t0 k ide x others spdm cak reply
  have hstream (f : IdeStream → IdeStream) : ide (modIde s stream.toNat f) = f x ∧ others (modIde s stream.toNat f) :=
    modIde_streams s stream f
  refine ⟨fun h => execSpdmRequest_unserved h .., fun h hf => execSpdmRequest_fails h hf ..,
    fun h hf => ⟨_, execSpdmRequest_answered h hf bytes, rfl, spdmAfter_sessions rfl⟩, fun h ho hd => ?prog,
    fun h => execIdeKmKeyProg_refused stream set h key,
    fun h hk => ?go, fun h hx => ?stop, fun h => ?failure, fun h ho hd he h1 h32 => ?cak, fun h => next_else ?noCak, fun h he => ?challenge,
    fun h v at0 hc => ?token, fun h hc => ?noToken, eraseKeys_erased, fun h => next_if h, fun h => ?port⟩
  case prog =>
    obtain ⟨hsame, hother⟩ := hstream _
    refine ⟨_, execIdeKmKeyProg_programs stream set h ho hd key, ?_⟩
    rw [hsame]
    exact ⟨mapGet_mapSet_same .., rfl, rfl, hother⟩
  case go =>
    obtain ⟨hsame, hother⟩ := hstream (IdeStream.go set.toNat)
    refine ⟨_, execKSetGo_eq stream set h, ?_⟩
    rw [hsame, IdeStream.go, if_pos hk]
    exact ⟨rfl, rfl, rfl, hother, rfl⟩
  case stop =>
    obtain ⟨hsame, hother⟩ := hstream (IdeStream.stop set.toNat)
    exact ⟨_, execKSetStop_eq stream set h, hsame.trans (if_pos hx), hother⟩
  case failure =>
    obtain ⟨hsame, hother⟩ := hstream IdeStream.failed
    refine ⟨_, execIdeCheckFailure_eq stream h, congrArg (·.secure) hsame, congrArg (·.keys) hsame, congrArg (·.previous) hsame, hother, ?_⟩
    rw [funcAt, modFunc, mapGet_mapModify_same, Option.map_map]
    simp only [modIde_frame]
    rfl
  case cak =>
    refine ⟨_, next_if ⟨h, ho, hd, h1, h32, by simp [he]⟩, fun j => (Vector.getElem_ofFn j.isLt).trans ?_⟩
    cases ports.getLsbD j.val <;> rfl
  case noCak =>
    rintro ⟨-, hopen, hdebug, h1, h32, -⟩
    rcases h with h | h | h | h
    · simp [h] at h1
    · omega
    · exact absurd (h.symm.trans hopen) (by simp)
    · exact hdebug h
  case challenge =>
    exact ⟨_, Config.freeValue s.free % 2 ^ 256, next_else (by simp [h, he]), Nat.mod_lt _ (by positivity), rfl, rfl⟩
  case token =>
    refine ⟨execDebugUnlockToken_used h hc bytes, fun hgood hlocked hone => (execDebugUnlockToken_used h hc bytes).trans (congrArg _ ?_)⟩
    rw [if_pos hgood, openDebug, if_pos ⟨hone, hlocked⟩]
  case noToken =>
    refine (next_else (by simp [h])).trans ?_
    simp only [hc]
  case port =>
    refine ⟨fun hd => execDebugPortAccess_locked h hd wr, fun d o hd hw ha => ?_, fun hd hw => execDebugPortAccess_observe h hd hw,
      fun hd husable hok hfree => ⟨fun hw => ?_, fun hw => ?_⟩⟩
    all_goals subst hw
    · exact execDebugPortAccess_register h hd ha
    · exact execDebugPortAccess_read h hd ⟨husable, hfree⟩
    · exact execDebugPortAccess_write h hd ⟨husable, hfree⟩ hok

end Sys2Proof.Machine
end

section
/-! ### FENCE, SIGNAL, WAIT and ACCEPT_PLACED (R382, R388, R411) -/

namespace Sys2Proof.Machine

/-! #### Ranges dropped from the caches -/

/-- Refreshing the data on its way to readers changes home nodes alone. -/
theorem refreshFlights_eq (s : State) (a n : Nat) : ∃ h, refreshFlights s a n = { s with homes := h } := by
  unfold refreshFlights
  split
  · exact ⟨s.homes, rfl⟩
  · exact ⟨_, rfl⟩

theorem lineHeld_refreshFlights {s : State} {lid : Nat} (a n : Nat) (h : lineHeld s lid = false) :
    lineHeld (refreshFlights s a n) lid = false := by
  obtain ⟨hcached, hflight⟩ := lineHeld_eq_false.mp h
  obtain ⟨x, hx⟩ := refreshFlights_eq s a n
  exact lineHeld_eq_false.mpr ⟨fun g hg => by rw [hx]; exact hcached g hg, flightLine_refreshFlights a n hflight⟩

/-- A range that no cache holds has no copy to drop. -/
theorem discardRange_unheld {s : State} {a n : Nat} (h : ∀ lid ∈ lidsOf a n, lineHeld s lid = false) :
    discardRange s a n = refreshFlights s a n := by
  unfold discardRange
  generalize hl : lidsOf a n = l at h
  have hnone : l.foldl (fun t lid => if lineHeld t lid then dropCopies t lid else t) s = s := by
    clear hl
    induction l with
    | nil => rfl
    | cons lid l ih =>
      rw [List.foldl_cons, h lid (List.mem_cons_self ..)]
      exact ih fun x hx => h x (List.mem_cons_of_mem _ hx)
  rw [hnone]

/-! #### ACCEPT_PLACED -/

/-- Accepting a range that no cache holds, and that no journal notes, changes home nodes alone. -/
theorem acceptPlaced_silent {s : State} {p : Nat} {r : Placement} {c : Cmd} (hj : ∀ y, partAt s p = some y → y.journal.enable = 0)
    (hdata : ∀ lid ∈ lidsOf (r.base + c.field 0x28 8) (c.field 0x30 8), lineHeld s lid = false)
    (hlog : ∀ lid ∈ lidsOf r.log (if r.state = .open then 0 else r.logUsed), lineHeld s lid = false) :
    ∃ h, acceptPlaced s p r c = { s with homes := h } := by
  have hdropped (logN : Nat) (hlog : ∀ lid ∈ lidsOf r.log logN, lineHeld s lid = false) :
      ∃ h, discardRange (discardRange s (r.base + c.field 0x28 8) (c.field 0x30 8)) r.log logN = { s with homes := h } := by
    rw [discardRange_unheld hdata, discardRange_unheld fun lid hl => lineHeld_refreshFlights _ _ (hlog lid hl)]
    obtain ⟨h1, hfirst⟩ := refreshFlights_eq s (r.base + c.field 0x28 8) (c.field 0x30 8)
    obtain ⟨h2, hsecond⟩ := refreshFlights_eq { s with homes := h1 } r.log logN
    exact ⟨h2, by rw [hfirst, hsecond]⟩
  obtain ⟨h, hx⟩ := hdropped _ hlog
  refine ⟨h, ?_⟩
  dsimp only [acceptPlaced]
  rw [hx, journalWrite_silent (by exact hj)]

section
variable {s : State} {q : BitVec 12} {pos : BitVec 32} {x : Queue} {c : Cmd} {r : Placement}

/-- ACCEPT_PLACED of a range whose target is reached finishes, and changes no memory. -/
theorem execAcceptPlaced_accepts (h : Working s q.toNat pos.toNat 0x13 x c) (hr : regionAt s x.partition (c.field 0x20 1) = some r)
    (hfree : r.state ≠ .free) (hrange : acceptRangeOk r c = true) (hmet : placedMet r (c.field 0x38 8) = true) (hdrop : r.droppedSince = false)
    (hj : ∀ y, partAt s x.partition = some y → y.journal.enable = 0)
    (hdata : ∀ lid ∈ lidsOf (r.base + c.field 0x28 8) (c.field 0x30 8), lineHeld s lid = false)
    (hlog : ∀ lid ∈ lidsOf r.log (if r.state = .open then 0 else r.logUsed), lineHeld s lid = false) :
    ∃ t, execAcceptPlaced q pos s = .next t ∧ t.mem = s.mem
      ∧ (cmdAt t q.toNat pos.toNat).map (fun d => (d.phase, d.status, d.result)) =
          some (.finished, if r.state ≠ .open ∧ r.logUsed ≠ 0 then stPlacedReserve else stOk, 0) := by
  obtain ⟨hh, haccept⟩ := acceptPlaced_silent hj hdata hlog
  rw [execAcceptPlaced, runCmd_working h]
  simp only [hr, haccept]
  rw [if_neg (by simp [hfree, hrange]), if_neg (by simp [hmet])]
  refine ⟨_, rfl, rfl, ?_⟩
  have hcmd (f : Placement → Placement) : cmdAt (modRegion { s with homes := hh } x.partition (c.field 0x20 1) f) q.toNat pos.toNat = some c := h.cmd
  rw [finishCmd, cmdAt_modCmd_same _ _ _ (by exact fun _ => rfl), hcmd, hdrop]
  rfl

theorem execAcceptPlaced_waits (h : Working s q.toNat pos.toNat 0x13 x c) (hr : regionAt s x.partition (c.field 0x20 1) = some r)
    (hfree : r.state ≠ .free) (hrange : acceptRangeOk r c = true) (hmet : placedMet r (c.field 0x38 8) = false) :
    execAcceptPlaced q pos s = .next s := by
  refine congrArg _ ((runCmd_working h _).trans ?_)
  simp only [hr]
  rw [if_neg (by simp [hfree, hrange]), if_pos (by simp [hmet])]

theorem execAcceptPlacedDeadline_ends (h : Working s q.toNat pos.toNat 0x13 x c) (hr : regionAt s x.partition (c.field 0x20 1) = some r)
    (hmet : placedMet r (c.field 0x38 8) = false) (hd : c.aux ≤ aonSince s c.admittedAt) :
    execAcceptPlacedDeadline q pos s = .next (endCmd s q.toNat pos.toNat stAcceptShort) := by
  refine congrArg _ ((runCmd_working h _).trans ?_)
  simp only [hr]
  rw [if_pos ⟨hd, by simp [hmet]⟩]

end

/-! #### The statement -/

/-- What a command at work does is what its row does with it. -/
theorem next_runCmd {s t : State} {q pos op : Nat} {x : Queue} {c : Cmd} (h : Working s q pos op x c) {f : Queue → Cmd → State} (hf : f x c = t) :
    (Host.Outcome.next (runCmd s q pos op f) : Out) = .next t := congrArg _ ((runCmd_working h f).trans hf)

/-- Settles O37: each command at work does what its row says, by the condition that it waits for. -/
theorem controlCommands : Obligations.ControlCommands := by
  intro s q pos x c qn n p works count met
  have hmet : waitMet s p c = true ↔ met := decide_eq_true_iff
  refine ⟨fun h => ⟨fun hf => next_runCmd h (if_pos hf), fun hf => next_runCmd h (if_neg (by simp [qn] at hf; simp [hf]))⟩,
    fun h => ⟨fun hop => ⟨next_runCmd h (if_pos hop), next_runCmd h (if_neg (by simp [hop]))⟩,
      fun hop => ⟨next_runCmd h (if_pos hop), next_runCmd h (if_neg (by simp [hop]))⟩⟩,
    fun h => ⟨fun hm => ⟨next_runCmd h (if_pos (hmet.mpr hm)), next_runCmd h (if_neg fun hw => ?_)⟩,
      fun hm => next_runCmd h (if_neg fun hw => hm (hmet.mp hw)), fun hm h0 hd => next_runCmd h (if_pos ⟨h0, hd, ?_⟩)⟩,
    fun h r hr => ⟨execAcceptPlaced_accepts h hr, execAcceptPlaced_waits h hr, execAcceptPlacedDeadline_ends h hr⟩⟩
  · obtain ⟨-, -, hw⟩ := hw
    rw [hmet.mpr hm] at hw
    cases hw
  · rw [Bool.not_eq_true', ← Bool.not_eq_true]
    exact fun hw => hm (hmet.mp hw)

end Sys2Proof.Machine
end

section
/-! ### Input power, the activity budget, temperature and ageing (R444, R445, R448 to R454, R463) -/

namespace Sys2Proof.Machine

/-! #### Dies -/

/-- A change of a die changes that die alone. -/
theorem modDie_dies (s : State) (n : Fin 13) (f : DiePower → DiePower) :
    (modDie s n.val f).dies[n] = f s.dies[n] ∧ ∀ m : Fin 13, m ≠ n → (modDie s n.val f).dies[m] = s.dies[m] := by
  have hset : (modDie s n.val f).dies = s.dies.set n.val (f s.dies[n.val]) := by rw [modDie, dif_pos n.isLt]
  rw [hset]
  exact ⟨Vector.getElem_set_self n.isLt, fun m hm => Vector.getElem_set_ne n.isLt m.isLt fun h => hm (Fin.ext h.symm)⟩

theorem dies_getElem? (s : State) (n : Fin 13) : s.dies[n.val]? = some s.dies[n] := Vector.getElem?_eq_getElem n.isLt

/-! #### Input -/

theorem inputBand_eq_sag {mv : Nat} : inputBand mv = .sag ↔ mv < 44000 := by
  unfold inputBand
  repeat' split
  all_goals simp_all

theorem inputBand_under (mv : Nat) : (inputBand mv).under = decide (mv < 46000) := by
  unfold inputBand
  repeat' split
  · exact (decide_eq_true (by omega)).symm
  · exact (decide_eq_true (by omega)).symm
  · exact (decide_eq_false (by omega)).symm
  · exact (decide_eq_false (by omega)).symm
  · exact (decide_eq_false (by omega)).symm

theorem inputBand_above (mv : Nat) : (inputBand mv).above = decide (58000 < mv) := by
  unfold inputBand
  repeat' split
  · exact (decide_eq_false (by omega)).symm
  · exact (decide_eq_false (by omega)).symm
  · exact (decide_eq_false (by omega)).symm
  · exact (decide_eq_true (by omega)).symm
  · exact (decide_eq_true (by omega)).symm

/-- A cause of ALERT_N asserted or withdrawn: that cause alone is a member or not. -/
theorem alert_if (s : State) (cause : Nat) (on : Bool) : ∃ l,
    (if on then raiseAlert s cause else clearAlert s cause) = { s with power := { s.power with alerts := l } }
    ∧ ∀ x, x ∈ l ↔ if x = cause then on = true else x ∈ s.power.alerts := by
  cases on with
  | false =>
    refine ⟨s.power.alerts.filter (· != cause), rfl, fun x => ?_⟩
    by_cases hx : x = cause <;> simp [hx]
  | true =>
    by_cases h : s.power.alerts.contains cause
    · refine ⟨s.power.alerts, if_pos h, fun x => ?_⟩
      by_cases hx : x = cause
      · simpa [hx] using h
      · simp [hx]
    · refine ⟨s.power.alerts ++ [cause], if_neg h, fun x => ?_⟩
      by_cases hx : x = cause <;> simp [hx]

/-- ALERT_N causes 1 and 2 say whether the input is outside its operating range (R498). -/
theorem alertInput_eq (s : State) : ∃ l, alertInput s = { s with power := { s.power with alerts := l } }
    ∧ (1 ∈ l ↔ s.power.band.under = true) ∧ (2 ∈ l ↔ s.power.band.above = true) := by
  obtain ⟨l1, h1, hl1⟩ := alert_if s 1 s.power.band.under
  obtain ⟨l2, h2, hl2⟩ := alert_if { s with power := { s.power with alerts := l1 } } 2 s.power.band.above
  refine ⟨l2, ?_, ?_, ?_⟩
  · dsimp only [alertInput]
    rw [h1]
    exact h2
  · simpa [hl1] using hl2 1
  · simpa using hl2 2

section
variable {s : State} {mv : BitVec 20}

/-- A sample of an input that is neither sagging nor lost changes the power block alone. -/
theorem execPwrSample_steady (hp : powered s = true) (hlow : 38000 ≤ mv.toNat) (hb : inputBand mv.toNat ≠ .sag) (ma : BitVec 20) :
    ∃ l, execPwrSample mv ma false s
        = .next { s with power := { samplePower s.power (aonNow s) mv.toNat ma.toNat with alerts := l } }
      ∧ (1 ∈ l ↔ mv.toNat < 46000) ∧ (2 ∈ l ↔ 58000 < mv.toNat) := by
  obtain ⟨l, hl, h1, h2⟩ := alertInput_eq { s with power := samplePower s.power (aonNow s) mv.toNat ma.toNat }
  have hband : (samplePower s.power (aonNow s) mv.toNat ma.toNat).band = inputBand mv.toNat := rfl
  refine ⟨l, ?_, by simpa [hband, inputBand_under] using h1, by simpa [hband, inputBand_above] using h2⟩
  refine congrArg Host.Outcome.next ((if_neg (by simp [hp])).trans ?_)
  rw [hl]
  dsimp only
  rw [if_neg (by simp; omega), if_neg (fun h => hb h.1)]

/-- A sag writes the state records ahead of need (R445). -/
theorem execPwrSample_sag (hp : powered s = true) (hlow : 38000 ≤ mv.toNat) (hsag : mv.toNat < 44000) (hrun : s.life.running = true)
    (hahead : s.power.recordsAhead = false) (ma : BitVec 20) :
    ∃ t, execPwrSample mv ma false s = .next t ∧ t.power.band = .sag ∧ t.power.recordsAhead = true ∧ t.flash.log = s.fault.log
      ∧ t.flash.decaf.map (·.reported) = some false := by
  obtain ⟨l, hl, -⟩ := alertInput_eq { s with power := samplePower s.power (aonNow s) mv.toNat ma.toNat }
  have hband : (samplePower s.power (aonNow s) mv.toNat ma.toNat).band = .sag := inputBand_eq_sag.mpr hsag
  have hnot : (samplePower s.power (aonNow s) mv.toNat ma.toNat).recordsAhead = false := by simp [samplePower, hahead]
  refine ⟨_, congrArg Host.Outcome.next (if_neg (by simp [hp])), ?_⟩
  rw [hl]
  dsimp only
  rw [if_neg (by simp; omega), if_pos ⟨hband, by simp [hnot], hrun⟩]
  exact ⟨hband, rfl, rfl, rfl⟩

end

/-! #### The applied cap -/

theorem raiseAplic_one (s : State) : (raiseAplic s 1).aplic = s.aplic ||| 2 := rfl

/-- A cap that changed is announced, one that did not is not (R448). -/
theorem noteCap_spec (s : State) (old : Nat) : (noteCap s old).power = s.power
    ∧ (appliedCap s.power ≠ old → (noteCap s old).aplic = s.aplic ||| 2 ∧ (noteCap s old).fault.nextEntry ≠ s.fault.nextEntry)
    ∧ (appliedCap s.power = old → noteCap s old = s) := by
  unfold noteCap
  dsimp only
  split
  case isTrue h => exact ⟨rfl, fun hn => absurd h hn, fun _ => rfl⟩
  case isFalse h =>
    refine ⟨by simp, fun _ => ⟨by simp only [logError_frame, raiseAplic_one], ?_⟩, fun he => absurd he h⟩
    simp only [logError_nextEntry, raiseAplic_frame]
    omega

/-! #### The budget loop -/

/-- A die with its budget written: a change, or the first write of all, is counted (R450). -/
def budgeted (profile : Nat) (first : Bool) (x : DiePower) : DiePower :=
  if leastCeil profile x = x.budget ∧ !first then x
  else { x with budget := leastCeil profile x, budgetChanges := x.budgetChanges + 1 }

/-- A budget is the least of the four ceilings, and writing it moves none of them (R449, R450). -/
theorem budgeted_spec (profile : Nat) (first : Bool) (x : DiePower) :
    (budgeted profile first x).powerCeil = x.powerCeil ∧ (budgeted profile first x).thermalCeil = x.thermalCeil
    ∧ (budgeted profile first x).ageCeil = x.ageCeil ∧ (budgeted profile first x).voff = x.voff
    ∧ (budgeted profile first x).budget = leastCeil profile x
    ∧ (budgeted profile first x).budgetChanges
        = if leastCeil profile x = x.budget ∧ first = false then x.budgetChanges else x.budgetChanges + 1 := by
  unfold budgeted
  by_cases h : leastCeil profile x = x.budget ∧ first = false
  · obtain ⟨hbudget, hfirst⟩ := h
    rw [if_pos ⟨hbudget, by simp [hfirst]⟩, if_pos ⟨hbudget, hfirst⟩]
    exact ⟨rfl, rfl, rfl, rfl, hbudget.symm, rfl⟩
  · rw [if_neg (by simpa using h), if_neg h]
    exact ⟨rfl, rfl, rfl, rfl, rfl, rfl⟩

theorem writeBudget_dies (profile : Nat) (first : Bool) (s : State) (d j : Fin 13) :
    (writeBudget profile first s d.val).dies[j] = if j = d then budgeted profile first s.dies[j] else s.dies[j] := by
  have hjournal (u : State) (l : List (Nat × Partition)) (b : Nat) : (l.foldl (fun t e =>
      journalWrite t e.1 0x06 (natToBytes 1 d.val ++ natToBytes 2 b ++ natToBytes 8 (arrNow t d.val).toNat)) u).dies = u.dies :=
    foldl_read (·.dies) (fun t e => by simp) l u
  unfold writeBudget budgeted
  rw [dies_getElem?]
  dsimp only
  by_cases hj : j = d
  · subst hj
    rw [if_pos rfl]
    split
    · rfl
    · simp only [hjournal]
      exact (modDie_dies s j _).1
  · rw [if_neg hj]
    split
    · rfl
    · simp only [hjournal]
      exact (modDie_dies s d _).2 j hj

/-- The budgets of the first `n` dies written. -/
theorem writeBudgets_dies (profile : Nat) (first : Bool) (s : State) {n : Nat} (hn : n ≤ 13) (j : Fin 13) :
    ((List.range n).foldl (writeBudget profile first) s).dies[j] = if j.val < n then budgeted profile first s.dies[j] else s.dies[j] := by
  induction n with
  | zero => rfl
  | succ n ih =>
    rw [List.range_succ, List.foldl_append, List.foldl_cons, List.foldl_nil, writeBudget_dies profile first _ ⟨n, hn⟩, ih (by omega)]
    by_cases hj : j = ⟨n, hn⟩
    · subst hj
      simp
    · have hne : j.val ≠ n := fun h => hj (Fin.ext h)
      rw [if_neg hj]
      exact if_congr (by omega) rfl rfl

theorem writeBudget_power (profile : Nat) (first : Bool) (s : State) (d : Nat) : (writeBudget profile first s d).power = s.power := by
  unfold writeBudget
  split
  · rfl
  · dsimp only
    split
    · rfl
    · refine (foldl_read (·.power) (fun t e => ?_) _ _).trans ?_ <;> simp

theorem setClusters_kept (s : State) : (setClusters s).dies = s.dies ∧ (setClusters s).power = s.power := by
  have hstep (t : State) (k : Nat) : ((match clusterMhz t k with | none => t | some m => modDomain t (7 + k) (fun d => { d with mhz := m })) : State).dies = t.dies
      ∧ ((match clusterMhz t k with | none => t | some m => modDomain t (7 + k) (fun d => { d with mhz := m })) : State).power = t.power := by
    split <;> simp
  exact ⟨foldl_read (·.dies) (fun t k => (hstep t k).1) _ s, foldl_read (·.power) (fun t k => (hstep t k).2) _ s⟩

theorem noteExcursion_kept (s : State) (above : Bool) :
    (noteExcursion s above).dies = s.dies ∧ (noteExcursion s above).power.firstLoop = s.power.firstLoop := by
  have hraise (t : State) : (raiseAlert t 3).power.firstLoop = t.power.firstLoop := by
    unfold raiseAlert
    split <;> rfl
  unfold noteExcursion
  split
  · exact ⟨rfl, rfl⟩
  · dsimp only
    split
    · exact ⟨by simp, hraise _⟩
    · exact ⟨rfl, rfl⟩

/-- The ceilings of a die after one step of the loop (R449, R451). -/
def stepped (cap avg proj : Nat) (d : DiePower) : DiePower :=
  { d with powerCeil := stepPowerCeil cap avg proj d.powerCeil, thermalCeil := stepThermalCeil d }

/-- One step of the loop moves the ceilings of the compute dies and writes their budgets, and leaves the other dies. -/
theorem execBudgetLoopStep_dies {s : State} (hp : powered s = true) (avg proj : BitVec 16) :
    ∃ t, execBudgetLoopStep avg proj s = .next t ∧ t.power.firstLoop = true
      ∧ ∀ j : Fin 13, t.dies[j] = if j.val < 8 then
          budgeted (coolProfile s.power.coolStrap).2.1 (!s.power.firstLoop) (stepped (appliedCap s.power) avg.toNat proj.toNat s.dies[j])
        else s.dies[j] := by
  refine ⟨_, congrArg Host.Outcome.next (if_neg (by simp [hp])), ?_⟩
  extract_lets cap exceeded low s1 _ s2 s3 _
  have h1 (j : Fin 13) : s1.dies[j] = if j.val < 8 then stepped cap avg.toNat proj.toNat s.dies[j] else s.dies[j] :=
    Vector.getElem_ofFn j.isLt
  have h2 : s2.dies = s1.dies := (setClusters_kept _).1
  have h3 (j : Fin 13) : s3.dies[j] = if j.val < 8 then
      budgeted (coolProfile s.power.coolStrap).2.1 (!s.power.firstLoop) (stepped cap avg.toNat proj.toNat s.dies[j]) else s.dies[j] := by
    rw [show s3.dies[j] = _ from writeBudgets_dies _ _ s2 (by decide) j, h2, h1]
    split <;> rfl
  clear_value s3
  exact ⟨(noteExcursion_kept _ _).2, fun j => by rw [(noteExcursion_kept _ _).1]; exact h3 j⟩

theorem stepPowerCeil_raised {cap avg proj : Nat} (havg : 5 * avg ≤ 6 * cap) (hproj : proj ≤ cap) (c : Nat) :
    stepPowerCeil cap avg proj c = min 1000 (c + 10) := if_neg (by simp [capExceeded]; omega)

theorem stepPowerCeil_lowered {cap proj : Nat} (hproj : cap < proj) (avg c : Nat) :
    stepPowerCeil cap avg proj c ≤ max 200 (c * cap / proj) := by
  rw [stepPowerCeil, if_pos (by simp [capExceeded, hproj])]
  simp only [hproj, if_true]
  omega

/-! #### Temperature -/

/-- What power loss leaves of the ageing record: all of it. -/
theorem powerOff_ageing (s : State) : (powerOff s).flash.ageing = s.flash.ageing := by
  have hcomp (t : State) (c : Nat) (f : Component → Component) : (modComponent t c f).flash.ageing = t.flash.ageing := by
    unfold modComponent
    split <;> rfl
  have hspoil : (spoilStaging s 0).flash.ageing = s.flash.ageing := by
    unfold spoilStaging
    split
    · rfl
    · exact foldl_read (·.flash.ageing) (fun _ _ => hcomp ..) _ s
  unfold powerOff
  exact hspoil

section
variable {s : State} {die : BitVec 4} {n : Fin 13}

/-- A die's temperature and the times since which it is too hot (R451). -/
def heated (n : Nat) (t : Int) (now : Word64) (d : DiePower) : DiePower :=
  let hot := decide (n < 8) && decide (1050 < t) && d.thermalCeil == 200
  { d with
    temp := t, above110 := if 1100 < t then some (d.above110.getD now) else none,
    above105 := if hot then some (d.above105.getD now) else none }

theorem execThermalSample_heats (hp : powered s = true) (hn : die.toNat = n.val) {tenths : BitVec 16} (ht : natToInt 16 tenths.toNat < 1250) :
    execThermalSample die tenths s = .next (modDie s n.val (heated n.val (natToInt 16 tenths.toNat) (aonNow s))) := by
  have hlt := n.isLt
  refine congrArg Host.Outcome.next ((if_neg (by simp [hp, hn])).trans ((if_neg (by omega)).trans ?_))
  rw [hn]
  rfl

theorem execThermalSample_trips (hp : powered s = true) (hd : die.toNat < 13) {tenths : BitVec 16} (ht : 1250 ≤ natToInt 16 tenths.toNat) :
    execThermalSample die tenths s = .next { powerOff s with power := { (powerOff s).power with thermtrip := true } } :=
  congrArg Host.Outcome.next ((if_neg (by simp [hp]; omega)).trans (if_pos ht))

theorem execCoolingLost_eq (hn : die.toNat = n.val) : execCoolingLost die s = .next (
    if mpRuns s ∧ (tooLong s s.dies[n].above110 2500000 ∨ tooLong s s.dies[n].above105 25000000) then enterDecaf s n.val 0x0703 0 0 else s) := by
  unfold execCoolingLost
  rw [hn, dies_getElem?]

/-! #### Ageing -/

/-- Re-planning of a die with four voltage steps left (R453). -/
theorem replan_room {compute : Bool} {slack : Nat} {d : DiePower} (hex : d.exhausted = false) (hceil : 200 ≤ d.ageCeil ∨ compute = false)
    (hroom : d.voff + 4 ≤ 24) :
    replan compute slack d = { d with voff := d.voff + (if 40 ≤ slack then 0 else if 20 ≤ slack then 1 else 4) } := by
  have hsteps (want : Nat) (h : want ≤ 4) : min want (24 - d.voff) = want := by omega
  have hwant : (if 40 ≤ slack then 0 else if 20 ≤ slack then 1 else 4) ≤ 4 := by split <;> [omega; split <;> omega]
  unfold replan
  simp only [hsteps _ hwant, Nat.sub_self, Nat.mul_zero, Nat.sub_zero, Nat.add_zero, ite_self, Nat.lt_irrefl, decide_false, Bool.or_false]
  cases compute with
  | false => rfl
  | true =>
    have hceil' : ¬ d.ageCeil < 200 := by simpa using hceil
    simp [hceil', hex]

/-- Re-planning of a compute die at its last voltage step: the ceiling pays for each step that is not left (R453). -/
theorem replan_spent {slack : Nat} {d : DiePower} (hex : d.exhausted = false) (hvoff : d.voff = 24) (hslack : slack < 20) (hceil : 400 ≤ d.ageCeil) :
    replan true slack d = { d with ageCeil := d.ageCeil - 200 } := by
  have h40 : ¬ 40 ≤ slack := by omega
  have h20 : ¬ 20 ≤ slack := by omega
  have hlow : ¬ d.ageCeil < 400 := by omega
  simp [replan, h40, h20, hvoff, hlow, hex]

theorem writeAgeing_record (s : State) : (writeAgeing s).flash.ageing = some (ageingRecord (writeAgeing s)) := rfl

/-- A die after its checkpoint. -/
def checkpointed (s : State) (n sl ppm : Nat) (d : DiePower) : DiePower :=
  { replan (decide (n < 8)) sl d with
    slack := 0xFFFF, lastSlack := sl, minSlack := min d.minSlack sl, roPpm := ppm, lastHours := hoursNow s,
    checkpoints := (d.checkpoints + 1) % 2 ^ 32, checkpointDue := false }

theorem ageingDecaf_margin {s : State} {n : Fin 13} (h : s.dies[n].exhausted = false) : ageingDecaf s n.val = s := by
  have hd : s.dies[n.val].exhausted = false := h
  rw [ageingDecaf, dies_getElem?]
  exact if_neg (by simp [hd])

theorem execAgeingCheckpointDue_early (hn : die.toNat = n.val)
    (hdue : ¬(s.dies[n].checkpointDue = true ∨ s.dies[n].lastHours + 168 ≤ hoursNow s)) (slack : BitVec 16) (ppm : BitVec 32) :
    execAgeingCheckpointDue die slack ppm s = .next s := by
  obtain ⟨hnot, hhours⟩ := not_or.mp hdue
  dsimp only [execAgeingCheckpointDue]
  rw [hn, dies_getElem?]
  exact next_if (.inr (.inr ⟨by simpa using hnot, Nat.lt_of_not_le hhours⟩))

/-- A checkpoint that is due waits for the core commands of its die (R453). -/
theorem execAgeingCheckpointDue_waits (hp : powered s = true) (hrun : s.life.running = true) (hn : die.toNat = n.val)
    (hdue : s.dies[n].checkpointDue = true ∨ s.dies[n].lastHours + 168 ≤ hoursNow s)
    (hheld : n.val < 8 ∧ coreCmdsOn s n.val = true) (slack : BitVec 16) (ppm : BitVec 32) :
    execAgeingCheckpointDue die slack ppm s = .next (modDie s n.val (fun x => { x with checkpointDue := true })) := by
  dsimp only [execAgeingCheckpointDue]
  rw [hn, dies_getElem?]
  dsimp only
  rw [if_neg (by simp [hp, hrun]; exact fun h => hdue.resolve_left (ne_true_of_eq_false h)), if_pos hheld]

/-- A checkpoint that is due, on a die that no core command holds and that keeps its margin, re-plans the die and writes the record. -/
theorem execAgeingCheckpointDue_replans (hp : powered s = true) (hrun : s.life.running = true) (hn : die.toNat = n.val)
    (hdue : s.dies[n].checkpointDue = true ∨ s.dies[n].lastHours + 168 ≤ hoursNow s)
    (hheld : ¬(n.val < 8 ∧ coreCmdsOn s n.val = true)) {slack : BitVec 16} {ppm : BitVec 32}
    (hmargin : (replan (decide (n.val < 8)) slack.toNat s.dies[n]).exhausted = false) :
    ∃ t, execAgeingCheckpointDue die slack ppm s = .next t ∧ t.dies[n] = checkpointed s n.val slack.toNat ppm.toNat s.dies[n]
      ∧ t.flash.ageing = some (ageingRecord t) ∧ (slack.toNat < 40 → t.aplic = s.aplic ||| 2) := by
  dsimp only [execAgeingCheckpointDue]
  rw [hn, dies_getElem?]
  dsimp only
  rw [if_neg (by simp [hp, hrun]; exact fun h => hdue.resolve_left (ne_true_of_eq_false h)), if_neg hheld]
  generalize hs1 : modDie s n.val _ = s1
  have hdie : s1.dies[n] = checkpointed s n.val slack.toNat ppm.toNat s.dies[n] := by
    rw [← hs1]
    exact (modDie_dies s n _).1
  have haplic : s1.aplic = s.aplic := by rw [← hs1]; simp
  have hdies (u : State) (h : u.dies = s1.dies) :
      (writeAgeing u).dies[n] = checkpointed s n.val slack.toNat ppm.toNat s.dies[n] := by
    rw [show (writeAgeing u).dies = s1.dies from h, hdie]
  have hkeep (u : State) (h : u.dies = s1.dies) : ageingDecaf (writeAgeing u) n.val = writeAgeing u :=
    ageingDecaf_margin (by rw [hdies u h]; exact hmargin)
  split
  · have hsame : (raiseAplic (logError s1 0 n.val 0x0803 0xFF 0xFFFF 0 0 slack.toNat) 1).dies = s1.dies := by simp
    rw [hkeep _ hsame]
    refine ⟨_, rfl, hdies _ hsame, writeAgeing_record _, fun _ => ?_⟩
    simp only [writeAgeing, raiseAplic_one, logError_frame, haplic]
  · rw [hkeep _ rfl]
    exact ⟨_, rfl, hdies _ rfl, writeAgeing_record _, fun h => absurd h ‹_›⟩

theorem execSlackAlarm_notes (hp : powered s = true) (hn : die.toNat = n.val) {slack : BitVec 16} (h : 10 ≤ slack.toNat) :
    execSlackAlarm die slack s = .next (modDie s n.val (fun x => { x with slack := min x.slack slack.toNat, minSlack := min x.minSlack slack.toNat })) := by
  unfold execSlackAlarm
  dsimp only
  rw [if_neg (by simp [hp]), if_pos (.inl h), hn]

/-- Live slack below 10 ps lowers a compute die's ceiling at once (R453). -/
theorem execSlackAlarm_lowers (hp : powered s = true) (hrun : s.life.running = true) (hn : die.toNat = n.val) {slack : BitVec 16}
    (h : slack.toNat < 10) (h8 : n.val < 8) (hex : s.dies[n].exhausted = false) (hceil : 300 ≤ s.dies[n].ageCeil) :
    ∃ t, execSlackAlarm die slack s = .next t ∧ t.dies[n] = { s.dies[n] with
      slack := min s.dies[n].slack slack.toNat, minSlack := min s.dies[n].minSlack slack.toNat, ageCeil := s.dies[n].ageCeil - 100 } := by
  unfold execSlackAlarm
  dsimp only
  rw [hn, if_neg (by simp [hp]), if_neg (by simp [hrun]; omega), if_neg (by omega)]
  generalize hs1 : modDie s n.val _ = s1
  have hdie : s1.dies[n] = { s.dies[n] with slack := min s.dies[n].slack slack.toNat, minSlack := min s.dies[n].minSlack slack.toNat } := by
    rw [← hs1]
    exact (modDie_dies s n _).1
  generalize hs2 : modDie (logError s1 0 n.val 0x0803 0xFF 0xFFFF 0 0 slack.toNat) n.val _ = s2
  have hlast : s2.dies[n] = { s.dies[n] with
      slack := min s.dies[n].slack slack.toNat, minSlack := min s.dies[n].minSlack slack.toNat, ageCeil := s.dies[n].ageCeil - 100 } := by
    rw [← hs2, (modDie_dies _ n _).1]
    simp only [logError_frame, hdie]
    exact if_neg (by omega)
  refine ⟨s2, ?_, hlast⟩
  rw [ageingDecaf_margin (by rw [hlast]; exact hex)]

end

/-- Settles O58: each event of power, temperature and ageing by the lemma about its command, and none of them without power. -/
theorem powerThermalAgeing : Obligations.PowerThermalAgeing := by
  intro s mv ma reverse avg proj watts tenths slack ppm die n w mw d cap temp sl sample off limit held due
  have hoff : off (powerOff s) := by
    obtain ⟨hpow, hstop, hmem, -, -, -⟩ := powerOff_lost s
    exact ⟨hpow, hstop, hmem, (powerOff_kept s).1, powerOff_ageing s⟩
  refine ⟨fun hp => ⟨fun hlow hr hb => ?steady, fun hsag hlow hr hrun hahead => ?sag, fun hmp hb hs => next_if ⟨hmp, hb, hs⟩,
    fun hb => next_else fun h => hb h.2.1, fun hb hs => ⟨_, next_if ⟨hp, hb, hs⟩, hoff⟩, fun hb => next_else fun h => hb h.2.1, ?limit, ?loop,
    fun _ havg hproj => stepPowerCeil_raised havg hproj _, fun _ hproj => stepPowerCeil_lowered hproj _ _, fun hd ht => ?trip, fun hn ht => ?heat,
    fun hn => ?cooling, fun hrun hn => ⟨fun hdue hheld => ?waits, fun hdue => ?early, fun hdue hheld hex hceil hroom => ?replans,
      fun hdue hheld h8 hex hvoff hsl hceil => ?spent, fun hs => execSlackAlarm_notes hp hn hs,
      fun hs h8 hex hceil => execSlackAlarm_lowers hp hrun hn hs h8 hex hceil⟩,
    fun hrun => ⟨next_if ⟨hp, hrun⟩, next_if ⟨hp, hrun⟩⟩⟩, fun hp => ?unpowered⟩
  case steady =>
    subst hr
    obtain ⟨l, ht, h1, h2⟩ := execPwrSample_steady hp (by omega) hb ma
    refine ⟨_, ht, rfl, rfl, rfl, rfl, rfl, rfl, h1, h2, ?_, ?_, rfl, rfl, rfl⟩
    · simp [samplePower, inputBand_under, w, mw]
    · simp [samplePower, inputBand_above, w, mw]
  case sag =>
    subst hr
    exact execPwrSample_sag hp hlow hsag hrun hahead ma
  case limit =>
    obtain ⟨hpower, hchanged, hsame⟩ := noteCap_spec { s with power := { s.power with pldmCap := sourceCap s.power.strapCap watts.toNat } } cap
    refine ⟨_, next_if hp, ?_⟩
    rw [hpower]
    exact ⟨rfl, hchanged, fun h => by rw [hsame h]; exact ⟨rfl, rfl⟩⟩
  case loop =>
    obtain ⟨t, ht, hfirst, hdies⟩ := execBudgetLoopStep_dies hp avg proj
    obtain ⟨hpower, hthermal, hage, hvoff, hbudget, hchanges⟩ := budgeted_spec (coolProfile s.power.coolStrap).2.1 (!s.power.firstLoop)
      (stepped (appliedCap s.power) avg.toNat proj.toNat s.dies[n])
    have hx := hdies n
    by_cases h8 : n.val < 8
    · rw [if_pos h8] at hx
      refine ⟨t, ht, ?_⟩
      simp only [hx, hpower, hthermal, hage, hvoff, hbudget, hchanges]
      exact ⟨fun _ => ⟨rfl, rfl, rfl, if_congr (and_congr Iff.rfl (by simp [w])) rfl rfl⟩, fun h => absurd h8 (by omega), rfl, rfl, hfirst⟩
    · rw [if_neg h8] at hx
      refine ⟨t, ht, ?_⟩
      rw [hx]
      exact ⟨fun h => absurd h h8, fun _ => rfl, rfl, rfl, hfirst⟩
  case trip => exact ⟨_, execThermalSample_trips hp hd ht, hoff, rfl⟩
  case heat =>
    obtain ⟨hdie, hother⟩ := modDie_dies s n (heated n.val temp (aonNow s))
    refine ⟨_, execThermalSample_heats hp hn ht, ?_⟩
    rw [hdie]
    exact ⟨rfl, by simp [heated], by simp [heated, and_assoc, d], hother, by simp [w]⟩
  case cooling => exact execCoolingLost_eq hn
  case waits => exact execAgeingCheckpointDue_waits hp hrun hn hdue hheld ..
  case early => exact execAgeingCheckpointDue_early hn hdue ..
  case replans =>
    have hplan := replan_room (compute := decide (n.val < 8)) (slack := sl) hex (hceil.imp_right fun h => decide_eq_false (by omega)) hroom
    obtain ⟨t, ht, hdie, hrecord, haplic⟩ := execAgeingCheckpointDue_replans (ppm := ppm) hp hrun hn hdue hheld (by rw [hplan]; exact hex)
    exact ⟨t, ht, by rw [hdie, checkpointed, hplan], hrecord, haplic⟩
  case spent =>
    have hplan : replan (decide (n.val < 8)) sl d = { d with ageCeil := d.ageCeil - 200 } := by
      rw [decide_eq_true h8, replan_spent hex hvoff hsl hceil]
    obtain ⟨t, ht, hdie, -⟩ := execAgeingCheckpointDue_replans (ppm := ppm) hp hrun hn hdue hheld (by rw [hplan]; exact hex)
    refine ⟨t, ht, ?_⟩
    rw [hdie, checkpointed, hplan]
    exact ⟨hvoff, rfl, hex⟩
  case unpowered =>
    have hmp : mpRuns s = false := by simp [mpRuns, hp]
    exact ⟨next_if (by simp [hp]), next_else (by simp [hmp]), next_else (by simp [hp]), next_else (by simp [hp]), next_if (by simp [hp]),
      next_if (by simp [hp]), next_else (by simp [hp]), next_else (by simp [hp])⟩

end Sys2Proof.Machine
end


section
/-! ### Placement regions (R383 to R388) -/

namespace Sys2Proof.Machine

variable {s t : State} {n i : Nat}

/-! #### What leaves a region as it is -/

theorem regionAt_congr (h : t.funcs = s.funcs) (n i : Nat) : regionAt t n i = regionAt s n i := by rw [regionAt, funcAt_congr h, regionAt]

theorem regionAt_modFunc (s : State) (n i : Nat) {g : Func → Func} (hg : ∀ f, (g f).regions = f.regions) :
    regionAt (modFunc s n g) n i = regionAt s n i := by
  cases hf : funcAt s n with
  | none => simp only [regionAt, funcAt, modFunc, mapGet_mapModify_same, show mapGet s.funcs n = none from hf, Option.map_none]
  | some f => simp only [regionAt, hf, funcAt_modFunc hf, Option.bind_some, hg]

theorem regionAt_modRegion (s : State) (n i : Nat) (g : Placement → Placement) :
    regionAt (modRegion s n i g) n i = (regionAt s n i).map g := by
  cases hf : funcAt s n with
  | none => simp [regionAt, modRegion, funcAt, modFunc, mapGet_mapModify_same, show mapGet s.funcs n = none from hf]
  | some f => simp only [regionAt, modRegion, funcAt_modFunc hf, hf, Option.bind_some, mapGet_mapModify_same]

theorem regionAt_sendMsix (s : State) (n entry i : Nat) : regionAt (sendMsix s n entry) n i = regionAt s n i := by
  cases hf : funcAt s n with
  | none => simp only [sendMsix, hf]
  | some f =>
    obtain ⟨pba, hpba⟩ := funcAt_sendMsix hf entry
    simp only [regionAt, hpba, hf, Option.bind_some]

theorem regionAt_logError (s : State) (cls die code part queue status addr detail n i : Nat) :
    regionAt (logError s cls die code part queue status addr detail) n i = regionAt s n i :=
  regionAt_congr (by simp only [logError_frame]) n i

theorem dropPlacement_mem (s : State) (n i : Nat) (isWrite : Bool) : (dropPlacement s n i isWrite).mem = s.mem := rfl

/-! #### Writes, the reserve log, withdrawal and closing -/

theorem directWrite_mem (s : State) (a : Nat) (bs : List Byte) : (directWrite s a bs).mem = memPutBytes s.mem a bs := clearPoison_mem ..

theorem regionAt_directWrite (s : State) (a : Nat) (bs : List Byte) (n i : Nat) : regionAt (directWrite s a bs) n i = regionAt s n i :=
  regionAt_congr (clearPoison_memOnly ..).funcs n i

/-- The log entry of a write (R386). -/
def logEntry (off : Nat) (bs : List Byte) (seq : Nat) : List Byte :=
  pad64 (natToBytes 8 off ++ natToBytes 4 bs.length ++ natToBytes 4 seq ++ bs)

variable {r : Placement}

theorem logPlacement_fits (hr : regionAt s n i = some r) {off : Nat} {bs : List Byte}
    (hfit : r.logUsed + (logEntry off bs r.seq).length ≤ r.logBytes) :
    (logPlacement s n i off bs).mem = memPutBytes s.mem (r.log + r.logUsed) (logEntry off bs r.seq)
    ∧ (regionAt (logPlacement s n i off bs) n i).map (fun x => (x.state, x.cause, x.logUsed))
        = some (r.state, r.cause, r.logUsed + (logEntry off bs r.seq).length) := by
  rw [logEntry] at *
  simp only [logPlacement, hr, if_pos hfit, regionAt_modRegion, regionAt_directWrite, Option.map_some, and_true]
  exact directWrite_mem ..

theorem logPlacement_full (hr : regionAt s n i = some r) {off : Nat} {bs : List Byte}
    (hfull : r.logBytes < r.logUsed + (logEntry off bs r.seq).length) :
    logPlacement s n i off bs = closeRegion (dropPlacement s n i true) n i := by
  rw [logEntry] at hfull
  simp only [logPlacement, hr, if_neg (Nat.not_le.mpr hfull)]

theorem regionAt_dropPlacement (hr : regionAt s n i = some r) (isWrite : Bool) :
    regionAt (dropPlacement s n i isWrite) n i
      = some { r with dropped := r.dropped + 1, droppedSince := r.droppedSince || isWrite } := by
  rw [dropPlacement, regionAt_modRegion]
  exact congrArg (Option.map _) ((regionAt_modFunc s n i (g := fun f => { f with placeDropped := f.placeDropped + 1 }) fun _ => rfl).trans hr)

/-- A region that keeps its granules when it closes. -/
theorem closeRegion_kept (hr : regionAt s n i = some r) (hkeeps : r.cause.frees = false) :
    (closeRegion s n i).mem = s.mem ∧ (regionAt (closeRegion s n i) n i).map (·.state) = some .closed := by
  simp only [closeRegion, hr, hkeeps, Bool.false_eq_true, if_false]
  split
  next hclosed => exact ⟨rfl, by rw [hr, Option.map_some, hclosed]⟩
  next =>
    rw [regionAt_sendMsix, regionAt_modRegion, hr]
    exact ⟨by simp only [sendMsix_frame, modRegion_frame], rfl⟩

theorem scrubRange_funcs (s : State) (a n : Nat) : (scrubRange s a n).funcs = s.funcs := by
  rw [scrubRange, (clearPoison_memOnly ..).funcs]
  exact (discardRange_memOnly ..).funcs

theorem regionAt_freeRegion {f : Func} (hf : funcAt s n = some f) (hw : mapWf f.regions = true) : regionAt (freeRegion s n i) n i = none := by
  cases hr : regionAt s n i with
  | none => rw [freeRegion, hr]; exact hr
  | some r =>
    simp only [freeRegion, hr]
    rw [regionAt, funcAt_modFunc (f := f), Option.bind_some]
    · exact mapGet_mapErase_same i hw
    · split
      · rw [funcAt_congr (scrubRange_funcs ..), funcAt_congr (scrubRange_funcs ..), hf]
      · exact hf

/-- A region whose cause frees it is gone when it closes. -/
theorem closeRegion_freed {f : Func} (hf : funcAt s n = some f) (hw : mapWf f.regions = true) (hr : regionAt s n i = some r)
    (hfrees : r.cause.frees = true) : regionAt (closeRegion s n i) n i = none := by
  simp only [closeRegion, hr, hfrees, if_true]
  split
  · exact regionAt_freeRegion hf hw
  · obtain ⟨pba, hpba⟩ := funcAt_sendMsix (funcAt_modFunc hf fun x => { x with regions := mapModify x.regions i fun y => { y with state := .closed } })
      r.vector
    exact regionAt_freeRegion hpba (mapModify_wf i _ hw)

/-- An open region withdrawn because it is full. -/
theorem withdrawRegion_full (hr : regionAt s n i = some r) (hopen : r.state = .open) :
    (withdrawRegion s n i .full).mem = s.mem
    ∧ regionAt (withdrawRegion s n i .full) n i = some { r with state := .runout, cause := .full, since := aonNow s, seq := 0 } := by
  simp only [withdrawRegion, hr, PlaceCause.frees, Bool.false_eq_true, and_false, if_false]
  constructor
  · simp only [logError_frame, sendMsix_frame, modRegion_frame]
  · rw [regionAt_logError, regionAt_sendMsix, regionAt_modRegion, hr, Option.map_some, hopen]
    rfl

/-! #### A placement write -/

/-- Whether a region takes a write of a requester on an IDE stream (R384, R390). -/
def Placement.permits (s : State) (r : Placement) (requester stream : Nat) : Prop :=
  r.requesters.contains requester = true ∧ (r.stream = 0xFF ∨ (r.stream = stream ∧ streamSecure s r.stream = true))

section
variable {off requester stream : Nat} {bs : List Byte}

/-- The model's test is that of R384 and R390. -/
theorem permitted_iff : (r.requesters.contains requester && (decide (r.stream = 0xFF) || (decide (some stream = some r.stream) && streamSecure s r.stream)))
    = true ↔ r.permits s requester stream := by
  rw [Placement.permits, Bool.and_eq_true, Bool.or_eq_true, Bool.and_eq_true, decide_eq_true_eq, decide_eq_true_eq, Option.some.injEq,
    eq_comm (a := stream)]

theorem placeWrite_refused (hr : regionAt s n i = some r) (hno : ¬ r.permits s requester stream) :
    placeWrite s n i off requester (some stream) bs = dropPlacement s n i true := by
  simp only [placeWrite, hr]
  rw [Bool.eq_false_iff.mpr fun h => hno (permitted_iff.mp h), Bool.not_false, if_pos rfl]

theorem placeWrite_open (hr : regionAt s n i = some r) (hok : r.permits s requester stream) (hopen : r.state = .open)
    (hfit : off + bs.length ≤ r.limit) :
    (placeWrite s n i off requester (some stream) bs).mem = memPutBytes s.mem (r.base + off) bs
    ∧ (regionAt (placeWrite s n i off requester (some stream) bs) n i).map (fun x => (x.state, x.placed))
        = some (.open, bump r.placed bs.length) := by
  simp only [placeWrite, hr, permitted_iff.mpr hok, hopen, Bool.not_true, Bool.false_eq_true, if_false, if_pos hfit,
    regionAt_modRegion, regionAt_directWrite, Option.map_some, and_true]
  exact directWrite_mem ..

/-- The first write beyond the limit withdraws the region and starts its log (R385). -/
theorem placeWrite_beyond (hr : regionAt s n i = some r) (hok : r.permits s requester stream) (hopen : r.state = .open)
    (hover : r.limit < off + bs.length) (hfit : r.logUsed + (logEntry off bs 0).length ≤ r.logBytes) :
    (placeWrite s n i off requester (some stream) bs).mem = memPutBytes s.mem (r.log + r.logUsed) (logEntry off bs 0)
    ∧ (regionAt (placeWrite s n i off requester (some stream) bs) n i).map (fun x => (x.state, x.cause, x.logUsed))
        = some (.runout, .full, r.logUsed + (logEntry off bs 0).length) := by
  obtain ⟨hmem, hregion⟩ := withdrawRegion_full hr hopen
  simp only [placeWrite, hr, permitted_iff.mpr hok, hopen, Bool.not_true, Bool.false_eq_true, if_false, if_neg (Nat.not_le.mpr hover), ← hmem]
  exact logPlacement_fits hregion hfit

theorem placeWrite_runout (hr : regionAt s n i = some r) (hok : r.permits s requester stream) (hrun : r.state = .runout) :
    placeWrite s n i off requester (some stream) bs = logPlacement s n i off bs := by
  simp only [placeWrite, hr, permitted_iff.mpr hok, hrun, Bool.not_true, Bool.false_eq_true, if_false]

theorem placeWrite_closed (hr : regionAt s n i = some r) (hok : r.permits s requester stream) (hclosed : r.state = .closed) :
    placeWrite s n i off requester (some stream) bs = dropPlacement s n i true := by
  simp only [placeWrite, hr, permitted_iff.mpr hok, hclosed, Bool.not_true, Bool.false_eq_true, if_false]

/-- A write into the run-out of a region that keeps its granules, beyond its log, closes the region and is lost. -/
theorem logPlacement_closes (hr : regionAt s n i = some r) (hkeeps : r.cause.frees = false)
    (hfull : r.logBytes < r.logUsed + (logEntry off bs r.seq).length) :
    (logPlacement s n i off bs).mem = s.mem ∧ (regionAt (logPlacement s n i off bs) n i).map (·.state) = some .closed := by
  rw [logPlacement_full hr hfull]
  exact closeRegion_kept (regionAt_dropPlacement hr true) hkeeps

end
end Sys2Proof.Machine
end

section
/-! ### Writes through a BAR2 window (R205, R367, R370) -/

namespace Sys2Proof.Machine

variable {s : State} {n a : Nat} {f : Func} {bs : List Byte}

/-- The marks that follow a write change no function. -/
theorem touched_funcs (h : NoRelayout s n) (a k : Nat) : (restartTouched (markExternal s n a k) n a k).funcs = s.funcs := by
  have hstill : NoRelayout (markExternal s n a k) n := by rwa [NoRelayout, markExternal_job]
  rw [restartTouched_noRelayout hstill, (markExternal_leaves s n a k).2]

/-- A write that touches no slot array is one of memory. -/
theorem hostMemWrite_plain (hplain : f.slotSets.any (fun e => decide (e.2.array < a + bs.length ∧ a < e.2.array + 8 * e.2.slots)) = false)
    (hstill : NoRelayout s n) (hq : Quiet s n a bs.length) : (hostMemWrite s n f a bs).mem = memPutBytes s.mem a bs := by
  have hstill' : NoRelayout (cohWrite s a bs) n := hstill.congr (cohWrite_memOnly ..).partitions
  simp only [hostMemWrite, hplain, Bool.false_eq_true, if_false]
  rw [(touched_leaves hstill' ..).1, (cohWrite_unheld hq.unheld).1]

/-! #### Ownership words (Table 12-6) -/

/-- A word changes if it stays the same, or goes from HOST to DEVICE or RETIRED with its tag kept. -/
def OwnerMoves (cur new : Nat) : Prop :=
  new = cur ∨ (cur % 256 = 1 ∧ (new % 256 = 2 ∨ new % 256 = 3) ∧ new / 256 % 256 = 0 ∧ new / 65536 = cur / 65536)

theorem cp32At_lt {off v : Nat} (h : cp32At bs off = some v) : v < 2 ^ 32 := by
  obtain ⟨w, -, rfl⟩ := Option.map_eq_some_iff.mp h
  exact w.isLt

theorem ownerWriteOk_iff {new cur : Nat} (hnew : cp32At bs 0 = some new) (hcur : cp32At (cohRead s a 8) 0 = some cur) :
    ownerWriteOk s a bs = true ↔ OwnerMoves cur new := by
  have hn := cp32At_lt hnew
  have hc := cp32At_lt hcur
  simp only [ownerWriteOk, hnew, hcur, OwnerMoves, natField, Nat.shiftRight_eq_div_pow, Bool.or_eq_true, Bool.and_eq_true, beq_iff_eq]
  omega

theorem ownerWriteOk_invalid (hnew : cp32At bs 0 = none) : ownerWriteOk s a bs = false := by
  simp only [ownerWriteOk, hnew]

theorem near_of_slotArrayAt {x k : Nat} (h : slotArrayAt f a = some x) (hk : 0 < k) :
    f.slotSets.any (fun e => decide (e.2.array < a + k ∧ a < e.2.array + 8 * e.2.slots)) = true := by
  obtain ⟨e, he, -⟩ := Option.map_eq_some_iff.mp h
  have hin := List.find?_some he
  rw [decide_eq_true_eq] at hin
  exact List.any_eq_true.mpr ⟨e, List.mem_of_find?_eq_some he, decide_eq_true ⟨by omega, hin.2⟩⟩

/-- An aligned write of one ownership word is made or rejected as a whole. -/
theorem hostWords_slot (hslot : slotArrayAt f a = some a) (halign : a % 8 = 0) (hlen : bs.length = 8) :
    hostWords n (bs.length / 8 + 2) s f a bs
      = if ownerWriteOk s a bs = true then cohWrite s a bs else modFunc s n (fun g => { g with ownRejected := g.ownRejected + 1 }) := by
  have hne : bs.isEmpty = false := by
    cases bs with
    | nil => exact absurd hlen (by decide)
    | cons b bs => rfl
  have hdone (u : State) : hostWords n 2 u f (a + 8) [] = u := rfl
  rw [hlen, show 8 / 8 + 2 = 2 + 1 from rfl, hostWords]
  simp only [hne, Bool.false_eq_true, if_false, hlen, halign, Nat.sub_zero, Nat.min_self, hslot, true_and,
    List.take_of_length_le (Nat.le_of_eq hlen), List.drop_of_length_le (Nat.le_of_eq hlen)]
  exact hdone _

/-- A write of an ownership word that Table 12-6 allows. -/
theorem hostMemWrite_owner (hslot : slotArrayAt f a = some a) (halign : a % 8 = 0) (hlen : bs.length = 8) (hstill : NoRelayout s n)
    (hq : Quiet s n a bs.length) (hok : ownerWriteOk s a bs = true) : (hostMemWrite s n f a bs).mem = memPutBytes s.mem a bs := by
  have hstill' : NoRelayout (cohWrite s a bs) n := hstill.congr (cohWrite_memOnly ..).partitions
  simp only [hostMemWrite, near_of_slotArrayAt hslot hq.nonempty, if_true, hostWords_slot hslot halign hlen, hok]
  rw [(touched_leaves hstill' ..).1, (cohWrite_unheld hq.unheld).1]

/-- Any other is dropped and counted. -/
theorem hostMemWrite_rejected (hf : funcAt s n = some f) (hslot : slotArrayAt f a = some a) (halign : a % 8 = 0) (hlen : bs.length = 8)
    (hstill : NoRelayout s n) (hno : ownerWriteOk s a bs = false) :
    (hostMemWrite s n f a bs).mem = s.mem ∧ (funcAt (hostMemWrite s n f a bs) n).map (·.ownRejected) = some (f.ownRejected + 1) := by
  have hstill' : NoRelayout (modFunc s n fun g => { g with ownRejected := g.ownRejected + 1 }) n := hstill
  simp only [hostMemWrite, near_of_slotArrayAt hslot (by omega : 0 < bs.length), if_true, hostWords_slot hslot halign hlen, hno,
    Bool.false_eq_true, if_false]
  refine ⟨(touched_leaves hstill' ..).1, ?_⟩
  rw [funcAt_congr (touched_funcs hstill' ..), funcAt_modFunc hf, Option.map_some]

end Sys2Proof.Machine
end

section
/-! ### Windows and placement (R367, R370, R383 to R387) -/

namespace Sys2Proof.Machine

variable {s : State} {fn : BitVec 4} {f : Func}

/-! #### Requests to BAR2 -/

section
variable (hlink : linkServes s = true) (hf : funcAt s fn.toNat = some f)
include hlink hf

section
variable {req : BitVec 16} {off : BitVec 36} {len : BitVec 13} (hlen : len ≠ 0)
include hlen

theorem exec_bar2Read_unmapped (h : windowHit s f off.toNat = .unmapped) :
    exec (.bar2Read fn req off len) s = .next (complete (countUnmapped s fn.toNat) 1 []) := by
  have hlen' : len.toNat ≠ 0 := fun h0 => hlen (BitVec.eq_of_toNat_eq h0)
  show execBar2Read fn req off len s = _
  simp only [execBar2Read, hlink, hlen', hf, h, Bool.not_true, Bool.false_eq_true, or_self, if_false]

theorem exec_bar2Read_placement {r o : Nat} (h : windowHit s f off.toNat = .placement r o) :
    exec (.bar2Read fn req off len) s = .next (complete (dropPlacement s fn.toNat r false) 1 []) := by
  have hlen' : len.toNat ≠ 0 := fun h0 => hlen (BitVec.eq_of_toNat_eq h0)
  show execBar2Read fn req off len s = _
  simp only [execBar2Read, hlink, hlen', hf, h, Bool.not_true, Bool.false_eq_true, or_self, if_false]

theorem exec_bar2Read_memory {a : Nat} (h : windowHit s f off.toNat = .memory a) (hq : Quiet s fn.toNat a len.toNat) :
    exec (.bar2Read fn req off len) s = .next (complete s 0 (memBytes s.mem a len.toNat)) := by
  have hlen' : len.toNat ≠ 0 := fun h0 => hlen (BitVec.eq_of_toNat_eq h0)
  show execBar2Read fn req off len s = _
  simp only [execBar2Read, hlink, hlen', hf, h, hq.sound, cohRead_unheld hq.unheld, Bool.not_true, Bool.false_eq_true, or_self, if_false]

end

section
variable {req : BitVec 16} {off : BitVec 36} {bs : List Byte} (hbs : bs ≠ [])
include hbs

theorem exec_bar2Write_unmapped (h : windowHit s f off.toNat = .unmapped) :
    exec (.bar2Write fn req off bs) s = .next (countUnmapped s fn.toNat) := by
  show execBar2Write fn req off bs s = _
  simp only [execBar2Write, hlink, List.isEmpty_iff, hbs, hf, h, Bool.not_true, Bool.false_eq_true, or_self, if_false]

theorem exec_bar2Write_memory {a : Nat} (h : windowHit s f off.toNat = .memory a) :
    exec (.bar2Write fn req off bs) s = .next (hostMemWrite s fn.toNat f a bs) := by
  show execBar2Write fn req off bs s = _
  simp only [execBar2Write, hlink, List.isEmpty_iff, hbs, hf, h, Bool.not_true, Bool.false_eq_true, or_self, if_false]

end

section
variable {req : BitVec 16} {off : BitVec 36} {stream : BitVec 3} {bs : List Byte} {i o : Nat} (h : windowHit s f off.toNat = .placement i o)
include h

theorem exec_placementWrite :
    exec (.placementWrite fn off req stream 0 bs) s = .next (placeWrite s fn.toNat i o req.toNat (some stream.toNat) bs) := by
  show execPlacementWrite fn off req stream 0 bs s = _
  simp only [execPlacementWrite, hlink, hf, h, Bool.not_true, Bool.false_eq_true, if_false, if_true]

theorem exec_placementWrite_nonposted {kind : BitVec 2} (hkind : kind = 1 ∨ kind = 2) :
    exec (.placementWrite fn off req stream kind bs) s = .next (complete (dropPlacement s fn.toNat i false) 1 []) := by
  have hkind0 : kind ≠ 0 := by rcases hkind with rfl | rfl <;> decide
  show execPlacementWrite fn off req stream kind bs s = _
  simp only [execPlacementWrite, hlink, hf, h, hkind, hkind0, Bool.not_true, Bool.false_eq_true, if_false, if_true]

end
end

/-! #### The end of a run-out -/

section
variable {region : BitVec 6} {r : Placement} (hr : regionAt s fn.toNat region.toNat = some r)
include hr

theorem exec_runoutCloseTimer_due (hrun : r.state = .runout) (hcause : r.cause ≠ .full) (hdue : 250000 ≤ aonSince s r.since) :
    exec (.runoutCloseTimer fn region) s = .next (closeRegion s fn.toNat region.toNat) := by
  show execRunoutCloseTimer fn region s = _
  simp only [execRunoutCloseTimer, hr]
  exact next_if ⟨hrun, hcause, hdue⟩

theorem exec_runoutCloseTimer_stays (h : r.state ≠ .runout ∨ r.cause = .full) : exec (.runoutCloseTimer fn region) s = .next s := by
  show execRunoutCloseTimer fn region s = _
  simp only [execRunoutCloseTimer, hr]
  exact next_else fun ⟨hrun, hcause, _⟩ => h.elim (· hrun) hcause

/-- A region that filled up opens again; any other stays as it is (R387). -/
theorem regionAt_reopenRegion : regionAt (reopenRegion s fn.toNat region.toNat) fn.toNat region.toNat
    = some (if (r.state = .runout ∨ r.state = .closed) ∧ r.cause = .full then { r with state := .open, cause := .none, logUsed := 0, seq := 0 }
        else r) := by
  rw [reopenRegion, regionAt_modRegion, hr, Option.map_some]

end

/-- Settles O47: a request goes by what its granule is, a placement write by its region's state. -/
theorem windowsAndPlacement : Obligations.WindowsAndPlacement := by
  unfold Obligations.WindowsAndPlacement
  intro s fn req off f n hit unmapped hlink hf
  refine ⟨fun len hlen => ⟨exec_bar2Read_unmapped hlink hf hlen, fun a => exec_bar2Read_memory hlink hf hlen,
    fun r o => exec_bar2Read_placement hlink hf hlen⟩, fun bs hbs => ⟨exec_bar2Write_unmapped hlink hf hbs, fun a ha hok hstill hq => ⟨?_, ?_⟩⟩,
    fun stream bs i o r hi hr hok => ?_, fun region r hr => ?_⟩
  · intro hplain
    refine ⟨_, exec_bar2Write_memory hlink hf hbs ha, ?_⟩
    rw [hostMemWrite_plain hplain hstill hq]
    exact memPutBytes_range (memWf_of_memOk hok) rfl
  · intro halign hlen hslot
    refine ⟨_, exec_bar2Write_memory hlink hf hbs ha, fun new cur hnew hcur => ?_, fun hnone =>
      hostMemWrite_rejected hf hslot halign hlen hstill (ownerWriteOk_invalid hnone)⟩
    have hiff := ownerWriteOk_iff hnew (a := a) (s := s) (by rwa [cohRead_unheld (hlen ▸ hq.unheld)])
    split
    next hmoves =>
      rw [hostMemWrite_owner hslot halign hlen hstill hq (hiff.mpr hmoves)]
      exact (memPutBytes_range (memWf_of_memOk hok) hlen).1
    next hstays => exact hostMemWrite_rejected hf hslot halign hlen hstill (Bool.eq_false_iff.mpr fun h => hstays (hiff.mp h))
  · intro place ok entry logs
    have hplace : place = .next (placeWrite s n i o req.toNat (some stream.toNat) bs) := exec_placementWrite hlink hf hi
    have hwf := memWf_of_memOk hok
    refine ⟨fun hno => hplace.trans (congrArg _ (placeWrite_refused hr hno)), fun hp hopen hfit => ?_, fun hp hopen hover hfit => ?_,
      fun hp hrun hfit => ?_, fun hp hrun hfull hkeeps => ?_,
      fun hp hclosed => hplace.trans (congrArg _ (placeWrite_closed hr hp hclosed)), fun kind => exec_placementWrite_nonposted hlink hf hi⟩
    · obtain ⟨hmem, hregion⟩ := placeWrite_open (off := o) (bs := bs) hr hp hopen hfit
      obtain ⟨hdata, hframe⟩ := memPutBytes_range (a := r.base + o) (bs := bs) hwf rfl
      exact ⟨_, hplace, hmem ▸ hdata, hmem ▸ hframe, hregion⟩
    · obtain ⟨hmem, hregion⟩ := placeWrite_beyond (off := o) (bs := bs) hr hp hopen hover hfit
      obtain ⟨hdata, hframe⟩ := memPutBytes_range (a := r.log + r.logUsed) (bs := logEntry o bs 0) hwf rfl
      exact ⟨_, hplace, hmem ▸ hdata, hmem ▸ hframe, hregion⟩
    · obtain ⟨hmem, hregion⟩ := logPlacement_fits (off := o) (bs := bs) hr hfit
      obtain ⟨hdata, hframe⟩ := memPutBytes_range (a := r.log + r.logUsed) (bs := logEntry o bs r.seq) hwf rfl
      rw [placeWrite_runout hr hp hrun] at hplace
      exact ⟨_, hplace, hmem ▸ hdata, hmem ▸ hframe, hrun ▸ hregion⟩
    · rw [placeWrite_runout hr hp hrun] at hplace
      exact ⟨_, hplace, logPlacement_closes hr hkeeps hfull⟩
  · refine ⟨fun hrun hcause hdue => ⟨_, exec_runoutCloseTimer_due hr hrun hcause hdue, fun hkeeps => (closeRegion_kept hr hkeeps).2,
      fun hfrees hwf => closeRegion_freed hf hwf hr hfrees⟩, exec_runoutCloseTimer_stays hr, fun hcause hstate => ⟨_, rfl, rfl, ?_⟩,
      fun hno => ⟨_, rfl, ?_, rfl⟩⟩
    · rw [regionAt_reopenRegion hr, if_pos ⟨hstate, hcause⟩]
    · rw [regionAt_reopenRegion hr, if_neg fun ⟨hstate, hcause⟩ => hno.elim (· hcause) fun ⟨hr1, hr2⟩ => hstate.elim hr1 hr2]

end Sys2Proof.Machine
end


section
/-! ### What a commit leaves to its queue, its function and its partition (R409, R411) -/

namespace Sys2Proof.Machine

/-- What a commit changes of a queue. -/
def Queue.tally (x : Queue) : List Cmd × Word64 × Word64 := (x.cmds, x.accCommits, x.accEnded)

/-- What a commit changes of its partition. -/
def Partition.tally (y : Partition) : Word64 × SMap Word64 := (y.commitSeq, y.signals)

/-- From s to t no partition's commit_seq or signals change, no function's FN_FLUSH, and no queue's commands and their counts. -/
structure CommitsKept (s t : State) : Prop where
  parts : ∀ p, (partAt t p).map (·.tally) = (partAt s p).map (·.tally)
  flush : ∀ n, (funcAt t n).map (·.flush) = (funcAt s n).map (·.flush)
  queues : ∀ q, (queueAt t q).map (·.tally) = (queueAt s q).map (·.tally)

namespace CommitsKept

theorem of_eq {s t : State} (hp : t.partitions = s.partitions) (hf : t.funcs = s.funcs) (hq : t.queues = s.queues) : CommitsKept s t :=
  ⟨fun p => by rw [partAt, hp, partAt], fun n => by rw [funcAt_congr hf], fun q => by rw [queueAt, hq, queueAt]⟩

theorem refl (s : State) : CommitsKept s s := of_eq rfl rfl rfl

theorem trans {s t u : State} (a : CommitsKept s t) (b : CommitsKept t u) : CommitsKept s u :=
  ⟨fun p => (b.parts p).trans (a.parts p), fun n => (b.flush n).trans (a.flush n), fun q => (b.queues q).trans (a.queues q)⟩

theorem ite {s t u : State} {c : Prop} [Decidable c] (ht : CommitsKept s t) (hu : CommitsKept s u) : CommitsKept s (if c then t else u) := by
  split
  · exact ht
  · exact hu

theorem foldl {α : Type} {f : State → α → State} (h : ∀ t x, CommitsKept t (f t x)) (l : List α) (s : State) :
    CommitsKept s (l.foldl f s) := by
  induction l generalizing s with
  | nil => exact refl s
  | cons x l ih => exact (h s x).trans (ih (f s x))

end CommitsKept

theorem MemOnly.commitsKept {s t : State} (h : MemOnly s t) : CommitsKept s t := .of_eq h.partitions h.funcs h.queues

/-- A value of an entry that a change of one entry leaves alone, at every key. -/
theorem mapGet_mapModify_map {α β : Type} (m : SMap α) (k i : Nat) {f : α → α} {g : α → β} (h : ∀ x, g (f x) = g x) :
    (mapGet (mapModify m k f) i).map g = (mapGet m i).map g := by
  by_cases hi : i = k
  · rw [hi, mapGet_mapModify_same, Option.map_map]
    exact congrArg (Option.map · _) (funext h)
  · rw [mapGet_mapModify_other m f hi]

theorem modPart_commitsKept (s : State) (p : Nat) {f : Partition → Partition} (hf : ∀ y, (f y).tally = y.tally) :
    CommitsKept s (modPart s p f) := ⟨fun i => mapGet_mapModify_map s.partitions p i hf, fun _ => rfl, fun _ => rfl⟩

theorem modFunc_commitsKept (s : State) (n : Nat) {f : Func → Func} (hf : ∀ g, (f g).flush = g.flush) : CommitsKept s (modFunc s n f) :=
  ⟨fun _ => rfl, fun i => mapGet_mapModify_map s.funcs n i hf, fun _ => rfl⟩

theorem modQueue_commitsKept (s : State) (q : Nat) {f : Queue → Queue} (hf : ∀ x, (f x).tally = x.tally) : CommitsKept s (modQueue s q f) :=
  ⟨fun _ => rfl, fun _ => rfl, fun i => mapGet_mapModify_map s.queues q i hf⟩

theorem modJob_commitsKept (s : State) (p : Nat) (f : Job → Job) : CommitsKept s (modJob s p f) := modPart_commitsKept _ _ fun _ => rfl

theorem modObject_commitsKept (s : State) (p obj : Nat) (f : TieredObject → TieredObject) : CommitsKept s (modObject s p obj f) :=
  modPart_commitsKept _ _ fun _ => rfl

theorem modMig_commitsKept (s : State) (p obj page : Nat) (f : Migration → Migration) : CommitsKept s (modMig s p obj page f) :=
  modPart_commitsKept _ _ fun _ => rfl

theorem putMapEntry_commitsKept (s : State) (o : TieredObject) (page frame : Nat) (st : PageState) (gen : Nat) :
    CommitsKept s (putMapEntry s o page frame st gen) := .of_eq rfl rfl rfl

theorem sendMsix_commitsKept (s : State) (fn entry : Nat) : CommitsKept s (sendMsix s fn entry) := by
  unfold sendMsix
  split
  · exact .refl s
  split
  · exact .ite (modFunc_commitsKept _ _ fun _ => by split <;> rfl) (.of_eq rfl rfl rfl)
  · exact .refl s

theorem sendMsi_commitsKept (s : State) (hart file ident : Nat) : CommitsKept s (sendMsi s hart file ident) :=
  .of_eq (by simp) (by simp) (by simp)

theorem journalWrite_commitsKept (s : State) (p ty : Nat) (body : List Byte) : CommitsKept s (journalWrite s p ty body) := by
  unfold journalWrite
  split
  · exact .refl s
  dsimp only
  split
  · exact .refl s
  refine CommitsKept.trans (CommitsKept.trans ?_ (moduleWrite_memOnly ..).commitsKept) (modPart_commitsKept _ _ fun _ => rfl)
  split
  · exact (moduleWrite_memOnly ..).commitsKept
  · exact ((moduleWrite_memOnly ..).trans (moduleWrite_memOnly ..)).commitsKept

theorem patchJournal_commitsKept (s : State) (c : Cmd) (seq : Nat) : CommitsKept s (patchJournal s c seq) :=
  .ite (.refl s) (moduleWrite_memOnly ..).commitsKept

theorem writeCompletion_commitsKept (s : State) (q pos status result flags seq rccModule rccIndex rccTarget : Nat) :
    CommitsKept s (writeCompletion s q pos status result flags seq rccModule rccIndex rccTarget) := by
  unfold writeCompletion
  split
  · exact .refl s
  refine .ite (.refl s) ?_
  have counted (a : Nat) (bs : List Byte) : CommitsKept s (modQueue (moduleWrite s a bs) q (fun y => { y with records := y.records + 1 })) :=
    (moduleWrite_memOnly ..).commitsKept.trans (modQueue_commitsKept _ _ fun _ => rfl)
  exact .ite ((counted ..).trans (sendMsi_commitsKept ..)) (.ite (counted ..) ((counted ..).trans (sendMsix_commitsKept ..)))

/-! #### What the end of a chunk starts -/

theorem switchMapping_commitsKept (s : State) (p idx : Nat) (rebalance : Bool) (pm : Nat) :
    CommitsKept s (switchMapping s p idx rebalance pm) := by
  unfold switchMapping
  split
  · exact .refl s
  refine CommitsKept.trans ?_ (modJob_commitsKept ..)
  split
  · exact .refl s
  split
  · exact .refl s
  exact .foldl (fun t x => .ite (.refl t) ((modJob_commitsKept ..).trans (journalWrite_commitsKept ..))) _ s

theorem closeWindow_commitsKept (s : State) (p : Nat) : CommitsKept s (closeWindow s p) := by
  unfold closeWindow
  split
  · exact .refl s
  split
  · exact .refl s
  exact .ite (.refl s) ((modJob_commitsKept ..).trans (switchMapping_commitsKept ..))

theorem queueMig_commitsKept (s : State) (p : Nat) (r : MigRequest) : CommitsKept s (queueMig s p r) := modPart_commitsKept _ _ fun _ => rfl

theorem beginDemotion_commitsKept (s : State) (p obj page : Nat) (src : MigSource) : CommitsKept s (beginDemotion s p obj page src) := by
  unfold beginDemotion
  split
  · exact .refl s
  split
  · exact (putMapEntry_commitsKept ..).trans (modPart_commitsKept _ _ (by intro; rfl))
  · exact .refl s

theorem promoteInto_commitsKept (s : State) (p obj page frame : Nat) : CommitsKept s (promoteInto s p obj page frame) := by
  unfold promoteInto
  split
  · exact .refl s
  · exact ((modObject_commitsKept ..).trans (putMapEntry_commitsKept ..)).trans (modMig_commitsKept ..)

theorem startMigration_commitsKept (s : State) (p obj page : Nat) (dir : MigDir) (src : MigSource) :
    CommitsKept s (startMigration s p obj page dir src).2 := by
  have queued (r : MigRequest) : CommitsKept s (queueMig s p r) := queueMig_commitsKept ..
  have entered (m : Migration) : CommitsKept s (modPart s p (fun y => { y with migs := y.migs ++ [m] })) :=
    modPart_commitsKept _ _ fun _ => rfl
  unfold startMigration
  split
  case h_2 => exact .refl s
  split
  case h_1 =>
    split
    · exact .refl s
    · exact queued _
  split
  · exact .refl s
  split
  · exact .refl s
  cases dir with
  | promote =>
    dsimp only
    split
    · exact .refl s
    split
    · exact .refl s
    split
    · exact (entered _).trans (promoteInto_commitsKept ..)
    split
    · exact .refl s
    split
    · exact .refl s
    · exact (entered _).trans (beginDemotion_commitsKept ..)
  | demote =>
    dsimp only
    split
    · exact .refl s
    split
    · exact queued _
    split
    · exact .refl s
    · exact beginDemotion_commitsKept ..

theorem offloadPages_commitsKept (s : State) (p : Nat) (o : OpenStep) (x : Chunk) (dir : MigDir) :
    CommitsKept s (offloadPages s p o x dir) := by
  refine .foldl (fun t e => ?_) _ s
  split
  · exact .refl t
  next object _ =>
    refine .foldl (fun u k => ?_) _ t
    have started := startMigration_commitsKept u p e.2.2 ((e.1 + x.i * e.2.1 - object.base) / 65536 + k) dir .offload
    split
    next heq =>
      rw [heq] at started
      exact started.trans (queueMig_commitsKept ..)
    next heq =>
      rw [heq] at started
      exact started

theorem chunkDone_commitsKept (s : State) (p : Nat) (c : Cmd) : CommitsKept s (chunkDone s p c) := by
  unfold chunkDone
  split
  · exact .refl s
  split
  · exact .refl s
  refine .ite (.refl s) (CommitsKept.trans (.ite (modJob_commitsKept ..) ?_) (closeWindow_commitsKept ..))
  exact CommitsKept.trans (.ite ((modJob_commitsKept ..).trans (offloadPages_commitsKept ..)) (modJob_commitsKept ..))
    (.foldl (fun t y => offloadPages_commitsKept ..) _ _)

end Sys2Proof.Machine
end

section
/-! ### The commit of a command without cores (R409) -/

namespace Sys2Proof.Machine

variable {s : State} {q p : Nat} {c : Cmd}

/-- What a commit counts and takes out of the queue. -/
def counted (u : State) (q p : Nat) (c : Cmd) (seq : Nat) : State :=
  removeCmd (modFunc (patchJournal (modPart (account u q c true) p (fun y => { y with commitSeq := y.commitSeq + 1 })) c seq) p
    (fun f => { f with flush := f.flush + 1 })) q c.pos

/-- A value of the changed entry, by what the change does to the value. -/
theorem mapGet_mapModify_value {α β : Type} (m : SMap α) (k : Nat) {f : α → α} {g : α → β} {h : β → β} (hgf : ∀ x, g (f x) = h (g x)) :
    (mapGet (mapModify m k f) k).map g = ((mapGet m k).map g).map h := by
  rw [mapGet_mapModify_same, Option.map_map, Option.map_map]
  exact congrArg (Option.map · _) (funext hgf)

theorem tally_modPart (s : State) (p : Nat) {f : Partition → Partition} {h : Word64 × SMap Word64 → Word64 × SMap Word64}
    (hf : ∀ y, (f y).tally = h y.tally) : (partAt (modPart s p f) p).map (·.tally) = ((partAt s p).map (·.tally)).map h :=
  mapGet_mapModify_value s.partitions p hf

theorem tally_modQueue (s : State) (q : Nat) {f : Queue → Queue} {h : List Cmd × Word64 × Word64 → List Cmd × Word64 × Word64}
    (hf : ∀ x, (f x).tally = h x.tally) : (queueAt (modQueue s q f) q).map (·.tally) = ((queueAt s q).map (·.tally)).map h :=
  mapGet_mapModify_value s.queues q hf

theorem flush_modFunc (s : State) (n : Nat) {f : Func → Func} {h : Word64 → Word64} (hf : ∀ g, (f g).flush = h g.flush) :
    (funcAt (modFunc s n f) n).map (·.flush) = ((funcAt s n).map (·.flush)).map h := mapGet_mapModify_value s.funcs n hf

theorem partAt_counted (u : State) (q p : Nat) (c : Cmd) (seq : Nat) :
    (partAt (counted u q p c seq) p).map (·.tally) = ((partAt u p).map (·.tally)).map (fun e => (e.1 + 1, e.2)) :=
  ((patchJournal_commitsKept _ c seq).parts p).trans (tally_modPart _ p (h := fun e => (e.1 + 1, e.2)) fun _ => rfl)

theorem flush_counted (u : State) (q p : Nat) (c : Cmd) (seq : Nat) :
    (funcAt (counted u q p c seq) p).map (·.flush) = ((funcAt u p).map (·.flush)).map (· + 1) :=
  (flush_modFunc _ p (h := (· + 1)) fun _ => rfl).trans (congrArg (Option.map _) ((patchJournal_commitsKept _ c seq).flush p))

theorem queueAt_counted (u : State) (q p : Nat) (c : Cmd) (seq : Nat) :
    (queueAt (counted u q p c seq) q).map (·.tally)
      = ((queueAt u q).map (·.tally)).map (fun e => (e.1.filter (fun d => d.pos != c.pos), e.2.1 + 1, e.2.2)) := by
  have haccount : (queueAt (account u q c true) q).map (·.tally) = ((queueAt u q).map (·.tally)).map (fun e => (e.1, e.2.1 + 1, e.2.2)) :=
    tally_modQueue { u with free := u.free + 1 } q fun _ => rfl
  have hkept := (patchJournal_commitsKept (modPart (account u q c true) p fun y => { y with commitSeq := y.commitSeq + 1 }) c seq).queues q
  refine (tally_modQueue _ q (h := fun e => (e.1.filter (fun d => d.pos != c.pos), e.2)) fun _ => rfl).trans ?_
  exact (congrArg (Option.map _) (hkept.trans haccount)).trans (Option.map_map ..)

/-- The state a commit starts from: slots released, a SIGNAL's counter written. -/
def beforeCommit (s : State) (q p : Nat) (c : Cmd) : State :=
  if c.opcode = 0x11 then applySignal (releaseSlots s p c.bufs) p q c else releaseSlots s p c.bufs

/-- What a commit that is neither of a step nor of a ring does: it counts, and then its record and its chunk change nothing counted. -/
theorem commitRest_kept (h0A : c.opcode ≠ 0x0A) (h0B : c.opcode ≠ 0x0B) (h5 : c.opcode ≠ 5) (s : State) (q p : Nat) :
    ∃ seq, CommitsKept (counted (beforeCommit s q p c) q p c seq) (commitRest s q p c) := by
  have hremote (t : State) : remotePart t p c = none := if_neg fun h => h5 h.1
  have hplain : ¬ (c.opcode = 0x0A ∨ c.opcode = 0x0B) := not_or.mpr ⟨h0A, h0B⟩
  have hend (t : State) (st result flags seq a b d : Nat) : CommitsKept t (chunkDone (writeCompletion t q c.pos st result flags seq a b d) p c) :=
    (writeCompletion_commitsKept ..).trans (chunkDone_commitsKept ..)
  refine ⟨(((partAt (account (beforeCommit s q p c) q c true) p).map fun y : Partition => y.commitSeq).getD 0).toNat, ?_⟩
  unfold commitRest counted
  by_cases hsignal : c.opcode = 0x11
  · simp only [beforeCommit, hsignal, if_true, if_neg (hsignal ▸ hplain), hremote, countRemote]
    exact hend ..
  · simp only [beforeCommit, hsignal, if_false, if_neg hplain, hremote, countRemote]
    exact hend ..

/-! #### Slots released and a SIGNAL's counter -/

theorem releaseSlots_memOnly (s : State) (fn : Nat) (bufs : List Buf) : MemOnly s (releaseSlots s fn bufs) := by
  refine MemOnly.foldl (fun t b => ?_) bufs s
  split
  · split
    · exact .ite (cohWrite_memOnly ..) (.refl t)
    · exact .refl t
  · exact .refl t

/-- A SIGNAL sets its counter, and beside that writes memory at most (R382). -/
theorem applySignal_memOnly (s : State) (p q : Nat) (c : Cmd) :
    MemOnly (modPart s p (fun y => { y with signals := mapSet y.signals (c.field 0x20 2) (signalValue s p c) })) (applySignal s p q c) := by
  unfold applySignal
  refine .ite (.refl _) ?_
  split
  · exact writePieces_memOnly ..
  · exact .refl _

theorem signalValue_congr {s t : State} (h : t.partitions = s.partitions) (p : Nat) (c : Cmd) : signalValue t p c = signalValue s p c := by
  simp only [signalValue, signalAt, partAt_congr h]

theorem beforeCommit_funcs (s : State) (q p : Nat) (c : Cmd) : (beforeCommit s q p c).funcs = s.funcs := by
  unfold beforeCommit
  split
  · exact (applySignal_memOnly ..).funcs.trans (releaseSlots_memOnly ..).funcs
  · exact (releaseSlots_memOnly ..).funcs

theorem beforeCommit_queues (s : State) (q p : Nat) (c : Cmd) : (beforeCommit s q p c).queues = s.queues := by
  unfold beforeCommit
  split <;> simp

variable {y : Partition}

/-- The partition of a SIGNAL as its commit starts. -/
theorem partAt_beforeCommit_signal (hy : partAt s p = some y) (hop : c.opcode = 0x11) (q : Nat) :
    partAt (beforeCommit s q p c) p = some { y with signals := mapSet y.signals (c.field 0x20 2) (signalValue s p c) } := by
  have hkept := (releaseSlots_memOnly s p c.bufs).partitions
  rw [beforeCommit, if_pos hop, partAt_congr (applySignal_memOnly ..).partitions, partAt_modPart_same, partAt_congr hkept, hy, Option.map_some,
    signalValue_congr hkept]

theorem partAt_beforeCommit_other (hy : partAt s p = some y) (hop : c.opcode ≠ 0x11) (q : Nat) : partAt (beforeCommit s q p c) p = some y := by
  rw [beforeCommit, if_neg hop, partAt_congr (releaseSlots_memOnly ..).partitions, hy]

theorem commitSeq_beforeCommit (hy : partAt s p = some y) (q : Nat) (c : Cmd) :
    ∃ z, partAt (beforeCommit s q p c) p = some z ∧ z.commitSeq = y.commitSeq := by
  by_cases hop : c.opcode = 0x11
  · exact ⟨_, partAt_beforeCommit_signal hy hop q, rfl⟩
  · exact ⟨y, partAt_beforeCommit_other hy hop q, rfl⟩

/-! #### The commit -/

section
variable {t : State} {seq : Nat} (hkept : CommitsKept (counted (beforeCommit s q p c) q p c seq) t)
include hkept

theorem tally_committed {z : Partition} (hz : partAt (beforeCommit s q p c) p = some z) :
    (partAt t p).map (·.tally) = some (z.commitSeq + 1, z.signals) := by
  rw [hkept.parts, partAt_counted, hz]
  rfl

theorem queueAt_committed {x : Queue} (hx : queueAt s q = some x) :
    (queueAt t q).map (·.tally) = some (x.cmds.filter (fun d => d.pos != c.pos), x.accCommits + 1, x.accEnded) := by
  rw [hkept.queues, queueAt_counted, queueAt, beforeCommit_queues, ← queueAt, hx]
  rfl

theorem commitSeq_committed {z : Partition} (hz : partAt (beforeCommit s q p c) p = some z) :
    (partAt t p).map (·.commitSeq) = some (z.commitSeq + 1) :=
  (Option.map_map Prod.fst Partition.tally _).symm.trans (congrArg (Option.map Prod.fst) (tally_committed hkept hz))

theorem signal_committed {z : Partition} {k : Nat} {v : Word64} (hz : partAt (beforeCommit s q p c) p = some { z with signals := mapSet z.signals k v }) :
    (partAt t p).map (fun w => mapGet w.signals k) = some (some v) := by
  rw [← mapGet_mapSet_same z.signals k v]
  exact (Option.map_map (fun e => mapGet e.2 k) Partition.tally _).symm.trans (congrArg (Option.map _) (tally_committed hkept hz))

theorem counts_committed {x : Queue} (hx : queueAt s q = some x) :
    (queueAt t q).map (fun w => (w.accCommits, w.accEnded)) = some (x.accCommits + 1, x.accEnded) :=
  (Option.map_map Prod.snd Queue.tally _).symm.trans (congrArg (Option.map Prod.snd) (queueAt_committed hkept hx))

theorem flush_committed {f : Func} (hf : funcAt s p = some f) : (funcAt t p).map (·.flush) = some (f.flush + 1) := by
  rw [hkept.flush, flush_counted, funcAt_congr (beforeCommit_funcs ..), hf]
  rfl

theorem cmdAt_committed {x : Queue} (hx : queueAt s q = some x) : cmdAt t q c.pos = none := by
  obtain ⟨z, hz, htally⟩ := Option.map_eq_some_iff.mp (queueAt_committed hkept hx)
  have hcmds : z.cmds = x.cmds.filter (fun d => d.pos != c.pos) := congrArg Prod.fst htally
  rw [cmdAt, hz, Option.bind_some, hcmds, List.find?_eq_none]
  intro d hd
  have hother := (List.mem_filter.mp hd).2
  simpa using hother

end

/-- A finished command without cores that nothing holds back commits. -/
theorem exec_commandCommit {q : BitVec 12} {pos : BitVec 32} {x : Queue} (hx : queueAt s q.toNat = some x)
    (hc : cmdAt s q.toNat c.pos = some c) (hpos : pos.toNat = c.pos) (hphase : c.phase = .finished) (hheld : commitHeld s x c = false)
    (hcores : c.cores = []) (hchunk : chunkHolds s x.partition c false = false) (hold : c.opcode = 0x11 → isOldest x c.pos = true) :
    exec (.commandCommit q pos) s = .next (commitRest s q.toNat x.partition c) := by
  have hfree : ¬ (c.phase ≠ .finished ∨ commitHeld s x c = true ∨ chunkHolds s x.partition c false = true
      ∨ (c.opcode = 0x11 ∧ (!isOldest x c.pos) = true)) := by
    rintro (h | h | h | ⟨hop, h⟩)
    · exact h hphase
    · exact Bool.false_ne_true (hheld.symm.trans h)
    · exact Bool.false_ne_true (hchunk.symm.trans h)
    · rw [hold hop] at h
      exact Bool.false_ne_true h
  have hspills : spillsPending s [] = false := List.any_eq_false.mpr fun _ _ => Bool.false_ne_true
  show execCommandCommit q pos s = _
  simp only [execCommandCommit, hx, hpos, hc, hcores, List.any_nil, Bool.or_self, hfree, Bool.false_eq_true, false_and, if_false, hspills,
    List.foldl_nil, Option.getD_some]

end Sys2Proof.Machine
end

section
/-! ### Admission, commit and preemption of a command (R408, R409, R413) -/

namespace Sys2Proof.Machine

variable {s : State} {x : Queue} {y : Partition} {c : Cmd}

/-! #### Admission -/

section
variable {q p : Nat}

/-- The command once it is admitted. -/
def Cmd.admitted (d : Cmd) (bufs : List Buf) (cores : List Nat) (order : Nat) (now : Word64) (journalAt : Nat) : Cmd :=
  { d with phase := .admitted, bufs := bufs, cores := cores, order := order, admittedAt := now, journalAt := journalAt }

/-- From s to t a command is admitted in its place of the partition's order, and memory stays as it is. -/
def Admitted (s t : State) (p q : Nat) (c : Cmd) (y : Partition) (bufs : List Buf) (cores : List Nat) : Prop :=
  t.mem = s.mem ∧ t.hostMem = s.hostMem
  ∧ (cmdAt t q c.pos).map (fun d => (d.phase, d.bufs, d.cores, d.order, d.admittedAt)) = some (.admitted, bufs, cores, y.admitted, aonNow s)
  ∧ (partAt t p).map (·.admitted) = some (y.admitted + 1)

theorem Admitted.modJob {t : State} {bufs : List Buf} {cores : List Nat} (h : Admitted s t p q c y bufs cores) (f : Job → Job) :
    Admitted s (modJob t p f) p q c y bufs cores := by
  obtain ⟨hmem, hhost, hcmd, hpart⟩ := h
  refine ⟨hmem, hhost, hcmd, ?_⟩
  rw [Machine.modJob, partAt_modPart_same, Option.map_map]
  exact hpart

section
variable (hoff : ∀ y, partAt s p = some y → y.journal.enable = 0)
include hoff

theorem writeSnapshot_off : writeSnapshot s p = s := by
  unfold writeSnapshot
  split
  · rfl
  next z hz => exact if_pos (.inl (hoff z hz))

theorem journalAdmission_off (q : Nat) (c : Cmd) (order : Nat) (bufs : List Buf) : (journalAdmission s p q c order bufs).1 = s := by
  unfold journalAdmission
  rw [journalWrite_silent hoff]
  have hpiece (l : List (Nat × Nat)) : l.foldl (fun u e => journalInput u p e.1 e.2) s = s :=
    List.foldl_fixed' (fun e => journalInput_off hoff e.1 e.2) l
  have hbufs (l : List Buf) :
      l.foldl (fun t b => ((rangePieces t p (queuePasid t q) false b.addr b.bytes).getD []).foldl (fun u e => journalInput u p e.1 e.2) t) s = s :=
    List.foldl_fixed' (by intro b; exact hpiece _) l
  exact hbufs _

/-- A command whose partition keeps no journal is admitted. -/
theorem admitCmd_off (hy : partAt s p = some y) (hc : (cmdAt s q c.pos).isSome = true) (bufs : List Buf) (cores : List Nat) :
    Admitted s (admitCmd s p q c bufs cores) p q c y bufs cores := by
  obtain ⟨d, hd⟩ := Option.isSome_iff_exists.mp hc
  have hsnapshot : (if c.opcode = 9 then writeSnapshot s p else s) = s := by rw [writeSnapshot_off hoff, ite_self]
  unfold admitCmd
  simp only [hsnapshot, hy, Option.map_some, Option.getD_some, journalAdmission_off hoff]
  generalize (journalAdmission s p q c y.admitted bufs).2 = journalAt
  have hadmitted : Admitted s (modCmd (modPart s p fun z => { z with admitted := z.admitted + 1, journal := { z.journal with waiting := false } })
      q c.pos fun e => e.admitted bufs cores y.admitted (aonNow s) journalAt)
      p q c y bufs cores := by
    refine ⟨rfl, rfl, ?_, ?_⟩
    · have hcmd := cmdAt_modCmd_same (modPart s p fun z => { z with admitted := z.admitted + 1, journal := { z.journal with waiting := false } })
        q c.pos (f := fun e => e.admitted bufs cores y.admitted (aonNow s) journalAt) fun _ => rfl
      rw [hcmd, show cmdAt (modPart s p _) q c.pos = some d from hd]
      rfl
    · exact congrArg _ (partAt_modPart_some hy _)
  split
  · exact hadmitted.modJob _
  · exact hadmitted
end

end

/-- The head of a queue that asks for nothing it may not have gets to its declaration. -/
theorem exec_commandAdmission {q : BitVec 12} (hx : queueAt s q.toNat = some x) (hy : partAt s x.partition = some y) (hhead : headCmd x = some c)
    (hserving : inService s = true) (henabled : x.state ≠ .disabled) (hfence : behindFence x = false)
    (hreplay : replayInputs s x.partition = false) (hdecaf : s.fault.decaf = none ∨ decafRuns c.opcode = true) (hdesc : descriptorOk c = true)
    (hjournal : y.journal.enable = 0) (hop : c.opcode ≠ 0x0A) (hbufs : c.field 0x18 2 = 0) :
    exec (.commandAdmission q) s = .next (admitWith s q.toNat x.partition x c []) := by
  have hruns : ¬ (s.fault.decaf.isSome = true ∧ (!decafRuns c.opcode) = true) := by
    rintro ⟨hin, hno⟩
    rcases hdecaf with hout | hyes
    · rw [hout] at hin
      exact Bool.false_ne_true hin
    · rw [hyes] at hno
      exact Bool.false_ne_true hno
  show execCommandAdmission q s = _
  simp only [execCommandAdmission, hx, hhead, hserving, henabled, hfence, hreplay, hruns, hdesc, hy, hjournal, hop, hbufs, Bool.not_true,
    Bool.false_eq_true, ne_eq, not_true_eq_false, false_and, or_self, if_false, if_true]

section
variable {q p : Nat} {bufs : List Buf} {cores : List Nat} {ds : List (Bool × Nat × Nat)}

/-- A declaration that is the command's own, and that nothing meets, is admitted. -/
theorem admitWith_admits (hdecl : cmdDecl s p x c [] = (bufs, cores, ds)) (htag : tagStatus s p q c = none) (hstep : stepWaits s p c ds = false)
    (hcode : noCode s c.opcode = false) (hcheck : cores.any (checkpointHolds s) = false)
    (hprogram : c.opcode = 1 → programOk x c = true ∧ (c.phaseTag = 0 → cores.any (fun k => decide (8192 ≤ k) || coreOwner s k != p) = false))
    (hcluster : cores.any (clusterDisabled s) = false) (hranges : bufs.all (fun b => (bufRanges s p x.pasid b).isSome) = true)
    (hself : selfConflict ds = false)
    (heval : c.phaseTag = 4 → ds.any (fun d => d.1 && (evalForbidden s p).any (rangesMeet d.2)) = false)
    (hmeets : admissionConflict s p q c.pos ds = false) (hchunk : earlierChunkReady s p q c = false)
    (hawake : cores.any (fun k => !domainRuns s (coreDomain k)) = false) (hslots : slotsOwned s p bufs = true) :
    admitWith s q p x c [] = admitCmd s p q c bufs cores := by
  have hcores : ¬ ((c.opcode = 1 ∧ c.phaseTag = 0 ∧ cores.any (fun k => decide (8192 ≤ k) || coreOwner s k != p) = true)
      ∨ (c.opcode = 1 ∧ (!programOk x c) = true)) := by
    rintro (⟨hop, hphase, hbad⟩ | ⟨hop, hbad⟩)
    · exact Bool.false_ne_true (((hprogram hop).2 hphase).symm.trans hbad)
    · rw [(hprogram hop).1] at hbad
      exact Bool.false_ne_true hbad
  have hmapped : bufs.find? (fun b => (bufRanges s p x.pasid b).isNone) = none := by
    refine List.find?_eq_none.mpr fun b hb hnone => ?_
    have hsome := List.all_eq_true.mp hranges b hb
    rw [Option.isNone_iff_eq_none.mp hnone] at hsome
    exact Bool.false_ne_true hsome
  have hallowed : ¬ (c.phaseTag = 4 ∧ ds.any (fun d => d.1 && (evalForbidden s p).any (rangesMeet d.2)) = true) :=
    fun ⟨hphase, hbad⟩ => Bool.false_ne_true ((heval hphase).symm.trans hbad)
  unfold admitWith
  simp only [hdecl, htag, hstep, hcode, hcheck, Bool.false_eq_true, or_self, if_false, hcores, hcluster, hmapped, hself, hallowed, hmeets, hchunk,
    hawake, hslots, Bool.not_true]
end

theorem isSome_cmdAt_of_head {q : Nat} (hx : queueAt s q = some x) (hhead : headCmd x = some c) : (cmdAt s q c.pos).isSome = true := by
  rw [cmdAt, hx, Option.bind_some]
  exact List.find?_isSome.mpr ⟨c, List.mem_of_find?_eq_some hhead, beq_self_eq_true _⟩

/-! #### Preemption -/

/-- A core that runs nothing. -/
def Core.Stopped (z : Core) : Prop := z.wait = .none ∧ z.engine.insts = [] ∧ z.dmas = []

theorem killCore_stops (s : State) (k : Nat) : (coreAt (killCore s k) k).Stopped := by
  rw [killCore, coreAt_modCore_same]
  exact ⟨rfl, rfl, rfl⟩

theorem killCore_stopped (k : Nat) {i : Nat} (h : (coreAt s i).Stopped) : (coreAt (killCore s k) i).Stopped := by
  by_cases hi : i = k
  · rw [hi]
    exact killCore_stops s k
  · rwa [killCore, coreAt_modCore_other _ _ hi]

theorem killCores_stopped (l : List Nat) {i : Nat} (h : (coreAt s i).Stopped) : (coreAt (l.foldl killCore s) i).Stopped := by
  induction l generalizing s with
  | nil => exact h
  | cons k l ih => exact ih (killCore_stopped k h)

theorem killCores_stops {l : List Nat} {i : Nat} (h : i ∈ l) (s : State) : (coreAt (l.foldl killCore s) i).Stopped := by
  induction l generalizing s with
  | nil => exact absurd h List.not_mem_nil
  | cons k l ih =>
    rcases List.mem_cons.mp h with rfl | h
    · exact killCores_stopped l (killCore_stops s i)
    · exact ih h _

theorem killCores_queues (l : List Nat) (s : State) : (l.foldl killCore s).queues = s.queues := by
  refine foldl_read (·.queues) (fun t k => ?_) l s
  rfl

theorem journalOutcome_leaves (s : State) (p sub : Nat) (fields : List Byte) :
    (journalOutcome s p sub fields).queues = s.queues ∧ (journalOutcome s p sub fields).cores = s.cores := by
  rw [journalOutcome]
  obtain ⟨u, f, hu, h | h⟩ := journalWrite_reaches s p 0x09 (natToBytes 1 sub ++ fields) <;> rw [h] <;> exact ⟨hu.queues, hu.cores⟩

/-- The command once its run is taken from it. -/
def Cmd.preempt (d : Cmd) (used now : Word64) : Cmd :=
  { d with kills := d.kills + 1, begun := false, engine := d.engine + used, killed := d.killed + used, admittedAt := now }

/-- The state after a run of a command was killed. -/
def preempted (s : State) (q p : Nat) (c : Cmd) : State :=
  journalOutcome (modCmd (dropHolds (c.cores.foldl killCore s) q c.pos) q c.pos fun d => d.preempt (runUsage s c) (aonNow s)) p 5
    (natToBytes 2 q ++ natToBytes 4 c.pos)

theorem cmdAt_preempted {q : Nat} (hc : cmdAt s q c.pos = some c) (p : Nat) :
    cmdAt (preempted s q p c) q c.pos = some (c.preempt (runUsage s c) (aonNow s)) := by
  have hqueues (t u : State) (h : t.queues = u.queues) : cmdAt t q c.pos = cmdAt u q c.pos := by simp only [cmdAt, queueAt, h]
  rw [preempted, hqueues _ _ (journalOutcome_leaves ..).1, cmdAt_modCmd_same]
  · rw [hqueues (dropHolds _ q c.pos) s (killCores_queues c.cores s), hc, Option.map_some]
  · exact fun _ => rfl

theorem coreAt_preempted (q p : Nat) {k : Nat} (hk : k ∈ c.cores) : (coreAt (preempted s q p c) k).Stopped := by
  rw [preempted, coreAt, (journalOutcome_leaves ..).2]
  exact killCores_stops hk s

theorem exec_slicePreemption {q : BitVec 12} {pos : BitVec 32} (hx : queueAt s q.toNat = some x) (hy : partAt s x.partition = some y)
    (hc : cmdAt s q.toNat pos.toNat = some c) (hphase : c.phase = .admitted) (hcore : isCoreCmd c.opcode = true) (hbegun : c.begun = true)
    (hkills : c.kills < 7) (hslice : sliceOf y x c ≤ aonSince s c.sliceStart) (hwanted : coreWanted s x.partition q.toNat c = true) :
    exec (.slicePreemption q pos) s = .next (preempted s q.toNat x.partition c) := by
  have hover : c.phase = .admitted ∧ isCoreCmd c.opcode = true ∧ c.begun = true ∧ c.kills < 7 ∧ sliceOf y x c ≤ aonSince s c.sliceStart
      ∧ coreWanted s x.partition q.toNat c = true := ⟨hphase, hcore, hbegun, hkills, hslice, hwanted⟩
  show execSlicePreemption q pos s = _
  simp only [execSlicePreemption, hx, hc, hy]
  exact if_pos hover

/-- Settles O36: the clear way of a head to its admission, of a finished command to its commit, and of a run to its end. -/
theorem admissionCommitPreemption : Obligations.AdmissionCommitPreemption := by
  unfold Obligations.AdmissionCommitPreemption
  intro s q x c y qn p hx hy
  refine ⟨?_, ?_, ?_⟩
  · intro bufs cores ds hserving hhead henabled hfence hreplay hdecaf hdesc hjournal hop hbufs hdecl htag hstep hcode hcheck hprogram hcluster
      hranges hself heval hmeets hchunk hawake hslots
    have hoff : ∀ z, partAt s p = some z → z.journal.enable = 0 := fun z hz => Option.some.inj (hy.symm.trans hz) ▸ hjournal
    refine ⟨_, (exec_commandAdmission hx hy hhead hserving henabled hfence hreplay hdecaf hdesc hjournal hop hbufs).trans
      (congrArg Host.Outcome.next (admitWith_admits hdecl htag hstep hcode hcheck hprogram hcluster hranges hself heval hmeets hchunk hawake hslots)),
      admitCmd_off hoff hy (isSome_cmdAt_of_head hx hhead) bufs cores⟩
  · intro f hc hf hphase hheld hcores hchunk h0A h0B h5 hold pos hpos
    obtain ⟨seq, hkept⟩ := commitRest_kept h0A h0B h5 s qn p
    obtain ⟨z, hz, hseq⟩ := commitSeq_beforeCommit hy qn c
    refine ⟨_, exec_commandCommit hx hc hpos hphase hheld hcores hchunk hold, cmdAt_committed hkept hx, ?_, flush_committed hkept hf, ?_, ?_⟩
    · rw [commitSeq_committed hkept hz, hseq]
    · exact counts_committed hkept hx
    · intro hop _
      exact signal_committed hkept (partAt_beforeCommit_signal hy hop qn)
  · intro pos hc hpos hphase hcore hbegun hkills hslice hwanted
    rw [← hpos] at hc
    have hc' := cmdAt_preempted hc p
    refine ⟨_, exec_slicePreemption hx hy (hpos ▸ hc) hphase hcore hbegun hkills hslice hwanted, ?_, fun k hk => coreAt_preempted qn p hk⟩
    rw [hc', Option.map_some, Cmd.preempt, hphase]

end Sys2Proof.Machine
end
